-- ==== Sys2Proof/Word.lean ====
section
/-! DEFINITION. The words of the machine and the names that the fields of an instruction word
can hold (R24 to R30, R38, R52, R105, R164, R366). Register contents, addresses and fields of an encoding are bit
vectors; an operand code, a condition, a scope, a type is one constructor each. -/

namespace Sys2Proof

/-- One byte. -/
abbrev Byte := BitVec 8
/-- A 32-bit word: an instruction word (R24), a register (R43). -/
abbrev Word := BitVec 32
/-- A 64-bit value: a pair, an address, a latch (R30, R47). -/
abbrev DWord := BitVec 64
/-- One bit per thread of a wave, thread `t` at bit `t` (R43). -/
abbrev Mask := BitVec 32

/-- A vector-class operand code as a source (R26). -/
inductive VOp where
  | w (k : Fin 96)
  | o (k : Fin 8)
  | h (k : Fin 4)
  | s (k : Fin 16)
  | z
  | ix
  | imm
deriving DecidableEq, Repr

/-- A vector-class operand code as a destination (R26). -/
inductive VDst where
  | w (k : Fin 96)
  | o (k : Fin 8)
  | z
deriving DecidableEq, Repr

/-- A scalar-class operand code as a source (R27). -/
inductive SOp where
  | s (k : Fin 64)
  | z
  | imm
deriving DecidableEq, Repr

/-- A scalar-class operand code as a destination (R27). -/
inductive SDst where
  | s (k : Fin 64)
  | z
deriving DecidableEq, Repr

/-- The count or barrier number of `give`, `claim` and `bar.n`: `s0`-`s15`, `z` or `imm` (R151, R155). -/
inductive COp where
  | s (k : Fin 16)
  | z
  | imm
deriving DecidableEq, Repr

/-- The conditions of the integer compares (R96, R113). -/
inductive ICmp where
  | eq | ne | lt | le | gt | ge
deriving DecidableEq, Repr

/-- The conditions of the f32 compares (R97): `fn` 0 to 5 ordered, 6 to 11 unordered, 12 `num`, 13 `nan`. -/
inductive FCmp where
  | eq | ne | lt | le | gt | ge
  | equ | neu | ltu | leu | gtu | geu
  | num | nan
deriving DecidableEq, Repr

/-- Rounding modes (R72). `sr` is reached by `cvt` and by a format register only (R103). -/
inductive Rnd where
  | rne | rz | ru | rd | sr
deriving DecidableEq, Repr

/-- The rounding modes of the arithmetic words, fn[3:2] (R103). -/
inductive ARnd where
  | rne | rz | ru | rd
deriving DecidableEq, Repr

/-- The types of `cvt` (R105). -/
inductive NumTy where
  | u8 | i8 | u16 | i16 | u32 | i32 | u64 | i64 | f16 | bf16 | f32
deriving DecidableEq, Repr

/-- The scope field of a memory word (R38). -/
inductive Scope where
  | wv | gr | bd | die | dev | sys | devRm
deriving DecidableEq, Repr

/-- The order field of a memory word (R38). -/
inductive Order where
  | rlx | acq | rel | ar
deriving DecidableEq, Repr

/-- The operation of an atomic, off6 (R164). -/
inductive AtomOp where
  | add | minI | maxI | minU | maxU | and | or | xor | exch | cas | fadd
deriving DecidableEq, Repr

/-- The special registers GETS reads (R52). -/
inductive SReg where
  | gext (k : Fin 4)
  | gorg (k : Fin 4)
  | lext (k : Fin 4)
  | tix | wix | nwave | gord | bandix | bandn | spsize | role | core | lcore | prio
  | nsclk | qcount | wstat
deriving DecidableEq, Repr

/-- The control registers of the trap record (R366). -/
inductive Csr where
  | tcause | tmask | tkill | tpc | taddr | tword | tthr | wseg | twb | tlevel | trstk
deriving DecidableEq, Repr

/-- The M and N codes of SHAPE (R183). -/
inductive MDim where
  | d16 | d32 | d64
deriving DecidableEq, Repr

/-- The K codes of SHAPE (R183). -/
inductive KDim where
  | d16 | d32 | d64 | d128
deriving DecidableEq, Repr

/-- `MERGE` of GTOPK (R288). -/
inductive MergeKind where
  | sum | max | first
deriving DecidableEq, Repr

/-! What the event rows of the table carry. -/

/-- A wave of a group that is resident (R52). -/
structure WaveRef where
  group : Nat
  wix   : Nat
deriving DecidableEq, Repr

/-- A path slot of a wave (R43). -/
structure PathRef where
  group : Nat
  wix   : Nat
  slot  : Bool
deriving DecidableEq, Repr

/-- An access that arrives from outside: the bytes written, a number of bytes read, or an atomic (R384, R394). -/
inductive Inbound where
  | read (n : Nat)
  | write (bs : List Byte)
  | atom (op : AtomOp) (wide : Bool) (a b : DWord)
deriving DecidableEq, Repr

/-- An access that is performed apart from its word (R160, R220): the `k`th store that a wave holds back, for every agent
or for those of a scope instance only; the `k`th store that is visible in a scope instance, now for every agent; or a load
that a thread performs early, `bytes` of 1, 2, 4 or 8 as a power of two. -/
inductive LooseAccess where
  | store (k : Nat)
  | spread (k reach : Nat)
  | near (k : Nat)
  | load (thread : Nat) (addr : DWord) (bytes : Fin 4)
  | late (k : Nat)
deriving DecidableEq, Repr

/-- How the peer module answers an operation (R394, R397, R399): it takes it, refuses it (a `send` is tried again), or
denies it for good. -/
inductive PeerAnswer where
  | accepted
  | refused
  | denied
  | linkDown
deriving DecidableEq, Repr, Inhabited

/-- A unit that a die can retire (R263, R294). -/
inductive EngineUnit where
  | walker (die n : Nat)
  | streamer (cluster n : Nat)
  | stream (die n : Nat)
  | hru (die : Nat)
  | gate (die : Nat)
deriving DecidableEq, Repr

/-- What the boot ROM finds in a firmware image (R402). -/
structure FwImage where
  rsaOk   : Bool
  slhOk   : Bool
  version : Nat
deriving DecidableEq, Repr

end Sys2Proof
end

