-- ==== Sys2Proof/Machine/Format.lean ====
section
/-! DEFINITION. Operand codes and the fields of a format register as they stand in a word
(R26 to R30, R52, R66, R67, R163, R366). -/

namespace Sys2Proof

/-- The 7-bit code of a vector-class source (R26). -/
def VOp.code : VOp → BitVec 7
  | .w k => BitVec.ofNat 7 k.val
  | .o k => BitVec.ofNat 7 (0x60 + k.val)
  | .h k => BitVec.ofNat 7 (0x68 + k.val)
  | .s k => BitVec.ofNat 7 (0x6C + k.val)
  | .z => 0x7C
  | .ix => 0x7D
  | .imm => 0x7E

/-- The 7-bit code of a vector-class destination (R26). -/
def VDst.code : VDst → BitVec 7
  | .w k => BitVec.ofNat 7 k.val
  | .o k => BitVec.ofNat 7 (0x60 + k.val)
  | .z => 0x7C

/-- The 7-bit code of a scalar-class source (R27). -/
def SOp.code : SOp → BitVec 7
  | .s k => BitVec.ofNat 7 k.val
  | .z => 0x7C
  | .imm => 0x7E

/-- The 7-bit code of a scalar-class destination (R27). -/
def SDst.code : SDst → BitVec 7
  | .s k => BitVec.ofNat 7 k.val
  | .z => 0x7C

/-- The 7-bit code of a count or barrier operand (R151, R155): the codes of R26. -/
def COp.code : COp → BitVec 7
  | .s k => BitVec.ofNat 7 (0x6C + k.val)
  | .z => 0x7C
  | .imm => 0x7E

/-- A vector-class source that a 64-bit field may name (R30). -/
def VOp.even : VOp → Bool
  | .w k => k.val % 2 == 0
  | .o k => k.val % 2 == 0
  | .s k => k.val % 2 == 0
  | .h _ => true
  | .z => true
  | .ix => true
  | .imm => true

/-- A vector-class destination that a 64-bit field may name (R30). -/
def VDst.even : VDst → Bool
  | .w k => k.val % 2 == 0
  | .o k => k.val % 2 == 0
  | .z => true

/-- A scalar-class source that a 64-bit field may name (R30). -/
def SOp.even : SOp → Bool
  | .s k => k.val % 2 == 0
  | .z => true
  | .imm => true

/-- A scalar-class destination that a 64-bit field may name (R30). -/
def SDst.even : SDst → Bool
  | .s k => k.val % 2 == 0
  | .z => true

/-- A vector-class destination that names a register, of even number (R163, 32-bit `cas`). -/
def VDst.evenReg : VDst → Bool
  | .w k => k.val % 2 == 0
  | .o k => k.val % 2 == 0
  | .z => false

/-- The registers a 64-bit `cas` may name (R163): two pairs in a row. -/
def VDst.quadReg : VDst → Bool
  | .w k => k.val % 4 == 0
  | .o k => k.val % 4 == 0
  | .z => false

/-- The registers a tile row may name (R162): `w` multiples of 8 up to `w88`, or `o0`. -/
def VDst.rowReg : VDst → Bool
  | .w k => k.val % 8 == 0
  | .o k => k.val == 0
  | .z => false

/-- The types of `cvt` that take a pair (R105). -/
def NumTy.wide : NumTy → Bool
  | .u64 => true
  | .i64 => true
  | _ => false

/-- The special registers of 64 bits (R52, R114). -/
def SReg.wide : SReg → Bool
  | .nsclk => true
  | .qcount => true
  | _ => false

/-- The special registers with one value per thread (R52). -/
def SReg.perThread : SReg → Bool
  | .tix => true
  | _ => false

/-- The control registers of 64 bits (R366). -/
def Csr.wide : Csr → Bool
  | .tpc => true
  | .taddr => true
  | .trstk => true
  | _ => false

/-- The control registers that hold a field marked RW (R370). -/
def Csr.writable : Csr → Bool
  | .tcause => true
  | .tmask => true
  | .tkill => true
  | .tpc => true
  | .wseg => true
  | _ => false

/-! The fields of a format register (R66). -/

def fmtW (f : Word) : Nat := f.toNat % 16
def fmtS (f : Word) : Bool := f.getLsbD 4
def fmtE (f : Word) : Nat := f.toNat / 2 ^ 5 % 16
def fmtBias (f : Word) : Int := (f.extractLsb' 9 8).toInt
def fmtSpec (f : Word) : Nat := f.toNat / 2 ^ 17 % 4
def fmtScale (f : Word) : Nat := f.toNat / 2 ^ 19 % 4
def fmtRnd (f : Word) : Nat := f.toNat / 2 ^ 21 % 8
def fmtSat (f : Word) : Bool := f.getLsbD 24
/-- `S` as a count of bits. -/
def fmtSbit (f : Word) : Nat := if fmtS f then 1 else 0
/-- The mantissa width of a narrow format, m = W - S - E (R66). -/
def fmtM (f : Word) : Nat := fmtW f - fmtSbit f - fmtE f

/-- The values a format register may hold (R67). -/
def fmtValid (f : Word) : Bool :=
  decide (1 ≤ fmtW f) && decide (fmtW f ≤ 11) && decide (fmtScale f ≠ 3) && decide (fmtSpec f ≠ 3)
  && decide (fmtRnd f ≤ 4) && decide (f.toNat / 2 ^ 25 = 0) &&
  if fmtW f ≤ 8 then
    decide (fmtE f ≤ 8) && decide (fmtE f + fmtSbit f ≤ fmtW f)
    && (decide (fmtE f ≠ 0) || decide (fmtSpec f = 0))
    && (decide (fmtSpec f ≠ 2) || (decide (2 ≤ fmtE f) && decide (1 ≤ fmtM f)))
  else
    !fmtS f && decide (fmtE f = 0) && decide (fmtBias f = 0) && decide (fmtSpec f = 0)
    && (decide (fmtW f ≠ 11) || decide (fmtScale f = 0))

/-! The legal orders of R38. -/

/-- Loads, tile row loads and WAITA (R38). -/
def loadOrder (s : Scope) (r : Order) : Bool :=
  match r with
  | .rlx => s != .devRm
  | .acq => true
  | .rel => false
  | .ar => false

/-- Stores and tile row stores (R38). -/
def storeOrder (s : Scope) (r : Order) : Bool :=
  s != .devRm &&
  match r with
  | .rlx => true
  | .rel => true
  | .acq => false
  | .ar => false

/-- Atomics (R38). -/
def atomOrder (s : Scope) (r : Order) : Bool :=
  match r with
  | .rlx => s != .devRm
  | .rel => s != .devRm
  | .acq => true
  | .ar => true

/-- Fences (R38, R166). -/
def fenceOrder (s : Scope) (r : Order) : Bool :=
  match r with
  | .rlx => false
  | .rel => s != .devRm
  | .acq => true
  | .ar => true

/-- The data field of a 32-bit atomic (R163). -/
def atomData (o : AtomOp) (d : VDst) : Bool :=
  match o with
  | .cas => d.evenReg
  | _ => true

/-- The data field of a 64-bit atomic (R163). -/
def atomData64 (o : AtomOp) (d : VDst) : Bool :=
  match o with
  | .cas => d.quadReg
  | _ => d.even

end Sys2Proof
end

