-- ==== Sys2Proof/Syntax.lean ====
section
/-! DEFINITION. The instructions and events of the machine: one constructor per row of the opcode table.
The first 286 are instruction words (R41), with their fields as operands; the other 81 are the machine's own steps
and the outside events, with what comes from outside the model as arguments. -/

namespace Sys2Proof

inductive Instr where
  /-- `add.i32` (R91): Adds two 32-bit integers per performing thread, wrapping. -/
  | addI32 (d : VDst) (a : VOp) (b : VOp)
  /-- `sub.i32` (R91): Subtracts two 32-bit integers per performing thread, wrapping. -/
  | subI32 (d : VDst) (a : VOp) (b : VOp)
  /-- `mul.i32` (R91): Multiplies two 32-bit integers and keeps the low 32 bits. -/
  | mulI32 (d : VDst) (a : VOp) (b : VOp)
  /-- `mulhi.i32` (R91): Writes the high 32 bits of the signed 64-bit product. -/
  | mulhiI32 (d : VDst) (a : VOp) (b : VOp)
  /-- `mulhi.u32` (R91): Writes the high 32 bits of the unsigned 64-bit product. -/
  | mulhiU32 (d : VDst) (a : VOp) (b : VOp)
  /-- `adds.i32` (R91): Adds two signed 32-bit integers with saturation. -/
  | addsI32 (d : VDst) (a : VOp) (b : VOp)
  /-- `subs.i32` (R91): Subtracts two signed 32-bit integers with saturation. -/
  | subsI32 (d : VDst) (a : VOp) (b : VOp)
  /-- `adds.u32` (R91): Adds two unsigned 32-bit integers with saturation. -/
  | addsU32 (d : VDst) (a : VOp) (b : VOp)
  /-- `subs.u32` (R91): Subtracts two unsigned 32-bit integers with saturation. -/
  | subsU32 (d : VDst) (a : VOp) (b : VOp)
  /-- `min.i32` (R91): Writes the signed lesser of two 32-bit values. -/
  | minI32 (d : VDst) (a : VOp) (b : VOp)
  /-- `max.i32` (R91): Writes the signed greater of two 32-bit values. -/
  | maxI32 (d : VDst) (a : VOp) (b : VOp)
  /-- `min.u32` (R91): Writes the unsigned lesser of two 32-bit values. -/
  | minU32 (d : VDst) (a : VOp) (b : VOp)
  /-- `max.u32` (R91): Writes the unsigned greater of two 32-bit values. -/
  | maxU32 (d : VDst) (a : VOp) (b : VOp)
  /-- `abs.i32` (R91): Writes the saturated absolute value of a signed 32-bit value. -/
  | absI32 (d : VDst) (a : VOp)
  /-- `and.b32` (R94): Bitwise and of two 32-bit values. -/
  | andB32 (d : VDst) (a : VOp) (b : VOp)
  /-- `or.b32` (R94): Bitwise or of two 32-bit values. -/
  | orB32 (d : VDst) (a : VOp) (b : VOp)
  /-- `xor.b32` (R94): Bitwise exclusive or of two 32-bit values. -/
  | xorB32 (d : VDst) (a : VOp) (b : VOp)
  /-- `andn.b32` (R94): Bitwise a and not b. -/
  | andnB32 (d : VDst) (a : VOp) (b : VOp)
  /-- `shl.b32` (R94): Shifts left by a register amount, giving 0 for amounts of 32 or more. -/
  | shlB32 (d : VDst) (a : VOp) (b : VOp)
  /-- `shr.u32` (R94): Logical right shift by a register amount. -/
  | shrU32 (d : VDst) (a : VOp) (b : VOp)
  /-- `shr.i32` (R94): Arithmetic right shift by a register amount. -/
  | shrI32 (d : VDst) (a : VOp) (b : VOp)
  /-- `rotl.b32` (R94): Rotates left by the amount mod 32. -/
  | rotlB32 (d : VDst) (a : VOp) (b : VOp)
  /-- `popc.b32` (R94): Counts set bits. -/
  | popcB32 (d : VDst) (a : VOp)
  /-- `clz.b32` (R94): Counts leading zero bits. -/
  | clzB32 (d : VDst) (a : VOp)
  /-- `brev.b32` (R94): Reverses the bit order. -/
  | brevB32 (d : VDst) (a : VOp)
  /-- `not.b32` (R94): Bitwise complement. -/
  | notB32 (d : VDst) (a : VOp)
  /-- `bfe.u32` (R95): Extracts an unsigned bit field. -/
  | bfeU32 (d : VDst) (a : VOp) (b : VOp)
  /-- `bfe.i32` (R95): Extracts a sign-extended bit field. -/
  | bfeI32 (d : VDst) (a : VOp) (b : VOp)
  /-- `bfi.b32` (R95): Inserts a bit field into d. -/
  | bfiB32 (d : VDst) (a : VOp) (b : VOp)
  /-- `bsel.b32` (R95): Selects bits of a or b by the selector in d. -/
  | bselB32 (d : VDst) (a : VOp) (b : VOp)
  /-- `add.i64` (R93): Adds two 64-bit integers, wrapping. -/
  | addI64 (d : VDst) (a : VOp) (b : VOp)
  /-- `sub.i64` (R93): Subtracts two 64-bit integers, wrapping. -/
  | subI64 (d : VDst) (a : VOp) (b : VOp)
  /-- `mul.i64` (R93): Multiplies two 64-bit integers, keeping the low 64 bits. -/
  | mulI64 (d : VDst) (a : VOp) (b : VOp)
  /-- `shl.b64` (R93): Shifts a 64-bit value left. -/
  | shlB64 (d : VDst) (a : VOp) (b : VOp)
  /-- `shr.u64` (R93): Logical right shift of a 64-bit value. -/
  | shrU64 (d : VDst) (a : VOp) (b : VOp)
  /-- `shr.i64` (R93): Arithmetic right shift of a 64-bit value. -/
  | shrI64 (d : VDst) (a : VOp) (b : VOp)
  /-- `min.i64` (R93): Signed lesser of two 64-bit values. -/
  | minI64 (d : VDst) (a : VOp) (b : VOp)
  /-- `max.i64` (R93): Signed greater of two 64-bit values. -/
  | maxI64 (d : VDst) (a : VOp) (b : VOp)
  /-- `mulwide.i32` (R93): Exact signed 64-bit product of two 32-bit values. -/
  | mulwideI32 (d : VDst) (a : VOp) (b : VOp)
  /-- `mulwide.u32` (R93): Exact unsigned 64-bit product of two 32-bit values. -/
  | mulwideU32 (d : VDst) (a : VOp) (b : VOp)
  /-- `mad.i32` (R93): Computes a times b plus d in 32 bits. -/
  | madI32 (d : VDst) (a : VOp) (b : VOp)
  /-- `mad.i64` (R93): Computes a times b plus d in 64 bits. -/
  | madI64 (d : VDst) (a : VOp) (b : VOp)
  /-- `add.i32` (R92): Adds a sign-extended 11-bit immediate. -/
  | addI32Imm (d : VDst) (a : VOp) (i : BitVec 11)
  /-- `mul.i32` (R92): Multiplies by a sign-extended 11-bit immediate. -/
  | mulI32Imm (d : VDst) (a : VOp) (i : BitVec 11)
  /-- `and.b32` (R92): Bitwise and with a sign-extended immediate. -/
  | andB32Imm (d : VDst) (a : VOp) (i : BitVec 11)
  /-- `or.b32` (R92): Bitwise or with a sign-extended immediate. -/
  | orB32Imm (d : VDst) (a : VOp) (i : BitVec 11)
  /-- `xor.b32` (R92): Bitwise exclusive or with a sign-extended immediate. -/
  | xorB32Imm (d : VDst) (a : VOp) (i : BitVec 11)
  /-- `shl.b32` (R92): Shifts left by an immediate from 0 to 31. -/
  | shlB32Imm (d : VDst) (a : VOp) (i : BitVec 11)
  /-- `shr.u32` (R92): Logical right shift by an immediate from 0 to 31. -/
  | shrU32Imm (d : VDst) (a : VOp) (i : BitVec 11)
  /-- `shr.i32` (R92): Arithmetic right shift by an immediate from 0 to 31. -/
  | shrI32Imm (d : VDst) (a : VOp) (i : BitVec 11)
  /-- `mov.b32` (R92): Writes a sign-extended 11-bit immediate. -/
  | movB32Imm (d : VDst) (i : BitVec 11)
  /-- `setp.cond.i32` (R96): Compares signed 32-bit values and writes a predicate. -/
  | setpI32 (c : ICmp) (d : Fin 8) (a : VOp) (b : VOp)
  /-- `setp.cond.u32` (R96): Compares unsigned 32-bit values and writes a predicate. -/
  | setpU32 (c : ICmp) (d : Fin 8) (a : VOp) (b : VOp)
  /-- `setp.cond.f32` (R97): Compares FP32 values, ordered or unordered, and writes a predicate. -/
  | setpF32 (c : FCmp) (d : Fin 8) (a : VOp) (b : VOp)
  /-- `setp.cond.i64` (R96): Compares signed 64-bit values and writes a predicate. -/
  | setpI64 (c : ICmp) (d : Fin 8) (a : VOp) (b : VOp)
  /-- `setp.cond.f16` (R97): Compares FP16 values and writes a predicate. -/
  | setpF16 (c : ICmp) (d : Fin 8) (a : VOp) (b : VOp)
  /-- `setp.cond.bf16` (R97): Compares BF16 values and writes a predicate. -/
  | setpBf16 (c : ICmp) (d : Fin 8) (a : VOp) (b : VOp)
  /-- `pand` (R98): Predicate and. -/
  | pand (d : Fin 8) (a : Fin 8) (b : Fin 8)
  /-- `por` (R98): Predicate or. -/
  | por (d : Fin 8) (a : Fin 8) (b : Fin 8)
  /-- `pxor` (R98): Predicate exclusive or. -/
  | pxor (d : Fin 8) (a : Fin 8) (b : Fin 8)
  /-- `pnot` (R98): Predicate complement. -/
  | pnot (d : Fin 8) (a : Fin 8)
  /-- `pandn` (R98): Predicate a and not b. -/
  | pandn (d : Fin 8) (a : Fin 8) (b : Fin 8)
  /-- `sel.b32` (R99): Selects a or b per thread by a predicate and sense. -/
  | selB32 (d : VDst) (a : VOp) (b : VOp) (e : Bool) (p : Fin 8)
  /-- `mov.b32` (R100): Copies a 32-bit operand. -/
  | movB32 (d : VDst) (a : VOp)
  /-- `mov.b64` (R100): Copies a 64-bit operand pair. -/
  | movB64 (d : VDst) (a : VOp)
  /-- `shfl.idx` (R101): Reads a from an indexed thread of the path. -/
  | shflIdx (d : VDst) (a : VOp) (b : VOp)
  /-- `shfl.up` (R101): Reads a from a lower thread by an offset. -/
  | shflUp (d : VDst) (a : VOp) (b : VOp)
  /-- `shfl.down` (R101): Reads a from a higher thread by an offset. -/
  | shflDown (d : VDst) (a : VOp) (b : VOp)
  /-- `shfl.xor` (R101): Reads a from the thread at index xor b. -/
  | shflXor (d : VDst) (a : VOp) (b : VOp)
  /-- `wred.add.i32` (R102): Integer sum over the performing threads. -/
  | wredAddI32 (d : VDst) (a : VOp)
  /-- `wred.min.i32` (R102): Signed minimum over the performing threads. -/
  | wredMinI32 (d : VDst) (a : VOp)
  /-- `wred.max.i32` (R102): Signed maximum over the performing threads. -/
  | wredMaxI32 (d : VDst) (a : VOp)
  /-- `wred.add.f32` (R102): Exact FP32 sum over the performing threads, rounded once. -/
  | wredAddF32 (d : VDst) (a : VOp)
  /-- `wscan.add.i32` (R102): Inclusive integer prefix sum over the performing threads. -/
  | wscanAddI32 (d : VDst) (a : VOp)
  /-- `wscan.addx.i32` (R102): Exclusive integer prefix sum over the performing threads. -/
  | wscanAddxI32 (d : VDst) (a : VOp)
  /-- `wscan.add.f32` (R102): Inclusive FP32 prefix sum, each prefix rounded once. -/
  | wscanAddF32 (d : VDst) (a : VOp)
  /-- `vote.any` (R102): Writes 1 when any performing thread has a nonzero operand. -/
  | voteAny (d : VDst) (a : VOp)
  /-- `vote.all` (R102): Writes 1 when every performing thread has a nonzero operand. -/
  | voteAll (d : VDst) (a : VOp)
  /-- `vote.ballot` (R102): Writes the mask of performing threads with a nonzero operand. -/
  | voteBallot (d : VDst) (a : VOp)
  /-- `wred.and.b32` (R102): Bitwise and over the performing threads. -/
  | wredAndB32 (d : VDst) (a : VOp)
  /-- `wred.or.b32` (R102): Bitwise or over the performing threads. -/
  | wredOrB32 (d : VDst) (a : VOp)
  /-- `fadd.f32` (R103): FP32 addition rounded once in the selected mode. -/
  | faddF32 (d : VDst) (a : VOp) (b : VOp) (r : ARnd)
  /-- `fsub.f32` (R103): FP32 subtraction rounded once. -/
  | fsubF32 (d : VDst) (a : VOp) (b : VOp) (r : ARnd)
  /-- `fmul.f32` (R103): FP32 multiplication rounded once. -/
  | fmulF32 (d : VDst) (a : VOp) (b : VOp) (r : ARnd)
  /-- `fma.f32` (R103): FP32 fused multiply-add with d as addend. -/
  | fmaF32 (d : VDst) (a : VOp) (b : VOp) (r : ARnd)
  /-- `fadd.f16` (R103): FP16 addition rounded once. -/
  | faddF16 (d : VDst) (a : VOp) (b : VOp) (r : ARnd)
  /-- `fsub.f16` (R103): FP16 subtraction rounded once. -/
  | fsubF16 (d : VDst) (a : VOp) (b : VOp) (r : ARnd)
  /-- `fmul.f16` (R103): FP16 multiplication rounded once. -/
  | fmulF16 (d : VDst) (a : VOp) (b : VOp) (r : ARnd)
  /-- `fma.f16` (R103): FP16 fused multiply-add. -/
  | fmaF16 (d : VDst) (a : VOp) (b : VOp) (r : ARnd)
  /-- `fadd.bf16` (R103): BF16 addition rounded once. -/
  | faddBf16 (d : VDst) (a : VOp) (b : VOp) (r : ARnd)
  /-- `fsub.bf16` (R103): BF16 subtraction rounded once. -/
  | fsubBf16 (d : VDst) (a : VOp) (b : VOp) (r : ARnd)
  /-- `fmul.bf16` (R103): BF16 multiplication rounded once. -/
  | fmulBf16 (d : VDst) (a : VOp) (b : VOp) (r : ARnd)
  /-- `fma.bf16` (R103): BF16 fused multiply-add. -/
  | fmaBf16 (d : VDst) (a : VOp) (b : VOp) (r : ARnd)
  /-- `fmin.f32` (R104): FP32 minimum with NaN and signed-zero rules. -/
  | fminF32 (d : VDst) (a : VOp) (b : VOp)
  /-- `fmax.f32` (R104): FP32 maximum. -/
  | fmaxF32 (d : VDst) (a : VOp) (b : VOp)
  /-- `fabs.f32` (R104): Clears the FP32 sign bit. -/
  | fabsF32 (d : VDst) (a : VOp)
  /-- `fneg.f32` (R104): Inverts the FP32 sign bit. -/
  | fnegF32 (d : VDst) (a : VOp)
  /-- `fmin.f16` (R104): FP16 minimum. -/
  | fminF16 (d : VDst) (a : VOp) (b : VOp)
  /-- `fmax.f16` (R104): FP16 maximum. -/
  | fmaxF16 (d : VDst) (a : VOp) (b : VOp)
  /-- `fmin.bf16` (R104): BF16 minimum. -/
  | fminBf16 (d : VDst) (a : VOp) (b : VOp)
  /-- `fmax.bf16` (R104): BF16 maximum. -/
  | fmaxBf16 (d : VDst) (a : VOp) (b : VOp)
  /-- `cvt` (R106): Converts between integer and float types in the chosen rounding mode. -/
  | cvt (d : VDst) (a : VOp) (r : Rnd) (t : NumTy) (u : NumTy)
  /-- `npack` (R108): Converts a wave of FP32 values into a dense narrow-format stream with optional scale. -/
  | npack (d : VDst) (a : VOp) (b : VOp) (k : Fin 4)
  /-- `nunpack` (R109): Decodes a dense narrow-format stream into FP32 per thread. -/
  | nunpack (d : VDst) (a : VOp) (b : VOp) (k : Fin 4)
  /-- `exp.f32` (R110): Correctly rounded e^x in FP32. -/
  | expF32 (d : VDst) (a : VOp)
  /-- `exp2.f32` (R110): Correctly rounded 2^x in FP32. -/
  | exp2F32 (d : VDst) (a : VOp)
  /-- `log.f32` (R110): Correctly rounded natural logarithm in FP32. -/
  | logF32 (d : VDst) (a : VOp)
  /-- `log2.f32` (R110): Correctly rounded base-2 logarithm in FP32. -/
  | log2F32 (d : VDst) (a : VOp)
  /-- `sinpi.f32` (R110): Correctly rounded sin(pi x) in FP32. -/
  | sinpiF32 (d : VDst) (a : VOp)
  /-- `cospi.f32` (R110): Correctly rounded cos(pi x) in FP32. -/
  | cospiF32 (d : VDst) (a : VOp)
  /-- `tanh.f32` (R110): Correctly rounded tanh in FP32. -/
  | tanhF32 (d : VDst) (a : VOp)
  /-- `sigm.f32` (R110): Correctly rounded logistic sigmoid in FP32. -/
  | sigmF32 (d : VDst) (a : VOp)
  /-- `erf.f32` (R110): Correctly rounded error function in FP32. -/
  | erfF32 (d : VDst) (a : VOp)
  /-- `rcp.f32` (R110): Correctly rounded reciprocal in FP32. -/
  | rcpF32 (d : VDst) (a : VOp)
  /-- `rsqrt.f32` (R110): Correctly rounded reciprocal square root in FP32. -/
  | rsqrtF32 (d : VDst) (a : VOp)
  /-- `sqrt.f32` (R110): Correctly rounded square root in FP32. -/
  | sqrtF32 (d : VDst) (a : VOp)
  /-- `div.f32` (R110): Correctly rounded division in FP32. -/
  | divF32 (d : VDst) (a : VOp) (b : VOp)
  /-- `exp.f16` (R110): Correctly rounded e^x in FP16. -/
  | expF16 (d : VDst) (a : VOp)
  /-- `exp2.f16` (R110): Correctly rounded 2^x in FP16. -/
  | exp2F16 (d : VDst) (a : VOp)
  /-- `log.f16` (R110): Correctly rounded natural logarithm in FP16. -/
  | logF16 (d : VDst) (a : VOp)
  /-- `log2.f16` (R110): Correctly rounded base-2 logarithm in FP16. -/
  | log2F16 (d : VDst) (a : VOp)
  /-- `sinpi.f16` (R110): Correctly rounded sin(pi x) in FP16. -/
  | sinpiF16 (d : VDst) (a : VOp)
  /-- `cospi.f16` (R110): Correctly rounded cos(pi x) in FP16. -/
  | cospiF16 (d : VDst) (a : VOp)
  /-- `tanh.f16` (R110): Correctly rounded tanh in FP16. -/
  | tanhF16 (d : VDst) (a : VOp)
  /-- `sigm.f16` (R110): Correctly rounded sigmoid in FP16. -/
  | sigmF16 (d : VDst) (a : VOp)
  /-- `erf.f16` (R110): Correctly rounded error function in FP16. -/
  | erfF16 (d : VDst) (a : VOp)
  /-- `rcp.f16` (R110): Correctly rounded reciprocal in FP16. -/
  | rcpF16 (d : VDst) (a : VOp)
  /-- `rsqrt.f16` (R110): Correctly rounded reciprocal square root in FP16. -/
  | rsqrtF16 (d : VDst) (a : VOp)
  /-- `sqrt.f16` (R110): Correctly rounded square root in FP16. -/
  | sqrtF16 (d : VDst) (a : VOp)
  /-- `div.f16` (R110): Correctly rounded division in FP16. -/
  | divF16 (d : VDst) (a : VOp) (b : VOp)
  /-- `exp.bf16` (R110): Correctly rounded e^x in BF16. -/
  | expBf16 (d : VDst) (a : VOp)
  /-- `exp2.bf16` (R110): Correctly rounded 2^x in BF16. -/
  | exp2Bf16 (d : VDst) (a : VOp)
  /-- `log.bf16` (R110): Correctly rounded natural logarithm in BF16. -/
  | logBf16 (d : VDst) (a : VOp)
  /-- `log2.bf16` (R110): Correctly rounded base-2 logarithm in BF16. -/
  | log2Bf16 (d : VDst) (a : VOp)
  /-- `sinpi.bf16` (R110): Correctly rounded sin(pi x) in BF16. -/
  | sinpiBf16 (d : VDst) (a : VOp)
  /-- `cospi.bf16` (R110): Correctly rounded cos(pi x) in BF16. -/
  | cospiBf16 (d : VDst) (a : VOp)
  /-- `tanh.bf16` (R110): Correctly rounded tanh in BF16. -/
  | tanhBf16 (d : VDst) (a : VOp)
  /-- `sigm.bf16` (R110): Correctly rounded sigmoid in BF16. -/
  | sigmBf16 (d : VDst) (a : VOp)
  /-- `erf.bf16` (R110): Correctly rounded error function in BF16. -/
  | erfBf16 (d : VDst) (a : VOp)
  /-- `rcp.bf16` (R110): Correctly rounded reciprocal in BF16. -/
  | rcpBf16 (d : VDst) (a : VOp)
  /-- `rsqrt.bf16` (R110): Correctly rounded reciprocal square root in BF16. -/
  | rsqrtBf16 (d : VDst) (a : VOp)
  /-- `sqrt.bf16` (R110): Correctly rounded square root in BF16. -/
  | sqrtBf16 (d : VDst) (a : VOp)
  /-- `div.bf16` (R110): Correctly rounded division in BF16. -/
  | divBf16 (d : VDst) (a : VOp) (b : VOp)
  /-- `sadd.i32` (R111): Uniform 32-bit add in the scalar unit. -/
  | saddI32 (d : SDst) (a : SOp) (b : SOp)
  /-- `ssub.i32` (R111): Uniform 32-bit subtract. -/
  | ssubI32 (d : SDst) (a : SOp) (b : SOp)
  /-- `smul.i32` (R111): Uniform 32-bit multiply. -/
  | smulI32 (d : SDst) (a : SOp) (b : SOp)
  /-- `sand.b32` (R111): Uniform bitwise and. -/
  | sandB32 (d : SDst) (a : SOp) (b : SOp)
  /-- `sor.b32` (R111): Uniform bitwise or. -/
  | sorB32 (d : SDst) (a : SOp) (b : SOp)
  /-- `sxor.b32` (R111): Uniform bitwise exclusive or. -/
  | sxorB32 (d : SDst) (a : SOp) (b : SOp)
  /-- `sshl.b32` (R111): Uniform left shift. -/
  | sshlB32 (d : SDst) (a : SOp) (b : SOp)
  /-- `sshr.u32` (R111): Uniform logical right shift. -/
  | sshrU32 (d : SDst) (a : SOp) (b : SOp)
  /-- `sshr.i32` (R111): Uniform arithmetic right shift. -/
  | sshrI32 (d : SDst) (a : SOp) (b : SOp)
  /-- `smin.i32` (R111): Uniform signed minimum. -/
  | sminI32 (d : SDst) (a : SOp) (b : SOp)
  /-- `smax.i32` (R111): Uniform signed maximum. -/
  | smaxI32 (d : SDst) (a : SOp) (b : SOp)
  /-- `smov.b32` (R111): Uniform register move. -/
  | smovB32 (d : SDst) (a : SOp)
  /-- `sadd.i64` (R111): Uniform 64-bit add on register pairs. -/
  | saddI64 (d : SDst) (a : SOp) (b : SOp)
  /-- `ssub.i64` (R111): Uniform 64-bit subtract on register pairs. -/
  | ssubI64 (d : SDst) (a : SOp) (b : SOp)
  /-- `smin.u32` (R111): Uniform unsigned minimum. -/
  | sminU32 (d : SDst) (a : SOp) (b : SOp)
  /-- `smax.u32` (R111): Uniform unsigned maximum. -/
  | smaxU32 (d : SDst) (a : SOp) (b : SOp)
  /-- `smov.b32` (R112): Writes a sign-extended immediate to a uniform register. -/
  | smovB32Imm (d : SDst) (i : BitVec 11)
  /-- `sadd.i32` (R112): Adds a sign-extended immediate to a uniform register. -/
  | saddI32Imm (d : SDst) (a : SOp) (i : BitVec 11)
  /-- `scmp.eq.i32` (R113): Uniform signed equal compare into a predicate. -/
  | scmpEqI32 (d : Fin 8) (a : SOp) (b : SOp)
  /-- `scmp.ne.i32` (R113): Uniform not-equal compare into a predicate. -/
  | scmpNeI32 (d : Fin 8) (a : SOp) (b : SOp)
  /-- `scmp.lt.i32` (R113): Uniform signed less-than compare. -/
  | scmpLtI32 (d : Fin 8) (a : SOp) (b : SOp)
  /-- `scmp.le.i32` (R113): Uniform signed less-or-equal compare. -/
  | scmpLeI32 (d : Fin 8) (a : SOp) (b : SOp)
  /-- `scmp.gt.i32` (R113): Uniform signed greater-than compare. -/
  | scmpGtI32 (d : Fin 8) (a : SOp) (b : SOp)
  /-- `scmp.ge.i32` (R113): Uniform signed greater-or-equal compare. -/
  | scmpGeI32 (d : Fin 8) (a : SOp) (b : SOp)
  /-- `scmp.eq.u32` (R113): Uniform unsigned equal compare. -/
  | scmpEqU32 (d : Fin 8) (a : SOp) (b : SOp)
  /-- `scmp.ne.u32` (R113): Uniform unsigned not-equal compare. -/
  | scmpNeU32 (d : Fin 8) (a : SOp) (b : SOp)
  /-- `scmp.lt.u32` (R113): Uniform unsigned less-than compare. -/
  | scmpLtU32 (d : Fin 8) (a : SOp) (b : SOp)
  /-- `scmp.le.u32` (R113): Uniform unsigned less-or-equal compare. -/
  | scmpLeU32 (d : Fin 8) (a : SOp) (b : SOp)
  /-- `scmp.gt.u32` (R113): Uniform unsigned greater-than compare. -/
  | scmpGtU32 (d : Fin 8) (a : SOp) (b : SOp)
  /-- `scmp.ge.u32` (R113): Uniform unsigned greater-or-equal compare. -/
  | scmpGeU32 (d : Fin 8) (a : SOp) (b : SOp)
  /-- `gets` (R114): Reads a special register into a uniform register. -/
  | getsScalar (d : SDst) (n : SReg)
  /-- `gets` (R114): Reads a special register into a vector register per performing thread. -/
  | getsVector (d : VDst) (n : SReg)
  /-- `sets` (R115): Writes WSTAT, clearing UCF when bit 0 is set. -/
  | sets (d : SOp)
  /-- `bra` (R121): Divergence-capable branch that moves, keeps or splits the path. -/
  | bra (e : Bool) (p : Fin 8) (x : BitVec 21)
  /-- `bru` (R122): Uniform branch that traps with NUNIF when threads disagree. -/
  | bru (e : Bool) (p : Fin 8) (x : BitVec 21)
  /-- `call` (R123): Calls a subroutine, writing the link and sliding the window by 32. -/
  | call (x : BitVec 21)
  /-- `nop` (R133): Does nothing. -/
  | nop
  /-- `join` (R125): Waits for or merges with the partner path of the innermost open split. -/
  | join
  /-- `ret` (R124): Returns to the link of the lowest thread and slides the window back. -/
  | ret
  /-- `exit` (R126): Ends threads, and the path or wave when none remain. -/
  | exit
  /-- `yield` (R133): Asks the scheduler to prefer another path. -/
  | yield
  /-- `tret` (R368): Leaves a trap handler, ending killed threads and resuming at TPC. -/
  | tret
  /-- `getmask` (R130): Writes the path's active mask into each performing thread. -/
  | getmask (d : VDst)
  /-- `setmask` (R131): Replaces the path's active mask, taking only free threads. -/
  | setmask (a : VOp)
  /-- `jmpi` (R123): Jumps to a uniform 64-bit register target. -/
  | jmpi (a : VOp)
  /-- `calli` (R123): Calls a uniform 64-bit register target. -/
  | calli (a : VOp)
  /-- `wbase` (R127): Moves each thread's window base by a signed amount. -/
  | wbase (a : VOp)
  /-- `trap` (R132): Raises DEBUG with a code, resuming after the word. -/
  | trap (n : BitVec 7)
  /-- `sleepn` (R134): Makes the path wait for a duration in nanoseconds. -/
  | sleepn (d : SOp) (i : BitVec 18)
  /-- `waitt` (R134): Makes the path wait until NSCLK reaches a uniform deadline. -/
  | waitt (a : VOp)
  /-- `tmark.full` (R320): Atomically sets FULL in a tile state word. -/
  | tmarkFull (a : VOp)
  /-- `tmark.empty` (R320): Atomically clears FULL and raises GEN in a tile state word. -/
  | tmarkEmpty (a : VOp)
  /-- `ttest` (R320): Acquires a tile state word and writes FULL to a predicate. -/
  | ttest (d : Fin 8) (a : VOp)
  /-- `put` (R396): Queues a write of local bytes to a peer module over a spire link. -/
  | put (a : VOp) (b : VOp) (q : BitVec 4) (r : Bool)
  /-- `get` (R396): Queues a read of peer bytes into local memory over a spire link. -/
  | get (a : VOp) (b : VOp) (q : BitVec 4)
  /-- `send` (R396): Queues a tagged message to the peer's arrival matching table. -/
  | send (a : VOp) (b : VOp) (q : BitVec 4) (r : Bool)
  /-- `pread` (R355): Reads a power, thermal or controller value into a uniform register. -/
  | pread (d : SDst) (a : SOp)
  /-- `phint` (R356): Sets the wave's slew pre-ramp hint. -/
  | phint (a : SOp)
  /-- `ld.s.u8` (R161): Loads a zero-extended byte from a cluster address. -/
  | ldSU8 (d : VDst) (b : VOp) (o : BitVec 6) (s : Scope) (r : Order)
  /-- `ld.s.i8` (R161): Loads a sign-extended byte from a cluster address. -/
  | ldSI8 (d : VDst) (b : VOp) (o : BitVec 6) (s : Scope) (r : Order)
  /-- `ld.s.u16` (R161): Loads a zero-extended halfword from a cluster address. -/
  | ldSU16 (d : VDst) (b : VOp) (o : BitVec 6) (s : Scope) (r : Order)
  /-- `ld.s.i16` (R161): Loads a sign-extended halfword from a cluster address. -/
  | ldSI16 (d : VDst) (b : VOp) (o : BitVec 6) (s : Scope) (r : Order)
  /-- `ld.s` (R161): Loads a word from a cluster address. -/
  | ldS (d : VDst) (b : VOp) (o : BitVec 6) (s : Scope) (r : Order)
  /-- `ld.s.b64` (R161): Loads 64 bits from a cluster address into a pair. -/
  | ldSB64 (d : VDst) (b : VOp) (o : BitVec 6) (s : Scope) (r : Order)
  /-- `st.s.b8` (R161): Stores a byte to a cluster address. -/
  | stSB8 (d : VOp) (b : VOp) (o : BitVec 6) (s : Scope) (r : Order)
  /-- `st.s.b16` (R161): Stores a halfword to a cluster address. -/
  | stSB16 (d : VOp) (b : VOp) (o : BitVec 6) (s : Scope) (r : Order)
  /-- `st.s` (R161): Stores a word to a cluster address. -/
  | stS (d : VOp) (b : VOp) (o : BitVec 6) (s : Scope) (r : Order)
  /-- `st.s.b64` (R161): Stores a register pair to a cluster address. -/
  | stSB64 (d : VOp) (b : VOp) (o : BitVec 6) (s : Scope) (r : Order)
  /-- `ld.g.u8` (R161): Loads a zero-extended byte from a global address. -/
  | ldGU8 (d : VDst) (b : VOp) (o : BitVec 6) (s : Scope) (r : Order)
  /-- `ld.g.i8` (R161): Loads a sign-extended byte from a global address. -/
  | ldGI8 (d : VDst) (b : VOp) (o : BitVec 6) (s : Scope) (r : Order)
  /-- `ld.g.u16` (R161): Loads a zero-extended halfword from a global address. -/
  | ldGU16 (d : VDst) (b : VOp) (o : BitVec 6) (s : Scope) (r : Order)
  /-- `ld.g.i16` (R161): Loads a sign-extended halfword from a global address. -/
  | ldGI16 (d : VDst) (b : VOp) (o : BitVec 6) (s : Scope) (r : Order)
  /-- `ld.g` (R161): Loads a word from a global address. -/
  | ldG (d : VDst) (b : VOp) (o : BitVec 6) (s : Scope) (r : Order)
  /-- `ld.g.b64` (R161): Loads 64 bits from a global address. -/
  | ldGB64 (d : VDst) (b : VOp) (o : BitVec 6) (s : Scope) (r : Order)
  /-- `st.g.b8` (R161): Stores a byte to a global address. -/
  | stGB8 (d : VOp) (b : VOp) (o : BitVec 6) (s : Scope) (r : Order)
  /-- `st.g.b16` (R161): Stores a halfword to a global address. -/
  | stGB16 (d : VOp) (b : VOp) (o : BitVec 6) (s : Scope) (r : Order)
  /-- `st.g` (R161): Stores a word to a global address. -/
  | stG (d : VOp) (b : VOp) (o : BitVec 6) (s : Scope) (r : Order)
  /-- `st.g.b64` (R161): Stores a register pair to a global address. -/
  | stGB64 (d : VOp) (b : VOp) (o : BitVec 6) (s : Scope) (r : Order)
  /-- `ldt.g` (R162): Loads one 32-byte sector per thread from global memory into eight registers. -/
  | ldtG (d : VDst) (b : VOp) (o : BitVec 6) (s : Scope) (r : Order)
  /-- `stt.g` (R162): Stores one 32-byte sector per thread to global memory in address order. -/
  | sttG (d : VDst) (b : VOp) (o : BitVec 6) (s : Scope) (r : Order)
  /-- `ldt.s` (R162): Loads one 32-byte scratchpad sector per thread. -/
  | ldtS (d : VDst) (b : VOp) (o : BitVec 6) (s : Scope) (r : Order)
  /-- `stt.s` (R162): Stores one 32-byte scratchpad sector per thread. -/
  | sttS (d : VDst) (b : VOp) (o : BitVec 6) (s : Scope) (r : Order)
  /-- `atom.s` (R165): 32-bit scratchpad atomic read-modify-write per thread. -/
  | atomS (d : VDst) (b : VOp) (o : AtomOp) (s : Scope) (r : Order)
  /-- `atom.s.b64` (R165): 64-bit scratchpad atomic per thread. -/
  | atomSB64 (d : VDst) (b : VOp) (o : AtomOp) (s : Scope) (r : Order)
  /-- `atom.g` (R165): 32-bit global atomic per thread. -/
  | atomG (d : VDst) (b : VOp) (o : AtomOp) (s : Scope) (r : Order)
  /-- `atom.g.b64` (R165): 64-bit global atomic per thread. -/
  | atomGB64 (d : VDst) (b : VOp) (o : AtomOp) (s : Scope) (r : Order)
  /-- `fence` (R166): Orders the path's accesses before and after it at a scope. -/
  | fence (s : Scope) (r : Order)
  /-- `waita` (R171): Waits until each thread's watched 64-bit word differs from its compare value. -/
  | waita (d : VDst) (b : VOp) (o : BitVec 6) (s : Scope) (r : Order)
  /-- `sinit` (R169): Initialises a sync word with a total and zero count and generation. -/
  | sinit (a : VOp) (b : VOp)
  /-- `twait` (R170): Waits for sync-word generations to pass a target, within a bound. -/
  | twait (d : Fin 8) (a : VOp) (b : VOp)
  /-- `give` (R150): Returns registers of every thread's segment to the group pool. -/
  | give (a : COp)
  /-- `claim` (R151): Adds registers to every thread's segment from the group pool, waiting if needed. -/
  | claim (a : COp)
  /-- `bar` (R153): Waits at group barrier 0. -/
  | bar
  /-- `bar.n` (R153): Waits at a numbered group or role barrier. -/
  | barN (a : COp)
  /-- `bbar` (R203): Waits at the band barrier. -/
  | bbar
  /-- `mma` (R189): Queues a matrix multiply-accumulate with operands in fmt0 and fmt1. -/
  | mma (d : BitVec 7) (a : SOp) (b : SOp)
  /-- `mma.bf16` (R189): Queues a BF16 matrix multiply-accumulate. -/
  | mmaBf16 (d : BitVec 7) (a : SOp) (b : SOp)
  /-- `mma.f16` (R189): Queues an FP16 matrix multiply-accumulate. -/
  | mmaF16 (d : BitVec 7) (a : SOp) (b : SOp)
  /-- `mma.sq` (R191): Queues a matrix multiply-accumulate whose A rows come from a stream FIFO. -/
  | mmaSq (d : BitVec 7) (a : Fin 4) (b : SOp)
  /-- `aclr` (R193): Queues a clear of a tile. -/
  | aclr (d : BitVec 7)
  /-- `ald` (R195): Queues a load of owned rows into a tile. -/
  | ald (d : BitVec 7) (a : SOp) (b : SOp)
  /-- `ast` (R195): Queues a store of owned tile rows in fmt2. -/
  | ast (d : BitVec 7) (a : SOp) (b : SOp)
  /-- `ascale` (R193): Queues a power-of-two scaling of a tile. -/
  | ascale (d : BitVec 7) (a : SOp)
  /-- `aexp` (R193): Queues a read of a tile's status word into a uniform register. -/
  | aexp (d : BitVec 7) (a : SDst)
  /-- `shape` (R183): Sets the wave's matrix configuration and writes the grant. -/
  | shape (d : SDst) (m : MDim) (n : MDim) (k : KDim)
  /-- `setfmt` (R180): Writes an immediate into a format register. -/
  | setfmt (k : Fin 4) (i : BitVec 18)
  /-- `getfmt` (R181): Reads a format register into a uniform register. -/
  | getfmt (d : SDst) (a : Fin 4)
  /-- `setfmt.r` (R181): Writes a uniform register value into a format register. -/
  | setfmtR (d : Fin 4) (a : SOp)
  /-- `copy.g2s` (R252): Queues per-thread copies from global memory to scratchpad. -/
  | copyG2s (d : VOp) (a : VOp) (b : VOp)
  /-- `copy.s2g` (R252): Queues per-thread copies from scratchpad to global memory. -/
  | copyS2g (d : VOp) (a : VOp) (b : VOp)
  /-- `copy.s2s` (R252): Queues per-thread copies between cluster addresses. -/
  | copyS2s (d : VOp) (a : VOp) (b : VOp)
  /-- `copy.g2g` (R252): Queues per-thread copies between global addresses. -/
  | copyG2g (d : VOp) (a : VOp) (b : VOp)
  /-- `copy.g2s.mc` (R254): Queues multicast copies from global memory to member scratchpads. -/
  | copyG2sMc (d : VOp) (a : VOp) (b : VOp)
  /-- `copy.s2s.mc` (R254): Queues multicast copies from scratchpad to member scratchpads. -/
  | copyS2sMc (d : VOp) (a : VOp) (b : VOp)
  /-- `cseal` (R257): Seals each thread's open copy batch, waiting while 63 are unfinished. -/
  | cseal
  /-- `cwait` (R257): Waits until at most n sealed batches per thread are unfinished. -/
  | cwait (i : BitVec 11)
  /-- `sset` (R260): Reads a stream descriptor and opens an indirect stream. -/
  | sset (a : VOp) (b : VOp) (k : Fin 4)
  /-- `spop` (R260): Pops the next 128-byte chunk of a stream FIFO. -/
  | spop (d : VDst) (a : Fin 4) (b : Fin 8)
  /-- `sstat` (R260): Reads a stream's status, bad row or entry counts. -/
  | sstat (d : VDst) (a : Fin 4) (b : VOp)
  /-- `sclose` (R260): Closes a stream, discarding its FIFO and outstanding reads. -/
  | sclose (a : Fin 4)
  /-- `qfence` (R228): Waits until every earlier operation of the named queues is performed. -/
  | qfence (m : BitVec 8)
  /-- `hprobe` (R280): Queues a probe of named HRU tables with a query vector. -/
  | hprobe (a : VOp) (b : VOp)
  /-- `hins` (R280): Queues an insert of a row id into named HRU tables. -/
  | hins (a : VOp) (b : VOp)
  /-- `hdel` (R280): Queues a delete of a row id from named HRU tables. -/
  | hdel (a : VOp) (b : VOp) (s : Bool)
  /-- `hrehash` (R280): Queues a move of a row id to the buckets of a new vector. -/
  | hrehash (a : VOp) (b : VOp)
  /-- `hset` (R287): Queues a bind of an HRU slot to a descriptor, keeping contents. -/
  | hsetBind (a : VOp) (b : VOp)
  /-- `hset` (R287): Queues a bind of an HRU slot that clears its buckets. -/
  | hsetBindClear (a : VOp) (b : VOp)
  /-- `hset` (R287): Queues an unbind of an HRU slot. -/
  | hsetUnbind (a : VOp) (b : VOp)
  /-- `hset` (R287): Queues a write of an HRU slot's status record. -/
  | hsetStatus (a : VOp) (b : VOp)
  /-- `gtopk` (R288): Queues a deduplicate-and-rank request to the gate unit. -/
  | gtopk (a : VOp) (b : VOp) (o : Bool) (e : Bool) (m : MergeKind) (u : Bool)
  /-- `ghist` (R288): Queues a histogram request to the gate unit. -/
  | ghist (a : VOp) (b : VOp) (w : Bool) (n : Bool)
  /-- `gscan` (R288): Queues a prefix-scan request to the gate unit. -/
  | gscan (a : VOp) (b : VOp) (t : Bool) (f : Bool) (n : Bool)
  /-- `gperm` (R288): Queues a permute-by-expert request to the gate unit. -/
  | gperm (a : VOp) (b : VOp) (o : Bool)
  /-- `isect` (R293): Intersects two windows of ids held one per thread. -/
  | isect (d : VDst) (a : VOp) (b : VOp)
  /-- `launch` (R316): Reads a launch record, checks it and queues a new launch or refuses it. -/
  | launch (a : VOp) (b : VOp)
  /-- `cancel.drain` (R317): Cancels the work under a counter, letting running groups finish. -/
  | cancelDrain (a : VOp)
  /-- `cancel.trap` (R317): Cancels the work under a counter and traps running waves with CANCEL. -/
  | cancelTrap (a : VOp)
  /-- `?pn` (R33): Prefix that guards the next instruction per thread by a predicate. -/
  | grd (e : Bool) (p : Fin 8)
  /-- `xim` (R32): Prefix that supplies 25 bits of an immediate chain. -/
  | xim (i : BitVec 25)
  /-- `csrr` (R370): Reads a trap control register at P1. -/
  | csrr (d : SDst) (n : Csr)
  /-- `csrw` (R370): Writes the RW fields of a trap control register at P1. -/
  | csrw (n : Csr) (a : SOp)
  /-- `tlbinv` (R371): Invalidates kept translations of one address of a context on every die. -/
  | tlbinv (a : SOp) (b : SOp)
  /-- `tlbinv.all` (R371): Invalidates every kept translation of a context or of all contexts. -/
  | tlbinvAll (a : SOp)
  /-- `GLOBAL_ACCESS_COMPLETE` (R160): A thread's global access completes, faults or is left unfinished, and the path traps once the rest complete. -/
  | globalAccessComplete (w : WaveRef) (a : LooseAccess)
  /-- `TRANSLATION_WALK` (R242): A walker translates a virtual address through up to four levels once a walker is free. -/
  | translationWalk (die : Nat) (ctx : Nat) (va : DWord) (level : Nat) (block : Bool)
  /-- `FQHEAD_POLL` (R249): The die reads FQHEAD and writes held fault records when room appears. -/
  | fqheadPoll (die : Nat)
  /-- `FAULT_STATUS_OBSERVED` (R250): The die acquires a new STATUS and resumes or abandons the waiting requests. -/
  | faultStatusObserved (die : Nat) (n : Nat)
  /-- `COPY_PERFORM` (R253): The streamer performs a queued copy sector by sector and applies its arrival. -/
  | copyPerform (w : WaveRef) (sectors : Nat)
  /-- `STREAM_ITEM_DELIVER` (R258): An indirect stream gathers its next item into its FIFO when room exists. -/
  | streamItemDeliver (w : WaveRef) (k : Fin 4)
  /-- `MMA_PERFORM` (R190): The engine forms exact dot products and adds them into the tile. -/
  | mmaPerform (w : WaveRef)
  /-- `ACLR_PERFORM` (R194): The engine empties a tile and clears its flags. -/
  | aclrPerform (w : WaveRef)
  /-- `ALD_PERFORM` (R196): The engine writes a tile outright from owned rows. -/
  | aldPerform (w : WaveRef)
  /-- `AST_PERFORM` (R197): The engine converts owned tile rows and writes them in sector order. -/
  | astPerform (w : WaveRef)
  /-- `ASCALE_PERFORM` (R198): The engine shifts a tile's exponent. -/
  | ascalePerform (w : WaveRef)
  /-- `AEXP_PERFORM` (R199): The engine writes a tile's status word to a uniform register. -/
  | aexpPerform (w : WaveRef)
  /-- `HPROBE_REQUEST` (R283): The HRU reads chains of the named tables and writes an id list. -/
  | hprobeRequest (w : WaveRef)
  /-- `HINS_REQUEST` (R284): The HRU inserts an id into the chain of its key row in each named table. -/
  | hinsRequest (w : WaveRef)
  /-- `HDEL_REQUEST` (R285): The HRU deletes an id from one chain or from every chain. -/
  | hdelRequest (w : WaveRef)
  /-- `HREHASH_REQUEST` (R276): The HRU moves an id between chains and rewrites its key rows. -/
  | hrehashRequest (w : WaveRef)
  /-- `HSET_REQUEST` (R287): The HRU binds, clears, unbinds or reports a slot. -/
  | hsetRequest (w : WaveRef)
  /-- `GTOPK_REQUEST` (R289): The gate unit merges, ranks and writes the top entries of a list. -/
  | gtopkRequest (w : WaveRef)
  /-- `GHIST_REQUEST` (R290): The gate unit counts list entries into bins. -/
  | ghistRequest (w : WaveRef)
  /-- `GSCAN_REQUEST` (R291): The gate unit writes a prefix scan of an array. -/
  | gscanRequest (w : WaveRef)
  /-- `GPERM_REQUEST` (R292): The gate unit groups a pair list by expert with counts and offsets. -/
  | gpermRequest (w : WaveRef)
  /-- `FABRIC_OP_PERFORM` (R397): A queued put, get or send is performed over its spire link. -/
  | fabricOpPerform (w : WaveRef) (ans : PeerAnswer)
  /-- `SEND_RETRY_TIMEOUT` (R397): A send still refused after SRETRY is abandoned with TIMEOUT. -/
  | sendRetryTimeout (w : WaveRef)
  /-- `WAIT_DEADLINE` (R134): A sleeping or timed path becomes eligible when NSCLK reaches its deadline. -/
  | waitDeadline (p : PathRef)
  /-- `TWAIT_BOUND` (R170): A twait ends at its 4,096-cycle bound and writes its predicates. -/
  | twaitBound (p : PathRef)
  /-- `WAITA_REREAD` (R171): The core reads a watched word again and completes the wait on a change. -/
  | waitaReread (p : PathRef)
  /-- `WAIT_LIMIT_TIMEOUT` (R156): A wait longer than the launch's limit traps with TIMEOUT. -/
  | waitLimitTimeout (p : PathRef)
  /-- `CLAIM_GRANT` (R151): A waiting claim takes blocks once the pool has room. -/
  | claimGrant (g : Nat)
  /-- `ALLOWANCE_CYCLE` (R206): Each core cycle the counter refills and cores issue or are withheld by class. -/
  | allowanceCycle (c : Nat) (full : List Nat)
  /-- `FLOOR_DUE` (R207): After 63 idle cycles with work, a core issues whatever the allowance. -/
  | floorDue (c : Nat) (lcore : Nat)
  /-- `SLEW_STEP` (R210): Each 4-cycle step the limiter sets the level and grants engine units and fillers. -/
  | slewStep (c : Nat)
  /-- `MARVER_DISPATCH` (R303): The Marver carves the next eligible group, places it and dispatches its waves. -/
  | marverDispatch
  /-- `GROUP_COMPLETION` (R313): The Marver marks output tiles, lowers counters and frees an ended group. -/
  | groupCompletion (g : Nat)
  /-- `POOL_GROUP_COMMIT` (R302): The Marver commits a pool group when tasks suffice, the run ends, CLOSED is set or 2 µs pass. -/
  | poolGroupCommit (l : Nat)
  /-- `TILE_STATE_POLL` (R312): The Marver re-reads tile state words for eligibility. -/
  | tileStatePoll (l : Nat)
  /-- `CLASS_AGEING` (R318): A launch waiting longer than its ageing interval rises one class. -/
  | classAgeing (l : Nat)
  /-- `QUANTUM_COMMIT` (R235): Once every live wave ends its quantum, buffered writes commit in wave order. -/
  | quantumCommit (l : Nat)
  /-- `CORE_DUMP` (R374): The die halts, drains and writes a group's state to the dump area. -/
  | coreDump (die : Nat)
  /-- `DUMPGO_WRITE` (R373): A write with GO requests a dump of the group holding a wave slot. -/
  | dumpgoWrite (v : Word)
  /-- `CLAMP_BLOCK_WRITE` (R401): A clamp block write lowers values and is ignored for any raise after lock. -/
  | clampBlockWrite (v : DWord)
  /-- `MGMT_REGISTER_WRITE` (R388): Writes a management register whole, or refuses it whole. -/
  | mgmtRegisterWrite (n : Nat) (v : BitVec 512)
  /-- `MREAD` (R387): Mailbox command that reads a management register. -/
  | mread
  /-- `MWRITE` (R387): Mailbox command that writes a management register as P2. -/
  | mwrite
  /-- `JLSET` (R391): Mailbox command that checks a job list header and starts the control launch. -/
  | jlset
  /-- `JLSTOP` (R391): Mailbox command that ends the control launch after its record. -/
  | jlstop
  /-- `ATTEST` (R403): Mailbox command that writes a signed attestation report. -/
  | attest
  /-- `MAILBOX_UNKNOWN_COMMAND` (R387): A command with an unassigned code completes with RSTAT 1. -/
  | mailboxUnknownCommand
  /-- `JOB_LAUNCH` (R390): The control launch issues launch for a job record with OP 1. -/
  | jobLaunch
  /-- `JOB_CANCEL_DRAIN` (R390): The control launch issues cancel.drain for a job record with OP 2. -/
  | jobCancelDrain
  /-- `JOB_CANCEL_TRAP` (R390): The control launch issues cancel.trap for a job record with OP 3. -/
  | jobCancelTrap
  /-- `JOB_RECORD_SKIP` (R390): An invalid or failing job record is skipped and BADREC rises. -/
  | jobRecordSkip
  /-- `HOST_INBOUND_ACCESS` (R384): A host or peer read or write arrives through a BAR window. -/
  | hostInboundAccess (link : Nat) (mailbox : Bool) (addr : Nat) (acc : Inbound)
  /-- `SPIRE_INBOUND_ACCESS` (R394): An inbound spire access is checked against SPWIN and performed or refused. -/
  | spireInboundAccess (link : Nat) (addr : Nat) (acc : Inbound)
  /-- `ARRIVAL_MATCH` (R399): An arriving send is matched, written to its buffer and counted, or refused. -/
  | arrivalMatch (link : Nat) (tag : Word) (off : Nat) (bs : List Byte)
  /-- `ARRIVAL_TASK_APPEND` (R399): A completed entry appends a task record once the pool ring has room. -/
  | arrivalTaskAppend (i : Nat)
  /-- `SPIRE_LANE_FAIL` (R393): A failed spire lane is replaced by the spare or the link halves. -/
  | spireLaneFail (link : Nat)
  /-- `SHELF_FRAME` (R341): The Belfry takes a shelf telemetry frame and computes level, sheds and targets. -/
  | shelfFrame (f : BitVec 256)
  /-- `FRAME_LOSS_TIMEOUT` (R341): No valid frame for 2 ms sets LOST and holds the level. -/
  | frameLossTimeout
  /-- `BELFRY_PERIOD` (R345): Every 100 µs the Belfry measures power and adjusts each cluster's RATE. -/
  | belfryPeriod (pm : Nat) (pd : List Nat)
  /-- `UNATT_TIMER` (R345): An unattainable target held for 1 ms sets UNATT and sheds one more class. -/
  | unattTimer
  /-- `RESTORE_STAGGER` (R346): A restorable class clears SHED in one cluster at its staggered time. -/
  | restoreStagger (cls : Nat) (c : Nat)
  /-- `BCKGO_GO` (R351): Writing GO starts a checkpoint. -/
  | bckgoGo
  /-- `BCKGO_RESTORE` (R354): Writing RESTORE starts a restore of the image into device memory. -/
  | bckgoRestore
  /-- `CHECKPOINT_COPY_DONE` (R351): The last chunk and the time stamp are written, CKPT becomes 2 and waves resume. -/
  | checkpointCopyDone
  /-- `CHECKPOINT_FAIL_RESUME` (R352): After a failed checkpoint the waves resume after 1 ms. -/
  | checkpointFailResume
  /-- `RESTORE_COPY_DONE` (R354): The last restored chunk is written and CKPT becomes 2. -/
  | restoreCopyDone
  /-- `LEHR_PERIOD` (R336): Every 10 µs the Lehr moves the die's clock by at most one point. -/
  | lehrPeriod (die : Nat) (mv : BitVec 12)
  /-- `THERMAL_SAMPLE` (R337): The die samples its thermal sensors and updates TJ. -/
  | thermalSample (die : Nat) (temps : List Nat)
  /-- `THERMAL_SHUTDOWN` (R338): A trip held for 100 ms powers the die down and ends its launches. -/
  | thermalShutdown (die : Nat)
  /-- `EOLH_UPDATE` (R339): Every 60 s the ageing monitors update the predicted end of life. -/
  | eolhUpdate (die : Nat) (h : BitVec 24)
  /-- `SOFT_ERROR` (R376): An uncorrectable error in path control state traps the wave with SOFT. -/
  | softError (p : PathRef)
  /-- `SCRUB` (R376): Periodic ECC scrubbing of L2 and HBM5. -/
  | scrub (die : Nat) (corrected : Nat) (spare : Bool)
  /-- `QUAD_RETIRE` (R213): A failed quad is retired and its logical quad remapped to a spare. -/
  | quadRetire (c : Nat) (pq : Nat)
  /-- `ENGINE_RETIRE` (R263): A failed walker, streamer, stream engine, HRU or gate unit is retired and its work moved. -/
  | engineRetire (u : EngineUnit)
  /-- `MODULE_RESET` (R354): Module reset returns every management register to its reset value. -/
  | moduleReset
  /-- `HOST_LINK_TRAINED` (R386): The first host link completing training starts the firmware start timing. -/
  | hostLinkTrained (link : Nat)
  /-- `LINK_TRAINING_TIMEOUT` (R386): With no link trained 1 s after reset, firmware timing starts from then. -/
  | linkTrainingTimeout
  /-- `FIRMWARE_START` (R386): Firmware verifies, locks the clamp block, sets FWRUN and signals the host. -/
  | firmwareStart (img : FwImage)
  /-- `SCRATCHPAD_ACCESS_COMPLETE` (R160): A thread's scratchpad or register-aperture access completes or is left unfinished with ECC, and the path traps once the others complete. -/
  | scratchpadAccessComplete (w : WaveRef) (a : LooseAccess)
  /-- `HOST_LINK_DOWN` (R351): A host link goes down, and the checkpoint or restore copy continues on the other link. -/
  | hostLinkDown (link : Nat)
  /-- `SPIRE_LINK_DOWN` (R397): A spire link stays down, and its queued put, get and send operations are abandoned with TIMEOUT. -/
  | spireLinkDown (link : Nat)
deriving DecidableEq, Repr

end Sys2Proof
end

