-- ==== Sys2Proof/WellFormed.lean ====
section
/-! DEFINITION. What the fields of an instruction word may hold beyond their types: even registers of 64-bit fields (R30),
immediate ranges, legal orders and scopes (R38), register groups (R162, R163). An instruction that breaks one is
ILLEGAL (R39): the decoder never yields it. Event rows have no word and are always well-formed. -/

namespace Sys2Proof

/-- The instruction can stand in memory as a word that passes the decode checks of R39. -/
def WellFormed : Instr → Bool
  | .addI32 _ _ _ => true
  | .subI32 _ _ _ => true
  | .mulI32 _ _ _ => true
  | .mulhiI32 _ _ _ => true
  | .mulhiU32 _ _ _ => true
  | .addsI32 _ _ _ => true
  | .subsI32 _ _ _ => true
  | .addsU32 _ _ _ => true
  | .subsU32 _ _ _ => true
  | .minI32 _ _ _ => true
  | .maxI32 _ _ _ => true
  | .minU32 _ _ _ => true
  | .maxU32 _ _ _ => true
  | .absI32 _ _ => true
  | .andB32 _ _ _ => true
  | .orB32 _ _ _ => true
  | .xorB32 _ _ _ => true
  | .andnB32 _ _ _ => true
  | .shlB32 _ _ _ => true
  | .shrU32 _ _ _ => true
  | .shrI32 _ _ _ => true
  | .rotlB32 _ _ _ => true
  | .popcB32 _ _ => true
  | .clzB32 _ _ => true
  | .brevB32 _ _ => true
  | .notB32 _ _ => true
  | .bfeU32 _ _ _ => true
  | .bfeI32 _ _ _ => true
  | .bfiB32 _ _ _ => true
  | .bselB32 _ _ _ => true
  | .addI64 d a b => d.even && a.even && b.even
  | .subI64 d a b => d.even && a.even && b.even
  | .mulI64 d a b => d.even && a.even && b.even
  | .shlB64 d a _ => d.even && a.even
  | .shrU64 d a _ => d.even && a.even
  | .shrI64 d a _ => d.even && a.even
  | .minI64 d a b => d.even && a.even && b.even
  | .maxI64 d a b => d.even && a.even && b.even
  | .mulwideI32 d _ _ => d.even
  | .mulwideU32 d _ _ => d.even
  | .madI32 _ _ _ => true
  | .madI64 d a b => d.even && a.even && b.even
  | .addI32Imm _ _ _ => true
  | .mulI32Imm _ _ _ => true
  | .andB32Imm _ _ _ => true
  | .orB32Imm _ _ _ => true
  | .xorB32Imm _ _ _ => true
  | .shlB32Imm _ _ i => decide (i.toNat < 32)
  | .shrU32Imm _ _ i => decide (i.toNat < 32)
  | .shrI32Imm _ _ i => decide (i.toNat < 32)
  | .movB32Imm _ _ => true
  | .setpI32 _ _ _ _ => true
  | .setpU32 _ _ _ _ => true
  | .setpF32 _ _ _ _ => true
  | .setpI64 _ _ a b => a.even && b.even
  | .setpF16 _ _ _ _ => true
  | .setpBf16 _ _ _ _ => true
  | .pand _ _ _ => true
  | .por _ _ _ => true
  | .pxor _ _ _ => true
  | .pnot _ _ => true
  | .pandn _ _ _ => true
  | .selB32 _ _ _ _ _ => true
  | .movB32 _ _ => true
  | .movB64 d a => d.even && a.even
  | .shflIdx _ _ _ => true
  | .shflUp _ _ _ => true
  | .shflDown _ _ _ => true
  | .shflXor _ _ _ => true
  | .wredAddI32 _ _ => true
  | .wredMinI32 _ _ => true
  | .wredMaxI32 _ _ => true
  | .wredAddF32 _ _ => true
  | .wscanAddI32 _ _ => true
  | .wscanAddxI32 _ _ => true
  | .wscanAddF32 _ _ => true
  | .voteAny _ _ => true
  | .voteAll _ _ => true
  | .voteBallot _ _ => true
  | .wredAndB32 _ _ => true
  | .wredOrB32 _ _ => true
  | .faddF32 _ _ _ _ => true
  | .fsubF32 _ _ _ _ => true
  | .fmulF32 _ _ _ _ => true
  | .fmaF32 _ _ _ _ => true
  | .faddF16 _ _ _ _ => true
  | .fsubF16 _ _ _ _ => true
  | .fmulF16 _ _ _ _ => true
  | .fmaF16 _ _ _ _ => true
  | .faddBf16 _ _ _ _ => true
  | .fsubBf16 _ _ _ _ => true
  | .fmulBf16 _ _ _ _ => true
  | .fmaBf16 _ _ _ _ => true
  | .fminF32 _ _ _ => true
  | .fmaxF32 _ _ _ => true
  | .fabsF32 _ _ => true
  | .fnegF32 _ _ => true
  | .fminF16 _ _ _ => true
  | .fmaxF16 _ _ _ => true
  | .fminBf16 _ _ _ => true
  | .fmaxBf16 _ _ _ => true
  | .cvt d a _ t u => (!t.wide || d.even) && (!u.wide || a.even)
  | .npack _ _ _ _ => true
  | .nunpack _ _ _ _ => true
  | .expF32 _ _ => true
  | .exp2F32 _ _ => true
  | .logF32 _ _ => true
  | .log2F32 _ _ => true
  | .sinpiF32 _ _ => true
  | .cospiF32 _ _ => true
  | .tanhF32 _ _ => true
  | .sigmF32 _ _ => true
  | .erfF32 _ _ => true
  | .rcpF32 _ _ => true
  | .rsqrtF32 _ _ => true
  | .sqrtF32 _ _ => true
  | .divF32 _ _ _ => true
  | .expF16 _ _ => true
  | .exp2F16 _ _ => true
  | .logF16 _ _ => true
  | .log2F16 _ _ => true
  | .sinpiF16 _ _ => true
  | .cospiF16 _ _ => true
  | .tanhF16 _ _ => true
  | .sigmF16 _ _ => true
  | .erfF16 _ _ => true
  | .rcpF16 _ _ => true
  | .rsqrtF16 _ _ => true
  | .sqrtF16 _ _ => true
  | .divF16 _ _ _ => true
  | .expBf16 _ _ => true
  | .exp2Bf16 _ _ => true
  | .logBf16 _ _ => true
  | .log2Bf16 _ _ => true
  | .sinpiBf16 _ _ => true
  | .cospiBf16 _ _ => true
  | .tanhBf16 _ _ => true
  | .sigmBf16 _ _ => true
  | .erfBf16 _ _ => true
  | .rcpBf16 _ _ => true
  | .rsqrtBf16 _ _ => true
  | .sqrtBf16 _ _ => true
  | .divBf16 _ _ _ => true
  | .saddI32 _ _ _ => true
  | .ssubI32 _ _ _ => true
  | .smulI32 _ _ _ => true
  | .sandB32 _ _ _ => true
  | .sorB32 _ _ _ => true
  | .sxorB32 _ _ _ => true
  | .sshlB32 _ _ _ => true
  | .sshrU32 _ _ _ => true
  | .sshrI32 _ _ _ => true
  | .sminI32 _ _ _ => true
  | .smaxI32 _ _ _ => true
  | .smovB32 _ _ => true
  | .saddI64 d a b => d.even && a.even && b.even
  | .ssubI64 d a b => d.even && a.even && b.even
  | .sminU32 _ _ _ => true
  | .smaxU32 _ _ _ => true
  | .smovB32Imm _ _ => true
  | .saddI32Imm _ _ _ => true
  | .scmpEqI32 _ _ _ => true
  | .scmpNeI32 _ _ _ => true
  | .scmpLtI32 _ _ _ => true
  | .scmpLeI32 _ _ _ => true
  | .scmpGtI32 _ _ _ => true
  | .scmpGeI32 _ _ _ => true
  | .scmpEqU32 _ _ _ => true
  | .scmpNeU32 _ _ _ => true
  | .scmpLtU32 _ _ _ => true
  | .scmpLeU32 _ _ _ => true
  | .scmpGtU32 _ _ _ => true
  | .scmpGeU32 _ _ _ => true
  | .getsScalar d n => !n.perThread && (!n.wide || d.even)
  | .getsVector d n => (!n.wide || d.even)
  | .sets d => decide (d ≠ .imm)
  | .bra _ _ _ => true
  | .bru _ _ _ => true
  | .call _ => true
  | .nop => true
  | .join => true
  | .ret => true
  | .exit => true
  | .yield => true
  | .tret => true
  | .getmask _ => true
  | .setmask _ => true
  | .jmpi a => a.even
  | .calli a => a.even
  | .wbase _ => true
  | .trap _ => true
  | .sleepn d _ => decide (d ≠ .imm)
  | .waitt a => a.even
  | .tmarkFull a => a.even
  | .tmarkEmpty a => a.even
  | .ttest _ a => a.even
  | .put _ _ q _ => decide (q.toNat < 12)
  | .get _ _ q => decide (q.toNat < 12)
  | .send _ _ q _ => decide (q.toNat < 12)
  | .pread _ _ => true
  | .phint _ => true
  | .ldSU8 _ _ _ s r => loadOrder s r
  | .ldSI8 _ _ _ s r => loadOrder s r
  | .ldSU16 _ _ _ s r => loadOrder s r
  | .ldSI16 _ _ _ s r => loadOrder s r
  | .ldS _ _ _ s r => loadOrder s r
  | .ldSB64 d _ _ s r => d.even && loadOrder s r
  | .stSB8 _ _ _ s r => storeOrder s r
  | .stSB16 _ _ _ s r => storeOrder s r
  | .stS _ _ _ s r => storeOrder s r
  | .stSB64 d _ _ s r => d.even && storeOrder s r
  | .ldGU8 _ b _ s r => b.even && loadOrder s r
  | .ldGI8 _ b _ s r => b.even && loadOrder s r
  | .ldGU16 _ b _ s r => b.even && loadOrder s r
  | .ldGI16 _ b _ s r => b.even && loadOrder s r
  | .ldG _ b _ s r => b.even && loadOrder s r
  | .ldGB64 d b _ s r => d.even && b.even && loadOrder s r
  | .stGB8 _ b _ s r => b.even && storeOrder s r
  | .stGB16 _ b _ s r => b.even && storeOrder s r
  | .stG _ b _ s r => b.even && storeOrder s r
  | .stGB64 d b _ s r => d.even && b.even && storeOrder s r
  | .ldtG d b _ s r => d.rowReg && b.even && loadOrder s r
  | .sttG d b _ s r => d.rowReg && b.even && storeOrder s r
  | .ldtS d _ _ s r => d.rowReg && loadOrder s r
  | .sttS d _ _ s r => d.rowReg && storeOrder s r
  | .atomS d _ o s r => atomData o d && atomOrder s r
  | .atomSB64 d _ o s r => atomData64 o d && decide (o ≠ .fadd) && atomOrder s r
  | .atomG d b o s r => atomData o d && b.even && atomOrder s r
  | .atomGB64 d b o s r => atomData64 o d && decide (o ≠ .fadd) && b.even && atomOrder s r
  | .fence s r => fenceOrder s r
  | .waita d b _ s r => d.even && b.even && loadOrder s r
  | .sinit _ _ => true
  | .twait _ _ _ => true
  | .give _ => true
  | .claim _ => true
  | .bar => true
  | .barN _ => true
  | .bbar => true
  | .mma _ _ _ => true
  | .mmaBf16 _ _ _ => true
  | .mmaF16 _ _ _ => true
  | .mmaSq _ _ _ => true
  | .aclr _ => true
  | .ald _ _ _ => true
  | .ast _ _ _ => true
  | .ascale _ _ => true
  | .aexp _ _ => true
  | .shape _ _ _ _ => true
  | .setfmt _ i => fmtValid (i.setWidth 32)
  | .getfmt _ _ => true
  | .setfmtR _ _ => true
  | .copyG2s _ a b => a.even && b.even
  | .copyS2g d _ b => d.even && b.even
  | .copyS2s _ _ b => b.even
  | .copyG2g d a b => d.even && a.even && b.even
  | .copyG2sMc _ a b => a.even && b.even
  | .copyS2sMc _ _ b => b.even
  | .cseal => true
  | .cwait i => decide (i.toNat < 64)
  | .sset _ _ _ => true
  | .spop _ _ _ => true
  | .sstat _ _ _ => true
  | .sclose _ => true
  | .qfence m => decide (m ≠ 0)
  | .hprobe _ b => b.even
  | .hins _ _ => true
  | .hdel _ _ _ => true
  | .hrehash _ b => b.even
  | .hsetBind _ _ => true
  | .hsetBindClear _ _ => true
  | .hsetUnbind _ _ => true
  | .hsetStatus _ _ => true
  | .gtopk _ b _ _ _ _ => b.even
  | .ghist _ b _ _ => b.even
  | .gscan _ b _ _ _ => b.even
  | .gperm _ b _ => b.even
  | .isect d _ _ => d.even
  | .launch a _ => a.even
  | .cancelDrain a => a.even
  | .cancelTrap a => a.even
  | .grd _ _ => true
  | .xim _ => true
  | .csrr d n => (!n.wide || d.even)
  | .csrw n a => n.writable && (!n.wide || a.even)
  | .tlbinv _ b => b.even
  | .tlbinvAll _ => true
  | .globalAccessComplete _ _ => true
  | .translationWalk _ _ _ _ _ => true
  | .fqheadPoll _ => true
  | .faultStatusObserved _ _ => true
  | .copyPerform _ _ => true
  | .streamItemDeliver _ _ => true
  | .mmaPerform _ => true
  | .aclrPerform _ => true
  | .aldPerform _ => true
  | .astPerform _ => true
  | .ascalePerform _ => true
  | .aexpPerform _ => true
  | .hprobeRequest _ => true
  | .hinsRequest _ => true
  | .hdelRequest _ => true
  | .hrehashRequest _ => true
  | .hsetRequest _ => true
  | .gtopkRequest _ => true
  | .ghistRequest _ => true
  | .gscanRequest _ => true
  | .gpermRequest _ => true
  | .fabricOpPerform _ _ => true
  | .sendRetryTimeout _ => true
  | .waitDeadline _ => true
  | .twaitBound _ => true
  | .waitaReread _ => true
  | .waitLimitTimeout _ => true
  | .claimGrant _ => true
  | .allowanceCycle _ _ => true
  | .floorDue _ _ => true
  | .slewStep _ => true
  | .marverDispatch => true
  | .groupCompletion _ => true
  | .poolGroupCommit _ => true
  | .tileStatePoll _ => true
  | .classAgeing _ => true
  | .quantumCommit _ => true
  | .coreDump _ => true
  | .dumpgoWrite _ => true
  | .clampBlockWrite _ => true
  | .mgmtRegisterWrite _ _ => true
  | .mread => true
  | .mwrite => true
  | .jlset => true
  | .jlstop => true
  | .attest => true
  | .mailboxUnknownCommand => true
  | .jobLaunch => true
  | .jobCancelDrain => true
  | .jobCancelTrap => true
  | .jobRecordSkip => true
  | .hostInboundAccess _ _ _ _ => true
  | .spireInboundAccess _ _ _ => true
  | .arrivalMatch _ _ _ _ => true
  | .arrivalTaskAppend _ => true
  | .spireLaneFail _ => true
  | .shelfFrame _ => true
  | .frameLossTimeout => true
  | .belfryPeriod _ _ => true
  | .unattTimer => true
  | .restoreStagger _ _ => true
  | .bckgoGo => true
  | .bckgoRestore => true
  | .checkpointCopyDone => true
  | .checkpointFailResume => true
  | .restoreCopyDone => true
  | .lehrPeriod _ _ => true
  | .thermalSample _ _ => true
  | .thermalShutdown _ => true
  | .eolhUpdate _ _ => true
  | .softError _ => true
  | .scrub _ _ _ => true
  | .quadRetire _ _ => true
  | .engineRetire _ => true
  | .moduleReset => true
  | .hostLinkTrained _ => true
  | .linkTrainingTimeout => true
  | .firmwareStart _ => true
  | .scratchpadAccessComplete _ _ => true
  | .hostLinkDown _ => true
  | .spireLinkDown _ => true

/-- The rows of the opcode table that are the machine's own steps and outside events: they have no word. -/
def isEvent : Instr → Bool
  | .addI32 _ _ _ => false
  | .subI32 _ _ _ => false
  | .mulI32 _ _ _ => false
  | .mulhiI32 _ _ _ => false
  | .mulhiU32 _ _ _ => false
  | .addsI32 _ _ _ => false
  | .subsI32 _ _ _ => false
  | .addsU32 _ _ _ => false
  | .subsU32 _ _ _ => false
  | .minI32 _ _ _ => false
  | .maxI32 _ _ _ => false
  | .minU32 _ _ _ => false
  | .maxU32 _ _ _ => false
  | .absI32 _ _ => false
  | .andB32 _ _ _ => false
  | .orB32 _ _ _ => false
  | .xorB32 _ _ _ => false
  | .andnB32 _ _ _ => false
  | .shlB32 _ _ _ => false
  | .shrU32 _ _ _ => false
  | .shrI32 _ _ _ => false
  | .rotlB32 _ _ _ => false
  | .popcB32 _ _ => false
  | .clzB32 _ _ => false
  | .brevB32 _ _ => false
  | .notB32 _ _ => false
  | .bfeU32 _ _ _ => false
  | .bfeI32 _ _ _ => false
  | .bfiB32 _ _ _ => false
  | .bselB32 _ _ _ => false
  | .addI64 _ _ _ => false
  | .subI64 _ _ _ => false
  | .mulI64 _ _ _ => false
  | .shlB64 _ _ _ => false
  | .shrU64 _ _ _ => false
  | .shrI64 _ _ _ => false
  | .minI64 _ _ _ => false
  | .maxI64 _ _ _ => false
  | .mulwideI32 _ _ _ => false
  | .mulwideU32 _ _ _ => false
  | .madI32 _ _ _ => false
  | .madI64 _ _ _ => false
  | .addI32Imm _ _ _ => false
  | .mulI32Imm _ _ _ => false
  | .andB32Imm _ _ _ => false
  | .orB32Imm _ _ _ => false
  | .xorB32Imm _ _ _ => false
  | .shlB32Imm _ _ _ => false
  | .shrU32Imm _ _ _ => false
  | .shrI32Imm _ _ _ => false
  | .movB32Imm _ _ => false
  | .setpI32 _ _ _ _ => false
  | .setpU32 _ _ _ _ => false
  | .setpF32 _ _ _ _ => false
  | .setpI64 _ _ _ _ => false
  | .setpF16 _ _ _ _ => false
  | .setpBf16 _ _ _ _ => false
  | .pand _ _ _ => false
  | .por _ _ _ => false
  | .pxor _ _ _ => false
  | .pnot _ _ => false
  | .pandn _ _ _ => false
  | .selB32 _ _ _ _ _ => false
  | .movB32 _ _ => false
  | .movB64 _ _ => false
  | .shflIdx _ _ _ => false
  | .shflUp _ _ _ => false
  | .shflDown _ _ _ => false
  | .shflXor _ _ _ => false
  | .wredAddI32 _ _ => false
  | .wredMinI32 _ _ => false
  | .wredMaxI32 _ _ => false
  | .wredAddF32 _ _ => false
  | .wscanAddI32 _ _ => false
  | .wscanAddxI32 _ _ => false
  | .wscanAddF32 _ _ => false
  | .voteAny _ _ => false
  | .voteAll _ _ => false
  | .voteBallot _ _ => false
  | .wredAndB32 _ _ => false
  | .wredOrB32 _ _ => false
  | .faddF32 _ _ _ _ => false
  | .fsubF32 _ _ _ _ => false
  | .fmulF32 _ _ _ _ => false
  | .fmaF32 _ _ _ _ => false
  | .faddF16 _ _ _ _ => false
  | .fsubF16 _ _ _ _ => false
  | .fmulF16 _ _ _ _ => false
  | .fmaF16 _ _ _ _ => false
  | .faddBf16 _ _ _ _ => false
  | .fsubBf16 _ _ _ _ => false
  | .fmulBf16 _ _ _ _ => false
  | .fmaBf16 _ _ _ _ => false
  | .fminF32 _ _ _ => false
  | .fmaxF32 _ _ _ => false
  | .fabsF32 _ _ => false
  | .fnegF32 _ _ => false
  | .fminF16 _ _ _ => false
  | .fmaxF16 _ _ _ => false
  | .fminBf16 _ _ _ => false
  | .fmaxBf16 _ _ _ => false
  | .cvt _ _ _ _ _ => false
  | .npack _ _ _ _ => false
  | .nunpack _ _ _ _ => false
  | .expF32 _ _ => false
  | .exp2F32 _ _ => false
  | .logF32 _ _ => false
  | .log2F32 _ _ => false
  | .sinpiF32 _ _ => false
  | .cospiF32 _ _ => false
  | .tanhF32 _ _ => false
  | .sigmF32 _ _ => false
  | .erfF32 _ _ => false
  | .rcpF32 _ _ => false
  | .rsqrtF32 _ _ => false
  | .sqrtF32 _ _ => false
  | .divF32 _ _ _ => false
  | .expF16 _ _ => false
  | .exp2F16 _ _ => false
  | .logF16 _ _ => false
  | .log2F16 _ _ => false
  | .sinpiF16 _ _ => false
  | .cospiF16 _ _ => false
  | .tanhF16 _ _ => false
  | .sigmF16 _ _ => false
  | .erfF16 _ _ => false
  | .rcpF16 _ _ => false
  | .rsqrtF16 _ _ => false
  | .sqrtF16 _ _ => false
  | .divF16 _ _ _ => false
  | .expBf16 _ _ => false
  | .exp2Bf16 _ _ => false
  | .logBf16 _ _ => false
  | .log2Bf16 _ _ => false
  | .sinpiBf16 _ _ => false
  | .cospiBf16 _ _ => false
  | .tanhBf16 _ _ => false
  | .sigmBf16 _ _ => false
  | .erfBf16 _ _ => false
  | .rcpBf16 _ _ => false
  | .rsqrtBf16 _ _ => false
  | .sqrtBf16 _ _ => false
  | .divBf16 _ _ _ => false
  | .saddI32 _ _ _ => false
  | .ssubI32 _ _ _ => false
  | .smulI32 _ _ _ => false
  | .sandB32 _ _ _ => false
  | .sorB32 _ _ _ => false
  | .sxorB32 _ _ _ => false
  | .sshlB32 _ _ _ => false
  | .sshrU32 _ _ _ => false
  | .sshrI32 _ _ _ => false
  | .sminI32 _ _ _ => false
  | .smaxI32 _ _ _ => false
  | .smovB32 _ _ => false
  | .saddI64 _ _ _ => false
  | .ssubI64 _ _ _ => false
  | .sminU32 _ _ _ => false
  | .smaxU32 _ _ _ => false
  | .smovB32Imm _ _ => false
  | .saddI32Imm _ _ _ => false
  | .scmpEqI32 _ _ _ => false
  | .scmpNeI32 _ _ _ => false
  | .scmpLtI32 _ _ _ => false
  | .scmpLeI32 _ _ _ => false
  | .scmpGtI32 _ _ _ => false
  | .scmpGeI32 _ _ _ => false
  | .scmpEqU32 _ _ _ => false
  | .scmpNeU32 _ _ _ => false
  | .scmpLtU32 _ _ _ => false
  | .scmpLeU32 _ _ _ => false
  | .scmpGtU32 _ _ _ => false
  | .scmpGeU32 _ _ _ => false
  | .getsScalar _ _ => false
  | .getsVector _ _ => false
  | .sets _ => false
  | .bra _ _ _ => false
  | .bru _ _ _ => false
  | .call _ => false
  | .nop => false
  | .join => false
  | .ret => false
  | .exit => false
  | .yield => false
  | .tret => false
  | .getmask _ => false
  | .setmask _ => false
  | .jmpi _ => false
  | .calli _ => false
  | .wbase _ => false
  | .trap _ => false
  | .sleepn _ _ => false
  | .waitt _ => false
  | .tmarkFull _ => false
  | .tmarkEmpty _ => false
  | .ttest _ _ => false
  | .put _ _ _ _ => false
  | .get _ _ _ => false
  | .send _ _ _ _ => false
  | .pread _ _ => false
  | .phint _ => false
  | .ldSU8 _ _ _ _ _ => false
  | .ldSI8 _ _ _ _ _ => false
  | .ldSU16 _ _ _ _ _ => false
  | .ldSI16 _ _ _ _ _ => false
  | .ldS _ _ _ _ _ => false
  | .ldSB64 _ _ _ _ _ => false
  | .stSB8 _ _ _ _ _ => false
  | .stSB16 _ _ _ _ _ => false
  | .stS _ _ _ _ _ => false
  | .stSB64 _ _ _ _ _ => false
  | .ldGU8 _ _ _ _ _ => false
  | .ldGI8 _ _ _ _ _ => false
  | .ldGU16 _ _ _ _ _ => false
  | .ldGI16 _ _ _ _ _ => false
  | .ldG _ _ _ _ _ => false
  | .ldGB64 _ _ _ _ _ => false
  | .stGB8 _ _ _ _ _ => false
  | .stGB16 _ _ _ _ _ => false
  | .stG _ _ _ _ _ => false
  | .stGB64 _ _ _ _ _ => false
  | .ldtG _ _ _ _ _ => false
  | .sttG _ _ _ _ _ => false
  | .ldtS _ _ _ _ _ => false
  | .sttS _ _ _ _ _ => false
  | .atomS _ _ _ _ _ => false
  | .atomSB64 _ _ _ _ _ => false
  | .atomG _ _ _ _ _ => false
  | .atomGB64 _ _ _ _ _ => false
  | .fence _ _ => false
  | .waita _ _ _ _ _ => false
  | .sinit _ _ => false
  | .twait _ _ _ => false
  | .give _ => false
  | .claim _ => false
  | .bar => false
  | .barN _ => false
  | .bbar => false
  | .mma _ _ _ => false
  | .mmaBf16 _ _ _ => false
  | .mmaF16 _ _ _ => false
  | .mmaSq _ _ _ => false
  | .aclr _ => false
  | .ald _ _ _ => false
  | .ast _ _ _ => false
  | .ascale _ _ => false
  | .aexp _ _ => false
  | .shape _ _ _ _ => false
  | .setfmt _ _ => false
  | .getfmt _ _ => false
  | .setfmtR _ _ => false
  | .copyG2s _ _ _ => false
  | .copyS2g _ _ _ => false
  | .copyS2s _ _ _ => false
  | .copyG2g _ _ _ => false
  | .copyG2sMc _ _ _ => false
  | .copyS2sMc _ _ _ => false
  | .cseal => false
  | .cwait _ => false
  | .sset _ _ _ => false
  | .spop _ _ _ => false
  | .sstat _ _ _ => false
  | .sclose _ => false
  | .qfence _ => false
  | .hprobe _ _ => false
  | .hins _ _ => false
  | .hdel _ _ _ => false
  | .hrehash _ _ => false
  | .hsetBind _ _ => false
  | .hsetBindClear _ _ => false
  | .hsetUnbind _ _ => false
  | .hsetStatus _ _ => false
  | .gtopk _ _ _ _ _ _ => false
  | .ghist _ _ _ _ => false
  | .gscan _ _ _ _ _ => false
  | .gperm _ _ _ => false
  | .isect _ _ _ => false
  | .launch _ _ => false
  | .cancelDrain _ => false
  | .cancelTrap _ => false
  | .grd _ _ => false
  | .xim _ => false
  | .csrr _ _ => false
  | .csrw _ _ => false
  | .tlbinv _ _ => false
  | .tlbinvAll _ => false
  | .globalAccessComplete _ _ => true
  | .translationWalk _ _ _ _ _ => true
  | .fqheadPoll _ => true
  | .faultStatusObserved _ _ => true
  | .copyPerform _ _ => true
  | .streamItemDeliver _ _ => true
  | .mmaPerform _ => true
  | .aclrPerform _ => true
  | .aldPerform _ => true
  | .astPerform _ => true
  | .ascalePerform _ => true
  | .aexpPerform _ => true
  | .hprobeRequest _ => true
  | .hinsRequest _ => true
  | .hdelRequest _ => true
  | .hrehashRequest _ => true
  | .hsetRequest _ => true
  | .gtopkRequest _ => true
  | .ghistRequest _ => true
  | .gscanRequest _ => true
  | .gpermRequest _ => true
  | .fabricOpPerform _ _ => true
  | .sendRetryTimeout _ => true
  | .waitDeadline _ => true
  | .twaitBound _ => true
  | .waitaReread _ => true
  | .waitLimitTimeout _ => true
  | .claimGrant _ => true
  | .allowanceCycle _ _ => true
  | .floorDue _ _ => true
  | .slewStep _ => true
  | .marverDispatch => true
  | .groupCompletion _ => true
  | .poolGroupCommit _ => true
  | .tileStatePoll _ => true
  | .classAgeing _ => true
  | .quantumCommit _ => true
  | .coreDump _ => true
  | .dumpgoWrite _ => true
  | .clampBlockWrite _ => true
  | .mgmtRegisterWrite _ _ => true
  | .mread => true
  | .mwrite => true
  | .jlset => true
  | .jlstop => true
  | .attest => true
  | .mailboxUnknownCommand => true
  | .jobLaunch => true
  | .jobCancelDrain => true
  | .jobCancelTrap => true
  | .jobRecordSkip => true
  | .hostInboundAccess _ _ _ _ => true
  | .spireInboundAccess _ _ _ => true
  | .arrivalMatch _ _ _ _ => true
  | .arrivalTaskAppend _ => true
  | .spireLaneFail _ => true
  | .shelfFrame _ => true
  | .frameLossTimeout => true
  | .belfryPeriod _ _ => true
  | .unattTimer => true
  | .restoreStagger _ _ => true
  | .bckgoGo => true
  | .bckgoRestore => true
  | .checkpointCopyDone => true
  | .checkpointFailResume => true
  | .restoreCopyDone => true
  | .lehrPeriod _ _ => true
  | .thermalSample _ _ => true
  | .thermalShutdown _ => true
  | .eolhUpdate _ _ => true
  | .softError _ => true
  | .scrub _ _ _ => true
  | .quadRetire _ _ => true
  | .engineRetire _ => true
  | .moduleReset => true
  | .hostLinkTrained _ => true
  | .linkTrainingTimeout => true
  | .firmwareStart _ => true
  | .scratchpadAccessComplete _ _ => true
  | .hostLinkDown _ => true
  | .spireLinkDown _ => true

end Sys2Proof
end

