-- ==== Sys2Proof/Decode.lean ====
section
/-! DEFINITION. The decoder (R24 to R41), total on any word, rejecting by the sub-causes of R39; and the encoder,
written from the same tables. -/

namespace Sys2Proof

/-- Why a word is ILLEGAL: the sub-causes of R39, in their order. -/
inductive Illegal where
  | major      -- 1: unassigned major opcode
  | fn         -- 2: unassigned fn value
  | res        -- 3: nonzero RES field
  | operand    -- 4: operand code not valid for the class of the field
  | dest       -- 5: source-only code used as a destination
  | odd        -- 6: odd register in a 64-bit field
  | prefixUse  -- 7: prefix misuse
  | ctl        -- 8: reserved scope, order, queue or ctl value
  | range      -- 9: immediate outside its range
deriving DecidableEq, Repr

/-- The number of a sub-cause in the trap record (R39). -/
def Illegal.num : Illegal → Nat
  | .major => 1
  | .fn => 2
  | .res => 3
  | .operand => 4
  | .dest => 5
  | .odd => 6
  | .prefixUse => 7
  | .ctl => 8
  | .range => 9

/-- The lower of two sub-causes: the record holds the lowest that applies (R39). -/
def Illegal.least (a b : Illegal) : Illegal := if a.num ≤ b.num then a else b

/-! The checks of one word run side by side, so that the least sub-cause is found. -/

def ap (f : Except Illegal (α → β)) (x : Except Illegal α) : Except Illegal β :=
  match f, x with
  | .ok g, .ok a => .ok (g a)
  | .ok _, .error e => .error e
  | .error e, .ok _ => .error e
  | .error e, .error e' => .error (e.least e')

def ap1 (c : α → β) (x : Except Illegal α) : Except Illegal β := ap (.ok c) x
def ap2 (c : α → β → γ) (x : Except Illegal α) (y : Except Illegal β) : Except Illegal γ := ap (ap1 c x) y
def ap3 (c : α → β → γ → δ) (x : Except Illegal α) (y : Except Illegal β) (z : Except Illegal γ) : Except Illegal δ :=
  ap (ap2 c x y) z
def ap4 (c : α → β → γ → δ → ε) (x : Except Illegal α) (y : Except Illegal β) (z : Except Illegal γ)
    (u : Except Illegal δ) : Except Illegal ε := ap (ap3 c x y z) u
def ap5 (c : α → β → γ → δ → ε → ζ) (x : Except Illegal α) (y : Except Illegal β) (z : Except Illegal γ)
    (u : Except Illegal δ) (v : Except Illegal ε) : Except Illegal ζ := ap (ap4 c x y z u) v
def ap6 (c : α → β → γ → δ → ε → ζ → η) (x : Except Illegal α) (y : Except Illegal β) (z : Except Illegal γ)
    (u : Except Illegal δ) (v : Except Illegal ε) (t : Except Illegal ζ) : Except Illegal η := ap (ap5 c x y z u v) t

/-- A check beside the fields. -/
def also (x : Except Illegal α) (chk : Except Illegal Unit) : Except Illegal α := ap (ap (.ok fun a _ => a) x) chk

/-! The fields of a word (R25). -/

def fOp (w : Word) : Nat := (w.extractLsb' 25 7).toNat
def fD (w : Word) : BitVec 7 := w.extractLsb' 18 7
def fA (w : Word) : BitVec 7 := w.extractLsb' 11 7
def fB (w : Word) : BitVec 7 := w.extractLsb' 4 7
def fFn (w : Word) : Nat := (w.extractLsb' 0 4).toNat
def fImm11 (w : Word) : BitVec 11 := w.extractLsb' 0 11
def fImm18 (w : Word) : BitVec 18 := w.extractLsb' 0 18
def fOff (w : Word) : BitVec 6 := w.extractLsb' 5 6
def fScope (w : Word) : BitVec 3 := w.extractLsb' 2 3
def fOrder (w : Word) : BitVec 2 := w.extractLsb' 0 2
def fQ (w : Word) : BitVec 4 := w.extractLsb' 7 4
def fCtl (w : Word) : BitVec 7 := w.extractLsb' 0 7

/-! The decoding of one field. -/

/-- A field marked RES (R39). -/
def res (x : BitVec n) : Except Illegal Unit := if x = 0 then .ok () else .error .res

/-- A queue or ctl field that must be 0 (R39, sub-cause 8). -/
def zero (e : Illegal) (x : BitVec n) : Except Illegal Unit := if x = 0 then .ok () else .error e

/-- A vector-class source (R26). -/
def vSrc (c : BitVec 7) : Except Illegal VOp :=
  if h : c.toNat < 96 then .ok (.w ⟨c.toNat, h⟩)
  else if h : c.toNat - 0x60 < 8 then .ok (.o ⟨c.toNat - 0x60, h⟩)
  else if h : c.toNat - 0x68 < 4 then .ok (.h ⟨c.toNat - 0x68, h⟩)
  else if h : c.toNat - 0x6C < 16 then .ok (.s ⟨c.toNat - 0x6C, h⟩)
  else if c = 0x7C then .ok .z
  else if c = 0x7D then .ok .ix
  else if c = 0x7E then .ok .imm
  else .error .operand

/-- A vector-class destination (R26). -/
def vDst (c : BitVec 7) : Except Illegal VDst :=
  if h : c.toNat < 96 then .ok (.w ⟨c.toNat, h⟩)
  else if h : c.toNat - 0x60 < 8 then .ok (.o ⟨c.toNat - 0x60, h⟩)
  else if c = 0x7C then .ok .z
  else if c = 0x7F then .error .operand
  else .error .dest

/-- A scalar-class source (R27). -/
def sSrc (c : BitVec 7) : Except Illegal SOp :=
  if h : c.toNat < 64 then .ok (.s ⟨c.toNat, h⟩)
  else if c = 0x7C then .ok .z
  else if c = 0x7E then .ok .imm
  else .error .operand

/-- A scalar-class destination (R27). -/
def sDst (c : BitVec 7) : Except Illegal SDst :=
  if h : c.toNat < 64 then .ok (.s ⟨c.toNat, h⟩)
  else if c = 0x7C then .ok .z
  else if c = 0x7E then .error .dest
  else .error .operand

/-- A scalar-class source that no XIM can feed (R115, R134). -/
def sSrcNoImm (c : BitVec 7) : Except Illegal SOp :=
  if c = 0x7E then .error .prefixUse else sSrc c

def evenV (a : VOp) : Except Illegal VOp := if a.even then .ok a else .error .odd
def evenVd (a : VDst) : Except Illegal VDst := if a.even then .ok a else .error .odd
def evenS (a : SOp) : Except Illegal SOp := if a.even then .ok a else .error .odd
def evenSd (a : SDst) : Except Illegal SDst := if a.even then .ok a else .error .odd

/-- The same fields where they hold a 64-bit operand (R30). -/
def vSrc64 (c : BitVec 7) : Except Illegal VOp := (vSrc c).bind evenV
def vDst64 (c : BitVec 7) : Except Illegal VDst := (vDst c).bind evenVd
def sSrc64 (c : BitVec 7) : Except Illegal SOp := (sSrc c).bind evenS
def sDst64 (c : BitVec 7) : Except Illegal SDst := (sDst c).bind evenSd

/-- A count or barrier operand (R151, R155). -/
def cSrc (c : BitVec 7) : Except Illegal COp :=
  if c.toNat < 0x6C then .error .operand
  else if h : c.toNat - 0x6C < 16 then .ok (.s ⟨c.toNat - 0x6C, h⟩)
  else if c = 0x7C then .ok .z
  else if c = 0x7E then .ok .imm
  else .error .operand

/-- A predicate field (R29). -/
def pred (c : BitVec 7) : Except Illegal (Fin 8) :=
  if h : c.toNat < 8 then .ok ⟨c.toNat, h⟩ else .error .operand

/-- A format-register or stream number held directly (R179, R188, R259). -/
def fmtField (c : BitVec 7) : Except Illegal (Fin 4) :=
  if h : c.toNat < 4 then .ok ⟨c.toNat, h⟩ else .error .operand

/-- Eight registers of a tile row (R162). -/
def rowDst (c : BitVec 7) : Except Illegal VDst :=
  if h : c.toNat < 96 then if c.toNat % 8 = 0 then .ok (.w ⟨c.toNat, h⟩) else .error .operand
  else if c = 0x60 then .ok (.o 0)
  else .error .operand

def icmp (fn : Nat) : Except Illegal ICmp :=
  match fn with
  | 0 => .ok .eq
  | 1 => .ok .ne
  | 2 => .ok .lt
  | 3 => .ok .le
  | 4 => .ok .gt
  | 5 => .ok .ge
  | _ => .error .fn

def fcmp (fn : Nat) : Except Illegal FCmp :=
  match fn with
  | 0 => .ok .eq
  | 1 => .ok .ne
  | 2 => .ok .lt
  | 3 => .ok .le
  | 4 => .ok .gt
  | 5 => .ok .ge
  | 6 => .ok .equ
  | 7 => .ok .neu
  | 8 => .ok .ltu
  | 9 => .ok .leu
  | 10 => .ok .gtu
  | 11 => .ok .geu
  | 12 => .ok .num
  | 13 => .ok .nan
  | _ => .error .fn

def arnd (n : Nat) : ARnd :=
  match n with
  | 0 => .rne
  | 1 => .rz
  | 2 => .ru
  | _ => .rd

/-- The rounding field of `cvt` (R105). -/
def rnd (c : BitVec 3) : Except Illegal Rnd :=
  match c.toNat with
  | 0 => .ok .rne
  | 1 => .ok .rz
  | 2 => .ok .ru
  | 3 => .ok .rd
  | 4 => .ok .sr
  | _ => .error .range

/-- A type field of `cvt` (R105). -/
def numTy (c : BitVec 4) : Except Illegal NumTy :=
  match c.toNat with
  | 0 => .ok .u8
  | 1 => .ok .i8
  | 2 => .ok .u16
  | 3 => .ok .i16
  | 4 => .ok .u32
  | 5 => .ok .i32
  | 6 => .ok .u64
  | 7 => .ok .i64
  | 8 => .ok .f16
  | 9 => .ok .bf16
  | 10 => .ok .f32
  | _ => .error .range

/-- The type field names a 64-bit type (R105). -/
def wideTy (c : BitVec 4) : Bool := c == 6 || c == 7

/-- A register field that holds a 64-bit operand when `b` says so (R30, R88): an odd register is refused. -/
def evenIf (b : Bool) (c : BitVec 7) : Except Illegal Unit :=
  if b && decide (c.toNat < 0x68 ∨ 0x6C ≤ c.toNat ∧ c.toNat < 0x7C) && c.getLsbD 0 then .error .odd else .ok ()

/-- The shift amount of an I form (R92). -/
def shImm (i : BitVec 11) : Except Illegal (BitVec 11) := if i.toNat < 32 then .ok i else .error .range

/-- The immediate of `setfmt` (R180). -/
def fmtImm (i : BitVec 18) : Except Illegal (BitVec 18) :=
  if fmtValid (i.setWidth 32) then .ok i else .error .range

def scope (c : BitVec 3) : Except Illegal Scope :=
  match c.toNat with
  | 0 => .ok .wv
  | 1 => .ok .gr
  | 2 => .ok .bd
  | 3 => .ok .die
  | 4 => .ok .dev
  | 5 => .ok .sys
  | 6 => .ok .devRm
  | _ => .error .ctl

def order (c : BitVec 2) : Order :=
  match c.toNat with
  | 0 => .rlx
  | 1 => .acq
  | 2 => .rel
  | _ => .ar

/-- A legal combination of scope and order for its kind of access (R38). -/
def ordOk (legal : Scope → Order → Bool) (w : Word) : Except Illegal Unit :=
  match scope (fScope w) with
  | .ok s => if legal s (order (fOrder w)) then .ok () else .error .ctl
  | .error _ => .error .ctl

def atomOp (c : BitVec 6) : Except Illegal AtomOp :=
  match c.toNat with
  | 0 => .ok .add
  | 1 => .ok .minI
  | 2 => .ok .maxI
  | 3 => .ok .minU
  | 4 => .ok .maxU
  | 5 => .ok .and
  | 6 => .ok .or
  | 7 => .ok .xor
  | 8 => .ok .exch
  | 9 => .ok .cas
  | 10 => .ok .fadd
  | _ => .error .range

/-- The data register of a 32-bit atomic (R163). -/
def atomReg (o : BitVec 6) (c : BitVec 7) : Except Illegal Unit :=
  match atomOp o, vDst c with
  | .ok o, .ok d => if atomData o d then .ok () else .error .odd
  | _, _ => .ok ()

/-- The data register and operation of a 64-bit atomic (R163, R164). -/
def atomReg64 (o : BitVec 6) (c : BitVec 7) : Except Illegal Unit :=
  also (match vDst c with
    | .ok d => if (if o.toNat = 9 then d.quadReg else d.even) then .ok () else .error .odd
    | .error _ => .ok ())
    (if o.toNat = 10 then .error .range else .ok ())

/-- The special register of GETS (R52, R114). -/
def sReg (c : BitVec 8) : Except Illegal SReg :=
  if h : c.toNat < 4 then .ok (.gext ⟨c.toNat, h⟩)
  else if h : c.toNat - 4 < 4 then .ok (.gorg ⟨c.toNat - 4, h⟩)
  else if h : c.toNat - 8 < 4 then .ok (.lext ⟨c.toNat - 8, h⟩)
  else match c.toNat with
    | 0x10 => .ok .tix
    | 0x11 => .ok .wix
    | 0x12 => .ok .nwave
    | 0x13 => .ok .gord
    | 0x14 => .ok .bandix
    | 0x15 => .ok .bandn
    | 0x16 => .ok .spsize
    | 0x17 => .ok .role
    | 0x18 => .ok .core
    | 0x19 => .ok .lcore
    | 0x1A => .ok .prio
    | 0x1B => .ok .nsclk
    | 0x1C => .ok .qcount
    | 0x20 => .ok .wstat
    | _ => .error .range

def wideSReg (c : BitVec 8) : Bool := c == 0x1B || c == 0x1C

/-- A scope T register has no scalar destination (R114). -/
def notPerThread (c : BitVec 8) : Except Illegal Unit := if c = 0x10 then .error .operand else .ok ()

/-- SETS writes `WSTAT` only (R115). -/
def setsReg (c : BitVec 8) : Except Illegal Unit := if c = 0x20 then .ok () else .error .range

/-- A control register number (R366). -/
def csr (c : BitVec 7) : Except Illegal Csr :=
  match c.toNat with
  | 0x00 => .ok .tcause
  | 0x01 => .ok .tmask
  | 0x02 => .ok .tkill
  | 0x04 => .ok .tpc
  | 0x06 => .ok .taddr
  | 0x08 => .ok .tword
  | 0x09 => .ok .tthr
  | 0x0A => .ok .wseg
  | 0x0B => .ok .twb
  | 0x0C => .ok .tlevel
  | 0x0E => .ok .trstk
  | _ => .error .range

def wideCsr (c : BitVec 7) : Bool := c == 0x04 || c == 0x06 || c == 0x0E

/-- A control register that `csrw` may name (R370). -/
def csrWr (c : BitVec 7) : Except Illegal Csr :=
  (csr c).bind fun n => if n.writable then .ok n else .error .range

def mDim (c : BitVec 2) : Except Illegal MDim :=
  match c.toNat with
  | 0 => .ok .d16
  | 1 => .ok .d32
  | 2 => .ok .d64
  | _ => .error .range

def kDim (c : BitVec 2) : KDim :=
  match c.toNat with
  | 0 => .d16
  | 1 => .d32
  | 2 => .d64
  | _ => .d128

/-- A link number (R396). -/
def linkNo (q : BitVec 4) : Except Illegal (BitVec 4) := if q.toNat < 12 then .ok q else .error .ctl

/-- The stream number of `sset` in the queue field (R259). -/
def streamNo (q : BitVec 4) : Except Illegal (Fin 4) :=
  if h : q.toNat < 4 then .ok ⟨q.toNat, h⟩ else .error .ctl

/-- The count of `cwait` (R257). -/
def cwaitN (i : BitVec 11) : Except Illegal (BitVec 11) := if i.toNat < 64 then .ok i else .error .range

/-- The queue mask of `qfence` (R262). -/
def qMask (w : Word) : Except Illegal (BitVec 8) :=
  if w.extractLsb' 8 3 = 0 ∧ w.extractLsb' 0 8 ≠ 0 then .ok (w.extractLsb' 0 8) else .error .ctl

/-- `MERGE` of `gtopk` (R288). -/
def mergeKind (c : BitVec 2) : Except Illegal MergeKind :=
  match c.toNat with
  | 0 => .ok .sum
  | 1 => .ok .max
  | 2 => .ok .first
  | _ => .error .ctl

/-! The codes of the same fields, for the encoder. -/

def predCode (p : Fin 8) : BitVec 7 := BitVec.ofNat 7 p.val
def fmtCode (k : Fin 4) : BitVec 7 := BitVec.ofNat 7 k.val

def icmpCode : ICmp → BitVec 4
  | .eq => 0
  | .ne => 1
  | .lt => 2
  | .le => 3
  | .gt => 4
  | .ge => 5

def fcmpCode : FCmp → BitVec 4
  | .eq => 0
  | .ne => 1
  | .lt => 2
  | .le => 3
  | .gt => 4
  | .ge => 5
  | .equ => 6
  | .neu => 7
  | .ltu => 8
  | .leu => 9
  | .gtu => 10
  | .geu => 11
  | .num => 12
  | .nan => 13

def arndCode : ARnd → BitVec 2
  | .rne => 0
  | .rz => 1
  | .ru => 2
  | .rd => 3

def rndCode : Rnd → BitVec 3
  | .rne => 0
  | .rz => 1
  | .ru => 2
  | .rd => 3
  | .sr => 4

def numTyCode : NumTy → BitVec 4
  | .u8 => 0
  | .i8 => 1
  | .u16 => 2
  | .i16 => 3
  | .u32 => 4
  | .i32 => 5
  | .u64 => 6
  | .i64 => 7
  | .f16 => 8
  | .bf16 => 9
  | .f32 => 10

def scopeCode : Scope → BitVec 3
  | .wv => 0
  | .gr => 1
  | .bd => 2
  | .die => 3
  | .dev => 4
  | .sys => 5
  | .devRm => 6

def orderCode : Order → BitVec 2
  | .rlx => 0
  | .acq => 1
  | .rel => 2
  | .ar => 3

def atomCode : AtomOp → BitVec 6
  | .add => 0
  | .minI => 1
  | .maxI => 2
  | .minU => 3
  | .maxU => 4
  | .and => 5
  | .or => 6
  | .xor => 7
  | .exch => 8
  | .cas => 9
  | .fadd => 10

def sRegCode : SReg → BitVec 8
  | .gext k => BitVec.ofNat 8 k.val
  | .gorg k => BitVec.ofNat 8 (4 + k.val)
  | .lext k => BitVec.ofNat 8 (8 + k.val)
  | .tix => 0x10
  | .wix => 0x11
  | .nwave => 0x12
  | .gord => 0x13
  | .bandix => 0x14
  | .bandn => 0x15
  | .spsize => 0x16
  | .role => 0x17
  | .core => 0x18
  | .lcore => 0x19
  | .prio => 0x1A
  | .nsclk => 0x1B
  | .qcount => 0x1C
  | .wstat => 0x20

def csrCode : Csr → BitVec 7
  | .tcause => 0x00
  | .tmask => 0x01
  | .tkill => 0x02
  | .tpc => 0x04
  | .taddr => 0x06
  | .tword => 0x08
  | .tthr => 0x09
  | .wseg => 0x0A
  | .twb => 0x0B
  | .tlevel => 0x0C
  | .trstk => 0x0E

def mDimCode : MDim → BitVec 2
  | .d16 => 0
  | .d32 => 1
  | .d64 => 2

def kDimCode : KDim → BitVec 2
  | .d16 => 0
  | .d32 => 1
  | .d64 => 2
  | .d128 => 3

def mergeCode : MergeKind → BitVec 2
  | .sum => 0
  | .max => 1
  | .first => 2

/-! The words of one major opcode each, in the order of R41. -/

/-- Integer, logic, bit-field and 64-bit words (0x01 to 0x10). -/
def decInt (op : Nat) (w : Word) : Except Illegal Instr :=
  match op with
  | 0x01 => match fFn w with
    | 0 => ap3 .addI32 (vDst (fD w)) (vSrc (fA w)) (vSrc (fB w))
    | 1 => ap3 .subI32 (vDst (fD w)) (vSrc (fA w)) (vSrc (fB w))
    | 2 => ap3 .mulI32 (vDst (fD w)) (vSrc (fA w)) (vSrc (fB w))
    | 3 => ap3 .mulhiI32 (vDst (fD w)) (vSrc (fA w)) (vSrc (fB w))
    | 4 => ap3 .mulhiU32 (vDst (fD w)) (vSrc (fA w)) (vSrc (fB w))
    | 5 => ap3 .addsI32 (vDst (fD w)) (vSrc (fA w)) (vSrc (fB w))
    | 6 => ap3 .subsI32 (vDst (fD w)) (vSrc (fA w)) (vSrc (fB w))
    | 7 => ap3 .addsU32 (vDst (fD w)) (vSrc (fA w)) (vSrc (fB w))
    | 8 => ap3 .subsU32 (vDst (fD w)) (vSrc (fA w)) (vSrc (fB w))
    | 9 => ap3 .minI32 (vDst (fD w)) (vSrc (fA w)) (vSrc (fB w))
    | 10 => ap3 .maxI32 (vDst (fD w)) (vSrc (fA w)) (vSrc (fB w))
    | 11 => ap3 .minU32 (vDst (fD w)) (vSrc (fA w)) (vSrc (fB w))
    | 12 => ap3 .maxU32 (vDst (fD w)) (vSrc (fA w)) (vSrc (fB w))
    | 13 => also (ap2 .absI32 (vDst (fD w)) (vSrc (fA w))) (res (fB w))
    | _ => .error .fn
  | 0x02 => match fFn w with
    | 0 => ap3 .andB32 (vDst (fD w)) (vSrc (fA w)) (vSrc (fB w))
    | 1 => ap3 .orB32 (vDst (fD w)) (vSrc (fA w)) (vSrc (fB w))
    | 2 => ap3 .xorB32 (vDst (fD w)) (vSrc (fA w)) (vSrc (fB w))
    | 3 => ap3 .andnB32 (vDst (fD w)) (vSrc (fA w)) (vSrc (fB w))
    | 4 => ap3 .shlB32 (vDst (fD w)) (vSrc (fA w)) (vSrc (fB w))
    | 5 => ap3 .shrU32 (vDst (fD w)) (vSrc (fA w)) (vSrc (fB w))
    | 6 => ap3 .shrI32 (vDst (fD w)) (vSrc (fA w)) (vSrc (fB w))
    | 7 => ap3 .rotlB32 (vDst (fD w)) (vSrc (fA w)) (vSrc (fB w))
    | 8 => also (ap2 .popcB32 (vDst (fD w)) (vSrc (fA w))) (res (fB w))
    | 9 => also (ap2 .clzB32 (vDst (fD w)) (vSrc (fA w))) (res (fB w))
    | 10 => also (ap2 .brevB32 (vDst (fD w)) (vSrc (fA w))) (res (fB w))
    | 11 => also (ap2 .notB32 (vDst (fD w)) (vSrc (fA w))) (res (fB w))
    | _ => .error .fn
  | 0x03 => match fFn w with
    | 0 => ap3 .bfeU32 (vDst (fD w)) (vSrc (fA w)) (vSrc (fB w))
    | 1 => ap3 .bfeI32 (vDst (fD w)) (vSrc (fA w)) (vSrc (fB w))
    | 2 => ap3 .bfiB32 (vDst (fD w)) (vSrc (fA w)) (vSrc (fB w))
    | 3 => ap3 .bselB32 (vDst (fD w)) (vSrc (fA w)) (vSrc (fB w))
    | _ => .error .fn
  | 0x04 => match fFn w with
    | 0 => ap3 .addI64 (vDst64 (fD w)) (vSrc64 (fA w)) (vSrc64 (fB w))
    | 1 => ap3 .subI64 (vDst64 (fD w)) (vSrc64 (fA w)) (vSrc64 (fB w))
    | 2 => ap3 .mulI64 (vDst64 (fD w)) (vSrc64 (fA w)) (vSrc64 (fB w))
    | 3 => ap3 .shlB64 (vDst64 (fD w)) (vSrc64 (fA w)) (vSrc (fB w))
    | 4 => ap3 .shrU64 (vDst64 (fD w)) (vSrc64 (fA w)) (vSrc (fB w))
    | 5 => ap3 .shrI64 (vDst64 (fD w)) (vSrc64 (fA w)) (vSrc (fB w))
    | 6 => ap3 .minI64 (vDst64 (fD w)) (vSrc64 (fA w)) (vSrc64 (fB w))
    | 7 => ap3 .maxI64 (vDst64 (fD w)) (vSrc64 (fA w)) (vSrc64 (fB w))
    | 8 => ap3 .mulwideI32 (vDst64 (fD w)) (vSrc (fA w)) (vSrc (fB w))
    | 9 => ap3 .mulwideU32 (vDst64 (fD w)) (vSrc (fA w)) (vSrc (fB w))
    | _ => .error .fn
  | 0x05 => match fFn w with
    | 0 => ap3 .madI32 (vDst (fD w)) (vSrc (fA w)) (vSrc (fB w))
    | 1 => ap3 .madI64 (vDst64 (fD w)) (vSrc64 (fA w)) (vSrc64 (fB w))
    | _ => .error .fn
  | 0x08 => ap3 .addI32Imm (vDst (fD w)) (vSrc (fA w)) (.ok (fImm11 w))
  | 0x09 => ap3 .mulI32Imm (vDst (fD w)) (vSrc (fA w)) (.ok (fImm11 w))
  | 0x0A => ap3 .andB32Imm (vDst (fD w)) (vSrc (fA w)) (.ok (fImm11 w))
  | 0x0B => ap3 .orB32Imm (vDst (fD w)) (vSrc (fA w)) (.ok (fImm11 w))
  | 0x0C => ap3 .xorB32Imm (vDst (fD w)) (vSrc (fA w)) (.ok (fImm11 w))
  | 0x0D => ap3 .shlB32Imm (vDst (fD w)) (vSrc (fA w)) (shImm (fImm11 w))
  | 0x0E => ap3 .shrU32Imm (vDst (fD w)) (vSrc (fA w)) (shImm (fImm11 w))
  | 0x0F => ap3 .shrI32Imm (vDst (fD w)) (vSrc (fA w)) (shImm (fImm11 w))
  | 0x10 => also (ap2 .movB32Imm (vDst (fD w)) (.ok (fImm11 w))) (res (fA w))
  | _ => .error .major

/-- Compares, predicates, selection, moves and exchange (0x12 to 0x19, 0x1E). -/
def decPred (op : Nat) (w : Word) : Except Illegal Instr :=
  match op with
  | 0x12 => ap4 .setpI32 (icmp (fFn w)) (pred (fD w)) (vSrc (fA w)) (vSrc (fB w))
  | 0x13 => ap4 .setpU32 (icmp (fFn w)) (pred (fD w)) (vSrc (fA w)) (vSrc (fB w))
  | 0x14 => ap4 .setpF32 (fcmp (fFn w)) (pred (fD w)) (vSrc (fA w)) (vSrc (fB w))
  | 0x15 => ap4 .setpI64 (icmp (fFn w)) (pred (fD w)) (vSrc64 (fA w)) (vSrc64 (fB w))
  | 0x16 => match fFn w with
    | 0 => ap3 .pand (pred (fD w)) (pred (fA w)) (pred (fB w))
    | 1 => ap3 .por (pred (fD w)) (pred (fA w)) (pred (fB w))
    | 2 => ap3 .pxor (pred (fD w)) (pred (fA w)) (pred (fB w))
    | 3 => also (ap2 .pnot (pred (fD w)) (pred (fA w))) (res (fB w))
    | 4 => ap3 .pandn (pred (fD w)) (pred (fA w)) (pred (fB w))
    | _ => .error .fn
  | 0x17 => ap5 .selB32 (vDst (fD w)) (vSrc (fA w)) (vSrc (fB w)) (.ok (w.getLsbD 3)) (.ok (w.extractLsb' 0 3).toFin)
  | 0x18 => match fFn w with
    | 0 => also (ap2 .movB32 (vDst (fD w)) (vSrc (fA w))) (res (fB w))
    | 1 => also (ap2 .movB64 (vDst64 (fD w)) (vSrc64 (fA w))) (res (fB w))
    | 2 => ap3 .shflIdx (vDst (fD w)) (vSrc (fA w)) (vSrc (fB w))
    | 3 => ap3 .shflUp (vDst (fD w)) (vSrc (fA w)) (vSrc (fB w))
    | 4 => ap3 .shflDown (vDst (fD w)) (vSrc (fA w)) (vSrc (fB w))
    | 5 => ap3 .shflXor (vDst (fD w)) (vSrc (fA w)) (vSrc (fB w))
    | _ => .error .fn
  | 0x19 => match fFn w with
    | 0 => also (ap2 .wredAddI32 (vDst (fD w)) (vSrc (fA w))) (res (fB w))
    | 1 => also (ap2 .wredMinI32 (vDst (fD w)) (vSrc (fA w))) (res (fB w))
    | 2 => also (ap2 .wredMaxI32 (vDst (fD w)) (vSrc (fA w))) (res (fB w))
    | 3 => also (ap2 .wredAddF32 (vDst (fD w)) (vSrc (fA w))) (res (fB w))
    | 4 => also (ap2 .wscanAddI32 (vDst (fD w)) (vSrc (fA w))) (res (fB w))
    | 5 => also (ap2 .wscanAddxI32 (vDst (fD w)) (vSrc (fA w))) (res (fB w))
    | 6 => also (ap2 .wscanAddF32 (vDst (fD w)) (vSrc (fA w))) (res (fB w))
    | 7 => also (ap2 .voteAny (vDst (fD w)) (vSrc (fA w))) (res (fB w))
    | 8 => also (ap2 .voteAll (vDst (fD w)) (vSrc (fA w))) (res (fB w))
    | 9 => also (ap2 .voteBallot (vDst (fD w)) (vSrc (fA w))) (res (fB w))
    | 10 => also (ap2 .wredAndB32 (vDst (fD w)) (vSrc (fA w))) (res (fB w))
    | 11 => also (ap2 .wredOrB32 (vDst (fD w)) (vSrc (fA w))) (res (fB w))
    | _ => .error .fn
  | 0x1E => if fFn w < 8 then ap4 .setpF16 (icmp (fFn w % 8)) (pred (fD w)) (vSrc (fA w)) (vSrc (fB w)) else ap4 .setpBf16 (icmp (fFn w % 8)) (pred (fD w)) (vSrc (fA w)) (vSrc (fB w))
  | _ => .error .major

/-- Floating point, conversion, pack and functions (0x1A to 0x24). -/
def decFloat (op : Nat) (w : Word) : Except Illegal Instr :=
  match op with
  | 0x1A => match fFn w % 4 with
    | 0 => ap4 .faddF32 (vDst (fD w)) (vSrc (fA w)) (vSrc (fB w)) (.ok (arnd (fFn w / 4)))
    | 1 => ap4 .fsubF32 (vDst (fD w)) (vSrc (fA w)) (vSrc (fB w)) (.ok (arnd (fFn w / 4)))
    | 2 => ap4 .fmulF32 (vDst (fD w)) (vSrc (fA w)) (vSrc (fB w)) (.ok (arnd (fFn w / 4)))
    | _ => ap4 .fmaF32 (vDst (fD w)) (vSrc (fA w)) (vSrc (fB w)) (.ok (arnd (fFn w / 4)))
  | 0x1B => match fFn w % 4 with
    | 0 => ap4 .faddF16 (vDst (fD w)) (vSrc (fA w)) (vSrc (fB w)) (.ok (arnd (fFn w / 4)))
    | 1 => ap4 .fsubF16 (vDst (fD w)) (vSrc (fA w)) (vSrc (fB w)) (.ok (arnd (fFn w / 4)))
    | 2 => ap4 .fmulF16 (vDst (fD w)) (vSrc (fA w)) (vSrc (fB w)) (.ok (arnd (fFn w / 4)))
    | _ => ap4 .fmaF16 (vDst (fD w)) (vSrc (fA w)) (vSrc (fB w)) (.ok (arnd (fFn w / 4)))
  | 0x1C => match fFn w % 4 with
    | 0 => ap4 .faddBf16 (vDst (fD w)) (vSrc (fA w)) (vSrc (fB w)) (.ok (arnd (fFn w / 4)))
    | 1 => ap4 .fsubBf16 (vDst (fD w)) (vSrc (fA w)) (vSrc (fB w)) (.ok (arnd (fFn w / 4)))
    | 2 => ap4 .fmulBf16 (vDst (fD w)) (vSrc (fA w)) (vSrc (fB w)) (.ok (arnd (fFn w / 4)))
    | _ => ap4 .fmaBf16 (vDst (fD w)) (vSrc (fA w)) (vSrc (fB w)) (.ok (arnd (fFn w / 4)))
  | 0x1D => match fFn w with
    | 0 => ap3 .fminF32 (vDst (fD w)) (vSrc (fA w)) (vSrc (fB w))
    | 1 => ap3 .fmaxF32 (vDst (fD w)) (vSrc (fA w)) (vSrc (fB w))
    | 2 => also (ap2 .fabsF32 (vDst (fD w)) (vSrc (fA w))) (res (fB w))
    | 3 => also (ap2 .fnegF32 (vDst (fD w)) (vSrc (fA w))) (res (fB w))
    | 4 => ap3 .fminF16 (vDst (fD w)) (vSrc (fA w)) (vSrc (fB w))
    | 5 => ap3 .fmaxF16 (vDst (fD w)) (vSrc (fA w)) (vSrc (fB w))
    | 6 => ap3 .fminBf16 (vDst (fD w)) (vSrc (fA w)) (vSrc (fB w))
    | 7 => ap3 .fmaxBf16 (vDst (fD w)) (vSrc (fA w)) (vSrc (fB w))
    | _ => .error .fn
  | 0x20 => also (also (ap5 .cvt (vDst (fD w)) (vSrc (fA w)) (rnd (w.extractLsb' 8 3)) (numTy (w.extractLsb' 4 4)) (numTy (w.extractLsb' 0 4))) (evenIf (wideTy (w.extractLsb' 4 4)) (fD w))) (evenIf (wideTy (w.extractLsb' 0 4)) (fA w))
  | 0x21 => match fFn w / 4 with
    | 0 => ap4 .npack (vDst (fD w)) (vSrc (fA w)) (vSrc (fB w)) (.ok (w.extractLsb' 0 2).toFin)
    | 1 => ap4 .nunpack (vDst (fD w)) (vSrc (fA w)) (vSrc (fB w)) (.ok (w.extractLsb' 0 2).toFin)
    | _ => .error .fn
  | 0x22 => match fFn w with
    | 0 => also (ap2 .expF32 (vDst (fD w)) (vSrc (fA w))) (res (fB w))
    | 1 => also (ap2 .exp2F32 (vDst (fD w)) (vSrc (fA w))) (res (fB w))
    | 2 => also (ap2 .logF32 (vDst (fD w)) (vSrc (fA w))) (res (fB w))
    | 3 => also (ap2 .log2F32 (vDst (fD w)) (vSrc (fA w))) (res (fB w))
    | 4 => also (ap2 .sinpiF32 (vDst (fD w)) (vSrc (fA w))) (res (fB w))
    | 5 => also (ap2 .cospiF32 (vDst (fD w)) (vSrc (fA w))) (res (fB w))
    | 6 => also (ap2 .tanhF32 (vDst (fD w)) (vSrc (fA w))) (res (fB w))
    | 7 => also (ap2 .sigmF32 (vDst (fD w)) (vSrc (fA w))) (res (fB w))
    | 8 => also (ap2 .erfF32 (vDst (fD w)) (vSrc (fA w))) (res (fB w))
    | 9 => also (ap2 .rcpF32 (vDst (fD w)) (vSrc (fA w))) (res (fB w))
    | 10 => also (ap2 .rsqrtF32 (vDst (fD w)) (vSrc (fA w))) (res (fB w))
    | 11 => also (ap2 .sqrtF32 (vDst (fD w)) (vSrc (fA w))) (res (fB w))
    | 12 => ap3 .divF32 (vDst (fD w)) (vSrc (fA w)) (vSrc (fB w))
    | _ => .error .fn
  | 0x23 => match fFn w with
    | 0 => also (ap2 .expF16 (vDst (fD w)) (vSrc (fA w))) (res (fB w))
    | 1 => also (ap2 .exp2F16 (vDst (fD w)) (vSrc (fA w))) (res (fB w))
    | 2 => also (ap2 .logF16 (vDst (fD w)) (vSrc (fA w))) (res (fB w))
    | 3 => also (ap2 .log2F16 (vDst (fD w)) (vSrc (fA w))) (res (fB w))
    | 4 => also (ap2 .sinpiF16 (vDst (fD w)) (vSrc (fA w))) (res (fB w))
    | 5 => also (ap2 .cospiF16 (vDst (fD w)) (vSrc (fA w))) (res (fB w))
    | 6 => also (ap2 .tanhF16 (vDst (fD w)) (vSrc (fA w))) (res (fB w))
    | 7 => also (ap2 .sigmF16 (vDst (fD w)) (vSrc (fA w))) (res (fB w))
    | 8 => also (ap2 .erfF16 (vDst (fD w)) (vSrc (fA w))) (res (fB w))
    | 9 => also (ap2 .rcpF16 (vDst (fD w)) (vSrc (fA w))) (res (fB w))
    | 10 => also (ap2 .rsqrtF16 (vDst (fD w)) (vSrc (fA w))) (res (fB w))
    | 11 => also (ap2 .sqrtF16 (vDst (fD w)) (vSrc (fA w))) (res (fB w))
    | 12 => ap3 .divF16 (vDst (fD w)) (vSrc (fA w)) (vSrc (fB w))
    | _ => .error .fn
  | 0x24 => match fFn w with
    | 0 => also (ap2 .expBf16 (vDst (fD w)) (vSrc (fA w))) (res (fB w))
    | 1 => also (ap2 .exp2Bf16 (vDst (fD w)) (vSrc (fA w))) (res (fB w))
    | 2 => also (ap2 .logBf16 (vDst (fD w)) (vSrc (fA w))) (res (fB w))
    | 3 => also (ap2 .log2Bf16 (vDst (fD w)) (vSrc (fA w))) (res (fB w))
    | 4 => also (ap2 .sinpiBf16 (vDst (fD w)) (vSrc (fA w))) (res (fB w))
    | 5 => also (ap2 .cospiBf16 (vDst (fD w)) (vSrc (fA w))) (res (fB w))
    | 6 => also (ap2 .tanhBf16 (vDst (fD w)) (vSrc (fA w))) (res (fB w))
    | 7 => also (ap2 .sigmBf16 (vDst (fD w)) (vSrc (fA w))) (res (fB w))
    | 8 => also (ap2 .erfBf16 (vDst (fD w)) (vSrc (fA w))) (res (fB w))
    | 9 => also (ap2 .rcpBf16 (vDst (fD w)) (vSrc (fA w))) (res (fB w))
    | 10 => also (ap2 .rsqrtBf16 (vDst (fD w)) (vSrc (fA w))) (res (fB w))
    | 11 => also (ap2 .sqrtBf16 (vDst (fD w)) (vSrc (fA w))) (res (fB w))
    | 12 => ap3 .divBf16 (vDst (fD w)) (vSrc (fA w)) (vSrc (fB w))
    | _ => .error .fn
  | _ => .error .major

/-- Scalar words, GETS and SETS (0x28 to 0x2D). -/
def decScalar (op : Nat) (w : Word) : Except Illegal Instr :=
  match op with
  | 0x28 => match fFn w with
    | 0 => ap3 .saddI32 (sDst (fD w)) (sSrc (fA w)) (sSrc (fB w))
    | 1 => ap3 .ssubI32 (sDst (fD w)) (sSrc (fA w)) (sSrc (fB w))
    | 2 => ap3 .smulI32 (sDst (fD w)) (sSrc (fA w)) (sSrc (fB w))
    | 3 => ap3 .sandB32 (sDst (fD w)) (sSrc (fA w)) (sSrc (fB w))
    | 4 => ap3 .sorB32 (sDst (fD w)) (sSrc (fA w)) (sSrc (fB w))
    | 5 => ap3 .sxorB32 (sDst (fD w)) (sSrc (fA w)) (sSrc (fB w))
    | 6 => ap3 .sshlB32 (sDst (fD w)) (sSrc (fA w)) (sSrc (fB w))
    | 7 => ap3 .sshrU32 (sDst (fD w)) (sSrc (fA w)) (sSrc (fB w))
    | 8 => ap3 .sshrI32 (sDst (fD w)) (sSrc (fA w)) (sSrc (fB w))
    | 9 => ap3 .sminI32 (sDst (fD w)) (sSrc (fA w)) (sSrc (fB w))
    | 10 => ap3 .smaxI32 (sDst (fD w)) (sSrc (fA w)) (sSrc (fB w))
    | 11 => also (ap2 .smovB32 (sDst (fD w)) (sSrc (fA w))) (res (fB w))
    | 12 => ap3 .saddI64 (sDst64 (fD w)) (sSrc64 (fA w)) (sSrc64 (fB w))
    | 13 => ap3 .ssubI64 (sDst64 (fD w)) (sSrc64 (fA w)) (sSrc64 (fB w))
    | 14 => ap3 .sminU32 (sDst (fD w)) (sSrc (fA w)) (sSrc (fB w))
    | 15 => ap3 .smaxU32 (sDst (fD w)) (sSrc (fA w)) (sSrc (fB w))
    | _ => .error .fn
  | 0x29 => also (ap2 .smovB32Imm (sDst (fD w)) (.ok (fImm11 w))) (res (fA w))
  | 0x2A => ap3 .saddI32Imm (sDst (fD w)) (sSrc (fA w)) (.ok (fImm11 w))
  | 0x2B => match fFn w with
    | 0 => ap3 .scmpEqI32 (pred (fD w)) (sSrc (fA w)) (sSrc (fB w))
    | 1 => ap3 .scmpNeI32 (pred (fD w)) (sSrc (fA w)) (sSrc (fB w))
    | 2 => ap3 .scmpLtI32 (pred (fD w)) (sSrc (fA w)) (sSrc (fB w))
    | 3 => ap3 .scmpLeI32 (pred (fD w)) (sSrc (fA w)) (sSrc (fB w))
    | 4 => ap3 .scmpGtI32 (pred (fD w)) (sSrc (fA w)) (sSrc (fB w))
    | 5 => ap3 .scmpGeI32 (pred (fD w)) (sSrc (fA w)) (sSrc (fB w))
    | 6 => ap3 .scmpEqU32 (pred (fD w)) (sSrc (fA w)) (sSrc (fB w))
    | 7 => ap3 .scmpNeU32 (pred (fD w)) (sSrc (fA w)) (sSrc (fB w))
    | 8 => ap3 .scmpLtU32 (pred (fD w)) (sSrc (fA w)) (sSrc (fB w))
    | 9 => ap3 .scmpLeU32 (pred (fD w)) (sSrc (fA w)) (sSrc (fB w))
    | 10 => ap3 .scmpGtU32 (pred (fD w)) (sSrc (fA w)) (sSrc (fB w))
    | 11 => ap3 .scmpGeU32 (pred (fD w)) (sSrc (fA w)) (sSrc (fB w))
    | _ => .error .fn
  | 0x2C => if w.getLsbD 17 then also (also (ap2 .getsVector (vDst (fD w)) (sReg (w.extractLsb' 0 8))) (res (w.extractLsb' 8 9))) (evenIf (wideSReg (w.extractLsb' 0 8)) (fD w)) else also (also (also (ap2 .getsScalar (sDst (fD w)) (sReg (w.extractLsb' 0 8))) (res (w.extractLsb' 8 9))) (evenIf (wideSReg (w.extractLsb' 0 8)) (fD w))) (notPerThread (w.extractLsb' 0 8))
  | 0x2D => also (also (ap1 .sets (sSrcNoImm (fD w))) (res (w.extractLsb' 8 10))) (setsReg (w.extractLsb' 0 8))
  | _ => .error .major

/-- Control, waits, tile state, fabric, power (0x30 to 0x3C). -/
def decCtl (op : Nat) (w : Word) : Except Illegal Instr :=
  match op with
  | 0x30 => ap3 .bra (.ok (w.getLsbD 24)) (.ok (w.extractLsb' 21 3).toFin) (.ok (w.extractLsb' 0 21))
  | 0x31 => ap3 .bru (.ok (w.getLsbD 24)) (.ok (w.extractLsb' 21 3).toFin) (.ok (w.extractLsb' 0 21))
  | 0x32 => also (ap1 .call (.ok (w.extractLsb' 0 21))) (res (w.extractLsb' 21 4))
  | 0x33 => match fFn w with
    | 0 => also (also (also (.ok .nop) (res (fD w))) (res (fA w))) (res (fB w))
    | 1 => also (also (also (.ok .join) (res (fD w))) (res (fA w))) (res (fB w))
    | 2 => also (also (also (.ok .ret) (res (fD w))) (res (fA w))) (res (fB w))
    | 3 => also (also (also (.ok .exit) (res (fD w))) (res (fA w))) (res (fB w))
    | 4 => also (also (also (.ok .yield) (res (fD w))) (res (fA w))) (res (fB w))
    | 5 => also (also (also (.ok .tret) (res (fD w))) (res (fA w))) (res (fB w))
    | 6 => also (also (ap1 .getmask (vDst (fD w))) (res (fA w))) (res (fB w))
    | 7 => also (also (ap1 .setmask (vSrc (fA w))) (res (fD w))) (res (fB w))
    | 8 => also (also (ap1 .jmpi (vSrc64 (fA w))) (res (fD w))) (res (fB w))
    | 9 => also (also (ap1 .calli (vSrc64 (fA w))) (res (fD w))) (res (fB w))
    | 10 => also (also (ap1 .wbase (vSrc (fA w))) (res (fD w))) (res (fB w))
    | 11 => also (also (ap1 .trap (.ok (fD w))) (res (fA w))) (res (fB w))
    | _ => .error .fn
  | 0x34 => ap2 .sleepn (sSrcNoImm (fD w)) (.ok (fImm18 w))
  | 0x35 => match fFn w with
    | 0 => also (also (ap1 .waitt (vSrc64 (fA w))) (res (fD w))) (res (fB w))
    | _ => .error .fn
  | 0x38 => match fFn w with
    | 0 => also (also (ap1 .tmarkFull (vSrc64 (fA w))) (res (fD w))) (res (fB w))
    | 1 => also (also (ap1 .tmarkEmpty (vSrc64 (fA w))) (res (fD w))) (res (fB w))
    | 2 => also (ap2 .ttest (pred (fD w)) (vSrc64 (fA w))) (res (fB w))
    | _ => .error .fn
  | 0x39 => also (ap4 .put (vSrc (fD w)) (vSrc (fA w)) (linkNo (fQ w)) (.ok (w.getLsbD 0))) (zero .ctl (w.extractLsb' 1 6))
  | 0x3A => also (ap3 .get (vSrc (fD w)) (vSrc (fA w)) (linkNo (fQ w))) (zero .ctl (fCtl w))
  | 0x3B => also (ap4 .send (vSrc (fD w)) (vSrc (fA w)) (linkNo (fQ w)) (.ok (w.getLsbD 0))) (zero .ctl (w.extractLsb' 1 6))
  | 0x3C => match fFn w with
    | 0 => also (ap2 .pread (sDst (fD w)) (sSrc (fA w))) (res (fB w))
    | 1 => also (also (ap1 .phint (sSrc (fA w))) (res (fD w))) (res (fB w))
    | _ => .error .fn
  | _ => .error .major

/-- Memory words (0x40 to 0x5F). -/
def decMem (op : Nat) (w : Word) : Except Illegal Instr :=
  match op with
  | 0x40 => also (ap5 .ldSU8 (vDst (fD w)) (vSrc (fA w)) (.ok (fOff w)) (scope (fScope w)) (.ok (order (fOrder w)))) (ordOk loadOrder w)
  | 0x41 => also (ap5 .ldSI8 (vDst (fD w)) (vSrc (fA w)) (.ok (fOff w)) (scope (fScope w)) (.ok (order (fOrder w)))) (ordOk loadOrder w)
  | 0x42 => also (ap5 .ldSU16 (vDst (fD w)) (vSrc (fA w)) (.ok (fOff w)) (scope (fScope w)) (.ok (order (fOrder w)))) (ordOk loadOrder w)
  | 0x43 => also (ap5 .ldSI16 (vDst (fD w)) (vSrc (fA w)) (.ok (fOff w)) (scope (fScope w)) (.ok (order (fOrder w)))) (ordOk loadOrder w)
  | 0x44 => also (ap5 .ldS (vDst (fD w)) (vSrc (fA w)) (.ok (fOff w)) (scope (fScope w)) (.ok (order (fOrder w)))) (ordOk loadOrder w)
  | 0x45 => also (ap5 .ldSB64 (vDst64 (fD w)) (vSrc (fA w)) (.ok (fOff w)) (scope (fScope w)) (.ok (order (fOrder w)))) (ordOk loadOrder w)
  | 0x46 => also (ap5 .stSB8 (vSrc (fD w)) (vSrc (fA w)) (.ok (fOff w)) (scope (fScope w)) (.ok (order (fOrder w)))) (ordOk storeOrder w)
  | 0x47 => also (ap5 .stSB16 (vSrc (fD w)) (vSrc (fA w)) (.ok (fOff w)) (scope (fScope w)) (.ok (order (fOrder w)))) (ordOk storeOrder w)
  | 0x48 => also (ap5 .stS (vSrc (fD w)) (vSrc (fA w)) (.ok (fOff w)) (scope (fScope w)) (.ok (order (fOrder w)))) (ordOk storeOrder w)
  | 0x49 => also (ap5 .stSB64 (vSrc64 (fD w)) (vSrc (fA w)) (.ok (fOff w)) (scope (fScope w)) (.ok (order (fOrder w)))) (ordOk storeOrder w)
  | 0x4A => also (ap5 .ldGU8 (vDst (fD w)) (vSrc64 (fA w)) (.ok (fOff w)) (scope (fScope w)) (.ok (order (fOrder w)))) (ordOk loadOrder w)
  | 0x4B => also (ap5 .ldGI8 (vDst (fD w)) (vSrc64 (fA w)) (.ok (fOff w)) (scope (fScope w)) (.ok (order (fOrder w)))) (ordOk loadOrder w)
  | 0x4C => also (ap5 .ldGU16 (vDst (fD w)) (vSrc64 (fA w)) (.ok (fOff w)) (scope (fScope w)) (.ok (order (fOrder w)))) (ordOk loadOrder w)
  | 0x4D => also (ap5 .ldGI16 (vDst (fD w)) (vSrc64 (fA w)) (.ok (fOff w)) (scope (fScope w)) (.ok (order (fOrder w)))) (ordOk loadOrder w)
  | 0x4E => also (ap5 .ldG (vDst (fD w)) (vSrc64 (fA w)) (.ok (fOff w)) (scope (fScope w)) (.ok (order (fOrder w)))) (ordOk loadOrder w)
  | 0x4F => also (ap5 .ldGB64 (vDst64 (fD w)) (vSrc64 (fA w)) (.ok (fOff w)) (scope (fScope w)) (.ok (order (fOrder w)))) (ordOk loadOrder w)
  | 0x50 => also (ap5 .stGB8 (vSrc (fD w)) (vSrc64 (fA w)) (.ok (fOff w)) (scope (fScope w)) (.ok (order (fOrder w)))) (ordOk storeOrder w)
  | 0x51 => also (ap5 .stGB16 (vSrc (fD w)) (vSrc64 (fA w)) (.ok (fOff w)) (scope (fScope w)) (.ok (order (fOrder w)))) (ordOk storeOrder w)
  | 0x52 => also (ap5 .stG (vSrc (fD w)) (vSrc64 (fA w)) (.ok (fOff w)) (scope (fScope w)) (.ok (order (fOrder w)))) (ordOk storeOrder w)
  | 0x53 => also (ap5 .stGB64 (vSrc64 (fD w)) (vSrc64 (fA w)) (.ok (fOff w)) (scope (fScope w)) (.ok (order (fOrder w)))) (ordOk storeOrder w)
  | 0x54 => also (ap5 .ldtG (rowDst (fD w)) (vSrc64 (fA w)) (.ok (fOff w)) (scope (fScope w)) (.ok (order (fOrder w)))) (ordOk loadOrder w)
  | 0x55 => also (ap5 .sttG (rowDst (fD w)) (vSrc64 (fA w)) (.ok (fOff w)) (scope (fScope w)) (.ok (order (fOrder w)))) (ordOk storeOrder w)
  | 0x56 => also (ap5 .ldtS (rowDst (fD w)) (vSrc (fA w)) (.ok (fOff w)) (scope (fScope w)) (.ok (order (fOrder w)))) (ordOk loadOrder w)
  | 0x57 => also (ap5 .sttS (rowDst (fD w)) (vSrc (fA w)) (.ok (fOff w)) (scope (fScope w)) (.ok (order (fOrder w)))) (ordOk storeOrder w)
  | 0x58 => also (also (ap5 .atomS (vDst (fD w)) (vSrc (fA w)) (atomOp (fOff w)) (scope (fScope w)) (.ok (order (fOrder w)))) (atomReg (fOff w) (fD w))) (ordOk atomOrder w)
  | 0x59 => also (also (ap5 .atomSB64 (vDst (fD w)) (vSrc (fA w)) (atomOp (fOff w)) (scope (fScope w)) (.ok (order (fOrder w)))) (atomReg64 (fOff w) (fD w))) (ordOk atomOrder w)
  | 0x5A => also (also (ap5 .atomG (vDst (fD w)) (vSrc64 (fA w)) (atomOp (fOff w)) (scope (fScope w)) (.ok (order (fOrder w)))) (atomReg (fOff w) (fD w))) (ordOk atomOrder w)
  | 0x5B => also (also (ap5 .atomGB64 (vDst (fD w)) (vSrc64 (fA w)) (atomOp (fOff w)) (scope (fScope w)) (.ok (order (fOrder w)))) (atomReg64 (fOff w) (fD w))) (ordOk atomOrder w)
  | 0x5C => also (also (also (also (ap2 .fence (scope (fScope w)) (.ok (order (fOrder w)))) (res (fD w))) (res (fA w))) (res (fOff w))) (ordOk fenceOrder w)
  | 0x5D => also (ap5 .waita (vDst64 (fD w)) (vSrc64 (fA w)) (.ok (fOff w)) (scope (fScope w)) (.ok (order (fOrder w)))) (ordOk loadOrder w)
  | 0x5E => match fFn w with
    | 0 => also (ap2 .sinit (vSrc (fA w)) (vSrc (fB w))) (res (fD w))
    | 1 => ap3 .twait (pred (fD w)) (vSrc (fA w)) (vSrc (fB w))
    | 2 => also (also (ap1 .give (cSrc (fA w))) (res (fD w))) (res (fB w))
    | 3 => also (also (ap1 .claim (cSrc (fA w))) (res (fD w))) (res (fB w))
    | 4 => also (also (also (.ok .bar) (res (fD w))) (res (fA w))) (res (fB w))
    | 5 => also (also (ap1 .barN (cSrc (fA w))) (res (fD w))) (res (fB w))
    | _ => .error .fn
  | 0x5F => match fFn w with
    | 0 => also (also (also (.ok .bbar) (res (fD w))) (res (fA w))) (res (fB w))
    | _ => .error .fn
  | _ => .error .major

/-- Matrix, copies, streams (0x60 to 0x6D). -/
noncomputable def decEng (op : Nat) (w : Word) : Except Illegal Instr :=
  match op with
  | 0x60 => match fFn w with
    | 0 => ap3 .mma (.ok (fD w)) (sSrc (fA w)) (sSrc (fB w))
    | 1 => ap3 .mmaBf16 (.ok (fD w)) (sSrc (fA w)) (sSrc (fB w))
    | 2 => ap3 .mmaF16 (.ok (fD w)) (sSrc (fA w)) (sSrc (fB w))
    | 3 => ap3 .mmaSq (.ok (fD w)) (fmtField (fA w)) (sSrc (fB w))
    | _ => .error .fn
  | 0x61 => match fFn w with
    | 0 => also (also (ap1 .aclr (.ok (fD w))) (res (fA w))) (res (fB w))
    | 1 => ap3 .ald (.ok (fD w)) (sSrc (fA w)) (sSrc (fB w))
    | 2 => ap3 .ast (.ok (fD w)) (sSrc (fA w)) (sSrc (fB w))
    | 3 => also (ap2 .ascale (.ok (fD w)) (sSrc (fA w))) (res (fB w))
    | 4 => also (ap2 .aexp (.ok (fD w)) (sDst (fA w))) (res (fB w))
    | _ => .error .fn
  | 0x62 => also (ap4 .shape (sDst (fD w)) (mDim (w.extractLsb' 0 2)) (mDim (w.extractLsb' 2 2)) (.ok (kDim (w.extractLsb' 4 2)))) (res (w.extractLsb' 6 12))
  | 0x63 => ap2 .setfmt (fmtField (fD w)) (fmtImm (fImm18 w))
  | 0x64 => match fFn w with
    | 0 => also (ap2 .getfmt (sDst (fD w)) (fmtField (fA w))) (res (fB w))
    | 1 => also (ap2 .setfmtR (fmtField (fD w)) (sSrc (fA w))) (res (fB w))
    | _ => .error .fn
  | 0x68 => match fFn w with
    | 0 => ap3 .copyG2s (vSrc (fD w)) (vSrc64 (fA w)) (vSrc64 (fB w))
    | 1 => ap3 .copyS2g (vSrc64 (fD w)) (vSrc (fA w)) (vSrc64 (fB w))
    | 2 => ap3 .copyS2s (vSrc (fD w)) (vSrc (fA w)) (vSrc64 (fB w))
    | 3 => ap3 .copyG2g (vSrc64 (fD w)) (vSrc64 (fA w)) (vSrc64 (fB w))
    | 4 => ap3 .copyG2sMc (vSrc (fD w)) (vSrc64 (fA w)) (vSrc64 (fB w))
    | 5 => ap3 .copyS2sMc (vSrc (fD w)) (vSrc (fA w)) (vSrc64 (fB w))
    | _ => .error .fn
  | 0x69 => match fFn w with
    | 0 => also (also (also (.ok .cseal) (res (fD w))) (res (fA w))) (res (fB w))
    | _ => .error .fn
  | 0x6A => also (also (ap1 .cwait (cwaitN (fImm11 w))) (res (fD w))) (res (fA w))
  | 0x6B => also (ap3 .sset (vSrc (fD w)) (vSrc (fA w)) (streamNo (fQ w))) (res (fCtl w))
  | 0x6C => match fFn w with
    | 0 => ap3 .spop (vDst (fD w)) (fmtField (fA w)) (pred (fB w))
    | 1 => ap3 .sstat (vDst (fD w)) (fmtField (fA w)) (vSrc (fB w))
    | 2 => also (also (ap1 .sclose (fmtField (fA w))) (res (fD w))) (res (fB w))
    | _ => .error .fn
  | 0x6D => also (also (ap1 .qfence (qMask w)) (res (fD w))) (res (fA w))
  | _ => .error .major

/-- Retrieval, launches, prefixes, privileged (0x70 to 0x7E). -/
noncomputable def decReq (op : Nat) (w : Word) : Except Illegal Instr :=
  match op with
  | 0x70 => also (ap2 .hprobe (vSrc (fD w)) (vSrc64 (fA w))) (zero .ctl (w.extractLsb' 0 11))
  | 0x71 => also (ap2 .hins (vSrc (fD w)) (vSrc (fA w))) (zero .ctl (w.extractLsb' 0 11))
  | 0x72 => also (ap3 .hdel (vSrc (fD w)) (vSrc (fA w)) (.ok (w.getLsbD 0))) (zero .ctl (w.extractLsb' 1 10))
  | 0x73 => also (ap2 .hrehash (vSrc (fD w)) (vSrc64 (fA w))) (zero .ctl (w.extractLsb' 0 11))
  | 0x74 => match (w.extractLsb' 0 2).toNat with
    | 0 => also (ap2 .hsetBind (vSrc (fD w)) (vSrc (fA w))) (zero .ctl (w.extractLsb' 2 9))
    | 1 => also (ap2 .hsetBindClear (vSrc (fD w)) (vSrc (fA w))) (zero .ctl (w.extractLsb' 2 9))
    | 2 => also (ap2 .hsetUnbind (vSrc (fD w)) (vSrc (fA w))) (zero .ctl (w.extractLsb' 2 9))
    | _ => also (ap2 .hsetStatus (vSrc (fD w)) (vSrc (fA w))) (zero .ctl (w.extractLsb' 2 9))
  | 0x75 => also (ap6 .gtopk (vSrc (fD w)) (vSrc64 (fA w)) (.ok (w.getLsbD 4)) (.ok (w.getLsbD 3)) (mergeKind (w.extractLsb' 1 2)) (.ok (w.getLsbD 0))) (zero .ctl (w.extractLsb' 5 6))
  | 0x76 => also (ap4 .ghist (vSrc (fD w)) (vSrc64 (fA w)) (.ok (w.getLsbD 1)) (.ok (w.getLsbD 0))) (zero .ctl (w.extractLsb' 2 9))
  | 0x77 => also (ap5 .gscan (vSrc (fD w)) (vSrc64 (fA w)) (.ok (w.getLsbD 2)) (.ok (w.getLsbD 1)) (.ok (w.getLsbD 0))) (zero .ctl (w.extractLsb' 3 8))
  | 0x78 => also (ap3 .gperm (vSrc (fD w)) (vSrc64 (fA w)) (.ok (w.getLsbD 0))) (zero .ctl (w.extractLsb' 1 10))
  | 0x79 => match fFn w with
    | 0 => ap3 .isect (vDst64 (fD w)) (vSrc (fA w)) (vSrc (fB w))
    | _ => .error .fn
  | 0x7A => also (ap2 .launch (vSrc64 (fD w)) (vSrc (fA w))) (res (w.extractLsb' 0 11))
  | 0x7B => if w.getLsbD 0 then also (also (ap1 .cancelTrap (vSrc64 (fD w))) (res (fA w))) (res (w.extractLsb' 1 10)) else also (also (ap1 .cancelDrain (vSrc64 (fD w))) (res (fA w))) (res (w.extractLsb' 1 10))
  | 0x7C => also (ap2 .grd (.ok (w.getLsbD 24)) (.ok (w.extractLsb' 21 3).toFin)) (res (w.extractLsb' 0 21))
  | 0x7D => ap1 .xim (.ok (w.extractLsb' 0 25))
  | 0x7E => match fFn w with
    | 0 => also (also (ap2 .csrr (sDst (fD w)) (csr (fA w))) (res (fB w))) (evenIf (wideCsr (fA w)) (fD w))
    | 1 => also (also (ap2 .csrw (csrWr (fD w)) (sSrc (fA w))) (res (fB w))) (evenIf (wideCsr (fD w)) (fA w))
    | 2 => also (ap2 .tlbinv (sSrc (fA w)) (sSrc64 (fB w))) (res (fD w))
    | 3 => also (also (ap1 .tlbinvAll (sSrc (fA w))) (res (fD w))) (res (fB w))
    | _ => .error .fn
  | _ => .error .major

/-- The decode checks and operands of one word (R39, R41). -/
noncomputable def decodeWord (w : Word) : Except Illegal Instr :=
  let op := fOp w
  if op < 0x12 then decInt op w
  else if op < 0x1A ∨ op = 0x1E then decPred op w
  else if op < 0x28 then decFloat op w
  else if op < 0x30 then decScalar op w
  else if op < 0x40 then decCtl op w
  else if op < 0x60 then decMem op w
  else if op < 0x70 then decEng op w
  else decReq op w

/-- The instruction word of an instruction (R25, R41); an event row has none. -/
def encode : Instr → Option Word
  | .addI32 d a b => some (1#7 ++ d.code ++ a.code ++ b.code ++ 0#4)
  | .subI32 d a b => some (1#7 ++ d.code ++ a.code ++ b.code ++ 1#4)
  | .mulI32 d a b => some (1#7 ++ d.code ++ a.code ++ b.code ++ 2#4)
  | .mulhiI32 d a b => some (1#7 ++ d.code ++ a.code ++ b.code ++ 3#4)
  | .mulhiU32 d a b => some (1#7 ++ d.code ++ a.code ++ b.code ++ 4#4)
  | .addsI32 d a b => some (1#7 ++ d.code ++ a.code ++ b.code ++ 5#4)
  | .subsI32 d a b => some (1#7 ++ d.code ++ a.code ++ b.code ++ 6#4)
  | .addsU32 d a b => some (1#7 ++ d.code ++ a.code ++ b.code ++ 7#4)
  | .subsU32 d a b => some (1#7 ++ d.code ++ a.code ++ b.code ++ 8#4)
  | .minI32 d a b => some (1#7 ++ d.code ++ a.code ++ b.code ++ 9#4)
  | .maxI32 d a b => some (1#7 ++ d.code ++ a.code ++ b.code ++ 10#4)
  | .minU32 d a b => some (1#7 ++ d.code ++ a.code ++ b.code ++ 11#4)
  | .maxU32 d a b => some (1#7 ++ d.code ++ a.code ++ b.code ++ 12#4)
  | .absI32 d a => some (1#7 ++ d.code ++ a.code ++ 13#11)
  | .andB32 d a b => some (2#7 ++ d.code ++ a.code ++ b.code ++ 0#4)
  | .orB32 d a b => some (2#7 ++ d.code ++ a.code ++ b.code ++ 1#4)
  | .xorB32 d a b => some (2#7 ++ d.code ++ a.code ++ b.code ++ 2#4)
  | .andnB32 d a b => some (2#7 ++ d.code ++ a.code ++ b.code ++ 3#4)
  | .shlB32 d a b => some (2#7 ++ d.code ++ a.code ++ b.code ++ 4#4)
  | .shrU32 d a b => some (2#7 ++ d.code ++ a.code ++ b.code ++ 5#4)
  | .shrI32 d a b => some (2#7 ++ d.code ++ a.code ++ b.code ++ 6#4)
  | .rotlB32 d a b => some (2#7 ++ d.code ++ a.code ++ b.code ++ 7#4)
  | .popcB32 d a => some (2#7 ++ d.code ++ a.code ++ 8#11)
  | .clzB32 d a => some (2#7 ++ d.code ++ a.code ++ 9#11)
  | .brevB32 d a => some (2#7 ++ d.code ++ a.code ++ 10#11)
  | .notB32 d a => some (2#7 ++ d.code ++ a.code ++ 11#11)
  | .bfeU32 d a b => some (3#7 ++ d.code ++ a.code ++ b.code ++ 0#4)
  | .bfeI32 d a b => some (3#7 ++ d.code ++ a.code ++ b.code ++ 1#4)
  | .bfiB32 d a b => some (3#7 ++ d.code ++ a.code ++ b.code ++ 2#4)
  | .bselB32 d a b => some (3#7 ++ d.code ++ a.code ++ b.code ++ 3#4)
  | .addI64 d a b => some (4#7 ++ d.code ++ a.code ++ b.code ++ 0#4)
  | .subI64 d a b => some (4#7 ++ d.code ++ a.code ++ b.code ++ 1#4)
  | .mulI64 d a b => some (4#7 ++ d.code ++ a.code ++ b.code ++ 2#4)
  | .shlB64 d a b => some (4#7 ++ d.code ++ a.code ++ b.code ++ 3#4)
  | .shrU64 d a b => some (4#7 ++ d.code ++ a.code ++ b.code ++ 4#4)
  | .shrI64 d a b => some (4#7 ++ d.code ++ a.code ++ b.code ++ 5#4)
  | .minI64 d a b => some (4#7 ++ d.code ++ a.code ++ b.code ++ 6#4)
  | .maxI64 d a b => some (4#7 ++ d.code ++ a.code ++ b.code ++ 7#4)
  | .mulwideI32 d a b => some (4#7 ++ d.code ++ a.code ++ b.code ++ 8#4)
  | .mulwideU32 d a b => some (4#7 ++ d.code ++ a.code ++ b.code ++ 9#4)
  | .madI32 d a b => some (5#7 ++ d.code ++ a.code ++ b.code ++ 0#4)
  | .madI64 d a b => some (5#7 ++ d.code ++ a.code ++ b.code ++ 1#4)
  | .addI32Imm d a i => some (8#7 ++ d.code ++ a.code ++ i)
  | .mulI32Imm d a i => some (9#7 ++ d.code ++ a.code ++ i)
  | .andB32Imm d a i => some (10#7 ++ d.code ++ a.code ++ i)
  | .orB32Imm d a i => some (11#7 ++ d.code ++ a.code ++ i)
  | .xorB32Imm d a i => some (12#7 ++ d.code ++ a.code ++ i)
  | .shlB32Imm d a i => some (13#7 ++ d.code ++ a.code ++ i)
  | .shrU32Imm d a i => some (14#7 ++ d.code ++ a.code ++ i)
  | .shrI32Imm d a i => some (15#7 ++ d.code ++ a.code ++ i)
  | .movB32Imm d i => some (16#7 ++ d.code ++ 0#7 ++ i)
  | .setpI32 c d a b => some (18#7 ++ (predCode d) ++ a.code ++ b.code ++ (icmpCode c))
  | .setpU32 c d a b => some (19#7 ++ (predCode d) ++ a.code ++ b.code ++ (icmpCode c))
  | .setpF32 c d a b => some (20#7 ++ (predCode d) ++ a.code ++ b.code ++ (fcmpCode c))
  | .setpI64 c d a b => some (21#7 ++ (predCode d) ++ a.code ++ b.code ++ (icmpCode c))
  | .setpF16 c d a b => some (30#7 ++ (predCode d) ++ a.code ++ b.code ++ 0#1 ++ ((icmpCode c).extractLsb' 0 3))
  | .setpBf16 c d a b => some (30#7 ++ (predCode d) ++ a.code ++ b.code ++ 1#1 ++ ((icmpCode c).extractLsb' 0 3))
  | .pand d a b => some (22#7 ++ (predCode d) ++ (predCode a) ++ (predCode b) ++ 0#4)
  | .por d a b => some (22#7 ++ (predCode d) ++ (predCode a) ++ (predCode b) ++ 1#4)
  | .pxor d a b => some (22#7 ++ (predCode d) ++ (predCode a) ++ (predCode b) ++ 2#4)
  | .pnot d a => some (22#7 ++ (predCode d) ++ (predCode a) ++ 3#11)
  | .pandn d a b => some (22#7 ++ (predCode d) ++ (predCode a) ++ (predCode b) ++ 4#4)
  | .selB32 d a b e p => some (23#7 ++ d.code ++ a.code ++ b.code ++ (BitVec.ofBool e) ++ (BitVec.ofFin p : BitVec 3))
  | .movB32 d a => some (24#7 ++ d.code ++ a.code ++ 0#11)
  | .movB64 d a => some (24#7 ++ d.code ++ a.code ++ 1#11)
  | .shflIdx d a b => some (24#7 ++ d.code ++ a.code ++ b.code ++ 2#4)
  | .shflUp d a b => some (24#7 ++ d.code ++ a.code ++ b.code ++ 3#4)
  | .shflDown d a b => some (24#7 ++ d.code ++ a.code ++ b.code ++ 4#4)
  | .shflXor d a b => some (24#7 ++ d.code ++ a.code ++ b.code ++ 5#4)
  | .wredAddI32 d a => some (25#7 ++ d.code ++ a.code ++ 0#11)
  | .wredMinI32 d a => some (25#7 ++ d.code ++ a.code ++ 1#11)
  | .wredMaxI32 d a => some (25#7 ++ d.code ++ a.code ++ 2#11)
  | .wredAddF32 d a => some (25#7 ++ d.code ++ a.code ++ 3#11)
  | .wscanAddI32 d a => some (25#7 ++ d.code ++ a.code ++ 4#11)
  | .wscanAddxI32 d a => some (25#7 ++ d.code ++ a.code ++ 5#11)
  | .wscanAddF32 d a => some (25#7 ++ d.code ++ a.code ++ 6#11)
  | .voteAny d a => some (25#7 ++ d.code ++ a.code ++ 7#11)
  | .voteAll d a => some (25#7 ++ d.code ++ a.code ++ 8#11)
  | .voteBallot d a => some (25#7 ++ d.code ++ a.code ++ 9#11)
  | .wredAndB32 d a => some (25#7 ++ d.code ++ a.code ++ 10#11)
  | .wredOrB32 d a => some (25#7 ++ d.code ++ a.code ++ 11#11)
  | .faddF32 d a b r => some (26#7 ++ d.code ++ a.code ++ b.code ++ (arndCode r) ++ 0#2)
  | .fsubF32 d a b r => some (26#7 ++ d.code ++ a.code ++ b.code ++ (arndCode r) ++ 1#2)
  | .fmulF32 d a b r => some (26#7 ++ d.code ++ a.code ++ b.code ++ (arndCode r) ++ 2#2)
  | .fmaF32 d a b r => some (26#7 ++ d.code ++ a.code ++ b.code ++ (arndCode r) ++ 3#2)
  | .faddF16 d a b r => some (27#7 ++ d.code ++ a.code ++ b.code ++ (arndCode r) ++ 0#2)
  | .fsubF16 d a b r => some (27#7 ++ d.code ++ a.code ++ b.code ++ (arndCode r) ++ 1#2)
  | .fmulF16 d a b r => some (27#7 ++ d.code ++ a.code ++ b.code ++ (arndCode r) ++ 2#2)
  | .fmaF16 d a b r => some (27#7 ++ d.code ++ a.code ++ b.code ++ (arndCode r) ++ 3#2)
  | .faddBf16 d a b r => some (28#7 ++ d.code ++ a.code ++ b.code ++ (arndCode r) ++ 0#2)
  | .fsubBf16 d a b r => some (28#7 ++ d.code ++ a.code ++ b.code ++ (arndCode r) ++ 1#2)
  | .fmulBf16 d a b r => some (28#7 ++ d.code ++ a.code ++ b.code ++ (arndCode r) ++ 2#2)
  | .fmaBf16 d a b r => some (28#7 ++ d.code ++ a.code ++ b.code ++ (arndCode r) ++ 3#2)
  | .fminF32 d a b => some (29#7 ++ d.code ++ a.code ++ b.code ++ 0#4)
  | .fmaxF32 d a b => some (29#7 ++ d.code ++ a.code ++ b.code ++ 1#4)
  | .fabsF32 d a => some (29#7 ++ d.code ++ a.code ++ 2#11)
  | .fnegF32 d a => some (29#7 ++ d.code ++ a.code ++ 3#11)
  | .fminF16 d a b => some (29#7 ++ d.code ++ a.code ++ b.code ++ 4#4)
  | .fmaxF16 d a b => some (29#7 ++ d.code ++ a.code ++ b.code ++ 5#4)
  | .fminBf16 d a b => some (29#7 ++ d.code ++ a.code ++ b.code ++ 6#4)
  | .fmaxBf16 d a b => some (29#7 ++ d.code ++ a.code ++ b.code ++ 7#4)
  | .cvt d a r t u => some (32#7 ++ d.code ++ a.code ++ (rndCode r) ++ (numTyCode t) ++ (numTyCode u))
  | .npack d a b k => some (33#7 ++ d.code ++ a.code ++ b.code ++ 0#2 ++ (BitVec.ofFin k : BitVec 2))
  | .nunpack d a b k => some (33#7 ++ d.code ++ a.code ++ b.code ++ 1#2 ++ (BitVec.ofFin k : BitVec 2))
  | .expF32 d a => some (34#7 ++ d.code ++ a.code ++ 0#11)
  | .exp2F32 d a => some (34#7 ++ d.code ++ a.code ++ 1#11)
  | .logF32 d a => some (34#7 ++ d.code ++ a.code ++ 2#11)
  | .log2F32 d a => some (34#7 ++ d.code ++ a.code ++ 3#11)
  | .sinpiF32 d a => some (34#7 ++ d.code ++ a.code ++ 4#11)
  | .cospiF32 d a => some (34#7 ++ d.code ++ a.code ++ 5#11)
  | .tanhF32 d a => some (34#7 ++ d.code ++ a.code ++ 6#11)
  | .sigmF32 d a => some (34#7 ++ d.code ++ a.code ++ 7#11)
  | .erfF32 d a => some (34#7 ++ d.code ++ a.code ++ 8#11)
  | .rcpF32 d a => some (34#7 ++ d.code ++ a.code ++ 9#11)
  | .rsqrtF32 d a => some (34#7 ++ d.code ++ a.code ++ 10#11)
  | .sqrtF32 d a => some (34#7 ++ d.code ++ a.code ++ 11#11)
  | .divF32 d a b => some (34#7 ++ d.code ++ a.code ++ b.code ++ 12#4)
  | .expF16 d a => some (35#7 ++ d.code ++ a.code ++ 0#11)
  | .exp2F16 d a => some (35#7 ++ d.code ++ a.code ++ 1#11)
  | .logF16 d a => some (35#7 ++ d.code ++ a.code ++ 2#11)
  | .log2F16 d a => some (35#7 ++ d.code ++ a.code ++ 3#11)
  | .sinpiF16 d a => some (35#7 ++ d.code ++ a.code ++ 4#11)
  | .cospiF16 d a => some (35#7 ++ d.code ++ a.code ++ 5#11)
  | .tanhF16 d a => some (35#7 ++ d.code ++ a.code ++ 6#11)
  | .sigmF16 d a => some (35#7 ++ d.code ++ a.code ++ 7#11)
  | .erfF16 d a => some (35#7 ++ d.code ++ a.code ++ 8#11)
  | .rcpF16 d a => some (35#7 ++ d.code ++ a.code ++ 9#11)
  | .rsqrtF16 d a => some (35#7 ++ d.code ++ a.code ++ 10#11)
  | .sqrtF16 d a => some (35#7 ++ d.code ++ a.code ++ 11#11)
  | .divF16 d a b => some (35#7 ++ d.code ++ a.code ++ b.code ++ 12#4)
  | .expBf16 d a => some (36#7 ++ d.code ++ a.code ++ 0#11)
  | .exp2Bf16 d a => some (36#7 ++ d.code ++ a.code ++ 1#11)
  | .logBf16 d a => some (36#7 ++ d.code ++ a.code ++ 2#11)
  | .log2Bf16 d a => some (36#7 ++ d.code ++ a.code ++ 3#11)
  | .sinpiBf16 d a => some (36#7 ++ d.code ++ a.code ++ 4#11)
  | .cospiBf16 d a => some (36#7 ++ d.code ++ a.code ++ 5#11)
  | .tanhBf16 d a => some (36#7 ++ d.code ++ a.code ++ 6#11)
  | .sigmBf16 d a => some (36#7 ++ d.code ++ a.code ++ 7#11)
  | .erfBf16 d a => some (36#7 ++ d.code ++ a.code ++ 8#11)
  | .rcpBf16 d a => some (36#7 ++ d.code ++ a.code ++ 9#11)
  | .rsqrtBf16 d a => some (36#7 ++ d.code ++ a.code ++ 10#11)
  | .sqrtBf16 d a => some (36#7 ++ d.code ++ a.code ++ 11#11)
  | .divBf16 d a b => some (36#7 ++ d.code ++ a.code ++ b.code ++ 12#4)
  | .saddI32 d a b => some (40#7 ++ d.code ++ a.code ++ b.code ++ 0#4)
  | .ssubI32 d a b => some (40#7 ++ d.code ++ a.code ++ b.code ++ 1#4)
  | .smulI32 d a b => some (40#7 ++ d.code ++ a.code ++ b.code ++ 2#4)
  | .sandB32 d a b => some (40#7 ++ d.code ++ a.code ++ b.code ++ 3#4)
  | .sorB32 d a b => some (40#7 ++ d.code ++ a.code ++ b.code ++ 4#4)
  | .sxorB32 d a b => some (40#7 ++ d.code ++ a.code ++ b.code ++ 5#4)
  | .sshlB32 d a b => some (40#7 ++ d.code ++ a.code ++ b.code ++ 6#4)
  | .sshrU32 d a b => some (40#7 ++ d.code ++ a.code ++ b.code ++ 7#4)
  | .sshrI32 d a b => some (40#7 ++ d.code ++ a.code ++ b.code ++ 8#4)
  | .sminI32 d a b => some (40#7 ++ d.code ++ a.code ++ b.code ++ 9#4)
  | .smaxI32 d a b => some (40#7 ++ d.code ++ a.code ++ b.code ++ 10#4)
  | .smovB32 d a => some (40#7 ++ d.code ++ a.code ++ 11#11)
  | .saddI64 d a b => some (40#7 ++ d.code ++ a.code ++ b.code ++ 12#4)
  | .ssubI64 d a b => some (40#7 ++ d.code ++ a.code ++ b.code ++ 13#4)
  | .sminU32 d a b => some (40#7 ++ d.code ++ a.code ++ b.code ++ 14#4)
  | .smaxU32 d a b => some (40#7 ++ d.code ++ a.code ++ b.code ++ 15#4)
  | .smovB32Imm d i => some (41#7 ++ d.code ++ 0#7 ++ i)
  | .saddI32Imm d a i => some (42#7 ++ d.code ++ a.code ++ i)
  | .scmpEqI32 d a b => some (43#7 ++ (predCode d) ++ a.code ++ b.code ++ 0#4)
  | .scmpNeI32 d a b => some (43#7 ++ (predCode d) ++ a.code ++ b.code ++ 1#4)
  | .scmpLtI32 d a b => some (43#7 ++ (predCode d) ++ a.code ++ b.code ++ 2#4)
  | .scmpLeI32 d a b => some (43#7 ++ (predCode d) ++ a.code ++ b.code ++ 3#4)
  | .scmpGtI32 d a b => some (43#7 ++ (predCode d) ++ a.code ++ b.code ++ 4#4)
  | .scmpGeI32 d a b => some (43#7 ++ (predCode d) ++ a.code ++ b.code ++ 5#4)
  | .scmpEqU32 d a b => some (43#7 ++ (predCode d) ++ a.code ++ b.code ++ 6#4)
  | .scmpNeU32 d a b => some (43#7 ++ (predCode d) ++ a.code ++ b.code ++ 7#4)
  | .scmpLtU32 d a b => some (43#7 ++ (predCode d) ++ a.code ++ b.code ++ 8#4)
  | .scmpLeU32 d a b => some (43#7 ++ (predCode d) ++ a.code ++ b.code ++ 9#4)
  | .scmpGtU32 d a b => some (43#7 ++ (predCode d) ++ a.code ++ b.code ++ 10#4)
  | .scmpGeU32 d a b => some (43#7 ++ (predCode d) ++ a.code ++ b.code ++ 11#4)
  | .getsScalar d n => some (44#7 ++ d.code ++ 0#10 ++ (sRegCode n))
  | .getsVector d n => some (44#7 ++ d.code ++ 512#10 ++ (sRegCode n))
  | .sets d => some (45#7 ++ d.code ++ 0x20#18)
  | .bra e p x => some (48#7 ++ (BitVec.ofBool e) ++ (BitVec.ofFin p : BitVec 3) ++ x)
  | .bru e p x => some (49#7 ++ (BitVec.ofBool e) ++ (BitVec.ofFin p : BitVec 3) ++ x)
  | .call x => some (50#7 ++ 0#4 ++ x)
  | .nop => some (51#7 ++ 0#25)
  | .join => some (51#7 ++ 1#25)
  | .ret => some (51#7 ++ 2#25)
  | .exit => some (51#7 ++ 3#25)
  | .yield => some (51#7 ++ 4#25)
  | .tret => some (51#7 ++ 5#25)
  | .getmask d => some (51#7 ++ d.code ++ 6#18)
  | .setmask a => some (51#7 ++ 0#7 ++ a.code ++ 7#11)
  | .jmpi a => some (51#7 ++ 0#7 ++ a.code ++ 8#11)
  | .calli a => some (51#7 ++ 0#7 ++ a.code ++ 9#11)
  | .wbase a => some (51#7 ++ 0#7 ++ a.code ++ 10#11)
  | .trap n => some (51#7 ++ n ++ 11#18)
  | .sleepn d i => some (52#7 ++ d.code ++ i)
  | .waitt a => some (53#7 ++ 0#7 ++ a.code ++ 0#11)
  | .tmarkFull a => some (56#7 ++ 0#7 ++ a.code ++ 0#11)
  | .tmarkEmpty a => some (56#7 ++ 0#7 ++ a.code ++ 1#11)
  | .ttest d a => some (56#7 ++ (predCode d) ++ a.code ++ 2#11)
  | .put a b q r => some (57#7 ++ a.code ++ b.code ++ q ++ 0#6 ++ (BitVec.ofBool r))
  | .get a b q => some (58#7 ++ a.code ++ b.code ++ q ++ 0#7)
  | .send a b q r => some (59#7 ++ a.code ++ b.code ++ q ++ 0#6 ++ (BitVec.ofBool r))
  | .pread d a => some (60#7 ++ d.code ++ a.code ++ 0#11)
  | .phint a => some (60#7 ++ 0#7 ++ a.code ++ 1#11)
  | .ldSU8 d b o s r => some (64#7 ++ d.code ++ b.code ++ o ++ (scopeCode s) ++ (orderCode r))
  | .ldSI8 d b o s r => some (65#7 ++ d.code ++ b.code ++ o ++ (scopeCode s) ++ (orderCode r))
  | .ldSU16 d b o s r => some (66#7 ++ d.code ++ b.code ++ o ++ (scopeCode s) ++ (orderCode r))
  | .ldSI16 d b o s r => some (67#7 ++ d.code ++ b.code ++ o ++ (scopeCode s) ++ (orderCode r))
  | .ldS d b o s r => some (68#7 ++ d.code ++ b.code ++ o ++ (scopeCode s) ++ (orderCode r))
  | .ldSB64 d b o s r => some (69#7 ++ d.code ++ b.code ++ o ++ (scopeCode s) ++ (orderCode r))
  | .stSB8 d b o s r => some (70#7 ++ d.code ++ b.code ++ o ++ (scopeCode s) ++ (orderCode r))
  | .stSB16 d b o s r => some (71#7 ++ d.code ++ b.code ++ o ++ (scopeCode s) ++ (orderCode r))
  | .stS d b o s r => some (72#7 ++ d.code ++ b.code ++ o ++ (scopeCode s) ++ (orderCode r))
  | .stSB64 d b o s r => some (73#7 ++ d.code ++ b.code ++ o ++ (scopeCode s) ++ (orderCode r))
  | .ldGU8 d b o s r => some (74#7 ++ d.code ++ b.code ++ o ++ (scopeCode s) ++ (orderCode r))
  | .ldGI8 d b o s r => some (75#7 ++ d.code ++ b.code ++ o ++ (scopeCode s) ++ (orderCode r))
  | .ldGU16 d b o s r => some (76#7 ++ d.code ++ b.code ++ o ++ (scopeCode s) ++ (orderCode r))
  | .ldGI16 d b o s r => some (77#7 ++ d.code ++ b.code ++ o ++ (scopeCode s) ++ (orderCode r))
  | .ldG d b o s r => some (78#7 ++ d.code ++ b.code ++ o ++ (scopeCode s) ++ (orderCode r))
  | .ldGB64 d b o s r => some (79#7 ++ d.code ++ b.code ++ o ++ (scopeCode s) ++ (orderCode r))
  | .stGB8 d b o s r => some (80#7 ++ d.code ++ b.code ++ o ++ (scopeCode s) ++ (orderCode r))
  | .stGB16 d b o s r => some (81#7 ++ d.code ++ b.code ++ o ++ (scopeCode s) ++ (orderCode r))
  | .stG d b o s r => some (82#7 ++ d.code ++ b.code ++ o ++ (scopeCode s) ++ (orderCode r))
  | .stGB64 d b o s r => some (83#7 ++ d.code ++ b.code ++ o ++ (scopeCode s) ++ (orderCode r))
  | .ldtG d b o s r => some (84#7 ++ d.code ++ b.code ++ o ++ (scopeCode s) ++ (orderCode r))
  | .sttG d b o s r => some (85#7 ++ d.code ++ b.code ++ o ++ (scopeCode s) ++ (orderCode r))
  | .ldtS d b o s r => some (86#7 ++ d.code ++ b.code ++ o ++ (scopeCode s) ++ (orderCode r))
  | .sttS d b o s r => some (87#7 ++ d.code ++ b.code ++ o ++ (scopeCode s) ++ (orderCode r))
  | .atomS d b o s r => some (88#7 ++ d.code ++ b.code ++ (atomCode o) ++ (scopeCode s) ++ (orderCode r))
  | .atomSB64 d b o s r => some (89#7 ++ d.code ++ b.code ++ (atomCode o) ++ (scopeCode s) ++ (orderCode r))
  | .atomG d b o s r => some (90#7 ++ d.code ++ b.code ++ (atomCode o) ++ (scopeCode s) ++ (orderCode r))
  | .atomGB64 d b o s r => some (91#7 ++ d.code ++ b.code ++ (atomCode o) ++ (scopeCode s) ++ (orderCode r))
  | .fence s r => some (92#7 ++ 0#20 ++ (scopeCode s) ++ (orderCode r))
  | .waita d b o s r => some (93#7 ++ d.code ++ b.code ++ o ++ (scopeCode s) ++ (orderCode r))
  | .sinit a b => some (94#7 ++ 0#7 ++ a.code ++ b.code ++ 0#4)
  | .twait d a b => some (94#7 ++ (predCode d) ++ a.code ++ b.code ++ 1#4)
  | .give a => some (94#7 ++ 0#7 ++ a.code ++ 2#11)
  | .claim a => some (94#7 ++ 0#7 ++ a.code ++ 3#11)
  | .bar => some (94#7 ++ 4#25)
  | .barN a => some (94#7 ++ 0#7 ++ a.code ++ 5#11)
  | .bbar => some (95#7 ++ 0#25)
  | .mma d a b => some (96#7 ++ d ++ a.code ++ b.code ++ 0#4)
  | .mmaBf16 d a b => some (96#7 ++ d ++ a.code ++ b.code ++ 1#4)
  | .mmaF16 d a b => some (96#7 ++ d ++ a.code ++ b.code ++ 2#4)
  | .mmaSq d a b => some (96#7 ++ d ++ (fmtCode a) ++ b.code ++ 3#4)
  | .aclr d => some (97#7 ++ d ++ 0#18)
  | .ald d a b => some (97#7 ++ d ++ a.code ++ b.code ++ 1#4)
  | .ast d a b => some (97#7 ++ d ++ a.code ++ b.code ++ 2#4)
  | .ascale d a => some (97#7 ++ d ++ a.code ++ 3#11)
  | .aexp d a => some (97#7 ++ d ++ a.code ++ 4#11)
  | .shape d m n k => some (98#7 ++ d.code ++ 0#12 ++ (kDimCode k) ++ (mDimCode n) ++ (mDimCode m))
  | .setfmt k i => some (99#7 ++ (fmtCode k) ++ i)
  | .getfmt d a => some (100#7 ++ d.code ++ (fmtCode a) ++ 0#11)
  | .setfmtR d a => some (100#7 ++ (fmtCode d) ++ a.code ++ 1#11)
  | .copyG2s d a b => some (104#7 ++ d.code ++ a.code ++ b.code ++ 0#4)
  | .copyS2g d a b => some (104#7 ++ d.code ++ a.code ++ b.code ++ 1#4)
  | .copyS2s d a b => some (104#7 ++ d.code ++ a.code ++ b.code ++ 2#4)
  | .copyG2g d a b => some (104#7 ++ d.code ++ a.code ++ b.code ++ 3#4)
  | .copyG2sMc d a b => some (104#7 ++ d.code ++ a.code ++ b.code ++ 4#4)
  | .copyS2sMc d a b => some (104#7 ++ d.code ++ a.code ++ b.code ++ 5#4)
  | .cseal => some (105#7 ++ 0#25)
  | .cwait i => some (106#7 ++ 0#14 ++ i)
  | .sset a b k => some (107#7 ++ a.code ++ b.code ++ 0#2 ++ (BitVec.ofFin k : BitVec 2) ++ 0#7)
  | .spop d a b => some (108#7 ++ d.code ++ (fmtCode a) ++ (predCode b) ++ 0#4)
  | .sstat d a b => some (108#7 ++ d.code ++ (fmtCode a) ++ b.code ++ 1#4)
  | .sclose a => some (108#7 ++ 0#7 ++ (fmtCode a) ++ 2#11)
  | .qfence m => some (109#7 ++ 0#17 ++ m)
  | .hprobe a b => some (112#7 ++ a.code ++ b.code ++ 0#11)
  | .hins a b => some (113#7 ++ a.code ++ b.code ++ 0#11)
  | .hdel a b s => some (114#7 ++ a.code ++ b.code ++ 0#10 ++ (BitVec.ofBool s))
  | .hrehash a b => some (115#7 ++ a.code ++ b.code ++ 0#11)
  | .hsetBind a b => some (116#7 ++ a.code ++ b.code ++ 0#11)
  | .hsetBindClear a b => some (116#7 ++ a.code ++ b.code ++ 1#11)
  | .hsetUnbind a b => some (116#7 ++ a.code ++ b.code ++ 2#11)
  | .hsetStatus a b => some (116#7 ++ a.code ++ b.code ++ 3#11)
  | .gtopk a b o e m u => some (117#7 ++ a.code ++ b.code ++ 0#6 ++ (BitVec.ofBool o) ++ (BitVec.ofBool e) ++ (mergeCode m) ++ (BitVec.ofBool u))
  | .ghist a b w n => some (118#7 ++ a.code ++ b.code ++ 0#9 ++ (BitVec.ofBool w) ++ (BitVec.ofBool n))
  | .gscan a b t f n => some (119#7 ++ a.code ++ b.code ++ 0#8 ++ (BitVec.ofBool t) ++ (BitVec.ofBool f) ++ (BitVec.ofBool n))
  | .gperm a b o => some (120#7 ++ a.code ++ b.code ++ 0#10 ++ (BitVec.ofBool o))
  | .isect d a b => some (121#7 ++ d.code ++ a.code ++ b.code ++ 0#4)
  | .launch a b => some (122#7 ++ a.code ++ b.code ++ 0#11)
  | .cancelDrain a => some (123#7 ++ a.code ++ 0#18)
  | .cancelTrap a => some (123#7 ++ a.code ++ 1#18)
  | .grd e p => some (124#7 ++ (BitVec.ofBool e) ++ (BitVec.ofFin p : BitVec 3) ++ 0#21)
  | .xim i => some (125#7 ++ i)
  | .csrr d n => some (126#7 ++ d.code ++ (csrCode n) ++ 0#11)
  | .csrw n a => some (126#7 ++ (csrCode n) ++ a.code ++ 1#11)
  | .tlbinv a b => some (126#7 ++ 0#7 ++ a.code ++ b.code ++ 2#4)
  | .tlbinvAll a => some (126#7 ++ 0#7 ++ a.code ++ 3#11)
  | .globalAccessComplete _ _ => none
  | .translationWalk _ _ _ _ _ => none
  | .fqheadPoll _ => none
  | .faultStatusObserved _ _ => none
  | .copyPerform _ _ => none
  | .streamItemDeliver _ _ => none
  | .mmaPerform _ => none
  | .aclrPerform _ => none
  | .aldPerform _ => none
  | .astPerform _ => none
  | .ascalePerform _ => none
  | .aexpPerform _ => none
  | .hprobeRequest _ => none
  | .hinsRequest _ => none
  | .hdelRequest _ => none
  | .hrehashRequest _ => none
  | .hsetRequest _ => none
  | .gtopkRequest _ => none
  | .ghistRequest _ => none
  | .gscanRequest _ => none
  | .gpermRequest _ => none
  | .fabricOpPerform _ _ => none
  | .sendRetryTimeout _ => none
  | .waitDeadline _ => none
  | .twaitBound _ => none
  | .waitaReread _ => none
  | .waitLimitTimeout _ => none
  | .claimGrant _ => none
  | .allowanceCycle _ _ => none
  | .floorDue _ _ => none
  | .slewStep _ => none
  | .marverDispatch => none
  | .groupCompletion _ => none
  | .poolGroupCommit _ => none
  | .tileStatePoll _ => none
  | .classAgeing _ => none
  | .quantumCommit _ => none
  | .coreDump _ => none
  | .dumpgoWrite _ => none
  | .clampBlockWrite _ => none
  | .mgmtRegisterWrite _ _ => none
  | .mread => none
  | .mwrite => none
  | .jlset => none
  | .jlstop => none
  | .attest => none
  | .mailboxUnknownCommand => none
  | .jobLaunch => none
  | .jobCancelDrain => none
  | .jobCancelTrap => none
  | .jobRecordSkip => none
  | .hostInboundAccess _ _ _ _ => none
  | .spireInboundAccess _ _ _ => none
  | .arrivalMatch _ _ _ _ => none
  | .arrivalTaskAppend _ => none
  | .spireLaneFail _ => none
  | .shelfFrame _ => none
  | .frameLossTimeout => none
  | .belfryPeriod _ _ => none
  | .unattTimer => none
  | .restoreStagger _ _ => none
  | .bckgoGo => none
  | .bckgoRestore => none
  | .checkpointCopyDone => none
  | .checkpointFailResume => none
  | .restoreCopyDone => none
  | .lehrPeriod _ _ => none
  | .thermalSample _ _ => none
  | .thermalShutdown _ => none
  | .eolhUpdate _ _ => none
  | .softError _ => none
  | .scrub _ _ _ => none
  | .quadRetire _ _ => none
  | .engineRetire _ => none
  | .moduleReset => none
  | .hostLinkTrained _ => none
  | .linkTrainingTimeout => none
  | .firmwareStart _ => none
  | .scratchpadAccessComplete _ _ => none
  | .hostLinkDown _ => none
  | .spireLinkDown _ => none

/-- The word at the head of a byte string, little-endian (R24). -/
def wordOfBytes : List Byte → Option (Word × List Byte)
  | b0 :: b1 :: b2 :: b3 :: rest => some (b3 ++ b2 ++ b1 ++ b0, rest)
  | _ => none

/-- The four bytes of a word, little-endian (R24). -/
def bytesOfWord (w : Word) : List Byte :=
  [w.extractLsb' 0 8, w.extractLsb' 8 8, w.extractLsb' 16 8, w.extractLsb' 24 8]

/-- The decoder on bytes: the instruction and the bytes after it; `none` where fewer than four bytes stand there. -/
noncomputable def decode (bs : List Byte) : Option (Except Illegal Instr × List Byte) :=
  (wordOfBytes bs).map fun p => (decodeWord p.1, p.2)

/-- The instruction that the decoder reads from the bits `w` of an opcode-table row of `nbits` bits. Every
instruction is one 32-bit word (R24): the bits above `nbits` are 0. -/
noncomputable def decodeTableWord (nbits w : Nat) : Option Instr :=
  match decode (bytesOfWord (BitVec.ofNat 32 (w % 2 ^ nbits))) with
  | some (.ok i, _) => some i
  | _ => none

end Sys2Proof
end

