-- ==== Sys2Proof/Config.lean ====
section
/-! DEFINITION. What the spec leaves open. Every value here is a constant with no body: nothing can evaluate it, and a
statement that holds of the model holds whatever it is. -/

namespace Sys2Proof.Config

/-- Nanoseconds that pass during step `n` of the machine (R12, R57, R58, R116: no time is fixed); log 4. -/
opaque elapsed : Nat → Nat
/-- The contents of register `k` of thread `t` of a trap bank at the trap entry of step `n` (R365); log 8. -/
opaque bankWord : (n t k : Nat) → Word
/-- The contents of a uniform register of a trap bank at the trap entry of step `n` (R365); log 8. -/
opaque bankScalar : (n k : Nat) → Word
/-- The bytes that the core takes for a divergence record that something else has written, from those the core wrote and
those that memory holds (R2, R55); log 92. -/
opaque spoiltRecord : (wrote holds : List Byte) → List Byte
/-- A fault queue whose head stands past its tail is full (R2, R249); log 92. -/
opaque pastTailFull : (tail head : Nat) → Bool
/-- A die takes up a head that has been lowered (R2, R249); log 92. -/
opaque takesLowered : (was now : Nat) → Bool
/-- The place in the ring that the control launch reads when `TAIL` runs ahead of it by more than the ring holds (R2, R389);
log 91. -/
opaque overrunSlot : (seen tail : Nat) → Nat
/-- What a byte read beyond the device memory of the part, or from a unit that is down, returns; log 13. -/
opaque absentByte : (tick addr : Nat) → Byte
/-- Byte `i` of a unit of a table descriptor that `hset` reads at step `n` and that is lost (R281, R294); log 81. -/
opaque lostByte : (n i : Nat) → Byte
/-- The spacing, as a power of two, beyond the limit of a format whose only finite value is zero (R72); log 14. -/
opaque loneSpacing : Int
/-- `emax` of a format whose largest finite value is zero (R71); log 14. -/
opaque loneEmax : Int
/-- The reason that an ARITH trap of `npack` or `nunpack` records at step `n`: R107 gives none; log 21. -/
opaque packReason : (n : Nat) → Nat
/-- The idle floor in W that firmware measures when it starts at step `n` (R348); log 15. -/
opaque measured : (n : Nat) → Word
/-- Byte `k` of the two hashes of an attestation report at step `n` (R403); log 16. -/
opaque reportHash : (n k : Nat) → Byte
/-- The signatures of an attestation report at step `n` (R403); log 16. -/
opaque reportSigs : (n : Nat) → List Byte
/-- The contents of a dump section of a type that R374 lists without laying it out, from the items it lists; log 17. -/
opaque dumpSection : (type : Nat) → (items : List Nat) → List Byte
/-- `DETAIL` of an error log entry, from the wave slot, tile, operand and coordinates it is about: R377 gives the items and
no layout; log 23. -/
opaque logDetail : List Nat → Nat

/-- The peer's answer to the fabric operation that comes at place `k` of a commit at step `n` (R394, R397); log 44. -/
opaque peerAnswer : (n k : Nat) → PeerAnswer
/-- A peer module's windows allow no read, or no write, of a byte of its memory at step `n` (R394); log 44. -/
opaque peerDenies : (n : Nat) → (write : Bool) → (addr : Nat) → Bool

end Sys2Proof.Config
end

