-- ==== Sys2Proof/Machine/Sparse.lean ====
section
/-! DEFINITION. Sparse stores: a list of (key, value) pairs, keys strictly rising, no entry equal to the value 0 that an
unlisted key reads as. Memory is the store of bytes (`List Host.Cell`); register files are the stores of words. -/

namespace Sys2Proof.Machine

/-- A store of `w`-bit values by key. -/
abbrev Sparse (w : Nat) := List (Nat × BitVec w)

namespace Sparse

/-- The value at a key. -/
def get : Sparse w → Nat → BitVec w
  | [], _ => 0
  | (k, v) :: rest, a => if a = k then v else get rest a

/-- An entry in front, left out when it is the default. -/
def put (a : Nat) (v : BitVec w) (m : Sparse w) : Sparse w := if v = 0 then m else (a, v) :: m

/-- The store without a key. -/
def erase (a : Nat) : Sparse w → Sparse w
  | [] => []
  | (k, u) :: rest => if a = k then erase a rest else (k, u) :: erase a rest

/-- An entry in its place. -/
def insert (a : Nat) (v : BitVec w) : Sparse w → Sparse w
  | [] => put a v []
  | (k, u) :: rest => if a < k then put a v ((k, u) :: rest) else (k, u) :: insert a v rest

/-- The store after a write; writing 0 removes the entry. -/
def set (m : Sparse w) (a : Nat) (v : BitVec w) : Sparse w := insert a v (erase a m)

/-- Every key is above `lo` and rises, and no value is 0. -/
def wfFrom : Option Nat → Sparse w → Bool
  | _, [] => true
  | lo, (k, v) :: rest => (match lo with | none => true | some l => decide (l < k)) && decide (v ≠ 0) && wfFrom (some k) rest

/-- The canonical form. -/
def wf (m : Sparse w) : Bool := wfFrom none m

end Sparse

/-- Bytes of memory. -/
abbrev Memory := List Host.Cell

/-- The canonical form of memory. -/
def Memory.wf (m : Memory) : Bool := Sparse.wf (w := 8) m

/-- The byte at an address; a byte that nothing has written reads 0 (log 1). -/
def Memory.read (m : Memory) (a : Nat) : BitVec 8 := Sparse.get (w := 8) m a
def Memory.write (m : Memory) (a : Nat) (v : BitVec 8) : Memory := Sparse.set (w := 8) m a v

/-- The `n` bytes from `a` up. -/
def Memory.bytes (m : Memory) (a n : Nat) : List (BitVec 8) := (List.range n).map fun i => m.read (a + i)

/-- Bytes written from `a` up. -/
def Memory.writeBytes (m : Memory) (a : Nat) : List (BitVec 8) → Memory
  | [] => m
  | b :: bs => (m.write a b).writeBytes (a + 1) bs

/-- A little-endian number from bytes (R5). -/
def leNat : List (BitVec 8) → Nat
  | [] => 0
  | b :: bs => b.toNat + 256 * leNat bs

/-- The `n` little-endian bytes of a number (R5). -/
def leBytes : Nat → Nat → List (BitVec 8)
  | 0, _ => []
  | n + 1, v => BitVec.ofNat 8 v :: leBytes n (v / 256)

/-- A little-endian number of `n` bytes at `a`. -/
def Memory.nat (m : Memory) (a n : Nat) : Nat := leNat (m.bytes a n)

end Sys2Proof.Machine
end

