-- ==== Sys2Proof/Machine/State.lean ====
section
/-! DEFINITION. The state of the AMT9-768: plain data, everything the spec gives the machine (INVENTORY.md, State).
Groups, waves, launches and requests are lists of records; register files and memories are sparse stores. -/

namespace Sys2Proof.Machine

/-- Why the machine stops. Traps are not faults: a trap is a next state (R363). -/
inductive Fault where
  /-- Raised by a meaning of an instruction word when no path issues: there is nothing that could perform it. Safe. -/
  | noIssuer
deriving DecidableEq, Repr

/-- Why a step has no meaning. -/
inductive Refusal where
  /-- Raised by `exec` for a row that has no meaning yet. Safe. -/
  | notModelled (mnemonic : String)
deriving DecidableEq, Repr

/-- The memory a translated address reaches, `MT` of its leaf (R243). -/
inductive Space where
  | dev | host | spire
deriving DecidableEq, Repr

/-- A translated address. For host memory it is the bus address, one for both links (R385); for peer memory bits 51:48
are the link (R393). -/
structure Phys where
  space : Space
  addr  : Nat
deriving DecidableEq, Repr

/-- The kinds of access a fault record names (R248). -/
inductive Access where
  | load | store | atomic | fetch | engineRead | engineWrite
deriving DecidableEq, Repr

/-- A fault of translation or permission: `CAUSE` 1 not present, 2 permission, 3 malformed, 4 noncanonical, the level at
which the walk stopped, and log2 of the range that the last entry it read covers (R242, R248). -/
structure XFault where
  cause : Nat
  level : Nat
  span  : Nat
deriving DecidableEq, Repr

/-- A fault that the die has recorded: the fields of R248 and, once it stands in the queue, its record number. -/
structure FaultRec where
  n      : Nat
  slot   : Option Nat
  va     : DWord
  ctx    : Nat
  kind   : Access
  fault  : XFault
  core   : Nat
  wslot  : Nat
  mask   : Mask
  count  : Nat
  /-- `STATUS` as the die has observed it; 2 from the start where R250 says so -/
  status : Nat
  /-- the atomic operation is one that host or peer memory excludes (R164) -/
  excluded : Bool
  /-- the die has observed `STATUS` while a checkpoint held the engines, which act on it later (R351) -/
  late   : Bool
deriving DecidableEq, Repr

/-- A fault record that something waits on. -/
structure FaultRef where
  die : Nat
  n   : Nat
deriving DecidableEq, Repr

/-- A table entry or translation that a die keeps (R246): `span` is the log2 of the range it translates. -/
structure Kept where
  die   : Nat
  ctx   : Nat
  level : Nat
  lo    : Nat
  span  : Nat
  word  : DWord
deriving DecidableEq, Repr

/-! ### Waves -/

/-- What a path waits for (R59). A path that waits keeps its pc at the waiting word. -/
inductive Wait where
  | none
  | join
  /-- a barrier word with number `b` (9 for `bbar`), and the phase in which the path began to wait -/
  | bar (b phase : Nat)
  | claim (blocks : Nat)
  | time (deadline : Nat)
  | twait (p : Fin 8) (targets : List (Nat × Word × Word)) (since : Nat)
  | waita (d : VDst) (watch : List (Nat × DWord × DWord)) (got : List (Nat × DWord)) (scope : Scope) (order : Order)
  | cseal
  | cwait (n : Nat)
  /-- a `qfence`, with the step at which it issued -/
  | qfence (at_ : Nat)
  /-- a word of stream `k`, with the step at which it issued (R260) -/
  | stream (k at_ : Nat)
  /-- the fault records that threads wait on (R363, R381) -/
  | records (refs : List (Nat × FaultRef))
  | recordBusy
deriving DecidableEq, Repr

/-- The prefixed sequence a path is in the middle of (R31 to R35): its first word and address, the words so far, the
guard, the XIM chain and its value, and a GRD word of it whose RES field is not 0. -/
structure Seq where
  start : DWord
  first : Word
  /-- the word of the sequence that issues now -/
  word  : Word
  len   : Nat
  guard : Option (Bool × Fin 8)
  chain : Nat
  imm   : Nat
  bad   : Option Word
deriving DecidableEq, Repr

def Seq.empty : Seq := ⟨0, 0, 0, 0, none, 0, 0, none⟩

/-- A path in its slot (R43, R50, R53). Latches are keyed 4 × thread + k, their counts by thread. -/
structure Path where
  pc     : DWord
  mask   : Mask
  split  : Option (Nat × Bool)
  s      : Sparse 32
  /-- uniform registers whose copy holds an uncorrectable error (R62) -/
  badS   : DWord
  marks  : DWord
  fmt    : List Word
  latch  : Sparse 64
  fill   : Sparse 8
  priv   : Bool
  seq    : Seq
  wait   : Wait
  since  : Nat
  /-- threads to perform of the instruction at pc, after a `tret` with partial completion (R368) -/
  replay : Option Mask
  /-- threads whose replay faults again at once (R250), with the record that ended with `STATUS` 2 -/
  failed : List (Nat × FaultRef)
  /-- threads that performed the instruction at pc before a fault, counted already (R77, R304) -/
  counted : Nat
  /-- threads of a replay that have a fault record, which each of them waits for on its own (R381) -/
  late   : List (Nat × FaultRef)
  /-- threads of the instruction at pc that have faulted while others still wait: cause, record, address (R160) -/
  faulted : List (Nat × Nat × Option FaultRef × DWord)
  /-- the threads whose accesses the present turn performs (log 7) -/
  only   : Option Mask
  /-- the threads whose loads the present turn leaves for later (log 7) -/
  defer  : Mask
  /-- the deadline of a wait that a trap has cut short, for the word at pc (R135) -/
  deadline : Option Nat
  /-- a run of `twait` that returned false: the address, and when it began (R156) -/
  run    : Option (Word × Nat)
deriving DecidableEq, Repr

/-- An open split: its number, the split it is nested in, the format registers and marks at the branch (R50, R51). -/
structure Split where
  num   : Nat
  outer : Option (Nat × Bool)
  fmt   : List Word
  marks : DWord
  ended : Bool
deriving DecidableEq, Repr

/-- What the core keeps of a divergence record (R55, R131): its mask, the innermost split and side of its path, whether
it waits at its JOIN, the path's privilege (log 19), and the bytes that the core wrote (log 92). -/
structure Shadow where
  mask  : Mask
  split : Option (Nat × Bool)
  wait  : Bool
  priv  : Bool
  badS  : DWord
  bytes : List Byte
deriving DecidableEq, Repr

/-- The trap record of a wave (R366). `own` gives each thread its own cause, `refs` the fault record it waits on. -/
structure TrapRec where
  cause  : Nat
  sub    : Nat
  resume : Bool
  exhaust : Bool
  winErr : Bool
  give   : Bool
  len    : Nat
  part   : Bool
  mask   : Mask
  kill   : Mask
  pc     : DWord
  addr   : DWord
  word   : Word
  own    : List (Nat × Nat)
  refs   : List (Nat × FaultRef)
  thr    : Nat
  level  : Nat
  /-- the threads of the trapped sequence that have not performed it, and how many have, kept for R367 and R77 -/
  left   : Mask
  counted : Nat
  /-- the address of the trapped sequence -/
  at_    : DWord
  /-- the deadline of a wait that the trap has cut short (R135) -/
  deadline : Option Nat
  /-- the further items that the spec names for the cause and no control register shows (R253, R294; log 78) -/
  items  : List DWord
  /-- the queue whose error the trap delivers, by its bit in the mask of `qfence`: the return clears it (R253, R275) -/
  queue  : Option Nat
deriving DecidableEq, Repr

def TrapRec.clear : TrapRec :=
  ⟨0, 0, false, false, false, false, 0, false, 0, 0, 0, 0, 0, [], [], 0, 0, 0, 0, 0, none, [], none⟩

/-- An entry of a stream FIFO: a row, its 4-byte units in error (R192), the chunks popped from it, or an error marker with
its reason (R258, R260). -/
structure Entry where
  bytes  : List Byte
  bad    : List Nat
  popped : Nat
  marker : Option Nat
deriving DecidableEq, Repr

/-- An indirect stream and its FIFO (R258 to R261). `row` counts positions; in mode 2 `j` and `hi` are the current
row's columns. -/
structure Stream where
  opened : Bool
  ended  : Bool
  nmono  : Bool
  ferr   : Bool
  psn    : Bool
  stop   : Bool
  desc   : BitVec 512
  start  : Word
  row    : Nat
  inRow  : Option (Nat × Nat)
  item   : Nat
  badrow : Word
  deliv  : Word
  popd   : Word
  fifo   : List Entry
  priv   : Bool
  thread : Nat
  at_    : Nat
  fault  : Option FaultRef
deriving DecidableEq, Repr

def Stream.closed : Stream :=
  ⟨false, false, false, false, false, false, 0, 0, 0, none, 0, 0, 0, 0, [], false, 0, 0, none⟩

/-- The matrix-class instructions that enter the queue (R175). -/
inductive MatKind where
  | mma (sq : Option (Fin 4))
  | aclr | ald | ast | ascale | aexp
deriving DecidableEq, Repr

/-- An entry of the matrix queue with what it took at issue (R190, R195). `left` counts engine cycles still to run, `split` is
the innermost split and side of the path that issued it. `quantum` is the quantum of the issue, where the rows come at
commits only (R233, R237). -/
structure MatOp where
  kind : MatKind
  tile : Nat
  a    : Word
  b    : Word
  fa   : Word
  fb   : Word
  f2   : Word
  mg   : Nat
  ng   : Nat
  kg   : Nat
  rows : Mask
  n    : Nat
  pc   : DWord
  slot : Bool
  dst  : SDst
  left : Nat
  /-- the engine has started the entry -/
  begun : Bool
  passed : Nat
  at_  : Nat
  split : Option (Nat × Bool)
  quantum : Option DWord
deriving DecidableEq, Repr

/-- What an entry of the copy queue does (R251, R397). -/
inductive CopyKind where
  | g2s | s2g | s2s | g2g
  | g2sMc | s2sMc
  | put (link : Nat) (lsp : Bool)
  | get (link : Nat) (lsp : Bool)
  | send (link : Nat) (tag : Word) (lsp : Bool)
deriving DecidableEq, Repr

/-- A queued copy (R252): operands at issue, the member groups of a multicast, bytes done, the record it waits on, when a
`send` was first refused, and the quantum of its issue (R237). -/
structure CopyOp where
  kind    : CopyKind
  thread  : Nat
  batch   : Nat
  d       : DWord
  a       : DWord
  n       : Nat
  sync    : Option Word
  members : List Nat
  done    : Nat
  /-- bytes of the source behind those moved, read with the rest of their sector (R226) -/
  read    : List Byte
  fault   : Option FaultRef
  since   : Option Nat
  quantum : DWord
  /-- the step of the issue -/
  at_     : Nat
  split   : Option (Nat × Bool)
  priv    : Bool
deriving DecidableEq, Repr

/-- A copy error a thread holds (R253). -/
structure CopyErr where
  thread : Nat
  cause  : Nat
  d      : DWord
  a      : DWord
  done   : Nat
deriving DecidableEq, Repr

inductive HKind where
  | probe | ins | del (scan : Bool) | rehash | set (op : Nat)
deriving DecidableEq, Repr

/-- A request in an HRU queue (R275 to R287): operands at issue and how far it has come. -/
structure HReq where
  kind    : HKind
  thread  : Nat
  a       : Word
  lo      : Word
  sel     : Word
  desc    : BitVec 512
  /-- slots still to handle, ascending -/
  slots   : List Nat
  /-- the vectors that a probe or a move reads first have been read -/
  ready   : Bool
  /-- per slot, the key row as it has been read -/
  olds    : List (Nat × List Byte)
  /-- the scratchpad behind the query or new vector as it was read once: its bytes, how many lie within the bound, and the
  32-bit units in error -/
  query   : Memory
  room    : Nat
  qbad    : List Nat
  /-- the bucket that a move still has to delete from -/
  moving  : Option Nat
  /-- the bucket that a scan, or an `hset`, has come to -/
  bucket  : Nat
  /-- slots whose key row is still to be written, and the bytes of the first one's, or of the bucket being cleared, that have
  been -/
  writes  : List Nat
  wrote   : Nat
  /-- bytes of the key rows, or of the buckets, that have been written whole -/
  put     : Nat
  out     : List Word
  psn     : Bool
  fault   : Option FaultRef
  /-- the slot whose access waits on the record -/
  stopped : Nat
  /-- for an `hset` that has come to its slot: the requests that came to it before (R287) -/
  behind  : Option (List (WaveRef × Nat))
  quantum : DWord
  at_     : Nat
  split   : Option (Nat × Bool)
deriving DecidableEq, Repr

inductive GKind where
  | topk (outpair asc : Bool) (merge : MergeKind) (dedup : Bool)
  | hist (weight add : Bool)
  | scan (total f32 incl : Bool)
  | perm (outpair : Bool)
deriving DecidableEq, Repr

/-- A request in a gate queue (R288). -/
structure GReq where
  kind : GKind
  thread : Nat
  a    : Word
  lo   : Word
  hi   : Word
  split : Option (Nat × Bool)
deriving DecidableEq, Repr

/-- The first error of an engine queue, the items of its record, and how many followed (R275, R294). -/
structure EngErr where
  cause  : Nat
  sub    : Nat
  addr   : DWord
  thread : Nat
  items  : List DWord
  later  : Nat
deriving DecidableEq, Repr

/-- Where a held store goes: translated memory, scratchpad of a group, or a byte of a register (R144). -/
inductive Target where
  | phys (p : Phys)
  | sp (group off : Nat)
  | reg (group wix t n byte : Nat)
deriving DecidableEq, Repr

/-- Bytes of a thread at a place: a relaxed store that has not been performed yet, with the level of its scope, or a load
that has been performed already (log 7). -/
structure Held where
  thread : Nat
  target : Target
  bytes  : List Byte
  scope  : Nat
deriving DecidableEq, Repr

/-- A load that has issued and reads later (R140, R220; log 7): its thread, the slot of its path, the place, its bytes, whether
it extends the sign, and its destination. -/
structure Load where
  thread : Nat
  slot   : Bool
  target : Target
  n      : Nat
  signed : Bool
  dst    : VDst
deriving DecidableEq, Repr

/-- A store that the agents of one scope instance can read and no other agent can (R217, R224): who made it, and how far
it is visible: 0 the wave, 1 the group, 2 the cluster, 3 the die (log 7). -/
structure Near where
  group   : Nat
  wix     : Nat
  cluster : Nat
  reach   : Nat
  store   : Held
deriving DecidableEq, Repr

/-- An entry of the commit buffer of a reproducible launch (R232, R234). `seen` is what the wave's own view then holds
at the place; the commit performs an atomic again on memory as it stands (R236). -/
inductive CEntry where
  | store (p : Phys) (bs : List Byte)
  | atom (p : Phys) (wide : Bool) (op : AtomOp) (a b seen : DWord)
  | full (p : Phys) (seen : DWord)
  | emptied (p : Phys) (seen : DWord)
deriving DecidableEq, Repr

/-- A wave (R43). Registers are keyed 2048 × thread + physical register, `o` 8 × thread + k, `p` by predicate with a bit
per thread, WB and SB by thread. -/
structure Wave where
  wix     : Nat
  wslot   : Nat
  role    : Nat
  seg     : Nat
  threads : Nat
  wb      : Sparse 32
  sb      : Sparse 32
  w       : Sparse 32
  o       : Sparse 32
  p       : Sparse 32
  exited  : Mask
  ucf     : Bool
  splitNo : Nat
  depth   : Nat
  /-- what the core keeps of the records on the divergence stack, top first -/
  stack   : List Shadow
  splits  : List Split
  mcfg    : Nat × Nat × Nat
  path0   : Option Path
  path1   : Option Path
  streams : List Stream
  mq      : List MatOp
  cq      : List CopyOp
  hq      : List HReq
  gq      : List GReq
  batch   : Sparse 32
  copyErr : List CopyErr
  hErr    : Option EngErr
  gErr    : Option EngErr
  trap    : TrapRec
  /-- the slot whose trap the record holds -/
  owner   : Option Bool
  /-- the trap of the other path, which parks until the record is free (R363) -/
  queued  : Option TrapRec
  bankW   : List Word
  bankS   : List Word
  /-- retired instructions at P0 and, over them, the performing threads, at least one each (R232, R304) -/
  retired : Nat
  ati     : Nat
  /-- retired instructions per thread at P0 (R77) -/
  done    : Sparse 64
  matN    : Nat
  qcount  : DWord
  qinstr  : Nat
  qended  : Bool
  cbuf    : List CEntry
  hint    : Option (Nat × Nat)
  /-- parked by a shed (R157), since a time -/
  parked  : Option Nat
  /-- the counter whose `cancel.trap` the wave has still to trap for (R317) -/
  cancel  : Option DWord
  /-- runs its handler after CANCEL (R317) -/
  unshed  : Bool
  held    : List Held
  /-- loads that a thread has performed before their words issue: what they read (log 7) -/
  early   : List Held
  /-- loads that have issued and not read yet, oldest first (log 7) -/
  loads   : List Load
  /-- uncorrectable units: operand kind 0 `w`, 1 `o`, 3 latch; number; thread (R62) -/
  bad     : List (Nat × Nat × Nat)
  /-- the slot of the path that issued last, so that the two paths alternate (R139) -/
  lastSlot : Bool
  parkedCycles : Nat
  /-- the wave has ended and left its barriers and its register blocks (R149, R154) -/
  gone    : Bool
deriving DecidableEq, Repr

/-! ### Groups and launches -/

/-- An accumulator tile (R81, R199): codes keyed 64 × row + column; the elements, and whether the exponent, that an
uncorrectable error has hit (R192). -/
structure Tile where
  m    : Sparse 48
  x    : Int
  zerr : Bool
  rn   : Bool
  aerr : Bool
  bad  : List Nat
  badX : Bool
deriving DecidableEq, Repr

/-- An empty tile (R82). -/
def Tile.empty : Tile := ⟨[], -32768, false, false, false, [], false⟩

/-- A group resident on a core (R52, R138). `cluster` is the global number 2 × die + cluster. -/
structure Group where
  id      : Nat
  launch  : Nat
  gord    : Nat
  org     : List Nat
  ext     : List Nat
  threads : Nat
  nwave   : Nat
  bandix  : Nat
  bandn   : Nat
  band    : Option Nat
  cluster : Nat
  lcore   : Nat
  core    : Nat
  prio    : Nat
  spsize  : Nat
  sp      : Memory
  /-- uncorrectable 32-bit units of scratchpad (R146) -/
  spBad   : List Nat
  tiles   : List Tile
  pool    : Nat
  /-- the phase of barriers 0 to 8 and of the band barrier (R152, R153, R203); counts and arrivals are read off the waves -/
  bars    : List Nat
  claims  : List PathRef
  waves   : List Wave
  lines   : Sparse 8
  shape   : List Nat
  order   : Nat
  probe   : Bool
  start   : Nat
  tasks   : Nat
  /-- a wave took a CANCEL trap (R317), a fatal trap (R364) -/
  killed  : Bool
  fatal   : Bool
  halted  : Bool
  /-- the time of the group's last exit, when every wave has ended (R304, R313) -/
  exit    : Option Nat
deriving DecidableEq, Repr

/-- A band (R202): the logical cores that received its groups. -/
structure Band where
  id    : Nat
  cores : List Nat
deriving DecidableEq, Repr

/-- An entry of the remainder list (R303): a box, or a tranche with its shape, order and position. Boxes are given by
low and high corners. -/
inductive RlEntry where
  | box (lo hi : List Nat)
  | tranche (lo hi shape : List Nat) (ord pos : Nat) (probe : Bool)
deriving DecidableEq, Repr

/-- What R304 keeps of a dispatched group. -/
structure Stat where
  gid     : Nat
  shape   : List Nat
  threads : Nat
  cost    : Option Nat
deriving DecidableEq, Repr

/-- A counter or tile change that the Marver makes (R313, R315, R364): a tile marked full, a counter lowered, an error
code or CANREQ or both, a kill counted, bytes of the cut log written (R306). -/
inductive Change where
  | full (va : DWord)
  | dec (va : DWord) (n : Int)
  | mark (va : DWord) (err : Option Nat) (can : Bool)
  | kill (va : DWord)
  /-- bytes of the cut log; `log` is the log's address -/
  | write (log va : DWord) (bs : List Byte)
deriving DecidableEq, Repr

/-- A change still to make: the launch it is made for, the group whose end makes it (R313), the core and wave slot its
fault record would name, and the record it waits on (R415). -/
structure Pending where
  change : Change
  launch : Nat
  group  : Option Nat
  die    : Nat
  core   : Nat
  wslot  : Nat
  ref    : Option FaultRef
deriving DecidableEq, Repr

/-- A live launch (R295): its record, and the Marver's state for it. -/
structure Launch where
  id      : Nat
  lrec    : BitVec 2048
  /-- the address of the record -/
  recVa   : DWord
  cls     : Nat
  present : Nat
  since   : Option Nat
  counter : Phys
  mct     : Sparse 64
  inmap   : Option (BitVec 512)
  outmap  : Option (BitVec 512)
  poolHdr : BitVec 512
  rl      : List RlEntry
  /-- units not dispatched yet (R314) -/
  left    : Nat
  shape   : List Nat
  probes  : List (List Nat)
  /-- from the first probe of a round to its decision, the groups that the decision looks at -/
  round   : Option (List Stat)
  /-- the last two groups dispatched of every shape -/
  recent  : List Stat
  counting : Nat
  gord    : Nat
  poolHead : Nat
  /-- the rises of `TAIL` that the Marver has seen, oldest first: the value, and when it was seen (R302) -/
  poolSeen : List (Nat × Nat)
  logN    : Nat
  logPos  : Nat
  logOff  : Bool
  stopped : Bool
  snap    : Option (Memory × Memory × Memory)
  commit  : Nat
deriving DecidableEq, Repr

/-! ### Dies, clusters, power -/

/-- A dump request (R372): the group and the cause that started it; from the halt on `NSCLK` at the halt, whether a further
trap or error arose, the errors that the group's engines held then, and the abandoned operations (R374, R375). -/
structure DumpReq where
  group  : Nat
  cause  : Nat
  halt   : Option DWord
  second : Bool
  errs   : Nat
  lost   : List (List Nat)
deriving DecidableEq, Repr

/-- An entry of a die's error log (R377), but for the count of dropped entries. -/
structure ErrEntry where
  src    : Nat
  unc    : Bool
  spared : Bool
  core   : Nat
  detail : Nat
  addr   : DWord
  clk    : DWord
deriving DecidableEq, Repr

/-- A compute die (R249, R335 to R339, R372, R377). -/
structure Die where
  lctl     : Word
  tj       : BitVec 12
  fop      : Nat
  /-- the operating points before the present one, oldest first, each with the time at which it ended (R12) -/
  clock    : List (Nat × Nat)
  vcore    : BitVec 12
  eolh     : BitVec 24
  lastRise : Option Nat
  trip     : Bool
  hotSince : Option Nat
  down     : Bool
  fqbase   : DWord
  fqlog    : Word
  fqSet    : Bool
  fqtail   : Nat
  fqhead   : Nat
  recs     : List FaultRec
  nextRec  : Nat
  elbase   : DWord
  ellog    : Word
  elSet    : Bool
  eltail   : Nat
  /-- entries that a checkpoint holds back (R351) -/
  elHeld   : List ErrEntry
  /-- trailers that a checkpoint keeps firmware's writes of `FQBASE` and `ELBASE` from clearing (R351) -/
  zeroHeld : List Nat
  dropped  : Nat
  corrected : Nat
  spared   : Nat
  dumps    : List DumpReq
deriving DecidableEq, Repr

/-- The scheduler of one physical core (R139, R207): the slot and path that issued last, the cycles without issue, and for
every path that could have issued and did not, the paths that have issued since. -/
structure CoreSched where
  last : Option (Nat × Bool)
  idle : Nat
  due  : List ((Nat × Bool) × List (Nat × Bool))
deriving DecidableEq, Repr

/-- A cluster (R205 to R213, R345). -/
structure Cluster where
  rate    : Nat
  step    : Nat
  shed    : BitVec 7
  b       : Int
  up      : Nat
  down    : Nat
  level   : Nat
  lmap    : List Word
  qhealth : BitVec 17
  fillers : Nat
  /-- the activity since the last measurement, and that of the 100 µs before it (R345) -/
  u       : Nat
  um      : Nat
  rises   : Nat
  window  : Nat
  cores   : List CoreSched
  /-- a core cycle has begun, and its cores' parts are not laid down yet (R206) -/
  fresh   : Bool
  /-- the cores whose part of the present cycle is to come, in its order; `true` for one that has no free lane (R58, R206) -/
  turns   : List (Nat × Bool)
deriving DecidableEq, Repr

/-- A table slot of an HRU (R264, R265, R282), and the wave whose bind of it is under way (R287). -/
structure HruSlot where
  bound    : Bool
  binding  : Option WaveRef
  desc     : BitVec 512
  ctx      : Nat
  rows     : Word
  drops    : Word
  evicts   : Word
  ovfused  : Word
  movefail : Word
  errs     : Word
  tgen     : Word
deriving DecidableEq, Repr

/-- The Belfry (R341 to R354). -/
structure Belfry where
  bctl     : Word
  bcurve   : List Word
  bshedl   : DWord
  brest    : Word
  bcap     : Word
  pidle    : Nat
  part     : List Word
  level    : Nat
  lost     : Bool
  capunatt : Bool
  unatt    : Bool
  restoring : Bool
  ckpt     : Nat
  holdup   : Bool
  floorred : BitVec 8
  ckwin    : DWord
  bckgo    : Word
  freq     : Word
  /-- `FREQ` of the last valid frame with `FVALID` (R342) -/
  okFreq   : Option Word
  vbus     : Nat
  shelflim : Nat
  lastFrame : Option Nat
  lowFrames : Nat
  /-- per class 1 to 7, valid frames in a row in which it could be restored (R346) -/
  held     : List Nat
  /-- classes that an unattainable target has shed (R345) -/
  powShed  : BitVec 7
  /-- classes to restore, with the cluster that is next and the time it is due (R346) -/
  restore  : List (Nat × Nat × Nat)
  pm       : Nat
  pd       : List Nat
  /-- the cap of the last evaluation, and each cluster's partition target (R347 to R349) -/
  capNow   : Nat
  targets  : List Nat
  overSince : Option Nat
  okSince  : Option Nat
  unattNext : Nat
  /-- the time of step 1 of a checkpoint, and whether a restore runs rather than a checkpoint -/
  ckclk    : DWord
  restoring2 : Bool
  halted   : Bool
deriving DecidableEq, Repr

/-! ### The I/O die -/

/-- The control launch (R390, R391): the value it compares against, and how it stops. -/
structure Control where
  seen     : DWord
  /-- the `TAIL` that it has observed and runs on to (R390) -/
  tail     : DWord
  stopping : Bool
  /-- a fault record its present job waits on -/
  fault    : Option FaultRef
deriving DecidableEq, Repr

/-- Entries of the management processor's error log (R215, R388). -/
inductive MgmtLog where
  | refused (reg : Nat)
  | clamp (reg : Nat)
  | bar (addr : Nat)
  | noWave (core wslot : Nat)
  | image
deriving DecidableEq, Repr

/-- The I/O die (R383 to R402). -/
structure Io where
  cmd      : BitVec 1024
  resp     : BitVec 1024
  xfer     : Memory
  msix     : List Nat
  mlog     : List MgmtLog
  trained  : List Nat
  down     : List Nat
  trainedAt : Option Nat
  fw       : Bool
  fwBad    : Bool
  locked   : Bool
  pkglim   : Nat
  slewlim  : Nat
  ttrip    : Nat
  spmask   : BitVec 12
  obw      : List (BitVec 128)
  spwin    : List (BitVec 128)
  sretry   : Word
  badrec   : Word
  jladdr   : DWord
  jlhead   : DWord
  control  : Option Control
  arrivals : List (Nat × BitVec 512)
  /-- completed entries whose task record is still to be appended (R399) -/
  appends  : List Nat
  spireDown : List Nat
  lanes    : List (Nat × Nat)
  ageus    : List Word
  dumpctl  : DWord
  retired  : List EngineUnit
  fuseVer  : Nat
deriving DecidableEq, Repr

/-- The launch `victim` gets no new group on `cores` while class `cls` has work that fits there (R318). -/
structure Block where
  cls    : Nat
  victim : Nat
  cores  : List Nat
deriving DecidableEq, Repr

/-- Whose turn is next (log 3). -/
inductive Turn where
  /-- an event of the table -/
  | event (i : Instr)
  /-- the next word of a path, when the next core of its cluster's cycle selects it; or what it waits for looked at -/
  | issue (p : PathRef)
  /-- the issue cycle of a cluster's cores (R206); `full` names the cores, by their number in the cluster, that have no
  free lane -/
  | cycle (c : Nat) (full : List Nat)
  /-- one core's part of an issue cycle (R206), by its number in the cluster, when it is the next; `full` when no lane is free -/
  | core (c core : Nat) (full : Bool)
  /-- the accesses of some threads of a path's next word, the others later (R160, R165; log 7) -/
  | part (p : PathRef) (ts : Mask)
  /-- the next word of a path, whose loads some threads perform later (R140, R220; log 7) -/
  | defer (p : PathRef) (ts : Mask)
  /-- `tlbinv.all` of the management processor at P2, for a context or for every context (R362, R371) -/
  | invalidate (ctx : Option Nat)
  /-- a link-level retry on a spire link (R393) -/
  | linkRetry (link : Nat)
  /-- one thing that an engine, a wait, the Marver or the I/O die can do -/
  | rest
deriving DecidableEq, Repr

/-- The machine. `tick`, `agenda`, `cur`, `relaxed` and `near` are the model's own (log 3, 5, 7). -/
structure State where
  tick     : Nat
  agenda   : List Turn
  cur      : Option PathRef
  relaxed  : Bool
  /-- stores that are visible in a scope instance only, oldest first (log 7) -/
  near     : List Near
  ns       : DWord
  mem      : Memory
  hostMem  : Memory
  peerMem  : Memory
  memBad   : List Nat
  /-- cross-core routes of a cluster, from a core to another, on which a transfer fails every retry (R201, log 12) -/
  netBad   : List (Nat × Nat × Nat)
  xroot    : Sparse 64
  kept     : List Kept
  dies     : List Die
  clusters : List Cluster
  hru      : List HruSlot
  launches : List Launch
  /-- changes of counters, tiles and cut logs still to make, in the order of their issue (R415) -/
  changes  : List Pending
  blocks   : List Block
  /-- the launch served last in each class, its number plus 1 (R318) -/
  served   : List Nat
  groups   : List Group
  bands    : List Band
  nextId   : Nat
  belfry   : Belfry
  io       : Io
deriving DecidableEq, Repr

/-! ### Reset -/

/-- A die after module reset. -/
def Die.reset : Die :=
  { lctl := BitVec.ofNat 32 (110 + 32 * 2 ^ 8), tj := 0, fop := 32, clock := [], vcore := 0, eolh := 0xFFFFFF, lastRise := none,
    trip := false, hotSince := none, down := false, fqbase := 0, fqlog := 6, fqSet := false, fqtail := 0, fqhead := 0,
    recs := [], nextRec := 0, elbase := 0, ellog := 6, elSet := false, eltail := 0, elHeld := [], zeroHeld := [], dropped := 0, corrected := 0,
    spared := 0, dumps := [] }

/-- A cluster after module reset (R205, R209, R212). -/
def Cluster.reset : Cluster :=
  { rate := 1024, step := 4, shed := 0, b := 4096, up := 1, down := 1, level := 0,
    lmap := (List.range 16).map fun q => BitVec.ofNat 32 (q + 64), qhealth := 0x1FFFF, fillers := 0, u := 0, um := 0, rises := 0,
    window := 0, cores := List.replicate 68 ⟨none, 0, []⟩, fresh := false, turns := [] }

/-- A table slot after module reset (R282). -/
def HruSlot.reset : HruSlot := ⟨false, none, 0, 0, 0, 0, 0, 0, 0, 0, 0⟩

/-- A curve point as it stands in its register (R342). -/
def curvePoint (df : Int) (lvl : Nat) : Word := BitVec.ofInt 32 (df % 2 ^ 16 + 2 ^ 16 * lvl)

/-- The shed levels of classes 1 to 7 as they stand in `BSHEDL` (R343). -/
def shedLevels : List Nat → Nat
  | [] => 0
  | l :: ls => l + 2 ^ 9 * shedLevels ls

/-- The Belfry after module reset (R342 to R353). -/
def Belfry.reset : Belfry :=
  { bctl := 4,
    bcurve := [curvePoint (-500) 128, curvePoint (-200) 154, curvePoint (-20) 256, curvePoint 20 256,
      curvePoint 500 256, curvePoint 500 256, curvePoint 500 256, curvePoint 500 256],
    bshedl := BitVec.ofNat 64 (shedLevels [26, 51, 77, 102, 128, 166, 205]),
    brest := BitVec.ofNat 32 (8 + 20 * 2 ^ 8 + 50 * 2 ^ 16 + 32 * 2 ^ 24),
    bcap := 2600, pidle := 0, part := [0xFF, 0, 0, 0, 0, 0, 0, 0], level := 256, lost := false, capunatt := false,
    unatt := false, restoring := false, ckpt := 0, holdup := false, floorred := 0, ckwin := 0, bckgo := 0, freq := 0, okFreq := none,
    vbus := 0, shelflim := 0, lastFrame := none, lowFrames := 0, held := List.replicate 7 0, powShed := 0, restore := [],
    pm := 0, pd := [0, 0, 0, 0], capNow := 2600, targets := List.replicate 8 2600, overSince := none, okSince := none, unattNext := 0, ckclk := 0, restoring2 := false,
    halted := false }

/-- The I/O die after module reset (R386, R392, R398, R401). -/
def Io.reset : Io :=
  { cmd := 0, resp := 0, xfer := [], msix := [], mlog := [], trained := [], down := [], trainedAt := none, fw := false,
    fwBad := false, locked := false, pkglim := 2600, slewlim := 64, ttrip := 125, spmask := 0xFFF,
    obw := List.replicate 8 0, spwin := List.replicate 8 0, sretry := 100, badrec := 0, jladdr := 0, jlhead := 0,
    control := none, arrivals := [], appends := [], spireDown := [], lanes := [], ageus := List.replicate 8 0,
    dumpctl := 0, retired := [], fuseVer := 0 }

/-- The machine right after module reset: every register at the value the spec states, or the one log 2 names; memory
lists nothing (log 1); no launch, group or wave exists (R391). -/
def State.reset : State :=
  { tick := 0, agenda := [], cur := none, relaxed := false, near := [], ns := 0, mem := [], hostMem := [], peerMem := [],
    memBad := [], netBad := [], xroot := [], kept := [], dies := List.replicate 4 Die.reset, clusters := List.replicate 8 Cluster.reset,
    hru := List.replicate 64 HruSlot.reset, launches := [], changes := [], blocks := [], served := List.replicate 8 0, groups := [], bands := [], nextId := 0,
    belfry := Belfry.reset, io := Io.reset }

end Sys2Proof.Machine
end

