-- ==== Sys2Proof/Machine/Lens.lean ====
section
/-! DEFINITION. Reaching one object in the state: groups, waves, paths, launches, dies; and the issuer of an instruction
word. Every change of an object goes through the `mod` functions here. -/

namespace Sys2Proof.Machine

/-! ### Sets of threads -/

/-- The threads of a mask, ascending (R57). -/
def ixs (m : Mask) : List Nat := (List.range 32).filter m.getLsbD

/-- The mask of a list of threads. -/
def maskOf : List Nat → Mask
  | [] => 0
  | t :: ts => BitVec.twoPow 32 t ||| maskOf ts

/-- Threads 0 to n - 1. -/
def maskBelow (n : Nat) : Mask := BitVec.ofNat 32 (2 ^ n - 1)

/-- The element of a list at an index, changed. -/
def modAt (f : α → α) : Nat → List α → List α
  | _, [] => []
  | 0, x :: xs => f x :: xs
  | n + 1, x :: xs => x :: modAt f n xs

/-- A list of words with the one at an index replaced; words in front of it that are missing are 0. -/
def putAt (v : BitVec n) : Nat → List (BitVec n) → List (BitVec n)
  | 0, [] => [v]
  | 0, _ :: xs => v :: xs
  | k + 1, [] => 0 :: putAt v k []
  | k + 1, x :: xs => x :: putAt v k xs

/-! ### Waves and paths -/

def Wave.path? (w : Wave) (slot : Bool) : Option Path := if slot then w.path1 else w.path0

def Wave.setPath (w : Wave) (slot : Bool) (p : Option Path) : Wave :=
  if slot then { w with path1 := p } else { w with path0 := p }

def Wave.modPath (w : Wave) (slot : Bool) (f : Path → Path) : Wave := w.setPath slot ((w.path? slot).map f)

/-- No path occupies a slot, and the divergence stack is empty (R126). -/
def Wave.ended (w : Wave) : Bool := w.path0.isNone && w.path1.isNone && w.depth == 0

/-! ### Groups, launches, dies -/

def Group.wave? (g : Group) (wix : Nat) : Option Wave := g.waves.find? fun w => w.wix == wix

def Group.modWave (g : Group) (wix : Nat) (f : Wave → Wave) : Group :=
  { g with waves := g.waves.map fun w => if w.wix = wix then f w else w }

def State.group? (s : State) (id : Nat) : Option Group := s.groups.find? fun g => g.id == id

def State.modGroup (s : State) (id : Nat) (f : Group → Group) : State :=
  { s with groups := s.groups.map fun g => if g.id = id then f g else g }

def State.wave? (s : State) (g wix : Nat) : Option Wave := (s.group? g).bind fun x => x.wave? wix

def State.modWave (s : State) (g wix : Nat) (f : Wave → Wave) : State := s.modGroup g fun x => x.modWave wix f

def State.path? (s : State) (r : PathRef) : Option Path := (s.wave? r.group r.wix).bind fun w => w.path? r.slot

def State.modPath (s : State) (r : PathRef) (f : Path → Path) : State :=
  s.modWave r.group r.wix fun w => w.modPath r.slot f

def State.launch? (s : State) (id : Nat) : Option Launch := s.launches.find? fun l => l.id == id

def State.modLaunch (s : State) (id : Nat) (f : Launch → Launch) : State :=
  { s with launches := s.launches.map fun l => if l.id = id then f l else l }

def State.die (s : State) (d : Nat) : Die := s.dies.getD d Die.reset
def State.modDie (s : State) (d : Nat) (f : Die → Die) : State := { s with dies := modAt f d s.dies }
def State.cluster (s : State) (c : Nat) : Cluster := s.clusters.getD c Cluster.reset
def State.modCluster (s : State) (c : Nat) (f : Cluster → Cluster) : State :=
  { s with clusters := modAt f c s.clusters }
def State.modIo (s : State) (f : Io → Io) : State := { s with io := f s.io }
def State.modBelfry (s : State) (f : Belfry → Belfry) : State := { s with belfry := f s.belfry }

/-- A host link carries accesses: it has trained and is up. -/
def Io.carries (x : Io) (link : Nat) : Bool := x.trained.contains link && !x.down.contains link

/-- A checkpoint is taken: device memory holds no write of the module until the image is whole (R351). -/
def State.still (s : State) : Bool := s.belfry.halted && s.belfry.ckpt == 1 && !s.belfry.restoring2

/-- The die of a group: two clusters per die (R9). -/
def Group.die (g : Group) : Nat := g.cluster / 2

/-- The number of a group's core in its cluster (R212). -/
def Group.coreNo (g : Group) : Nat := g.core - 68 * g.cluster

/-- Every wave of the group has ended. -/
def Group.ended (g : Group) : Bool := g.exit.isSome

/-- Twentieths of a core cycle from a time on until `stop`, through the operating points that ended and then at the present
one: point `f` runs at 0.8 + 0.05 `f` GHz (R335). -/
def twentieths (fop stop : Nat) : List (Nat × Nat) → (since : Nat) → Nat
  | [], t => (stop - t) * (16 + fop)
  | (f, e) :: r, t => (min e stop - t) * (16 + f) + twentieths fop stop r (max t e)

/-- Core cycles of a die between two times (R12, R335). -/
def State.cyclesBetween (s : State) (d since stop : Nat) : Nat := twentieths (s.die d).fop stop (s.die d).clock since / 20

/-- Core cycles of a die since a time. -/
def State.cyclesSince (s : State) (d since : Nat) : Nat := s.cyclesBetween d since s.ns.toNat

/-- The operating point moves, and the die keeps how long the one before it was in force. -/
def Die.setFop (x : Die) (now f : Nat) : Die := if f = x.fop then x else { x with fop := f, clock := x.clock ++ [(x.fop, now)] }

/-- A wave has been parked by a shed or a trap since a time; the cycles are counted (R304). -/
def Wave.parkedFor (w : Wave) (cycles : Nat) : Wave := { w with parkedCycles := w.parkedCycles + cycles }

/-! ### The launch record (R295) -/

/-- `n` bits of the record from bit `lo`. -/
def Launch.fld (l : Launch) (lo n : Nat) : Nat := (l.lrec.extractLsb' lo n).toNat

def Launch.entry (l : Launch) : DWord := l.lrec.extractLsb' 0 64
def Launch.handler (l : Launch) : DWord := l.lrec.extractLsb' 64 64
def Launch.counterVa (l : Launch) : DWord := l.lrec.extractLsb' 128 64
def Launch.pool (l : Launch) : Bool := l.fld 192 4 == 2
def Launch.repro (l : Launch) : Bool := l.lrec.getLsbD 199
def Launch.cutmode (l : Launch) : Nat := l.fld 200 2
/-- The groups of the launch lie on virtual cores: it is reproducible, or it replays a cut log (R306, R307). A pool replays none
(log 87). -/
def Launch.virtual (l : Launch) : Bool := l.repro || (l.cutmode == 3 && !l.pool)
def Launch.logrec (l : Launch) : Bool := l.lrec.getLsbD 202
def Launch.prodrole (l : Launch) : Nat := l.fld 203 3
def Launch.proden (l : Launch) : Bool := l.lrec.getLsbD 206
def Launch.maylaunch (l : Launch) : Bool := l.lrec.getLsbD 207
def Launch.ndim (l : Launch) : Nat := l.fld 208 3
def Launch.orders (l : Launch) : Nat := l.fld 211 5
def Launch.bandn (l : Launch) : Nat := l.fld 216 7
def Launch.ctx (l : Launch) : Nat := l.fld 224 8
def Launch.tiles (l : Launch) : Nat := l.fld 232 8
def Launch.dsdepth (l : Launch) : Nat := l.fld 240 8
def Launch.bandh (l : Launch) : Nat := l.fld 248 8
def Launch.lext (l : Launch) (k : Nat) : Nat := l.fld (256 + 32 * k) 32
def Launch.mine (l : Launch) (k : Nat) : Nat := l.fld (384 + 16 * k) 16
def Launch.maxe (l : Launch) (k : Nat) : Nat := l.fld (448 + 16 * k) 16
def Launch.gran (l : Launch) (k : Nat) : Nat := l.fld (512 + 16 * k) 16
def Launch.probe (l : Launch) (k : Nat) : Nat := l.fld (576 + 16 * k) 16
def Launch.tmin (l : Launch) : Nat := l.fld 640 16
def Launch.tmax (l : Launch) : Nat := l.fld 656 16
def Launch.wreev (l : Launch) : Nat := l.fld 672 16
def Launch.waitlim (l : Launch) : Nat := l.fld 688 16
def Launch.spfix (l : Launch) : Nat := l.fld 704 20
def Launch.spper (l : Launch) : Nat := l.fld 724 16
def Launch.spmax (l : Launch) : Nat := l.fld 740 20
def Launch.poolb (l : Launch) : Nat := l.fld 760 8
def Launch.d (l : Launch) : Nat := l.fld 768 17
/-- The quantum length; 0 in the record means 4,096. -/
def Launch.quantum (l : Launch) : Nat := if l.fld 785 17 = 0 then 4096 else l.fld 785 17
def Launch.role (l : Launch) (k : Nat) : Nat := l.fld (832 + 16 * k) 16
def Launch.rsbase (l : Launch) : DWord := l.lrec.extractLsb' 960 64
def Launch.dsbase (l : Launch) : DWord := l.lrec.extractLsb' 1024 64
def Launch.seed (l : Launch) : DWord := l.lrec.extractLsb' 1088 64
def Launch.hrumask (l : Launch) : DWord := l.lrec.extractLsb' 1152 64
def Launch.mctab (l : Launch) : DWord := l.lrec.extractLsb' 1216 64
def Launch.fmt (l : Launch) (k : Nat) : Word := l.lrec.extractLsb' (1280 + 32 * k) 32
def Launch.poolhdr (l : Launch) : DWord := l.lrec.extractLsb' 1408 64
def Launch.cutlog (l : Launch) : DWord := l.lrec.extractLsb' 1472 64
def Launch.budget (l : Launch) : Nat := l.fld 1536 32
def Launch.vgrid (l : Launch) : Nat := l.fld 1568 10
def Launch.vclus (l : Launch) : Nat := l.fld 1578 3
def Launch.inmapVa (l : Launch) : DWord := l.lrec.extractLsb' 1600 64
def Launch.outmapVa (l : Launch) : DWord := l.lrec.extractLsb' 1664 64

/-- The address of a wave's divergence stack (R297). -/
def Group.stackBase (g : Group) (l : Launch) (w : Wave) : DWord :=
  l.dsbase + BitVec.ofNat 64 ((64 * g.core + w.wslot) * 320 * l.dsdepth)

/-- The register stack address of a thread (R297). -/
def Group.rstack (g : Group) (l : Launch) (w : Wave) (t : Nat) : DWord :=
  l.rsbase + BitVec.ofNat 64 (((64 * g.core + w.wslot) * 32 + t) * 4 * l.d)

/-! ### The issuer of a word -/

/-- The path that issues, with what it belongs to. -/
structure Ctx where
  ref    : PathRef
  group  : Group
  wave   : Wave
  path   : Path
  launch : Launch
deriving DecidableEq, Repr

def State.ctxAt (s : State) (r : PathRef) : Option Ctx :=
  (s.group? r.group).bind fun g => (g.wave? r.wix).bind fun w => (w.path? r.slot).bind fun p =>
    (s.launch? g.launch).map fun l => ⟨r, g, w, p, l⟩

/-- The issuer: the path whose turn it is. -/
def State.ctx (s : State) : Option Ctx := s.cur.bind s.ctxAt

/-- The guard of the sequence in thread `t` (R31, R33). -/
def guardIn (w : Wave) (g : Option (Bool × Fin 8)) (t : Nat) : Bool :=
  match g with
  | none => true
  | some (sense, p) => xor sense (if p = 0 then true else (Sparse.get w.p p.val).getLsbD t)

/-- The active threads of the path that has the word to perform: all of them, or those a replay names (R368). -/
def Path.active (p : Path) : Mask :=
  match p.replay with
  | none => p.mask
  | some m => p.mask &&& m

/-- The performing threads of a per-thread word, P (R33, R87). -/
def Ctx.perf (c : Ctx) : List Nat := (ixs c.path.active).filter (guardIn c.wave c.path.seq.guard)

end Sys2Proof.Machine
end

