-- ==== Sys2Proof/Machine/Access.lean ====
section
/-! DEFINITION. Global memory: physical memory, the walk, permissions, kept entries, fault records and their queue, the
error log (R239 to R250, R377, R385, R393). -/

namespace Sys2Proof.Machine

/-- Device memory is 768 GiB (R239). -/
def devBytes : Nat := 768 * 2 ^ 30

/-! ### Physical memory -/

/-- `n` bytes of device memory by physical address; a byte the part does not have reads free (log 13). -/
def State.devBytesAt (s : State) (a n : Nat) : List Byte :=
  (List.range n).map fun i => if a + i < devBytes then s.mem.read (a + i) else Config.absentByte s.tick (a + i)

/-- A little-endian number in device memory. -/
def State.devNat (s : State) (a n : Nat) : Nat := leNat (s.devBytesAt a n)

/-- Bytes written to device memory; what lies beyond it is lost. -/
def State.devWrite (s : State) (a : Nat) (bs : List Byte) : State :=
  { s with mem := s.mem.writeBytes a (bs.take (devBytes - a)) }

def State.devWriteNat (s : State) (a n v : Nat) : State := s.devWrite a (leBytes n v)

/-- The bytes at a translated address. -/
def State.physRead (s : State) (p : Phys) (n : Nat) : List Byte :=
  match p.space with
  | .dev => s.devBytesAt p.addr n
  | .host => s.hostMem.bytes p.addr n
  | .spire => s.peerMem.bytes p.addr n

/-- Bytes written at a translated address. A write of a whole 32-byte unit makes the unit good (log 12). -/
def State.physWrite (s : State) (p : Phys) (bs : List Byte) : State :=
  match p.space with
  | .dev =>
    let t := s.devWrite p.addr bs
    { t with memBad := t.memBad.filter fun u => !(decide (p.addr ≤ 32 * u) && decide (32 * u + 32 ≤ p.addr + bs.length)) }
  | .host => { s with hostMem := s.hostMem.writeBytes p.addr bs }
  | .spire => { s with peerMem := s.peerMem.writeBytes p.addr bs }

/-- A read of these bytes meets an uncorrectable error (R241). -/
def State.physBad (s : State) (p : Phys) (n : Nat) : Bool :=
  p.space == .dev && s.memBad.any fun u => decide (32 * u < p.addr + n) && decide (p.addr < 32 * u + 32)

/-! ### The walk (R242 to R246) -/

/-- The index that a level takes from the virtual address. -/
def vaIndex (level va : Nat) : Nat :=
  match level with
  | 0 => va / 2 ^ 46 % 1024
  | 1 => va / 2 ^ 33 % 8192
  | 2 => va / 2 ^ 21 % 4096
  | _ => va / 2 ^ 16 % 32

/-- log2 of the range that one entry of a level covers. -/
def entrySpan (level : Nat) : Nat :=
  match level with
  | 0 => 46
  | 1 => 33
  | 2 => 21
  | _ => 16

/-- log2 of the size of the table below an entry of a level. -/
def tableSize (level : Nat) : Nat :=
  match level with
  | 0 => 16
  | 1 => 15
  | _ => 8

def pteV (e : DWord) : Bool := e.getLsbD 0
def pteLeaf (e : DWord) : Bool := e.getLsbD 1
def pteR (e : DWord) : Bool := e.getLsbD 2
def pteW (e : DWord) : Bool := e.getLsbD 3
def pteX (e : DWord) : Bool := e.getLsbD 4
def pteBlk (e : DWord) : Bool := e.getLsbD 5
def pteMt (e : DWord) : Nat := (e.extractLsb' 6 2).toNat
def pteAddr (e : DWord) : Nat := 256 * (e.extractLsb' 8 44).toNat
def pteSup (e : DWord) : Bool := e.getLsbD 52

/-- An entry that the walk calls malformed at its level (R242, R245, R393). -/
def pteMalformed (level va : Nat) (e : DWord) : Bool :=
  (e.extractLsb' 53 11 != 0) || (!pteLeaf e && level == 3) || (pteLeaf e && level == 0)
  || (pteBlk e && !(level == 2 && pteLeaf e)) || (pteMt e == 3)
  || (if pteLeaf e then
        (if pteBlk e then pteAddr e % 2 ^ 28 != 2 ^ 21 * (vaIndex 2 va % 128) else pteAddr e % 2 ^ entrySpan level != 0)
        || (pteMt e == 0 && decide (devBytes < pteAddr e + 2 ^ entrySpan level))
        || (pteMt e == 2 && decide (12 ≤ pteAddr e / 2 ^ 48))
      else pteAddr e % 2 ^ tableSize level != 0)

/-- A translation: the leaf entry, its level, and the address. -/
structure Leaf where
  word  : DWord
  level : Nat
  pa    : Nat
deriving DecidableEq, Repr

/-- The translation that a leaf gives an address; a `BLK` leaf gives it by its base (R245). -/
def leafOf (level va : Nat) (e : DWord) : Leaf :=
  ⟨e, level, if pteBlk e then pteAddr e / 2 ^ 28 * 2 ^ 28 + va % 2 ^ 28 else pteAddr e + va % 2 ^ entrySpan level⟩

/-- The walk from a table at a level (R242); `fuel` counts the levels left. -/
def State.walkFrom (s : State) (va : Nat) : (fuel level table : Nat) → Except XFault Leaf
  | 0, level, _ => .error ⟨3, level, entrySpan level⟩
  | fuel + 1, level, table =>
    let e := BitVec.ofNat 64 (s.devNat (table + 8 * vaIndex level va) 8)
    if !pteV e then .error ⟨1, level, entrySpan level⟩
    else if pteMalformed level va e then .error ⟨3, level, entrySpan level⟩
    else if pteLeaf e then .ok (leafOf level va e)
    else s.walkFrom va fuel (level + 1) (pteAddr e)

/-- The entry that a die keeps for an address, the deepest one first (R246, log 9). -/
def State.keptFor (s : State) (die ctx va : Nat) : Option Kept :=
  (s.kept.filter fun k => k.die == die && k.ctx == ctx && decide (k.lo ≤ va) && decide (va < k.lo + 2 ^ k.span)).foldl
    (fun best k => match best with | none => some k | some b => if b.level < k.level then some k else best) none

/-- `XROOT` of a context (R247). -/
def State.rootOf (s : State) (ctx : Nat) : DWord := s.xroot.get ctx

/-- Context 0 once firmware runs: every byte of device memory at its physical address, `R` and `W`, in leaves of level 1
(R391, log 25). -/
def identityLeaf (va : Nat) : Except XFault Leaf :=
  if va < devBytes then .ok (leafOf 1 va (BitVec.ofNat 64 (15 + va / 2 ^ 33 * 2 ^ 33)))
  else if va < 2 ^ 46 then .error ⟨1, 1, 33⟩ else .error ⟨1, 0, 46⟩

/-- The translation of an address in a context, on a die (R242, R246, R247). -/
def State.walk (s : State) (die ctx va : Nat) : Except XFault Leaf :=
  if va / 2 ^ 56 ≠ 0 then .error ⟨4, 0, 46⟩
  else if ctx = 0 ∧ s.io.fw = true then identityLeaf va
  else if !(s.rootOf ctx).getLsbD 63 then .error ⟨1, 0, 46⟩
  else
    match s.keptFor die ctx va with
    | some k =>
      if k.span = entrySpan k.level ∧ pteMalformed k.level va k.word then .error ⟨3, k.level, k.span⟩
      else if pteLeaf k.word then .ok (leafOf k.level va k.word)
      else s.walkFrom va (3 - k.level) (k.level + 1) (pteAddr k.word)
    | none => s.walkFrom va 4 0 ((s.rootOf ctx).extractLsb' 0 52).toNat

/-- What a leaf allows (R244). -/
def allowed (k : Access) (priv : Bool) (e : DWord) : Bool :=
  (priv || !pteSup e) &&
  match k with
  | .load => pteR e
  | .store => pteW e
  | .atomic => pteR e && pteW e
  | .fetch => pteX e
  | .engineRead => pteR e
  | .engineWrite => pteW e

/-- The range lies wholly inside one valid outbound window (R385, R401). -/
def State.inWindow (s : State) (p : Phys) (n : Nat) : Bool :=
  s.io.obw.any fun w =>
    let a := p.addr % 2 ^ 51
    let base := 2 ^ 21 * (w.extractLsb' 21 43).toNat
    w.getLsbD 0 && (w.getLsbD 1 == decide (2 ^ 51 ≤ p.addr)) && decide (base ≤ a)
    && decide (a + n ≤ base + 2 ^ 21 * (w.extractLsb' 64 32).toNat)

def spaceOf (mt : Nat) : Space := match mt with | 0 => .dev | 1 => .host | _ => .spire

/-- log2 of the page that a leaf maps (R245, R248). -/
def Leaf.span (l : Leaf) : Nat := if pteBlk l.word then 28 else entrySpan l.level

/-- The windows of a peer module allow no such access (R394): the peer's own, so free (log 44). -/
def peerDenies (tick : Nat) (k : Access) (a : Nat) : Bool :=
  match k with
  | .load => Config.peerDenies tick false a
  | .fetch => Config.peerDenies tick false a
  | .engineRead => Config.peerDenies tick false a
  | .store => Config.peerDenies tick true a
  | .engineWrite => Config.peerDenies tick true a
  | .atomic => Config.peerDenies tick false a || Config.peerDenies tick true a

/-- Where an access of `n` bytes at a global address reaches (R242, R244, R385, R394). -/
def State.translate (s : State) (die ctx : Nat) (priv : Bool) (k : Access) (va n : Nat) : Except XFault Phys :=
  match s.walk die ctx va with
  | .error f => .error f
  | .ok l =>
    let p : Phys := ⟨spaceOf (pteMt l.word), l.pa⟩
    if !allowed k priv l.word || (p.space == .host && !s.inWindow p n) || (p.space == .spire && peerDenies s.tick k p.addr) then
      .error ⟨2, l.level, l.span⟩
    else .ok (match p.space with
      | .dev => p
      | .host => ⟨.host, p.addr % 2 ^ 51⟩
      | .spire => p)

/-- The permission fault of an access that the walk allows and the memory that it reaches excludes (R164, R248). -/
def State.permFault (s : State) (die ctx va : Nat) : XFault :=
  match s.walk die ctx va with
  | .ok l => ⟨2, l.level, l.span⟩
  | .error f => f

/-! ### The error log (R377) -/

/-- An entry of the error log, as 32 bytes. -/
def ErrEntry.bytes (x : ErrEntry) (dropped : Nat) : List Byte :=
  leBytes 4 (x.src + 2 ^ 8 * x.unc.toNat + 2 ^ 9 * x.spared.toNat + 2 ^ 16 * (x.core % 2 ^ 16))
  ++ leBytes 4 x.detail ++ leBytes 8 x.addr.toNat ++ leBytes 8 x.clk.toNat ++ leBytes 4 dropped ++ leBytes 4 0

/-- A die writes an entry of its error log, or counts it as dropped when the ring is full. The entry in front of the
tail mirror word has not been read while the head word that follows it has not moved (R377, R249). -/
def State.writeError (s : State) (d : Nat) (x : ErrEntry) : State :=
  let e := s.die d
  let size := 2 ^ e.ellog.toNat
  let trailer := e.elbase.toNat + 32 * size
  let head := s.devNat (trailer + 8) 8
  if !e.elSet || decide (size ≤ e.eltail - head) then s.modDie d fun x => { x with dropped := x.dropped + 1 }
  else
    let t := s.devWrite (e.elbase.toNat + 32 * (e.eltail % size)) (x.bytes e.dropped)
    (t.devWriteNat trailer 8 (e.eltail + 1)).modDie d fun x => { x with eltail := x.eltail + 1, dropped := 0 }

/-- An error is logged; a checkpoint holds the entry back until the image is whole (R351). -/
def State.logError (s : State) (d src : Nat) (unc spared : Bool) (core detail : Nat) (addr : DWord) : State :=
  let x : ErrEntry := ⟨src, unc, spared, core, detail, addr, s.ns⟩
  if s.still then s.modDie d fun y => { y with elHeld := y.elHeld ++ [x] } else s.writeError d x

/-- The entries that a checkpoint held back, written. -/
def State.releaseErrors (s : State) (d : Nat) : State :=
  ((s.die d).elHeld.foldl (fun (t : State) x => t.writeError d x) s).modDie d fun y => { y with elHeld := [] }

/-! ### Fault records (R248, R249) -/

def accessCode : Access → Nat
  | .load => 0
  | .store => 1
  | .atomic => 2
  | .fetch => 3
  | .engineRead => 4
  | .engineWrite => 5

/-- A record as 64 bytes (R248). -/
def FaultRec.bytes (r : FaultRec) : List Byte :=
  leBytes 8 r.va.toNat
  ++ leBytes 4 (r.ctx % 256 + 2 ^ 8 * accessCode r.kind + 2 ^ 12 * r.fault.cause + 2 ^ 16 * r.fault.level)
  ++ leBytes 4 (r.core % 2 ^ 16 + 2 ^ 16 * (r.wslot % 64))
  ++ leBytes 4 r.mask.toNat ++ leBytes 4 (min r.count 0xFFFF) ++ leBytes 8 r.status ++ leBytes 32 0

/-- The address of ring slot `n`. -/
def Die.fqAddr (d : Die) (n : Nat) : Nat := d.fqbase.toNat + 64 * (n % 2 ^ d.fqlog.toNat)
/-- The address of the trailer. -/
def Die.fqTrailer (d : Die) : Nat := d.fqbase.toNat + 64 * 2 ^ d.fqlog.toNat
/-- The queue is full; whether it is with `FQHEAD` past `FQTAIL` is free (R249, log 92). -/
def Die.fqFull (d : Die) : Bool :=
  if d.fqtail < d.fqhead then Config.pastTailFull d.fqtail d.fqhead else decide (2 ^ d.fqlog.toNat ≤ d.fqtail - d.fqhead)

/-- The die acquires the `STATUS` of a record in its ring (R250): 1 resolves it, any other nonzero value fails it. -/
def State.observe (s : State) (d n : Nat) : State :=
  let read (r : FaultRec) : Nat :=
    match r.slot with
    | none => 0
    | some k => min 2 (s.devNat ((s.die d).fqAddr k + 24) 8)
  s.modDie d fun x =>
    { x with recs := x.recs.map fun r => if r.n = n ∧ r.status = 0 then { r with status := read r, late := s.belfry.halted } else r }

/-- Records that a slot still held when the ring comes round to it are observed first. -/
def State.observeSlot (s : State) (d k : Nat) : State :=
  ((s.die d).recs.filter fun r => r.slot.any fun q => q % 2 ^ (s.die d).fqlog.toNat == k % 2 ^ (s.die d).fqlog.toNat).foldl
    (fun (t : State) r => t.observe d r.n) s

/-- The first record that is held, written when the die may write it (R249, R351). -/
def State.writeRecord (s : State) (d : Nat) : State :=
  let s := s.observeSlot d (s.die d).fqtail
  let e := s.die d
  match e.recs.find? fun r => r.slot.isNone with
  | none => s
  | some r =>
    if !e.fqSet || e.fqFull || s.still then s
    else
      let t := s.devWrite (e.fqAddr e.fqtail) r.bytes
      (t.devWriteNat e.fqTrailer 8 (e.fqtail + 1)).modDie d fun x =>
        { x with
          fqtail := x.fqtail + 1
          recs := x.recs.map fun q => if q.n = r.n then { q with slot := some e.fqtail } else q }

/-- Held records written in order while there is room. -/
def State.writeRecords (s : State) (d : Nat) : (fuel : Nat) → State
  | 0 => s
  | n + 1 => (s.writeRecord d).writeRecords d n

def State.flushRecords (s : State) (d : Nat) : State :=
  s.writeRecords d ((s.die d).recs.filter fun r => r.slot.isNone).length

/-- A fault to be recorded. -/
structure NewFault where
  va     : DWord
  ctx    : Nat
  kind   : Access
  fault  : XFault
  core   : Nat
  wslot  : Nat
  mask   : Mask
  /-- an operation that host or peer memory excludes, whose record stands at `STATUS` 2 (R164) -/
  failed : Bool := false
deriving DecidableEq, Repr

/-- A fault merges into this record (R248). -/
def FaultRec.takes (r : FaultRec) (f : NewFault) : Bool :=
  r.status == 0 && f.fault.cause != 4 && !f.failed && r.ctx == f.ctx && r.kind == f.kind && r.fault.cause == f.fault.cause
  && r.core == f.core && r.wslot == f.wslot
  && (r.va.toNat / 2 ^ r.fault.span == f.va.toNat / 2 ^ r.fault.span)

/-- A merged record, rewritten in the ring but for its status, unless a checkpoint holds it back (R351). -/
def State.rewriteRecord (s : State) (d : Nat) (r : FaultRec) : State :=
  match r.slot with
  | none => s
  | some k => if s.still then s else s.devWrite ((s.die d).fqAddr k + 16) ((r.bytes.drop 16).take 8)

/-- Both words of a trailer cleared, unless a checkpoint holds the write back (R249, R351, R377). -/
def State.clearTrailer (s : State) (d a : Nat) : State :=
  if s.still then s.modDie d fun x => { x with zeroHeld := x.zeroHeld ++ [a] } else s.devWriteNat a 16 0

/-- The trailers that a checkpoint held back, cleared. -/
def State.clearHeld (s : State) (d : Nat) : State :=
  ((s.die d).zeroHeld.foldl (fun (t : State) a => t.devWriteNat a 16 0) s).modDie d fun x => { x with zeroHeld := [] }

/-- What a checkpoint held back of a die's trailers, records and log, written. -/
def State.releaseHeld (s0 : State) (d : Nat) : State :=
  let s := s0.clearHeld d
  ((((s.die d).recs.filter fun r => r.status == 0).foldl (fun (t : State) r => t.rewriteRecord d r) s).flushRecords d).releaseErrors d

/-- A fault put into the die's queue: a new record, or a merge into a pending one (R248). -/
def State.postFault (s : State) (d : Nat) (f : NewFault) : State × FaultRef :=
  match (s.die d).recs.find? fun r => r.takes f with
  | some r =>
    let q := { r with mask := r.mask ||| f.mask, count := min (r.count + 1) 0xFFFF }
    ((s.modDie d fun x => { x with recs := x.recs.map fun y => if y.n = r.n then q else y }).rewriteRecord d q, ⟨d, r.n⟩)
  | none =>
    let n := (s.die d).nextRec
    let r : FaultRec := ⟨n, none, f.va, f.ctx, f.kind, f.fault, f.core, f.wslot, f.mask, 1,
      if f.fault.cause = 4 || f.failed then 2 else 0, f.failed, false⟩
    ((s.modDie d fun x => { x with recs := x.recs ++ [r], nextRec := n + 1 }).flushRecords d, ⟨d, n⟩)

/-- The record behind a reference. -/
def State.record? (s : State) (f : FaultRef) : Option FaultRec := (s.die f.die).recs.find? fun r => r.n == f.n

/-- `STATUS` as the die has observed it (R250). -/
def State.statusOf (s : State) (f : FaultRef) : Nat := ((s.record? f).map fun r => r.status).getD 2

/-- `STATUS` as engines act on it: what the die has observed while a checkpoint holds them counts only after it (R351). -/
def State.statusNow (s : State) (f : FaultRef) : Nat :=
  if s.belfry.halted && (s.record? f).any fun r => r.late then 0 else s.statusOf f

/-- The index that the ring gives a record: its own, or the one it will have when it is written (R366). -/
def State.recIndex (s : State) (f : FaultRef) : Nat :=
  match (s.record? f).bind fun r => r.slot with
  | some k => k % 2 ^ 16
  | none =>
    ((s.die f.die).fqtail + ((s.die f.die).recs.filter fun r => r.slot.isNone && decide (r.n < f.n)).length) % 2 ^ 16

end Sys2Proof.Machine
end

