-- ==== Sys2Proof/Machine/Operands.lean ====
section
/-! DEFINITION. Every operand form: what a source reads in a thread, what a destination writes, the latches
(R26 to R30, R32, R44, R47 to R50, R62, R365). -/

namespace Sys2Proof.Machine

/-! ### The prefixed immediate (R32) -/

/-- The chain's value as a signed number of 25 bits per word. -/
def Seq.value (q : Seq) : Int :=
  if q.imm < 2 ^ (25 * q.chain - 1) then q.imm else (q.imm : Int) - 2 ^ (25 * q.chain)

def Seq.imm32 (q : Seq) : Word := BitVec.ofInt 32 q.value
def Seq.imm64 (q : Seq) : DWord := BitVec.ofInt 64 q.value

/-! ### Registers -/

/-- The physical register WB + k − SB of `wk` in thread `t`, one of the 2,048 at most of a segment (R44). Where a handler has moved `SB` so that R44
does not hold, the number is this one modulo 2,048 (log 93). -/
def Wave.phys (w : Wave) (k t : Nat) : Nat := ((w.wb.get t + BitVec.ofNat 32 k - w.sb.get t).setWidth 11).toNat

/-- The key of a `w` register in the segment store. -/
def Wave.wkey (w : Wave) (k t : Nat) : Nat := 2048 * t + w.phys k t

/-- `wk` of thread `t`; at P1 the trap bank (R365). -/
def Ctx.wreg (c : Ctx) (k t : Nat) : Word :=
  if c.path.priv then (if k < 16 then c.wave.bankW.getD (16 * t + k) 0 else 0)
  else c.wave.w.get (c.wave.wkey k t)

def Ctx.oreg (c : Ctx) (k t : Nat) : Word := c.wave.o.get (8 * t + k)

/-- `sk` of the path; at P1 `s0`-`s15` are the trap bank (R365). -/
def Ctx.sreg (c : Ctx) (k : Nat) : Word :=
  if c.path.priv && k < 16 then c.wave.bankS.getD k 0 else c.path.s.get k

/-- `pk` of thread `t`; `p0` reads true (R29). -/
def Wave.preg (w : Wave) (k : Fin 8) (t : Nat) : Bool := if k = 0 then true else (w.p.get k.val).getLsbD t

/-- `hk` of thread `t` (R47). -/
def Ctx.latch (c : Ctx) (k t : Nat) : DWord := c.path.latch.get (4 * t + k)

/-- A pair of 32-bit registers, the even one low (R30). -/
def pair (lo hi : Word) : DWord := hi ++ lo

/-! ### Sources -/

/-- A 32-bit vector-class source in thread `t` (R26). -/
def Ctx.v32 (c : Ctx) (t : Nat) : VOp → Word
  | .w k => c.wreg k.val t
  | .o k => c.oreg k.val t
  | .h k => (c.latch k.val t).setWidth 32
  | .s k => c.sreg k.val
  | .z => 0
  | .ix => BitVec.ofNat 32 t
  | .imm => c.path.seq.imm32

/-- A 64-bit vector-class source in thread `t` (R30). -/
def Ctx.v64 (c : Ctx) (t : Nat) : VOp → DWord
  | .w k => pair (c.wreg k.val t) (c.wreg (k.val + 1) t)
  | .o k => pair (c.oreg k.val t) (c.oreg (k.val + 1) t)
  | .h k => c.latch k.val t
  | .s k => pair (c.sreg k.val) (c.sreg (k.val + 1))
  | .z => 0
  | .ix => BitVec.ofNat 64 t
  | .imm => c.path.seq.imm64

/-- A destination read back as a source (R88, R163). -/
def srcOf : VDst → VOp
  | .w k => .w k
  | .o k => .o k
  | .z => .z

/-- The register `i` above a destination of several registers (R162, R163). -/
def upReg (i : Nat) : VDst → VDst
  | .w k => if h : k.val + i < 96 then .w ⟨k.val + i, h⟩ else .z
  | .o k => if h : k.val + i < 8 then .o ⟨k.val + i, h⟩ else .z
  | .z => .z

/-- A 32-bit scalar-class source (R27). -/
def Ctx.s32 (c : Ctx) : SOp → Word
  | .s k => c.sreg k.val
  | .z => 0
  | .imm => c.path.seq.imm32

/-- A 64-bit scalar-class source (R30). -/
def Ctx.s64 (c : Ctx) : SOp → DWord
  | .s k => pair (c.sreg k.val) (c.sreg (k.val + 1))
  | .z => 0
  | .imm => c.path.seq.imm64

/-- A count or barrier operand (R151, R155). -/
def Ctx.cnt (c : Ctx) : COp → Word
  | .s k => c.sreg k.val
  | .z => 0
  | .imm => c.path.seq.imm32

/-! ### What a source read can fail on (R48, R62) -/

/-- A source that a word reads, and whether it is 64 bits wide. -/
structure Src where
  op   : VOp
  wide : Bool := false
deriving DecidableEq, Repr

/-- A latch read by a thread that has too few entries since the last clear (R48). -/
def Ctx.unlatched (c : Ctx) (t : Nat) (x : Src) : Bool :=
  match x.op with
  | .h k => decide ((c.path.fill.get t).toNat ≤ k.val)
  | _ => false

/-- The stored unit behind a register operand: kind 0 `w`, 1 `o`, 2 `s` of the path, 3 latch (R62, log 12). A `w` register is
named by its physical number in the segment (log 62). -/
def Ctx.unit (c : Ctx) (t : Nat) (off : Nat) : VOp → Option (Nat × Nat × Nat)
  | .w k => if c.path.priv then none else some (0, c.wave.phys (k.val + off) t, t)
  | .o k => some (1, k.val + off, t)
  | .h k => if off = 0 then some (3, k.val, t) else none
  | .s k => if c.path.priv && k.val + off < 16 then none else some (2, k.val + off, 0)
  | .z => none
  | .ix => none
  | .imm => none

/-- A unit holds an uncorrectable error. -/
def Ctx.isBad (c : Ctx) (u : Nat × Nat × Nat) : Bool :=
  if u.1 = 2 then c.path.badS.getLsbD u.2.1 else c.wave.bad.contains u

/-- The first uncorrectable unit that a source reads in thread `t`. -/
def Ctx.badUnit (c : Ctx) (t : Nat) (x : Src) : Option (Nat × Nat × Nat) :=
  (c.unit t 0 x.op).filter c.isBad <|> if x.wide then (c.unit t 1 x.op).filter c.isBad else none

/-! ### Latches (R47) -/

/-- One thread's history pushed by one result. -/
def Path.push (p : Path) (t : Nat) (v : DWord) : Path :=
  { p with
    latch := (((p.latch.set (4 * t + 3) (p.latch.get (4 * t + 2))).set (4 * t + 2) (p.latch.get (4 * t + 1))).set
      (4 * t + 1) (p.latch.get (4 * t))).set (4 * t) v
    fill := p.fill.set t (if p.fill.get t = 4 then 4 else p.fill.get t + 1) }

/-- The histories of several threads pushed. -/
def Path.pushAll (p : Path) : List (Nat × DWord) → Path
  | [] => p
  | (t, v) :: r => (p.push t v).pushAll r

/-- The history cleared in every thread of the path (R48). -/
def Path.clearLatches (p : Path) : Path := { p with latch := [], fill := [] }

/-! ### Destinations -/

/-- The unit marked good again after it is written (R62). -/
def Wave.mend (w : Wave) (u : Nat × Nat × Nat) : Wave := { w with bad := w.bad.filter (· != u) }

/-- A register `w` written in thread `t`; at P1 the trap bank, or nothing (R365). -/
def Wave.putW (w : Wave) (priv : Bool) (k t : Nat) (v : Word) : Wave :=
  if priv then (if k < 16 then { w with bankW := putAt v (16 * t + k) w.bankW } else w)
  else ({ w with w := w.w.set (w.wkey k t) v }).mend (0, w.phys k t, t)

def Wave.putO (w : Wave) (k t : Nat) (v : Word) : Wave := ({ w with o := w.o.set (8 * t + k) v }).mend (1, k, t)

/-- A 32-bit vector-class destination written in thread `t` (R26). -/
def Wave.putV (w : Wave) (priv : Bool) (d : VDst) (t : Nat) (v : Word) : Wave :=
  match d with
  | .w k => w.putW priv k.val t v
  | .o k => w.putO k.val t v
  | .z => w

/-- A 64-bit vector-class destination written in thread `t` (R30). -/
def Wave.putV64 (w : Wave) (priv : Bool) (d : VDst) (t : Nat) (v : DWord) : Wave :=
  match d with
  | .w k => (w.putW priv k.val t (v.setWidth 32)).putW priv (k.val + 1) t (v.extractLsb' 32 32)
  | .o k => (w.putO k.val t (v.setWidth 32)).putO (k.val + 1) t (v.extractLsb' 32 32)
  | .z => w

/-- One result per thread, written. -/
def Wave.putAll (w : Wave) (priv : Bool) (d : VDst) : List (Nat × Word) → Wave
  | [] => w
  | (t, v) :: r => (w.putV priv d t v).putAll priv d r

def Wave.putAll64 (w : Wave) (priv : Bool) (d : VDst) : List (Nat × DWord) → Wave
  | [] => w
  | (t, v) :: r => (w.putV64 priv d t v).putAll64 priv d r

/-- A predicate written in one thread; a write to `p0` is discarded (R29). -/
def Wave.putP (w : Wave) (k : Fin 8) (t : Nat) (b : Bool) : Wave :=
  if k = 0 then w
  else
    let m := w.p.get k.val
    { w with p := w.p.set k.val (if b then m ||| BitVec.twoPow 32 t else m &&& ~~~(BitVec.twoPow 32 t)) }

def Wave.putPs (w : Wave) (k : Fin 8) : List (Nat × Bool) → Wave
  | [] => w
  | (t, b) :: r => (w.putP k t b).putPs k r

/-- `sk` written by a path: its own copy, marked (R50) and good again (R62). -/
def Path.putS (p : Path) (k : Nat) (v : Word) : Path :=
  { p with s := p.s.set k v, marks := p.marks ||| BitVec.twoPow 64 k, badS := p.badS &&& ~~~(BitVec.twoPow 64 k) }

/-- `sk` written by the path in `slot` of a wave; at P1 `s0`-`s15` are the trap bank (R365), of which
a wave has one, without marks (log 94). -/
def Wave.putSk (w : Wave) (slot : Bool) (priv : Bool) (k : Nat) (v : Word) : Wave :=
  if priv && k < 16 then { w with bankS := putAt v k w.bankS }
  else w.modPath slot fun p => p.putS k v

/-- A 32-bit scalar-class destination (R27). -/
def Wave.putS32 (w : Wave) (slot priv : Bool) (d : SDst) (v : Word) : Wave :=
  match d with
  | .s k => w.putSk slot priv k.val v
  | .z => w

/-- A 64-bit scalar-class destination (R30). -/
def Wave.putS64 (w : Wave) (slot priv : Bool) (d : SDst) (v : DWord) : Wave :=
  match d with
  | .s k => (w.putSk slot priv k.val (v.setWidth 32)).putSk slot priv (k.val + 1) (v.extractLsb' 32 32)
  | .z => w

end Sys2Proof.Machine
end

