-- ==== Sys2Proof/Machine/Paths.lean ====
section
/-! DEFINITION. Splits, the divergence stack, and what becomes of them when paths split, join and end
(R50, R51, R53 to R56, R125, R126). -/

namespace Sys2Proof.Machine

/-- A fault of an access that a thread or the core makes: translation or permission with the kind and address, an
uncorrectable error, or an atomic that host or peer memory excludes (R160, R164, R241). -/
inductive AFault where
  | x (f : XFault) (k : Access) (va : DWord)
  | ecc (va : DWord)
  /-- a fault in a context other than the launch's own (R316) -/
  | inCtx (ctx : Nat) (f : XFault) (k : Access) (va : DWord)
  | excluded (f : XFault) (va : DWord)
  /-- the fault of a replay whose record ended with `STATUS` 2 (R250) -/
  | again (r : FaultRec)
deriving DecidableEq, Repr

def AFault.va : AFault → DWord
  | .x _ _ va => va
  | .ecc va => va
  | .inCtx _ _ _ va => va
  | .excluded _ va => va
  | .again r => r.va

/-! ### Ranges of global memory, sector by sector (R226) -/

/-- The parts of a range that lie in one 32-byte sector each, ascending. -/
def sectorParts : (fuel va n : Nat) → List (Nat × Nat)
  | 0, _, _ => []
  | fuel + 1, va, n =>
    if n = 0 then []
    else
      let k := min n (32 - va % 32)
      (va, k) :: sectorParts fuel (va + k) (n - k)

def sectors (va n : Nat) : List (Nat × Nat) := sectorParts (n / 32 + 2) va n

/-- Where the sectors of a range reach, each translated on its own, with their lengths. -/
def State.place (s : State) (die ctx : Nat) (priv : Bool) (k : Access) (va n : Nat) : Except AFault (List (Phys × Nat)) :=
  (sectors va n).foldl (fun r x =>
    match r with
    | .error f => .error f
    | .ok ps =>
      match s.translate die ctx priv k x.1 x.2 with
      | .error f => .error (.x f k (BitVec.ofNat 64 x.1))
      | .ok p => .ok (ps ++ [(p, x.2)])) (.ok [])

/-- The bytes of a range. -/
def State.rangeRead (s : State) (die ctx : Nat) (priv : Bool) (k : Access) (va n : Nat) : Except AFault (List Byte) :=
  (s.place die ctx priv k va n).bind fun ps =>
    if ps.any fun x => s.physBad x.1 x.2 then .error (.ecc (BitVec.ofNat 64 va))
    else .ok (ps.flatMap fun x => s.physRead x.1 x.2)

/-- Bytes written one place after the other. -/
def State.writePlaces (s : State) : List (Phys × Nat) → List Byte → State
  | [], _ => s
  | p :: ps, bs => (s.physWrite p.1 (bs.take p.2)).writePlaces ps (bs.drop p.2)

/-! ### Divergence records in memory (R55) -/

/-- A path as the 320 bytes of a divergence record. -/
def recordBytes (p : Path) (wait : Bool) (pc : DWord) : List Byte :=
  leBytes 8 pc.toNat ++ leBytes 4 p.mask.toNat
  ++ leBytes 4 ((match p.split with | none => 0 | some (n, side) => n + 2 ^ 17 * side.toNat) + 2 ^ 16 * wait.toNat)
  ++ (p.fmt.flatMap fun f => leBytes 4 f.toNat) ++ leBytes 8 p.marks.toNat ++ leBytes 24 0
  ++ (List.range 64).flatMap fun k => leBytes 4 (p.s.get k).toNat

/-- The uniform registers of a record. -/
def recordS (bs : List Byte) : Sparse 32 :=
  (List.range 64).foldl (fun m k => m.set k (BitVec.ofNat 32 (leNat ((bs.drop (64 + 4 * k)).take 4)))) []

/-- A path without registers, marks or latches of its own. -/
def Path.fresh (pc : DWord) (m : Mask) : Path :=
  { pc := pc, mask := m, split := none, s := [], badS := 0, marks := 0, fmt := [0, 0, 0, 0], latch := [], fill := [],
    priv := false, seq := Seq.empty, wait := .none, since := 0, replay := none, failed := [], counted := 0, late := [],
    faulted := [], only := none, defer := 0, deadline := none, run := none }

/-- The path goes on at `pc`: nothing is left of the word it has completed. -/
def Path.onward (p : Path) (pc : DWord) : Path :=
  { p with pc := pc, seq := Seq.empty, wait := .none, replay := none, failed := [], counted := 0, late := [],
           faulted := [], only := none, defer := 0, deadline := none }

/-- The path in a record; one that waits at its JOIN stands at the JOIN word (log 20). What
a record gives that holds other bytes than the core wrote is free (R55, log 92). -/
def recordPath (h : Shadow) (holds : List Byte) : Path :=
  let bs := if holds = h.bytes then holds else Config.spoiltRecord h.bytes holds
  let pc := BitVec.ofNat 64 (leNat (bs.take 8))
  { Path.fresh (if h.wait then pc - 4 else pc) h.mask with
    split := h.split
    s := recordS bs
    badS := h.badS
    marks := BitVec.ofNat 64 (leNat ((bs.drop 32).take 8))
    fmt := (List.range 4).map fun k => BitVec.ofNat 32 (leNat ((bs.drop (16 + 4 * k)).take 4))
    priv := h.priv
    wait := if h.wait then .join else .none }

/-- The sectors of record `i`, translated; the accesses are made at P1 (R55). -/
def State.recordPlace (s : State) (c : Ctx) (k : Access) (i : Nat) : Except AFault (List Phys) :=
  (List.range 10).foldl (fun r j =>
    match r with
    | .error f => .error f
    | .ok ps =>
      let va := c.group.stackBase c.launch c.wave + BitVec.ofNat 64 (320 * i + 32 * j)
      match s.translate c.group.die c.launch.ctx true k va.toNat 32 with
      | .error f => .error (.x f k va)
      | .ok p => if k == .load && s.physBad p 32 then .error (.ecc va) else .ok (ps ++ [p])) (.ok [])

/-- The bytes of record `i`. -/
def State.readRecord (s : State) (c : Ctx) (i : Nat) : Except AFault (List Byte) :=
  (s.recordPlace c .load i).map fun ps => ps.flatMap fun p => s.physRead p 32

/-- Sectors written one after the other. -/
def State.writeSectors (s : State) : List Phys → List Byte → State
  | [], _ => s
  | p :: ps, bs => (s.physWrite p (bs.take 32)).writeSectors ps (bs.drop 32)

def State.storeRecord (s : State) (c : Ctx) (i : Nat) (bs : List Byte) : Except AFault State :=
  (s.recordPlace c .store i).map fun ps => s.writeSectors ps bs

/-! ### Splits (R51, R53) -/

/-- The open split with a number. Of two that bear the same number, after `split_counter` has come round, it is the inner
one (log 68). -/
def Wave.split? (w : Wave) (n : Nat) : Option Split := w.splits.find? fun x => x.num == n

/-- A split is closed: what its sides have issued is now the outer path's (R228). -/
def Wave.dropSplit (w : Wave) (n : Nat) : Wave :=
  let up (x : Option (Nat × Bool)) : Option (Nat × Bool) :=
    if x.any fun y => y.1 == n then (w.split? n).bind Split.outer else x
  { w with
    splits := w.splits.filter fun x => x.num != n
    mq := w.mq.map fun o => { o with split := up o.split }
    cq := w.cq.map fun o => { o with split := up o.split }
    hq := w.hq.map fun o => { o with split := up o.split }
    gq := w.gq.map fun o => { o with split := up o.split } }

/-- The sides of splits that a path descends from, its own first: what was issued on one of them precedes the path in
program order (R228). `fuel` bounds the nesting. -/
def Wave.line (w : Wave) : (fuel : Nat) → Option (Nat × Bool) → List (Option (Nat × Bool))
  | 0, x => [x, none]
  | _ + 1, none => [none]
  | fuel + 1, some (n, side) => some (n, side) :: w.line fuel ((w.split? n).bind Split.outer)

/-- A side that leaves its split: it belongs to the outer one, whose marks take up its own (R51). -/
def Split.leave (e : Split) (marks : DWord) (p : Path) : Path :=
  { p with split := e.outer, marks := if e.outer.isNone then 0 else e.marks ||| marks }

/-- `sk` of a merged path (R51): `n` is the not-taken side. -/
def mergedS (n t : Path) : Sparse 32 :=
  (List.range 64).foldl (fun m k => if t.marks.getLsbD k && !n.marks.getLsbD k then m.set k (t.s.get k) else m) n.s

/-- The uniform registers of a merged path that hold an uncorrectable error: those of the side each value comes from. -/
def mergedBad (n t : Path) : DWord :=
  let fromTaken := t.marks &&& ~~~n.marks
  (t.badS &&& fromTaken) ||| (n.badS &&& ~~~fromTaken)

/-- Both sides wrote a register, with different values (R51). -/
def conflict (n t : Path) : Bool :=
  (List.range 64).any fun k => n.marks.getLsbD k && t.marks.getLsbD k && n.s.get k != t.s.get k

/-- The path that two sides merge into, at `pc` (R51, R54). -/
def merged (e : Split) (n t : Path) (pc : DWord) : Path :=
  e.leave (n.marks ||| t.marks)
    { n.clearLatches.onward pc with mask := n.mask ||| t.mask, s := mergedS n t, badS := mergedBad n t, fmt := e.fmt }

/-- The taken path of a split (R50, R53). -/
def Path.taken (p : Path) (no : Nat) (t : Mask) (target : DWord) : Path :=
  { Path.fresh target t with split := some (no, true), s := p.s, badS := p.badS, fmt := p.fmt, priv := p.priv }

/-- The path that stays behind (R50, R53). -/
def Path.stay (p : Path) (no : Nat) (t : Mask) (next : DWord) : Path :=
  { p.clearLatches.onward next with mask := p.mask &&& ~~~t, split := some (no, false), marks := 0, run := none }

/-- What the core keeps of a path that it puts on the stack. -/
def Path.shadow (p : Path) (wait : Bool) (bytes : List Byte) : Shadow := ⟨p.mask, p.split, wait, p.priv, p.badS, bytes⟩

/-- A split of the issuing path (R53); the caller has checked the declared depth. -/
def State.doSplit (s : State) (c : Ctx) (t : Mask) (target next : DWord) : Except AFault State :=
  let no := c.wave.splitNo
  let e : Split := ⟨no, c.path.split, c.path.fmt, c.path.marks, false⟩
  let q := c.path.taken no t target
  let opened (w : Wave) : Wave :=
    ({ w with splitNo := (no + 1) % 2 ^ 16, splits := e :: w.splits }).setPath c.ref.slot (some (c.path.stay no t next))
  if (c.wave.path? !c.ref.slot).isNone then
    .ok (s.modWave c.ref.group c.ref.wix fun w => (opened w).setPath (!c.ref.slot) (some q))
  else
    let bs := recordBytes q false target
    (s.storeRecord c c.wave.depth bs).map fun s' =>
      s'.modWave c.ref.group c.ref.wix fun w =>
        { opened w with depth := w.depth + 1, stack := q.shadow false bs :: w.stack }

/-! ### Instructions completed (R77, R232, R304) -/

/-- One more instruction performed by some threads. -/
def countThreads (m : Sparse 64) : List Nat → Sparse 64
  | [] => m
  | t :: ts => countThreads (m.set t (m.get t + 1)) ts

/-- A wave-instruction completed at P0 by the threads `ts`; `before` performed it before a fault. -/
def Wave.retire (w : Wave) (ts : List Nat) (before : Nat) : Wave :=
  { w with retired := w.retired + 1, qinstr := w.qinstr + 1, ati := w.ati + max 1 (ts.length + before),
           done := countThreads w.done ts }

/-- A JOIN that waited is completed by its path. -/
def Wave.retireJoin (w : Wave) (p : Path) : Wave := if p.priv then w else w.retire (ixs p.mask) 0

/-! ### Loading a record into a free slot -/

/-- A path that came off the stack waiting at JOIN goes on when its split has ended without it (R126). -/
def Wave.settleJoin (w : Wave) (p : Path) : Wave × Path :=
  match p.wait, p.split with
  | .join, some (n, _) =>
    match w.split? n with
    | some e => if e.ended then ((w.dropSplit n).retireJoin p, e.leave p.marks { p with pc := p.pc + 4, wait := .none }) else (w, p)
    | none => (w, p)
  | _, _ => (w, p)

/-- The top record loaded into a free slot (R126); without records nothing happens. -/
def State.loadTop (s : State) (c : Ctx) (slot : Bool) : Except AFault State :=
  match s.wave? c.ref.group c.ref.wix with
  | none => .ok s
  | some w =>
    match w.stack with
    | [] => .ok s
    | h :: rest =>
      (s.readRecord c (w.depth - 1)).map fun bs =>
        s.modWave c.ref.group c.ref.wix fun w =>
          let (w1, p) := w.settleJoin (recordPath h bs)
          { w1.setPath slot (some p) with depth := w.depth - 1, stack := rest }

/-- A path that waits at its JOIN has its JOIN to perform again: its partner waits at the same word in the other slot, or has
come to stand in the top record (R54). -/
def State.joinDue (s : State) (c : Ctx) : Bool :=
  c.path.wait == .join &&
  match c.path.split with
  | none => false
  | some (n, side) =>
    match c.wave.path? !c.ref.slot with
    | some q =>
      if q.split = some (n, !side) then q.wait == .join && q.pc == c.path.pc else State.joinDue.topDue s c n side
    | none => State.joinDue.topDue s c n side
where
  /-- the partner stands in the top record, and does not wait at another word -/
  topDue (s : State) (c : Ctx) (n : Nat) (side : Bool) : Bool :=
    match c.wave.stack with
    | [] => false
    | h :: _ =>
      h.split == some (n, !side) &&
      (!h.wait ||
        match s.readRecord c (c.wave.depth - 1) with
        | .ok bs => (recordPath h bs).pc == c.path.pc
        | .error _ => true)

/-! ### The end of a path (R126) -/

/-- The split of a path that ends closes: a partner that waits at JOIN goes on; one that has not come there finds no
partner later; a split whose other side is gone closes the outer one. `fuel` bounds the nesting, which the number of open
splits does. -/
def Wave.closeSplit (w : Wave) (slot : Bool) : (fuel : Nat) → Option (Nat × Bool) → Wave
  | 0, _ => w
  | _ + 1, none => w
  | fuel + 1, some (n, side) =>
    match w.split? n with
    | none => w
    | some e =>
      if e.ended then (w.dropSplit n).closeSplit slot fuel e.outer
      else
        match w.path? !slot with
        | some q =>
          if q.split = some (n, !side) && q.wait == .join then
            ((w.dropSplit n).retireJoin q).setPath (!slot)
              (some (e.leave q.marks { q.clearLatches with pc := q.pc + 4, wait := .none, seq := Seq.empty }))
          else { w with splits := w.splits.map fun x => if x.num = n then { x with ended := true } else x }
        | none => { w with splits := w.splits.map fun x => if x.num = n then { x with ended := true } else x }

/-- A queued `aexp` of a path that has ended has no register to write. -/
def MatOp.orphan (slot : Bool) (o : MatOp) : MatOp := if o.slot = slot then { o with dst := .z } else o

/-- The issuing path ends: its threads are gone, its slot is free, the top record is loaded there. -/
def State.endPath (s : State) (c : Ctx) : Except AFault State :=
  (s.modWave c.ref.group c.ref.wix fun w =>
    let w1 := w.closeSplit c.ref.slot (w.splits.length + 1) c.path.split
    { w1.setPath c.ref.slot none with mq := w1.mq.map (MatOp.orphan c.ref.slot) }).loadTop c c.ref.slot

end Sys2Proof.Machine
end

