-- ==== Sys2Proof/Machine/Barrier.lean ====
section
/-! DEFINITION. Group and band barriers, and what becomes of them and of the group when waves end
(R149, R152 to R157, R202, R203). -/

namespace Sys2Proof.Machine

/-- The number under which `bbar` waits. -/
def bandBar : Nat := 9

def Group.phase (g : Group) (b : Nat) : Nat := g.bars.getD b 0

/-- The path waits at barrier `b` in this phase. -/
def Path.waitsAt (p : Path) (b phase : Nat) : Bool := p.wait == .bar b phase

/-- The wave has arrived at barrier `b`: every occupied slot waits there, and the divergence stack is empty (R153). -/
def Wave.arrived (w : Wave) (b phase : Nat) : Bool :=
  decide (w.depth = 0) && (w.path0.isSome || w.path1.isSome)
  && (w.path0.map fun p => p.waitsAt b phase).getD true && (w.path1.map fun p => p.waitsAt b phase).getD true

/-- The waves that barrier `b` counts: those that have not ended, of every role or of role b − 1 (R152, R154). -/
def Group.counted (g : Group) (b : Nat) : List Wave :=
  g.waves.filter fun w => !w.ended && (b == 0 || b == bandBar || w.role + 1 == b)

/-- Every wave that the barrier counts has arrived. -/
def Group.full (g : Group) (b : Nat) : Bool :=
  !g.halted && !(g.counted b).isEmpty && (g.counted b).all fun w => w.arrived b (g.phase b)

/-- A path's wait is over: it goes on at the next word, and the word counts as retired (R232). -/
def Wave.finishWait (w : Wave) (slot : Bool) : Wave :=
  match w.path? slot with
  | none => w
  | some p =>
    (if p.priv then w else w.retire (ixs p.active) p.counted).setPath slot (some (p.onward (p.pc + 4)))

/-- The paths of a wave that wait at barrier `b` in an earlier phase resume; in a reproducible launch not before the
commit that follows (R153, R233). -/
def Wave.release (w : Wave) (b phase : Nat) : Wave :=
  let go (w : Wave) (slot : Bool) : Wave :=
    match w.path? slot with
    | some p => (match p.wait with | .bar b' ph => if b' = b ∧ ph < phase then w.finishWait slot else w | _ => w)
    | none => w
  if w.qended then w else go (go w false) true

/-- A completed phase (R153). -/
def Group.completePhase (g : Group) (b : Nat) : Group :=
  { g with
    bars := modAt (· + 1) b g.bars
    waves := g.waves.map fun w => w.release b (g.phase b + 1) }

/-- Barriers 0 to 8 of a group, completed where they are full. -/
def Group.settleBars (g : Group) : Group :=
  (List.range 9).foldl (fun g b => if g.full b then g.completePhase b else g) g

/-- The groups of a group's band that have not exited; the group itself without a band (R202, R203). -/
def State.bandGroups (s : State) (g : Group) : List Group :=
  match g.band with
  | none => if g.ended then [] else [g]
  | some b => s.groups.filter fun x => x.band == some b && !x.ended

/-- The band barrier, completed when every group that has not exited has arrived (R203). -/
def State.settleBand (s : State) (g : Group) : State :=
  let gs := s.bandGroups g
  if !gs.isEmpty && gs.all fun x => x.full bandBar then
    { s with groups := s.groups.map fun x => if gs.any fun y => y.id == x.id then x.completePhase bandBar else x }
  else s

/-- A wave that has ended gives its blocks to the pool, and its streams close (R149, R261). -/
def Wave.leave (w : Wave) : Wave :=
  if w.ended && !w.gone then { w with gone := true, streams := List.replicate 4 Stream.closed, hint := none } else w

/-- Blocks of the waves that have just ended. -/
def Group.freed (g : Group) : Nat := (g.waves.filter fun w => w.ended && !w.gone).foldl (fun n w => n + w.seg / 32) 0

/-- Waves that have ended leave; the group has ended, with the time of its last exit, when all of them have (R126, R304,
R313). -/
def Group.leave (now : Nat) (g : Group) : Group :=
  { g with
    pool := g.pool + g.freed, waves := g.waves.map Wave.leave
    exit := if g.waves.all Wave.ended then some (g.exit.getD now) else none }

/-- The class of a group is shed on its cluster (R209). -/
def State.isShed (s : State) (g : Group) : Bool := g.prio != 0 && (s.cluster g.cluster).shed.getLsbD (g.prio - 1)

/-- The path waits at barrier `b`, in its phase or, when that is complete, for a commit (R233). -/
def Path.standsAt (p : Path) (b : Nat) : Bool :=
  match p.wait with
  | .bar x _ => x == b
  | _ => false

/-- The wave stands at barrier `b`: it has arrived, or its phase is complete and it waits for a commit. -/
def Wave.stands (w : Wave) (b : Nat) : Bool :=
  decide (w.depth = 0) && (w.path0.isSome || w.path1.isSome)
  && (w.path0.map fun p => p.standsAt b).getD true && (w.path1.map fun p => p.standsAt b).getD true

/-- A wave that stands at a barrier, of the group's or the band's, parks since a time (R157, R360), unless it runs its handler
after CANCEL (R317). -/
def Wave.parkArrived (now : Nat) (w : Wave) : Wave :=
  if !w.unshed && (List.range 10).any w.stands then { w with parked := some (w.parked.getD now) }
  else w

/-- The waves of a shed class that have arrived park, however they came to have arrived (R157). -/
def State.park (s : State) (g : Group) : Group :=
  if s.isShed g then { g with waves := g.waves.map (Wave.parkArrived s.ns.toNat) } else g

/-- After a path or a wave has ended, or has begun to wait at a barrier: ended waves leave, arrived waves of a shed class
park, and every phase that is now full completes (R154, R157, R203). -/
def State.tidy (s : State) (gid : Nat) : State :=
  let s1 := s.modGroup gid fun g => (s.park (g.leave s.ns.toNat)).settleBars
  match s1.group? gid with
  | none => s1
  | some g => s1.settleBand g

end Sys2Proof.Machine
end

