-- ==== Sys2Proof/Machine/Counter.lean ====
section
/-! DEFINITION. The Marver's changes of completion counters and tile state words, and what stops a launch
(R313 to R317, R364, R415). -/

namespace Sys2Proof.Machine

/-! ### A completion counter (R314) -/

/-- The 32 bytes of a counter as a vector. -/
def counterOf (bs : List Byte) : BitVec 256 := BitVec.ofNat 256 (leNat bs)

def cntRemain (c : BitVec 256) : Nat := (c.extractLsb' 0 64).toNat
def cntState (c : BitVec 256) : Nat := (c.extractLsb' 64 2).toNat
def cntCanreq (c : BitVec 256) : Bool := c.getLsbD 66
def cntParent (c : BitVec 256) : DWord := c.extractLsb' 128 64

/-- A field of `n` bits at `lo` of a vector replaced. -/
def setBits (v : BitVec w) (lo n : Nat) (x : Nat) : BitVec w :=
  let m := BitVec.ofNat w ((2 ^ n - 1) * 2 ^ lo)
  (v &&& ~~~m) ||| (BitVec.ofNat w (x % 2 ^ n * 2 ^ lo))

/-- The counter after a change of `REMAIN`; at 0 its `STATE` is set in the same step (R315). -/
def cntDec (c : BitVec 256) (n : Int) : BitVec 256 :=
  let r : Nat := (BitVec.ofInt 64 (cntRemain c - n)).toNat
  let d := setBits c 0 64 r
  if r = 0 then setBits d 64 2 (if cntCanreq c then 2 else 1) else d

/-- What a change makes of the 32 bytes (a tile: 8 bytes) at its place, and the change that follows it. -/
def Change.va : Change → DWord
  | .full va => va
  | .dec va _ => va
  | .mark va _ _ => va
  | .kill va => va
  | .write _ va _ => va

def Change.size : Change → Nat
  | .full _ => 8
  | .write _ _ bs => bs.length
  | .dec _ _ => 32
  | .mark _ _ _ => 32
  | .kill _ => 32

def Change.apply (x : Change) (bs : List Byte) : List Byte :=
  match x with
  | .full _ => leBytes 8 (leNat bs ||| 1)
  | .dec _ n => leBytes 32 (cntDec (counterOf bs) n).toNat
  | .mark _ e can =>
    let c := match e with | none => counterOf bs | some k => setBits (counterOf bs) 72 8 k
    leBytes 32 (if can then setBits c 66 1 1 else c).toNat
  | .kill _ => leBytes 32 (setBits (counterOf bs) 96 32 (leNat (bs.drop 12 |>.take 4) + 1)).toNat
  | .write _ _ xs => xs

/-- Writes of the cut log are stores, the other changes are atomics (R415). -/
def Change.access : Change → Access
  | .write _ _ _ => .store
  | .full _ => .atomic
  | .dec _ _ => .atomic
  | .mark _ _ _ => .atomic
  | .kill _ => .atomic

/-- A counter that reaches 0 lowers its parent after this step (R315). -/
def Change.next (x : Change) (bs : List Byte) : Option Change :=
  match x with
  | .dec _ n =>
    let c := counterOf bs
    if (BitVec.ofInt 64 (cntRemain c - n)) = 0 && cntParent c != 0 then some (.dec (cntParent c) 1) else none
  | _ => none

/-! ### Making changes (R415) -/

/-- Where a counter lies (R316, R317). -/
def State.counterAt (s : State) (die ctx : Nat) (va : DWord) : Option Phys :=
  match s.walk die ctx va.toNat with
  | .ok l => some ⟨spaceOf (pteMt l.word), l.pa⟩
  | .error _ => none

/-- The context in which a change is made: its launch's. -/
def State.changeCtx (s : State) (p : Pending) : Option Nat := (s.launch? p.launch).map fun l => l.ctx

/-- The changes name one place: the same address of one context, or of two contexts that map it alike (R316). -/
def State.samePlace (s : State) (p q : Pending) : Bool :=
  match s.changeCtx p, s.changeCtx q with
  | some a, some b =>
    (a == b && p.change.va == q.change.va)
    || (match s.counterAt p.die a p.change.va with | some x => s.counterAt q.die b q.change.va == some x | none => false)
  | _, _ => false

/-- The writes are of one cut log. -/
def Change.sameLog : Change → Change → Bool
  | .write a _ _, .write b _ _ => a == b
  | _, _ => false

def Change.isFull : Change → Bool
  | .full _ => true
  | .dec _ _ => false
  | .mark _ _ _ => false
  | .kill _ => false
  | .write _ _ _ => false

def Change.isWrite : Change → Bool
  | .write _ _ _ => true
  | .full _ => false
  | .dec _ _ => false
  | .mark _ _ _ => false
  | .kill _ => false

/-- A change waits behind an earlier one: of the same counter, of the same cut log, or where the earlier one marks a tile
of the same group and this one comes after it in the steps of R313 (R415). -/
def State.behind (s : State) (p q : Pending) : Bool :=
  if p.change.isWrite then p.launch == q.launch && p.change.sameLog q.change
  else (!q.change.isWrite && s.samePlace p q) || (q.change.isFull && p.group.isSome && p.group == q.group)

/-- One pending change tried: it is performed in its launch's context with the Marver's own privilege (log 18), or it
waits on a fault record. A change that it brings about comes last. Host and peer memory exclude the mark of a tile, as they
do `tmark.full` (R393, log 86). -/
def State.tryChange (s : State) (i : Nat) (p : Pending) : State :=
  match s.changeCtx p with
  | none => { s with changes := s.changes.eraseIdx i }
  | some ctx =>
    let k := p.change.access
    match s.place p.die ctx true k p.change.va.toNat p.change.size with
    | .error (.x f _ va) =>
      let (t, r) := s.postFault p.die ⟨va, ctx, k, f, p.core, p.wslot, 0, false⟩
      { t with changes := modAt (fun y => { y with ref := some r }) i t.changes }
    | .error _ => s
    | .ok ps =>
      if p.change.isFull && ps.any fun x => x.1.space != .dev then
        let f := s.permFault p.die ctx p.change.va.toNat
        let (t, r) := s.postFault p.die ⟨p.change.va, ctx, k, f, p.core, p.wslot, 0, true⟩
        { t with changes := modAt (fun y => { y with ref := some r }) i t.changes }
      else
        let bs := ps.flatMap fun x => s.physRead x.1 x.2
        let t := s.writePlaces ps (p.change.apply bs)
        { t with changes := t.changes.eraseIdx i ++ (match p.change.next bs with
            | none => []
            | some y => [{ p with change := y, ref := none }]) }

/-- Units that were not dispatched leave the counter; no new group is placed (R317). -/
def State.stopLaunch (s : State) (lid die core wslot : Nat) : State :=
  match s.launch? lid with
  | none => s
  | some l =>
    if l.stopped then s
    else
      { s.modLaunch lid fun x => { x with stopped := true, rl := [], left := 0 } with
        changes := s.changes ++ (if l.left = 0 then [] else [⟨.dec l.counterVa l.left, lid, none, die, core, wslot, none⟩]) }

/-- A change given up after `STATUS` 2: it is logged and the launch stops dispatching (R415). A write of the cut log that
is given up stops the recording and sets `ERRCODE` 7 instead, and the launch runs on (R306). -/
def State.abandonChange (s : State) (i : Nat) (p : Pending) : State :=
  if p.change.isWrite then
    match s.launch? p.launch with
    | none => { s with changes := s.changes.eraseIdx i }
    | some l =>
      { s.modLaunch p.launch fun x => { x with logOff := true } with
        changes := (s.changes.filter fun q => !(q.launch == p.launch && q.change.isWrite))
          ++ [{ p with change := .mark l.counterVa (some 7) false, ref := none }] }
  else
    let t := s.logError p.die 13 true false p.core (Config.logDetail [p.wslot]) p.change.va
    { t with changes := t.changes.eraseIdx i }.stopLaunch p.launch p.die p.core p.wslot

/-- The first change that can be tried, with its place and whether its record ended with `STATUS` 2: it waits on nothing
and behind no earlier one. -/
def State.ready (s : State) : (before : List Pending) → List Pending → Option (Nat × Pending × Bool)
  | _, [] => none
  | before, p :: ps =>
    let st := match p.ref with | none => 1 | some r => s.statusOf r
    if st = 0 ∨ before.any (s.behind p) then s.ready (before ++ [p]) ps
    else some (before.length, p, st == 2)

/-- Changes made in order while one can be tried; what `fuel` leaves stays pending. -/
def State.settle (s : State) : (fuel : Nat) → State
  | 0 => s
  | n + 1 =>
    match s.ready [] s.changes with
    | none => s
    | some (i, p, failed) => (if failed then s.abandonChange i p else s.tryChange i p).settle n

/-- The changes that can be made now are made, each at most once, with the counters above; none while a checkpoint is taken
(R351). -/
def State.settleAll (s : State) : State := if s.still then s else s.settle (64 * s.changes.length)

/-- A change added behind the others, and all made as far as they can be. -/
def State.change (s : State) (p : Pending) : State := { s with changes := s.changes ++ [p] }.settleAll

/-- A change of a launch's counter that no group's end makes. -/
def State.launchChange (s : State) (lid : Nat) (x : Change) (die core wslot : Nat) : State :=
  s.change ⟨x, lid, none, die, core, wslot, none⟩

/-! ### Stopping a launch -/

/-- The launch acts as `cancel.drain` on its counter does (R317). -/
def State.drainLaunch (s : State) (lid die core wslot : Nat) : State := (s.stopLaunch lid die core wslot).settleAll

/-- The last wave's slot of a group names it in fault records (R415). -/
def Group.lastSlot (g : Group) : Nat := ((g.waves.getLast?).map fun w => w.wslot).getD 0

/-- A wave made to end: no path, no divergence record, every thread exited. -/
def Wave.finish (w : Wave) : Wave :=
  { w with path0 := none, path1 := none, depth := 0, stack := [], splits := [], exited := maskBelow w.threads }

/-- The group ends at once: every wave ends (R317, R364). -/
def Group.finish (g : Group) : Group :=
  { g with waves := g.waves.map Wave.finish, claims := [] }

/-- A fatal trap from its second step on: `ERRCODE` 9 and `CANREQ`, the launch drained, the group ended (R364). -/
def State.fatalEnd (s : State) (gid : Nat) : State :=
  match s.group? gid with
  | none => s
  | some g =>
    match s.launch? g.launch with
    | none => s
    | some l =>
      (((s.launchChange l.id (.mark l.counterVa (some 9) true) g.die g.core g.lastSlot).drainLaunch l.id g.die g.core g.lastSlot).modGroup
        gid fun x => { x.finish with fatal := true, halted := false }).tidy gid

/-- The dump area lies in device memory (R375). -/
def State.dumpFits (s : State) : Bool :=
  decide (64 * (s.io.dumpctl.extractLsb' 6 46).toNat + 2 ^ 20 * (s.io.dumpctl.extractLsb' 52 12).toNat ≤ devBytes)

/-- A dump request of a group queued at its die, merged with one that stands there (R372). -/
def State.requestDump (s : State) (die gid cause : Nat) : State :=
  if (s.die die).dumps.any fun d => d.group == gid then s
  else s.modDie die fun d => { d with dumps := d.dumps ++ [⟨gid, cause, none, false, 0, []⟩] }

/-- A die takes one dump and queues 16 more; a request that merges needs no room (R372). -/
def State.dumpRoom (s : State) (die gid : Nat) : Bool :=
  decide ((s.die die).dumps.length < 17) || (s.die die).dumps.any fun d => d.group == gid

/-- A fatal trap (R364): the dump first, where `DUMPEN` asks for one and it can be queued; its last step ends the
group (R374). Without a dump, an entry of the error log says so (R375). -/
def State.fatal (s : State) (gid cause : Nat) : State :=
  match s.group? gid with
  | none => s
  | some g =>
    if s.io.dumpctl.getLsbD 0 && s.dumpFits && s.dumpRoom g.die gid then
      (s.requestDump g.die gid cause).modGroup gid fun x => { x with halted := true, fatal := true }
    else (s.logError g.die 12 false false g.core (Config.logDetail [g.lastSlot]) 0).fatalEnd gid

end Sys2Proof.Machine
end

