-- ==== Sys2Proof/Machine/Num.lean ====
section
/-! DEFINITION. Number formats, rounding and the correctly rounded functions (R63 to R80). A value is computed exactly,
as an integer times a power of two, and narrowed once. -/

namespace Sys2Proof.Machine

/-- An exact value: NaN, an infinity, or (-1)^neg × m × 2^e. A zero keeps its sign. -/
inductive Val where
  | nan
  | inf (neg : Bool)
  | fin (neg : Bool) (m : Nat) (e : Int)
deriving DecidableEq, Repr

/-- A rounding mode, with the 24-bit value of the generator for `sr` (R72, R75). -/
inductive Rm where
  | rne | rz | ru | rd
  | sr (r : Nat)
deriving DecidableEq, Repr

/-- A binary format of `1 + E + m` or `E + m` bits (R63, R66, R68). -/
structure FloatFmt where
  sign : Bool
  e    : Nat
  m    : Nat
  bias : Int
  spec : Nat
  /-- the canonical NaN (R64, R68) -/
  qnan : Nat
deriving DecidableEq, Repr

def fp32 : FloatFmt := ⟨true, 8, 23, 127, 2, 0x7FC00000⟩
def fp16 : FloatFmt := ⟨true, 5, 10, 15, 2, 0x7E00⟩
def bf16 : FloatFmt := ⟨true, 8, 7, 127, 2, 0x7FC0⟩

/-- The format a format register describes (R66): a narrow format or a preset. -/
def fmtOf (f : Word) : FloatFmt :=
  match fmtW f with
  | 9 => fp16
  | 10 => bf16
  | 11 => fp32
  | _ => ⟨fmtS f, fmtE f, fmtM f, fmtBias f, fmtSpec f, 2 ^ (fmtE f + fmtM f) - 1⟩

/-- The width of an element in bits (R69, R107). -/
def fmtBits (f : Word) : Nat :=
  match fmtW f with
  | 9 => 16
  | 10 => 16
  | 11 => 32
  | w => w

/-! ### Exact arithmetic -/

/-- m × 2^e as an integer count of 2^q, rounded down; exact when q ≤ e. -/
def scaleDown (m : Nat) (e q : Int) : Nat :=
  if q ≤ e then m * 2 ^ (e - q).toNat else m / 2 ^ (q - e).toNat

/-- What `scaleDown` leaves, as a count of 2^e, and the number of 2^e in one 2^q. -/
def scaleRem (m : Nat) (e q : Int) : Nat × Nat :=
  if q ≤ e then (0, 1) else (m % 2 ^ (q - e).toNat, 2 ^ (q - e).toNat)

/-- The signed mantissa of a finite value. -/
def signed (neg : Bool) (m : Nat) : Int := if neg then -(m : Int) else m

/-- A finite value from a signed mantissa, +0 for 0. -/
def ofSigned (v : Int) (e : Int) : Val := .fin (decide (v < 0)) v.natAbs e

def ofInt (v : Int) : Val := ofSigned v 0

def Val.neg : Val → Val
  | .nan => .nan
  | .inf s => .inf (!s)
  | .fin s m e => .fin (!s) m e

def Val.isNan : Val → Bool
  | .nan => true
  | _ => false

/-- Exact multiplication by 2^k. -/
def Val.scale (k : Int) : Val → Val
  | .nan => .nan
  | .inf s => .inf s
  | .fin s m e => .fin s m (e + k)

/-- The exact sum (R78); `rd` says the rounding is RDN, where an exact zero of opposite signs is -0 (R72). -/
def Val.add (rd : Bool) (x y : Val) : Val :=
  match x, y with
  | .nan, _ => .nan
  | .inf _, .nan => .nan
  | .inf s, .inf t => if s = t then .inf s else .nan
  | .inf s, .fin _ _ _ => .inf s
  | .fin _ _ _, .nan => .nan
  | .fin _ _ _, .inf t => .inf t
  | .fin s m e, .fin t n f =>
    let q := min e f
    let v := signed s (m * 2 ^ (e - q).toNat) + signed t (n * 2 ^ (f - q).toNat)
    if v = 0 then .fin (if s = t then s else rd) 0 q else ofSigned v q

/-- The exact product (R78). -/
def Val.mul (x y : Val) : Val :=
  match x, y with
  | .nan, _ => .nan
  | .inf _, .nan => .nan
  | .inf s, .inf t => .inf (s != t)
  | .inf s, .fin t n _ => if n = 0 then .nan else .inf (s != t)
  | .fin _ _ _, .nan => .nan
  | .fin s m _, .inf t => if m = 0 then .nan else .inf (s != t)
  | .fin s m e, .fin t n f => .fin (s != t) (m * n) (e + f)

/-- x < y, for values that are not NaN; -0 equals +0 (R97). -/
def Val.lt (x y : Val) : Bool :=
  match x, y with
  | .nan, _ => false
  | .inf _, .nan => false
  | .fin _ _ _, .nan => false
  | .inf s, .inf t => s && !t
  | .inf s, .fin _ _ _ => s
  | .fin _ _ _, .inf t => !t
  | .fin s m e, .fin t n f =>
    let q := min e f
    decide (signed s (m * 2 ^ (e - q).toNat) < signed t (n * 2 ^ (f - q).toNat))

/-- x = y, for values that are not NaN (R97). -/
def Val.eqv (x y : Val) : Bool := !x.isNan && !y.isNan && !x.lt y && !y.lt x

/-! ### Decoding a code (R63, R68) -/

/-- The value of a narrow or fixed format's code. -/
def decodeFloat (F : FloatFmt) (c : Nat) : Val :=
  if F.e = 0 then
    let w := F.m + (if F.sign then 1 else 0)
    let u := c % 2 ^ w
    if F.sign && decide (2 ^ F.m ≤ u) then .fin true (2 ^ w - u) (-F.bias) else .fin false u (-F.bias)
  else
    let f := c % 2 ^ F.m
    let x := c / 2 ^ F.m % 2 ^ F.e
    let s := F.sign && decide (c / 2 ^ (F.m + F.e) % 2 = 1)
    let ones := decide (x = 2 ^ F.e - 1)
    if F.spec = 1 && ones && decide (f = 2 ^ F.m - 1) then .nan
    else if F.spec = 2 && ones then if f = 0 then .inf s else .nan
    else if x = 0 then .fin s f (1 - F.bias - F.m)
    else .fin s (2 ^ F.m + f) (x - F.bias - F.m)

/-- The value of an element under an E8 scale byte (R70); a NaN scale makes it NaN. -/
def scaled (c : Nat) (v : Val) : Val := if c = 0xFF then .nan else v.scale ((c : Int) - 127)

/-! ### Rounding to a format (R72 to R75)

The magnitudes of a format are numbered in ascending order: index `i` is the code without its sign (`E` ≥ 1), or the
magnitude of the integer code (`E` = 0). Beyond the limit the numbering goes on at the spacing of R72, so the lowest bit
of a code, continued beyond the limit, is the lowest bit of its index. -/

/-- The index of the limit on the side of `neg` (R73). -/
def limitIndex (F : FloatFmt) (neg : Bool) : Nat :=
  if F.e = 0 then
    if F.sign then (if neg then 2 ^ F.m else 2 ^ F.m - 1) else (if neg then 0 else 2 ^ F.m - 1)
  else
    let top := 2 ^ (F.e + F.m) - 1
    match F.spec with
    | 0 => top
    | 1 => top - 1
    | _ => (2 ^ F.e - 1) * 2 ^ F.m - 1

/-- The magnitude of index `i` as a mantissa and an exponent. -/
def indexVal (F : FloatFmt) (i : Nat) : Nat × Int :=
  if F.e = 0 then (i, -F.bias)
  else
    let x := i / 2 ^ F.m
    let f := i % 2 ^ F.m
    if x = 0 then (f, 1 - F.bias - F.m) else (2 ^ F.m + f, x - F.bias - F.m)

/-- The exponent of the spacing beyond the limit: the distance of the two finite values next to it (R72). -/
def beyondExp (F : FloatFmt) (neg : Bool) : Int :=
  if F.e = 0 then -F.bias
  else
    let l := limitIndex F neg
    if l = 0 then Config.loneSpacing else
    let p := indexVal F (l - 1)
    p.2

/-- Where m × 2^e (m > 0) lies among the indices: the index at or below it, and the rest as a fraction num / den of
the step to the next one. -/
def locate (F : FloatFmt) (neg : Bool) (m : Nat) (e : Int) : Nat × Nat × Nat :=
  let l := limitIndex F neg
  let lv := indexVal F l
  let c := min e lv.2
  let x := m * 2 ^ (e - c).toNat
  let lim := lv.1 * 2 ^ (lv.2 - c).toNat
  if lim ≤ x then
    let q := beyondExp F neg
    let c' := min c q
    let d := (x - lim) * 2 ^ (c - c').toNat
    let r := scaleRem d c' q
    (l + scaleDown d c' q, r.1, r.2)
  else
    let emin := 1 - F.bias
    let g : Int := (Nat.log2 m : Int) + e
    let q := if F.e = 0 then -F.bias else max g emin - F.m
    let r := scaleRem m e q
    let i := scaleDown m e q
    (if F.e = 0 ∨ g < emin then i else (g - emin).toNat * 2 ^ F.m + i, r.1, r.2)

/-- Whether the choice is the next index above the located one (R72, R75). -/
def roundUp (md : Rm) (neg : Bool) (i num den : Nat) : Bool :=
  if num = 0 then false
  else match md with
    | .rne => decide (den < 2 * num) || (decide (2 * num = den) && decide (i % 2 = 1))
    | .rz => false
    | .ru => !neg
    | .rd => neg
    | .sr r =>
      if neg then !decide (r < (den - num) * 2 ^ 24 / den) else decide (r < num * 2 ^ 24 / den)

/-- The code of index `i` on the side of `neg`. -/
def indexCode (F : FloatFmt) (neg : Bool) (i : Nat) : Nat :=
  if F.e = 0 then if neg then (2 ^ (F.m + 1) - i) % 2 ^ (F.m + 1) else i
  else (if neg && F.sign then 2 ^ (F.e + F.m) else 0) + i

/-- An overflow at the limit on the side of `neg` (R73). -/
def overflowCode (F : FloatFmt) (sat outward neg : Bool) : Nat :=
  let lim := indexCode F neg (limitIndex F neg)
  if sat || !outward then lim
  else match F.spec with
    | 0 => lim
    | 1 => F.qnan
    | _ => indexCode F neg ((2 ^ F.e - 1) * 2 ^ F.m)

/-- Whether an overflow is outward (R73). -/
def outward (md : Rm) (neg : Bool) : Bool :=
  match md with
  | .rne => true
  | .sr _ => true
  | .rz => false
  | .ru => !neg
  | .rd => neg

/-- The code of an exact value in a format (R72 to R74). Minus infinity in an unsigned format is 0, as every value below 0 is
(log 77). -/
def roundTo (F : FloatFmt) (sat : Bool) (md : Rm) (v : Val) : Nat :=
  match v with
  | .nan => if F.spec = 0 then 0 else F.qnan
  | .inf neg =>
    if neg && !F.sign then 0
    else overflowCode F sat true neg
  | .fin neg m e =>
    if neg && !F.sign then 0
    else if m = 0 then (if neg && decide (F.e ≠ 0) then 2 ^ (F.e + F.m) else 0)
    else
      let p := locate F neg m e
      let i := if roundUp md neg p.1 p.2.1 p.2.2 then p.1 + 1 else p.1
      if limitIndex F neg < i then overflowCode F sat (outward md neg) neg
      else indexCode F neg i

/-- An exact finite value rounded to an integer of unbounded range (R72). -/
def roundInt (md : Rm) (neg : Bool) (m : Nat) (e : Int) : Int :=
  let r := scaleRem m e 0
  let i := scaleDown m e 0
  signed neg (if roundUp md neg i r.1 r.2 then i + 1 else i)

/-- The conversion to an integer format with the range lo to hi (R65). -/
def toIntSat (md : Rm) (lo hi : Int) (v : Val) : Int :=
  match v with
  | .nan => 0
  | .inf neg => if neg then lo else hi
  | .fin neg m e => max lo (min hi (roundInt md neg m e))

/-! ### Fixed formats in registers -/

def f32Val (w : Word) : Val := decodeFloat fp32 w.toNat
def f16Val (w : Word) : Val := decodeFloat fp16 (w.toNat % 2 ^ 16)
def bf16Val (w : Word) : Val := decodeFloat bf16 (w.toNat % 2 ^ 16)
/-- A value narrowed to a fixed format with `SAT` = 0, in the low bits of a register (R78, R88). -/
def roundWord (F : FloatFmt) (md : Rm) (v : Val) : Word := BitVec.ofNat 32 (roundTo F false md v)

/-! ### The generator of stochastic rounding (R76) -/

def mix (z : DWord) : DWord :=
  let z := (z ^^^ (z >>> 30)) * 0xBF58476D1CE4E5B9
  let z := (z ^^^ (z >>> 27)) * 0x94D049BB133111EB
  z ^^^ (z >>> 31)

/-- The 24-bit value of the seed and the key words c0 to c3, n, e (R76). -/
def srBits (seed : DWord) (keys : List Nat) : Nat :=
  let h := keys.foldl (fun h v => mix (h ^^^ BitVec.ofNat 64 v)) (mix (seed + 0x9E3779B97F4A7C15))
  h.toNat / 2 ^ 40

/-! ### Block scales (R71) -/

/-- floor(log2 |v|) of a finite nonzero value. -/
def Val.log2 : Val → Option Int
  | .fin _ m e => if m = 0 then none else some ((Nat.log2 m : Int) + e)
  | _ => none

/-- The exponent of the largest finite value (R71). -/
def emaxOf (F : FloatFmt) : Int :=
  let p := indexVal F (limitIndex F false)
  if p.1 = 0 then Config.loneEmax else (Nat.log2 p.1 : Int) + p.2

/-- The scale byte chosen for the values of one block (R71). -/
def chooseScale (F : FloatFmt) (vs : List Val) : Nat :=
  match (vs.filterMap Val.log2).max? with
  | none => 127
  | some g => (max 0 (min 254 (g - emaxOf F + 127))).toNat

/-! ### Roots and quotients, exact up to one sticky bit

A quotient or root that is not exact is returned with one further bit set below its last place, which no rounding
boundary can lie between. -/

/-- The integer square root, from bit `k` down. -/
def isqrtFrom (n : Nat) : Nat → Nat → Nat
  | 0, r => r
  | k + 1, r => isqrtFrom n k (if (r + 2 ^ k) * (r + 2 ^ k) ≤ n then r + 2 ^ k else r)

def isqrt (n : Nat) : Nat := isqrtFrom n (Nat.log2 n / 2 + 1) 0

/-- Bits kept beyond any mantissa of the fixed formats. -/
def guardBits : Nat := 40

def divVal (a b : Val) : Val :=
  match a, b with
  | .nan, _ => .nan
  | .inf _, .nan => .nan
  | .fin _ _ _, .nan => .nan
  | .inf _, .inf _ => .nan
  | .inf s, .fin t _ _ => .inf (s != t)
  | .fin s _ _, .inf t => .fin (s != t) 0 0
  | .fin s m e, .fin t n f =>
    if n = 0 then if m = 0 then .nan else .inf (s != t)
    else if m = 0 then .fin (s != t) 0 0
    else
      let k := guardBits + Nat.log2 n
      let num := m * 2 ^ k
      let q := num / n
      if num % n = 0 then .fin (s != t) q (e - f - k) else .fin (s != t) (2 * q + 1) (e - f - k - 1)

def sqrtVal (a : Val) : Val :=
  match a with
  | .nan => .nan
  | .inf s => if s then .nan else .inf false
  | .fin s m e =>
    if m = 0 then .fin s 0 0
    else if s then .nan
    else
      let odd := decide (e % 2 = 1)
      let n := (if odd then 2 * m else m) * 2 ^ (2 * guardBits)
      let h := ((if odd then e - 1 else e) / 2) - guardBits
      let r := isqrt n
      if r * r = n then .fin false r h else .fin false (2 * r + 1) (h - 1)

def rsqrtVal (a : Val) : Val :=
  match a with
  | .nan => .nan
  | .inf s => if s then .nan else .fin false 0 0
  | .fin s m e =>
    if m = 0 then .inf s
    else if s then .nan
    else
      let odd := decide (e % 2 = 1)
      let n := if odd then 2 * m else m
      let h := (if odd then e - 1 else e) / 2
      let k := guardBits + Nat.log2 n
      let r := isqrt (2 ^ (2 * k) / n)
      if r * r * n = 2 ^ (2 * k) then .fin false r (-h - k) else .fin false (2 * r + 1) (-h - k - 1)

/-! ### Enclosures

A ball at precision `p` stands for the reals within `rad` of `mid`, both counted in 2^-p. -/

structure Ball where
  mid : Int
  rad : Nat
deriving DecidableEq, Repr

namespace Ball

def ofInt (p : Nat) (v : Int) : Ball := ⟨v * 2 ^ p, 0⟩

/-- a / b, b > 0. -/
def ofRat (p : Nat) (a : Int) (b : Nat) : Ball := ⟨a * 2 ^ p / b, 1⟩

def add (x y : Ball) : Ball := ⟨x.mid + y.mid, x.rad + y.rad⟩
def sub (x y : Ball) : Ball := ⟨x.mid - y.mid, x.rad + y.rad⟩

def mul (p : Nat) (x y : Ball) : Ball :=
  ⟨x.mid * y.mid / 2 ^ p, (x.mid.natAbs * y.rad + y.mid.natAbs * x.rad + x.rad * y.rad) / 2 ^ p + 2⟩

def mulInt (x : Ball) (k : Int) : Ball := ⟨x.mid * k, x.rad * k.natAbs⟩
def divNat (x : Ball) (n : Nat) : Ball := ⟨x.mid / n, x.rad / n + 2⟩

/-- 1 / x for a ball of positive reals; a ball that reaches 0 gives a ball that decides nothing. -/
def inv (p : Nat) (x : Ball) : Ball :=
  let lo := x.mid - x.rad
  if lo ≤ 0 then ⟨0, 2 ^ (4 * p)⟩
  else
    let a := (2 ^ (2 * p) : Int) / (x.mid + x.rad)
    let b := (2 ^ (2 * p) : Int) / lo + 1
    ⟨a, (b - a).toNat⟩

/-- The sum of `n` terms t, t·r/(k+1), … of a series with the term ratio r / d(k), and a bound for what follows when the
terms at least halve: twice the last term. -/
def series (p : Nat) (r : Ball) (d : Nat → Nat) : Nat → Nat → Ball → Ball → Ball
  | 0, _, t, acc => ⟨acc.mid, acc.rad + 2 * (t.mid.natAbs + t.rad) + 2⟩
  | n + 1, k, t, acc => series p r d n (k + 1) ((mul p t r).divNat (d k)) (acc.add t)

/-- The sum of the terms x^(2k+1) / (2k+1), with sign (-1)^k when `alt`; |x| ≤ 1/3. -/
def atanSeries (p : Nat) (alt : Bool) (x2 : Ball) : Nat → Nat → Ball → Ball → Ball
  | 0, _, t, acc => ⟨acc.mid, acc.rad + 2 * (t.mid.natAbs + t.rad) + 2⟩
  | n + 1, k, t, acc =>
    let u := t.divNat (2 * k + 1)
    atanSeries p alt x2 n (k + 1) (mul p t x2) (if alt && decide (k % 2 = 1) then acc.sub u else acc.add u)

def atanh (p : Nat) (x : Ball) : Ball := atanSeries p false (mul p x x) (p / 2 + 8) 0 x ⟨0, 0⟩
def atan (p : Nat) (x : Ball) : Ball := atanSeries p true (mul p x x) (p / 2 + 8) 0 x ⟨0, 0⟩

def ln2 (p : Nat) : Ball := (atanh p (ofRat p 1 3)).mulInt 2
def pi (p : Nat) : Ball := ((atan p (ofRat p 1 5)).mulInt 16).sub ((atan p (ofRat p 1 239)).mulInt 4)

/-- e^t for |t| ≤ 2. -/
def exp (p : Nat) (t : Ball) : Ball := series p t (fun k => k + 1) (p + 16) 0 (ofInt p 1) ⟨0, 0⟩

/-- sin t and cos t for |t| ≤ 2, as series in -t². -/
def sin (p : Nat) (t : Ball) : Ball :=
  series p ((mul p t t).mulInt (-1)) (fun k => (2 * k + 2) * (2 * k + 3)) (p / 2 + 16) 0 t ⟨0, 0⟩
def cos (p : Nat) (t : Ball) : Ball :=
  series p ((mul p t t).mulInt (-1)) (fun k => (2 * k + 1) * (2 * k + 2)) (p / 2 + 16) 0 (ofInt p 1) ⟨0, 0⟩

end Ball

/-- An enclosure with a binary exponent: the reals within rad of mid, counted in 2^exp. -/
structure Encl where
  mid : Int
  rad : Nat
  exp : Int
deriving DecidableEq, Repr

def Ball.encl (p : Nat) (b : Ball) : Encl := ⟨b.mid, b.rad, -(p : Int)⟩

/-- m × 2^e as a ball. -/
def ballOf (p : Nat) (neg : Bool) (m : Nat) (e : Int) : Ball :=
  let s := e + p
  if 0 ≤ s then ⟨signed neg (m * 2 ^ s.toNat), 0⟩ else ⟨signed neg (m / 2 ^ (-s).toNat), 1⟩

/-- e^x for a finite x of moderate size: 2^k e^(x - k ln 2). -/
def exMod (p : Nat) (neg : Bool) (m : Nat) (e : Int) : Encl :=
  let x := ballOf p neg m e
  let l := Ball.ln2 p
  let k := (x.mid * 2 + l.mid) / (2 * l.mid)
  let b := Ball.exp p (x.sub (l.mulInt k))
  ⟨b.mid, b.rad, k - p⟩

/-- |x| reaches 2^k. -/
def atLeast (m : Nat) (e : Int) (k : Nat) : Bool := decide (2 ^ k ≤ scaleDown m e 0)

/-- The functions of R79 that are evaluated by enclosures. -/
inductive Fn where
  | exp | exp2 | log | log2 | sinpi | cospi | tanh | sigm | erf
deriving DecidableEq, Repr

/-- log of y × 2^k, y in [1, 2), as k ln 2 + 2 atanh((y - 1) / (y + 1)); an even split about 1 keeps small results
small. -/
def logBall (p : Nat) (m : Nat) (e : Int) : Ball :=
  let l := Nat.log2 m
  let big := decide (3 * 2 ^ l ≤ 2 * m)
  let k : Int := l + e + (if big then 1 else 0)
  let d : Nat := if big then 2 ^ (l + 1) else 2 ^ l
  ((Ball.atanh p (Ball.ofRat p ((m : Int) - d) (m + d))).mulInt 2).add ((Ball.ln2 p).mulInt k)

/-- sin(π y) for y in [0, 1/2], y = a / 2^b. -/
def sinPiBall (p : Nat) (a b : Nat) : Ball := Ball.sin p (Ball.mul p (Ball.pi p) (Ball.ofRat p a (2 ^ b)))
def cosPiBall (p : Nat) (a b : Nat) : Ball := Ball.cos p (Ball.mul p (Ball.pi p) (Ball.ofRat p a (2 ^ b)))

/-- An enclosure at precision `p` of f(x), x = (-1)^neg × m × 2^e with m > 0, away from the exact cases. -/
def enclose (f : Fn) (p : Nat) (neg : Bool) (m : Nat) (e : Int) : Encl :=
  match f with
  | .exp =>
    if atLeast m e 8 then (if neg then ⟨1, 0, -400⟩ else ⟨1, 0, 400⟩) else exMod p neg m e
  | .exp2 =>
    if atLeast m e 9 then (if neg then ⟨1, 0, -400⟩ else ⟨1, 0, 400⟩)
    else
      let x := ballOf p neg m e
      let k := x.mid / 2 ^ p
      let b := Ball.exp p (Ball.mul p (x.sub (Ball.ofInt p k)) (Ball.ln2 p))
      ⟨b.mid, b.rad, k - p⟩
  | .log => (logBall p m e).encl p
  | .log2 => (Ball.mul p (logBall p m e) (Ball.inv p (Ball.ln2 p))).encl p
  | .sinpi =>
    -- e < 0 here: x is no integer; x mod 2 = r / 2^b
    let b := (-e).toNat
    let r := m % 2 ^ (b + 1)
    let h := if 2 ^ b ≤ r then r - 2 ^ b else r
    let y := if 2 ^ b < 2 * h then 2 ^ b - h else h
    let v := if 4 * y ≤ 2 ^ b then sinPiBall p y b else cosPiBall p (2 ^ b - 2 * y) (b + 1)
    let neg' := neg != decide (2 ^ b ≤ r)
    ⟨if neg' then -v.mid else v.mid, v.rad, -(p : Int)⟩
  | .cospi =>
    let b := (-e).toNat
    let r := m % 2 ^ (b + 1)
    let r' := if 2 ^ b < r then 2 ^ (b + 1) - r else r
    let flip := decide (2 ^ b < 2 * r')
    let y := if flip then 2 ^ b - r' else r'
    let v := if 4 * y ≤ 2 ^ b then cosPiBall p y b else sinPiBall p (2 ^ b - 2 * y) (b + 1)
    ⟨if flip then -v.mid else v.mid, v.rad, -(p : Int)⟩
  | .tanh =>
    if atLeast m e 6 then ⟨signed neg (2 ^ 100 - 1), 0, -100⟩
    else
      -- 1 - 2 / (e^(2|x|) + 1)
      let x := exMod p false m (e + 1)
      let s := x.exp + p
      let ex : Ball := ⟨x.mid * 2 ^ s.toNat, x.rad * 2 ^ s.toNat⟩
      let v := (Ball.ofInt p 1).sub ((Ball.inv p (ex.add (Ball.ofInt p 1))).mulInt 2)
      ⟨if neg then -v.mid else v.mid, v.rad, -(p : Int)⟩
  | .sigm =>
    if atLeast m e 8 then (if neg then ⟨1, 0, -400⟩ else ⟨2 ^ 100 - 1, 0, -100⟩)
    else
      -- with u = e^|x|: u / (u + 1) for x > 0, 1 / (u + 1) for x < 0
      let x := exMod p false m e
      let s := x.exp + p
      let u : Ball := ⟨x.mid * 2 ^ s.toNat, x.rad * 2 ^ s.toNat⟩
      let v := Ball.inv p (u.add (Ball.ofInt p 1))
      ((if neg then v else (Ball.ofInt p 1).sub v)).encl p
  | .erf =>
    if atLeast m e 3 then ⟨signed neg (2 ^ 100 - 1), 0, -100⟩
    else
      -- 2 / sqrt(π) × e^(-x²) × Σ x (2x²)^n / (1·3·…·(2n+1))
      let p' := p + 160
      let x := ballOf p' false m e
      let x2 := Ball.mul p' x x
      let s := Ball.series p' (x2.mulInt 2) (fun k => 2 * k + 3) (p + 400) 0 x ⟨0, 0⟩
      let g := exMod p' true (m * m) (e + e)
      let sh := (-(g.exp + p')).toNat
      let gb : Ball := if 0 ≤ g.exp + p' then ⟨g.mid, g.rad⟩ else ⟨g.mid / 2 ^ sh, g.rad / 2 ^ sh + 2⟩
      let pi := Ball.pi p'
      let lo := isqrt ((pi.mid - pi.rad).toNat * 2 ^ p')
      let hi := isqrt ((pi.mid + pi.rad).toNat * 2 ^ p') + 1
      let rt := Ball.inv p' ⟨lo, hi - lo⟩
      let v := Ball.mul p' (Ball.mul p' (Ball.mul p' s gb) rt) (Ball.ofInt p' 2)
      ⟨if neg then -v.mid else v.mid, v.rad, -(p' : Int)⟩

/-- The code both ends of an enclosure round to, if they agree. -/
def Encl.decided (F : FloatFmt) (c : Encl) : Option Nat :=
  let lo := roundTo F false .rne (ofSigned (c.mid - c.rad) c.exp)
  let hi := roundTo F false .rne (ofSigned (c.mid + c.rad) c.exp)
  if lo = hi then some lo else none

/-- The first precision whose enclosure decides the rounding (R79, R80: the result does not depend on which). -/
def decideFn (F : FloatFmt) (f : Fn) (neg : Bool) (m : Nat) (e : Int) : List Nat → Nat
  | [] => roundTo F false .rne (ofSigned (enclose f 64 neg m e).mid (enclose f 64 neg m e).exp)
  | p :: ps =>
    match (enclose f p neg m e).decided F with
    | some c => c
    | none => decideFn F f neg m e ps

/-- m × 2^e is an integer. -/
def isInteger (m : Nat) (e : Int) : Bool := (scaleRem m e 0).1 == 0

/-- A correctly rounded function of R79 in a fixed format, with its special cases. -/
def fnCode (F : FloatFmt) (f : Fn) (x : Val) : Nat :=
  let out (v : Val) := roundTo F false .rne v
  let one (s : Bool) : Val := .fin s 1 0
  match f, x with
  | _, .nan => out .nan
  | .exp, .inf s => out (if s then .fin false 0 0 else .inf false)
  | .exp2, .inf s => out (if s then .fin false 0 0 else .inf false)
  | .log, .inf s => out (if s then .nan else .inf false)
  | .log2, .inf s => out (if s then .nan else .inf false)
  | .sinpi, .inf _ => out .nan
  | .cospi, .inf _ => out .nan
  | .tanh, .inf s => out (one s)
  | .erf, .inf s => out (one s)
  | .sigm, .inf s => out (if s then .fin false 0 0 else one false)
  | f, .fin s m e =>
    if m = 0 then
      match f with
      | .exp => out (one false)
      | .exp2 => out (one false)
      | .log => out (.inf true)
      | .log2 => out (.inf true)
      | .sinpi => out (.fin s 0 0)
      | .cospi => out (one false)
      | .tanh => out (.fin s 0 0)
      | .erf => out (.fin s 0 0)
      | .sigm => out (.fin false 1 (-1))
    else
      let go := decideFn F f s m e [64, 160, 320, 640, 1280, 4096]
      match f with
      | .exp => go
      | .tanh => go
      | .sigm => go
      | .erf => go
      | .exp2 =>
        if isInteger m e && !atLeast m e 9 then out (.fin false 1 (signed s (scaleDown m e 0))) else go
      | .log => if s then out .nan else if (Val.fin false m e).eqv (one false) then out (.fin false 0 0) else go
      | .log2 =>
        if s then out .nan
        else if 2 ^ Nat.log2 m = m then out (ofInt (Nat.log2 m + e)) else go
      | .sinpi => if isInteger m e then out (.fin s 0 0) else go
      | .cospi =>
        if isInteger m e then out (one (decide (scaleDown m e 0 % 2 = 1)))
        else if isInteger m (e + 1) then out (.fin false 0 0) else go

/-! ### The accumulator's values (R81) -/

/-- The largest finite magnitude of an accumulator code. -/
def accMax : Int := 2 ^ 47 - 2
def accNan : BitVec 48 := 0x800000000000
def accInf : BitVec 48 := 0x7FFFFFFFFFFF
def accNegInf : BitVec 48 := 0x800000000001

/-- The value of code M under the tile's exponent X (R81). -/
def accVal (M : BitVec 48) (X : Int) : Val :=
  if M = accNan then .nan
  else if M = accInf then .inf false
  else if M = accNegInf then .inf true
  else ofSigned M.toInt X

end Sys2Proof.Machine
end

