-- ==== Sys2Proof/Machine/Ops.lean ====
section
/-! DEFINITION. The shared operations behind the meanings: completing a word, taking a trap and returning from one, the
checks of operands, and the accesses of threads to global memory and scratchpad. -/

namespace Sys2Proof.Machine

/-- The outcome of a step. -/
abbrev Out := Host.Outcome State Fault Refusal

/-! ### Causes and traps (R363 to R367) -/

/-- The trap causes (R367). -/
inductive Cause where
  | illegal | align | nunif | priv | spbound | xlate | perm | wovf | wunf | divstk | latch | rights | stream | hashfull
  | timeout | budget | ecc | arith | soft | debug | cancel
deriving DecidableEq, Repr

/-- The code of a cause in `TCAUSE`[7:0] (R367). -/
def Cause.code : Cause → Nat
  | .illegal => 0x01
  | .align => 0x02
  | .nunif => 0x03
  | .priv => 0x04
  | .spbound => 0x05
  | .xlate => 0x06
  | .perm => 0x07
  | .wovf => 0x08
  | .wunf => 0x09
  | .divstk => 0x0A
  | .latch => 0x0B
  | .rights => 0x0C
  | .stream => 0x0D
  | .hashfull => 0x0E
  | .timeout => 0x0F
  | .budget => 0x10
  | .ecc => 0x11
  | .arith => 0x12
  | .soft => 0x13
  | .debug => 0x14
  | .cancel => 0x15

/-- A trap about to be taken: the fields of the record that its cause names (R366). -/
structure Trap where
  cause   : Cause
  sub     : Nat := 0
  mask    : Mask := 0
  addr    : DWord := 0
  exhaust : Bool := false
  give    : Bool := false
  /-- raised during performance (R160, R367) -/
  perf    : Bool := false
  part    : Bool := false
  own     : List (Nat × Nat) := []
  refs    : List (Nat × FaultRef) := []
  /-- the resume address, where it is not the first word of the sequence -/
  after   : Option DWord := none
  items   : List DWord := []
  queue   : Option Nat := none
deriving DecidableEq, Repr

/-- `TCAUSE`[16] at P0 (R367). -/
def Trap.resumes (t : Trap) : Bool :=
  match t.cause with
  | .nunif => true
  | .xlate => true
  | .hashfull => true
  | .timeout => true
  | .debug => true
  | .cancel => true
  | .wovf => !t.exhaust
  | .wunf => !t.exhaust
  | .perm => t.perf
  | .ecc => t.perf
  | _ => false

/-- The address of the first word of the sequence that issues (R35). -/
def Path.start (p : Path) : DWord := if p.seq.len = 0 then p.pc else p.seq.start

/-- The record that a trap writes (R363, R366). `WSEG.THR` keeps the thread it selected before the trap (log 69). The
deadline of a wait that the trap cuts short is kept (R135). -/
def Ctx.trapRec (c : Ctx) (t : Trap) : TrapRec :=
  { cause := t.cause.code, sub := t.sub, resume := t.resumes && !c.path.priv, exhaust := t.exhaust, winErr := false,
    give := t.give, len := c.path.seq.len, part := t.part, mask := t.mask, kill := 0,
    pc := if c.path.priv then c.path.start else t.after.getD c.path.start, addr := t.addr, word := c.path.seq.first, own := t.own, refs := t.refs,
    thr := c.wave.trap.thr, level := c.path.priv.toNat
    left := if t.part then t.mask else maskOf c.perf
    counted := if t.part then c.path.counted + (c.perf.filter fun u => !t.mask.getLsbD u).length else c.path.counted
    at_ := c.path.start
    deadline := match c.path.wait with | .time k => some k | _ => c.path.deadline
    items := t.items, queue := t.queue }

/-- The path leaves what it was doing: no wait, no sequence, no replay, latches cleared (R48, R363). -/
def Path.halt (p : Path) : Path := p.clearLatches.onward p.pc

/-- Contents of the trap banks at entry: undefined, so free (R365, log 8). -/
def freeBankW (tick : Nat) : List Word := (List.range 512).map fun i => Config.bankWord tick (i / 16) (i % 16)
def freeBankS (tick : Nat) : List Word := (List.range 16).map fun k => Config.bankScalar tick k

/-- Trap entry with a record: the handler, a wait on fault records, the end of the group, or a fatal trap (R363). -/
def State.enterTrap (s : State) (r : PathRef) (l : Launch) (rec : TrapRec) : State :=
  let s1 := s.modWave r.group r.wix fun w =>
    ({ w with trap := rec, owner := some r.slot, unshed := w.unshed || rec.cause == 0x15,
              qended := w.qended || (l.repro && l.handler != 0) }).modPath r.slot Path.halt
  let s2 := if rec.cause = 0x15 then s1.modGroup r.group fun g => { g with killed := true } else s1
  if l.handler ≠ 0 then
    s2.modWave r.group r.wix fun w =>
      ({ w with bankW := freeBankW s.tick, bankS := freeBankS s.tick }).modPath r.slot fun p =>
        { p with priv := true, pc := l.handler }
  else if (rec.cause = 0x06 ∨ rec.cause = 0x07) ∧ rec.refs ≠ [] then
    s2.modPath r fun p => { p with wait := .records rec.refs, since := s.ns.toNat }
  else if rec.cause = 0x15 then (s2.modGroup r.group Group.finish).tidy r.group
  else s2.fatal r.group rec.cause

/-- Taking a trap (R363). At P1 it is a double trap: the record is rewritten and the trap is fatal. While the other path
of the wave uses the record, the path parks and its trap is kept for it. -/
def State.takeTrap (s : State) (c : Ctx) (t : Trap) : State :=
  if c.path.priv then
    (s.modWave c.ref.group c.ref.wix fun w =>
      ({ w with trap := { c.trapRec t with level := 1 } }).modPath c.ref.slot Path.halt).fatal c.ref.group t.cause.code
  else if c.wave.owner = some (!c.ref.slot) then
    s.modWave c.ref.group c.ref.wix fun w =>
      ({ w with queued := some (c.trapRec t) }).modPath c.ref.slot fun p => { p.halt with wait := .recordBusy, since := s.ns.toNat }
  else s.enterTrap c.ref c.launch (c.trapRec t)

/-- The record is free: the trap that the other path kept is taken now (R363). -/
def State.freeRecord (s : State) (c : Ctx) : State :=
  match s.wave? c.ref.group c.ref.wix with
  | none => s
  | some v =>
    match v.queued with
    | none => s.modWave c.ref.group c.ref.wix fun w => { w with owner := none }
    | some rec =>
      (s.modWave c.ref.group c.ref.wix fun w =>
        { w with owner := none, queued := none }.parkedFor
          (s.cyclesSince c.group.die (((v.path? !c.ref.slot).map Path.since).getD 0))).enterTrap
        { c.ref with slot := !c.ref.slot } c.launch rec

/-! ### Completing a word -/

/-- The word is completed: the next word follows, and it counts as retired at P0 (R232). -/
def State.complete (s : State) (c : Ctx) (ts : List Nat) : State :=
  s.modWave c.ref.group c.ref.wix fun w =>
    (if c.path.priv then w else w.retire ts c.path.counted).modPath c.ref.slot fun p => p.onward (c.path.pc + 4)

/-- A word of the issuing path. Without an issuer there is nothing that could perform it. -/
def issue (s : State) (k : Ctx → State) : Out :=
  match s.ctx with
  | none => .fault .noIssuer
  | some c => .next (k c)

/-! ### Checks of operands and guards -/

/-- The trap of a read of vector-class sources by the threads `ts`: a latch with too few entries, or an uncorrectable
unit (R48, R62). A LATCH trap comes before an ECC trap, and both before the other checks of the word (log 70). The mask of
an ECC trap holds the threads that read a unit in error; a uniform register in error sets bit 0 of it (log 62). -/
def Ctx.srcTrap (c : Ctx) (ts : List Nat) (xs : List Src) : Option Trap :=
  let un := ts.filter fun t => xs.any fun x => c.unlatched t x
  if un ≠ [] then some { cause := .latch, mask := maskOf un }
  else
    match ts.filterMap fun t => (xs.filterMap fun x => c.badUnit t x).head? with
    | [] => none
    | u :: us => some { cause := .ecc, mask := maskOf ((u :: us).map fun v => if v.1 = 2 then 0 else v.2.2),
                        addr := BitVec.ofNat 64 u.2.1 }

/-- The trap of a read of scalar-class sources: an uncorrectable uniform register (R62); its mask is 0 (log 62). -/
def Ctx.sTrap (c : Ctx) (xs : List (SOp × Bool)) : Option Trap :=
  let units := xs.flatMap fun x =>
    match x.1 with
    | .s k => (if x.2 then [k.val, k.val + 1] else [k.val]).filter fun k => !(c.path.priv && decide (k < 16))
    | .z => []
    | .imm => []
  match units.filter c.path.badS.getLsbD with
  | [] => none
  | k :: _ => some { cause := .ecc, addr := BitVec.ofNat 64 k }

/-- The active threads whose value of a condition differs from that of the lowest one: the disagreeing threads of R122, and
in the same way those of a guard and of a scale byte (R33, R108, R109; log 71). -/
def differing (f : Nat → Bool) : List Nat → List Nat
  | [] => []
  | t :: ts => ts.filter fun u => f u != f t

/-- A guard that must agree (R33): the trap where it does not. -/
def Ctx.guardTrap (c : Ctx) : Option Trap :=
  match differing (guardIn c.wave c.path.seq.guard) (ixs c.path.active) with
  | [] => none
  | us => some { cause := .nunif, mask := maskOf us }

/-- A scalar-class or matrix-class word is performed: its guard is true, or no thread is active (R33, R60). -/
def Ctx.performs (c : Ctx) : Bool :=
  match ixs c.path.active with
  | [] => true
  | t :: _ => guardIn c.wave c.path.seq.guard t

/-- Values of a 64-bit operand that differ from that of the lowest thread (R123). -/
def Ctx.nonUniform (f : Nat → DWord) : List Nat → List Nat
  | [] => []
  | t :: ts => ts.filter fun u => f u != f t

/-- A word that traps with PRIV at P1 (R365), before its guard is looked at (R40). -/
def atP0 (s : State) (k : Ctx → State) : Out :=
  issue s fun c => if c.path.priv then s.takeTrap c { cause := .priv, addr := c.path.seq.word.setWidth 64 } else k c

/-- A word that traps with PRIV at P0 (R362, R370). -/
def atP1 (s : State) (k : Ctx → State) : Out :=
  issue s fun c => if c.path.priv then k c else s.takeTrap c { cause := .priv, addr := c.path.seq.word.setWidth 64 }

/-- A trap, or what follows when there is none. -/
def State.unless (s : State) (c : Ctx) (t : Option Trap) (k : State) : State :=
  match t with
  | some x => s.takeTrap c x
  | none => k

/-! ### Words with a result in registers -/

/-- The latches of these threads have been pushed: a bad one moves to the next place, and out behind the last (R47, R62). -/
def Wave.mendLatches (w : Wave) (ts : List Nat) : Wave :=
  { w with
    bad := w.bad.filterMap fun u =>
      if u.1 = 3 ∧ ts.contains u.2.2 = true then (if u.2.1 < 3 then some (3, u.2.1 + 1, u.2.2) else none) else some u }

/-- 32-bit results of a vector-class word: written, pushed, completed (R47, R87). -/
def State.vecResult (s : State) (c : Ctx) (d : VDst) (vs : List (Nat × Word)) : State :=
  (s.modWave c.ref.group c.ref.wix fun w =>
    ((w.putAll c.path.priv d vs).modPath c.ref.slot fun p =>
      p.pushAll (vs.map fun x => (x.1, x.2.setWidth 64))).mendLatches (vs.map Prod.fst)).complete c (vs.map Prod.fst)

/-- 64-bit results of a vector-class word. -/
def State.vecResult64 (s : State) (c : Ctx) (d : VDst) (vs : List (Nat × DWord)) : State :=
  (s.modWave c.ref.group c.ref.wix fun w =>
    ((w.putAll64 c.path.priv d vs).modPath c.ref.slot fun p => p.pushAll vs).mendLatches (vs.map Prod.fst)).complete c
      (vs.map Prod.fst)

/-- Predicate results: written, not pushed (R47). -/
def State.predResult (s : State) (c : Ctx) (d : Fin 8) (vs : List (Nat × Bool)) : State :=
  (s.modWave c.ref.group c.ref.wix fun w => w.putPs d vs).complete c (vs.map Prod.fst)

/-- A vector-class word with a 32-bit result per thread: `f` computes it from what the threads read at issue. -/
def vec (s : State) (xs : List Src) (d : VDst) (f : Ctx → Nat → Word) : Out :=
  issue s fun c => s.unless c (c.srcTrap c.perf xs) (s.vecResult c d (c.perf.map fun t => (t, f c t)))

/-- A vector-class word with a 64-bit result per thread. -/
def vec64 (s : State) (xs : List Src) (d : VDst) (f : Ctx → Nat → DWord) : Out :=
  issue s fun c => s.unless c (c.srcTrap c.perf xs) (s.vecResult64 c d (c.perf.map fun t => (t, f c t)))

/-- A vector-class word with a predicate result per thread. -/
def vecP (s : State) (xs : List Src) (d : Fin 8) (f : Ctx → Nat → Bool) : Out :=
  issue s fun c => s.unless c (c.srcTrap c.perf xs) (s.predResult c d (c.perf.map fun t => (t, f c t)))

/-- A scalar-class word (R33, R58): performed once when its guard is true; what it does is `k`. -/
def scal (s : State) (xs : List (SOp × Bool)) (k : Ctx → State) : Out :=
  issue s fun c => s.unless c c.guardTrap
    (if c.performs then s.unless c (c.sTrap xs) (k c) else s.complete c [])

/-- A scalar result pushed into `h0` of every active thread (R47). -/
def State.pushScalar (s : State) (c : Ctx) (v : DWord) : State :=
  s.modWave c.ref.group c.ref.wix fun w =>
    (w.modPath c.ref.slot fun p => p.pushAll ((ixs c.path.active).map fun t => (t, v))).mendLatches (ixs c.path.active)

/-- A 32-bit scalar result (R47, R50). -/
def State.scalResult (s : State) (c : Ctx) (d : SDst) (v : Word) : State :=
  ((s.modWave c.ref.group c.ref.wix fun w => w.putS32 c.ref.slot c.path.priv d v).pushScalar c (v.setWidth 64)).complete
    c c.perf

/-- A 64-bit scalar result. -/
def State.scalResult64 (s : State) (c : Ctx) (d : SDst) (v : DWord) : State :=
  ((s.modWave c.ref.group c.ref.wix fun w => w.putS64 c.ref.slot c.path.priv d v).pushScalar c v).complete c c.perf

/-! ### What a thread sees of global memory -/

/-- The bytes of a write laid over a read of `n` bytes at `p`. -/
def overlay (p : Phys) (base : List Byte) (q : Phys) (bs : List Byte) : List Byte :=
  if p.space ≠ q.space then base
  else base.mapIdx fun i b => if q.addr ≤ p.addr + i then (bs[p.addr + i - q.addr]?).getD b else b

/-- The place and the bytes that an entry of the commit buffer shows its own wave (R232). -/
def CEntry.shows : CEntry → Phys × List Byte
  | .store p bs => (p, bs)
  | .atom p wide _ _ _ v => (p, leBytes (if wide then 8 else 4) v.toNat)
  | .full p v => (p, leBytes 8 v.toNat)
  | .emptied p v => (p, leBytes 8 v.toNat)

/-- Memory as it stood at the start of the quantum (R232). -/
def snapRead (m : Memory × Memory × Memory) (p : Phys) (n : Nat) : List Byte :=
  match p.space with
  | .dev => Memory.bytes m.1 p.addr n
  | .host => Memory.bytes m.2.1 p.addr n
  | .spire => Memory.bytes m.2.2 p.addr n

/-- A held access laid over a read of `n` bytes at a translated address. -/
def Held.overPhys (h : Held) (p : Phys) (b : List Byte) : List Byte :=
  match h.target with
  | .phys q => overlay p b q h.bytes
  | .sp _ _ => b
  | .reg _ _ _ _ _ => b

/-- The agents of a wave can read a store that is visible in a scope instance (R217). -/
def Near.seenBy (x : Near) (g : Group) (wix : Nat) : Bool :=
  match x.reach with
  | 0 => x.group == g.id && x.wix == wix
  | 1 => x.group == g.id
  | 2 => x.cluster == g.cluster
  | _ => x.cluster / 2 == g.cluster / 2

/-- Memory as the agents of a wave see it: the stores that are visible in one of their scope instances lie over it (R217,
R224). -/
def State.nearRead (s : State) (c : Ctx) (p : Phys) (n : Nat) : List Byte :=
  s.near.foldl (fun b x => if x.seenBy c.group c.ref.wix then x.store.overPhys p b else b) (s.physRead p n)

/-- What a thread of a wave reads at a translated address: memory, or the quantum's start with the wave's own buffered
writes (R232); then its own stores that have not been performed (log 7). -/
def State.view (s : State) (c : Ctx) (t : Nat) (p : Phys) (n : Nat) : List Byte :=
  match s.wave? c.ref.group c.ref.wix with
  | none => s.nearRead c p n
  | some w =>
    let base := match (s.launch? c.launch.id).bind fun l => l.snap with
      | some m => w.cbuf.foldl (fun b e => overlay p b e.shows.1 e.shows.2) (snapRead m p n)
      | none => s.nearRead c p n
    w.held.foldl (fun b h => if h.thread = t then h.overPhys p b else b) base

/-- Two held accesses touch a byte in common. -/
def Held.meets (a b : Held) : Bool :=
  let cross (p q : Nat) : Bool := decide (p < q + b.bytes.length) && decide (q < p + a.bytes.length)
  match a.target, b.target with
  | .phys p, .phys q => p.space == q.space && cross p.addr q.addr
  | .sp g p, .sp h q => g == h && cross p q
  | .reg g x t n i, .reg h y u m j => g == h && x == y && t == u && cross (4 * n + i) (4 * m + j)
  | _, _ => false

/-- What thread `t` has read early at exactly a place. -/
def Held.early (h : Held) (t : Nat) (x : Target) (n : Nat) : Bool := h.thread == t && h.target == x && h.bytes.length == n

/-- What a load of thread `t` reads at a place: the first value that it has read early there, otherwise `now` (log 7). -/
def Wave.reads (w : Wave) (t : Nat) (r : Order) (x : Target) (n : Nat) (now : List Byte) : List Byte :=
  if r = .rlx ∨ r = .acq then
    match w.early.find? fun h => h.early t x n with
    | some h => h.bytes
    | none => now
  else now

/-- What a load of the bytes of `h` leaves of what its thread has read early: nothing of these bytes that came before its own
read (R222), and nothing at all that came before an acquire (R221). -/
def restEarly (r : Order) (h : Held) : List Held → List Held
  | [] => []
  | x :: xs =>
    if x.early h.thread h.target h.bytes.length then xs
    else if x.thread == h.thread && (r == .acq || x.meets h) then restEarly r h xs
    else x :: restEarly r h xs

/-- A load has been performed: what its thread has read early follows it. -/
def State.settleEarly (s : State) (c : Ctx) (r : Order) (h : Held) : State :=
  s.modWave c.ref.group c.ref.wix fun w => { w with early := restEarly r h w.early }

/-- A thread writes bytes: it has read nothing of them early that a later load could give (R140, R222). -/
def State.voidOwn (s : State) (c : Ctx) (h : Held) : State :=
  s.modWave c.ref.group c.ref.wix fun w =>
    { w with early := w.early.filter fun x => !(x.thread == h.thread && x.meets h) }

/-- What a load of thread `t` reads at a translated address. -/
def State.seen (s : State) (c : Ctx) (t : Nat) (r : Order) (p : Phys) (n : Nat) : List Byte :=
  match s.wave? c.ref.group c.ref.wix with
  | none => s.view c t p n
  | some w => w.reads t r (.phys p) n (s.view c t p n)

/-- A write to scratchpad bytes of a group; a whole 32-bit unit becomes good again (R146). -/
def Group.spWrite (g : Group) (off : Nat) (bs : List Byte) : Group :=
  { g with
    sp := g.sp.writeBytes off bs
    spBad := g.spBad.filter fun u => !(decide (off ≤ 4 * u) && decide (4 * u + 4 ≤ off + bs.length)) }

/-- A byte of a register written; nothing when the wave has ended (R144). -/
def State.regPut (s : State) (g wix t n byte : Nat) (b : Byte) : State :=
  s.modWave g wix fun w =>
    if w.ended then w
    else { w with w := w.w.set (2048 * t + n) (setBits (w.w.get (2048 * t + n)) (8 * byte) 8 b.toNat) }

/-- Register bytes written one after the other. -/
def State.regBytesPut (s : State) (g wix t r byte : Nat) : List Byte → State
  | [] => s
  | b :: bs => (s.regPut g wix t (r + byte / 4) (byte % 4) b).regBytesPut g wix t r (byte + 1) bs

/-- The registers that `len` bytes from a byte on cover whole. -/
def wholeRegs (r byte len : Nat) : List Nat :=
  (List.range ((byte + len) / 4 - (byte + 3) / 4)).map fun i => r + (byte + 3) / 4 + i

/-- Register bytes written; a register that is written whole becomes good again (R62, R146). -/
def State.regWrite (s : State) (g wix t r byte : Nat) (bs : List Byte) : State :=
  (s.regBytesPut g wix t r byte bs).modWave g wix fun w =>
    if w.ended then w else (wholeRegs r byte bs.length).foldl (fun v n => v.mend (0, n, t)) w

/-- A held store performed. -/
def State.perform (s : State) (h : Held) : State :=
  match h.target with
  | .phys p => s.physWrite p h.bytes
  | .sp g off => s.modGroup g fun x => x.spWrite off h.bytes
  | .reg g wix t n byte => s.regWrite g wix t n byte h.bytes

/-! ### Stores that only a scope instance sees (R217, R221, R224, R225; log 7) -/

/-- The level of a scope: 0 the wave, 1 the group, 2 the cluster, 3 the die, 4 the module and beyond (R217). -/
def scopeLevel : Scope → Nat
  | .wv => 0
  | .gr => 1
  | .bd => 2
  | .die => 3
  | .dev => 4
  | .sys => 4
  | .devRm => 4

/-- The level at which every agent that reaches a place sees a store to it: scratchpad and registers are the cluster's
(R217), and a store to a register is performed by every release. -/
def Target.top : Target → Nat
  | .phys _ => 4
  | .sp _ _ => 2
  | .reg _ _ _ _ _ => 0

/-- The stores that a condition picks, and every earlier one of the same bytes; and the others. -/
def splitNear (pick : Near → Bool) (xs : List Near) : List Near × List Near :=
  xs.foldr (fun x r => if pick x || r.1.any fun y => y.store.meets x.store then (x :: r.1, r.2) else (r.1, x :: r.2)) ([], [])

/-- Stores of scope instances performed for every agent, in order. -/
def State.performNear (s : State) (pick : Near → Bool) : State :=
  let r := splitNear pick s.near
  r.1.foldl (fun t x => t.perform x.store) { s with near := r.2 }

/-- A store made visible at a level: performed where the level reaches every agent, behind the stores of its bytes that the
wave can read (R222), or visible to that level's instance. -/
def State.spread (s : State) (g : Group) (wix level : Nat) (h : Held) : State :=
  if h.target.top ≤ level then (s.performNear fun (y : Near) => y.seenBy g wix && y.store.meets h).perform h
  else { s with near := s.near ++ [⟨g.id, wix, g.cluster, level, h⟩] }

/-- A release at a level by a wave (R220, R221): the stores that the wave holds back, and every store that it can read,
become visible to the level's instance, in order, and a store of a wider scope to that one's (R224). A run that shows no
narrower scope performs them for every agent. -/
def State.release (s : State) (g wix scope : Nat) : State :=
  let level := if s.relaxed then scope else 4
  match s.group? g with
  | none => s
  | some x =>
    match x.wave? wix with
    | none => s
    | some w =>
      let s1 := s.performNear fun (y : Near) => y.seenBy x wix && decide (y.store.target.top ≤ level)
      let s2 : State := { s1 with near := s1.near.map fun (y : Near) => if y.seenBy x wix then { y with reach := max y.reach level } else y }
      (w.held.foldl (fun (t : State) h => t.spread x wix (max level h.scope) h) s2).modWave g wix fun w => { w with held := [] }

/-- Every store of a wave, and every one that it can read, performed for every agent (R220, R221). -/
def State.drain (s : State) (g wix : Nat) : State := s.release g wix 4

/-- Every store of every wave performed for every agent (R351, R371). -/
def State.drainEvery (s : State) : State :=
  (s.groups.flatMap fun g => g.waves.map fun w => (g.id, w.wix)).foldl (fun (t : State) x => t.drain x.1 x.2)
    (s.performNear fun _ => true)

/-- What a release half at a level does before its access (R221). -/
def State.orderFirst (s : State) (c : Ctx) (level : Nat) (r : Order) : State :=
  if r = .rel ∨ r = .ar then s.release c.ref.group c.ref.wix level else s

/-- The level of a scope in a scratchpad-class word, which orders no more than `.bd` (R217). -/
def spLevel (sc : Scope) : Nat := min (scopeLevel sc) 2

/-- What an acquire marked `.dev.rm` does before its access: it promotes every narrower release of the device (R225). -/
def State.promote (s : State) (sc : Scope) (r : Order) : State :=
  if sc = .devRm ∧ (r = .acq ∨ r = .ar) then s.performNear fun _ => true else s

/-- The stores that thread `t` still holds back of these bytes, and those of its scope instances, are performed: what it does
next to the bytes follows them in coherence order (R140, R222). -/
def State.ownFirst (s : State) (c : Ctx) (h : Held) : State :=
  match s.wave? c.ref.group c.ref.wix with
  | none => s
  | some w =>
    let mine (x : Held) : Bool := x.thread == h.thread && x.meets h
    let s1 := s.performNear fun y => y.seenBy c.group c.ref.wix && y.store.meets h
    ((w.held.filter mine).foldl State.perform s1).modWave c.ref.group c.ref.wix fun w =>
      { w with held := w.held.filter fun x => !mine x }

/-- A write performed now by thread `t`, for the instance of its scope: at once for every agent, unless the run shows
scopes that are narrower. -/
def State.land (s : State) (c : Ctx) (h : Held) : State :=
  if s.relaxed then s.spread c.group c.ref.wix h.scope h else s.perform h

/-- The lines of global memory that an access touches (R304). -/
def State.touch (s : State) (g va n : Nat) : State :=
  s.modGroup g fun x =>
    { x with lines := (List.range ((va + n - 1) / 128 + 1 - va / 128)).foldl (fun m i => m.set (va / 128 + i) 1) x.lines }

/-- An entry added to the commit buffer (R232). -/
def State.buffer (s : State) (c : Ctx) (e : CEntry) : State :=
  s.modWave c.ref.group c.ref.wix fun w => { w with cbuf := w.cbuf ++ [e] }

/-- Where an access of the issuing path to a global address reaches. -/
def State.reach (s : State) (c : Ctx) (k : Access) (va n : Nat) : Except AFault Phys :=
  match s.translate c.group.die c.launch.ctx c.path.priv k va n with
  | .ok p => .ok p
  | .error f => .error (.x f k (BitVec.ofNat 64 va))

/-- A load of `n` bytes by thread `t` (R161). -/
def State.gLoad (s : State) (c : Ctx) (t : Nat) (va n : Nat) : Except AFault (List Byte × State) :=
  (s.reach c .load va n).bind fun p =>
    if s.physBad p n then .error (.ecc (BitVec.ofNat 64 va))
    else .ok (s.view c t p n, s.touch c.ref.group va n)

/-- A load of `n` bytes by thread `t` whose word has the order `r`. -/
def State.gRead (s : State) (c : Ctx) (t : Nat) (r : Order) (va n : Nat) : Except AFault (List Byte × State) :=
  (s.reach c .load va n).bind fun p =>
    if s.physBad p n then .error (.ecc (BitVec.ofNat 64 va))
    else
      let bs := s.seen c t r p n
      .ok (bs, (s.touch c.ref.group va n).settleEarly c r ⟨t, .phys p, bs, 0⟩)

/-- A store that its thread holds back. -/
def State.hold (s : State) (c : Ctx) (h : Held) : State :=
  (s.voidOwn c h).modWave c.ref.group c.ref.wix fun w => { w with held := w.held ++ [h] }

/-- A store performed now, for the instance of its scope. -/
def State.put (s : State) (c : Ctx) (h : Held) : State := (if s.relaxed then s.voidOwn c h else s).land c h

/-- A store by thread `t` (R161): buffered in a reproducible launch, held back when the order lets it, performed
otherwise. -/
def State.gStore (s : State) (c : Ctx) (t : Nat) (va : Nat) (bs : List Byte) (sc : Scope) (o : Order) : Except AFault State :=
  (s.reach c .store va bs.length).map fun p =>
    let s1 := s.touch c.ref.group va bs.length
    let h : Held := ⟨t, .phys p, bs, scopeLevel sc⟩
    if c.launch.repro then s1.buffer c (.store p bs)
    else if s.relaxed && o == .rlx then s1.hold c h
    else (s1.release c.ref.group c.ref.wix (scopeLevel sc)).put c h

/-- The new value at a location (R164); for `cas`, `a` is the compare value and `b` the new one. -/
def atomNew (wide : Bool) (op : AtomOp) (old a b : DWord) : DWord :=
  let lt (x y : DWord) : Bool := if wide then x.slt y else (x.setWidth 32).slt (y.setWidth 32)
  match op with
  | .add => if wide then old + a else ((old.setWidth 32 + a.setWidth 32 : Word)).setWidth 64
  | .minI => if lt a old then a else old
  | .maxI => if lt old a then a else old
  | .minU => if a.ult old then a else old
  | .maxU => if old.ult a then a else old
  | .and => old &&& a
  | .or => old ||| a
  | .xor => old ^^^ a
  | .exch => a
  | .cas => if old = a then b else old
  | .fadd => (roundWord fp32 .rne ((f32Val (old.setWidth 32)).add false (f32Val (a.setWidth 32)))).setWidth 64

/-- The operations that host and peer memory allow (R164). -/
def farOp : AtomOp → Bool
  | .add => true
  | .exch => true
  | .cas => true
  | _ => false

/-- What a thread has read early is void behind an acquire half of it (R221). -/
def State.acquire (s : State) (c : Ctx) (t : Nat) (r : Order) : State :=
  if r = .acq ∨ r = .ar then s.modWave c.ref.group c.ref.wix fun w => { w with early := w.early.filter fun x => x.thread != t } else s

/-- What an atomic of thread `t` at these bytes does before it is performed: its own stores there come first, a release half
releases at a level, a marked acquire promotes, and what the thread has read early of them, or before an acquire, is void
(R221, R222, R225). -/
def State.atomFirst (s : State) (c : Ctx) (h : Held) (level : Nat) (sc : Scope) (r : Order) : State :=
  ((((s.orderFirst c level r).promote sc r).ownFirst c h).voidOwn c h).acquire c h.thread r

/-- An atomic by thread `t` on global memory, which returns the old value (R165, R236). -/
def State.gAtom (s : State) (c : Ctx) (t : Nat) (va : Nat) (wide : Bool) (op : AtomOp) (a b : DWord) (sc : Scope)
    (r : Order) : Except AFault (DWord × State) :=
  let n := if wide then 8 else 4
  (s.reach c .atomic va n).bind fun p =>
    if p.space != .dev && !farOp op then
      .error (.excluded (s.permFault c.group.die c.launch.ctx va) (BitVec.ofNat 64 va))
    else if s.physBad p n then .error (.ecc (BitVec.ofNat 64 va))
    else
      let h : Held := ⟨t, .phys p, List.replicate n 0, scopeLevel sc⟩
      let s1 := (s.touch c.ref.group va n).atomFirst c h (scopeLevel sc) sc r
      let old := BitVec.ofNat 64 (leNat (s1.view c t p n))
      let v := atomNew wide op old a b
      .ok (old, if c.launch.repro then s1.buffer c (.atom p wide op a b v) else s1.land c { h with bytes := leBytes n v.toNat })

/-! ### Threads whose accesses fault (R160) -/

/-- A fault of the threads `m` put into the fault record queue: its cause, and the record it waits on. -/
def State.postMask (s : State) (c : Ctx) (m : Mask) (f : AFault) : State × Nat × Option FaultRef :=
  let new (ctx : Nat) (va : DWord) (k : Access) (x : XFault) (failed : Bool) : State × Nat × Option FaultRef :=
    let (s1, r) := s.postFault c.group.die ⟨va, ctx, k, x, c.group.core, c.wave.wslot, m, failed⟩
    (s1, if x.cause = 2 then 0x07 else 0x06, some r)
  match f with
  | .x f k va => new c.launch.ctx va k f false
  | .inCtx ctx f k va => new ctx va k f false
  | .excluded f va => new c.launch.ctx va .atomic f true
  | .again r => new r.ctx r.va r.kind r.fault r.excluded
  | .ecc _ => (s, 0x11, none)

/-- A fault of thread `t`. -/
def State.postThread (s : State) (c : Ctx) (t : Nat) (f : AFault) : State × Nat × Option FaultRef :=
  s.postMask c (BitVec.twoPow 32 t) f

/-- The faults of several threads, in ascending order: their causes and records. -/
def State.postThreads (s : State) (c : Ctx) : List (Nat × AFault) → State × List (Nat × Nat) × List (Nat × FaultRef)
  | [] => (s, [], [])
  | (t, f) :: r =>
    let (s1, k, ref) := s.postThread c t f
    let (s2, ks, refs) := s1.postThreads c r
    (s2, (t, k) :: ks, (match ref with | none => refs | some x => (t, x) :: refs))

def causeOf (k : Nat) : Cause := if k = 0x07 then .perm else if k = 0x11 then .ecc else .xlate

/-- Threads that have performed the word while others have not (R77). -/
def State.count (s : State) (c : Ctx) (ts : List Nat) : State :=
  if c.path.priv then s else s.modWave c.ref.group c.ref.wix fun w => { w with done := countThreads w.done ts }

/-- A thread that has faulted, as its path keeps it: its cause, its record, the address. -/
abbrev Faulted := Nat × Nat × Option FaultRef × DWord

/-- The faults of several threads put into the queue. -/
def State.postAll (s : State) (c : Ctx) : List (Nat × AFault) → State × List Faulted
  | [] => (s, [])
  | (t, f) :: r =>
    let (s1, k, ref) := s.postThread c t f
    let (s2, xs) := s1.postAll c r
    (s2, (t, k, ref, f.va) :: xs)

/-- The faulted thread with the lowest number. -/
def lowestFault (xs : List Faulted) : Option Faulted :=
  xs.foldl (fun (b : Option Faulted) x => match b with
    | none => some x
    | some y => if x.1 < y.1 then some x else some y) none

/-- The trap of a word of which some threads have faulted and `unfinished` are unfinished (R160): the causes and records of
the threads, and the cause and address of the lowest one that has faulted. -/
def unfinishedTrap (xs : List Faulted) (unfinished : List Nat) : Trap :=
  { cause := causeOf (((lowestFault xs).map fun x => x.2.1).getD 0x06), perf := true, part := true
    mask := maskOf unfinished, own := xs.map fun x => (x.1, x.2.1)
    refs := xs.filterMap fun x => x.2.2.1.map fun r => (x.1, r)
    addr := ((lowestFault xs).map fun x => x.2.2.2).getD 0 }

/-- The trap after some threads have faulted: the others are complete, `unfinished` are not (R160). -/
def State.partialTrap (s : State) (c : Ctx) (fs : List (Nat × AFault)) (unfinished : List Nat) : State :=
  let (s1, xs) := s.postAll c fs
  (s1.count c (c.perf.filter fun t => !unfinished.contains t)).takeTrap c
    (unfinishedTrap (c.path.faulted ++ xs) unfinished)

/-- Some threads of the word still wait: it goes on with them later, and traps for those that have faulted when all the
others are complete (R160, R381). -/
def State.goOnLater (s : State) (c : Ctx) (fs : List (Nat × AFault)) (finished pending : List Nat) : State :=
  let (s1, xs) := s.postAll c fs
  (s1.count c finished).modPath c.ref fun p =>
    { p with
      replay := some (maskOf pending), faulted := p.faulted ++ xs, only := none, counted := p.counted + finished.length
      wait := .records (p.late.filter fun x => pending.contains x.1), since := s.ns.toNat }

/-- The threads that wait on the record of a whole word's fault: those of the record that failed, where it faults again
(R248, R250), otherwise the one that it names. -/
def Ctx.faultMask (c : Ctx) (t : Nat) : AFault → Mask
  | .again r => r.mask &&& c.path.active
  | _ => BitVec.twoPow 32 t

/-- A whole-word access that faults, with nothing performed (R56, R160): the trap is replayed in full. -/
def State.wholeTrap (s : State) (c : Ctx) (t : Nat) (f : AFault) : State :=
  let (s1, k, ref) := s.postMask c (c.faultMask t f) f
  s1.takeTrap c { cause := causeOf k, perf := true, addr := f.va, own := [(t, k)],
                  refs := match ref with | none => [] | some x => [(t, x)] }

/-- What a `tret` completes in the counts of R77 and R304: the whole trapped sequence when the handler has advanced `TPC`
past it, or the threads that it has cleared from `TMASK`. `kill` are the threads that end. -/
def TrapRec.settle (r : TrapRec) (kill : Mask) (w : Wave) : Wave :=
  if r.level ≠ 0 ∨ r.cause = 0x14 then w
  else if r.len ≠ 0 ∧ r.pc = r.at_ + BitVec.ofNat 64 (4 * r.len) then w.retire (ixs (r.left &&& ~~~kill)) r.counted
  else if r.part = true ∧ r.pc = r.at_ then { w with done := countThreads w.done (ixs (r.left &&& ~~~r.mask &&& ~~~kill)) }
  else w

/-- The path that a `tret` resumes; `kill` are the threads that have ended. Unfinished threads alone replay, each as soon as
its own fault record has a status (R381); a sequence that did not complete for any thread waits for its record first. -/
def TrapRec.resumed (r : TrapRec) (kill : Mask) (now : Nat) (p : Path) : Path :=
  let act := if r.part then r.mask &&& ~~~kill else p.mask &&& ~~~kill
  let refs := if r.pc = r.at_ then r.refs.filter fun x => act.getLsbD x.1 else []
  { p.halt with
    priv := decide (r.level ≠ 0), pc := r.pc, mask := p.mask &&& ~~~kill
    replay := if r.part then some act else none
    counted := if r.part && r.pc == r.at_ then r.counted + (ixs (r.left &&& ~~~r.mask &&& ~~~kill)).length else 0
    late := if r.part then refs else []
    wait := if r.part || refs.isEmpty then .none else .records refs
    deadline := if r.pc = r.at_ then r.deadline else none
    since := now }

/-- The error that the trap delivered is cleared: of each thread that held a copy error, or of the HRU or gate queue (R253,
R275, R288). -/
def TrapRec.delivered (r : TrapRec) (w : Wave) : Wave :=
  match r.queue with
  | some 1 => { w with copyErr := r.own.foldl (fun es x => es.eraseP fun e => e.thread == x.1) w.copyErr }
  | some 6 => { w with hErr := none }
  | some 7 => { w with gErr := none }
  | _ => w

/-- The return from a trap (R132, R368): the threads of `TKILL` end, and the path resumes at `TPC` at the level before the
trap. -/
def State.tret (s : State) (c : Ctx) : State :=
  let r := c.wave.trap
  let kill := r.kill &&& c.path.mask
  let killed (w : Wave) : Wave := { r.delivered w with exited := w.exited ||| kill, unshed := false }
  if kill = c.path.mask ∧ c.path.mask ≠ 0 then
    match (s.modWave c.ref.group c.ref.wix killed).endPath c with
    | .ok t => (t.freeRecord c).tidy c.ref.group
    | .error f => s.wholeTrap c ((ixs c.path.mask).headD 0) f
  else
    (s.modWave c.ref.group c.ref.wix fun w =>
      (r.settle kill (killed w)).modPath c.ref.slot (r.resumed kill s.ns.toNat)).freeRecord c

/-- The wait on fault records is over (R250, R363, R381): with a handler, threads whose record failed fault again at
once; without one, a failed record makes the trap fatal, and the path replays otherwise as `tret` would. -/
def State.recordsDone (s : State) (c : Ctx) (refs : List (Nat × FaultRef)) : State :=
  let bad := refs.filter fun x => s.statusOf x.2 != 1
  let s := s.modWave c.ref.group c.ref.wix fun w => w.parkedFor (s.cyclesSince c.group.die c.path.since)
  if c.wave.owner = some c.ref.slot then
    if bad.isEmpty then
      (s.modPath c.ref (c.wave.trap.resumed 0 s.ns.toNat)).freeRecord c
    else s.fatal c.ref.group c.wave.trap.cause
  else s.modPath c.ref fun p => { p with wait := .none, failed := bad }

/-- What a replay does with a thread whose record ended with `STATUS` 2 (R250). -/
def State.failedThread (s : State) (c : Ctx) (t : Nat) : Option AFault :=
  ((c.path.late.find? fun x => x.1 == t && s.statusOf x.2 == 2).bind fun x => s.record? x.2).map AFault.again

/-- The thread's access is not performed in this turn: its fault record has no status yet (R381), or the turn is for
others. -/
def State.mustWait (s : State) (c : Ctx) (t : Nat) : Bool :=
  (c.path.late.any fun x => x.1 == t && s.statusOf x.2 == 0) || c.path.only.any fun m => !m.getLsbD t

/-- An access of thread `t`, with what R250 makes of it in a replay. -/
def State.tryThread (s : State) (c : Ctx) (t : Nat) (f : State → Nat → Except AFault α) : Except AFault α :=
  match s.failedThread c t with
  | some a => .error a
  | none => f s t

/-- What the threads of a word have come to in one turn: those that have faulted, and those that wait. -/
structure Turned where
  faults  : List (Nat × AFault)
  pending : List Nat
deriving DecidableEq, Repr

/-- Two threads of a word write in an order of their own: both touch one place (R161, R165), or both put an entry into the
commit buffer of a reproducible launch (R232). -/
def Ctx.inTurn (c : Ctx) : Option Target → Option Target → Bool
  | some (.phys p), some (.phys q) => c.launch.repro || p == q
  | some x, some y => x == y
  | _, _ => false

/-- A per-thread access performed by each thread in ascending order; a thread that faults changes nothing. A thread behind
one that waits waits with it where their order counts; `loc` is the place of a write. -/
def State.eachThread (s : State) (c : Ctx) (loc : Nat → Option Target) (f : State → Nat → Except AFault State) :
    List Nat → (waiting : List Nat) → State × Turned
  | [], ws => (s, ⟨[], ws⟩)
  | t :: ts, ws =>
    if s.mustWait c t || ws.any fun u => c.inTurn (loc u) (loc t) then s.eachThread c loc f ts (ws ++ [t])
    else
      match s.tryThread c t f with
      | .ok s1 => s1.eachThread c loc f ts ws
      | .error a => let (s1, r) := s.eachThread c loc f ts ws; (s1, { r with faults := (t, a) :: r.faults })

/-- The threads `ts` perform an access each; the word completes, goes on later with those that wait, or traps for the
unfinished threads once the others are complete (R160). -/
def State.accessAll (s : State) (c : Ctx) (ts : List Nat) (loc : Nat → Option Target)
    (f : State → Nat → Except AFault State) : State :=
  let (s1, r) := s.eachThread c loc f ts []
  let failed := r.faults.map Prod.fst
  if r.pending ≠ [] then
    s1.goOnLater c r.faults (ts.filter fun t => !failed.contains t && !r.pending.contains t) r.pending
  else if failed = [] ∧ c.path.faulted = [] then s1.complete c ts
  else s1.partialTrap c r.faults (c.path.faulted.map Prod.fst ++ failed)

/-- One thread's 32-bit result, written and pushed as its access completes (R47, R161). -/
def State.give1 (s : State) (c : Ctx) (d : VDst) (t : Nat) (v : Word) : State :=
  s.modWave c.ref.group c.ref.wix fun w =>
    ((w.putV c.path.priv d t v).modPath c.ref.slot fun p => p.push t (v.setWidth 64)).mendLatches [t]

/-- One thread's 64-bit result. -/
def State.give64 (s : State) (c : Ctx) (d : VDst) (t : Nat) (v : DWord) : State :=
  s.modWave c.ref.group c.ref.wix fun w =>
    ((w.putV64 c.path.priv d t v).modPath c.ref.slot fun p => p.push t v).mendLatches [t]

/-! ### Cluster addresses (R142 to R146) -/

/-- What a cluster address reaches: a scratchpad byte of a group, or a byte of a register. -/
inductive SpPlace where
  | sp (group off : Nat)
  | reg (group wix t n byte : Nat)
deriving DecidableEq, Repr

/-- Why a cluster address reaches nothing: PERM (R143, R144) or SPBOUND (R145). -/
inductive SpErr where
  | perm
  | bound
deriving DecidableEq, Repr

/-- The group that a core distance reaches from a group (R142, R143). -/
def State.target (s : State) (g : Group) (k : Nat) : Option Group :=
  if k = 0 then s.group? g.id
  else if g.bandn ≤ 1 then none
  else s.groups.find? fun x => !x.ended && x.band == g.band && x.cluster == g.cluster && x.lcore == (g.lcore + k) % 64

/-- The range of `n` bytes at a cluster address, checked (R142 to R145). `apert` allows the register aperture. -/
def State.spPlace (s : State) (g : Group) (apert : Bool) (ea n : Nat) : Except SpErr SpPlace :=
  let space := ea / 2 ^ 30
  let off := ea % 2 ^ 24
  match s.target g (ea / 2 ^ 24 % 64) with
  | none => .error .perm
  | some x =>
    if space = 1 ∧ apert = false then .error .perm
    else if space = 0 then (if off + n ≤ x.spsize then .ok (.sp x.id off) else .error .bound)
    else if space = 1 then
      match x.wave? (off / 2 ^ 18) with
      | none => .error .bound
      | some w =>
        let last := off + n - 1
        if off / 2 ^ 13 = last / 2 ^ 13 ∧ off / 2 ^ 13 % 32 < w.threads ∧ last / 4 % 2048 < w.seg then
          .ok (.reg x.id (off / 2 ^ 18) (off / 2 ^ 13 % 32) (off / 4 % 2048) (off % 4))
        else .error .bound
    else .error .bound

/-- The four bytes of a physical register; 0 when the wave has ended (R144). -/
def State.regBytes (s : State) (g wix t n : Nat) : List Byte :=
  match s.wave? g wix with
  | none => leBytes 4 0
  | some w => leBytes 4 (if w.ended then 0 else (w.w.get (2048 * t + n)).toNat)

/-- The bytes at a checked cluster address. A group that is gone reads 0. -/
def State.spRead (s : State) (p : SpPlace) (n : Nat) : List Byte :=
  match p with
  | .sp g off => match s.group? g with
    | some x => x.sp.bytes off n
    | none => List.replicate n 0
  | .reg g wix t r byte => (List.range n).map fun i => ((s.regBytes g wix t (r + (byte + i) / 4))[(byte + i) % 4]?).getD 0

/-- Bytes written at a checked cluster address. -/
def State.spWrite (s : State) (p : SpPlace) (bs : List Byte) : State :=
  match p with
  | .sp g off => s.modGroup g fun x => x.spWrite off bs
  | .reg g wix t r byte => s.regWrite g wix t r byte bs

/-- A read of these bytes meets an uncorrectable error (R146). -/
def State.spBad (s : State) (p : SpPlace) (n : Nat) : Bool :=
  match p with
  | .sp g off => ((s.group? g).map fun x => x.spBad.any fun u => decide (4 * u < off + n) && decide (off < 4 * u + 4)).getD
      false
  | .reg g wix t r byte => ((s.wave? g wix).map fun w =>
      !w.ended && (List.range ((byte + n + 3) / 4)).any fun i => w.bad.contains (0, r + i, t)).getD false

/-- A held access laid over a read at a cluster address. -/
def Held.overSp (h : Held) (p : SpPlace) (b : List Byte) : List Byte :=
  match p, h.target with
  | .sp g off, .sp g' off' => if g' = g then overlay ⟨.dev, off⟩ b ⟨.dev, off'⟩ h.bytes else b
  | .reg g x t n i, .reg g' x' t' n' i' =>
    if (g', x', t') = (g, x, t) then overlay ⟨.dev, 4 * n + i⟩ b ⟨.dev, 4 * n' + i'⟩ h.bytes else b
  | _, _ => b

/-- What a thread reads in scratchpad or a register: the stores that are visible in its scope instances and its own held
stores over the bytes (log 7). -/
def State.spView (s : State) (c : Ctx) (t : Nat) (p : SpPlace) (n : Nat) : List Byte :=
  let b := s.near.foldl (fun b x => if x.seenBy c.group c.ref.wix then x.store.overSp p b else b) (s.spRead p n)
  match s.wave? c.ref.group c.ref.wix with
  | some w => w.held.foldl (fun b h => if h.thread = t then h.overSp p b else b) b
  | none => b

/-- A transfer between a group's core and another core of its cluster fails every retry (R201, log 12). -/
def State.netDown (s : State) (g : Group) (ea : Nat) : Bool :=
  !s.netBad.isEmpty && s.netBad.contains (g.cluster, g.lcore, (g.lcore + ea / 2 ^ 24 % 64) % 64)

def State.netFails (s : State) (c : Ctx) (ea : Nat) : Bool := s.netDown c.group ea

/-- A load from a cluster address by thread `t`. -/
def State.sLoad (s : State) (c : Ctx) (t ea n : Nat) : Except AFault (List Byte) :=
  match s.spPlace c.group true ea n with
  | .error _ => .ok (List.replicate n 0)
  | .ok p => if s.spBad p n || s.netFails c ea then .error (.ecc (BitVec.ofNat 64 ea)) else .ok (s.spView c t p n)

/-- What a load of thread `t` reads in scratchpad, its early reads counted. -/
def State.spSeen (s : State) (c : Ctx) (t : Nat) (r : Order) (p : SpPlace) (n : Nat) : List Byte :=
  match p, s.wave? c.ref.group c.ref.wix with
  | .sp g off, some w => w.reads t r (.sp g off) n (s.spView c t p n)
  | _, _ => s.spView c t p n

/-- A load from a cluster address by thread `t` whose word has the order `r`. -/
def State.sRead (s : State) (c : Ctx) (t : Nat) (r : Order) (ea n : Nat) : Except AFault (List Byte × State) :=
  match s.spPlace c.group true ea n with
  | .error _ => .ok (List.replicate n 0, s)
  | .ok p =>
    if s.spBad p n || s.netFails c ea then .error (.ecc (BitVec.ofNat 64 ea))
    else
      let bs := s.spSeen c t r p n
      .ok (bs, match p with
        | .sp g off => s.settleEarly c r ⟨t, .sp g off, bs, 0⟩
        | .reg _ _ _ _ _ => s)

/-- The held stores of a write to a cluster address: a register at a time in the aperture, where every 32-bit register is
written on its own (R89, R144). -/
def SpPlace.stores (p : SpPlace) (t level : Nat) (bs : List Byte) : List Held :=
  match p with
  | .sp g off => [⟨t, .sp g off, bs, level⟩]
  | .reg g x u n i =>
    if i + bs.length ≤ 4 then [⟨t, .reg g x u n i, bs, level⟩]
    else [⟨t, .reg g x u n i, bs.take (4 - i), level⟩, ⟨t, .reg g x u (n + 1) 0, bs.drop (4 - i), level⟩]

/-- A store to a cluster address by thread `t` (R161): held back when the order lets it. A released store to registers is
held back too, behind what the release performs: nothing says when the other thread's register changes (R231). -/
def State.sStore (s : State) (c : Ctx) (t ea : Nat) (bs : List Byte) (sc : Scope) (o : Order) : Except AFault State :=
  match s.spPlace c.group true ea bs.length with
  | .error _ => .ok s
  | .ok p =>
    if s.netFails c ea then .error (.ecc (BitVec.ofNat 64 ea))
    else
      let s1 := if o == .rlx then s else s.release c.ref.group c.ref.wix (spLevel sc)
      let hs := p.stores t (scopeLevel sc) bs
      .ok (match p with
        | .sp _ _ => if s.relaxed && o == .rlx then hs.foldl (fun u h => u.hold c h) s1 else hs.foldl (fun u h => u.put c h) s1
        | .reg _ _ _ _ _ => if s.relaxed then hs.foldl (fun u h => u.hold c h) s1 else s1.spWrite p bs)

/-! ### Results of loads, and loads that read later (R140, R161, R220; log 7) -/

/-- What a load of fewer than 32 bits makes of its bytes: zero or sign extension. -/
def extend (signed : Bool) (bs : List Byte) : Word :=
  if signed then BitVec.ofInt 32 ((BitVec.ofNat (8 * bs.length) (leNat bs)).toInt) else BitVec.ofNat 32 (leNat bs)

/-- The result of a load of `n` bytes given to its thread. -/
def State.giveLoad (s : State) (c : Ctx) (d : VDst) (n : Nat) (signed : Bool) (t : Nat) (bs : List Byte) : State :=
  if n = 8 then s.give64 c d t (BitVec.ofNat 64 (leNat bs)) else s.give1 c d t (extend signed bs)

/-- The load of thread `t` reads later: its turn says so, it is relaxed, and it is no load of a reproducible launch or a
handler. -/
def State.defers (s : State) (c : Ctx) (t : Nat) (r : Order) : Bool :=
  c.path.defer.getLsbD t && s.relaxed && r == .rlx && !c.launch.repro && !c.path.priv

/-- A load that has issued and reads later. -/
def State.later (s : State) (c : Ctx) (x : Load) : State :=
  (s.voidOwn c ⟨x.thread, x.target, List.replicate x.n 0, 0⟩).modWave c.ref.group c.ref.wix fun w =>
    { w with loads := w.loads ++ [x] }

/-- A global load of thread `t` into a register. -/
def State.gLoadTo (s : State) (c : Ctx) (t : Nat) (r : Order) (va n : Nat) (signed : Bool) (d : VDst) : Except AFault State :=
  if s.defers c t r then
    (s.reach c .load va n).bind fun p =>
      if s.physBad p n then .error (.ecc (BitVec.ofNat 64 va))
      else .ok ((s.touch c.ref.group va n).later c ⟨t, c.ref.slot, .phys p, n, signed, d⟩)
  else (s.gRead c t r va n).map fun x => x.2.giveLoad c d n signed t x.1

/-- A load of thread `t` from a cluster address into a register; a load from the register aperture reads at once. -/
def State.sLoadTo (s : State) (c : Ctx) (t : Nat) (r : Order) (ea n : Nat) (signed : Bool) (d : VDst) : Except AFault State :=
  match s.defers c t r, s.spPlace c.group true ea n with
  | true, .ok (.sp g off) =>
    if s.spBad (.sp g off) n || s.netFails c ea then .error (.ecc (BitVec.ofNat 64 ea))
    else .ok (s.later c ⟨t, c.ref.slot, .sp g off, n, signed, d⟩)
  | _, _ => (s.sRead c t r ea n).map fun x => x.2.giveLoad c d n signed t x.1

/-- What a load that has issued reads now. -/
def State.loadNow (s : State) (c : Ctx) (x : Load) : List Byte :=
  match x.target with
  | .phys p => s.view c x.thread p x.n
  | .sp g off => s.spView c x.thread (.sp g off) x.n
  | .reg g wix t n i => s.spView c x.thread (.reg g wix t n i) x.n

/-- A load that has issued is performed. -/
def State.performLoad (s : State) (g wix : Nat) (x : Load) : State :=
  match s.ctxAt ⟨g, wix, x.slot⟩ with
  | none => s
  | some c =>
    (s.giveLoad c x.dst x.n x.signed x.thread (s.loadNow c x)).modWave g wix fun w => { w with loads := w.loads.erase x }

/-- Those loads of a wave that a condition picks are performed, in the order of their issue. -/
def State.performLoads (s : State) (g wix : Nat) (pick : Load → Bool) : State :=
  match s.wave? g wix with
  | none => s
  | some w => (w.loads.filter pick).foldl (fun (t : State) x => t.performLoad g wix x) s

/-- Every load and store of every wave performed for every agent (R351, R371). -/
def State.performEvery (s : State) : State :=
  ((s.groups.flatMap fun g => g.waves.map fun w => (g.id, w.wix)).foldl
    (fun (t : State) x => t.performLoads x.1 x.2 fun _ => true) s).drainEvery

/-- The loads of a path that read later are performed. -/
def State.settleLoads (s : State) (r : PathRef) : State := s.performLoads r.group r.wix fun x => x.slot == r.slot

/-- The loads of thread `t` come before its write of `n` bytes at a place that one of them reads (R140). -/
def State.loadsFirst (s : State) (c : Ctx) (t : Nat) (place : Option Target) (n : Nat) : State :=
  match place, s.wave? c.ref.group c.ref.wix with
  | some p, some w =>
    let h : Held := ⟨t, p, List.replicate n 0, 0⟩
    if w.loads.any fun x => x.thread == t && h.meets ⟨t, x.target, List.replicate x.n 0, 0⟩ then
      s.performLoads c.ref.group c.ref.wix fun x => x.thread == t
    else s
  | _, _ => s

/-! ### Checks at issue (R159) -/

/-- The threads of a list whose address is not aligned. -/
def misaligned (ea : Nat → Nat) (n : Nat) (ts : List Nat) : List Nat := ts.filter fun t => ea t % n != 0

/-- A trap for the threads that fail a check, naming the lowest one's address. -/
def failTrap (cause : Cause) (ea : Nat → Nat) : List Nat → Option Trap
  | [] => none
  | t :: ts => some { cause := cause, mask := maskOf (t :: ts), addr := BitVec.ofNat 64 (ea t) }

/-- The check of global words: ALIGN (R159). -/
def alignTrap (ea : Nat → Nat) (align : Nat) (ts : List Nat) : Option Trap := failTrap .align ea (misaligned ea align ts)

/-- The threads whose cluster address fails in one way. -/
def State.spFails (s : State) (c : Ctx) (apert : Bool) (ea : Nat → Nat) (n : Nat) (e : SpErr) (ts : List Nat) : List Nat :=
  ts.filter fun t => match s.spPlace c.group apert (ea t) n with
    | .error x => x == e
    | .ok _ => false

/-- The checks of scratchpad-class words, in order: ALIGN, PERM, SPBOUND (R159). -/
def State.spTrap (s : State) (c : Ctx) (apert : Bool) (ea : Nat → Nat) (n align : Nat) (ts : List Nat) : Option Trap :=
  alignTrap ea align ts
  <|> failTrap .perm ea (s.spFails c apert ea n .perm ts)
  <|> failTrap .spbound ea (s.spFails c apert ea n .bound ts)

/-- The entries of a word fit in the commit buffer, or the quantum ends first (R233, R234). -/
def Ctx.fits (c : Ctx) (n : Nat) : Bool := !c.launch.repro || decide (c.wave.cbuf.length + n ≤ 512) || c.wave.cbuf.isEmpty

/-- The word issues again later, as if it had not begun. -/
def State.retry (s : State) (c : Ctx) : State := s.modPath c.ref fun p => { p with pc := p.start, seq := Seq.empty }

/-- The quantum of the issuing wave ends; the word issues again after the commit (R233). -/
def State.endQuantum (s : State) (c : Ctx) : State :=
  s.modWave c.ref.group c.ref.wix fun w =>
    ({ w with qended := true }).modPath c.ref.slot fun p => { p with pc := p.start, seq := Seq.empty }

end Sys2Proof.Machine
end

