-- ==== Sys2Proof/Machine/Memory.lean ====
section
/-! DEFINITION. Loads, stores, tile rows, atomics and fences (R158 to R166). -/

namespace Sys2Proof.Machine

/-! ### Addresses (R159) -/

/-- The cluster address of thread `t`. -/
def Ctx.eaS (c : Ctx) (b : VOp) (off t : Nat) : Nat := (c.v32 t b + BitVec.ofNat 32 off).toNat
/-- The global address of thread `t`. -/
def Ctx.eaG (c : Ctx) (b : VOp) (off t : Nat) : Nat := (c.v64 t b + BitVec.ofNat 64 off).toNat

/-! ### Loads and stores (R161) -/

/-- The threads `ts` load each: an acquire marked `.dev.rm` promotes first (R225). -/
def State.loadAll (s : State) (c : Ctx) (sc : Scope) (r : Order) (f : State → Nat → Except AFault State) : State :=
  (s.promote sc r).accessAll c c.perf (fun _ => none) f

/-- A scratchpad load of `n` bytes per thread. Where a thread reads, through the register aperture, a register that a lower
thread of the same word has just loaded, it reads the new value (log 72). -/
def loadS (s : State) (d : VDst) (b : VOp) (o : BitVec 6) (sc : Scope) (r : Order) (n : Nat) (signed : Bool) : Out :=
  issue s fun c =>
    let ea := c.eaS b (n * o.toNat)
    s.unless c (c.srcTrap c.perf [⟨b, false⟩] <|> s.spTrap c true ea n n c.perf)
      (s.loadAll c sc r fun s t => s.sLoadTo c t r (ea t) n signed d)

/-- A global load of `n` bytes per thread. -/
def loadG (s : State) (d : VDst) (b : VOp) (o : BitVec 6) (sc : Scope) (r : Order) (n : Nat) (signed : Bool) : Out :=
  issue s fun c =>
    let ea := c.eaG b (n * o.toNat)
    s.unless c (c.srcTrap c.perf [⟨b, true⟩] <|> alignTrap ea n c.perf)
      (s.loadAll c sc r fun s t => s.gLoadTo c t r (ea t) n signed d)

/-- The place that thread `t` writes in global memory, if its address translates. -/
def State.globalLoc (s : State) (c : Ctx) (k : Access) (ea : Nat → Nat) (n t : Nat) : Option Target :=
  match s.reach c k (ea t) n with
  | .ok p => some (.phys p)
  | .error _ => none

/-- The place that thread `t` writes at a cluster address. -/
def State.spLoc (s : State) (c : Ctx) (apert : Bool) (ea : Nat → Nat) (n t : Nat) : Option Target :=
  match s.spPlace c.group apert (ea t) n with
  | .ok (.sp g off) => some (.sp g off)
  | .ok (.reg g x u r i) => some (.reg g x u r i)
  | .error _ => none

/-- The low `n` bytes of a source in thread `t`. -/
def Ctx.dataBytes (c : Ctx) (d : VOp) (n t : Nat) : List Byte :=
  leBytes n (if n = 8 then (c.v64 t d).toNat else (c.v32 t d).toNat)

/-- A scratchpad store of `n` bytes per thread. -/
def storeS (s : State) (d b : VOp) (o : BitVec 6) (n : Nat) (sc : Scope) (r : Order) : Out :=
  issue s fun c =>
    let ea := c.eaS b (n * o.toNat)
    s.unless c (c.srcTrap c.perf [⟨b, false⟩, ⟨d, n == 8⟩] <|> s.spTrap c true ea n n c.perf)
      (s.accessAll c c.perf (s.spLoc c true ea n) fun s t =>
        (s.loadsFirst c t (s.spLoc c true ea n t) n).sStore c t (ea t) (c.dataBytes d n t) sc r)

/-- A global store of `n` bytes per thread. In a reproducible launch its entries must fit in the buffer (R233). -/
def storeG (s : State) (d b : VOp) (o : BitVec 6) (n : Nat) (sc : Scope) (r : Order) : Out :=
  issue s fun c =>
    let ea := c.eaG b (n * o.toNat)
    s.unless c (c.srcTrap c.perf [⟨b, true⟩, ⟨d, n == 8⟩] <|> alignTrap ea n c.perf)
      (if c.fits c.perf.length then
        s.accessAll c c.perf (s.globalLoc c .store ea n) fun s t =>
          (s.loadsFirst c t (s.globalLoc c .store ea n t) n).gStore c t (ea t) (c.dataBytes d n t) sc r
       else s.endQuantum c)

/-- `ld.s.u8` (R161). -/
def execLdSU8 (d : VDst) (b : VOp) (o : BitVec 6) (sc : Scope) (r : Order) (s : State) : Out := loadS s d b o sc r 1 false

/-- `ld.g.u8` (R161). -/
def execLdGU8 (d : VDst) (b : VOp) (o : BitVec 6) (sc : Scope) (r : Order) (s : State) : Out := loadG s d b o sc r 1 false

/-- `ld.s.i8` (R161). -/
def execLdSI8 (d : VDst) (b : VOp) (o : BitVec 6) (sc : Scope) (r : Order) (s : State) : Out := loadS s d b o sc r 1 true

/-- `ld.g.i8` (R161). -/
def execLdGI8 (d : VDst) (b : VOp) (o : BitVec 6) (sc : Scope) (r : Order) (s : State) : Out := loadG s d b o sc r 1 true

/-- `ld.s.u16` (R161). -/
def execLdSU16 (d : VDst) (b : VOp) (o : BitVec 6) (sc : Scope) (r : Order) (s : State) : Out := loadS s d b o sc r 2 false

/-- `ld.g.u16` (R161). -/
def execLdGU16 (d : VDst) (b : VOp) (o : BitVec 6) (sc : Scope) (r : Order) (s : State) : Out := loadG s d b o sc r 2 false

/-- `ld.s.i16` (R161). -/
def execLdSI16 (d : VDst) (b : VOp) (o : BitVec 6) (sc : Scope) (r : Order) (s : State) : Out := loadS s d b o sc r 2 true

/-- `ld.g.i16` (R161). -/
def execLdGI16 (d : VDst) (b : VOp) (o : BitVec 6) (sc : Scope) (r : Order) (s : State) : Out := loadG s d b o sc r 2 true

/-- `ld.s` (R161). -/
def execLdS (d : VDst) (b : VOp) (o : BitVec 6) (sc : Scope) (r : Order) (s : State) : Out := loadS s d b o sc r 4 false

/-- `ld.g` (R161). -/
def execLdG (d : VDst) (b : VOp) (o : BitVec 6) (sc : Scope) (r : Order) (s : State) : Out := loadG s d b o sc r 4 false

/-- `ld.s.b64` (R161). -/
def execLdSB64 (d : VDst) (b : VOp) (o : BitVec 6) (sc : Scope) (r : Order) (s : State) : Out := loadS s d b o sc r 8 false

/-- `ld.g.b64` (R161). -/
def execLdGB64 (d : VDst) (b : VOp) (o : BitVec 6) (sc : Scope) (r : Order) (s : State) : Out := loadG s d b o sc r 8 false

/-- `st.s.b8` (R161). -/
def execStSB8 (d b : VOp) (o : BitVec 6) (sc : Scope) (r : Order) (s : State) : Out := storeS s d b o 1 sc r

/-- `st.g.b8` (R161). -/
def execStGB8 (d b : VOp) (o : BitVec 6) (sc : Scope) (r : Order) (s : State) : Out := storeG s d b o 1 sc r

/-- `st.s.b16` (R161). -/
def execStSB16 (d b : VOp) (o : BitVec 6) (sc : Scope) (r : Order) (s : State) : Out := storeS s d b o 2 sc r

/-- `st.g.b16` (R161). -/
def execStGB16 (d b : VOp) (o : BitVec 6) (sc : Scope) (r : Order) (s : State) : Out := storeG s d b o 2 sc r

/-- `st.s` (R161). -/
def execStS (d b : VOp) (o : BitVec 6) (sc : Scope) (r : Order) (s : State) : Out := storeS s d b o 4 sc r

/-- `st.g` (R161). -/
def execStG (d b : VOp) (o : BitVec 6) (sc : Scope) (r : Order) (s : State) : Out := storeG s d b o 4 sc r

/-- `st.s.b64` (R161). -/
def execStSB64 (d b : VOp) (o : BitVec 6) (sc : Scope) (r : Order) (s : State) : Out := storeS s d b o 8 sc r

/-- `st.g.b64` (R161). -/
def execStGB64 (d b : VOp) (o : BitVec 6) (sc : Scope) (r : Order) (s : State) : Out := storeG s d b o 8 sc r

/-! ### Tile rows (R162) -/

/-- A thread put in its place by address, behind those of the same address. -/
def insertBy (ea : Nat → Nat) (t : Nat) : List Nat → List Nat
  | [] => [t]
  | u :: us => if ea t < ea u then t :: u :: us else u :: insertBy ea t us

/-- The threads in the order of their sectors. -/
def sortBy (ea : Nat → Nat) (ts : List Nat) : List Nat := ts.foldl (fun acc t => insertBy ea t acc) []

/-- The sectors performed in order, up to one whose thread faults or waits: that thread and every later one is left. -/
def State.rows (s : State) (c : Ctx) (f : State → Nat → Except AFault State) :
    List Nat → State × Option (Option AFault × List Nat)
  | [] => (s, none)
  | t :: ts =>
    if s.mustWait c t then (s, some (none, t :: ts))
    else
      match s.tryThread c t f with
      | .ok s1 => s1.rows c f ts
      | .error a => (s, some (some a, t :: ts))

/-- A tile row word once its checks have passed; `ts` are its threads in the order of their sectors, and `k` is what those
that are finished do last. -/
def State.rowsAll (s : State) (c : Ctx) (ts : List Nat) (f : State → Nat → Except AFault State)
    (k : State → List Nat → State) : State :=
  let rest (un : List Nat) : List Nat := c.perf.filter fun t => !un.contains t
  match s.rows c f ts with
  | (s1, none) => (k s1 c.perf).complete c c.perf
  | (s1, some (none, un)) => (k s1 (rest un)).goOnLater c [] (rest un) un
  | (s1, some (some a, un)) => (k s1 (rest un)).partialTrap c [(un.headD 0, a)] un

/-- The eight registers of a sector. -/
def Ctx.rowBytes (c : Ctx) (d : VDst) (t : Nat) : List Byte :=
  (List.range 8).flatMap fun i => leBytes 4 (c.v32 t (srcOf (upReg i d))).toNat

def rowSrcs (d : VDst) : List Src := (List.range 8).map fun i => ⟨srcOf (upReg i d), false⟩

/-- The registers of one thread written from a sector, and its first 64 bits pushed. -/
def State.giveRow (s : State) (c : Ctx) (d : VDst) (t : Nat) (bs : List Byte) : State :=
  s.modWave c.ref.group c.ref.wix fun w =>
    (((List.range 8).foldl (fun w i => w.putV c.path.priv (upReg i d) t (BitVec.ofNat 32 (leNat ((bs.drop (4 * i)).take 4))))
      w).modPath c.ref.slot fun p => p.push t (BitVec.ofNat 64 (leNat (bs.take 8)))).mendLatches [t]

/-- `ldt.g` (R162). -/
def execLdtG (d : VDst) (b : VOp) (o : BitVec 6) (sc : Scope) (r : Order) (s : State) : Out :=
  issue s fun c =>
    let ea := c.eaG b (32 * o.toNat)
    s.unless c (c.srcTrap c.perf [⟨b, true⟩] <|> alignTrap ea 32 c.perf)
      ((s.promote sc r).rowsAll c (sortBy ea c.perf) (fun s t => (s.gLoad c t (ea t) 32).map fun r => r.2.giveRow c d t r.1)
        fun s _ => s)

/-- The sectors of these threads put into the commit buffer. -/
def State.bufferRows (s : State) (c : Ctx) (ea : Nat → Nat) (row : Nat → List Byte) : List Nat → State
  | [] => s
  | t :: ts =>
    (match s.reach c .store (ea t) 32 with
     | .ok p => s.buffer c (.store p (row t))
     | .error _ => s).bufferRows c ea row ts

/-- `stt.g` (R162). In a reproducible launch the sectors before one that faults enter the buffer, by ascending `ix` (R232),
and all of its threads go together. -/
def execSttG (d : VDst) (b : VOp) (o : BitVec 6) (sc : Scope) (r : Order) (s : State) : Out :=
  issue s fun c =>
    let ea := c.eaG b (32 * o.toNat)
    s.unless c (c.srcTrap c.perf (⟨b, true⟩ :: rowSrcs d) <|> alignTrap ea 32 c.perf)
      (if c.fits c.perf.length then
        if c.launch.repro then
          if c.perf.any (s.mustWait c) then s.goOnLater c [] [] c.perf
          else
            s.rowsAll c (sortBy ea c.perf)
              (fun s t => (s.reach c .store (ea t) 32).map fun _ => s.touch c.ref.group (ea t) 32)
              fun s ts => s.bufferRows c ea (c.rowBytes d) ts
        else s.rowsAll c (sortBy ea c.perf) (fun s t =>
            (s.loadsFirst c t (s.globalLoc c .store ea 32 t) 32).gStore c t (ea t) (c.rowBytes d t) sc r) fun s _ => s
       else s.endQuantum c)

/-- `ldt.s` (R162). -/
def execLdtS (d : VDst) (b : VOp) (o : BitVec 6) (sc : Scope) (r : Order) (s : State) : Out :=
  issue s fun c =>
    let ea := c.eaS b (32 * o.toNat)
    s.unless c (c.srcTrap c.perf [⟨b, false⟩] <|> s.spTrap c false ea 32 32 c.perf)
      ((s.promote sc r).rowsAll c (sortBy ea c.perf) (fun s t => (s.sLoad c t (ea t) 32).map fun bs => s.giveRow c d t bs)
        fun s _ => s)

/-- `stt.s` (R162). -/
def execSttS (d : VDst) (b : VOp) (o : BitVec 6) (sc : Scope) (r : Order) (s : State) : Out :=
  issue s fun c =>
    let ea := c.eaS b (32 * o.toNat)
    s.unless c (c.srcTrap c.perf (⟨b, false⟩ :: rowSrcs d) <|> s.spTrap c false ea 32 32 c.perf)
      (s.rowsAll c (sortBy ea c.perf) (fun s t =>
        (s.loadsFirst c t (s.spLoc c false ea 32 t) 32).sStore c t (ea t) (c.rowBytes d t) sc r) fun s _ => s)

/-! ### Atomics (R163 to R165) -/

/-- An atomic by thread `t` on scratchpad: the old value and what follows. -/
def State.sAtom (s : State) (c : Ctx) (t ea : Nat) (wide : Bool) (op : AtomOp) (a b : DWord) (sc : Scope) (r : Order) :
    Except AFault (DWord × State) :=
  let n := if wide then 8 else 4
  match s.spPlace c.group false ea n with
  | .error _ => .ok (0, s)
  | .ok p =>
    if s.spBad p n || s.netFails c ea then .error (.ecc (BitVec.ofNat 64 ea))
    else
      let hs (bs : List Byte) : List Held := p.stores t (scopeLevel sc) bs
      let s1 := (hs (List.replicate n 0)).foldl (fun u h => u.atomFirst c h (spLevel sc) sc r) s
      let old := BitVec.ofNat 64 (leNat (s1.spView c t p n))
      .ok (old, (hs (leBytes n (atomNew wide op old a b).toNat)).foldl (fun u h => u.land c h) s1)

/-- The operands of an atomic in thread `t`: the value, or compare and new value (R163). -/
def Ctx.atomArgs (c : Ctx) (d : VDst) (wide : Bool) (t : Nat) : DWord × DWord :=
  if wide then (c.v64 t (srcOf d), c.v64 t (srcOf (upReg 2 d)))
  else ((c.v32 t (srcOf d)).setWidth 64, (c.v32 t (srcOf (upReg 1 d))).setWidth 64)

/-- What an atomic reads in registers. -/
def atomSrcs (d : VDst) (wide : Bool) (op : AtomOp) : List Src :=
  ⟨srcOf d, wide⟩ :: (if op = .cas then [⟨srcOf (upReg (if wide then 2 else 1) d), wide⟩] else [])

/-- The old value given to one thread. -/
def State.giveOld (s : State) (c : Ctx) (d : VDst) (wide : Bool) (t : Nat) (old : DWord) : State :=
  if wide then s.give64 c d t old else s.give1 c d t (old.setWidth 32)

/-- A scratchpad atomic per thread, in ascending threads. -/
def atomicS (s : State) (d : VDst) (b : VOp) (op : AtomOp) (wide : Bool) (sc : Scope) (r : Order) : Out :=
  issue s fun c =>
    let ea := c.eaS b 0
    let n := if wide then 8 else 4
    s.unless c (c.srcTrap c.perf (⟨b, false⟩ :: atomSrcs d wide op) <|> s.spTrap c false ea n n c.perf)
      (s.accessAll c c.perf (s.spLoc c false ea n) fun s t =>
        (s.sAtom c t (ea t) wide op (c.atomArgs d wide t).1 (c.atomArgs d wide t).2 sc r).map fun x =>
          x.2.giveOld c d wide t x.1)

/-- A global atomic per thread, in ascending threads. -/
def atomicG (s : State) (d : VDst) (b : VOp) (op : AtomOp) (wide : Bool) (sc : Scope) (r : Order) : Out :=
  issue s fun c =>
    let ea := c.eaG b 0
    s.unless c (c.srcTrap c.perf (⟨b, true⟩ :: atomSrcs d wide op) <|> alignTrap ea (if wide then 8 else 4) c.perf)
      (if c.fits c.perf.length then
        s.accessAll c c.perf (s.globalLoc c .atomic ea (if wide then 8 else 4)) fun s t =>
          (s.gAtom c t (ea t) wide op (c.atomArgs d wide t).1 (c.atomArgs d wide t).2 sc r).map fun x =>
            x.2.giveOld c d wide t x.1
       else s.endQuantum c)

/-- `atom.s` (R163 to R165). -/
def execAtomS (d : VDst) (b : VOp) (o : AtomOp) (sc : Scope) (r : Order) (s : State) : Out := atomicS s d b o false sc r

/-- `atom.s.b64` (R163 to R165). -/
def execAtomSB64 (d : VDst) (b : VOp) (o : AtomOp) (sc : Scope) (r : Order) (s : State) : Out := atomicS s d b o true sc r

/-- `atom.g` (R163 to R165). -/
def execAtomG (d : VDst) (b : VOp) (o : AtomOp) (sc : Scope) (r : Order) (s : State) : Out := atomicG s d b o false sc r

/-- `atom.g.b64` (R163 to R165). -/
def execAtomGB64 (d : VDst) (b : VOp) (o : AtomOp) (sc : Scope) (r : Order) (s : State) : Out := atomicG s d b o true sc r

/-- `fence` (R166): a release half makes the stores before it visible at its scope, a marked acquire half promotes (R221,
R225). -/
def execFence (sc : Scope) (r : Order) (s : State) : Out :=
  issue s fun c => ((s.orderFirst c (scopeLevel sc) r).promote sc r).complete c c.perf

end Sys2Proof.Machine
end

