-- ==== Sys2Proof/Machine/Sync.lean ====
section
/-! DEFINITION. Sync words, WAITA, tile state words, the register pool and the barriers (R149 to R157, R167 to R172, R203,
R204, R320). -/

namespace Sys2Proof.Machine

/-! ### Waits -/

/-- A wait begins: the word stays at the path, and the quantum of a reproducible launch ends (R233). -/
def State.startWait (s : State) (c : Ctx) (w : Wait) : State :=
  s.modWave c.ref.group c.ref.wix fun x =>
    ({ x with qended := x.qended || c.launch.repro }).modPath c.ref.slot fun p => { p with wait := w, since := s.ns.toNat }

/-- The time from `since` on is longer than the wait limit (R156). -/
def State.overLimit (s : State) (c : Ctx) (since : Nat) : Bool :=
  decide (c.launch.waitlim ≠ 0) && decide (1000 * c.launch.waitlim < s.ns.toNat - since)

/-- TIMEOUT of a path that has waited since a time (R156): the record holds the elapsed µs. A claim is withdrawn. -/
def State.timeout (s : State) (c : Ctx) (since : Nat) : State :=
  (s.modGroup c.ref.group fun g => { g with claims := g.claims.filter fun r => r != c.ref }).takeTrap c
    { cause := .timeout, addr := BitVec.ofNat 64 ((s.ns.toNat - since) / 1000) }

/-! ### Sync words (R167 to R170) -/

/-- `sinit` (R169). -/
def execSinit (a b : VOp) (s : State) : Out :=
  issue s fun c =>
    let ea := c.eaS a 0
    s.unless c (c.srcTrap c.perf [⟨a, false⟩, ⟨b, false⟩] <|> s.spTrap c false ea 16 16 c.perf)
      (s.accessAll c c.perf (s.spLoc c false ea 16) fun s t =>
        match s.spPlace c.group false (ea t) 16 with
        | .ok p =>
          if s.netFails c (ea t) then .error (.ecc (BitVec.ofNat 64 (ea t)))
          else .ok ((s.drain c.ref.group c.ref.wix).spWrite p (leBytes 4 (c.v32 t b).toNat ++ leBytes 12 0))
        | .error _ => .ok s)

/-- `GEN` of the sync word at an address; an uncorrectable unit is an error (R146). -/
def State.genAt (s : State) (c : Ctx) (t ea : Nat) : Except AFault Word :=
  (s.sLoad c t (ea + 8) 4).map fun bs => BitVec.ofNat 32 (leNat bs)

/-- ok(t) of R170. -/
def genOk (gen target : Word) : Bool := decide (1 ≤ (gen - target).toNat) && decide ((gen - target).toNat ≤ 2 ^ 31 - 1)

/-- When a run of `twait` on an address began (R156). -/
def Path.runSince (p : Path) (ea : Word) (since : Nat) : Nat :=
  match p.run with
  | some (a, st) => if a = ea then st else since
  | none => since

/-- A `twait` looked at: it ends when every thread's generation has come, or when its bound has passed (`ended`); a thread
that meets an uncorrectable unit is then unfinished. A run of false results longer than the wait limit traps. -/
def State.pollTwait (s : State) (c : Ctx) (d : Fin 8) (targets : List (Nat × Word × Word)) (since : Nat) (ended : Bool) :
    State :=
  let look := targets.map fun x => (x.1, (s.genAt c x.1 x.2.1.toNat).map fun g => genOk g x.2.2)
  let bad := look.filterMap fun x => match x.2 with | .error f => some (x.1, f) | .ok _ => none
  let good := look.filterMap fun x => match x.2 with | .error _ => none | .ok b => some (x.1, b)
  let all := good.all fun x => x.2
  let ea : Word := ((targets.head?).map fun x => x.2.1).getD 0
  let start := c.path.runSince ea since
  if !(all || ended) then s.modPath c.ref fun p => { p with wait := .twait d targets since, since := start }
  else if !all && s.overLimit c start then s.timeout c start
  else
    let s1 := (s.modWave c.ref.group c.ref.wix fun w => w.putPs d good).modPath c.ref fun p =>
      { p with run := if all then none else some (ea, start) }
    if bad = [] then s1.complete c (targets.map Prod.fst) else s1.partialTrap c bad (bad.map Prod.fst)

/-- `twait` (R170, R172). -/
def execTwait (d : Fin 8) (a b : VOp) (s : State) : Out :=
  issue s fun c =>
    match c.path.wait with
    | .twait d' targets since => s.pollTwait c d' targets since false
    | _ =>
      let ea := c.eaS a 0
      let targets := c.perf.map fun t => (t, c.v32 t a, c.v32 t b)
      s.unless c (c.srcTrap c.perf [⟨a, false⟩, ⟨b, false⟩] <|> s.spTrap c false ea 16 16 c.perf)
        (if c.launch.repro && !targets.isEmpty then s.startWait c (.twait d targets s.ns.toNat)
         else s.pollTwait c d targets s.ns.toNat false)

/-! ### WAITA (R171, R172) -/

/-- One pass of reads over the threads that have not yet seen a change: what was read, the faults, and the state after. -/
def State.waitaPass (s : State) (c : Ctx) (got : List (Nat × DWord)) :
    List (Nat × DWord × DWord) → State × List (Nat × DWord) × List (Nat × AFault)
  | [] => (s, got, [])
  | (t, va, v) :: r =>
    if (got.any fun x => x.1 == t) || s.mustWait c t then s.waitaPass c got r
    else
      match s.tryThread c t fun s t => s.gLoad c t va.toNat 8 with
      | .error f => let (s1, g, fs) := s.waitaPass c got r; (s1, g, (t, f) :: fs)
      | .ok (bs, s1) =>
        let x := BitVec.ofNat 64 (leNat bs)
        s1.waitaPass c (if x = v then got else got ++ [(t, x)]) r

/-- The values read, given to their threads. -/
def State.giveAll64 (s : State) (c : Ctx) (d : VDst) : List (Nat × DWord) → State
  | [] => s
  | (t, v) :: r => (s.give64 c d t v).giveAll64 c d r

/-- The watched words read again: the word completes when every thread has seen a change, and traps at once when a read
faults. A marked acquire promotes before every read (R225). -/
def State.pollWaita (s : State) (c : Ctx) (d : VDst) (watch : List (Nat × DWord × DWord)) (got : List (Nat × DWord))
    (sc : Scope) (r : Order) : State :=
  match (s.promote sc r).waitaPass c got watch with
  | (s1, g, []) =>
    if watch.all fun x => g.any fun y => y.1 == x.1 then (s1.giveAll64 c d g).complete c (watch.map Prod.fst)
    else s1.modPath c.ref fun p => { p with wait := .waita d watch g sc r }
  | (s1, g, fs) =>
    (s1.giveAll64 c d g).partialTrap c fs ((watch.map Prod.fst).filter fun t => !(g.any fun y => y.1 == t))

/-- `waita` (R171). -/
def execWaita (d : VDst) (b : VOp) (o : BitVec 6) (sc : Scope) (r : Order) (s : State) : Out :=
  issue s fun c =>
    match c.path.wait with
    | .waita d' watch got sc' r' => s.pollWaita c d' watch got sc' r'
    | _ =>
      let ea := c.eaG b (8 * o.toNat)
      let watch := c.perf.map fun t => (t, BitVec.ofNat 64 (ea t), c.v64 t (srcOf d))
      s.unless c (c.srcTrap c.perf [⟨b, true⟩, ⟨srcOf d, true⟩] <|> alignTrap ea 8 c.perf)
        (if c.launch.repro then s.startWait c (.waita d watch [] sc r)
         else (s.modPath c.ref fun p => { p with since := s.ns.toNat }).pollWaita c d watch [] sc r)

/-! ### Tile state words (R320) -/

/-- The word after `tmark.full` or `tmark.empty`; reserved bits stay. -/
def tileFull (v : DWord) : DWord := v ||| 1
def tileEmptied (v : DWord) : DWord :=
  if v.getLsbD 0 then (v.extractLsb' 32 32 + 1) ++ ((v.setWidth 32 : Word) &&& ~~~(1 : Word)) else v

/-- A change of a tile state word by thread `t`: performed at once, or at the commit of a reproducible launch (R232). Host
and peer memory exclude it, as every atomic but three (R164, R393; log 86). -/
def State.tileChange (s : State) (c : Ctx) (va : Nat) (f : DWord → DWord) (e : Phys → DWord → CEntry) (t : Nat) :
    Except AFault State :=
  (s.reach c .atomic va 8).bind fun p =>
    if p.space != .dev then .error (.excluded (s.permFault c.group.die c.launch.ctx va) (BitVec.ofNat 64 va))
    else if s.physBad p 8 then .error (.ecc (BitVec.ofNat 64 va))
    else
      let s1 := (s.touch c.ref.group va 8).drain c.ref.group c.ref.wix
      let v := f (BitVec.ofNat 64 (leNat (s1.view c t p 8)))
      .ok (if c.launch.repro then s1.buffer c (e p v) else s1.physWrite p (leBytes 8 v.toNat))

/-- `tmark.full` and `tmark.empty`. -/
def tmark (s : State) (a : VOp) (f : DWord → DWord) (e : Phys → DWord → CEntry) : Out :=
  issue s fun c =>
    let ea := c.eaG a 0
    s.unless c (c.srcTrap c.perf [⟨a, true⟩] <|> alignTrap ea 8 c.perf)
      (if c.fits c.perf.length then s.accessAll c c.perf (s.globalLoc c .atomic ea 8) fun s t => s.tileChange c (ea t) f e t
       else s.endQuantum c)

/-- `tmark.full` (R320). -/
def execTmarkFull (a : VOp) (s : State) : Out := tmark s a tileFull .full
/-- `tmark.empty` (R320). -/
def execTmarkEmpty (a : VOp) (s : State) : Out := tmark s a tileEmptied .emptied

/-- `ttest` (R320): no latch push. -/
def execTtest (d : Fin 8) (a : VOp) (s : State) : Out :=
  issue s fun c =>
    let ea := c.eaG a 0
    s.unless c (c.srcTrap c.perf [⟨a, true⟩] <|> alignTrap ea 8 c.perf)
      (s.accessAll c c.perf (fun _ => none) fun s t => (s.gLoad c t (ea t) 8).map fun r =>
        r.2.modWave c.ref.group c.ref.wix fun w => w.putP d t ((leNat r.1).testBit 0))

/-! ### The register pool (R149 to R151) -/

/-- Physical registers `lo` to `hi − 1` of every thread discarded. -/
def Wave.dropRegs (w : Wave) (lo hi : Nat) : Wave :=
  { w with
    w := w.w.filter fun x => !(decide (lo ≤ x.1 % 2048) && decide (x.1 % 2048 < hi))
    bad := w.bad.filter fun u => !(u.1 == 0 && decide (lo ≤ u.2.1) && decide (u.2.1 < hi)) }

/-- Threads whose window lies in the registers to be given back (R150). -/
def Ctx.giveFails (c : Ctx) (n : Nat) : List Nat :=
  (List.range c.wave.threads).filter fun t =>
    decide ((c.wave.sb.get t).toNat + c.wave.seg - n < (c.wave.wb.get t).toNat + 96)

/-- The trap of a count that does not fit: the record holds it. -/
def countTrap (n : Nat) : Trap := { cause := .illegal, sub := 9, addr := BitVec.ofNat 64 n }

/-- The trap of an uncorrectable count operand (R62). -/
def Ctx.cTrap (c : Ctx) : COp → Option Trap
  | .s k => c.sTrap [(.s (Fin.castLE (by decide) k), false)]
  | .z => none
  | .imm => none

/-- `give` (R150): at once, though a claim of the wave's other path waits (log 96). -/
def execGive (a : COp) (s : State) : Out :=
  atP0 s fun c =>
    let n := (c.cnt a).toNat
    s.unless c (c.cTrap a
        <|> (if n % 32 ≠ 0 ∨ c.wave.seg - 96 < n then some (countTrap n) else none)
        <|> (if c.giveFails n = [] then none
             else some { cause := .wovf, mask := maskOf (c.giveFails n), give := true }))
      ((s.modGroup c.ref.group fun g =>
        { g.modWave c.ref.wix fun w => { w.dropRegs (w.seg - n) w.seg with seg := w.seg - n } with
          pool := g.pool + n / 32 }).complete c c.perf)

/-- A claim granted: the pool is lowered, the segment grows, the new registers read 0 (R151). -/
def State.grant (s : State) (c : Ctx) (n : Nat) : State :=
  (s.modGroup c.ref.group fun g =>
    { g.modWave c.ref.wix fun w => { w.dropRegs w.seg (w.seg + n) with seg := w.seg + n } with
      pool := g.pool - n / 32, claims := g.claims.filter fun r => r != c.ref }).complete c c.perf

/-- The segment would pass its limit (R151). -/
def Ctx.claimFails (c : Ctx) (n : Nat) : Bool := decide (n % 32 ≠ 0) || decide (min 2048 c.launch.d < c.wave.seg + n)

/-- `claim` (R151): granted at once when the pool has the blocks and no earlier claim waits. -/
def execClaim (a : COp) (s : State) : Out :=
  atP0 s fun c =>
    let n := (c.cnt a).toNat
    s.unless c (c.cTrap a <|> if c.claimFails n then some (countTrap n) else none)
      (if c.launch.repro = false ∧ c.group.claims = [] ∧ n / 32 ≤ c.group.pool then s.grant c n
       else (s.startWait c (.claim (n / 32))).modGroup c.ref.group fun g => { g with claims := g.claims ++ [c.ref] })

/-- The claim that has waited longest, granted when the pool has its blocks; one that no longer fits the segment, which
the other path may have enlarged meanwhile, traps as at its issue (R151). -/
def State.serveClaim (s : State) (g : Nat) : State :=
  match (s.group? g).bind fun x => x.claims.head? with
  | none => s
  | some r =>
    match s.ctxAt r with
    | none => s.modGroup g fun x => { x with claims := x.claims.tail }
    | some c =>
      match c.path.wait with
      | .claim k =>
        if c.group.pool < k ∨ c.wave.qended then s
        else if c.claimFails (32 * k) then
          (s.modGroup g fun x => { x with claims := x.claims.tail }).takeTrap c (countTrap (32 * k))
        else s.grant c (32 * k)
      | _ => s.modGroup g fun x => { x with claims := x.claims.tail }

/-! ### Barriers (R152 to R157, R203, R204) -/

/-- A path comes to barrier `b` (R153): what it has stored becomes visible to the group, or to the cluster for the band
barrier (R217, R220); the path waits; a wave of a shed class that has now arrived parks (R157), and a phase that is now
full completes. -/
def State.comeTo (s : State) (c : Ctx) (b : Nat) : State :=
  ((s.release c.ref.group c.ref.wix (if b = bandBar then 2 else 1)).startWait c (.bar b (c.group.phase b))).tidy c.ref.group

/-- `bar` (R153). -/
def execBar (s : State) : Out := atP0 s fun c => s.comeTo c 0

/-- `bar.n` (R152, R157): a number above 8 is ILLEGAL, a wave whose role takes no part traps with RIGHTS. -/
def execBarN (a : COp) (s : State) : Out :=
  atP0 s fun c =>
    let n := (c.cnt a).toNat
    s.unless c (c.cTrap a
        <|> (if 8 < n then some (countTrap n) else none)
        <|> (if n ≠ 0 ∧ c.wave.role + 1 ≠ n then some { cause := .rights, addr := BitVec.ofNat 64 n } else none))
      (s.comeTo c n)

/-- `bbar` (R203, R204). -/
def execBbar (s : State) : Out := atP0 s fun c => s.comeTo c bandBar

end Sys2Proof.Machine
end

