-- ==== Sys2Proof/Machine/Engine.lean ====
section
/-! DEFINITION. What the asynchronous engines share: their accesses to global memory and to cluster addresses, the fault
records they wait on, arrivals at sync words (R168, R226, R241, R250, R253, R256). -/

namespace Sys2Proof.Machine

/-- What an engine works for: a wave with its group and launch. -/
structure Eng where
  group  : Group
  wave   : Wave
  launch : Launch
deriving DecidableEq, Repr

def State.eng (s : State) (w : WaveRef) : Option Eng :=
  (s.group? w.group).bind fun g => (g.wave? w.wix).bind fun v => (s.launch? g.launch).map fun l => ⟨g, v, l⟩

def Eng.ref (e : Eng) : WaveRef := ⟨e.group.id, e.wave.wix⟩

def State.modEng (s : State) (e : Eng) (f : Wave → Wave) : State := s.modWave e.group.id e.wave.wix f

/-- An engine of a wave works, if the wave exists. -/
def onWave (s : State) (w : WaveRef) (k : Eng → State) : Out :=
  .next (match s.eng w with | none => s | some e => k e)

/-! ### Global memory -/

/-- Bytes read by an engine: each sector is translated on its own. -/
def State.engRead (s : State) (e : Eng) (priv : Bool) (va n : Nat) : Except AFault (List Byte) :=
  (sectors va n).foldl (fun r x =>
    match r with
    | .error f => .error f
    | .ok bs =>
      match s.translate e.group.die e.launch.ctx priv .engineRead x.1 x.2 with
      | .error f => .error (.x f .engineRead (BitVec.ofNat 64 x.1))
      | .ok p => if s.physBad p x.2 then .error (.ecc (BitVec.ofNat 64 x.1)) else .ok (bs ++ s.physRead p x.2)) (.ok [])

/-- Bytes written by an engine, sector by sector. -/
def State.engWrite (s : State) (e : Eng) (priv : Bool) (va : Nat) (bs : List Byte) : Except AFault State :=
  (sectors va bs.length).foldl (fun r x =>
    match r with
    | .error f => .error f
    | .ok t =>
      match t.translate e.group.die e.launch.ctx priv .engineWrite x.1 x.2 with
      | .error f => .error (.x f .engineWrite (BitVec.ofNat 64 x.1))
      | .ok p => .ok (t.physWrite p ((bs.drop (x.1 - va)).take x.2))) (.ok s)

/-- The record of an engine's fault, with the issuing thread in its mask (R248); an uncorrectable read has none. -/
def State.engFault (s : State) (e : Eng) (thread : Nat) (f : AFault) : State × Option FaultRef :=
  match f with
  | .x x k va =>
    let (t, r) := s.postFault e.group.die
      ⟨va, e.launch.ctx, k, x, e.group.core, e.wave.wslot, BitVec.twoPow 32 thread, false⟩
    (t, some r)
  | .ecc _ => (s, none)
  | .inCtx _ _ _ _ => (s, none)
  | .excluded _ _ => (s, none)
  | .again _ => (s, none)

/-- The cause that a record's failure gives (R253, R275). -/
def State.failCode (s : State) (f : FaultRef) : Nat :=
  match s.record? f with
  | some r => if r.fault.cause = 2 then 0x07 else 0x06
  | none => 0x06

/-- An operation that the drain of a dump gives up: the dump records it, and that an error arose (R374, R375). -/
def State.noteLost (s : State) (g : Group) (item : List Nat) : State :=
  s.modDie g.die fun x =>
    { x with dumps := x.dumps.map fun d =>
        if d.group == g.id && d.halt.isSome then { d with lost := d.lost ++ [item], second := true } else d }

/-- The lines of ranges of global memory that the engines of a group access (R304). -/
def State.touchAll (s : State) (g : Nat) : List (Nat × Nat) → State
  | [] => s
  | x :: xs => (if x.2 = 0 then s else s.touch g x.1 x.2).touchAll g xs

/-! ### Cluster addresses -/

/-- A core distance names a core of the band whose group has exited (R202). -/
def State.exited (s : State) (g : Group) (k : Nat) : Bool :=
  k != 0 && (s.target g k).isNone
  && s.bands.any fun b => g.band == some b.id && b.cores.contains ((g.lcore + k) % 64)

/-- The bytes of a cluster address as an engine reaches them: a place, or nothing any more: a read then gives 0, and a
write is discarded (R144, R202, R256). -/
def State.engPlace (s : State) (g : Group) (ea n : Nat) : Option SpPlace :=
  match s.target g (ea / 2 ^ 24 % 64) with
  | none => none
  | some x =>
    match s.spPlace x true (ea % 2 ^ 24 + ea / 2 ^ 30 * 2 ^ 30) n with
    | .ok p => some p
    | .error _ => none

def State.engSpRead (s : State) (g : Group) (ea n : Nat) : List Byte :=
  match s.engPlace g ea n with
  | none => List.replicate n 0
  | some p => s.spRead p n

/-- An engine's read meets an uncorrectable unit, or a transfer that fails every retry (R146, R201). -/
def State.engSpBad (s : State) (g : Group) (ea n : Nat) : Bool :=
  match s.engPlace g ea n with
  | none => false
  | some p => s.spBad p n || s.netDown g ea

/-- An engine's write of a word cannot cross the network to a core of the band (R201). -/
def State.engSpDown (s : State) (g : Group) (ea : Nat) : Bool := s.netDown g ea && (s.engPlace g ea 4).isSome

/-- An engine's write; what cannot cross the network changes nothing (R201). -/
def State.engSpWrite (s : State) (g : Group) (ea : Nat) (bs : List Byte) : State :=
  if s.netDown g ea then s
  else
    match s.engPlace g ea bs.length with
    | none => s
    | some p => s.spWrite p bs

/-! ### Stores of a wave before its operations (R227) -/

/-- The stores that a wave holds back of some bytes, and those of its scope instances, are performed: an operation of the wave
that reads or writes the bytes follows them. -/
def State.storesFirst (s : State) (e : Eng) (h : Held) : State :=
  match s.wave? e.group.id e.wave.wix with
  | none => s
  | some w =>
    let s1 := s.performNear fun (y : Near) => y.seenBy e.group e.wave.wix && y.store.meets h
    ((w.held.filter fun x => x.meets h).foldl State.perform s1).modEng e fun w =>
      { w with held := w.held.filter fun x => !x.meets h }

/-- The places of a range of global memory, as far as it translates. -/
def State.globalPlaces (s : State) (e : Eng) (priv : Bool) (k : Access) (va n : Nat) : List Held :=
  (sectors va n).filterMap fun x =>
    match s.translate e.group.die e.launch.ctx priv k x.1 x.2 with
    | .ok p => some ⟨0, .phys p, List.replicate x.2 0, 0⟩
    | .error _ => none

/-- The place of a range of cluster addresses. -/
def State.clusterPlaces (s : State) (e : Eng) (ea n : Nat) : List Held :=
  match s.engPlace e.group ea n with
  | some (.sp g off) => [⟨0, .sp g off, List.replicate n 0, 0⟩]
  | some (.reg g x t r i) => [⟨0, .reg g x t r i, List.replicate n 0, 0⟩]
  | none => []

/-! ### Arrivals (R168) -/

/-- The 16 bytes of a sync word after an arrival of `n` bytes: each full `TOTAL` in `COUNT` completes a generation. -/
def arrive (bs : List Byte) (n : Nat) : List Byte :=
  let total := leNat (bs.take 4)
  let count := (leNat ((bs.drop 4).take 4) + n) % 2 ^ 32
  let gen := leNat ((bs.drop 8).take 4)
  bs.take 4
  ++ (if total = 0 then leBytes 4 count ++ leBytes 4 gen
      else leBytes 4 (count % total) ++ leBytes 4 (gen + count / total))
  ++ bs.drop 12

/-- An arrival at the sync word at a cluster address. -/
def State.arrival (s : State) (g : Group) (ea n : Nat) : State :=
  s.engSpWrite g ea (arrive (s.engSpRead g ea 16) n)

/-! ### Checks of ranges at issue (R252, R396) -/

/-- A scratchpad range that a word checks: aperture allowed, address, length. -/
abbrev Range := Bool × Nat × Nat

/-- The first range that fails in one way. -/
def State.rangeFail (s : State) (c : Ctx) (e : SpErr) (rs : List Range) : Option Nat :=
  (rs.find? fun r => match s.spPlace c.group r.1 r.2.1 r.2.2 with
    | .error x => x == e
    | .ok _ => false).map fun r => r.2.1

/-- The trap of threads that fail a check: `f` gives a failing thread's record item. -/
def failWith (cause : Cause) (sub : Nat) (f : Nat → Option Nat) (ts : List Nat) : Option Trap :=
  match ts.filterMap fun t => (f t).map fun a => (t, a) with
  | [] => none
  | x :: xs => some { cause := cause, sub := sub, mask := maskOf ((x :: xs).map Prod.fst), addr := BitVec.ofNat 64 x.2 }

/-- PERM, then SPBOUND, over the ranges of every thread. -/
def State.rangeTrap (s : State) (c : Ctx) (rs : Nat → List Range) (ts : List Nat) : Option Trap :=
  failWith .perm 0 (fun t => s.rangeFail c .perm (rs t)) ts
  <|> failWith .spbound 0 (fun t => s.rangeFail c .bound (rs t)) ts

/-- What a thread reads at a checked cluster address. -/
def State.spReadAt (s : State) (c : Ctx) (t ea n : Nat) : List Byte :=
  match s.spPlace c.group true ea n with
  | .ok p => s.spView c t p n
  | .error _ => List.replicate n 0

/-- An uncorrectable unit in what the threads read (R146). -/
def State.spEccTrap (s : State) (c : Ctx) (ea : Nat → Nat) (n : Nat) (ts : List Nat) : Option Trap :=
  match ts.filter fun t => match s.spPlace c.group true (ea t) n with
    | .ok p => s.spBad p n || s.netFails c (ea t)
    | .error _ => false with
  | [] => none
  | t :: us => some { cause := .ecc, perf := true, mask := maskOf (t :: us), addr := BitVec.ofNat 64 (ea t) }

/-- The trap of operands on which not all threads agree: its mask holds those that differ from the lowest one in any of them. -/
def agreeTrap (fs : List (Nat → DWord)) : (ts : List Nat) → Option Trap
  | [] => none
  | t :: ts =>
    match ts.filter fun u => fs.any fun f => f u != f t with
    | [] => none
    | u :: us => some { cause := .nunif, mask := maskOf (u :: us) }

end Sys2Proof.Machine
end

