-- ==== Sys2Proof/Machine/Copy.lean ====
section
/-! DEFINITION. Streamer copies and fabric operations: their issue, their batches, and how they are performed
(R251 to R257, R395 to R397). -/

namespace Sys2Proof.Machine

/-! ### Issue (R252) -/

/-- Only the launch's producer role copies (R252): the record holds the role. -/
def Ctx.producerTrap (c : Ctx) : Option Trap :=
  if c.perf ≠ [] ∧ !(c.launch.proden && c.wave.role == c.launch.prodrole) then
    some { cause := .rights, mask := maskOf c.perf, addr := BitVec.ofNat 64 c.wave.role }
  else none

/-- Length and sync operand of a copy in thread `t`. -/
def Ctx.copyLen (c : Ctx) (b : VOp) (t : Nat) : Nat := ((c.v64 t b).extractLsb' 0 32).toNat
def Ctx.copySync (c : Ctx) (b : VOp) (t : Nat) : Option Word :=
  if (c.v64 t b).getLsbD 32 then some (((c.v64 t b).extractLsb' 36 28).setWidth 32 * 16) else none

/-- The cluster address lies in the register aperture. -/
def inAperture (ea : Nat) : Bool := ea / 2 ^ 30 == 1

/-- Ranges of scratchpad that a copy names. -/
def spRanges (sp : Bool) (ea n : Nat) : List Range := if sp && n != 0 then [(true, ea, n)] else []
def syncRanges (sync : Option Word) : List Range := match sync with | none => [] | some y => [(false, y.toNat, 16)]

/-- The sync bits b.hi[3:1], or an aperture range, break the alignment (R252). -/
def Ctx.copyAlign (c : Ctx) (b : VOp) (ranges : Nat → List Range) (t : Nat) : Option Nat :=
  if (c.v64 t b).extractLsb' 33 3 != 0 then some (c.copyLen b t)
  else ((ranges t).find? fun r => inAperture r.2.1 && (r.2.1 % 4 != 0 || r.2.2 % 4 != 0)).map fun r => r.2.1

/-- The checks that every copy makes, in order (R252): `ranges` are its scratchpad ranges. -/
def Ctx.copyTrap (c : Ctx) (b : VOp) (ranges : Nat → List Range) : Option Trap :=
  c.producerTrap
  <|> failWith .stream 1 (fun t => if 2 ^ 24 ≤ c.copyLen b t then some (c.copyLen b t) else none) c.perf
  <|> failWith .align 0 (c.copyAlign b ranges) c.perf

/-- An operation of thread `t` put into the copy queue and the thread's open batch; one of no bytes is complete at once
(R252). -/
def Wave.pushCopy (w : Wave) (op : CopyOp) : Wave :=
  if op.n = 0 then w else { w with cq := w.cq ++ [{ op with batch := (w.batch.get op.thread).toNat }] }

/-- The copies of all performing threads, queued in ascending threads. They observe the path's stores of the bytes that they
touch, and order no others (R227, R230). -/
def State.queueCopies (s : State) (c : Ctx) (op : Nat → CopyOp) : State :=
  (s.modWave c.ref.group c.ref.wix fun w =>
    c.perf.foldl (fun w t => w.pushCopy { op t with at_ := s.tick }) w).complete c c.perf

/-- A copy of thread `t` as it enters the queue. -/
def Ctx.newCopy (c : Ctx) (kind : CopyKind) (t : Nat) (d a : DWord) (n : Nat) (sync : Option Word) (members : List Nat) :
    CopyOp :=
  { kind, thread := t, batch := 0, d, a, n, sync, members, done := 0, read := [], fault := none, since := none,
    quantum := c.wave.qcount, at_ := 0, split := c.path.split, priv := c.path.priv }

/-- An address operand of a copy: 64 bits, or a 32-bit cluster address. -/
def Ctx.copyAddr (c : Ctx) (sp : Bool) (a : VOp) (t : Nat) : DWord :=
  if sp then (c.v32 t a).setWidth 64 else c.v64 t a

/-- A copy with one destination. -/
def copy (s : State) (kind : CopyKind) (spD spA : Bool) (d a b : VOp) : Out :=
  atP0 s fun c =>
    let ranges (t : Nat) : List Range :=
      spRanges spD (c.copyAddr spD d t).toNat (c.copyLen b t) ++ spRanges spA (c.copyAddr spA a t).toNat (c.copyLen b t)
    s.unless c (c.srcTrap c.perf [⟨d, !spD⟩, ⟨a, !spA⟩, ⟨b, true⟩]
        <|> c.copyTrap b ranges
        <|> s.rangeTrap c (fun t => ranges t ++ syncRanges (c.copySync b t)) c.perf)
      (s.queueCopies c fun t =>
        c.newCopy kind t (c.copyAddr spD d t) (c.copyAddr spA a t) (c.copyLen b t) (c.copySync b t) [])

/-- `copy.g2s` (R251). -/
def execCopyG2s (d a b : VOp) (s : State) : Out := copy s .g2s true false d a b
/-- `copy.s2g` (R251). -/
def execCopyS2g (d a b : VOp) (s : State) : Out := copy s .s2g false true d a b
/-- `copy.s2s` (R251). -/
def execCopyS2s (d a b : VOp) (s : State) : Out := copy s .s2s true true d a b
/-- `copy.g2g` (R251). -/
def execCopyG2g (d a b : VOp) (s : State) : Out := copy s .g2g false false d a b

/-! ### Multicast (R254) -/

/-- The logical cores that an entry of the multicast table names: cluster and core. -/
def Launch.mcCores (l : Launch) (m : Nat) : List (Nat × Nat) :=
  (List.range 8).flatMap fun x => ((List.range 64).filter fun k => (l.mct.get (8 * m + x)).getLsbD k).map fun k => (x, k)

/-- The launch's group on a logical core. -/
def State.groupOn (s : State) (lid : Nat) (x : Nat × Nat) : Option Group :=
  s.groups.find? fun g => !g.ended && g.launch == lid && g.cluster == x.1 && g.lcore == x.2

/-- The member groups of a multicast address; none where one is missing, the entry is empty, or a reserved bit is set. -/
def State.members (s : State) (l : Launch) (d : Word) : Option (List Group) :=
  let xs := l.mcCores (d.extractLsb' 24 4).toNat
  if d.extractLsb' 28 4 != 0 || xs.isEmpty then none
  else xs.foldl (fun r x => match r, s.groupOn l.id x with | some gs, some g => some (gs ++ [g]) | _, _ => none) (some [])

/-- The first member whose `SPSIZE` a range passes. -/
def State.memberBound (s : State) (l : Launch) (d : Word) (n : Nat) (sync : Option Word) : Bool :=
  ((s.members l d).getD []).any fun g =>
    (n != 0 && decide (g.spsize < d.toNat % 2 ^ 24 + n))
    || match sync with | none => false | some y => decide (g.spsize < y.toNat % 2 ^ 24 + 16)

/-- A multicast copy: its source, its sync word and its members are one check each for PERM and for SPBOUND (R252, R254; the
sync word is checked as the issuing group's, and at its offset in every member, log 79). -/
def copyMc (s : State) (kind : CopyKind) (spA : Bool) (d a b : VOp) : Out :=
  atP0 s fun c =>
    let ranges (t : Nat) : List Range := spRanges spA (c.copyAddr spA a t).toNat (c.copyLen b t)
    let checked (t : Nat) : List Range := ranges t ++ syncRanges (c.copySync b t)
    s.unless c (c.srcTrap c.perf [⟨d, false⟩, ⟨a, !spA⟩, ⟨b, true⟩]
        <|> c.copyTrap b ranges
        <|> failWith .perm 0 (fun t =>
              if (s.members c.launch (c.v32 t d)).isNone then some (c.v32 t d).toNat else s.rangeFail c .perm (checked t)) c.perf
        <|> failWith .spbound 0 (fun t =>
              if s.memberBound c.launch (c.v32 t d) (c.copyLen b t) (c.copySync b t) then some (c.v32 t d).toNat
              else s.rangeFail c .bound (checked t)) c.perf)
      (s.queueCopies c fun t =>
        c.newCopy kind t ((c.v32 t d).setWidth 64) (c.copyAddr spA a t) (c.copyLen b t) (c.copySync b t)
          (((s.members c.launch (c.v32 t d)).getD []).map fun g => g.id))

/-- `copy.g2s.mc` (R251, R254). -/
def execCopyG2sMc (d a b : VOp) (s : State) : Out := copyMc s .g2sMc false d a b
/-- `copy.s2s.mc` (R251, R254). -/
def execCopyS2sMc (d a b : VOp) (s : State) : Out := copyMc s .s2sMc true d a b

/-- The operation reads or writes global or peer memory (R237). -/
def CopyKind.global : CopyKind → Bool
  | .s2s => false
  | .s2sMc => false
  | .g2s => true
  | .s2g => true
  | .g2g => true
  | .g2sMc => true
  | .put _ _ => true
  | .get _ _ => true
  | .send _ _ _ => true

/-! ### Batches (R257) -/

/-- Sealed batches of a thread that have an operation which is neither complete nor abandoned. -/
def Wave.unfinished (w : Wave) (t : Nat) : Nat :=
  (((w.cq.filter fun o => o.thread == t && decide (o.batch < (w.batch.get t).toNat)).map fun o => o.batch).eraseDups).length

/-- The copies of a queue from the first on that a commit performs: none of them is done before one (R237). -/
def Wave.copiesBound (w : Wave) : List CopyOp := w.cq.dropWhile fun o => !o.kind.global

/-- `cseal` (R257, R233): in a reproducible launch a wait for batches that only a commit can finish ends the quantum. -/
def execCseal (s : State) : Out :=
  issue s fun c =>
    if c.perf.any fun t => decide (63 ≤ c.wave.unfinished t) then
      let w := { c.wave with cq := c.wave.copiesBound }
      let ends := c.launch.repro && c.perf.any fun t => decide (63 ≤ w.unfinished t)
      s.modWave c.ref.group c.ref.wix fun w =>
        ({ w with qended := w.qended || ends }).modPath c.ref.slot fun p =>
          { p with wait := .cseal, since := if c.path.wait = Wait.cseal then p.since else s.ns.toNat }
    else
      (s.modWave c.ref.group c.ref.wix fun w =>
        { w with batch := c.perf.foldl (fun m t => m.set t (m.get t + 1)) w.batch }).complete c c.perf

/-- The copy errors that these threads hold, as a trap (R253): one error of each thread, which the return from the trap takes
from it. The record holds each copy's addresses and the bytes written (log 78). -/
def Ctx.copyErrTrap (c : Ctx) (ts : List Nat) : Option Trap :=
  match ts.filterMap fun t => c.wave.copyErr.find? fun e => e.thread == t with
  | [] => none
  | e :: es => some { cause := if e.cause = 0x0F then .timeout else causeOf e.cause, perf := true,
                      mask := maskOf ((e :: es).map fun x => x.thread), addr := e.d + BitVec.ofNat 64 e.done,
                      own := (e :: es).map fun x => (x.thread, x.cause), queue := some 1
                      items := (e :: es).flatMap fun x => [x.a, x.d, BitVec.ofNat 64 x.done] }

/-- A `cwait` looked at: errors that the threads hold trap first; it ends when no thread has more unfinished batches. -/
def State.pollCwait (s : State) (c : Ctx) (n : Nat) : State :=
  s.unless c (c.copyErrTrap c.perf)
    (if c.perf.all fun t => decide (c.wave.unfinished t ≤ n) then s.complete c c.perf
     else if c.path.wait == .none then s.startWait c (.cwait n) else s)

/-- `cwait` (R257, R253, R233). -/
def execCwait (i : BitVec 11) (s : State) : Out :=
  issue s fun c =>
    match c.path.wait with
    | .cwait n => s.pollCwait c n
    | _ =>
      if c.launch.repro = true ∧ c.perf ≠ [] then s.unless c (c.copyErrTrap c.perf) (s.startWait c (.cwait i.toNat))
      else s.pollCwait c i.toNat

/-! ### Fabric operations (R395, R396) -/

/-- A fabric descriptor as a vector. -/
def fabDesc (bs : List Byte) : BitVec 256 := BitVec.ofNat 256 (leNat bs)
def fabLen (v : BitVec 256) : Nat := (v.extractLsb' 128 24).toNat
def fabLsp (v : BitVec 256) : Bool := v.getLsbD 160
def fabSync (v : BitVec 256) : Option Word :=
  if v.getLsbD 161 then some ((v.extractLsb' 164 28).setWidth 32 * 16) else none

inductive FabKind where
  | put | get | send
deriving DecidableEq, Repr

/-- Reserved fields of the descriptor are not 0, or the peer address passes 2^48 (R396). -/
def fabBad (k : FabKind) (v : BitVec 256) (o : Nat) : Bool :=
  v.extractLsb' 152 8 != 0 || v.extractLsb' 162 2 != 0 || v.extractLsb' 192 64 != 0
  || (k != .send && (v.extractLsb' 112 16 != 0 || decide (2 ^ 48 ≤ (v.extractLsb' 64 48).toNat + o)))

/-- The local address of an operation. -/
def fabLocal (v : BitVec 256) (o : Nat) : DWord :=
  let a : DWord := v.extractLsb' 0 64 + BitVec.ofNat 64 o
  if fabLsp v then (a.setWidth 32).setWidth 64 else a

/-- The operation that a descriptor describes. -/
def Ctx.fabOp (c : Ctx) (k : FabKind) (link : Nat) (v : BitVec 256) (o t : Nat) : CopyOp :=
  let far : DWord := (v.extractLsb' 64 48).setWidth 64 + BitVec.ofNat 64 o
  match k with
  | .put => c.newCopy (.put link (fabLsp v)) t far (fabLocal v o) (fabLen v) none []
  | .get => c.newCopy (.get link (fabLsp v)) t (fabLocal v o) far (fabLen v) (fabSync v) []
  | .send => c.newCopy (.send link (v.extractLsb' 64 32) (fabLsp v)) t
      ((v.extractLsb' 96 32).setWidth 64 + BitVec.ofNat 64 o) (fabLocal v o) (fabLen v) none []

/-- A fabric word (R396): it reads its descriptors after the path's earlier accesses; the checks in order, then an operation
of each thread. -/
def fabric (s : State) (k : FabKind) (a b : VOp) (link : BitVec 4) : Out :=
  issue s fun c =>
    let s := if c.perf = [] then s else s.drain c.ref.group c.ref.wix
    let ea := c.eaS a 0
    let off (t : Nat) : Nat := (c.v32 t b).toNat
    let desc (t : Nat) : BitVec 256 := fabDesc (s.spReadAt c t (ea t) 32)
    let ranges (t : Nat) : List Range :=
      spRanges (fabLsp (desc t)) (fabLocal (desc t) (off t)).toNat (fabLen (desc t))
      ++ (if k = .get then syncRanges (fabSync (desc t)) else [])
    s.unless c (c.srcTrap c.perf [⟨a, false⟩, ⟨b, false⟩]
        <|> c.producerTrap
        <|> failWith .perm 0 (fun _ => if s.io.spmask.getLsbD link.toNat then none else some link.toNat) c.perf
        <|> alignTrap ea 32 c.perf
        <|> s.rangeTrap c (fun t => [(false, ea t, 32)]) c.perf
        <|> s.spEccTrap c ea 32 c.perf
        <|> failWith .stream 1 (fun t => if k = .send ∧ 2 ^ 24 ≤ fabLen (desc t) + off t then
              some (fabLen (desc t) + off t) else none) c.perf
        <|> failWith .stream 3 (fun t => if fabBad k (desc t) (off t) then some (ea t) else none) c.perf
        <|> s.rangeTrap c ranges c.perf)
      (s.queueCopies c fun t => c.fabOp k link.toNat (desc t) (off t) t)

/-- `put` (R396); `.rel` adds nothing here: the path's stores are performed before the descriptor is read. -/
def execPut (a b : VOp) (q : BitVec 4) (_ : Bool) (s : State) : Out := fabric s .put a b q
/-- `get` (R396). -/
def execGet (a b : VOp) (q : BitVec 4) (s : State) : Out := fabric s .get a b q
/-- `send` (R396). -/
def execSend (a b : VOp) (q : BitVec 4) (_ : Bool) (s : State) : Out := fabric s .send a b q

/-! ### Performing (R253) -/

/-- An operation of a reproducible launch that touches global memory is performed at a commit only (R237); a dump drains it at
once (R374). -/
def Eng.due (e : Eng) : Bool := !e.launch.repro || e.group.halted

/-- `n` source bytes of an operation from offset `i` on. -/
def State.copySource (s : State) (e : Eng) (op : CopyOp) (i n : Nat) : Except AFault (List Byte) :=
  let va := op.a.toNat + i
  let sp : Except AFault (List Byte) :=
    if s.engSpBad e.group va n then .error (.ecc (BitVec.ofNat 64 va)) else .ok (s.engSpRead e.group va n)
  let gl : Except AFault (List Byte) := s.engRead e op.priv va n
  match op.kind with
  | .g2s => gl
  | .s2g => sp
  | .s2s => sp
  | .g2g => gl
  | .g2sMc => gl
  | .s2sMc => sp
  | .put _ lsp => if lsp then sp else gl
  | .get link _ => .ok (s.physRead ⟨.spire, link * 2 ^ 48 + va⟩ n)
  | .send _ _ lsp => if lsp then sp else gl

/-- A transfer to a live member in the cluster fails every retry (R201, R254). -/
def State.memberDown (s : State) (e : Eng) (gs : List Nat) : Bool :=
  !s.netBad.isEmpty && gs.any fun g => (s.group? g).any fun x =>
    !x.ended && x.cluster == e.group.cluster && s.netBad.contains (e.group.cluster, e.group.lcore, x.lcore)

/-- The members of a multicast each receive the bytes; those that have exited do not (R254). -/
def State.memberWrite (s : State) (off : Nat) (bs : List Byte) : List Nat → State
  | [] => s
  | g :: gs =>
    (match s.group? g with
     | some x => if x.ended then s else s.modGroup g fun y => y.spWrite off bs
     | none => s).memberWrite off bs gs

/-- Bytes written at a cluster address by a copy of thread `t`: an uncorrectable transfer fails it (R201). Where accesses are
shown apart, every register of the aperture is written on its own (R89, R253; log 7). -/
def State.copySp (s : State) (e : Eng) (t ea : Nat) (bs : List Byte) : Except AFault State :=
  match s.engPlace e.group ea bs.length with
  | none => .ok s
  | some p =>
    if s.netDown e.group ea then .error (.ecc (BitVec.ofNat 64 ea))
    else
      match p with
      | .sp _ _ => .ok (s.spWrite p bs)
      | .reg g x u n i =>
        if s.relaxed then
          .ok (s.modEng e fun w =>
            { w with held := w.held ++ (List.range (bs.length / 4)).map fun j =>
                ⟨t, .reg g x u (n + j) i, (bs.drop (4 * j)).take 4, 0⟩ })
        else .ok (s.spWrite p bs)

/-- The registers that the engines of a wave still have to write are written, in order. -/
def State.settleRegs (s : State) (e : Eng) : State :=
  match s.wave? e.group.id e.wave.wix with
  | none => s
  | some w =>
    let isReg (h : Held) : Bool := match h.target with
      | .reg _ _ _ _ _ => true
      | .sp _ _ => false
      | .phys _ => false
    ((w.held.filter isReg).foldl State.perform s).modEng e fun w => { w with held := w.held.filter fun h => !isReg h }

/-- Bytes written at the destination of an operation. -/
def State.copyDest (s : State) (e : Eng) (op : CopyOp) (bs : List Byte) : Except AFault State :=
  let va := op.d.toNat + op.done
  let sp : Except AFault State := s.copySp e op.thread va bs
  let gl : Except AFault State := s.engWrite e op.priv va bs
  let mc : Except AFault State :=
    if s.memberDown e op.members then .error (.ecc op.d) else .ok (s.memberWrite (va % 2 ^ 24) bs op.members)
  match op.kind with
  | .g2s => sp
  | .s2g => gl
  | .s2s => sp
  | .g2g => gl
  | .g2sMc => mc
  | .s2sMc => mc
  | .put link _ => .ok (s.physWrite ⟨.spire, link * 2 ^ 48 + va⟩ bs)
  | .get _ lsp => if lsp then sp else gl
  | .send _ _ _ => .ok s

/-- The arrival cannot cross the network to its sync word, or to that of a member (R201). -/
def State.arrivalLost (s : State) (e : Eng) (op : CopyOp) : Bool :=
  op.sync.any fun y =>
    if op.kind = .g2sMc ∨ op.kind = .s2sMc then s.memberDown e op.members else s.netDown e.group y.toNat

/-- The places that the next `n` bytes of an operation are read from, and written to, and its sync words behind the last. -/
def State.copyPlaces (s : State) (e : Eng) (op : CopyOp) (n : Nat) : List Held :=
  let a := op.a.toNat + op.done
  let d := op.d.toNat + op.done
  let member (off n : Nat) : List Held := op.members.map fun g => ⟨0, .sp g (off % 2 ^ 24), List.replicate n 0, 0⟩
  let spA := s.clusterPlaces e a n
  let spD := s.clusterPlaces e d n
  let glA := s.globalPlaces e op.priv .engineRead a n
  let glD := s.globalPlaces e op.priv .engineWrite d n
  let mc := op.kind == .g2sMc || op.kind == .s2sMc
  (match op.kind with
   | .g2s => glA ++ spD
   | .s2g => spA ++ glD
   | .s2s => spA ++ spD
   | .g2g => glA ++ glD
   | .g2sMc => glA ++ member d n
   | .s2sMc => spA ++ member d n
   | .put _ lsp => if lsp then spA else glA
   | .get _ lsp => if lsp then spD else glD
   | .send _ _ lsp => if lsp then spA else glA)
  ++ (match op.sync with
      | none => []
      | some y => if mc then member y.toNat 16 else s.clusterPlaces e y.toNat 16)

/-- The arrivals of an operation (R168, R253). -/
def State.copyArrive (s : State) (e : Eng) (op : CopyOp) : State :=
  match op.sync with
  | none => s
  | some y =>
    if op.kind = .g2sMc ∨ op.kind = .s2sMc then
      op.members.foldl (fun t g => match t.group? g with
        | some x => if x.ended then t else t.modGroup g fun z =>
            z.spWrite (y.toNat % 2 ^ 24) (arrive (z.sp.bytes (y.toNat % 2 ^ 24) 16) op.n)
        | none => t) s
    else s.arrival e.group y.toNat op.n

/-- The head of the copy queue changed or taken off. -/
def State.modHead (s : State) (e : Eng) (f : CopyOp → CopyOp) : State := s.modEng e fun w => { w with cq := modAt f 0 w.cq }
def State.popHead (s : State) (e : Eng) : State := s.modEng e fun w => { w with cq := w.cq.tail }

/-- What a dump tells of a copy: its wave, its kind, its thread, its addresses and the bytes written (R374). -/
def Eng.lostCopy (e : Eng) (op : CopyOp) : List Nat := [e.wave.wix, 0, op.thread, op.d.toNat, op.a.toNat, op.done]

/-- The operation is given up (R253): its thread holds the error; after the group's exit the error log does (R256). -/
def State.abandon (s : State) (e : Eng) (op : CopyOp) (cause : Nat) : State :=
  let s1 := (s.popHead e).noteLost e.group (e.lostCopy op)
  if e.wave.gone then s1.logError e.group.die 11 (cause == 0x11) false e.group.core (Config.logDetail [e.wave.wslot]) op.d
  else s1.modEng e fun w => { w with copyErr := w.copyErr ++ [⟨op.thread, cause, op.d, op.a, op.done⟩] }

/-- The ranges of this module's global memory that `n` bytes of an operation touch. -/
def CopyOp.ranges (o : CopyOp) (n : Nat) : List (Nat × Nat) :=
  let a := [(o.a.toNat + o.done, n)]
  let d := [(o.d.toNat + o.done, n)]
  match o.kind with
  | .g2s => a
  | .s2g => d
  | .s2s => []
  | .g2g => a ++ d
  | .g2sMc => a
  | .s2sMc => []
  | .put _ lsp => if lsp then [] else a
  | .get _ lsp => if lsp then [] else d
  | .send _ _ lsp => if lsp then [] else a

/-- Source sectors read until `n` bytes stand ready, each of them once and whole (R226); what failed, if a sector did. -/
def State.copyRead (s : State) (e : Eng) (op : CopyOp) (n : Nat) : (fuel : Nat) → List Byte → List Byte × Option AFault
  | 0, bs => (bs, none)
  | fuel + 1, bs =>
    if n ≤ bs.length then (bs, none)
    else
      let i := op.done + bs.length
      match s.copySource e op i (min (op.n - i) (32 - (op.a.toNat + i) % 32)) with
      | .error f => (bs, some f)
      | .ok xs => s.copyRead e op n fuel (bs ++ xs)

/-- The head operation stops at an access that fails (R253). -/
def State.copyStops (s : State) (e : Eng) (op : CopyOp) : AFault → State
  | .x f k va =>
    let (s1, r) := s.engFault e op.thread (.x f k va)
    s1.modHead e fun o => { o with done := op.done, read := op.read, fault := r }
  | _ => s.abandon e op 0x11

/-- The head operation has moved `n` bytes more; after the last one the arrival is applied. -/
def State.copyMoved (s : State) (e : Eng) (op : CopyOp) (n : Nat) : State × Option CopyOp :=
  let op1 := { op with done := op.done + n, read := op.read.drop n }
  if op1.done < op.n then (s.modHead e fun _ => op1, some op1)
  else if s.arrivalLost e op then ((s.settleRegs e).abandon e op1 0x11, none)
  else (((s.settleRegs e).copyArrive e op).popHead e, none)

/-- One sector of the head operation: the bytes up to the end of the destination's sector, or those before the source sector
that fails, are moved; with none of them the operation stops (R253). -/
def State.copySector (s0 : State) (e : Eng) (op : CopyOp) : State × Option CopyOp :=
  let n := min (op.n - op.done) (32 - (op.d.toNat + op.done) % 32)
  let s := (s0.copyPlaces e op (min 64 (op.n - op.done))).foldl (fun (t : State) h => t.storesFirst e h) (s0.settleRegs e)
  let (bs, f) := s.copyRead e op n 2 op.read
  let op1 := { op with read := bs }
  if bs = [] then (match f with | some x => s.copyStops e op x | none => s, none)
  else
    match s.copyDest e op (bs.take n) with
    | .error x => (s.copyStops e op1 x, none)
    | .ok t => (t.touchAll e.group.id (op.ranges (min n bs.length))).copyMoved e op1 (min n bs.length)

/-- At most `fuel` sectors of the head operation. -/
def State.copySectors (s : State) (e : Eng) : (fuel : Nat) → CopyOp → State
  | 0, _ => s
  | k + 1, op =>
    match s.copySector e op with
    | (s1, none) => s1
    | (s1, some op1) => s1.copySectors e k op1

/-- The head of the copy queue goes on when the record it waits on has a status (R250). -/
def State.copyResume (s : State) (e : Eng) (op : CopyOp) (k : State) : State :=
  match op.fault with
  | none => k
  | some r => match s.statusNow r with
    | 0 => s
    | 1 => k
    | _ => s.abandon e op (s.failCode r)

def CopyKind.link : CopyKind → Option Nat
  | .put l _ => some l
  | .get l _ => some l
  | .send l _ _ => some l
  | .g2s => none
  | .s2g => none
  | .s2s => none
  | .g2g => none
  | .g2sMc => none
  | .s2sMc => none

/-- `n` sectors of the copy at the head of a wave's queue (R253). -/
def State.copyNow (s : State) (e : Eng) (n : Nat) (op : CopyOp) : State :=
  s.copyResume e op (s.copySectors e n { op with fault := none })

/-- The copy at the head of a wave's queue, unless it comes at a commit only. -/
def State.performCopy (s : State) (e : Eng) (n : Nat) : State :=
  match e.wave.cq with
  | [] => s
  | op :: _ => if op.kind.link.isSome || (op.kind.global && !e.due) then s else s.copyNow e n op

/-- COPY_PERFORM. -/
def execCopyPerform (w : WaveRef) (n : Nat) (s : State) : Out := onWave s w fun e => s.performCopy e n

/-- A fabric operation that the peer takes: all its bytes move, up to a local fault (R397). -/
def State.fabricMove (s : State) (e : Eng) (op : CopyOp) : State :=
  s.copyResume e op (s.copySectors e (op.n - op.done + 1) { op with fault := none })

/-- The answer of the peer to a fabric operation at the head of a wave's queue (R397). -/
def State.fabricNow (s : State) (e : Eng) (ans : PeerAnswer) (op : CopyOp) (l : Nat) : State :=
  if s.io.spireDown.contains l then s.abandon e op 0x0F
  else
    match ans with
    | .accepted => s.fabricMove e op
    | .denied => s.abandon e op 0x07
    | .linkDown => s.abandon e op 0x0F
    | .refused =>
      match op.kind with
      | .send _ _ _ => s.modHead e fun o => { o with since := some (o.since.getD s.ns.toNat) }
      | _ => s.abandon e op 0x07

/-- The fabric operation at the head of a wave's queue, unless it comes at a commit only. -/
def State.performFabric (s : State) (e : Eng) (ans : PeerAnswer) : State :=
  match e.wave.cq with
  | [] => s
  | op :: _ =>
    match op.kind.link with
    | none => s
    | some l => if e.due then s.fabricNow e ans op l else s

/-- FABRIC_OP_PERFORM. -/
def execFabricOpPerform (w : WaveRef) (ans : PeerAnswer) (s : State) : Out := onWave s w fun e => s.performFabric e ans

/-- SEND_RETRY_TIMEOUT: a `send` still refused after `SRETRY` µs is given up (R397). -/
def State.sendTimeout (s : State) (e : Eng) : State :=
  match e.wave.cq with
  | [] => s
  | op :: _ =>
    match op.since with
    | none => s
    | some t => if 1000 * s.io.sretry.toNat ≤ s.ns.toNat - t then s.abandon e op 0x0F else s

def execSendRetryTimeout (w : WaveRef) (s : State) : Out := onWave s w s.sendTimeout

end Sys2Proof.Machine
end

