-- ==== Sys2Proof/Machine/Stream.lean ====
section
/-! DEFINITION. Indirect streams and QFENCE (R258 to R262). -/

namespace Sys2Proof.Machine

/-! ### Descriptors (R258) -/

def sdMode (v : BitVec 512) : Nat := (v.extractLsb' 0 4).toNat
def sdTrapen (v : BitVec 512) : Bool := v.getLsbD 4
def sdIspace (v : BitVec 512) : Bool := v.getLsbD 5
def sdDspace (v : BitVec 512) : Bool := v.getLsbD 6
def sdRowb (v : BitVec 512) : Nat := (v.extractLsb' 32 32).toNat
def sdBase (v : BitVec 512) : Nat := (v.extractLsb' 64 64).toNat
def sdPitch (v : BitVec 512) : Nat := (v.extractLsb' 128 32).toNat
def sdIdx (v : BitVec 512) : Nat := (v.extractLsb' 192 64).toNat
def sdRowptr (v : BitVec 512) : Nat := (v.extractLsb' 256 64).toNat
def sdCount (v : BitVec 512) : Nat := (v.extractLsb' 320 32).toNat

/-- A field is invalid (R258). -/
def sdBad (v : BitVec 512) : Bool :=
  (sdMode v != 1 && sdMode v != 2) || v.extractLsb' 7 25 != 0 || sdRowb v == 0 || decide (8192 < sdRowb v)
  || v.extractLsb' 160 32 != 0 || v.extractLsb' 352 160 != 0

/-- The stream reads global memory. -/
def Stream.global (x : Stream) : Bool := x.opened && (!sdIspace x.desc || !sdDspace x.desc)

def Wave.stream (w : Wave) (k : Nat) : Stream := w.streams.getD k Stream.closed
def Wave.modStream (w : Wave) (k : Nat) (f : Stream → Stream) : Wave := { w with streams := modAt f k w.streams }

/-- The status word (R261). A marker is no entry. -/
def Stream.status (x : Stream) : Word :=
  BitVec.ofNat 32
    (x.opened.toNat + 2 * x.ended.toNat + 4 * (x.fifo.all fun e => e.marker.isSome).toNat + 8 * x.nmono.toNat
      + 16 * x.ferr.toNat + 32 * x.psn.toNat + 64 * x.stop.toNat)

/-! ### Delivery (R258) -/

/-- The stream stops with an error marker of a reason (R258, R260). -/
def Stream.stopWith (x : Stream) (reason : Nat) : Stream :=
  { x with ended := true, stop := true, fifo := x.fifo ++ [⟨[], [], 0, some reason⟩], fault := none }

/-- An item fails. -/
def Stream.fail (x : Stream) : Stream := { x with ferr := true }.stopWith 6

/-- Bytes of an entry delivered. -/
def Stream.deliver (x : Stream) (bs : List Byte) : Stream :=
  { x with fifo := x.fifo ++ [⟨bs, [], 0, none⟩], deliv := x.deliv + 1, item := x.item + 1 }

/-- The next row; behind the last one the stream has ended (R261). -/
def Stream.nextRow (x : Stream) : Stream :=
  { x with inRow := none, row := x.row + 1, ended := x.ended || decide (sdCount x.desc ≤ x.row + 1) }

/-- What follows an item. -/
def Stream.nextItem (x : Stream) : Stream :=
  match x.inRow with
  | some (j, hi) => if j + 1 < hi then { x with inRow := some (j + 1, hi) } else x.nextRow
  | none => x.nextRow

/-- Zeros in the place of the 4-byte units that an uncorrectable error touches; true when there is one (R241). The bytes begin
at address `at_`, and units are aligned. -/
def poison (at_ : Nat) (bad : Nat → Bool) (bs : List Byte) : List Byte × Bool :=
  (bs.mapIdx fun i b => if bad ((at_ + i) / 4) then 0 else b,
   (List.range ((at_ % 4 + bs.length + 3) / 4)).any fun u => bad (at_ / 4 + u))

/-- Bytes read for a stream: from global memory sector by sector, or from a cluster address, which is never in the register
aperture (R144); whether a unit was bad. The units in error are aligned ones in both: all eight of a sector of global memory
(R241). -/
def State.streamRead (s : State) (e : Eng) (x : Stream) (sp : Bool) (va n : Nat) : Except (Option AFault) (List Byte × Bool) :=
  if sp then
    if 2 ^ 32 ≤ va then .error none
    else
      match s.spPlace e.group false va n with
      | .error _ => if s.exited e.group (va / 2 ^ 24 % 64) then .ok (List.replicate n 0, false) else .error none
      | .ok p => .ok (poison va (fun u => (s.spBad p n || !s.netBad.isEmpty) && s.engSpBad e.group (4 * u) 4) (s.spRead p n))
  else
    (sectors va n).foldl (fun r y =>
      match r with
      | .error f => .error f
      | .ok (bs, b) =>
        match s.translate e.group.die e.launch.ctx x.priv .engineRead y.1 y.2 with
        | .error f => .error (some (.x f .engineRead (BitVec.ofNat 64 y.1)))
        | .ok p => if s.physBad p y.2 then .ok (bs ++ List.replicate y.2 0, true) else .ok (bs ++ s.physRead p y.2, b))
      (.ok ([], false))

/-- A word of an index array; its address is exact. -/
def State.streamWord (s : State) (e : Eng) (x : Stream) (base i : Nat) : Except (Option AFault) (Nat × Bool) :=
  (s.streamRead e x (sdIspace x.desc) (base + 4 * i) 4).map fun r => (leNat r.1, r.2)

/-- A row in global memory that lies at or beyond 2^56. -/
def rowBeyond (x : Stream) (v : Nat) : Bool := !sdDspace x.desc && decide (2 ^ 56 ≤ sdBase x.desc + v * sdPitch x.desc)

/-- An item: ROWB zeros, or the row that an id names. A row address at or beyond 2^56 fails it. -/
def State.streamItem (s : State) (e : Eng) (x : Stream) (v : Nat) : Except (Option AFault) Stream :=
  if v = 2 ^ 32 - 1 then .ok (x.deliver (List.replicate (sdRowb x.desc) 0))
  else if rowBeyond x v then .error none
  else (s.streamRead e x (sdDspace x.desc) (sdBase x.desc + v * sdPitch x.desc) (sdRowb x.desc)).map fun r =>
    { x.deliver r.1 with psn := x.psn || r.2 }

/-- One step of the production: an item, an opened row, or the end. -/
def State.streamStep (s : State) (e : Eng) (x : Stream) : Except (Option AFault) Stream :=
  let item (i : Nat) : Except (Option AFault) Stream :=
    (s.streamWord e x (sdIdx x.desc) i).bind fun v =>
      (s.streamItem e { x with psn := x.psn || v.2 } v.1).map Stream.nextItem
  match x.inRow with
  | some (j, _) => item j
  | none =>
    if sdCount x.desc ≤ x.row then .ok { x with ended := true }
    else if sdMode x.desc = 1 then item (x.start.toNat + x.row)
    else
      let r := x.start.toNat + x.row
      (s.streamWord e x (sdRowptr x.desc) r).bind fun lo =>
        (s.streamWord e x (sdRowptr x.desc) (r + 1)).map fun hi =>
          let y := { x with psn := x.psn || lo.2 || hi.2 }
          if hi.1 < lo.1 then
            let z := { y with nmono := true, badrow := BitVec.ofNat 32 r }
            if sdTrapen x.desc then z.stopWith 5 else z.nextRow
          else if hi.1 = lo.1 then y.nextRow
          else { y with inRow := some (lo.1, hi.1) }

/-- The ranges of global memory that the next step of the production reads. -/
def State.streamRanges (s : State) (e : Eng) (x : Stream) : List (Nat × Nat) :=
  let word (base i : Nat) : List (Nat × Nat) := if sdIspace x.desc then [] else [(base + 4 * i, 4)]
  let item (i : Nat) : List (Nat × Nat) :=
    word (sdIdx x.desc) i ++
    (if sdDspace x.desc then []
     else match s.streamWord e x (sdIdx x.desc) i with
       | .error _ => []
       | .ok (v, _) => if v = 2 ^ 32 - 1 || rowBeyond x v then [] else [(sdBase x.desc + v * sdPitch x.desc, sdRowb x.desc)])
  match x.inRow with
  | some (j, _) => item j
  | none =>
    let r := x.start.toNat + x.row
    if sdCount x.desc ≤ x.row then []
    else if sdMode x.desc = 1 then item r
    else word (sdRowptr x.desc) r ++ word (sdRowptr x.desc) (r + 1)

/-- The stream works until it has delivered an entry, has ended, or waits on a fault record. -/
def State.streamRun (s : State) (e : Eng) (k : Nat) : (fuel : Nat) → Stream → State
  | 0, x => s.modEng e fun w => w.modStream k fun _ => x
  | fuel + 1, x =>
    match s.streamStep e x with
    | .error none => s.modEng e fun w => w.modStream k fun _ => x.fail
    | .error (some f) =>
      let (s1, r) := s.engFault e x.thread f
      s1.modEng e fun w => w.modStream k fun _ => { x with fault := r }
    | .ok y =>
      let t := s.touchAll e.group.id (s.streamRanges e x)
      if y.ended || y.fifo.length != x.fifo.length then t.modEng e fun w => w.modStream k fun _ => y
      else t.streamRun e k fuel y

/-- Delivery for stream `k` of a wave: nothing for a closed or ended stream, or before the fault record it waits on has a
status; a failed record fails the item (R250). -/
def State.streamDeliver (s : State) (e : Eng) (k : Nat) : State :=
  let x := e.wave.stream k
  if !x.opened || x.ended then s
  else
    let go := s.streamRun e k (sdCount x.desc - x.row + 2) { x with fault := none }
    match x.fault with
    | none => go
    | some r => match s.statusNow r with
      | 0 => s
      | 1 => go
      | _ => s.modEng e fun w => w.modStream k Stream.fail

/-- STREAM_ITEM_DELIVER: a stream that reads global memory for a reproducible launch is served at commits only (R237). -/
def execStreamItemDeliver (w : WaveRef) (k : Fin 4) (s : State) : Out :=
  onWave s w fun e => if e.launch.repro && (e.wave.stream k.val).global then s else s.streamDeliver e k.val

/-! ### Stream words (R260) -/

/-- An entry of the matrix queue takes its operand from stream `k` and has not done so yet. -/
def MatOp.feedsFrom (o : MatOp) (k : Nat) : Bool :=
  match o.kind with
  | .mma (some j) => j.val == k
  | _ => false

/-- A path waits at a word of stream `k` that issued before step `at_`. -/
def Wave.waitsBefore (w : Wave) (k at_ : Nat) : Bool :=
  let waits (p : Path) : Bool := match p.wait with
    | .stream j t => j == k && decide (t < at_)
    | _ => false
  w.path0.any waits || w.path1.any waits

/-- Pops of stream `k` that issued before step `at_` have not been served (R260). -/
def Wave.popsBefore (w : Wave) (k at_ : Nat) : Bool :=
  (w.mq.any fun o => o.feedsFrom k && decide (o.at_ < at_)) || w.waitsBefore k at_

/-- The step at which the word issued. -/
def Ctx.issuedAt (c : Ctx) (tick : Nat) : Nat :=
  match c.path.wait with
  | .stream _ t => t
  | .qfence t => t
  | _ => tick

/-- The word waits already. -/
def Ctx.waits (c : Ctx) : Bool := c.path.wait != .none

/-- Stream `k` is served at commits only, and the word has to end its quantum first (R233). -/
def Ctx.popsAtCommit (c : Ctx) (k : Nat) : Bool := c.launch.repro && (c.wave.stream k).global && !c.waits

/-- A wait for a stream. In a reproducible launch the quantum of a word of a stream of global memory ends when it issues, and
again while it waits for what only a commit delivers (R233). -/
def State.waitStream (s : State) (c : Ctx) (k : Nat) : State :=
  let x := c.wave.stream k
  s.modWave c.ref.group c.ref.wix fun w =>
    ({ w with qended := w.qended || (c.popsAtCommit k || (c.launch.repro && x.global && !x.ended)) }).modPath c.ref.slot fun p =>
      { p with wait := .stream k (c.issuedAt s.tick) }

/-- A stream as `sset` opens it (R260); one without items has ended. -/
def Stream.start_ (desc : BitVec 512) (start : Word) (priv : Bool) (thread at_ : Nat) : Stream :=
  { Stream.closed with opened := true, ended := decide (sdCount desc = 0), desc, start, priv, thread, at_ }

/-- `sset` (R259, R260): the descriptor is read after the path's earlier accesses. A stream that is open is closed first, so
that the word waits as `sclose` does, and ends the quantum as it does (log 80). -/
def execSset (a b : VOp) (k : Fin 4) (s : State) : Out :=
  issue s fun c =>
    match c.perf with
    | [] => s.complete c []
    | t :: _ =>
      let s := s.drain c.ref.group c.ref.wix
      let ea (t : Nat) : Nat := (c.v32 t a).toNat
      let v := BitVec.ofNat 512 (leNat (s.spReadAt c t (ea t) 64))
      s.unless c (c.srcTrap c.perf [⟨a, false⟩, ⟨b, false⟩]
          <|> agreeTrap [fun t => (c.v32 t a).setWidth 64, fun t => (c.v32 t b).setWidth 64] c.perf
          <|> alignTrap ea 64 c.perf
          <|> s.rangeTrap c (fun t => [(false, ea t, 64)]) c.perf
          <|> s.spEccTrap c ea 64 [t]
          <|> if sdBad v then some { cause := .stream, sub := 3, mask := maskOf c.perf, addr := BitVec.ofNat 64 (ea t) }
              else none)
        (if c.popsAtCommit k.val || c.wave.popsBefore k.val (c.issuedAt s.tick) then s.waitStream c k.val
         else (s.modWave c.ref.group c.ref.wix fun w =>
          w.modStream k.val fun _ => Stream.start_ v (c.v32 t b) c.path.priv t s.tick).complete c c.perf)

/-- The next chunk of an entry in thread `t` (R260); a unit that the FIFO has lost reads as zero (log 12). -/
def Entry.word (x : Entry) (t : Nat) : Word :=
  if x.bad.contains (32 * x.popped + t) then 0
  else BitVec.ofNat 32 (leNat ((x.bytes.drop (128 * x.popped + 4 * t)).take 4))

/-- A unit of the next chunk is lost. -/
def Entry.lost (x : Entry) : Bool := x.bad.any fun u => u / 32 == x.popped

/-- The FIFO after a chunk has been taken: the entry leaves after its last one. -/
def Stream.pop (x : Stream) : Stream :=
  match x.fifo with
  | [] => x
  | e :: es =>
    let y := { x with psn := x.psn || e.lost }
    if e.bytes.length ≤ 128 * (e.popped + 1) then { y with fifo := es, popd := x.popd + 1 }
    else { y with fifo := { e with popped := e.popped + 1 } :: es }

/-- The results of a `spop`. -/
def State.popResult (s : State) (c : Ctx) (d : VDst) (p : Fin 8) (f : Nat → Word) (b : Bool) : State :=
  ((s.modWave c.ref.group c.ref.wix fun w => w.putPs p (c.perf.map fun t => (t, b))).vecResult c d
    (c.perf.map fun t => (t, f t)))

/-- `spop` (R260): the path waits while the FIFO is empty and the stream goes on. -/
def execSpop (d : VDst) (k : Fin 4) (p : Fin 8) (s : State) : Out :=
  issue s fun c =>
    let x := c.wave.stream k.val
    if c.perf = [] then s.complete c []
    else if x.opened = false then s.takeTrap c { cause := .stream, sub := 2, mask := maskOf c.perf, addr := k.val }
    else if c.popsAtCommit k.val || c.wave.popsBefore k.val (c.issuedAt s.tick) then s.waitStream c k.val
    else
      match x.fifo with
      | [] => if x.ended then s.popResult c d p (fun _ => 0) false else s.waitStream c k.val
      | e :: _ =>
        match e.marker with
        | some r => s.takeTrap c { cause := .stream, sub := r, mask := maskOf c.perf,
                                   addr := if r = 5 then x.badrow.setWidth 64 else BitVec.ofNat 64 x.item }
        | none =>
          (s.modWave c.ref.group c.ref.wix fun w => w.modStream k.val Stream.pop).popResult c d p e.word true

/-- The word that a selector chooses (R260). -/
def Stream.select (x : Stream) (sel : Word) : Word :=
  if sel = 0 then x.status else if sel = 1 then x.badrow else if sel = 2 then x.deliv else x.popd

/-- `sstat` (R260). -/
def execSstat (d : VDst) (k : Fin 4) (b : VOp) (s : State) : Out :=
  issue s fun c =>
    let x := if (c.wave.stream k.val).opened then c.wave.stream k.val else Stream.closed
    s.unless c (c.srcTrap c.perf [⟨b, false⟩]
        <|> failWith .stream 4 (fun t => if 3 < (c.v32 t b).toNat then some (c.v32 t b).toNat else none) c.perf)
      (s.vecResult c d (c.perf.map fun t => (t, x.select (c.v32 t b))))

/-- `sclose` (R260). -/
def execSclose (k : Fin 4) (s : State) : Out :=
  issue s fun c =>
    if c.popsAtCommit k.val || c.wave.popsBefore k.val (c.issuedAt s.tick) then s.waitStream c k.val
    else (s.modWave c.ref.group c.ref.wix fun w => w.modStream k.val fun _ => Stream.closed).complete c c.perf

/-! ### QFENCE (R228, R262) -/

/-- The engine error of queue `q` that a fence delivers, until the return from the trap clears it (R275, R276, R294). -/
def engErrTrap (q : Nat) (e : Option EngErr) : Option Trap :=
  e.map fun x =>
    { cause := if x.cause = 0x0E then .hashfull else if x.cause = 0x0D then .stream else if x.cause = 0x12 then .arith
               else if x.cause = 0x0C then .rights else if x.cause = 0x02 then .align
               else if x.cause = 0x05 then .spbound else causeOf x.cause
      perf := true, sub := x.sub, mask := BitVec.twoPow 32 x.thread, addr := x.addr, items := x.items, queue := some q }

/-- An operation was issued by the path or by one that it descends from (R228). -/
def Ctx.own (c : Ctx) (x : Option (Nat × Bool)) : Bool := (c.wave.line c.wave.splits.length c.path.split).contains x

/-- Copies of the path, and HRU requests, are left in queues that the mask names. -/
def Ctx.busyAtCommit (c : Ctx) (m : BitVec 8) : Bool :=
  (m.getLsbD 1 && c.wave.cq.any fun o => c.own o.split) || (m.getLsbD 6 && c.wave.hq.any fun r => c.own r.split)

/-- Operations of the path, or earlier pops, are left in a queue that the mask names (R228, R262). -/
def Ctx.busy (c : Ctx) (tick : Nat) (m : BitVec 8) : Bool :=
  c.busyAtCommit m || (m.getLsbD 0 && c.wave.mq.any fun o => c.own o.split)
  || (m.getLsbD 7 && c.wave.gq.any fun r => c.own r.split)
  || (List.range 4).any fun k => m.getLsbD (2 + k) && c.wave.popsBefore k (c.issuedAt tick)

/-- The mask names queues whose operations a commit performs: the word ends its quantum (R233). -/
def Ctx.fencesCommit (c : Ctx) (m : BitVec 8) : Bool :=
  c.launch.repro && !c.waits && (m.getLsbD 1 || m.getLsbD 6
    || (List.range 4).any fun k => m.getLsbD (2 + k) && (c.wave.stream k).global)

/-- What the fence waits for comes at commits only, so that the quantum ends again. -/
def Ctx.waitsForCommit (c : Ctx) (tick : Nat) (m : BitVec 8) : Bool :=
  c.launch.repro && (c.busyAtCommit m
    || (List.range 4).any fun k =>
        let x := c.wave.stream k
        m.getLsbD (2 + k) && c.wave.popsBefore k (c.issuedAt tick) && x.global && !x.ended)

/-- `qfence` (R262): pending errors trap first; then the path waits until the operations have been performed. -/
def execQfence (m : BitVec 8) (s : State) : Out :=
  issue s fun c =>
    s.unless c ((if m.getLsbD 1 then c.copyErrTrap (ixs c.path.active) else none)
        <|> (if m.getLsbD 6 then engErrTrap 6 c.wave.hErr else none)
        <|> if m.getLsbD 7 then engErrTrap 7 c.wave.gErr else none)
      (if c.fencesCommit m || c.busy s.tick m then
        s.modWave c.ref.group c.ref.wix fun w =>
          ({ w with qended := w.qended || (c.fencesCommit m || c.waitsForCommit s.tick m) }).modPath c.ref.slot fun p =>
            { p with wait := .qfence (c.issuedAt s.tick) }
       else s.complete c c.perf)

end Sys2Proof.Machine
end

