-- ==== Sys2Proof/Machine/Arbiter.lean ====
section
/-! DEFINITION. The arbiter of a quad's matrix engine: which entry at the head of a matrix queue it starts, and the engine's
cycles (R176 to R178, R191, R210). -/

namespace Sys2Proof.Machine

/-- An unperformed entry at the head of a wave's matrix queue. -/
structure Entrant where
  ref    : WaveRef
  prio   : Nat
  pos    : Nat
  op     : MatOp
deriving DecidableEq, Repr

/-- The entries that an `mma.sq` takes: up to `mg` whole rows in front of a marker. -/
def takeRows (mg : Nat) (x : Stream) : List Entry := (x.fifo.takeWhile fun e => e.marker.isNone).take mg

/-- An `mma.sq` can go on: its rows are there, or no more will come. -/
def rowsReady (mg : Nat) (x : Stream) : Bool :=
  decide ((takeRows mg x).length = mg) || x.ended || !x.opened

/-- An `mma.sq` may take rows of stream `k`: the commit that ends its quantum has taken place, where commits deliver them
(R233, R237), and no earlier `spop` waits (R260). -/
def Wave.mayTake (w : Wave) (op : MatOp) (k : Fin 4) : Bool := op.quantum != some w.qcount && !w.waitsBefore k.val op.at_

/-- The first stream row of an `mma.sq` has arrived, or its stream has ended. -/
def Wave.rowReady (w : Wave) (op : MatOp) : Bool :=
  match op.kind with
  | .mma (some k) => let x := w.stream k.val; w.mayTake op k && (!x.fifo.isEmpty || x.ended || !x.opened)
  | _ => true

/-- The entry waits for a commit: the one that ends its quantum, or a later one that delivers its rows. -/
def Wave.awaitsCommit (w : Wave) (op : MatOp) : Bool :=
  match op.kind with
  | .mma (some k) => op.quantum.isSome && (op.quantum == some w.qcount || !rowsReady op.mg (w.stream k.val))
  | _ => false

/-- The entries of the queue from the first that waits for a commit on: none of them is performed before one. -/
def Wave.bound (w : Wave) : List MatOp := w.mq.dropWhile fun o => !w.awaitsCommit o

/-- The unperformed entries of a physical quad that meet every condition of R177 but the grant. -/
def State.entrants (s : State) (c pq : Nat) : List Entrant :=
  (s.groups.filter fun g => g.cluster == c && g.coreNo / 4 == pq).flatMap fun g => g.waves.filterMap fun w =>
    match w.mq with
    | [] => none
    | op :: _ => if w.rowReady op then some ⟨⟨g.id, w.wix⟩, g.prio, g.core % 4, op⟩ else none

/-- An MMA form, which runs in granted engine cycles only (R177, R178). -/
def MatOp.isMma (o : MatOp) : Bool :=
  match o.kind with
  | .mma _ => true
  | _ => false

/-- The entry occupies the engine: it has been started, and its cycles are not over, or it waits for rows (R191), or it is a
tile instruction, whose time the spec leaves open. -/
def MatOp.running (o : MatOp) : Bool := o.begun && (o.left != 0 || o.kind != .mma none)

/-- The arbiter's order (R177): an entry passed over 32 times, then class, age and position. -/
def Entrant.key (x : Entrant) : List Nat := [if 32 ≤ x.op.passed then 0 else 1, x.prio, x.op.at_, x.pos]

def lexLt : List Nat → List Nat → Bool
  | a :: as, b :: bs => decide (a < b) || (a == b && lexLt as bs)
  | _, _ => false

/-- The arbiter's choice among the candidates. -/
def pickEntrant (xs : List Entrant) : Option Entrant :=
  xs.foldl (fun (b : Option Entrant) x => match b with
    | none => some x
    | some y => if lexLt x.key y.key then some x else some y) none

def State.modEntry (s : State) (r : WaveRef) (f : MatOp → MatOp) : State :=
  s.modWave r.group r.wix fun w => { w with mq := modAt f 0 w.mq }

/-- The arbiter starts an entry; every other candidate has been passed over once more. -/
def State.startEntry (s : State) (xs : List Entrant) (x : Entrant) : State :=
  (xs.foldl (fun t y => if y.ref = x.ref then t else t.modEntry y.ref fun o => { o with passed := o.passed + 1 }) s).modEntry
    x.ref fun o => { o with begun := true }

/-- One granted cycle of a quad's engine: the entry that occupies it goes on, or the arbiter starts one of those that wait
(R177, R210). -/
def State.engineCycle (s : State) (c pq : Nat) : State :=
  let xs := s.entrants c pq
  match xs.find? fun x => x.op.running with
  | some x => s.modEntry x.ref fun o => { o with left := o.left - 1 }
  | none =>
    let ws := xs.filter fun x => !x.op.begun
    match pickEntrant ws with
    | none => s
    | some x => (s.startEntry ws x).modEntry x.ref fun o => { o with left := o.left - 1 }

/-- The arbiter starts a tile instruction where no MMA form holds a grant: a free engine, and the first of the tile
instructions that wait (R177). -/
def State.startTile (s : State) (c pq : Nat) (r : WaveRef) : Option State :=
  let xs := s.entrants c pq
  if xs.any fun x => x.op.running then none
  else
    let ws := xs.filter fun x => !x.op.begun && !x.op.isMma
    match pickEntrant ws with
    | none => none
    | some x => if x.ref = r then some (s.startEntry ws x) else none

def State.engineCycles (s : State) (c pq : Nat) : (n : Nat) → State
  | 0 => s
  | n + 1 => (s.engineCycle c pq).engineCycles c pq n

end Sys2Proof.Machine
end

