-- ==== Sys2Proof/Machine/Flags.lean ====
section
/-! DEFINITION. Every comparison that writes a predicate (R96, R97, R113), and the bits of a stream's and a wave's status
words (R61, R261). -/

namespace Sys2Proof.Machine

/-- A condition on the truth of `<` and `=` (R96). -/
def holds (c : ICmp) (lt eq : Bool) : Bool :=
  match c with
  | .eq => eq
  | .ne => !eq
  | .lt => lt
  | .le => lt || eq
  | .gt => !(lt || eq)
  | .ge => !lt

/-- A signed compare of `w`-bit values (R96). -/
def cmpS (c : ICmp) (a b : BitVec w) : Bool := holds c (a.slt b) (a == b)
/-- An unsigned compare (R96). -/
def cmpU (c : ICmp) (a b : BitVec w) : Bool := holds c (a.ult b) (a == b)

/-- A relation between two values that are not NaN; −0 equals +0 (R97). -/
def relF (c : ICmp) (x y : Val) : Bool := holds c (x.lt y) (x.eqv y)

/-- An ordered condition: false with a NaN (R97). -/
def cmpOrd (c : ICmp) (x y : Val) : Bool := !x.isNan && !y.isNan && relF c x y

/-- An unordered condition: true with a NaN (R97). -/
def cmpUn (c : ICmp) (x y : Val) : Bool := x.isNan || y.isNan || relF c x y

/-- The f32 conditions (R97). -/
def cmpF (c : FCmp) (x y : Val) : Bool :=
  match c with
  | .eq => cmpOrd .eq x y
  | .ne => cmpOrd .ne x y
  | .lt => cmpOrd .lt x y
  | .le => cmpOrd .le x y
  | .gt => cmpOrd .gt x y
  | .ge => cmpOrd .ge x y
  | .equ => cmpUn .eq x y
  | .neu => cmpUn .ne x y
  | .ltu => cmpUn .lt x y
  | .leu => cmpUn .le x y
  | .gtu => cmpUn .gt x y
  | .geu => cmpUn .ge x y
  | .num => !x.isNan && !y.isNan
  | .nan => x.isNan || y.isNan

end Sys2Proof.Machine
end

