-- ==== Sys2Proof/Machine/Arith.lean ====
section
/-! DEFINITION. What the arithmetic words compute from their operand values (R91 to R104). -/

namespace Sys2Proof.Machine

/-- Clamped to the signed 32-bit range, `sat_s` (R91). -/
def satS (x : Int) : Word := BitVec.ofInt 32 (max (-2 ^ 31) (min (2 ^ 31 - 1) x))
/-- Clamped to the unsigned 32-bit range, `sat_u` (R91). -/
def satU (x : Int) : Word := BitVec.ofInt 32 (max 0 (min (2 ^ 32 - 1) x))

def mulhiS (a b : Word) : Word := BitVec.ofInt 32 (a.toInt * b.toInt / 2 ^ 32)
def mulhiU (a b : Word) : Word := BitVec.ofNat 32 (a.toNat * b.toNat / 2 ^ 32)
def minS (a b : BitVec w) : BitVec w := if b.slt a then b else a
def maxS (a b : BitVec w) : BitVec w := if a.slt b then b else a
def minU (a b : BitVec w) : BitVec w := if b.ult a then b else a
def maxU (a b : BitVec w) : BitVec w := if a.ult b then b else a

/-- Shifts by an amount that may reach the width (R93, R94). -/
def shl (a : BitVec w) (n : Nat) : BitVec w := if n < w then a <<< n else 0
def shrU (a : BitVec w) (n : Nat) : BitVec w := if n < w then a >>> n else 0
def shrS (a : BitVec w) (n : Nat) : BitVec w := a.sshiftRight (min n (w - 1))
def rotl (a : Word) (n : Nat) : Word := a.rotateLeft (n % 32)

def popc (a : Word) : Word := BitVec.ofNat 32 (ones a)
where
  /-- The number of set bits. -/
  ones (a : Word) : Nat := ((List.range 32).filter a.getLsbD).length

/-- Leading zero bits; 32 for zero (R94). -/
def clz (a : Word) : Word := BitVec.ofNat 32 (if a = 0 then 32 else 31 - Nat.log2 a.toNat)
def brev (a : Word) : Word := a.reverse

/-- Position and length of a bit field (R95). -/
def fieldOf (b : Word) : Nat × Nat :=
  let pos := b.toNat % 256
  (pos, if 32 ≤ pos then 0 else min (b.toNat / 256 % 256) (32 - pos))

/-- The mask of a bit field in place (R95). -/
def fieldMask (b : Word) : Word := BitVec.ofNat 32 ((2 ^ (fieldOf b).2 - 1) * 2 ^ (fieldOf b).1)

def bfeU (a b : Word) : Word := if (fieldOf b).2 = 0 then 0 else (a &&& fieldMask b) >>> (fieldOf b).1

def bfeS (a b : Word) : Word :=
  let len := (fieldOf b).2
  if len = 0 then 0 else ((bfeU a b) <<< (32 - len)).sshiftRight (32 - len)

def bfi (d a b : Word) : Word :=
  if (fieldOf b).2 = 0 then d else (d &&& ~~~(fieldMask b)) ||| ((a <<< (fieldOf b).1) &&& fieldMask b)

def bsel (d a b : Word) : Word := (d &&& a) ||| (~~~d &&& b)

/-! ### Floating point (R103, R104) -/

def rmOf : ARnd → Rm
  | .rne => .rne
  | .rz => .rz
  | .ru => .ru
  | .rd => .rd

def isRd : Rm → Bool
  | .rd => true
  | _ => false

/-- A sum, difference, product and fused multiply-add in a fixed format, rounded once (R78, R103). -/
def fadd (F : FloatFmt) (r : Rm) (x y : Val) : Word := roundWord F r (x.add (isRd r) y)
def fsub (F : FloatFmt) (r : Rm) (x y : Val) : Word := roundWord F r (x.add (isRd r) y.neg)
def fmul (F : FloatFmt) (r : Rm) (x y : Val) : Word := roundWord F r (x.mul y)
def fma (F : FloatFmt) (r : Rm) (x y z : Val) : Word := roundWord F r ((x.mul y).add (isRd r) z)

/-- A value is a negative zero or below (R104). -/
def Val.isNeg : Val → Bool
  | .nan => false
  | .inf s => s
  | .fin s _ _ => s

/-- −0 counts as less than +0 (R104). -/
def fless (x y : Val) : Bool := x.lt y || (x.eqv y && x.isNeg && !y.isNeg)

/-- The canonical NaN for a NaN, the other operand's bits otherwise (R104). -/
def fminBits (F : FloatFmt) (dec : Word → Val) (least : Bool) (a b : Word) : Word :=
  let x := dec a
  let y := dec b
  let m := BitVec.ofNat 32 (2 ^ (1 + F.e + F.m) - 1)
  if x.isNan then (if y.isNan then BitVec.ofNat 32 F.qnan else b &&& m)
  else if y.isNan then a &&& m
  else if fless y x = least then b &&& m else a &&& m

def fabsBits (a : Word) : Word := if (f32Val a).isNan then BitVec.ofNat 32 fp32.qnan else a &&& 0x7FFFFFFF
def fnegBits (a : Word) : Word := if (f32Val a).isNan then BitVec.ofNat 32 fp32.qnan else a ^^^ 0x80000000

/-! ### Sums over threads (R102) -/

/-- The exact sum of several values, from +0 zeros on; `none` for no term. -/
def sumVals : List Val → Val
  | [] => .fin false 0 0
  | [v] => v
  | v :: vs => v.add false (sumVals vs)

/-- Accumulated values of a list: each prefix with its own element (R102). -/
def prefixes (f : α → List α → β) : List α → List α → List β
  | _, [] => []
  | before, x :: xs => f x before :: prefixes f (before ++ [x]) xs

end Sys2Proof.Machine
end

