-- ==== Sys2Proof/Machine/Hru.lean ====
section
/-! DEFINITION. The hash retrieval units: descriptors, hashes, buckets, the words that make requests and how requests are
performed, one bucket operation at a time (R264 to R287). -/

namespace Sys2Proof.Machine

/-! ### Table descriptors (R265, R266) -/

def tdMode (v : BitVec 512) : Nat := (v.extractLsb' 0 4).toNat
def tdL (v : BitVec 512) : Nat := (v.extractLsb' 4 5).toNat
def tdPolicy (v : BitVec 512) : Nat := (v.extractLsb' 11 3).toNat
def tdD (v : BitVec 512) : Nat := (v.extractLsb' 16 14).toNat
def tdIfmt (v : BitVec 512) : Word := v.extractLsb' 32 32
def tdSeed (v : BitVec 512) : DWord := v.extractLsb' 64 64
def tdTkey (v : BitVec 512) : Nat := (v.extractLsb' 128 32).toNat
def tdPfmt (v : BitVec 512) : Word := v.extractLsb' 160 32
def tdPmat (v : BitVec 512) : Nat := (v.extractLsb' 192 64).toNat
def tdHbase (v : BitVec 512) : Nat := (v.extractLsb' 256 64).toNat
def tdSbase (v : BitVec 512) : Nat := (v.extractLsb' 320 64).toNat
def tdKbase (v : BitVec 512) : Nat := (v.extractLsb' 384 64).toNat
def tdKpitch (v : BitVec 512) : Nat := (v.extractLsb' 448 32).toNat
def tdOvfn (v : BitVec 512) : Nat := (v.extractLsb' 480 16).toNat
def tdOvfinit (v : BitVec 512) : Nat := (v.extractLsb' 496 16).toNat

/-- Slots per bucket. -/
def tdSlots (v : BitVec 512) : Nat := 8 * 2 ^ (v.extractLsb' 9 2).toNat
/-- Bytes of a vector. -/
def tdLen (v : BitVec 512) : Nat := (tdD v * fmtBits (tdIfmt v) + 7) / 8

/-- A descriptor is valid (R266). -/
def tdValid (v : BitVec 512) : Bool :=
  (tdMode v == 1 || tdMode v == 2) && decide (1 ≤ tdL v) && decide (tdL v ≤ 24) && v.extractLsb' 9 2 != 3
  && decide (tdPolicy v ≤ 4) && v.extractLsb' 14 2 == 0 && decide (1 ≤ tdD v) && decide (tdD v ≤ 8192)
  && v.extractLsb' 30 2 == 0 && fmtValid (tdIfmt v) && fmtScale (tdIfmt v) == 0
  && (if tdMode v = 1 then tdPfmt v == 0 && tdPmat v == 0
      else fmtValid (tdPfmt v) && fmtScale (tdPfmt v) == 0 && tdPmat v % 32 == 0)
  && tdHbase v % 64 == 0 && tdSbase v % 128 == 0 && tdKbase v % 4 == 0 && tdKpitch v % 4 == 0
  && decide (tdLen v ≤ tdKpitch v) && (tdPolicy v == 3 || tdOvfn v == 0)
  && decide (tdPmat v < 2 ^ 56) && decide (tdHbase v < 2 ^ 56) && decide (tdSbase v < 2 ^ 56) && decide (tdKbase v < 2 ^ 56)

/-! ### Hashes (R267 to R269) -/

/-- Element `i` of a stream of bytes in a format (R69). -/
def elementAt (f : Word) (bs : List Byte) (i : Nat) : Val :=
  decodeFloat (fmtOf f) (leNat bs / 2 ^ (fmtBits f * i) % 2 ^ fmtBits f)

/-- A generated element: true for −1 (R268). -/
def genMinus (v : BitVec 512) (j d : Nat) : Bool :=
  ([tdTkey v, j, d].foldl (fun g k => mix (g ^^^ BitVec.ofNat 64 k)) (mix (tdSeed v + 0x9E3779B97F4A7C15))).getLsbD 63

/-- Bit `j` of a hash: the sign of an exact sum; `mat` is the explicit matrix (R267). -/
def hashBit (v : BitVec 512) (mat vec : List Byte) (j : Nat) : Bool :=
  let term (d : Nat) : Val :=
    let x := elementAt (tdIfmt v) vec d
    if tdMode v = 1 then (if genMinus v j d then x.neg else x)
    else (elementAt (tdPfmt v) mat (j * tdD v + d)).mul x
  (Val.fin false 0 0).lt ((List.range (tdD v)).foldl (fun acc d => acc.add false (term d)) (.fin false 0 0))

/-- h(T, x). -/
def hashOf (v : BitVec 512) (mat vec : List Byte) : Nat :=
  ((List.range (tdL v)).map fun j => (hashBit v mat vec j).toNat * 2 ^ j).sum

/-! ### What an HRU reads and writes -/

/-- Slot `k` of the device. -/
def State.hruSlot (s : State) (k : Nat) : HruSlot := s.hru.getD k HruSlot.reset
def State.modSlot (s : State) (k : Nat) (f : HruSlot → HruSlot) : State := { s with hru := modAt f k s.hru }

/-- Why an HRU access does not succeed: a translation fault, or an uncorrectable unit. -/
inductive HFail where
  | fault (f : XFault) (k : Access) (va : Nat)
  | ecc (va : Nat)
deriving DecidableEq, Repr

/-- Bytes read in a slot's context (R264); a sector with an uncorrectable unit reads as zeros (log 81). -/
def State.hruRead (s : State) (k : Nat) (va n : Nat) : Except HFail (List Byte) :=
  (sectors va n).foldl (fun r x =>
    match r with
    | .error f => .error f
    | .ok bs =>
      match s.translate (k / 16) (s.hruSlot k).ctx false .engineRead x.1 x.2 with
      | .error f => .error (.fault f .engineRead x.1)
      | .ok p => .ok (bs ++ if s.physBad p x.2 then List.replicate x.2 0 else s.physRead p x.2)) (.ok [])

/-- A range holds an uncorrectable unit. -/
def State.hruBad (s : State) (k : Nat) (va n : Nat) : Bool :=
  (sectors va n).any fun x =>
    match s.translate (k / 16) (s.hruSlot k).ctx false .engineRead x.1 x.2 with
    | .error _ => false
    | .ok p => s.physBad p x.2

/-- Bytes written in a slot's context, sector by sector: the sectors before a fault stay written. -/
def State.hruWrite (s : State) (k : Nat) (va : Nat) (bs : List Byte) : State × Option HFail :=
  (sectors va bs.length).foldl (fun r x =>
    match r.2 with
    | some _ => r
    | none =>
      match r.1.translate (k / 16) (s.hruSlot k).ctx false .engineWrite x.1 x.2 with
      | .error f => (r.1, some (.fault f .engineWrite x.1))
      | .ok p => (r.1.physWrite p ((bs.drop (x.1 - va)).take x.2), none)) (s, none)

/-- The bucket that a vector hashes to in slot `k`. -/
def State.hashIn (s : State) (k : Nat) (vec : List Byte) : Except HFail Nat :=
  let v := (s.hruSlot k).desc
  if tdMode v = 1 then .ok (hashOf v [] vec)
  else (s.hruRead k (tdPmat v) ((tdL v * tdD v * fmtBits (tdPfmt v) + 7) / 8)).map fun mat => hashOf v mat vec

/-- The matrix of slot `k` holds an uncorrectable unit. -/
def State.matrixBad (s : State) (k : Nat) : Bool :=
  let v := (s.hruSlot k).desc
  tdMode v == 2 && s.hruBad k (tdPmat v) ((tdL v * tdD v * fmtBits (tdPfmt v) + 7) / 8)

/-- Key row `i` of slot `k`. -/
def State.keyRow (s : State) (k i : Nat) : Except HFail (List Byte) :=
  let v := (s.hruSlot k).desc
  s.hruRead k (tdKbase v + i * tdKpitch v) (tdLen v)

/-! ### Buckets (R270, R271) -/

/-- A bucket as a bucket operation holds it: its header and slots. -/
structure Bucket where
  num   : Nat
  head  : BitVec 128
  ids   : List Word
deriving DecidableEq, Repr

def noRow : Word := 0xFFFFFFFF

/-- The header of an empty bucket (R270). -/
def emptyHead : BitVec 128 := BitVec.ofNat 128 (0xFFFFFFFF * 2 ^ 32)

/-- `COUNT`, read as at most S. -/
def Bucket.count (b : Bucket) : Nat := min (b.head.extractLsb' 0 6).toNat b.ids.length
def Bucket.next (b : Bucket) : Nat := (b.head.extractLsb' 32 32).toNat
def Bucket.seen (b : Bucket) : Nat := (b.head.extractLsb' 64 32).toNat
/-- The slots below `COUNT`. -/
def Bucket.held (b : Bucket) : List Word := b.ids.take b.count

def headVa (v : BitVec 512) (b : Nat) : Nat := tdHbase v + 16 * b
def slotVa (v : BitVec 512) (b : Nat) : Nat := tdSbase v + 4 * tdSlots v * b

/-- One bucket read. -/
def State.readBucket (s : State) (k b : Nat) : Except HFail Bucket :=
  let v := (s.hruSlot k).desc
  (s.hruRead k (headVa v b) 16).bind fun h =>
    (s.hruRead k (slotVa v b) (4 * tdSlots v)).map fun xs =>
      ⟨b, BitVec.ofNat 128 (leNat h), (List.range (tdSlots v)).map fun i => BitVec.ofNat 32 (leNat ((xs.drop (4 * i)).take 4))⟩

/-- The chain from bucket `b` on; `seen` are the buckets before it. -/
def State.chainFrom (s : State) (k : Nat) : (fuel b : Nat) → (seen : List Nat) → Except HFail (List Bucket)
  | 0, _, _ => .ok []
  | fuel + 1, b, seen =>
    (s.readBucket k b).bind fun x =>
      let home := 2 ^ tdL (s.hruSlot k).desc
      if decide (home ≤ x.next) && decide (x.next < home + (s.hruSlot k).ovfused.toNat) && !(b :: seen).contains x.next then
        (s.chainFrom k fuel x.next (b :: seen)).map fun r => x :: r
      else .ok [x]

/-- The chain of home bucket `b`. -/
def State.chain (s : State) (k b : Nat) : Except HFail (List Bucket) :=
  s.chainFrom k ((s.hruSlot k).ovfused.toNat + 1) b []

/-- The ranges of global memory of a hash's matrix, of a key row, and of a chain's buckets (R304). -/
def hashRanges (v : BitVec 512) : List (Nat × Nat) :=
  if tdMode v = 1 then [] else [(tdPmat v, (tdL v * tdD v * fmtBits (tdPfmt v) + 7) / 8)]
def keyRange (v : BitVec 512) (i : Nat) : List (Nat × Nat) := [(tdKbase v + i * tdKpitch v, tdLen v)]
def bucketRanges (v : BitVec 512) (bs : List Bucket) : List (Nat × Nat) :=
  bs.flatMap fun b => [(headVa v b.num, 16), (slotVa v b.num, 4 * tdSlots v)]

/-- The chain holds an uncorrectable unit. -/
def State.chainBad (s : State) (k : Nat) (ch : List Bucket) : Bool :=
  let v := (s.hruSlot k).desc
  ch.any fun b => s.hruBad k (headVa v b.num) 16 || s.hruBad k (slotVa v b.num) (4 * tdSlots v)

/-- The ids of a chain, in order (R274). -/
def chainIds (ch : List Bucket) : List Word := ch.flatMap fun b => b.held.filter fun i => i != noRow

/-- A changed bucket: `GEN` rises. -/
def Bucket.changed (b : Bucket) : Bucket :=
  { b with head := setBits b.head 96 32 ((b.head.extractLsb' 96 32).toNat + 1) }

/-- An id in the slot behind the last one. -/
def Bucket.append (b : Bucket) (i : Word) : Bucket :=
  { b with ids := modAt (fun _ => i) b.count b.ids, head := setBits b.head 0 6 (b.count + 1) }.changed

/-- Slot `j` removed, the later ones shifted down. -/
def Bucket.remove (b : Bucket) (j : Nat) : Bucket :=
  { b with ids := b.ids.take j ++ (b.held.drop (j + 1)) ++ b.ids.drop (b.count - 1)
           head := setBits b.head 0 6 (b.count - 1) }.changed

/-- The buckets of a chain written back: header and slots; the first fault leaves nothing written. -/
def State.writeChain (s : State) (k : Nat) (bs : List Bucket) : Except HFail State :=
  let v := (s.hruSlot k).desc
  bs.foldl (fun r b =>
    match r with
    | .error f => .error f
    | .ok t =>
      match t.hruWrite k (headVa v b.num) (leBytes 16 b.head.toNat) with
      | (_, some f) => .error f
      | (t1, none) =>
        match t1.hruWrite k (slotVa v b.num) (b.ids.flatMap fun i => leBytes 4 i.toNat) with
        | (_, some f) => .error f
        | (t2, none) => .ok t2) (.ok s)

/-! ### Inserts and deletes (R272, R273) -/

inductive Placed where
  | present | placed | not | hashfull
deriving DecidableEq, Repr

/-- What an insert makes of a chain and of the slot's counters: the buckets to write, the result, the ids evicted. -/
structure Insert where
  write  : List Bucket
  res    : Placed
  drops  : Nat := 0
  evicts : Nat := 0
  gone   : Nat := 0
  linked : Bool := false
deriving DecidableEq, Repr

/-- Where the reservoir puts an id (R272). -/
def reservoir (v : BitVec 512) (b seen : Nat) : Nat :=
  (([tdTkey v, 0xFFFFFFFF, b, seen].foldl (fun g k => mix (g ^^^ BitVec.ofNat 64 k))
    (mix (tdSeed v + 0x9E3779B97F4A7C15))).extractLsb' 32 32).toNat % seen

/-- Evicted rows: 1 when the slot held an id. -/
def isRow (i : Word) : Nat := if i = noRow then 0 else 1

/-- An insert of `i` into the chain of home bucket `b`. -/
def insertId (v : BitVec 512) (ovfused : Nat) (i : Word) (ch : List Bucket) : Insert :=
  match ch with
  | [] => { write := [], res := .not }
  | b0 :: rest =>
    if (chainIds ch).contains i then { write := [], res := .present }
    else
      let b := { b0 with head := setBits b0.head 64 32 (min (b0.seen + 1) 0xFFFFFFFF) }
      let S := tdSlots v
      if tdPolicy v ≠ 3 ∧ b.count < S then { write := [b.append i], res := .placed }
      else if tdPolicy v = 0 then { write := [b], res := .not, drops := 1 }
      else if tdPolicy v = 1 then
        { write := [{ b with ids := b.ids.drop 1 ++ [i] }.changed], res := .placed, evicts := 1, gone := isRow (b.ids.headD 0) }
      else if tdPolicy v = 2 then
        let k := reservoir v b.num b.seen
        if k < S then
          { write := [{ b with ids := modAt (fun _ => i) k b.ids }.changed], res := .placed, evicts := 1,
            gone := isRow (b.ids.getD k 0) }
        else { write := [b], res := .not, drops := 1 }
      else if tdPolicy v = 3 then
        match (b :: rest).find? fun x => decide (x.count < S) with
        | some x => if x.num = b.num then { write := [b.append i], res := .placed }
            else { write := [b, x.append i], res := .placed }
        | none =>
          if ovfused < tdOvfn v then
            let n := 2 ^ tdL v + ovfused
            let new : Bucket := (⟨n, emptyHead, List.replicate S noRow⟩ : Bucket).append i
            let link (x : Bucket) : Bucket := { x with head := setBits x.head 32 32 n }.changed
            match rest.getLast? with
            | none => { write := [link b, new], res := .placed, linked := true }
            | some x => { write := [b, link x, new], res := .placed, linked := true }
          else { write := [b], res := .hashfull }
      else { write := [b], res := .hashfull }

/-- A delete of `i` from a chain: the bucket to write. -/
def deleteId (i : Word) : List Bucket → Option Bucket
  | [] => none
  | b :: r =>
    match b.held.findIdx? fun x => x == i with
    | some j => some (b.remove j)
    | none => deleteId i r

/-- A bucket operation that inserts (R271, R272, R282). -/
def State.hruInsert (s : State) (g k : Nat) (i : Word) (b : Nat) : Except HFail (State × Placed) :=
  let sl := s.hruSlot k
  (s.chain k b).bind fun ch =>
    if s.chainBad k ch then .error (.ecc (headVa sl.desc b))
    else
      let r := insertId sl.desc sl.ovfused.toNat i ch
      (s.writeChain k r.write).map fun t =>
        ((t.touchAll g (bucketRanges sl.desc (ch ++ r.write))).modSlot k fun x =>
          { x with
            rows := x.rows + (if r.res = .placed then 1 else 0) - BitVec.ofNat 32 r.gone
            drops := x.drops + BitVec.ofNat 32 r.drops
            evicts := x.evicts + BitVec.ofNat 32 r.evicts
            ovfused := x.ovfused + (if r.linked then 1 else 0)
            tgen := x.tgen + (if r.res = .placed then 1 else 0) }, r.res)

/-- A bucket operation that deletes (R273, R282). -/
def State.hruDelete (s : State) (g k : Nat) (i : Word) (b : Nat) : Except HFail State :=
  (s.chain k b).bind fun ch =>
    if s.chainBad k ch then .error (.ecc (headVa (s.hruSlot k).desc b))
    else
      let s := s.touchAll g (bucketRanges (s.hruSlot k).desc ch)
      match deleteId i ch with
      | none => .ok s
      | some x => (s.writeChain k [x]).map fun t =>
          t.modSlot k fun y => { y with rows := y.rows - 1, tgen := y.tgen + 1 }

/-! ### Lists (R278, R279) -/

/-- A list header. -/
def listHead (ntot nw : Nat) (trunc pair fkey err psn : Bool) : List Byte :=
  leBytes 4 ntot ++ leBytes 4 nw
  ++ leBytes 8 (trunc.toNat + 2 * pair.toNat + 4 * fkey.toNat + 8 * err.toNat + 16 * psn.toNat)

/-- Entries, then the header. -/
def State.writeList (s : State) (g : Group) (ea : Nat) (head : List Byte) (entries : List Byte) : State :=
  (s.engSpWrite g (ea + 16) entries).engSpWrite g ea head

/-! ### Issue (R280, R281) -/

/-- The slots that a selector names, ascending. -/
def selSlots (sel : Word) : List Nat :=
  ((List.range 16).filter fun k => sel.getLsbD k).map fun k => 16 * (sel.extractLsb' 16 2).toNat + k

/-- A slot that the launch's grant mask does not hold (R264). -/
def Ctx.ungranted (c : Ctx) (slots : List Nat) : Option Nat := slots.find? fun k => !c.launch.hrumask.getLsbD k

/-- An address outside `SPACE` 0. -/
def notSpace0 (ea : Nat) : Bool := ea / 2 ^ 30 != 0

/-- The slot that the record of a bad selector names: the lowest one that it names, or the first of its die (R294, log 78). -/
def selFirst (sel : Word) : Nat := (selSlots sel).headD (16 * (sel.extractLsb' 16 2).toNat)

/-- A request as it enters the queue. -/
def Ctx.newReq (c : Ctx) (kind : HKind) (t : Nat) (a lo sel : Word) (desc : BitVec 512) (slots : List Nat) : HReq :=
  { kind, thread := t, a, lo, sel, desc, slots, ready := false, olds := [], query := [], room := 0, qbad := [], moving := none, bucket := 0,
    writes := slots, wrote := 0, put := 0, out := [], psn := false, fault := none, stopped := 0, behind := none, quantum := c.wave.qcount,
    at_ := 0, split := c.path.split }

/-- Requests queued after the path's stores. -/
def State.queueReqs (s : State) (c : Ctx) (rs : List HReq) : State :=
  ((s.drain c.ref.group c.ref.wix).modWave c.ref.group c.ref.wix fun w => { w with hq := w.hq ++ rs.map fun r => { r with at_ := s.tick } }).complete c c.perf

/-- A probe, insert, delete or move: its checks, then a request of each thread. `wide` says that b is a pair with an
address in its low word; `aAddr` that a is a cluster address. -/
def hruWord (s : State) (kind : HKind) (a b : VOp) (wide aAddr : Bool) (align : Nat) (res14 : Bool) : Out :=
  atP0 s fun c =>
    let sel (t : Nat) : Word := if wide then (c.v64 t b).extractLsb' 32 32 else c.v32 t b
    let lo (t : Nat) : Word := if wide then (c.v64 t b).extractLsb' 0 32 else 0
    let cap (t : Nat) : Nat := ((sel t).extractLsb' 18 14).toNat
    s.unless c (c.srcTrap c.perf [⟨a, false⟩, ⟨b, wide⟩]
        <|> failWith .stream 9 (fun t =>
              if (sel t).extractLsb' 0 16 = 0 ∨ (res14 ∧ cap t ≠ 0) ∨ (!aAddr ∧ c.v32 t a = noRow) then some (selFirst (sel t))
              else none) c.perf
        <|> failWith .align 0 (fun t =>
              if aAddr ∧ (c.v32 t a).toNat % 4 ≠ 0 then some (c.v32 t a).toNat
              else if wide ∧ (lo t).toNat % align ≠ 0 then some (lo t).toNat else none) c.perf
        <|> failWith .perm 0 (fun t =>
              c.ungranted (selSlots (sel t)) <|>
              if aAddr ∧ notSpace0 (c.v32 t a).toNat then some (c.v32 t a).toNat
              else if wide ∧ notSpace0 (lo t).toNat then some (lo t).toNat else none) c.perf
        <|> if kind = .probe then s.rangeTrap c (fun t => [(false, (lo t).toNat, 16 + 4 * cap t)]) c.perf else none)
      (s.queueReqs c (c.perf.map fun t => c.newReq kind t (c.v32 t a) (lo t) (sel t) 0 (selSlots (sel t))))

/-- `hprobe` (R280, R283). -/
def execHprobe (a b : VOp) (s : State) : Out := hruWord s .probe a b true true 16 false
/-- `hins` (R280, R284). -/
def execHins (a b : VOp) (s : State) : Out := hruWord s .ins a b false false 1 true
/-- `hdel` (R280, R285). -/
def execHdel (a b : VOp) (scan : Bool) (s : State) : Out := hruWord s (.del scan) a b false false 1 true
/-- `hrehash` (R280, R286). -/
def execHrehash (a b : VOp) (s : State) : Out := hruWord s .rehash a b true false 4 true

/-- The descriptor at a cluster address. R294 lists no trap for one that is lost: the bytes of such a unit are free (log 81). -/
def State.hsetDesc (s : State) (c : Ctx) (t ea : Nat) : BitVec 512 :=
  BitVec.ofNat 512 (leNat ((s.spReadAt c t ea 64).mapIdx fun i b =>
    if s.netDown c.group ea || s.engSpBad c.group (ea + i / 4 * 4) 4 then Config.lostByte s.tick i else b))

/-- `hset` (R280, R281, R287): one request for the wave. The descriptor is read after the path's earlier accesses. -/
def hset (s : State) (op : Nat) (a b : VOp) : Out :=
  atP0 s fun c =>
    match c.perf with
    | [] => s.complete c []
    | t :: _ =>
      let s := s.drain c.ref.group c.ref.wix
      let ea (t : Nat) : Nat := (c.v32 t a).toNat
      let k := (c.v32 t b).toNat
      let v := s.hsetDesc c t (ea t)
      s.unless c (c.srcTrap c.perf [⟨a, false⟩, ⟨b, false⟩]
          <|> agreeTrap [fun t => (c.v32 t a).setWidth 64, fun t => (c.v32 t b).setWidth 64] c.perf
          <|> failWith .stream 9 (fun t => if 63 < (c.v32 t b).toNat then some (c.v32 t b).toNat else none) c.perf
          <|> alignTrap ea 64 c.perf
          <|> failWith .perm 0 (fun t => c.ungranted [k] <|> if notSpace0 (ea t) then some (ea t) else none) c.perf
          <|> s.rangeTrap c (fun t => [(false, ea t, 64)]) c.perf
          <|> if op ≤ 1 ∧ !(tdValid v && decide (tdOvfinit v ≤ tdOvfn v)) then
                some { cause := .stream, sub := 8, mask := maskOf c.perf, addr := BitVec.ofNat 64 (ea t) }
              else none)
        (s.queueReqs c [c.newReq (.set op) t (c.v32 t a) 0 (c.v32 t b) v [k]])

/-- `hset` bind (R287). -/
def execHsetBind (a b : VOp) (s : State) : Out := hset s 0 a b
/-- `hset` bind and clear (R287). -/
def execHsetBindClear (a b : VOp) (s : State) : Out := hset s 1 a b
/-- `hset` unbind (R287). -/
def execHsetUnbind (a b : VOp) (s : State) : Out := hset s 2 a b
/-- `hset` status (R287). -/
def execHsetStatus (a b : VOp) (s : State) : Out := hset s 3 a b

/-! ### Performing requests (R275 to R277) -/

def State.modReq (s : State) (e : Eng) (f : HReq → HReq) : State := s.modEng e fun w => { w with hq := modAt f 0 w.hq }
def State.popReq (s : State) (e : Eng) : State := s.modEng e fun w => { w with hq := w.hq.tail }

/-- The first error of the queue recorded, later ones counted (R275). -/
def addErr (old : Option EngErr) (x : EngErr) : Option EngErr :=
  match old with
  | none => some x
  | some y => some { y with later := y.later + 1 }

/-- The row id that the record of a failed request names (R294). -/
def HReq.row (r : HReq) : List Nat :=
  match r.kind with
  | .ins => [r.a.toNat]
  | .del _ => [r.a.toNat]
  | .rehash => [r.a.toNat]
  | .probe => []
  | .set _ => []

/-- What a dump tells of a request: its wave, its kind, its thread, its operands and the bytes of key rows or of cleared
buckets written (R374, log 17). -/
def Eng.lostReq (e : Eng) (r : HReq) : List Nat := [e.wave.wix, 1, r.thread, r.a.toNat, r.lo.toNat, r.put + r.wrote]

/-- The request fails at slot `k` (R275): the slot counts it, the wave records it with the slot and the further items of
R294, a probe writes its header (R283). -/
def State.hruFail (s : State) (e : Eng) (r : HReq) (k cause addr : Nat) (more : List Nat) : State :=
  let s0 := (s.modSlot k fun x => { x with errs := x.errs + 1 }).popReq e
  let s1 := if cause ∈ [0x06, 0x07, 0x11] then s0.noteLost e.group (e.lostReq r) else s0
  let s2 := (match r.kind with
    | .set _ => s1.modSlot k fun x => { x with binding := none }
    | _ => s1).modEng e fun w => { w with hErr := addErr w.hErr ⟨cause, 0, BitVec.ofNat 64 addr, r.thread, (k :: more).map (BitVec.ofNat 64), 0⟩ }
  if r.kind = .probe then s2.engSpWrite e.group r.lo.toNat (listHead 0 0 false false false true r.psn) else s2

/-- A failed access of the request at slot `k`: it waits on its record, or fails with ECC. -/
def State.hruStop (s : State) (e : Eng) (r : HReq) (k : Nat) (f : HFail) : State :=
  match f with
  | .ecc va => s.hruFail e r k 0x11 va (va :: r.row)
  | .fault x a va =>
    let (t, ref) := s.postFault (k / 16)
      ⟨BitVec.ofNat 64 va, (s.hruSlot k).ctx, a, x, e.group.core, e.wave.wslot, BitVec.twoPow 32 r.thread, false⟩
    t.modReq e fun q => { q with fault := some ref, stopped := k }

/-- The request goes on with its next slot. -/
def HReq.nextSlot (r : HReq) : HReq := { r with slots := r.slots.tail, moving := none, bucket := 0 }

/-- The largest vector: 8,192 elements of 32 bits. -/
def maxVector : Nat := 32768

/-- The query or the new vector of a request, read once (R283, R286): as much of the scratchpad from `ea` on as the vector of
any slot can need, whatever the slot is bound to when the request reaches it. A group that has exited reads 0. -/
def State.readQuery (s : State) (e : Eng) (ea : Nat) (r : HReq) : HReq :=
  match s.target e.group (ea / 2 ^ 24 % 64) with
  | none => { r with ready := true, query := [], room := if s.exited e.group (ea / 2 ^ 24 % 64) then maxVector else 0, qbad := [] }
  | some g =>
    let off := ea % 2 ^ 24
    { r with
      ready := true
      query := (g.sp.filter fun x => decide (off ≤ x.1) && decide (x.1 < off + maxVector)).map fun x => (x.1 - off, x.2)
      room := g.spsize - off
      qbad := if s.netDown e.group ea then List.range (maxVector / 4)
        else (g.spBad.filter fun u => decide (off / 4 ≤ u) && decide (u < (off + maxVector) / 4)).map fun u => u - off / 4 }

/-- The vector that was read, as a slot with vectors of `n` bytes takes it: nothing where it passes the bound; an uncorrectable
unit is zero. -/
def HReq.vector (r : HReq) (n : Nat) : Option (List Byte × Bool) :=
  if r.room < n then none else some (poison 0 r.qbad.contains (r.query.bytes 0 n))

def vecOf (vs : List (Nat × List Byte)) (k : Nat) : List Byte := ((vs.find? fun x => x.1 == k).map Prod.snd).getD []

/-- Key row `a` of slot `k`, read once (R284). -/
def State.rowOnce (s : State) (r : HReq) (k : Nat) : Except HFail (List Byte) :=
  if r.olds.any fun x => x.1 == k then .ok (vecOf r.olds k) else s.keyRow k r.a.toNat

/-- A key row that has been read. -/
def HReq.keep (r : HReq) (k : Nat) (v : List Byte) : HReq :=
  if r.olds.any fun x => x.1 == k then r else { r with olds := r.olds ++ [(k, v)] }

/-- The key rows of the request's slots, those before the first fault kept. -/
def State.readRows (s : State) (r : HReq) : HReq × Option (Nat × HFail) :=
  r.slots.foldl (fun acc k =>
    match acc.2 with
    | some _ => acc
    | none => match s.rowOnce acc.1 k with
      | .error f => (acc.1, some (k, f))
      | .ok v => (acc.1.keep k v, none)) (r, none)

/-- One step of a probe (R283). -/
def State.probeStep (s : State) (e : Eng) (r : HReq) : State :=
  match r.slots with
  | [] =>
    let cap := (r.sel.extractLsb' 18 14).toNat
    let ids := r.out.take cap
    if s.engSpDown e.group r.lo.toNat then
      s.hruFail e r ((selSlots r.sel).getLastD 0) 0x11 r.lo.toNat [r.lo.toNat]
    else (s.writeList e.group r.lo.toNat
      (listHead r.out.length ids.length (decide (cap < r.out.length)) false false false r.psn)
      (ids.flatMap fun i => leBytes 4 i.toNat)).popReq e
  | k :: _ =>
    let v := (s.hruSlot k).desc
    if !(s.hruSlot k).bound then s.hruFail e r k 0x07 k []
    else if r.ready = false then s.modReq e (s.readQuery e r.a.toNat)
    else
      match r.vector (tdLen v) with
      | none => s.hruFail e r k 0x05 r.a.toNat [r.a.toNat]
      | some (x, lost) =>
        match (s.hashIn k x).bind fun b => s.chain k b with
        | .error f => s.hruStop e r k f
        | .ok ch =>
          let bad := s.chainBad k ch
          (s.touchAll e.group.id (hashRanges v ++ bucketRanges v ch)).modReq e fun q =>
            { q.nextSlot with
              out := q.out ++ (if bad then [] else chainIds ch), psn := q.psn || lost || bad || s.matrixBad k }

/-- One step of an insert (R284). -/
def State.insStep (s : State) (e : Eng) (r : HReq) : State :=
  match r.slots with
  | [] => s.popReq e
  | k :: _ =>
    if !(s.hruSlot k).bound then s.hruFail e r k 0x07 k []
    else
      match s.rowOnce r k with
      | .error f => s.hruStop e r k f
      | .ok row =>
        let kept := s.modReq e fun q => q.keep k row
        match (s.hashIn k row).bind fun b => (s.hruInsert e.group.id k r.a b).map fun x => (b, x) with
        | .error f => kept.hruStop e r k f
        | .ok (b, t0, res) =>
          let v := (s.hruSlot k).desc
          let t := t0.touchAll e.group.id (keyRange v r.a.toNat ++ hashRanges v)
          if res = .hashfull then t.hruFail e r k 0x0E r.a.toNat [b, r.a.toNat] else t.modReq e HReq.nextSlot

/-- One step of a delete (R285): one home bucket of a scan, or the row's own. -/
def State.delStep (s : State) (e : Eng) (r : HReq) (scan : Bool) : State :=
  match r.slots with
  | [] => s.popReq e
  | k :: _ =>
    if !(s.hruSlot k).bound then s.hruFail e r k 0x07 k []
    else if scan then
      match s.hruDelete e.group.id k r.a r.bucket with
      | .error f => s.hruStop e r k f
      | .ok t =>
        t.modReq e fun q => if 2 ^ tdL (s.hruSlot k).desc ≤ q.bucket + 1 then q.nextSlot else { q with bucket := q.bucket + 1 }
    else
      match s.rowOnce r k with
      | .error f => s.hruStop e r k f
      | .ok row =>
        match (s.hashIn k row).bind fun b => s.hruDelete e.group.id k r.a b with
        | .error f => (s.modReq e fun q => q.keep k row).hruStop e r k f
        | .ok t =>
          let v := (s.hruSlot k).desc
          (t.touchAll e.group.id (keyRange v r.a.toNat ++ hashRanges v)).modReq e HReq.nextSlot

/-- The new vector of a move as a slot takes it. -/
def HReq.newVector (r : HReq) (v : BitVec 512) : List Byte := ((r.vector (tdLen v)).map Prod.fst).getD []

/-- One step of a move (R276, R286): the reads; per slot the insert, then the delete; at last the key rows. -/
def State.rehashStep (s : State) (e : Eng) (r : HReq) : State :=
  if r.ready = false then
    match r.slots.find? fun k => !(s.hruSlot k).bound with
    | some k => s.hruFail e r k 0x07 k []
    | none =>
      match s.readRows r with
      | (q, some (k, f)) => (s.modReq e fun x => { x with olds := q.olds }).hruStop e r k f
      | (q, none) =>
        let q := s.readQuery e r.lo.toNat q
        match r.slots.find? fun k => (q.vector (tdLen (s.hruSlot k).desc)).isNone with
        | some k => s.hruFail e r k 0x05 r.lo.toNat [r.lo.toNat]
        | none =>
          (s.touchAll e.group.id (r.slots.flatMap fun k => keyRange (s.hruSlot k).desc r.a.toNat)).modReq e fun _ => q
  else
    match r.slots with
    | [] =>
      match r.writes with
      | [] => s.popReq e
      | k :: _ =>
        let v := (s.hruSlot k).desc
        let base := tdKbase v + r.a.toNat * tdKpitch v
        match s.hruWrite k (base + r.wrote) ((r.newVector v).drop r.wrote) with
        | (t, some (.fault x a va)) => (t.modReq e fun q => { q with wrote := va - base }).hruStop e r k (.fault x a va)
        | (t, some f) => t.hruStop e r k f
        | (t, none) =>
          (t.touchAll e.group.id (keyRange v r.a.toNat)).modReq e fun q =>
            { q with writes := q.writes.tail, wrote := 0, put := q.put + tdLen v }
    | k :: _ =>
      if !(s.hruSlot k).bound then s.hruFail e r k 0x07 k []
      else if (r.vector (tdLen (s.hruSlot k).desc)).isNone then s.hruFail e r k 0x05 r.lo.toNat [r.lo.toNat]
      else
        match r.moving with
        | some o =>
          match s.hruDelete e.group.id k r.a o with
          | .error f => s.hruStop e r k f
          | .ok t => t.modReq e HReq.nextSlot
        | none =>
          match (s.hashIn k (vecOf r.olds k)).bind fun o => (s.hashIn k (r.newVector (s.hruSlot k).desc)).map fun n => (o, n) with
          | .error f => s.hruStop e r k f
          | .ok (o, n) =>
            let s := s.touchAll e.group.id (hashRanges (s.hruSlot k).desc)
            if o = n then s.modReq e HReq.nextSlot
            else
              match s.hruInsert e.group.id k r.a n with
              | .error f => s.hruStop e r k f
              | .ok (t, res) =>
                let missed := t.modSlot k fun x => { x with movefail := x.movefail + 1 }
                match res with
                | .present => t.modReq e fun q => { q with moving := some o }
                | .placed => t.modReq e fun q => { q with moving := some o }
                | .not => missed.modReq e HReq.nextSlot
                | .hashfull => missed.hruFail e r k 0x0E r.a.toNat [n, r.a.toNat]

/-- The status record of a slot (R282). -/
def HruSlot.record (x : HruSlot) : List Byte :=
  leBytes 4 x.bound.toNat ++ ([x.rows, x.drops, x.evicts, x.ovfused, x.movefail, x.errs, x.tgen].flatMap fun v =>
    leBytes 4 v.toNat) ++ leBytes 32 0

/-- A slot bound with a descriptor; the counters start again (R287). -/
def HruSlot.bind (x : HruSlot) (v : BitVec 512) (ctx rows ovf : Nat) : HruSlot :=
  { x with bound := true, binding := none, desc := v, ctx := ctx, rows := BitVec.ofNat 32 rows, drops := 0, evicts := 0,
           ovfused := BitVec.ofNat 32 ovf, movefail := 0, errs := 0, tgen := 0 }

/-- The buckets whose `COUNT` makes up `ROWS` at a bind: the home buckets and the overflow buckets in use. -/
def bindBuckets (v : BitVec 512) : Nat := 2 ^ tdL v + tdOvfinit v

/-- `x` and the `COUNT` of `n` buckets of a slot from `b` on; a read that fails leaves the bucket and the sum before it. -/
def State.sumCounts (s : State) (k : Nat) : (n b x : Nat) → Except (Nat × Nat × HFail) Nat
  | 0, _, x => .ok x
  | n + 1, b, x =>
    match s.hruRead k (headVa (s.hruSlot k).desc b) 16 with
    | .error f => .error (b, x, f)
    | .ok h => s.sumCounts k n (b + 1) (x + min (leNat (h.take 4) % 64) (tdSlots (s.hruSlot k).desc))

/-- Bytes of a bucket. -/
def bucketLen (v : BitVec 512) : Nat := 16 + 4 * tdSlots v

/-- Bytes `w` on of bucket `b` of a slot written empty, its header and then its ids; where a write fails, the bytes of the
bucket that have been written. -/
def State.clearBucket (s : State) (k b w : Nat) : State × Option (Nat × HFail) :=
  let v := (s.hruSlot k).desc
  match s.hruWrite k (headVa v b + w) ((leBytes 16 emptyHead.toNat).drop w) with
  | (t, some (.fault x a va)) => (t, some (va - headVa v b, .fault x a va))
  | (t, some f) => (t, some (w, f))
  | (t, none) =>
    match t.hruWrite k (slotVa v b + (w - 16)) (List.replicate (4 * tdSlots v - (w - 16)) 0xFF) with
    | (u, some (.fault x a va)) => (u, some (16 + (va - slotVa v b), .fault x a va))
    | (u, some f) => (u, some (w, f))
    | (u, none) => (u, none)

/-- `n` buckets of a slot from `b` on written empty, the first from byte `w` on; where a write fails, the bucket and its bytes
that have been written. -/
def State.clearBuckets (s : State) (k : Nat) : (n b w : Nat) → State × Option (Nat × Nat × HFail)
  | 0, _, _ => (s, none)
  | n + 1, b, w =>
    match s.clearBucket k b w with
    | (t, some f) => (t, some (b, f))
    | (t, none) => t.clearBuckets k n (b + 1) 0

/-- A request has come to slot `k` and is not performed yet (R287): it has gone on to a later slot, it has begun at this one,
or, for a move, it has begun at all; an `hset` has come to its slot when it waits there. -/
def HReq.reached (r : HReq) (k : Nat) : Bool :=
  match r.kind with
  | .set _ => r.slots.contains k && (r.behind.isSome || r.fault.isSome)
  | .rehash => (selSlots r.sel).contains k && (r.ready || r.fault.isSome)
  | _ =>
    (selSlots r.sel).contains k
    && (!r.slots.contains k
      || (r.slots.head? == some k
        && (r.fault.isSome || r.bucket != 0 || (r.olds.any fun x => x.1 == k) || (r.ready && r.slots == selSlots r.sel))))

/-- A request of a wave, told from every other one. -/
def HReq.ident (r : HReq) : Nat := 32 * r.at_ + r.thread

/-- The requests of other waves that have come to slot `k`. -/
def State.atSlot (s : State) (w : WaveRef) (k : Nat) : List (WaveRef × Nat) :=
  s.groups.flatMap fun g => g.waves.filterMap fun v =>
    match v.hq with
    | [] => none
    | r :: _ => if r.reached k && (⟨g.id, v.wix⟩ : WaveRef) != w then some (⟨g.id, v.wix⟩, r.ident) else none

/-- An `hset` waits for a request that came to its slot before it (R287). -/
def State.setWaits (s : State) (r : HReq) : Bool :=
  r.behind.any fun xs => xs.any fun x => (s.wave? x.1.group x.1.wix).any fun v => v.hq.head?.any fun q => q.ident == x.2

/-- An `hset` performed (R287). While a bind waits on a record the slot is unbound and other requests wait. -/
def State.setNow (s : State) (e : Eng) (r : HReq) (op : Nat) : State :=
  let k := r.sel.toNat
  let v := r.desc
  let t := s.modSlot k fun x => { x with bound := false, binding := some e.ref, desc := v, ctx := e.launch.ctx }
  match op with
  | 0 =>
    match t.sumCounts k (bindBuckets v - r.bucket) r.bucket r.wrote with
    | .error (b, x, f) => (t.modReq e fun q => { q with bucket := b, wrote := x }).hruStop e r k f
    | .ok n =>
      ((t.touchAll e.group.id [(tdHbase v, 16 * bindBuckets v)]).modSlot k fun x =>
        x.bind v e.launch.ctx n (tdOvfinit v)).popReq e
  | 1 =>
    match t.clearBuckets k (2 ^ tdL v + tdOvfn v - r.bucket) r.bucket r.wrote with
    | (t1, some (b, w, f)) =>
      (t1.modReq e fun q => { q with bucket := b, wrote := w, put := b * bucketLen v }).hruStop e r k f
    | (t1, none) =>
      let n := 2 ^ tdL v + tdOvfn v
      ((t1.touchAll e.group.id [(tdHbase v, 16 * n), (tdSbase v, 4 * tdSlots v * n)]).modSlot k fun x =>
        x.bind v e.launch.ctx 0 0).popReq e
  | 2 => (s.modSlot k fun x => { x with bound := false }).popReq e
  | _ =>
    if s.engSpDown e.group r.a.toNat then s.hruFail e r k 0x11 r.a.toNat [r.a.toNat]
    else (s.engSpWrite e.group r.a.toNat (s.hruSlot k).record).popReq e

/-- An `hset` comes to its slot, which is being bound from then on; it is performed once the requests that came before have been
(R287). -/
def State.setStep (s : State) (e : Eng) (r : HReq) (op : Nat) : State :=
  match r.behind with
  | some _ => if s.setWaits r then s else s.setNow e r op
  | none =>
    let xs := s.atSlot e.ref r.sel.toNat
    let t := (if op ≤ 1 then s.modSlot r.sel.toNat fun x => { x with binding := some e.ref } else s).modReq e fun q =>
      { q with behind := some xs }
    if xs = [] then t.setNow e r op else t

/-- One step of the request at the head of a wave's HRU queue. -/
def State.hruStep (s : State) (e : Eng) (r : HReq) : State :=
  match r.kind with
  | .probe => s.probeStep e r
  | .ins => s.insStep e r
  | .del scan => s.delStep e r scan
  | .rehash => s.rehashStep e r
  | .set op => s.setStep e r op

/-- The request goes on when the record it waits on has a status (R275). -/
def State.hruResume (s : State) (e : Eng) (r : HReq) : State :=
  match r.fault with
  | none => s.hruStep e r
  | some f => match s.statusNow f with
    | 0 => s
    | 1 => (s.modReq e fun q => { q with fault := none }).hruStep e { r with fault := none }
    | _ =>
      let va := ((s.record? f).map fun x => x.va.toNat).getD 0
      s.hruFail e r r.stopped (s.failCode f) va (va :: r.row)

/-- A slot that the request names, and has not come to yet, is being bound by another wave (R287). -/
def State.slotBusy (s : State) (e : Eng) (r : HReq) : Bool :=
  r.slots.any fun k => !r.reached k && match (s.hruSlot k).binding with
    | none => false
    | some w => w != e.ref

/-- A request of one kind at the head of a wave's queue makes one step, unless a commit is still to come (R277). -/
def hruEvent (w : WaveRef) (is : HKind → Bool) (s : State) : Out :=
  onWave s w fun e =>
    match e.wave.hq with
    | [] => s
    | r :: _ => if is r.kind && e.due && !s.slotBusy e r then s.hruResume e r else s

/-- HPROBE_REQUEST. -/
def execHprobeRequest (w : WaveRef) (s : State) : Out := hruEvent w (fun k => k == .probe) s
/-- HINS_REQUEST. -/
def execHinsRequest (w : WaveRef) (s : State) : Out := hruEvent w (fun k => k == .ins) s
/-- HDEL_REQUEST. -/
def execHdelRequest (w : WaveRef) (s : State) : Out := hruEvent w (fun k => match k with | .del _ => true | _ => false) s
/-- HREHASH_REQUEST. -/
def execHrehashRequest (w : WaveRef) (s : State) : Out := hruEvent w (fun k => k == .rehash) s
/-- HSET_REQUEST. -/
def execHsetRequest (w : WaveRef) (s : State) : Out := hruEvent w (fun k => match k with | .set _ => true | _ => false) s

end Sys2Proof.Machine
end

