-- ==== Sys2Proof/Machine/Shape.lean ====
section
/-! DEFINITION. Shapes and cuts: what a group needs of a core, valid shapes and their neighbours, the remainder list, the
order of cells, and the shape decision (R138, R141, R149, R298 to R300, R303 to R305). -/

namespace Sys2Proof.Machine

def prod (xs : List Nat) : Nat := xs.foldl (· * ·) 1
def ceilDiv (a b : Nat) : Nat := (a + b - 1) / b

/-- Every index below `n` meets a condition. -/
def allBelow (n : Nat) (f : Nat → Bool) : Bool := (List.range n).all f

/-! ### Roles and what a group needs (R138, R141, R149, R298) -/

def Launch.roleNw (l : Launch) (k : Nat) : Nat := l.role k % 256
def Launch.roleSeg (l : Launch) (k : Nat) : Nat := l.role k / 256

/-- The rest role: the entry with 0xFF. -/
def Launch.restRole (l : Launch) : Nat := ((List.range 8).find? fun k => l.roleNw k == 255).getD 0

/-- The roles of the waves of a group of `n` waves, in ascending `WIX` (R298). -/
def Launch.roles (l : Launch) (n : Nat) : List Nat :=
  let fixed := ((List.range 8).filter fun k => l.roleNw k != 255).flatMap fun k => List.replicate (l.roleNw k) k
  (fixed.take n) ++ List.replicate (n - fixed.length) l.restRole

/-- Waves of a group of `n` threads. -/
def nwaves (n : Nat) : Nat := ceilDiv n 32

/-- `SPSIZE` (R141). -/
def Launch.spsize (l : Launch) (n : Nat) : Nat := min (l.spfix + l.spper * n) l.spmax

/-- What a core holds of groups: wave slots, KiB of scratchpad, accumulator tiles, register blocks. -/
structure Need where
  waves  : Nat
  kib    : Nat
  tiles  : Nat
  blocks : Nat
deriving DecidableEq, Repr

def Need.add (a b : Need) : Need := ⟨a.waves + b.waves, a.kib + b.kib, a.tiles + b.tiles, a.blocks + b.blocks⟩

/-- What a core has (R138, R141, R149, R174). -/
def Need.fits (a : Need) : Bool :=
  decide (a.waves ≤ 64) && decide (a.kib ≤ 512) && decide (a.tiles ≤ 128) && decide (a.blocks ≤ 128)

/-- What a group of `n` threads needs. -/
def Launch.need (l : Launch) (n : Nat) : Need :=
  { waves := nwaves n, kib := ceilDiv (l.spsize n) 1024, tiles := l.tiles
    blocks := l.poolb + ((l.roles (nwaves n)).map l.roleSeg).sum }

/-- What a resident group holds. -/
def Group.holds (g : Group) : Need :=
  { waves := g.nwave, kib := ceilDiv g.spsize 1024, tiles := g.tiles.length
    blocks := g.pool + ((g.waves.filter fun w => !w.gone).map fun w => w.seg / 32).sum }

/-- What the groups of a physical core hold. -/
def State.used (s : State) (core : Nat) : Need :=
  (s.groups.filter fun g => g.core == core).foldl (fun n g => n.add g.holds) ⟨0, 0, 0, 0⟩

/-! ### Shapes (R299, R300) -/

def Launch.lexts (l : Launch) : List Nat := (List.range 4).map l.lext

/-- A valid shape (R299). -/
def Launch.validShape (l : Launch) (e : List Nat) : Bool :=
  allBelow 4 (fun k => decide (1 ≤ e.getD k 1)) && allBelow 4 (fun k => k < l.ndim || e.getD k 1 == 1)
  && allBelow l.ndim (fun k => decide (l.mine k ≤ e.getD k 1) && decide (e.getD k 1 ≤ l.maxe k)
      && e.getD k 1 % l.gran k == 0)
  && decide (l.tmin ≤ prod e) && decide (prod e ≤ l.tmax) && (l.need (prod e)).fits

/-- The base shape: `PROBE` clamped and rounded down to the granule (R300). -/
def Launch.baseShape (l : Launch) : List Nat :=
  (List.range 4).map fun k =>
    if k < l.ndim then max (l.gran k) (max (l.mine k) (min (l.probe k) (l.maxe k)) / l.gran k * l.gran k) else 1

/-- A longer and a shorter extent (R300). -/
def upExtent (g e : Nat) : Nat := max (g * ceilDiv (5 * e) (4 * g)) (e + g)
def downExtent (g e : Nat) : Nat := min (g * (3 * e / (4 * g))) (e - g)

/-- The neighbours of a shape, in order (R300). -/
def Launch.nbrs (l : Launch) (e : List Nat) : List (List Nat) :=
  ((List.range l.ndim).flatMap fun k =>
      [modAt (upExtent (l.gran k)) k e, modAt (downExtent (l.gran k)) k e]).foldl
    (fun acc x => if l.validShape x && !acc.contains x then acc ++ [x] else acc) []

/-! ### The order of cells (R305) -/

/-- The cells of a tranche in each dimension. -/
def cellCounts (lo hi e : List Nat) : List Nat :=
  (List.range 4).map fun k => ceilDiv (hi.getD k 1 - lo.getD k 0) (e.getD k 1)

/-- The coordinates of an index over `n0` fastest. -/
def coords : (i : Nat) → List Nat → List Nat
  | _, [] => []
  | i, n :: ns => i % n :: coords (i / n) ns

/-- Dimensions 0 and 1 exchanged. -/
def swap01 : List Nat → List Nat
  | a :: b :: r => b :: a :: r
  | xs => xs

/-- The least power of two that is at least `n`, as an exponent below `fuel`. -/
def log2Up (n : Nat) : Nat := ((List.range 33).find? fun j => decide (n ≤ 2 ^ j)).getD 33

/-- The coordinates in which a Morton code stands (R305). -/
def mortonCoords (ndim bits code : Nat) : List Nat :=
  (List.range 4).map fun k =>
    if k < ndim then ((List.range bits).map fun j => if code.testBit (ndim * j + k) then 2 ^ j else 0).sum else 0

/-- `hil` of R305. -/
def hil (n : Nat) : (fuel s t x y : Nat) → Nat × Nat
  | 0, _, _, x, y => (x, y)
  | fuel + 1, s, t, x, y =>
    if n ≤ s then (x, y)
    else
      let rx := t / 2 % 2
      let ry := (t + rx) % 2
      let (x, y) := if ry = 0 then (if rx = 1 then (s - 1 - y, s - 1 - x) else (y, x)) else (x, y)
      hil n fuel (2 * s) (t / 4) (x + s * rx) (y + s * ry)

/-- A cell lies in the grid. -/
def inGrid (ns c : List Nat) : Bool := allBelow 4 fun k => decide (c.getD k 0 < ns.getD k 1)

/-- The cells in Morton order. -/
def mortonCells (ndim : Nat) (ns : List Nat) : List (List Nat) :=
  let bits := log2Up (ns.foldl max 1)
  ((List.range (2 ^ (ndim * bits))).map (mortonCoords ndim bits)).filter (inGrid ns)

/-- The cells in Hilbert order. -/
def hilbertCells (ns : List Nat) : List (List Nat) :=
  let b := log2Up (max (ns.getD 0 1) (ns.getD 1 1))
  (List.range (ns.getD 3 1)).flatMap fun c3 => (List.range (ns.getD 2 1)).flatMap fun c2 =>
    ((List.range (2 ^ b * 2 ^ b)).map fun d => let p := hil (2 ^ b) b 1 d 0 0; [p.1, p.2, c2, c3]).filter (inGrid ns)

/-- Cell `i` in serpentine order: whole bands first, each of `n0` columns of `bandh` cells. -/
def serpentine (bandh : Nat) (ns : List Nat) (i : Nat) : List Nat :=
  let n0 := ns.getD 0 1
  let n1 := ns.getD 1 1
  let r := i % (n0 * n1)
  let b := r / (n0 * bandh)
  let h := min bandh (n1 - b * bandh)
  let q := r - b * bandh * n0
  let c0 := if b % 2 = 0 then q / h else n0 - 1 - q / h
  c0 :: (b * bandh + q % h) :: coords (i / (n0 * n1)) [ns.getD 2 1, ns.getD 3 1]

/-- The height of a serpentine band. -/
def Launch.bandHeight (l : Launch) : Nat := if l.bandh = 0 then 4 else l.bandh

/-- Cell `i` of a grid in an order (R305). With one dimension every order is row-major. -/
def Launch.cellAt (l : Launch) (ord : Nat) (ns : List Nat) (i : Nat) : Option (List Nat) :=
  if prod ns ≤ i then none
  else if l.ndim = 1 ∨ ord = 0 then some (coords i ns)
  else if ord = 1 then some (swap01 (coords i (swap01 ns)))
  else if ord = 2 then (mortonCells l.ndim ns)[i]?
  else if ord = 3 then (hilbertCells ns)[i]?
  else some (serpentine l.bandHeight ns i)

/-- The spread of a run of cells. -/
def spread (cs : List (List Nat)) : Nat :=
  ((List.range 4).map fun k =>
    let xs := cs.map fun c => c.getD k 0
    xs.foldl max 0 - xs.foldl min (xs.foldl max 0) + 1).sum

/-- The total over the runs of 8 cells. -/
def runTotal : (fuel : Nat) → List (List Nat) → Nat
  | 0, _ => 0
  | _ + 1, [] => 0
  | fuel + 1, cs => spread (cs.take 8) + runTotal fuel (cs.drop 8)

/-- The allowed orders; none allowed counts as row-major (log 24). -/
def Launch.orderList (l : Launch) : List Nat :=
  match (List.range 5).filter l.orders.testBit with
  | [] => [0]
  | os => os

/-- The order of a tranche: the least total, ties to the lower bit (R305). -/
def Launch.chooseOrder (l : Launch) (ns : List Nat) : Nat :=
  match l.orderList with
  | [] => 0
  | [o] => o
  | o :: os =>
    if l.ndim = 1 ∨ prod ns = 1 then o
    else
      let total (o : Nat) : Nat := runTotal (prod ns) ((List.range (prod ns)).filterMap (l.cellAt o ns))
      (os.foldl (fun (b : Nat × Nat) o => if total o < b.1 then (total o, o) else b) (total o, o)).2

/-! ### The remainder list (R303) -/

/-- The least and the greatest corner of the next cell of a tranche. -/
def Launch.cellBox (l : Launch) (lo hi e : List Nat) (ord pos : Nat) : Option (List Nat × List Nat) :=
  (l.cellAt ord (cellCounts lo hi e) pos).map fun c =>
    let o := (List.range 4).map fun k => lo.getD k 0 + c.getD k 0 * e.getD k 1
    (o, (List.range 4).map fun k => min (o.getD k 0 + e.getD k 1) (hi.getD k 1))

/-- The box has a point. -/
def nonempty (lo hi : List Nat) : Bool := allBelow 4 fun k => decide (lo.getD k 0 < hi.getD k 1)

/-- The parts of a box that the cell at its low corner leaves over (R303). -/
def cornerPieces (ndim : Nat) (lo hi cell : List Nat) : List RlEntry :=
  (List.range ndim).filterMap fun k =>
    let lo' := (List.range 4).map fun j => if j = k then cell.getD j 1 else lo.getD j 0
    let hi' := (List.range 4).map fun j => if j < k then cell.getD j 1 else hi.getD j 1
    if nonempty lo' hi' then some (.box lo' hi') else none

/-- The frozen cut neither probes nor chooses its order (R303). -/
def Launch.frozen (l : Launch) : Bool := l.cutmode == 2

/-- What a box is replaced with, and whether that takes a probe (R303). -/
def Launch.carve (l : Launch) (lo hi : List Nat) : List RlEntry × Bool :=
  match l.probes with
  | p :: _ =>
    let cell := (List.range 4).map fun k => min (lo.getD k 0 + p.getD k 1) (hi.getD k 1)
    (.tranche lo cell p (l.orderList.headD 0) 0 true :: cornerPieces l.ndim lo hi cell, true)
  | [] =>
    let e := l.shape
    let ns := cellCounts lo hi e
    let h := ((List.range 4).filter fun k => decide (1 < ns.getD k 1)).getLastD 0
    let m := max 1 (l.wreev / prod ((List.range 4).map fun k => if k = h then 1 else ns.getD k 1))
    let tranche (hi' : List Nat) : RlEntry :=
      .tranche lo hi' e (if l.frozen then l.orderList.headD 0 else l.chooseOrder (cellCounts lo hi' e)) 0 false
    if ns.getD h 1 ≤ m then ([tranche hi], false)
    else
      let cut := lo.getD h 0 + m * e.getD h 1
      ([tranche (modAt (fun _ => cut) h hi), .box (modAt (fun _ => cut) h lo) hi], false)

/-- A decision is pending: the round's last probe has been taken and its groups are looked at (R304). -/
def Launch.deciding (l : Launch) : Bool := l.round.isSome && l.probes.isEmpty

/-- Only probes are still dispatched (R304, counted mode). -/
def Launch.held (l : Launch) : Bool := l.deciding && l.cutmode == 0

/-- The last two groups of the committed shape. -/
def Launch.lastTwo (l : Launch) : List Stat := ((l.recent.filter fun x => x.shape == l.shape).reverse.take 2).reverse

/-- The first probe of the list is taken (R304). -/
def Launch.takeProbe (l : Launch) : Launch :=
  { l with probes := l.probes.tail, round := some (l.round.getD l.lastTwo) }

/-- A group about to be dispatched: its box, its shape, its order, and whether it is a probe. -/
structure Cell where
  lo    : List Nat
  hi    : List Nat
  shape : List Nat
  ord   : Nat
  probe : Bool
deriving DecidableEq, Repr

/-- `next_group` (R303) from entry `i` of the list on: entries are carved where the list has room; `ok` says which cells
are eligible (R312). -/
def Launch.nextCell (l : Launch) (ok : Cell → Bool) : (fuel i : Nat) → Launch × Option Cell
  | 0, _ => (l, none)
  | fuel + 1, i =>
    match l.rl[i]? with
    | none => (l, none)
    | some (.box lo hi) =>
      let (xs, probe) := l.carve lo hi
      if l.held || decide (64 < l.rl.length - 1 + xs.length) then l.nextCell ok fuel (i + 1)
      else
        let l1 := { l with rl := l.rl.take i ++ xs ++ l.rl.drop (i + 1) }
        (if probe then l1.takeProbe else l1).nextCell ok fuel i
    | some (.tranche lo hi e ord pos probe) =>
      if l.held && !probe then l.nextCell ok fuel (i + 1)
      else
        match l.cellBox lo hi e ord pos with
        | none => l.nextCell ok fuel (i + 1)
        | some (a, b) =>
          let c : Cell := ⟨a, b, e, ord, probe⟩
          if ok c then
            let rest : List RlEntry :=
              if prod (cellCounts lo hi e) ≤ pos + 1 then [] else [.tranche lo hi e ord (pos + 1) probe]
            ({ l with rl := l.rl.take i ++ rest ++ l.rl.drop (i + 1) }, some c)
          else l.nextCell ok fuel (i + 1)

/-- Boxes and tranches to go through: at most 64 entries, each carved once and looked at once. -/
def rlFuel : Nat := 200

/-! ### The shape decision (R304) -/

/-- `score` of a shape over a set of groups. -/
def score (set : List Stat) (e : List Nat) : Nat :=
  let gs := set.filter fun x => x.shape == e
  2 ^ 16 * (gs.map fun x => x.cost.getD 0).sum / (gs.map fun x => x.threads).sum

/-- The shape that a decision commits: `list` are the probes of the round, in order, of which those that have a group in the
set are looked at. -/
def decideShape (s : List Nat) (list : List (List Nat)) (set : List Stat) : List Nat :=
  if set.any fun x => x.shape == s then
    let s2 := (list.filter fun e => set.any fun x => x.shape == e).foldl (fun b e => if score set e < score set b then e else b) s
    if s2 ≠ s ∧ 16 * score set s2 < 15 * score set s then s2 else s
  else s

/-- No probe of the round waits in the remainder list. -/
def Launch.probesOut (l : Launch) : Bool :=
  l.rl.any fun x => match x with
    | .tranche _ _ _ _ _ p => p
    | .box _ _ => false

/-- The decision, once every group of the set has exited. -/
def Launch.conclude (l : Launch) : Launch :=
  match l.round with
  | none => l
  | some set =>
    if l.probes.isEmpty && !l.probesOut && set.all fun x => x.cost.isSome then
      { l with shape := decideShape l.shape (l.nbrs l.shape) set, round := none, counting := 0 }
    else l

/-- A group has exited with a cost. -/
def Launch.exited (l : Launch) (gid cost : Nat) : Launch :=
  let f (x : Stat) : Stat := if x.gid = gid then { x with cost := some cost } else x
  ({ l with round := l.round.map fun (r : List Stat) => r.map f, recent := l.recent.map f }).conclude

/-- The last two groups of every shape. -/
def keepTwo (xs : List Stat) (x : Stat) : List Stat :=
  (if 2 ≤ (xs.filter fun y => y.shape == x.shape).length then xs.eraseP fun y => y.shape == x.shape else xs) ++ [x]

/-- What R304 keeps of a dispatched group: probes join the round; other groups are counted, and at `WREEV` a new round
begins. -/
def Launch.noteGroup (l : Launch) (x : Stat) (probe : Bool) : Launch :=
  if 2 ≤ l.cutmode then l
  else
    let recent := keepTwo l.recent x
    if probe then { l with recent, round := l.round.map fun r => r ++ [x] }
    else
      let n := l.counting + 1
      if n = l.wreev ∧ !l.deciding then
        (if (l.nbrs l.shape).isEmpty then { l with recent, counting := 0 } else { l with recent, counting := n, probes := l.nbrs l.shape })
      else { l with recent, counting := n }

end Sys2Proof.Machine
end

