-- ==== Sys2Proof/Machine/Cut.lean ====
section
/-! DEFINITION. Which group of a launch comes next: tile maps and their state words, boxes, cut logs and pools, bands
(R301 to R303, R306, R311, R312), and since when a launch has work (R318). -/

namespace Sys2Proof.Machine

/-! ### The structures that a record names -/

/-- A tile map descriptor (R311). -/
def tmBase (v : BitVec 512) : Nat := (v.extractLsb' 0 64).toNat
def tmT (v : BitVec 512) (k : Nat) : Nat := (v.extractLsb' (64 + 16 * k) 16).toNat
def tmN (v : BitVec 512) (k : Nat) : Nat := (v.extractLsb' (128 + 16 * k) 16).toNat
def tmH (v : BitVec 512) (k : Nat) : Nat := (v.extractLsb' (192 + 8 * k) 8).toNat
def tmSH (v : BitVec 512) (k : Nat) : Nat := (v.extractLsb' (224 + 4 * k) 4).toNat

/-- A descriptor is valid (R311). -/
def tmValid (out : Bool) (v : BitVec 512) : Bool :=
  tmBase v % 8 == 0 && decide (tmBase v < 2 ^ 56) && allBelow 4 (fun k => decide (1 ≤ tmT v k) && decide (1 ≤ tmN v k))
  && v.extractLsb' 240 272 == 0 && (!out || v.extractLsb' 192 48 == 0)

/-- A pool header (R301). -/
def phHead (v : BitVec 512) : Nat := (v.extractLsb' 0 64).toNat
def phTail (v : BitVec 512) : Nat := (v.extractLsb' 64 64).toNat
def phClosed (v : BitVec 512) : Bool := v.getLsbD 128
def phPlog (v : BitVec 512) : Nat := (v.extractLsb' 136 8).toNat
def phRecb (v : BitVec 512) : Nat := (v.extractLsb' 144 16).toNat
def phRbase (v : BitVec 512) : Nat := (v.extractLsb' 192 64).toNat

/-- A header is valid (R301). -/
def phValid (v : BitVec 512) : Bool :=
  decide (4 ≤ phPlog v) && decide (phPlog v ≤ 24) && decide (16 ≤ phRecb v) && decide (phRecb v ≤ 4096)
  && phRecb v % 16 == 0 && phRbase v % 64 == 0 && decide (phRbase v < 2 ^ 56)
  && v.extractLsb' 129 7 == 0 && v.extractLsb' 160 32 == 0 && v.extractLsb' 256 256 == 0

/-! ### Tiles of a group (R312) -/

/-- State words of a box of tiles, ascending in address; `lo` and `hi` are the first and last tile per dimension. -/
def tileWords (v : BitVec 512) (lo hi : List Nat) : List Nat :=
  let ns := (List.range 4).map fun k => hi.getD k 0 + 1 - lo.getD k 0
  (List.range (prod ns)).map fun i =>
    let c := coords i ns
    let at_ (k : Nat) : Nat := lo.getD k 0 + c.getD k 0
    tmBase v + 8 * (at_ 0 + tmN v 0 * (at_ 1 + tmN v 1 * (at_ 2 + tmN v 2 * at_ 3)))

/-- The input tiles of a group with origin `o` and extent `g`. -/
def inputTiles (v : BitVec 512) (o g : List Nat) : List Nat :=
  tileWords v
    ((List.range 4).map fun k => (o.getD k 0 - tmH v k) / 2 ^ tmSH v k / tmT v k)
    ((List.range 4).map fun k => min ((o.getD k 0 + g.getD k 1 - 1 + tmH v k) / 2 ^ tmSH v k / tmT v k) (tmN v k - 1))

/-- The output tiles. -/
def outputTiles (v : BitVec 512) (o g : List Nat) : List Nat :=
  tileWords v ((List.range 4).map fun k => o.getD k 0 / tmT v k)
    ((List.range 4).map fun k => (o.getD k 0 + g.getD k 1 - 1) / tmT v k)

/-- The Marver reads a structure of a launch in the launch's context (log 18); nothing where the access faults. -/
def State.marvRead (s : State) (l : Launch) (va n : Nat) : Option (List Byte) :=
  match s.rangeRead 0 l.ctx true .load va n with
  | .ok bs => some bs
  | .error _ => none

/-- `FULL` of a state word. -/
def State.tileIsFull (s : State) (l : Launch) (va : Nat) : Option Bool := (s.marvRead l va 8).map fun bs => (leNat bs).testBit 0

/-- Every input tile is full and every output tile is empty. -/
def State.tilesReady (s : State) (l : Launch) (o g : List Nat) : Bool :=
  (match l.inmap with | none => true | some v => (inputTiles v o g).all fun a => s.tileIsFull l a == some true)
  && match l.outmap with | none => true | some v => (outputTiles v o g).all fun a => s.tileIsFull l a == some false

/-! ### What a group is to be -/

/-- A group about to be dispatched. -/
structure Plan where
  org     : List Nat
  ext     : List Nat
  threads : Nat
  shape   : List Nat
  ord     : Nat
  probe   : Bool
  /-- the virtual core of a reproducible or replayed launch (R306, R307) -/
  vcore   : Option Nat
  /-- the band size that a cut log names -/
  bn      : Nat
  /-- a pool group: its entry address and the task record of each thread (R302) -/
  entry   : DWord
  tasks   : List (DWord × Nat)
deriving DecidableEq, Repr

def Launch.vcoreOf (l : Launch) (v : Nat) : Nat := v % l.vgrid

/-- The next group of a box launch (R303). -/
def State.nextBox (s : State) (l : Launch) : Launch × Option Plan :=
  let ext (c : Cell) : List Nat := (List.range 4).map fun k => c.hi.getD k 1 - c.lo.getD k 0
  let (l1, c) := l.nextCell (fun c => s.tilesReady l c.lo (ext c)) rlFuel 0
  (l1, c.map fun c =>
    { org := c.lo, ext := ext c, threads := prod (ext c), shape := c.shape, ord := c.ord, probe := c.probe
      vcore := if l.repro then some (l.vcoreOf l.gord) else none, bn := 0, entry := l.entry, tasks := [] })

/-! ### Replay (R306) -/

/-- A record of a cut log as a plan. -/
def logPlan (l : Launch) (bs : List Byte) : Plan :=
  let n (lo k : Nat) : Nat := leNat ((bs.drop lo).take k)
  let ext := (List.range 4).map fun k => n (24 + 2 * k) 2
  { org := (List.range 4).map fun k => n (8 + 4 * k) 4, ext, threads := prod ext, shape := ext, ord := n 34 1
    probe := false, vcore := some (l.vcoreOf (n 32 2)), bn := n 36 1, entry := l.entry, tasks := [] }

/-- The box lies in the space, and its shape keeps R299 but for `GRAN` and `MINE`. -/
def Launch.logOk (l : Launch) (p : Plan) : Bool :=
  allBelow 4 (fun k => decide (1 ≤ p.ext.getD k 1) && decide (p.org.getD k 0 + p.ext.getD k 1 ≤ l.lext k))
  && allBelow l.ndim (fun k => decide (p.ext.getD k 1 ≤ l.maxe k))
  && decide (l.tmin ≤ p.threads) && decide (p.threads ≤ l.tmax) && (l.need p.threads).fits

/-- Record `i` of the launch's log. -/
def State.logRecord (s : State) (l : Launch) (i : Nat) : Option Plan :=
  (s.marvRead l (l.cutlog.toNat + 64 + 64 * i) 64).map (logPlan l)

/-- The next record of a replay, once its tiles let it. -/
def State.nextLog (s : State) (l : Launch) : Launch × Option Plan :=
  match (if l.logPos < l.logN then s.logRecord l l.logPos else none) with
  | none => (l, none)
  | some p => if s.tilesReady l p.org p.ext then ({ l with logPos := l.logPos + 1 }, some p) else (l, none)

/-! ### Pools (R301, R302) -/

/-- Task `i`: its record's address. -/
def taskAddr (v : BitVec 512) (i : Nat) : Nat := phRbase v + phRecb v * (i % 2 ^ phPlog v)

/-- The entry address of task `i`. -/
def State.taskEntry (s : State) (l : Launch) (i : Nat) : Option DWord :=
  (s.marvRead l (taskAddr l.poolHdr i) 8).map fun bs => BitVec.ofNat 64 (leNat bs)

/-- Consecutive tasks from `i` on with an entry address, at most `n`. -/
def State.equalTasks (s : State) (l : Launch) (e : DWord) : (n i : Nat) → Nat
  | 0, _ => 0
  | n + 1, i => if s.taskEntry l i = some e then s.equalTasks l e n (i + 1) + 1 else 0

/-- The extent that R303 chooses: the next probe's, or the committed one. -/
def Launch.poolExtent (l : Launch) : Nat := ((l.probes.head?).getD l.shape).headD 1

/-- `TAIL` and `CLOSED` as the Marver sees them. -/
def State.poolNow (s : State) (l : Launch) : Option (Nat × Bool) :=
  (s.marvRead l l.poolhdr.toNat 64).map fun bs =>
    let v := BitVec.ofNat 512 (leNat bs)
    (phTail v, phClosed v)

/-- The Marver has seen `TAIL` rise (R301, R302). -/
def Launch.sawTail (l : Launch) (tail now : Nat) : Launch :=
  if ((l.poolSeen.getLast?).map Prod.fst).getD l.poolHead < tail then { l with poolSeen := l.poolSeen ++ [(tail, now)] } else l

/-- Since when the task at `HEAD` has been visible. -/
def Launch.headSeen (l : Launch) : Option Nat := (l.poolSeen.find? fun x => decide (l.poolHead < x.1)).map Prod.snd

/-- Tasks taken from `HEAD` on. -/
def Launch.takeTasks (l : Launch) (n : Nat) : Launch :=
  { l with poolHead := l.poolHead + n, poolSeen := l.poolSeen.filter fun x => decide (l.poolHead + n < x.1) }

/-- The next group of a pool launch, when R302 lets it be committed. -/
def State.nextPool (s : State) (l : Launch) : Launch × Option Plan :=
  match s.poolNow l with
  | none => (l, none)
  | some (tail, closed) =>
    let avail := tail - l.poolHead
    match (if avail = 0 ∨ l.held then none else s.taskEntry l l.poolHead) with
    | none => (l, none)
    | some e =>
      let most := l.poolExtent
      let n := if e.toNat % 64 = 0 then s.equalTasks l e (min most avail) l.poolHead else 1
      let old := match l.headSeen with | none => false | some t => decide (2000 ≤ s.ns.toNat - t)
      if n < most ∧ n = avail ∧ e.toNat % 64 = 0 ∧ closed = false ∧ old = false then (l, none)
      else
        let p : Plan :=
          { org := [l.poolHead, 0, 0, 0], ext := [n, 1, 1, 1], threads := n, shape := [most, 1, 1, 1], ord := 0
            probe := !l.probes.isEmpty, vcore := none, bn := 0, entry := e
            tasks := (List.range n).map fun i => (BitVec.ofNat 64 (taskAddr l.poolHdr (l.poolHead + i)), l.poolHead + i) }
        let headOk := match s.place 0 l.ctx true .store l.poolhdr.toNat 8 with | .ok _ => true | .error _ => false
        if headOk && s.tilesReady l p.org p.ext then
          (if l.probes.isEmpty then l.takeTasks n else (l.takeTasks n).takeProbe, some p)
        else (l, none)

/-- The next group of a launch; a launch that has stopped has none. -/
def State.nextPlan (s : State) (l : Launch) : Launch × Option Plan :=
  if l.stopped then (l, none)
  else if l.pool then s.nextPool l
  else if l.cutmode = 3 then s.nextLog l
  else s.nextBox l

/-! ### Bands (R202, R306) -/

/-- The groups of a band, as many as there are now: `n` is the band size. -/
def State.bandPlans (s : State) : (n : Nat) → Launch → Launch × List Plan
  | 0, l => (l, [])
  | n + 1, l =>
    match s.nextPlan l with
    | (l1, none) => (l1, [])
    | (l1, some p) =>
      let (l2, ps) := s.bandPlans n { l1 with gord := l1.gord + 1 }
      (l2, p :: ps)

/-- Records of a cut log with the same band size as the first. -/
def State.logBand (s : State) (l : Launch) : Nat :=
  match s.logRecord l l.logPos with
  | none => 1
  | some p =>
    if p.bn ≤ 1 then 1
    else max 1 (((List.range (min p.bn (l.logN - l.logPos))).takeWhile fun i =>
      ((s.logRecord l (l.logPos + i)).map fun q => q.bn) == some p.bn).length)

/-- The groups that are dispatched together next: one group, or a band. A band of a cut log is whole or not there (R306). -/
def State.nextPlans (s : State) (l : Launch) : Launch × List Plan :=
  if l.cutmode = 3 ∧ !l.pool then
    let n := s.logBand l
    let (l1, ps) := s.bandPlans n l
    if ps.length = n then ({ l1 with gord := l.gord }, ps) else (l, [])
  else
    let (l1, ps) := s.bandPlans (max 1 l.bandn) l
    ({ l1 with gord := l.gord }, ps)

/-! ### What the Marver sees of a launch (R302, R312, R318) -/

/-- The Marver looks at a launch: it notes a rise of its pool's `TAIL`, and since when it has dispatchable work. -/
def State.lookAt (s : State) (l : Launch) : Launch :=
  let l1 := if l.pool then (match s.poolNow l with | none => l | some (tail, _) => l.sawTail tail s.ns.toNat) else l
  { l1 with since := if (s.nextPlans l1).2.isEmpty then none else some (l1.since.getD s.ns.toNat) }

/-- The Marver looks at every launch. -/
def State.look (s : State) : State := { s with launches := s.launches.map s.lookAt }

end Sys2Proof.Machine
end

