-- ==== Sys2Proof/Machine/Launching.lean ====
section
/-! DEFINITION. LAUNCH and CANCEL: reading and refusing a launch record, its counter, and what stops the launches under a
counter (R295, R296, R314 to R317, R319). -/

namespace Sys2Proof.Machine

/-- A launch as its record and class describe it, before it runs. -/
def Launch.draft (id : Nat) (r : BitVec 2048) (cls : Nat) : Launch :=
  { id, lrec := r, recVa := 0, cls, present := cls, since := none, counter := ⟨.dev, 0⟩, mct := [], inmap := none, outmap := none,
    poolHdr := 0, rl := [], left := 0, shape := [1, 1, 1, 1], probes := [], round := none, recent := [], counting := 0,
    gord := 0, poolHead := 0, poolSeen := [], logN := 0, logPos := 0, logOff := false,
    stopped := false, snap := none, commit := 0 }

/-! ### Refusal (R296) -/

/-- An address field: its alignment, and bits 63:56 clear. -/
def addrOk (a : DWord) (align : Nat) : Bool := a.toNat % align == 0 && decide (a.toNat < 2 ^ 56)

def Launch.rolesOk (l : Launch) : Bool :=
  ((List.range 8).filter fun k => l.roleNw k == 255).length == 1
  && allBelow 8 fun k => (l.roleNw k == 255 || decide (l.roleNw k ≤ 64)) && decide (3 ≤ l.roleSeg k)
      && decide (l.roleSeg k ≤ 64) && decide (32 * l.roleSeg k ≤ l.d)

def Launch.addrsOk (l : Launch) : Bool :=
  (l.pool || addrOk l.entry 64) && addrOk l.handler 64 && addrOk l.counterVa 32 && addrOk l.rsbase 65536
  && addrOk l.dsbase 64 && addrOk l.mctab 1 && addrOk l.poolhdr 1 && addrOk l.cutlog 1
  && addrOk l.inmapVa 64 && addrOk l.outmapVa 64

def Launch.dimsOk (l : Launch) : Bool :=
  decide (1 ≤ l.ndim) && decide (l.ndim ≤ 4) && (!l.pool || l.ndim == 1)
  && allBelow 4 (fun k => decide (1 ≤ l.gran k))
  && allBelow 4 (fun k => if k < l.ndim then decide (1 ≤ l.lext k) else l.lext k == 1)

def Launch.rangesOk (l : Launch) : Bool :=
  (l.fld 192 4 == 1 || l.fld 192 4 == 2) && decide (l.bandn ≤ 64) && decide (l.tiles ≤ 128)
  && decide (1 ≤ l.tmin) && decide (l.tmin ≤ l.tmax) && decide (l.tmax ≤ 2048) && decide (1 ≤ l.wreev)
  && decide (l.spmax ≤ 524288) && decide (l.poolb ≤ 128) && l.d % 32 == 0 && decide (96 ≤ l.d) && decide (l.d ≤ 65536)
  && (l.fld 785 17 == 0 || (decide (256 ≤ l.fld 785 17) && decide (l.fld 785 17 ≤ 65536)))
  && decide (1 ≤ l.vgrid) && decide (l.vgrid ≤ 512)

def Launch.resOk (l : Launch) : Bool :=
  l.fld 223 1 == 0 && l.fld 802 30 == 0 && l.fld 1581 19 == 0 && l.fld 1728 320 == 0

def Launch.reproOk (l : Launch) : Bool :=
  !l.repro || (!l.pool && decide (2 ≤ l.cutmode) && l.budget != 0 && l.waitlim != 0
    && decide (l.vclus + ceilDiv l.vgrid 64 ≤ 8))

/-- The logical cores of a cluster that may take a group: `VALID`, on a physical quad in service (R212, R213), with the
physical core that carries each. -/
def State.coresOf (s : State) (c : Nat) : List (Nat × Nat) :=
  (List.range 64).filterMap fun lc =>
    let e := (s.cluster c).lmap.getD (lc / 4) 0
    let pq := (e.extractLsb' 0 5).toNat
    if e.getLsbD 6 && (s.cluster c).qhealth.getLsbD pq then some (lc, 68 * c + 4 * pq + lc % 4) else none

/-- The cluster, the logical core and the physical core that carries it, of virtual core `v` (R307). -/
def State.virtualAt (s : State) (l : Launch) (v : Nat) : Option (Nat × Nat × Nat) :=
  let c := l.vclus + v / 64
  if c < 8 then ((s.coresOf c).find? fun x => x.1 == v % 64).map fun x => (c, x.1, x.2) else none

/-- How many groups of one cluster these logical cores can hold at once, one each: a core that carries two of them must hold
both groups (R214). -/
def roomFor (need : Need) (cs : List (Nat × Nat)) : Nat :=
  if (need.add need).fits then cs.length else (cs.map Prod.snd).eraseDups.length

/-- The groups of a band on these virtual cores can be resident at once: distinct logical cores of one cluster (R202). -/
def State.virtualsFit (s : State) (l : Launch) (need : Need) (vs : List Nat) : Bool :=
  let xs := vs.filterMap (s.virtualAt l)
  (xs.map Prod.fst).eraseDups.length == 1 && (xs.map fun x => x.2.1).eraseDups.length == vs.length
  && decide (vs.length ≤ roomFor need (xs.map Prod.snd))

/-- Groups of a frozen cut: no cell of its shape is larger (R303). -/
def Launch.frozenCells (l : Launch) : Nat := prod ((List.range 4).map fun k => ceilDiv (l.lext k) (l.baseShape.getD k 1))

/-- The launch's bands can be resident (R214, R296). A frozen cut of a reproducible launch takes its virtual cores in turn, so
each band that it can come to is looked at; a replay finds its cores in its log, which only has to be able to name enough of
one cluster (log 90). -/
def State.bandFits (s : State) (l : Launch) : Bool :=
  if l.repro && l.cutmode != 3 then
    let n := l.frozenCells
    (List.range (min l.vgrid (ceilDiv n l.bandn))).all fun j =>
      let m := min l.bandn (n - j * l.bandn)
      m ≤ 1 || s.virtualsFit l (l.need (prod l.baseShape)) ((List.range m).map fun i => (j * l.bandn + i) % l.vgrid)
  else
    let need := l.need l.tmin
    if l.virtual then
      (List.range 8).any fun c =>
        let vs := (List.range l.vgrid).filterMap fun v => if l.vclus + v / 64 = c then (s.virtualAt l v).map Prod.snd else none
        decide (l.bandn ≤ roomFor need vs)
    else (List.range 8).any fun c => decide (l.bandn ≤ roomFor need (s.coresOf c))

/-- The refusal reason that the record alone gives; none when it is not refused (R296). -/
def State.refusal (s : State) (l : Launch) : Option Nat :=
  if !(l.rangesOk && l.dimsOk && l.rolesOk && l.addrsOk && l.resOk && l.reproOk && allBelow 4 fun k => fmtValid (l.fmt k))
  then some 1
  else if !(l.need l.tmin).fits then some 3
  else if 2 ≤ l.bandn ∧ !s.bandFits l then some 2
  else if !l.validShape l.baseShape then some 5
  else none

/-- The refusal reason that the structures give which the record names (R296, R299, R301, R311). -/
def Launch.mapRefusal (l : Launch) : Option Nat :=
  let bad (out : Bool) (m : Option (BitVec 512)) : Bool := match m with | none => false | some v => !tmValid out v
  let outBad : Bool := match l.outmap with
    | none => false
    | some v => !allBelow 4 (fun k => decide (l.lext k ≤ tmN v k * tmT v k))
        || !allBelow l.ndim (fun k => l.gran k % tmT v k == 0)
  if bad false l.inmap || bad true l.outmap || outBad || (l.pool && !phValid l.poolHdr) then some 1 else none

/-! ### Reading (R316) -/

/-- Who reads for LAUNCH: a thread of a path, or the control launch (R390). -/
structure Reader where
  die  : Nat
  priv : Bool
  path : Option (Ctx × Nat)
deriving DecidableEq, Repr

/-- A fault names the context it happened in. -/
def AFault.within (ctx : Nat) : AFault → AFault
  | .x f k va => .inCtx ctx f k va
  | f => f

/-- The bytes of a range as the reader sees them. -/
def State.readAs (s : State) (q : Reader) (ctx va n : Nat) : Except AFault (List Byte) :=
  match s.place q.die ctx q.priv .load va n with
  | .error f => .error (f.within ctx)
  | .ok ps =>
    if ps.any fun x => s.physBad x.1 x.2 then .error (.ecc (BitVec.ofNat 64 va))
    else .ok (ps.flatMap fun x => match q.path with
      | some (c, t) => s.view c t x.1 x.2
      | none => s.physRead x.1 x.2)

/-- The structures that a record names and `launch` reads, in order, each where its address field is itself valid: the tile
maps, the multicast table, the pool header, the log header (R316). -/
def Launch.parts (l : Launch) : List (Option (DWord × Nat)) :=
  let part (want : Bool) (a : DWord) (align n : Nat) : Option (DWord × Nat) := if want && addrOk a align then some (a, n) else none
  [part (l.inmapVa != 0) l.inmapVa 64 64, part (l.outmapVa != 0) l.outmapVa 64 64, part (l.mctab != 0) l.mctab 1 1024,
   part l.pool l.poolhdr 1 64, part (l.logrec || l.cutmode == 3) l.cutlog 1 64]

/-- One of the structures. -/
def State.readPart (s : State) (q : Reader) (l : Launch) (k : Nat) : Except AFault (Option (List Byte)) :=
  match (l.parts[k]?).join with
  | none => .ok none
  | some (a, n) => (s.readAs q l.ctx a.toNat n).map some

/-- The multicast table: 16 entries of eight words (R254). -/
def mctOf (bs : List Byte) : Sparse 64 :=
  (List.range 128).foldl (fun m i => m.set i (BitVec.ofNat 64 (leNat ((bs.drop (8 * i)).take 8)))) []

/-- The structures that a record names, read in its context (R316). -/
def State.readParts (s : State) (q : Reader) (l : Launch) : Except AFault Launch :=
  (s.readPart q l 0).bind fun im => (s.readPart q l 1).bind fun om => (s.readPart q l 2).bind fun mct =>
  (s.readPart q l 3).bind fun ph => (s.readPart q l 4).map fun n =>
    let wide (bs : List Byte) : BitVec 512 := BitVec.ofNat 512 (leNat bs)
    let hdr := (ph.map wide).getD 0
    { l with inmap := im.map wide, outmap := om.map wide, mct := (mct.map mctOf).getD [], poolHdr := hdr
             poolHead := phHead hdr, logN := (n.map fun bs => leNat (bs.take 8)).getD 0 }

/-- The counters from an address up through `PARENT`, with their contents, as far as they can be read, and the fault of the
one that cannot. -/
def State.countersUp (s : State) (q : Reader) (ctx : Nat) : (fuel : Nat) → DWord → List (DWord × BitVec 256) × Option AFault
  | 0, _ => ([], none)
  | fuel + 1, va =>
    if va = 0 then ([], none)
    else
      match s.readAs q ctx va.toNat 32 with
      | .error f => ([], some f)
      | .ok bs =>
        let (r, f) := s.countersUp q ctx fuel (cntParent (counterOf bs))
        ((va, counterOf bs) :: r, f)

/-- Counters above one another that a walk goes through at most (log 26). -/
def parentDepth : Nat := 1024

/-- The key under which a group counts the lines of a context: those of another context than its own lie apart (R304). -/
def lineBase (own ctx : Nat) : Nat := if ctx = own then 0 else 2 ^ 57 * (ctx + 1)

/-- The ranges of global memory that a `launch` accesses, up to the one that faults (R304). -/
def State.launchLines (s : State) (q : Reader) (ctx : Nat) (a : DWord) : List (Nat × Nat) :=
  match s.readAs q ctx a.toNat 256 with
  | .error _ => []
  | .ok bs =>
    let l := Launch.draft 0 (BitVec.ofNat 2048 (leNat bs)) 0
    let xs := (l.parts.filterMap id ++ [(l.counterVa, 32)]).takeWhile fun x => (s.readAs q l.ctx x.1.toNat x.2).toOption.isSome
    (a.toNat, 256) :: (xs ++ (s.countersUp q l.ctx parentDepth l.counterVa).1.map fun x => (x.1, 32)).map fun x =>
      (lineBase ctx l.ctx + x.1.toNat, x.2)

/-! ### The counter (R314, R319) -/

/-- `PBOUND` of a reproducible launch (R319). -/
def Launch.pbound (l : Launch) : Nat := if l.repro then l.budget * (5120 + 1000 * l.waitlim) else 0

/-- The counter as `launch` writes it; `PARENT` stays. -/
def counterStart (old : BitVec 256) (remain state err pbound : Nat) : BitVec 256 :=
  setBits (setBits (setBits (setBits (setBits 0 0 64 remain) 64 2 state) 72 8 err) 128 64 (cntParent old).toNat) 192 64 pbound

/-- The units of a launch (R314). -/
def Launch.units (l : Launch) : Nat := if l.pool then 1 else if l.cutmode = 3 then l.logN else prod l.lexts

/-- A launch ready to be served (R303, R304): the whole space as one box, and the probes of the first round. -/
def Launch.begin (l : Launch) (counter : Phys) : Launch :=
  let b := l.baseShape
  { l with
    counter
    rl := if l.pool ∨ l.cutmode = 3 then [] else [.box [0, 0, 0, 0] l.lexts]
    left := l.units
    shape := b
    probes := if 2 ≤ l.cutmode then [] else b :: b :: l.nbrs b }

/-! ### CANCEL (R317) -/

/-- The counters of a launch below the one that is cancelled, which lies at `top`. -/
def State.counterPath (s : State) (q : Reader) (l : Launch) (top : Phys) : Option (List DWord) :=
  let cs := (s.countersUp { q with path := none, priv := true } l.ctx parentDepth l.counterVa).1
  let below := cs.takeWhile fun x => s.counterAt q.die l.ctx x.1 != some top
  if below.length < cs.length then some (below.map Prod.fst) else none

/-- `CANREQ` set in several counters of a launch. -/
def State.markAll (s : State) (lid : Nat) (core wslot die : Nat) : List DWord → State
  | [] => s
  | va :: r => (s.launchChange lid (.mark va none true) die core wslot).markAll lid core wslot die r

/-- A launch under a cancelled counter: no new group is placed, the units left are taken off, and `.trap` reaches every
wave of its running groups. -/
def State.cancelLaunch (s : State) (l : Launch) (below : List DWord) (a : DWord) (trap : Bool) (die core wslot : Nat) : State :=
  let s1 := (s.markAll l.id core wslot die below).drainLaunch l.id die core wslot
  if trap then
    { s1 with
      groups := s1.groups.map fun g =>
        if g.launch = l.id ∧ !g.ended then
          { g with waves := g.waves.map fun w => if w.ended then w else { w with cancel := some a } }
        else g }
  else s1

/-- A launch is live while it has units to dispatch or groups that have not been completed. -/
def State.live (s : State) (l : Launch) : Bool := l.left != 0 || s.groups.any fun g => g.launch == l.id

/-- Every live launch whose counter lies at `top` or below it is cancelled. -/
def State.cancelUnder (s : State) (q : Reader) (top : Phys) (a : DWord) (trap : Bool) (core wslot : Nat) : List Launch → State
  | [] => s
  | l :: ls =>
    (match s.counterPath q l top with
     | none => s
     | some below => s.cancelLaunch l below a trap q.die core wslot).cancelUnder q top a trap core wslot ls

/-- `cancel` of the counter at an address of a context: `CANREQ` set by one atomic, then its effect on the launches. -/
def State.cancelCounter (s : State) (q : Reader) (ctx : Nat) (a : DWord) (trap : Bool) (core wslot : Nat) : Except AFault State :=
  match s.translate q.die ctx q.priv .atomic a.toNat 32 with
  | .error f => .error (.inCtx ctx f .atomic a)
  | .ok p =>
    if s.physBad p 32 then .error (.ecc a)
    else
      let c := setBits (counterOf (s.physRead p 32)) 66 1 1
      .ok ((s.physWrite p (leBytes 32 c.toNat)).cancelUnder q p a trap core wslot (s.launches.filter s.live))

/-! ### LAUNCH (R316) -/

/-- How `launch` comes out: a fault of its reads, a class it may not use, or done. -/
inductive LaunchEnd where
  | fault (f : AFault)
  | rights (cls : Nat)
  | done (s : State)
deriving DecidableEq, Repr

/-- The launch is refused: its counter says so, and its parent is lowered. A launch that dispatches nothing carries the
change of the parent (R415). -/
def State.refuse (s : State) (l : Launch) (p : Phys) (old : BitVec 256) (reason die core wslot : Nat) : State :=
  let s1 := s.physWrite p (leBytes 32 (counterStart old 0 3 reason 0).toNat)
  if cntParent old = 0 then s1
  else ({ s1 with launches := s1.launches ++ [{ l with stopped := true, counter := p }], nextId := s1.nextId + 1 }).launchChange
    l.id (.dec (cntParent old) 1) die core wslot

/-- The counter written, the launch queued, and cancelled at once when a counter above it has `CANREQ`. -/
def State.start (s : State) (q : Reader) (l : Launch) (p : Phys) (old : BitVec 256) (above : List (DWord × BitVec 256))
    (core wslot : Nat) : State :=
  let l1 := l.begin p
  let s0 := s.physWrite p (leBytes 32 (counterStart old l1.left 0 0 l1.pbound).toNat)
  let s1 := { s0 with launches := s.launches ++ [s0.lookAt l1], nextId := s.nextId + 1 }
  match above.findIdx? fun x => cntCanreq x.2 with
  | none => s1
  | some i => s1.cancelLaunch l1 (l.counterVa :: (above.take i).map Prod.fst) ((above.map Prod.fst).getD i 0) false q.die core
      wslot

/-- The counter's place for a write. -/
def State.counterPlace (s : State) (q : Reader) (l : Launch) : Except AFault Phys :=
  match s.translate q.die l.ctx q.priv .store l.counterVa.toNat 32 with
  | .ok p => .ok p
  | .error f => .error (.inCtx l.ctx f .store l.counterVa)

/-- `launch` of a record at an address, by a reader of class `prio`, with its operand b. Only the lines read first can
fault; then nothing does. -/
def State.launchRecord (s : State) (q : Reader) (ctx prio : Nat) (a : DWord) (b : Word) (core wslot : Nat) : LaunchEnd :=
  match s.readAs q ctx a.toNat 256 with
  | .error f => .fault f
  | .ok bs =>
    let r := BitVec.ofNat 2048 (leNat bs)
    let cls := if b.getLsbD 3 then b.toNat % 8 else (r.extractLsb' 196 3).toNat
    if !b.getLsbD 3 ∧ cls < prio then .rights cls
    else
      let l := { Launch.draft s.nextId r cls with recVa := a }
      let why := s.refusal l
      match s.readParts q l, s.readAs q l.ctx l.counterVa.toNat 32, s.counterPlace q l with
      | .error f, _, _ => .fault f
      | .ok _, .error f, _ => .fault f
      | .ok _, .ok _, .error f => .fault f
      | .ok l1, .ok old, .ok p =>
        match why <|> l1.mapRefusal with
        | some reason => .done (s.refuse l1 p (counterOf old) reason q.die core wslot)
        | none =>
          match s.countersUp q l.ctx parentDepth (cntParent (counterOf old)) with
          | (_, some f) => .fault f
          | (above, none) => .done (s.start q l1 p (counterOf old) above core wslot)

/-- The lowest thread of P reads for a path. -/
def Ctx.launchReader (c : Ctx) (t : Nat) : Reader := ⟨c.group.die, c.path.priv, some (c, t)⟩

/-- The trap of an operand or a right that `launch` and `cancel` check first (R316, R317, R321); `bs` are the further operands
on which the threads must agree. -/
def Ctx.launchTrap (c : Ctx) (a : VOp) (bs : List (Nat → DWord)) (align : Nat) : Option Trap :=
  agreeTrap ((fun t => c.v64 t a) :: bs) c.perf
  <|> (if c.launch.maylaunch then none
       else some { cause := .rights, mask := maskOf c.perf, addr := BitVec.ofNat 64 c.group.prio })
  <|> alignTrap (fun t => (c.v64 t a).toNat) align c.perf

/-- A fault of the reads or writes: the lowest thread's, and the word is unfinished for all of P (R316). -/
def State.readerTrap (s : State) (c : Ctx) (t : Nat) (f : AFault) : State := s.partialTrap c [(t, f)] c.perf

/-- What a word does whose accesses follow all earlier ones of its wave: the held stores are performed first. Where the
commit buffer of a reproducible launch still holds entries, the quantum ends and the word issues again after the commit
(log 82). -/
def State.afterBuffer (s : State) (c : Ctx) (f : State → State) : State :=
  if c.launch.repro && !c.wave.cbuf.isEmpty then s.endQuantum c else f (s.drain c.ref.group c.ref.wix)

/-- `launch` (R316). -/
def execLaunch (a b : VOp) (s : State) : Out :=
  issue s fun c =>
    match c.perf with
    | [] => s.complete c []
    | t :: _ =>
      let k := c.v32 t b
      s.unless c (c.srcTrap c.perf [⟨a, true⟩, ⟨b, false⟩]
          <|> c.launchTrap a [fun t => (c.v32 t b).setWidth 64] 256
          <|> (if 16 ≤ k.toNat then some { cause := .illegal, sub := 9, mask := maskOf c.perf, addr := c.path.seq.word.setWidth 64 }
               else if k.getLsbD 3 ∧ k.toNat % 8 < c.group.prio then
                 some { cause := .rights, mask := maskOf c.perf, addr := BitVec.ofNat 64 (k.toNat % 8) }
               else none))
        (s.afterBuffer c fun s1 =>
         if s1.mustWait c t then s1.goOnLater c [] [] c.perf
         else
         match s.failedThread c t with
         | some f => s1.readerTrap c t f
         | none =>
           let s1 := s1.touchAll c.ref.group (s1.launchLines (c.launchReader t) c.launch.ctx (c.v64 t a))
           match s1.launchRecord (c.launchReader t) c.launch.ctx c.group.prio (c.v64 t a) k c.group.core c.wave.wslot with
           | .fault f => s1.readerTrap c t f
           | .rights cls => s1.takeTrap c { cause := .rights, mask := maskOf c.perf, addr := BitVec.ofNat 64 cls }
           | .done s2 => s2.complete c c.perf)

/-- `cancel.drain` and `cancel.trap` (R317). -/
def cancel (s : State) (a : VOp) (trap : Bool) : Out :=
  issue s fun c =>
    match c.perf with
    | [] => s.complete c []
    | t :: _ =>
      s.unless c (c.srcTrap c.perf [⟨a, true⟩] <|> c.launchTrap a [] 32)
        (s.afterBuffer c fun s1 =>
         if s1.mustWait c t then s1.goOnLater c [] [] c.perf
         else
         match s.failedThread c t with
         | some f => s1.readerTrap c t f
         | none =>
           let s1 := s1.touch c.ref.group (c.v64 t a).toNat 32
           match s1.cancelCounter (c.launchReader t) c.launch.ctx (c.v64 t a) trap c.group.core c.wave.wslot with
           | .error f => s1.readerTrap c t f
           | .ok s2 => s2.complete c c.perf)

/-- `cancel.drain` (R317). -/
def execCancelDrain (a : VOp) (s : State) : Out := cancel s a false
/-- `cancel.trap` (R317). -/
def execCancelTrap (a : VOp) (s : State) : Out := cancel s a true

end Sys2Proof.Machine
end

