-- ==== Sys2Proof/Machine/Marver.lean ====
section
/-! DEFINITION. The Marver: where a group is placed, how it is dispatched and completed, ageing
(R14, R43, R141, R149, R202, R298, R301, R302, R304, R306 to R310, R313, R318). -/

namespace Sys2Proof.Machine

/-! ### Dispatching (R43, R141, R149, R298, R309) -/

/-- A wave of a group at its dispatch. -/
def newWave (l : Launch) (p : Plan) (wix wslot role : Nat) : Wave :=
  let n := min 32 (p.threads - 32 * wix)
  let regs (t : Nat) (m : Sparse 32) : Sparse 32 :=
    match p.tasks[32 * wix + t]? with
    | none => m
    | some (a, i) => ((m.set (2048 * t) (a.setWidth 32)).set (2048 * t + 1) (a.extractLsb' 32 32)).set (2048 * t + 2)
        (BitVec.ofNat 32 i)
  { wix, wslot, role, seg := 32 * l.roleSeg role, threads := n, wb := [], sb := []
    w := (List.range n).foldl (fun m t => regs t m) [], o := [], p := [], exited := 0, ucf := false, splitNo := 0
    depth := 0, stack := [], splits := [], mcfg := (16, 16, 16)
    path0 := some { Path.fresh p.entry (maskBelow n) with fmt := (List.range 4).map l.fmt }
    path1 := none, streams := List.replicate 4 Stream.closed, mq := [], cq := [], hq := [], gq := [], batch := []
    copyErr := [], hErr := none, gErr := none, trap := TrapRec.clear, owner := none, queued := none, bankW := []
    bankS := [], retired := 0, ati := 0, done := [], matN := 0, qcount := 0, qinstr := 0, qended := false, cbuf := []
    hint := none, parked := none, cancel := none, unshed := false, held := [], early := [], loads := [], bad := [], lastSlot := true, parkedCycles := 0
    gone := false }

/-- A group at its dispatch (R52, R141, R149, R174): scratchpad zero, tiles empty. -/
def newGroup (l : Launch) (id ns : Nat) (p : Plan) (cluster lcore core : Nat) (slots : List Nat) : Group :=
  let nw := nwaves p.threads
  let roles := l.roles nw
  { id, launch := l.id, gord := l.gord, org := p.org, ext := p.ext, threads := p.threads, nwave := nw, bandix := 0
    bandn := 1, band := none, cluster, lcore, core, prio := l.present, spsize := l.spsize p.threads, sp := [], spBad := []
    tiles := List.replicate l.tiles Tile.empty, pool := l.poolb, bars := List.replicate 10 0, claims := []
    waves := (List.range nw).map fun i => newWave l p i (slots.getD i 0) (roles.getD i 0)
    lines := [], shape := p.shape, order := p.ord, probe := p.probe, start := ns, tasks := p.tasks.length, killed := false
    fatal := false, halted := false, exit := none }

/-- Wave slots of a core that no group holds, ascending. -/
def State.freeSlots (s : State) (core : Nat) : List Nat :=
  let taken := (s.groups.filter fun g => g.core == core).flatMap fun g => g.waves.map fun w => w.wslot
  (List.range 64).filter fun q => !taken.contains q

/-- The record of a group in the cut log (R306). -/
def cutRecord (g : Group) : List Byte :=
  leBytes 4 g.gord ++ leBytes 4 0 ++ ((List.range 4).flatMap fun k => leBytes 4 (g.org.getD k 0))
  ++ ((List.range 4).flatMap fun k => leBytes 2 (g.ext.getD k 1)) ++ leBytes 2 (64 * g.cluster + g.lcore)
  ++ leBytes 1 g.order ++ leBytes 1 g.bandix ++ leBytes 1 g.bandn ++ leBytes 27 0

/-- A change made for a group, in the name of its last wave (R415). -/
def State.groupChange (s : State) (g : Group) (x : Change) : State :=
  s.change ⟨x, g.launch, some g.id, g.die, g.core, g.lastSlot, none⟩

/-- The cut log grows by the group's record, and then its count rises. -/
def State.logDispatch (s : State) (g : Group) : State :=
  match s.launch? g.launch with
  | none => s
  | some l =>
    if l.logrec && !l.logOff then
      (s.groupChange g (.write l.cutlog (l.cutlog + BitVec.ofNat 64 (64 + 64 * g.gord)) (cutRecord g))).groupChange g
        (.write l.cutlog l.cutlog (leBytes 8 (g.gord + 1)))
    else s

/-- A pool's `HEAD` and its counter follow the tasks taken (R302, R314). -/
def State.poolTaken (s : State) (g : Group) : State :=
  match s.launch? g.launch with
  | none => s
  | some l =>
    if l.pool then
      (match s.place 0 l.ctx true .store l.poolhdr.toNat 8 with
       | .ok ps => s.writePlaces ps (leBytes 8 l.poolHead)
       | .error _ => s).groupChange g (.dec l.counterVa (-(g.tasks : Int)))
    else s

/-- A group whose entry address is misaligned traps with ALIGN before its first instruction (R302). -/
def State.entryTrap (s : State) (g : Group) : State :=
  match s.ctxAt ⟨g.id, 0, false⟩ with
  | none => s
  | some c => if c.path.pc.toNat % 64 = 0 then s else s.takeTrap c { cause := .align, addr := c.path.pc }

/-- Units that the dispatch of a plan takes off a launch. -/
def Launch.planUnits (l : Launch) (p : Plan) : Nat := if l.pool then 0 else if l.cutmode = 3 then 1 else p.threads

/-- One group put on a logical core: `GORD` and the launch's figures move on. -/
def State.putGroup (s : State) (l : Launch) (p : Plan) (cluster lcore core : Nat) (band : Option (Nat × Nat × Nat)) : State × Launch :=
  let g0 := newGroup l s.nextId s.ns.toNat p cluster lcore core (s.freeSlots core)
  let g := match band with | none => g0 | some (b, ix, n) => { g0 with band := some b, bandix := ix, bandn := n }
  let l1 := { l with gord := l.gord + 1, left := l.left - l.planUnits p }.noteGroup ⟨g.id, p.shape, p.threads, none⟩ p.probe
  let s1 := { s with groups := s.groups ++ [g], nextId := s.nextId + 1 }.modLaunch l.id fun _ => l1
  let s2 := ((s1.logDispatch g).poolTaken g).entryTrap g
  (s2, (s2.launch? l.id).getD l1)

/-! ### Placement (R14, R213, R307) -/

/-- The thermal headroom of a die (R336). -/
def State.headroom (s : State) (d : Nat) : Nat :=
  (16 * ((s.die d).lctl.extractLsb' 0 8).toNat - (s.die d).tj.toNat) / 16

/-- `h` of R307. -/
def State.headroomOf (s : State) (d : Nat) : Nat :=
  min (((s.cluster (2 * d)).rate + (s.cluster (2 * d + 1)).rate) / 2 / 16) (min (s.headroom d) 64)

/-- A class above 0 is shed on a cluster (R14). -/
def State.classShed (s : State) (c cls : Nat) : Bool := cls != 0 && (s.cluster c).shed.getLsbD (cls - 1)

/-- Free wave slots of a core. -/
def State.slotsFree (s : State) (core : Nat) : Nat := 64 - (s.used core).waves

/-- The best of several cores: most free wave slots, then the lower number. -/
def bestCore (free : Nat → Nat) (cs : List (Nat × Nat)) : Option (Nat × Nat) :=
  cs.foldl (fun b x => match b with
    | none => some x
    | some y => if free y.2 < free x.2 ∨ (free x.2 = free y.2 ∧ x.1 < y.1) then some x else b) none

/-- What a core holds, with what the groups placed before add. -/
def State.usedWith (s : State) (added : List (Nat × Need)) (core : Nat) : Need :=
  (added.filter fun x => x.1 == core).foldl (fun m x => m.add x.2) (s.used core)

/-- Distinct logical cores of a cluster for several groups at once, with what the groups placed before them add. -/
def State.placeIn (s : State) (l : Launch) (blocked : Nat → Bool) (c : Nat) :
    List Nat → (taken : List (Nat × Nat)) → (added : List (Nat × Need)) → Option (List (Nat × Nat))
  | [], taken, _ => some taken
  | n :: ns, taken, added =>
    let ok := (s.coresOf c).filter fun x =>
      !blocked x.2 && !(taken.any fun y => y.1 == x.1) && ((s.usedWith added x.2).add (l.need n)).fits
    match bestCore (fun core => 64 - (s.usedWith added core).waves) ok with
    | none => none
    | some x => s.placeIn l blocked c ns (taken ++ [x]) (added ++ [(x.2, l.need n)])

/-- Threads of a launch on a die. -/
def State.residentThreads (s : State) (l : Launch) (d : Nat) : Nat :=
  ((s.groups.filter fun g => g.launch == l.id && g.die == d).map fun g => g.threads).sum

/-- Free wave slots of a cluster. -/
def State.clusterFree (s : State) (c : Nat) : Nat := (((s.coresOf c).map fun x => s.slotsFree x.2)).sum

/-- The clusters of a die that can take the groups, the one to take first. -/
def State.dieClusters (s : State) (l : Launch) (blocked : Nat → Bool) (ns : List Nat) (d : Nat) : List (Nat × List (Nat × Nat)) :=
  if (s.die d).down then []
  else
    let ok := [2 * d, 2 * d + 1].filterMap fun c =>
      if s.classShed c l.present then none else (s.placeIn l blocked c ns [] []).map fun xs => (c, xs)
    match ok with
    | [a, b] => if s.clusterFree a.1 < s.clusterFree b.1 then [b, a] else [a, b]
    | xs => xs

/-- Where the groups of a launch that is not placed on virtual cores go (R307). -/
def State.placeFree (s : State) (l : Launch) (blocked : Nat → Bool) (ns : List Nat) : Option (Nat × List (Nat × Nat)) :=
  let dies := (List.range 4).filter fun d => !(s.dieClusters l blocked ns d).isEmpty
  let dies := if 0 < l.present ∧ dies.any fun d => decide (0 < s.headroomOf d) then
      dies.filter fun d => decide (0 < s.headroomOf d) else dies
  let best := dies.foldl (fun (b : Option Nat) d => match b with
    | none => some d
    | some e =>
      if s.headroomOf e < s.headroomOf d
          ∨ (s.headroomOf e = s.headroomOf d ∧ s.residentThreads l d < s.residentThreads l e) then some d else b) none
  best.bind fun d => (s.dieClusters l blocked ns d).head?

/-- The logical core, with the physical one that carries it, and the cluster of a virtual core (R307). -/
def State.virtualCore (s : State) (l : Launch) (p : Plan) : Option (Nat × Nat × Nat) := s.virtualAt l (p.vcore.getD 0)

/-- Groups on their virtual cores, with what the groups placed before them add, or none of them: the groups of a band lie on
distinct logical cores of one cluster (R202, R307, R308). -/
def State.placeVirtuals (s : State) (l : Launch) (blocked : Nat → Bool) :
    List Plan → (taken : List (Nat × Nat × Nat)) → (added : List (Nat × Need)) → Option (List (Nat × Nat × Nat))
  | [], taken, _ => some taken
  | p :: ps, taken, added =>
    match s.virtualCore l p with
    | none => none
    | some (c, lc, core) =>
      if !(s.die (c / 2)).down && !s.classShed c l.present && !blocked core && taken.all (fun x => x.1 == c && x.2.1 != lc)
          && ((s.usedWith added core).add (l.need p.threads)).fits then
        s.placeVirtuals l blocked ps (taken ++ [(c, lc, core)]) (added ++ [(core, l.need p.threads)])
      else none

/-- Places for the groups of a plan: cluster, logical and physical core of each. -/
def State.placePlans (s : State) (l : Launch) (blocked : Nat → Bool) (ps : List Plan) : Option (List (Nat × Nat × Nat)) :=
  if l.virtual then s.placeVirtuals l blocked ps [] []
  else (s.placeFree l blocked (ps.map fun p => p.threads)).map fun x => x.2.map fun y => (x.1, y.1, y.2)

/-! ### Putting groups on their cores (R202, R318) -/

/-- The groups put on their cores one after the other, with the launch as it then is. -/
def State.putAll (s : State) (l : Launch) (band : Option Nat) (n : Nat) : (ix : Nat) → List (Plan × Nat × Nat × Nat) → State
  | _, [] => s
  | ix, (p, c, lc, core) :: r =>
    let (s1, l1) := s.putGroup l p c lc core (band.map fun b => (b, ix, n))
    s1.putAll l1 band n (ix + 1) r

/-- Groups dispatched together (R202, R318): the launch returns to its declared class. -/
def State.putPlans (s : State) (l : Launch) (ps : List Plan) (at_ : List (Nat × Nat × Nat)) : State :=
  let banded := decide (2 ≤ l.bandn) || (l.cutmode == 3 && decide (2 ≤ ps.length))
  let s1 := if banded then
      { s with bands := s.bands ++ [⟨s.nextId, at_.map fun x => x.2.1⟩], nextId := s.nextId + 1 } else s
  let s2 := s1.putAll l (if banded then some s.nextId else none) ps.length 0 (ps.zip at_)
  { s2.modLaunch l.id fun x => { x with present := x.cls, since := none } with
    served := modAt (fun _ => l.id + 1) l.present s2.served }

/-! ### The next launch (R318) -/

/-- Launches of a class in the order in which they are served next. -/
def State.classOrder (s : State) (cls : Nat) : List Launch :=
  let ls := s.launches.filter fun l => l.present == cls
  let last := s.served.getD cls 0
  (ls.filter fun l => decide (last ≤ l.id)) ++ ls.filter fun l => decide (l.id < last)

def State.serviceOrder (s : State) : List Launch := (List.range 8).flatMap s.classOrder

/-- Cores that the next groups of a launch could use, were they empty. -/
def State.usable (s : State) (l : Launch) (ps : List Plan) : List Nat :=
  let open_ (c : Nat) : Bool := !(s.die (c / 2)).down && !s.classShed c l.present
  if l.virtual then
    ps.filterMap fun p => (s.virtualCore l p).bind fun x => if open_ x.1 then some x.2.2 else none
  else (List.range 8).flatMap fun c => if open_ c then (s.coresOf c).map Prod.snd else []

/-- The victim of a launch that cannot place a group: among the launches of a lower class that hold resources on cores it
could use, the one of the highest class number, and of those the latest. -/
def State.victim (s : State) (l : Launch) (cores : List Nat) : Option Nat :=
  let ls := s.launches.filter fun x =>
    decide (l.present < x.present) && s.groups.any fun g => g.launch == x.id && cores.contains g.core
  (ls.foldl (fun (b : Option Launch) x => match b with
    | none => some x
    | some y => if y.present < x.present ∨ (y.present = x.present ∧ y.id < x.id) then some x else b) none).map fun x => x.id

/-- The victim stays off the cores that the launch could use (log 84). -/
def State.takeVictim (s : State) (l : Launch) (ps : List Plan) : State :=
  let cores := s.usable l ps
  match s.victim l cores with
  | none => s
  | some v => if s.blocks.contains ⟨l.present, v, cores⟩ then s else { s with blocks := s.blocks ++ [⟨l.present, v, cores⟩] }

/-- A class has dispatchable work that fits on a core. -/
def State.wants (s : State) (cls : Nat) : Bool :=
  s.launches.any fun l =>
    l.present == cls && (match (s.nextPlans l).2 with
      | [] => false
      | p :: ps => (p :: ps).all (fun x => (l.need x.threads).fits) && !(s.usable l (p :: ps)).isEmpty)

/-- The victims of classes that have no work left are free again. -/
def State.lift (s : State) : State := { s with blocks := s.blocks.filter fun b => s.wants b.cls }

/-- The launch gets no new group on this core: it is the victim of a class that is higher than its present one (log 84). -/
def State.barred (s : State) (l : Launch) (core : Nat) : Bool :=
  s.blocks.any fun b => b.victim == l.id && decide (b.cls < l.present) && b.cores.contains core

/-- A replay one of whose next records breaks its rules is cancelled with `ERRCODE` 4 (R306). -/
def State.checkLog (s : State) (l : Launch) : State :=
  if l.cutmode = 3 ∧ !l.pool ∧ !l.stopped ∧ l.logPos < l.logN then
    if (List.range (s.logBand l)).all fun i => ((s.logRecord l (l.logPos + i)).map l.logOk).getD true then s
    else (s.launchChange l.id (.mark l.counterVa (some 4) true) 0 0 0).drainLaunch l.id 0 0 0
  else s

/-- The launches served in order until one dispatches, and whether one has; a launch that finds no place takes a victim.
A reproducible launch is served at its commits only (R308). -/
def State.serve (s : State) (only : Option Nat) : List Launch → State × Bool
  | [] => (s, false)
  | l :: ls =>
    if l.repro ∧ only ≠ some l.id then s.serve only ls
    else
      let (l1, ps) := s.nextPlans l
      match ps with
      | [] => (s.modLaunch l.id fun _ => l1).serve only ls
      | p :: ps =>
        match s.placePlans l (s.barred l) (p :: ps) with
        | some at_ => (s.putPlans l1 (p :: ps) at_, true)
        | none => (s.takeVictim l (p :: ps)).serve only ls

/-- Launches that have nothing left to do are forgotten. -/
def State.reap (s : State) : State :=
  { s with launches := s.launches.filter fun l => s.live l || s.changes.any fun p => p.launch == l.id
           bands := s.bands.filter fun b => s.groups.any fun g => g.band == some b.id }

/-- What a dispatch looks at first: the records of cut logs, what work there is, and which victims are free again. -/
def State.survey (s : State) : State := (s.launches.foldl (fun t l => t.checkLog l) s).look.lift

/-- MARVER_DISPATCH: one group or band is dispatched, when one can be (R303, R307, R318). -/
def State.dispatch (s : State) : State :=
  let s1 := s.survey
  (s1.serve none s1.serviceOrder).1.look.reap

def execMarverDispatch (s : State) : Out := .next (if s.belfry.halted then s else s.dispatch)

/-- TILE_STATE_POLL: the Marver reads the state words of the launch's next cells again (R312). It keeps no copy of them, since
a dispatch looks at the words as they stand; it notes since when the launch has dispatchable work (R318). -/
def execTileStatePoll (lid : Nat) (s : State) : Out :=
  .next (if s.belfry.halted then s else s.modLaunch lid s.lookAt)

/-- POOL_GROUP_COMMIT: the Marver looks at a pool (R301, R302): it takes the last unit off the counter when the pool is closed
and empty, and dispatches when the pool's group is next in service. -/
def State.poolCommit (s : State) (l : Launch) : State :=
  match s.poolNow l with
  | none => s
  | some (tail, closed) =>
    if l.stopped ∨ l.left = 0 then s
    else if tail ≤ l.poolHead then
      if closed ∧ tail = l.poolHead then
        ((s.modLaunch l.id fun x => { x with left := 0 }).launchChange l.id (.dec l.counterVa 1) 0 0 0).reap
      else s
    else
      let s1 := s.look
      match (s1.serviceOrder.filter fun x => !x.repro && !(s1.nextPlans x).2.isEmpty).head? with
      | some x => if x.id = l.id then s1.dispatch else s1
      | none => s1

def execPoolGroupCommit (lid : Nat) (s : State) : Out :=
  .next (match s.launch? lid with | none => s | some l => if l.pool && !s.belfry.halted then s.poolCommit l else s)

/-- CLASS_AGEING: a launch that has had dispatchable work for longer than its class's interval rises one class (R318). -/
def State.age (s : State) (l : Launch) : State :=
  let l1 := s.lookAt l
  let us := ((s.io.ageus.getD l1.present 0).extractLsb' 0 16).toNat
  s.modLaunch l.id fun _ => match l1.since with
    | none => l1
    | some t =>
      if us ≠ 0 ∧ 1 < l1.present ∧ 1000 * us < s.ns.toNat - t then { l1 with present := l1.present - 1, since := some s.ns.toNat }
      else l1

def execClassAgeing (lid : Nat) (s : State) : Out := .next (match s.launch? lid with | none => s | some l => s.age l)

/-! ### Completion (R304, R306, R313, R315) -/

def Group.wi (g : Group) : Nat := (g.waves.map fun w => w.retired).sum
def Group.wmax (g : Group) : Nat := (g.waves.map fun w => w.retired).foldl max 0
def Group.ati (g : Group) : Nat := (g.waves.map fun w => w.ati).sum

/-- `cost` of R304. -/
def State.cost (s : State) (l : Launch) (g : Group) : Nat :=
  8 * (g.nwave * g.wmax + g.wi) + g.ati + 64 * min g.lines.length (2 ^ 32 - 1)
  + if l.cutmode = 1 then
      4 * s.cyclesBetween g.die g.start (g.exit.getD s.ns.toNat) + 4 * (g.waves.map fun w => w.parkedCycles).sum
    else 0

/-- The counts of a group at its exit, as the cut log holds them. -/
def exitCounts (g : Group) : List Byte :=
  leBytes 4 g.wi ++ leBytes 4 g.wmax ++ leBytes 4 (min g.ati (2 ^ 32 - 1)) ++ leBytes 4 (min g.lines.length (2 ^ 32 - 1))

/-- Every wave has ended, and every engine operation of its waves has been performed or discarded (R313, step 1). -/
def Group.settled (g : Group) : Bool :=
  g.ended && !g.halted && g.waves.all fun w => w.mq.isEmpty && w.cq.isEmpty && w.hq.isEmpty && w.gq.isEmpty && w.cbuf.isEmpty

/-- The units that a group's end takes off its counter (R314). -/
def Group.units (g : Group) (l : Launch) : Nat := if l.pool then g.tasks else if l.cutmode = 3 then 1 else g.threads

/-- Changes made for a group, one after the other. -/
def State.groupChanges (s : State) (g : Group) : List Change → State
  | [] => s
  | x :: xs => (s.groupChange g x).groupChanges g xs

/-- The changes of steps 2 and 3, and the exit counts of the cut log. -/
def Group.changes (g : Group) (l : Launch) : List Change :=
  (if g.killed || g.fatal then [] else
    match l.outmap with
    | none => []
    | some v => (outputTiles v g.org g.ext).map fun a => .full (BitVec.ofNat 64 a))
  ++ (if l.logrec && !l.logOff then
        [.write l.cutlog (l.cutlog + BitVec.ofNat 64 (64 + 64 * g.gord + 40)) (exitCounts g)] else [])
  ++ (if g.killed then [.kill l.counterVa] else []) ++ [.dec l.counterVa (g.units l)]

/-- A settled group is completed (R313): its held stores are performed, its tiles marked, its counter lowered, its
resources freed; a launch may then decide on its shape. -/
def State.completeGroup (s : State) (g : Group) : State :=
  match s.launch? g.launch with
  | none => { s with groups := s.groups.filter fun x => x.id != g.id }
  | some l =>
    let s1 := g.waves.foldl (fun t w => t.drain g.id w.wix) s
    let s2 := s1.groupChanges g (g.changes l)
    ({ s2 with groups := s2.groups.filter fun x => x.id != g.id }.modLaunch l.id fun x => x.exited g.id (s.cost l g)).look.reap

/-- GROUP_COMPLETION: of a reproducible launch, the commit completes the groups (R313). -/
def execGroupCompletion (gid : Nat) (s : State) : Out :=
  .next (match s.group? gid with
    | none => s
    | some g =>
      if g.settled && !s.belfry.halted && !(match s.launch? g.launch with | none => false | some l => l.repro) then s.completeGroup g else s)

end Sys2Proof.Machine
end

