-- ==== Sys2Proof/Machine/Commit.lean ====
section
/-! DEFINITION. The commit of a reproducible launch (R232 to R238, R277, R308, R313). -/

namespace Sys2Proof.Machine

/-! ### The commit buffer (R232, R235, R236) -/

/-- An entry performed on memory as it stands. -/
def State.performEntry (s : State) (e : CEntry) : State :=
  match e with
  | .store p bs => s.physWrite p bs
  | .atom p wide op a b _ =>
    let n := if wide then 8 else 4
    s.physWrite p (leBytes n (atomNew wide op (BitVec.ofNat 64 (leNat (s.physRead p n))) a b).toNat)
  | .full p _ => s.physWrite p (leBytes 8 (tileFull (BitVec.ofNat 64 (leNat (s.physRead p 8)))).toNat)
  | .emptied p _ => s.physWrite p (leBytes 8 (tileEmptied (BitVec.ofNat 64 (leNat (s.physRead p 8)))).toNat)

/-! ### Engine operations at a commit (R235, R237) -/

/-- A record that an operation waits on has no status yet. -/
def State.waitsOn (s : State) : Option FaultRef → Bool
  | none => false
  | some r => s.statusNow r == 0

/-- What an engine of a wave does next at a commit, by the step of its issue: the copy at the head, the HRU request at the
head, or a stream that reads global memory. -/
inductive CommitAct where
  | copy
  | hru
  | stream (k : Nat)
deriving DecidableEq, Repr

def State.commitActs (s : State) (e : Eng) (copies : Bool) : List (Nat × CommitAct) :=
  (match e.wave.cq with
   | [] => []
   | op :: _ => if s.waitsOn op.fault || !copies then [] else [(op.at_, .copy)])
  ++ (match e.wave.hq with
   | [] => []
   | r :: _ => if s.waitsOn r.fault || s.slotBusy e r || s.setWaits r then [] else [(r.at_, .hru)])
  ++ (List.range 4).filterMap fun k =>
    let x := e.wave.stream k
    if x.global && !x.ended && !s.waitsOn x.fault then some (x.at_, .stream k) else none

/-- The action issued first. -/
def firstAct : List (Nat × CommitAct) → Option CommitAct
  | [] => none
  | x :: xs => some (xs.foldl (fun b y => if y.1 < b.1 then y else b) x).2

/-- The copy or the fabric operation at the head of a wave's queue, as far as it goes at a commit. -/
def State.commitCopy (s : State) (e : Eng) (fuel : Nat) : State :=
  match e.wave.cq with
  | [] => s
  | op :: _ =>
    match op.kind.link with
    | some l => s.fabricNow e (Config.peerAnswer s.tick fuel) op l
    | none => s.copyNow e (op.n + 1) op

/-- The head of a wave's copy queue is a `send` that the peer has refused. -/
def State.sendRefused (s : State) (w : WaveRef) : Bool :=
  (s.wave? w.group w.wix).any fun v => v.cq.head?.any fun o => o.since.isSome

/-- Engine operations of a wave performed in issue order, each until it is done or waits on a fault record; behind a `send`
that the peer refuses the copies wait for the next commit (R237, R397). -/
def State.commitEngines (s : State) (w : WaveRef) (copies : Bool) : (fuel : Nat) → State
  | 0 => s
  | fuel + 1 =>
    match s.eng w with
    | none => s
    | some e =>
      match firstAct (s.commitActs e copies) with
      | none => s
      | some .copy =>
        let s1 := s.commitCopy e fuel
        s1.commitEngines w (!s1.sendRefused w) fuel
      | some .hru =>
        (match e.wave.hq with
         | [] => s
         | r :: _ => s.hruResume e r).commitEngines w copies fuel
      | some (.stream k) => (s.streamDeliver e k).commitEngines w copies fuel

/-- Steps of engines at one commit; what is left is performed later. -/
def commitFuel : Nat := 2 ^ 48

/-- One wave's part of a commit. -/
def State.commitWave (s : State) (w : WaveRef) : State :=
  match s.wave? w.group w.wix with
  | none => s
  | some v =>
    let s1 := v.cbuf.foldl State.performEntry s
    (s1.modWave w.group w.wix fun x => { x with cbuf := [], qcount := x.qcount + 1 }).commitEngines w true commitFuel

/-! ### Waits (R233, R235) -/

/-- A wait that a commit satisfies, or a later one. -/
def Wait.atCommit : Wait → Bool
  | .bar _ _ => true
  | .claim _ => true
  | .time _ => true
  | .twait _ _ _ => true
  | .waita _ _ _ _ _ => true
  | .cwait _ => true
  | .none => false
  | .join => false
  | .cseal => false
  | .qfence _ => false
  | .stream _ _ => false
  | .records _ => false
  | .recordBusy => false

/-- A waiting path looked at. -/
def State.pollPath (s : State) (r : PathRef) : State :=
  match s.ctxAt r with
  | none => s
  | some c =>
    match c.path.wait with
    | .time k => if k ≤ s.ns.toNat then s.complete c c.perf else s
    | .twait d ts since => s.pollTwait c d ts since false
    | .waita d watch got sc o => s.pollWaita c d watch got sc o
    | .cwait n => s.pollCwait c n
    | _ => s

/-- Claims of a group granted while they can be. -/
def State.serveClaims (s : State) (g : Nat) : (fuel : Nat) → State
  | 0 => s
  | n + 1 => (s.serveClaim g).serveClaims g n

/-- Every path of the wave waits for a commit, or for the other path at JOIN. -/
def State.stuck (s : State) (g : Group) (w : Wave) : Bool :=
  let ps := [false, true].filterMap fun b => s.ctxAt ⟨g.id, w.wix, b⟩
  ps.any (fun c => c.path.wait.atCommit) && ps.all fun c => c.path.wait.atCommit || (c.path.wait == .join && !s.joinDue c)

/-- The waves of a launch, in ascending (`GORD`, `WIX`). -/
def State.launchWaves (s : State) (lid : Nat) : List WaveRef :=
  (s.groups.filter fun g => g.launch == lid).flatMap fun g => g.waves.map fun w => ⟨g.id, w.wix⟩

/-- A new quantum begins: counts are cleared, and barriers that have completed let their waves go. -/
def Wave.newQuantum (w : Wave) (g : Group) : Wave :=
  (List.range 10).foldl (fun w b => w.release b (g.phase b)) { w with qended := false, qinstr := 0 }

/-! ### The commit (R235, R308) -/

/-- Groups dispatched in the order of service, down to the launch that commits, until the launch has none that fits
(R308, R318). -/
def State.commitDispatch (s : State) (lid : Nat) : (fuel : Nat) → State
  | 0 => s
  | n + 1 =>
    let s1 := s.survey
    match s1.launch? lid with
    | none => s1
    | some l =>
      let (t, done) := s1.serve (some lid) ((s1.serviceOrder.takeWhile fun x => x.id != lid) ++ [l])
      if done then t.commitDispatch lid n else t

/-- Groups dispatched at one commit at most: every core of the device holds 64 at most. -/
def dispatchFuel : Nat := 64 * 544

/-- Memory as it stands now is what the quantum reads. -/
def State.snapshot (s : State) (lid : Nat) : State :=
  s.modLaunch lid fun l => { l with snap := some (s.mem, s.hostMem, s.peerMem) }

/-- Every live wave of a launch has ended its quantum. -/
def State.quantumOver (s : State) (l : Launch) : Bool :=
  (s.groups.filter fun g => g.launch == l.id).all fun g =>
    !g.halted && g.waves.all fun w => w.ended || w.qended || decide (l.quantum ≤ w.qinstr)

/-- Every wave of a launch's groups changed. -/
def State.mapWaves (s : State) (lid : Nat) (f : Group → Wave → Wave) : State :=
  { s with groups := s.groups.map fun g => if g.launch = lid then { g with waves := g.waves.map (f g) } else g }

/-- Claims of a launch's groups granted. -/
def State.grantClaims (s : State) (lid : Nat) : State :=
  (s.groups.filter fun g => g.launch == lid).foldl (fun (t : State) g => t.serveClaims g.id g.claims.length) s

/-- Waits of a launch's paths looked at. -/
def State.pollWaits (s : State) (ws : List WaveRef) : State :=
  ws.foldl (fun (t : State) w => (t.pollPath ⟨w.group, w.wix, false⟩).pollPath ⟨w.group, w.wix, true⟩) s

/-- What a commit performs: buffers and engine operations in order, then the groups that have ended (R235, R313). -/
def State.commitMemory (s : State) (l : Launch) : State :=
  let s1 := (s.launchWaves l.id).foldl State.commitWave s
  (s1.groups.filter fun g => g.launch == l.id && g.settled).foldl State.completeGroup s1

/-- What follows: a new quantum begins, the waits that now hold are satisfied, and a wave that waits on has ended it. -/
def State.beginQuantum (s : State) (lid : Nat) : State :=
  let s1 := (s.modLaunch lid fun x => { x with commit := x.commit + 1 }).snapshot lid
  let s2 := s1.mapWaves lid fun g w => w.newQuantum g
  let s3 := (s2.pollWaits (s2.launchWaves lid)).grantClaims lid
  s3.mapWaves lid fun g w => if s3.stuck g w then { w with qended := true } else w

/-- A commit: memory, waits, then new groups (R235, R308). -/
def State.commit (s : State) (l : Launch) : State :=
  ((((s.commitMemory l).beginQuantum l.id).commitDispatch l.id dispatchFuel).snapshot l.id).look.reap

/-- QUANTUM_COMMIT. The first one dispatches the first groups. -/
def execQuantumCommit (lid : Nat) (s : State) : Out :=
  .next (match s.launch? lid with
    | none => s
    | some l => if l.repro && !s.belfry.halted && s.quantumOver l then s.commit l else s)

/-- CLAIM_GRANT: a reproducible launch's claims are granted at commits only (R233). -/
def execClaimGrant (g : Nat) (s : State) : Out :=
  .next (match (s.group? g).bind fun x => s.launch? x.launch with
    | none => s
    | some l => if l.repro then s else s.serveClaim g)

end Sys2Proof.Machine
end

