-- ==== Sys2Proof/Machine/Power.lean ====
section
/-! DEFINITION. Which paths can issue, the allowance counter, the slew limiter, the Lehr, and the words PREAD and PHINT
(R59, R138, R139, R177, R205 to R211, R335 to R339, R355, R356). -/

namespace Sys2Proof.Machine

/-! ### Eligible paths (R59, R139) -/

/-- Nothing stops the group as a whole: a dump, its end, a checkpoint, a die that is down. -/
def State.running (s : State) (g : Group) : Bool :=
  !g.halted && !g.ended && !s.belfry.halted && !(s.die g.die).down

/-- The wave is not parked by a shed and its quantum goes on; a CANCEL that is due reaches it all the same (R317). -/
def Wave.mayIssue (w : Wave) (l : Launch) : Bool :=
  w.cancel.isSome
  || ((w.parked.isNone || w.unshed) && (!l.repro || (!w.qended && decide (w.qinstr < l.quantum))))

/-- A path that can issue its next word. -/
def State.eligible (s : State) (c : Ctx) : Bool :=
  s.running c.group && c.wave.mayIssue c.launch
  && (c.path.wait == .none || s.joinDue c || (c.wave.cancel.isSome && c.path.wait != .recordBusy))

/-- Every path of a group, by wave slot. -/
def Group.paths (g : Group) : List PathRef := g.waves.flatMap fun w => [⟨g.id, w.wix, false⟩, ⟨g.id, w.wix, true⟩]

/-- The class of a path's group on its cluster is shed, and the wave does not run its handler after CANCEL. -/
def State.shedFor (s : State) (g : Group) (w : Wave) : Bool := s.isShed g && !w.unshed

/-- The place of a path in the round of its core: slots after the one that issued last come first, and of the two paths of
a wave the one that did not issue last (R139). -/
def roundKey (last : Option (Nat × Bool)) (x : Ctx) : Nat :=
  let from_ := match last with | none => 0 | some q => q.1 + 1
  2 * ((x.wave.wslot + 64 - from_) % 64) + (x.ref.slot == x.wave.lastSlot).toNat

/-- An element put into a list ordered by a key. -/
def insertKey (key : α → Nat) (x : α) : List α → List α
  | [] => [x]
  | y :: ys => if key x < key y then x :: y :: ys else y :: insertKey key x ys

def sortKey (key : α → Nat) (xs : List α) : List α := xs.foldl (fun acc x => insertKey key x acc) []

/-- The scheduler of a physical core, by its number 4 × `PQ` + position in the cluster. A quad that carries two logical
quads has one scheduler for each of its cores (R214). -/
def State.coreSched (s : State) (c core : Nat) : CoreSched := (s.cluster c).cores.getD core ⟨none, 0, []⟩
def State.modSched (s : State) (c core : Nat) (f : CoreSched → CoreSched) : State :=
  s.modCluster c fun k => { k with cores := modAt f core k.cores }

/-- A path as its core's scheduler names it. -/
def Ctx.place (c : Ctx) : Nat × Bool := (c.wave.wslot, c.ref.slot)

/-- The paths that have issued since a path could have. -/
def CoreSched.since (k : CoreSched) (x : Nat × Bool) : List (Nat × Bool) :=
  ((k.due.find? fun y => y.1 == x).map Prod.snd).getD []

/-- The eligible paths of a core in their round. -/
def State.round (s : State) (c core : Nat) : List Ctx :=
  let all := (s.groups.filter fun g => g.cluster == c && g.coreNo == core).flatMap fun g => g.paths.filterMap s.ctxAt
  sortKey (roundKey (s.coreSched c core).last) (all.filter s.eligible)

/-! ### The allowance counter (R205 to R207) -/

/-- `T` of R206; a shed class has that of class 8. -/
def Cluster.threshold (k : Cluster) (cls : Nat) : Int := 16 * k.step * cls

/-- A core cycle begins: the counter refills. -/
def State.refill (s : State) (c : Nat) : State :=
  s.modCluster c fun k => { k with b := min (k.b + 2 * k.rate) 4096, fresh := true }

/-- The core that is next in a cluster's cycle has had its part. -/
def State.endTurn (s : State) (c : Nat) : State := s.modCluster c fun k => { k with turns := k.turns.tail }

/-- A path of this core may issue now: credit reaches its threshold, or the floor is due. -/
def State.admits (s : State) (x : Ctx) : Bool :=
  let k := s.cluster x.group.cluster
  let shed := s.shedFor x.group x.wave
  decide (k.threshold (if shed then 8 else x.group.prio) ≤ k.b)
  || (!shed && decide (63 ≤ (s.coreSched x.group.cluster x.group.coreNo).idle))

/-- An issue is debited, and the core's round and count go on from it. -/
def State.debit (s : State) (x : Ctx) (cost : Nat) : State :=
  ((s.modCluster x.group.cluster fun k => { k with b := max (k.b - cost) (-2048), u := k.u + cost }).modSched x.group.cluster
    x.group.coreNo fun k => { k with last := some x.place, idle := 0 }).modWave x.ref.group x.ref.wix fun w =>
      { w with lastSlot := x.ref.slot }

/-- A cycle in which a core issues nothing: it counts towards the floor when a path of an un-shed class was eligible. -/
def State.idleCycle (s : State) (c core : Nat) (eligible : Bool) : State :=
  s.modSched c core fun k => { k with idle := if eligible then min (k.idle + 1) 63 else 0, due := [] }

/-- A cycle in which a core issues from a path: each of the others that could have issued has waited for one issue more. -/
def State.issueCycle (s : State) (c core : Nat) (able : List Ctx) (x : Ctx) : State :=
  s.modSched c core fun k =>
    { k with
      last := some x.place, idle := 0
      due := ((able.map Ctx.place).filter fun y => y != x.place).map fun y => (y, x.place :: k.since y) }

/-- ALLOWANCE_CYCLE: the counter refills, and the cores of the cluster have their part of the cycle next; `full` names the
cores that have no free lane (log 3). -/
def execAllowanceCycle (c : Nat) (full : List Nat) (s : State) : Out :=
  .next { s.refill c with agenda := .cycle c full :: s.agenda }

/-- FLOOR_DUE: a core that has counted 63 cycles has the next cycle, whatever the counter holds (R207). -/
def execFloorDue (c core : Nat) (s : State) : Out :=
  .next (if 63 ≤ (s.coreSched c core).idle then
      { s.modCluster c fun k => { k with turns := (core, false) :: k.turns.filter fun x => x.1 != core } with
        agenda := .core c core false :: s.agenda }
    else s)

/-! ### The slew limiter (R177, R209, R210) -/

/-- The largest level that live hints of the cluster ask for (R356). -/
def State.hinted (s : State) (c : Nat) : Nat :=
  ((s.groups.filter fun g => g.cluster == c && !s.isShed g).flatMap fun g =>
    g.waves.filterMap fun w => w.hint.map Prod.fst).foldl max 0

/-- Every hint of the cluster is one step older. -/
def State.ageHints (s : State) (c : Nat) : State :=
  { s with
    groups := s.groups.map fun g =>
      if g.cluster = c then
        { g with waves := g.waves.map fun w =>
            { w with hint := w.hint.bind fun h => if h.2 ≤ 1 then none else some (h.1, h.2 - 1) } }
      else g }

/-- Units granted to engines in order, four at most to each. -/
def grantUnits : (units : Nat) → List Nat → List (Nat × Nat)
  | _, [] => []
  | units, q :: qs => (q, min 4 units) :: grantUnits (units - min 4 units) qs

/-- The level of the next step. -/
def Cluster.nextLevel (k : Cluster) (d : Nat) : Nat := min (max (k.level - k.down) (min d (k.level + k.up))) 64

/-- SLEW_STEP: one step of the limiter (R210). The units that no entry uses run as fillers. -/
def State.slewStep (s : State) (c : Nat) : State :=
  let oldest (q : Nat) : Nat := ((s.entrants c q).map fun x => x.op.at_).foldl min (((s.entrants c q).map fun x => x.op.at_).foldl max 0)
  let qs := sortKey oldest ((List.range 17).filter fun q => !(s.entrants c q).isEmpty)
  let a := (s.cluster c).nextLevel (max (4 * qs.length) (s.hinted c))
  let work (t : State) : Nat := (((List.range 17).flatMap fun q => t.entrants c q).map fun x => x.op.left).sum
  let t := (grantUnits a qs).foldl (fun t x => t.engineCycles c x.1 x.2) s
  ((t.modCluster c fun k =>
    { k with level := a, u := k.u + 16 * a, fillers := k.fillers + (a - min a (work s - work t)) }).ageHints c)

def execSlewStep (c : Nat) (s : State) : Out := .next (s.slewStep c)

/-! ### The Lehr (R335 to R339) -/

/-- LEHR_PERIOD: at most one move of the operating point, by the first rule that applies (R336); `mv` is the supply that
the Lehr then chooses (R335). A trip and a checkpoint hold point 0. -/
def State.lehr (s : State) (d : Nat) (mv : BitVec 12) : State :=
  let x := s.die d
  let tjmax := 16 * (x.lctl.extractLsb' 0 8).toNat
  let fmax := (x.lctl.extractLsb' 8 6).toNat
  if x.down then s
  else
    (s.modDie d fun y => { y with vcore := mv }).modDie d fun y =>
      if fmax < y.fop then y.setFop s.ns.toNat (y.fop - 1)
      else if tjmax < y.tj.toNat then y.setFop s.ns.toNat (y.fop - 1)
      else if y.tj.toNat + 32 < tjmax ∧ y.fop < fmax ∧ y.trip = false ∧ (s.belfry.halted = false ∨ s.belfry.restoring2 = true)
          ∧ (match y.lastRise with | none => true | some t => decide (100000 ≤ s.ns.toNat - t)) = true then
        { y.setFop s.ns.toNat (y.fop + 1) with lastRise := some s.ns.toNat }
      else y

def execLehrPeriod (die : Nat) (mv : BitVec 12) (s : State) : Out := .next (s.lehr die mv)

/-- `RATE` of a die's clusters set to 0. -/
def State.rateZero (s : State) (d : Nat) : State :=
  (s.modCluster (2 * d) fun k => { k with rate := 0 }).modCluster (2 * d + 1) fun k => { k with rate := 0 }

/-- THERMAL_SAMPLE: `TJ` is the hottest sensor, in 1/16 °C; at `TTRIP` the die trips, 5 °C below it the trip ends
(R337, R338). -/
def State.thermal (s : State) (d : Nat) (temps : List Nat) : State :=
  let tj := min (temps.foldl max 0) 4095
  let s1 := s.modDie d fun x => { x with tj := BitVec.ofNat 12 tj }
  if (s.die d).down then s
  else if 16 * s.io.ttrip ≤ tj then
    (s1.modDie d fun x => { x.setFop s.ns.toNat 0 with trip := true, hotSince := some (x.hotSince.getD s.ns.toNat) }).rateZero d
  else s1.modDie d fun x => { x with hotSince := none, trip := x.trip && decide (16 * (s.io.ttrip - 5) ≤ tj) }

def execThermalSample (die : Nat) (temps : List Nat) (s : State) : Out := .next (s.thermal die temps)

/-- A group on a die that is down ends, and its engine operations are discarded. -/
def Group.lost (g : Group) : Group :=
  { g.finish with
    fatal := true, halted := false
    waves := g.finish.waves.map fun w => { w with mq := [], cq := [], hq := [], gq := [], cbuf := [], held := [] } }

/-- The launches with a group on a die end: `ERRCODE` 8 and `CANREQ`, nothing more is dispatched (R338). -/
def State.loseLaunches (s : State) (d : Nat) : List Nat → State
  | [] => s
  | lid :: r =>
    match s.launch? lid with
    | none => s.loseLaunches d r
    | some l => ((s.launchChange lid (.mark l.counterVa (some 8) true) d 0 0).drainLaunch lid d 0 0).loseLaunches d r

/-- The groups on a die end. -/
def State.loseGroups (s : State) : List Group → State
  | [] => s
  | g :: gs => ((s.modGroup g.id Group.lost).tidy g.id).loseGroups gs

/-- THERMAL_SHUTDOWN: a die at or above `TTRIP` for 100 ms is powered down (R338). -/
def State.shutdown (s : State) (d : Nat) : State :=
  match (s.die d).hotSince with
  | none => s
  | some t =>
    if (s.die d).down ∨ s.ns.toNat - t < 100000000 then s
    else
      let gs := s.groups.filter fun g => g.die == d
      ((s.modDie d fun x => { x with down := true }).loseLaunches d (gs.map fun g => g.launch).eraseDups).loseGroups gs

def execThermalShutdown (die : Nat) (s : State) : Out := .next (s.shutdown die)

/-- EOLH_UPDATE (R339). -/
def execEolhUpdate (die : Nat) (h : BitVec 24) (s : State) : Out := .next (s.modDie die fun x => { x with eolh := h })

/-! ### Registers that report (R205, R209, R337, R339, R350) -/

def Cluster.callow (k : Cluster) : Word := BitVec.ofNat 32 (k.rate + 2 ^ 16 * k.step + 2 ^ 25 * k.shed.toNat)
def Cluster.cslew (k : Cluster) : Word := BitVec.ofNat 32 (k.up + 2 ^ 8 * k.down + 2 ^ 16 * k.level)
def Die.lstat (d : Die) : Word := BitVec.ofNat 32 (d.tj.toNat + 2 ^ 12 * d.fop + 2 ^ 18 * d.vcore.toNat)
def Die.lage (d : Die) : Word := d.eolh.setWidth 32

/-- Classes shed in some cluster. -/
def State.shedSome (s : State) : BitVec 7 := s.clusters.foldl (fun m k => m ||| k.shed) 0

def State.bstat (s : State) : Word :=
  let b := s.belfry
  BitVec.ofNat 32 (b.level + 2 ^ 9 * s.shedSome.toNat + 2 ^ 16 * b.lost.toNat + 2 ^ 17 * b.capunatt.toNat
    + 2 ^ 18 * b.unatt.toNat + 2 ^ 19 * b.restoring.toNat + 2 ^ 20 * b.ckpt + 2 ^ 22 * b.holdup.toNat
    + 2 ^ 24 * b.floorred.toNat)

/-! ### Caps and partitions (R348, R349) -/

/-- The cap before the idle floor, and the cap (R348). -/
def State.capRaw (s : State) : Nat :=
  let b := s.belfry
  let c := min (b.bcap.extractLsb' 0 16).toNat s.io.pkglim
  if b.shelflim = 0 then c else min c b.shelflim
def State.cap (s : State) : Nat := max s.capRaw s.belfry.pidle
/-- `Pt`. -/
def State.ptarget (s : State) : Nat := max s.belfry.pidle (s.cap * s.belfry.level / 256)

def partMask (w : Word) (k : Nat) : Bool := w.getLsbD k
def partPrio (w : Word) : Nat := (w.extractLsb' 8 3).toNat
def partFloor (w : Word) : Nat := (w.extractLsb' 12 16).toNat

/-- The partition of a cluster. -/
def Belfry.partOf (b : Belfry) (k : Nat) : Nat := ((List.range 8).find? fun p => partMask (b.part.getD p 0) k).getD 0
/-- The clusters of a partition. -/
def Belfry.clustersOf (b : Belfry) (p : Nat) : List Nat := (List.range 8).filter fun k => b.partOf k == p

/-- The effective floors in order of priority, and what is left. -/
def floorsFrom (b : Belfry) : (avail : Nat) → List Nat → List (Nat × Nat) × Nat
  | avail, [] => ([], avail)
  | avail, p :: ps =>
    let e := min (partFloor (b.part.getD p 0)) avail
    let (r, left) := floorsFrom b (avail - e) ps
    ((p, e) :: r, left)

/-- Partitions with clusters, by (`PPRIO`, number). -/
def Belfry.partOrder (b : Belfry) : List Nat :=
  sortKey (fun p => 8 * partPrio (b.part.getD p 0) + p) ((List.range 8).filter fun p => !(b.clustersOf p).isEmpty)

/-- The target of a partition (R349). -/
def State.ptgt (s : State) (p : Nat) : Nat :=
  let (fs, avail) := floorsFrom s.belfry s.ptarget s.belfry.partOrder
  ((fs.find? fun x => x.1 == p).map Prod.snd).getD 0 + avail * (s.belfry.clustersOf p).length / 8

/-! ### PREAD and PHINT (R355, R356) -/

/-- The value that a selector chooses; cap and target are those of the last evaluation (R347). -/
def State.powerValue (s : State) (c : Ctx) (sel : Nat) : Word :=
  let d := c.group.die
  let b := s.belfry
  match sel with
  | 0 => BitVec.ofNat 32 b.pm
  | 1 => BitVec.ofNat 32 (b.pd.getD d 0)
  | 2 => (s.die d).tj.setWidth 32
  | 3 => BitVec.ofNat 32 (800 + 50 * (s.die d).fop)
  | 4 => BitVec.ofNat 32 (s.headroom d)
  | 5 => (s.cluster c.group.cluster).callow
  | 6 => s.bstat
  | 7 => b.freq
  | 8 => BitVec.ofNat 32 b.vbus
  | 9 => (s.die d).lage
  | 10 => BitVec.ofNat 32 b.capNow
  | _ => BitVec.ofNat 32 (b.targets.getD c.group.cluster 0)

/-- A trap of a scalar-class word that holds its operand. -/
def arithTrap (reason : Nat) (v : Word) : Trap := { cause := .arith, sub := reason, addr := v.setWidth 64 }

/-- `pread` (R355). -/
def execPread (d : SDst) (a : SOp) (s : State) : Out :=
  scal s [(a, false)] fun c =>
    let sel := c.s32 a
    if 11 < sel.toNat then s.takeTrap c (arithTrap 8 sel) else s.scalResult c d (s.powerValue c sel.toNat)

/-- `phint` (R356). -/
def execPhint (a : SOp) (s : State) : Out :=
  scal s [(a, false)] fun c =>
    let v := c.s32 a
    let n := (v.extractLsb' 0 7).toNat
    let m := (v.extractLsb' 8 8).toNat
    if 64 < n ∨ v.getLsbD 7 = true ∨ 2 ^ 16 ≤ v.toNat then s.takeTrap c (arithTrap 9 v)
    else (s.modWave c.ref.group c.ref.wix fun w => { w with hint := if m = 0 then none else some (n, m) }).complete c c.perf

end Sys2Proof.Machine
end

