-- ==== Sys2Proof/Machine/Boot.lean ====
section
/-! DEFINITION. A program of one word loaded from outside the machine, where no program runs yet: what the host, `JLSET` and
the dispatch of a launch would have set up (log 6). -/

namespace Sys2Proof.Machine

/-- Fields of a number, each a place and a value. -/
def packFields : List (Nat × Nat) → Nat
  | [] => 0
  | (lo, v) :: r => v * 2 ^ lo + packFields r

/-- Where the loaded word stands, in context 1, whose addresses from 0 on are device addresses. -/
def bootPc : Nat := 0x30000
def bootHandler : Nat := 0x31000
def bootRoot : Nat := 0x10000
def bootTable : Nat := 0x20000

/-- The record of the loaded launch: one group of one thread, and everything allowed. -/
def bootRecord : BitVec 2048 :=
  BitVec.ofNat 2048 (packFields [(0, bootPc), (64, bootHandler), (128, 0x40000), (192, 1), (206, 1), (207, 1), (208, 1),
    (211, 1), (224, 1), (232, 4), (240, 16), (256, 1), (288, 1), (320, 1), (352, 1), (384, 1), (400, 1), (416, 1),
    (432, 1), (448, 1), (464, 1), (480, 1), (496, 1), (512, 1), (528, 1), (544, 1), (560, 1), (576, 1), (592, 1),
    (608, 1), (624, 1), (640, 1), (656, 1), (672, 1), (704, 65536), (740, 65536), (760, 8), (768, 512),
    (832, 0x8FF), (848, 0x800), (864, 0x800), (880, 0x800), (896, 0x800), (912, 0x800), (928, 0x800), (944, 0x800),
    (960, 0x10000000), (1024, 0x20000000), (1152, 2 ^ 64 - 1), (1280, 10), (1312, 10),
    (1344, 10), (1376, 10), (1568, 1)])

/-- The loaded launch, whose one group is dispatched. -/
def bootLaunch (id : Nat) : Launch :=
  { id := id, lrec := bootRecord, recVa := 0x50000, cls := 0, present := 0, since := none, counter := ⟨.dev, 0x40000⟩,
    mct := [], inmap := none, outmap := none, poolHdr := 0, rl := [], left := 0, shape := [1, 1, 1, 1], probes := [],
    round := none, recent := [], counting := 0, gord := 1, poolHead := 0, poolSeen := [], logN := 0,
    logPos := 0, logOff := false, stopped := false, snap := none, commit := 0 }

def bootPlan : Plan :=
  { org := [0, 0, 0, 0], ext := [1, 1, 1, 1], threads := 1, shape := [1, 1, 1, 1], ord := 0, probe := false, vcore := none,
    bn := 1, entry := BitVec.ofNat 64 bootPc, tasks := [] }

def bootGroup (id ns slot : Nat) : Group := newGroup { bootLaunch id with gord := 0 } (id + 1) ns bootPlan 0 0 0 [slot]

/-- The path of the loaded program. -/
def bootPath (s : State) : PathRef := ⟨s.nextId + 1, 0, false⟩

/-- Context 1 with one leaf of 8 GiB at 0. -/
def State.bootMap (s : State) : State :=
  { (s.devWriteNat bootRoot 8 (bootTable + 1)).devWriteNat bootTable 8 31 with
    xroot := s.xroot.set 1 (BitVec.ofNat 64 (2 ^ 63 + bootRoot)), kept := s.kept.filter fun k => k.ctx != 1 }

/-- A path that its core selects next, whatever the allowance: the core's part of a cycle is to come, its floor is due, and its
round begins at the path. -/
def State.nextTurn (s : State) (r : PathRef) : State :=
  match s.ctxAt r with
  | none => s
  | some c =>
    (s.modCluster c.group.cluster fun k =>
      { k with
        shed := 0, turns := [(c.group.coreNo, false)]
        cores := modAt (fun _ => ⟨some ((c.wave.wslot + 63) % 64, false), 63, []⟩) c.group.coreNo k.cores }).modWave r.group r.wix
      fun w => { w with lastSlot := !r.slot }

/-- A program of one word, ready to issue. -/
def State.bootWord (s : State) (w : Word) : State :=
  let t := s.bootMap.devWrite bootPc (bytesOfWord w)
  State.nextTurn (s := { t with
    memBad := t.memBad.filter fun u => u != bootPc / 32 && u != bootPc / 32 + 1
    launches := s.launches ++ [bootLaunch s.nextId]
    groups := s.groups ++ [bootGroup s.nextId s.ns.toNat ((s.freeSlots 0).headD 0)]
    nextId := s.nextId + 2
    cur := some (bootPath s)
    agenda := .issue (bootPath s) :: s.agenda }) (bootPath s)

/-- A path that would issue from device memory now, and where. -/
def State.fetchPlace (s : State) (r : PathRef) : Option Nat :=
  match s.ctxAt r with
  | none => none
  | some c =>
    if s.running c.group && c.wave.mayIssue c.launch && c.wave.cancel.isNone && c.path.wait == .none
        && c.path.seq.len == 0 && c.path.failed.isEmpty && c.path.pc.toNat % 4 == 0 && c.wave.mq.isEmpty
        && c.wave.loads.isEmpty then
      match s.translate c.group.die c.launch.ctx c.path.priv .fetch c.path.pc.toNat 4 with
      | .ok p => if p.space == .dev then some p.addr else none
      | .error _ => none
    else none

/-- A word placed where the path issues next, and its turn. -/
def State.placeWord (s : State) (r : PathRef) (a : Nat) (w : Word) : State :=
  State.nextTurn (s := { s.devWrite a (bytesOfWord w) with
    memBad := s.memBad.filter fun u => u != a / 64 * 2 && u != a / 64 * 2 + 1
    agenda := .issue r :: s.agenda }) r

/-- The word stored where the present path fetches next; without one, loaded as a program of its own. -/
def State.storeFetch (s : State) (w : Word) : State :=
  match s.cur.bind fun r => (s.fetchPlace r).map fun a => (r, a) with
  | some (r, a) => s.placeWord r a w
  | none => s.bootWord w

end Sys2Proof.Machine
end

