-- ==== Sys2Proof/Machine/Control.lean ====
section
/-! DEFINITION. Control: transfers, calls, JOIN, EXIT, windows, masks, traps from programs and waits on time
(R36, R44, R45, R118 to R135). -/

namespace Sys2Proof.Machine

/-! ### Transfers (R120) -/

/-- The target of a B-format word (R36). -/
def Ctx.blockTarget (c : Ctx) (x : BitVec 21) : DWord :=
  (c.path.pc &&& ~~~(63 : DWord)) + (x.signExtend 64) * 64

/-- The trap of a split beyond the declared depth: the record holds the mask that would have been pushed (R56). -/
def Ctx.depthTrap (c : Ctx) (ts : Mask) : Option Trap :=
  if (c.wave.path? !c.ref.slot).isSome && decide (c.launch.dsdepth ≤ c.wave.depth) then
    some { cause := .divstk, mask := ts }
  else none

/-- The path moves to a target: latches cleared (R48, R120). -/
def Path.goto (p : Path) (target : DWord) : Path := { p.clearLatches with pc := target }

/-- A word that transfers the threads `ts` to `target` (R120); `w` is what it writes in those threads. Its path stays in
place, moves as a whole, or splits; the split is checked before any effect. -/
def State.transfer (s : State) (c : Ctx) (ts : List Nat) (target : DWord) (w : Wave → Wave) : State :=
  let s1 := (s.modWave c.ref.group c.ref.wix w).complete c c.perf
  if ts = [] then s1
  else if maskOf ts = c.path.mask then s1.modPath c.ref fun p => p.goto target
  else s.unless c (c.depthTrap (maskOf ts))
    (match s.doSplit c (maskOf ts) target (c.path.pc + 4) with
     | .ok s2 => (s2.modWave c.ref.group c.ref.wix w).modWave c.ref.group c.ref.wix fun x =>
         if c.path.priv then x else x.retire c.perf c.path.counted
     | .error f => s.wholeTrap c ((ts.head?).getD 0) f)

/-- The threads whose condition holds (R121). -/
def Ctx.condIn (c : Ctx) (e : Bool) (p : Fin 8) (t : Nat) : Bool := xor (c.wave.preg p t) e

/-- `bra` (R121). -/
def execBra (e : Bool) (p : Fin 8) (x : BitVec 21) (s : State) : Out :=
  issue s fun c =>
    if c.path.mask = 0 ∧ e = false ∧ p = 0 ∧ c.path.seq.guard = none then
      (s.complete c []).modPath c.ref fun q => q.goto (c.blockTarget x)
    else s.transfer c (c.perf.filter (c.condIn e p)) (c.blockTarget x) id

/-- `bru` (R122): the whole path moves or stays; threads that disagree trap. With an empty mask the condition is read in
thread 0. -/
def execBru (e : Bool) (p : Fin 8) (x : BitVec 21) (s : State) : Out :=
  issue s fun c =>
    let hit (t : Nat) : Bool := guardIn c.wave c.path.seq.guard t && c.condIn e p t
    if c.path.mask = 0 then
      let taken := if p = 0 then !e else hit 0
      if taken then (s.complete c []).modPath c.ref fun q => q.goto (c.blockTarget x) else s.complete c []
    else
      match differing hit (ixs c.path.mask) with
      | [] => s.transfer c ((ixs c.path.mask).filter hit) (c.blockTarget x) id
      | us => s.takeTrap c { cause := .nunif, mask := maskOf us }

/-! ### The window (R44, R45) -/

/-- What breaks R44 when thread `t` moves its window base by `k`: WOVF or WUNF, and whether it is exhausted. -/
def Ctx.windowFail (c : Ctx) (k : Int) (t : Nat) : Option (Bool × Bool) :=
  let wb : Int := (c.wave.wb.get t).toNat + k
  let sb : Int := (c.wave.sb.get t).toNat
  if (c.launch.d : Int) < wb + 96 then some (true, true)
  else if wb < 0 then some (false, true)
  else if sb + c.wave.seg < wb + 96 then some (true, false)
  else if wb < sb then some (false, false)
  else none

/-- The trap of threads that break R44 (R45, R127): WOVF when any of them overflows, WUNF otherwise. -/
def Ctx.windowTrap (c : Ctx) (k : Nat → Int) (ts : List Nat) : Option Trap :=
  let bad := ts.filterMap fun t => (c.windowFail (k t) t).map fun f => (t, f)
  if bad = [] then none
  else some { cause := if bad.any fun x => x.2.1 then .wovf else .wunf
              mask := maskOf (bad.map Prod.fst), exhaust := bad.any fun x => x.2.2 }

/-- Window bases moved in some threads. -/
def Wave.slide (k : Nat → Int) (w : Wave) : List Nat → Wave
  | [] => w
  | t :: ts => Wave.slide k { w with wb := w.wb.set t (BitVec.ofInt 32 ((w.wb.get t).toNat + k t)) } ts

/-- The link written in some threads (R123). -/
def Wave.link (link : DWord) (w : Wave) : List Nat → Wave
  | [] => w
  | t :: ts => ((w.putO 6 t (link.setWidth 32)).putO 7 t (link.extractLsb' 32 32)).link link ts

/-- `call` and `calli` once their target is known (R123). -/
def State.callTo (s : State) (c : Ctx) (target : DWord) : State :=
  s.unless c (c.windowTrap (fun _ => 32) c.perf)
    (s.transfer c c.perf target fun w => (w.link (c.path.pc + 4) c.perf).slide (fun _ => 32) c.perf)

/-- `call` (R123). -/
def execCall (x : BitVec 21) (s : State) : Out := atP0 s fun c => s.callTo c (c.blockTarget x)

/-- The target of an indirect jump or call: NUNIF, then ALIGN (R37, R123). -/
def Ctx.targetTrap (c : Ctx) (a : VOp) : Option Trap :=
  match Ctx.nonUniform (fun t => c.v64 t a) c.perf with
  | u :: us => some { cause := .nunif, mask := maskOf (u :: us) }
  | [] =>
    match c.perf with
    | [] => none
    | t :: _ => if (c.v64 t a).extractLsb' 0 6 != 0 then some { cause := .align, mask := maskOf c.perf, addr := c.v64 t a }
        else none

/-- The operand of the lowest performing thread. -/
def Ctx.lowest64 (c : Ctx) (a : VOp) : DWord := ((c.perf.head?).map fun t => c.v64 t a).getD 0

/-- `jmpi` (R123). -/
def execJmpi (a : VOp) (s : State) : Out :=
  issue s fun c => s.unless c (c.srcTrap c.perf [⟨a, true⟩] <|> c.targetTrap a) (s.transfer c c.perf (c.lowest64 a) id)

/-- `calli` (R123). -/
def execCalli (a : VOp) (s : State) : Out :=
  atP0 s fun c => s.unless c (c.srcTrap c.perf [⟨a, true⟩] <|> c.targetTrap a)
    (if c.perf = [] then s.complete c [] else s.callTo c (c.lowest64 a))

/-- `ret` (R124): to the link of the lowest thread. -/
def execRet (s : State) : Out :=
  atP0 s fun c =>
    let link : VOp := .o 6
    s.unless c (c.windowTrap (fun _ => -32) c.perf <|> c.srcTrap (c.perf.take 1) [⟨link, true⟩])
      (s.transfer c c.perf (c.lowest64 link &&& ~~~(3 : DWord)) fun w => w.slide (fun _ => -32) c.perf)

/-- `wbase` (R127): latches are kept. -/
def execWbase (a : VOp) (s : State) : Out :=
  atP0 s fun c =>
    let k (t : Nat) : Int := (c.v32 t a).toInt
    s.unless c (c.srcTrap c.perf [⟨a, false⟩] <|> c.windowTrap k c.perf)
      ((s.modWave c.ref.group c.ref.wix fun w => w.slide k c.perf).complete c c.perf)

/-! ### JOIN and EXIT -/

/-- The partner of a side: the path in the other slot that belongs to the other side. -/
def Ctx.partner (c : Ctx) (n : Nat) (side : Bool) : Option Path :=
  (c.wave.path? !c.ref.slot).filter fun q => q.split == some (n, !side)

/-- `join` without an open split, or whose partner has ended: the latches are cleared, nothing else (R54, R126). -/
def State.joinAlone (s : State) (c : Ctx) (e : Option Split) : State :=
  (s.complete c c.perf).modWave c.ref.group c.ref.wix fun w =>
    match e with
    | none => w.modPath c.ref.slot Path.clearLatches
    | some e => (w.dropSplit e.num).modPath c.ref.slot fun p => (e.leave p.marks p).clearLatches

/-- The path waits at its JOIN and issues nothing (R54). -/
def State.joinWait (s : State) (c : Ctx) : State :=
  s.modPath c.ref fun p => { p.clearLatches.onward c.path.pc with wait := .join }

/-- Both sides are here: they merge; the not-taken side's slot holds the result (R51, R54). `q` is the partner. -/
def Wave.mergeIn (w : Wave) (c : Ctx) (e : Split) (side : Bool) (q : Path) (slot : Bool) : Wave :=
  let nt := if side then q else c.path
  let tk := if side then c.path else q
  let w1 := ((w.dropSplit e.num).setPath (!slot) none).setPath slot (some (merged e nt tk (c.path.pc + 4)))
  { (if c.path.priv then w1 else (w1.retire c.perf 0).retire (ixs q.mask) 0) with ucf := w.ucf || conflict nt tk }

/-- `join` with a partner in the top record (R54): it merges with one that waits there, or changes places with one that
does not. -/
def State.joinTop (s : State) (c : Ctx) (e : Split) (side : Bool) (h : Shadow) : Except AFault State :=
  (s.readRecord c (c.wave.depth - 1)).bind fun bs =>
    let q := recordPath h bs
    if h.wait then
      if q.pc = c.path.pc then
        .ok (s.modWave c.ref.group c.ref.wix fun w =>
          let w1 := { w with depth := w.depth - 1, stack := w.stack.tail }
          let nt := if side then q else c.path
          let tk := if side then c.path else q
          let w2 := (w1.dropSplit e.num).setPath c.ref.slot (some (merged e nt tk (c.path.pc + 4)))
          { (if c.path.priv then w2 else (w2.retire c.perf 0).retire (ixs q.mask) 0) with
            ucf := w.ucf || conflict nt tk })
      else .ok (s.joinWait c)
    else
      let out := recordBytes { c.path with seq := Seq.empty } true (c.path.pc + 4)
      (s.storeRecord c (c.wave.depth - 1) out).map fun s1 =>
        s1.modWave c.ref.group c.ref.wix fun w =>
          ({ w with stack := c.path.shadow true out :: w.stack.tail }).setPath c.ref.slot (some q)

/-- `join` (R54, R125). -/
def execJoin (s : State) : Out :=
  issue s fun c =>
    match c.path.split with
    | none => s.joinAlone c none
    | some (n, side) =>
      match c.wave.split? n with
      | none => s.joinAlone c none
      | some e =>
        if e.ended then s.joinAlone c (some e)
        else
          match c.partner n side with
          | some q =>
            if q.wait == .join && q.pc == c.path.pc then
              let slot := if side then !c.ref.slot else c.ref.slot
              match (s.modWave c.ref.group c.ref.wix fun w => w.mergeIn c e side q slot).loadTop c (!slot) with
              | .ok t => t
              | .error f => s.wholeTrap c 0 f
            else s.joinWait c
          | none =>
            match c.wave.stack with
            | [] => s.joinWait c
            | h :: _ =>
              if h.split = some (n, !side) then
                match s.joinTop c e side h with
                | .ok t => t
                | .error f => s.wholeTrap c 0 f
              else s.joinWait c

/-- The threads whose guard is true end; with every active thread, the path ends (R126). A handler's path that ends so gives
the trap record free, as its `tret` would, and the other path's kept trap is taken (R363; log 73). A
fault of the record that the core loads is thread 0's (log 95). -/
def State.exitThreads (s : State) (c : Ctx) : State :=
  let ts := maskOf c.perf
  let s1 := (s.drain c.ref.group c.ref.wix).modWave c.ref.group c.ref.wix fun w =>
    { (if c.path.priv then w else w.retire c.perf 0) with exited := w.exited ||| ts }
  if ts = c.path.mask then
    match s1.endPath c with
    | .ok t => (if c.path.priv ∧ c.wave.owner = some c.ref.slot then t.freeRecord c else t).tidy c.ref.group
    | .error f => s.wholeTrap c 0 f
  else s1.modPath c.ref fun p => { p.onward (c.path.pc + 4) with mask := p.mask &&& ~~~ts }

/-- `exit` (R126). -/
def execExit (s : State) : Out := issue s fun c => s.exitThreads c

/-! ### The active mask -/

/-- `getmask` (R130). -/
def execGetmask (d : VDst) (s : State) : Out := vec s [] d fun c _ => c.path.mask

/-- Threads of the wave that exist, have not exited, and belong to no other path or record (R131). -/
def Ctx.freeThreads (c : Ctx) : Mask :=
  maskBelow c.wave.threads &&& ~~~c.wave.exited
    &&& ~~~(((c.wave.path? !c.ref.slot).map fun q => q.mask).getD 0)
    &&& ~~~(c.wave.stack.foldl (fun m h => m ||| h.mask) 0)

/-- An operand with one value for the wave. -/
def uniformOp : VOp → Bool
  | .s _ => true
  | .z => true
  | .imm => true
  | _ => false

/-- The value that `setmask` and `waitt` take: a uniform operand, the lowest active thread's, or thread 0's (R131). -/
def Ctx.reader (c : Ctx) (a : VOp) : List Nat :=
  if uniformOp a then [0] else if c.path.mask = 0 then [0] else ixs c.path.mask

/-- `setmask` (R131). -/
def execSetmask (a : VOp) (s : State) : Out :=
  issue s fun c =>
    let us := Ctx.nonUniform (fun t => (c.v32 t a).setWidth 64) (c.reader a)
    s.unless c (c.srcTrap (c.reader a) [⟨a, false⟩]
        <|> (if us = [] then none else some { cause := .nunif, mask := maskOf us }))
      ((s.complete c c.perf).modPath c.ref fun p =>
        { p with mask := c.v32 ((c.reader a).headD 0) a &&& (c.path.mask ||| c.freeThreads) })

/-! ### Traps from programs -/

/-- `trap n` (R132): DEBUG, resuming after the word. -/
def execTrap (n : BitVec 7) (s : State) : Out :=
  issue s fun c =>
    let s1 := if c.path.priv then s else s.modWave c.ref.group c.ref.wix fun w => w.retire c.perf c.path.counted
    s1.takeTrap c { cause := .debug, addr := n.setWidth 64, after := some (c.path.pc + 4) }

/-- `tret` (R132, R368): PRIV at P0. -/
def execTret (s : State) : Out := atP1 s fun c => s.tret c

/-- `nop` (R133). -/
def execNop (s : State) : Out := issue s fun c => s.complete c c.perf

/-- `yield` (R133): another eligible path is preferred for the next issue; nothing else. -/
def execYield (s : State) : Out := issue s fun c => { s.complete c c.perf with cur := none }

/-! ### Waiting on time (R134, R135) -/

/-- The path waits until a deadline; one that has passed costs no wait. The quantum of a reproducible launch ends at the
issue (R233). -/
def State.waitUntil (s : State) (c : Ctx) (deadline : Nat) : State :=
  let s1 := if c.launch.repro then s.modWave c.ref.group c.ref.wix fun w => { w with qended := true } else s
  if deadline ≤ s.ns.toNat ∧ c.launch.repro = false then s1.complete c c.perf
  else s1.modPath c.ref fun p => { p with wait := .time deadline, since := s.ns.toNat }

/-- The deadline of a wait on time that is under way, or that a trap has cut short (R135). -/
def Ctx.timed (c : Ctx) : Option Nat :=
  match c.path.wait with
  | .time k => some k
  | _ => c.path.deadline

/-- `sleepn` (R134). -/
def execSleepn (d : SOp) (i : BitVec 18) (s : State) : Out :=
  issue s fun c =>
    match c.timed with
    | some k => s.waitUntil c k
    | none => s.unless c (c.sTrap [(d, false)]) (s.waitUntil c (s.ns.toNat + (c.s32 d).toNat + i.toNat))

/-- `waitt` (R134): NUNIF where the operand disagrees. -/
def execWaitt (a : VOp) (s : State) : Out :=
  issue s fun c =>
    match c.timed with
    | some k => s.waitUntil c k
    | none =>
      let us := Ctx.nonUniform (fun t => c.v64 t a) (c.reader a)
      s.unless c (c.srcTrap (c.reader a) [⟨a, true⟩]
          <|> (if us = [] then none else some { cause := .nunif, mask := maskOf us }))
        (s.waitUntil c (c.v64 ((c.reader a).headD 0) a).toNat)

end Sys2Proof.Machine
end

