-- ==== Sys2Proof/Machine/Convert.lean ====
section
/-! DEFINITION. Conversion, and narrow-format pack and unpack (R75 to R77, R105 to R109). -/

namespace Sys2Proof.Machine

/-! ### The keys of stochastic rounding (R77) -/

/-- The absolute coordinates of a thread: its place in row-major order over the extents (R309); in a pool, its task's
index (R77). -/
def Ctx.coords (c : Ctx) (t : Nat) : List Nat :=
  let n := 32 * c.wave.wix + t
  if c.launch.pool then [c.group.org.getD 0 0 + n, 0, 0, 0]
  else
    let e0 := c.group.ext.getD 0 1
    let e1 := c.group.ext.getD 1 1
    let e2 := c.group.ext.getD 2 1
    [c.group.org.getD 0 0 + n % e0, c.group.org.getD 1 0 + n / e0 % e1, c.group.org.getD 2 0 + n / e0 / e1 % e2,
      c.group.org.getD 3 0 + n / e0 / e1 / e2]

/-- The 24-bit value of the generator for element `e` of thread `t` (R76, R77). -/
def Ctx.random (c : Ctx) (t e : Nat) : Nat :=
  srBits c.launch.seed (c.coords t ++ [(c.wave.done.get t).toNat, e])

/-- A rounding mode in thread `t` (R72). -/
def Ctx.rm (c : Ctx) (t : Nat) : Rnd → Rm
  | .rne => .rne
  | .rz => .rz
  | .ru => .ru
  | .rd => .rd
  | .sr => .sr (c.random t 0)

/-- The rounding mode of a format register, with the generator's value (R66). -/
def fmtRm (f : Word) (r : Nat) : Rm :=
  match fmtRnd f with
  | 0 => .rne
  | 1 => .rz
  | 2 => .ru
  | 3 => .rd
  | _ => .sr r

/-! ### CVT (R105, R106) -/

/-- The exact value of an operand in a type. -/
def tyVal (u : NumTy) (x : DWord) : Val :=
  match u with
  | .u8 => ofInt (x.toNat % 2 ^ 8)
  | .i8 => ofInt (x.setWidth 8).toInt
  | .u16 => ofInt (x.toNat % 2 ^ 16)
  | .i16 => ofInt (x.setWidth 16).toInt
  | .u32 => ofInt (x.toNat % 2 ^ 32)
  | .i32 => ofInt (x.setWidth 32).toInt
  | .u64 => ofInt x.toNat
  | .i64 => ofInt x.toInt
  | .f16 => f16Val (x.setWidth 32)
  | .bf16 => bf16Val (x.setWidth 32)
  | .f32 => f32Val (x.setWidth 32)

/-- A value converted to a type, in the low bits; integers extended as their type is signed (R65, R106). -/
def toTy (t : NumTy) (m : Rm) (v : Val) : DWord :=
  match t with
  | .u8 => BitVec.ofInt 64 (toIntSat m 0 (2 ^ 8 - 1) v)
  | .i8 => BitVec.ofInt 64 (toIntSat m (-2 ^ 7) (2 ^ 7 - 1) v)
  | .u16 => BitVec.ofInt 64 (toIntSat m 0 (2 ^ 16 - 1) v)
  | .i16 => BitVec.ofInt 64 (toIntSat m (-2 ^ 15) (2 ^ 15 - 1) v)
  | .u32 => BitVec.ofInt 64 (toIntSat m 0 (2 ^ 32 - 1) v)
  | .i32 => BitVec.ofInt 64 (toIntSat m (-2 ^ 31) (2 ^ 31 - 1) v)
  | .u64 => BitVec.ofInt 64 (toIntSat m 0 (2 ^ 64 - 1) v)
  | .i64 => BitVec.ofInt 64 (toIntSat m (-2 ^ 63) (2 ^ 63 - 1) v)
  | .f16 => (roundWord fp16 m v).setWidth 64
  | .bf16 => (roundWord bf16 m v).setWidth 64
  | .f32 => (roundWord fp32 m v).setWidth 64

/-- The operand of `cvt` in its source type's width. -/
def Ctx.cvtSrc (c : Ctx) (t : Nat) (u : NumTy) (a : VOp) : DWord :=
  if u.wide then c.v64 t a else (c.v32 t a).setWidth 64

/-- Conversion between integer and float types (R106). -/
def execCvt (d : VDst) (a : VOp) (r : Rnd) (t u : NumTy) (s : State) : Out :=
  if t.wide then vec64 s [⟨a, u.wide⟩] d fun c x => toTy t (c.rm x r) (tyVal u (c.cvtSrc x u a))
  else vec s [⟨a, u.wide⟩] d fun c x => (toTy t (c.rm x r) (tyVal u (c.cvtSrc x u a))).setWidth 32

/-! ### Pack and unpack (R107 to R109) -/

/-- Elements of `w` bits, element 0 lowest (R69). -/
def streamOf (w : Nat) : List Nat → Nat
  | [] => 0
  | x :: xs => x % 2 ^ w + 2 ^ w * streamOf w xs

/-- The path's copy of a format register (R50). -/
def Ctx.fmt (c : Ctx) (k : Nat) : Word := c.path.fmt.getD k 0

/-- The traps of `npack` and `nunpack`: ARITH, whose mask is 0 (log 21), then NUNIF of the scale byte
(R107, R108). -/
def Ctx.packTrap (c : Ctx) (n : Nat) (b : VOp) (k : Fin 4) : Option Trap :=
  if fmtW (c.fmt k.val) = 11 ∧ c.perf ≠ [] then
    some { cause := .arith, sub := Config.packReason n % 256, addr := BitVec.ofNat 64 k.val }
  else if fmtScale (c.fmt k.val) = 2 then
    match Ctx.nonUniform (fun t => ((c.v32 t b) &&& 0xFF).setWidth 64) c.perf with
    | [] => none
    | us => some { cause := .nunif, mask := maskOf us }
  else none

/-- The operands that are read: b only where it holds the scale (R108, R109). -/
def Ctx.packSrc (c : Ctx) (a b : VOp) (k : Fin 4) : List Src :=
  if fmtScale (c.fmt k.val) = 2 then [⟨a, false⟩, ⟨b, false⟩] else [⟨a, false⟩]

/-- The scale operand, b[7:0] of the lowest performing thread (they agree). -/
def Ctx.scaleByte (c : Ctx) (b : VOp) : Nat := ((c.perf.head?).map fun t => (c.v32 t b).toNat % 256).getD 0

/-- The scale of `npack` (R108). -/
def Ctx.packScale (c : Ctx) (f : Word) (a b : VOp) : Nat :=
  match fmtScale f with
  | 0 => 127
  | 1 => chooseScale (fmtOf f) (c.perf.map fun u => f32Val (c.v32 u a))
  | _ => c.scaleByte b

/-- The code of thread `u`'s element (R108). -/
def Ctx.packCode (c : Ctx) (f : Word) (a : VOp) (k u : Nat) : Nat :=
  if c.perf.contains u then
    let v : Val := if k = 0xFF then .nan else (f32Val (c.v32 u a)).scale (127 - (k : Int))
    roundTo (fmtOf f) (fmtSat f) (fmtRm f (c.random u 0)) v
  else 0

/-- What `npack` gives thread `t` (R108). -/
def Ctx.packed (c : Ctx) (a b : VOp) (k t : Nat) : Word :=
  let f := c.fmt k
  let w := fmtBits f
  let sc := c.packScale f a b
  if t < w then BitVec.ofNat 32 (streamOf w ((List.range 32).map fun u => c.packCode f a sc u) / 2 ^ (32 * t))
  else if t = w ∧ fmtScale f ≠ 0 then BitVec.ofNat 32 sc
  else 0

/-- A wave of FP32 values converted into a dense narrow stream (R108). -/
def execNpack (d : VDst) (a b : VOp) (k : Fin 4) (s : State) : Out :=
  issue s fun c => s.unless c (c.srcTrap c.perf (c.packSrc a b k) <|> c.packTrap s.tick b k)
    (s.vecResult c d (c.perf.map fun t => (t, c.packed a b k.val t)))

/-- The words of the stream that `nunpack` reads (R109). -/
def Ctx.packWord (c : Ctx) (a : VOp) (u : Nat) : Nat := if c.perf.contains u then (c.v32 u a).toNat else 0

/-- What `nunpack` gives thread `t` (R109). -/
def Ctx.unpacked (c : Ctx) (a b : VOp) (k t : Nat) : Word :=
  let f := c.fmt k
  let w := fmtBits f
  let sc := match fmtScale f with
    | 0 => 127
    | 1 => c.packWord a w % 256
    | _ => c.scaleByte b
  let x := streamOf 32 ((List.range w).map fun u => c.packWord a u) / 2 ^ (w * t) % 2 ^ w
  roundWord fp32 .rne (scaled sc (decodeFloat (fmtOf f) x))

/-- A dense narrow stream decoded into FP32 per thread (R109). -/
def execNunpack (d : VDst) (a b : VOp) (k : Fin 4) (s : State) : Out :=
  issue s fun c => s.unless c (c.srcTrap c.perf (c.packSrc a b k) <|> c.packTrap s.tick b k)
    (s.vecResult c d (c.perf.map fun t => (t, c.unpacked a b k.val t)))

end Sys2Proof.Machine
end

