-- ==== Sys2Proof/Machine/Grid.lean ====
section
/-! DEFINITION. The Belfry: shelf frames, the droop curve, sheds and restores, RATE, the checkpoint and the restore of an
image (R340 to R354). -/

namespace Sys2Proof.Machine

/-! ### Frames (R340, R341) -/

/-- One bit of the CRC-32 of IEEE 802.3, least significant bit first. -/
def crcBits : (n c : Nat) → Nat
  | 0, c => c
  | n + 1, c => crcBits n (if c % 2 = 1 then (c / 2) ^^^ 0xEDB88320 else c / 2)

def crc32 (bs : List Byte) : Nat := (bs.foldl (fun c b => crcBits 8 (c ^^^ b.toNat)) 0xFFFFFFFF) ^^^ 0xFFFFFFFF

def frSeq (f : BitVec 256) : Nat := (f.extractLsb' 16 16).toNat
def frFreq (f : BitVec 256) : Word := f.extractLsb' 32 32
def frVbus (f : BitVec 256) : Nat := (f.extractLsb' 64 16).toNat
def frHoldup (f : BitVec 256) : Bool := f.getLsbD 80
def frFvalid (f : BitVec 256) : Bool := f.getLsbD 81
def frLim (f : BitVec 256) : Nat := (f.extractLsb' 96 16).toNat

/-- A valid frame. -/
def frameValid (f : BitVec 256) : Bool :=
  f.extractLsb' 0 16 == 0xB31F && f.extractLsb' 82 14 == 0 && f.extractLsb' 112 112 == 0
  && (f.extractLsb' 224 32).toNat == crc32 (leBytes 28 f.toNat)

/-! ### The droop curve (R342) -/

def pointDf (w : Word) : Int := (w.extractLsb' 0 16).toInt
def pointLvl (w : Word) : Int := ((w.extractLsb' 16 9).toNat : Int)

/-- The points in ascending `DF`, with the lowest index only among equal ones. -/
def curvePoints (ws : List Word) : List (Int × Int) :=
  let pts := ws.foldl (fun acc w => if acc.any fun (p : Int × Int) => p.1 == pointDf w then acc else acc ++ [(pointDf w, pointLvl w)]) []
  sortKey (fun p => (p.1 + 2 ^ 15).toNat) pts

/-- The level between the points. -/
def levelBetween (df : Int) : List (Int × Int) → Int
  | [] => 256
  | [a] => a.2
  | a :: b :: r =>
    if df < b.1 then a.2 + (b.2 - a.2) * (df - a.1) / (b.1 - a.1) else levelBetween df (b :: r)

/-- The level of a frequency deviation. -/
def curveLevel (ws : List Word) (df : Int) : Nat :=
  match curvePoints ws with
  | [] => 256
  | a :: r => (if df ≤ a.1 then a.2 else levelBetween df (a :: r)).toNat

def Belfry.en (b : Belfry) : Bool := b.bctl.getLsbD 0
def Belfry.nominal (b : Belfry) : Int := if b.bctl.getLsbD 1 then 60000 else 50000
def Belfry.cken (b : Belfry) : Bool := b.bctl.getLsbD 2

/-! ### Sheds (R343, R345, R347) -/

/-- `SLc`. -/
def Belfry.shedLevel (b : Belfry) (c : Nat) : Nat := (b.bshedl.extractLsb' (9 * (c - 1)) 9).toNat

/-- Classes that an evaluation sheds by level or cap. -/
def State.toShed (s : State) (c : Nat) : Bool := decide (s.belfry.level < s.belfry.shedLevel c) || s.belfry.capunatt

/-- What a shed that takes effect does to the waves of the shed classes in a cluster: those that wait at a barrier park
there at once (R360). -/
def State.parkShed (s : State) (k : Nat) : State :=
  { s with groups := s.groups.map fun g => if g.cluster = k then s.park g else g }

/-- The bit of a class set in every cluster. -/
def State.setShed (s : State) (c : Nat) : State :=
  (List.range 8).foldl State.parkShed
    { s with clusters := s.clusters.map fun k => { k with shed := k.shed ||| BitVec.twoPow 7 (c - 1) } }

/-- A class is shed at once in every cluster; its restore stops and its count begins again. The class that is next in the
stagger then starts. -/
def State.shedClass (s : State) (c : Nat) : State :=
  let first := (s.belfry.restore.head?.map Prod.fst) == some c
  let rest := s.belfry.restore.filter fun x => x.1 != c
  { s.setShed c with
    belfry := { s.belfry with
      held := modAt (fun _ => 0) (c - 1) s.belfry.held
      restore := if first then modAt (fun x => (x.1, x.2.1, s.ns.toNat)) 0 rest else rest
      restoring := !rest.isEmpty } }

/-- A class that an unattainable target has shed stays shed until it is restored (R345). -/
def State.shedAll (s : State) : List Nat → State
  | [] => s
  | c :: cs =>
    (if s.toShed c then s.shedClass c
     else if s.belfry.powShed.getLsbD (c - 1) && !(s.belfry.restore.any fun x => x.1 == c) then s.setShed c else s).shedAll cs

/-! ### Targets and RATE (R345, R348, R349) -/

def Belfry.rhyst (b : Belfry) : Nat := (b.brest.extractLsb' 0 8).toNat
def Belfry.rhold (b : Belfry) : Nat := (b.brest.extractLsb' 8 8).toNat
def Belfry.rgap (b : Belfry) : Nat := (b.brest.extractLsb' 16 8).toNat
def Belfry.rstep (b : Belfry) : Nat := (b.brest.extractLsb' 24 8).toNat

/-- `FLOORRED` (R349). -/
def State.floorred (s : State) : BitVec 8 :=
  let fs := (floorsFrom s.belfry s.ptarget s.belfry.partOrder).1
  fs.foldl (fun m x => if x.2 < partFloor (s.belfry.part.getD x.1 0) then m ||| BitVec.twoPow 8 x.1 else m) 0

/-- The activity of both clusters of a die in the last 100 µs, at least 1, and the part of one of them: `Pc = Pd × num / den` (R345). -/
def State.shareDen (s : State) (d : Nat) : Nat :=
  let u := (s.cluster (2 * d)).um + (s.cluster (2 * d + 1)).um
  if u = 0 then 2 else u
def State.shareNum (s : State) (k : Nat) : Nat :=
  if (s.cluster (2 * (k / 2))).um + (s.cluster (2 * (k / 2) + 1)).um = 0 then 1 else (s.cluster k).um

/-- `e` of R345, with every share over one denominator. -/
def State.rateChange (s : State) (p : Nat) : Int :=
  let b := s.belfry
  let ks := b.clustersOf p
  let den := (s.shareDen 0) * (s.shareDen 1) * (s.shareDen 2) * (s.shareDen 3)
  let sumPc := (ks.map fun k => b.pd.getD (k / 2) 0 * s.shareNum k * (den / s.shareDen (k / 2))).sum
  let other : Int := ((b.pm : Int) - (b.pd.sum : Nat)) * ks.length / 8
  let dr := max 1 ((2600 - b.pidle) * ks.length / 8)
  1024 * (((s.ptgt p : Int) - other) * den - sumPc) / (dr * den)

/-- The 100 µs window that counts rises. -/
def State.riseWindow (s : State) : Nat := s.ns.toNat / 100000

/-- One cluster's `RATE` after a change. -/
def State.rateStep (s : State) (k : Nat) (e : Int) : State :=
  if (s.die (k / 2)).trip then s
  else
    s.modCluster k fun x =>
      let rises := if x.window = s.riseWindow then x.rises else 0
      let r : Nat := (min (max ((x.rate : Int) + min e ((s.belfry.rstep : Int) - rises)) 0) 1024).toNat
      { x with rate := r, window := s.riseWindow, rises := rises + (r - x.rate) }

def State.rateSteps (s : State) (e : Int) : List Nat → State
  | [] => s
  | k :: ks => (s.rateStep k e).rateSteps e ks

/-- The loop over the partitions that have clusters; every change is computed before one is made. -/
def State.rateLoop (s : State) : List (Nat × Int) → State
  | [] => s
  | (p, e) :: r => (s.rateSteps e (s.belfry.clustersOf p)).rateLoop r

/-- Power is over the target at `RATE` 0 (R345): Pm above 1.02 × Pt. -/
def State.overTarget (s : State) : Bool := decide (102 * s.ptarget < 100 * s.belfry.pm)

/-- The timers of R345: since when the target has been out of reach, and since when it has been met. -/
def State.unattWatch (s : State) : State :=
  let now := s.ns.toNat
  let hard := s.overTarget && s.clusters.all fun k => k.rate == 0
  s.modBelfry fun b =>
    { b with
      overSince := if hard then some (b.overSince.getD now) else none
      unattNext := if hard && b.overSince.isSome then b.unattNext else now + 1000000
      okSince := if s.overTarget then none else some (b.okSince.getD now) }

/-- One evaluation (R343, R345, R347, R348). -/
def State.evaluate (s : State) : State :=
  let s1 := s.modBelfry fun b =>
    { b with capunatt := decide (s.capRaw < b.pidle), floorred := s.floorred, capNow := s.cap
             targets := (List.range 8).map fun k => s.ptgt (b.partOf k) }
  let s2 := s1.shedAll [1, 2, 3, 4, 5, 6, 7]
  (s2.rateLoop (s2.belfry.partOrder.map fun p => (p, s2.rateChange p))).unattWatch

/-! ### Restore (R346) -/

/-- A class could be restored in this frame. -/
def State.restorable (s : State) (c : Nat) : Bool :=
  let b := s.belfry
  s.shedSome.getLsbD (c - 1) && decide (b.shedLevel c + b.rhyst ≤ b.level) && !b.capunatt && !b.unatt

/-- The frames in a row that each class could be restored in. -/
def State.countHeld (s : State) : State :=
  s.modBelfry fun b =>
    { b with held := (List.range 7).map fun i => if s.restorable (i + 1) then b.held.getD i 0 + 1 else 0 }

/-- A class put into the stagger: behind the one that is being restored, in ascending order. -/
def addRestore (xs : List (Nat × Nat × Nat)) (c now : Nat) : List (Nat × Nat × Nat) :=
  match xs with
  | [] => [(c, 0, now)]
  | x :: r => x :: insertKey Prod.fst (c, 0, 0) r

/-- Classes that have been restorable for `RHOLD` frames begin to be restored. -/
def State.beginRestore (s : State) : List Nat → State
  | [] => s
  | c :: cs =>
    (if s.belfry.rhold ≤ s.belfry.held.getD (c - 1) 0 ∧ !(s.belfry.restore.any fun x => x.1 == c) then
      s.modBelfry fun b =>
        { b with restore := addRestore b.restore c s.ns.toNat, restoring := true }
    else s).beginRestore cs

/-- Waves of a class parked in a cluster go on (R157, R346). -/
def State.unpark (s : State) (cls c : Nat) : State :=
  { s with
    groups := s.groups.map fun g =>
      if g.cluster = c ∧ g.prio = cls then
        { g with waves := g.waves.map fun w => match w.parked with
            | none => w
            | some t => { w with parked := none }.parkedFor (s.cyclesSince g.die t) }
      else g }

/-- RESTORE_STAGGER: the class clears its bit in the cluster that is next, once its time has come; after cluster 7 the next
class starts one gap later. -/
def State.stagger (s : State) (cls c : Nat) : State :=
  match s.belfry.restore with
  | [] => s
  | (k, i, due) :: r =>
    if k = cls ∧ i = c ∧ due ≤ s.ns.toNat then
      let next := due + 1000 * s.belfry.rgap
      let rest := if c < 7 then (k, i + 1, next) :: r else modAt (fun x => (x.1, x.2.1, next)) 0 r
      ((s.modCluster c fun x => { x with shed := x.shed &&& ~~~(BitVec.twoPow 7 (cls - 1)) }).unpark cls c).modBelfry fun b =>
        { b with restore := rest, restoring := !rest.isEmpty
                 powShed := if c < 7 then b.powShed else b.powShed &&& ~~~(BitVec.twoPow 7 (cls - 1))
                 held := if c < 7 then b.held else modAt (fun _ => 0) (cls - 1) b.held }
    else s

def execRestoreStagger (cls c : Nat) (s : State) : Out := .next (s.stagger cls c)

/-! ### Checkpoint (R351 to R353) -/

/-- A host link that is up. Even chunks of an image go over link 0 and odd ones over link 1, all of them over one link while
the other is down (R351); each byte has one place in host memory, over either (R385). -/
def State.linkUp (s : State) (l : Nat) : Bool := s.io.carries l

def State.ckBase (s : State) : Nat := 2 ^ 21 * (s.belfry.ckwin.extractLsb' 21 43).toNat

/-- The window of an image lies inside an outbound window of host link `l` (R352, R401). -/
def State.ckwinOn (s : State) (l : Nat) : Bool :=
  s.io.obw.any fun w =>
    let base := 2 ^ 21 * (w.extractLsb' 21 43).toNat
    w.getLsbD 0 && (w.getLsbD 1 == decide (l = 1)) && decide (base ≤ s.ckBase)
    && decide (s.ckBase + devBytes + 8 ≤ base + 2 ^ 21 * (w.extractLsb' 64 32).toNat)

/-- The window is set, and lies inside an outbound window of each link that is up, or of some link while none is (R352,
log 27). -/
def State.ckwinOk (s : State) : Bool :=
  s.belfry.ckwin.getLsbD 0 && ([0, 1].all fun l => !s.linkUp l || s.ckwinOn l) && [0, 1].any s.ckwinOn

/-- The host address of a byte of the image. -/
def State.imageAddr (s : State) (a : Nat) : Nat := s.ckBase + a

/-- Step 1 of a checkpoint: waves stop, every die goes to point 0 (R351). Without a valid window it fails at once. -/
def State.startCheckpoint (s : State) : State :=
  if s.belfry.ckpt = 1 ∨ s.belfry.halted then s
  else
    let s1 := s.performEvery
    let ok := s.ckwinOk
    { s1 with
      dies := s1.dies.map fun d => d.setFop s.ns.toNat 0
      belfry := { s1.belfry with halted := true, restoring2 := false, ckclk := s.ns, ckpt := if ok then 1 else 3
                                 bckgo := if ok then 1 else 0 } }

/-- The head of a matrix queue goes on only after the waves do: an `mma.sq` whose stream waits on a fault record or for a
commit, or behind a pop of a path that has stopped. -/
def State.matIdle (s : State) (w : Wave) (op : MatOp) : Bool :=
  match op.kind with
  | .mma (some k) =>
    let x := w.stream k.val
    !w.mayTake op k || (!rowsReady op.mg x && (s.waitsOn x.fault || op.quantum.isSome))
  | _ => false

/-- No engine has an operation that it could perform; those stay that wait on a fault record, for another request or for a
commit (R351). -/
def State.enginesIdle (s : State) : Bool :=
  s.groups.all fun g => g.waves.all fun w =>
    match s.launch? g.launch with
    | none => true
    | some l =>
      let e : Eng := ⟨g, w, l⟩
      w.gq.isEmpty
      && (match w.mq with | [] => true | op :: _ => s.matIdle w op)
      && (match w.cq with | [] => true | op :: _ => s.waitsOn op.fault || (op.kind.global && !e.due))
      && (match w.hq with | [] => true | r :: _ => s.waitsOn r.fault || !e.due || s.slotBusy e r || s.setWaits r)

/-- The image of device memory put into host memory: what stood in the window is overwritten. -/
def State.writeImage (s : State) : Memory :=
  let old := s.hostMem.filter fun x => decide (x.1 < s.imageAddr 0) || decide (s.imageAddr devBytes ≤ x.1)
  Memory.writeBytes (s.mem.foldl (fun m x => if x.1 < devBytes then Memory.write m (s.imageAddr x.1) x.2 else m) old)
    (s.imageAddr devBytes) (leBytes 8 s.belfry.ckclk.toNat)

/-- Waves go on, and what was held back is written. -/
def State.resume (s : State) : State :=
  ((List.range 4).foldl State.releaseHeld
    { s with
      belfry := { s.belfry with halted := false }
      dies := s.dies.map fun (d : Die) => { d with recs := d.recs.map fun (r : FaultRec) => { r with late := false } } }).settleAll

/-- CHECKPOINT_COPY_DONE: the image is whole, then the time of step 1, then `CKPT` is 2 and the waves resume. -/
def State.copyDone (s : State) : State :=
  if s.belfry.halted ∧ s.belfry.ckpt = 1 ∧ s.belfry.restoring2 = false ∧ s.enginesIdle = true
      ∧ (s.linkUp 0 || s.linkUp 1) = true then
    ({ s with hostMem := s.writeImage }.modBelfry fun b => { b with ckpt := 2, bckgo := 0 }).resume
  else s

def execCheckpointCopyDone (s : State) : Out := .next s.copyDone

/-- CHECKPOINT_FAIL_RESUME: after a failed checkpoint the waves resume when 1 ms has passed (R352). -/
def execCheckpointFailResume (s : State) : Out :=
  .next (if s.belfry.halted && s.belfry.ckpt == 3 && decide (1000000 ≤ s.ns.toNat - s.belfry.ckclk.toNat) then s.resume else s)

/-! ### Restore of an image (R354) -/

/-- The word behind the image. -/
def State.imageStamp (s : State) : Nat := s.hostMem.nat (s.imageAddr devBytes) 8

/-- A restore begins; without a window or a complete image it fails and writes nothing. -/
def State.startRestore (s : State) : State :=
  if s.belfry.ckpt = 1 ∨ s.belfry.halted then s
  else if s.ckwinOk = false ∨ s.imageStamp = 0 then s.modBelfry fun b => { b with ckpt := 3, bckgo := 0 }
  else s.modBelfry fun b => { b with ckpt := 1, bckgo := 2, restoring2 := true, halted := true }

/-- Device memory as the image holds it. -/
def State.readImage (s : State) : Memory :=
  s.hostMem.foldl (fun m x =>
    if s.imageAddr 0 ≤ x.1 ∧ x.1 < s.imageAddr devBytes then Memory.write m (x.1 - s.imageAddr 0) x.2 else m) []

/-- RESTORE_COPY_DONE. -/
def State.restoreDone (s : State) : State :=
  if s.belfry.ckpt = 1 ∧ s.belfry.restoring2 = true ∧ (s.linkUp 0 || s.linkUp 1) = true then
    ({ s with mem := s.readImage, memBad := [] }.modBelfry fun b => { b with ckpt := 2, bckgo := 0, restoring2 := false }).resume
  else s

def execRestoreCopyDone (s : State) : Out := .next s.restoreDone

/-- A write of `BCKGO` (R353): one to a bit starts a checkpoint or a restore, unless one runs. -/
def State.writeBckgo (s : State) (v : Word) : State :=
  if s.belfry.ckpt = 1 then s
  else if v.getLsbD 0 then s.startCheckpoint
  else if v.getLsbD 1 then s.startRestore
  else s

/-- BCKGO_GO. -/
def execBckgoGo (s : State) : Out := .next (s.writeBckgo 1)
/-- BCKGO_RESTORE. -/
def execBckgoRestore (s : State) : Out := .next (s.writeBckgo 2)

/-! ### Frames and periods (R341, R344, R345) -/

/-- The level that the curve gives for the last frequency that was valid, or the one that stands (R341, R342, R347). -/
def Belfry.curve (b : Belfry) : Nat :=
  if !b.en then 256
  else match b.okFreq with
    | none => b.level
    | some f => min 256 (curveLevel b.bcurve ((f.toNat : Int) - b.nominal))

/-- What a valid frame tells. -/
def Belfry.take (b : Belfry) (f : BitVec 256) (now : Nat) : Belfry :=
  let b1 := { b with
    lastFrame := some now, lost := false, freq := frFreq f, vbus := frVbus f, shelflim := frLim f
    holdup := frHoldup f, lowFrames := if frVbus f < 44000 then b.lowFrames + 1 else 0
    okFreq := if frFvalid f then some (frFreq f) else b.okFreq }
  { b1 with level := b1.curve }

/-- SHELF_FRAME: a valid frame is taken and evaluated; it may begin a restore, and a warning of holdup loss starts a
checkpoint (R341 to R346, R351). -/
def State.frame (s : State) (f : BitVec 256) : State :=
  if !frameValid f then s
  else
    let s1 := ((s.modBelfry fun b => b.take f s.ns.toNat).evaluate.countHeld).beginRestore [1, 2, 3, 4, 5, 6, 7]
    if s1.belfry.cken && (frHoldup f || decide (2 ≤ s1.belfry.lowFrames)) then s1.startCheckpoint else s1

def execShelfFrame (f : BitVec 256) (s : State) : Out := .next (s.frame f)

/-- FRAME_LOSS_TIMEOUT: no valid frame for 2 ms (R341). -/
def execFrameLossTimeout (s : State) : Out :=
  .next (if 2000000 ≤ s.ns.toNat - s.belfry.lastFrame.getD 0 then s.modBelfry fun b => { b with lost := true } else s)

/-- BELFRY_PERIOD: the measures of the last 100 µs, then an evaluation (R345, R347); while frames are lost, the level stays
(R341). The activity counts begin again. -/
def State.period (s : State) (pm : Nat) (pd : List Nat) : State :=
  let s1 := s.modBelfry fun b =>
    { b with pm, pd := (List.range 4).map fun d => pd.getD d 0, level := if b.en && b.lost then b.level else b.curve }
  { s1 with clusters := s1.clusters.map fun (k : Cluster) => { k with u := 0, um := k.u } }.evaluate

def execBelfryPeriod (pm : Nat) (pd : List Nat) (s : State) : Out := .next (s.period pm pd)

/-- The classes that an unattainable target has shed and that are being restored stay shed while `UNATT` is set again
(R345). -/
def State.keepShed (s : State) : List Nat → State
  | [] => s
  | c :: cs =>
    (if s.belfry.powShed.getLsbD (c - 1) && s.belfry.restore.any (fun x => x.1 == c) then s.shedClass c else s).keepShed cs

/-- UNATT_TIMER: a target out of reach for 1 ms sheds the highest class that is not shed, and one more for each further
1 ms; a target met for 1 ms clears `UNATT` (R345). -/
def State.unattTimer (s : State) : State :=
  let now := s.ns.toNat
  if s.belfry.overSince.isSome ∧ s.belfry.unattNext ≤ now then
    let s1 := (s.modBelfry fun b =>
      { b with unatt := true, unattNext := b.unattNext + 1000000, held := List.replicate 7 0 }).keepShed [1, 2, 3, 4, 5, 6, 7]
    match [7, 6, 5, 4, 3, 2, 1].find? fun c => !(s1.clusters.all fun k => k.shed.getLsbD (c - 1)) with
    | none => s1
    | some c => (s1.modBelfry fun b => { b with powShed := b.powShed ||| BitVec.twoPow 7 (c - 1) }).shedClass c
  else
    match s.belfry.okSince with
    | none => s
    | some t => if s.belfry.unatt ∧ 1000000 ≤ now - t then s.modBelfry fun b => { b with unatt := false } else s

def execUnattTimer (s : State) : Out := .next s.unattTimer

end Sys2Proof.Machine
end

