-- ==== Sys2Proof/Machine/Events.lean ====
section
/-! DEFINITION. Steps of the cores and the dies that no instruction word makes: held accesses, walks, fault records, waits,
storage errors and retired units (R156, R160, R170, R171, R213, R220, R242 to R250, R263, R294, R376). -/

namespace Sys2Proof.Machine

/-! ### Accesses performed apart from their words (R160, R220, log 7) -/

/-- A store of global memory, and not of scratchpad or a register. -/
def Target.global : Target → Bool
  | .phys _ => true
  | .sp _ _ => false
  | .reg _ _ _ _ _ => false

/-- Held store `k` of a wave of the group `g` leaves the list, unless an earlier one of its bytes is still held, or an earlier
sector where it is one (R226): it is
performed for every agent, or becomes visible at the level `reach` (R217, log 7). What the wave can read of its bytes
comes before it in coherence order (R222). -/
def State.completeHeld (s : State) (w : WaveRef) (k : Nat) (reach : Option Nat) (glob : Bool) : State :=
  match (s.group? w.group).bind fun g => (g.wave? w.wix).bind fun v => (v.held[k]?).map fun h => (g, v, h) with
  | none => s
  | some (g, v, h) =>
    if h.target.global != glob || (v.held.take k).any (fun x => x.meets h || (x.bytes.length == 32 && h.bytes.length == 32))
        || reach.any (fun n => decide (n < h.scope) || decide (h.target.top ≤ n)) then s
    else
      ((s.performNear fun (y : Near) => y.seenBy g w.wix && y.store.meets h).spread g w.wix (reach.getD h.target.top) h).modWave
        w.group w.wix fun x => { x with held := x.held.eraseIdx k }

/-- The `k`th store that only a scope instance sees performed for every agent, with the earlier ones of its bytes. -/
def State.completeNear (s : State) (k : Nat) (glob : Bool) : State :=
  match s.near[k]? with
  | none => s
  | some x => if x.store.target.global == glob then s.performNear fun y => y == x else s

/-- The path of a thread that may perform a load early: it holds a slot, waits for nothing, buffers nothing, and the thread
waits for no fault record (R381). -/
def State.loader (s : State) (w : WaveRef) (t : Nat) : Option Ctx :=
  ([false, true].filterMap fun b => s.ctxAt ⟨w.group, w.wix, b⟩).find? fun c =>
    c.path.mask.getLsbD t && c.path.wait == .none && !c.launch.repro && s.running c.group && !s.mustWait c t

/-- A load performed before its word issues (log 7). -/
def State.addEarly (s : State) (c : Ctx) (h : Held) : State :=
  s.modWave c.ref.group c.ref.wix fun w => { w with early := w.early ++ [h] }

/-- Load `k` of those of a wave that have issued and not read is performed, unless an earlier one of its thread is still to be. -/
def State.completeLoad (s : State) (w : WaveRef) (k : Nat) (glob : Bool) : State :=
  match (s.wave? w.group w.wix).bind fun v => (v.loads[k]?).map fun x => (v, x) with
  | none => s
  | some (v, x) =>
    if x.target.global != glob || (v.loads.take k).any fun y => y.thread == x.thread then s else s.performLoad w.group w.wix x

/-- A thread reads aligned bytes of global memory early; a read that would fault is not performed. -/
def State.earlyGlobal (s : State) (w : WaveRef) (t va n : Nat) : State :=
  match s.loader w t with
  | none => s
  | some c =>
    match s.reach c .load va n with
    | .error _ => s
    | .ok p => if va % n ≠ 0 ∨ s.physBad p n then s else s.addEarly c ⟨t, .phys p, s.view c t p n, 0⟩

/-- The same in scratchpad. -/
def State.earlyScratchpad (s : State) (w : WaveRef) (t ea n : Nat) : State :=
  match s.loader w t with
  | none => s
  | some c =>
    match s.spPlace c.group false ea n with
    | .error _ => s
    | .ok p =>
      match p with
      | .reg _ _ _ _ _ => s
      | .sp g off => if ea % n ≠ 0 ∨ s.spBad p n ∨ s.netFails c ea then s else s.addEarly c ⟨t, .sp g off, s.spView c t p n, 0⟩

/-- GLOBAL_ACCESS_COMPLETE. -/
def execGlobalAccessComplete (w : WaveRef) (a : LooseAccess) (s : State) : Out :=
  .next (match a with
    | .store k => s.completeHeld w k none true
    | .spread k reach => s.completeHeld w k (some reach) true
    | .near k => s.completeNear k true
    | .load t va n => if s.relaxed then s.earlyGlobal w t va.toNat (2 ^ n.val) else s
    | .late k => s.completeLoad w k true)

/-- SCRATCHPAD_ACCESS_COMPLETE. -/
def execScratchpadAccessComplete (w : WaveRef) (a : LooseAccess) (s : State) : Out :=
  .next (match a with
    | .store k => s.completeHeld w k none false
    | .spread k reach => s.completeHeld w k (some reach) false
    | .near k => s.completeNear k false
    | .load t ea n => if s.relaxed then s.earlyScratchpad w t ea.toNat (2 ^ n.val) else s
    | .late k => s.completeLoad w k false)

/-! ### Walks that keep what they read (R242, R245, R246, log 9) -/

/-- The entry of level `want` for an address, read from a table of a level at or above it; none where the walk stops before,
or where the entry cannot be kept. -/
def State.entryAt (s : State) (va want : Nat) : (fuel level table : Nat) → Option DWord
  | 0, _, _ => none
  | fuel + 1, level, table =>
    let e := BitVec.ofNat 64 (s.devNat (table + 8 * vaIndex level va) 8)
    if !pteV e then none
    else if level = want then some e
    else if pteMalformed level va e || pteLeaf e then none
    else s.entryAt va want fuel (level + 1) (pteAddr e)

/-- The entry of a level as a walk on a die reads it, from the deepest entry above that the die keeps, or from the root. -/
def State.walkEntry (s : State) (die ctx va want : Nat) : Option DWord :=
  match ({ s with kept := s.kept.filter fun k => decide (k.level < want) && !pteLeaf k.word && !pteMalformed k.level va k.word } : State).keptFor die ctx va with
  | some k => s.entryAt va want (4 - k.level) (k.level + 1) (pteAddr k.word)
  | none => s.entryAt va want 4 0 ((s.rootOf ctx).extractLsb' 0 52).toNat

/-- TRANSLATION_WALK: the die keeps the entry of one level that a walk has read; `block` makes one entry of a whole `BLK`
block (R245). An entry with `V` 0 is never kept; a malformed one can
be (R246). -/
def State.keep (s : State) (die ctx va level : Nat) (block : Bool) : State :=
  if va / 2 ^ 56 ≠ 0 ∨ (ctx = 0 ∧ s.io.fw = true) ∨ (s.rootOf ctx).getLsbD 63 = false then s
  else
    match s.walkEntry die ctx va level with
    | none => s
    | some e =>
      let span := if block && pteBlk e && !pteMalformed level va e then 28 else entrySpan level
      let k : Kept := ⟨die, ctx, level, va / 2 ^ span * 2 ^ span, span, e⟩
      { s with kept := k :: s.kept.filter fun x => !(x.die == die && x.ctx == ctx && x.level == level && x.lo == k.lo) }

def execTranslationWalk (die ctx : Nat) (va : DWord) (level : Nat) (block : Bool) (s : State) : Out :=
  .next (s.keep die ctx va.toNat level block)

/-! ### The fault record queue (R249, R250) -/

/-- The head that a die goes by after it has read one: whether it takes up a lower one is free (R249, log 92). -/
def Die.headRead (d : Die) (h : Nat) : Nat := if d.fqhead ≤ h || Config.takesLowered d.fqhead h then h else d.fqhead

/-- FQHEAD_POLL: not while a checkpoint keeps the trailer from being cleared. -/
def State.pollHead (s : State) (d : Nat) : State :=
  if (s.die d).fqSet && !(s.die d).zeroHeld.contains (s.die d).fqTrailer then
    (s.modDie d fun x => { x with fqhead := x.headRead (s.devNat ((s.die d).fqTrailer + 8) 8) }).flushRecords d
  else s

def execFqheadPoll (die : Nat) (s : State) : Out := .next (s.pollHead die)

/-- FAULT_STATUS_OBSERVED: what waits on the record can go on; changes that wait on it are made now, unless a checkpoint
holds them (R351). -/
def execFaultStatusObserved (die n : Nat) (s : State) : Out :=
  let t := s.observe die n
  .next (if t.belfry.halted then t else t.settleAll.reap)

/-! ### Waits (R134, R156, R170, R171) -/

/-- A path of a running group that is not at the mercy of a commit. -/
def State.waiting (s : State) (p : PathRef) : Option Ctx := (s.ctxAt p).filter fun c => s.running c.group

/-- WAIT_DEADLINE. -/
def execWaitDeadline (p : PathRef) (s : State) : Out :=
  .next (match s.waiting p with
    | none => s
    | some c => match c.path.wait with
      | .time k => if k ≤ s.ns.toNat ∧ c.launch.repro = false then s.complete c c.perf else s
      | _ => s)

/-- TWAIT_BOUND: 4,096 core cycles of the die have passed. -/
def execTwaitBound (p : PathRef) (s : State) : Out :=
  .next (match s.waiting p with
    | none => s
    | some c => match c.path.wait with
      | .twait d ts since =>
        if 4096 ≤ s.cyclesSince c.group.die since ∧ c.launch.repro = false then s.pollTwait c d ts since true else s
      | _ => s)

/-- WAITA_REREAD. -/
def execWaitaReread (p : PathRef) (s : State) : Out :=
  .next (match s.waiting p with
    | none => s
    | some c => match c.path.wait with
      | .waita d watch got sc r => if c.launch.repro then s else s.pollWaita c d watch got sc r
      | _ => s)

/-- The words whose single wait the limit bounds; a `twait` of a reproducible launch, which has no bound of its own, is a run
by itself (R156, R172). -/
def Wait.limited (repro : Bool) : Wait → Bool
  | .bar _ _ => true
  | .claim _ => true
  | .waita _ _ _ _ _ => true
  | .cseal => true
  | .cwait _ => true
  | .none => false
  | .join => false
  | .time _ => false
  | .twait _ _ _ => repro
  | .qfence _ => false
  | .stream _ _ => false
  | .records _ => false
  | .recordBusy => false

/-- WAIT_LIMIT_TIMEOUT. -/
def execWaitLimitTimeout (p : PathRef) (s : State) : Out :=
  .next (match s.waiting p with
    | none => s
    | some c => if c.path.wait.limited c.launch.repro && s.overLimit c c.path.since then s.timeout c c.path.since else s)

/-! ### Storage and units that fail (R213, R263, R294, R376) -/

/-- SOFT_ERROR: the path's control state is lost; the trap cannot be resumed. -/
def execSoftError (p : PathRef) (s : State) : Out :=
  .next (match (s.settleLoads p).ctxAt p with | none => s | some c => (s.settleLoads p).takeTrap c { cause := .soft })

/-- SCRUB: corrected errors are counted; a spare that takes over stands in the error log. -/
def execScrub (die corrected : Nat) (spare : Bool) (s : State) : Out :=
  let t := s.modDie die fun x => { x with corrected := x.corrected + corrected, spared := x.spared + spare.toNat }
  .next (if spare then
      t.logError die 5 false true 0 (Config.logDetail [s.tick, 5]) (BitVec.ofNat 64 (Config.logDetail [s.tick, 6]))
    else t)

/-- The entries of a cluster's table with a change of the one at `q`, and of the one that shares its quad. -/
def remapTo (lmap : List Word) (q pq : Nat) (guest : Bool) : List Word :=
  lmap.mapIdx fun i e =>
    if i = q then BitVec.ofNat 32 (pq + 32 * guest.toNat + 64 * (e.getLsbD 6).toNat)
    else if guest && (e.extractLsb' 0 5).toNat == pq then e ||| 32
    else e

/-- A physical quad of a cluster in service that no entry names. -/
def Cluster.unusedQuad (k : Cluster) : Option Nat :=
  (List.range 17).find? fun p => k.qhealth.getLsbD p && !(k.lmap.any fun e => (e.extractLsb' 0 5).toNat == p)

/-- A quad in service that one entry only names. -/
def Cluster.sharedQuad (k : Cluster) : Option Nat :=
  (List.range 17).find? fun p => k.qhealth.getLsbD p && decide ((k.lmap.filter fun e => (e.extractLsb' 0 5).toNat == p).length = 1)

/-- Firmware points a logical quad elsewhere (R213, R214). -/
def Cluster.remap (k : Cluster) (q : Nat) : Cluster :=
  match k.unusedQuad with
  | some p => { k with lmap := remapTo k.lmap q p false }
  | none =>
    match k.sharedQuad with
    | some p => { k with lmap := remapTo k.lmap q p true }
    | none => k

/-- QUAD_RETIRE: the quad is out of service, and when its resident groups have ended firmware remaps what it carried. -/
def State.retireQuad (s : State) (c pq : Nat) : State :=
  let s1 := s.modCluster c fun k => { k with qhealth := k.qhealth &&& ~~~(BitVec.twoPow 17 pq) }
  if s.groups.any fun g => g.cluster == c && g.coreNo / 4 == pq then s1
  else
    s1.modCluster c fun k =>
      ((List.range 16).filter fun q => ((k.lmap.getD q 0).extractLsb' 0 5).toNat == pq).foldl Cluster.remap k

def execQuadRetire (c pq : Nat) (s : State) : Out := .next (s.retireQuad c pq)

/-- ENGINE_RETIRE: the unit is retired; its work moves to the others of its die or cluster, which changes timing only. -/
def execEngineRetire (u : EngineUnit) (s : State) : Out :=
  .next (s.modIo fun x => { x with retired := if x.retired.contains u then x.retired else x.retired ++ [u] })

end Sys2Proof.Machine
end

