-- ==== Sys2Proof/Machine/System.lean ====
section
/-! DEFINITION. Prefix words, the control registers of the trap record, and the invalidation of kept translations
(R31 to R35, R129, R362, R366, R370, R371). -/

namespace Sys2Proof.Machine

/-! ### Prefixes (R31 to R35) -/

/-- ILLEGAL with a sub-cause of the present word; sub-cause 3 of an earlier word of the sequence comes before a higher one.
The record holds the offending word (R39). -/
def Ctx.illegalTrap (c : Ctx) (sub : Nat) : Trap :=
  match c.path.seq.bad with
  | some b => if sub < 3 then { cause := .illegal, sub := sub, addr := c.path.seq.word.setWidth 64 }
      else { cause := .illegal, sub := 3, addr := b.setWidth 64 }
  | none => { cause := .illegal, sub := sub, addr := c.path.seq.word.setWidth 64 }

/-- The trap of a sequence whose prefixes break R34. -/
def Ctx.prefixTrap (c : Ctx) : Trap := c.illegalTrap 7

/-- The next word of the sequence issues, with this word's effect on it. -/
def State.prefixed (s : State) (c : Ctx) (f : Seq → Seq) : State :=
  s.modPath c.ref fun p => { p with pc := p.pc + 4, seq := f p.seq }

/-- `grd` (R33, R34): a second GRD, one behind an XIM, and one in the last word of a fetch block are ILLEGAL
at once (log 34). -/
def execGrd (e : Bool) (p : Fin 8) (s : State) : Out :=
  issue s fun c =>
    if c.path.seq.guard.isSome ∨ c.path.seq.chain ≠ 0 ∨ c.path.pc.toNat % 64 = 60 then s.takeTrap c c.prefixTrap
    else s.prefixed c fun q => { q with guard := some (e, p) }

/-- `xim` (R32, R34): the chain's value grows by 25 bits; a fourth word, and one in the last word of a fetch block, are
ILLEGAL at once (log 34). -/
def execXim (i : BitVec 25) (s : State) : Out :=
  issue s fun c =>
    if 3 ≤ c.path.seq.chain ∨ c.path.pc.toNat % 64 = 60 then s.takeTrap c c.prefixTrap
    else s.prefixed c fun q => { q with chain := q.chain + 1, imm := q.imm * 2 ^ 25 + i.toNat }

/-! ### Control registers (R129, R366, R370) -/

/-- `TCAUSE`. -/
def TrapRec.tcause (r : TrapRec) : Word :=
  BitVec.ofNat 32 (r.cause % 256 + 2 ^ 8 * (r.sub % 256) + 2 ^ 16 * r.resume.toNat + 2 ^ 17 * r.exhaust.toNat
    + 2 ^ 18 * r.winErr.toNat + 2 ^ 19 * r.give.toNat + 2 ^ 20 * (r.len % 8) + 2 ^ 23 * r.part.toNat)

/-- `TTHR`: the selected thread's own cause, and the record it waits on. -/
def State.tthr (s : State) (r : TrapRec) : Word :=
  let own := ((r.own.find? fun x => x.1 == r.thr).map Prod.snd).getD 0
  match r.refs.find? fun x => x.1 == r.thr with
  | none => BitVec.ofNat 32 (own % 256)
  | some x => BitVec.ofNat 32 (own % 256 + 2 ^ 8 + 2 ^ 16 * s.recIndex x.2)

/-- The value of a control register of the issuing wave's trap record. -/
def State.csrValue (s : State) (c : Ctx) (n : Csr) : DWord :=
  let r := c.wave.trap
  match n with
  | .tcause => r.tcause.setWidth 64
  | .tmask => r.mask.setWidth 64
  | .tkill => r.kill.setWidth 64
  | .tpc => r.pc
  | .taddr => r.addr
  | .tword => r.word.setWidth 64
  | .tthr => (s.tthr r).setWidth 64
  | .wseg => BitVec.ofNat 64 ((c.wave.sb.get r.thr).toNat % 2 ^ 16 + 2 ^ 16 * r.thr)
  | .twb => BitVec.ofNat 64 ((c.wave.wb.get r.thr).toNat % 2 ^ 16)
  | .tlevel => BitVec.ofNat 64 r.level
  | .trstk => c.group.rstack c.launch c.wave r.thr

/-- The RES field of a control register (R366); a write must hold 0 there. -/
def csrRes (n : Csr) (v : DWord) : Bool :=
  match n with
  | .tcause => v.extractLsb' 24 8 != 0
  | .wseg => v.extractLsb' 21 11 != 0
  | .tlevel => v.extractLsb' 2 30 != 0
  | .twb => v.extractLsb' 16 16 != 0
  | .tthr => v.extractLsb' 9 7 != 0
  | .tmask => false
  | .tkill => false
  | .tpc => false
  | .taddr => false
  | .tword => false
  | .trstk => false

/-- Thread `t`'s segment base moved (R129): logical registers in the old and the new segment keep their values, the others
are discarded, and those that enter read 0. -/
def Wave.moveSegment (w : Wave) (t sb : Nat) : Wave :=
  let old := (w.sb.get t).toNat
  let from_ (n : Nat) : Option Nat := if old ≤ n + sb ∧ n + sb - old < w.seg then some (n + sb - old) else none
  { w with
    sb := w.sb.set t (BitVec.ofNat 32 sb)
    w := (List.range w.seg).foldl (fun m n => m.set (2048 * t + n) (((from_ n).map fun k => w.w.get (2048 * t + k)).getD 0)) w.w
    bad := w.bad.filterMap fun u =>
      if u.1 = 0 ∧ u.2.2 = t then
        (if sb ≤ u.2.1 + old ∧ u.2.1 + old - sb < w.seg then some (0, u.2.1 + old - sb, t) else none)
      else some u }

/-- A write of `WSEG` (R129): another thread selected, the segment of the present one moved, or a value that is ignored
with the window-error bit set. -/
def Wave.writeWseg (w : Wave) (d : Nat) (v : DWord) : Wave :=
  let thr := (v.extractLsb' 16 5).toNat
  let sb := (v.extractLsb' 0 16).toNat
  if thr ≠ w.trap.thr then { w with trap := { w.trap with thr := thr } }
  else if sb % 32 = 0 ∧ sb + w.seg ≤ d then w.moveSegment thr sb
  else { w with trap := { w.trap with winErr := true } }

/-- The RW fields of a control register written (R366, R370). -/
def Wave.writeCsr (w : Wave) (d : Nat) (n : Csr) (v : DWord) : Wave :=
  match n with
  | .tcause => { w with trap := { w.trap with winErr := v.getLsbD 18 } }
  | .tmask => { w with trap := { w.trap with mask := w.trap.mask &&& v.setWidth 32 } }
  | .tkill => { w with trap := { w.trap with kill := v.setWidth 32 } }
  | .tpc => { w with trap := { w.trap with pc := v } }
  | .wseg => w.writeWseg d v
  | .taddr => w
  | .tword => w
  | .tthr => w
  | .twb => w
  | .tlevel => w
  | .trstk => w

/-- A scalar-class word of P1 (R362, R370): PRIV at P0, then the guard, then the operands. -/
def scalP1 (s : State) (xs : List (SOp × Bool)) (k : Ctx → State) : Out :=
  atP1 s fun c => s.unless c c.guardTrap
    (if c.performs then s.unless c (c.sTrap xs) (k c) else s.complete c [])

/-- `csrr` (R370): 64 bits for a 64-bit register, else 32 that go zero-extended into the latches. -/
def execCsrr (d : SDst) (n : Csr) (s : State) : Out :=
  scalP1 s [] fun c =>
    if n.wide then s.scalResult64 c d (s.csrValue c n) else s.scalResult c d ((s.csrValue c n).setWidth 32)

/-- `csrw` (R370): a nonzero RES field is ILLEGAL, sub-cause 9. -/
def execCsrw (n : Csr) (a : SOp) (s : State) : Out :=
  scalP1 s [(a, n.wide)] fun c =>
    let v := if n.wide then c.s64 a else (c.s32 a).setWidth 64
    if csrRes n v then s.takeTrap c { cause := .illegal, sub := 9, addr := c.path.seq.word.setWidth 64 }
    else (s.modWave c.ref.group c.ref.wix fun w => w.writeCsr c.launch.d n v).complete c c.perf

/-! ### Invalidation (R246, R371) -/

/-- Entries kept for an address of a context removed from every die. -/
def State.forget (s : State) (ctx va : Nat) : State :=
  { s with kept := s.kept.filter fun k => !(k.ctx == ctx && decide (k.lo ≤ va) && decide (va < k.lo + 2 ^ k.span)) }

/-- Some wave's commit buffer holds accesses of the context, or of any, that have been translated and not performed. -/
def State.buffers (s : State) (ctx : Option Nat) : Bool :=
  s.groups.any fun g => (s.launch? g.launch).any (fun l => ctx.all fun c => l.ctx == c) && g.waves.any fun w => !w.cbuf.isEmpty

/-- `tlbinv` (R370, R371): a context that is not the launch's is PRIV. Every access that a wave holds back is performed with
the entry that it used; where commits have still to perform some, the word issues again (log 85). -/
def execTlbinv (a b : SOp) (s : State) : Out :=
  scalP1 s [(a, false), (b, true)] fun c =>
    let ctx := ((c.s32 a).extractLsb' 0 8).toNat
    if ctx ≠ c.launch.ctx then s.takeTrap c { cause := .priv, addr := c.path.seq.word.setWidth 64 }
    else if s.buffers (some ctx) then if c.launch.repro then s.endQuantum c else s.retry c
    else (s.performEvery.forget ctx (c.s64 b).toNat).complete c c.perf

/-- `tlbinv.all` as firmware performs it at P2 (R362, R371): every entry of a context, or of all of them, is removed from every
die, and the accesses that used one are performed first. It completes once no commit buffer holds one; before that, this turn
is none. -/
def State.invalidate (s : State) (ctx : Option Nat) : State :=
  let s1 := s.performEvery
  if s.buffers ctx then s else { s1 with kept := s1.kept.filter fun k => !(ctx.all fun c => c == k.ctx) }

/-- `tlbinv.all` (R370, R371) belongs to P2; no wave runs there (R362). -/
def execTlbinvAll (_ : SOp) (s : State) : Out :=
  issue s fun c => s.takeTrap c { cause := .priv, addr := c.path.seq.word.setWidth 64 }

end Sys2Proof.Machine
end

