-- ==== Sys2Proof/Machine/Dump.lean ====
section
/-! DEFINITION. The core dump (R364, R372 to R375). -/

namespace Sys2Proof.Machine

/-! ### What a dump holds (R374) -/

/-- A section: type, index, contents, and whether state was lost. -/
structure Section where
  kind   : Nat
  index  : Nat
  bytes  : List Byte
  poison : Bool
deriving DecidableEq, Repr

/-- A section as it stands in the dump area. -/
def Section.all (x : Section) : List Byte :=
  leBytes 4 (x.kind + 2 ^ 8 * (x.index % 2 ^ 16)) ++ leBytes 4 x.bytes.length ++ leBytes 8 x.poison.toNat ++ x.bytes

/-- Uniform registers that an uncorrectable error has hit read 0. -/
def Path.cleared (p : Path) : Path :=
  { p with s := ((List.range 64).filter p.badS.getLsbD).foldl (fun m k => m.set k 0) p.s }

/-- Registers that an uncorrectable error has hit read 0 in a dump (R375). -/
def Wave.cleared (w : Wave) : Wave :=
  let v := w.bad.foldl (fun v u =>
    if u.1 = 0 then { v with w := v.w.set (2048 * u.2.2 + u.2.1) 0 }
    else if u.1 = 1 then { v with o := v.o.set (8 * u.2.2 + u.2.1) 0 }
    else v) w
  { v with path0 := v.path0.map Path.cleared, path1 := v.path1.map Path.cleared }

/-- A register that a dump holds has been lost. -/
def Wave.poisoned (w : Wave) : Bool :=
  (w.bad.any fun u => u.1 != 3) || w.path0.any (fun p => p.badS != 0) || w.path1.any (fun p => p.badS != 0)

/-- The record of a trapped wave and its threads' causes. -/
def State.trapItems (s : State) (w : Wave) : List Nat :=
  let r := w.trap
  if w.owner.isSome then
    [r.tcause.toNat, r.mask.toNat, r.pc.toNat, r.addr.toNat, r.word.toNat]
      ++ (List.range 32).map fun t => (s.tthr { r with thr := t }).toNat
  else []

/-- The operations of a wave that the drain abandoned. -/
def lostOf (lost : List (List Nat)) (w : Wave) : List (List Nat) := lost.filter fun x => x.head? == some w.wix

/-- Type 1: a trapped wave's record, and a wave's operations that the drain abandoned; a wave that has neither has no
section (log 17). -/
def State.trapSections (s : State) (g : Group) (lost : List (List Nat)) : List Section :=
  (g.waves.filter fun w => w.owner.isSome || !(lostOf lost w).isEmpty).map fun w =>
    ⟨1, w.wix, Config.dumpSection 1 (s.trapItems w ++ (lostOf lost w).flatten), false⟩

/-- What a dump tells of a path slot. -/
def pathItems : Option Path → List Nat
  | none => [0]
  | some p => [1, p.pc.toNat, p.mask.toNat, (match p.split with | none => 0 | some (n, b) => 1 + 2 * b.toNat + 4 * n), p.priv.toNat]

def pathRegs : Option Path → List Nat
  | none => []
  | some p => ((List.range 64).map fun k => (p.s.get k).toNat) ++ p.fmt.map BitVec.toNat

/-- Type 2: the registers of a wave. -/
def regSection (w0 : Wave) : Section :=
  let w := w0.cleared
  let ts := List.range w.threads
  ⟨2, w.wix, Config.dumpSection 2
    (pathItems w.path0 ++ pathItems w.path1 ++ [w.ucf.toNat, w.depth, w.splitNo, w.mcfg.1, w.mcfg.2.1, w.mcfg.2.2, w.seg]
      ++ (ts.flatMap fun t => [(w.wb.get t).toNat, (w.sb.get t).toNat])
      ++ (ts.flatMap fun t => (List.range w.seg).map fun n => (w.w.get (2048 * t + n)).toNat)
      ++ (ts.flatMap fun t => (List.range 8).map fun k => (w.o.get (8 * t + k)).toNat)
      ++ ((List.range 8).map fun k => (w.p.get k).toNat) ++ pathRegs w.path0 ++ pathRegs w.path1),
    w0.poisoned⟩

/-- Type 3: the scratchpad, byte for byte; lost units are written as 0. -/
def spSection (g : Group) : Section :=
  let bad := g.spBad.filter fun u => decide (4 * u < g.spsize)
  ⟨3, g.bandix, (g.sp.bytes 0 g.spsize).mapIdx fun i b => if bad.contains (i / 4) then 0 else b, !bad.isEmpty⟩

/-- Type 4: count, arrivals and phase of every barrier. -/
def barSection (g : Group) : Section :=
  ⟨4, g.bandix, Config.dumpSection 4 ((List.range 10).flatMap fun b =>
    [(g.counted b).length, ((g.counted b).filter fun w => w.arrived b (g.phase b)).length, g.phase b]), false⟩

/-- The sections of a group's dump, in order. -/
def State.dumpSections (s : State) (g : Group) (lost : List (List Nat)) : List Section :=
  s.trapSections g lost ++ g.waves.map regSection ++ [spSection g, barSection g]

/-! ### Writing (R374, R375) -/

/-- Sections written from an address while they fit: what follows, the sections written, whether all of them were, and
whether state was lost. -/
def State.writeSections (s : State) (at_ limit : Nat) : List Section → State × Nat × Bool × Bool
  | [] => (s, 0, false, false)
  | x :: xs =>
    let bs := x.all
    if limit < at_ + bs.length then (s, 0, true, false)
    else
      let (t, n, trunc, poison) := (s.physWrite ⟨.dev, at_⟩ bs).writeSections (at_ + bs.length) limit xs
      (t, n + 1, trunc, x.poison || poison)

/-- The header. -/
def dumpHeader (d : DumpReq) (second trunc poison : Bool) (n : Nat) (l : Launch) (g : Group) : List Byte :=
  leBytes 2 0xD0C5 ++ leBytes 1 d.cause ++ leBytes 1 (second.toNat + 2 * trunc.toNat + 4 * poison.toNat) ++ leBytes 4 n
  ++ leBytes 8 (d.halt.getD 0).toNat ++ leBytes 8 l.recVa.toNat ++ leBytes 4 g.gord ++ leBytes 2 g.core ++ leBytes 34 0

/-- Errors that the engines of a group's waves hold. -/
def Group.errCount (g : Group) : Nat :=
  (g.waves.map fun w => w.copyErr.length + (match w.hErr with | none => 0 | some e => 1 + e.later)
    + (match w.gErr with | none => 0 | some e => 1 + e.later)).sum

/-- Waves that stand in their trap entry, beyond the one whose trap is the dump's cause (R375). -/
def Group.furtherTraps (g : Group) (l : Launch) (cause : Nat) : Bool :=
  let inEntry := g.waves.filter fun w => match w.owner with
    | none => false
    | some b => ((w.path? b).map fun p => !p.priv).getD false
  decide ((if cause ≠ 0 ∧ l.handler = 0 then 1 else 0) < inEntry.length)

/-- The dump written, the header last. -/
def State.writeDump (s : State) (d : DumpReq) (l : Launch) (g : Group) : State :=
  let base := 64 * (s.io.dumpctl.extractLsb' 6 46).toNat
  let limit := base + 2 ^ 20 * (s.io.dumpctl.extractLsb' 52 12).toNat
  if !s.dumpFits then s.logError g.die 12 false false g.core (Config.logDetail [g.lastSlot]) 0
  else if limit < base + 64 then s
  else
    let (t, n, trunc, poison) := s.writeSections (base + 64) limit (s.dumpSections g d.lost)
    let second := d.second || g.furtherTraps l d.cause || decide (d.errs < g.errCount)
    t.physWrite ⟨.dev, base⟩ (dumpHeader d second trunc poison n l g)

/-! ### The steps of a dump (R374) -/

/-- An operation waits on a record whose `STATUS` is 0. -/
def State.stuckOn (s : State) (f : Option FaultRef) : Bool :=
  match f with
  | none => false
  | some r => s.statusOf r == 0

/-- What a wave's engines wait for is abandoned: the operations given up, as a dump records them. -/
def State.giveUp (s : State) (e : Eng) : State × List (List Nat) :=
  let cq := match e.wave.cq with
    | op :: _ => if s.stuckOn op.fault then [e.lostCopy op] else []
    | [] => []
  let hq := match e.wave.hq with
    | r :: _ => if s.stuckOn r.fault then [e.lostReq r] else []
    | [] => []
  let ss := ((List.range 4).filter fun k => s.stuckOn (e.wave.stream k).fault).map fun k =>
    [e.wave.wix, 2, (e.wave.stream k).thread, (((e.wave.stream k).fault.bind s.record?).map fun r => r.va.toNat).getD 0, k,
      (e.wave.stream k).item]
  let t := s.modEng e fun w =>
    { w with cq := if cq.isEmpty then w.cq else w.cq.tail
             hq := if hq.isEmpty then w.hq else w.hq.tail
             streams := w.streams.map fun x => if s.stuckOn x.fault then { x with fault := none, ended := true } else x }
  let u := match hq, e.wave.hq with
    | _ :: _, r :: _ => r.slots.foldl (fun (t : State) k => t.modSlot k fun x =>
        if x.binding == some e.ref then { x with binding := none } else x) t
    | _, _ => t
  (u, cq ++ hq ++ ss)

/-- The waiting operations of every wave of a group abandoned. -/
def State.giveUpAll (s : State) (gid : Nat) : List Nat → State × List (List Nat)
  | [] => (s, [])
  | wix :: r =>
    match s.eng ⟨gid, wix⟩ with
    | none => s.giveUpAll gid r
    | some e =>
      let (t, xs) := s.giveUp e
      let (u, ys) := t.giveUpAll gid r
      (u, xs ++ ys)

/-- Every engine operation of a group has been performed or given up. -/
def Group.drained (g : Group) : Bool := g.waves.all fun w => w.mq.isEmpty && w.cq.isEmpty && w.hq.isEmpty && w.gq.isEmpty

/-- The head request of a die changed or taken off. -/
def State.modDump (s : State) (d : Nat) (f : DumpReq → DumpReq) : State :=
  s.modDie d fun x => { x with dumps := modAt f 0 x.dumps }
def State.popDump (s : State) (d : Nat) : State := s.modDie d fun x => { x with dumps := x.dumps.tail }

/-- Groups of the same band, and the group itself. -/
def Group.mates (g x : Group) : Bool := x.id == g.id || (g.band.isSome && x.band == g.band)

/-- Step 1: every wave of the group and of its band stops; what waits on an open record is given up. -/
def State.haltFor (s : State) (d : Nat) (g : Group) : State :=
  let s1 := g.waves.foldl (fun (t : State) w => (t.performLoads g.id w.wix fun _ => true).drain g.id w.wix) s
  let s2 := { s1 with groups := s1.groups.map fun x => if g.mates x then { x with halted := true } else x }
  let (s3, lost) := s2.giveUpAll g.id (g.waves.map fun w => w.wix)
  s3.modDump d fun r => { r with halt := some s.ns, lost := lost, errs := ((s3.group? g.id).map Group.errCount).getD 0 }

/-- Step 4: the band goes on, and the group ends as after a fatal trap (R364). -/
def State.endDump (s : State) (d : Nat) (g : Group) : State :=
  (({ s with groups := s.groups.map fun (x : Group) => if x.id != g.id && g.mates x then { x with halted := x.fatal } else x }).popDump
    d).fatalEnd g.id

/-- One part of the dump that a die takes. -/
def State.dumpStep (s : State) (d : Nat) : State :=
  match (s.die d).dumps with
  | [] => s
  | r :: _ =>
    match s.group? r.group with
    | none => s.popDump d
    | some g =>
      match s.launch? g.launch with
      | none => s.popDump d
      | some l =>
        if g.ended then s.popDump d
        else if r.halt.isNone then s.haltFor d g
        else
          let (t, lost) := s.giveUpAll g.id (g.waves.map fun w => w.wix)
          if !lost.isEmpty then t.modDump d fun x => { x with lost := x.lost ++ lost, second := true }
          else if g.drained then (s.writeDump r l g).endDump d g
          else s

/-- CORE_DUMP: the die goes on with its dump; a checkpoint holds it, since no group ends then (R351). -/
def execCoreDump (die : Nat) (s : State) : Out := .next (if s.belfry.halted then s else s.dumpStep die)

/-- A write of `DUMPGO` with `GO` set: a dump of the group that holds the wave slot (R372, R373, R375). -/
def State.dumpGo (s : State) (v : Word) : State :=
  let core := (v.extractLsb' 0 10).toNat
  let wslot := (v.extractLsb' 16 6).toNat
  if !v.getLsbD 31 then s
  else
    match s.groups.find? fun g => g.core == core && g.waves.any fun w => w.wslot == wslot with
    | none => s.modIo fun x => { x with mlog := x.mlog ++ [.noWave core wslot] }
    | some g =>
      if s.dumpFits && s.dumpRoom g.die g.id then s.requestDump g.die g.id 0
      else s.logError g.die 12 false false g.core (Config.logDetail [wslot]) 0

end Sys2Proof.Machine
end

