-- ==== Sys2Proof/Machine/Mgmt.lean ====
section
/-! DEFINITION. The management registers by number: reading and writing them whole (R205, R209, R212, R247, R249, R318, R336,
R342 to R353, R372, R377, R388, R392, R394, R398, R401). -/

namespace Sys2Proof.Machine

/-- A register number lies among `k` numbers from `lo`. -/
def among (n lo k : Nat) : Bool := decide (lo ≤ n) && decide (n < lo + k)

/-- `n` bits of a value from bit `lo`. -/
def bits (v : BitVec 512) (lo n : Nat) : Nat := (v.extractLsb' lo n).toNat

/-- A field written as 1 when 0 is written. -/
def atLeast1 (n : Nat) : Nat := max 1 n

/-! ### Reading (R387, R388) -/

/-- The clamp block as a word (R401). -/
def Io.clamp (x : Io) : DWord :=
  BitVec.ofNat 64 (x.pkglim % 2 ^ 16 + 2 ^ 16 * (x.slewlim % 2 ^ 7) + 2 ^ 24 * (x.ttrip % 2 ^ 7) + 2 ^ 32 * x.spmask.toNat)

/-- Registers of clusters. -/
def State.readCluster (s : State) (n : Nat) : Option Nat :=
  if among n 0x10 8 then some (s.cluster (n - 0x10)).callow.toNat
  else if among n 0x20 8 then some (s.cluster (n - 0x20)).cslew.toNat
  else if among n 0x30 8 then some (s.cluster (n - 0x30)).qhealth.toNat
  else if among n 0x100 128 then some ((s.cluster ((n - 0x100) / 16)).lmap.getD (n % 16) 0).toNat
  else none

/-- Registers of dies. -/
def State.readDie (s : State) (n : Nat) : Option Nat :=
  let d := s.die (n % 4)
  if among n 0x300 4 then some d.fqbase.toNat
  else if among n 0x304 4 then some d.fqlog.toNat
  else if among n 0x308 4 then some d.elbase.toNat
  else if among n 0x30C 4 then some d.ellog.toNat
  else if among n 0x400 4 then some d.lctl.toNat
  else if among n 0x404 4 then some d.lstat.toNat
  else if among n 0x408 4 then some d.lage.toNat
  else none

/-- Registers of the Belfry. -/
def State.readBelfry (s : State) (n : Nat) : Option Nat :=
  let b := s.belfry
  if n = 0x500 then some b.bctl.toNat
  else if among n 0x508 8 then some (b.bcurve.getD (n - 0x508) 0).toNat
  else if n = 0x510 then some b.bshedl.toNat
  else if n = 0x511 then some b.brest.toNat
  else if n = 0x512 then some b.bcap.toNat
  else if n = 0x513 then some b.pidle
  else if among n 0x518 8 then some (b.part.getD (n - 0x518) 0).toNat
  else if n = 0x520 then some s.bstat.toNat
  else if n = 0x521 then some b.ckwin.toNat
  else if n = 0x522 then some b.bckgo.toNat
  else none

/-- Registers of the I/O die, and the translation roots. `DUMPGO` reads 0 (R373). -/
def State.readIo (s : State) (n : Nat) : Option Nat :=
  let x := s.io
  if among n 0x200 256 then some (s.xroot.get (n - 0x200)).toNat
  else if among n 0x600 8 then some (x.ageus.getD (n - 0x600) 0).toNat
  else if n = 0x700 then some x.dumpctl.toNat
  else if n = 0x701 then some 0
  else if among n 0x800 8 then some (x.spwin.getD (n - 0x800) 0).toNat
  else if n = 0x810 then some x.sretry.toNat
  else if n = 0x811 then some x.badrec.toNat
  else if n = 0x812 then some x.jladdr.toNat
  else if n = 0x900 then some x.clamp.toNat
  else if among n 0x908 8 then some (x.obw.getD (n - 0x908) 0).toNat
  else if among n 0x1000 1024 then
    some (((x.arrivals.find? fun e => e.1 == n - 0x1000).map Prod.snd).getD 0).toNat
  else none

/-- The value of a management register; none for a number that names none. -/
def State.mgmtRead (s : State) (n : Nat) : Option Nat := s.readCluster n <|> s.readDie n <|> s.readBelfry n <|> s.readIo n

/-- The width of a register in 64-bit words. -/
def mgmtWords (n : Nat) : Nat := if among n 0x800 8 || among n 0x908 8 then 2 else if among n 0x1000 1024 then 8 else 1

/-! ### Writing (R388) -/

/-- How a write ends: refused whole, forbidden (an RO register, or a change that the clamp block does not allow), or done. -/
inductive MgmtEnd where
  | refused
  | forbidden (clamp : Bool)
  | done (s : State)
deriving DecidableEq, Repr

/-- A write that is refused unless a check holds. -/
def mgmtIf (ok : Bool) (s : State) : MgmtEnd := if ok then .done s else .refused

/-- `CALLOW` (R205): a class whose bit is cleared goes on in that cluster; waves of a class whose bit is set park where they
wait (R360). `RATE` stays 0 while the die's thermal trip holds (R338). -/
def State.writeCallow (s : State) (c : Nat) (v : BitVec 512) : State :=
  let shed := BitVec.ofNat 7 (bits v 25 7)
  let t := s.modCluster c fun k => { k with rate := if (s.die (c / 2)).trip then 0 else min 1024 (bits v 0 11), step := atLeast1 (bits v 16 8), shed }
  ((List.range 7).filter fun i => (s.cluster c).shed.getLsbD i && !shed.getLsbD i).foldl (fun (t : State) i => t.unpark (i + 1) c)
    (t.parkShed c)

/-- `CSLEW` (R209): `UP` and `DOWN` stay below the slew limit of the clamp block. -/
def State.writeCslew (s : State) (c : Nat) (v : BitVec 512) : State :=
  s.modCluster c fun k =>
    { k with up := min (atLeast1 (bits v 0 7)) s.io.slewlim, down := min (atLeast1 (bits v 8 7)) s.io.slewlim }

def State.writeCluster (s : State) (n : Nat) (v : BitVec 512) : Option MgmtEnd :=
  if among n 0x10 8 then some (mgmtIf (bits v 11 5 == 0) (s.writeCallow (n - 0x10) v))
  else if among n 0x20 8 then
    some (mgmtIf (!v.getLsbD 7 && !v.getLsbD 15 && bits v 23 9 == 0) (s.writeCslew (n - 0x20) v))
  else if among n 0x30 8 then some (.forbidden false)
  else if among n 0x100 128 then
    some (mgmtIf (bits v 7 25 == 0 && decide (bits v 0 5 ≤ 16))
      (s.modCluster ((n - 0x100) / 16) fun k => { k with lmap := modAt (fun _ => BitVec.ofNat 32 (bits v 0 7)) (n % 16) k.lmap }))
  else none

/-- `FQBASE` (R249): both words of the trailer are 0 from then on, and what was held is written. -/
def State.writeFqbase (s : State) (d a : Nat) : State :=
  let t := s.modDie d fun x => { x with fqbase := BitVec.ofNat 64 a, fqSet := true, fqtail := 0, fqhead := 0 }
  (t.clearTrailer d (t.die d).fqTrailer).flushRecords d

/-- `ELBASE` (R377): as `FQBASE`. -/
def State.writeElbase (s : State) (d a : Nat) : State :=
  let t := s.modDie d fun x => { x with elbase := BitVec.ofNat 64 a, elSet := true, eltail := 0 }
  t.clearTrailer d (a + 32 * 2 ^ (t.die d).ellog.toNat)

/-- `LCTL` (R336), with the values as they are written. -/
def lctlOf (v : BitVec 512) : Word := BitVec.ofNat 32 (min 110 (max 60 (bits v 0 8)) + 2 ^ 8 * min 32 (bits v 8 6))

def State.writeDie (s : State) (n : Nat) (v : BitVec 512) : Option MgmtEnd :=
  let d := n % 4
  let log := decide (6 ≤ bits v 0 32) && decide (bits v 0 32 ≤ 16)
  if among n 0x300 4 then
    some (mgmtIf (bits v 0 16 == 0 && decide (bits v 0 64 < devBytes)) (s.writeFqbase d (bits v 0 64)))
  else if among n 0x304 4 then some (mgmtIf log ((s.modDie d fun x => { x with fqlog := BitVec.ofNat 32 (bits v 0 32) }).flushRecords d))
  else if among n 0x308 4 then some (mgmtIf (decide (bits v 0 64 < devBytes)) (s.writeElbase d (bits v 0 64)))
  else if among n 0x30C 4 then some (mgmtIf log (s.modDie d fun x => { x with ellog := BitVec.ofNat 32 (bits v 0 32) }))
  else if among n 0x400 4 then some (mgmtIf (bits v 14 18 == 0) (s.modDie d fun x => { x with lctl := lctlOf v }))
  else if among n 0x404 8 then some (.forbidden false)
  else none

/-- `BREST` (R346), with the values as they are written. -/
def brestOf (v : BitVec 512) : Word :=
  BitVec.ofNat 32 (bits v 0 8 + 2 ^ 8 * atLeast1 (bits v 8 8) + 2 ^ 16 * atLeast1 (bits v 16 8) + 2 ^ 24 * atLeast1 (bits v 24 8))

/-- A register of the Belfry replaced. -/
def State.setBelfry (s : State) (ok : Bool) (f : Belfry → Belfry) : Option MgmtEnd := some (mgmtIf ok (s.modBelfry f))

def State.writeBelfry (s : State) (n : Nat) (v : BitVec 512) : Option MgmtEnd :=
  let w : Word := v.setWidth 32
  if n = 0x500 then s.setBelfry (bits v 3 29 == 0) fun b => { b with bctl := w }
  else if among n 0x508 8 then
    s.setBelfry (bits v 25 7 == 0) fun b =>
      { b with bcurve := modAt (fun _ => BitVec.ofNat 32 (bits v 0 16 + 2 ^ 16 * min 256 (bits v 16 9))) (n - 0x508) b.bcurve }
  else if n = 0x510 then s.setBelfry (!v.getLsbD 63) fun b => { b with bshedl := v.setWidth 64 }
  else if n = 0x511 then s.setBelfry true fun b => { b with brest := brestOf v }
  else if n = 0x512 then s.setBelfry (bits v 16 16 == 0) fun b => { b with bcap := w }
  else if n = 0x513 then some (.forbidden false)
  else if among n 0x518 8 then
    s.setBelfry (!v.getLsbD 11 && bits v 28 4 == 0) fun b => { b with part := modAt (fun _ => w) (n - 0x518) b.part }
  else if n = 0x520 then some (.forbidden false)
  else if n = 0x521 then s.setBelfry (bits v 1 20 == 0) fun b => { b with ckwin := v.setWidth 64 }
  else if n = 0x522 then some (mgmtIf (bits v 2 30 == 0) (s.writeBckgo w))
  else none

/-- The clamp block (R401): a ceiling is never raised and no mask bit set again before module reset; a lower slew limit
lowers what is in force (R209). -/
def State.writeClamp (s : State) (v : BitVec 512) : MgmtEnd :=
  let pkg := bits v 0 16
  let slew := atLeast1 (bits v 16 7)
  let trip := bits v 24 7
  let mask := BitVec.ofNat 12 (bits v 32 12)
  if v.getLsbD 23 || v.getLsbD 31 || bits v 44 20 != 0 || decide (trip < 100) then .refused
  else if s.io.pkglim < pkg ∨ s.io.slewlim < slew ∨ s.io.ttrip < trip ∨ mask &&& ~~~s.io.spmask ≠ 0 then .forbidden true
  else
    .done { s.modIo fun x => { x with pkglim := pkg, slewlim := slew, ttrip := trip, spmask := mask } with
            clusters := s.clusters.map fun k => { k with up := min k.up slew, down := min k.down slew } }

/-- An outbound window (R401): after the lock it can only be closed. -/
def State.writeObw (s : State) (i : Nat) (v : BitVec 512) : MgmtEnd :=
  let w : BitVec 128 := v.setWidth 128
  if bits v 2 19 != 0 || bits v 96 32 != 0 then .refused
  else if s.io.locked && w.getLsbD 0 && w != s.io.obw.getD i 0 then .forbidden true
  else .done (s.modIo fun x => { x with obw := modAt (fun _ => w) i x.obw })

/-- An arrival matching entry (R398): `COUNT` is RO and stays. -/
def State.writeArrival (s : State) (i : Nat) (v : BitVec 512) : MgmtEnd :=
  let old := ((s.io.arrivals.find? fun e => e.1 == i).map Prod.snd).getD 0
  let w := setBits v 160 32 (old.extractLsb' 160 32).toNat
  mgmtIf (bits v 6 2 == 0 && bits v 48 16 == 0 && bits v 64 6 == 0 && bits v 152 8 == 0 && bits v 384 128 == 0
      && bits v 128 24 != 0)
    (s.modIo fun x =>
      { x with arrivals := insertKey Prod.fst (i, w) (x.arrivals.filter fun e => e.1 != i)
               appends := x.appends.filter fun k => k != i })

def State.writeIo (s : State) (n : Nat) (v : BitVec 512) : Option MgmtEnd :=
  let w : Word := v.setWidth 32
  if among n 0x200 256 then
    some (mgmtIf (bits v 0 13 == 0 && bits v 52 11 == 0) { s with xroot := s.xroot.set (n - 0x200) (v.setWidth 64) })
  else if among n 0x600 8 then
    some (mgmtIf (bits v 16 16 == 0) (s.modIo fun x => { x with ageus := modAt (fun _ => w) (n - 0x600) x.ageus }))
  else if n = 0x700 then
    some (mgmtIf (bits v 1 5 == 0 && bits v 52 12 != 0) (s.modIo fun x => { x with dumpctl := v.setWidth 64 }))
  else if n = 0x701 then
    some (mgmtIf (bits v 10 6 == 0 && bits v 22 9 == 0 && decide (bits v 0 10 ≤ 543)) (s.dumpGo w))
  else if among n 0x800 8 then
    some (mgmtIf (bits v 3 13 == 0 && bits v 28 4 == 0 && bits v 96 32 == 0)
      (s.modIo fun x => { x with spwin := modAt (fun _ => v.setWidth 128) (n - 0x800) x.spwin }))
  else if n = 0x810 then
    some (mgmtIf (bits v 16 16 == 0) (s.modIo fun x => { x with sretry := BitVec.ofNat 32 (atLeast1 (bits v 0 16)) }))
  else if n = 0x811 then some (.done (s.modIo fun x => { x with badrec := w }))
  else if n = 0x812 then some (.forbidden false)
  else if n = 0x900 then some (s.writeClamp v)
  else if among n 0x908 8 then some (s.writeObw (n - 0x908) v)
  else if among n 0x1000 1024 then some (s.writeArrival (n - 0x1000) v)
  else none

/-- A management register written; none for a number that names none. -/
def State.mgmtWrite (s : State) (n : Nat) (v : BitVec 512) : Option MgmtEnd :=
  s.writeCluster n v <|> s.writeDie n v <|> s.writeBelfry n v <|> s.writeIo n v

/-- An entry of the management processor's error log (R388, R401). -/
def State.mgmtLog (s : State) (e : MgmtLog) : State := s.modIo fun x => { x with mlog := x.mlog ++ [e] }

/-- A write by firmware at P2: what cannot be written stores nothing. -/
def State.p2Write (s : State) (n : Nat) (v : BitVec 512) : State :=
  match s.mgmtWrite n v with
  | none => s
  | some .refused => s.mgmtLog (.refused n)
  | some (.forbidden clamp) => if clamp then s.mgmtLog (.clamp n) else s
  | some (.done t) => t

/-- MGMT_REGISTER_WRITE: firmware writes a register, once it runs (R362, R386). -/
def execMgmtRegisterWrite (n : Nat) (v : BitVec 512) (s : State) : Out := .next (if s.io.fw then s.p2Write n v else s)

/-- CLAMP_BLOCK_WRITE. -/
def execClampBlockWrite (v : DWord) (s : State) : Out := .next (s.p2Write 0x900 (v.setWidth 512))

/-- DUMPGO_WRITE. -/
def execDumpgoWrite (v : Word) (s : State) : Out := .next (s.p2Write 0x701 (v.setWidth 512))

end Sys2Proof.Machine
end

