-- ==== Sys2Proof/Machine/Mailbox.lean ====
section
/-! DEFINITION. The mailbox and its commands, and the control launch (R17, R386 to R391, R403). -/

namespace Sys2Proof.Machine

/-! ### Commands (R386, R387) -/

def Io.opc (x : Io) : Nat := (x.cmd.extractLsb' 0 16).toNat
def Io.seq (x : Io) : Word := x.cmd.extractLsb' 32 32
def Io.rseq (x : Io) : Word := x.resp.extractLsb' 32 32
def Io.arg (x : Io) (k : Nat) : DWord := x.cmd.extractLsb' (64 * (k + 1)) 64

/-- A command stands in the command record. -/
def Io.asked (x : Io) : Bool := x.seq != x.rseq

/-- Results written from `RES0` up. -/
def putResults (r : BitVec 1024) : (k : Nat) → List DWord → BitVec 1024
  | _, [] => r
  | k, v :: vs => putResults (setBits r (64 * (k + 1)) 64 v.toNat) (k + 1) vs

/-- The command is completed: results, then `RSTAT` and `RSEQ`, then vector 0. -/
def State.respond (s : State) (rstat : Nat) (res : List DWord) : State :=
  s.modIo fun x =>
    { x with resp := setBits (setBits (putResults x.resp 0 res) 0 16 rstat) 32 32 x.seq.toNat, msix := x.msix ++ [0] }

/-- A command is performed when it stands in the record; before firmware starts, the boot ROM refuses all but what it
serves. -/
def command (code : Nat) (boot : Bool) (s : State) (k : State) : Out :=
  .next (if s.io.asked ∧ s.io.opc = code then (if s.io.fw || boot then k else s.respond 3 []) else s)

/-- A value as 64-bit words, lowest first. -/
def wordsOf (v : Nat) : (n : Nat) → List DWord
  | 0 => []
  | n + 1 => BitVec.ofNat 64 v :: wordsOf (v / 2 ^ 64) n

/-- MREAD. -/
def execMread (s : State) : Out :=
  command 1 true s
    (match s.mgmtRead (s.io.arg 0).toNat with
     | none => s.respond 2 []
     | some v => s.respond 0 (wordsOf v (mgmtWords (s.io.arg 0).toNat)))

/-- The value of an MWRITE: as many words as the register has. -/
def Io.value (x : Io) (n : Nat) : BitVec 512 :=
  BitVec.ofNat 512 ((List.range (mgmtWords n)).foldl (fun v k => v + (x.arg (k + 1)).toNat * 2 ^ (64 * k)) 0)

/-- The registers that the boot ROM lets an MWRITE reach (R386). -/
def bootWritable (n : Nat) : Bool := n == 0x900 || among n 0x908 8

/-- MWRITE: refused values complete with 2, forbidden ones with 3; `XROOT` 0 belongs to firmware (R388). A register of 32
bits takes the low 32 bits of its word. -/
def execMwrite (s : State) : Out :=
  let n := (s.io.arg 0).toNat
  command 2 (bootWritable n) s
    (if n = 0x200 then s.respond 3 []
     else
       match s.mgmtWrite n (s.io.value n) with
       | none => s.respond 2 []
       | some .refused => (s.mgmtLog (.refused n)).respond 2 []
       | some (.forbidden clamp) => (if clamp then s.mgmtLog (.clamp n) else s).respond 3 []
       | some (.done t) => t.respond 0 [])

/-- MAILBOX_UNKNOWN_COMMAND. -/
def execMailboxUnknownCommand (s : State) : Out :=
  .next (if s.io.asked ∧ !(among s.io.opc 1 5) then s.respond (if s.io.fw then 1 else 3) [] else s)

/-- The attestation report (R403): hashes, clamp block, windows, nonce, signatures. -/
def State.report (s : State) : List Byte :=
  (List.range 96).map (Config.reportHash s.tick)
  ++ leBytes 8 s.io.clamp.toNat ++ (s.io.spwin.flatMap fun w => leBytes 16 w.toNat)
  ++ (s.io.obw.flatMap fun w => leBytes 16 w.toNat) ++ ((List.range 6).flatMap fun k => leBytes 8 (s.io.arg k).toNat)
  ++ Config.reportSigs s.tick

/-- The transfer area by its offset in the mailbox window (R386). -/
def xferBase : Nat := 2 ^ 20
def xferBytes : Nat := 15 * 2 ^ 20

/-- ATTEST: the report stands in the transfer area, and its length in `RES0`. -/
def execAttest (s : State) : Out :=
  command 5 false s
    (let r := s.report
     (s.modIo fun x => { x with xfer := x.xfer.writeBytes xferBase (r.take xferBytes) }).respond 0 [BitVec.ofNat 64 r.length])

/-! ### The control launch (R389 to R391) -/

/-- A job list header. -/
structure JobList where
  tail  : Nat
  head  : Nat
  jlog  : Nat
  jbase : Nat
deriving DecidableEq, Repr

/-- The header at an address, and whether it passes the checks of firmware. -/
def State.jobList (s : State) (a : Nat) : JobList × Bool :=
  let v := BitVec.ofNat 512 (s.devNat a 64)
  let j : JobList := ⟨bits v 0 64, bits v 64 64, bits v 128 8, bits v 192 64⟩
  (j, decide (4 ≤ j.jlog) && decide (j.jlog ≤ 16) && bits v 136 56 == 0 && bits v 256 256 == 0 && j.jbase % 64 == 0)

/-- `JLADDR`'s address. -/
def Io.jlBase (x : Io) : Nat := (x.jladdr.extractLsb' 0 52).toNat

/-- The control launch has ended. -/
def State.jobsOver (s : State) : State := s.modIo fun x => { x with control := none, jladdr := x.jladdr &&& ~~~(BitVec.twoPow 64 63) }

/-- JLSET: busy while a control launch or a restore runs; a header that breaks its rules is a bad argument. -/
def execJlset (s : State) : Out :=
  command 3 false s
    (let a := (s.io.arg 0).toNat
     if s.io.control.isSome || (s.belfry.ckpt == 1 && s.belfry.restoring2) then s.respond 4 []
     else if a % 64 ≠ 0 ∨ devBytes ≤ a ∨ s.physBad ⟨.dev, a⟩ 64 = true ∨ (s.jobList a).2 = false then s.respond 2 []
     else
       let h := (s.jobList a).1.head
       (s.modIo fun x =>
         { x with jladdr := BitVec.ofNat 64 (2 ^ 63 + a), jlhead := BitVec.ofNat 64 h
                  control := some ⟨BitVec.ofNat 64 h, BitVec.ofNat 64 h, false, none⟩ }).respond 0 [])

/-- JLSTOP: between records the control launch ends at once; one that is on a record finishes it first, and the command
completes then. -/
def execJlstop (s : State) : Out :=
  command 4 false s
    (match s.io.control with
     | none => s.respond 0 [s.io.jlhead]
     | some k =>
       if k.fault.isSome then s.modIo fun x => { x with control := some { k with stopping := true } }
       else s.jobsOver.respond 0 [s.io.jlhead])

/-- A job record at an address. -/
structure Job where
  op  : Nat
  b   : Word
  arg : DWord
  ok  : Bool
deriving DecidableEq, Repr

def jobOf (v : BitVec 512) : Job :=
  ⟨bits v 0 4, BitVec.ofNat 32 (8 * bits v 7 1 + bits v 4 3), v.extractLsb' 64 64,
    bits v 8 56 == 0 && bits v 128 384 == 0 && (bits v 0 4 == 1 || bits v 0 4 == 2 || bits v 0 4 == 3)⟩

/-- The `TAIL` that the control launch runs on to: the one that it has observed, or a new one once it has come there. A value
below what it has handled leaves the records unchanged (R17, R390). -/
def State.jobTail (s : State) (k : Control) : Nat :=
  if k.seen.toNat < k.tail.toNat then k.tail.toNat else (s.jobList s.io.jlBase).1.tail

/-- The record that the control launch is on, with the `TAIL` that covers it: its job, and whether reading it meets an
uncorrectable error; none while it waits for `TAIL` or for a checkpoint. The header and the record are taken as they
stand when the record's turn comes, and with more records than the ring holds it is free which of them this is (log 91). -/
def State.job (s : State) : Option (Control × Job × Bool) :=
  match s.io.control with
  | none => none
  | some k =>
    let j := (s.jobList s.io.jlBase).1
    if s.belfry.halted || decide (s.jobTail k ≤ k.seen.toNat) then none
    else
      let i := if k.seen.toNat + 2 ^ j.jlog < s.jobTail k then Config.overrunSlot k.seen.toNat (s.jobTail k) else k.seen.toNat
      let a := j.jbase + 64 * (i % 2 ^ j.jlog)
      some ({ k with tail := BitVec.ofNat 64 (s.jobTail k) }, jobOf (BitVec.ofNat 512 (s.devNat a 64)), s.physBad ⟨.dev, a⟩ 64)

/-- The record is done: `HEAD` is written, and a control launch that is to stop ends. -/
def State.nextJob (s : State) (k : Control) : State :=
  let h := k.seen + 1
  let t := (s.devWriteNat (s.io.jlBase + 8) 8 h.toNat).modIo fun x =>
    { x with jlhead := h, control := some ⟨h, k.tail, k.stopping, none⟩ }
  if k.stopping then t.jobsOver else t

/-- `BADREC` rises, saturating. -/
def State.skipJob (s : State) (k : Control) : State :=
  (s.modIo fun x => { x with badrec := if x.badrec = 0xFFFFFFFF then x.badrec else x.badrec + 1 }).nextJob k

/-- The record that a fault of the control launch waits on, or none for an uncorrectable error: its class is 0 and its reads
are made in thread 0 (log 28). -/
def State.jobFault (s : State) (k : Control) (f : AFault) : State :=
  match f with
  | .inCtx ctx x a va =>
    let (t, r) := s.postFault 0 ⟨va, ctx, a, x, 0, 0, 1, false⟩
    t.modIo fun y => { y with control := some { k with fault := some r } }
  | .x x a va =>
    let (t, r) := s.postFault 0 ⟨va, 0, a, x, 0, 0, 1, false⟩
    t.modIo fun y => { y with control := some { k with fault := some r } }
  | .ecc _ => s.skipJob k
  | .excluded _ _ => s.skipJob k
  | .again _ => s.skipJob k

/-- The control launch reads in context 0 with no special right. -/
def jobReader : Reader := ⟨0, false, none⟩

/-- A record with this operation is performed, once the fault record it waits on has `STATUS` 1. -/
def jobEvent (op : Nat) (s : State) (f : Control → Job → State) : Out :=
  .next (match s.job with
    | none => s
    | some (k, j, bad) =>
      if bad || !j.ok || j.op != op then s
      else
        match k.fault with
        | none => f k j
        | some r => if s.statusOf r = 1 then f k j else s)

/-- JOB_LAUNCH: a misaligned record is skipped. -/
def execJobLaunch (s : State) : Out :=
  jobEvent 1 s fun k j =>
    if j.arg.toNat % 256 ≠ 0 then s.skipJob k
    else
      match s.launchRecord jobReader 0 0 j.arg j.b 0 0 with
      | .fault f => s.jobFault k f
      | .rights _ => s.skipJob k
      | .done t => t.nextJob k

/-- A `cancel` of the control launch. -/
def jobCancel (op : Nat) (trap : Bool) (s : State) : Out :=
  jobEvent op s fun k j =>
    if j.arg.toNat % 32 ≠ 0 then s.skipJob k
    else
      match s.cancelCounter jobReader 0 j.arg trap 0 0 with
      | .error f => s.jobFault k f
      | .ok t => t.nextJob k

/-- JOB_CANCEL_DRAIN. -/
def execJobCancelDrain (s : State) : Out := jobCancel 2 false s
/-- JOB_CANCEL_TRAP. -/
def execJobCancelTrap (s : State) : Out := jobCancel 3 true s

/-- JOB_RECORD_SKIP: an invalid record, one that cannot be read, or one whose fault record ended with `STATUS` 2. -/
def execJobRecordSkip (s : State) : Out :=
  .next (match s.job with
    | none => s
    | some (k, j, bad) =>
      if bad || !j.ok || (match k.fault with | none => false | some r => s.statusOf r == 2) then s.skipJob k else s)

end Sys2Proof.Machine
end

