-- ==== Sys2Proof/Machine/Fabric.lean ====
section
/-! DEFINITION. Accesses from outside, arriving messages, the links, the start of firmware and module reset
(R354, R383 to R386, R393, R394, R397 to R402). -/

namespace Sys2Proof.Machine

/-! ### Inbound accesses (R384, R394) -/

/-- Bytes that an access touches. -/
def accSize : Inbound → Nat
  | .read n => n
  | .write bs => bs.length
  | .atom _ wide _ _ => if wide then 8 else 4

/-- An access performed on device memory; what a read returns leaves the module. -/
def State.inbound (s : State) (a : Nat) (acc : Inbound) : State :=
  match acc with
  | .read _ => s
  | .write bs => s.physWrite ⟨.dev, a⟩ bs
  | .atom op wide x y =>
    if farOp op && decide (a + (accSize acc) ≤ devBytes) then
      s.physWrite ⟨.dev, a⟩ (leBytes (accSize acc) (atomNew wide op (BitVec.ofNat 64 (s.devNat a (accSize acc))) x y).toNat)
    else s


/-- A write into the mailbox window, byte by byte: the command record and the transfer area take it, nothing else does. -/
def Io.mailboxPut (x : Io) : (addr : Nat) → List Byte → Io
  | _, [] => x
  | a, b :: bs =>
    (if a < 128 then { x with cmd := setBits x.cmd (8 * a) 8 b.toNat }
     else if xferBase ≤ a ∧ a < xferBase + xferBytes then { x with xfer := x.xfer.write a b }
     else x).mailboxPut (a + 1) bs

/-- HOST_INBOUND_ACCESS. Beyond device memory nothing is written, and the access is logged; a module in recovery mode
presents the mailbox only (R402). -/
def State.hostAccess (s : State) (link : Nat) (mailbox : Bool) (addr : Nat) (acc : Inbound) : State :=
  if !s.io.carries link then s
  else if mailbox then
    match acc with
    | .write bs => s.modIo fun x => x.mailboxPut addr bs
    | .read _ => s
    | .atom _ _ _ _ => s
  else if s.io.fwBad ∨ 2 ^ 40 ≤ addr then s
  else
    let t := s.inbound addr acc
    if devBytes < addr + (accSize acc) then t.mgmtLog (.bar addr) else t

def execHostInboundAccess (link : Nat) (mailbox : Bool) (addr : Nat) (acc : Inbound) (s : State) : Out :=
  .next (s.hostAccess link mailbox addr acc)

/-- A window lets an access of a link through (R394). -/
def spAllows (w : BitVec 128) (link addr : Nat) (acc : Inbound) : Bool :=
  let base := 2 ^ 16 * (w.extractLsb' 32 32).toNat
  let right := match acc with
    | .read _ => w.getLsbD 1
    | .write _ => w.getLsbD 2
    | .atom _ _ _ _ => w.getLsbD 1 && w.getLsbD 2
  w.getLsbD 0 && right && decide (link < 12) && w.getLsbD (16 + link) && decide (base ≤ addr)
  && decide (addr + (accSize acc) ≤ base + 2 ^ 16 * (w.extractLsb' 64 32).toNat)

/-- A spire link carries traffic: the clamp block enables it and it is up. -/
def Io.spireUp (x : Io) (link : Nat) : Bool := x.spmask.getLsbD link && !x.spireDown.contains link

/-- SPIRE_INBOUND_ACCESS: an access that no window allows fails at its sender. -/
def execSpireInboundAccess (link addr : Nat) (acc : Inbound) (s : State) : Out :=
  .next (if s.io.spireUp link && s.io.spwin.any fun w => spAllows w link addr acc then s.inbound addr acc else s)

/-! ### Arriving messages (R398 to R400) -/

def aeRearm (v : BitVec 512) : Bool := v.getLsbD 1
def aeLink (v : BitVec 512) : Nat := bits v 2 4
def aeCtx (v : BitVec 512) : Nat := bits v 8 8
def aeTag (v : BitVec 512) : Nat := bits v 16 32
def aeBuf (v : BitVec 512) : Nat := bits v 64 64
def aeLength (v : BitVec 512) : Nat := bits v 128 24
def aeCount (v : BitVec 512) : Nat := bits v 160 32
def aePool (v : BitVec 512) : Nat := bits v 192 64

/-- Entry `i`. -/
def Io.arrivalEntry (x : Io) (i : Nat) : BitVec 512 := ((x.arrivals.find? fun e => e.1 == i).map Prod.snd).getD 0

def State.modArrival (s : State) (i : Nat) (f : BitVec 512 → BitVec 512) : State :=
  s.modIo fun x => { x with arrivals := x.arrivals.map fun e => if e.1 = i then (i, f e.2) else e }

/-- A fault on the buffer or the pool: the entry is out of use, and the error log says so (log 29). -/
def State.dropEntry (s : State) (i : Nat) : State :=
  ((s.modArrival i fun v => setBits v 0 1 0).modIo fun x => { x with appends := x.appends.filter fun k => k != i }).logError 0 9
    false false 0 (Config.logDetail [i]) (BitVec.ofNat 64 i)

/-- The I/O die writes bytes in an entry's context (log 29). -/
def State.ioWrite (s : State) (ctx va : Nat) (bs : List Byte) : Option State :=
  match s.place 0 ctx true .store va bs.length with
  | .ok ps => some (s.writePlaces ps bs)
  | .error _ => none

/-- The entry that a `send` matches: the lowest valid one with its tag and link. -/
def Io.matchEntry (x : Io) (link : Nat) (tag : Word) : Option (Nat × BitVec 512) :=
  x.arrivals.find? fun e => e.2.getLsbD 0 && aeTag e.2 == tag.toNat && (aeLink e.2 == link || aeLink e.2 == 15)

/-- ARRIVAL_MATCH: the message is refused whole, or written and counted in one step. While a completed entry waits for room
in its pool, it takes no further message. -/
def State.arrive (s : State) (link : Nat) (tag : Word) (off : Nat) (bs : List Byte) : State :=
  if !s.io.spireUp link then s
  else
    match s.io.matchEntry link tag with
    | none => s
    | some (i, v) =>
      if aeLength v < off + bs.length ∨ s.io.appends.contains i then s
      else
        match s.ioWrite (aeCtx v) (aeBuf v + off) bs with
        | none => s.dropEntry i
        | some t =>
          let n := (aeCount v + bs.length) % 2 ^ 32
          let u := t.modArrival i fun w => setBits w 160 32 n
          if aeLength v ≤ n then u.modIo fun x => { x with appends := x.appends ++ [i] } else u

def execArrivalMatch (link : Nat) (tag : Word) (off : Nat) (bs : List Byte) (s : State) : Out :=
  .next (s.arrive link tag off bs)

/-- The task record of a completed entry (R399). -/
def taskRecord (v : BitVec 512) (recb : Nat) : List Byte :=
  leBytes 8 (bits v 256 64) ++ leBytes 8 (aeBuf v) ++ leBytes 4 (aeLength v) ++ leBytes 4 (aeTag v) ++ leBytes 8 (bits v 320 64)
  ++ leBytes (recb - 32) 0

/-- What becomes of an entry after its task record is in the pool. -/
def rearm (v : BitVec 512) : BitVec 512 := if aeRearm v then setBits v 160 32 0 else setBits v 0 1 0

/-- ARRIVAL_TASK_APPEND; a checkpoint holds it back (R351). -/
def State.appendTask (s : State) (i : Nat) : State :=
  if !s.io.appends.contains i || s.still then s
  else
    let v := s.io.arrivalEntry i
    match s.rangeRead 0 (aeCtx v) true .load (aePool v) 64 with
    | .error _ => s.dropEntry i
    | .ok bs =>
      let h := BitVec.ofNat 512 (leNat bs)
      if phRecb h < 32 ∨ phValid h = false then s.dropEntry i
      else if phTail h = phHead h + 2 ^ phPlog h then s
      else
        match s.ioWrite (aeCtx v) (phRbase h + phRecb h * (phTail h % 2 ^ phPlog h)) (taskRecord v (phRecb h)) with
        | none => s.dropEntry i
        | some t =>
          match t.ioWrite (aeCtx v) (aePool v + 8) (leBytes 8 (phTail h + 1)) with
          | none => s.dropEntry i
          | some u => (u.modArrival i rearm).modIo fun x => { x with appends := x.appends.filter fun k => k != i }

def execArrivalTaskAppend (i : Nat) (s : State) : Out := .next (s.appendTask i)

/-! ### Links (R351, R386, R393, R397) -/

/-- A link-level retry alters timing only, and is logged (R393). -/
def State.linkRetry (s : State) (link : Nat) : State :=
  if link < 12 then s.logError 0 9 false false link (Config.logDetail [link]) 0 else s

/-- SPIRE_LANE_FAIL: the spare takes the first lane's place; after a second failure the link runs at half rate. Each is
logged. -/
def State.laneFail (s : State) (link : Nat) : State :=
  let n := ((s.io.lanes.find? fun x => x.1 == link).map Prod.snd).getD 0
  (s.modIo fun x => { x with lanes := insertKey Prod.fst (link, n + 1) (x.lanes.filter fun y => y.1 != link) }).logError 0 9
    false (n == 0) link (Config.logDetail [link]) 0

def execSpireLaneFail (link : Nat) (s : State) : Out := .next (s.laneFail link)

/-- The operations of a wave on a link abandoned with TIMEOUT, wherever they stand in its queue; those that
wait for a commit are abandoned there (R237). -/
def State.dropLinkOps (s : State) (e : Eng) (link : Nat) : State :=
  let hit (o : CopyOp) : Bool := o.kind.link == some link && e.due
  let gone := e.wave.cq.filter hit
  let s1 := s.modEng e fun w => { w with cq := w.cq.filter fun o => !hit o }
  if e.wave.gone then
    gone.foldl (fun (t : State) o =>
      t.logError e.group.die 11 false false e.group.core (Config.logDetail [e.wave.wslot]) o.d) s1
  else s1.modEng e fun w => { w with copyErr := w.copyErr ++ gone.map fun o => ⟨o.thread, 0x0F, o.d, o.a, o.done⟩ }

/-- Every wave's operations on a link that stays down. -/
def State.dropLink (s : State) (link : Nat) : List WaveRef → State
  | [] => s
  | w :: ws => (match s.eng w with | none => s | some e => s.dropLinkOps e link).dropLink link ws

/-- SPIRE_LINK_DOWN. -/
def execSpireLinkDown (link : Nat) (s : State) : Out :=
  let t := s.modIo fun x => { x with spireDown := if x.spireDown.contains link then x.spireDown else x.spireDown ++ [link] }
  .next (t.dropLink link (t.groups.flatMap fun g => g.waves.map fun w => ⟨g.id, w.wix⟩))

/-- HOST_LINK_DOWN: a copy of an image goes on over the other link. -/
def execHostLinkDown (link : Nat) (s : State) : Out :=
  .next (s.modIo fun x => { x with down := if x.down.contains link then x.down else x.down ++ [link] })

/-- HOST_LINK_TRAINED: the first training starts the clock of firmware, unless it has started already. -/
def execHostLinkTrained (link : Nat) (s : State) : Out :=
  .next (s.modIo fun x =>
    { x with
      trained := if x.trained.contains link then x.trained else x.trained ++ [link]
      down := x.down.filter fun l => l != link
      trainedAt := some (x.trainedAt.getD s.ns.toNat) })

/-- LINK_TRAINING_TIMEOUT: no link has trained 1 s after reset. -/
def execLinkTrainingTimeout (s : State) : Out :=
  .next (if s.io.trainedAt.isNone ∧ 1000000000 ≤ s.ns.toNat then s.modIo fun x => { x with trainedAt := some s.ns.toNat } else s)

/-! ### Firmware and reset (R348, R354, R386, R402) -/

/-- The boot ROM accepts an image (R402). -/
def imageOk (img : FwImage) (fuse : Nat) : Bool := img.rsaOk && img.slhOk && decide (fuse ≤ img.version)

/-- FIRMWARE_START, at least 100 ms after the training that starts its clock: firmware locks the clamp block, says that it
runs, and has measured the idle floor; an image that is not accepted starts nothing. -/
def State.startFirmware (s : State) (img : FwImage) : State :=
  match s.io.trainedAt with
  | none => s
  | some t =>
    if s.io.fw ∨ s.io.fwBad ∨ s.ns.toNat - t < 100000000 then s
    else if imageOk img s.io.fuseVer then
      (s.modIo fun x => { x with fw := true, locked := true, resp := setBits x.resp 16 1 1, msix := x.msix ++ [0] }).modBelfry
        fun b => { b with pidle := (Config.measured s.tick).toNat % 2 ^ 16 }
    else (s.modIo fun x => { x with fwBad := true }).mgmtLog .image

def execFirmwareStart (img : FwImage) (s : State) : Out := .next (s.startFirmware img)

/-- MODULE_RESET: everything is as after reset but what lies outside the reset: the contents of the memories and the fused
version (log 30). -/
def State.moduleReset (s : State) : State :=
  { State.reset with
    tick := s.tick, relaxed := s.relaxed, mem := s.mem, hostMem := s.hostMem, peerMem := s.peerMem, memBad := s.memBad
    netBad := s.netBad
    io := { Io.reset with fuseVer := s.io.fuseVer } }

def execModuleReset (s : State) : Out := .next s.moduleReset

end Sys2Proof.Machine
end

