-- ==== Sys2Proof/Machine/Float.lean ====
section
/-! DEFINITION. Floating-point arithmetic and the correctly rounded functions (R103, R104, R110). -/

namespace Sys2Proof.Machine

/-- `fadd` in f32, rounded once in the word's mode (R103). -/
def execFaddF32 (d : VDst) (a b : VOp) (r : ARnd) (s : State) : Out :=
  vec s [⟨a, false⟩, ⟨b, false⟩] d fun c t => fadd fp32 (rmOf r) (f32Val (c.v32 t a)) (f32Val (c.v32 t b))

/-- `fsub` in f32, rounded once in the word's mode (R103). -/
def execFsubF32 (d : VDst) (a b : VOp) (r : ARnd) (s : State) : Out :=
  vec s [⟨a, false⟩, ⟨b, false⟩] d fun c t => fsub fp32 (rmOf r) (f32Val (c.v32 t a)) (f32Val (c.v32 t b))

/-- `fmul` in f32, rounded once in the word's mode (R103). -/
def execFmulF32 (d : VDst) (a b : VOp) (r : ARnd) (s : State) : Out :=
  vec s [⟨a, false⟩, ⟨b, false⟩] d fun c t => fmul fp32 (rmOf r) (f32Val (c.v32 t a)) (f32Val (c.v32 t b))

/-- a × b + d in f32, rounded once; the old d is the addend (R103). -/
def execFmaF32 (d : VDst) (a b : VOp) (r : ARnd) (s : State) : Out :=
  vec s [⟨a, false⟩, ⟨b, false⟩, ⟨(srcOf d), false⟩] d fun c t =>
    fma fp32 (rmOf r) (f32Val (c.v32 t a)) (f32Val (c.v32 t b)) (f32Val (c.v32 t (srcOf d)))

/-- `fmin` in f32 (R104). -/
def execFminF32 (d : VDst) (a b : VOp) (s : State) : Out :=
  vec s [⟨a, false⟩, ⟨b, false⟩] d fun c t => fminBits fp32 f32Val true (c.v32 t a) (c.v32 t b)

/-- `fmax` in f32 (R104). -/
def execFmaxF32 (d : VDst) (a b : VOp) (s : State) : Out :=
  vec s [⟨a, false⟩, ⟨b, false⟩] d fun c t => fminBits fp32 f32Val false (c.v32 t a) (c.v32 t b)

/-- `fadd` in f16, rounded once in the word's mode (R103). -/
def execFaddF16 (d : VDst) (a b : VOp) (r : ARnd) (s : State) : Out :=
  vec s [⟨a, false⟩, ⟨b, false⟩] d fun c t => fadd fp16 (rmOf r) (f16Val (c.v32 t a)) (f16Val (c.v32 t b))

/-- `fsub` in f16, rounded once in the word's mode (R103). -/
def execFsubF16 (d : VDst) (a b : VOp) (r : ARnd) (s : State) : Out :=
  vec s [⟨a, false⟩, ⟨b, false⟩] d fun c t => fsub fp16 (rmOf r) (f16Val (c.v32 t a)) (f16Val (c.v32 t b))

/-- `fmul` in f16, rounded once in the word's mode (R103). -/
def execFmulF16 (d : VDst) (a b : VOp) (r : ARnd) (s : State) : Out :=
  vec s [⟨a, false⟩, ⟨b, false⟩] d fun c t => fmul fp16 (rmOf r) (f16Val (c.v32 t a)) (f16Val (c.v32 t b))

/-- a × b + d in f16, rounded once; the old d is the addend (R103). -/
def execFmaF16 (d : VDst) (a b : VOp) (r : ARnd) (s : State) : Out :=
  vec s [⟨a, false⟩, ⟨b, false⟩, ⟨(srcOf d), false⟩] d fun c t =>
    fma fp16 (rmOf r) (f16Val (c.v32 t a)) (f16Val (c.v32 t b)) (f16Val (c.v32 t (srcOf d)))

/-- `fmin` in f16 (R104). -/
def execFminF16 (d : VDst) (a b : VOp) (s : State) : Out :=
  vec s [⟨a, false⟩, ⟨b, false⟩] d fun c t => fminBits fp16 f16Val true (c.v32 t a) (c.v32 t b)

/-- `fmax` in f16 (R104). -/
def execFmaxF16 (d : VDst) (a b : VOp) (s : State) : Out :=
  vec s [⟨a, false⟩, ⟨b, false⟩] d fun c t => fminBits fp16 f16Val false (c.v32 t a) (c.v32 t b)

/-- `fadd` in bf16, rounded once in the word's mode (R103). -/
def execFaddBf16 (d : VDst) (a b : VOp) (r : ARnd) (s : State) : Out :=
  vec s [⟨a, false⟩, ⟨b, false⟩] d fun c t => fadd bf16 (rmOf r) (bf16Val (c.v32 t a)) (bf16Val (c.v32 t b))

/-- `fsub` in bf16, rounded once in the word's mode (R103). -/
def execFsubBf16 (d : VDst) (a b : VOp) (r : ARnd) (s : State) : Out :=
  vec s [⟨a, false⟩, ⟨b, false⟩] d fun c t => fsub bf16 (rmOf r) (bf16Val (c.v32 t a)) (bf16Val (c.v32 t b))

/-- `fmul` in bf16, rounded once in the word's mode (R103). -/
def execFmulBf16 (d : VDst) (a b : VOp) (r : ARnd) (s : State) : Out :=
  vec s [⟨a, false⟩, ⟨b, false⟩] d fun c t => fmul bf16 (rmOf r) (bf16Val (c.v32 t a)) (bf16Val (c.v32 t b))

/-- a × b + d in bf16, rounded once; the old d is the addend (R103). -/
def execFmaBf16 (d : VDst) (a b : VOp) (r : ARnd) (s : State) : Out :=
  vec s [⟨a, false⟩, ⟨b, false⟩, ⟨(srcOf d), false⟩] d fun c t =>
    fma bf16 (rmOf r) (bf16Val (c.v32 t a)) (bf16Val (c.v32 t b)) (bf16Val (c.v32 t (srcOf d)))

/-- `fmin` in bf16 (R104). -/
def execFminBf16 (d : VDst) (a b : VOp) (s : State) : Out :=
  vec s [⟨a, false⟩, ⟨b, false⟩] d fun c t => fminBits bf16 bf16Val true (c.v32 t a) (c.v32 t b)

/-- `fmax` in bf16 (R104). -/
def execFmaxBf16 (d : VDst) (a b : VOp) (s : State) : Out :=
  vec s [⟨a, false⟩, ⟨b, false⟩] d fun c t => fminBits bf16 bf16Val false (c.v32 t a) (c.v32 t b)

/-- Sign cleared; a NaN becomes the canonical one (R104). -/
def execFabsF32 (d : VDst) (a : VOp) (s : State) : Out := vec s [⟨a, false⟩] d fun c t => fabsBits (c.v32 t a)

/-- Sign inverted; a NaN becomes the canonical one (R104). -/
def execFnegF32 (d : VDst) (a : VOp) (s : State) : Out := vec s [⟨a, false⟩] d fun c t => fnegBits (c.v32 t a)

/-- A function of R79 of an operand's value, rounded once to nearest even (R110). -/
def fnWord (F : FloatFmt) (f : Fn) (x : Val) : Word := BitVec.ofNat 32 (fnCode F f x)

/-- Correctly rounded `exp` in f32 (R79, R110). -/
def execExpF32 (d : VDst) (a : VOp) (s : State) : Out :=
  vec s [⟨a, false⟩] d fun c t => fnWord fp32 .exp (f32Val (c.v32 t a))

/-- Correctly rounded `exp2` in f32 (R79, R110). -/
def execExp2F32 (d : VDst) (a : VOp) (s : State) : Out :=
  vec s [⟨a, false⟩] d fun c t => fnWord fp32 .exp2 (f32Val (c.v32 t a))

/-- Correctly rounded `log` in f32 (R79, R110). -/
def execLogF32 (d : VDst) (a : VOp) (s : State) : Out :=
  vec s [⟨a, false⟩] d fun c t => fnWord fp32 .log (f32Val (c.v32 t a))

/-- Correctly rounded `log2` in f32 (R79, R110). -/
def execLog2F32 (d : VDst) (a : VOp) (s : State) : Out :=
  vec s [⟨a, false⟩] d fun c t => fnWord fp32 .log2 (f32Val (c.v32 t a))

/-- Correctly rounded `sinpi` in f32 (R79, R110). -/
def execSinpiF32 (d : VDst) (a : VOp) (s : State) : Out :=
  vec s [⟨a, false⟩] d fun c t => fnWord fp32 .sinpi (f32Val (c.v32 t a))

/-- Correctly rounded `cospi` in f32 (R79, R110). -/
def execCospiF32 (d : VDst) (a : VOp) (s : State) : Out :=
  vec s [⟨a, false⟩] d fun c t => fnWord fp32 .cospi (f32Val (c.v32 t a))

/-- Correctly rounded `tanh` in f32 (R79, R110). -/
def execTanhF32 (d : VDst) (a : VOp) (s : State) : Out :=
  vec s [⟨a, false⟩] d fun c t => fnWord fp32 .tanh (f32Val (c.v32 t a))

/-- Correctly rounded `sigm` in f32 (R79, R110). -/
def execSigmF32 (d : VDst) (a : VOp) (s : State) : Out :=
  vec s [⟨a, false⟩] d fun c t => fnWord fp32 .sigm (f32Val (c.v32 t a))

/-- Correctly rounded `erf` in f32 (R79, R110). -/
def execErfF32 (d : VDst) (a : VOp) (s : State) : Out :=
  vec s [⟨a, false⟩] d fun c t => fnWord fp32 .erf (f32Val (c.v32 t a))

/-- Correctly rounded `rcp` in f32 (R79, R110). -/
def execRcpF32 (d : VDst) (a : VOp) (s : State) : Out :=
  vec s [⟨a, false⟩] d fun c t => roundWord fp32 .rne (divVal (.fin false 1 0) (f32Val (c.v32 t a)))

/-- Correctly rounded `rsqrt` in f32 (R79, R110). -/
def execRsqrtF32 (d : VDst) (a : VOp) (s : State) : Out :=
  vec s [⟨a, false⟩] d fun c t => roundWord fp32 .rne (rsqrtVal (f32Val (c.v32 t a)))

/-- Correctly rounded `sqrt` in f32 (R79, R110). -/
def execSqrtF32 (d : VDst) (a : VOp) (s : State) : Out :=
  vec s [⟨a, false⟩] d fun c t => roundWord fp32 .rne (sqrtVal (f32Val (c.v32 t a)))

/-- Correctly rounded a / b in f32 (R79, R110). -/
def execDivF32 (d : VDst) (a b : VOp) (s : State) : Out :=
  vec s [⟨a, false⟩, ⟨b, false⟩] d fun c t => roundWord fp32 .rne (divVal (f32Val (c.v32 t a)) (f32Val (c.v32 t b)))

/-- Correctly rounded `exp` in f16 (R79, R110). -/
def execExpF16 (d : VDst) (a : VOp) (s : State) : Out :=
  vec s [⟨a, false⟩] d fun c t => fnWord fp16 .exp (f16Val (c.v32 t a))

/-- Correctly rounded `exp2` in f16 (R79, R110). -/
def execExp2F16 (d : VDst) (a : VOp) (s : State) : Out :=
  vec s [⟨a, false⟩] d fun c t => fnWord fp16 .exp2 (f16Val (c.v32 t a))

/-- Correctly rounded `log` in f16 (R79, R110). -/
def execLogF16 (d : VDst) (a : VOp) (s : State) : Out :=
  vec s [⟨a, false⟩] d fun c t => fnWord fp16 .log (f16Val (c.v32 t a))

/-- Correctly rounded `log2` in f16 (R79, R110). -/
def execLog2F16 (d : VDst) (a : VOp) (s : State) : Out :=
  vec s [⟨a, false⟩] d fun c t => fnWord fp16 .log2 (f16Val (c.v32 t a))

/-- Correctly rounded `sinpi` in f16 (R79, R110). -/
def execSinpiF16 (d : VDst) (a : VOp) (s : State) : Out :=
  vec s [⟨a, false⟩] d fun c t => fnWord fp16 .sinpi (f16Val (c.v32 t a))

/-- Correctly rounded `cospi` in f16 (R79, R110). -/
def execCospiF16 (d : VDst) (a : VOp) (s : State) : Out :=
  vec s [⟨a, false⟩] d fun c t => fnWord fp16 .cospi (f16Val (c.v32 t a))

/-- Correctly rounded `tanh` in f16 (R79, R110). -/
def execTanhF16 (d : VDst) (a : VOp) (s : State) : Out :=
  vec s [⟨a, false⟩] d fun c t => fnWord fp16 .tanh (f16Val (c.v32 t a))

/-- Correctly rounded `sigm` in f16 (R79, R110). -/
def execSigmF16 (d : VDst) (a : VOp) (s : State) : Out :=
  vec s [⟨a, false⟩] d fun c t => fnWord fp16 .sigm (f16Val (c.v32 t a))

/-- Correctly rounded `erf` in f16 (R79, R110). -/
def execErfF16 (d : VDst) (a : VOp) (s : State) : Out :=
  vec s [⟨a, false⟩] d fun c t => fnWord fp16 .erf (f16Val (c.v32 t a))

/-- Correctly rounded `rcp` in f16 (R79, R110). -/
def execRcpF16 (d : VDst) (a : VOp) (s : State) : Out :=
  vec s [⟨a, false⟩] d fun c t => roundWord fp16 .rne (divVal (.fin false 1 0) (f16Val (c.v32 t a)))

/-- Correctly rounded `rsqrt` in f16 (R79, R110). -/
def execRsqrtF16 (d : VDst) (a : VOp) (s : State) : Out :=
  vec s [⟨a, false⟩] d fun c t => roundWord fp16 .rne (rsqrtVal (f16Val (c.v32 t a)))

/-- Correctly rounded `sqrt` in f16 (R79, R110). -/
def execSqrtF16 (d : VDst) (a : VOp) (s : State) : Out :=
  vec s [⟨a, false⟩] d fun c t => roundWord fp16 .rne (sqrtVal (f16Val (c.v32 t a)))

/-- Correctly rounded a / b in f16 (R79, R110). -/
def execDivF16 (d : VDst) (a b : VOp) (s : State) : Out :=
  vec s [⟨a, false⟩, ⟨b, false⟩] d fun c t => roundWord fp16 .rne (divVal (f16Val (c.v32 t a)) (f16Val (c.v32 t b)))

/-- Correctly rounded `exp` in bf16 (R79, R110). -/
def execExpBf16 (d : VDst) (a : VOp) (s : State) : Out :=
  vec s [⟨a, false⟩] d fun c t => fnWord bf16 .exp (bf16Val (c.v32 t a))

/-- Correctly rounded `exp2` in bf16 (R79, R110). -/
def execExp2Bf16 (d : VDst) (a : VOp) (s : State) : Out :=
  vec s [⟨a, false⟩] d fun c t => fnWord bf16 .exp2 (bf16Val (c.v32 t a))

/-- Correctly rounded `log` in bf16 (R79, R110). -/
def execLogBf16 (d : VDst) (a : VOp) (s : State) : Out :=
  vec s [⟨a, false⟩] d fun c t => fnWord bf16 .log (bf16Val (c.v32 t a))

/-- Correctly rounded `log2` in bf16 (R79, R110). -/
def execLog2Bf16 (d : VDst) (a : VOp) (s : State) : Out :=
  vec s [⟨a, false⟩] d fun c t => fnWord bf16 .log2 (bf16Val (c.v32 t a))

/-- Correctly rounded `sinpi` in bf16 (R79, R110). -/
def execSinpiBf16 (d : VDst) (a : VOp) (s : State) : Out :=
  vec s [⟨a, false⟩] d fun c t => fnWord bf16 .sinpi (bf16Val (c.v32 t a))

/-- Correctly rounded `cospi` in bf16 (R79, R110). -/
def execCospiBf16 (d : VDst) (a : VOp) (s : State) : Out :=
  vec s [⟨a, false⟩] d fun c t => fnWord bf16 .cospi (bf16Val (c.v32 t a))

/-- Correctly rounded `tanh` in bf16 (R79, R110). -/
def execTanhBf16 (d : VDst) (a : VOp) (s : State) : Out :=
  vec s [⟨a, false⟩] d fun c t => fnWord bf16 .tanh (bf16Val (c.v32 t a))

/-- Correctly rounded `sigm` in bf16 (R79, R110). -/
def execSigmBf16 (d : VDst) (a : VOp) (s : State) : Out :=
  vec s [⟨a, false⟩] d fun c t => fnWord bf16 .sigm (bf16Val (c.v32 t a))

/-- Correctly rounded `erf` in bf16 (R79, R110). -/
def execErfBf16 (d : VDst) (a : VOp) (s : State) : Out :=
  vec s [⟨a, false⟩] d fun c t => fnWord bf16 .erf (bf16Val (c.v32 t a))

/-- Correctly rounded `rcp` in bf16 (R79, R110). -/
def execRcpBf16 (d : VDst) (a : VOp) (s : State) : Out :=
  vec s [⟨a, false⟩] d fun c t => roundWord bf16 .rne (divVal (.fin false 1 0) (bf16Val (c.v32 t a)))

/-- Correctly rounded `rsqrt` in bf16 (R79, R110). -/
def execRsqrtBf16 (d : VDst) (a : VOp) (s : State) : Out :=
  vec s [⟨a, false⟩] d fun c t => roundWord bf16 .rne (rsqrtVal (bf16Val (c.v32 t a)))

/-- Correctly rounded `sqrt` in bf16 (R79, R110). -/
def execSqrtBf16 (d : VDst) (a : VOp) (s : State) : Out :=
  vec s [⟨a, false⟩] d fun c t => roundWord bf16 .rne (sqrtVal (bf16Val (c.v32 t a)))

/-- Correctly rounded a / b in bf16 (R79, R110). -/
def execDivBf16 (d : VDst) (a b : VOp) (s : State) : Out :=
  vec s [⟨a, false⟩, ⟨b, false⟩] d fun c t => roundWord bf16 .rne (divVal (bf16Val (c.v32 t a)) (bf16Val (c.v32 t b)))

end Sys2Proof.Machine
end

