-- ==== Sys2Proof/Machine/Pred.lean ====
section
/-! DEFINITION. Compares, predicates, selection, moves, shuffles, reductions, scans and votes (R96 to R102). -/

namespace Sys2Proof.Machine

/-- An integer compare into a predicate (R96). -/
def execSetpI32 (k : ICmp) (d : Fin 8) (a b : VOp) (s : State) : Out :=
  vecP s [⟨a, false⟩, ⟨b, false⟩] d fun c t => cmpS k (c.v32 t a) (c.v32 t b)

/-- An integer compare into a predicate (R96). -/
def execSetpU32 (k : ICmp) (d : Fin 8) (a b : VOp) (s : State) : Out :=
  vecP s [⟨a, false⟩, ⟨b, false⟩] d fun c t => cmpU k (c.v32 t a) (c.v32 t b)

/-- An integer compare into a predicate (R96). -/
def execSetpI64 (k : ICmp) (d : Fin 8) (a b : VOp) (s : State) : Out :=
  vecP s [⟨a, true⟩, ⟨b, true⟩] d fun c t => cmpS k (c.v64 t a) (c.v64 t b)

/-- An f32 compare into a predicate (R97). -/
def execSetpF32 (k : FCmp) (d : Fin 8) (a b : VOp) (s : State) : Out :=
  vecP s [⟨a, false⟩, ⟨b, false⟩] d fun c t => cmpF k (f32Val (c.v32 t a)) (f32Val (c.v32 t b))

/-- An ordered f16 compare into a predicate (R97). -/
def execSetpF16 (k : ICmp) (d : Fin 8) (a b : VOp) (s : State) : Out :=
  vecP s [⟨a, false⟩, ⟨b, false⟩] d fun c t => cmpOrd k (f16Val (c.v32 t a)) (f16Val (c.v32 t b))

/-- An ordered bf16 compare into a predicate (R97). -/
def execSetpBf16 (k : ICmp) (d : Fin 8) (a b : VOp) (s : State) : Out :=
  vecP s [⟨a, false⟩, ⟨b, false⟩] d fun c t => cmpOrd k (bf16Val (c.v32 t a)) (bf16Val (c.v32 t b))

/-- Predicates combined per performing thread (R98). -/
def execPand (d a b : Fin 8) (s : State) : Out :=
  vecP s [] d fun c t => c.wave.preg a t && c.wave.preg b t

/-- Predicates combined per performing thread (R98). -/
def execPor (d a b : Fin 8) (s : State) : Out :=
  vecP s [] d fun c t => c.wave.preg a t || c.wave.preg b t

/-- Predicate exclusive or (R98). -/
def execPxor (d a b : Fin 8) (s : State) : Out :=
  vecP s [] d fun c t => xor (c.wave.preg a t) (c.wave.preg b t)

/-- Predicate complement (R98). -/
def execPnot (d a : Fin 8) (s : State) : Out :=
  vecP s [] d fun c t => !c.wave.preg a t

/-- a and not b on predicates (R98). -/
def execPandn (d a b : Fin 8) (s : State) : Out :=
  vecP s [] d fun c t => c.wave.preg a t && !c.wave.preg b t

/-- a where the predicate, with its sense, is true, and b otherwise (R99). -/
def execSelB32 (d : VDst) (a b : VOp) (e : Bool) (p : Fin 8) (s : State) : Out :=
  vec s [⟨a, false⟩, ⟨b, false⟩] d fun c t => if xor (c.wave.preg p t) e then c.v32 t a else c.v32 t b

/-- A 32-bit operand copied (R100). -/
def execMovB32 (d : VDst) (a : VOp) (s : State) : Out := vec s [⟨a, false⟩] d fun c t => c.v32 t a

/-- A 64-bit operand copied (R100). -/
def execMovB64 (d : VDst) (a : VOp) (s : State) : Out := vec64 s [⟨a, true⟩] d fun c t => c.v64 t a

/-- What a shuffle gives thread `t` from source `j`: `a[j]` where j performs, its own `a[t]` otherwise (R101). -/
def Ctx.shuffled (c : Ctx) (a : VOp) (t : Nat) (j : Option Nat) : Word :=
  match j with
  | some u => if c.perf.contains u then c.v32 u a else c.v32 t a
  | none => c.v32 t a

/-- a from an indexed thread of the path (R101). -/
def execShflIdx (d : VDst) (a b : VOp) (s : State) : Out :=
  vec s [⟨a, false⟩, ⟨b, false⟩] d fun c t => c.shuffled a t (some ((c.v32 t b).toNat % 32))

/-- a from a lower thread of the path (R101). -/
def execShflUp (d : VDst) (a b : VOp) (s : State) : Out :=
  vec s [⟨a, false⟩, ⟨b, false⟩] d fun c t => c.shuffled a t (if (c.v32 t b).toNat ≤ t then some (t - (c.v32 t b).toNat) else none)

/-- a from a higher thread of the path (R101). -/
def execShflDown (d : VDst) (a b : VOp) (s : State) : Out :=
  vec s [⟨a, false⟩, ⟨b, false⟩] d fun c t => c.shuffled a t (if t + (c.v32 t b).toNat ≤ 31 then some (t + (c.v32 t b).toNat) else none)

/-- a from the thread at index xor b of the path (R101). -/
def execShflXor (d : VDst) (a b : VOp) (s : State) : Out :=
  vec s [⟨a, false⟩, ⟨b, false⟩] d fun c t => c.shuffled a t (some (t ^^^ ((c.v32 t b).toNat % 32)))

/-- The operands of the performing threads, ascending (R102). -/
def Ctx.terms (c : Ctx) (a : VOp) : List Word := c.perf.map fun t => c.v32 t a

/-- The operands of the performing threads up to `t`, and below `t`. -/
def Ctx.upTo (c : Ctx) (a : VOp) (t : Nat) : List Word := (c.perf.filter (· ≤ t)).map fun u => c.v32 u a
def Ctx.below (c : Ctx) (a : VOp) (t : Nat) : List Word := (c.perf.filter (· < t)).map fun u => c.v32 u a

/-- A wrapping sum. -/
def sumW (xs : List Word) : Word := xs.foldl (· + ·) 0
/-- An exact f32 sum, rounded once (R102). -/
def sumF (xs : List Word) : Word := roundWord fp32 .rne (sumVals (xs.map f32Val))
/-- The first term folded with the others. -/
def foldW (f : Word → Word → Word) : List Word → Word
  | [] => 0
  | x :: xs => xs.foldl f x

/-- The wrapping sum, over the performing threads (R102). -/
def execWredAddI32 (d : VDst) (a : VOp) (s : State) : Out :=
  vec s [⟨a, false⟩] d fun c _ => sumW (c.terms a)

/-- The signed least, over the performing threads (R102). -/
def execWredMinI32 (d : VDst) (a : VOp) (s : State) : Out :=
  vec s [⟨a, false⟩] d fun c _ => foldW minS (c.terms a)

/-- The signed greatest, over the performing threads (R102). -/
def execWredMaxI32 (d : VDst) (a : VOp) (s : State) : Out :=
  vec s [⟨a, false⟩] d fun c _ => foldW maxS (c.terms a)

/-- The exact f32 sum rounded once, over the performing threads (R102). -/
def execWredAddF32 (d : VDst) (a : VOp) (s : State) : Out :=
  vec s [⟨a, false⟩] d fun c _ => sumF (c.terms a)

/-- Whether any operand is not 0, over the performing threads (R102). -/
def execVoteAny (d : VDst) (a : VOp) (s : State) : Out :=
  vec s [⟨a, false⟩] d fun c _ => if (c.terms a).any (· != 0) then 1 else 0

/-- Whether every operand is not 0, over the performing threads (R102). -/
def execVoteAll (d : VDst) (a : VOp) (s : State) : Out :=
  vec s [⟨a, false⟩] d fun c _ => if (c.terms a).all (· != 0) then 1 else 0

/-- The mask of operands that are not 0, over the performing threads (R102). -/
def execVoteBallot (d : VDst) (a : VOp) (s : State) : Out :=
  vec s [⟨a, false⟩] d fun c _ => maskOf (c.perf.filter fun u => c.v32 u a != 0)

/-- The bitwise and, over the performing threads (R102). -/
def execWredAndB32 (d : VDst) (a : VOp) (s : State) : Out :=
  vec s [⟨a, false⟩] d fun c _ => foldW (· &&& ·) (c.terms a)

/-- The bitwise or, over the performing threads (R102). -/
def execWredOrB32 (d : VDst) (a : VOp) (s : State) : Out :=
  vec s [⟨a, false⟩] d fun c _ => foldW (· ||| ·) (c.terms a)

/-- Inclusive sums, over the performing threads in ascending order (R102). -/
def execWscanAddI32 (d : VDst) (a : VOp) (s : State) : Out :=
  vec s [⟨a, false⟩] d fun c t => sumW (c.upTo a t)

/-- Exclusive sums, over the performing threads in ascending order (R102). -/
def execWscanAddxI32 (d : VDst) (a : VOp) (s : State) : Out :=
  vec s [⟨a, false⟩] d fun c t => sumW (c.below a t)

/-- Inclusive exact f32 sums, each rounded once, over the performing threads in ascending order (R102). -/
def execWscanAddF32 (d : VDst) (a : VOp) (s : State) : Out :=
  vec s [⟨a, false⟩] d fun c t => sumF (c.upTo a t)

end Sys2Proof.Machine
end

