-- ==== Sys2Proof/Machine/Gate.lean ====
section
/-! DEFINITION. The gate unit and the wave intersect instruction (R278, R279, R288 to R293). -/

namespace Sys2Proof.Machine

/-! ### Issue (R288) -/

/-- Rounded up to a multiple of 16. -/
def up16 (n : Nat) : Nat := (n + 15) / 16 * 16

/-- What a gate word checks of its high operand word: in range, other bits 0. -/
def gateParam (kind : GKind) (hi : Word) : Bool :=
  let n := (hi.extractLsb' 0 16).toNat
  let m := (hi.extractLsb' 16 16).toNat
  match kind with
  | .topk _ _ _ _ => decide (1 ≤ n) && decide (n ≤ 4096) && m == 0
  | .hist _ _ => decide (1 ≤ n) && decide (n ≤ 4096) && m == 0
  | .scan _ _ _ => decide (1 ≤ n) && m == 0
  | .perm _ => decide (1 ≤ n) && decide (n ≤ 4096) && decide (1 ≤ m)

/-- Alignment of the source and of the destination. -/
def gateAlign : GKind → Nat × Nat
  | .topk _ _ _ _ => (16, 16)
  | .hist _ _ => (16, 4)
  | .scan _ _ _ => (4, 4)
  | .perm _ => (16, 16)

/-- The source and destination ranges checked at issue. -/
def gateRanges (kind : GKind) (a lo : Nat) (hi : Word) : List Range :=
  let n := (hi.extractLsb' 0 16).toNat
  let m := (hi.extractLsb' 16 16).toNat
  let entry (pair : Bool) : Nat := if pair then 8 else 4
  match kind with
  | .topk pair _ _ _ => [(false, a, 16), (false, lo, 16 + n * entry pair)]
  | .hist _ _ => [(false, a, 16), (false, lo, 4 * (n + 1))]
  | .scan total _ _ => [(false, a, 4 * n), (false, lo, if total then 4 * (n + 1) else 4 * n)]
  | .perm pair => [(false, a, 16), (false, lo, up16 (4 * (2 * n + 1)) + 16 + m * entry pair)]

/-- A gate word: its checks, then one request for the wave. -/
def gate (s : State) (kind : GKind) (a b : VOp) : Out :=
  atP0 s fun c =>
    match c.perf with
    | [] => s.complete c []
    | t :: _ =>
      let ea (t : Nat) : Nat := (c.v32 t a).toNat
      let lo (t : Nat) : Nat := ((c.v64 t b).extractLsb' 0 32).toNat
      let hi (t : Nat) : Word := (c.v64 t b).extractLsb' 32 32
      s.unless c (c.srcTrap c.perf [⟨a, false⟩, ⟨b, true⟩]
          <|> agreeTrap [fun t => (c.v32 t a).setWidth 64, fun t => c.v64 t b] c.perf
          <|> failWith .stream 9 (fun t => if gateParam kind (hi t) then none else some (ea t)) c.perf
          <|> failWith .align 0 (fun t =>
                if ea t % (gateAlign kind).1 ≠ 0 then some (ea t)
                else if lo t % (gateAlign kind).2 ≠ 0 then some (lo t) else none) c.perf
          <|> failWith .perm 0 (fun t =>
                if notSpace0 (ea t) then some (ea t) else if notSpace0 (lo t) then some (lo t) else none) c.perf
          <|> s.rangeTrap c (fun t => gateRanges kind (ea t) (lo t) (hi t)) c.perf)
        (((s.drain c.ref.group c.ref.wix).modWave c.ref.group c.ref.wix fun w =>
          { w with gq := w.gq ++ [⟨kind, t, c.v32 t a, BitVec.ofNat 32 (lo t), hi t, c.path.split⟩] }).complete c c.perf)

/-- `gtopk` (R288). -/
def execGtopk (a b : VOp) (o e : Bool) (m : MergeKind) (u : Bool) (s : State) : Out := gate s (.topk o e m u) a b
/-- `ghist` (R288). -/
def execGhist (a b : VOp) (w n : Bool) (s : State) : Out := gate s (.hist w n) a b
/-- `gscan` (R288). -/
def execGscan (a b : VOp) (t f n : Bool) (s : State) : Out := gate s (.scan t f n) a b
/-- `gperm` (R288). -/
def execGperm (a b : VOp) (o : Bool) (s : State) : Out := gate s (.perm o) a b

/-! ### Source lists (R278, R279) -/

/-- A 32-bit unit that a gate unit reads: an uncorrectable one is taken as zero. -/
def State.gateWord (s : State) (g : Group) (ea : Nat) : Word × Bool :=
  if s.engSpBad g ea 4 then (0, true) else (BitVec.ofNat 32 (leNat (s.engSpRead g ea 4)), false)

/-- A source list as a consumer takes it: entries (key, id), its flags, and whether it was clamped or poisoned. -/
structure SrcList where
  entries : List (Word × Word)
  pair    : Bool
  fkey    : Bool
  trunc   : Bool
  clamped : Bool
  psn     : Bool
deriving DecidableEq, Repr

/-- Entries of `size` bytes that end within the group that holds the list. -/
def State.listFits (s : State) (g : Group) (ea size : Nat) : Nat :=
  match s.target g (ea / 2 ^ 24 % 64) with
  | none => 0
  | some x => (x.spsize - (ea % 2 ^ 24 + 16)) / size

/-- The list at a cluster address. An id-list entry has the integer key 1. -/
def State.readList (s : State) (g : Group) (ea : Nat) : SrcList :=
  let nw := s.gateWord g (ea + 4)
  let fl := s.gateWord g (ea + 8)
  let pair := fl.1.getLsbD 1
  let size := if pair then 8 else 4
  let n := min nw.1.toNat (min 65535 (s.listFits g ea size))
  let xs := (List.range n).map fun i =>
    if pair then (s.gateWord g (ea + 16 + 8 * i), s.gateWord g (ea + 20 + 8 * i))
    else ((1, false), s.gateWord g (ea + 16 + 4 * i))
  { entries := xs.map fun x => (x.1.1, x.2.1), pair := pair, fkey := fl.1.getLsbD 2, trunc := fl.1.getLsbD 0,
    clamped := decide (n < nw.1.toNat), psn := nw.2 || fl.2 || xs.any fun x => x.1.2 || x.2.2 }

/-! ### `gtopk` (R289) -/

/-- The keys of one id merged into one. -/
def mergeKeys (m : MergeKind) (fkey : Bool) (ks : List Word) : Word :=
  match ks with
  | [] => 0
  | k :: r =>
    match m with
    | .sum => if fkey then sumF ks else ks.foldl (· + ·) 0
    | .max => r.foldl (fun x y => if fkey then fminBits fp32 f32Val false x y else maxS x y) k
    | .first => k

/-- One entry per id, at the place of its first one; `seen` are the ids before it. -/
def dedup (m : MergeKind) (fkey : Bool) (all : List (Word × Word)) : (seen : List Word) → List (Word × Word) → List (Word × Word)
  | _, [] => []
  | seen, (_, i) :: r =>
    if seen.contains i then dedup m fkey all seen r
    else (mergeKeys m fkey ((all.filter fun x => x.2 == i).map Prod.fst), i) :: dedup m fkey all (i :: seen) r

/-- A key stands before another: integers as signed numbers, FP32 with NaN last; `none` when they tie. -/
def keyBefore (asc fkey : Bool) (x y : Word) : Option Bool :=
  if fkey then
    let a := f32Val x
    let b := f32Val y
    if a.isNan ∨ b.isNan then (if a.isNan ∧ b.isNan then none else some b.isNan)
    else if a.lt b then some asc else if b.lt a then some (!asc) else none
  else if x.slt y then some asc else if y.slt x then some (!asc) else none

/-- The order of entries: by key, then by id; ties keep their positions. -/
def entryBefore (before : Word → Word → Option Bool) (x y : Word × Word) : Bool :=
  match before x.1 y.1 with
  | some b => b
  | none => x.2.ult y.2

/-- An entry put behind every entry that does not come after it. -/
def insertEntry (before : Word → Word → Option Bool) (x : Word × Word) : List (Word × Word) → List (Word × Word)
  | [] => [x]
  | y :: ys => if entryBefore before x y then x :: y :: ys else y :: insertEntry before x ys

def sortEntries (before : Word → Word → Option Bool) (xs : List (Word × Word)) : List (Word × Word) :=
  xs.foldl (fun acc x => insertEntry before x acc) []

/-- Entries as bytes. -/
def entryBytes (pair : Bool) (xs : List (Word × Word)) : List Byte :=
  xs.flatMap fun x => if pair then leBytes 4 x.1.toNat ++ leBytes 4 x.2.toNat else leBytes 4 x.2.toNat

/-! ### Performing -/

def State.popGate (s : State) (e : Eng) : State := s.modEng e fun w => { w with gq := w.gq.tail }

/-- The request writes nothing and records an error. -/
def State.gateErr (s : State) (e : Eng) (r : GReq) (cause sub : Nat) (addr : Word) : State :=
  (s.popGate e).modEng e fun w => { w with gErr := addErr w.gErr ⟨cause, sub, addr.setWidth 64, r.thread, [], 0⟩ }

/-- The request writes nothing and records STREAM, reason 10 (R288). -/
def State.gateFail (s : State) (e : Eng) (r : GReq) : State := s.gateErr e r 0x0D 10 r.a

/-- The request goes on, unless its destination lies behind a route that fails every transfer (R201, R215; log 12). -/
def State.gateOut (s : State) (e : Eng) (r : GReq) (k : State) : State :=
  if s.engSpDown e.group r.lo.toNat then s.gateErr e r 0x11 0 r.lo else k

/-- Units taken as zero that no header can report (R288). -/
def State.gatePsn (s : State) (e : Eng) (r : GReq) (psn : Bool) : State :=
  if psn then s.logError e.group.die 10 true false e.group.core (Config.logDetail [e.wave.wslot]) (r.a.setWidth 64) else s

/-- `gtopk` performed (R289). -/
def State.gateTopk (s : State) (e : Eng) (r : GReq) (outpair asc : Bool) (m : MergeKind) (dd : Bool) : State :=
  let src := s.readList e.group r.a.toNat
  let es := sortEntries (keyBefore asc src.fkey) (if dd then dedup m src.fkey src.entries [] src.entries else src.entries)
  let out := es.take (r.hi.extractLsb' 0 16).toNat
  s.gateOut e r ((s.writeList e.group r.lo.toNat
    (listHead es.length out.length (src.trunc || src.clamped) outpair src.fkey false src.psn) (entryBytes outpair out)).popGate e)

/-- The counts after an entry (R290). -/
def countEntry (bins : Nat) (weight : Bool) (c : List Word) (x : Word × Word) : List Word :=
  modAt (· + if weight then x.1 else 1) (min x.2.toNat bins) c

/-- Words of an array, each taken as zero when it is bad. -/
def State.gateWords (s : State) (g : Group) (ea n : Nat) : List Word × Bool :=
  let xs := (List.range n).map fun i => s.gateWord g (ea + 4 * i)
  (xs.map Prod.fst, xs.any Prod.snd)

def wordBytes (xs : List Word) : List Byte := xs.flatMap fun x => leBytes 4 x.toNat

/-- `ghist` performed (R290). -/
def State.gateHist (s : State) (e : Eng) (r : GReq) (weight add : Bool) : State :=
  let src := s.readList e.group r.a.toNat
  if weight && src.pair && src.fkey then s.gateFail e r
  else
    let bins := (r.hi.extractLsb' 0 16).toNat
    let old := if add then s.gateWords e.group r.lo.toNat (bins + 1) else (List.replicate (bins + 1) 0, false)
    let c := src.entries.foldl (countEntry bins (weight && src.pair)) old.1
    s.gateOut e r (((s.engSpWrite e.group r.lo.toNat (wordBytes c)).gatePsn e r (src.psn || old.2)).popGate e)

/-- `gscan` performed (R291). -/
def State.gateScan (s : State) (e : Eng) (r : GReq) (total f32 incl : Bool) : State :=
  let n := (r.hi.extractLsb' 0 16).toNat
  let v := s.gateWords e.group r.a.toNat n
  let sum (xs : List Word) : Word := if f32 then (if xs = [] then 0 else sumF xs) else xs.foldl (· + ·) 0
  let d := (List.range n).map fun i => sum (v.1.take (if incl then i + 1 else i))
  let out := if total then d ++ [sum v.1] else d
  s.gateOut e r (((s.engSpWrite e.group r.lo.toNat (wordBytes out)).gatePsn e r v.2).popGate e)

/-- `gperm` performed (R292). -/
def State.gatePerm (s : State) (e : Eng) (r : GReq) (outpair : Bool) : State :=
  let src := s.readList e.group r.a.toNat
  if src.fkey then s.gateFail e r
  else
    let E := (r.hi.extractLsb' 0 16).toNat
    let cap := (r.hi.extractLsb' 16 16).toNat
    let v := src.entries.filter fun x => decide (x.1.toNat < E)
    let cnt := (List.range E).map fun x => BitVec.ofNat 32 (v.filter fun y => y.1.toNat == x).length
    let off := (List.range (E + 1)).map fun x => BitVec.ofNat 32 (v.filter fun y => decide (y.1.toNat < x)).length
    let before (x y : Word) : Option Bool := if x = y then none else some (x.ult y)
    let out := (sortEntries before v).take cap
    let s1 := s.engSpWrite e.group r.lo.toNat (wordBytes (cnt ++ off))
    s.gateOut e r ((s1.writeList e.group (r.lo.toNat + up16 (4 * (2 * E + 1)))
      (listHead v.length out.length (decide (cap < v.length) || src.clamped) outpair false false src.psn)
      (entryBytes outpair out)).popGate e)

/-- A request of one kind at the head of a wave's gate queue is performed. -/
def gateEvent (w : WaveRef) (s : State) (k : Eng → GReq → Option State) : Out :=
  onWave s w fun e =>
    match e.wave.gq with
    | [] => s
    | r :: _ => (k e r).getD s

/-- GTOPK_REQUEST. -/
def execGtopkRequest (w : WaveRef) (s : State) : Out :=
  gateEvent w s fun e r => match r.kind with
    | .topk o a m d => some (s.gateTopk e r o a m d)
    | _ => none

/-- GHIST_REQUEST. -/
def execGhistRequest (w : WaveRef) (s : State) : Out :=
  gateEvent w s fun e r => match r.kind with
    | .hist x y => some (s.gateHist e r x y)
    | _ => none

/-- GSCAN_REQUEST. -/
def execGscanRequest (w : WaveRef) (s : State) : Out :=
  gateEvent w s fun e r => match r.kind with
    | .scan x y z => some (s.gateScan e r x y z)
    | _ => none

/-- GPERM_REQUEST. -/
def execGpermRequest (w : WaveRef) (s : State) : Out :=
  gateEvent w s fun e r => match r.kind with
    | .perm o => some (s.gatePerm e r o)
    | _ => none

/-! ### ISECT (R293) -/

/-- The pairs (i, j): for each i in order the least j with B[j] = A[i]. -/
def matchPairs (as bs : List Word) : List (Nat × Nat) :=
  (List.range as.length).filterMap fun i => (bs.findIdx? fun y => y == as.getD i 0).map fun j => (i, j)

/-- The 64-bit result of the k-th performing thread. -/
def isectOf (as bs : List Word) (k : Nat) : DWord :=
  let ps := matchPairs as bs
  let lo : Nat := match ps[k]? with
    | some (i, j) => i + 256 * j + 2 ^ 31
    | none => 0
  let advA := (as.filter fun x => decide (x.toNat ≤ (bs.getLastD 0).toNat)).length
  let advB := (bs.filter fun x => decide (x.toNat ≤ (as.getLastD 0).toNat)).length
  pair (BitVec.ofNat 32 lo) (BitVec.ofNat 32 (ps.length + 256 * advA + 65536 * advB))

/-- `isect` (R293). -/
def execIsect (d : VDst) (a b : VOp) (s : State) : Out :=
  vec64 s [⟨a, false⟩, ⟨b, false⟩] d fun c t =>
    isectOf (c.perf.map fun u => c.v32 u a) (c.perf.map fun u => c.v32 u b) (c.perf.findIdx fun u => u == t)

end Sys2Proof.Machine
end

