-- ==== Sys2Proof/Machine/Int.lean ====
section
/-! DEFINITION. Integer, logic and bit-field words (R91 to R95). -/

namespace Sys2Proof.Machine

/-- Wrapping sum (R91). -/
def execAddI32 (d : VDst) (a b : VOp) (s : State) : Out :=
  vec s [⟨a, false⟩, ⟨b, false⟩] d fun c t => c.v32 t a + c.v32 t b

/-- Wrapping difference (R91). -/
def execSubI32 (d : VDst) (a b : VOp) (s : State) : Out :=
  vec s [⟨a, false⟩, ⟨b, false⟩] d fun c t => c.v32 t a - c.v32 t b

/-- Low half of the product (R91). -/
def execMulI32 (d : VDst) (a b : VOp) (s : State) : Out :=
  vec s [⟨a, false⟩, ⟨b, false⟩] d fun c t => c.v32 t a * c.v32 t b

/-- High half of the signed product (R91). -/
def execMulhiI32 (d : VDst) (a b : VOp) (s : State) : Out :=
  vec s [⟨a, false⟩, ⟨b, false⟩] d fun c t => mulhiS (c.v32 t a) (c.v32 t b)

/-- High half of the unsigned product (R91). -/
def execMulhiU32 (d : VDst) (a b : VOp) (s : State) : Out :=
  vec s [⟨a, false⟩, ⟨b, false⟩] d fun c t => mulhiU (c.v32 t a) (c.v32 t b)

/-- Saturating signed sum (R91). -/
def execAddsI32 (d : VDst) (a b : VOp) (s : State) : Out :=
  vec s [⟨a, false⟩, ⟨b, false⟩] d fun c t => satS ((c.v32 t a).toInt + (c.v32 t b).toInt)

/-- Saturating signed difference (R91). -/
def execSubsI32 (d : VDst) (a b : VOp) (s : State) : Out :=
  vec s [⟨a, false⟩, ⟨b, false⟩] d fun c t => satS ((c.v32 t a).toInt - (c.v32 t b).toInt)

/-- Saturating unsigned sum (R91). -/
def execAddsU32 (d : VDst) (a b : VOp) (s : State) : Out :=
  vec s [⟨a, false⟩, ⟨b, false⟩] d fun c t => satU (((c.v32 t a).toNat : Int) + (c.v32 t b).toNat)

/-- Saturating unsigned difference (R91). -/
def execSubsU32 (d : VDst) (a b : VOp) (s : State) : Out :=
  vec s [⟨a, false⟩, ⟨b, false⟩] d fun c t => satU (((c.v32 t a).toNat : Int) - (c.v32 t b).toNat)

/-- Signed lesser (R91). -/
def execMinI32 (d : VDst) (a b : VOp) (s : State) : Out :=
  vec s [⟨a, false⟩, ⟨b, false⟩] d fun c t => minS (c.v32 t a) (c.v32 t b)

/-- Signed greater (R91). -/
def execMaxI32 (d : VDst) (a b : VOp) (s : State) : Out :=
  vec s [⟨a, false⟩, ⟨b, false⟩] d fun c t => maxS (c.v32 t a) (c.v32 t b)

/-- Unsigned lesser (R91). -/
def execMinU32 (d : VDst) (a b : VOp) (s : State) : Out :=
  vec s [⟨a, false⟩, ⟨b, false⟩] d fun c t => minU (c.v32 t a) (c.v32 t b)

/-- Unsigned greater (R91). -/
def execMaxU32 (d : VDst) (a b : VOp) (s : State) : Out :=
  vec s [⟨a, false⟩, ⟨b, false⟩] d fun c t => maxU (c.v32 t a) (c.v32 t b)

/-- Saturating absolute value (R91). -/
def execAbsI32 (d : VDst) (a : VOp) (s : State) : Out :=
  vec s [⟨a, false⟩] d fun c t => satS ((c.v32 t a).toInt.natAbs : Int)

/-- Bitwise and (R94). -/
def execAndB32 (d : VDst) (a b : VOp) (s : State) : Out :=
  vec s [⟨a, false⟩, ⟨b, false⟩] d fun c t => c.v32 t a &&& c.v32 t b

/-- Bitwise or (R94). -/
def execOrB32 (d : VDst) (a b : VOp) (s : State) : Out :=
  vec s [⟨a, false⟩, ⟨b, false⟩] d fun c t => c.v32 t a ||| c.v32 t b

/-- Bitwise exclusive or (R94). -/
def execXorB32 (d : VDst) (a b : VOp) (s : State) : Out :=
  vec s [⟨a, false⟩, ⟨b, false⟩] d fun c t => c.v32 t a ^^^ c.v32 t b

/-- a and not b (R94). -/
def execAndnB32 (d : VDst) (a b : VOp) (s : State) : Out :=
  vec s [⟨a, false⟩, ⟨b, false⟩] d fun c t => c.v32 t a &&& ~~~(c.v32 t b)

/-- Shift left (R94). -/
def execShlB32 (d : VDst) (a b : VOp) (s : State) : Out :=
  vec s [⟨a, false⟩, ⟨b, false⟩] d fun c t => shl (c.v32 t a) (c.v32 t b).toNat

/-- Logical shift right (R94). -/
def execShrU32 (d : VDst) (a b : VOp) (s : State) : Out :=
  vec s [⟨a, false⟩, ⟨b, false⟩] d fun c t => shrU (c.v32 t a) (c.v32 t b).toNat

/-- Arithmetic shift right (R94). -/
def execShrI32 (d : VDst) (a b : VOp) (s : State) : Out :=
  vec s [⟨a, false⟩, ⟨b, false⟩] d fun c t => shrS (c.v32 t a) (c.v32 t b).toNat

/-- Rotate left (R94). -/
def execRotlB32 (d : VDst) (a b : VOp) (s : State) : Out :=
  vec s [⟨a, false⟩, ⟨b, false⟩] d fun c t => rotl (c.v32 t a) (c.v32 t b).toNat

/-- Number of set bits (R94). -/
def execPopcB32 (d : VDst) (a : VOp) (s : State) : Out :=
  vec s [⟨a, false⟩] d fun c t => popc (c.v32 t a)

/-- Number of leading zero bits (R94). -/
def execClzB32 (d : VDst) (a : VOp) (s : State) : Out :=
  vec s [⟨a, false⟩] d fun c t => clz (c.v32 t a)

/-- Bits reversed (R94). -/
def execBrevB32 (d : VDst) (a : VOp) (s : State) : Out :=
  vec s [⟨a, false⟩] d fun c t => brev (c.v32 t a)

/-- Bitwise complement (R94). -/
def execNotB32 (d : VDst) (a : VOp) (s : State) : Out :=
  vec s [⟨a, false⟩] d fun c t => ~~~(c.v32 t a)

/-- Bit field extracted (R95). -/
def execBfeU32 (d : VDst) (a b : VOp) (s : State) : Out :=
  vec s [⟨a, false⟩, ⟨b, false⟩] d fun c t => bfeU (c.v32 t a) (c.v32 t b)

/-- Bit field extracted (R95). -/
def execBfeI32 (d : VDst) (a b : VOp) (s : State) : Out :=
  vec s [⟨a, false⟩, ⟨b, false⟩] d fun c t => bfeS (c.v32 t a) (c.v32 t b)

/-- Bit field inserted into d (R95). -/
def execBfiB32 (d : VDst) (a b : VOp) (s : State) : Out :=
  vec s [⟨(srcOf d), false⟩, ⟨a, false⟩, ⟨b, false⟩] d fun c t => bfi (c.v32 t (srcOf d)) (c.v32 t a) (c.v32 t b)

/-- Bits of a or b selected by d (R95). -/
def execBselB32 (d : VDst) (a b : VOp) (s : State) : Out :=
  vec s [⟨(srcOf d), false⟩, ⟨a, false⟩, ⟨b, false⟩] d fun c t => bsel (c.v32 t (srcOf d)) (c.v32 t a) (c.v32 t b)

/-- Wrapping sum, 64 bits (R93). -/
def execAddI64 (d : VDst) (a b : VOp) (s : State) : Out :=
  vec64 s [⟨a, true⟩, ⟨b, true⟩] d fun c t => c.v64 t a + c.v64 t b

/-- Wrapping difference, 64 bits (R93). -/
def execSubI64 (d : VDst) (a b : VOp) (s : State) : Out :=
  vec64 s [⟨a, true⟩, ⟨b, true⟩] d fun c t => c.v64 t a - c.v64 t b

/-- Low half of the product, 64 bits (R93). -/
def execMulI64 (d : VDst) (a b : VOp) (s : State) : Out :=
  vec64 s [⟨a, true⟩, ⟨b, true⟩] d fun c t => c.v64 t a * c.v64 t b

/-- Signed lesser, 64 bits (R93). -/
def execMinI64 (d : VDst) (a b : VOp) (s : State) : Out :=
  vec64 s [⟨a, true⟩, ⟨b, true⟩] d fun c t => minS (c.v64 t a) (c.v64 t b)

/-- Signed greater, 64 bits (R93). -/
def execMaxI64 (d : VDst) (a b : VOp) (s : State) : Out :=
  vec64 s [⟨a, true⟩, ⟨b, true⟩] d fun c t => maxS (c.v64 t a) (c.v64 t b)

/-- Shift left, 64 bits (R93). -/
def execShlB64 (d : VDst) (a b : VOp) (s : State) : Out :=
  vec64 s [⟨a, true⟩, ⟨b, false⟩] d fun c t => shl (c.v64 t a) (c.v32 t b).toNat

/-- Logical shift right, 64 bits (R93). -/
def execShrU64 (d : VDst) (a b : VOp) (s : State) : Out :=
  vec64 s [⟨a, true⟩, ⟨b, false⟩] d fun c t => shrU (c.v64 t a) (c.v32 t b).toNat

/-- Arithmetic shift right, 64 bits (R93). -/
def execShrI64 (d : VDst) (a b : VOp) (s : State) : Out :=
  vec64 s [⟨a, true⟩, ⟨b, false⟩] d fun c t => shrS (c.v64 t a) (c.v32 t b).toNat

/-- Exact signed product (R93). -/
def execMulwideI32 (d : VDst) (a b : VOp) (s : State) : Out :=
  vec64 s [⟨a, false⟩, ⟨b, false⟩] d fun c t => BitVec.ofInt 64 ((c.v32 t a).toInt * (c.v32 t b).toInt)

/-- Exact unsigned product (R93). -/
def execMulwideU32 (d : VDst) (a b : VOp) (s : State) : Out :=
  vec64 s [⟨a, false⟩, ⟨b, false⟩] d fun c t => BitVec.ofNat 64 ((c.v32 t a).toNat * (c.v32 t b).toNat)

/-- a × b + d in 32 bits; d is read before it is written (R93). -/
def execMadI32 (d : VDst) (a b : VOp) (s : State) : Out :=
  vec s [⟨a, false⟩, ⟨b, false⟩, ⟨(srcOf d), false⟩] d fun c t => c.v32 t a * c.v32 t b + c.v32 t (srcOf d)

/-- a × b + d in 64 bits (R93). -/
def execMadI64 (d : VDst) (a b : VOp) (s : State) : Out :=
  vec64 s [⟨a, true⟩, ⟨b, true⟩, ⟨(srcOf d), true⟩] d fun c t => c.v64 t a * c.v64 t b + c.v64 t (srcOf d)

/-- Wrapping sum, with an immediate (R92). -/
def execAddI32Imm (d : VDst) (a : VOp) (i : BitVec 11) (s : State) : Out :=
  vec s [⟨a, false⟩] d fun c t => c.v32 t a + i.signExtend 32

/-- Low half of the product, with an immediate (R92). -/
def execMulI32Imm (d : VDst) (a : VOp) (i : BitVec 11) (s : State) : Out :=
  vec s [⟨a, false⟩] d fun c t => c.v32 t a * i.signExtend 32

/-- Bitwise and, with an immediate (R92). -/
def execAndB32Imm (d : VDst) (a : VOp) (i : BitVec 11) (s : State) : Out :=
  vec s [⟨a, false⟩] d fun c t => c.v32 t a &&& i.signExtend 32

/-- Bitwise or, with an immediate (R92). -/
def execOrB32Imm (d : VDst) (a : VOp) (i : BitVec 11) (s : State) : Out :=
  vec s [⟨a, false⟩] d fun c t => c.v32 t a ||| i.signExtend 32

/-- Bitwise exclusive or, with an immediate (R92). -/
def execXorB32Imm (d : VDst) (a : VOp) (i : BitVec 11) (s : State) : Out :=
  vec s [⟨a, false⟩] d fun c t => c.v32 t a ^^^ i.signExtend 32

/-- Shift left by 0 to 31, with an immediate (R92). -/
def execShlB32Imm (d : VDst) (a : VOp) (i : BitVec 11) (s : State) : Out :=
  vec s [⟨a, false⟩] d fun c t => shl (c.v32 t a) i.toNat

/-- Logical shift right by 0 to 31, with an immediate (R92). -/
def execShrU32Imm (d : VDst) (a : VOp) (i : BitVec 11) (s : State) : Out :=
  vec s [⟨a, false⟩] d fun c t => shrU (c.v32 t a) i.toNat

/-- Arithmetic shift right by 0 to 31, with an immediate (R92). -/
def execShrI32Imm (d : VDst) (a : VOp) (i : BitVec 11) (s : State) : Out :=
  vec s [⟨a, false⟩] d fun c t => shrS (c.v32 t a) i.toNat

/-- A sign-extended immediate (R92). -/
def execMovB32Imm (d : VDst) (i : BitVec 11) (s : State) : Out :=
  vec s [] d fun _ _ => i.signExtend 32

end Sys2Proof.Machine
end

