-- ==== Sys2Proof/Machine/Matrix.lean ====
section
/-! DEFINITION. The matrix engine and the accumulator store (R81 to R86, R174 to R199). -/

namespace Sys2Proof.Machine

/-! ### Tiles (R81 to R84, R192) -/

def Tile.val (T : Tile) (i j : Nat) : Val := accVal (T.m.get (64 * i + j)) T.x

/-- Every place of a tile. -/
def tilePlaces : List (Nat × Nat) := (List.range 64).flatMap fun i => (List.range 64).map fun j => (i, j)

/-- A tile as an instruction reads it: lost elements are NaN and set `AERR` (R192). The exponent stays (log 97). -/
def Tile.heal (T : Tile) : Tile :=
  if T.badX then
    { T with m := tilePlaces.foldl (fun m p => m.set (64 * p.1 + p.2) accNan) [], aerr := true, bad := [], badX := false }
  else if T.bad ≠ [] then { T with m := T.bad.foldl (fun m k => m.set k accNan) T.m, aerr := true, bad := [] }
  else T

/-- A new element: a special code, or an integer before the range check. -/
inductive NewElem where
  | code (m : BitVec 48)
  | num (n : Int)
deriving DecidableEq, Repr

/-- An element's update by an exact dot product (R83, R84). -/
def newElem (m : BitVec 48) (x : Int) (s : Val) : NewElem :=
  match accVal m x, s with
  | .nan, _ => .code accNan
  | .inf _, .nan => .code accNan
  | .inf a, .inf b => if a = b then .code m else .code accNan
  | .inf _, .fin _ _ _ => .code m
  | .fin _ _ _, .nan => .code accNan
  | .fin _ _ _, .inf b => .code (if b then accNegInf else accInf)
  | .fin _ _ _, .fin neg k e => .num (m.toInt + roundInt .rne neg k (e - x))

/-- `round_rne(n / 2^k)`. -/
def shiftRne (n : Int) (k : Nat) : Int := roundInt .rne (decide (n < 0)) n.natAbs (-(k : Int))

def elemOk (n : Int) : Bool := decide (-accMax ≤ n) && decide (n ≤ accMax)

/-- A finite code, or the infinity of its sign. -/
def clampCode (n : Int) : BitVec 48 :=
  if elemOk n then BitVec.ofInt 48 n else if n < 0 then accNegInf else accInf

/-- The least k ≥ 1 that brings every number into [-2^44, 2^44 - 1]. -/
def renormShift (ns : List Int) : Nat :=
  let b := Nat.log2 (ns.foldl (fun m n => max m n.natAbs) 0)
  let fits (k : Nat) : Bool := ns.all fun n => decide (-(2 ^ 44) ≤ shiftRne n k) && decide (shiftRne n k ≤ 2 ^ 44 - 1)
  (((List.range 5).map fun i => max 1 (b - 45) + i).find? fits).getD (b + 1)

/-- A tile after an update, with the exact dot product of each element of the granted shape (R83). -/
def Tile.update (T : Tile) (mg ng : Nat) (dot : Nat → Nat → Val) : Tile :=
  let ns := tilePlaces.map fun p =>
    (64 * p.1 + p.2,
      if p.1 < mg ∧ p.2 < ng then newElem (T.m.get (64 * p.1 + p.2)) T.x (dot p.1 p.2)
      else newElem (T.m.get (64 * p.1 + p.2)) T.x (.fin false 0 0))
  let nums := ns.filterMap fun x => match x.2 with | .num n => some n | .code _ => none
  let put (k : Nat) (m : Sparse 48) (x : Nat × NewElem) : Sparse 48 :=
    match x.2 with
    | .code c => m.set x.1 c
    | .num n => m.set x.1 (clampCode (if k = 0 then n else shiftRne n k))
  if nums.all elemOk then { T with m := ns.foldl (put 0) T.m }
  else
    let k := min (renormShift nums) (32767 - T.x).toNat
    { T with m := ns.foldl (put k) T.m, x := T.x + k, rn := true }

/-! ### Operands (R184, R185, R192) -/

/-- The bytes of an operand as one number, its uncorrectable 4-byte units, and where its scale bytes begin. -/
structure OperandData where
  num : Nat
  bad : List Nat
  len : Nat
deriving DecidableEq, Repr

/-- Bytes of the elements of `rows` × `kg` elements (R184). -/
def elemBytes (f : Word) (rows kg : Nat) : Nat := rows * kg * fmtBits f / 8

/-- Scale bytes after the elements. -/
def scaleBytes (f : Word) (rows kg : Nat) : Nat :=
  match fmtScale f with
  | 0 => 0
  | 1 => rows * kg / 32
  | _ => 1

/-- A range that an engine reads for the matrix unit, unit by unit. -/
def State.operandAt (s : State) (g : Group) (ea n len : Nat) : OperandData :=
  let unit (i : Nat) : Nat := min 4 (n - 4 * i)
  let us := List.range ((n + 3) / 4)
  { num := leNat (us.flatMap fun i => s.engSpRead g (ea + 4 * i) (unit i))
    bad := us.filter fun i => s.engSpBad g (ea + 4 * i) (unit i)
    len := len }

/-- Bits `lo` to `lo + n - 1` touch an uncorrectable unit. -/
def OperandData.lost (o : OperandData) (lo n : Nat) : Bool :=
  !o.bad.isEmpty && o.bad.any fun u => decide (32 * u < lo + n) && decide (lo < 32 * u + 32)

/-- The byte that scales element `i`, its place; blocks of 32 elements in stream order are blocks along K (R184). -/
def scalePlace (f : Word) (len i : Nat) : Option Nat :=
  match fmtScale f with
  | 0 => none
  | 1 => some (len + i / 32)
  | _ => some len

/-- An element was replaced by zero: its own bits or its scale byte are lost (R192). -/
def OperandData.replaced (o : OperandData) (f : Word) (i : Nat) : Bool :=
  o.lost (fmtBits f * i) (fmtBits f) || match scalePlace f o.len i with
    | none => false
    | some p => o.lost (8 * p) 8

/-- Element `i` of an operand times its scale (R68, R70). -/
def OperandData.elem (o : OperandData) (f : Word) (i : Nat) : Val :=
  if o.replaced f i then .fin false 0 0
  else
    let v := decodeFloat (fmtOf f) (o.num / 2 ^ (fmtBits f * i) % 2 ^ fmtBits f)
    match scalePlace f o.len i with
    | none => v
    | some p => scaled (o.num / 2 ^ (8 * p) % 256) v

/-- The check of an operand's or row's range: in the aperture each 4-byte unit on its own (R185). -/
def State.matFail (s : State) (c : Ctx) (ea n : Nat) : Option SpErr :=
  let fail (a m : Nat) : Option SpErr := match s.spPlace c.group true a m with | .error e => some e | .ok _ => none
  if inAperture ea then ((List.range ((n + 3) / 4)).filterMap fun i => fail (ea + 4 * i) (min 4 (n - 4 * i))).head?
  else fail ea n

/-- The trap of an operand's range; `which` is 1 for A, 2 for B, 3 for a row range. `TADDR` holds the address at which the
operand or the row begins (log 74). -/
def State.matRange (s : State) (c : Ctx) (which ea n : Nat) : Option Trap :=
  (s.matFail c ea n).map fun e =>
    { cause := match e with | .perm => .perm | .bound => .spbound, sub := which, addr := BitVec.ofNat 64 ea }

/-! ### Issue (R175, R189) -/

/-- A tile that the group does not have (R174). -/
def Ctx.tileTrap (c : Ctx) (d : BitVec 7) : Option Trap :=
  if c.group.tiles.length ≤ d.toNat then some { cause := .perm, addr := d.setWidth 64 } else none

/-- A matrix-class word: guard, operands and its own checks; then it enters the queue (R33, R175). -/
def matrix (s : State) (d : BitVec 7) (xs : List (SOp × Bool)) (checks : Ctx → Option Trap) (op : Ctx → MatOp) : Out :=
  atP0 s fun c => s.unless c c.guardTrap
    (if c.performs then
      s.unless c (c.sTrap xs <|> c.tileTrap d <|> checks c)
        (((s.drain c.ref.group c.ref.wix).modWave c.ref.group c.ref.wix fun w =>
          { w with mq := w.mq ++ [op c], matN := w.matN + 1 }).complete c c.perf)
     else s.complete c [])

/-- The quantum of an entry whose rows come at commits only (R233, R237). -/
def Ctx.rowsQuantum (c : Ctx) (kind : MatKind) : Option DWord :=
  match kind with
  | .mma (some k) => if c.launch.repro && (c.wave.stream k.val).global then some c.wave.qcount else none
  | _ => none

/-- An entry as it enters the queue. -/
def Ctx.newOp (c : Ctx) (tick : Nat) (kind : MatKind) (d : BitVec 7) (a b : Word) (fa fb : Word) (left : Nat) : MatOp :=
  { kind, tile := d.toNat, a, b, fa, fb, f2 := c.fmt 2, mg := c.wave.mcfg.1, ng := c.wave.mcfg.2.1, kg := c.wave.mcfg.2.2,
    rows := c.path.active, n := c.wave.matN, pc := c.path.start, slot := c.ref.slot, dst := .z, left, begun := false, passed := 0, at_ := tick,
    split := c.path.split, quantum := c.rowsQuantum kind }

/-- MACs per engine cycle by the wider operand (R178). -/
def macRate (w : Nat) : Nat := if w ≤ 4 then 32768 else if w ≤ 8 then 16384 else 8192

/-- Engine cycles of an MMA form (R178). -/
def mmaCycles (mg ng kg : Nat) (fa fb : Word) : Nat :=
  let r := macRate (max (fmtBits fa) (fmtBits fb))
  max 1 ((mg * ng * kg + r - 1) / r)

/-- The checks of R189 but for tile, addresses and ranges. `TADDR` of reasons 1, 3 and 4 holds the format register's value,
and of reason 2 the K that is granted (log 75). -/
def Ctx.mmaTrap (c : Ctx) (sq : Option (Fin 4)) (fa fb : Word) : Option Trap :=
  let kg := c.wave.mcfg.2.2
  let arith (sub : Nat) (v : Nat) : Trap := { cause := .arith, sub := sub, addr := BitVec.ofNat 64 v }
  if fmtW fa = 11 then some (arith 1 fa.toNat)
  else if fmtW fb = 11 then some (arith 1 fb.toNat)
  else if kg = 128 ∧ (8 < fmtBits fa ∨ 8 < fmtBits fb) then some (arith 2 kg)
  else if kg < 32 ∧ fmtScale fa = 1 then some (arith 3 fa.toNat)
  else if kg < 32 ∧ fmtScale fb = 1 then some (arith 3 fb.toNat)
  else
    match sq with
    | none => none
    | some k =>
      let x := c.wave.stream k.val
      let st (sub : Nat) : Trap := { cause := .stream, sub := sub, addr := BitVec.ofNat 64 k.val }
      if fmtScale fa ≠ 0 then some (arith 4 fa.toNat)
      else if x.opened = false then some (st 2)
      else if sdRowb x.desc * 8 ≠ kg * fmtBits fa then some (st 11)
      else if (x.fifo.head?.map fun e => decide (0 < e.popped)).getD false then some (st 7)
      else none

def matAlign (which align : Nat) (a : Word) : Option Trap :=
  if a.toNat % align ≠ 0 then some { cause := .align, sub := which, addr := a.setWidth 64 } else none

/-- An MMA form with both operands in scratchpad; in a check that both fail, A is recorded (log 98). -/
def mmaWord (s : State) (d : BitVec 7) (a b : SOp) (fa fb : Ctx → Word) : Out :=
  matrix s d [(a, false), (b, false)]
    (fun c =>
      let m := c.wave.mcfg
      c.mmaTrap none (fa c) (fb c)
      <|> matAlign 1 32 (c.s32 a) <|> matAlign 2 32 (c.s32 b)
      <|> s.matRange c 1 (c.s32 a).toNat (elemBytes (fa c) m.1 m.2.2 + scaleBytes (fa c) m.1 m.2.2)
      <|> s.matRange c 2 (c.s32 b).toNat (elemBytes (fb c) m.2.1 m.2.2 + scaleBytes (fb c) m.2.1 m.2.2))
    fun c =>
      c.newOp s.tick (.mma none) d (c.s32 a) (c.s32 b) (fa c) (fb c)
        (mmaCycles c.wave.mcfg.1 c.wave.mcfg.2.1 c.wave.mcfg.2.2 (fa c) (fb c))

/-- Format register values of the fixed forms (R188). -/
def fmtBf16 : Word := 10
def fmtF16 : Word := 9

/-- `mma` (R188). -/
def execMma (d : BitVec 7) (a b : SOp) (s : State) : Out := mmaWord s d a b (fun c => c.fmt 0) (fun c => c.fmt 1)
/-- `mma.bf16` (R188). -/
def execMmaBf16 (d : BitVec 7) (a b : SOp) (s : State) : Out := mmaWord s d a b (fun _ => fmtBf16) (fun _ => fmtBf16)
/-- `mma.f16` (R188). -/
def execMmaF16 (d : BitVec 7) (a b : SOp) (s : State) : Out := mmaWord s d a b (fun _ => fmtF16) (fun _ => fmtF16)

/-- `mma.sq` (R188, R191). -/
def execMmaSq (d : BitVec 7) (k : Fin 4) (b : SOp) (s : State) : Out :=
  matrix s d [(b, false)]
    (fun c =>
      let m := c.wave.mcfg
      c.mmaTrap (some k) (c.fmt 0) (c.fmt 1)
      <|> matAlign 2 32 (c.s32 b)
      <|> s.matRange c 2 (c.s32 b).toNat (elemBytes (c.fmt 1) m.2.1 m.2.2 + scaleBytes (c.fmt 1) m.2.1 m.2.2))
    fun c =>
      c.newOp s.tick (.mma (some k)) d 0 (c.s32 b) (c.fmt 0) (c.fmt 1)
        (mmaCycles c.wave.mcfg.1 c.wave.mcfg.2.1 c.wave.mcfg.2.2 (c.fmt 0) (c.fmt 1))

/-- `aclr` (R193). -/
def execAclr (d : BitVec 7) (s : State) : Out :=
  matrix s d [] (fun _ => none) fun c => c.newOp s.tick .aclr d 0 0 0 0 0

/-- The bytes of a row (R195). -/
def rowLen (f : Word) : Nat := 8 * fmtBits f + (if fmtScale f = 1 then 2 else 0)

/-- The rows that the threads of a mask own (R195). -/
def ownedRows (m : Mask) : List Nat := (List.range 64).filter fun r => m.getLsbD (r % 32)

/-- The address of a row; beyond 2^32 it begins again at 0 (log 99). -/
def rowAddr (a : Word) (p r : Nat) : Nat := (a.toNat + r * p) % 2 ^ 32

/-- The checks of `ald` and `ast` (R195): reason 5, reason 6, ALIGN, then the ranges (log 76). -/
def State.rowTrap (s : State) (c : Ctx) (a b : Word) : Option Trap :=
  let f := c.fmt 2
  let p := b.toNat % 2 ^ 16
  if fmtScale f = 2 then some { cause := .arith, sub := 5, addr := f.setWidth 64 }
  else if b.toNat / 2 ^ 16 ≠ 0 ∨ p % 8 ≠ 0 ∨ p < rowLen f then some { cause := .arith, sub := 6, addr := b.setWidth 64 }
  else matAlign 3 8 a <|> ((ownedRows c.path.active).filterMap fun r => s.matRange c 3 (rowAddr a p r) (rowLen f)).head?

/-- `ald` (R193, R195). -/
def execAld (d : BitVec 7) (a b : SOp) (s : State) : Out :=
  matrix s d [(a, false), (b, false)] (fun c => s.rowTrap c (c.s32 a) (c.s32 b)) fun c =>
    c.newOp s.tick .ald d (c.s32 a) (c.s32 b) 0 0 0

/-- `ast` (R193, R195). -/
def execAst (d : BitVec 7) (a b : SOp) (s : State) : Out :=
  matrix s d [(a, false), (b, false)] (fun c => s.rowTrap c (c.s32 a) (c.s32 b)) fun c =>
    c.newOp s.tick .ast d (c.s32 a) (c.s32 b) 0 0 0

/-- `ascale` (R193, R198). -/
def execAscale (d : BitVec 7) (a : SOp) (s : State) : Out :=
  matrix s d [(a, false)] (fun _ => none) fun c => c.newOp s.tick .ascale d (c.s32 a) 0 0 0 0

/-- `aexp` (R193, R199). -/
def execAexp (d : BitVec 7) (a : SDst) (s : State) : Out :=
  matrix s d [] (fun _ => none) fun c => { c.newOp s.tick .aexp d 0 0 0 0 0 with dst := a }

/-! ### SHAPE and the format registers (R179 to R183) -/

def MDim.size : MDim → Nat
  | .d16 => 16
  | .d32 => 32
  | .d64 => 64

def KDim.size : KDim → Nat
  | .d16 => 16
  | .d32 => 32
  | .d64 => 64
  | .d128 => 128

/-- The K that is granted (R183). -/
def grantedK (k : KDim) (f0 f1 : Word) : Nat :=
  let narrow (f : Word) : Bool := decide (1 ≤ fmtW f) && decide (fmtW f ≤ 8)
  if k = .d128 ∧ !(narrow f0 && narrow f1) then 64 else KDim.size k

/-- `shape` (R183). -/
def execShape (d : SDst) (m n : MDim) (k : KDim) (s : State) : Out :=
  scal s [] fun c =>
    let kg := grantedK k (c.fmt 0) (c.fmt 1)
    (s.modWave c.ref.group c.ref.wix fun w => { w with mcfg := (MDim.size m, MDim.size n, kg) }).scalResult c d
      (BitVec.ofNat 32 (MDim.size m + 2 ^ 8 * MDim.size n + 2 ^ 16 * kg))

/-- A format register of the path written. -/
def State.putFmt (s : State) (c : Ctx) (k : Nat) (v : Word) : State :=
  (s.modPath c.ref fun p => { p with fmt := putAt v k p.fmt }).complete c c.perf

/-- `setfmt` (R180). -/
def execSetfmt (k : Fin 4) (i : BitVec 18) (s : State) : Out := scal s [] fun c => s.putFmt c k.val (i.setWidth 32)

/-- `getfmt` (R181). -/
def execGetfmt (d : SDst) (a : Fin 4) (s : State) : Out := scal s [] fun c => s.scalResult c d (c.fmt a.val)

/-- `setfmt.r` (R181). -/
def execSetfmtR (d : Fin 4) (a : SOp) (s : State) : Out :=
  scal s [(a, false)] fun c =>
    if fmtValid (c.s32 a) then s.putFmt c d.val (c.s32 a)
    else s.takeTrap c { cause := .arith, sub := 7, addr := (c.s32 a).setWidth 64 }

/-! ### Performing (R190 to R199) -/

/-- The head of the matrix queue is performed: the tile takes its new contents. -/
def State.matDone (s : State) (e : Eng) (op : MatOp) (f : Tile → Tile) : State :=
  (s.modGroup e.group.id fun g => { g with tiles := modAt f op.tile g.tiles }).modEng e fun w => { w with mq := w.mq.tail }

/-- An operand error in the die's log (R192): the wave, the tile, the operand, the coordinates. -/
def State.logOperand (s : State) (e : Eng) (op : MatOp) (which : Nat) (at_ : List Nat) : State :=
  s.logError e.group.die 7 true false e.group.core (Config.logDetail ([e.wave.wslot, op.tile, which] ++ at_)) op.pc

/-- The errors of one operand of `rows` rows of `kg` elements, the first of which is row `row`, logged: lost elements, and
lost scale bytes once, with their block numbers. -/
def State.logOperands (s : State) (e : Eng) (op : MatOp) (which row rows kg : Nat) (f : Word) (o : OperandData) : State :=
  if o.bad.isEmpty then s
  else
    let s1 := (List.range (rows * kg)).foldl (fun s i =>
      if o.lost (fmtBits f * i) (fmtBits f) then s.logOperand e op which [row + i / kg, i % kg] else s) s
    (List.range (scaleBytes f rows kg)).foldl (fun s b =>
      if o.lost (8 * (o.len + b)) 8 then s.logOperand e op which [row * scaleBytes f rows kg + b] else s) s1

/-- Some element of `n` was replaced. -/
def OperandData.anyLost (o : OperandData) (f : Word) (n : Nat) : Bool :=
  !o.bad.isEmpty && (List.range n).any fun i => o.replaced f i

/-- Row `i` of A for an `mma.sq`: a stream entry with its units in error, or zeros (R191, R192). -/
def rowData (xs : List Entry) (i : Nat) : OperandData :=
  match xs[i]? with
  | some e => ⟨leNat e.bytes, e.bad, 0⟩
  | none => ⟨0, [], 0⟩

/-- An MMA form performed (R190). -/
def State.performMma (s : State) (e : Eng) (op : MatOp) (sq : Option (Fin 4)) : State :=
  let db := s.operandAt e.group op.b.toNat (elemBytes op.fb op.ng op.kg + scaleBytes op.fb op.ng op.kg)
    (elemBytes op.fb op.ng op.kg)
  let b (k j : Nat) : Val := db.elem op.fb (j * op.kg + k)
  let run (s : State) (a : Nat → Nat → Val) (lost : Bool) : State :=
    let dot (i j : Nat) : Val :=
      (List.range op.kg).foldl (fun acc k => acc.add false ((a i k).mul (b k j))) (.fin false 0 0)
    (s.logOperands e op 2 0 op.ng op.kg op.fb db).matDone e op fun T =>
      let U := T.heal.update op.mg op.ng dot
      { U with zerr := U.zerr || lost || db.anyLost op.fb (op.ng * op.kg) }
  match sq with
  | none =>
    let da := s.operandAt e.group op.a.toNat (elemBytes op.fa op.mg op.kg + scaleBytes op.fa op.mg op.kg)
      (elemBytes op.fa op.mg op.kg)
    run (s.logOperands e op 1 0 op.mg op.kg op.fa da) (fun i k => da.elem op.fa (i * op.kg + k))
      (da.anyLost op.fa (op.mg * op.kg))
  | some k =>
    let x := e.wave.stream k.val
    let xs := takeRows op.mg x
    if e.wave.mayTake op k && rowsReady op.mg x then
      let s1 := s.modEng e fun w => w.modStream k.val fun y =>
        { y with fifo := y.fifo.drop xs.length, popd := y.popd + BitVec.ofNat 32 xs.length }
      run ((List.range xs.length).foldl (fun s i => s.logOperands e op 1 i 1 op.kg op.fa (rowData xs i)) s1)
        (fun i j => (rowData xs i).elem op.fa j) ((List.range xs.length).any fun i => (rowData xs i).anyLost op.fa op.kg)
    else s

/-- Row data of `ald`: each owned row's elements and scale bytes. -/
def State.aldRow (s : State) (e : Eng) (op : MatOp) (r : Nat) : OperandData :=
  s.operandAt e.group (rowAddr op.a (op.b.toNat % 2 ^ 16) r) (rowLen op.f2) (8 * fmtBits op.f2)

/-- The tile that `ald` makes of a value per place (R196). -/
def loadTile (v : Nat → Nat → Val) (zerr : Bool) : Tile :=
  let vs := tilePlaces.map fun p => (64 * p.1 + p.2, v p.1 p.2)
  let x : Int := match (vs.filterMap fun y => y.2.log2).max? with
    | none => -32768
    | some g => max (-32768) (min 32767 (g - 43))
  let code (y : Val) : BitVec 48 := match y with
    | .nan => accNan
    | .inf neg => if neg then accNegInf else accInf
    | .fin neg m k => clampCode (roundInt .rne neg m (k - x))
  { m := vs.foldl (fun m y => m.set y.1 (code y.2)) [], x, zerr, rn := false, aerr := false, bad := [], badX := false }

/-- `ald` performed (R196). -/
def State.performAld (s : State) (e : Eng) (op : MatOp) : State :=
  let rows := (ownedRows op.rows).map fun r => (r, s.aldRow e op r)
  let v (r c : Nat) : Val := match rows.find? fun x => x.1 == r with
    | some x => x.2.elem op.f2 c
    | none => .fin false 0 0
  (rows.foldl (fun s x => s.logOperands e op 3 x.1 1 64 op.f2 x.2) s).matDone e op fun _ =>
    loadTile v (rows.any fun x => x.2.anyLost op.f2 64)

/-- The codes and scale bytes that `ast` writes for a row (R197). -/
def Eng.astRow (e : Eng) (op : MatOp) (T : Tile) (r : Nat) : List Byte :=
  let f := op.f2
  let sc (h : Nat) : Nat := if fmtScale f = 1 then chooseScale (fmtOf f) ((List.range 32).map fun c => T.val r (32 * h + c)) else 127
  let keys := [e.group.org.getD 0 0, e.group.org.getD 1 0, e.group.org.getD 2 0, e.group.org.getD 3 0, op.n]
  let code (c : Nat) : Nat :=
    roundTo (fmtOf f) (fmtSat f) (fmtRm f (srBits e.launch.seed (keys ++ [4096 * e.wave.wix + 64 * r + c])))
      ((T.val r c).scale (127 - (sc (c / 32) : Int)))
  leBytes (8 * fmtBits f) (streamOf (fmtBits f) ((List.range 64).map code))
  ++ (if fmtScale f = 1 then [BitVec.ofNat 8 (sc 0), BitVec.ofNat 8 (sc 1)] else [])

/-- A row that cannot cross the network is lost; the log names its operation (R192, R201; log 12). -/
def State.logRow (s : State) (e : Eng) (op : MatOp) (row : Nat) : State :=
  if s.engSpDown e.group (rowAddr op.a (op.b.toNat % 2 ^ 16) row) then s.logOperand e op 4 [row] else s

/-- A row written, unit by unit. -/
def State.writeRow (s : State) (g : Group) (ea : Nat) (bs : List Byte) : State :=
  (List.range ((bs.length + 3) / 4)).foldl (fun s i => s.engSpWrite g (ea + 4 * i) ((bs.drop (4 * i)).take 4)) s

/-- `ast` performed (R197). -/
def State.performAst (s : State) (e : Eng) (op : MatOp) : State :=
  let T := (e.group.tiles.getD op.tile Tile.empty).heal
  ((ownedRows op.rows).foldl (fun (s : State) r =>
    (s.writeRow e.group (rowAddr op.a (op.b.toNat % 2 ^ 16) r) (e.astRow op T r)).logRow e op r) s).matDone e op Tile.heal

/-- A tile scaled by 2^n (R198). -/
def Tile.scaleBy (T : Tile) (n : Int) : Tile :=
  let x := T.x + n
  let each (f : Int → BitVec 48) : Sparse 48 :=
    tilePlaces.foldl (fun m p => match accVal (T.m.get (64 * p.1 + p.2)) 0 with
      | .fin _ _ _ => m.set (64 * p.1 + p.2) (f (T.m.get (64 * p.1 + p.2)).toInt)
      | .inf _ => m
      | .nan => m) T.m
  if 32767 < x then { T with m := each fun k => if k = 0 then 0 else if k < 0 then accNegInf else accInf, x := 32767 }
  else if x < -32768 then
    { T with m := each fun k => BitVec.ofInt 48 (roundInt .rne (decide (k < 0)) k.natAbs (x + 32768)), x := -32768 }
  else { T with x := x }

/-- The status word of a tile (R199). -/
def Tile.status (T : Tile) : Word :=
  BitVec.ofNat 32
    ((BitVec.ofInt 16 T.x).toNat + 2 ^ 16 * T.zerr.toNat + 2 ^ 17 * T.rn.toNat + 2 ^ 18 * T.aerr.toNat
      + 2 ^ 19 * (tilePlaces.any fun p => match accVal (T.m.get (64 * p.1 + p.2)) 0 with
          | .fin _ _ _ => false
          | .inf _ => true
          | .nan => true).toNat)

/-- The head entry of a wave's matrix queue is performed: an MMA form when its engine cycles have run, a tile instruction
when the arbiter has started it or starts it now (R177). -/
def matEvent (w : WaveRef) (s : State) (k : State → Eng → MatOp → Option State) : Out :=
  onWave s w fun e =>
    match e.wave.mq with
    | [] => s
    | op :: _ =>
      if op.isMma then (if op.left = 0 then (k s e op).getD s else s)
      else if op.begun then (k s e op).getD s
      else
        match s.startTile e.group.cluster (e.group.coreNo / 4) w with
        | none => s
        | some t =>
          match t.eng w with
          | none => s
          | some e1 => (k t e1 op).getD s

/-- MMA_PERFORM. -/
def execMmaPerform (w : WaveRef) (s : State) : Out :=
  matEvent w s fun s e op => match op.kind with
    | .mma sq => some (s.performMma e op sq)
    | _ => none

/-- ACLR_PERFORM (R194). -/
def execAclrPerform (w : WaveRef) (s : State) : Out :=
  matEvent w s fun s e op => match op.kind with
    | .aclr => some (s.matDone e op fun _ => Tile.empty)
    | _ => none

/-- ALD_PERFORM (R196). -/
def execAldPerform (w : WaveRef) (s : State) : Out :=
  matEvent w s fun s e op => match op.kind with
    | .ald => some (s.performAld e op)
    | _ => none

/-- AST_PERFORM (R197). -/
def execAstPerform (w : WaveRef) (s : State) : Out :=
  matEvent w s fun s e op => match op.kind with
    | .ast => some (s.performAst e op)
    | _ => none

/-- ASCALE_PERFORM (R198). -/
def execAscalePerform (w : WaveRef) (s : State) : Out :=
  matEvent w s fun s e op => match op.kind with
    | .ascale => some (s.matDone e op fun T => T.heal.scaleBy op.a.toInt)
    | _ => none

/-- AEXP_PERFORM (R199): the status word goes to the path's register, which is marked (R50). -/
def execAexpPerform (w : WaveRef) (s : State) : Out :=
  matEvent w s fun s e op => match op.kind with
    | .aexp =>
      let T := (e.group.tiles.getD op.tile Tile.empty).heal
      some ((s.matDone e op Tile.heal).modEng e fun x => x.putS32 op.slot false op.dst T.status)
    | _ => none

end Sys2Proof.Machine
end

