-- ==== Sys2Proof/Machine/Scalar.lean ====
section
/-! DEFINITION. Uniform scalar words (R111 to R113). -/

namespace Sys2Proof.Machine

/-- Wrapping sum (R111). -/
def execSaddI32 (d : SDst) (a b : SOp) (s : State) : Out :=
  scal s [(a, false), (b, false)] fun c => s.scalResult c d ((c.s32 a) + (c.s32 b))

/-- Wrapping difference (R111). -/
def execSsubI32 (d : SDst) (a b : SOp) (s : State) : Out :=
  scal s [(a, false), (b, false)] fun c => s.scalResult c d ((c.s32 a) - (c.s32 b))

/-- Low half of the product (R111). -/
def execSmulI32 (d : SDst) (a b : SOp) (s : State) : Out :=
  scal s [(a, false), (b, false)] fun c => s.scalResult c d ((c.s32 a) * (c.s32 b))

/-- Bitwise and (R111). -/
def execSandB32 (d : SDst) (a b : SOp) (s : State) : Out :=
  scal s [(a, false), (b, false)] fun c => s.scalResult c d ((c.s32 a) &&& (c.s32 b))

/-- Bitwise or (R111). -/
def execSorB32 (d : SDst) (a b : SOp) (s : State) : Out :=
  scal s [(a, false), (b, false)] fun c => s.scalResult c d ((c.s32 a) ||| (c.s32 b))

/-- Bitwise exclusive or (R111). -/
def execSxorB32 (d : SDst) (a b : SOp) (s : State) : Out :=
  scal s [(a, false), (b, false)] fun c => s.scalResult c d ((c.s32 a) ^^^ (c.s32 b))

/-- Shift left (R111). -/
def execSshlB32 (d : SDst) (a b : SOp) (s : State) : Out :=
  scal s [(a, false), (b, false)] fun c => s.scalResult c d (shl (c.s32 a) (c.s32 b).toNat)

/-- Logical shift right (R111). -/
def execSshrU32 (d : SDst) (a b : SOp) (s : State) : Out :=
  scal s [(a, false), (b, false)] fun c => s.scalResult c d (shrU (c.s32 a) (c.s32 b).toNat)

/-- Arithmetic shift right (R111). -/
def execSshrI32 (d : SDst) (a b : SOp) (s : State) : Out :=
  scal s [(a, false), (b, false)] fun c => s.scalResult c d (shrS (c.s32 a) (c.s32 b).toNat)

/-- Signed lesser (R111). -/
def execSminI32 (d : SDst) (a b : SOp) (s : State) : Out :=
  scal s [(a, false), (b, false)] fun c => s.scalResult c d (minS (c.s32 a) (c.s32 b))

/-- Signed greater (R111). -/
def execSmaxI32 (d : SDst) (a b : SOp) (s : State) : Out :=
  scal s [(a, false), (b, false)] fun c => s.scalResult c d (maxS (c.s32 a) (c.s32 b))

/-- Unsigned lesser (R111). -/
def execSminU32 (d : SDst) (a b : SOp) (s : State) : Out :=
  scal s [(a, false), (b, false)] fun c => s.scalResult c d (minU (c.s32 a) (c.s32 b))

/-- Unsigned greater (R111). -/
def execSmaxU32 (d : SDst) (a b : SOp) (s : State) : Out :=
  scal s [(a, false), (b, false)] fun c => s.scalResult c d (maxU (c.s32 a) (c.s32 b))

/-- 64 bits on register pairs (R111). -/
def execSaddI64 (d : SDst) (a b : SOp) (s : State) : Out :=
  scal s [(a, true), (b, true)] fun c => s.scalResult64 c d (c.s64 a + c.s64 b)

/-- 64 bits on register pairs (R111). -/
def execSsubI64 (d : SDst) (a b : SOp) (s : State) : Out :=
  scal s [(a, true), (b, true)] fun c => s.scalResult64 c d (c.s64 a - c.s64 b)

/-- A uniform register move (R111). -/
def execSmovB32 (d : SDst) (a : SOp) (s : State) : Out :=
  scal s [(a, false)] fun c => s.scalResult c d (c.s32 a)

/-- A sign-extended immediate (R112). -/
def execSmovB32Imm (d : SDst) (i : BitVec 11) (s : State) : Out :=
  scal s [] fun c => s.scalResult c d (i.signExtend 32)

/-- Sum with a sign-extended immediate (R112). -/
def execSaddI32Imm (d : SDst) (a : SOp) (i : BitVec 11) (s : State) : Out :=
  scal s [(a, false)] fun c => s.scalResult c d (c.s32 a + i.signExtend 32)

/-- The result of a uniform compare, in every active thread (R113). -/
def State.scmpResult (s : State) (c : Ctx) (d : Fin 8) (b : Bool) : State :=
  (s.modWave c.ref.group c.ref.wix fun w => w.putPs d ((ixs c.path.active).map fun t => (t, b))).complete c c.perf

/-- A uniform compare (R113). -/
def execScmpEqI32 (d : Fin 8) (a b : SOp) (s : State) : Out :=
  scal s [(a, false), (b, false)] fun c => s.scmpResult c d (cmpS .eq (c.s32 a) (c.s32 b))

/-- A uniform compare (R113). -/
def execScmpNeI32 (d : Fin 8) (a b : SOp) (s : State) : Out :=
  scal s [(a, false), (b, false)] fun c => s.scmpResult c d (cmpS .ne (c.s32 a) (c.s32 b))

/-- A uniform compare (R113). -/
def execScmpLtI32 (d : Fin 8) (a b : SOp) (s : State) : Out :=
  scal s [(a, false), (b, false)] fun c => s.scmpResult c d (cmpS .lt (c.s32 a) (c.s32 b))

/-- A uniform compare (R113). -/
def execScmpLeI32 (d : Fin 8) (a b : SOp) (s : State) : Out :=
  scal s [(a, false), (b, false)] fun c => s.scmpResult c d (cmpS .le (c.s32 a) (c.s32 b))

/-- A uniform compare (R113). -/
def execScmpGtI32 (d : Fin 8) (a b : SOp) (s : State) : Out :=
  scal s [(a, false), (b, false)] fun c => s.scmpResult c d (cmpS .gt (c.s32 a) (c.s32 b))

/-- A uniform compare (R113). -/
def execScmpGeI32 (d : Fin 8) (a b : SOp) (s : State) : Out :=
  scal s [(a, false), (b, false)] fun c => s.scmpResult c d (cmpS .ge (c.s32 a) (c.s32 b))

/-- A uniform compare (R113). -/
def execScmpEqU32 (d : Fin 8) (a b : SOp) (s : State) : Out :=
  scal s [(a, false), (b, false)] fun c => s.scmpResult c d (cmpU .eq (c.s32 a) (c.s32 b))

/-- A uniform compare (R113). -/
def execScmpNeU32 (d : Fin 8) (a b : SOp) (s : State) : Out :=
  scal s [(a, false), (b, false)] fun c => s.scmpResult c d (cmpU .ne (c.s32 a) (c.s32 b))

/-- A uniform compare (R113). -/
def execScmpLtU32 (d : Fin 8) (a b : SOp) (s : State) : Out :=
  scal s [(a, false), (b, false)] fun c => s.scmpResult c d (cmpU .lt (c.s32 a) (c.s32 b))

/-- A uniform compare (R113). -/
def execScmpLeU32 (d : Fin 8) (a b : SOp) (s : State) : Out :=
  scal s [(a, false), (b, false)] fun c => s.scmpResult c d (cmpU .le (c.s32 a) (c.s32 b))

/-- A uniform compare (R113). -/
def execScmpGtU32 (d : Fin 8) (a b : SOp) (s : State) : Out :=
  scal s [(a, false), (b, false)] fun c => s.scmpResult c d (cmpU .gt (c.s32 a) (c.s32 b))

/-- A uniform compare (R113). -/
def execScmpGeU32 (d : Fin 8) (a b : SOp) (s : State) : Out :=
  scal s [(a, false), (b, false)] fun c => s.scmpResult c d (cmpU .ge (c.s32 a) (c.s32 b))

end Sys2Proof.Machine
end

