-- ==== Sys2Proof/Machine/Special.lean ====
section
/-! DEFINITION. GETS and SETS: the special registers and the wave status word (R52, R61, R114 to R116). -/

namespace Sys2Proof.Machine

/-- `WSTAT` as the issuing path reads it (R61). -/
def Ctx.wstat (c : Ctx) : Word :=
  BitVec.ofNat 32
    (c.wave.ucf.toNat + 2 * c.ref.slot.toNat
      + 4 * (c.wave.path0.isSome.toNat + c.wave.path1.isSome.toNat)
      + 2 ^ 8 * (c.wave.depth % 256) + 2 ^ 16 * (c.wave.splitNo % 2 ^ 16))

/-- The launch extent that a body reads; in a pool launch `LEXT0` is the number of task records that stood in the pool
at launch (R52, log 22). -/
def Ctx.lext (c : Ctx) (k : Nat) : Nat :=
  if c.launch.pool && k == 0 then
    ((c.launch.poolHdr.extractLsb' 64 64 - c.launch.poolHdr.extractLsb' 0 64).toNat) % 2 ^ 32
  else c.launch.lext k

/-- The value of a special register (R52); `ns` is `NSCLK`. -/
def Ctx.special (c : Ctx) (ns : DWord) (t : Nat) : SReg → DWord
  | .gext k => BitVec.ofNat 64 (c.group.ext.getD k.val 1)
  | .gorg k => BitVec.ofNat 64 (c.group.org.getD k.val 0 % 2 ^ 32)
  | .lext k => BitVec.ofNat 64 (c.lext k.val)
  | .tix => BitVec.ofNat 64 (32 * c.wave.wix + t)
  | .wix => BitVec.ofNat 64 c.wave.wix
  | .nwave => BitVec.ofNat 64 c.group.nwave
  | .gord => BitVec.ofNat 64 (c.group.gord % 2 ^ 32)
  | .bandix => BitVec.ofNat 64 c.group.bandix
  | .bandn => BitVec.ofNat 64 c.group.bandn
  | .spsize => BitVec.ofNat 64 c.group.spsize
  | .role => BitVec.ofNat 64 c.wave.role
  | .core => BitVec.ofNat 64 c.group.core
  | .lcore => BitVec.ofNat 64 c.group.lcore
  | .prio => BitVec.ofNat 64 c.group.prio
  | .nsclk => ns
  | .qcount => c.wave.qcount
  | .wstat => c.wstat.setWidth 64

/-- `gets` into a uniform register (R114). -/
def execGetsScalar (d : SDst) (n : SReg) (s : State) : Out :=
  scal s [] fun c =>
    if n.wide then s.scalResult64 c d (c.special s.ns 0 n) else s.scalResult c d ((c.special s.ns 0 n).setWidth 32)

/-- `gets` into a vector register of each performing thread (R114). -/
def execGetsVector (d : VDst) (n : SReg) (s : State) : Out :=
  if n.wide then vec64 s [] d fun c t => c.special s.ns t n
  else vec s [] d fun c t => (c.special s.ns t n).setWidth 32

/-- `sets WSTAT`: bit 0 set clears `UCF`; every other bit is ignored (R61, R115). -/
def execSets (d : SOp) (s : State) : Out :=
  scal s [(d, false)] fun c =>
    (s.modWave c.ref.group c.ref.wix fun w => { w with ucf := w.ucf && !(c.s32 d).getLsbD 0 }).complete c c.perf

end Sys2Proof.Machine
end

