-- ==== Sys2Proof/Machine/Dispatch.lean ====
section
/-! DEFINITION. One arm per row of the opcode table, each a direct call of that row's meaning. -/

namespace Sys2Proof.Machine

def exec (i : Instr) (s : State) : Host.Outcome State Fault Refusal :=
  match i with
  | .addI32 d a b => Sys2Proof.Machine.execAddI32 d a b s
  | .subI32 d a b => Sys2Proof.Machine.execSubI32 d a b s
  | .mulI32 d a b => Sys2Proof.Machine.execMulI32 d a b s
  | .mulhiI32 d a b => Sys2Proof.Machine.execMulhiI32 d a b s
  | .mulhiU32 d a b => Sys2Proof.Machine.execMulhiU32 d a b s
  | .addsI32 d a b => Sys2Proof.Machine.execAddsI32 d a b s
  | .subsI32 d a b => Sys2Proof.Machine.execSubsI32 d a b s
  | .addsU32 d a b => Sys2Proof.Machine.execAddsU32 d a b s
  | .subsU32 d a b => Sys2Proof.Machine.execSubsU32 d a b s
  | .minI32 d a b => Sys2Proof.Machine.execMinI32 d a b s
  | .maxI32 d a b => Sys2Proof.Machine.execMaxI32 d a b s
  | .minU32 d a b => Sys2Proof.Machine.execMinU32 d a b s
  | .maxU32 d a b => Sys2Proof.Machine.execMaxU32 d a b s
  | .absI32 d a => Sys2Proof.Machine.execAbsI32 d a s
  | .andB32 d a b => Sys2Proof.Machine.execAndB32 d a b s
  | .orB32 d a b => Sys2Proof.Machine.execOrB32 d a b s
  | .xorB32 d a b => Sys2Proof.Machine.execXorB32 d a b s
  | .andnB32 d a b => Sys2Proof.Machine.execAndnB32 d a b s
  | .shlB32 d a b => Sys2Proof.Machine.execShlB32 d a b s
  | .shrU32 d a b => Sys2Proof.Machine.execShrU32 d a b s
  | .shrI32 d a b => Sys2Proof.Machine.execShrI32 d a b s
  | .rotlB32 d a b => Sys2Proof.Machine.execRotlB32 d a b s
  | .popcB32 d a => Sys2Proof.Machine.execPopcB32 d a s
  | .clzB32 d a => Sys2Proof.Machine.execClzB32 d a s
  | .brevB32 d a => Sys2Proof.Machine.execBrevB32 d a s
  | .notB32 d a => Sys2Proof.Machine.execNotB32 d a s
  | .bfeU32 d a b => Sys2Proof.Machine.execBfeU32 d a b s
  | .bfeI32 d a b => Sys2Proof.Machine.execBfeI32 d a b s
  | .bfiB32 d a b => Sys2Proof.Machine.execBfiB32 d a b s
  | .bselB32 d a b => Sys2Proof.Machine.execBselB32 d a b s
  | .addI64 d a b => Sys2Proof.Machine.execAddI64 d a b s
  | .subI64 d a b => Sys2Proof.Machine.execSubI64 d a b s
  | .mulI64 d a b => Sys2Proof.Machine.execMulI64 d a b s
  | .shlB64 d a b => Sys2Proof.Machine.execShlB64 d a b s
  | .shrU64 d a b => Sys2Proof.Machine.execShrU64 d a b s
  | .shrI64 d a b => Sys2Proof.Machine.execShrI64 d a b s
  | .minI64 d a b => Sys2Proof.Machine.execMinI64 d a b s
  | .maxI64 d a b => Sys2Proof.Machine.execMaxI64 d a b s
  | .mulwideI32 d a b => Sys2Proof.Machine.execMulwideI32 d a b s
  | .mulwideU32 d a b => Sys2Proof.Machine.execMulwideU32 d a b s
  | .madI32 d a b => Sys2Proof.Machine.execMadI32 d a b s
  | .madI64 d a b => Sys2Proof.Machine.execMadI64 d a b s
  | .addI32Imm d a imm => Sys2Proof.Machine.execAddI32Imm d a imm s
  | .mulI32Imm d a imm => Sys2Proof.Machine.execMulI32Imm d a imm s
  | .andB32Imm d a imm => Sys2Proof.Machine.execAndB32Imm d a imm s
  | .orB32Imm d a imm => Sys2Proof.Machine.execOrB32Imm d a imm s
  | .xorB32Imm d a imm => Sys2Proof.Machine.execXorB32Imm d a imm s
  | .shlB32Imm d a imm => Sys2Proof.Machine.execShlB32Imm d a imm s
  | .shrU32Imm d a imm => Sys2Proof.Machine.execShrU32Imm d a imm s
  | .shrI32Imm d a imm => Sys2Proof.Machine.execShrI32Imm d a imm s
  | .movB32Imm d imm => Sys2Proof.Machine.execMovB32Imm d imm s
  | .setpI32 c d a b => Sys2Proof.Machine.execSetpI32 c d a b s
  | .setpU32 c d a b => Sys2Proof.Machine.execSetpU32 c d a b s
  | .setpF32 c d a b => Sys2Proof.Machine.execSetpF32 c d a b s
  | .setpI64 c d a b => Sys2Proof.Machine.execSetpI64 c d a b s
  | .setpF16 c d a b => Sys2Proof.Machine.execSetpF16 c d a b s
  | .setpBf16 c d a b => Sys2Proof.Machine.execSetpBf16 c d a b s
  | .pand d a b => Sys2Proof.Machine.execPand d a b s
  | .por d a b => Sys2Proof.Machine.execPor d a b s
  | .pxor d a b => Sys2Proof.Machine.execPxor d a b s
  | .pnot d a => Sys2Proof.Machine.execPnot d a s
  | .pandn d a b => Sys2Proof.Machine.execPandn d a b s
  | .selB32 d a b e p => Sys2Proof.Machine.execSelB32 d a b e p s
  | .movB32 d a => Sys2Proof.Machine.execMovB32 d a s
  | .movB64 d a => Sys2Proof.Machine.execMovB64 d a s
  | .shflIdx d a b => Sys2Proof.Machine.execShflIdx d a b s
  | .shflUp d a b => Sys2Proof.Machine.execShflUp d a b s
  | .shflDown d a b => Sys2Proof.Machine.execShflDown d a b s
  | .shflXor d a b => Sys2Proof.Machine.execShflXor d a b s
  | .wredAddI32 d a => Sys2Proof.Machine.execWredAddI32 d a s
  | .wredMinI32 d a => Sys2Proof.Machine.execWredMinI32 d a s
  | .wredMaxI32 d a => Sys2Proof.Machine.execWredMaxI32 d a s
  | .wredAddF32 d a => Sys2Proof.Machine.execWredAddF32 d a s
  | .wscanAddI32 d a => Sys2Proof.Machine.execWscanAddI32 d a s
  | .wscanAddxI32 d a => Sys2Proof.Machine.execWscanAddxI32 d a s
  | .wscanAddF32 d a => Sys2Proof.Machine.execWscanAddF32 d a s
  | .voteAny d a => Sys2Proof.Machine.execVoteAny d a s
  | .voteAll d a => Sys2Proof.Machine.execVoteAll d a s
  | .voteBallot d a => Sys2Proof.Machine.execVoteBallot d a s
  | .wredAndB32 d a => Sys2Proof.Machine.execWredAndB32 d a s
  | .wredOrB32 d a => Sys2Proof.Machine.execWredOrB32 d a s
  | .faddF32 d a b r => Sys2Proof.Machine.execFaddF32 d a b r s
  | .fsubF32 d a b r => Sys2Proof.Machine.execFsubF32 d a b r s
  | .fmulF32 d a b r => Sys2Proof.Machine.execFmulF32 d a b r s
  | .fmaF32 d a b r => Sys2Proof.Machine.execFmaF32 d a b r s
  | .faddF16 d a b r => Sys2Proof.Machine.execFaddF16 d a b r s
  | .fsubF16 d a b r => Sys2Proof.Machine.execFsubF16 d a b r s
  | .fmulF16 d a b r => Sys2Proof.Machine.execFmulF16 d a b r s
  | .fmaF16 d a b r => Sys2Proof.Machine.execFmaF16 d a b r s
  | .faddBf16 d a b r => Sys2Proof.Machine.execFaddBf16 d a b r s
  | .fsubBf16 d a b r => Sys2Proof.Machine.execFsubBf16 d a b r s
  | .fmulBf16 d a b r => Sys2Proof.Machine.execFmulBf16 d a b r s
  | .fmaBf16 d a b r => Sys2Proof.Machine.execFmaBf16 d a b r s
  | .fminF32 d a b => Sys2Proof.Machine.execFminF32 d a b s
  | .fmaxF32 d a b => Sys2Proof.Machine.execFmaxF32 d a b s
  | .fabsF32 d a => Sys2Proof.Machine.execFabsF32 d a s
  | .fnegF32 d a => Sys2Proof.Machine.execFnegF32 d a s
  | .fminF16 d a b => Sys2Proof.Machine.execFminF16 d a b s
  | .fmaxF16 d a b => Sys2Proof.Machine.execFmaxF16 d a b s
  | .fminBf16 d a b => Sys2Proof.Machine.execFminBf16 d a b s
  | .fmaxBf16 d a b => Sys2Proof.Machine.execFmaxBf16 d a b s
  | .cvt d a r t u => Sys2Proof.Machine.execCvt d a r t u s
  | .npack d a b k => Sys2Proof.Machine.execNpack d a b k s
  | .nunpack d a b k => Sys2Proof.Machine.execNunpack d a b k s
  | .expF32 d a => Sys2Proof.Machine.execExpF32 d a s
  | .exp2F32 d a => Sys2Proof.Machine.execExp2F32 d a s
  | .logF32 d a => Sys2Proof.Machine.execLogF32 d a s
  | .log2F32 d a => Sys2Proof.Machine.execLog2F32 d a s
  | .sinpiF32 d a => Sys2Proof.Machine.execSinpiF32 d a s
  | .cospiF32 d a => Sys2Proof.Machine.execCospiF32 d a s
  | .tanhF32 d a => Sys2Proof.Machine.execTanhF32 d a s
  | .sigmF32 d a => Sys2Proof.Machine.execSigmF32 d a s
  | .erfF32 d a => Sys2Proof.Machine.execErfF32 d a s
  | .rcpF32 d a => Sys2Proof.Machine.execRcpF32 d a s
  | .rsqrtF32 d a => Sys2Proof.Machine.execRsqrtF32 d a s
  | .sqrtF32 d a => Sys2Proof.Machine.execSqrtF32 d a s
  | .divF32 d a b => Sys2Proof.Machine.execDivF32 d a b s
  | .expF16 d a => Sys2Proof.Machine.execExpF16 d a s
  | .exp2F16 d a => Sys2Proof.Machine.execExp2F16 d a s
  | .logF16 d a => Sys2Proof.Machine.execLogF16 d a s
  | .log2F16 d a => Sys2Proof.Machine.execLog2F16 d a s
  | .sinpiF16 d a => Sys2Proof.Machine.execSinpiF16 d a s
  | .cospiF16 d a => Sys2Proof.Machine.execCospiF16 d a s
  | .tanhF16 d a => Sys2Proof.Machine.execTanhF16 d a s
  | .sigmF16 d a => Sys2Proof.Machine.execSigmF16 d a s
  | .erfF16 d a => Sys2Proof.Machine.execErfF16 d a s
  | .rcpF16 d a => Sys2Proof.Machine.execRcpF16 d a s
  | .rsqrtF16 d a => Sys2Proof.Machine.execRsqrtF16 d a s
  | .sqrtF16 d a => Sys2Proof.Machine.execSqrtF16 d a s
  | .divF16 d a b => Sys2Proof.Machine.execDivF16 d a b s
  | .expBf16 d a => Sys2Proof.Machine.execExpBf16 d a s
  | .exp2Bf16 d a => Sys2Proof.Machine.execExp2Bf16 d a s
  | .logBf16 d a => Sys2Proof.Machine.execLogBf16 d a s
  | .log2Bf16 d a => Sys2Proof.Machine.execLog2Bf16 d a s
  | .sinpiBf16 d a => Sys2Proof.Machine.execSinpiBf16 d a s
  | .cospiBf16 d a => Sys2Proof.Machine.execCospiBf16 d a s
  | .tanhBf16 d a => Sys2Proof.Machine.execTanhBf16 d a s
  | .sigmBf16 d a => Sys2Proof.Machine.execSigmBf16 d a s
  | .erfBf16 d a => Sys2Proof.Machine.execErfBf16 d a s
  | .rcpBf16 d a => Sys2Proof.Machine.execRcpBf16 d a s
  | .rsqrtBf16 d a => Sys2Proof.Machine.execRsqrtBf16 d a s
  | .sqrtBf16 d a => Sys2Proof.Machine.execSqrtBf16 d a s
  | .divBf16 d a b => Sys2Proof.Machine.execDivBf16 d a b s
  | .saddI32 d a b => Sys2Proof.Machine.execSaddI32 d a b s
  | .ssubI32 d a b => Sys2Proof.Machine.execSsubI32 d a b s
  | .smulI32 d a b => Sys2Proof.Machine.execSmulI32 d a b s
  | .sandB32 d a b => Sys2Proof.Machine.execSandB32 d a b s
  | .sorB32 d a b => Sys2Proof.Machine.execSorB32 d a b s
  | .sxorB32 d a b => Sys2Proof.Machine.execSxorB32 d a b s
  | .sshlB32 d a b => Sys2Proof.Machine.execSshlB32 d a b s
  | .sshrU32 d a b => Sys2Proof.Machine.execSshrU32 d a b s
  | .sshrI32 d a b => Sys2Proof.Machine.execSshrI32 d a b s
  | .sminI32 d a b => Sys2Proof.Machine.execSminI32 d a b s
  | .smaxI32 d a b => Sys2Proof.Machine.execSmaxI32 d a b s
  | .smovB32 d a => Sys2Proof.Machine.execSmovB32 d a s
  | .saddI64 d a b => Sys2Proof.Machine.execSaddI64 d a b s
  | .ssubI64 d a b => Sys2Proof.Machine.execSsubI64 d a b s
  | .sminU32 d a b => Sys2Proof.Machine.execSminU32 d a b s
  | .smaxU32 d a b => Sys2Proof.Machine.execSmaxU32 d a b s
  | .smovB32Imm d imm => Sys2Proof.Machine.execSmovB32Imm d imm s
  | .saddI32Imm d a imm => Sys2Proof.Machine.execSaddI32Imm d a imm s
  | .scmpEqI32 d a b => Sys2Proof.Machine.execScmpEqI32 d a b s
  | .scmpNeI32 d a b => Sys2Proof.Machine.execScmpNeI32 d a b s
  | .scmpLtI32 d a b => Sys2Proof.Machine.execScmpLtI32 d a b s
  | .scmpLeI32 d a b => Sys2Proof.Machine.execScmpLeI32 d a b s
  | .scmpGtI32 d a b => Sys2Proof.Machine.execScmpGtI32 d a b s
  | .scmpGeI32 d a b => Sys2Proof.Machine.execScmpGeI32 d a b s
  | .scmpEqU32 d a b => Sys2Proof.Machine.execScmpEqU32 d a b s
  | .scmpNeU32 d a b => Sys2Proof.Machine.execScmpNeU32 d a b s
  | .scmpLtU32 d a b => Sys2Proof.Machine.execScmpLtU32 d a b s
  | .scmpLeU32 d a b => Sys2Proof.Machine.execScmpLeU32 d a b s
  | .scmpGtU32 d a b => Sys2Proof.Machine.execScmpGtU32 d a b s
  | .scmpGeU32 d a b => Sys2Proof.Machine.execScmpGeU32 d a b s
  | .getsScalar d n => Sys2Proof.Machine.execGetsScalar d n s
  | .getsVector d n => Sys2Proof.Machine.execGetsVector d n s
  | .sets d => Sys2Proof.Machine.execSets d s
  | .bra e p x => Sys2Proof.Machine.execBra e p x s
  | .bru e p x => Sys2Proof.Machine.execBru e p x s
  | .call x => Sys2Proof.Machine.execCall x s
  | .nop => Sys2Proof.Machine.execNop s
  | .join => Sys2Proof.Machine.execJoin s
  | .ret => Sys2Proof.Machine.execRet s
  | .exit => Sys2Proof.Machine.execExit s
  | .yield => Sys2Proof.Machine.execYield s
  | .tret => Sys2Proof.Machine.execTret s
  | .getmask d => Sys2Proof.Machine.execGetmask d s
  | .setmask a => Sys2Proof.Machine.execSetmask a s
  | .jmpi a => Sys2Proof.Machine.execJmpi a s
  | .calli a => Sys2Proof.Machine.execCalli a s
  | .wbase a => Sys2Proof.Machine.execWbase a s
  | .trap n => Sys2Proof.Machine.execTrap n s
  | .sleepn d imm => Sys2Proof.Machine.execSleepn d imm s
  | .waitt a => Sys2Proof.Machine.execWaitt a s
  | .tmarkFull a => Sys2Proof.Machine.execTmarkFull a s
  | .tmarkEmpty a => Sys2Proof.Machine.execTmarkEmpty a s
  | .ttest d a => Sys2Proof.Machine.execTtest d a s
  | .put a b q r => Sys2Proof.Machine.execPut a b q r s
  | .get a b q => Sys2Proof.Machine.execGet a b q s
  | .send a b q r => Sys2Proof.Machine.execSend a b q r s
  | .pread d a => Sys2Proof.Machine.execPread d a s
  | .phint a => Sys2Proof.Machine.execPhint a s
  | .ldSU8 d b o sc r => Sys2Proof.Machine.execLdSU8 d b o sc r s
  | .ldSI8 d b o sc r => Sys2Proof.Machine.execLdSI8 d b o sc r s
  | .ldSU16 d b o sc r => Sys2Proof.Machine.execLdSU16 d b o sc r s
  | .ldSI16 d b o sc r => Sys2Proof.Machine.execLdSI16 d b o sc r s
  | .ldS d b o sc r => Sys2Proof.Machine.execLdS d b o sc r s
  | .ldSB64 d b o sc r => Sys2Proof.Machine.execLdSB64 d b o sc r s
  | .stSB8 d b o sc r => Sys2Proof.Machine.execStSB8 d b o sc r s
  | .stSB16 d b o sc r => Sys2Proof.Machine.execStSB16 d b o sc r s
  | .stS d b o sc r => Sys2Proof.Machine.execStS d b o sc r s
  | .stSB64 d b o sc r => Sys2Proof.Machine.execStSB64 d b o sc r s
  | .ldGU8 d b o sc r => Sys2Proof.Machine.execLdGU8 d b o sc r s
  | .ldGI8 d b o sc r => Sys2Proof.Machine.execLdGI8 d b o sc r s
  | .ldGU16 d b o sc r => Sys2Proof.Machine.execLdGU16 d b o sc r s
  | .ldGI16 d b o sc r => Sys2Proof.Machine.execLdGI16 d b o sc r s
  | .ldG d b o sc r => Sys2Proof.Machine.execLdG d b o sc r s
  | .ldGB64 d b o sc r => Sys2Proof.Machine.execLdGB64 d b o sc r s
  | .stGB8 d b o sc r => Sys2Proof.Machine.execStGB8 d b o sc r s
  | .stGB16 d b o sc r => Sys2Proof.Machine.execStGB16 d b o sc r s
  | .stG d b o sc r => Sys2Proof.Machine.execStG d b o sc r s
  | .stGB64 d b o sc r => Sys2Proof.Machine.execStGB64 d b o sc r s
  | .ldtG d b o sc r => Sys2Proof.Machine.execLdtG d b o sc r s
  | .sttG d b o sc r => Sys2Proof.Machine.execSttG d b o sc r s
  | .ldtS d b o sc r => Sys2Proof.Machine.execLdtS d b o sc r s
  | .sttS d b o sc r => Sys2Proof.Machine.execSttS d b o sc r s
  | .atomS d b o sc r => Sys2Proof.Machine.execAtomS d b o sc r s
  | .atomSB64 d b o sc r => Sys2Proof.Machine.execAtomSB64 d b o sc r s
  | .atomG d b o sc r => Sys2Proof.Machine.execAtomG d b o sc r s
  | .atomGB64 d b o sc r => Sys2Proof.Machine.execAtomGB64 d b o sc r s
  | .fence sc r => Sys2Proof.Machine.execFence sc r s
  | .waita d b o sc r => Sys2Proof.Machine.execWaita d b o sc r s
  | .sinit a b => Sys2Proof.Machine.execSinit a b s
  | .twait d a b => Sys2Proof.Machine.execTwait d a b s
  | .give a => Sys2Proof.Machine.execGive a s
  | .claim a => Sys2Proof.Machine.execClaim a s
  | .bar => Sys2Proof.Machine.execBar s
  | .barN a => Sys2Proof.Machine.execBarN a s
  | .bbar => Sys2Proof.Machine.execBbar s
  | .mma d a b => Sys2Proof.Machine.execMma d a b s
  | .mmaBf16 d a b => Sys2Proof.Machine.execMmaBf16 d a b s
  | .mmaF16 d a b => Sys2Proof.Machine.execMmaF16 d a b s
  | .mmaSq d a b => Sys2Proof.Machine.execMmaSq d a b s
  | .aclr d => Sys2Proof.Machine.execAclr d s
  | .ald d a b => Sys2Proof.Machine.execAld d a b s
  | .ast d a b => Sys2Proof.Machine.execAst d a b s
  | .ascale d a => Sys2Proof.Machine.execAscale d a s
  | .aexp d a => Sys2Proof.Machine.execAexp d a s
  | .shape d m n k => Sys2Proof.Machine.execShape d m n k s
  | .setfmt k imm => Sys2Proof.Machine.execSetfmt k imm s
  | .getfmt d a => Sys2Proof.Machine.execGetfmt d a s
  | .setfmtR d a => Sys2Proof.Machine.execSetfmtR d a s
  | .copyG2s d a b => Sys2Proof.Machine.execCopyG2s d a b s
  | .copyS2g d a b => Sys2Proof.Machine.execCopyS2g d a b s
  | .copyS2s d a b => Sys2Proof.Machine.execCopyS2s d a b s
  | .copyG2g d a b => Sys2Proof.Machine.execCopyG2g d a b s
  | .copyG2sMc d a b => Sys2Proof.Machine.execCopyG2sMc d a b s
  | .copyS2sMc d a b => Sys2Proof.Machine.execCopyS2sMc d a b s
  | .cseal => Sys2Proof.Machine.execCseal s
  | .cwait imm => Sys2Proof.Machine.execCwait imm s
  | .sset a b k => Sys2Proof.Machine.execSset a b k s
  | .spop d a b => Sys2Proof.Machine.execSpop d a b s
  | .sstat d a b => Sys2Proof.Machine.execSstat d a b s
  | .sclose a => Sys2Proof.Machine.execSclose a s
  | .qfence m => Sys2Proof.Machine.execQfence m s
  | .hprobe a b => Sys2Proof.Machine.execHprobe a b s
  | .hins a b => Sys2Proof.Machine.execHins a b s
  | .hdel a b sc => Sys2Proof.Machine.execHdel a b sc s
  | .hrehash a b => Sys2Proof.Machine.execHrehash a b s
  | .hsetBind a b => Sys2Proof.Machine.execHsetBind a b s
  | .hsetBindClear a b => Sys2Proof.Machine.execHsetBindClear a b s
  | .hsetUnbind a b => Sys2Proof.Machine.execHsetUnbind a b s
  | .hsetStatus a b => Sys2Proof.Machine.execHsetStatus a b s
  | .gtopk a b o e m u => Sys2Proof.Machine.execGtopk a b o e m u s
  | .ghist a b w n => Sys2Proof.Machine.execGhist a b w n s
  | .gscan a b t f n => Sys2Proof.Machine.execGscan a b t f n s
  | .gperm a b o => Sys2Proof.Machine.execGperm a b o s
  | .isect d a b => Sys2Proof.Machine.execIsect d a b s
  | .launch a b => Sys2Proof.Machine.execLaunch a b s
  | .cancelDrain a => Sys2Proof.Machine.execCancelDrain a s
  | .cancelTrap a => Sys2Proof.Machine.execCancelTrap a s
  | .grd e p => Sys2Proof.Machine.execGrd e p s
  | .xim imm => Sys2Proof.Machine.execXim imm s
  | .csrr d n => Sys2Proof.Machine.execCsrr d n s
  | .csrw n a => Sys2Proof.Machine.execCsrw n a s
  | .tlbinv a b => Sys2Proof.Machine.execTlbinv a b s
  | .tlbinvAll a => Sys2Proof.Machine.execTlbinvAll a s
  | .globalAccessComplete w a => Sys2Proof.Machine.execGlobalAccessComplete w a s
  | .translationWalk die ctx va level block => Sys2Proof.Machine.execTranslationWalk die ctx va level block s
  | .fqheadPoll die => Sys2Proof.Machine.execFqheadPoll die s
  | .faultStatusObserved die n => Sys2Proof.Machine.execFaultStatusObserved die n s
  | .copyPerform w sectors => Sys2Proof.Machine.execCopyPerform w sectors s
  | .streamItemDeliver w k => Sys2Proof.Machine.execStreamItemDeliver w k s
  | .mmaPerform w => Sys2Proof.Machine.execMmaPerform w s
  | .aclrPerform w => Sys2Proof.Machine.execAclrPerform w s
  | .aldPerform w => Sys2Proof.Machine.execAldPerform w s
  | .astPerform w => Sys2Proof.Machine.execAstPerform w s
  | .ascalePerform w => Sys2Proof.Machine.execAscalePerform w s
  | .aexpPerform w => Sys2Proof.Machine.execAexpPerform w s
  | .hprobeRequest w => Sys2Proof.Machine.execHprobeRequest w s
  | .hinsRequest w => Sys2Proof.Machine.execHinsRequest w s
  | .hdelRequest w => Sys2Proof.Machine.execHdelRequest w s
  | .hrehashRequest w => Sys2Proof.Machine.execHrehashRequest w s
  | .hsetRequest w => Sys2Proof.Machine.execHsetRequest w s
  | .gtopkRequest w => Sys2Proof.Machine.execGtopkRequest w s
  | .ghistRequest w => Sys2Proof.Machine.execGhistRequest w s
  | .gscanRequest w => Sys2Proof.Machine.execGscanRequest w s
  | .gpermRequest w => Sys2Proof.Machine.execGpermRequest w s
  | .fabricOpPerform w ans => Sys2Proof.Machine.execFabricOpPerform w ans s
  | .sendRetryTimeout w => Sys2Proof.Machine.execSendRetryTimeout w s
  | .waitDeadline p => Sys2Proof.Machine.execWaitDeadline p s
  | .twaitBound p => Sys2Proof.Machine.execTwaitBound p s
  | .waitaReread p => Sys2Proof.Machine.execWaitaReread p s
  | .waitLimitTimeout p => Sys2Proof.Machine.execWaitLimitTimeout p s
  | .claimGrant g => Sys2Proof.Machine.execClaimGrant g s
  | .allowanceCycle c full => Sys2Proof.Machine.execAllowanceCycle c full s
  | .floorDue c lcore => Sys2Proof.Machine.execFloorDue c lcore s
  | .slewStep c => Sys2Proof.Machine.execSlewStep c s
  | .marverDispatch => Sys2Proof.Machine.execMarverDispatch s
  | .groupCompletion g => Sys2Proof.Machine.execGroupCompletion g s
  | .poolGroupCommit l => Sys2Proof.Machine.execPoolGroupCommit l s
  | .tileStatePoll l => Sys2Proof.Machine.execTileStatePoll l s
  | .classAgeing l => Sys2Proof.Machine.execClassAgeing l s
  | .quantumCommit l => Sys2Proof.Machine.execQuantumCommit l s
  | .coreDump die => Sys2Proof.Machine.execCoreDump die s
  | .dumpgoWrite v => Sys2Proof.Machine.execDumpgoWrite v s
  | .clampBlockWrite v => Sys2Proof.Machine.execClampBlockWrite v s
  | .mgmtRegisterWrite n v => Sys2Proof.Machine.execMgmtRegisterWrite n v s
  | .mread => Sys2Proof.Machine.execMread s
  | .mwrite => Sys2Proof.Machine.execMwrite s
  | .jlset => Sys2Proof.Machine.execJlset s
  | .jlstop => Sys2Proof.Machine.execJlstop s
  | .attest => Sys2Proof.Machine.execAttest s
  | .mailboxUnknownCommand => Sys2Proof.Machine.execMailboxUnknownCommand s
  | .jobLaunch => Sys2Proof.Machine.execJobLaunch s
  | .jobCancelDrain => Sys2Proof.Machine.execJobCancelDrain s
  | .jobCancelTrap => Sys2Proof.Machine.execJobCancelTrap s
  | .jobRecordSkip => Sys2Proof.Machine.execJobRecordSkip s
  | .hostInboundAccess link mailbox addr acc => Sys2Proof.Machine.execHostInboundAccess link mailbox addr acc s
  | .spireInboundAccess link addr acc => Sys2Proof.Machine.execSpireInboundAccess link addr acc s
  | .arrivalMatch link tag off bs => Sys2Proof.Machine.execArrivalMatch link tag off bs s
  | .arrivalTaskAppend imm => Sys2Proof.Machine.execArrivalTaskAppend imm s
  | .spireLaneFail link => Sys2Proof.Machine.execSpireLaneFail link s
  | .shelfFrame f => Sys2Proof.Machine.execShelfFrame f s
  | .frameLossTimeout => Sys2Proof.Machine.execFrameLossTimeout s
  | .belfryPeriod pm pd => Sys2Proof.Machine.execBelfryPeriod pm pd s
  | .unattTimer => Sys2Proof.Machine.execUnattTimer s
  | .restoreStagger cls c => Sys2Proof.Machine.execRestoreStagger cls c s
  | .bckgoGo => Sys2Proof.Machine.execBckgoGo s
  | .bckgoRestore => Sys2Proof.Machine.execBckgoRestore s
  | .checkpointCopyDone => Sys2Proof.Machine.execCheckpointCopyDone s
  | .checkpointFailResume => Sys2Proof.Machine.execCheckpointFailResume s
  | .restoreCopyDone => Sys2Proof.Machine.execRestoreCopyDone s
  | .lehrPeriod die mv => Sys2Proof.Machine.execLehrPeriod die mv s
  | .thermalSample die temps => Sys2Proof.Machine.execThermalSample die temps s
  | .thermalShutdown die => Sys2Proof.Machine.execThermalShutdown die s
  | .eolhUpdate die h => Sys2Proof.Machine.execEolhUpdate die h s
  | .softError p => Sys2Proof.Machine.execSoftError p s
  | .scrub die corrected spare => Sys2Proof.Machine.execScrub die corrected spare s
  | .quadRetire c pq => Sys2Proof.Machine.execQuadRetire c pq s
  | .engineRetire u => Sys2Proof.Machine.execEngineRetire u s
  | .moduleReset => Sys2Proof.Machine.execModuleReset s
  | .hostLinkTrained link => Sys2Proof.Machine.execHostLinkTrained link s
  | .linkTrainingTimeout => Sys2Proof.Machine.execLinkTrainingTimeout s
  | .firmwareStart img => Sys2Proof.Machine.execFirmwareStart img s
  | .scratchpadAccessComplete w a => Sys2Proof.Machine.execScratchpadAccessComplete w a s
  | .hostLinkDown link => Sys2Proof.Machine.execHostLinkDown link s
  | .spireLinkDown link => Sys2Proof.Machine.execSpireLinkDown link s

end Sys2Proof.Machine
end

