-- ==== Sys2Proof/Machine/Uses.lean ====
section
/-! DEFINITION. What the sequence checks and the scoreboard ask of an instruction: whether an operand field holds 0x7E (R34),
whether it takes no guard (R118, R158, R204, R259, R262), the uniform registers it names (R140). -/

namespace Sys2Proof

def VOp.isImm : VOp → Bool
  | .imm => true
  | _ => false
def SOp.isImm : SOp → Bool
  | .imm => true
  | _ => false
def COp.isImm : COp → Bool
  | .imm => true
  | _ => false

def VOp.sNums (wide : Bool) : VOp → List Nat
  | .s k => if wide then [k.val, k.val + 1] else [k.val]
  | _ => []
def SOp.sNums (wide : Bool) : SOp → List Nat
  | .s k => if wide then [k.val, k.val + 1] else [k.val]
  | _ => []
def SDst.sNums (wide : Bool) : SDst → List Nat
  | .s k => if wide then [k.val, k.val + 1] else [k.val]
  | _ => []
def COp.sNums : COp → List Nat
  | .s k => [k.val]
  | _ => []

/-- An operand field of the word holds 0x7E (R32, R34). -/
def usesImm : Instr → Bool
  | .addI32 _ a b => a.isImm || b.isImm
  | .subI32 _ a b => a.isImm || b.isImm
  | .mulI32 _ a b => a.isImm || b.isImm
  | .mulhiI32 _ a b => a.isImm || b.isImm
  | .mulhiU32 _ a b => a.isImm || b.isImm
  | .addsI32 _ a b => a.isImm || b.isImm
  | .subsI32 _ a b => a.isImm || b.isImm
  | .addsU32 _ a b => a.isImm || b.isImm
  | .subsU32 _ a b => a.isImm || b.isImm
  | .minI32 _ a b => a.isImm || b.isImm
  | .maxI32 _ a b => a.isImm || b.isImm
  | .minU32 _ a b => a.isImm || b.isImm
  | .maxU32 _ a b => a.isImm || b.isImm
  | .absI32 _ a => a.isImm
  | .andB32 _ a b => a.isImm || b.isImm
  | .orB32 _ a b => a.isImm || b.isImm
  | .xorB32 _ a b => a.isImm || b.isImm
  | .andnB32 _ a b => a.isImm || b.isImm
  | .shlB32 _ a b => a.isImm || b.isImm
  | .shrU32 _ a b => a.isImm || b.isImm
  | .shrI32 _ a b => a.isImm || b.isImm
  | .rotlB32 _ a b => a.isImm || b.isImm
  | .popcB32 _ a => a.isImm
  | .clzB32 _ a => a.isImm
  | .brevB32 _ a => a.isImm
  | .notB32 _ a => a.isImm
  | .bfeU32 _ a b => a.isImm || b.isImm
  | .bfeI32 _ a b => a.isImm || b.isImm
  | .bfiB32 _ a b => a.isImm || b.isImm
  | .bselB32 _ a b => a.isImm || b.isImm
  | .addI64 _ a b => a.isImm || b.isImm
  | .subI64 _ a b => a.isImm || b.isImm
  | .mulI64 _ a b => a.isImm || b.isImm
  | .shlB64 _ a b => a.isImm || b.isImm
  | .shrU64 _ a b => a.isImm || b.isImm
  | .shrI64 _ a b => a.isImm || b.isImm
  | .minI64 _ a b => a.isImm || b.isImm
  | .maxI64 _ a b => a.isImm || b.isImm
  | .mulwideI32 _ a b => a.isImm || b.isImm
  | .mulwideU32 _ a b => a.isImm || b.isImm
  | .madI32 _ a b => a.isImm || b.isImm
  | .madI64 _ a b => a.isImm || b.isImm
  | .addI32Imm _ a _ => a.isImm
  | .mulI32Imm _ a _ => a.isImm
  | .andB32Imm _ a _ => a.isImm
  | .orB32Imm _ a _ => a.isImm
  | .xorB32Imm _ a _ => a.isImm
  | .shlB32Imm _ a _ => a.isImm
  | .shrU32Imm _ a _ => a.isImm
  | .shrI32Imm _ a _ => a.isImm
  | .setpI32 _ _ a b => a.isImm || b.isImm
  | .setpU32 _ _ a b => a.isImm || b.isImm
  | .setpF32 _ _ a b => a.isImm || b.isImm
  | .setpI64 _ _ a b => a.isImm || b.isImm
  | .setpF16 _ _ a b => a.isImm || b.isImm
  | .setpBf16 _ _ a b => a.isImm || b.isImm
  | .selB32 _ a b _ _ => a.isImm || b.isImm
  | .movB32 _ a => a.isImm
  | .movB64 _ a => a.isImm
  | .shflIdx _ a b => a.isImm || b.isImm
  | .shflUp _ a b => a.isImm || b.isImm
  | .shflDown _ a b => a.isImm || b.isImm
  | .shflXor _ a b => a.isImm || b.isImm
  | .wredAddI32 _ a => a.isImm
  | .wredMinI32 _ a => a.isImm
  | .wredMaxI32 _ a => a.isImm
  | .wredAddF32 _ a => a.isImm
  | .wscanAddI32 _ a => a.isImm
  | .wscanAddxI32 _ a => a.isImm
  | .wscanAddF32 _ a => a.isImm
  | .voteAny _ a => a.isImm
  | .voteAll _ a => a.isImm
  | .voteBallot _ a => a.isImm
  | .wredAndB32 _ a => a.isImm
  | .wredOrB32 _ a => a.isImm
  | .faddF32 _ a b _ => a.isImm || b.isImm
  | .fsubF32 _ a b _ => a.isImm || b.isImm
  | .fmulF32 _ a b _ => a.isImm || b.isImm
  | .fmaF32 _ a b _ => a.isImm || b.isImm
  | .faddF16 _ a b _ => a.isImm || b.isImm
  | .fsubF16 _ a b _ => a.isImm || b.isImm
  | .fmulF16 _ a b _ => a.isImm || b.isImm
  | .fmaF16 _ a b _ => a.isImm || b.isImm
  | .faddBf16 _ a b _ => a.isImm || b.isImm
  | .fsubBf16 _ a b _ => a.isImm || b.isImm
  | .fmulBf16 _ a b _ => a.isImm || b.isImm
  | .fmaBf16 _ a b _ => a.isImm || b.isImm
  | .fminF32 _ a b => a.isImm || b.isImm
  | .fmaxF32 _ a b => a.isImm || b.isImm
  | .fabsF32 _ a => a.isImm
  | .fnegF32 _ a => a.isImm
  | .fminF16 _ a b => a.isImm || b.isImm
  | .fmaxF16 _ a b => a.isImm || b.isImm
  | .fminBf16 _ a b => a.isImm || b.isImm
  | .fmaxBf16 _ a b => a.isImm || b.isImm
  | .cvt _ a _ _ _ => a.isImm
  | .npack _ a b _ => a.isImm || b.isImm
  | .nunpack _ a b _ => a.isImm || b.isImm
  | .expF32 _ a => a.isImm
  | .exp2F32 _ a => a.isImm
  | .logF32 _ a => a.isImm
  | .log2F32 _ a => a.isImm
  | .sinpiF32 _ a => a.isImm
  | .cospiF32 _ a => a.isImm
  | .tanhF32 _ a => a.isImm
  | .sigmF32 _ a => a.isImm
  | .erfF32 _ a => a.isImm
  | .rcpF32 _ a => a.isImm
  | .rsqrtF32 _ a => a.isImm
  | .sqrtF32 _ a => a.isImm
  | .divF32 _ a b => a.isImm || b.isImm
  | .expF16 _ a => a.isImm
  | .exp2F16 _ a => a.isImm
  | .logF16 _ a => a.isImm
  | .log2F16 _ a => a.isImm
  | .sinpiF16 _ a => a.isImm
  | .cospiF16 _ a => a.isImm
  | .tanhF16 _ a => a.isImm
  | .sigmF16 _ a => a.isImm
  | .erfF16 _ a => a.isImm
  | .rcpF16 _ a => a.isImm
  | .rsqrtF16 _ a => a.isImm
  | .sqrtF16 _ a => a.isImm
  | .divF16 _ a b => a.isImm || b.isImm
  | .expBf16 _ a => a.isImm
  | .exp2Bf16 _ a => a.isImm
  | .logBf16 _ a => a.isImm
  | .log2Bf16 _ a => a.isImm
  | .sinpiBf16 _ a => a.isImm
  | .cospiBf16 _ a => a.isImm
  | .tanhBf16 _ a => a.isImm
  | .sigmBf16 _ a => a.isImm
  | .erfBf16 _ a => a.isImm
  | .rcpBf16 _ a => a.isImm
  | .rsqrtBf16 _ a => a.isImm
  | .sqrtBf16 _ a => a.isImm
  | .divBf16 _ a b => a.isImm || b.isImm
  | .saddI32 _ a b => a.isImm || b.isImm
  | .ssubI32 _ a b => a.isImm || b.isImm
  | .smulI32 _ a b => a.isImm || b.isImm
  | .sandB32 _ a b => a.isImm || b.isImm
  | .sorB32 _ a b => a.isImm || b.isImm
  | .sxorB32 _ a b => a.isImm || b.isImm
  | .sshlB32 _ a b => a.isImm || b.isImm
  | .sshrU32 _ a b => a.isImm || b.isImm
  | .sshrI32 _ a b => a.isImm || b.isImm
  | .sminI32 _ a b => a.isImm || b.isImm
  | .smaxI32 _ a b => a.isImm || b.isImm
  | .smovB32 _ a => a.isImm
  | .saddI64 _ a b => a.isImm || b.isImm
  | .ssubI64 _ a b => a.isImm || b.isImm
  | .sminU32 _ a b => a.isImm || b.isImm
  | .smaxU32 _ a b => a.isImm || b.isImm
  | .saddI32Imm _ a _ => a.isImm
  | .scmpEqI32 _ a b => a.isImm || b.isImm
  | .scmpNeI32 _ a b => a.isImm || b.isImm
  | .scmpLtI32 _ a b => a.isImm || b.isImm
  | .scmpLeI32 _ a b => a.isImm || b.isImm
  | .scmpGtI32 _ a b => a.isImm || b.isImm
  | .scmpGeI32 _ a b => a.isImm || b.isImm
  | .scmpEqU32 _ a b => a.isImm || b.isImm
  | .scmpNeU32 _ a b => a.isImm || b.isImm
  | .scmpLtU32 _ a b => a.isImm || b.isImm
  | .scmpLeU32 _ a b => a.isImm || b.isImm
  | .scmpGtU32 _ a b => a.isImm || b.isImm
  | .scmpGeU32 _ a b => a.isImm || b.isImm
  | .sets d => d.isImm
  | .setmask a => a.isImm
  | .jmpi a => a.isImm
  | .calli a => a.isImm
  | .wbase a => a.isImm
  | .sleepn d _ => d.isImm
  | .waitt a => a.isImm
  | .tmarkFull a => a.isImm
  | .tmarkEmpty a => a.isImm
  | .ttest _ a => a.isImm
  | .put a b _ _ => a.isImm || b.isImm
  | .get a b _ => a.isImm || b.isImm
  | .send a b _ _ => a.isImm || b.isImm
  | .pread _ a => a.isImm
  | .phint a => a.isImm
  | .ldSU8 _ b _ _ _ => b.isImm
  | .ldSI8 _ b _ _ _ => b.isImm
  | .ldSU16 _ b _ _ _ => b.isImm
  | .ldSI16 _ b _ _ _ => b.isImm
  | .ldS _ b _ _ _ => b.isImm
  | .ldSB64 _ b _ _ _ => b.isImm
  | .stSB8 d b _ _ _ => d.isImm || b.isImm
  | .stSB16 d b _ _ _ => d.isImm || b.isImm
  | .stS d b _ _ _ => d.isImm || b.isImm
  | .stSB64 d b _ _ _ => d.isImm || b.isImm
  | .ldGU8 _ b _ _ _ => b.isImm
  | .ldGI8 _ b _ _ _ => b.isImm
  | .ldGU16 _ b _ _ _ => b.isImm
  | .ldGI16 _ b _ _ _ => b.isImm
  | .ldG _ b _ _ _ => b.isImm
  | .ldGB64 _ b _ _ _ => b.isImm
  | .stGB8 d b _ _ _ => d.isImm || b.isImm
  | .stGB16 d b _ _ _ => d.isImm || b.isImm
  | .stG d b _ _ _ => d.isImm || b.isImm
  | .stGB64 d b _ _ _ => d.isImm || b.isImm
  | .ldtG _ b _ _ _ => b.isImm
  | .sttG _ b _ _ _ => b.isImm
  | .ldtS _ b _ _ _ => b.isImm
  | .sttS _ b _ _ _ => b.isImm
  | .atomS _ b _ _ _ => b.isImm
  | .atomSB64 _ b _ _ _ => b.isImm
  | .atomG _ b _ _ _ => b.isImm
  | .atomGB64 _ b _ _ _ => b.isImm
  | .waita _ b _ _ _ => b.isImm
  | .sinit a b => a.isImm || b.isImm
  | .twait _ a b => a.isImm || b.isImm
  | .give a => a.isImm
  | .claim a => a.isImm
  | .barN a => a.isImm
  | .mma _ a b => a.isImm || b.isImm
  | .mmaBf16 _ a b => a.isImm || b.isImm
  | .mmaF16 _ a b => a.isImm || b.isImm
  | .mmaSq _ _ b => b.isImm
  | .ald _ a b => a.isImm || b.isImm
  | .ast _ a b => a.isImm || b.isImm
  | .ascale _ a => a.isImm
  | .setfmtR _ a => a.isImm
  | .copyG2s d a b => d.isImm || a.isImm || b.isImm
  | .copyS2g d a b => d.isImm || a.isImm || b.isImm
  | .copyS2s d a b => d.isImm || a.isImm || b.isImm
  | .copyG2g d a b => d.isImm || a.isImm || b.isImm
  | .copyG2sMc d a b => d.isImm || a.isImm || b.isImm
  | .copyS2sMc d a b => d.isImm || a.isImm || b.isImm
  | .sset a b _ => a.isImm || b.isImm
  | .sstat _ _ b => b.isImm
  | .hprobe a b => a.isImm || b.isImm
  | .hins a b => a.isImm || b.isImm
  | .hdel a b _ => a.isImm || b.isImm
  | .hrehash a b => a.isImm || b.isImm
  | .hsetBind a b => a.isImm || b.isImm
  | .hsetBindClear a b => a.isImm || b.isImm
  | .hsetUnbind a b => a.isImm || b.isImm
  | .hsetStatus a b => a.isImm || b.isImm
  | .gtopk a b _ _ _ _ => a.isImm || b.isImm
  | .ghist a b _ _ => a.isImm || b.isImm
  | .gscan a b _ _ _ => a.isImm || b.isImm
  | .gperm a b _ => a.isImm || b.isImm
  | .isect _ a b => a.isImm || b.isImm
  | .launch a b => a.isImm || b.isImm
  | .cancelDrain a => a.isImm
  | .cancelTrap a => a.isImm
  | .csrw _ a => a.isImm
  | .tlbinv a b => a.isImm || b.isImm
  | .tlbinvAll a => a.isImm
  | _ => false

/-- A B-, W- or I-format word, before which no chain may stand, whatever its fields hold (R34, R41). -/
def noChain : Instr → Bool
  | .bra _ _ _ => true
  | .bru _ _ _ => true
  | .call _ => true
  | .getsVector _ _ => true
  | .getsScalar _ _ => true
  | .sets _ => true
  | .sleepn _ _ => true
  | .shape _ _ _ _ => true
  | .setfmt _ _ => true
  | .addI32Imm _ _ _ => true
  | .mulI32Imm _ _ _ => true
  | .andB32Imm _ _ _ => true
  | .orB32Imm _ _ _ => true
  | .xorB32Imm _ _ _ => true
  | .shlB32Imm _ _ _ => true
  | .shrU32Imm _ _ _ => true
  | .shrI32Imm _ _ _ => true
  | .movB32Imm _ _ => true
  | .cvt _ _ _ _ _ => true
  | .smovB32Imm _ _ => true
  | .saddI32Imm _ _ _ => true
  | .cwait _ => true
  | _ => false

/-- The word takes no guard. -/
def unguarded : Instr → Bool
  | .nop => true
  | .join => true
  | .yield => true
  | .tret => true
  | .setmask _ => true
  | .trap _ => true
  | .sleepn _ _ => true
  | .waitt _ => true
  | .fence _ _ => true
  | .give _ => true
  | .claim _ => true
  | .bar => true
  | .barN _ => true
  | .bbar => true
  | .qfence _ => true
  | .sclose _ => true
  | .grd _ _ => true
  | .xim _ => true
  | _ => false

/-- The uniform registers that the word reads or writes. -/
def sNums : Instr → List Nat
  | .addI32 _ a b => a.sNums false ++ b.sNums false
  | .subI32 _ a b => a.sNums false ++ b.sNums false
  | .mulI32 _ a b => a.sNums false ++ b.sNums false
  | .mulhiI32 _ a b => a.sNums false ++ b.sNums false
  | .mulhiU32 _ a b => a.sNums false ++ b.sNums false
  | .addsI32 _ a b => a.sNums false ++ b.sNums false
  | .subsI32 _ a b => a.sNums false ++ b.sNums false
  | .addsU32 _ a b => a.sNums false ++ b.sNums false
  | .subsU32 _ a b => a.sNums false ++ b.sNums false
  | .minI32 _ a b => a.sNums false ++ b.sNums false
  | .maxI32 _ a b => a.sNums false ++ b.sNums false
  | .minU32 _ a b => a.sNums false ++ b.sNums false
  | .maxU32 _ a b => a.sNums false ++ b.sNums false
  | .absI32 _ a => a.sNums false
  | .andB32 _ a b => a.sNums false ++ b.sNums false
  | .orB32 _ a b => a.sNums false ++ b.sNums false
  | .xorB32 _ a b => a.sNums false ++ b.sNums false
  | .andnB32 _ a b => a.sNums false ++ b.sNums false
  | .shlB32 _ a b => a.sNums false ++ b.sNums false
  | .shrU32 _ a b => a.sNums false ++ b.sNums false
  | .shrI32 _ a b => a.sNums false ++ b.sNums false
  | .rotlB32 _ a b => a.sNums false ++ b.sNums false
  | .popcB32 _ a => a.sNums false
  | .clzB32 _ a => a.sNums false
  | .brevB32 _ a => a.sNums false
  | .notB32 _ a => a.sNums false
  | .bfeU32 _ a b => a.sNums false ++ b.sNums false
  | .bfeI32 _ a b => a.sNums false ++ b.sNums false
  | .bfiB32 _ a b => a.sNums false ++ b.sNums false
  | .bselB32 _ a b => a.sNums false ++ b.sNums false
  | .addI64 _ a b => a.sNums true ++ b.sNums true
  | .subI64 _ a b => a.sNums true ++ b.sNums true
  | .mulI64 _ a b => a.sNums true ++ b.sNums true
  | .shlB64 _ a b => a.sNums true ++ b.sNums false
  | .shrU64 _ a b => a.sNums true ++ b.sNums false
  | .shrI64 _ a b => a.sNums true ++ b.sNums false
  | .minI64 _ a b => a.sNums true ++ b.sNums true
  | .maxI64 _ a b => a.sNums true ++ b.sNums true
  | .mulwideI32 _ a b => a.sNums false ++ b.sNums false
  | .mulwideU32 _ a b => a.sNums false ++ b.sNums false
  | .madI32 _ a b => a.sNums false ++ b.sNums false
  | .madI64 _ a b => a.sNums true ++ b.sNums true
  | .addI32Imm _ a _ => a.sNums false
  | .mulI32Imm _ a _ => a.sNums false
  | .andB32Imm _ a _ => a.sNums false
  | .orB32Imm _ a _ => a.sNums false
  | .xorB32Imm _ a _ => a.sNums false
  | .shlB32Imm _ a _ => a.sNums false
  | .shrU32Imm _ a _ => a.sNums false
  | .shrI32Imm _ a _ => a.sNums false
  | .setpI32 _ _ a b => a.sNums false ++ b.sNums false
  | .setpU32 _ _ a b => a.sNums false ++ b.sNums false
  | .setpF32 _ _ a b => a.sNums false ++ b.sNums false
  | .setpI64 _ _ a b => a.sNums true ++ b.sNums true
  | .setpF16 _ _ a b => a.sNums false ++ b.sNums false
  | .setpBf16 _ _ a b => a.sNums false ++ b.sNums false
  | .selB32 _ a b _ _ => a.sNums false ++ b.sNums false
  | .movB32 _ a => a.sNums false
  | .movB64 _ a => a.sNums true
  | .shflIdx _ a b => a.sNums false ++ b.sNums false
  | .shflUp _ a b => a.sNums false ++ b.sNums false
  | .shflDown _ a b => a.sNums false ++ b.sNums false
  | .shflXor _ a b => a.sNums false ++ b.sNums false
  | .wredAddI32 _ a => a.sNums false
  | .wredMinI32 _ a => a.sNums false
  | .wredMaxI32 _ a => a.sNums false
  | .wredAddF32 _ a => a.sNums false
  | .wscanAddI32 _ a => a.sNums false
  | .wscanAddxI32 _ a => a.sNums false
  | .wscanAddF32 _ a => a.sNums false
  | .voteAny _ a => a.sNums false
  | .voteAll _ a => a.sNums false
  | .voteBallot _ a => a.sNums false
  | .wredAndB32 _ a => a.sNums false
  | .wredOrB32 _ a => a.sNums false
  | .faddF32 _ a b _ => a.sNums false ++ b.sNums false
  | .fsubF32 _ a b _ => a.sNums false ++ b.sNums false
  | .fmulF32 _ a b _ => a.sNums false ++ b.sNums false
  | .fmaF32 _ a b _ => a.sNums false ++ b.sNums false
  | .faddF16 _ a b _ => a.sNums false ++ b.sNums false
  | .fsubF16 _ a b _ => a.sNums false ++ b.sNums false
  | .fmulF16 _ a b _ => a.sNums false ++ b.sNums false
  | .fmaF16 _ a b _ => a.sNums false ++ b.sNums false
  | .faddBf16 _ a b _ => a.sNums false ++ b.sNums false
  | .fsubBf16 _ a b _ => a.sNums false ++ b.sNums false
  | .fmulBf16 _ a b _ => a.sNums false ++ b.sNums false
  | .fmaBf16 _ a b _ => a.sNums false ++ b.sNums false
  | .fminF32 _ a b => a.sNums false ++ b.sNums false
  | .fmaxF32 _ a b => a.sNums false ++ b.sNums false
  | .fabsF32 _ a => a.sNums false
  | .fnegF32 _ a => a.sNums false
  | .fminF16 _ a b => a.sNums false ++ b.sNums false
  | .fmaxF16 _ a b => a.sNums false ++ b.sNums false
  | .fminBf16 _ a b => a.sNums false ++ b.sNums false
  | .fmaxBf16 _ a b => a.sNums false ++ b.sNums false
  | .cvt _ a _ _ u => a.sNums (u == .u64 || u == .i64)
  | .npack _ a b _ => a.sNums false ++ b.sNums false
  | .nunpack _ a b _ => a.sNums false ++ b.sNums false
  | .expF32 _ a => a.sNums false
  | .exp2F32 _ a => a.sNums false
  | .logF32 _ a => a.sNums false
  | .log2F32 _ a => a.sNums false
  | .sinpiF32 _ a => a.sNums false
  | .cospiF32 _ a => a.sNums false
  | .tanhF32 _ a => a.sNums false
  | .sigmF32 _ a => a.sNums false
  | .erfF32 _ a => a.sNums false
  | .rcpF32 _ a => a.sNums false
  | .rsqrtF32 _ a => a.sNums false
  | .sqrtF32 _ a => a.sNums false
  | .divF32 _ a b => a.sNums false ++ b.sNums false
  | .expF16 _ a => a.sNums false
  | .exp2F16 _ a => a.sNums false
  | .logF16 _ a => a.sNums false
  | .log2F16 _ a => a.sNums false
  | .sinpiF16 _ a => a.sNums false
  | .cospiF16 _ a => a.sNums false
  | .tanhF16 _ a => a.sNums false
  | .sigmF16 _ a => a.sNums false
  | .erfF16 _ a => a.sNums false
  | .rcpF16 _ a => a.sNums false
  | .rsqrtF16 _ a => a.sNums false
  | .sqrtF16 _ a => a.sNums false
  | .divF16 _ a b => a.sNums false ++ b.sNums false
  | .expBf16 _ a => a.sNums false
  | .exp2Bf16 _ a => a.sNums false
  | .logBf16 _ a => a.sNums false
  | .log2Bf16 _ a => a.sNums false
  | .sinpiBf16 _ a => a.sNums false
  | .cospiBf16 _ a => a.sNums false
  | .tanhBf16 _ a => a.sNums false
  | .sigmBf16 _ a => a.sNums false
  | .erfBf16 _ a => a.sNums false
  | .rcpBf16 _ a => a.sNums false
  | .rsqrtBf16 _ a => a.sNums false
  | .sqrtBf16 _ a => a.sNums false
  | .divBf16 _ a b => a.sNums false ++ b.sNums false
  | .saddI32 d a b => d.sNums false ++ a.sNums false ++ b.sNums false
  | .ssubI32 d a b => d.sNums false ++ a.sNums false ++ b.sNums false
  | .smulI32 d a b => d.sNums false ++ a.sNums false ++ b.sNums false
  | .sandB32 d a b => d.sNums false ++ a.sNums false ++ b.sNums false
  | .sorB32 d a b => d.sNums false ++ a.sNums false ++ b.sNums false
  | .sxorB32 d a b => d.sNums false ++ a.sNums false ++ b.sNums false
  | .sshlB32 d a b => d.sNums false ++ a.sNums false ++ b.sNums false
  | .sshrU32 d a b => d.sNums false ++ a.sNums false ++ b.sNums false
  | .sshrI32 d a b => d.sNums false ++ a.sNums false ++ b.sNums false
  | .sminI32 d a b => d.sNums false ++ a.sNums false ++ b.sNums false
  | .smaxI32 d a b => d.sNums false ++ a.sNums false ++ b.sNums false
  | .smovB32 d a => d.sNums false ++ a.sNums false
  | .saddI64 d a b => d.sNums true ++ a.sNums true ++ b.sNums true
  | .ssubI64 d a b => d.sNums true ++ a.sNums true ++ b.sNums true
  | .sminU32 d a b => d.sNums false ++ a.sNums false ++ b.sNums false
  | .smaxU32 d a b => d.sNums false ++ a.sNums false ++ b.sNums false
  | .smovB32Imm d _ => d.sNums false
  | .saddI32Imm d a _ => d.sNums false ++ a.sNums false
  | .scmpEqI32 _ a b => a.sNums false ++ b.sNums false
  | .scmpNeI32 _ a b => a.sNums false ++ b.sNums false
  | .scmpLtI32 _ a b => a.sNums false ++ b.sNums false
  | .scmpLeI32 _ a b => a.sNums false ++ b.sNums false
  | .scmpGtI32 _ a b => a.sNums false ++ b.sNums false
  | .scmpGeI32 _ a b => a.sNums false ++ b.sNums false
  | .scmpEqU32 _ a b => a.sNums false ++ b.sNums false
  | .scmpNeU32 _ a b => a.sNums false ++ b.sNums false
  | .scmpLtU32 _ a b => a.sNums false ++ b.sNums false
  | .scmpLeU32 _ a b => a.sNums false ++ b.sNums false
  | .scmpGtU32 _ a b => a.sNums false ++ b.sNums false
  | .scmpGeU32 _ a b => a.sNums false ++ b.sNums false
  | .getsScalar d _ => d.sNums true
  | .sets d => d.sNums false
  | .setmask a => a.sNums false
  | .jmpi a => a.sNums true
  | .calli a => a.sNums true
  | .wbase a => a.sNums false
  | .sleepn d _ => d.sNums false
  | .waitt a => a.sNums true
  | .tmarkFull a => a.sNums true
  | .tmarkEmpty a => a.sNums true
  | .ttest _ a => a.sNums true
  | .put a b _ _ => a.sNums false ++ b.sNums false
  | .get a b _ => a.sNums false ++ b.sNums false
  | .send a b _ _ => a.sNums false ++ b.sNums false
  | .pread d a => d.sNums false ++ a.sNums false
  | .phint a => a.sNums false
  | .ldSU8 _ b _ _ _ => b.sNums false
  | .ldSI8 _ b _ _ _ => b.sNums false
  | .ldSU16 _ b _ _ _ => b.sNums false
  | .ldSI16 _ b _ _ _ => b.sNums false
  | .ldS _ b _ _ _ => b.sNums false
  | .ldSB64 _ b _ _ _ => b.sNums false
  | .stSB8 d b _ _ _ => d.sNums false ++ b.sNums false
  | .stSB16 d b _ _ _ => d.sNums false ++ b.sNums false
  | .stS d b _ _ _ => d.sNums false ++ b.sNums false
  | .stSB64 d b _ _ _ => d.sNums true ++ b.sNums false
  | .ldGU8 _ b _ _ _ => b.sNums true
  | .ldGI8 _ b _ _ _ => b.sNums true
  | .ldGU16 _ b _ _ _ => b.sNums true
  | .ldGI16 _ b _ _ _ => b.sNums true
  | .ldG _ b _ _ _ => b.sNums true
  | .ldGB64 _ b _ _ _ => b.sNums true
  | .stGB8 d b _ _ _ => d.sNums false ++ b.sNums true
  | .stGB16 d b _ _ _ => d.sNums false ++ b.sNums true
  | .stG d b _ _ _ => d.sNums false ++ b.sNums true
  | .stGB64 d b _ _ _ => d.sNums true ++ b.sNums true
  | .ldtG _ b _ _ _ => b.sNums true
  | .sttG _ b _ _ _ => b.sNums true
  | .ldtS _ b _ _ _ => b.sNums false
  | .sttS _ b _ _ _ => b.sNums false
  | .atomS _ b _ _ _ => b.sNums false
  | .atomSB64 _ b _ _ _ => b.sNums false
  | .atomG _ b _ _ _ => b.sNums true
  | .atomGB64 _ b _ _ _ => b.sNums true
  | .waita _ b _ _ _ => b.sNums true
  | .sinit a b => a.sNums false ++ b.sNums false
  | .twait _ a b => a.sNums false ++ b.sNums false
  | .give a => a.sNums
  | .claim a => a.sNums
  | .barN a => a.sNums
  | .mma _ a b => a.sNums false ++ b.sNums false
  | .mmaBf16 _ a b => a.sNums false ++ b.sNums false
  | .mmaF16 _ a b => a.sNums false ++ b.sNums false
  | .mmaSq _ _ b => b.sNums false
  | .ald _ a b => a.sNums false ++ b.sNums false
  | .ast _ a b => a.sNums false ++ b.sNums false
  | .ascale _ a => a.sNums false
  | .aexp _ a => a.sNums false
  | .shape d _ _ _ => d.sNums false
  | .getfmt d _ => d.sNums false
  | .setfmtR _ a => a.sNums false
  | .copyG2s d a b => d.sNums false ++ a.sNums true ++ b.sNums true
  | .copyS2g d a b => d.sNums true ++ a.sNums false ++ b.sNums true
  | .copyS2s d a b => d.sNums false ++ a.sNums false ++ b.sNums true
  | .copyG2g d a b => d.sNums true ++ a.sNums true ++ b.sNums true
  | .copyG2sMc d a b => d.sNums false ++ a.sNums true ++ b.sNums true
  | .copyS2sMc d a b => d.sNums false ++ a.sNums false ++ b.sNums true
  | .sset a b _ => a.sNums false ++ b.sNums false
  | .sstat _ _ b => b.sNums false
  | .hprobe a b => a.sNums false ++ b.sNums true
  | .hins a b => a.sNums false ++ b.sNums false
  | .hdel a b _ => a.sNums false ++ b.sNums false
  | .hrehash a b => a.sNums false ++ b.sNums true
  | .hsetBind a b => a.sNums false ++ b.sNums false
  | .hsetBindClear a b => a.sNums false ++ b.sNums false
  | .hsetUnbind a b => a.sNums false ++ b.sNums false
  | .hsetStatus a b => a.sNums false ++ b.sNums false
  | .gtopk a b _ _ _ _ => a.sNums false ++ b.sNums true
  | .ghist a b _ _ => a.sNums false ++ b.sNums true
  | .gscan a b _ _ _ => a.sNums false ++ b.sNums true
  | .gperm a b _ => a.sNums false ++ b.sNums true
  | .isect _ a b => a.sNums false ++ b.sNums false
  | .launch a b => a.sNums true ++ b.sNums false
  | .cancelDrain a => a.sNums true
  | .cancelTrap a => a.sNums true
  | .csrr d _ => d.sNums true
  | .csrw _ a => a.sNums true
  | .tlbinv a b => a.sNums false ++ b.sNums true
  | .tlbinvAll a => a.sNums false
  | _ => []

/-- The word can move, split, merge or end its path. -/
def movesPath : Instr → Bool
  | .bra _ _ _ => true
  | .bru _ _ _ => true
  | .call _ => true
  | .ret => true
  | .jmpi _ => true
  | .calli _ => true
  | .join => true
  | .exit => true
  | .tret => true
  | _ => false

end Sys2Proof
end

