-- ==== Sys2Proof/Machine/Issue.lean ====
section
/-! DEFINITION. Fetching and issuing the words of paths, the issue cycle of a core, and whose turn it is when nothing is
laid down (R24, R31 to R35, R39, R57, R59, R120, R139, R140, R175, R176, R206, R207, R250, R317, R319; log 3). Everything
that decodes is noncomputable for Lean's compiler only: it has no code for a constructor as late as those of `Instr`. -/

namespace Sys2Proof.Machine

/-! ### Words in memory -/

/-- A word of the path's program, if its address translates. -/
def State.word? (s : State) (c : Ctx) (pc : Nat) : Option Word :=
  match s.translate c.group.die c.launch.ctx c.path.priv .fetch pc 4 with
  | .error _ => none
  | .ok p => if pc % 4 = 0 then some (BitVec.ofNat 32 (leNat (s.physRead p 4))) else none

def isPrefix (w : Word) : Bool := fOp w == 0x7C || fOp w == 0x7D

/-- The words of the sequence at an address: prefixes, of which four can stand in a row, and one word more (R31, R34). -/
def State.seqWords (s : State) (c : Ctx) : (fuel pc : Nat) → List Word
  | 0, _ => []
  | n + 1, pc =>
    match s.word? c pc with
    | none => []
    | some w => if isPrefix w && pc % 64 != 60 then w :: s.seqWords c n (pc + 4) else [w]

/-- The sequence that the path issues next. -/
def State.seqAhead (s : State) (c : Ctx) : List Word := s.seqWords c 5 c.path.pc.toNat

/-- The guard that a sequence's first word gives it (R31). -/
def guardOf (w : Word) : Option (Bool × Fin 8) :=
  if fOp w = 0x7C then some (w.getLsbD 24, (w.extractLsb' 21 3).toFin) else none

/-- The path with the first word, the length and the guard of the sequence ahead in its record's fields (R317). -/
def Path.ahead (p : Path) (ws : List Word) : Path :=
  if p.seq.len = 0 then
    { p with seq := { Seq.empty with start := p.pc, first := ws.headD 0, len := ws.length, guard := guardOf (ws.headD 0) } }
  else p

/-- The path has taken a word. -/
def Path.take (p : Path) (w : Word) : Path :=
  if p.seq.len = 0 then { p with seq := { Seq.empty with start := p.pc, first := w, word := w, len := 1 } }
  else { p with seq := { p.seq with word := w, len := p.seq.len + 1 } }

/-- The word at the path's pc (R24, R120). A fetch reads the whole 64-byte block, and fails on an uncorrectable unit of
it (log 31). -/
def State.fetch (s : State) (c : Ctx) : Except AFault Word :=
  match s.translate c.group.die c.launch.ctx c.path.priv .fetch c.path.pc.toNat 4 with
  | .error f => .error (.x f .fetch c.path.pc)
  | .ok p =>
    if s.physBad { p with addr := p.addr / 64 * 64 } 64 then .error (.ecc c.path.pc)
    else .ok (BitVec.ofNat 32 (leNat (s.physRead p 4)))

/-- The trap of a fetch that fails; its fault record names the active threads (R248). -/
def State.fetchTrap (s : State) (c : Ctx) (f : AFault) : State :=
  let t := (ixs c.path.active).headD 0
  match f with
  | .x x _ va =>
    let (s1, r) := s.postFault c.group.die
      ⟨va, c.launch.ctx, .fetch, x, c.group.core, c.wave.wslot, c.path.active, false⟩
    s1.takeTrap c { cause := if x.cause = 2 then .perm else .xlate, perf := true, addr := va,
                    own := [(t, if x.cause = 2 then 0x07 else 0x06)], refs := [(t, r)] }
  | .ecc va => s.takeTrap c { cause := .ecc, perf := true, addr := va, own := [(t, 0x11)] }
  | .inCtx _ _ _ _ => s
  | .excluded _ _ => s
  | .again _ => s

/-! ### What the scoreboard and the matrix queue hold back (R140, R175, R176) -/

/-- The tile of a matrix-class word. -/
def tileOf : Instr → Option Nat
  | .mma d _ _ => some d.toNat
  | .mmaBf16 d _ _ => some d.toNat
  | .mmaF16 d _ _ => some d.toNat
  | .mmaSq d _ _ => some d.toNat
  | .aclr d => some d.toNat
  | .ald d _ _ => some d.toNat
  | .ast d _ _ => some d.toNat
  | .ascale d _ => some d.toNat
  | .aexp d _ => some d.toNat
  | _ => none

/-- The tile that a queued entry writes. -/
def MatOp.writes (o : MatOp) : Option Nat :=
  match o.kind with
  | .ast => none
  | .aexp => none
  | .mma _ => some o.tile
  | .aclr => some o.tile
  | .ald => some o.tile
  | .ascale => some o.tile

/-- The uniform register of a path's slot that a queued entry writes. -/
def MatOp.writesS (o : MatOp) (slot : Bool) : List Nat :=
  match o.kind with
  | .aexp => if o.slot = slot then o.dst.sNums false else []
  | _ => []

/-- Entries that the quad's reservation table holds for a core. -/
def State.queued (s : State) (core : Nat) : Nat :=
  ((s.groups.filter fun g => g.core == core).flatMap fun g => g.waves.map fun w => w.mq.length).sum

/-- The word splits its path, which copies every uniform register (R50, R120). -/
def Ctx.splits (c : Ctx) (i : Instr) : Bool :=
  let some_ (ts : List Nat) : Bool := !ts.isEmpty && maskOf ts != c.path.mask
  match i with
  | .bra e p _ => some_ (c.perf.filter (c.condIn e p))
  | .call _ => some_ c.perf
  | .ret => some_ c.perf
  | .jmpi _ => some_ c.perf
  | .calli _ => some_ c.perf
  | _ => false

/-- A relaxed store with these sources may issue before the loads of its path that read later have read: none of them writes
what the store reads, which is no latch (R140, R220; log 7). -/
def Ctx.unwritten (c : Ctx) (xs : List Src) : Bool :=
  let mine (l : Load) : List (Nat × Nat × Nat) :=
    (c.unit l.thread 0 (srcOf l.dst)).toList ++ (if l.n = 8 then (c.unit l.thread 1 (srcOf l.dst)).toList else [])
  xs.all fun x =>
    (match x.op with | .h _ => false | _ => true)
    && c.wave.loads.all fun l => l.slot != c.ref.slot
      || !(((c.unit l.thread 0 x.op).toList ++ if x.wide then (c.unit l.thread 1 x.op).toList else []).any (mine l).contains)

/-- The word leaves the loads of its path that read later as they are; in front of any other word they are performed. -/
def keepsLoads (c : Ctx) (i : Instr) : Bool :=
  !c.path.priv &&
  match i with
  | .stSB8 d b _ _ r => r == .rlx && c.unwritten [⟨d, false⟩, ⟨b, false⟩]
  | .stSB16 d b _ _ r => r == .rlx && c.unwritten [⟨d, false⟩, ⟨b, false⟩]
  | .stS d b _ _ r => r == .rlx && c.unwritten [⟨d, false⟩, ⟨b, false⟩]
  | .stSB64 d b _ _ r => r == .rlx && c.unwritten [⟨d, true⟩, ⟨b, false⟩]
  | .stGB8 d b _ _ r => r == .rlx && c.unwritten [⟨d, false⟩, ⟨b, true⟩]
  | .stGB16 d b _ _ r => r == .rlx && c.unwritten [⟨d, false⟩, ⟨b, true⟩]
  | .stG d b _ _ r => r == .rlx && c.unwritten [⟨d, false⟩, ⟨b, true⟩]
  | .stGB64 d b _ _ r => r == .rlx && c.unwritten [⟨d, true⟩, ⟨b, true⟩]
  | .sttS d b _ _ r => r == .rlx && c.unwritten (⟨b, false⟩ :: rowSrcs d)
  | .sttG d b _ _ r => r == .rlx && c.unwritten (⟨b, true⟩ :: rowSrcs d)
  | _ => false

/-- The slots whose uniform registers the path's `join` reads or writes: both where it merges with the path in the other
slot, its own where it merges or changes places with the top record, none where it finds no partner or waits (R51, R54). -/
def Ctx.joinSlots (c : Ctx) : List Bool :=
  match c.path.split with
  | none => []
  | some (n, side) =>
    match c.wave.split? n with
    | none => []
    | some e =>
      if e.ended then []
      else
        match c.partner n side with
        | some q => if q.wait == .join && q.pc == c.path.pc then [false, true] else []
        | none =>
          match c.wave.stack with
          | [] => []
          | h :: _ => if h.split = some (n, !side) then [c.ref.slot] else []

/-- The word reads or writes a uniform register that a queued entry writes. -/
def Ctx.meetsS (c : Ctx) (i : Instr) (o : MatOp) : Bool :=
  ((o.writesS c.ref.slot).any fun k => (sNums i).contains k && !(c.path.priv && decide (k < 16)))
  || (c.splits i && !(o.writesS c.ref.slot).isEmpty)
  || (match i with
      | .join => c.joinSlots.any fun b => !(o.writesS b).isEmpty
      | _ => false)

/-- The word uses a register or a tile that a queued entry writes. -/
def Ctx.meets (c : Ctx) (i : Instr) (o : MatOp) : Bool :=
  c.meetsS i o
  || (match tileOf i, o.writes with
      | some a, some b => a == b
      | _, _ => false)

/-- The quad's reservation table has no room for a word. -/
def State.tableFull (s : State) (c : Ctx) (i : Instr) : Bool := (tileOf i).isSome && decide (16 ≤ s.queued c.group.core)

/-- A word must wait for the matrix queue. -/
def State.holds (s : State) (c : Ctx) (i : Instr) : Bool := s.tableFull c i || c.wave.mq.any (c.meets i)

/-- A word must wait for what a commit performs first: an entry that waits for one writes a register or a tile that the word
uses (R233). A word that waits for room in the quad's table ends no quantum (log 89). -/
def Ctx.holdsToCommit (c : Ctx) (i : Instr) : Bool := c.wave.bound.any (c.meets i)

/-- A condition on the sequence that the path would issue. -/
noncomputable def State.onAhead (s : State) (c : Ctx) (f : Ctx → Instr → Bool) : Bool :=
  let ws := s.seqAhead c
  match ws.getLast? with
  | none => false
  | some w =>
    match decodeWord w with
    | .error _ => false
    | .ok i => f { c with path := c.path.ahead ws } i

/-- The sequence that the path would issue is held back. -/
noncomputable def State.heldBack (s : State) (c : Ctx) : Bool := s.onAhead c s.holds

/-- The path would issue next in its wave, and its sequence is held back until a commit: its quantum ends (R233). It is the
path's turn when the other path of the wave issued last, or waits, or is not there (R139). -/
noncomputable def State.endsHeld (s : State) (c : Ctx) : Bool :=
  c.launch.repro && s.eligible c && c.wave.cancel.isNone && c.path.seq.len == 0
  && (c.ref.slot != c.wave.lastSlot || (match s.ctxAt { c.ref with slot := !c.ref.slot } with
      | none => true
      | some x => !s.eligible x))
  && s.onAhead c Ctx.holdsToCommit

/-- A path whose next word can issue now (R59). -/
noncomputable def State.canIssue (s : State) (c : Ctx) : Bool :=
  s.eligible c && (c.wave.cancel.isSome || !s.heldBack c)

/-! ### What a word costs (R57, R206) -/

/-- Vector-class words, which hold a lane (R58, R139). -/
def holdsLane (w : Word) : Bool :=
  let op := fOp w
  let fn := fFn w
  let within (a b : Nat) : Bool := decide (a ≤ op) && decide (op ≤ b)
  within 0x01 0x05 || within 0x08 0x10 || within 0x12 0x1E || within 0x20 0x24 || (op == 0x2C && w.getLsbD 17)
  || op == 0x32 || (op == 0x33 && [2, 3, 6, 9, 10].contains fn) || within 0x38 0x3B || within 0x40 0x5B || op == 0x5D
  || (op == 0x5E && [0, 1].contains fn) || op == 0x68 || op == 0x6B || op == 0x6C || within 0x70 0x7B

/-- The debit of a word: one for each performing thread of a vector-class word, one for any other (R57, R206). -/
def wordCost (c : Ctx) (w : Word) : Nat := if holdsLane w then max 1 c.perf.length else 1

/-! ### Performing a word (R31 to R39) -/

/-- A B-, W- or I-format word by its major, before which no chain may stand (R34, R41). -/
def rawNoChain (w : Word) : Bool :=
  [0x30, 0x31, 0x32, 0x2C, 0x2D, 0x34, 0x62, 0x63, 0x08, 0x09, 0x0A, 0x0B, 0x0C, 0x0D, 0x0E, 0x0F, 0x10, 0x20, 0x29, 0x2A,
    0x6A].contains (fOp w)

/-- A field of the word that its major makes an operand holds 0x7E, as far as a word with a sub-cause of 8 or 9 goes. -/
def rawImm (w : Word) : Bool :=
  let op := fOp w
  let within (a b : Nat) : Bool := decide (a ≤ op) && decide (op ≤ b)
  let inA := fA w == 0x7E
  let inD := fD w == 0x7E
  if within 0x46 0x49 || within 0x50 0x53 || within 0x39 0x3B || op == 0x6B || within 0x70 0x78 || op == 0x7A then inA || inD
  else if op == 0x7B then inD
  else if op == 0x7E then inA && decide (fFn w ≠ 0)
  else if op == 0x2C || op == 0x62 || op == 0x63 then false
  else inA

/-- A chain before a word that takes none or has no use for it, a use without a chain, or a guard on a word that takes none
(R34, R118): `fixed` is a word of a format that no chain may precede, `imm` one that holds 0x7E. -/
def Seq.misfit (q : Seq) (fixed imm bare : Bool) : Bool :=
  (if fixed then decide (q.chain ≠ 0) || imm else decide (q.chain ≠ 0) != imm) || (q.guard.isSome && bare)

/-- The prefixes of a word are misused (R34, R118). -/
def misused (q : Seq) (i : Instr) : Bool := q.misfit (noChain i) (usesImm i) (unguarded i)

/-- The same for a word that does not decode, by its raw fields. -/
def misusedRaw (q : Seq) (w : Word) : Bool := q.misfit (rawNoChain w) (rawImm w) (fOp w == 0x5C || fOp w == 0x6D)

/-- An acquire that promotes narrower releases (R225): nothing behind it is read before. -/
def promotes (m : Scope) (r : Order) : Bool := m == .devRm && (r == .acq || r == .ar)

/-- A word in front of which later loads of the wave can have been performed: a load, a store or an atomic, whose thread then
keeps only what the memory model allows, a release fence, or a word that only computes, reads a special register or branches
(R220, R222; log 7). -/
def keepsEarly (i : Instr) (w : Word) : Bool :=
  match i with
  | .ldSU8 _ _ _ m r => !promotes m r
  | .ldSI8 _ _ _ m r => !promotes m r
  | .ldSU16 _ _ _ m r => !promotes m r
  | .ldSI16 _ _ _ m r => !promotes m r
  | .ldS _ _ _ m r => !promotes m r
  | .ldSB64 _ _ _ m r => !promotes m r
  | .ldGU8 _ _ _ m r => !promotes m r
  | .ldGI8 _ _ _ m r => !promotes m r
  | .ldGU16 _ _ _ m r => !promotes m r
  | .ldGI16 _ _ _ m r => !promotes m r
  | .ldG _ _ _ m r => !promotes m r
  | .ldGB64 _ _ _ m r => !promotes m r
  | .atomS _ _ _ m r => !promotes m r
  | .atomSB64 _ _ _ m r => !promotes m r
  | .atomG _ _ _ m r => !promotes m r
  | .atomGB64 _ _ _ m r => !promotes m r
  | .stSB8 _ _ _ _ _ => true
  | .stSB16 _ _ _ _ _ => true
  | .stS _ _ _ _ _ => true
  | .stSB64 _ _ _ _ _ => true
  | .stGB8 _ _ _ _ _ => true
  | .stGB16 _ _ _ _ _ => true
  | .stG _ _ _ _ _ => true
  | .stGB64 _ _ _ _ _ => true
  | .sttS _ _ _ _ _ => true
  | .sttG _ _ _ _ _ => true
  | .fence _ r => r == .rel
  | _ => decide (fOp w ≤ 0x31)

/-- Every other word voids what the threads of its wave have read early: nothing after it is performed before it. -/
def State.voidEarly (s : State) (c : Ctx) (keep : Bool) : State :=
  if keep then s else s.modWave c.ref.group c.ref.wix fun w => { w with early := [] }

/-- The path of `c` has completed its word and stands at the next one. -/
def completes (c : Ctx) (o : Out) : Bool :=
  match o with
  | .next t => (t.path? c.ref).any fun p => p.pc == c.path.pc + 4 && p.priv == c.path.priv && p.wait == .none
  | .fault _ => false
  | .refused _ => false

/-- A path's word, taken, is decoded and performed. Loads that read later are performed before a word that does not complete.
A GRD whose RES field is not 0 goes on to the end of its sequence, so that the least sub-cause of the sequence is found (R39). -/
noncomputable def State.performWord (s : State) (c : Ctx) (w : Word) : Out :=
  match decodeWord w with
  | .error e =>
    if fOp w = 0x7C ∧ e = .res then
      exec (.grd (w.getLsbD 24) (w.extractLsb' 21 3).toFin)
        (s.modPath c.ref fun p => { p with seq := { p.seq with bad := some (p.seq.bad.getD w) } })
    else
      .next (s.takeTrap c (c.illegalTrap (if 8 ≤ e.num && misusedRaw c.path.seq w then 7 else e.num)))
  | .ok i =>
    if isPrefix w then exec i s
    else if misused c.path.seq i then .next (s.takeTrap c (c.illegalTrap 7))
    else if c.path.seq.bad.isSome then .next (s.takeTrap c (c.illegalTrap 3))
    else
      let go (s : State) : Out := exec i ((s.debit c (wordCost c w)).voidEarly c (keepsEarly i w))
      if c.wave.loads.isEmpty then go s
      else if completes c (go s) then go s
      else go (s.settleLoads c.ref)

/-- The path takes its next word and performs it. A pc that is no multiple of 4 traps with ALIGN (log 32). -/
noncomputable def State.issueNext (s : State) (r : PathRef) : Out :=
  match s.ctxAt r with
  | none => .next s
  | some c =>
    let taken (w : Word) (k : State → Ctx → Out) : Out :=
      let s1 := s.modPath r fun p => p.take w
      match s1.ctxAt r with
      | none => .next s1
      | some c1 => k s1 c1
    if c.path.pc.toNat % 4 ≠ 0 then
      taken 0 fun s1 c1 => .next (s1.takeTrap c1 { cause := .align, addr := c1.path.pc })
    else
      match s.fetch c with
      | .error f => taken 0 fun s1 c1 => .next (s1.fetchTrap c1 f)
      | .ok w => taken w fun s1 c1 => s1.performWord c1 w

/-! ### Before a sequence (R250, R317, R319) -/

/-- A trap that is taken in front of the path's next sequence: the record shows that sequence. -/
def State.trapAhead (s : State) (c : Ctx) (t : Trap) : State :=
  let s1 := s.modPath c.ref fun p => p.ahead (s.seqAhead c)
  match s1.ctxAt c.ref with
  | none => s1
  | some c1 => s1.takeTrap c1 t

/-- A path traps with CANCEL in front of its next sequence; one that waits leaves its wait (R135, R317). -/
def State.cancelPath (s : State) (r : PathRef) (counter : DWord) : State :=
  let s1 := s.modGroup r.group fun g => { g with claims := g.claims.filter fun x => x != r }
  match s1.ctxAt r with
  | none => s1
  | some c => s1.trapAhead c { cause := .cancel, addr := counter }

/-- CANCEL (R317) reaches a wave: a parked wave goes on, and its paths trap, the issuing one first (R363). At P1 this is a
double trap. -/
def State.takeCancel (s : State) (c : Ctx) (counter : DWord) : State :=
  let s1 := s.modWave c.ref.group c.ref.wix fun w =>
    match w.parked with
    | none => { w with cancel := none }
    | some t => { w with cancel := none, parked := none }.parkedFor (s.cyclesSince c.group.die t)
  let s2 := s1.cancelPath c.ref counter
  let o : PathRef := { c.ref with slot := !c.ref.slot }
  match s2.path? o with
  | none => s2
  | some p => if c.path.priv ∨ c.launch.handler = 0 ∨ p.wait = .recordBusy then s2 else (s2.settleLoads o).cancelPath o counter

/-- The path has issued an instruction at P0 that has still to retire. -/
def Path.unretired (p : Path) : Bool := !p.priv && p.wait != .none && p.wait != .recordBusy

/-- The instructions of a group that have issued and not retired: each of them has its part of the budget (R319, log 83). -/
def Group.unretired (g : Group) : Nat :=
  (g.waves.map fun w => (w.path0.any Path.unretired).toNat + (w.path1.any Path.unretired).toNat
    + (w.stack.filter fun h => h.wait && !h.priv).length).sum

/-- BUDGET is due: the next instruction would exceed the group's budget (R319). -/
def Ctx.overBudget (c : Ctx) : Bool :=
  !c.path.priv && decide (c.launch.budget ≠ 0) && decide (c.launch.budget ≤ c.group.wi + c.group.unretired)

/-- The next sequence begins, or what comes in front of it. -/
noncomputable def State.beginSeq (s : State) (c : Ctx) : Out :=
  match (if c.path.replay = none then c.path.failed else []).head? with
  | some (t, f) =>
    match s.record? f with
    | some rec =>
      let s1 := s.modPath c.ref fun p => p.ahead (s.seqAhead c)
      .next (match s1.ctxAt c.ref with | none => s1 | some c1 => s1.wholeTrap c1 t (.again rec))
    | none => s.issueNext c.ref
  | none =>
    if c.overBudget then .next (s.trapAhead c { cause := .budget, addr := BitVec.ofNat 64 c.group.wi })
    else s.issueNext c.ref

/-- The word that a path waits at, looked at again. -/
noncomputable def State.reissue (s : State) (c : Ctx) : Out :=
  match decodeWord c.path.seq.word with
  | .ok i => exec i s
  | .error _ => .next s

/-- A wait that issuing its word again can end; in a reproducible launch some end at commits only (R233). -/
def Wait.pollable (repro : Bool) : Wait → Bool
  | .time _ => !repro
  | .twait _ _ _ => !repro
  | .waita _ _ _ _ _ => !repro
  | .cwait _ => !repro
  | .cseal => true
  | .qfence _ => true
  | .stream _ _ => true
  | .none => false
  | .join => false
  | .bar _ _ => false
  | .claim _ => false
  | .records _ => false
  | .recordBusy => false

/-- The quantum of a wave ends in front of a path's next sequence (R233). -/
def State.quantumEnds (s : State) (c : Ctx) : State := s.modWave c.ref.group c.ref.wix fun w => { w with qended := true }

/-- The path's loads that read later may stay so: its next word is one that leaves them. -/
noncomputable def State.loadsStay (s : State) (c : Ctx) : Bool :=
  c.wave.loads.isEmpty || (c.path.wait == .none && c.wave.cancel.isNone && s.onAhead c keepsLoads)

/-- A path's turn: the next word of a sequence it is in, a CANCEL that is due, the next sequence, or its wait looked at. -/
noncomputable def State.issueReady (s0 : State) (r : PathRef) : Out :=
  let s := { s0 with cur := some r }
  match s.ctxAt r with
  | none => .next s0
  | some c =>
    if c.path.seq.len ≠ 0 ∧ c.path.wait = .none then s.issueNext r
    else if s.running c.group = false then .next s0
    else if c.wave.cancel.isSome ∧ c.path.wait ≠ .recordBusy then
      .next (s.takeCancel c (c.wave.cancel.getD 0))
    else
      match c.path.wait with
      | .none =>
        if s.endsHeld c then .next (s0.quantumEnds c)
        else if c.wave.mayIssue c.launch && !s.heldBack c then s.beginSeq c
        else .next s0
      | .records refs =>
        if c.path.seq.len ≠ 0 then
          if refs = [] ∨ (refs.any fun x => s.statusOf x.2 != 0) = true then s.reissue c else .next s0
        else if refs.all fun x => s.statusOf x.2 != 0 then .next ((s.voidEarly c false).recordsDone c refs)
        else .next s0
      | .join =>
        if c.wave.mayIssue c.launch && s.joinDue c && !s.heldBack c then (s.modPath r fun p => { p with wait := .none }).issueNext r
        else .next s0
      | w => if w.pollable c.launch.repro && !(c.launch.repro && c.wave.qended) then s.reissue c else .next s0

/-- A path's turn, after the loads of the path that read later where its next word does not leave them. -/
noncomputable def State.issuePath (s : State) (r : PathRef) : Out :=
  match s.ctxAt r with
  | none => .next s
  | some c => if s.loadsStay c then s.issueReady r else (s.settleLoads r).issueReady r

/-! ### A core's part of a cycle (R139, R206, R207) -/

/-- The sequence that a path would issue holds a lane. -/
def State.needsLane (s : State) (c : Ctx) : Bool :=
  match (s.seqAhead c).getLast? with
  | none => false
  | some w => holdsLane w

/-- The paths of a core that can issue in this cycle, in the round; without a free lane, those that need none. -/
noncomputable def State.roundNow (s : State) (c core : Nat) (full : Bool) : List Ctx :=
  (s.round c core).filter fun x => s.canIssue x && !(full && s.needsLane x)

/-- Credit reaches the threshold of a path's class. -/
def State.credit (s : State) (x : Ctx) : Bool :=
  let k := s.cluster x.group.cluster
  decide (k.threshold (if s.shedFor x.group x.wave then 8 else x.group.prio) ≤ k.b)

/-- The paths of a core that can issue and whose class is not withheld. -/
noncomputable def State.able (s : State) (c core : Nat) (full : Bool) : List Ctx := (s.roundNow c core full).filter s.credit

/-- The paths that can issue, in the order in which the core looks at them: the round, but a path that has issued since
another one could have comes behind those that have not, so that no path issues twice before an eligible one issues
(R139). -/
noncomputable def State.inTurn (s : State) (c core : Nat) (full : Bool) : List Ctx :=
  let xs := s.roundNow c core full
  let able := s.able c core full
  let late (x : Ctx) : Bool := able.any fun y => ((s.coreSched c core).since y.place).contains x.place
  (xs.filter fun x => !late x) ++ xs.filter late

/-- The path that a core issues: the floor's, the selected one, or one of a lower class (R206, R207). -/
noncomputable def State.selected (s : State) (c core : Nat) (full : Bool) : Option Ctx :=
  let xs := s.inTurn c core full
  let free := xs.filter fun x => !s.shedFor x.group x.wave
  if 63 ≤ (s.coreSched c core).idle ∧ free ≠ [] then free.head?
  else
    match xs with
    | [] => none
    | x :: _ => if s.credit x then some x else free.find? fun y => s.credit y && decide (y.group.prio < x.group.prio)

/-- The quanta of a core's waves end where a path's next sequence is held back until a commit. -/
noncomputable def State.endHeld (s : State) (c core : Nat) : State :=
  ((s.round c core).filter s.endsHeld).foldl State.quantumEnds s

/-- The core issues from a path: it has had its part of the cycle. -/
noncomputable def State.pick (s : State) (c core : Nat) (full : Bool) (x : Ctx) : State :=
  (s.issueCycle c core (s.able c core full) x).endTurn c

/-- One core's part of an issue cycle, when it is the next core of the cycle. -/
noncomputable def State.coreTurn (s0 : State) (c core : Nat) (full : Bool) : Out :=
  if (s0.cluster c).turns.head? ≠ some (core, full) then .next s0
  else
    let s := s0.endHeld c core
    match s.selected c core full with
    | some x => (s.pick c core full x).issuePath x.ref
    | none => .next ((s.idleCycle c core ((s.roundNow c core false).any fun x => !s.shedFor x.group x.wave)).endTurn c)

/-- The state in which the next core of a cluster's cycle issues from a path, if it is the path that the core selects. -/
noncomputable def State.granted (s0 : State) (r : PathRef) : Option State :=
  match s0.ctxAt r with
  | none => none
  | some x =>
    let c := x.group.cluster
    match (s0.cluster c).turns with
    | [] => none
    | (core, full) :: _ =>
      let s := s0.endHeld c core
      match s.selected c core full with
      | some y => if y.ref = r then some (s.pick c core full y) else none
      | none => none

/-- The path would issue a word from its slot, which takes its core's part of a cycle; a path that waits or is to trap does
not. -/
def Ctx.asks (c : Ctx) : Bool := (c.path.wait == .none || c.path.wait == .join) && c.wave.cancel.isNone

/-- A path's turn: to issue when its core selects it, with `f` made of it, or to look at what it waits for. -/
noncomputable def State.pathTurn (s : State) (r : PathRef) (f : Path → Path) : Out :=
  match s.ctxAt r with
  | none => .next s
  | some c =>
    if c.asks then
      match s.granted r with
      | some s1 => (s1.modPath r f).issuePath r
      | none => .next s
    else (s.modPath r f).issuePath r

/-- A turn for some of a path's threads: what its word accesses, these threads access now, and the others later (R160, R165;
log 7). -/
def Path.part (ts : Mask) (p : Path) : Path := { p with only := some ts }

/-- A turn in which the loads of some of a path's threads read later (R140, R220; log 7). -/
def Path.deferring (ts : Mask) (p : Path) : Path := { p with defer := ts }

/-- The cores of a cluster that hold a group, or have counted cycles, in the order of one cycle: by the class of the selected
path, then by `LCORE`. The two logical cores of a shared quad's core are one core here (R214). -/
noncomputable def State.cycleOrder (s : State) (c : Nat) (full : List Nat) : List Nat :=
  let first (k : Nat) : Option Ctx := (s.inTurn c k (full.contains k)).head?
  sortKey (fun k => 64 * (((first k).map fun x => x.group.prio).getD 8) + ((first k).map fun x => x.group.lcore).getD 0)
    ((List.range 68).filter fun k =>
      (s.groups.any fun g => g.cluster == c && g.coreNo == k) || (s.coreSched c k).idle != 0)

/-- The parts of these cores are laid down. -/
def State.layDown (s : State) (c : Nat) (xs : List (Nat × Bool)) (more : List Turn) : State :=
  { s with agenda := xs.map (fun x => .core c x.1 x.2) ++ more ++ s.agenda }

/-- A core cycle of a cluster: what is left of the cycle before it comes first; then the counter has refilled, and every core's
part is laid down (R206). -/
noncomputable def State.cycleTurn (s0 : State) (c : Nat) (full : List Nat) : Out :=
  match (s0.cluster c).turns with
  | [] =>
    let s := if (s0.cluster c).fresh then s0 else s0.refill c
    let xs := (s.cycleOrder c full).map fun k => (k, full.contains k)
    .next ((s.modCluster c fun k => { k with fresh := false, turns := xs }).layDown c xs [])
  | xs => .next (s0.layDown c xs [.cycle c full])

/-! ### What else can go on (log 3) -/

/-- What the head of a wave's matrix queue is performed by. -/
noncomputable def MatOp.event (w : WaveRef) (o : MatOp) : Instr :=
  match o.kind with
  | .mma _ => .mmaPerform w
  | .aclr => .aclrPerform w
  | .ald => .aldPerform w
  | .ast => .astPerform w
  | .ascale => .ascalePerform w
  | .aexp => .aexpPerform w

noncomputable def HReq.event (w : WaveRef) (r : HReq) : Instr :=
  match r.kind with
  | .probe => .hprobeRequest w
  | .ins => .hinsRequest w
  | .del _ => .hdelRequest w
  | .rehash => .hrehashRequest w
  | .set _ => .hsetRequest w

noncomputable def GReq.event (w : WaveRef) (r : GReq) : Instr :=
  match r.kind with
  | .topk _ _ _ _ => .gtopkRequest w
  | .hist _ _ => .ghistRequest w
  | .scan _ _ _ => .gscanRequest w
  | .perm _ => .gpermRequest w

/-- The streams that something of a wave waits for: a path, or `mma.sq` at the head of the matrix queue. -/
def Wave.awaited (w : Wave) : List (Fin 4) :=
  let waits (k : Fin 4) (p : Path) : Bool := match p.wait with
    | .stream j _ => j == k.val
    | _ => false
  ([0, 1, 2, 3] : List (Fin 4)).filter fun k =>
    w.path0.any (waits k) || w.path1.any (waits k)
    || (match w.mq with | [] => false | o :: _ => o.kind == .mma (some k))

/-- What the engines of a wave can do. -/
noncomputable def Wave.work (w : Wave) (g : Nat) : List Instr :=
  let r : WaveRef := ⟨g, w.wix⟩
  (match w.mq with | [] => [] | o :: _ => [o.event r])
  ++ (match w.cq with | [] => [] | o :: _ => [if o.kind.link.isSome then .fabricOpPerform r .accepted else .copyPerform r (o.n + 1)])
  ++ (match w.hq with | [] => [] | q :: _ => [q.event r])
  ++ (match w.gq with | [] => [] | q :: _ => [q.event r])
  ++ w.awaited.map fun k => .streamItemDeliver r k

/-- What can end the wait of a path. -/
noncomputable def pathWork (p : Path) (r : PathRef) : List Turn :=
  match p.wait with
  | .time _ => [.event (.waitDeadline r)]
  | .twait _ _ _ => [.event (.twaitBound r), .issue r, .event (.waitLimitTimeout r)]
  | .waita _ _ _ _ _ => [.event (.waitaReread r), .event (.waitLimitTimeout r)]
  | .claim _ => [.event (.claimGrant r.group), .event (.waitLimitTimeout r)]
  | .bar _ _ => [.event (.waitLimitTimeout r)]
  | .cseal => [.issue r, .event (.waitLimitTimeout r)]
  | .cwait _ => [.issue r, .event (.waitLimitTimeout r)]
  | .qfence _ => [.issue r]
  | .stream _ _ => [.issue r]
  | .records _ => [.issue r]
  | .none => []
  | .join => []
  | .recordBusy => []

/-- What the mailbox's command is answered by (R387). -/
noncomputable def Io.commandEvent (x : Io) : Instr :=
  match x.opc with
  | 1 => .mread
  | 2 => .mwrite
  | 3 => .jlset
  | 4 => .jlstop
  | 5 => .attest
  | _ => .mailboxUnknownCommand

/-- Everything but issue that may go on now; what cannot leaves the state as it is. -/
noncomputable def State.others (s : State) : List Turn :=
  (s.groups.flatMap fun g =>
    Turn.event (.groupCompletion g.id)
      :: g.waves.flatMap fun w =>
        ((w.work g.id).map Turn.event)
        ++ (w.path0.toList.flatMap fun p => pathWork p ⟨g.id, w.wix, false⟩)
        ++ (w.path1.toList.flatMap fun p => pathWork p ⟨g.id, w.wix, true⟩))
  ++ ((List.range 8).filter fun c => (List.range 17).any fun q => !(s.entrants c q).isEmpty).map (fun c => .event (.slewStep c))
  ++ (List.range 4).flatMap (fun d =>
      (((s.die d).recs.filter fun r => r.slot.isSome && r.status == 0).map fun r => Turn.event (.faultStatusObserved d r.n))
      ++ [.event (.fqheadPoll d), .event (.coreDump d)])
  ++ (s.launches.flatMap fun l => [.event (.quantumCommit l.id), .event (.poolGroupCommit l.id)])
  ++ (s.belfry.restore.map fun x => .event (.restoreStagger x.1 x.2.1))
  ++ [.event .checkpointCopyDone, .event .restoreCopyDone, .event .checkpointFailResume, .event s.io.commandEvent,
      .event .jobLaunch, .event .jobCancelDrain, .event .jobCancelTrap, .event .jobRecordSkip]
  ++ (s.io.appends.map fun i => .event (.arrivalTaskAppend i))
  ++ [.event .marverDispatch]

/-- A turn of one of these kinds. -/
noncomputable def State.otherTurn (s : State) : Turn → Out
  | .event i => exec i s
  | .issue p => s.pathTurn p id
  | .cycle _ _ => .next s
  | .core _ _ _ => .next s
  | .part _ _ => .next s
  | .defer _ _ => .next s
  | .invalidate _ => .next s
  | .linkRetry _ => .next s
  | .rest => .next s

/-- The first state that differs; no turn moves `NSCLK`, whose value is free. -/
noncomputable def State.firstChange (s : State) : List Turn → State
  | [] => s
  | t :: ts =>
    match s.otherTurn t with
    | .next s' => if ({ s' with ns := 0 } : State) = { s with ns := 0 } then s.firstChange ts else s'
    | .fault _ => s.firstChange ts
    | .refused _ => s.firstChange ts

/-- One thing that can go on besides issue; the places from which the search begins change with every step. -/
noncomputable def State.restTurn (s : State) : State :=
  s.firstChange (s.others.rotateLeft s.tick)

/-! ### Turns -/

/-- One turn. An event is one of the table's event rows. -/
noncomputable def State.runTurn (s : State) : Turn → Out
  | .event i => if isEvent i then exec i s else .next s
  | .issue p => s.pathTurn p id
  | .cycle c full => s.cycleTurn c full
  | .core c core full => s.coreTurn c core full
  | .part p ts => s.pathTurn p (Path.part ts)
  | .defer p ts => s.pathTurn p (Path.deferring ts)
  | .invalidate ctx => .next (if s.io.fw then s.invalidate ctx else s)
  | .linkRetry link => .next (s.linkRetry link)
  | .rest => .next s.restTurn

/-- Nothing is laid down: every cluster that holds a group has an issue cycle, and one other thing goes on. -/
noncomputable def State.defaultTurn (s : State) : Out :=
  match (List.range 8).filter fun c =>
      (s.groups.any fun g => g.cluster == c) || (s.cluster c).cores.any fun k => k.idle != 0 with
  | [] => .next s.restTurn
  | cs => .next { s with agenda := (cs.map fun c => .cycle c []) ++ [.rest] }

/-- The path that stands in the middle of a prefixed sequence, which nothing divides (R35). -/
def State.midSequence (s : State) : Option PathRef :=
  s.cur.filter fun r => match s.path? r with
    | none => false
    | some p => p.seq.len != 0 && p.wait == .none

/-- Whose turn it is, in a state whose time has moved on. -/
noncomputable def State.turn (s : State) : Out :=
  match s.midSequence with
  | some r => s.issuePath r
  | none =>
    match s.agenda with
    | [] => s.defaultTurn
    | t :: ts => ({ s with agenda := ts } : State).runTurn t

/-- Time moves on by what the spec does not fix, and never back: `NSCLK` stays at its greatest value (R116; log 4). -/
def State.moveOn (s : State) : State :=
  { s with tick := s.tick + 1, ns := BitVec.ofNat 64 (min (s.ns.toNat + Config.elapsed s.tick) (2 ^ 64 - 1)) }

end Sys2Proof.Machine
end

