-- ==== Sys2Proof/Machine/Step.lean ====
section
/-! DEFINITION. One step of the machine: time moves on, and one turn is taken (log 3, 4). -/

namespace Sys2Proof.Machine

/-- One step: of a path, of an engine, or an event. -/
noncomputable def step (s : State) : Host.Outcome State Fault Refusal := s.moveOn.turn

/-- The instruction word `w` stored where the next step fetches (log 6). -/
def State.withFetchWord (s : State) (nbits w : Nat) : State := s.storeFetch (BitVec.ofNat 32 (w % 2 ^ nbits))

end Sys2Proof.Machine
end

