-- ==== Sys2Proof/Laws/Encoding.lean ====
section
/-! SUPPORT. Encoder and decoder agree piece by piece: what each field of an encoded word reads as, and that every operand code
decodes to its operand. -/

set_option linter.unusedSimpArgs false

namespace Sys2Proof.Laws

open BitVec

/-! ### Fields of a word put together from pieces -/

theorem field_high {v w : Nat} {x : BitVec v} {y : BitVec w} {s l : Nat} (h : w ≤ s) :
    (x ++ y).extractLsb' s l = x.extractLsb' (s - w) l := extractLsb'_append_eq_of_le h

theorem field_low {v w : Nat} {x : BitVec v} {y : BitVec w} {s l : Nat} (h : s + l ≤ w) :
    (x ++ y).extractLsb' s l = y.extractLsb' s l := extractLsb'_append_eq_of_add_le h

theorem field_all {w : Nat} (x : BitVec w) : x.extractLsb' 0 w = x := extractLsb'_eq_self

theorem getLsbD_of_field {n : Nat} {w : BitVec n} {k : Nat} {b : Bool} (h : w.extractLsb' k 1 = ofBool b) : w.getLsbD k = b := by
  have := congrArg (fun x => x.getLsbD 0) h
  simpa [getLsbD_extractLsb'] using this

theorem field_low4 {v m n : Nat} (x : BitVec v) (y : BitVec m) (z : BitVec n) :
    ((x ++ y) ++ z).extractLsb' 0 (m + n) = y ++ z := by
  apply eq_of_getLsbD_eq
  intro i hi
  simp only [getLsbD_extractLsb', getLsbD_append, hi, decide_true, Bool.true_and, Nat.zero_add]
  by_cases h : i < n
  · simp [h]
  · simp [h, show i - n < m by omega]

theorem bits_7_7_7_7_4_at_25_7 {x0 : BitVec 7} {x1 : BitVec 7} {x2 : BitVec 7} {x3 : BitVec 7} {x4 : BitVec 4} {w : Word}
    (h : x0 ++ x1 ++ x2 ++ x3 ++ x4 = w) : w.extractLsb' 25 7 = x0 := by
  subst h; exact (field_high (by decide)).trans <| (field_high (by decide)).trans <| (field_high (by decide)).trans <| (field_high (by decide)).trans <| field_all _

theorem bits_7_7_7_7_4_at_18_7 {x0 : BitVec 7} {x1 : BitVec 7} {x2 : BitVec 7} {x3 : BitVec 7} {x4 : BitVec 4} {w : Word}
    (h : x0 ++ x1 ++ x2 ++ x3 ++ x4 = w) : w.extractLsb' 18 7 = x1 := by
  subst h; exact (field_high (by decide)).trans <| (field_high (by decide)).trans <| (field_high (by decide)).trans <| (field_low (by decide)).trans <| field_all _

theorem bits_7_7_7_7_4_at_11_7 {x0 : BitVec 7} {x1 : BitVec 7} {x2 : BitVec 7} {x3 : BitVec 7} {x4 : BitVec 4} {w : Word}
    (h : x0 ++ x1 ++ x2 ++ x3 ++ x4 = w) : w.extractLsb' 11 7 = x2 := by
  subst h; exact (field_high (by decide)).trans <| (field_high (by decide)).trans <| (field_low (by decide)).trans <| field_all _

theorem bits_7_7_7_7_4_at_4_7 {x0 : BitVec 7} {x1 : BitVec 7} {x2 : BitVec 7} {x3 : BitVec 7} {x4 : BitVec 4} {w : Word}
    (h : x0 ++ x1 ++ x2 ++ x3 ++ x4 = w) : w.extractLsb' 4 7 = x3 := by
  subst h; exact (field_high (by decide)).trans <| (field_low (by decide)).trans <| field_all _

theorem bits_7_7_7_7_4_at_0_4 {x0 : BitVec 7} {x1 : BitVec 7} {x2 : BitVec 7} {x3 : BitVec 7} {x4 : BitVec 4} {w : Word}
    (h : x0 ++ x1 ++ x2 ++ x3 ++ x4 = w) : w.extractLsb' 0 4 = x4 := by
  subst h; exact (field_low (by decide)).trans <| field_all _

theorem bits_7_7_7_11_at_25_7 {x0 : BitVec 7} {x1 : BitVec 7} {x2 : BitVec 7} {x3 : BitVec 11} {w : Word}
    (h : x0 ++ x1 ++ x2 ++ x3 = w) : w.extractLsb' 25 7 = x0 := by
  subst h; exact (field_high (by decide)).trans <| (field_high (by decide)).trans <| (field_high (by decide)).trans <| field_all _

theorem bits_7_7_7_11_at_18_7 {x0 : BitVec 7} {x1 : BitVec 7} {x2 : BitVec 7} {x3 : BitVec 11} {w : Word}
    (h : x0 ++ x1 ++ x2 ++ x3 = w) : w.extractLsb' 18 7 = x1 := by
  subst h; exact (field_high (by decide)).trans <| (field_high (by decide)).trans <| (field_low (by decide)).trans <| field_all _

theorem bits_7_7_7_11_at_11_7 {x0 : BitVec 7} {x1 : BitVec 7} {x2 : BitVec 7} {x3 : BitVec 11} {w : Word}
    (h : x0 ++ x1 ++ x2 ++ x3 = w) : w.extractLsb' 11 7 = x2 := by
  subst h; exact (field_high (by decide)).trans <| (field_low (by decide)).trans <| field_all _

theorem bits_7_7_7_11_at_4_7 {x0 : BitVec 7} {x1 : BitVec 7} {x2 : BitVec 7} {x3 : BitVec 11} {w : Word}
    (h : x0 ++ x1 ++ x2 ++ x3 = w) : w.extractLsb' 4 7 = x3.extractLsb' 4 7 := by
  subst h; exact field_low (by decide)

theorem bits_7_7_7_11_at_0_4 {x0 : BitVec 7} {x1 : BitVec 7} {x2 : BitVec 7} {x3 : BitVec 11} {w : Word}
    (h : x0 ++ x1 ++ x2 ++ x3 = w) : w.extractLsb' 0 4 = x3.extractLsb' 0 4 := by
  subst h; exact field_low (by decide)

theorem bits_7_7_7_11_at_0_11 {x0 : BitVec 7} {x1 : BitVec 7} {x2 : BitVec 7} {x3 : BitVec 11} {w : Word}
    (h : x0 ++ x1 ++ x2 ++ x3 = w) : w.extractLsb' 0 11 = x3 := by
  subst h; exact (field_low (by decide)).trans <| field_all _

theorem bits_7_7_7_7_1_3_at_25_7 {x0 : BitVec 7} {x1 : BitVec 7} {x2 : BitVec 7} {x3 : BitVec 7} {x4 : BitVec 1} {x5 : BitVec 3} {w : Word}
    (h : x0 ++ x1 ++ x2 ++ x3 ++ x4 ++ x5 = w) : w.extractLsb' 25 7 = x0 := by
  subst h; exact (field_high (by decide)).trans <| (field_high (by decide)).trans <| (field_high (by decide)).trans <| (field_high (by decide)).trans <| (field_high (by decide)).trans <| field_all _

theorem bits_7_7_7_7_1_3_at_18_7 {x0 : BitVec 7} {x1 : BitVec 7} {x2 : BitVec 7} {x3 : BitVec 7} {x4 : BitVec 1} {x5 : BitVec 3} {w : Word}
    (h : x0 ++ x1 ++ x2 ++ x3 ++ x4 ++ x5 = w) : w.extractLsb' 18 7 = x1 := by
  subst h; exact (field_high (by decide)).trans <| (field_high (by decide)).trans <| (field_high (by decide)).trans <| (field_high (by decide)).trans <| (field_low (by decide)).trans <| field_all _

theorem bits_7_7_7_7_1_3_at_11_7 {x0 : BitVec 7} {x1 : BitVec 7} {x2 : BitVec 7} {x3 : BitVec 7} {x4 : BitVec 1} {x5 : BitVec 3} {w : Word}
    (h : x0 ++ x1 ++ x2 ++ x3 ++ x4 ++ x5 = w) : w.extractLsb' 11 7 = x2 := by
  subst h; exact (field_high (by decide)).trans <| (field_high (by decide)).trans <| (field_high (by decide)).trans <| (field_low (by decide)).trans <| field_all _

theorem bits_7_7_7_7_1_3_at_4_7 {x0 : BitVec 7} {x1 : BitVec 7} {x2 : BitVec 7} {x3 : BitVec 7} {x4 : BitVec 1} {x5 : BitVec 3} {w : Word}
    (h : x0 ++ x1 ++ x2 ++ x3 ++ x4 ++ x5 = w) : w.extractLsb' 4 7 = x3 := by
  subst h; exact (field_high (by decide)).trans <| (field_high (by decide)).trans <| (field_low (by decide)).trans <| field_all _

theorem bits_7_7_7_7_1_3_at_0_4 {x0 : BitVec 7} {x1 : BitVec 7} {x2 : BitVec 7} {x3 : BitVec 7} {x4 : BitVec 1} {x5 : BitVec 3} {w : Word}
    (h : x0 ++ x1 ++ x2 ++ x3 ++ x4 ++ x5 = w) : w.extractLsb' 0 4 = x4 ++ x5 := by
  subst h; exact field_low4 _ _ _

theorem bits_7_7_7_7_1_3_at_3_1 {x0 : BitVec 7} {x1 : BitVec 7} {x2 : BitVec 7} {x3 : BitVec 7} {x4 : BitVec 1} {x5 : BitVec 3} {w : Word}
    (h : x0 ++ x1 ++ x2 ++ x3 ++ x4 ++ x5 = w) : w.extractLsb' 3 1 = x4 := by
  subst h; exact (field_high (by decide)).trans <| (field_low (by decide)).trans <| field_all _

theorem bits_7_7_7_7_1_3_at_0_3 {x0 : BitVec 7} {x1 : BitVec 7} {x2 : BitVec 7} {x3 : BitVec 7} {x4 : BitVec 1} {x5 : BitVec 3} {w : Word}
    (h : x0 ++ x1 ++ x2 ++ x3 ++ x4 ++ x5 = w) : w.extractLsb' 0 3 = x5 := by
  subst h; exact (field_low (by decide)).trans <| field_all _

theorem bits_7_7_7_7_2_2_at_25_7 {x0 : BitVec 7} {x1 : BitVec 7} {x2 : BitVec 7} {x3 : BitVec 7} {x4 : BitVec 2} {x5 : BitVec 2} {w : Word}
    (h : x0 ++ x1 ++ x2 ++ x3 ++ x4 ++ x5 = w) : w.extractLsb' 25 7 = x0 := by
  subst h; exact (field_high (by decide)).trans <| (field_high (by decide)).trans <| (field_high (by decide)).trans <| (field_high (by decide)).trans <| (field_high (by decide)).trans <| field_all _

theorem bits_7_7_7_7_2_2_at_18_7 {x0 : BitVec 7} {x1 : BitVec 7} {x2 : BitVec 7} {x3 : BitVec 7} {x4 : BitVec 2} {x5 : BitVec 2} {w : Word}
    (h : x0 ++ x1 ++ x2 ++ x3 ++ x4 ++ x5 = w) : w.extractLsb' 18 7 = x1 := by
  subst h; exact (field_high (by decide)).trans <| (field_high (by decide)).trans <| (field_high (by decide)).trans <| (field_high (by decide)).trans <| (field_low (by decide)).trans <| field_all _

theorem bits_7_7_7_7_2_2_at_11_7 {x0 : BitVec 7} {x1 : BitVec 7} {x2 : BitVec 7} {x3 : BitVec 7} {x4 : BitVec 2} {x5 : BitVec 2} {w : Word}
    (h : x0 ++ x1 ++ x2 ++ x3 ++ x4 ++ x5 = w) : w.extractLsb' 11 7 = x2 := by
  subst h; exact (field_high (by decide)).trans <| (field_high (by decide)).trans <| (field_high (by decide)).trans <| (field_low (by decide)).trans <| field_all _

theorem bits_7_7_7_7_2_2_at_4_7 {x0 : BitVec 7} {x1 : BitVec 7} {x2 : BitVec 7} {x3 : BitVec 7} {x4 : BitVec 2} {x5 : BitVec 2} {w : Word}
    (h : x0 ++ x1 ++ x2 ++ x3 ++ x4 ++ x5 = w) : w.extractLsb' 4 7 = x3 := by
  subst h; exact (field_high (by decide)).trans <| (field_high (by decide)).trans <| (field_low (by decide)).trans <| field_all _

theorem bits_7_7_7_7_2_2_at_0_4 {x0 : BitVec 7} {x1 : BitVec 7} {x2 : BitVec 7} {x3 : BitVec 7} {x4 : BitVec 2} {x5 : BitVec 2} {w : Word}
    (h : x0 ++ x1 ++ x2 ++ x3 ++ x4 ++ x5 = w) : w.extractLsb' 0 4 = x4 ++ x5 := by
  subst h; exact field_low4 _ _ _

theorem bits_7_7_7_3_4_4_at_25_7 {x0 : BitVec 7} {x1 : BitVec 7} {x2 : BitVec 7} {x3 : BitVec 3} {x4 : BitVec 4} {x5 : BitVec 4} {w : Word}
    (h : x0 ++ x1 ++ x2 ++ x3 ++ x4 ++ x5 = w) : w.extractLsb' 25 7 = x0 := by
  subst h; exact (field_high (by decide)).trans <| (field_high (by decide)).trans <| (field_high (by decide)).trans <| (field_high (by decide)).trans <| (field_high (by decide)).trans <| field_all _

theorem bits_7_7_7_3_4_4_at_18_7 {x0 : BitVec 7} {x1 : BitVec 7} {x2 : BitVec 7} {x3 : BitVec 3} {x4 : BitVec 4} {x5 : BitVec 4} {w : Word}
    (h : x0 ++ x1 ++ x2 ++ x3 ++ x4 ++ x5 = w) : w.extractLsb' 18 7 = x1 := by
  subst h; exact (field_high (by decide)).trans <| (field_high (by decide)).trans <| (field_high (by decide)).trans <| (field_high (by decide)).trans <| (field_low (by decide)).trans <| field_all _

theorem bits_7_7_7_3_4_4_at_11_7 {x0 : BitVec 7} {x1 : BitVec 7} {x2 : BitVec 7} {x3 : BitVec 3} {x4 : BitVec 4} {x5 : BitVec 4} {w : Word}
    (h : x0 ++ x1 ++ x2 ++ x3 ++ x4 ++ x5 = w) : w.extractLsb' 11 7 = x2 := by
  subst h; exact (field_high (by decide)).trans <| (field_high (by decide)).trans <| (field_high (by decide)).trans <| (field_low (by decide)).trans <| field_all _

theorem bits_7_7_7_3_4_4_at_8_3 {x0 : BitVec 7} {x1 : BitVec 7} {x2 : BitVec 7} {x3 : BitVec 3} {x4 : BitVec 4} {x5 : BitVec 4} {w : Word}
    (h : x0 ++ x1 ++ x2 ++ x3 ++ x4 ++ x5 = w) : w.extractLsb' 8 3 = x3 := by
  subst h; exact (field_high (by decide)).trans <| (field_high (by decide)).trans <| (field_low (by decide)).trans <| field_all _

theorem bits_7_7_7_3_4_4_at_4_4 {x0 : BitVec 7} {x1 : BitVec 7} {x2 : BitVec 7} {x3 : BitVec 3} {x4 : BitVec 4} {x5 : BitVec 4} {w : Word}
    (h : x0 ++ x1 ++ x2 ++ x3 ++ x4 ++ x5 = w) : w.extractLsb' 4 4 = x4 := by
  subst h; exact (field_high (by decide)).trans <| (field_low (by decide)).trans <| field_all _

theorem bits_7_7_7_3_4_4_at_0_4 {x0 : BitVec 7} {x1 : BitVec 7} {x2 : BitVec 7} {x3 : BitVec 3} {x4 : BitVec 4} {x5 : BitVec 4} {w : Word}
    (h : x0 ++ x1 ++ x2 ++ x3 ++ x4 ++ x5 = w) : w.extractLsb' 0 4 = x5 := by
  subst h; exact (field_low (by decide)).trans <| field_all _

theorem bits_7_7_7_7_2_2_at_0_2 {x0 : BitVec 7} {x1 : BitVec 7} {x2 : BitVec 7} {x3 : BitVec 7} {x4 : BitVec 2} {x5 : BitVec 2} {w : Word}
    (h : x0 ++ x1 ++ x2 ++ x3 ++ x4 ++ x5 = w) : w.extractLsb' 0 2 = x5 := by
  subst h; exact (field_low (by decide)).trans <| field_all _

theorem bits_7_7_10_8_at_25_7 {x0 : BitVec 7} {x1 : BitVec 7} {x2 : BitVec 10} {x3 : BitVec 8} {w : Word}
    (h : x0 ++ x1 ++ x2 ++ x3 = w) : w.extractLsb' 25 7 = x0 := by
  subst h; exact (field_high (by decide)).trans <| (field_high (by decide)).trans <| (field_high (by decide)).trans <| field_all _

theorem bits_7_7_10_8_at_18_7 {x0 : BitVec 7} {x1 : BitVec 7} {x2 : BitVec 10} {x3 : BitVec 8} {w : Word}
    (h : x0 ++ x1 ++ x2 ++ x3 = w) : w.extractLsb' 18 7 = x1 := by
  subst h; exact (field_high (by decide)).trans <| (field_high (by decide)).trans <| (field_low (by decide)).trans <| field_all _

theorem bits_7_7_10_8_at_17_1 {x0 : BitVec 7} {x1 : BitVec 7} {x2 : BitVec 10} {x3 : BitVec 8} {w : Word}
    (h : x0 ++ x1 ++ x2 ++ x3 = w) : w.extractLsb' 17 1 = x2.extractLsb' 9 1 := by
  subst h; exact (field_high (by decide)).trans <| field_low (by decide)

theorem bits_7_7_10_8_at_8_9 {x0 : BitVec 7} {x1 : BitVec 7} {x2 : BitVec 10} {x3 : BitVec 8} {w : Word}
    (h : x0 ++ x1 ++ x2 ++ x3 = w) : w.extractLsb' 8 9 = x2.extractLsb' 0 9 := by
  subst h; exact (field_high (by decide)).trans <| field_low (by decide)

theorem bits_7_7_10_8_at_0_8 {x0 : BitVec 7} {x1 : BitVec 7} {x2 : BitVec 10} {x3 : BitVec 8} {w : Word}
    (h : x0 ++ x1 ++ x2 ++ x3 = w) : w.extractLsb' 0 8 = x3 := by
  subst h; exact (field_low (by decide)).trans <| field_all _

theorem bits_7_7_18_at_25_7 {x0 : BitVec 7} {x1 : BitVec 7} {x2 : BitVec 18} {w : Word}
    (h : x0 ++ x1 ++ x2 = w) : w.extractLsb' 25 7 = x0 := by
  subst h; exact (field_high (by decide)).trans <| (field_high (by decide)).trans <| field_all _

theorem bits_7_7_18_at_18_7 {x0 : BitVec 7} {x1 : BitVec 7} {x2 : BitVec 18} {w : Word}
    (h : x0 ++ x1 ++ x2 = w) : w.extractLsb' 18 7 = x1 := by
  subst h; exact (field_high (by decide)).trans <| (field_low (by decide)).trans <| field_all _

theorem bits_7_7_18_at_8_10 {x0 : BitVec 7} {x1 : BitVec 7} {x2 : BitVec 18} {w : Word}
    (h : x0 ++ x1 ++ x2 = w) : w.extractLsb' 8 10 = x2.extractLsb' 8 10 := by
  subst h; exact field_low (by decide)

theorem bits_7_7_18_at_0_8 {x0 : BitVec 7} {x1 : BitVec 7} {x2 : BitVec 18} {w : Word}
    (h : x0 ++ x1 ++ x2 = w) : w.extractLsb' 0 8 = x2.extractLsb' 0 8 := by
  subst h; exact field_low (by decide)

theorem bits_7_1_3_21_at_25_7 {x0 : BitVec 7} {x1 : BitVec 1} {x2 : BitVec 3} {x3 : BitVec 21} {w : Word}
    (h : x0 ++ x1 ++ x2 ++ x3 = w) : w.extractLsb' 25 7 = x0 := by
  subst h; exact (field_high (by decide)).trans <| (field_high (by decide)).trans <| (field_high (by decide)).trans <| field_all _

theorem bits_7_1_3_21_at_24_1 {x0 : BitVec 7} {x1 : BitVec 1} {x2 : BitVec 3} {x3 : BitVec 21} {w : Word}
    (h : x0 ++ x1 ++ x2 ++ x3 = w) : w.extractLsb' 24 1 = x1 := by
  subst h; exact (field_high (by decide)).trans <| (field_high (by decide)).trans <| (field_low (by decide)).trans <| field_all _

theorem bits_7_1_3_21_at_21_3 {x0 : BitVec 7} {x1 : BitVec 1} {x2 : BitVec 3} {x3 : BitVec 21} {w : Word}
    (h : x0 ++ x1 ++ x2 ++ x3 = w) : w.extractLsb' 21 3 = x2 := by
  subst h; exact (field_high (by decide)).trans <| (field_low (by decide)).trans <| field_all _

theorem bits_7_1_3_21_at_0_21 {x0 : BitVec 7} {x1 : BitVec 1} {x2 : BitVec 3} {x3 : BitVec 21} {w : Word}
    (h : x0 ++ x1 ++ x2 ++ x3 = w) : w.extractLsb' 0 21 = x3 := by
  subst h; exact (field_low (by decide)).trans <| field_all _

theorem bits_7_4_21_at_25_7 {x0 : BitVec 7} {x1 : BitVec 4} {x2 : BitVec 21} {w : Word}
    (h : x0 ++ x1 ++ x2 = w) : w.extractLsb' 25 7 = x0 := by
  subst h; exact (field_high (by decide)).trans <| (field_high (by decide)).trans <| field_all _

theorem bits_7_4_21_at_21_4 {x0 : BitVec 7} {x1 : BitVec 4} {x2 : BitVec 21} {w : Word}
    (h : x0 ++ x1 ++ x2 = w) : w.extractLsb' 21 4 = x1 := by
  subst h; exact (field_high (by decide)).trans <| (field_low (by decide)).trans <| field_all _

theorem bits_7_4_21_at_0_21 {x0 : BitVec 7} {x1 : BitVec 4} {x2 : BitVec 21} {w : Word}
    (h : x0 ++ x1 ++ x2 = w) : w.extractLsb' 0 21 = x2 := by
  subst h; exact (field_low (by decide)).trans <| field_all _

theorem bits_7_25_at_25_7 {x0 : BitVec 7} {x1 : BitVec 25} {w : Word}
    (h : x0 ++ x1 = w) : w.extractLsb' 25 7 = x0 := by
  subst h; exact (field_high (by decide)).trans <| field_all _

theorem bits_7_25_at_18_7 {x0 : BitVec 7} {x1 : BitVec 25} {w : Word}
    (h : x0 ++ x1 = w) : w.extractLsb' 18 7 = x1.extractLsb' 18 7 := by
  subst h; exact field_low (by decide)

theorem bits_7_25_at_11_7 {x0 : BitVec 7} {x1 : BitVec 25} {w : Word}
    (h : x0 ++ x1 = w) : w.extractLsb' 11 7 = x1.extractLsb' 11 7 := by
  subst h; exact field_low (by decide)

theorem bits_7_25_at_4_7 {x0 : BitVec 7} {x1 : BitVec 25} {w : Word}
    (h : x0 ++ x1 = w) : w.extractLsb' 4 7 = x1.extractLsb' 4 7 := by
  subst h; exact field_low (by decide)

theorem bits_7_25_at_0_4 {x0 : BitVec 7} {x1 : BitVec 25} {w : Word}
    (h : x0 ++ x1 = w) : w.extractLsb' 0 4 = x1.extractLsb' 0 4 := by
  subst h; exact field_low (by decide)

theorem bits_7_7_18_at_11_7 {x0 : BitVec 7} {x1 : BitVec 7} {x2 : BitVec 18} {w : Word}
    (h : x0 ++ x1 ++ x2 = w) : w.extractLsb' 11 7 = x2.extractLsb' 11 7 := by
  subst h; exact field_low (by decide)

theorem bits_7_7_18_at_4_7 {x0 : BitVec 7} {x1 : BitVec 7} {x2 : BitVec 18} {w : Word}
    (h : x0 ++ x1 ++ x2 = w) : w.extractLsb' 4 7 = x2.extractLsb' 4 7 := by
  subst h; exact field_low (by decide)

theorem bits_7_7_18_at_0_4 {x0 : BitVec 7} {x1 : BitVec 7} {x2 : BitVec 18} {w : Word}
    (h : x0 ++ x1 ++ x2 = w) : w.extractLsb' 0 4 = x2.extractLsb' 0 4 := by
  subst h; exact field_low (by decide)

theorem bits_7_7_18_at_0_18 {x0 : BitVec 7} {x1 : BitVec 7} {x2 : BitVec 18} {w : Word}
    (h : x0 ++ x1 ++ x2 = w) : w.extractLsb' 0 18 = x2 := by
  subst h; exact (field_low (by decide)).trans <| field_all _

theorem bits_7_7_7_4_6_1_at_25_7 {x0 : BitVec 7} {x1 : BitVec 7} {x2 : BitVec 7} {x3 : BitVec 4} {x4 : BitVec 6} {x5 : BitVec 1} {w : Word}
    (h : x0 ++ x1 ++ x2 ++ x3 ++ x4 ++ x5 = w) : w.extractLsb' 25 7 = x0 := by
  subst h; exact (field_high (by decide)).trans <| (field_high (by decide)).trans <| (field_high (by decide)).trans <| (field_high (by decide)).trans <| (field_high (by decide)).trans <| field_all _

theorem bits_7_7_7_4_6_1_at_18_7 {x0 : BitVec 7} {x1 : BitVec 7} {x2 : BitVec 7} {x3 : BitVec 4} {x4 : BitVec 6} {x5 : BitVec 1} {w : Word}
    (h : x0 ++ x1 ++ x2 ++ x3 ++ x4 ++ x5 = w) : w.extractLsb' 18 7 = x1 := by
  subst h; exact (field_high (by decide)).trans <| (field_high (by decide)).trans <| (field_high (by decide)).trans <| (field_high (by decide)).trans <| (field_low (by decide)).trans <| field_all _

theorem bits_7_7_7_4_6_1_at_11_7 {x0 : BitVec 7} {x1 : BitVec 7} {x2 : BitVec 7} {x3 : BitVec 4} {x4 : BitVec 6} {x5 : BitVec 1} {w : Word}
    (h : x0 ++ x1 ++ x2 ++ x3 ++ x4 ++ x5 = w) : w.extractLsb' 11 7 = x2 := by
  subst h; exact (field_high (by decide)).trans <| (field_high (by decide)).trans <| (field_high (by decide)).trans <| (field_low (by decide)).trans <| field_all _

theorem bits_7_7_7_4_6_1_at_7_4 {x0 : BitVec 7} {x1 : BitVec 7} {x2 : BitVec 7} {x3 : BitVec 4} {x4 : BitVec 6} {x5 : BitVec 1} {w : Word}
    (h : x0 ++ x1 ++ x2 ++ x3 ++ x4 ++ x5 = w) : w.extractLsb' 7 4 = x3 := by
  subst h; exact (field_high (by decide)).trans <| (field_high (by decide)).trans <| (field_low (by decide)).trans <| field_all _

theorem bits_7_7_7_4_6_1_at_1_6 {x0 : BitVec 7} {x1 : BitVec 7} {x2 : BitVec 7} {x3 : BitVec 4} {x4 : BitVec 6} {x5 : BitVec 1} {w : Word}
    (h : x0 ++ x1 ++ x2 ++ x3 ++ x4 ++ x5 = w) : w.extractLsb' 1 6 = x4 := by
  subst h; exact (field_high (by decide)).trans <| (field_low (by decide)).trans <| field_all _

theorem bits_7_7_7_4_6_1_at_0_1 {x0 : BitVec 7} {x1 : BitVec 7} {x2 : BitVec 7} {x3 : BitVec 4} {x4 : BitVec 6} {x5 : BitVec 1} {w : Word}
    (h : x0 ++ x1 ++ x2 ++ x3 ++ x4 ++ x5 = w) : w.extractLsb' 0 1 = x5 := by
  subst h; exact (field_low (by decide)).trans <| field_all _

theorem bits_7_7_7_4_7_at_25_7 {x0 : BitVec 7} {x1 : BitVec 7} {x2 : BitVec 7} {x3 : BitVec 4} {x4 : BitVec 7} {w : Word}
    (h : x0 ++ x1 ++ x2 ++ x3 ++ x4 = w) : w.extractLsb' 25 7 = x0 := by
  subst h; exact (field_high (by decide)).trans <| (field_high (by decide)).trans <| (field_high (by decide)).trans <| (field_high (by decide)).trans <| field_all _

theorem bits_7_7_7_4_7_at_18_7 {x0 : BitVec 7} {x1 : BitVec 7} {x2 : BitVec 7} {x3 : BitVec 4} {x4 : BitVec 7} {w : Word}
    (h : x0 ++ x1 ++ x2 ++ x3 ++ x4 = w) : w.extractLsb' 18 7 = x1 := by
  subst h; exact (field_high (by decide)).trans <| (field_high (by decide)).trans <| (field_high (by decide)).trans <| (field_low (by decide)).trans <| field_all _

theorem bits_7_7_7_4_7_at_11_7 {x0 : BitVec 7} {x1 : BitVec 7} {x2 : BitVec 7} {x3 : BitVec 4} {x4 : BitVec 7} {w : Word}
    (h : x0 ++ x1 ++ x2 ++ x3 ++ x4 = w) : w.extractLsb' 11 7 = x2 := by
  subst h; exact (field_high (by decide)).trans <| (field_high (by decide)).trans <| (field_low (by decide)).trans <| field_all _

theorem bits_7_7_7_4_7_at_7_4 {x0 : BitVec 7} {x1 : BitVec 7} {x2 : BitVec 7} {x3 : BitVec 4} {x4 : BitVec 7} {w : Word}
    (h : x0 ++ x1 ++ x2 ++ x3 ++ x4 = w) : w.extractLsb' 7 4 = x3 := by
  subst h; exact (field_high (by decide)).trans <| (field_low (by decide)).trans <| field_all _

theorem bits_7_7_7_4_7_at_0_7 {x0 : BitVec 7} {x1 : BitVec 7} {x2 : BitVec 7} {x3 : BitVec 4} {x4 : BitVec 7} {w : Word}
    (h : x0 ++ x1 ++ x2 ++ x3 ++ x4 = w) : w.extractLsb' 0 7 = x4 := by
  subst h; exact (field_low (by decide)).trans <| field_all _

theorem bits_7_7_7_6_3_2_at_25_7 {x0 : BitVec 7} {x1 : BitVec 7} {x2 : BitVec 7} {x3 : BitVec 6} {x4 : BitVec 3} {x5 : BitVec 2} {w : Word}
    (h : x0 ++ x1 ++ x2 ++ x3 ++ x4 ++ x5 = w) : w.extractLsb' 25 7 = x0 := by
  subst h; exact (field_high (by decide)).trans <| (field_high (by decide)).trans <| (field_high (by decide)).trans <| (field_high (by decide)).trans <| (field_high (by decide)).trans <| field_all _

theorem bits_7_7_7_6_3_2_at_18_7 {x0 : BitVec 7} {x1 : BitVec 7} {x2 : BitVec 7} {x3 : BitVec 6} {x4 : BitVec 3} {x5 : BitVec 2} {w : Word}
    (h : x0 ++ x1 ++ x2 ++ x3 ++ x4 ++ x5 = w) : w.extractLsb' 18 7 = x1 := by
  subst h; exact (field_high (by decide)).trans <| (field_high (by decide)).trans <| (field_high (by decide)).trans <| (field_high (by decide)).trans <| (field_low (by decide)).trans <| field_all _

theorem bits_7_7_7_6_3_2_at_11_7 {x0 : BitVec 7} {x1 : BitVec 7} {x2 : BitVec 7} {x3 : BitVec 6} {x4 : BitVec 3} {x5 : BitVec 2} {w : Word}
    (h : x0 ++ x1 ++ x2 ++ x3 ++ x4 ++ x5 = w) : w.extractLsb' 11 7 = x2 := by
  subst h; exact (field_high (by decide)).trans <| (field_high (by decide)).trans <| (field_high (by decide)).trans <| (field_low (by decide)).trans <| field_all _

theorem bits_7_7_7_6_3_2_at_5_6 {x0 : BitVec 7} {x1 : BitVec 7} {x2 : BitVec 7} {x3 : BitVec 6} {x4 : BitVec 3} {x5 : BitVec 2} {w : Word}
    (h : x0 ++ x1 ++ x2 ++ x3 ++ x4 ++ x5 = w) : w.extractLsb' 5 6 = x3 := by
  subst h; exact (field_high (by decide)).trans <| (field_high (by decide)).trans <| (field_low (by decide)).trans <| field_all _

theorem bits_7_7_7_6_3_2_at_2_3 {x0 : BitVec 7} {x1 : BitVec 7} {x2 : BitVec 7} {x3 : BitVec 6} {x4 : BitVec 3} {x5 : BitVec 2} {w : Word}
    (h : x0 ++ x1 ++ x2 ++ x3 ++ x4 ++ x5 = w) : w.extractLsb' 2 3 = x4 := by
  subst h; exact (field_high (by decide)).trans <| (field_low (by decide)).trans <| field_all _

theorem bits_7_7_7_6_3_2_at_0_2 {x0 : BitVec 7} {x1 : BitVec 7} {x2 : BitVec 7} {x3 : BitVec 6} {x4 : BitVec 3} {x5 : BitVec 2} {w : Word}
    (h : x0 ++ x1 ++ x2 ++ x3 ++ x4 ++ x5 = w) : w.extractLsb' 0 2 = x5 := by
  subst h; exact (field_low (by decide)).trans <| field_all _

theorem bits_7_20_3_2_at_25_7 {x0 : BitVec 7} {x1 : BitVec 20} {x2 : BitVec 3} {x3 : BitVec 2} {w : Word}
    (h : x0 ++ x1 ++ x2 ++ x3 = w) : w.extractLsb' 25 7 = x0 := by
  subst h; exact (field_high (by decide)).trans <| (field_high (by decide)).trans <| (field_high (by decide)).trans <| field_all _

theorem bits_7_20_3_2_at_18_7 {x0 : BitVec 7} {x1 : BitVec 20} {x2 : BitVec 3} {x3 : BitVec 2} {w : Word}
    (h : x0 ++ x1 ++ x2 ++ x3 = w) : w.extractLsb' 18 7 = x1.extractLsb' 13 7 := by
  subst h; exact (field_high (by decide)).trans <| (field_high (by decide)).trans <| field_low (by decide)

theorem bits_7_20_3_2_at_11_7 {x0 : BitVec 7} {x1 : BitVec 20} {x2 : BitVec 3} {x3 : BitVec 2} {w : Word}
    (h : x0 ++ x1 ++ x2 ++ x3 = w) : w.extractLsb' 11 7 = x1.extractLsb' 6 7 := by
  subst h; exact (field_high (by decide)).trans <| (field_high (by decide)).trans <| field_low (by decide)

theorem bits_7_20_3_2_at_5_6 {x0 : BitVec 7} {x1 : BitVec 20} {x2 : BitVec 3} {x3 : BitVec 2} {w : Word}
    (h : x0 ++ x1 ++ x2 ++ x3 = w) : w.extractLsb' 5 6 = x1.extractLsb' 0 6 := by
  subst h; exact (field_high (by decide)).trans <| (field_high (by decide)).trans <| field_low (by decide)

theorem bits_7_20_3_2_at_2_3 {x0 : BitVec 7} {x1 : BitVec 20} {x2 : BitVec 3} {x3 : BitVec 2} {w : Word}
    (h : x0 ++ x1 ++ x2 ++ x3 = w) : w.extractLsb' 2 3 = x2 := by
  subst h; exact (field_high (by decide)).trans <| (field_low (by decide)).trans <| field_all _

theorem bits_7_20_3_2_at_0_2 {x0 : BitVec 7} {x1 : BitVec 20} {x2 : BitVec 3} {x3 : BitVec 2} {w : Word}
    (h : x0 ++ x1 ++ x2 ++ x3 = w) : w.extractLsb' 0 2 = x3 := by
  subst h; exact (field_low (by decide)).trans <| field_all _

theorem bits_7_7_12_2_2_2_at_25_7 {x0 : BitVec 7} {x1 : BitVec 7} {x2 : BitVec 12} {x3 : BitVec 2} {x4 : BitVec 2} {x5 : BitVec 2} {w : Word}
    (h : x0 ++ x1 ++ x2 ++ x3 ++ x4 ++ x5 = w) : w.extractLsb' 25 7 = x0 := by
  subst h; exact (field_high (by decide)).trans <| (field_high (by decide)).trans <| (field_high (by decide)).trans <| (field_high (by decide)).trans <| (field_high (by decide)).trans <| field_all _

theorem bits_7_7_12_2_2_2_at_18_7 {x0 : BitVec 7} {x1 : BitVec 7} {x2 : BitVec 12} {x3 : BitVec 2} {x4 : BitVec 2} {x5 : BitVec 2} {w : Word}
    (h : x0 ++ x1 ++ x2 ++ x3 ++ x4 ++ x5 = w) : w.extractLsb' 18 7 = x1 := by
  subst h; exact (field_high (by decide)).trans <| (field_high (by decide)).trans <| (field_high (by decide)).trans <| (field_high (by decide)).trans <| (field_low (by decide)).trans <| field_all _

theorem bits_7_7_12_2_2_2_at_6_12 {x0 : BitVec 7} {x1 : BitVec 7} {x2 : BitVec 12} {x3 : BitVec 2} {x4 : BitVec 2} {x5 : BitVec 2} {w : Word}
    (h : x0 ++ x1 ++ x2 ++ x3 ++ x4 ++ x5 = w) : w.extractLsb' 6 12 = x2 := by
  subst h; exact (field_high (by decide)).trans <| (field_high (by decide)).trans <| (field_high (by decide)).trans <| (field_low (by decide)).trans <| field_all _

theorem bits_7_7_12_2_2_2_at_4_2 {x0 : BitVec 7} {x1 : BitVec 7} {x2 : BitVec 12} {x3 : BitVec 2} {x4 : BitVec 2} {x5 : BitVec 2} {w : Word}
    (h : x0 ++ x1 ++ x2 ++ x3 ++ x4 ++ x5 = w) : w.extractLsb' 4 2 = x3 := by
  subst h; exact (field_high (by decide)).trans <| (field_high (by decide)).trans <| (field_low (by decide)).trans <| field_all _

theorem bits_7_7_12_2_2_2_at_2_2 {x0 : BitVec 7} {x1 : BitVec 7} {x2 : BitVec 12} {x3 : BitVec 2} {x4 : BitVec 2} {x5 : BitVec 2} {w : Word}
    (h : x0 ++ x1 ++ x2 ++ x3 ++ x4 ++ x5 = w) : w.extractLsb' 2 2 = x4 := by
  subst h; exact (field_high (by decide)).trans <| (field_low (by decide)).trans <| field_all _

theorem bits_7_7_12_2_2_2_at_0_2 {x0 : BitVec 7} {x1 : BitVec 7} {x2 : BitVec 12} {x3 : BitVec 2} {x4 : BitVec 2} {x5 : BitVec 2} {w : Word}
    (h : x0 ++ x1 ++ x2 ++ x3 ++ x4 ++ x5 = w) : w.extractLsb' 0 2 = x5 := by
  subst h; exact (field_low (by decide)).trans <| field_all _

theorem bits_7_14_11_at_25_7 {x0 : BitVec 7} {x1 : BitVec 14} {x2 : BitVec 11} {w : Word}
    (h : x0 ++ x1 ++ x2 = w) : w.extractLsb' 25 7 = x0 := by
  subst h; exact (field_high (by decide)).trans <| (field_high (by decide)).trans <| field_all _

theorem bits_7_14_11_at_18_7 {x0 : BitVec 7} {x1 : BitVec 14} {x2 : BitVec 11} {w : Word}
    (h : x0 ++ x1 ++ x2 = w) : w.extractLsb' 18 7 = x1.extractLsb' 7 7 := by
  subst h; exact (field_high (by decide)).trans <| field_low (by decide)

theorem bits_7_14_11_at_11_7 {x0 : BitVec 7} {x1 : BitVec 14} {x2 : BitVec 11} {w : Word}
    (h : x0 ++ x1 ++ x2 = w) : w.extractLsb' 11 7 = x1.extractLsb' 0 7 := by
  subst h; exact (field_high (by decide)).trans <| field_low (by decide)

theorem bits_7_14_11_at_0_11 {x0 : BitVec 7} {x1 : BitVec 14} {x2 : BitVec 11} {w : Word}
    (h : x0 ++ x1 ++ x2 = w) : w.extractLsb' 0 11 = x2 := by
  subst h; exact (field_low (by decide)).trans <| field_all _

theorem bits_7_7_7_2_2_7_at_25_7 {x0 : BitVec 7} {x1 : BitVec 7} {x2 : BitVec 7} {x3 : BitVec 2} {x4 : BitVec 2} {x5 : BitVec 7} {w : Word}
    (h : x0 ++ x1 ++ x2 ++ x3 ++ x4 ++ x5 = w) : w.extractLsb' 25 7 = x0 := by
  subst h; exact (field_high (by decide)).trans <| (field_high (by decide)).trans <| (field_high (by decide)).trans <| (field_high (by decide)).trans <| (field_high (by decide)).trans <| field_all _

theorem bits_7_7_7_2_2_7_at_18_7 {x0 : BitVec 7} {x1 : BitVec 7} {x2 : BitVec 7} {x3 : BitVec 2} {x4 : BitVec 2} {x5 : BitVec 7} {w : Word}
    (h : x0 ++ x1 ++ x2 ++ x3 ++ x4 ++ x5 = w) : w.extractLsb' 18 7 = x1 := by
  subst h; exact (field_high (by decide)).trans <| (field_high (by decide)).trans <| (field_high (by decide)).trans <| (field_high (by decide)).trans <| (field_low (by decide)).trans <| field_all _

theorem bits_7_7_7_2_2_7_at_11_7 {x0 : BitVec 7} {x1 : BitVec 7} {x2 : BitVec 7} {x3 : BitVec 2} {x4 : BitVec 2} {x5 : BitVec 7} {w : Word}
    (h : x0 ++ x1 ++ x2 ++ x3 ++ x4 ++ x5 = w) : w.extractLsb' 11 7 = x2 := by
  subst h; exact (field_high (by decide)).trans <| (field_high (by decide)).trans <| (field_high (by decide)).trans <| (field_low (by decide)).trans <| field_all _

theorem bits_7_7_7_2_2_7_at_7_4 {x0 : BitVec 7} {x1 : BitVec 7} {x2 : BitVec 7} {x3 : BitVec 2} {x4 : BitVec 2} {x5 : BitVec 7} {w : Word}
    (h : x0 ++ x1 ++ x2 ++ x3 ++ x4 ++ x5 = w) : w.extractLsb' 7 4 = x3 ++ x4 := by
  subst h; exact (field_high (by decide)).trans <| field_low4 _ _ _

theorem bits_7_7_7_2_2_7_at_0_7 {x0 : BitVec 7} {x1 : BitVec 7} {x2 : BitVec 7} {x3 : BitVec 2} {x4 : BitVec 2} {x5 : BitVec 7} {w : Word}
    (h : x0 ++ x1 ++ x2 ++ x3 ++ x4 ++ x5 = w) : w.extractLsb' 0 7 = x5 := by
  subst h; exact (field_low (by decide)).trans <| field_all _

theorem bits_7_17_8_at_25_7 {x0 : BitVec 7} {x1 : BitVec 17} {x2 : BitVec 8} {w : Word}
    (h : x0 ++ x1 ++ x2 = w) : w.extractLsb' 25 7 = x0 := by
  subst h; exact (field_high (by decide)).trans <| (field_high (by decide)).trans <| field_all _

theorem bits_7_17_8_at_18_7 {x0 : BitVec 7} {x1 : BitVec 17} {x2 : BitVec 8} {w : Word}
    (h : x0 ++ x1 ++ x2 = w) : w.extractLsb' 18 7 = x1.extractLsb' 10 7 := by
  subst h; exact (field_high (by decide)).trans <| field_low (by decide)

theorem bits_7_17_8_at_11_7 {x0 : BitVec 7} {x1 : BitVec 17} {x2 : BitVec 8} {w : Word}
    (h : x0 ++ x1 ++ x2 = w) : w.extractLsb' 11 7 = x1.extractLsb' 3 7 := by
  subst h; exact (field_high (by decide)).trans <| field_low (by decide)

theorem bits_7_17_8_at_8_3 {x0 : BitVec 7} {x1 : BitVec 17} {x2 : BitVec 8} {w : Word}
    (h : x0 ++ x1 ++ x2 = w) : w.extractLsb' 8 3 = x1.extractLsb' 0 3 := by
  subst h; exact (field_high (by decide)).trans <| field_low (by decide)

theorem bits_7_17_8_at_0_8 {x0 : BitVec 7} {x1 : BitVec 17} {x2 : BitVec 8} {w : Word}
    (h : x0 ++ x1 ++ x2 = w) : w.extractLsb' 0 8 = x2 := by
  subst h; exact (field_low (by decide)).trans <| field_all _

theorem bits_7_7_7_10_1_at_25_7 {x0 : BitVec 7} {x1 : BitVec 7} {x2 : BitVec 7} {x3 : BitVec 10} {x4 : BitVec 1} {w : Word}
    (h : x0 ++ x1 ++ x2 ++ x3 ++ x4 = w) : w.extractLsb' 25 7 = x0 := by
  subst h; exact (field_high (by decide)).trans <| (field_high (by decide)).trans <| (field_high (by decide)).trans <| (field_high (by decide)).trans <| field_all _

theorem bits_7_7_7_10_1_at_18_7 {x0 : BitVec 7} {x1 : BitVec 7} {x2 : BitVec 7} {x3 : BitVec 10} {x4 : BitVec 1} {w : Word}
    (h : x0 ++ x1 ++ x2 ++ x3 ++ x4 = w) : w.extractLsb' 18 7 = x1 := by
  subst h; exact (field_high (by decide)).trans <| (field_high (by decide)).trans <| (field_high (by decide)).trans <| (field_low (by decide)).trans <| field_all _

theorem bits_7_7_7_10_1_at_11_7 {x0 : BitVec 7} {x1 : BitVec 7} {x2 : BitVec 7} {x3 : BitVec 10} {x4 : BitVec 1} {w : Word}
    (h : x0 ++ x1 ++ x2 ++ x3 ++ x4 = w) : w.extractLsb' 11 7 = x2 := by
  subst h; exact (field_high (by decide)).trans <| (field_high (by decide)).trans <| (field_low (by decide)).trans <| field_all _

theorem bits_7_7_7_10_1_at_1_10 {x0 : BitVec 7} {x1 : BitVec 7} {x2 : BitVec 7} {x3 : BitVec 10} {x4 : BitVec 1} {w : Word}
    (h : x0 ++ x1 ++ x2 ++ x3 ++ x4 = w) : w.extractLsb' 1 10 = x3 := by
  subst h; exact (field_high (by decide)).trans <| (field_low (by decide)).trans <| field_all _

theorem bits_7_7_7_10_1_at_0_1 {x0 : BitVec 7} {x1 : BitVec 7} {x2 : BitVec 7} {x3 : BitVec 10} {x4 : BitVec 1} {w : Word}
    (h : x0 ++ x1 ++ x2 ++ x3 ++ x4 = w) : w.extractLsb' 0 1 = x4 := by
  subst h; exact (field_low (by decide)).trans <| field_all _

theorem bits_7_7_7_11_at_2_9 {x0 : BitVec 7} {x1 : BitVec 7} {x2 : BitVec 7} {x3 : BitVec 11} {w : Word}
    (h : x0 ++ x1 ++ x2 ++ x3 = w) : w.extractLsb' 2 9 = x3.extractLsb' 2 9 := by
  subst h; exact field_low (by decide)

theorem bits_7_7_7_11_at_0_2 {x0 : BitVec 7} {x1 : BitVec 7} {x2 : BitVec 7} {x3 : BitVec 11} {w : Word}
    (h : x0 ++ x1 ++ x2 ++ x3 = w) : w.extractLsb' 0 2 = x3.extractLsb' 0 2 := by
  subst h; exact field_low (by decide)

theorem bits_7_7_7_6_1_1_2_1_at_25_7 {x0 : BitVec 7} {x1 : BitVec 7} {x2 : BitVec 7} {x3 : BitVec 6} {x4 : BitVec 1} {x5 : BitVec 1} {x6 : BitVec 2} {x7 : BitVec 1} {w : Word}
    (h : x0 ++ x1 ++ x2 ++ x3 ++ x4 ++ x5 ++ x6 ++ x7 = w) : w.extractLsb' 25 7 = x0 := by
  subst h; exact (field_high (by decide)).trans <| (field_high (by decide)).trans <| (field_high (by decide)).trans <| (field_high (by decide)).trans <| (field_high (by decide)).trans <| (field_high (by decide)).trans <| (field_high (by decide)).trans <| field_all _

theorem bits_7_7_7_6_1_1_2_1_at_18_7 {x0 : BitVec 7} {x1 : BitVec 7} {x2 : BitVec 7} {x3 : BitVec 6} {x4 : BitVec 1} {x5 : BitVec 1} {x6 : BitVec 2} {x7 : BitVec 1} {w : Word}
    (h : x0 ++ x1 ++ x2 ++ x3 ++ x4 ++ x5 ++ x6 ++ x7 = w) : w.extractLsb' 18 7 = x1 := by
  subst h; exact (field_high (by decide)).trans <| (field_high (by decide)).trans <| (field_high (by decide)).trans <| (field_high (by decide)).trans <| (field_high (by decide)).trans <| (field_high (by decide)).trans <| (field_low (by decide)).trans <| field_all _

theorem bits_7_7_7_6_1_1_2_1_at_11_7 {x0 : BitVec 7} {x1 : BitVec 7} {x2 : BitVec 7} {x3 : BitVec 6} {x4 : BitVec 1} {x5 : BitVec 1} {x6 : BitVec 2} {x7 : BitVec 1} {w : Word}
    (h : x0 ++ x1 ++ x2 ++ x3 ++ x4 ++ x5 ++ x6 ++ x7 = w) : w.extractLsb' 11 7 = x2 := by
  subst h; exact (field_high (by decide)).trans <| (field_high (by decide)).trans <| (field_high (by decide)).trans <| (field_high (by decide)).trans <| (field_high (by decide)).trans <| (field_low (by decide)).trans <| field_all _

theorem bits_7_7_7_6_1_1_2_1_at_5_6 {x0 : BitVec 7} {x1 : BitVec 7} {x2 : BitVec 7} {x3 : BitVec 6} {x4 : BitVec 1} {x5 : BitVec 1} {x6 : BitVec 2} {x7 : BitVec 1} {w : Word}
    (h : x0 ++ x1 ++ x2 ++ x3 ++ x4 ++ x5 ++ x6 ++ x7 = w) : w.extractLsb' 5 6 = x3 := by
  subst h; exact (field_high (by decide)).trans <| (field_high (by decide)).trans <| (field_high (by decide)).trans <| (field_high (by decide)).trans <| (field_low (by decide)).trans <| field_all _

theorem bits_7_7_7_6_1_1_2_1_at_4_1 {x0 : BitVec 7} {x1 : BitVec 7} {x2 : BitVec 7} {x3 : BitVec 6} {x4 : BitVec 1} {x5 : BitVec 1} {x6 : BitVec 2} {x7 : BitVec 1} {w : Word}
    (h : x0 ++ x1 ++ x2 ++ x3 ++ x4 ++ x5 ++ x6 ++ x7 = w) : w.extractLsb' 4 1 = x4 := by
  subst h; exact (field_high (by decide)).trans <| (field_high (by decide)).trans <| (field_high (by decide)).trans <| (field_low (by decide)).trans <| field_all _

theorem bits_7_7_7_6_1_1_2_1_at_3_1 {x0 : BitVec 7} {x1 : BitVec 7} {x2 : BitVec 7} {x3 : BitVec 6} {x4 : BitVec 1} {x5 : BitVec 1} {x6 : BitVec 2} {x7 : BitVec 1} {w : Word}
    (h : x0 ++ x1 ++ x2 ++ x3 ++ x4 ++ x5 ++ x6 ++ x7 = w) : w.extractLsb' 3 1 = x5 := by
  subst h; exact (field_high (by decide)).trans <| (field_high (by decide)).trans <| (field_low (by decide)).trans <| field_all _

theorem bits_7_7_7_6_1_1_2_1_at_1_2 {x0 : BitVec 7} {x1 : BitVec 7} {x2 : BitVec 7} {x3 : BitVec 6} {x4 : BitVec 1} {x5 : BitVec 1} {x6 : BitVec 2} {x7 : BitVec 1} {w : Word}
    (h : x0 ++ x1 ++ x2 ++ x3 ++ x4 ++ x5 ++ x6 ++ x7 = w) : w.extractLsb' 1 2 = x6 := by
  subst h; exact (field_high (by decide)).trans <| (field_low (by decide)).trans <| field_all _

theorem bits_7_7_7_6_1_1_2_1_at_0_1 {x0 : BitVec 7} {x1 : BitVec 7} {x2 : BitVec 7} {x3 : BitVec 6} {x4 : BitVec 1} {x5 : BitVec 1} {x6 : BitVec 2} {x7 : BitVec 1} {w : Word}
    (h : x0 ++ x1 ++ x2 ++ x3 ++ x4 ++ x5 ++ x6 ++ x7 = w) : w.extractLsb' 0 1 = x7 := by
  subst h; exact (field_low (by decide)).trans <| field_all _

theorem bits_7_7_7_9_1_1_at_25_7 {x0 : BitVec 7} {x1 : BitVec 7} {x2 : BitVec 7} {x3 : BitVec 9} {x4 : BitVec 1} {x5 : BitVec 1} {w : Word}
    (h : x0 ++ x1 ++ x2 ++ x3 ++ x4 ++ x5 = w) : w.extractLsb' 25 7 = x0 := by
  subst h; exact (field_high (by decide)).trans <| (field_high (by decide)).trans <| (field_high (by decide)).trans <| (field_high (by decide)).trans <| (field_high (by decide)).trans <| field_all _

theorem bits_7_7_7_9_1_1_at_18_7 {x0 : BitVec 7} {x1 : BitVec 7} {x2 : BitVec 7} {x3 : BitVec 9} {x4 : BitVec 1} {x5 : BitVec 1} {w : Word}
    (h : x0 ++ x1 ++ x2 ++ x3 ++ x4 ++ x5 = w) : w.extractLsb' 18 7 = x1 := by
  subst h; exact (field_high (by decide)).trans <| (field_high (by decide)).trans <| (field_high (by decide)).trans <| (field_high (by decide)).trans <| (field_low (by decide)).trans <| field_all _

theorem bits_7_7_7_9_1_1_at_11_7 {x0 : BitVec 7} {x1 : BitVec 7} {x2 : BitVec 7} {x3 : BitVec 9} {x4 : BitVec 1} {x5 : BitVec 1} {w : Word}
    (h : x0 ++ x1 ++ x2 ++ x3 ++ x4 ++ x5 = w) : w.extractLsb' 11 7 = x2 := by
  subst h; exact (field_high (by decide)).trans <| (field_high (by decide)).trans <| (field_high (by decide)).trans <| (field_low (by decide)).trans <| field_all _

theorem bits_7_7_7_9_1_1_at_2_9 {x0 : BitVec 7} {x1 : BitVec 7} {x2 : BitVec 7} {x3 : BitVec 9} {x4 : BitVec 1} {x5 : BitVec 1} {w : Word}
    (h : x0 ++ x1 ++ x2 ++ x3 ++ x4 ++ x5 = w) : w.extractLsb' 2 9 = x3 := by
  subst h; exact (field_high (by decide)).trans <| (field_high (by decide)).trans <| (field_low (by decide)).trans <| field_all _

theorem bits_7_7_7_9_1_1_at_1_1 {x0 : BitVec 7} {x1 : BitVec 7} {x2 : BitVec 7} {x3 : BitVec 9} {x4 : BitVec 1} {x5 : BitVec 1} {w : Word}
    (h : x0 ++ x1 ++ x2 ++ x3 ++ x4 ++ x5 = w) : w.extractLsb' 1 1 = x4 := by
  subst h; exact (field_high (by decide)).trans <| (field_low (by decide)).trans <| field_all _

theorem bits_7_7_7_9_1_1_at_0_1 {x0 : BitVec 7} {x1 : BitVec 7} {x2 : BitVec 7} {x3 : BitVec 9} {x4 : BitVec 1} {x5 : BitVec 1} {w : Word}
    (h : x0 ++ x1 ++ x2 ++ x3 ++ x4 ++ x5 = w) : w.extractLsb' 0 1 = x5 := by
  subst h; exact (field_low (by decide)).trans <| field_all _

theorem bits_7_7_7_8_1_1_1_at_25_7 {x0 : BitVec 7} {x1 : BitVec 7} {x2 : BitVec 7} {x3 : BitVec 8} {x4 : BitVec 1} {x5 : BitVec 1} {x6 : BitVec 1} {w : Word}
    (h : x0 ++ x1 ++ x2 ++ x3 ++ x4 ++ x5 ++ x6 = w) : w.extractLsb' 25 7 = x0 := by
  subst h; exact (field_high (by decide)).trans <| (field_high (by decide)).trans <| (field_high (by decide)).trans <| (field_high (by decide)).trans <| (field_high (by decide)).trans <| (field_high (by decide)).trans <| field_all _

theorem bits_7_7_7_8_1_1_1_at_18_7 {x0 : BitVec 7} {x1 : BitVec 7} {x2 : BitVec 7} {x3 : BitVec 8} {x4 : BitVec 1} {x5 : BitVec 1} {x6 : BitVec 1} {w : Word}
    (h : x0 ++ x1 ++ x2 ++ x3 ++ x4 ++ x5 ++ x6 = w) : w.extractLsb' 18 7 = x1 := by
  subst h; exact (field_high (by decide)).trans <| (field_high (by decide)).trans <| (field_high (by decide)).trans <| (field_high (by decide)).trans <| (field_high (by decide)).trans <| (field_low (by decide)).trans <| field_all _

theorem bits_7_7_7_8_1_1_1_at_11_7 {x0 : BitVec 7} {x1 : BitVec 7} {x2 : BitVec 7} {x3 : BitVec 8} {x4 : BitVec 1} {x5 : BitVec 1} {x6 : BitVec 1} {w : Word}
    (h : x0 ++ x1 ++ x2 ++ x3 ++ x4 ++ x5 ++ x6 = w) : w.extractLsb' 11 7 = x2 := by
  subst h; exact (field_high (by decide)).trans <| (field_high (by decide)).trans <| (field_high (by decide)).trans <| (field_high (by decide)).trans <| (field_low (by decide)).trans <| field_all _

theorem bits_7_7_7_8_1_1_1_at_3_8 {x0 : BitVec 7} {x1 : BitVec 7} {x2 : BitVec 7} {x3 : BitVec 8} {x4 : BitVec 1} {x5 : BitVec 1} {x6 : BitVec 1} {w : Word}
    (h : x0 ++ x1 ++ x2 ++ x3 ++ x4 ++ x5 ++ x6 = w) : w.extractLsb' 3 8 = x3 := by
  subst h; exact (field_high (by decide)).trans <| (field_high (by decide)).trans <| (field_high (by decide)).trans <| (field_low (by decide)).trans <| field_all _

theorem bits_7_7_7_8_1_1_1_at_2_1 {x0 : BitVec 7} {x1 : BitVec 7} {x2 : BitVec 7} {x3 : BitVec 8} {x4 : BitVec 1} {x5 : BitVec 1} {x6 : BitVec 1} {w : Word}
    (h : x0 ++ x1 ++ x2 ++ x3 ++ x4 ++ x5 ++ x6 = w) : w.extractLsb' 2 1 = x4 := by
  subst h; exact (field_high (by decide)).trans <| (field_high (by decide)).trans <| (field_low (by decide)).trans <| field_all _

theorem bits_7_7_7_8_1_1_1_at_1_1 {x0 : BitVec 7} {x1 : BitVec 7} {x2 : BitVec 7} {x3 : BitVec 8} {x4 : BitVec 1} {x5 : BitVec 1} {x6 : BitVec 1} {w : Word}
    (h : x0 ++ x1 ++ x2 ++ x3 ++ x4 ++ x5 ++ x6 = w) : w.extractLsb' 1 1 = x5 := by
  subst h; exact (field_high (by decide)).trans <| (field_low (by decide)).trans <| field_all _

theorem bits_7_7_7_8_1_1_1_at_0_1 {x0 : BitVec 7} {x1 : BitVec 7} {x2 : BitVec 7} {x3 : BitVec 8} {x4 : BitVec 1} {x5 : BitVec 1} {x6 : BitVec 1} {w : Word}
    (h : x0 ++ x1 ++ x2 ++ x3 ++ x4 ++ x5 ++ x6 = w) : w.extractLsb' 0 1 = x6 := by
  subst h; exact (field_low (by decide)).trans <| field_all _

theorem bits_7_7_18_at_1_10 {x0 : BitVec 7} {x1 : BitVec 7} {x2 : BitVec 18} {w : Word}
    (h : x0 ++ x1 ++ x2 = w) : w.extractLsb' 1 10 = x2.extractLsb' 1 10 := by
  subst h; exact field_low (by decide)

theorem bits_7_7_18_at_0_1 {x0 : BitVec 7} {x1 : BitVec 7} {x2 : BitVec 18} {w : Word}
    (h : x0 ++ x1 ++ x2 = w) : w.extractLsb' 0 1 = x2.extractLsb' 0 1 := by
  subst h; exact field_low (by decide)

theorem bits_7_25_at_0_25 {x0 : BitVec 7} {x1 : BitVec 25} {w : Word}
    (h : x0 ++ x1 = w) : w.extractLsb' 0 25 = x1 := by
  subst h; exact (field_low (by decide)).trans <| field_all _
/-! ### Operand codes -/

@[simp] theorem vSrc_code (a : VOp) : vSrc a.code = .ok a := by
  cases a <;> first | rfl | (rename_i k; revert k; decide)

@[simp] theorem vDst_code (d : VDst) : vDst d.code = .ok d := by
  cases d <;> first | rfl | (rename_i k; revert k; decide)

@[simp] theorem sSrc_code (a : SOp) : sSrc a.code = .ok a := by
  cases a <;> first | rfl | (rename_i k; revert k; decide)

@[simp] theorem sDst_code (d : SDst) : sDst d.code = .ok d := by
  cases d <;> first | rfl | (rename_i k; revert k; decide)

@[simp] theorem cSrc_code (a : COp) : cSrc a.code = .ok a := by
  cases a <;> first | rfl | (rename_i k; revert k; decide)

@[simp] theorem vSrc64_code {a : VOp} (h : a.even = true) : vSrc64 a.code = .ok a := by
  simp [vSrc64, vSrc_code, evenV, h, Except.bind]

@[simp] theorem vDst64_code {d : VDst} (h : d.even = true) : vDst64 d.code = .ok d := by
  simp [vDst64, vDst_code, evenVd, h, Except.bind]

@[simp] theorem sSrc64_code {a : SOp} (h : a.even = true) : sSrc64 a.code = .ok a := by
  simp [sSrc64, sSrc_code, evenS, h, Except.bind]

@[simp] theorem sDst64_code {d : SDst} (h : d.even = true) : sDst64 d.code = .ok d := by
  simp [sDst64, sDst_code, evenSd, h, Except.bind]

@[simp] theorem sSrcNoImm_code {a : SOp} (h : a ≠ .imm) : sSrcNoImm a.code = .ok a := by
  cases a with
  | s k => revert k; decide
  | z => rfl
  | imm => exact absurd rfl h

@[simp] theorem rowDst_code {d : VDst} (h : d.rowReg = true) : rowDst d.code = .ok d := by
  cases d with
  | w k => revert h; revert k; decide
  | o k => revert h; revert k; decide
  | z => revert h; decide

@[simp] theorem pred_code (p : Fin 8) : pred (predCode p) = .ok p := by revert p; decide
@[simp] theorem fmtField_code (k : Fin 4) : fmtField (fmtCode k) = .ok k := by revert k; decide
@[simp] theorem icmp_code (k : ICmp) : icmp (icmpCode k).toNat = .ok k := by cases k <;> rfl
@[simp] theorem fcmp_code (k : FCmp) : fcmp (fcmpCode k).toNat = .ok k := by cases k <;> rfl
@[simp] theorem arnd_code (r : ARnd) : arnd (arndCode r).toNat = r := by cases r <;> rfl
@[simp] theorem rnd_code (r : Rnd) : rnd (rndCode r) = .ok r := by cases r <;> rfl
@[simp] theorem numTy_code (t : NumTy) : numTy (numTyCode t) = .ok t := by cases t <;> rfl
@[simp] theorem wideTy_code (t : NumTy) : wideTy (numTyCode t) = t.wide := by cases t <;> rfl
@[simp] theorem scope_code (s : Scope) : scope (scopeCode s) = .ok s := by cases s <;> rfl
@[simp] theorem order_code (r : Order) : order (orderCode r) = r := by cases r <;> rfl
@[simp] theorem atomOp_code (o : AtomOp) : atomOp (atomCode o) = .ok o := by cases o <;> rfl
@[simp] theorem mDim_code (m : MDim) : mDim (mDimCode m) = .ok m := by cases m <;> rfl
@[simp] theorem kDim_code (k : KDim) : kDim (kDimCode k) = k := by cases k <;> rfl
@[simp] theorem mergeKind_code (m : MergeKind) : mergeKind (mergeCode m) = .ok m := by cases m <;> rfl

@[simp] theorem sReg_code (n : SReg) : sReg (sRegCode n) = .ok n := by
  cases n <;> first | rfl | (rename_i k; revert k; decide)

@[simp] theorem wideSReg_code (n : SReg) : wideSReg (sRegCode n) = n.wide := by
  cases n <;> first | rfl | (rename_i k; revert k; decide)

@[simp] theorem notPerThread_code {n : SReg} (h : (!n.perThread) = true) : notPerThread (sRegCode n) = .ok () := by
  cases n <;> first | rfl | (rename_i k; revert k; decide) | (exact absurd h (by decide))

@[simp] theorem csr_code (n : Csr) : csr (csrCode n) = .ok n := by cases n <;> rfl
@[simp] theorem wideCsr_code (n : Csr) : wideCsr (csrCode n) = n.wide := by cases n <;> rfl

@[simp] theorem csrWr_code {n : Csr} (h : n.writable = true) : csrWr (csrCode n) = .ok n := by
  simp [csrWr, csr_code, h, Except.bind]

@[simp] theorem evenIf_v (b : Bool) {a : VOp} (h : (!b || a.even) = true) : evenIf b a.code = .ok () := by
  cases b
  · simp [evenIf]
  · have h' : a.even = true := by simpa using h
    cases a <;> first | rfl | (rename_i k; revert h'; revert k; decide)

@[simp] theorem evenIf_vd (b : Bool) {d : VDst} (h : (!b || d.even) = true) : evenIf b d.code = .ok () := by
  cases b
  · simp [evenIf]
  · have h' : d.even = true := by simpa using h
    cases d <;> first | rfl | (rename_i k; revert h'; revert k; decide)

@[simp] theorem evenIf_s (b : Bool) {a : SOp} (h : (!b || a.even) = true) : evenIf b a.code = .ok () := by
  cases b
  · simp [evenIf]
  · have h' : a.even = true := by simpa using h
    cases a <;> first | rfl | (rename_i k; revert h'; revert k; decide)

@[simp] theorem evenIf_sd (b : Bool) {d : SDst} (h : (!b || d.even) = true) : evenIf b d.code = .ok () := by
  cases b
  · simp [evenIf]
  · have h' : d.even = true := by simpa using h
    cases d <;> first | rfl | (rename_i k; revert h'; revert k; decide)

@[simp] theorem atomReg_code {o : AtomOp} {d : VDst} (h : atomData o d = true) : atomReg (atomCode o) d.code = .ok () := by
  simp [atomReg, atomOp_code, vDst_code, h]

@[simp] theorem atomReg64_code {o : AtomOp} {d : VDst} (h : atomData64 o d = true) (ho : o ≠ .fadd) :
    atomReg64 (atomCode o) d.code = .ok () := by
  cases o <;> first | exact absurd rfl ho | (simp [atomData64] at h; simp [atomReg64, atomCode, vDst_code, h]; rfl)

theorem ordOk_code {legal : Scope → Order → Bool} {s : Scope} {r : Order} {w : Word} (h : legal s r = true)
    (hs : w.extractLsb' 2 3 = scopeCode s) (hr : w.extractLsb' 0 2 = orderCode r) : ordOk legal w = .ok () := by
  simp [ordOk, fScope, fOrder, hs, hr, scope_code, order_code, h]

theorem qMask_code {m : BitVec 8} {w : Word} (h : m ≠ 0) (h0 : w.extractLsb' 8 3 = 0) (h1 : w.extractLsb' 0 8 = m) :
    qMask w = .ok m := by
  simp only [qMask, h0, h1]
  exact if_pos ⟨trivial, h⟩

@[simp] theorem linkNo_ok {q : BitVec 4} (h : q.toNat < 12) : linkNo q = .ok q := by simp [linkNo, h]
@[simp] theorem shImm_ok {i : BitVec 11} (h : i.toNat < 32) : shImm i = .ok i := by simp [shImm, h]
@[simp] theorem cwaitN_ok {i : BitVec 11} (h : i.toNat < 64) : cwaitN i = .ok i := by simp [cwaitN, h]
@[simp] theorem fmtImm_ok {i : BitVec 18} (h : fmtValid (i.setWidth 32) = true) : fmtImm i = .ok i := by simp [fmtImm, h]
@[simp] theorem streamNo_code (k : Fin 4) : streamNo (0#2 ++ (BitVec.ofFin k : BitVec 2)) = .ok k := by revert k; decide

@[simp] theorem icmp3_code (k : ICmp) (b : BitVec 1) :
    (b ++ (icmpCode k).extractLsb' 0 3 : BitVec 4).toNat % 8 = (icmpCode k).toNat := by
  revert b; cases k <;> decide

theorem icmp3_low (k : ICmp) : (0#1 ++ (icmpCode k).extractLsb' 0 3 : BitVec 4).toNat < 8 := by cases k <;> decide
theorem icmp3_high (k : ICmp) : ¬(1#1 ++ (icmpCode k).extractLsb' 0 3 : BitVec 4).toNat < 8 := by cases k <;> decide

theorem fn_k2_0 (k : Fin 4) : (0#2 ++ (BitVec.ofFin k : BitVec 2) : BitVec 4).toNat / 4 = 0 := by revert k; decide
theorem fn_k2_1 (k : Fin 4) : (1#2 ++ (BitVec.ofFin k : BitVec 2) : BitVec 4).toNat / 4 = 1 := by revert k; decide
theorem setsReg_wstat : setsReg 32#8 = .ok () := by decide

theorem fn_arnd (r : ARnd) (n : BitVec 2) : (arndCode r ++ n : BitVec 4).toNat % 4 = n.toNat
    ∧ (arndCode r ++ n : BitVec 4).toNat / 4 = (arndCode r).toNat := by
  revert n; cases r <;> decide

/-! ### The checks of one word all pass -/

@[simp] theorem ap_ok (g : α → β) (x : α) : ap (.ok g) (.ok x) = .ok (g x) := rfl
@[simp] theorem ap1_ok (c : α → β) (x : α) : ap1 c (.ok x) = .ok (c x) := rfl
@[simp] theorem ap2_ok (c : α → β → γ) (x : α) (y : β) : ap2 c (.ok x) (.ok y) = .ok (c x y) := rfl
@[simp] theorem ap3_ok (c : α → β → γ → δ) (x : α) (y : β) (z : γ) : ap3 c (.ok x) (.ok y) (.ok z) = .ok (c x y z) := rfl
@[simp] theorem ap4_ok (c : α → β → γ → δ → ε) (x : α) (y : β) (z : γ) (u : δ) :
    ap4 c (.ok x) (.ok y) (.ok z) (.ok u) = .ok (c x y z u) := rfl
@[simp] theorem ap5_ok (c : α → β → γ → δ → ε → ζ) (x : α) (y : β) (z : γ) (u : δ) (v : ε) :
    ap5 c (.ok x) (.ok y) (.ok z) (.ok u) (.ok v) = .ok (c x y z u v) := rfl
@[simp] theorem ap6_ok (c : α → β → γ → δ → ε → ζ → η) (x : α) (y : β) (z : γ) (u : δ) (v : ε) (t : ζ) :
    ap6 c (.ok x) (.ok y) (.ok z) (.ok u) (.ok v) (.ok t) = .ok (c x y z u v t) := rfl
@[simp] theorem also_ok (x : α) : also (.ok x) (.ok ()) = .ok x := rfl
@[simp] theorem res_zero {n : Nat} : res (0#n) = .ok () := by simp [res]
@[simp] theorem zero_zero {n : Nat} (e : Illegal) : zero e (0#n) = .ok () := by simp [zero]

end Sys2Proof.Laws
end

