-- ==== Sys2Proof/Laws/PerInstr.lean ====
section
/-! SUPPORT. Per instruction: the word that the encoder gives a well-formed instruction decodes to it again (R24 to R41). An event row
has no word. -/

set_option linter.unusedSimpArgs false
set_option Elab.async false

namespace Sys2Proof.Laws.RoundTrip

/-- The word of a well-formed instruction decodes to that instruction. -/
def Statement (i : Instr) : Prop := WellFormed i = true → ∀ w, encode i = some w → decodeWord w = .ok i

theorem statement_of_event {i : Instr} (h : encode i = none) : Statement i := fun _ w e => by simp [h] at e

theorem addI32 (d : VDst) (a : VOp) (b : VOp) : Statement (.addI32 d a b) := by
  intro _ w h
  injection h with h
  simp [decodeWord, decInt, fOp, fD, fA, fB, fFn, bits_7_7_7_7_4_at_25_7 h, bits_7_7_7_7_4_at_18_7 h, bits_7_7_7_7_4_at_11_7 h, bits_7_7_7_7_4_at_4_7 h, bits_7_7_7_7_4_at_0_4 h]

theorem subI32 (d : VDst) (a : VOp) (b : VOp) : Statement (.subI32 d a b) := by
  intro _ w h
  injection h with h
  simp [decodeWord, decInt, fOp, fD, fA, fB, fFn, bits_7_7_7_7_4_at_25_7 h, bits_7_7_7_7_4_at_18_7 h, bits_7_7_7_7_4_at_11_7 h, bits_7_7_7_7_4_at_4_7 h, bits_7_7_7_7_4_at_0_4 h]

theorem mulI32 (d : VDst) (a : VOp) (b : VOp) : Statement (.mulI32 d a b) := by
  intro _ w h
  injection h with h
  simp [decodeWord, decInt, fOp, fD, fA, fB, fFn, bits_7_7_7_7_4_at_25_7 h, bits_7_7_7_7_4_at_18_7 h, bits_7_7_7_7_4_at_11_7 h, bits_7_7_7_7_4_at_4_7 h, bits_7_7_7_7_4_at_0_4 h]

theorem mulhiI32 (d : VDst) (a : VOp) (b : VOp) : Statement (.mulhiI32 d a b) := by
  intro _ w h
  injection h with h
  simp [decodeWord, decInt, fOp, fD, fA, fB, fFn, bits_7_7_7_7_4_at_25_7 h, bits_7_7_7_7_4_at_18_7 h, bits_7_7_7_7_4_at_11_7 h, bits_7_7_7_7_4_at_4_7 h, bits_7_7_7_7_4_at_0_4 h]

theorem mulhiU32 (d : VDst) (a : VOp) (b : VOp) : Statement (.mulhiU32 d a b) := by
  intro _ w h
  injection h with h
  simp [decodeWord, decInt, fOp, fD, fA, fB, fFn, bits_7_7_7_7_4_at_25_7 h, bits_7_7_7_7_4_at_18_7 h, bits_7_7_7_7_4_at_11_7 h, bits_7_7_7_7_4_at_4_7 h, bits_7_7_7_7_4_at_0_4 h]

theorem addsI32 (d : VDst) (a : VOp) (b : VOp) : Statement (.addsI32 d a b) := by
  intro _ w h
  injection h with h
  simp [decodeWord, decInt, fOp, fD, fA, fB, fFn, bits_7_7_7_7_4_at_25_7 h, bits_7_7_7_7_4_at_18_7 h, bits_7_7_7_7_4_at_11_7 h, bits_7_7_7_7_4_at_4_7 h, bits_7_7_7_7_4_at_0_4 h]

theorem subsI32 (d : VDst) (a : VOp) (b : VOp) : Statement (.subsI32 d a b) := by
  intro _ w h
  injection h with h
  simp [decodeWord, decInt, fOp, fD, fA, fB, fFn, bits_7_7_7_7_4_at_25_7 h, bits_7_7_7_7_4_at_18_7 h, bits_7_7_7_7_4_at_11_7 h, bits_7_7_7_7_4_at_4_7 h, bits_7_7_7_7_4_at_0_4 h]

theorem addsU32 (d : VDst) (a : VOp) (b : VOp) : Statement (.addsU32 d a b) := by
  intro _ w h
  injection h with h
  simp [decodeWord, decInt, fOp, fD, fA, fB, fFn, bits_7_7_7_7_4_at_25_7 h, bits_7_7_7_7_4_at_18_7 h, bits_7_7_7_7_4_at_11_7 h, bits_7_7_7_7_4_at_4_7 h, bits_7_7_7_7_4_at_0_4 h]

theorem subsU32 (d : VDst) (a : VOp) (b : VOp) : Statement (.subsU32 d a b) := by
  intro _ w h
  injection h with h
  simp [decodeWord, decInt, fOp, fD, fA, fB, fFn, bits_7_7_7_7_4_at_25_7 h, bits_7_7_7_7_4_at_18_7 h, bits_7_7_7_7_4_at_11_7 h, bits_7_7_7_7_4_at_4_7 h, bits_7_7_7_7_4_at_0_4 h]

theorem minI32 (d : VDst) (a : VOp) (b : VOp) : Statement (.minI32 d a b) := by
  intro _ w h
  injection h with h
  simp [decodeWord, decInt, fOp, fD, fA, fB, fFn, bits_7_7_7_7_4_at_25_7 h, bits_7_7_7_7_4_at_18_7 h, bits_7_7_7_7_4_at_11_7 h, bits_7_7_7_7_4_at_4_7 h, bits_7_7_7_7_4_at_0_4 h]

theorem maxI32 (d : VDst) (a : VOp) (b : VOp) : Statement (.maxI32 d a b) := by
  intro _ w h
  injection h with h
  simp [decodeWord, decInt, fOp, fD, fA, fB, fFn, bits_7_7_7_7_4_at_25_7 h, bits_7_7_7_7_4_at_18_7 h, bits_7_7_7_7_4_at_11_7 h, bits_7_7_7_7_4_at_4_7 h, bits_7_7_7_7_4_at_0_4 h]

theorem minU32 (d : VDst) (a : VOp) (b : VOp) : Statement (.minU32 d a b) := by
  intro _ w h
  injection h with h
  simp [decodeWord, decInt, fOp, fD, fA, fB, fFn, bits_7_7_7_7_4_at_25_7 h, bits_7_7_7_7_4_at_18_7 h, bits_7_7_7_7_4_at_11_7 h, bits_7_7_7_7_4_at_4_7 h, bits_7_7_7_7_4_at_0_4 h]

theorem maxU32 (d : VDst) (a : VOp) (b : VOp) : Statement (.maxU32 d a b) := by
  intro _ w h
  injection h with h
  simp [decodeWord, decInt, fOp, fD, fA, fB, fFn, bits_7_7_7_7_4_at_25_7 h, bits_7_7_7_7_4_at_18_7 h, bits_7_7_7_7_4_at_11_7 h, bits_7_7_7_7_4_at_4_7 h, bits_7_7_7_7_4_at_0_4 h]

theorem absI32 (d : VDst) (a : VOp) : Statement (.absI32 d a) := by
  intro _ w h
  injection h with h
  simp [decodeWord, decInt, fOp, fD, fA, fB, fFn, bits_7_7_7_11_at_25_7 h, bits_7_7_7_11_at_18_7 h, bits_7_7_7_11_at_11_7 h, bits_7_7_7_11_at_4_7 h, bits_7_7_7_11_at_0_4 h]

theorem andB32 (d : VDst) (a : VOp) (b : VOp) : Statement (.andB32 d a b) := by
  intro _ w h
  injection h with h
  simp [decodeWord, decInt, fOp, fD, fA, fB, fFn, bits_7_7_7_7_4_at_25_7 h, bits_7_7_7_7_4_at_18_7 h, bits_7_7_7_7_4_at_11_7 h, bits_7_7_7_7_4_at_4_7 h, bits_7_7_7_7_4_at_0_4 h]

theorem orB32 (d : VDst) (a : VOp) (b : VOp) : Statement (.orB32 d a b) := by
  intro _ w h
  injection h with h
  simp [decodeWord, decInt, fOp, fD, fA, fB, fFn, bits_7_7_7_7_4_at_25_7 h, bits_7_7_7_7_4_at_18_7 h, bits_7_7_7_7_4_at_11_7 h, bits_7_7_7_7_4_at_4_7 h, bits_7_7_7_7_4_at_0_4 h]

theorem xorB32 (d : VDst) (a : VOp) (b : VOp) : Statement (.xorB32 d a b) := by
  intro _ w h
  injection h with h
  simp [decodeWord, decInt, fOp, fD, fA, fB, fFn, bits_7_7_7_7_4_at_25_7 h, bits_7_7_7_7_4_at_18_7 h, bits_7_7_7_7_4_at_11_7 h, bits_7_7_7_7_4_at_4_7 h, bits_7_7_7_7_4_at_0_4 h]

theorem andnB32 (d : VDst) (a : VOp) (b : VOp) : Statement (.andnB32 d a b) := by
  intro _ w h
  injection h with h
  simp [decodeWord, decInt, fOp, fD, fA, fB, fFn, bits_7_7_7_7_4_at_25_7 h, bits_7_7_7_7_4_at_18_7 h, bits_7_7_7_7_4_at_11_7 h, bits_7_7_7_7_4_at_4_7 h, bits_7_7_7_7_4_at_0_4 h]

theorem shlB32 (d : VDst) (a : VOp) (b : VOp) : Statement (.shlB32 d a b) := by
  intro _ w h
  injection h with h
  simp [decodeWord, decInt, fOp, fD, fA, fB, fFn, bits_7_7_7_7_4_at_25_7 h, bits_7_7_7_7_4_at_18_7 h, bits_7_7_7_7_4_at_11_7 h, bits_7_7_7_7_4_at_4_7 h, bits_7_7_7_7_4_at_0_4 h]

theorem shrU32 (d : VDst) (a : VOp) (b : VOp) : Statement (.shrU32 d a b) := by
  intro _ w h
  injection h with h
  simp [decodeWord, decInt, fOp, fD, fA, fB, fFn, bits_7_7_7_7_4_at_25_7 h, bits_7_7_7_7_4_at_18_7 h, bits_7_7_7_7_4_at_11_7 h, bits_7_7_7_7_4_at_4_7 h, bits_7_7_7_7_4_at_0_4 h]

theorem shrI32 (d : VDst) (a : VOp) (b : VOp) : Statement (.shrI32 d a b) := by
  intro _ w h
  injection h with h
  simp [decodeWord, decInt, fOp, fD, fA, fB, fFn, bits_7_7_7_7_4_at_25_7 h, bits_7_7_7_7_4_at_18_7 h, bits_7_7_7_7_4_at_11_7 h, bits_7_7_7_7_4_at_4_7 h, bits_7_7_7_7_4_at_0_4 h]

theorem rotlB32 (d : VDst) (a : VOp) (b : VOp) : Statement (.rotlB32 d a b) := by
  intro _ w h
  injection h with h
  simp [decodeWord, decInt, fOp, fD, fA, fB, fFn, bits_7_7_7_7_4_at_25_7 h, bits_7_7_7_7_4_at_18_7 h, bits_7_7_7_7_4_at_11_7 h, bits_7_7_7_7_4_at_4_7 h, bits_7_7_7_7_4_at_0_4 h]

theorem popcB32 (d : VDst) (a : VOp) : Statement (.popcB32 d a) := by
  intro _ w h
  injection h with h
  simp [decodeWord, decInt, fOp, fD, fA, fB, fFn, bits_7_7_7_11_at_25_7 h, bits_7_7_7_11_at_18_7 h, bits_7_7_7_11_at_11_7 h, bits_7_7_7_11_at_4_7 h, bits_7_7_7_11_at_0_4 h]

theorem clzB32 (d : VDst) (a : VOp) : Statement (.clzB32 d a) := by
  intro _ w h
  injection h with h
  simp [decodeWord, decInt, fOp, fD, fA, fB, fFn, bits_7_7_7_11_at_25_7 h, bits_7_7_7_11_at_18_7 h, bits_7_7_7_11_at_11_7 h, bits_7_7_7_11_at_4_7 h, bits_7_7_7_11_at_0_4 h]

theorem brevB32 (d : VDst) (a : VOp) : Statement (.brevB32 d a) := by
  intro _ w h
  injection h with h
  simp [decodeWord, decInt, fOp, fD, fA, fB, fFn, bits_7_7_7_11_at_25_7 h, bits_7_7_7_11_at_18_7 h, bits_7_7_7_11_at_11_7 h, bits_7_7_7_11_at_4_7 h, bits_7_7_7_11_at_0_4 h]

theorem notB32 (d : VDst) (a : VOp) : Statement (.notB32 d a) := by
  intro _ w h
  injection h with h
  simp [decodeWord, decInt, fOp, fD, fA, fB, fFn, bits_7_7_7_11_at_25_7 h, bits_7_7_7_11_at_18_7 h, bits_7_7_7_11_at_11_7 h, bits_7_7_7_11_at_4_7 h, bits_7_7_7_11_at_0_4 h]

theorem bfeU32 (d : VDst) (a : VOp) (b : VOp) : Statement (.bfeU32 d a b) := by
  intro _ w h
  injection h with h
  simp [decodeWord, decInt, fOp, fD, fA, fB, fFn, bits_7_7_7_7_4_at_25_7 h, bits_7_7_7_7_4_at_18_7 h, bits_7_7_7_7_4_at_11_7 h, bits_7_7_7_7_4_at_4_7 h, bits_7_7_7_7_4_at_0_4 h]

theorem bfeI32 (d : VDst) (a : VOp) (b : VOp) : Statement (.bfeI32 d a b) := by
  intro _ w h
  injection h with h
  simp [decodeWord, decInt, fOp, fD, fA, fB, fFn, bits_7_7_7_7_4_at_25_7 h, bits_7_7_7_7_4_at_18_7 h, bits_7_7_7_7_4_at_11_7 h, bits_7_7_7_7_4_at_4_7 h, bits_7_7_7_7_4_at_0_4 h]

theorem bfiB32 (d : VDst) (a : VOp) (b : VOp) : Statement (.bfiB32 d a b) := by
  intro _ w h
  injection h with h
  simp [decodeWord, decInt, fOp, fD, fA, fB, fFn, bits_7_7_7_7_4_at_25_7 h, bits_7_7_7_7_4_at_18_7 h, bits_7_7_7_7_4_at_11_7 h, bits_7_7_7_7_4_at_4_7 h, bits_7_7_7_7_4_at_0_4 h]

theorem bselB32 (d : VDst) (a : VOp) (b : VOp) : Statement (.bselB32 d a b) := by
  intro _ w h
  injection h with h
  simp [decodeWord, decInt, fOp, fD, fA, fB, fFn, bits_7_7_7_7_4_at_25_7 h, bits_7_7_7_7_4_at_18_7 h, bits_7_7_7_7_4_at_11_7 h, bits_7_7_7_7_4_at_4_7 h, bits_7_7_7_7_4_at_0_4 h]

theorem addI64 (d : VDst) (a : VOp) (b : VOp) : Statement (.addI64 d a b) := by
  intro hw w h
  simp only [WellFormed, Bool.and_eq_true, decide_eq_true_eq, ne_eq] at hw
  obtain ⟨⟨h1, h2⟩, h3⟩ := hw
  injection h with h
  simp [decodeWord, decInt, fOp, fD, fA, fB, fFn, bits_7_7_7_7_4_at_25_7 h, bits_7_7_7_7_4_at_18_7 h, bits_7_7_7_7_4_at_11_7 h, bits_7_7_7_7_4_at_4_7 h, bits_7_7_7_7_4_at_0_4 h, h1, h2, h3]

theorem subI64 (d : VDst) (a : VOp) (b : VOp) : Statement (.subI64 d a b) := by
  intro hw w h
  simp only [WellFormed, Bool.and_eq_true, decide_eq_true_eq, ne_eq] at hw
  obtain ⟨⟨h1, h2⟩, h3⟩ := hw
  injection h with h
  simp [decodeWord, decInt, fOp, fD, fA, fB, fFn, bits_7_7_7_7_4_at_25_7 h, bits_7_7_7_7_4_at_18_7 h, bits_7_7_7_7_4_at_11_7 h, bits_7_7_7_7_4_at_4_7 h, bits_7_7_7_7_4_at_0_4 h, h1, h2, h3]

theorem mulI64 (d : VDst) (a : VOp) (b : VOp) : Statement (.mulI64 d a b) := by
  intro hw w h
  simp only [WellFormed, Bool.and_eq_true, decide_eq_true_eq, ne_eq] at hw
  obtain ⟨⟨h1, h2⟩, h3⟩ := hw
  injection h with h
  simp [decodeWord, decInt, fOp, fD, fA, fB, fFn, bits_7_7_7_7_4_at_25_7 h, bits_7_7_7_7_4_at_18_7 h, bits_7_7_7_7_4_at_11_7 h, bits_7_7_7_7_4_at_4_7 h, bits_7_7_7_7_4_at_0_4 h, h1, h2, h3]

theorem shlB64 (d : VDst) (a : VOp) (b : VOp) : Statement (.shlB64 d a b) := by
  intro hw w h
  simp only [WellFormed, Bool.and_eq_true, decide_eq_true_eq, ne_eq] at hw
  obtain ⟨h1, h2⟩ := hw
  injection h with h
  simp [decodeWord, decInt, fOp, fD, fA, fB, fFn, bits_7_7_7_7_4_at_25_7 h, bits_7_7_7_7_4_at_18_7 h, bits_7_7_7_7_4_at_11_7 h, bits_7_7_7_7_4_at_4_7 h, bits_7_7_7_7_4_at_0_4 h, h1, h2]

theorem shrU64 (d : VDst) (a : VOp) (b : VOp) : Statement (.shrU64 d a b) := by
  intro hw w h
  simp only [WellFormed, Bool.and_eq_true, decide_eq_true_eq, ne_eq] at hw
  obtain ⟨h1, h2⟩ := hw
  injection h with h
  simp [decodeWord, decInt, fOp, fD, fA, fB, fFn, bits_7_7_7_7_4_at_25_7 h, bits_7_7_7_7_4_at_18_7 h, bits_7_7_7_7_4_at_11_7 h, bits_7_7_7_7_4_at_4_7 h, bits_7_7_7_7_4_at_0_4 h, h1, h2]

theorem shrI64 (d : VDst) (a : VOp) (b : VOp) : Statement (.shrI64 d a b) := by
  intro hw w h
  simp only [WellFormed, Bool.and_eq_true, decide_eq_true_eq, ne_eq] at hw
  obtain ⟨h1, h2⟩ := hw
  injection h with h
  simp [decodeWord, decInt, fOp, fD, fA, fB, fFn, bits_7_7_7_7_4_at_25_7 h, bits_7_7_7_7_4_at_18_7 h, bits_7_7_7_7_4_at_11_7 h, bits_7_7_7_7_4_at_4_7 h, bits_7_7_7_7_4_at_0_4 h, h1, h2]

theorem minI64 (d : VDst) (a : VOp) (b : VOp) : Statement (.minI64 d a b) := by
  intro hw w h
  simp only [WellFormed, Bool.and_eq_true, decide_eq_true_eq, ne_eq] at hw
  obtain ⟨⟨h1, h2⟩, h3⟩ := hw
  injection h with h
  simp [decodeWord, decInt, fOp, fD, fA, fB, fFn, bits_7_7_7_7_4_at_25_7 h, bits_7_7_7_7_4_at_18_7 h, bits_7_7_7_7_4_at_11_7 h, bits_7_7_7_7_4_at_4_7 h, bits_7_7_7_7_4_at_0_4 h, h1, h2, h3]

theorem maxI64 (d : VDst) (a : VOp) (b : VOp) : Statement (.maxI64 d a b) := by
  intro hw w h
  simp only [WellFormed, Bool.and_eq_true, decide_eq_true_eq, ne_eq] at hw
  obtain ⟨⟨h1, h2⟩, h3⟩ := hw
  injection h with h
  simp [decodeWord, decInt, fOp, fD, fA, fB, fFn, bits_7_7_7_7_4_at_25_7 h, bits_7_7_7_7_4_at_18_7 h, bits_7_7_7_7_4_at_11_7 h, bits_7_7_7_7_4_at_4_7 h, bits_7_7_7_7_4_at_0_4 h, h1, h2, h3]

theorem mulwideI32 (d : VDst) (a : VOp) (b : VOp) : Statement (.mulwideI32 d a b) := by
  intro hw w h
  simp only [WellFormed, Bool.and_eq_true, decide_eq_true_eq, ne_eq] at hw
  have h1 := hw
  injection h with h
  simp [decodeWord, decInt, fOp, fD, fA, fB, fFn, bits_7_7_7_7_4_at_25_7 h, bits_7_7_7_7_4_at_18_7 h, bits_7_7_7_7_4_at_11_7 h, bits_7_7_7_7_4_at_4_7 h, bits_7_7_7_7_4_at_0_4 h, h1]

theorem mulwideU32 (d : VDst) (a : VOp) (b : VOp) : Statement (.mulwideU32 d a b) := by
  intro hw w h
  simp only [WellFormed, Bool.and_eq_true, decide_eq_true_eq, ne_eq] at hw
  have h1 := hw
  injection h with h
  simp [decodeWord, decInt, fOp, fD, fA, fB, fFn, bits_7_7_7_7_4_at_25_7 h, bits_7_7_7_7_4_at_18_7 h, bits_7_7_7_7_4_at_11_7 h, bits_7_7_7_7_4_at_4_7 h, bits_7_7_7_7_4_at_0_4 h, h1]

theorem madI32 (d : VDst) (a : VOp) (b : VOp) : Statement (.madI32 d a b) := by
  intro _ w h
  injection h with h
  simp [decodeWord, decInt, fOp, fD, fA, fB, fFn, bits_7_7_7_7_4_at_25_7 h, bits_7_7_7_7_4_at_18_7 h, bits_7_7_7_7_4_at_11_7 h, bits_7_7_7_7_4_at_4_7 h, bits_7_7_7_7_4_at_0_4 h]

theorem madI64 (d : VDst) (a : VOp) (b : VOp) : Statement (.madI64 d a b) := by
  intro hw w h
  simp only [WellFormed, Bool.and_eq_true, decide_eq_true_eq, ne_eq] at hw
  obtain ⟨⟨h1, h2⟩, h3⟩ := hw
  injection h with h
  simp [decodeWord, decInt, fOp, fD, fA, fB, fFn, bits_7_7_7_7_4_at_25_7 h, bits_7_7_7_7_4_at_18_7 h, bits_7_7_7_7_4_at_11_7 h, bits_7_7_7_7_4_at_4_7 h, bits_7_7_7_7_4_at_0_4 h, h1, h2, h3]

theorem addI32Imm (d : VDst) (a : VOp) (i : BitVec 11) : Statement (.addI32Imm d a i) := by
  intro _ w h
  injection h with h
  simp [decodeWord, decInt, fOp, fD, fA, fImm11, bits_7_7_7_11_at_25_7 h, bits_7_7_7_11_at_18_7 h, bits_7_7_7_11_at_11_7 h, bits_7_7_7_11_at_0_11 h]

theorem mulI32Imm (d : VDst) (a : VOp) (i : BitVec 11) : Statement (.mulI32Imm d a i) := by
  intro _ w h
  injection h with h
  simp [decodeWord, decInt, fOp, fD, fA, fImm11, bits_7_7_7_11_at_25_7 h, bits_7_7_7_11_at_18_7 h, bits_7_7_7_11_at_11_7 h, bits_7_7_7_11_at_0_11 h]

theorem andB32Imm (d : VDst) (a : VOp) (i : BitVec 11) : Statement (.andB32Imm d a i) := by
  intro _ w h
  injection h with h
  simp [decodeWord, decInt, fOp, fD, fA, fImm11, bits_7_7_7_11_at_25_7 h, bits_7_7_7_11_at_18_7 h, bits_7_7_7_11_at_11_7 h, bits_7_7_7_11_at_0_11 h]

theorem orB32Imm (d : VDst) (a : VOp) (i : BitVec 11) : Statement (.orB32Imm d a i) := by
  intro _ w h
  injection h with h
  simp [decodeWord, decInt, fOp, fD, fA, fImm11, bits_7_7_7_11_at_25_7 h, bits_7_7_7_11_at_18_7 h, bits_7_7_7_11_at_11_7 h, bits_7_7_7_11_at_0_11 h]

theorem xorB32Imm (d : VDst) (a : VOp) (i : BitVec 11) : Statement (.xorB32Imm d a i) := by
  intro _ w h
  injection h with h
  simp [decodeWord, decInt, fOp, fD, fA, fImm11, bits_7_7_7_11_at_25_7 h, bits_7_7_7_11_at_18_7 h, bits_7_7_7_11_at_11_7 h, bits_7_7_7_11_at_0_11 h]

theorem shlB32Imm (d : VDst) (a : VOp) (i : BitVec 11) : Statement (.shlB32Imm d a i) := by
  intro hw w h
  simp only [WellFormed, Bool.and_eq_true, decide_eq_true_eq, ne_eq] at hw
  have h1 := hw
  injection h with h
  simp [decodeWord, decInt, fOp, fD, fA, fImm11, bits_7_7_7_11_at_25_7 h, bits_7_7_7_11_at_18_7 h, bits_7_7_7_11_at_11_7 h, bits_7_7_7_11_at_0_11 h, h1]

theorem shrU32Imm (d : VDst) (a : VOp) (i : BitVec 11) : Statement (.shrU32Imm d a i) := by
  intro hw w h
  simp only [WellFormed, Bool.and_eq_true, decide_eq_true_eq, ne_eq] at hw
  have h1 := hw
  injection h with h
  simp [decodeWord, decInt, fOp, fD, fA, fImm11, bits_7_7_7_11_at_25_7 h, bits_7_7_7_11_at_18_7 h, bits_7_7_7_11_at_11_7 h, bits_7_7_7_11_at_0_11 h, h1]

theorem shrI32Imm (d : VDst) (a : VOp) (i : BitVec 11) : Statement (.shrI32Imm d a i) := by
  intro hw w h
  simp only [WellFormed, Bool.and_eq_true, decide_eq_true_eq, ne_eq] at hw
  have h1 := hw
  injection h with h
  simp [decodeWord, decInt, fOp, fD, fA, fImm11, bits_7_7_7_11_at_25_7 h, bits_7_7_7_11_at_18_7 h, bits_7_7_7_11_at_11_7 h, bits_7_7_7_11_at_0_11 h, h1]

theorem movB32Imm (d : VDst) (i : BitVec 11) : Statement (.movB32Imm d i) := by
  intro _ w h
  injection h with h
  simp [decodeWord, decInt, fOp, fD, fA, fImm11, bits_7_7_7_11_at_25_7 h, bits_7_7_7_11_at_18_7 h, bits_7_7_7_11_at_11_7 h, bits_7_7_7_11_at_0_11 h]

theorem setpI32 (c : ICmp) (d : Fin 8) (a : VOp) (b : VOp) : Statement (.setpI32 c d a b) := by
  intro _ w h
  injection h with h
  simp [decodeWord, decPred, fOp, fD, fA, fB, fFn, bits_7_7_7_7_4_at_25_7 h, bits_7_7_7_7_4_at_18_7 h, bits_7_7_7_7_4_at_11_7 h, bits_7_7_7_7_4_at_4_7 h, bits_7_7_7_7_4_at_0_4 h]

theorem setpU32 (c : ICmp) (d : Fin 8) (a : VOp) (b : VOp) : Statement (.setpU32 c d a b) := by
  intro _ w h
  injection h with h
  simp [decodeWord, decPred, fOp, fD, fA, fB, fFn, bits_7_7_7_7_4_at_25_7 h, bits_7_7_7_7_4_at_18_7 h, bits_7_7_7_7_4_at_11_7 h, bits_7_7_7_7_4_at_4_7 h, bits_7_7_7_7_4_at_0_4 h]

theorem setpF32 (c : FCmp) (d : Fin 8) (a : VOp) (b : VOp) : Statement (.setpF32 c d a b) := by
  intro _ w h
  injection h with h
  simp [decodeWord, decPred, fOp, fD, fA, fB, fFn, bits_7_7_7_7_4_at_25_7 h, bits_7_7_7_7_4_at_18_7 h, bits_7_7_7_7_4_at_11_7 h, bits_7_7_7_7_4_at_4_7 h, bits_7_7_7_7_4_at_0_4 h]

theorem setpI64 (c : ICmp) (d : Fin 8) (a : VOp) (b : VOp) : Statement (.setpI64 c d a b) := by
  intro hw w h
  simp only [WellFormed, Bool.and_eq_true, decide_eq_true_eq, ne_eq] at hw
  obtain ⟨h1, h2⟩ := hw
  injection h with h
  simp [decodeWord, decPred, fOp, fD, fA, fB, fFn, bits_7_7_7_7_4_at_25_7 h, bits_7_7_7_7_4_at_18_7 h, bits_7_7_7_7_4_at_11_7 h, bits_7_7_7_7_4_at_4_7 h, bits_7_7_7_7_4_at_0_4 h, h1, h2]

theorem setpF16 (c : ICmp) (d : Fin 8) (a : VOp) (b : VOp) : Statement (.setpF16 c d a b) := by
  intro _ w h
  injection h with h
  simp [decodeWord, decPred, fOp, fD, fA, fB, fFn, bits_7_7_7_7_1_3_at_25_7 h, bits_7_7_7_7_1_3_at_18_7 h, bits_7_7_7_7_1_3_at_11_7 h, bits_7_7_7_7_1_3_at_4_7 h, bits_7_7_7_7_1_3_at_0_4 h, icmp3_low, icmp3_high, -Nat.not_lt, -not_lt]

theorem setpBf16 (c : ICmp) (d : Fin 8) (a : VOp) (b : VOp) : Statement (.setpBf16 c d a b) := by
  intro _ w h
  injection h with h
  simp [decodeWord, decPred, fOp, fD, fA, fB, fFn, bits_7_7_7_7_1_3_at_25_7 h, bits_7_7_7_7_1_3_at_18_7 h, bits_7_7_7_7_1_3_at_11_7 h, bits_7_7_7_7_1_3_at_4_7 h, bits_7_7_7_7_1_3_at_0_4 h, icmp3_low, icmp3_high, -Nat.not_lt, -not_lt]

theorem pand (d : Fin 8) (a : Fin 8) (b : Fin 8) : Statement (.pand d a b) := by
  intro _ w h
  injection h with h
  simp [decodeWord, decPred, fOp, fD, fA, fB, fFn, bits_7_7_7_7_4_at_25_7 h, bits_7_7_7_7_4_at_18_7 h, bits_7_7_7_7_4_at_11_7 h, bits_7_7_7_7_4_at_4_7 h, bits_7_7_7_7_4_at_0_4 h]

theorem por (d : Fin 8) (a : Fin 8) (b : Fin 8) : Statement (.por d a b) := by
  intro _ w h
  injection h with h
  simp [decodeWord, decPred, fOp, fD, fA, fB, fFn, bits_7_7_7_7_4_at_25_7 h, bits_7_7_7_7_4_at_18_7 h, bits_7_7_7_7_4_at_11_7 h, bits_7_7_7_7_4_at_4_7 h, bits_7_7_7_7_4_at_0_4 h]

theorem pxor (d : Fin 8) (a : Fin 8) (b : Fin 8) : Statement (.pxor d a b) := by
  intro _ w h
  injection h with h
  simp [decodeWord, decPred, fOp, fD, fA, fB, fFn, bits_7_7_7_7_4_at_25_7 h, bits_7_7_7_7_4_at_18_7 h, bits_7_7_7_7_4_at_11_7 h, bits_7_7_7_7_4_at_4_7 h, bits_7_7_7_7_4_at_0_4 h]

theorem pnot (d : Fin 8) (a : Fin 8) : Statement (.pnot d a) := by
  intro _ w h
  injection h with h
  simp [decodeWord, decPred, fOp, fD, fA, fB, fFn, bits_7_7_7_11_at_25_7 h, bits_7_7_7_11_at_18_7 h, bits_7_7_7_11_at_11_7 h, bits_7_7_7_11_at_4_7 h, bits_7_7_7_11_at_0_4 h]

theorem pandn (d : Fin 8) (a : Fin 8) (b : Fin 8) : Statement (.pandn d a b) := by
  intro _ w h
  injection h with h
  simp [decodeWord, decPred, fOp, fD, fA, fB, fFn, bits_7_7_7_7_4_at_25_7 h, bits_7_7_7_7_4_at_18_7 h, bits_7_7_7_7_4_at_11_7 h, bits_7_7_7_7_4_at_4_7 h, bits_7_7_7_7_4_at_0_4 h]

theorem selB32 (d : VDst) (a : VOp) (b : VOp) (e : Bool) (p : Fin 8) : Statement (.selB32 d a b e p) := by
  intro _ w h
  injection h with h
  simp [decodeWord, decPred, fOp, fD, fA, fB, bits_7_7_7_7_1_3_at_25_7 h, bits_7_7_7_7_1_3_at_18_7 h, bits_7_7_7_7_1_3_at_11_7 h, bits_7_7_7_7_1_3_at_4_7 h, getLsbD_of_field (bits_7_7_7_7_1_3_at_3_1 h), bits_7_7_7_7_1_3_at_0_3 h, -BitVec.getLsbD_eq_getElem]

theorem movB32 (d : VDst) (a : VOp) : Statement (.movB32 d a) := by
  intro _ w h
  injection h with h
  simp [decodeWord, decPred, fOp, fD, fA, fB, fFn, bits_7_7_7_11_at_25_7 h, bits_7_7_7_11_at_18_7 h, bits_7_7_7_11_at_11_7 h, bits_7_7_7_11_at_4_7 h, bits_7_7_7_11_at_0_4 h]

theorem movB64 (d : VDst) (a : VOp) : Statement (.movB64 d a) := by
  intro hw w h
  simp only [WellFormed, Bool.and_eq_true, decide_eq_true_eq, ne_eq] at hw
  obtain ⟨h1, h2⟩ := hw
  injection h with h
  simp [decodeWord, decPred, fOp, fD, fA, fB, fFn, bits_7_7_7_11_at_25_7 h, bits_7_7_7_11_at_18_7 h, bits_7_7_7_11_at_11_7 h, bits_7_7_7_11_at_4_7 h, bits_7_7_7_11_at_0_4 h, h1, h2]

theorem shflIdx (d : VDst) (a : VOp) (b : VOp) : Statement (.shflIdx d a b) := by
  intro _ w h
  injection h with h
  simp [decodeWord, decPred, fOp, fD, fA, fB, fFn, bits_7_7_7_7_4_at_25_7 h, bits_7_7_7_7_4_at_18_7 h, bits_7_7_7_7_4_at_11_7 h, bits_7_7_7_7_4_at_4_7 h, bits_7_7_7_7_4_at_0_4 h]

theorem shflUp (d : VDst) (a : VOp) (b : VOp) : Statement (.shflUp d a b) := by
  intro _ w h
  injection h with h
  simp [decodeWord, decPred, fOp, fD, fA, fB, fFn, bits_7_7_7_7_4_at_25_7 h, bits_7_7_7_7_4_at_18_7 h, bits_7_7_7_7_4_at_11_7 h, bits_7_7_7_7_4_at_4_7 h, bits_7_7_7_7_4_at_0_4 h]

theorem shflDown (d : VDst) (a : VOp) (b : VOp) : Statement (.shflDown d a b) := by
  intro _ w h
  injection h with h
  simp [decodeWord, decPred, fOp, fD, fA, fB, fFn, bits_7_7_7_7_4_at_25_7 h, bits_7_7_7_7_4_at_18_7 h, bits_7_7_7_7_4_at_11_7 h, bits_7_7_7_7_4_at_4_7 h, bits_7_7_7_7_4_at_0_4 h]

theorem shflXor (d : VDst) (a : VOp) (b : VOp) : Statement (.shflXor d a b) := by
  intro _ w h
  injection h with h
  simp [decodeWord, decPred, fOp, fD, fA, fB, fFn, bits_7_7_7_7_4_at_25_7 h, bits_7_7_7_7_4_at_18_7 h, bits_7_7_7_7_4_at_11_7 h, bits_7_7_7_7_4_at_4_7 h, bits_7_7_7_7_4_at_0_4 h]

theorem wredAddI32 (d : VDst) (a : VOp) : Statement (.wredAddI32 d a) := by
  intro _ w h
  injection h with h
  simp [decodeWord, decPred, fOp, fD, fA, fB, fFn, bits_7_7_7_11_at_25_7 h, bits_7_7_7_11_at_18_7 h, bits_7_7_7_11_at_11_7 h, bits_7_7_7_11_at_4_7 h, bits_7_7_7_11_at_0_4 h]

theorem wredMinI32 (d : VDst) (a : VOp) : Statement (.wredMinI32 d a) := by
  intro _ w h
  injection h with h
  simp [decodeWord, decPred, fOp, fD, fA, fB, fFn, bits_7_7_7_11_at_25_7 h, bits_7_7_7_11_at_18_7 h, bits_7_7_7_11_at_11_7 h, bits_7_7_7_11_at_4_7 h, bits_7_7_7_11_at_0_4 h]

theorem wredMaxI32 (d : VDst) (a : VOp) : Statement (.wredMaxI32 d a) := by
  intro _ w h
  injection h with h
  simp [decodeWord, decPred, fOp, fD, fA, fB, fFn, bits_7_7_7_11_at_25_7 h, bits_7_7_7_11_at_18_7 h, bits_7_7_7_11_at_11_7 h, bits_7_7_7_11_at_4_7 h, bits_7_7_7_11_at_0_4 h]

theorem wredAddF32 (d : VDst) (a : VOp) : Statement (.wredAddF32 d a) := by
  intro _ w h
  injection h with h
  simp [decodeWord, decPred, fOp, fD, fA, fB, fFn, bits_7_7_7_11_at_25_7 h, bits_7_7_7_11_at_18_7 h, bits_7_7_7_11_at_11_7 h, bits_7_7_7_11_at_4_7 h, bits_7_7_7_11_at_0_4 h]

theorem wscanAddI32 (d : VDst) (a : VOp) : Statement (.wscanAddI32 d a) := by
  intro _ w h
  injection h with h
  simp [decodeWord, decPred, fOp, fD, fA, fB, fFn, bits_7_7_7_11_at_25_7 h, bits_7_7_7_11_at_18_7 h, bits_7_7_7_11_at_11_7 h, bits_7_7_7_11_at_4_7 h, bits_7_7_7_11_at_0_4 h]

theorem wscanAddxI32 (d : VDst) (a : VOp) : Statement (.wscanAddxI32 d a) := by
  intro _ w h
  injection h with h
  simp [decodeWord, decPred, fOp, fD, fA, fB, fFn, bits_7_7_7_11_at_25_7 h, bits_7_7_7_11_at_18_7 h, bits_7_7_7_11_at_11_7 h, bits_7_7_7_11_at_4_7 h, bits_7_7_7_11_at_0_4 h]

theorem wscanAddF32 (d : VDst) (a : VOp) : Statement (.wscanAddF32 d a) := by
  intro _ w h
  injection h with h
  simp [decodeWord, decPred, fOp, fD, fA, fB, fFn, bits_7_7_7_11_at_25_7 h, bits_7_7_7_11_at_18_7 h, bits_7_7_7_11_at_11_7 h, bits_7_7_7_11_at_4_7 h, bits_7_7_7_11_at_0_4 h]

theorem voteAny (d : VDst) (a : VOp) : Statement (.voteAny d a) := by
  intro _ w h
  injection h with h
  simp [decodeWord, decPred, fOp, fD, fA, fB, fFn, bits_7_7_7_11_at_25_7 h, bits_7_7_7_11_at_18_7 h, bits_7_7_7_11_at_11_7 h, bits_7_7_7_11_at_4_7 h, bits_7_7_7_11_at_0_4 h]

theorem voteAll (d : VDst) (a : VOp) : Statement (.voteAll d a) := by
  intro _ w h
  injection h with h
  simp [decodeWord, decPred, fOp, fD, fA, fB, fFn, bits_7_7_7_11_at_25_7 h, bits_7_7_7_11_at_18_7 h, bits_7_7_7_11_at_11_7 h, bits_7_7_7_11_at_4_7 h, bits_7_7_7_11_at_0_4 h]

theorem voteBallot (d : VDst) (a : VOp) : Statement (.voteBallot d a) := by
  intro _ w h
  injection h with h
  simp [decodeWord, decPred, fOp, fD, fA, fB, fFn, bits_7_7_7_11_at_25_7 h, bits_7_7_7_11_at_18_7 h, bits_7_7_7_11_at_11_7 h, bits_7_7_7_11_at_4_7 h, bits_7_7_7_11_at_0_4 h]

theorem wredAndB32 (d : VDst) (a : VOp) : Statement (.wredAndB32 d a) := by
  intro _ w h
  injection h with h
  simp [decodeWord, decPred, fOp, fD, fA, fB, fFn, bits_7_7_7_11_at_25_7 h, bits_7_7_7_11_at_18_7 h, bits_7_7_7_11_at_11_7 h, bits_7_7_7_11_at_4_7 h, bits_7_7_7_11_at_0_4 h]

theorem wredOrB32 (d : VDst) (a : VOp) : Statement (.wredOrB32 d a) := by
  intro _ w h
  injection h with h
  simp [decodeWord, decPred, fOp, fD, fA, fB, fFn, bits_7_7_7_11_at_25_7 h, bits_7_7_7_11_at_18_7 h, bits_7_7_7_11_at_11_7 h, bits_7_7_7_11_at_4_7 h, bits_7_7_7_11_at_0_4 h]

theorem faddF32 (d : VDst) (a : VOp) (b : VOp) (r : ARnd) : Statement (.faddF32 d a b r) := by
  intro _ w h
  injection h with h
  simp [decodeWord, decFloat, fOp, fD, fA, fB, fFn, bits_7_7_7_7_2_2_at_25_7 h, bits_7_7_7_7_2_2_at_18_7 h, bits_7_7_7_7_2_2_at_11_7 h, bits_7_7_7_7_2_2_at_4_7 h, bits_7_7_7_7_2_2_at_0_4 h, fn_arnd]

theorem fsubF32 (d : VDst) (a : VOp) (b : VOp) (r : ARnd) : Statement (.fsubF32 d a b r) := by
  intro _ w h
  injection h with h
  simp [decodeWord, decFloat, fOp, fD, fA, fB, fFn, bits_7_7_7_7_2_2_at_25_7 h, bits_7_7_7_7_2_2_at_18_7 h, bits_7_7_7_7_2_2_at_11_7 h, bits_7_7_7_7_2_2_at_4_7 h, bits_7_7_7_7_2_2_at_0_4 h, fn_arnd]

theorem fmulF32 (d : VDst) (a : VOp) (b : VOp) (r : ARnd) : Statement (.fmulF32 d a b r) := by
  intro _ w h
  injection h with h
  simp [decodeWord, decFloat, fOp, fD, fA, fB, fFn, bits_7_7_7_7_2_2_at_25_7 h, bits_7_7_7_7_2_2_at_18_7 h, bits_7_7_7_7_2_2_at_11_7 h, bits_7_7_7_7_2_2_at_4_7 h, bits_7_7_7_7_2_2_at_0_4 h, fn_arnd]

theorem fmaF32 (d : VDst) (a : VOp) (b : VOp) (r : ARnd) : Statement (.fmaF32 d a b r) := by
  intro _ w h
  injection h with h
  simp [decodeWord, decFloat, fOp, fD, fA, fB, fFn, bits_7_7_7_7_2_2_at_25_7 h, bits_7_7_7_7_2_2_at_18_7 h, bits_7_7_7_7_2_2_at_11_7 h, bits_7_7_7_7_2_2_at_4_7 h, bits_7_7_7_7_2_2_at_0_4 h, fn_arnd]

theorem faddF16 (d : VDst) (a : VOp) (b : VOp) (r : ARnd) : Statement (.faddF16 d a b r) := by
  intro _ w h
  injection h with h
  simp [decodeWord, decFloat, fOp, fD, fA, fB, fFn, bits_7_7_7_7_2_2_at_25_7 h, bits_7_7_7_7_2_2_at_18_7 h, bits_7_7_7_7_2_2_at_11_7 h, bits_7_7_7_7_2_2_at_4_7 h, bits_7_7_7_7_2_2_at_0_4 h, fn_arnd]

theorem fsubF16 (d : VDst) (a : VOp) (b : VOp) (r : ARnd) : Statement (.fsubF16 d a b r) := by
  intro _ w h
  injection h with h
  simp [decodeWord, decFloat, fOp, fD, fA, fB, fFn, bits_7_7_7_7_2_2_at_25_7 h, bits_7_7_7_7_2_2_at_18_7 h, bits_7_7_7_7_2_2_at_11_7 h, bits_7_7_7_7_2_2_at_4_7 h, bits_7_7_7_7_2_2_at_0_4 h, fn_arnd]

theorem fmulF16 (d : VDst) (a : VOp) (b : VOp) (r : ARnd) : Statement (.fmulF16 d a b r) := by
  intro _ w h
  injection h with h
  simp [decodeWord, decFloat, fOp, fD, fA, fB, fFn, bits_7_7_7_7_2_2_at_25_7 h, bits_7_7_7_7_2_2_at_18_7 h, bits_7_7_7_7_2_2_at_11_7 h, bits_7_7_7_7_2_2_at_4_7 h, bits_7_7_7_7_2_2_at_0_4 h, fn_arnd]

theorem fmaF16 (d : VDst) (a : VOp) (b : VOp) (r : ARnd) : Statement (.fmaF16 d a b r) := by
  intro _ w h
  injection h with h
  simp [decodeWord, decFloat, fOp, fD, fA, fB, fFn, bits_7_7_7_7_2_2_at_25_7 h, bits_7_7_7_7_2_2_at_18_7 h, bits_7_7_7_7_2_2_at_11_7 h, bits_7_7_7_7_2_2_at_4_7 h, bits_7_7_7_7_2_2_at_0_4 h, fn_arnd]

theorem faddBf16 (d : VDst) (a : VOp) (b : VOp) (r : ARnd) : Statement (.faddBf16 d a b r) := by
  intro _ w h
  injection h with h
  simp [decodeWord, decFloat, fOp, fD, fA, fB, fFn, bits_7_7_7_7_2_2_at_25_7 h, bits_7_7_7_7_2_2_at_18_7 h, bits_7_7_7_7_2_2_at_11_7 h, bits_7_7_7_7_2_2_at_4_7 h, bits_7_7_7_7_2_2_at_0_4 h, fn_arnd]

theorem fsubBf16 (d : VDst) (a : VOp) (b : VOp) (r : ARnd) : Statement (.fsubBf16 d a b r) := by
  intro _ w h
  injection h with h
  simp [decodeWord, decFloat, fOp, fD, fA, fB, fFn, bits_7_7_7_7_2_2_at_25_7 h, bits_7_7_7_7_2_2_at_18_7 h, bits_7_7_7_7_2_2_at_11_7 h, bits_7_7_7_7_2_2_at_4_7 h, bits_7_7_7_7_2_2_at_0_4 h, fn_arnd]

theorem fmulBf16 (d : VDst) (a : VOp) (b : VOp) (r : ARnd) : Statement (.fmulBf16 d a b r) := by
  intro _ w h
  injection h with h
  simp [decodeWord, decFloat, fOp, fD, fA, fB, fFn, bits_7_7_7_7_2_2_at_25_7 h, bits_7_7_7_7_2_2_at_18_7 h, bits_7_7_7_7_2_2_at_11_7 h, bits_7_7_7_7_2_2_at_4_7 h, bits_7_7_7_7_2_2_at_0_4 h, fn_arnd]

theorem fmaBf16 (d : VDst) (a : VOp) (b : VOp) (r : ARnd) : Statement (.fmaBf16 d a b r) := by
  intro _ w h
  injection h with h
  simp [decodeWord, decFloat, fOp, fD, fA, fB, fFn, bits_7_7_7_7_2_2_at_25_7 h, bits_7_7_7_7_2_2_at_18_7 h, bits_7_7_7_7_2_2_at_11_7 h, bits_7_7_7_7_2_2_at_4_7 h, bits_7_7_7_7_2_2_at_0_4 h, fn_arnd]

theorem fminF32 (d : VDst) (a : VOp) (b : VOp) : Statement (.fminF32 d a b) := by
  intro _ w h
  injection h with h
  simp [decodeWord, decFloat, fOp, fD, fA, fB, fFn, bits_7_7_7_7_4_at_25_7 h, bits_7_7_7_7_4_at_18_7 h, bits_7_7_7_7_4_at_11_7 h, bits_7_7_7_7_4_at_4_7 h, bits_7_7_7_7_4_at_0_4 h]

theorem fmaxF32 (d : VDst) (a : VOp) (b : VOp) : Statement (.fmaxF32 d a b) := by
  intro _ w h
  injection h with h
  simp [decodeWord, decFloat, fOp, fD, fA, fB, fFn, bits_7_7_7_7_4_at_25_7 h, bits_7_7_7_7_4_at_18_7 h, bits_7_7_7_7_4_at_11_7 h, bits_7_7_7_7_4_at_4_7 h, bits_7_7_7_7_4_at_0_4 h]

theorem fabsF32 (d : VDst) (a : VOp) : Statement (.fabsF32 d a) := by
  intro _ w h
  injection h with h
  simp [decodeWord, decFloat, fOp, fD, fA, fB, fFn, bits_7_7_7_11_at_25_7 h, bits_7_7_7_11_at_18_7 h, bits_7_7_7_11_at_11_7 h, bits_7_7_7_11_at_4_7 h, bits_7_7_7_11_at_0_4 h]

theorem fnegF32 (d : VDst) (a : VOp) : Statement (.fnegF32 d a) := by
  intro _ w h
  injection h with h
  simp [decodeWord, decFloat, fOp, fD, fA, fB, fFn, bits_7_7_7_11_at_25_7 h, bits_7_7_7_11_at_18_7 h, bits_7_7_7_11_at_11_7 h, bits_7_7_7_11_at_4_7 h, bits_7_7_7_11_at_0_4 h]

theorem fminF16 (d : VDst) (a : VOp) (b : VOp) : Statement (.fminF16 d a b) := by
  intro _ w h
  injection h with h
  simp [decodeWord, decFloat, fOp, fD, fA, fB, fFn, bits_7_7_7_7_4_at_25_7 h, bits_7_7_7_7_4_at_18_7 h, bits_7_7_7_7_4_at_11_7 h, bits_7_7_7_7_4_at_4_7 h, bits_7_7_7_7_4_at_0_4 h]

theorem fmaxF16 (d : VDst) (a : VOp) (b : VOp) : Statement (.fmaxF16 d a b) := by
  intro _ w h
  injection h with h
  simp [decodeWord, decFloat, fOp, fD, fA, fB, fFn, bits_7_7_7_7_4_at_25_7 h, bits_7_7_7_7_4_at_18_7 h, bits_7_7_7_7_4_at_11_7 h, bits_7_7_7_7_4_at_4_7 h, bits_7_7_7_7_4_at_0_4 h]

theorem fminBf16 (d : VDst) (a : VOp) (b : VOp) : Statement (.fminBf16 d a b) := by
  intro _ w h
  injection h with h
  simp [decodeWord, decFloat, fOp, fD, fA, fB, fFn, bits_7_7_7_7_4_at_25_7 h, bits_7_7_7_7_4_at_18_7 h, bits_7_7_7_7_4_at_11_7 h, bits_7_7_7_7_4_at_4_7 h, bits_7_7_7_7_4_at_0_4 h]

theorem fmaxBf16 (d : VDst) (a : VOp) (b : VOp) : Statement (.fmaxBf16 d a b) := by
  intro _ w h
  injection h with h
  simp [decodeWord, decFloat, fOp, fD, fA, fB, fFn, bits_7_7_7_7_4_at_25_7 h, bits_7_7_7_7_4_at_18_7 h, bits_7_7_7_7_4_at_11_7 h, bits_7_7_7_7_4_at_4_7 h, bits_7_7_7_7_4_at_0_4 h]

theorem cvt (d : VDst) (a : VOp) (r : Rnd) (t : NumTy) (u : NumTy) : Statement (.cvt d a r t u) := by
  intro hw w h
  simp only [WellFormed, Bool.and_eq_true, decide_eq_true_eq, ne_eq] at hw
  obtain ⟨h1, h2⟩ := hw
  injection h with h
  simp [decodeWord, decFloat, fOp, fD, fA, fFn, bits_7_7_7_3_4_4_at_25_7 h, bits_7_7_7_3_4_4_at_18_7 h, bits_7_7_7_3_4_4_at_11_7 h, bits_7_7_7_3_4_4_at_8_3 h, bits_7_7_7_3_4_4_at_4_4 h, bits_7_7_7_3_4_4_at_0_4 h, h1, h2]

theorem npack (d : VDst) (a : VOp) (b : VOp) (k : Fin 4) : Statement (.npack d a b k) := by
  intro _ w h
  injection h with h
  simp [decodeWord, decFloat, fOp, fD, fA, fB, fFn, bits_7_7_7_7_2_2_at_25_7 h, bits_7_7_7_7_2_2_at_18_7 h, bits_7_7_7_7_2_2_at_11_7 h, bits_7_7_7_7_2_2_at_4_7 h, bits_7_7_7_7_2_2_at_0_4 h, bits_7_7_7_7_2_2_at_0_2 h, fn_k2_0, fn_k2_1]

theorem nunpack (d : VDst) (a : VOp) (b : VOp) (k : Fin 4) : Statement (.nunpack d a b k) := by
  intro _ w h
  injection h with h
  simp [decodeWord, decFloat, fOp, fD, fA, fB, fFn, bits_7_7_7_7_2_2_at_25_7 h, bits_7_7_7_7_2_2_at_18_7 h, bits_7_7_7_7_2_2_at_11_7 h, bits_7_7_7_7_2_2_at_4_7 h, bits_7_7_7_7_2_2_at_0_4 h, bits_7_7_7_7_2_2_at_0_2 h, fn_k2_0, fn_k2_1]

theorem expF32 (d : VDst) (a : VOp) : Statement (.expF32 d a) := by
  intro _ w h
  injection h with h
  simp [decodeWord, decFloat, fOp, fD, fA, fB, fFn, bits_7_7_7_11_at_25_7 h, bits_7_7_7_11_at_18_7 h, bits_7_7_7_11_at_11_7 h, bits_7_7_7_11_at_4_7 h, bits_7_7_7_11_at_0_4 h]

theorem exp2F32 (d : VDst) (a : VOp) : Statement (.exp2F32 d a) := by
  intro _ w h
  injection h with h
  simp [decodeWord, decFloat, fOp, fD, fA, fB, fFn, bits_7_7_7_11_at_25_7 h, bits_7_7_7_11_at_18_7 h, bits_7_7_7_11_at_11_7 h, bits_7_7_7_11_at_4_7 h, bits_7_7_7_11_at_0_4 h]

theorem logF32 (d : VDst) (a : VOp) : Statement (.logF32 d a) := by
  intro _ w h
  injection h with h
  simp [decodeWord, decFloat, fOp, fD, fA, fB, fFn, bits_7_7_7_11_at_25_7 h, bits_7_7_7_11_at_18_7 h, bits_7_7_7_11_at_11_7 h, bits_7_7_7_11_at_4_7 h, bits_7_7_7_11_at_0_4 h]

theorem log2F32 (d : VDst) (a : VOp) : Statement (.log2F32 d a) := by
  intro _ w h
  injection h with h
  simp [decodeWord, decFloat, fOp, fD, fA, fB, fFn, bits_7_7_7_11_at_25_7 h, bits_7_7_7_11_at_18_7 h, bits_7_7_7_11_at_11_7 h, bits_7_7_7_11_at_4_7 h, bits_7_7_7_11_at_0_4 h]

theorem sinpiF32 (d : VDst) (a : VOp) : Statement (.sinpiF32 d a) := by
  intro _ w h
  injection h with h
  simp [decodeWord, decFloat, fOp, fD, fA, fB, fFn, bits_7_7_7_11_at_25_7 h, bits_7_7_7_11_at_18_7 h, bits_7_7_7_11_at_11_7 h, bits_7_7_7_11_at_4_7 h, bits_7_7_7_11_at_0_4 h]

theorem cospiF32 (d : VDst) (a : VOp) : Statement (.cospiF32 d a) := by
  intro _ w h
  injection h with h
  simp [decodeWord, decFloat, fOp, fD, fA, fB, fFn, bits_7_7_7_11_at_25_7 h, bits_7_7_7_11_at_18_7 h, bits_7_7_7_11_at_11_7 h, bits_7_7_7_11_at_4_7 h, bits_7_7_7_11_at_0_4 h]

theorem tanhF32 (d : VDst) (a : VOp) : Statement (.tanhF32 d a) := by
  intro _ w h
  injection h with h
  simp [decodeWord, decFloat, fOp, fD, fA, fB, fFn, bits_7_7_7_11_at_25_7 h, bits_7_7_7_11_at_18_7 h, bits_7_7_7_11_at_11_7 h, bits_7_7_7_11_at_4_7 h, bits_7_7_7_11_at_0_4 h]

theorem sigmF32 (d : VDst) (a : VOp) : Statement (.sigmF32 d a) := by
  intro _ w h
  injection h with h
  simp [decodeWord, decFloat, fOp, fD, fA, fB, fFn, bits_7_7_7_11_at_25_7 h, bits_7_7_7_11_at_18_7 h, bits_7_7_7_11_at_11_7 h, bits_7_7_7_11_at_4_7 h, bits_7_7_7_11_at_0_4 h]

theorem erfF32 (d : VDst) (a : VOp) : Statement (.erfF32 d a) := by
  intro _ w h
  injection h with h
  simp [decodeWord, decFloat, fOp, fD, fA, fB, fFn, bits_7_7_7_11_at_25_7 h, bits_7_7_7_11_at_18_7 h, bits_7_7_7_11_at_11_7 h, bits_7_7_7_11_at_4_7 h, bits_7_7_7_11_at_0_4 h]

theorem rcpF32 (d : VDst) (a : VOp) : Statement (.rcpF32 d a) := by
  intro _ w h
  injection h with h
  simp [decodeWord, decFloat, fOp, fD, fA, fB, fFn, bits_7_7_7_11_at_25_7 h, bits_7_7_7_11_at_18_7 h, bits_7_7_7_11_at_11_7 h, bits_7_7_7_11_at_4_7 h, bits_7_7_7_11_at_0_4 h]

theorem rsqrtF32 (d : VDst) (a : VOp) : Statement (.rsqrtF32 d a) := by
  intro _ w h
  injection h with h
  simp [decodeWord, decFloat, fOp, fD, fA, fB, fFn, bits_7_7_7_11_at_25_7 h, bits_7_7_7_11_at_18_7 h, bits_7_7_7_11_at_11_7 h, bits_7_7_7_11_at_4_7 h, bits_7_7_7_11_at_0_4 h]

theorem sqrtF32 (d : VDst) (a : VOp) : Statement (.sqrtF32 d a) := by
  intro _ w h
  injection h with h
  simp [decodeWord, decFloat, fOp, fD, fA, fB, fFn, bits_7_7_7_11_at_25_7 h, bits_7_7_7_11_at_18_7 h, bits_7_7_7_11_at_11_7 h, bits_7_7_7_11_at_4_7 h, bits_7_7_7_11_at_0_4 h]

theorem divF32 (d : VDst) (a : VOp) (b : VOp) : Statement (.divF32 d a b) := by
  intro _ w h
  injection h with h
  simp [decodeWord, decFloat, fOp, fD, fA, fB, fFn, bits_7_7_7_7_4_at_25_7 h, bits_7_7_7_7_4_at_18_7 h, bits_7_7_7_7_4_at_11_7 h, bits_7_7_7_7_4_at_4_7 h, bits_7_7_7_7_4_at_0_4 h]

theorem expF16 (d : VDst) (a : VOp) : Statement (.expF16 d a) := by
  intro _ w h
  injection h with h
  simp [decodeWord, decFloat, fOp, fD, fA, fB, fFn, bits_7_7_7_11_at_25_7 h, bits_7_7_7_11_at_18_7 h, bits_7_7_7_11_at_11_7 h, bits_7_7_7_11_at_4_7 h, bits_7_7_7_11_at_0_4 h]

theorem exp2F16 (d : VDst) (a : VOp) : Statement (.exp2F16 d a) := by
  intro _ w h
  injection h with h
  simp [decodeWord, decFloat, fOp, fD, fA, fB, fFn, bits_7_7_7_11_at_25_7 h, bits_7_7_7_11_at_18_7 h, bits_7_7_7_11_at_11_7 h, bits_7_7_7_11_at_4_7 h, bits_7_7_7_11_at_0_4 h]

theorem logF16 (d : VDst) (a : VOp) : Statement (.logF16 d a) := by
  intro _ w h
  injection h with h
  simp [decodeWord, decFloat, fOp, fD, fA, fB, fFn, bits_7_7_7_11_at_25_7 h, bits_7_7_7_11_at_18_7 h, bits_7_7_7_11_at_11_7 h, bits_7_7_7_11_at_4_7 h, bits_7_7_7_11_at_0_4 h]

theorem log2F16 (d : VDst) (a : VOp) : Statement (.log2F16 d a) := by
  intro _ w h
  injection h with h
  simp [decodeWord, decFloat, fOp, fD, fA, fB, fFn, bits_7_7_7_11_at_25_7 h, bits_7_7_7_11_at_18_7 h, bits_7_7_7_11_at_11_7 h, bits_7_7_7_11_at_4_7 h, bits_7_7_7_11_at_0_4 h]

theorem sinpiF16 (d : VDst) (a : VOp) : Statement (.sinpiF16 d a) := by
  intro _ w h
  injection h with h
  simp [decodeWord, decFloat, fOp, fD, fA, fB, fFn, bits_7_7_7_11_at_25_7 h, bits_7_7_7_11_at_18_7 h, bits_7_7_7_11_at_11_7 h, bits_7_7_7_11_at_4_7 h, bits_7_7_7_11_at_0_4 h]

theorem cospiF16 (d : VDst) (a : VOp) : Statement (.cospiF16 d a) := by
  intro _ w h
  injection h with h
  simp [decodeWord, decFloat, fOp, fD, fA, fB, fFn, bits_7_7_7_11_at_25_7 h, bits_7_7_7_11_at_18_7 h, bits_7_7_7_11_at_11_7 h, bits_7_7_7_11_at_4_7 h, bits_7_7_7_11_at_0_4 h]

theorem tanhF16 (d : VDst) (a : VOp) : Statement (.tanhF16 d a) := by
  intro _ w h
  injection h with h
  simp [decodeWord, decFloat, fOp, fD, fA, fB, fFn, bits_7_7_7_11_at_25_7 h, bits_7_7_7_11_at_18_7 h, bits_7_7_7_11_at_11_7 h, bits_7_7_7_11_at_4_7 h, bits_7_7_7_11_at_0_4 h]

theorem sigmF16 (d : VDst) (a : VOp) : Statement (.sigmF16 d a) := by
  intro _ w h
  injection h with h
  simp [decodeWord, decFloat, fOp, fD, fA, fB, fFn, bits_7_7_7_11_at_25_7 h, bits_7_7_7_11_at_18_7 h, bits_7_7_7_11_at_11_7 h, bits_7_7_7_11_at_4_7 h, bits_7_7_7_11_at_0_4 h]

theorem erfF16 (d : VDst) (a : VOp) : Statement (.erfF16 d a) := by
  intro _ w h
  injection h with h
  simp [decodeWord, decFloat, fOp, fD, fA, fB, fFn, bits_7_7_7_11_at_25_7 h, bits_7_7_7_11_at_18_7 h, bits_7_7_7_11_at_11_7 h, bits_7_7_7_11_at_4_7 h, bits_7_7_7_11_at_0_4 h]

theorem rcpF16 (d : VDst) (a : VOp) : Statement (.rcpF16 d a) := by
  intro _ w h
  injection h with h
  simp [decodeWord, decFloat, fOp, fD, fA, fB, fFn, bits_7_7_7_11_at_25_7 h, bits_7_7_7_11_at_18_7 h, bits_7_7_7_11_at_11_7 h, bits_7_7_7_11_at_4_7 h, bits_7_7_7_11_at_0_4 h]

theorem rsqrtF16 (d : VDst) (a : VOp) : Statement (.rsqrtF16 d a) := by
  intro _ w h
  injection h with h
  simp [decodeWord, decFloat, fOp, fD, fA, fB, fFn, bits_7_7_7_11_at_25_7 h, bits_7_7_7_11_at_18_7 h, bits_7_7_7_11_at_11_7 h, bits_7_7_7_11_at_4_7 h, bits_7_7_7_11_at_0_4 h]

theorem sqrtF16 (d : VDst) (a : VOp) : Statement (.sqrtF16 d a) := by
  intro _ w h
  injection h with h
  simp [decodeWord, decFloat, fOp, fD, fA, fB, fFn, bits_7_7_7_11_at_25_7 h, bits_7_7_7_11_at_18_7 h, bits_7_7_7_11_at_11_7 h, bits_7_7_7_11_at_4_7 h, bits_7_7_7_11_at_0_4 h]

theorem divF16 (d : VDst) (a : VOp) (b : VOp) : Statement (.divF16 d a b) := by
  intro _ w h
  injection h with h
  simp [decodeWord, decFloat, fOp, fD, fA, fB, fFn, bits_7_7_7_7_4_at_25_7 h, bits_7_7_7_7_4_at_18_7 h, bits_7_7_7_7_4_at_11_7 h, bits_7_7_7_7_4_at_4_7 h, bits_7_7_7_7_4_at_0_4 h]

theorem expBf16 (d : VDst) (a : VOp) : Statement (.expBf16 d a) := by
  intro _ w h
  injection h with h
  simp [decodeWord, decFloat, fOp, fD, fA, fB, fFn, bits_7_7_7_11_at_25_7 h, bits_7_7_7_11_at_18_7 h, bits_7_7_7_11_at_11_7 h, bits_7_7_7_11_at_4_7 h, bits_7_7_7_11_at_0_4 h]

theorem exp2Bf16 (d : VDst) (a : VOp) : Statement (.exp2Bf16 d a) := by
  intro _ w h
  injection h with h
  simp [decodeWord, decFloat, fOp, fD, fA, fB, fFn, bits_7_7_7_11_at_25_7 h, bits_7_7_7_11_at_18_7 h, bits_7_7_7_11_at_11_7 h, bits_7_7_7_11_at_4_7 h, bits_7_7_7_11_at_0_4 h]

theorem logBf16 (d : VDst) (a : VOp) : Statement (.logBf16 d a) := by
  intro _ w h
  injection h with h
  simp [decodeWord, decFloat, fOp, fD, fA, fB, fFn, bits_7_7_7_11_at_25_7 h, bits_7_7_7_11_at_18_7 h, bits_7_7_7_11_at_11_7 h, bits_7_7_7_11_at_4_7 h, bits_7_7_7_11_at_0_4 h]

theorem log2Bf16 (d : VDst) (a : VOp) : Statement (.log2Bf16 d a) := by
  intro _ w h
  injection h with h
  simp [decodeWord, decFloat, fOp, fD, fA, fB, fFn, bits_7_7_7_11_at_25_7 h, bits_7_7_7_11_at_18_7 h, bits_7_7_7_11_at_11_7 h, bits_7_7_7_11_at_4_7 h, bits_7_7_7_11_at_0_4 h]

theorem sinpiBf16 (d : VDst) (a : VOp) : Statement (.sinpiBf16 d a) := by
  intro _ w h
  injection h with h
  simp [decodeWord, decFloat, fOp, fD, fA, fB, fFn, bits_7_7_7_11_at_25_7 h, bits_7_7_7_11_at_18_7 h, bits_7_7_7_11_at_11_7 h, bits_7_7_7_11_at_4_7 h, bits_7_7_7_11_at_0_4 h]

theorem cospiBf16 (d : VDst) (a : VOp) : Statement (.cospiBf16 d a) := by
  intro _ w h
  injection h with h
  simp [decodeWord, decFloat, fOp, fD, fA, fB, fFn, bits_7_7_7_11_at_25_7 h, bits_7_7_7_11_at_18_7 h, bits_7_7_7_11_at_11_7 h, bits_7_7_7_11_at_4_7 h, bits_7_7_7_11_at_0_4 h]

theorem tanhBf16 (d : VDst) (a : VOp) : Statement (.tanhBf16 d a) := by
  intro _ w h
  injection h with h
  simp [decodeWord, decFloat, fOp, fD, fA, fB, fFn, bits_7_7_7_11_at_25_7 h, bits_7_7_7_11_at_18_7 h, bits_7_7_7_11_at_11_7 h, bits_7_7_7_11_at_4_7 h, bits_7_7_7_11_at_0_4 h]

theorem sigmBf16 (d : VDst) (a : VOp) : Statement (.sigmBf16 d a) := by
  intro _ w h
  injection h with h
  simp [decodeWord, decFloat, fOp, fD, fA, fB, fFn, bits_7_7_7_11_at_25_7 h, bits_7_7_7_11_at_18_7 h, bits_7_7_7_11_at_11_7 h, bits_7_7_7_11_at_4_7 h, bits_7_7_7_11_at_0_4 h]

theorem erfBf16 (d : VDst) (a : VOp) : Statement (.erfBf16 d a) := by
  intro _ w h
  injection h with h
  simp [decodeWord, decFloat, fOp, fD, fA, fB, fFn, bits_7_7_7_11_at_25_7 h, bits_7_7_7_11_at_18_7 h, bits_7_7_7_11_at_11_7 h, bits_7_7_7_11_at_4_7 h, bits_7_7_7_11_at_0_4 h]

theorem rcpBf16 (d : VDst) (a : VOp) : Statement (.rcpBf16 d a) := by
  intro _ w h
  injection h with h
  simp [decodeWord, decFloat, fOp, fD, fA, fB, fFn, bits_7_7_7_11_at_25_7 h, bits_7_7_7_11_at_18_7 h, bits_7_7_7_11_at_11_7 h, bits_7_7_7_11_at_4_7 h, bits_7_7_7_11_at_0_4 h]

theorem rsqrtBf16 (d : VDst) (a : VOp) : Statement (.rsqrtBf16 d a) := by
  intro _ w h
  injection h with h
  simp [decodeWord, decFloat, fOp, fD, fA, fB, fFn, bits_7_7_7_11_at_25_7 h, bits_7_7_7_11_at_18_7 h, bits_7_7_7_11_at_11_7 h, bits_7_7_7_11_at_4_7 h, bits_7_7_7_11_at_0_4 h]

theorem sqrtBf16 (d : VDst) (a : VOp) : Statement (.sqrtBf16 d a) := by
  intro _ w h
  injection h with h
  simp [decodeWord, decFloat, fOp, fD, fA, fB, fFn, bits_7_7_7_11_at_25_7 h, bits_7_7_7_11_at_18_7 h, bits_7_7_7_11_at_11_7 h, bits_7_7_7_11_at_4_7 h, bits_7_7_7_11_at_0_4 h]

theorem divBf16 (d : VDst) (a : VOp) (b : VOp) : Statement (.divBf16 d a b) := by
  intro _ w h
  injection h with h
  simp [decodeWord, decFloat, fOp, fD, fA, fB, fFn, bits_7_7_7_7_4_at_25_7 h, bits_7_7_7_7_4_at_18_7 h, bits_7_7_7_7_4_at_11_7 h, bits_7_7_7_7_4_at_4_7 h, bits_7_7_7_7_4_at_0_4 h]

theorem saddI32 (d : SDst) (a : SOp) (b : SOp) : Statement (.saddI32 d a b) := by
  intro _ w h
  injection h with h
  simp [decodeWord, decScalar, fOp, fD, fA, fB, fFn, bits_7_7_7_7_4_at_25_7 h, bits_7_7_7_7_4_at_18_7 h, bits_7_7_7_7_4_at_11_7 h, bits_7_7_7_7_4_at_4_7 h, bits_7_7_7_7_4_at_0_4 h]

theorem ssubI32 (d : SDst) (a : SOp) (b : SOp) : Statement (.ssubI32 d a b) := by
  intro _ w h
  injection h with h
  simp [decodeWord, decScalar, fOp, fD, fA, fB, fFn, bits_7_7_7_7_4_at_25_7 h, bits_7_7_7_7_4_at_18_7 h, bits_7_7_7_7_4_at_11_7 h, bits_7_7_7_7_4_at_4_7 h, bits_7_7_7_7_4_at_0_4 h]

theorem smulI32 (d : SDst) (a : SOp) (b : SOp) : Statement (.smulI32 d a b) := by
  intro _ w h
  injection h with h
  simp [decodeWord, decScalar, fOp, fD, fA, fB, fFn, bits_7_7_7_7_4_at_25_7 h, bits_7_7_7_7_4_at_18_7 h, bits_7_7_7_7_4_at_11_7 h, bits_7_7_7_7_4_at_4_7 h, bits_7_7_7_7_4_at_0_4 h]

theorem sandB32 (d : SDst) (a : SOp) (b : SOp) : Statement (.sandB32 d a b) := by
  intro _ w h
  injection h with h
  simp [decodeWord, decScalar, fOp, fD, fA, fB, fFn, bits_7_7_7_7_4_at_25_7 h, bits_7_7_7_7_4_at_18_7 h, bits_7_7_7_7_4_at_11_7 h, bits_7_7_7_7_4_at_4_7 h, bits_7_7_7_7_4_at_0_4 h]

theorem sorB32 (d : SDst) (a : SOp) (b : SOp) : Statement (.sorB32 d a b) := by
  intro _ w h
  injection h with h
  simp [decodeWord, decScalar, fOp, fD, fA, fB, fFn, bits_7_7_7_7_4_at_25_7 h, bits_7_7_7_7_4_at_18_7 h, bits_7_7_7_7_4_at_11_7 h, bits_7_7_7_7_4_at_4_7 h, bits_7_7_7_7_4_at_0_4 h]

theorem sxorB32 (d : SDst) (a : SOp) (b : SOp) : Statement (.sxorB32 d a b) := by
  intro _ w h
  injection h with h
  simp [decodeWord, decScalar, fOp, fD, fA, fB, fFn, bits_7_7_7_7_4_at_25_7 h, bits_7_7_7_7_4_at_18_7 h, bits_7_7_7_7_4_at_11_7 h, bits_7_7_7_7_4_at_4_7 h, bits_7_7_7_7_4_at_0_4 h]

theorem sshlB32 (d : SDst) (a : SOp) (b : SOp) : Statement (.sshlB32 d a b) := by
  intro _ w h
  injection h with h
  simp [decodeWord, decScalar, fOp, fD, fA, fB, fFn, bits_7_7_7_7_4_at_25_7 h, bits_7_7_7_7_4_at_18_7 h, bits_7_7_7_7_4_at_11_7 h, bits_7_7_7_7_4_at_4_7 h, bits_7_7_7_7_4_at_0_4 h]

theorem sshrU32 (d : SDst) (a : SOp) (b : SOp) : Statement (.sshrU32 d a b) := by
  intro _ w h
  injection h with h
  simp [decodeWord, decScalar, fOp, fD, fA, fB, fFn, bits_7_7_7_7_4_at_25_7 h, bits_7_7_7_7_4_at_18_7 h, bits_7_7_7_7_4_at_11_7 h, bits_7_7_7_7_4_at_4_7 h, bits_7_7_7_7_4_at_0_4 h]

theorem sshrI32 (d : SDst) (a : SOp) (b : SOp) : Statement (.sshrI32 d a b) := by
  intro _ w h
  injection h with h
  simp [decodeWord, decScalar, fOp, fD, fA, fB, fFn, bits_7_7_7_7_4_at_25_7 h, bits_7_7_7_7_4_at_18_7 h, bits_7_7_7_7_4_at_11_7 h, bits_7_7_7_7_4_at_4_7 h, bits_7_7_7_7_4_at_0_4 h]

theorem sminI32 (d : SDst) (a : SOp) (b : SOp) : Statement (.sminI32 d a b) := by
  intro _ w h
  injection h with h
  simp [decodeWord, decScalar, fOp, fD, fA, fB, fFn, bits_7_7_7_7_4_at_25_7 h, bits_7_7_7_7_4_at_18_7 h, bits_7_7_7_7_4_at_11_7 h, bits_7_7_7_7_4_at_4_7 h, bits_7_7_7_7_4_at_0_4 h]

theorem smaxI32 (d : SDst) (a : SOp) (b : SOp) : Statement (.smaxI32 d a b) := by
  intro _ w h
  injection h with h
  simp [decodeWord, decScalar, fOp, fD, fA, fB, fFn, bits_7_7_7_7_4_at_25_7 h, bits_7_7_7_7_4_at_18_7 h, bits_7_7_7_7_4_at_11_7 h, bits_7_7_7_7_4_at_4_7 h, bits_7_7_7_7_4_at_0_4 h]

theorem smovB32 (d : SDst) (a : SOp) : Statement (.smovB32 d a) := by
  intro _ w h
  injection h with h
  simp [decodeWord, decScalar, fOp, fD, fA, fB, fFn, bits_7_7_7_11_at_25_7 h, bits_7_7_7_11_at_18_7 h, bits_7_7_7_11_at_11_7 h, bits_7_7_7_11_at_4_7 h, bits_7_7_7_11_at_0_4 h]

theorem saddI64 (d : SDst) (a : SOp) (b : SOp) : Statement (.saddI64 d a b) := by
  intro hw w h
  simp only [WellFormed, Bool.and_eq_true, decide_eq_true_eq, ne_eq] at hw
  obtain ⟨⟨h1, h2⟩, h3⟩ := hw
  injection h with h
  simp [decodeWord, decScalar, fOp, fD, fA, fB, fFn, bits_7_7_7_7_4_at_25_7 h, bits_7_7_7_7_4_at_18_7 h, bits_7_7_7_7_4_at_11_7 h, bits_7_7_7_7_4_at_4_7 h, bits_7_7_7_7_4_at_0_4 h, h1, h2, h3]

theorem ssubI64 (d : SDst) (a : SOp) (b : SOp) : Statement (.ssubI64 d a b) := by
  intro hw w h
  simp only [WellFormed, Bool.and_eq_true, decide_eq_true_eq, ne_eq] at hw
  obtain ⟨⟨h1, h2⟩, h3⟩ := hw
  injection h with h
  simp [decodeWord, decScalar, fOp, fD, fA, fB, fFn, bits_7_7_7_7_4_at_25_7 h, bits_7_7_7_7_4_at_18_7 h, bits_7_7_7_7_4_at_11_7 h, bits_7_7_7_7_4_at_4_7 h, bits_7_7_7_7_4_at_0_4 h, h1, h2, h3]

theorem sminU32 (d : SDst) (a : SOp) (b : SOp) : Statement (.sminU32 d a b) := by
  intro _ w h
  injection h with h
  simp [decodeWord, decScalar, fOp, fD, fA, fB, fFn, bits_7_7_7_7_4_at_25_7 h, bits_7_7_7_7_4_at_18_7 h, bits_7_7_7_7_4_at_11_7 h, bits_7_7_7_7_4_at_4_7 h, bits_7_7_7_7_4_at_0_4 h]

theorem smaxU32 (d : SDst) (a : SOp) (b : SOp) : Statement (.smaxU32 d a b) := by
  intro _ w h
  injection h with h
  simp [decodeWord, decScalar, fOp, fD, fA, fB, fFn, bits_7_7_7_7_4_at_25_7 h, bits_7_7_7_7_4_at_18_7 h, bits_7_7_7_7_4_at_11_7 h, bits_7_7_7_7_4_at_4_7 h, bits_7_7_7_7_4_at_0_4 h]

theorem smovB32Imm (d : SDst) (i : BitVec 11) : Statement (.smovB32Imm d i) := by
  intro _ w h
  injection h with h
  simp [decodeWord, decScalar, fOp, fD, fA, fImm11, bits_7_7_7_11_at_25_7 h, bits_7_7_7_11_at_18_7 h, bits_7_7_7_11_at_11_7 h, bits_7_7_7_11_at_0_11 h]

theorem saddI32Imm (d : SDst) (a : SOp) (i : BitVec 11) : Statement (.saddI32Imm d a i) := by
  intro _ w h
  injection h with h
  simp [decodeWord, decScalar, fOp, fD, fA, fImm11, bits_7_7_7_11_at_25_7 h, bits_7_7_7_11_at_18_7 h, bits_7_7_7_11_at_11_7 h, bits_7_7_7_11_at_0_11 h]

theorem scmpEqI32 (d : Fin 8) (a : SOp) (b : SOp) : Statement (.scmpEqI32 d a b) := by
  intro _ w h
  injection h with h
  simp [decodeWord, decScalar, fOp, fD, fA, fB, fFn, bits_7_7_7_7_4_at_25_7 h, bits_7_7_7_7_4_at_18_7 h, bits_7_7_7_7_4_at_11_7 h, bits_7_7_7_7_4_at_4_7 h, bits_7_7_7_7_4_at_0_4 h]

theorem scmpNeI32 (d : Fin 8) (a : SOp) (b : SOp) : Statement (.scmpNeI32 d a b) := by
  intro _ w h
  injection h with h
  simp [decodeWord, decScalar, fOp, fD, fA, fB, fFn, bits_7_7_7_7_4_at_25_7 h, bits_7_7_7_7_4_at_18_7 h, bits_7_7_7_7_4_at_11_7 h, bits_7_7_7_7_4_at_4_7 h, bits_7_7_7_7_4_at_0_4 h]

theorem scmpLtI32 (d : Fin 8) (a : SOp) (b : SOp) : Statement (.scmpLtI32 d a b) := by
  intro _ w h
  injection h with h
  simp [decodeWord, decScalar, fOp, fD, fA, fB, fFn, bits_7_7_7_7_4_at_25_7 h, bits_7_7_7_7_4_at_18_7 h, bits_7_7_7_7_4_at_11_7 h, bits_7_7_7_7_4_at_4_7 h, bits_7_7_7_7_4_at_0_4 h]

theorem scmpLeI32 (d : Fin 8) (a : SOp) (b : SOp) : Statement (.scmpLeI32 d a b) := by
  intro _ w h
  injection h with h
  simp [decodeWord, decScalar, fOp, fD, fA, fB, fFn, bits_7_7_7_7_4_at_25_7 h, bits_7_7_7_7_4_at_18_7 h, bits_7_7_7_7_4_at_11_7 h, bits_7_7_7_7_4_at_4_7 h, bits_7_7_7_7_4_at_0_4 h]

theorem scmpGtI32 (d : Fin 8) (a : SOp) (b : SOp) : Statement (.scmpGtI32 d a b) := by
  intro _ w h
  injection h with h
  simp [decodeWord, decScalar, fOp, fD, fA, fB, fFn, bits_7_7_7_7_4_at_25_7 h, bits_7_7_7_7_4_at_18_7 h, bits_7_7_7_7_4_at_11_7 h, bits_7_7_7_7_4_at_4_7 h, bits_7_7_7_7_4_at_0_4 h]

theorem scmpGeI32 (d : Fin 8) (a : SOp) (b : SOp) : Statement (.scmpGeI32 d a b) := by
  intro _ w h
  injection h with h
  simp [decodeWord, decScalar, fOp, fD, fA, fB, fFn, bits_7_7_7_7_4_at_25_7 h, bits_7_7_7_7_4_at_18_7 h, bits_7_7_7_7_4_at_11_7 h, bits_7_7_7_7_4_at_4_7 h, bits_7_7_7_7_4_at_0_4 h]

theorem scmpEqU32 (d : Fin 8) (a : SOp) (b : SOp) : Statement (.scmpEqU32 d a b) := by
  intro _ w h
  injection h with h
  simp [decodeWord, decScalar, fOp, fD, fA, fB, fFn, bits_7_7_7_7_4_at_25_7 h, bits_7_7_7_7_4_at_18_7 h, bits_7_7_7_7_4_at_11_7 h, bits_7_7_7_7_4_at_4_7 h, bits_7_7_7_7_4_at_0_4 h]

theorem scmpNeU32 (d : Fin 8) (a : SOp) (b : SOp) : Statement (.scmpNeU32 d a b) := by
  intro _ w h
  injection h with h
  simp [decodeWord, decScalar, fOp, fD, fA, fB, fFn, bits_7_7_7_7_4_at_25_7 h, bits_7_7_7_7_4_at_18_7 h, bits_7_7_7_7_4_at_11_7 h, bits_7_7_7_7_4_at_4_7 h, bits_7_7_7_7_4_at_0_4 h]

theorem scmpLtU32 (d : Fin 8) (a : SOp) (b : SOp) : Statement (.scmpLtU32 d a b) := by
  intro _ w h
  injection h with h
  simp [decodeWord, decScalar, fOp, fD, fA, fB, fFn, bits_7_7_7_7_4_at_25_7 h, bits_7_7_7_7_4_at_18_7 h, bits_7_7_7_7_4_at_11_7 h, bits_7_7_7_7_4_at_4_7 h, bits_7_7_7_7_4_at_0_4 h]

theorem scmpLeU32 (d : Fin 8) (a : SOp) (b : SOp) : Statement (.scmpLeU32 d a b) := by
  intro _ w h
  injection h with h
  simp [decodeWord, decScalar, fOp, fD, fA, fB, fFn, bits_7_7_7_7_4_at_25_7 h, bits_7_7_7_7_4_at_18_7 h, bits_7_7_7_7_4_at_11_7 h, bits_7_7_7_7_4_at_4_7 h, bits_7_7_7_7_4_at_0_4 h]

theorem scmpGtU32 (d : Fin 8) (a : SOp) (b : SOp) : Statement (.scmpGtU32 d a b) := by
  intro _ w h
  injection h with h
  simp [decodeWord, decScalar, fOp, fD, fA, fB, fFn, bits_7_7_7_7_4_at_25_7 h, bits_7_7_7_7_4_at_18_7 h, bits_7_7_7_7_4_at_11_7 h, bits_7_7_7_7_4_at_4_7 h, bits_7_7_7_7_4_at_0_4 h]

theorem scmpGeU32 (d : Fin 8) (a : SOp) (b : SOp) : Statement (.scmpGeU32 d a b) := by
  intro _ w h
  injection h with h
  simp [decodeWord, decScalar, fOp, fD, fA, fB, fFn, bits_7_7_7_7_4_at_25_7 h, bits_7_7_7_7_4_at_18_7 h, bits_7_7_7_7_4_at_11_7 h, bits_7_7_7_7_4_at_4_7 h, bits_7_7_7_7_4_at_0_4 h]

theorem getsScalar (d : SDst) (n : SReg) : Statement (.getsScalar d n) := by
  intro hw w h
  simp only [WellFormed, Bool.and_eq_true, decide_eq_true_eq, ne_eq] at hw
  obtain ⟨h1, h2⟩ := hw
  injection h with h
  simp [decodeWord, decScalar, fOp, fD, bits_7_7_10_8_at_25_7 h, bits_7_7_10_8_at_18_7 h, getLsbD_of_field (b := false) ((bits_7_7_10_8_at_17_1 h).trans (by decide)), bits_7_7_10_8_at_8_9 h, bits_7_7_10_8_at_0_8 h, h1, h2, -BitVec.getLsbD_eq_getElem]

theorem getsVector (d : VDst) (n : SReg) : Statement (.getsVector d n) := by
  intro hw w h
  simp only [WellFormed, Bool.and_eq_true, decide_eq_true_eq, ne_eq] at hw
  have h1 := hw
  injection h with h
  simp [decodeWord, decScalar, fOp, fD, bits_7_7_10_8_at_25_7 h, bits_7_7_10_8_at_18_7 h, getLsbD_of_field (b := true) ((bits_7_7_10_8_at_17_1 h).trans (by decide)), bits_7_7_10_8_at_8_9 h, bits_7_7_10_8_at_0_8 h, h1, -BitVec.getLsbD_eq_getElem]

theorem sets (d : SOp) : Statement (.sets d) := by
  intro hw w h
  simp only [WellFormed, Bool.and_eq_true, decide_eq_true_eq, ne_eq] at hw
  have h1 := hw
  injection h with h
  simp [decodeWord, decScalar, fOp, fD, bits_7_7_18_at_25_7 h, bits_7_7_18_at_18_7 h, bits_7_7_18_at_8_10 h, bits_7_7_18_at_0_8 h, h1, setsReg_wstat]

theorem bra (e : Bool) (p : Fin 8) (x : BitVec 21) : Statement (.bra e p x) := by
  intro _ w h
  injection h with h
  simp [decodeWord, decCtl, fOp, bits_7_1_3_21_at_25_7 h, getLsbD_of_field (bits_7_1_3_21_at_24_1 h), bits_7_1_3_21_at_21_3 h, bits_7_1_3_21_at_0_21 h, -BitVec.getLsbD_eq_getElem]

theorem bru (e : Bool) (p : Fin 8) (x : BitVec 21) : Statement (.bru e p x) := by
  intro _ w h
  injection h with h
  simp [decodeWord, decCtl, fOp, bits_7_1_3_21_at_25_7 h, getLsbD_of_field (bits_7_1_3_21_at_24_1 h), bits_7_1_3_21_at_21_3 h, bits_7_1_3_21_at_0_21 h, -BitVec.getLsbD_eq_getElem]

theorem call (x : BitVec 21) : Statement (.call x) := by
  intro _ w h
  injection h with h
  simp [decodeWord, decCtl, fOp, bits_7_4_21_at_25_7 h, bits_7_4_21_at_21_4 h, bits_7_4_21_at_0_21 h]

theorem nop : Statement (.nop) := by
  intro _ w h
  injection h with h
  simp [decodeWord, decCtl, fOp, fD, fA, fB, fFn, bits_7_25_at_25_7 h, bits_7_25_at_18_7 h, bits_7_25_at_11_7 h, bits_7_25_at_4_7 h, bits_7_25_at_0_4 h]

theorem join : Statement (.join) := by
  intro _ w h
  injection h with h
  simp [decodeWord, decCtl, fOp, fD, fA, fB, fFn, bits_7_25_at_25_7 h, bits_7_25_at_18_7 h, bits_7_25_at_11_7 h, bits_7_25_at_4_7 h, bits_7_25_at_0_4 h]

theorem ret : Statement (.ret) := by
  intro _ w h
  injection h with h
  simp [decodeWord, decCtl, fOp, fD, fA, fB, fFn, bits_7_25_at_25_7 h, bits_7_25_at_18_7 h, bits_7_25_at_11_7 h, bits_7_25_at_4_7 h, bits_7_25_at_0_4 h]

theorem exit : Statement (.exit) := by
  intro _ w h
  injection h with h
  simp [decodeWord, decCtl, fOp, fD, fA, fB, fFn, bits_7_25_at_25_7 h, bits_7_25_at_18_7 h, bits_7_25_at_11_7 h, bits_7_25_at_4_7 h, bits_7_25_at_0_4 h]

theorem yield : Statement (.yield) := by
  intro _ w h
  injection h with h
  simp [decodeWord, decCtl, fOp, fD, fA, fB, fFn, bits_7_25_at_25_7 h, bits_7_25_at_18_7 h, bits_7_25_at_11_7 h, bits_7_25_at_4_7 h, bits_7_25_at_0_4 h]

theorem tret : Statement (.tret) := by
  intro _ w h
  injection h with h
  simp [decodeWord, decCtl, fOp, fD, fA, fB, fFn, bits_7_25_at_25_7 h, bits_7_25_at_18_7 h, bits_7_25_at_11_7 h, bits_7_25_at_4_7 h, bits_7_25_at_0_4 h]

theorem getmask (d : VDst) : Statement (.getmask d) := by
  intro _ w h
  injection h with h
  simp [decodeWord, decCtl, fOp, fD, fA, fB, fFn, bits_7_7_18_at_25_7 h, bits_7_7_18_at_18_7 h, bits_7_7_18_at_11_7 h, bits_7_7_18_at_4_7 h, bits_7_7_18_at_0_4 h]

theorem setmask (a : VOp) : Statement (.setmask a) := by
  intro _ w h
  injection h with h
  simp [decodeWord, decCtl, fOp, fD, fA, fB, fFn, bits_7_7_7_11_at_25_7 h, bits_7_7_7_11_at_18_7 h, bits_7_7_7_11_at_11_7 h, bits_7_7_7_11_at_4_7 h, bits_7_7_7_11_at_0_4 h]

theorem jmpi (a : VOp) : Statement (.jmpi a) := by
  intro hw w h
  simp only [WellFormed, Bool.and_eq_true, decide_eq_true_eq, ne_eq] at hw
  have h1 := hw
  injection h with h
  simp [decodeWord, decCtl, fOp, fD, fA, fB, fFn, bits_7_7_7_11_at_25_7 h, bits_7_7_7_11_at_18_7 h, bits_7_7_7_11_at_11_7 h, bits_7_7_7_11_at_4_7 h, bits_7_7_7_11_at_0_4 h, h1]

theorem calli (a : VOp) : Statement (.calli a) := by
  intro hw w h
  simp only [WellFormed, Bool.and_eq_true, decide_eq_true_eq, ne_eq] at hw
  have h1 := hw
  injection h with h
  simp [decodeWord, decCtl, fOp, fD, fA, fB, fFn, bits_7_7_7_11_at_25_7 h, bits_7_7_7_11_at_18_7 h, bits_7_7_7_11_at_11_7 h, bits_7_7_7_11_at_4_7 h, bits_7_7_7_11_at_0_4 h, h1]

theorem wbase (a : VOp) : Statement (.wbase a) := by
  intro _ w h
  injection h with h
  simp [decodeWord, decCtl, fOp, fD, fA, fB, fFn, bits_7_7_7_11_at_25_7 h, bits_7_7_7_11_at_18_7 h, bits_7_7_7_11_at_11_7 h, bits_7_7_7_11_at_4_7 h, bits_7_7_7_11_at_0_4 h]

theorem trap (n : BitVec 7) : Statement (.trap n) := by
  intro _ w h
  injection h with h
  simp [decodeWord, decCtl, fOp, fD, fA, fB, fFn, bits_7_7_18_at_25_7 h, bits_7_7_18_at_18_7 h, bits_7_7_18_at_11_7 h, bits_7_7_18_at_4_7 h, bits_7_7_18_at_0_4 h]

theorem sleepn (d : SOp) (i : BitVec 18) : Statement (.sleepn d i) := by
  intro hw w h
  simp only [WellFormed, Bool.and_eq_true, decide_eq_true_eq, ne_eq] at hw
  have h1 := hw
  injection h with h
  simp [decodeWord, decCtl, fOp, fD, fImm18, bits_7_7_18_at_25_7 h, bits_7_7_18_at_18_7 h, bits_7_7_18_at_0_18 h, h1]

theorem waitt (a : VOp) : Statement (.waitt a) := by
  intro hw w h
  simp only [WellFormed, Bool.and_eq_true, decide_eq_true_eq, ne_eq] at hw
  have h1 := hw
  injection h with h
  simp [decodeWord, decCtl, fOp, fD, fA, fB, fFn, bits_7_7_7_11_at_25_7 h, bits_7_7_7_11_at_18_7 h, bits_7_7_7_11_at_11_7 h, bits_7_7_7_11_at_4_7 h, bits_7_7_7_11_at_0_4 h, h1]

theorem tmarkFull (a : VOp) : Statement (.tmarkFull a) := by
  intro hw w h
  simp only [WellFormed, Bool.and_eq_true, decide_eq_true_eq, ne_eq] at hw
  have h1 := hw
  injection h with h
  simp [decodeWord, decCtl, fOp, fD, fA, fB, fFn, bits_7_7_7_11_at_25_7 h, bits_7_7_7_11_at_18_7 h, bits_7_7_7_11_at_11_7 h, bits_7_7_7_11_at_4_7 h, bits_7_7_7_11_at_0_4 h, h1]

theorem tmarkEmpty (a : VOp) : Statement (.tmarkEmpty a) := by
  intro hw w h
  simp only [WellFormed, Bool.and_eq_true, decide_eq_true_eq, ne_eq] at hw
  have h1 := hw
  injection h with h
  simp [decodeWord, decCtl, fOp, fD, fA, fB, fFn, bits_7_7_7_11_at_25_7 h, bits_7_7_7_11_at_18_7 h, bits_7_7_7_11_at_11_7 h, bits_7_7_7_11_at_4_7 h, bits_7_7_7_11_at_0_4 h, h1]

theorem ttest (d : Fin 8) (a : VOp) : Statement (.ttest d a) := by
  intro hw w h
  simp only [WellFormed, Bool.and_eq_true, decide_eq_true_eq, ne_eq] at hw
  have h1 := hw
  injection h with h
  simp [decodeWord, decCtl, fOp, fD, fA, fB, fFn, bits_7_7_7_11_at_25_7 h, bits_7_7_7_11_at_18_7 h, bits_7_7_7_11_at_11_7 h, bits_7_7_7_11_at_4_7 h, bits_7_7_7_11_at_0_4 h, h1]

theorem put (a : VOp) (b : VOp) (q : BitVec 4) (r : Bool) : Statement (.put a b q r) := by
  intro hw w h
  simp only [WellFormed, Bool.and_eq_true, decide_eq_true_eq, ne_eq] at hw
  have h1 := hw
  injection h with h
  simp [decodeWord, decCtl, fOp, fD, fA, fQ, bits_7_7_7_4_6_1_at_25_7 h, bits_7_7_7_4_6_1_at_18_7 h, bits_7_7_7_4_6_1_at_11_7 h, bits_7_7_7_4_6_1_at_7_4 h, bits_7_7_7_4_6_1_at_1_6 h, getLsbD_of_field (bits_7_7_7_4_6_1_at_0_1 h), h1, -BitVec.getLsbD_eq_getElem]

theorem get (a : VOp) (b : VOp) (q : BitVec 4) : Statement (.get a b q) := by
  intro hw w h
  simp only [WellFormed, Bool.and_eq_true, decide_eq_true_eq, ne_eq] at hw
  have h1 := hw
  injection h with h
  simp [decodeWord, decCtl, fOp, fD, fA, fQ, fCtl, bits_7_7_7_4_7_at_25_7 h, bits_7_7_7_4_7_at_18_7 h, bits_7_7_7_4_7_at_11_7 h, bits_7_7_7_4_7_at_7_4 h, bits_7_7_7_4_7_at_0_7 h, h1]

theorem send (a : VOp) (b : VOp) (q : BitVec 4) (r : Bool) : Statement (.send a b q r) := by
  intro hw w h
  simp only [WellFormed, Bool.and_eq_true, decide_eq_true_eq, ne_eq] at hw
  have h1 := hw
  injection h with h
  simp [decodeWord, decCtl, fOp, fD, fA, fQ, bits_7_7_7_4_6_1_at_25_7 h, bits_7_7_7_4_6_1_at_18_7 h, bits_7_7_7_4_6_1_at_11_7 h, bits_7_7_7_4_6_1_at_7_4 h, bits_7_7_7_4_6_1_at_1_6 h, getLsbD_of_field (bits_7_7_7_4_6_1_at_0_1 h), h1, -BitVec.getLsbD_eq_getElem]

theorem pread (d : SDst) (a : SOp) : Statement (.pread d a) := by
  intro _ w h
  injection h with h
  simp [decodeWord, decCtl, fOp, fD, fA, fB, fFn, bits_7_7_7_11_at_25_7 h, bits_7_7_7_11_at_18_7 h, bits_7_7_7_11_at_11_7 h, bits_7_7_7_11_at_4_7 h, bits_7_7_7_11_at_0_4 h]

theorem phint (a : SOp) : Statement (.phint a) := by
  intro _ w h
  injection h with h
  simp [decodeWord, decCtl, fOp, fD, fA, fB, fFn, bits_7_7_7_11_at_25_7 h, bits_7_7_7_11_at_18_7 h, bits_7_7_7_11_at_11_7 h, bits_7_7_7_11_at_4_7 h, bits_7_7_7_11_at_0_4 h]

theorem ldSU8 (d : VDst) (b : VOp) (o : BitVec 6) (s : Scope) (r : Order) : Statement (.ldSU8 d b o s r) := by
  intro hw w h
  simp only [WellFormed, Bool.and_eq_true, decide_eq_true_eq, ne_eq] at hw
  have h1 := hw
  injection h with h
  simp [decodeWord, decMem, fOp, fD, fA, fOff, fScope, fOrder, bits_7_7_7_6_3_2_at_25_7 h, bits_7_7_7_6_3_2_at_18_7 h, bits_7_7_7_6_3_2_at_11_7 h, bits_7_7_7_6_3_2_at_5_6 h, bits_7_7_7_6_3_2_at_2_3 h, bits_7_7_7_6_3_2_at_0_2 h, h1, ordOk_code (legal := loadOrder) h1 (bits_7_7_7_6_3_2_at_2_3 h) (bits_7_7_7_6_3_2_at_0_2 h)]

theorem ldSI8 (d : VDst) (b : VOp) (o : BitVec 6) (s : Scope) (r : Order) : Statement (.ldSI8 d b o s r) := by
  intro hw w h
  simp only [WellFormed, Bool.and_eq_true, decide_eq_true_eq, ne_eq] at hw
  have h1 := hw
  injection h with h
  simp [decodeWord, decMem, fOp, fD, fA, fOff, fScope, fOrder, bits_7_7_7_6_3_2_at_25_7 h, bits_7_7_7_6_3_2_at_18_7 h, bits_7_7_7_6_3_2_at_11_7 h, bits_7_7_7_6_3_2_at_5_6 h, bits_7_7_7_6_3_2_at_2_3 h, bits_7_7_7_6_3_2_at_0_2 h, h1, ordOk_code (legal := loadOrder) h1 (bits_7_7_7_6_3_2_at_2_3 h) (bits_7_7_7_6_3_2_at_0_2 h)]

theorem ldSU16 (d : VDst) (b : VOp) (o : BitVec 6) (s : Scope) (r : Order) : Statement (.ldSU16 d b o s r) := by
  intro hw w h
  simp only [WellFormed, Bool.and_eq_true, decide_eq_true_eq, ne_eq] at hw
  have h1 := hw
  injection h with h
  simp [decodeWord, decMem, fOp, fD, fA, fOff, fScope, fOrder, bits_7_7_7_6_3_2_at_25_7 h, bits_7_7_7_6_3_2_at_18_7 h, bits_7_7_7_6_3_2_at_11_7 h, bits_7_7_7_6_3_2_at_5_6 h, bits_7_7_7_6_3_2_at_2_3 h, bits_7_7_7_6_3_2_at_0_2 h, h1, ordOk_code (legal := loadOrder) h1 (bits_7_7_7_6_3_2_at_2_3 h) (bits_7_7_7_6_3_2_at_0_2 h)]

theorem ldSI16 (d : VDst) (b : VOp) (o : BitVec 6) (s : Scope) (r : Order) : Statement (.ldSI16 d b o s r) := by
  intro hw w h
  simp only [WellFormed, Bool.and_eq_true, decide_eq_true_eq, ne_eq] at hw
  have h1 := hw
  injection h with h
  simp [decodeWord, decMem, fOp, fD, fA, fOff, fScope, fOrder, bits_7_7_7_6_3_2_at_25_7 h, bits_7_7_7_6_3_2_at_18_7 h, bits_7_7_7_6_3_2_at_11_7 h, bits_7_7_7_6_3_2_at_5_6 h, bits_7_7_7_6_3_2_at_2_3 h, bits_7_7_7_6_3_2_at_0_2 h, h1, ordOk_code (legal := loadOrder) h1 (bits_7_7_7_6_3_2_at_2_3 h) (bits_7_7_7_6_3_2_at_0_2 h)]

theorem ldS (d : VDst) (b : VOp) (o : BitVec 6) (s : Scope) (r : Order) : Statement (.ldS d b o s r) := by
  intro hw w h
  simp only [WellFormed, Bool.and_eq_true, decide_eq_true_eq, ne_eq] at hw
  have h1 := hw
  injection h with h
  simp [decodeWord, decMem, fOp, fD, fA, fOff, fScope, fOrder, bits_7_7_7_6_3_2_at_25_7 h, bits_7_7_7_6_3_2_at_18_7 h, bits_7_7_7_6_3_2_at_11_7 h, bits_7_7_7_6_3_2_at_5_6 h, bits_7_7_7_6_3_2_at_2_3 h, bits_7_7_7_6_3_2_at_0_2 h, h1, ordOk_code (legal := loadOrder) h1 (bits_7_7_7_6_3_2_at_2_3 h) (bits_7_7_7_6_3_2_at_0_2 h)]

theorem ldSB64 (d : VDst) (b : VOp) (o : BitVec 6) (s : Scope) (r : Order) : Statement (.ldSB64 d b o s r) := by
  intro hw w h
  simp only [WellFormed, Bool.and_eq_true, decide_eq_true_eq, ne_eq] at hw
  obtain ⟨h1, h2⟩ := hw
  injection h with h
  simp [decodeWord, decMem, fOp, fD, fA, fOff, fScope, fOrder, bits_7_7_7_6_3_2_at_25_7 h, bits_7_7_7_6_3_2_at_18_7 h, bits_7_7_7_6_3_2_at_11_7 h, bits_7_7_7_6_3_2_at_5_6 h, bits_7_7_7_6_3_2_at_2_3 h, bits_7_7_7_6_3_2_at_0_2 h, h1, h2, ordOk_code (legal := loadOrder) h2 (bits_7_7_7_6_3_2_at_2_3 h) (bits_7_7_7_6_3_2_at_0_2 h)]

theorem stSB8 (d : VOp) (b : VOp) (o : BitVec 6) (s : Scope) (r : Order) : Statement (.stSB8 d b o s r) := by
  intro hw w h
  simp only [WellFormed, Bool.and_eq_true, decide_eq_true_eq, ne_eq] at hw
  have h1 := hw
  injection h with h
  simp [decodeWord, decMem, fOp, fD, fA, fOff, fScope, fOrder, bits_7_7_7_6_3_2_at_25_7 h, bits_7_7_7_6_3_2_at_18_7 h, bits_7_7_7_6_3_2_at_11_7 h, bits_7_7_7_6_3_2_at_5_6 h, bits_7_7_7_6_3_2_at_2_3 h, bits_7_7_7_6_3_2_at_0_2 h, h1, ordOk_code (legal := storeOrder) h1 (bits_7_7_7_6_3_2_at_2_3 h) (bits_7_7_7_6_3_2_at_0_2 h)]

theorem stSB16 (d : VOp) (b : VOp) (o : BitVec 6) (s : Scope) (r : Order) : Statement (.stSB16 d b o s r) := by
  intro hw w h
  simp only [WellFormed, Bool.and_eq_true, decide_eq_true_eq, ne_eq] at hw
  have h1 := hw
  injection h with h
  simp [decodeWord, decMem, fOp, fD, fA, fOff, fScope, fOrder, bits_7_7_7_6_3_2_at_25_7 h, bits_7_7_7_6_3_2_at_18_7 h, bits_7_7_7_6_3_2_at_11_7 h, bits_7_7_7_6_3_2_at_5_6 h, bits_7_7_7_6_3_2_at_2_3 h, bits_7_7_7_6_3_2_at_0_2 h, h1, ordOk_code (legal := storeOrder) h1 (bits_7_7_7_6_3_2_at_2_3 h) (bits_7_7_7_6_3_2_at_0_2 h)]

theorem stS (d : VOp) (b : VOp) (o : BitVec 6) (s : Scope) (r : Order) : Statement (.stS d b o s r) := by
  intro hw w h
  simp only [WellFormed, Bool.and_eq_true, decide_eq_true_eq, ne_eq] at hw
  have h1 := hw
  injection h with h
  simp [decodeWord, decMem, fOp, fD, fA, fOff, fScope, fOrder, bits_7_7_7_6_3_2_at_25_7 h, bits_7_7_7_6_3_2_at_18_7 h, bits_7_7_7_6_3_2_at_11_7 h, bits_7_7_7_6_3_2_at_5_6 h, bits_7_7_7_6_3_2_at_2_3 h, bits_7_7_7_6_3_2_at_0_2 h, h1, ordOk_code (legal := storeOrder) h1 (bits_7_7_7_6_3_2_at_2_3 h) (bits_7_7_7_6_3_2_at_0_2 h)]

theorem stSB64 (d : VOp) (b : VOp) (o : BitVec 6) (s : Scope) (r : Order) : Statement (.stSB64 d b o s r) := by
  intro hw w h
  simp only [WellFormed, Bool.and_eq_true, decide_eq_true_eq, ne_eq] at hw
  obtain ⟨h1, h2⟩ := hw
  injection h with h
  simp [decodeWord, decMem, fOp, fD, fA, fOff, fScope, fOrder, bits_7_7_7_6_3_2_at_25_7 h, bits_7_7_7_6_3_2_at_18_7 h, bits_7_7_7_6_3_2_at_11_7 h, bits_7_7_7_6_3_2_at_5_6 h, bits_7_7_7_6_3_2_at_2_3 h, bits_7_7_7_6_3_2_at_0_2 h, h1, h2, ordOk_code (legal := storeOrder) h2 (bits_7_7_7_6_3_2_at_2_3 h) (bits_7_7_7_6_3_2_at_0_2 h)]

theorem ldGU8 (d : VDst) (b : VOp) (o : BitVec 6) (s : Scope) (r : Order) : Statement (.ldGU8 d b o s r) := by
  intro hw w h
  simp only [WellFormed, Bool.and_eq_true, decide_eq_true_eq, ne_eq] at hw
  obtain ⟨h1, h2⟩ := hw
  injection h with h
  simp [decodeWord, decMem, fOp, fD, fA, fOff, fScope, fOrder, bits_7_7_7_6_3_2_at_25_7 h, bits_7_7_7_6_3_2_at_18_7 h, bits_7_7_7_6_3_2_at_11_7 h, bits_7_7_7_6_3_2_at_5_6 h, bits_7_7_7_6_3_2_at_2_3 h, bits_7_7_7_6_3_2_at_0_2 h, h1, h2, ordOk_code (legal := loadOrder) h2 (bits_7_7_7_6_3_2_at_2_3 h) (bits_7_7_7_6_3_2_at_0_2 h)]

theorem ldGI8 (d : VDst) (b : VOp) (o : BitVec 6) (s : Scope) (r : Order) : Statement (.ldGI8 d b o s r) := by
  intro hw w h
  simp only [WellFormed, Bool.and_eq_true, decide_eq_true_eq, ne_eq] at hw
  obtain ⟨h1, h2⟩ := hw
  injection h with h
  simp [decodeWord, decMem, fOp, fD, fA, fOff, fScope, fOrder, bits_7_7_7_6_3_2_at_25_7 h, bits_7_7_7_6_3_2_at_18_7 h, bits_7_7_7_6_3_2_at_11_7 h, bits_7_7_7_6_3_2_at_5_6 h, bits_7_7_7_6_3_2_at_2_3 h, bits_7_7_7_6_3_2_at_0_2 h, h1, h2, ordOk_code (legal := loadOrder) h2 (bits_7_7_7_6_3_2_at_2_3 h) (bits_7_7_7_6_3_2_at_0_2 h)]

theorem ldGU16 (d : VDst) (b : VOp) (o : BitVec 6) (s : Scope) (r : Order) : Statement (.ldGU16 d b o s r) := by
  intro hw w h
  simp only [WellFormed, Bool.and_eq_true, decide_eq_true_eq, ne_eq] at hw
  obtain ⟨h1, h2⟩ := hw
  injection h with h
  simp [decodeWord, decMem, fOp, fD, fA, fOff, fScope, fOrder, bits_7_7_7_6_3_2_at_25_7 h, bits_7_7_7_6_3_2_at_18_7 h, bits_7_7_7_6_3_2_at_11_7 h, bits_7_7_7_6_3_2_at_5_6 h, bits_7_7_7_6_3_2_at_2_3 h, bits_7_7_7_6_3_2_at_0_2 h, h1, h2, ordOk_code (legal := loadOrder) h2 (bits_7_7_7_6_3_2_at_2_3 h) (bits_7_7_7_6_3_2_at_0_2 h)]

theorem ldGI16 (d : VDst) (b : VOp) (o : BitVec 6) (s : Scope) (r : Order) : Statement (.ldGI16 d b o s r) := by
  intro hw w h
  simp only [WellFormed, Bool.and_eq_true, decide_eq_true_eq, ne_eq] at hw
  obtain ⟨h1, h2⟩ := hw
  injection h with h
  simp [decodeWord, decMem, fOp, fD, fA, fOff, fScope, fOrder, bits_7_7_7_6_3_2_at_25_7 h, bits_7_7_7_6_3_2_at_18_7 h, bits_7_7_7_6_3_2_at_11_7 h, bits_7_7_7_6_3_2_at_5_6 h, bits_7_7_7_6_3_2_at_2_3 h, bits_7_7_7_6_3_2_at_0_2 h, h1, h2, ordOk_code (legal := loadOrder) h2 (bits_7_7_7_6_3_2_at_2_3 h) (bits_7_7_7_6_3_2_at_0_2 h)]

theorem ldG (d : VDst) (b : VOp) (o : BitVec 6) (s : Scope) (r : Order) : Statement (.ldG d b o s r) := by
  intro hw w h
  simp only [WellFormed, Bool.and_eq_true, decide_eq_true_eq, ne_eq] at hw
  obtain ⟨h1, h2⟩ := hw
  injection h with h
  simp [decodeWord, decMem, fOp, fD, fA, fOff, fScope, fOrder, bits_7_7_7_6_3_2_at_25_7 h, bits_7_7_7_6_3_2_at_18_7 h, bits_7_7_7_6_3_2_at_11_7 h, bits_7_7_7_6_3_2_at_5_6 h, bits_7_7_7_6_3_2_at_2_3 h, bits_7_7_7_6_3_2_at_0_2 h, h1, h2, ordOk_code (legal := loadOrder) h2 (bits_7_7_7_6_3_2_at_2_3 h) (bits_7_7_7_6_3_2_at_0_2 h)]

theorem ldGB64 (d : VDst) (b : VOp) (o : BitVec 6) (s : Scope) (r : Order) : Statement (.ldGB64 d b o s r) := by
  intro hw w h
  simp only [WellFormed, Bool.and_eq_true, decide_eq_true_eq, ne_eq] at hw
  obtain ⟨⟨h1, h2⟩, h3⟩ := hw
  injection h with h
  simp [decodeWord, decMem, fOp, fD, fA, fOff, fScope, fOrder, bits_7_7_7_6_3_2_at_25_7 h, bits_7_7_7_6_3_2_at_18_7 h, bits_7_7_7_6_3_2_at_11_7 h, bits_7_7_7_6_3_2_at_5_6 h, bits_7_7_7_6_3_2_at_2_3 h, bits_7_7_7_6_3_2_at_0_2 h, h1, h2, h3, ordOk_code (legal := loadOrder) h3 (bits_7_7_7_6_3_2_at_2_3 h) (bits_7_7_7_6_3_2_at_0_2 h)]

theorem stGB8 (d : VOp) (b : VOp) (o : BitVec 6) (s : Scope) (r : Order) : Statement (.stGB8 d b o s r) := by
  intro hw w h
  simp only [WellFormed, Bool.and_eq_true, decide_eq_true_eq, ne_eq] at hw
  obtain ⟨h1, h2⟩ := hw
  injection h with h
  simp [decodeWord, decMem, fOp, fD, fA, fOff, fScope, fOrder, bits_7_7_7_6_3_2_at_25_7 h, bits_7_7_7_6_3_2_at_18_7 h, bits_7_7_7_6_3_2_at_11_7 h, bits_7_7_7_6_3_2_at_5_6 h, bits_7_7_7_6_3_2_at_2_3 h, bits_7_7_7_6_3_2_at_0_2 h, h1, h2, ordOk_code (legal := storeOrder) h2 (bits_7_7_7_6_3_2_at_2_3 h) (bits_7_7_7_6_3_2_at_0_2 h)]

theorem stGB16 (d : VOp) (b : VOp) (o : BitVec 6) (s : Scope) (r : Order) : Statement (.stGB16 d b o s r) := by
  intro hw w h
  simp only [WellFormed, Bool.and_eq_true, decide_eq_true_eq, ne_eq] at hw
  obtain ⟨h1, h2⟩ := hw
  injection h with h
  simp [decodeWord, decMem, fOp, fD, fA, fOff, fScope, fOrder, bits_7_7_7_6_3_2_at_25_7 h, bits_7_7_7_6_3_2_at_18_7 h, bits_7_7_7_6_3_2_at_11_7 h, bits_7_7_7_6_3_2_at_5_6 h, bits_7_7_7_6_3_2_at_2_3 h, bits_7_7_7_6_3_2_at_0_2 h, h1, h2, ordOk_code (legal := storeOrder) h2 (bits_7_7_7_6_3_2_at_2_3 h) (bits_7_7_7_6_3_2_at_0_2 h)]

theorem stG (d : VOp) (b : VOp) (o : BitVec 6) (s : Scope) (r : Order) : Statement (.stG d b o s r) := by
  intro hw w h
  simp only [WellFormed, Bool.and_eq_true, decide_eq_true_eq, ne_eq] at hw
  obtain ⟨h1, h2⟩ := hw
  injection h with h
  simp [decodeWord, decMem, fOp, fD, fA, fOff, fScope, fOrder, bits_7_7_7_6_3_2_at_25_7 h, bits_7_7_7_6_3_2_at_18_7 h, bits_7_7_7_6_3_2_at_11_7 h, bits_7_7_7_6_3_2_at_5_6 h, bits_7_7_7_6_3_2_at_2_3 h, bits_7_7_7_6_3_2_at_0_2 h, h1, h2, ordOk_code (legal := storeOrder) h2 (bits_7_7_7_6_3_2_at_2_3 h) (bits_7_7_7_6_3_2_at_0_2 h)]

theorem stGB64 (d : VOp) (b : VOp) (o : BitVec 6) (s : Scope) (r : Order) : Statement (.stGB64 d b o s r) := by
  intro hw w h
  simp only [WellFormed, Bool.and_eq_true, decide_eq_true_eq, ne_eq] at hw
  obtain ⟨⟨h1, h2⟩, h3⟩ := hw
  injection h with h
  simp [decodeWord, decMem, fOp, fD, fA, fOff, fScope, fOrder, bits_7_7_7_6_3_2_at_25_7 h, bits_7_7_7_6_3_2_at_18_7 h, bits_7_7_7_6_3_2_at_11_7 h, bits_7_7_7_6_3_2_at_5_6 h, bits_7_7_7_6_3_2_at_2_3 h, bits_7_7_7_6_3_2_at_0_2 h, h1, h2, h3, ordOk_code (legal := storeOrder) h3 (bits_7_7_7_6_3_2_at_2_3 h) (bits_7_7_7_6_3_2_at_0_2 h)]

theorem ldtG (d : VDst) (b : VOp) (o : BitVec 6) (s : Scope) (r : Order) : Statement (.ldtG d b o s r) := by
  intro hw w h
  simp only [WellFormed, Bool.and_eq_true, decide_eq_true_eq, ne_eq] at hw
  obtain ⟨⟨h1, h2⟩, h3⟩ := hw
  injection h with h
  simp [decodeWord, decMem, fOp, fD, fA, fOff, fScope, fOrder, bits_7_7_7_6_3_2_at_25_7 h, bits_7_7_7_6_3_2_at_18_7 h, bits_7_7_7_6_3_2_at_11_7 h, bits_7_7_7_6_3_2_at_5_6 h, bits_7_7_7_6_3_2_at_2_3 h, bits_7_7_7_6_3_2_at_0_2 h, h1, h2, h3, ordOk_code (legal := loadOrder) h3 (bits_7_7_7_6_3_2_at_2_3 h) (bits_7_7_7_6_3_2_at_0_2 h)]

theorem sttG (d : VDst) (b : VOp) (o : BitVec 6) (s : Scope) (r : Order) : Statement (.sttG d b o s r) := by
  intro hw w h
  simp only [WellFormed, Bool.and_eq_true, decide_eq_true_eq, ne_eq] at hw
  obtain ⟨⟨h1, h2⟩, h3⟩ := hw
  injection h with h
  simp [decodeWord, decMem, fOp, fD, fA, fOff, fScope, fOrder, bits_7_7_7_6_3_2_at_25_7 h, bits_7_7_7_6_3_2_at_18_7 h, bits_7_7_7_6_3_2_at_11_7 h, bits_7_7_7_6_3_2_at_5_6 h, bits_7_7_7_6_3_2_at_2_3 h, bits_7_7_7_6_3_2_at_0_2 h, h1, h2, h3, ordOk_code (legal := storeOrder) h3 (bits_7_7_7_6_3_2_at_2_3 h) (bits_7_7_7_6_3_2_at_0_2 h)]

theorem ldtS (d : VDst) (b : VOp) (o : BitVec 6) (s : Scope) (r : Order) : Statement (.ldtS d b o s r) := by
  intro hw w h
  simp only [WellFormed, Bool.and_eq_true, decide_eq_true_eq, ne_eq] at hw
  obtain ⟨h1, h2⟩ := hw
  injection h with h
  simp [decodeWord, decMem, fOp, fD, fA, fOff, fScope, fOrder, bits_7_7_7_6_3_2_at_25_7 h, bits_7_7_7_6_3_2_at_18_7 h, bits_7_7_7_6_3_2_at_11_7 h, bits_7_7_7_6_3_2_at_5_6 h, bits_7_7_7_6_3_2_at_2_3 h, bits_7_7_7_6_3_2_at_0_2 h, h1, h2, ordOk_code (legal := loadOrder) h2 (bits_7_7_7_6_3_2_at_2_3 h) (bits_7_7_7_6_3_2_at_0_2 h)]

theorem sttS (d : VDst) (b : VOp) (o : BitVec 6) (s : Scope) (r : Order) : Statement (.sttS d b o s r) := by
  intro hw w h
  simp only [WellFormed, Bool.and_eq_true, decide_eq_true_eq, ne_eq] at hw
  obtain ⟨h1, h2⟩ := hw
  injection h with h
  simp [decodeWord, decMem, fOp, fD, fA, fOff, fScope, fOrder, bits_7_7_7_6_3_2_at_25_7 h, bits_7_7_7_6_3_2_at_18_7 h, bits_7_7_7_6_3_2_at_11_7 h, bits_7_7_7_6_3_2_at_5_6 h, bits_7_7_7_6_3_2_at_2_3 h, bits_7_7_7_6_3_2_at_0_2 h, h1, h2, ordOk_code (legal := storeOrder) h2 (bits_7_7_7_6_3_2_at_2_3 h) (bits_7_7_7_6_3_2_at_0_2 h)]

theorem atomS (d : VDst) (b : VOp) (o : AtomOp) (s : Scope) (r : Order) : Statement (.atomS d b o s r) := by
  intro hw w h
  simp only [WellFormed, Bool.and_eq_true, decide_eq_true_eq, ne_eq] at hw
  obtain ⟨h1, h2⟩ := hw
  injection h with h
  simp [decodeWord, decMem, fOp, fD, fA, fOff, fScope, fOrder, bits_7_7_7_6_3_2_at_25_7 h, bits_7_7_7_6_3_2_at_18_7 h, bits_7_7_7_6_3_2_at_11_7 h, bits_7_7_7_6_3_2_at_5_6 h, bits_7_7_7_6_3_2_at_2_3 h, bits_7_7_7_6_3_2_at_0_2 h, h1, h2, ordOk_code (legal := atomOrder) h2 (bits_7_7_7_6_3_2_at_2_3 h) (bits_7_7_7_6_3_2_at_0_2 h)]

theorem atomSB64 (d : VDst) (b : VOp) (o : AtomOp) (s : Scope) (r : Order) : Statement (.atomSB64 d b o s r) := by
  intro hw w h
  simp only [WellFormed, Bool.and_eq_true, decide_eq_true_eq, ne_eq] at hw
  obtain ⟨⟨h1, h2⟩, h3⟩ := hw
  injection h with h
  simp [decodeWord, decMem, fOp, fD, fA, fOff, fScope, fOrder, bits_7_7_7_6_3_2_at_25_7 h, bits_7_7_7_6_3_2_at_18_7 h, bits_7_7_7_6_3_2_at_11_7 h, bits_7_7_7_6_3_2_at_5_6 h, bits_7_7_7_6_3_2_at_2_3 h, bits_7_7_7_6_3_2_at_0_2 h, h1, h2, h3, ordOk_code (legal := atomOrder) h3 (bits_7_7_7_6_3_2_at_2_3 h) (bits_7_7_7_6_3_2_at_0_2 h)]

theorem atomG (d : VDst) (b : VOp) (o : AtomOp) (s : Scope) (r : Order) : Statement (.atomG d b o s r) := by
  intro hw w h
  simp only [WellFormed, Bool.and_eq_true, decide_eq_true_eq, ne_eq] at hw
  obtain ⟨⟨h1, h2⟩, h3⟩ := hw
  injection h with h
  simp [decodeWord, decMem, fOp, fD, fA, fOff, fScope, fOrder, bits_7_7_7_6_3_2_at_25_7 h, bits_7_7_7_6_3_2_at_18_7 h, bits_7_7_7_6_3_2_at_11_7 h, bits_7_7_7_6_3_2_at_5_6 h, bits_7_7_7_6_3_2_at_2_3 h, bits_7_7_7_6_3_2_at_0_2 h, h1, h2, h3, ordOk_code (legal := atomOrder) h3 (bits_7_7_7_6_3_2_at_2_3 h) (bits_7_7_7_6_3_2_at_0_2 h)]

theorem atomGB64 (d : VDst) (b : VOp) (o : AtomOp) (s : Scope) (r : Order) : Statement (.atomGB64 d b o s r) := by
  intro hw w h
  simp only [WellFormed, Bool.and_eq_true, decide_eq_true_eq, ne_eq] at hw
  obtain ⟨⟨⟨h1, h2⟩, h3⟩, h4⟩ := hw
  injection h with h
  simp [decodeWord, decMem, fOp, fD, fA, fOff, fScope, fOrder, bits_7_7_7_6_3_2_at_25_7 h, bits_7_7_7_6_3_2_at_18_7 h, bits_7_7_7_6_3_2_at_11_7 h, bits_7_7_7_6_3_2_at_5_6 h, bits_7_7_7_6_3_2_at_2_3 h, bits_7_7_7_6_3_2_at_0_2 h, h1, h2, h3, h4, ordOk_code (legal := atomOrder) h4 (bits_7_7_7_6_3_2_at_2_3 h) (bits_7_7_7_6_3_2_at_0_2 h)]

theorem fence (s : Scope) (r : Order) : Statement (.fence s r) := by
  intro hw w h
  simp only [WellFormed, Bool.and_eq_true, decide_eq_true_eq, ne_eq] at hw
  have h1 := hw
  injection h with h
  simp [decodeWord, decMem, fOp, fD, fA, fOff, fScope, fOrder, bits_7_20_3_2_at_25_7 h, bits_7_20_3_2_at_18_7 h, bits_7_20_3_2_at_11_7 h, bits_7_20_3_2_at_5_6 h, bits_7_20_3_2_at_2_3 h, bits_7_20_3_2_at_0_2 h, h1, ordOk_code (legal := fenceOrder) h1 (bits_7_20_3_2_at_2_3 h) (bits_7_20_3_2_at_0_2 h)]

theorem waita (d : VDst) (b : VOp) (o : BitVec 6) (s : Scope) (r : Order) : Statement (.waita d b o s r) := by
  intro hw w h
  simp only [WellFormed, Bool.and_eq_true, decide_eq_true_eq, ne_eq] at hw
  obtain ⟨⟨h1, h2⟩, h3⟩ := hw
  injection h with h
  simp [decodeWord, decMem, fOp, fD, fA, fOff, fScope, fOrder, bits_7_7_7_6_3_2_at_25_7 h, bits_7_7_7_6_3_2_at_18_7 h, bits_7_7_7_6_3_2_at_11_7 h, bits_7_7_7_6_3_2_at_5_6 h, bits_7_7_7_6_3_2_at_2_3 h, bits_7_7_7_6_3_2_at_0_2 h, h1, h2, h3, ordOk_code (legal := loadOrder) h3 (bits_7_7_7_6_3_2_at_2_3 h) (bits_7_7_7_6_3_2_at_0_2 h)]

theorem sinit (a : VOp) (b : VOp) : Statement (.sinit a b) := by
  intro _ w h
  injection h with h
  simp [decodeWord, decMem, fOp, fD, fA, fB, fFn, bits_7_7_7_7_4_at_25_7 h, bits_7_7_7_7_4_at_18_7 h, bits_7_7_7_7_4_at_11_7 h, bits_7_7_7_7_4_at_4_7 h, bits_7_7_7_7_4_at_0_4 h]

theorem twait (d : Fin 8) (a : VOp) (b : VOp) : Statement (.twait d a b) := by
  intro _ w h
  injection h with h
  simp [decodeWord, decMem, fOp, fD, fA, fB, fFn, bits_7_7_7_7_4_at_25_7 h, bits_7_7_7_7_4_at_18_7 h, bits_7_7_7_7_4_at_11_7 h, bits_7_7_7_7_4_at_4_7 h, bits_7_7_7_7_4_at_0_4 h]

theorem give (a : COp) : Statement (.give a) := by
  intro _ w h
  injection h with h
  simp [decodeWord, decMem, fOp, fD, fA, fB, fFn, bits_7_7_7_11_at_25_7 h, bits_7_7_7_11_at_18_7 h, bits_7_7_7_11_at_11_7 h, bits_7_7_7_11_at_4_7 h, bits_7_7_7_11_at_0_4 h]

theorem claim (a : COp) : Statement (.claim a) := by
  intro _ w h
  injection h with h
  simp [decodeWord, decMem, fOp, fD, fA, fB, fFn, bits_7_7_7_11_at_25_7 h, bits_7_7_7_11_at_18_7 h, bits_7_7_7_11_at_11_7 h, bits_7_7_7_11_at_4_7 h, bits_7_7_7_11_at_0_4 h]

theorem bar : Statement (.bar) := by
  intro _ w h
  injection h with h
  simp [decodeWord, decMem, fOp, fD, fA, fB, fFn, bits_7_25_at_25_7 h, bits_7_25_at_18_7 h, bits_7_25_at_11_7 h, bits_7_25_at_4_7 h, bits_7_25_at_0_4 h]

theorem barN (a : COp) : Statement (.barN a) := by
  intro _ w h
  injection h with h
  simp [decodeWord, decMem, fOp, fD, fA, fB, fFn, bits_7_7_7_11_at_25_7 h, bits_7_7_7_11_at_18_7 h, bits_7_7_7_11_at_11_7 h, bits_7_7_7_11_at_4_7 h, bits_7_7_7_11_at_0_4 h]

theorem bbar : Statement (.bbar) := by
  intro _ w h
  injection h with h
  simp [decodeWord, decMem, fOp, fD, fA, fB, fFn, bits_7_25_at_25_7 h, bits_7_25_at_18_7 h, bits_7_25_at_11_7 h, bits_7_25_at_4_7 h, bits_7_25_at_0_4 h]

theorem mma (d : BitVec 7) (a : SOp) (b : SOp) : Statement (.mma d a b) := by
  intro _ w h
  injection h with h
  simp [decodeWord, decEng, fOp, fD, fA, fB, fFn, bits_7_7_7_7_4_at_25_7 h, bits_7_7_7_7_4_at_18_7 h, bits_7_7_7_7_4_at_11_7 h, bits_7_7_7_7_4_at_4_7 h, bits_7_7_7_7_4_at_0_4 h]

theorem mmaBf16 (d : BitVec 7) (a : SOp) (b : SOp) : Statement (.mmaBf16 d a b) := by
  intro _ w h
  injection h with h
  simp [decodeWord, decEng, fOp, fD, fA, fB, fFn, bits_7_7_7_7_4_at_25_7 h, bits_7_7_7_7_4_at_18_7 h, bits_7_7_7_7_4_at_11_7 h, bits_7_7_7_7_4_at_4_7 h, bits_7_7_7_7_4_at_0_4 h]

theorem mmaF16 (d : BitVec 7) (a : SOp) (b : SOp) : Statement (.mmaF16 d a b) := by
  intro _ w h
  injection h with h
  simp [decodeWord, decEng, fOp, fD, fA, fB, fFn, bits_7_7_7_7_4_at_25_7 h, bits_7_7_7_7_4_at_18_7 h, bits_7_7_7_7_4_at_11_7 h, bits_7_7_7_7_4_at_4_7 h, bits_7_7_7_7_4_at_0_4 h]

theorem mmaSq (d : BitVec 7) (a : Fin 4) (b : SOp) : Statement (.mmaSq d a b) := by
  intro _ w h
  injection h with h
  simp [decodeWord, decEng, fOp, fD, fA, fB, fFn, bits_7_7_7_7_4_at_25_7 h, bits_7_7_7_7_4_at_18_7 h, bits_7_7_7_7_4_at_11_7 h, bits_7_7_7_7_4_at_4_7 h, bits_7_7_7_7_4_at_0_4 h]

theorem aclr (d : BitVec 7) : Statement (.aclr d) := by
  intro _ w h
  injection h with h
  simp [decodeWord, decEng, fOp, fD, fA, fB, fFn, bits_7_7_18_at_25_7 h, bits_7_7_18_at_18_7 h, bits_7_7_18_at_11_7 h, bits_7_7_18_at_4_7 h, bits_7_7_18_at_0_4 h]

theorem ald (d : BitVec 7) (a : SOp) (b : SOp) : Statement (.ald d a b) := by
  intro _ w h
  injection h with h
  simp [decodeWord, decEng, fOp, fD, fA, fB, fFn, bits_7_7_7_7_4_at_25_7 h, bits_7_7_7_7_4_at_18_7 h, bits_7_7_7_7_4_at_11_7 h, bits_7_7_7_7_4_at_4_7 h, bits_7_7_7_7_4_at_0_4 h]

theorem ast (d : BitVec 7) (a : SOp) (b : SOp) : Statement (.ast d a b) := by
  intro _ w h
  injection h with h
  simp [decodeWord, decEng, fOp, fD, fA, fB, fFn, bits_7_7_7_7_4_at_25_7 h, bits_7_7_7_7_4_at_18_7 h, bits_7_7_7_7_4_at_11_7 h, bits_7_7_7_7_4_at_4_7 h, bits_7_7_7_7_4_at_0_4 h]

theorem ascale (d : BitVec 7) (a : SOp) : Statement (.ascale d a) := by
  intro _ w h
  injection h with h
  simp [decodeWord, decEng, fOp, fD, fA, fB, fFn, bits_7_7_7_11_at_25_7 h, bits_7_7_7_11_at_18_7 h, bits_7_7_7_11_at_11_7 h, bits_7_7_7_11_at_4_7 h, bits_7_7_7_11_at_0_4 h]

theorem aexp (d : BitVec 7) (a : SDst) : Statement (.aexp d a) := by
  intro _ w h
  injection h with h
  simp [decodeWord, decEng, fOp, fD, fA, fB, fFn, bits_7_7_7_11_at_25_7 h, bits_7_7_7_11_at_18_7 h, bits_7_7_7_11_at_11_7 h, bits_7_7_7_11_at_4_7 h, bits_7_7_7_11_at_0_4 h]

theorem shape (d : SDst) (m : MDim) (n : MDim) (k : KDim) : Statement (.shape d m n k) := by
  intro _ w h
  injection h with h
  simp [decodeWord, decEng, fOp, fD, bits_7_7_12_2_2_2_at_25_7 h, bits_7_7_12_2_2_2_at_18_7 h, bits_7_7_12_2_2_2_at_6_12 h, bits_7_7_12_2_2_2_at_4_2 h, bits_7_7_12_2_2_2_at_2_2 h, bits_7_7_12_2_2_2_at_0_2 h]

theorem setfmt (k : Fin 4) (i : BitVec 18) : Statement (.setfmt k i) := by
  intro hw w h
  simp only [WellFormed, Bool.and_eq_true, decide_eq_true_eq, ne_eq] at hw
  have h1 := hw
  injection h with h
  simp [decodeWord, decEng, fOp, fD, fImm18, bits_7_7_18_at_25_7 h, bits_7_7_18_at_18_7 h, bits_7_7_18_at_0_18 h, h1]

theorem getfmt (d : SDst) (a : Fin 4) : Statement (.getfmt d a) := by
  intro _ w h
  injection h with h
  simp [decodeWord, decEng, fOp, fD, fA, fB, fFn, bits_7_7_7_11_at_25_7 h, bits_7_7_7_11_at_18_7 h, bits_7_7_7_11_at_11_7 h, bits_7_7_7_11_at_4_7 h, bits_7_7_7_11_at_0_4 h]

theorem setfmtR (d : Fin 4) (a : SOp) : Statement (.setfmtR d a) := by
  intro _ w h
  injection h with h
  simp [decodeWord, decEng, fOp, fD, fA, fB, fFn, bits_7_7_7_11_at_25_7 h, bits_7_7_7_11_at_18_7 h, bits_7_7_7_11_at_11_7 h, bits_7_7_7_11_at_4_7 h, bits_7_7_7_11_at_0_4 h]

theorem copyG2s (d : VOp) (a : VOp) (b : VOp) : Statement (.copyG2s d a b) := by
  intro hw w h
  simp only [WellFormed, Bool.and_eq_true, decide_eq_true_eq, ne_eq] at hw
  obtain ⟨h1, h2⟩ := hw
  injection h with h
  simp [decodeWord, decEng, fOp, fD, fA, fB, fFn, bits_7_7_7_7_4_at_25_7 h, bits_7_7_7_7_4_at_18_7 h, bits_7_7_7_7_4_at_11_7 h, bits_7_7_7_7_4_at_4_7 h, bits_7_7_7_7_4_at_0_4 h, h1, h2]

theorem copyS2g (d : VOp) (a : VOp) (b : VOp) : Statement (.copyS2g d a b) := by
  intro hw w h
  simp only [WellFormed, Bool.and_eq_true, decide_eq_true_eq, ne_eq] at hw
  obtain ⟨h1, h2⟩ := hw
  injection h with h
  simp [decodeWord, decEng, fOp, fD, fA, fB, fFn, bits_7_7_7_7_4_at_25_7 h, bits_7_7_7_7_4_at_18_7 h, bits_7_7_7_7_4_at_11_7 h, bits_7_7_7_7_4_at_4_7 h, bits_7_7_7_7_4_at_0_4 h, h1, h2]

theorem copyS2s (d : VOp) (a : VOp) (b : VOp) : Statement (.copyS2s d a b) := by
  intro hw w h
  simp only [WellFormed, Bool.and_eq_true, decide_eq_true_eq, ne_eq] at hw
  have h1 := hw
  injection h with h
  simp [decodeWord, decEng, fOp, fD, fA, fB, fFn, bits_7_7_7_7_4_at_25_7 h, bits_7_7_7_7_4_at_18_7 h, bits_7_7_7_7_4_at_11_7 h, bits_7_7_7_7_4_at_4_7 h, bits_7_7_7_7_4_at_0_4 h, h1]

theorem copyG2g (d : VOp) (a : VOp) (b : VOp) : Statement (.copyG2g d a b) := by
  intro hw w h
  simp only [WellFormed, Bool.and_eq_true, decide_eq_true_eq, ne_eq] at hw
  obtain ⟨⟨h1, h2⟩, h3⟩ := hw
  injection h with h
  simp [decodeWord, decEng, fOp, fD, fA, fB, fFn, bits_7_7_7_7_4_at_25_7 h, bits_7_7_7_7_4_at_18_7 h, bits_7_7_7_7_4_at_11_7 h, bits_7_7_7_7_4_at_4_7 h, bits_7_7_7_7_4_at_0_4 h, h1, h2, h3]

theorem copyG2sMc (d : VOp) (a : VOp) (b : VOp) : Statement (.copyG2sMc d a b) := by
  intro hw w h
  simp only [WellFormed, Bool.and_eq_true, decide_eq_true_eq, ne_eq] at hw
  obtain ⟨h1, h2⟩ := hw
  injection h with h
  simp [decodeWord, decEng, fOp, fD, fA, fB, fFn, bits_7_7_7_7_4_at_25_7 h, bits_7_7_7_7_4_at_18_7 h, bits_7_7_7_7_4_at_11_7 h, bits_7_7_7_7_4_at_4_7 h, bits_7_7_7_7_4_at_0_4 h, h1, h2]

theorem copyS2sMc (d : VOp) (a : VOp) (b : VOp) : Statement (.copyS2sMc d a b) := by
  intro hw w h
  simp only [WellFormed, Bool.and_eq_true, decide_eq_true_eq, ne_eq] at hw
  have h1 := hw
  injection h with h
  simp [decodeWord, decEng, fOp, fD, fA, fB, fFn, bits_7_7_7_7_4_at_25_7 h, bits_7_7_7_7_4_at_18_7 h, bits_7_7_7_7_4_at_11_7 h, bits_7_7_7_7_4_at_4_7 h, bits_7_7_7_7_4_at_0_4 h, h1]

theorem cseal : Statement (.cseal) := by
  intro _ w h
  injection h with h
  simp [decodeWord, decEng, fOp, fD, fA, fB, fFn, bits_7_25_at_25_7 h, bits_7_25_at_18_7 h, bits_7_25_at_11_7 h, bits_7_25_at_4_7 h, bits_7_25_at_0_4 h]

theorem cwait (i : BitVec 11) : Statement (.cwait i) := by
  intro hw w h
  simp only [WellFormed, Bool.and_eq_true, decide_eq_true_eq, ne_eq] at hw
  have h1 := hw
  injection h with h
  simp [decodeWord, decEng, fOp, fD, fA, fImm11, bits_7_14_11_at_25_7 h, bits_7_14_11_at_18_7 h, bits_7_14_11_at_11_7 h, bits_7_14_11_at_0_11 h, h1]

theorem sset (a : VOp) (b : VOp) (k : Fin 4) : Statement (.sset a b k) := by
  intro _ w h
  injection h with h
  simp [decodeWord, decEng, fOp, fD, fA, fQ, fCtl, bits_7_7_7_2_2_7_at_25_7 h, bits_7_7_7_2_2_7_at_18_7 h, bits_7_7_7_2_2_7_at_11_7 h, bits_7_7_7_2_2_7_at_7_4 h, bits_7_7_7_2_2_7_at_0_7 h]

theorem spop (d : VDst) (a : Fin 4) (b : Fin 8) : Statement (.spop d a b) := by
  intro _ w h
  injection h with h
  simp [decodeWord, decEng, fOp, fD, fA, fB, fFn, bits_7_7_7_7_4_at_25_7 h, bits_7_7_7_7_4_at_18_7 h, bits_7_7_7_7_4_at_11_7 h, bits_7_7_7_7_4_at_4_7 h, bits_7_7_7_7_4_at_0_4 h]

theorem sstat (d : VDst) (a : Fin 4) (b : VOp) : Statement (.sstat d a b) := by
  intro _ w h
  injection h with h
  simp [decodeWord, decEng, fOp, fD, fA, fB, fFn, bits_7_7_7_7_4_at_25_7 h, bits_7_7_7_7_4_at_18_7 h, bits_7_7_7_7_4_at_11_7 h, bits_7_7_7_7_4_at_4_7 h, bits_7_7_7_7_4_at_0_4 h]

theorem sclose (a : Fin 4) : Statement (.sclose a) := by
  intro _ w h
  injection h with h
  simp [decodeWord, decEng, fOp, fD, fA, fB, fFn, bits_7_7_7_11_at_25_7 h, bits_7_7_7_11_at_18_7 h, bits_7_7_7_11_at_11_7 h, bits_7_7_7_11_at_4_7 h, bits_7_7_7_11_at_0_4 h]

theorem qfence (m : BitVec 8) : Statement (.qfence m) := by
  intro hw w h
  simp only [WellFormed, Bool.and_eq_true, decide_eq_true_eq, ne_eq] at hw
  have h1 := hw
  injection h with h
  simp [decodeWord, decEng, fOp, fD, fA, bits_7_17_8_at_25_7 h, bits_7_17_8_at_18_7 h, bits_7_17_8_at_11_7 h, bits_7_17_8_at_8_3 h, bits_7_17_8_at_0_8 h, h1, qMask_code h1 (bits_7_17_8_at_8_3 h) (bits_7_17_8_at_0_8 h)]

theorem hprobe (a : VOp) (b : VOp) : Statement (.hprobe a b) := by
  intro hw w h
  simp only [WellFormed, Bool.and_eq_true, decide_eq_true_eq, ne_eq] at hw
  have h1 := hw
  injection h with h
  simp [decodeWord, decReq, fOp, fD, fA, bits_7_7_7_11_at_25_7 h, bits_7_7_7_11_at_18_7 h, bits_7_7_7_11_at_11_7 h, bits_7_7_7_11_at_0_11 h, h1]

theorem hins (a : VOp) (b : VOp) : Statement (.hins a b) := by
  intro _ w h
  injection h with h
  simp [decodeWord, decReq, fOp, fD, fA, bits_7_7_7_11_at_25_7 h, bits_7_7_7_11_at_18_7 h, bits_7_7_7_11_at_11_7 h, bits_7_7_7_11_at_0_11 h]

theorem hdel (a : VOp) (b : VOp) (s : Bool) : Statement (.hdel a b s) := by
  intro _ w h
  injection h with h
  simp [decodeWord, decReq, fOp, fD, fA, bits_7_7_7_10_1_at_25_7 h, bits_7_7_7_10_1_at_18_7 h, bits_7_7_7_10_1_at_11_7 h, bits_7_7_7_10_1_at_1_10 h, getLsbD_of_field (bits_7_7_7_10_1_at_0_1 h), -BitVec.getLsbD_eq_getElem]

theorem hrehash (a : VOp) (b : VOp) : Statement (.hrehash a b) := by
  intro hw w h
  simp only [WellFormed, Bool.and_eq_true, decide_eq_true_eq, ne_eq] at hw
  have h1 := hw
  injection h with h
  simp [decodeWord, decReq, fOp, fD, fA, bits_7_7_7_11_at_25_7 h, bits_7_7_7_11_at_18_7 h, bits_7_7_7_11_at_11_7 h, bits_7_7_7_11_at_0_11 h, h1]

theorem hsetBind (a : VOp) (b : VOp) : Statement (.hsetBind a b) := by
  intro _ w h
  injection h with h
  simp [decodeWord, decReq, fOp, fD, fA, bits_7_7_7_11_at_25_7 h, bits_7_7_7_11_at_18_7 h, bits_7_7_7_11_at_11_7 h, bits_7_7_7_11_at_2_9 h, bits_7_7_7_11_at_0_2 h]

theorem hsetBindClear (a : VOp) (b : VOp) : Statement (.hsetBindClear a b) := by
  intro _ w h
  injection h with h
  simp [decodeWord, decReq, fOp, fD, fA, bits_7_7_7_11_at_25_7 h, bits_7_7_7_11_at_18_7 h, bits_7_7_7_11_at_11_7 h, bits_7_7_7_11_at_2_9 h, bits_7_7_7_11_at_0_2 h]

theorem hsetUnbind (a : VOp) (b : VOp) : Statement (.hsetUnbind a b) := by
  intro _ w h
  injection h with h
  simp [decodeWord, decReq, fOp, fD, fA, bits_7_7_7_11_at_25_7 h, bits_7_7_7_11_at_18_7 h, bits_7_7_7_11_at_11_7 h, bits_7_7_7_11_at_2_9 h, bits_7_7_7_11_at_0_2 h]

theorem hsetStatus (a : VOp) (b : VOp) : Statement (.hsetStatus a b) := by
  intro _ w h
  injection h with h
  simp [decodeWord, decReq, fOp, fD, fA, bits_7_7_7_11_at_25_7 h, bits_7_7_7_11_at_18_7 h, bits_7_7_7_11_at_11_7 h, bits_7_7_7_11_at_2_9 h, bits_7_7_7_11_at_0_2 h]

theorem gtopk (a : VOp) (b : VOp) (o : Bool) (e : Bool) (m : MergeKind) (u : Bool) : Statement (.gtopk a b o e m u) := by
  intro hw w h
  simp only [WellFormed, Bool.and_eq_true, decide_eq_true_eq, ne_eq] at hw
  have h1 := hw
  injection h with h
  simp [decodeWord, decReq, fOp, fD, fA, bits_7_7_7_6_1_1_2_1_at_25_7 h, bits_7_7_7_6_1_1_2_1_at_18_7 h, bits_7_7_7_6_1_1_2_1_at_11_7 h, bits_7_7_7_6_1_1_2_1_at_5_6 h, getLsbD_of_field (bits_7_7_7_6_1_1_2_1_at_4_1 h), getLsbD_of_field (bits_7_7_7_6_1_1_2_1_at_3_1 h), bits_7_7_7_6_1_1_2_1_at_1_2 h, getLsbD_of_field (bits_7_7_7_6_1_1_2_1_at_0_1 h), h1, -BitVec.getLsbD_eq_getElem]

theorem ghist (a : VOp) (b : VOp) (w : Bool) (n : Bool) : Statement (.ghist a b w n) := by
  intro hw w h
  simp only [WellFormed, Bool.and_eq_true, decide_eq_true_eq, ne_eq] at hw
  have h1 := hw
  injection h with h
  simp [decodeWord, decReq, fOp, fD, fA, bits_7_7_7_9_1_1_at_25_7 h, bits_7_7_7_9_1_1_at_18_7 h, bits_7_7_7_9_1_1_at_11_7 h, bits_7_7_7_9_1_1_at_2_9 h, getLsbD_of_field (bits_7_7_7_9_1_1_at_1_1 h), getLsbD_of_field (bits_7_7_7_9_1_1_at_0_1 h), h1, -BitVec.getLsbD_eq_getElem]

theorem gscan (a : VOp) (b : VOp) (t : Bool) (f : Bool) (n : Bool) : Statement (.gscan a b t f n) := by
  intro hw w h
  simp only [WellFormed, Bool.and_eq_true, decide_eq_true_eq, ne_eq] at hw
  have h1 := hw
  injection h with h
  simp [decodeWord, decReq, fOp, fD, fA, bits_7_7_7_8_1_1_1_at_25_7 h, bits_7_7_7_8_1_1_1_at_18_7 h, bits_7_7_7_8_1_1_1_at_11_7 h, bits_7_7_7_8_1_1_1_at_3_8 h, getLsbD_of_field (bits_7_7_7_8_1_1_1_at_2_1 h), getLsbD_of_field (bits_7_7_7_8_1_1_1_at_1_1 h), getLsbD_of_field (bits_7_7_7_8_1_1_1_at_0_1 h), h1, -BitVec.getLsbD_eq_getElem]

theorem gperm (a : VOp) (b : VOp) (o : Bool) : Statement (.gperm a b o) := by
  intro hw w h
  simp only [WellFormed, Bool.and_eq_true, decide_eq_true_eq, ne_eq] at hw
  have h1 := hw
  injection h with h
  simp [decodeWord, decReq, fOp, fD, fA, bits_7_7_7_10_1_at_25_7 h, bits_7_7_7_10_1_at_18_7 h, bits_7_7_7_10_1_at_11_7 h, bits_7_7_7_10_1_at_1_10 h, getLsbD_of_field (bits_7_7_7_10_1_at_0_1 h), h1, -BitVec.getLsbD_eq_getElem]

theorem isect (d : VDst) (a : VOp) (b : VOp) : Statement (.isect d a b) := by
  intro hw w h
  simp only [WellFormed, Bool.and_eq_true, decide_eq_true_eq, ne_eq] at hw
  have h1 := hw
  injection h with h
  simp [decodeWord, decReq, fOp, fD, fA, fB, fFn, bits_7_7_7_7_4_at_25_7 h, bits_7_7_7_7_4_at_18_7 h, bits_7_7_7_7_4_at_11_7 h, bits_7_7_7_7_4_at_4_7 h, bits_7_7_7_7_4_at_0_4 h, h1]

theorem launch (a : VOp) (b : VOp) : Statement (.launch a b) := by
  intro hw w h
  simp only [WellFormed, Bool.and_eq_true, decide_eq_true_eq, ne_eq] at hw
  have h1 := hw
  injection h with h
  simp [decodeWord, decReq, fOp, fD, fA, bits_7_7_7_11_at_25_7 h, bits_7_7_7_11_at_18_7 h, bits_7_7_7_11_at_11_7 h, bits_7_7_7_11_at_0_11 h, h1]

theorem cancelDrain (a : VOp) : Statement (.cancelDrain a) := by
  intro hw w h
  simp only [WellFormed, Bool.and_eq_true, decide_eq_true_eq, ne_eq] at hw
  have h1 := hw
  injection h with h
  simp [decodeWord, decReq, fOp, fD, fA, bits_7_7_18_at_25_7 h, bits_7_7_18_at_18_7 h, bits_7_7_18_at_11_7 h, bits_7_7_18_at_1_10 h, getLsbD_of_field (b := false) ((bits_7_7_18_at_0_1 h).trans (by decide)), h1, -BitVec.getLsbD_eq_getElem]

theorem cancelTrap (a : VOp) : Statement (.cancelTrap a) := by
  intro hw w h
  simp only [WellFormed, Bool.and_eq_true, decide_eq_true_eq, ne_eq] at hw
  have h1 := hw
  injection h with h
  simp [decodeWord, decReq, fOp, fD, fA, bits_7_7_18_at_25_7 h, bits_7_7_18_at_18_7 h, bits_7_7_18_at_11_7 h, bits_7_7_18_at_1_10 h, getLsbD_of_field (b := true) ((bits_7_7_18_at_0_1 h).trans (by decide)), h1, -BitVec.getLsbD_eq_getElem]

theorem grd (e : Bool) (p : Fin 8) : Statement (.grd e p) := by
  intro _ w h
  injection h with h
  simp [decodeWord, decReq, fOp, bits_7_1_3_21_at_25_7 h, getLsbD_of_field (bits_7_1_3_21_at_24_1 h), bits_7_1_3_21_at_21_3 h, bits_7_1_3_21_at_0_21 h, -BitVec.getLsbD_eq_getElem]

theorem xim (i : BitVec 25) : Statement (.xim i) := by
  intro _ w h
  injection h with h
  simp [decodeWord, decReq, fOp, bits_7_25_at_25_7 h, bits_7_25_at_0_25 h]

theorem csrr (d : SDst) (n : Csr) : Statement (.csrr d n) := by
  intro hw w h
  simp only [WellFormed, Bool.and_eq_true, decide_eq_true_eq, ne_eq] at hw
  have h1 := hw
  injection h with h
  simp [decodeWord, decReq, fOp, fD, fA, fB, fFn, bits_7_7_7_11_at_25_7 h, bits_7_7_7_11_at_18_7 h, bits_7_7_7_11_at_11_7 h, bits_7_7_7_11_at_4_7 h, bits_7_7_7_11_at_0_4 h, h1]

theorem csrw (n : Csr) (a : SOp) : Statement (.csrw n a) := by
  intro hw w h
  simp only [WellFormed, Bool.and_eq_true, decide_eq_true_eq, ne_eq] at hw
  obtain ⟨h1, h2⟩ := hw
  injection h with h
  simp [decodeWord, decReq, fOp, fD, fA, fB, fFn, bits_7_7_7_11_at_25_7 h, bits_7_7_7_11_at_18_7 h, bits_7_7_7_11_at_11_7 h, bits_7_7_7_11_at_4_7 h, bits_7_7_7_11_at_0_4 h, h1, h2]

theorem tlbinv (a : SOp) (b : SOp) : Statement (.tlbinv a b) := by
  intro hw w h
  simp only [WellFormed, Bool.and_eq_true, decide_eq_true_eq, ne_eq] at hw
  have h1 := hw
  injection h with h
  simp [decodeWord, decReq, fOp, fD, fA, fB, fFn, bits_7_7_7_7_4_at_25_7 h, bits_7_7_7_7_4_at_18_7 h, bits_7_7_7_7_4_at_11_7 h, bits_7_7_7_7_4_at_4_7 h, bits_7_7_7_7_4_at_0_4 h, h1]

theorem tlbinvAll (a : SOp) : Statement (.tlbinvAll a) := by
  intro _ w h
  injection h with h
  simp [decodeWord, decReq, fOp, fD, fA, fB, fFn, bits_7_7_7_11_at_25_7 h, bits_7_7_7_11_at_18_7 h, bits_7_7_7_11_at_11_7 h, bits_7_7_7_11_at_4_7 h, bits_7_7_7_11_at_0_4 h]

theorem globalAccessComplete (w : WaveRef) (a : LooseAccess) : Statement (.globalAccessComplete w a) := statement_of_event rfl

theorem translationWalk (die : Nat) (ctx : Nat) (va : DWord) (level : Nat) (block : Bool) : Statement (.translationWalk die ctx va level block) := statement_of_event rfl

theorem fqheadPoll (die : Nat) : Statement (.fqheadPoll die) := statement_of_event rfl

theorem faultStatusObserved (die : Nat) (n : Nat) : Statement (.faultStatusObserved die n) := statement_of_event rfl

theorem copyPerform (w : WaveRef) (sectors : Nat) : Statement (.copyPerform w sectors) := statement_of_event rfl

theorem streamItemDeliver (w : WaveRef) (k : Fin 4) : Statement (.streamItemDeliver w k) := statement_of_event rfl

theorem mmaPerform (w : WaveRef) : Statement (.mmaPerform w) := statement_of_event rfl

theorem aclrPerform (w : WaveRef) : Statement (.aclrPerform w) := statement_of_event rfl

theorem aldPerform (w : WaveRef) : Statement (.aldPerform w) := statement_of_event rfl

theorem astPerform (w : WaveRef) : Statement (.astPerform w) := statement_of_event rfl

theorem ascalePerform (w : WaveRef) : Statement (.ascalePerform w) := statement_of_event rfl

theorem aexpPerform (w : WaveRef) : Statement (.aexpPerform w) := statement_of_event rfl

theorem hprobeRequest (w : WaveRef) : Statement (.hprobeRequest w) := statement_of_event rfl

theorem hinsRequest (w : WaveRef) : Statement (.hinsRequest w) := statement_of_event rfl

theorem hdelRequest (w : WaveRef) : Statement (.hdelRequest w) := statement_of_event rfl

theorem hrehashRequest (w : WaveRef) : Statement (.hrehashRequest w) := statement_of_event rfl

theorem hsetRequest (w : WaveRef) : Statement (.hsetRequest w) := statement_of_event rfl

theorem gtopkRequest (w : WaveRef) : Statement (.gtopkRequest w) := statement_of_event rfl

theorem ghistRequest (w : WaveRef) : Statement (.ghistRequest w) := statement_of_event rfl

theorem gscanRequest (w : WaveRef) : Statement (.gscanRequest w) := statement_of_event rfl

theorem gpermRequest (w : WaveRef) : Statement (.gpermRequest w) := statement_of_event rfl

theorem fabricOpPerform (w : WaveRef) (ans : PeerAnswer) : Statement (.fabricOpPerform w ans) := statement_of_event rfl

theorem sendRetryTimeout (w : WaveRef) : Statement (.sendRetryTimeout w) := statement_of_event rfl

theorem waitDeadline (p : PathRef) : Statement (.waitDeadline p) := statement_of_event rfl

theorem twaitBound (p : PathRef) : Statement (.twaitBound p) := statement_of_event rfl

theorem waitaReread (p : PathRef) : Statement (.waitaReread p) := statement_of_event rfl

theorem waitLimitTimeout (p : PathRef) : Statement (.waitLimitTimeout p) := statement_of_event rfl

theorem claimGrant (g : Nat) : Statement (.claimGrant g) := statement_of_event rfl

theorem allowanceCycle (c : Nat) (full : List Nat) : Statement (.allowanceCycle c full) := statement_of_event rfl

theorem floorDue (c : Nat) (lcore : Nat) : Statement (.floorDue c lcore) := statement_of_event rfl

theorem slewStep (c : Nat) : Statement (.slewStep c) := statement_of_event rfl

theorem marverDispatch : Statement (.marverDispatch) := statement_of_event rfl

theorem groupCompletion (g : Nat) : Statement (.groupCompletion g) := statement_of_event rfl

theorem poolGroupCommit (l : Nat) : Statement (.poolGroupCommit l) := statement_of_event rfl

theorem tileStatePoll (l : Nat) : Statement (.tileStatePoll l) := statement_of_event rfl

theorem classAgeing (l : Nat) : Statement (.classAgeing l) := statement_of_event rfl

theorem quantumCommit (l : Nat) : Statement (.quantumCommit l) := statement_of_event rfl

theorem coreDump (die : Nat) : Statement (.coreDump die) := statement_of_event rfl

theorem dumpgoWrite (v : Word) : Statement (.dumpgoWrite v) := statement_of_event rfl

theorem clampBlockWrite (v : DWord) : Statement (.clampBlockWrite v) := statement_of_event rfl

theorem mgmtRegisterWrite (n : Nat) (v : BitVec 512) : Statement (.mgmtRegisterWrite n v) := statement_of_event rfl

theorem mread : Statement (.mread) := statement_of_event rfl

theorem mwrite : Statement (.mwrite) := statement_of_event rfl

theorem jlset : Statement (.jlset) := statement_of_event rfl

theorem jlstop : Statement (.jlstop) := statement_of_event rfl

theorem attest : Statement (.attest) := statement_of_event rfl

theorem mailboxUnknownCommand : Statement (.mailboxUnknownCommand) := statement_of_event rfl

theorem jobLaunch : Statement (.jobLaunch) := statement_of_event rfl

theorem jobCancelDrain : Statement (.jobCancelDrain) := statement_of_event rfl

theorem jobCancelTrap : Statement (.jobCancelTrap) := statement_of_event rfl

theorem jobRecordSkip : Statement (.jobRecordSkip) := statement_of_event rfl

theorem hostInboundAccess (link : Nat) (mailbox : Bool) (addr : Nat) (acc : Inbound) : Statement (.hostInboundAccess link mailbox addr acc) := statement_of_event rfl

theorem spireInboundAccess (link : Nat) (addr : Nat) (acc : Inbound) : Statement (.spireInboundAccess link addr acc) := statement_of_event rfl

theorem arrivalMatch (link : Nat) (tag : Word) (off : Nat) (bs : List Byte) : Statement (.arrivalMatch link tag off bs) := statement_of_event rfl

theorem arrivalTaskAppend (i : Nat) : Statement (.arrivalTaskAppend i) := statement_of_event rfl

theorem spireLaneFail (link : Nat) : Statement (.spireLaneFail link) := statement_of_event rfl

theorem shelfFrame (f : BitVec 256) : Statement (.shelfFrame f) := statement_of_event rfl

theorem frameLossTimeout : Statement (.frameLossTimeout) := statement_of_event rfl

theorem belfryPeriod (pm : Nat) (pd : List Nat) : Statement (.belfryPeriod pm pd) := statement_of_event rfl

theorem unattTimer : Statement (.unattTimer) := statement_of_event rfl

theorem restoreStagger (cls : Nat) (c : Nat) : Statement (.restoreStagger cls c) := statement_of_event rfl

theorem bckgoGo : Statement (.bckgoGo) := statement_of_event rfl

theorem bckgoRestore : Statement (.bckgoRestore) := statement_of_event rfl

theorem checkpointCopyDone : Statement (.checkpointCopyDone) := statement_of_event rfl

theorem checkpointFailResume : Statement (.checkpointFailResume) := statement_of_event rfl

theorem restoreCopyDone : Statement (.restoreCopyDone) := statement_of_event rfl

theorem lehrPeriod (die : Nat) (mv : BitVec 12) : Statement (.lehrPeriod die mv) := statement_of_event rfl

theorem thermalSample (die : Nat) (temps : List Nat) : Statement (.thermalSample die temps) := statement_of_event rfl

theorem thermalShutdown (die : Nat) : Statement (.thermalShutdown die) := statement_of_event rfl

theorem eolhUpdate (die : Nat) (h : BitVec 24) : Statement (.eolhUpdate die h) := statement_of_event rfl

theorem softError (p : PathRef) : Statement (.softError p) := statement_of_event rfl

theorem scrub (die : Nat) (corrected : Nat) (spare : Bool) : Statement (.scrub die corrected spare) := statement_of_event rfl

theorem quadRetire (c : Nat) (pq : Nat) : Statement (.quadRetire c pq) := statement_of_event rfl

theorem engineRetire (u : EngineUnit) : Statement (.engineRetire u) := statement_of_event rfl

theorem moduleReset : Statement (.moduleReset) := statement_of_event rfl

theorem hostLinkTrained (link : Nat) : Statement (.hostLinkTrained link) := statement_of_event rfl

theorem linkTrainingTimeout : Statement (.linkTrainingTimeout) := statement_of_event rfl

theorem firmwareStart (img : FwImage) : Statement (.firmwareStart img) := statement_of_event rfl

theorem scratchpadAccessComplete (w : WaveRef) (a : LooseAccess) : Statement (.scratchpadAccessComplete w a) := statement_of_event rfl

theorem hostLinkDown (link : Nat) : Statement (.hostLinkDown link) := statement_of_event rfl

theorem spireLinkDown (link : Nat) : Statement (.spireLinkDown link) := statement_of_event rfl

end Sys2Proof.Laws.RoundTrip
end

