-- ==== Sys2Proof/Safety.lean ====
section
/-! DEFINITION. The terms in which claims speak of a run: the canonical form of the memories, and what a word that is
completed leaves behind and leaves alone. -/

namespace Sys2Proof.Machine

/-! ### An invariant -/

/-- The three memories are in the canonical form. -/
def State.MemOk (s : State) : Prop := s.mem.wf = true ∧ s.hostMem.wf = true ∧ s.peerMem.wf = true

/-! ### What a step leaves alone -/

/-- The groups without their waves. -/
def State.shells (s : State) : List Group := s.groups.map fun g => { g with waves := [] }

/-- Everything but the wave of a path is as before: all of memory and scratchpad, the registers of dies, clusters, Belfry and
I/O die, the launches, every other group and wave. -/
structure OnlyWave (r : PathRef) (s t : State) : Prop where
  rest   : { t with groups := s.groups } = s
  shells : t.shells = s.shells
  waves  : ∀ g x, (g, x) ≠ (r.group, r.wix) → t.wave? g x = s.wave? g x

/-! ### What a completed word does -/

/-- The path at the next word, ready to issue (R24, R35). -/
def Path.next (p : Path) : Path :=
  { p with
    pc := p.pc + 4, seq := Seq.empty, wait := .none, replay := none, failed := [], counted := 0, late := [], faulted := []
    only := none, defer := 0, deadline := none }

/-- The path of `c` has completed its word, performed by the threads `ts`; `c'` is what it then belongs to. In the wave,
registers and latches may change, and what its threads have read early (log 7); units in error become good, but for a latch in
error that moves up (R62); the path moves on; at P0 the word is counted (R77, R232, R304). -/
structure Finished (c : Ctx) (ts : List Nat) (t : State) (c' : Ctx) : Prop where
  ctx     : t.ctxAt c.ref = some c'
  path    : { c'.path with
              latch := c.path.latch, fill := c.path.fill, s := c.path.s, badS := c.path.badS, marks := c.path.marks
              fmt := c.path.fmt } = c.path.next
  good    : ∀ k, c'.path.badS.getLsbD k = true → c.path.badS.getLsbD k = true
  other   : c'.wave.path? (!c.ref.slot) = c.wave.path? (!c.ref.slot)
  wave    : { c'.wave with
              w := c.wave.w, o := c.wave.o, p := c.wave.p, bankW := c.wave.bankW, bankS := c.wave.bankS, bad := c.wave.bad
              path0 := c.wave.path0, path1 := c.wave.path1, retired := c.wave.retired, ati := c.wave.ati
              qinstr := c.wave.qinstr, done := c.wave.done, early := c.wave.early } = c.wave
  bad     : ∀ u ∈ c'.wave.bad, u ∈ c.wave.bad ∨ ∃ k, u = (3, k + 1, u.2.2) ∧ (3, k, u.2.2) ∈ c.wave.bad
  counts  : (c'.wave.retired, c'.wave.qinstr, c'.wave.ati) = if c.path.priv then (c.wave.retired, c.wave.qinstr, c.wave.ati)
              else (c.wave.retired + 1, c.wave.qinstr + 1, c.wave.ati + max 1 (ts.length + c.path.counted))
  done    : ∀ j, c'.wave.done.get j = if c.path.priv = false ∧ j ∈ ts then c.wave.done.get j + 1 else c.wave.done.get j

/-- The word is completed, and beside its wave nothing changes. -/
structure Completed (c : Ctx) (s : State) (ts : List Nat) (t : State) (c' : Ctx) : Prop extends Finished c ts t c' where
  only    : OnlyWave c.ref s t

/-- Registers `w` and `o` after 32-bit results of the threads `ts`: the destination holds them, every other register is as
before. At P1 a `w` register from `w16` on is not written (R365). -/
def WroteV (c c' : Ctx) (d : VDst) (ts : List Nat) (f : Nat → Word) : Prop :=
  (∀ (k : Fin 96) (j : Nat),
    c'.wreg k j = if d = .w k ∧ j ∈ ts ∧ (c.path.priv = false ∨ k.val < 16) then f j else c.wreg k j)
  ∧ ∀ (k : Fin 8) (j : Nat), c'.oreg k j = if d = .o k ∧ j ∈ ts then f j else c.oreg k j

/-- The destination names the register above it as the high half of a pair (R30). -/
def VDst.above : VDst → VDst
  | .w k => if h : k.val + 1 < 96 then .w ⟨k.val + 1, h⟩ else .z
  | .o k => if h : k.val + 1 < 8 then .o ⟨k.val + 1, h⟩ else .z
  | .z => .z

/-- Registers `w` and `o` after 64-bit results: the low half in the destination, the high half in the register above. -/
def WroteV64 (c c' : Ctx) (d : VDst) (ts : List Nat) (f : Nat → DWord) : Prop :=
  (∀ (k : Fin 96) (j : Nat),
    c'.wreg k j = if j ∈ ts ∧ (c.path.priv = false ∨ k.val < 16) ∧ d = .w k then (f j).setWidth 32
      else if j ∈ ts ∧ (c.path.priv = false ∨ k.val < 16) ∧ VDst.above d = .w k then (f j).extractLsb' 32 32 else c.wreg k j)
  ∧ ∀ (k : Fin 8) (j : Nat),
    c'.oreg k j = if j ∈ ts ∧ d = .o k then (f j).setWidth 32
      else if j ∈ ts ∧ VDst.above d = .o k then (f j).extractLsb' 32 32 else c.oreg k j

/-- Every `w` and `o` register is as before. -/
def SameV (c c' : Ctx) : Prop := WroteV c c' .z [] fun _ => 0

/-- Uniform registers and format registers of the path are as before. -/
def SameS (c c' : Ctx) : Prop := (∀ k, c'.sreg k = c.sreg k) ∧ c'.path.marks = c.path.marks ∧ c'.path.fmt = c.path.fmt

/-- A predicate after results of the threads `ts`; `p0` is never written (R29). -/
def WroteP (c c' : Ctx) (d : Fin 8) (ts : List Nat) (f : Nat → Bool) : Prop :=
  ∀ (k : Fin 8) (j : Nat), j < 32 → c'.wave.preg k j = if k = d ∧ d ≠ 0 ∧ j ∈ ts then f j else c.wave.preg k j

/-- Every predicate is as before. -/
def SameP (c c' : Ctx) : Prop := WroteP c c' 0 [] fun _ => false

/-- Latches after results of the threads `ts`: the history moves up by one entry and `h0` holds the result (R47); another
thread's is as before. -/
def Pushed (c c' : Ctx) (ts : List Nat) (f : Nat → DWord) : Prop :=
  (∀ i j, i < 4 → c'.latch i j = if j ∈ ts then (if i = 0 then f j else c.latch (i - 1) j) else c.latch i j)
  ∧ ∀ j, c'.path.fill.get j = if j ∈ ts then (if c.path.fill.get j = 4 then 4 else c.path.fill.get j + 1) else c.path.fill.get j

/-- Every latch is as before. -/
def SameL (c c' : Ctx) : Prop := c'.path.latch = c.path.latch ∧ c'.path.fill = c.path.fill

/-- A vector-class word of the path of `c` with 32-bit results: `f` gives each performing thread its own. -/
def Vec32 (c : Ctx) (s : State) (d : VDst) (f : Nat → Word) (t : State) : Prop :=
  ∃ c', Completed c s c.perf t c' ∧ WroteV c c' d c.perf f ∧ SameS c c' ∧ SameP c c' ∧ Pushed c c' c.perf fun j => (f j).setWidth 64

/-- The same with 64-bit results. -/
def Vec64 (c : Ctx) (s : State) (d : VDst) (f : Nat → DWord) (t : State) : Prop :=
  ∃ c', Completed c s c.perf t c' ∧ WroteV64 c c' d c.perf f ∧ SameS c c' ∧ SameP c c' ∧ Pushed c c' c.perf f

/-- A vector-class word with a predicate result; it pushes no latch (R47). -/
def VecP (c : Ctx) (s : State) (d : Fin 8) (f : Nat → Bool) (t : State) : Prop :=
  ∃ c', Completed c s c.perf t c' ∧ WroteP c c' d c.perf f ∧ SameV c c' ∧ SameS c c' ∧ SameL c c'

/-- The destination names the uniform register above it as the high half of a pair (R30). -/
def SDst.above : SDst → SDst
  | .s k => if h : k.val + 1 < 64 then .s ⟨k.val + 1, h⟩ else .z
  | .z => .z

/-- What a uniform register that is written adds to the path's marks; `s0` to `s15` of the trap bank have none (R50, R365). -/
def SDst.mark (priv : Bool) : SDst → DWord
  | .s k => if priv && decide (k.val < 16) then 0 else BitVec.twoPow 64 k.val
  | .z => 0

/-- Uniform registers after a 32-bit result; the format registers are as before. -/
def WroteS (c c' : Ctx) (d : SDst) (v : Word) : Prop :=
  (∀ k : Fin 64, c'.sreg k = if d = .s k then v else c.sreg k)
  ∧ c'.path.marks = c.path.marks ||| SDst.mark c.path.priv d ∧ c'.path.fmt = c.path.fmt

/-- Uniform registers after a 64-bit result. -/
def WroteS64 (c c' : Ctx) (d : SDst) (v : DWord) : Prop :=
  (∀ k : Fin 64, c'.sreg k = if d = .s k then v.setWidth 32 else if SDst.above d = .s k then v.extractLsb' 32 32 else c.sreg k)
  ∧ c'.path.marks = c.path.marks ||| SDst.mark c.path.priv d ||| SDst.mark c.path.priv (SDst.above d)
  ∧ c'.path.fmt = c.path.fmt

/-- A scalar-class word with a 32-bit result, which every active thread's `h0` takes up (R47). -/
def Scal32 (c : Ctx) (s : State) (d : SDst) (v : Word) (t : State) : Prop :=
  ∃ c', Completed c s c.perf t c' ∧ WroteS c c' d v ∧ SameV c c' ∧ SameP c c' ∧ Pushed c c' (ixs c.path.active) fun _ => v.setWidth 64

/-- The same with a 64-bit result. -/
def Scal64 (c : Ctx) (s : State) (d : SDst) (v : DWord) (t : State) : Prop :=
  ∃ c', Completed c s c.perf t c' ∧ WroteS64 c c' d v ∧ SameV c c' ∧ SameP c c' ∧ Pushed c c' (ixs c.path.active) fun _ => v

/-- A word that only moves on. -/
def Passed (c : Ctx) (s : State) (ts : List Nat) (t : State) : Prop :=
  ∃ c', Completed c s ts t c' ∧ SameV c c' ∧ SameS c c' ∧ SameP c c' ∧ SameL c c'

end Sys2Proof.Machine
end

