-- ==== Sys2Proof/Safety/Rows.lean ====
section
/-! DEFINITION. The rows of the opcode table that compute a result per thread, or one for the path, as the tables of the spec
give them: what a row reads, where its result goes, and the result. Claims say that a row's word does just that. -/

namespace Sys2Proof.Machine

/-- Sources of 32 bits. -/
def narrow (xs : List VOp) : List Src := xs.map fun a => ⟨a, false⟩

/-- Sources of 64 bits. -/
def wide (xs : List VOp) : List Src := xs.map fun a => ⟨a, true⟩

/-- Every one of these threads can read its sources: a latch has been filled far enough, and no unit is uncorrectable
(R48, R62). -/
def Ctx.Readable (c : Ctx) (ts : List Nat) (xs : List Src) : Prop :=
  ∀ t ∈ ts, ∀ x ∈ xs, c.unlatched t x = false ∧ c.badUnit t x = none

/-- A value clamped to a range. -/
def clamp (lo hi x : Int) : Int := max lo (min hi x)

/-- Position, length and mask of a bit field (R95). -/
def fieldPos (b : Word) : Nat := b.toNat % 256
def fieldLen (b : Word) : Nat := if 32 ≤ fieldPos b then 0 else min (b.toNat / 256 % 256) (32 - fieldPos b)
def fieldBits (b : Word) : Word := BitVec.ofNat 32 ((2 ^ fieldLen b - 1) * 2 ^ fieldPos b)

/-- The 32-bit integer, logic and bit-field words (R91, R92, R94, R95), and `mad.i32` (R93). -/
inductive IntegerRow : Instr → List Src → VDst → (Ctx → Nat → Word) → Prop where
  | addI32 (d : VDst) (a b : VOp) : IntegerRow (.addI32 d a b) (narrow [a, b]) d fun c t => c.v32 t a + c.v32 t b
  | subI32 (d : VDst) (a b : VOp) : IntegerRow (.subI32 d a b) (narrow [a, b]) d fun c t => c.v32 t a - c.v32 t b
  | mulI32 (d : VDst) (a b : VOp) : IntegerRow (.mulI32 d a b) (narrow [a, b]) d fun c t => c.v32 t a * c.v32 t b
  | mulhiI32 (d : VDst) (a b : VOp) : IntegerRow (.mulhiI32 d a b) (narrow [a, b]) d fun c t => BitVec.ofInt 32 ((c.v32 t a).toInt * (c.v32 t b).toInt / 2 ^ 32)
  | mulhiU32 (d : VDst) (a b : VOp) : IntegerRow (.mulhiU32 d a b) (narrow [a, b]) d fun c t => BitVec.ofNat 32 ((c.v32 t a).toNat * (c.v32 t b).toNat / 2 ^ 32)
  | addsI32 (d : VDst) (a b : VOp) : IntegerRow (.addsI32 d a b) (narrow [a, b]) d fun c t => BitVec.ofInt 32 (clamp (-2 ^ 31) (2 ^ 31 - 1) ((c.v32 t a).toInt + (c.v32 t b).toInt))
  | subsI32 (d : VDst) (a b : VOp) : IntegerRow (.subsI32 d a b) (narrow [a, b]) d fun c t => BitVec.ofInt 32 (clamp (-2 ^ 31) (2 ^ 31 - 1) ((c.v32 t a).toInt - (c.v32 t b).toInt))
  | addsU32 (d : VDst) (a b : VOp) : IntegerRow (.addsU32 d a b) (narrow [a, b]) d fun c t => BitVec.ofInt 32 (clamp 0 (2 ^ 32 - 1) ((c.v32 t a).toNat + (c.v32 t b).toNat))
  | subsU32 (d : VDst) (a b : VOp) : IntegerRow (.subsU32 d a b) (narrow [a, b]) d fun c t => BitVec.ofInt 32 (clamp 0 (2 ^ 32 - 1) (((c.v32 t a).toNat : Int) - (c.v32 t b).toNat))
  | minI32 (d : VDst) (a b : VOp) : IntegerRow (.minI32 d a b) (narrow [a, b]) d fun c t => BitVec.ofInt 32 (min (c.v32 t a).toInt (c.v32 t b).toInt)
  | maxI32 (d : VDst) (a b : VOp) : IntegerRow (.maxI32 d a b) (narrow [a, b]) d fun c t => BitVec.ofInt 32 (max (c.v32 t a).toInt (c.v32 t b).toInt)
  | minU32 (d : VDst) (a b : VOp) : IntegerRow (.minU32 d a b) (narrow [a, b]) d fun c t => BitVec.ofNat 32 (min (c.v32 t a).toNat (c.v32 t b).toNat)
  | maxU32 (d : VDst) (a b : VOp) : IntegerRow (.maxU32 d a b) (narrow [a, b]) d fun c t => BitVec.ofNat 32 (max (c.v32 t a).toNat (c.v32 t b).toNat)
  | absI32 (d : VDst) (a : VOp) : IntegerRow (.absI32 d a) (narrow [a]) d fun c t => BitVec.ofInt 32 (clamp (-2 ^ 31) (2 ^ 31 - 1) (c.v32 t a).toInt.natAbs)
  | andB32 (d : VDst) (a b : VOp) : IntegerRow (.andB32 d a b) (narrow [a, b]) d fun c t => c.v32 t a &&& c.v32 t b
  | orB32 (d : VDst) (a b : VOp) : IntegerRow (.orB32 d a b) (narrow [a, b]) d fun c t => c.v32 t a ||| c.v32 t b
  | xorB32 (d : VDst) (a b : VOp) : IntegerRow (.xorB32 d a b) (narrow [a, b]) d fun c t => c.v32 t a ^^^ c.v32 t b
  | andnB32 (d : VDst) (a b : VOp) : IntegerRow (.andnB32 d a b) (narrow [a, b]) d fun c t => c.v32 t a &&& ~~~(c.v32 t b)
  | shlB32 (d : VDst) (a b : VOp) : IntegerRow (.shlB32 d a b) (narrow [a, b]) d fun c t => if (c.v32 t b).toNat < 32 then BitVec.ofNat 32 ((c.v32 t a).toNat * 2 ^ (c.v32 t b).toNat) else 0
  | shrU32 (d : VDst) (a b : VOp) : IntegerRow (.shrU32 d a b) (narrow [a, b]) d fun c t => if (c.v32 t b).toNat < 32 then BitVec.ofNat 32 ((c.v32 t a).toNat / 2 ^ (c.v32 t b).toNat) else 0
  | shrI32 (d : VDst) (a b : VOp) : IntegerRow (.shrI32 d a b) (narrow [a, b]) d fun c t => BitVec.ofInt 32 ((c.v32 t a).toInt / 2 ^ min (c.v32 t b).toNat 31)
  | rotlB32 (d : VDst) (a b : VOp) : IntegerRow (.rotlB32 d a b) (narrow [a, b]) d fun c t => (c.v32 t a).rotateLeft ((c.v32 t b).toNat % 32)
  | popcB32 (d : VDst) (a : VOp) : IntegerRow (.popcB32 d a) (narrow [a]) d fun c t => BitVec.ofNat 32 ((List.range 32).countP fun i => (c.v32 t a).getLsbD i)
  | clzB32 (d : VDst) (a : VOp) : IntegerRow (.clzB32 d a) (narrow [a]) d fun c t => BitVec.ofNat 32 ((List.range 32).takeWhile fun i => !(c.v32 t a).getLsbD (31 - i)).length
  | brevB32 (d : VDst) (a : VOp) : IntegerRow (.brevB32 d a) (narrow [a]) d fun c t => (c.v32 t a).reverse
  | notB32 (d : VDst) (a : VOp) : IntegerRow (.notB32 d a) (narrow [a]) d fun c t => ~~~(c.v32 t a)
  | bfeU32 (d : VDst) (a b : VOp) : IntegerRow (.bfeU32 d a b) (narrow [a, b]) d fun c t => if fieldLen (c.v32 t b) = 0 then 0 else (c.v32 t a &&& fieldBits (c.v32 t b)) >>> fieldPos (c.v32 t b)
  | bfeI32 (d : VDst) (a b : VOp) : IntegerRow (.bfeI32 d a b) (narrow [a, b]) d fun c t => if fieldLen (c.v32 t b) = 0 then 0 else (((c.v32 t a).extractLsb' (fieldPos (c.v32 t b)) (fieldLen (c.v32 t b))).signExtend 32)
  | bfiB32 (d : VDst) (a b : VOp) : IntegerRow (.bfiB32 d a b) (narrow [srcOf d, a, b]) d fun c t => (c.v32 t (srcOf d) &&& ~~~(fieldBits (c.v32 t b))) ||| ((c.v32 t a <<< fieldPos (c.v32 t b)) &&& fieldBits (c.v32 t b))
  | bselB32 (d : VDst) (a b : VOp) : IntegerRow (.bselB32 d a b) (narrow [srcOf d, a, b]) d fun c t => (c.v32 t (srcOf d) &&& c.v32 t a) ||| (~~~(c.v32 t (srcOf d)) &&& c.v32 t b)
  | madI32 (d : VDst) (a b : VOp) : IntegerRow (.madI32 d a b) (narrow [a, b, srcOf d]) d fun c t => c.v32 t a * c.v32 t b + c.v32 t (srcOf d)
  | addI32Imm (d : VDst) (a : VOp) (i : BitVec 11) : IntegerRow (.addI32Imm d a i) (narrow [a]) d fun c t => c.v32 t a + i.signExtend 32
  | mulI32Imm (d : VDst) (a : VOp) (i : BitVec 11) : IntegerRow (.mulI32Imm d a i) (narrow [a]) d fun c t => c.v32 t a * i.signExtend 32
  | andB32Imm (d : VDst) (a : VOp) (i : BitVec 11) : IntegerRow (.andB32Imm d a i) (narrow [a]) d fun c t => c.v32 t a &&& i.signExtend 32
  | orB32Imm (d : VDst) (a : VOp) (i : BitVec 11) : IntegerRow (.orB32Imm d a i) (narrow [a]) d fun c t => c.v32 t a ||| i.signExtend 32
  | xorB32Imm (d : VDst) (a : VOp) (i : BitVec 11) : IntegerRow (.xorB32Imm d a i) (narrow [a]) d fun c t => c.v32 t a ^^^ i.signExtend 32
  | shlB32Imm (d : VDst) (a : VOp) (i : BitVec 11) : IntegerRow (.shlB32Imm d a i) (narrow [a]) d fun c t => BitVec.ofNat 32 ((c.v32 t a).toNat * 2 ^ i.toNat)
  | shrU32Imm (d : VDst) (a : VOp) (i : BitVec 11) : IntegerRow (.shrU32Imm d a i) (narrow [a]) d fun c t => BitVec.ofNat 32 ((c.v32 t a).toNat / 2 ^ i.toNat)
  | shrI32Imm (d : VDst) (a : VOp) (i : BitVec 11) : IntegerRow (.shrI32Imm d a i) (narrow [a]) d fun c t => BitVec.ofInt 32 ((c.v32 t a).toInt / 2 ^ min i.toNat 31)
  | movB32Imm (d : VDst) (i : BitVec 11) : IntegerRow (.movB32Imm d i) [] d fun _ _ => i.signExtend 32

/-- The words with 64-bit results (R93, R100). -/
inductive WideRow : Instr → List Src → VDst → (Ctx → Nat → DWord) → Prop where
  | addI64 (d : VDst) (a b : VOp) : WideRow (.addI64 d a b) (wide [a, b]) d fun c t => c.v64 t a + c.v64 t b
  | subI64 (d : VDst) (a b : VOp) : WideRow (.subI64 d a b) (wide [a, b]) d fun c t => c.v64 t a - c.v64 t b
  | mulI64 (d : VDst) (a b : VOp) : WideRow (.mulI64 d a b) (wide [a, b]) d fun c t => c.v64 t a * c.v64 t b
  | shlB64 (d : VDst) (a b : VOp) : WideRow (.shlB64 d a b) (wide [a] ++ narrow [b]) d fun c t => if (c.v32 t b).toNat < 64 then BitVec.ofNat 64 ((c.v64 t a).toNat * 2 ^ (c.v32 t b).toNat) else 0
  | shrU64 (d : VDst) (a b : VOp) : WideRow (.shrU64 d a b) (wide [a] ++ narrow [b]) d fun c t => if (c.v32 t b).toNat < 64 then BitVec.ofNat 64 ((c.v64 t a).toNat / 2 ^ (c.v32 t b).toNat) else 0
  | shrI64 (d : VDst) (a b : VOp) : WideRow (.shrI64 d a b) (wide [a] ++ narrow [b]) d fun c t => BitVec.ofInt 64 ((c.v64 t a).toInt / 2 ^ min (c.v32 t b).toNat 63)
  | minI64 (d : VDst) (a b : VOp) : WideRow (.minI64 d a b) (wide [a, b]) d fun c t => BitVec.ofInt 64 (min (c.v64 t a).toInt (c.v64 t b).toInt)
  | maxI64 (d : VDst) (a b : VOp) : WideRow (.maxI64 d a b) (wide [a, b]) d fun c t => BitVec.ofInt 64 (max (c.v64 t a).toInt (c.v64 t b).toInt)
  | mulwideI32 (d : VDst) (a b : VOp) : WideRow (.mulwideI32 d a b) (narrow [a, b]) d fun c t => BitVec.ofInt 64 ((c.v32 t a).toInt * (c.v32 t b).toInt)
  | mulwideU32 (d : VDst) (a b : VOp) : WideRow (.mulwideU32 d a b) (narrow [a, b]) d fun c t => BitVec.ofNat 64 ((c.v32 t a).toNat * (c.v32 t b).toNat)
  | madI64 (d : VDst) (a b : VOp) : WideRow (.madI64 d a b) (wide [a, b, srcOf d]) d fun c t => c.v64 t a * c.v64 t b + c.v64 t (srcOf d)
  | movB64 (d : VDst) (a : VOp) : WideRow (.movB64 d a) (wide [a]) d fun c t => c.v64 t a

/-- The truth of a condition, from the truth of "less" and of "equal" (R96). -/
def condOn (k : ICmp) (lt eq : Prop) [Decidable lt] [Decidable eq] : Bool :=
  match k with
  | .eq => decide eq
  | .ne => !decide eq
  | .lt => decide lt
  | .le => decide lt || decide eq
  | .gt => !(decide lt || decide eq)
  | .ge => !decide lt

/-- The words with a predicate result (R96 to R98). -/
inductive PredicateRow : Instr → List Src → Fin 8 → (Ctx → Nat → Bool) → Prop where
  | setpI32 (k : ICmp) (d : Fin 8) (a b : VOp) : PredicateRow (.setpI32 k d a b) (narrow [a, b]) d fun c t => condOn k ((c.v32 t a).toInt < (c.v32 t b).toInt) ((c.v32 t a).toInt = (c.v32 t b).toInt)
  | setpU32 (k : ICmp) (d : Fin 8) (a b : VOp) : PredicateRow (.setpU32 k d a b) (narrow [a, b]) d fun c t => condOn k ((c.v32 t a).toNat < (c.v32 t b).toNat) ((c.v32 t a).toNat = (c.v32 t b).toNat)
  | setpI64 (k : ICmp) (d : Fin 8) (a b : VOp) : PredicateRow (.setpI64 k d a b) (wide [a, b]) d fun c t => condOn k ((c.v64 t a).toInt < (c.v64 t b).toInt) ((c.v64 t a).toInt = (c.v64 t b).toInt)
  | setpF32 (k : FCmp) (d : Fin 8) (a b : VOp) : PredicateRow (.setpF32 k d a b) (narrow [a, b]) d fun c t => cmpF k (f32Val (c.v32 t a)) (f32Val (c.v32 t b))
  | setpF16 (k : ICmp) (d : Fin 8) (a b : VOp) : PredicateRow (.setpF16 k d a b) (narrow [a, b]) d fun c t => cmpOrd k (f16Val (c.v32 t a)) (f16Val (c.v32 t b))
  | setpBf16 (k : ICmp) (d : Fin 8) (a b : VOp) : PredicateRow (.setpBf16 k d a b) (narrow [a, b]) d fun c t => cmpOrd k (bf16Val (c.v32 t a)) (bf16Val (c.v32 t b))
  | pand (d a b : Fin 8) : PredicateRow (.pand d a b) [] d fun c t => c.wave.preg a t && c.wave.preg b t
  | por (d a b : Fin 8) : PredicateRow (.por d a b) [] d fun c t => c.wave.preg a t || c.wave.preg b t
  | pxor (d a b : Fin 8) : PredicateRow (.pxor d a b) [] d fun c t => c.wave.preg a t != c.wave.preg b t
  | pnot (d a : Fin 8) : PredicateRow (.pnot d a) [] d fun c t => !c.wave.preg a t
  | pandn (d a b : Fin 8) : PredicateRow (.pandn d a b) [] d fun c t => c.wave.preg a t && !c.wave.preg b t

/-- What a shuffle takes from thread `j`, in thread `t`: its own value where `j` does not perform (R101). -/
def from_ (c : Ctx) (a : VOp) (t j : Nat) : Word := if j ∈ c.perf then c.v32 j a else c.v32 t a

/-- Selection, moves, shuffles, reductions, scans, votes (R99 to R102), and `getmask` (R130). -/
inductive ExchangeRow : Instr → List Src → VDst → (Ctx → Nat → Word) → Prop where
  | selB32 (d : VDst) (a b : VOp) (e : Bool) (p : Fin 8) : ExchangeRow (.selB32 d a b e p) (narrow [a, b]) d fun c t => if (c.wave.preg p t != e) then c.v32 t a else c.v32 t b
  | movB32 (d : VDst) (a : VOp) : ExchangeRow (.movB32 d a) (narrow [a]) d fun c t => c.v32 t a
  | shflIdx (d : VDst) (a b : VOp) : ExchangeRow (.shflIdx d a b) (narrow [a, b]) d fun c t => from_ c a t ((c.v32 t b).toNat % 32)
  | shflUp (d : VDst) (a b : VOp) : ExchangeRow (.shflUp d a b) (narrow [a, b]) d fun c t => if (c.v32 t b).toNat ≤ t then from_ c a t (t - (c.v32 t b).toNat) else c.v32 t a
  | shflDown (d : VDst) (a b : VOp) : ExchangeRow (.shflDown d a b) (narrow [a, b]) d fun c t => if t + (c.v32 t b).toNat ≤ 31 then from_ c a t (t + (c.v32 t b).toNat) else c.v32 t a
  | shflXor (d : VDst) (a b : VOp) : ExchangeRow (.shflXor d a b) (narrow [a, b]) d fun c t => from_ c a t (t ^^^ ((c.v32 t b).toNat % 32))
  | wredAddI32 (d : VDst) (a : VOp) : ExchangeRow (.wredAddI32 d a) (narrow [a]) d fun c _ => BitVec.ofNat 32 ((c.perf.map fun u => c.v32 u a).map BitVec.toNat).sum
  | wredMinI32 (d : VDst) (a : VOp) : ExchangeRow (.wredMinI32 d a) (narrow [a]) d fun c _ => foldW minS (c.perf.map fun u => c.v32 u a)
  | wredMaxI32 (d : VDst) (a : VOp) : ExchangeRow (.wredMaxI32 d a) (narrow [a]) d fun c _ => foldW maxS (c.perf.map fun u => c.v32 u a)
  | wredAddF32 (d : VDst) (a : VOp) : ExchangeRow (.wredAddF32 d a) (narrow [a]) d fun c _ => sumF (c.perf.map fun u => c.v32 u a)
  | wscanAddI32 (d : VDst) (a : VOp) : ExchangeRow (.wscanAddI32 d a) (narrow [a]) d fun c t => BitVec.ofNat 32 (((c.perf.filter (· ≤ t)).map fun u => (c.v32 u a).toNat).sum)
  | wscanAddxI32 (d : VDst) (a : VOp) : ExchangeRow (.wscanAddxI32 d a) (narrow [a]) d fun c t => BitVec.ofNat 32 (((c.perf.filter (· < t)).map fun u => (c.v32 u a).toNat).sum)
  | wscanAddF32 (d : VDst) (a : VOp) : ExchangeRow (.wscanAddF32 d a) (narrow [a]) d fun c t => sumF ((c.perf.filter (· ≤ t)).map fun u => c.v32 u a)
  | voteAny (d : VDst) (a : VOp) : ExchangeRow (.voteAny d a) (narrow [a]) d fun c _ => if ∃ u ∈ c.perf, c.v32 u a ≠ 0 then 1 else 0
  | voteAll (d : VDst) (a : VOp) : ExchangeRow (.voteAll d a) (narrow [a]) d fun c _ => if ∀ u ∈ c.perf, c.v32 u a ≠ 0 then 1 else 0
  | voteBallot (d : VDst) (a : VOp) : ExchangeRow (.voteBallot d a) (narrow [a]) d fun c _ => maskOf (c.perf.filter fun u => c.v32 u a != 0)
  | wredAndB32 (d : VDst) (a : VOp) : ExchangeRow (.wredAndB32 d a) (narrow [a]) d fun c _ => (c.perf.map fun u => c.v32 u a).foldl (· &&& ·) (BitVec.allOnes 32)
  | wredOrB32 (d : VDst) (a : VOp) : ExchangeRow (.wredOrB32 d a) (narrow [a]) d fun c _ => (c.perf.map fun u => c.v32 u a).foldl (· ||| ·) 0
  | getmask (d : VDst) : ExchangeRow (.getmask d) [] d fun c _ => c.path.mask

/-- Floating-point arithmetic (R103, R104). -/
inductive FloatRow : Instr → List Src → VDst → (Ctx → Nat → Word) → Prop where
  | faddF32 (d : VDst) (a b : VOp) (r : ARnd) : FloatRow (.faddF32 d a b r) (narrow [a, b]) d fun c t => roundWord fp32 (rmOf r) ((f32Val (c.v32 t a)).add (isRd (rmOf r)) (f32Val (c.v32 t b)))
  | fsubF32 (d : VDst) (a b : VOp) (r : ARnd) : FloatRow (.fsubF32 d a b r) (narrow [a, b]) d fun c t => roundWord fp32 (rmOf r) ((f32Val (c.v32 t a)).add (isRd (rmOf r)) (f32Val (c.v32 t b)).neg)
  | fmulF32 (d : VDst) (a b : VOp) (r : ARnd) : FloatRow (.fmulF32 d a b r) (narrow [a, b]) d fun c t => roundWord fp32 (rmOf r) ((f32Val (c.v32 t a)).mul (f32Val (c.v32 t b)))
  | fmaF32 (d : VDst) (a b : VOp) (r : ARnd) : FloatRow (.fmaF32 d a b r) (narrow [a, b, srcOf d]) d fun c t => roundWord fp32 (rmOf r) (((f32Val (c.v32 t a)).mul (f32Val (c.v32 t b))).add (isRd (rmOf r)) (f32Val (c.v32 t (srcOf d))))
  | faddF16 (d : VDst) (a b : VOp) (r : ARnd) : FloatRow (.faddF16 d a b r) (narrow [a, b]) d fun c t => roundWord fp16 (rmOf r) ((f16Val (c.v32 t a)).add (isRd (rmOf r)) (f16Val (c.v32 t b)))
  | fsubF16 (d : VDst) (a b : VOp) (r : ARnd) : FloatRow (.fsubF16 d a b r) (narrow [a, b]) d fun c t => roundWord fp16 (rmOf r) ((f16Val (c.v32 t a)).add (isRd (rmOf r)) (f16Val (c.v32 t b)).neg)
  | fmulF16 (d : VDst) (a b : VOp) (r : ARnd) : FloatRow (.fmulF16 d a b r) (narrow [a, b]) d fun c t => roundWord fp16 (rmOf r) ((f16Val (c.v32 t a)).mul (f16Val (c.v32 t b)))
  | fmaF16 (d : VDst) (a b : VOp) (r : ARnd) : FloatRow (.fmaF16 d a b r) (narrow [a, b, srcOf d]) d fun c t => roundWord fp16 (rmOf r) (((f16Val (c.v32 t a)).mul (f16Val (c.v32 t b))).add (isRd (rmOf r)) (f16Val (c.v32 t (srcOf d))))
  | faddBf16 (d : VDst) (a b : VOp) (r : ARnd) : FloatRow (.faddBf16 d a b r) (narrow [a, b]) d fun c t => roundWord bf16 (rmOf r) ((bf16Val (c.v32 t a)).add (isRd (rmOf r)) (bf16Val (c.v32 t b)))
  | fsubBf16 (d : VDst) (a b : VOp) (r : ARnd) : FloatRow (.fsubBf16 d a b r) (narrow [a, b]) d fun c t => roundWord bf16 (rmOf r) ((bf16Val (c.v32 t a)).add (isRd (rmOf r)) (bf16Val (c.v32 t b)).neg)
  | fmulBf16 (d : VDst) (a b : VOp) (r : ARnd) : FloatRow (.fmulBf16 d a b r) (narrow [a, b]) d fun c t => roundWord bf16 (rmOf r) ((bf16Val (c.v32 t a)).mul (bf16Val (c.v32 t b)))
  | fmaBf16 (d : VDst) (a b : VOp) (r : ARnd) : FloatRow (.fmaBf16 d a b r) (narrow [a, b, srcOf d]) d fun c t => roundWord bf16 (rmOf r) (((bf16Val (c.v32 t a)).mul (bf16Val (c.v32 t b))).add (isRd (rmOf r)) (bf16Val (c.v32 t (srcOf d))))
  | fminF32 (d : VDst) (a b : VOp) : FloatRow (.fminF32 d a b) (narrow [a, b]) d fun c t => fminBits fp32 f32Val true (c.v32 t a) (c.v32 t b)
  | fmaxF32 (d : VDst) (a b : VOp) : FloatRow (.fmaxF32 d a b) (narrow [a, b]) d fun c t => fminBits fp32 f32Val false (c.v32 t a) (c.v32 t b)
  | fminF16 (d : VDst) (a b : VOp) : FloatRow (.fminF16 d a b) (narrow [a, b]) d fun c t => fminBits fp16 f16Val true (c.v32 t a) (c.v32 t b)
  | fmaxF16 (d : VDst) (a b : VOp) : FloatRow (.fmaxF16 d a b) (narrow [a, b]) d fun c t => fminBits fp16 f16Val false (c.v32 t a) (c.v32 t b)
  | fminBf16 (d : VDst) (a b : VOp) : FloatRow (.fminBf16 d a b) (narrow [a, b]) d fun c t => fminBits bf16 bf16Val true (c.v32 t a) (c.v32 t b)
  | fmaxBf16 (d : VDst) (a b : VOp) : FloatRow (.fmaxBf16 d a b) (narrow [a, b]) d fun c t => fminBits bf16 bf16Val false (c.v32 t a) (c.v32 t b)
  | fabsF32 (d : VDst) (a : VOp) : FloatRow (.fabsF32 d a) (narrow [a]) d fun c t => if (f32Val (c.v32 t a)).isNan then 0x7FC00000 else c.v32 t a &&& 0x7FFFFFFF
  | fnegF32 (d : VDst) (a : VOp) : FloatRow (.fnegF32 d a) (narrow [a]) d fun c t => if (f32Val (c.v32 t a)).isNan then 0x7FC00000 else c.v32 t a ^^^ 0x80000000

/-- The correctly rounded functions and the quotient (R79, R110). -/
inductive FunctionRow : Instr → List Src → VDst → (Ctx → Nat → Word) → Prop where
  | expF32 (d : VDst) (a : VOp) : FunctionRow (.expF32 d a) (narrow [a]) d fun c t => BitVec.ofNat 32 (fnCode fp32 .exp (f32Val (c.v32 t a)))
  | exp2F32 (d : VDst) (a : VOp) : FunctionRow (.exp2F32 d a) (narrow [a]) d fun c t => BitVec.ofNat 32 (fnCode fp32 .exp2 (f32Val (c.v32 t a)))
  | logF32 (d : VDst) (a : VOp) : FunctionRow (.logF32 d a) (narrow [a]) d fun c t => BitVec.ofNat 32 (fnCode fp32 .log (f32Val (c.v32 t a)))
  | log2F32 (d : VDst) (a : VOp) : FunctionRow (.log2F32 d a) (narrow [a]) d fun c t => BitVec.ofNat 32 (fnCode fp32 .log2 (f32Val (c.v32 t a)))
  | sinpiF32 (d : VDst) (a : VOp) : FunctionRow (.sinpiF32 d a) (narrow [a]) d fun c t => BitVec.ofNat 32 (fnCode fp32 .sinpi (f32Val (c.v32 t a)))
  | cospiF32 (d : VDst) (a : VOp) : FunctionRow (.cospiF32 d a) (narrow [a]) d fun c t => BitVec.ofNat 32 (fnCode fp32 .cospi (f32Val (c.v32 t a)))
  | tanhF32 (d : VDst) (a : VOp) : FunctionRow (.tanhF32 d a) (narrow [a]) d fun c t => BitVec.ofNat 32 (fnCode fp32 .tanh (f32Val (c.v32 t a)))
  | sigmF32 (d : VDst) (a : VOp) : FunctionRow (.sigmF32 d a) (narrow [a]) d fun c t => BitVec.ofNat 32 (fnCode fp32 .sigm (f32Val (c.v32 t a)))
  | erfF32 (d : VDst) (a : VOp) : FunctionRow (.erfF32 d a) (narrow [a]) d fun c t => BitVec.ofNat 32 (fnCode fp32 .erf (f32Val (c.v32 t a)))
  | rcpF32 (d : VDst) (a : VOp) : FunctionRow (.rcpF32 d a) (narrow [a]) d fun c t => roundWord fp32 .rne (divVal (.fin false 1 0) (f32Val (c.v32 t a)))
  | rsqrtF32 (d : VDst) (a : VOp) : FunctionRow (.rsqrtF32 d a) (narrow [a]) d fun c t => roundWord fp32 .rne (rsqrtVal (f32Val (c.v32 t a)))
  | sqrtF32 (d : VDst) (a : VOp) : FunctionRow (.sqrtF32 d a) (narrow [a]) d fun c t => roundWord fp32 .rne (sqrtVal (f32Val (c.v32 t a)))
  | divF32 (d : VDst) (a b : VOp) : FunctionRow (.divF32 d a b) (narrow [a, b]) d fun c t => roundWord fp32 .rne (divVal (f32Val (c.v32 t a)) (f32Val (c.v32 t b)))
  | expF16 (d : VDst) (a : VOp) : FunctionRow (.expF16 d a) (narrow [a]) d fun c t => BitVec.ofNat 32 (fnCode fp16 .exp (f16Val (c.v32 t a)))
  | exp2F16 (d : VDst) (a : VOp) : FunctionRow (.exp2F16 d a) (narrow [a]) d fun c t => BitVec.ofNat 32 (fnCode fp16 .exp2 (f16Val (c.v32 t a)))
  | logF16 (d : VDst) (a : VOp) : FunctionRow (.logF16 d a) (narrow [a]) d fun c t => BitVec.ofNat 32 (fnCode fp16 .log (f16Val (c.v32 t a)))
  | log2F16 (d : VDst) (a : VOp) : FunctionRow (.log2F16 d a) (narrow [a]) d fun c t => BitVec.ofNat 32 (fnCode fp16 .log2 (f16Val (c.v32 t a)))
  | sinpiF16 (d : VDst) (a : VOp) : FunctionRow (.sinpiF16 d a) (narrow [a]) d fun c t => BitVec.ofNat 32 (fnCode fp16 .sinpi (f16Val (c.v32 t a)))
  | cospiF16 (d : VDst) (a : VOp) : FunctionRow (.cospiF16 d a) (narrow [a]) d fun c t => BitVec.ofNat 32 (fnCode fp16 .cospi (f16Val (c.v32 t a)))
  | tanhF16 (d : VDst) (a : VOp) : FunctionRow (.tanhF16 d a) (narrow [a]) d fun c t => BitVec.ofNat 32 (fnCode fp16 .tanh (f16Val (c.v32 t a)))
  | sigmF16 (d : VDst) (a : VOp) : FunctionRow (.sigmF16 d a) (narrow [a]) d fun c t => BitVec.ofNat 32 (fnCode fp16 .sigm (f16Val (c.v32 t a)))
  | erfF16 (d : VDst) (a : VOp) : FunctionRow (.erfF16 d a) (narrow [a]) d fun c t => BitVec.ofNat 32 (fnCode fp16 .erf (f16Val (c.v32 t a)))
  | rcpF16 (d : VDst) (a : VOp) : FunctionRow (.rcpF16 d a) (narrow [a]) d fun c t => roundWord fp16 .rne (divVal (.fin false 1 0) (f16Val (c.v32 t a)))
  | rsqrtF16 (d : VDst) (a : VOp) : FunctionRow (.rsqrtF16 d a) (narrow [a]) d fun c t => roundWord fp16 .rne (rsqrtVal (f16Val (c.v32 t a)))
  | sqrtF16 (d : VDst) (a : VOp) : FunctionRow (.sqrtF16 d a) (narrow [a]) d fun c t => roundWord fp16 .rne (sqrtVal (f16Val (c.v32 t a)))
  | divF16 (d : VDst) (a b : VOp) : FunctionRow (.divF16 d a b) (narrow [a, b]) d fun c t => roundWord fp16 .rne (divVal (f16Val (c.v32 t a)) (f16Val (c.v32 t b)))
  | expBf16 (d : VDst) (a : VOp) : FunctionRow (.expBf16 d a) (narrow [a]) d fun c t => BitVec.ofNat 32 (fnCode bf16 .exp (bf16Val (c.v32 t a)))
  | exp2Bf16 (d : VDst) (a : VOp) : FunctionRow (.exp2Bf16 d a) (narrow [a]) d fun c t => BitVec.ofNat 32 (fnCode bf16 .exp2 (bf16Val (c.v32 t a)))
  | logBf16 (d : VDst) (a : VOp) : FunctionRow (.logBf16 d a) (narrow [a]) d fun c t => BitVec.ofNat 32 (fnCode bf16 .log (bf16Val (c.v32 t a)))
  | log2Bf16 (d : VDst) (a : VOp) : FunctionRow (.log2Bf16 d a) (narrow [a]) d fun c t => BitVec.ofNat 32 (fnCode bf16 .log2 (bf16Val (c.v32 t a)))
  | sinpiBf16 (d : VDst) (a : VOp) : FunctionRow (.sinpiBf16 d a) (narrow [a]) d fun c t => BitVec.ofNat 32 (fnCode bf16 .sinpi (bf16Val (c.v32 t a)))
  | cospiBf16 (d : VDst) (a : VOp) : FunctionRow (.cospiBf16 d a) (narrow [a]) d fun c t => BitVec.ofNat 32 (fnCode bf16 .cospi (bf16Val (c.v32 t a)))
  | tanhBf16 (d : VDst) (a : VOp) : FunctionRow (.tanhBf16 d a) (narrow [a]) d fun c t => BitVec.ofNat 32 (fnCode bf16 .tanh (bf16Val (c.v32 t a)))
  | sigmBf16 (d : VDst) (a : VOp) : FunctionRow (.sigmBf16 d a) (narrow [a]) d fun c t => BitVec.ofNat 32 (fnCode bf16 .sigm (bf16Val (c.v32 t a)))
  | erfBf16 (d : VDst) (a : VOp) : FunctionRow (.erfBf16 d a) (narrow [a]) d fun c t => BitVec.ofNat 32 (fnCode bf16 .erf (bf16Val (c.v32 t a)))
  | rcpBf16 (d : VDst) (a : VOp) : FunctionRow (.rcpBf16 d a) (narrow [a]) d fun c t => roundWord bf16 .rne (divVal (.fin false 1 0) (bf16Val (c.v32 t a)))
  | rsqrtBf16 (d : VDst) (a : VOp) : FunctionRow (.rsqrtBf16 d a) (narrow [a]) d fun c t => roundWord bf16 .rne (rsqrtVal (bf16Val (c.v32 t a)))
  | sqrtBf16 (d : VDst) (a : VOp) : FunctionRow (.sqrtBf16 d a) (narrow [a]) d fun c t => roundWord bf16 .rne (sqrtVal (bf16Val (c.v32 t a)))
  | divBf16 (d : VDst) (a b : VOp) : FunctionRow (.divBf16 d a b) (narrow [a, b]) d fun c t => roundWord bf16 .rne (divVal (bf16Val (c.v32 t a)) (bf16Val (c.v32 t b)))

end Sys2Proof.Machine
end

