-- ==== Sys2Proof/Safety/Scalars.lean ====
section
/-! DEFINITION. The scalar-class rows of the opcode table: one result for the path (R33, R47, R58, R111 to R113, R115, R180,
R181, R183), and when they are performed. -/

namespace Sys2Proof.Machine

/-- The guard is true in every active thread: a word with one effect for the path is performed (R33, R60). -/
def Ctx.Guarded (c : Ctx) : Prop := ∀ t ∈ ixs c.path.active, guardIn c.wave c.path.seq.guard t = true

/-- A thread is active, and the guard is false in every active one: the word is not performed (R33). -/
def Ctx.GuardedOff (c : Ctx) : Prop :=
  ixs c.path.active ≠ [] ∧ ∀ t ∈ ixs c.path.active, guardIn c.wave c.path.seq.guard t = false

/-- A uniform register has no uncorrectable unit; those of the trap bank have none (R62, R365). -/
def Ctx.goodS (c : Ctx) (k : Nat) : Bool := (c.path.priv && decide (k < 16)) || !c.path.badS.getLsbD k

/-- The path can read its scalar-class sources, each 32 or 64 bits wide (R62). -/
def Ctx.SReadable (c : Ctx) (xs : List (SOp × Bool)) : Prop :=
  ∀ x ∈ xs, ∀ k, x.1 = .s k → c.goodS k.val = true ∧ (x.2 = true → c.goodS (k.val + 1) = true)

/-- Scalar words with a 32-bit result (R111, R112, R181). -/
inductive ScalarRow : Instr → List (SOp × Bool) → SDst → (Ctx → Word) → Prop where
  | saddI32 (d : SDst) (a b : SOp) : ScalarRow (.saddI32 d a b) [(a, false), (b, false)] d fun c => c.s32 a + c.s32 b
  | ssubI32 (d : SDst) (a b : SOp) : ScalarRow (.ssubI32 d a b) [(a, false), (b, false)] d fun c => c.s32 a - c.s32 b
  | smulI32 (d : SDst) (a b : SOp) : ScalarRow (.smulI32 d a b) [(a, false), (b, false)] d fun c => c.s32 a * c.s32 b
  | sandB32 (d : SDst) (a b : SOp) : ScalarRow (.sandB32 d a b) [(a, false), (b, false)] d fun c => c.s32 a &&& c.s32 b
  | sorB32 (d : SDst) (a b : SOp) : ScalarRow (.sorB32 d a b) [(a, false), (b, false)] d fun c => c.s32 a ||| c.s32 b
  | sxorB32 (d : SDst) (a b : SOp) : ScalarRow (.sxorB32 d a b) [(a, false), (b, false)] d fun c => c.s32 a ^^^ c.s32 b
  | sshlB32 (d : SDst) (a b : SOp) : ScalarRow (.sshlB32 d a b) [(a, false), (b, false)] d fun c => if (c.s32 b).toNat < 32 then BitVec.ofNat 32 ((c.s32 a).toNat * 2 ^ (c.s32 b).toNat) else 0
  | sshrU32 (d : SDst) (a b : SOp) : ScalarRow (.sshrU32 d a b) [(a, false), (b, false)] d fun c => if (c.s32 b).toNat < 32 then BitVec.ofNat 32 ((c.s32 a).toNat / 2 ^ (c.s32 b).toNat) else 0
  | sshrI32 (d : SDst) (a b : SOp) : ScalarRow (.sshrI32 d a b) [(a, false), (b, false)] d fun c => BitVec.ofInt 32 ((c.s32 a).toInt / 2 ^ min (c.s32 b).toNat 31)
  | sminI32 (d : SDst) (a b : SOp) : ScalarRow (.sminI32 d a b) [(a, false), (b, false)] d fun c => BitVec.ofInt 32 (min (c.s32 a).toInt (c.s32 b).toInt)
  | smaxI32 (d : SDst) (a b : SOp) : ScalarRow (.smaxI32 d a b) [(a, false), (b, false)] d fun c => BitVec.ofInt 32 (max (c.s32 a).toInt (c.s32 b).toInt)
  | sminU32 (d : SDst) (a b : SOp) : ScalarRow (.sminU32 d a b) [(a, false), (b, false)] d fun c => BitVec.ofNat 32 (min (c.s32 a).toNat (c.s32 b).toNat)
  | smaxU32 (d : SDst) (a b : SOp) : ScalarRow (.smaxU32 d a b) [(a, false), (b, false)] d fun c => BitVec.ofNat 32 (max (c.s32 a).toNat (c.s32 b).toNat)
  | smovB32 (d : SDst) (a : SOp) : ScalarRow (.smovB32 d a) [(a, false)] d fun c => c.s32 a
  | smovB32Imm (d : SDst) (i : BitVec 11) : ScalarRow (.smovB32Imm d i) [] d fun _ => i.signExtend 32
  | saddI32Imm (d : SDst) (a : SOp) (i : BitVec 11) : ScalarRow (.saddI32Imm d a i) [(a, false)] d fun c => c.s32 a + i.signExtend 32
  | getfmt (d : SDst) (k : Fin 4) : ScalarRow (.getfmt d k) [] d fun c => c.path.fmt.getD k.val 0

/-- Scalar words with a 64-bit result (R111). -/
inductive WideScalarRow : Instr → List (SOp × Bool) → SDst → (Ctx → DWord) → Prop where
  | saddI64 (d : SDst) (a b : SOp) : WideScalarRow (.saddI64 d a b) [(a, true), (b, true)] d fun c => c.s64 a + c.s64 b
  | ssubI64 (d : SDst) (a b : SOp) : WideScalarRow (.ssubI64 d a b) [(a, true), (b, true)] d fun c => c.s64 a - c.s64 b

/-- Scalar compares into a predicate (R113). -/
inductive CompareRow : Instr → List (SOp × Bool) → Fin 8 → (Ctx → Bool) → Prop where
  | scmpEqI32 (d : Fin 8) (a b : SOp) : CompareRow (.scmpEqI32 d a b) [(a, false), (b, false)] d fun c => condOn .eq ((c.s32 a).toInt < (c.s32 b).toInt) ((c.s32 a).toInt = (c.s32 b).toInt)
  | scmpEqU32 (d : Fin 8) (a b : SOp) : CompareRow (.scmpEqU32 d a b) [(a, false), (b, false)] d fun c => condOn .eq ((c.s32 a).toNat < (c.s32 b).toNat) ((c.s32 a).toNat = (c.s32 b).toNat)
  | scmpNeI32 (d : Fin 8) (a b : SOp) : CompareRow (.scmpNeI32 d a b) [(a, false), (b, false)] d fun c => condOn .ne ((c.s32 a).toInt < (c.s32 b).toInt) ((c.s32 a).toInt = (c.s32 b).toInt)
  | scmpNeU32 (d : Fin 8) (a b : SOp) : CompareRow (.scmpNeU32 d a b) [(a, false), (b, false)] d fun c => condOn .ne ((c.s32 a).toNat < (c.s32 b).toNat) ((c.s32 a).toNat = (c.s32 b).toNat)
  | scmpLtI32 (d : Fin 8) (a b : SOp) : CompareRow (.scmpLtI32 d a b) [(a, false), (b, false)] d fun c => condOn .lt ((c.s32 a).toInt < (c.s32 b).toInt) ((c.s32 a).toInt = (c.s32 b).toInt)
  | scmpLtU32 (d : Fin 8) (a b : SOp) : CompareRow (.scmpLtU32 d a b) [(a, false), (b, false)] d fun c => condOn .lt ((c.s32 a).toNat < (c.s32 b).toNat) ((c.s32 a).toNat = (c.s32 b).toNat)
  | scmpLeI32 (d : Fin 8) (a b : SOp) : CompareRow (.scmpLeI32 d a b) [(a, false), (b, false)] d fun c => condOn .le ((c.s32 a).toInt < (c.s32 b).toInt) ((c.s32 a).toInt = (c.s32 b).toInt)
  | scmpLeU32 (d : Fin 8) (a b : SOp) : CompareRow (.scmpLeU32 d a b) [(a, false), (b, false)] d fun c => condOn .le ((c.s32 a).toNat < (c.s32 b).toNat) ((c.s32 a).toNat = (c.s32 b).toNat)
  | scmpGtI32 (d : Fin 8) (a b : SOp) : CompareRow (.scmpGtI32 d a b) [(a, false), (b, false)] d fun c => condOn .gt ((c.s32 a).toInt < (c.s32 b).toInt) ((c.s32 a).toInt = (c.s32 b).toInt)
  | scmpGtU32 (d : Fin 8) (a b : SOp) : CompareRow (.scmpGtU32 d a b) [(a, false), (b, false)] d fun c => condOn .gt ((c.s32 a).toNat < (c.s32 b).toNat) ((c.s32 a).toNat = (c.s32 b).toNat)
  | scmpGeI32 (d : Fin 8) (a b : SOp) : CompareRow (.scmpGeI32 d a b) [(a, false), (b, false)] d fun c => condOn .ge ((c.s32 a).toInt < (c.s32 b).toInt) ((c.s32 a).toInt = (c.s32 b).toInt)
  | scmpGeU32 (d : Fin 8) (a b : SOp) : CompareRow (.scmpGeU32 d a b) [(a, false), (b, false)] d fun c => condOn .ge ((c.s32 a).toNat < (c.s32 b).toNat) ((c.s32 a).toNat = (c.s32 b).toNat)

/-- A scalar compare of the path of `c`: the predicate is written in every active thread, no latch is pushed (R113). -/
def ScalP (c : Ctx) (s : State) (d : Fin 8) (b : Bool) (t : State) : Prop :=
  ∃ c', Completed c s c.perf t c' ∧ WroteP c c' d (ixs c.path.active) (fun _ => b) ∧ SameV c c' ∧ SameS c c' ∧ SameL c c'

/-- A format register of the path takes a value; nothing else changes (R180, R181). -/
def SetF (c : Ctx) (s : State) (k : Fin 4) (v : Word) (t : State) : Prop :=
  ∃ c', Completed c s c.perf t c' ∧ (∀ j < 4, c'.path.fmt.getD j 0 = if j = k.val then v else c.path.fmt.getD j 0)
    ∧ (∀ j, c'.sreg j = c.sreg j) ∧ c'.path.marks = c.path.marks ∧ SameV c c' ∧ SameP c c' ∧ SameL c c'

/-- A scalar-class word that no thread's guard lets be performed; `csrr`, `csrw` and `tlbinv` belong to P1 (R33, R362). -/
inductive GuardedRow (priv : Bool) : Instr → Prop where
  | scalar32 {i xs d f} (h : ScalarRow i xs d f) : GuardedRow priv i
  | scalar64 {i xs d f} (h : WideScalarRow i xs d f) : GuardedRow priv i
  | compare {i xs d f} (h : CompareRow i xs d f) : GuardedRow priv i
  | gets (d : SDst) (n : SReg) : GuardedRow priv (.getsScalar d n)
  | sets (d : SOp) : GuardedRow priv (.sets d)
  | shape (d : SDst) (m n : MDim) (k : KDim) : GuardedRow priv (.shape d m n k)
  | setfmt (k : Fin 4) (i : BitVec 18) : GuardedRow priv (.setfmt k i)
  | setfmtR (k : Fin 4) (a : SOp) : GuardedRow priv (.setfmtR k a)
  | pread (d : SDst) (a : SOp) : GuardedRow priv (.pread d a)
  | phint (a : SOp) : GuardedRow priv (.phint a)
  | csrr (d : SDst) (n : Csr) (h : priv = true) : GuardedRow priv (.csrr d n)
  | csrw (n : Csr) (a : SOp) (h : priv = true) : GuardedRow priv (.csrw n a)
  | tlbinv (a b : SOp) (h : priv = true) : GuardedRow priv (.tlbinv a b)
  | mma (d : BitVec 7) (a b : SOp) (h : priv = false) : GuardedRow priv (.mma d a b)
  | mmaBf16 (d : BitVec 7) (a b : SOp) (h : priv = false) : GuardedRow priv (.mmaBf16 d a b)
  | mmaF16 (d : BitVec 7) (a b : SOp) (h : priv = false) : GuardedRow priv (.mmaF16 d a b)
  | mmaSq (d : BitVec 7) (k : Fin 4) (b : SOp) (h : priv = false) : GuardedRow priv (.mmaSq d k b)
  | aclr (d : BitVec 7) (h : priv = false) : GuardedRow priv (.aclr d)
  | ald (d : BitVec 7) (a b : SOp) (h : priv = false) : GuardedRow priv (.ald d a b)
  | ast (d : BitVec 7) (a b : SOp) (h : priv = false) : GuardedRow priv (.ast d a b)
  | ascale (d : BitVec 7) (a : SOp) (h : priv = false) : GuardedRow priv (.ascale d a)
  | aexp (d : BitVec 7) (a : SDst) (h : priv = false) : GuardedRow priv (.aexp d a)

end Sys2Proof.Machine
end

