-- ==== Sys2Proof/Safety/Access.lean ====
section
/-! DEFINITION. Accesses to memory in the terms of claims: which rows load and store, what a byte of memory is, what a list of
stores leaves behind, and what a word that accesses memory leaves alone (R158 to R172, R220, R226, R232, R320). -/

namespace Sys2Proof.Machine

/-! ### Bytes -/

/-- One byte of device, host or peer memory. -/
def State.byteAt (s : State) (q : Phys) : Byte := (s.physRead q 1).headD 0

/-- One byte of a group's scratchpad; none where the group is gone. -/
def State.spByteAt (s : State) (g off : Nat) : Option Byte := (s.group? g).map fun x => x.sp.read off

/-- The byte that the last of some stores puts at a place; the last one stands last. Nothing can be stored beyond device
memory (R239). -/
def lastByte (ps : List (Phys × List Byte)) (q : Phys) : Option Byte :=
  if q.space = .dev ∧ devBytes ≤ q.addr then none
  else ps.foldl (fun r x =>
    if x.1.space = q.space ∧ x.1.addr ≤ q.addr ∧ q.addr < x.1.addr + x.2.length then x.2[q.addr - x.1.addr]? else r) none

/-- The same in scratchpad of a group. -/
def lastSpByte (ps : List (SpPlace × List Byte)) (g off : Nat) : Option Byte :=
  ps.foldl (fun r x => match x.1 with
    | .sp h o => if h = g ∧ o ≤ off ∧ off < o + x.2.length then x.2[off - o]? else r
    | .reg _ _ _ _ _ => r) none

/-! ### What may be assumed of an access -/

/-- The addresses of these threads are aligned (R159). -/
def Aligned (ea : Nat → Nat) (n : Nat) (ts : List Nat) : Prop := ∀ t ∈ ts, ea t % n = 0

/-- The wave holds back no store, and no store is visible in a scope instance only (log 7). -/
def State.NoneHeld (s : State) (r : PathRef) : Prop :=
  s.near = [] ∧ ∀ g ∈ s.groups, g.id = r.group → ∀ w ∈ g.waves, w.wix = r.wix → w.held = []

/-- No thread of the wave has read early (log 7). -/
def State.NoneEarly (s : State) (r : PathRef) : Prop :=
  ∀ g ∈ s.groups, g.id = r.group → ∀ w ∈ g.waves, w.wix = r.wix → w.early = []

/-- The word is performed for all of its threads together: none has faulted, waits from an earlier turn or is left for a later
one (R160). -/
def Ctx.Together (c : Ctx) : Prop := c.path.late = [] ∧ c.path.faulted = [] ∧ c.path.only = none

/-- And none of its loads reads later, nor does one that the wave has issued before (log 7). -/
def Ctx.First (c : Ctx) : Prop := c.Together ∧ c.path.defer = 0 ∧ c.wave.loads = []

/-- An acquire of scope `.dev.rm` finds nothing to promote (R225; log 7). -/
def State.NoPromote (s : State) (m : Scope) (r : Order) : Prop := m = .devRm → r = .acq ∨ r = .ar → s.near = []

/-- Another thread of the word does not write the register that a thread reads through the aperture. -/
def Ctx.Apart (c : Ctx) (d : VDst) (t : Nat) (p : SpPlace) : Prop :=
  match p with
  | .sp _ _ => True
  | .reg g wix u _ _ => g = c.ref.group → wix = c.ref.wix → u = t ∨ u ∉ c.perf ∨ ∀ k, d ≠ .w k

/-- Each of these threads can load from its cluster address: it lies at `p`, no unit is uncorrectable, and the
transfer does not fail (R142 to R146, R201). -/
def State.SpLoads (s : State) (c : Ctx) (apert : Bool) (ea : Nat → Nat) (n : Nat) (ts : List Nat) (p : Nat → SpPlace) : Prop :=
  ∀ t ∈ ts, s.spPlace c.group apert (ea t) n = .ok (p t) ∧ s.spBad (p t) n = false ∧ s.netFails c (ea t) = false

/-- Each of these threads can store to its cluster address. -/
def State.SpStores (s : State) (c : Ctx) (apert : Bool) (ea : Nat → Nat) (n : Nat) (ts : List Nat) (p : Nat → SpPlace) : Prop :=
  ∀ t ∈ ts, s.spPlace c.group apert (ea t) n = .ok (p t) ∧ s.netFails c (ea t) = false

/-- Each of these threads can load from its global address (R160, R241, R242). -/
def State.GLoads (s : State) (c : Ctx) (ea : Nat → Nat) (n : Nat) (ts : List Nat) (p : Nat → Phys) : Prop :=
  ∀ t ∈ ts, s.translate c.group.die c.launch.ctx c.path.priv .load (ea t) n = .ok (p t) ∧ s.physBad (p t) n = false

/-! ### What an access leaves alone -/

/-- A group without its waves, and one of them without its count of lines (R304). -/
def bare (gid : Nat) (g : Group) : Group := if g.id = gid then { g with waves := [], lines := [] } else { g with waves := [] }

/-- Beside its wave, an access of the path changes the lines that its group has touched. -/
structure OnlyAccess (r : PathRef) (s t : State) : Prop where
  rest   : { t with groups := s.groups } = s
  groups : t.groups.map (bare r.group) = s.groups.map (bare r.group)
  waves  : ∀ g x, (g, x) ≠ (r.group, r.wix) → t.wave? g x = s.wave? g x

/-- Beside its wave and the lines, a change of global memory leaves memory as it is in `u`. -/
structure OnlyMemory (r : PathRef) (s u t : State) : Prop where
  rest   : { t with groups := s.groups, mem := s.mem, hostMem := s.hostMem, peerMem := s.peerMem, memBad := s.memBad } = s
  memory : (t.mem, t.hostMem, t.peerMem, t.memBad) = (u.mem, u.hostMem, u.peerMem, u.memBad)
  groups : t.groups.map (bare r.group) = s.groups.map (bare r.group)
  waves  : ∀ g x, (g, x) ≠ (r.group, r.wix) → t.wave? g x = s.wave? g x

/-- Beside its wave, a change of scratchpad leaves scratchpad as it is in `u`. -/
structure OnlyScratchpad (r : PathRef) (s u t : State) : Prop where
  rest   : { t with groups := s.groups } = s
  shells : t.shells = u.shells
  waves  : ∀ g x, (g, x) ≠ (r.group, r.wix) → t.wave? g x = s.wave? g x

/-! ### Loads (R161) -/

/-- Results of 64 bits, or of 32 bits that stand zero-extended. -/
def WroteR (c c' : Ctx) (wide : Bool) (d : VDst) (ts : List Nat) (f : Nat → DWord) : Prop :=
  if wide then WroteV64 c c' d ts f else WroteV c c' d ts fun j => (f j).setWidth 32

/-- What a load makes of its bytes: zero extension, or sign extension to 32 bits. -/
def zeroExt (bs : List Byte) : DWord := BitVec.ofNat 64 (leNat bs)
def signExt (bs : List Byte) : DWord :=
  (BitVec.ofInt 32 (if 2 * leNat bs < 2 ^ (8 * bs.length) then leNat bs else leNat bs - 2 ^ (8 * bs.length))).setWidth 64

/-- The loads of the performing threads read later (R220; log 7). -/
def Ctx.ReadsLater (c : Ctx) (s : State) (r : Order) : Prop :=
  s.relaxed = true ∧ r = .rlx ∧ c.launch.repro = false ∧ c.path.priv = false ∧ ∀ t ∈ c.perf, c.path.defer.getLsbD t = true

/-- What a load of `n` bytes that reads later will make of its bytes. -/
def Extends (n : Nat) (f : List Byte → DWord) (signed : Bool) : Prop :=
  ∀ bs : List Byte, bs.length = n → f bs = if n = 8 then BitVec.ofNat 64 (leNat bs) else (extend signed bs).setWidth 64

/-- The rows of scratchpad loads: destination, base, offset, bytes, 64-bit result, scope, order, value. -/
inductive SpLoadRow : Instr → VDst → VOp → Nat → Nat → Bool → Scope → Order → (List Byte → DWord) → Prop where
  | ldSU8 (d : VDst) (b : VOp) (o : BitVec 6) (m : Scope) (r : Order) :
      SpLoadRow (.ldSU8 d b o m r) d b (1 * o.toNat) 1 false m r zeroExt
  | ldSI8 (d : VDst) (b : VOp) (o : BitVec 6) (m : Scope) (r : Order) :
      SpLoadRow (.ldSI8 d b o m r) d b (1 * o.toNat) 1 false m r signExt
  | ldSU16 (d : VDst) (b : VOp) (o : BitVec 6) (m : Scope) (r : Order) :
      SpLoadRow (.ldSU16 d b o m r) d b (2 * o.toNat) 2 false m r zeroExt
  | ldSI16 (d : VDst) (b : VOp) (o : BitVec 6) (m : Scope) (r : Order) :
      SpLoadRow (.ldSI16 d b o m r) d b (2 * o.toNat) 2 false m r signExt
  | ldS (d : VDst) (b : VOp) (o : BitVec 6) (m : Scope) (r : Order) :
      SpLoadRow (.ldS d b o m r) d b (4 * o.toNat) 4 false m r zeroExt
  | ldSB64 (d : VDst) (b : VOp) (o : BitVec 6) (m : Scope) (r : Order) :
      SpLoadRow (.ldSB64 d b o m r) d b (8 * o.toNat) 8 true m r zeroExt

/-- The rows of global loads: destination, base, offset, bytes, 64-bit result, scope, order, value. -/
inductive GlLoadRow : Instr → VDst → VOp → Nat → Nat → Bool → Scope → Order → (List Byte → DWord) → Prop where
  | ldGU8 (d : VDst) (b : VOp) (o : BitVec 6) (m : Scope) (r : Order) :
      GlLoadRow (.ldGU8 d b o m r) d b (1 * o.toNat) 1 false m r zeroExt
  | ldGI8 (d : VDst) (b : VOp) (o : BitVec 6) (m : Scope) (r : Order) :
      GlLoadRow (.ldGI8 d b o m r) d b (1 * o.toNat) 1 false m r signExt
  | ldGU16 (d : VDst) (b : VOp) (o : BitVec 6) (m : Scope) (r : Order) :
      GlLoadRow (.ldGU16 d b o m r) d b (2 * o.toNat) 2 false m r zeroExt
  | ldGI16 (d : VDst) (b : VOp) (o : BitVec 6) (m : Scope) (r : Order) :
      GlLoadRow (.ldGI16 d b o m r) d b (2 * o.toNat) 2 false m r signExt
  | ldG (d : VDst) (b : VOp) (o : BitVec 6) (m : Scope) (r : Order) :
      GlLoadRow (.ldG d b o m r) d b (4 * o.toNat) 4 false m r zeroExt
  | ldGB64 (d : VDst) (b : VOp) (o : BitVec 6) (m : Scope) (r : Order) :
      GlLoadRow (.ldGB64 d b o m r) d b (8 * o.toNat) 8 true m r zeroExt

/-! ### Stores (R161, R162, R169) -/

/-- The low `n` bytes of an operand in thread `t`. -/
def Ctx.low (c : Ctx) (d : VOp) (n t : Nat) : List Byte := leBytes n (if n = 8 then (c.v64 t d).toNat else (c.v32 t d).toNat)

/-- The eight registers from `d` on, as 32 bytes. -/
def Ctx.row (c : Ctx) (d : VDst) (t : Nat) : List Byte := (List.range 8).flatMap fun i => leBytes 4 (c.v32 t (srcOf (upReg i d))).toNat

/-- The rows of scratchpad stores: data, base, offset, bytes, scope, order. -/
inductive SpStoreRow : Instr → VOp → VOp → Nat → Nat → Scope → Order → Prop where
  | stSB8 (d b : VOp) (o : BitVec 6) (m : Scope) (r : Order) : SpStoreRow (.stSB8 d b o m r) d b (1 * o.toNat) 1 m r
  | stSB16 (d b : VOp) (o : BitVec 6) (m : Scope) (r : Order) : SpStoreRow (.stSB16 d b o m r) d b (2 * o.toNat) 2 m r
  | stS (d b : VOp) (o : BitVec 6) (m : Scope) (r : Order) : SpStoreRow (.stS d b o m r) d b (4 * o.toNat) 4 m r
  | stSB64 (d b : VOp) (o : BitVec 6) (m : Scope) (r : Order) : SpStoreRow (.stSB64 d b o m r) d b (8 * o.toNat) 8 m r

/-- The rows of global stores: data, base, offset, bytes, scope, order. -/
inductive GlStoreRow : Instr → VOp → VOp → Nat → Nat → Scope → Order → Prop where
  | stGB8 (d b : VOp) (o : BitVec 6) (m : Scope) (r : Order) : GlStoreRow (.stGB8 d b o m r) d b (1 * o.toNat) 1 m r
  | stGB16 (d b : VOp) (o : BitVec 6) (m : Scope) (r : Order) : GlStoreRow (.stGB16 d b o m r) d b (2 * o.toNat) 2 m r
  | stG (d b : VOp) (o : BitVec 6) (m : Scope) (r : Order) : GlStoreRow (.stG d b o m r) d b (4 * o.toNat) 4 m r
  | stGB64 (d b : VOp) (o : BitVec 6) (m : Scope) (r : Order) : GlStoreRow (.stGB64 d b o m r) d b (8 * o.toNat) 8 m r

/-- Stores of threads to global addresses, one after the other, each translated when it is made: the memory they leave, and
where each went. -/
def State.stores (s : State) (c : Ctx) (ea : Nat → Nat) (data : Nat → List Byte) : List Nat → Option (State × List (Phys × List Byte))
  | [] => some (s, [])
  | t :: ts =>
    match s.translate c.group.die c.launch.ctx c.path.priv .store (ea t) (data t).length with
    | .ok p => ((s.physWrite p (data t)).stores c ea data ts).map fun r => (r.1, (p, data t) :: r.2)
    | .error _ => none

/-- Threads in the order of tile rows: by address, then by number (R162). -/
def InOrder (ea : Nat → Nat) (ts us : List Nat) : Prop :=
  us.Perm ts ∧ us.Pairwise fun t u => ea t < ea u ∨ (ea t = ea u ∧ t < u)

/-- Registers after tile row loads: register `d + i` holds bytes 4i to 4i + 3 of the thread's row. -/
def WroteRow (c c' : Ctx) (d : VDst) (ts : List Nat) (row : Nat → List Byte) : Prop :=
  let word (j i : Nat) : Word := BitVec.ofNat 32 (leNat (((row j).drop (4 * i)).take 4))
  (∀ (k : Fin 96) (j : Nat), c'.wreg k j =
    match (List.range 8).find? fun i => upReg i d == .w k with
    | some i => if j ∈ ts ∧ (c.path.priv = false ∨ k.val < 16) then word j i else c.wreg k j
    | none => c.wreg k j)
  ∧ ∀ (k : Fin 8) (j : Nat), c'.oreg k j =
    match (List.range 8).find? fun i => upReg i d == .o k with
    | some i => if j ∈ ts then word j i else c.oreg k j
    | none => c.oreg k j

/-! ### Atomics (R163 to R165) -/

/-- The new value at a location (R164), up to the bits above its width. -/
def atomValue (wide : Bool) (op : AtomOp) (old a b : DWord) : Nat :=
  let n := if wide then 64 else 32
  let u (x : DWord) : Nat := x.toNat % 2 ^ n
  let i (x : DWord) : Int := if 2 * u x < 2 ^ n then u x else u x - 2 ^ n
  match op with
  | .add => (u old + u a) % 2 ^ n
  | .minI => if i a < i old then u a else u old
  | .maxI => if i old < i a then u a else u old
  | .minU => min (u old) (u a)
  | .maxU => max (u old) (u a)
  | .and => u old &&& u a
  | .or => u old ||| u a
  | .xor => u old ^^^ u a
  | .exch => u a
  | .cas => if u old = u a then u b else u old
  | .fadd => (roundWord fp32 .rne ((f32Val (old.setWidth 32)).add false (f32Val (a.setWidth 32)))).toNat

/-- Operands of an atomic in thread `t` (R163): the value, or compare and new value. -/
def Ctx.atomOps (c : Ctx) (d : VDst) (wide : Bool) (t : Nat) : DWord × DWord :=
  if wide then (c.v64 t (srcOf d), c.v64 t (srcOf (upReg 2 d)))
  else ((c.v32 t (srcOf d)).setWidth 64, (c.v32 t (srcOf (upReg 1 d))).setWidth 64)

/-- Registers that an atomic reads beside its base. -/
def atomReads (d : VDst) (wide : Bool) (op : AtomOp) : List Src :=
  ⟨srcOf d, wide⟩ :: if op = .cas then [⟨srcOf (upReg (if wide then 2 else 1) d), wide⟩] else []

/-- Each thread's read-modify-write of `n` bytes of scratchpad, in the order given: what is left, and the old values. -/
def State.spAtoms (s : State) (p : Nat → SpPlace) (n : Nat) (new : Nat → DWord → Nat) : List Nat → State × (Nat → DWord)
  | [] => (s, fun _ => 0)
  | t :: ts =>
    let old : DWord := BitVec.ofNat 64 (leNat (s.spRead (p t) n))
    let r := (s.spWrite (p t) (leBytes n (new t old))).spAtoms p n new ts
    (r.1, fun j => if j = t then old else r.2 j)

/-- The same in global memory, each address translated when it is reached; `far` says that host and peer memory allow it. -/
def State.glAtoms (s : State) (c : Ctx) (ea : Nat → Nat) (n : Nat) (far : Bool) (new : Nat → DWord → Nat) :
    List Nat → Option (State × List (Phys × List Byte) × (Nat → DWord))
  | [] => some (s, [], fun _ => 0)
  | t :: ts =>
    match s.translate c.group.die c.launch.ctx c.path.priv .atomic (ea t) n with
    | .error _ => none
    | .ok p =>
      if (p.space ≠ .dev ∧ far = false) ∨ s.physBad p n = true then none
      else
        let old : DWord := BitVec.ofNat 64 (leNat (s.physRead p n))
        let bs := leBytes n (new t old)
        ((s.physWrite p bs).glAtoms c ea n far new ts).map fun r => (r.1, (p, bs) :: r.2.1, fun j => if j = t then old else r.2.2 j)

/-- The threads of a word in a reproducible launch, each with the state that it finds: those before it have put their entries
into the commit buffer of the wave (R232). -/
def State.turns (s : State) (c : Ctx) (e : State → Nat → CEntry) : List Nat → List (Nat × State)
  | [] => []
  | t :: ts =>
    (t, s) :: (s.modWave c.ref.group c.ref.wix fun w => { w with cbuf := w.cbuf ++ [e s t] }).turns c e ts

/-- The value of a location as thread `t` of the wave sees it. -/
def State.valueAt (s : State) (c : Ctx) (t : Nat) (p : Phys) (n : Nat) : DWord := BitVec.ofNat 64 (leNat (s.view c t p n))

/-- The values that the threads find in their turns. -/
def oldIn (xs : List (Nat × State)) (f : State → Nat → DWord) (j : Nat) : DWord :=
  match xs.find? fun x => x.1 == j with
  | some x => f x.2 j
  | none => 0

/-- Excluded from host and peer memory (R164, R393): a thread posts a fault record with `STATUS` 2 and traps with PERM. -/
def State.Excludes (s : State) (c : Ctx) (t : Nat) (va : DWord) (v : State) : Prop :=
  ∃ x u f, x.cause = 2 ∧ s.postFault c.group.die ⟨va, c.launch.ctx, .atomic, x, c.group.core, c.wave.wslot, BitVec.twoPow 32 t, true⟩
      = (u, f)
    ∧ v = u.takeTrap c { cause := .perm, perf := true, part := true, mask := maskOf [t], own := [(t, 0x07)], refs := [(t, f)], addr := va }

/-- The rows of scratchpad and of global atomics. -/
inductive SpAtomRow : Instr → VDst → VOp → AtomOp → Bool → Scope → Order → Prop where
  | atomS (d : VDst) (b : VOp) (o : AtomOp) (m : Scope) (r : Order) : SpAtomRow (.atomS d b o m r) d b o false m r
  | atomSB64 (d : VDst) (b : VOp) (o : AtomOp) (m : Scope) (r : Order) : SpAtomRow (.atomSB64 d b o m r) d b o true m r

inductive GlAtomRow : Instr → VDst → VOp → AtomOp → Bool → Scope → Order → Prop where
  | atomG (d : VDst) (b : VOp) (o : AtomOp) (m : Scope) (r : Order) : GlAtomRow (.atomG d b o m r) d b o false m r
  | atomGB64 (d : VDst) (b : VOp) (o : AtomOp) (m : Scope) (r : Order) : GlAtomRow (.atomGB64 d b o m r) d b o true m r

/-- Tile state words (R320): the row, its operand, and the word after it. -/
inductive TileMarkRow : Instr → VOp → (DWord → Nat) → Prop where
  | full (a : VOp) : TileMarkRow (.tmarkFull a) a fun v => (v ||| 1).toNat
  | empty (a : VOp) : TileMarkRow (.tmarkEmpty a) a fun v =>
      if v.getLsbD 0 then (v.toNat - 1 + 2 ^ 32) % 2 ^ 64 else v.toNat

end Sys2Proof.Machine
end

