-- ==== Sys2Proof/Safety/Flow.lean ====
section
/-! DEFINITION. Control words in the terms of claims: which rows transfer threads, where to, and what a split leaves behind
(R36, R44, R50, R51, R53, R54, R118 to R126). -/

namespace Sys2Proof.Machine

/-- The target of a B-format word (R36): the fetch block of the word, and a signed number of blocks from there. -/
def Ctx.blockAt (c : Ctx) (x : BitVec 21) : DWord := BitVec.ofInt 64 ((c.path.pc.toNat / 64 * 64 : Nat) + 64 * x.toInt)

/-- R44 holds in these threads once their window base has moved by `k`. -/
def Ctx.WindowFits (c : Ctx) (k : Nat → Int) (ts : List Nat) : Prop :=
  ∀ t ∈ ts,
    let wb : Int := (c.wave.wb.get t).toNat + k t
    let sb : Int := (c.wave.sb.get t).toNat
    0 ≤ wb ∧ sb ≤ wb ∧ wb + 96 ≤ sb + c.wave.seg ∧ wb + 96 ≤ c.launch.d

/-- The threads agree on a 64-bit operand. -/
def Ctx.Agree (c : Ctx) (ts : List Nat) (a : VOp) : Prop := ∀ t ∈ ts, ∀ u ∈ ts, c.v64 t a = c.v64 u a

/-- The operand of the lowest thread. -/
def Ctx.firstOf (c : Ctx) (a : VOp) : DWord := c.v64 (c.perf.headD 0) a

/-- The threads that `bru` looks at and its condition in one of them (R122). -/
def Ctx.bruHolds (c : Ctx) (e : Bool) (p : Fin 8) (t : Nat) : Bool := guardIn c.wave c.path.seq.guard t && (c.wave.preg p t != e)

/-- The rows that transfer threads (R120 to R124): when they do not trap, where to, which threads, and what else they change
in the wave. -/
inductive TransferRow : Instr → (Ctx → Prop) → (Ctx → DWord) → (Ctx → List Nat) → (Ctx → Wave → Wave) → Prop where
  | bra (e : Bool) (p : Fin 8) (x : BitVec 21) :
      TransferRow (.bra e p x) (fun c => c.path.mask ≠ 0) (fun c => c.blockAt x)
        (fun c => c.perf.filter fun t => c.wave.preg p t != e) fun _ w => w
  | bru (e : Bool) (p : Fin 8) (x : BitVec 21) :
      TransferRow (.bru e p x)
        (fun c => c.path.mask ≠ 0 ∧ ∀ t ∈ ixs c.path.mask, ∀ u ∈ ixs c.path.mask, c.bruHolds e p t = c.bruHolds e p u)
        (fun c => c.blockAt x) (fun c => (ixs c.path.mask).filter (c.bruHolds e p)) fun _ w => w
  | jmpi (a : VOp) :
      TransferRow (.jmpi a)
        (fun c => c.Readable c.perf [⟨a, true⟩] ∧ c.Agree c.perf a
          ∧ (c.perf ≠ [] → (c.firstOf a).extractLsb' 0 6 = 0))
        (fun c => c.firstOf a) (fun c => c.perf) fun _ w => w
  | call (x : BitVec 21) :
      TransferRow (.call x) (fun c => c.path.priv = false ∧ c.WindowFits (fun _ => 32) c.perf)
        (fun c => c.blockAt x) (fun c => c.perf)
        fun c w => (w.link (c.path.pc + 4) c.perf).slide (fun _ => 32) c.perf
  | calli (a : VOp) :
      TransferRow (.calli a)
        (fun c => c.path.priv = false ∧ c.Readable c.perf [⟨a, true⟩] ∧ c.Agree c.perf a
          ∧ (c.perf ≠ [] → (c.firstOf a).extractLsb' 0 6 = 0) ∧ c.WindowFits (fun _ => 32) c.perf)
        (fun c => c.firstOf a) (fun c => c.perf)
        fun c w => (w.link (c.path.pc + 4) c.perf).slide (fun _ => 32) c.perf
  | ret :
      TransferRow .ret
        (fun c => c.path.priv = false ∧ c.WindowFits (fun _ => -32) c.perf ∧ c.Readable (c.perf.take 1) [⟨.o 6, true⟩])
        (fun c => c.firstOf (.o 6) &&& ~~~(3 : DWord)) (fun c => c.perf) fun c w => w.slide (fun _ => -32) c.perf

/-- The path that stays behind at a split, at the next word (R50, R53). -/
def Ctx.stays (c : Ctx) (ts : Mask) : Path :=
  { c.path with
    pc := c.path.pc + 4, mask := c.path.mask &&& ~~~ts, split := some (c.wave.splitNo, false), marks := 0, latch := [],
    fill := [], seq := Seq.empty, wait := .none, replay := none, failed := [], counted := 0, late := [], faulted := []
    only := none, defer := 0, deadline := none, run := none }

/-- The taken path of a split (R50, R53). -/
def Ctx.leaves (c : Ctx) (ts : Mask) (target : DWord) : Path :=
  { c.stays ts with pc := target, mask := ts, split := some (c.wave.splitNo, true), since := 0 }

/-- A split of the path of `c` by threads `ts`, `w` giving what the word changes besides; `q` is what becomes of the other slot. -/
structure SplitOff (c : Ctx) (w : Wave → Wave) (ts : Mask) (q : Option Path) (t : State) (c' : Ctx) : Prop where
  ctx     : t.ctxAt c.ref = some c'
  path    : c'.path = c.stays ts
  other   : c'.wave.path? (!c.ref.slot) = q
  opened  : c'.wave.splits = ⟨c.wave.splitNo, c.path.split, c.path.fmt, c.path.marks, false⟩ :: c.wave.splits
  number  : c'.wave.splitNo = (c.wave.splitNo + 1) % 2 ^ 16
  regs    : (c'.wave.w, c'.wave.o, c'.wave.p, c'.wave.wb, c'.wave.sb) =
              ((w c.wave).w, (w c.wave).o, (w c.wave).p, (w c.wave).wb, (w c.wave).sb)
  wave    : { c'.wave with
              path0 := c.wave.path0, path1 := c.wave.path1, splits := c.wave.splits, splitNo := c.wave.splitNo
              w := c.wave.w, o := c.wave.o, p := c.wave.p, wb := c.wave.wb, sb := c.wave.sb, bad := c.wave.bad
              retired := c.wave.retired, ati := c.wave.ati, qinstr := c.wave.qinstr, done := c.wave.done } = c.wave
  counts  : (c'.wave.retired, c'.wave.qinstr, c'.wave.ati) = if c.path.priv then (c.wave.retired, c.wave.qinstr, c.wave.ati)
              else (c.wave.retired + 1, c.wave.qinstr + 1, c.wave.ati + max 1 (c.perf.length + c.path.counted))
  done    : ∀ j, c'.wave.done.get j = if c.path.priv = false ∧ j ∈ c.perf then c.wave.done.get j + 1 else c.wave.done.get j

/-! ### Joining (R51, R54) -/

/-- The merge of two sides of a split `e` (R51): the union of their threads, the not-taken side's registers but for those
that only the taken side has written, the formats of the split. -/
structure Merged (e : Split) (n t p : Path) : Prop where
  mask  : p.mask = n.mask ||| t.mask
  split : p.split = e.outer
  fmt   : p.fmt = e.fmt
  marks : p.marks = if e.outer = none then 0 else e.marks ||| n.marks ||| t.marks
  s     : ∀ k < 64, p.s.get k = if t.marks.getLsbD k = true ∧ n.marks.getLsbD k = false then t.s.get k else n.s.get k
  latch : p.latch = [] ∧ p.fill = []
  free  : p.wait = .none ∧ p.seq = Seq.empty

/-- Both sides have written one uniform register, with different values (R51). -/
def Conflict (n t : Path) : Prop := ∃ k < 64, n.marks.getLsbD k = true ∧ t.marks.getLsbD k = true ∧ n.s.get k ≠ t.s.get k

/-! ### Words that need only their own operands -/

/-- An operand of one value for the path (R131): its reader is thread 0, the lowest active thread otherwise. -/
def Ctx.oneReader (c : Ctx) : VOp → Nat
  | .s _ => 0
  | .z => 0
  | .imm => 0
  | _ => (ixs c.path.mask).headD 0

/-- The threads that must agree on it. -/
def Ctx.readers (c : Ctx) : VOp → List Nat
  | .s _ => [0]
  | .z => [0]
  | .imm => [0]
  | _ => if ixs c.path.mask = [] then [0] else ixs c.path.mask

/-- The threads that no path and no record holds (R131). -/
def Ctx.unowned (c : Ctx) (t : Nat) : Bool :=
  decide (t < c.wave.threads) && !c.wave.exited.getLsbD t
  && !(match c.wave.path? !c.ref.slot with | some q => q.mask.getLsbD t | none => false)
  && !c.wave.stack.any fun h => h.mask.getLsbD t

/-! ### Privilege (R362, R365) -/

/-- The words of P1, and the one of P2, at which no wave runs. -/
inductive PrivRow (priv : Bool) : Instr → Prop where
  | csrr (d : SDst) (n : Csr) (h : priv = false) : PrivRow priv (.csrr d n)
  | csrw (n : Csr) (a : SOp) (h : priv = false) : PrivRow priv (.csrw n a)
  | tlbinv (a b : SOp) (h : priv = false) : PrivRow priv (.tlbinv a b)
  | tret (h : priv = false) : PrivRow priv .tret
  | tlbinvAll (a : SOp) : PrivRow priv (.tlbinvAll a)

/-- The words that trap with PRIV at P1 (R365). -/
inductive UserRow : Instr → Prop where
  | call (x : BitVec 21) : UserRow (.call x)
  | calli (a : VOp) : UserRow (.calli a)
  | ret : UserRow .ret
  | wbase (a : VOp) : UserRow (.wbase a)
  | give (a : COp) : UserRow (.give a)
  | claim (a : COp) : UserRow (.claim a)
  | bar : UserRow .bar
  | barN (a : COp) : UserRow (.barN a)
  | bbar : UserRow .bbar
  | copyG2s (d a b : VOp) : UserRow (.copyG2s d a b)
  | copyS2g (d a b : VOp) : UserRow (.copyS2g d a b)
  | copyS2s (d a b : VOp) : UserRow (.copyS2s d a b)
  | copyG2g (d a b : VOp) : UserRow (.copyG2g d a b)
  | copyG2sMc (d a b : VOp) : UserRow (.copyG2sMc d a b)
  | copyS2sMc (d a b : VOp) : UserRow (.copyS2sMc d a b)
  | mma (d : BitVec 7) (a b : SOp) : UserRow (.mma d a b)
  | mmaBf16 (d : BitVec 7) (a b : SOp) : UserRow (.mmaBf16 d a b)
  | mmaF16 (d : BitVec 7) (a b : SOp) : UserRow (.mmaF16 d a b)
  | mmaSq (d : BitVec 7) (k : Fin 4) (b : SOp) : UserRow (.mmaSq d k b)
  | aclr (d : BitVec 7) : UserRow (.aclr d)
  | ald (d : BitVec 7) (a b : SOp) : UserRow (.ald d a b)
  | ast (d : BitVec 7) (a b : SOp) : UserRow (.ast d a b)
  | ascale (d : BitVec 7) (a : SOp) : UserRow (.ascale d a)
  | aexp (d : BitVec 7) (a : SDst) : UserRow (.aexp d a)
  | hprobe (a b : VOp) : UserRow (.hprobe a b)
  | hins (a b : VOp) : UserRow (.hins a b)
  | hdel (a b : VOp) (scan : Bool) : UserRow (.hdel a b scan)
  | hrehash (a b : VOp) : UserRow (.hrehash a b)
  | hsetBind (a b : VOp) : UserRow (.hsetBind a b)
  | hsetBindClear (a b : VOp) : UserRow (.hsetBindClear a b)
  | hsetUnbind (a b : VOp) : UserRow (.hsetUnbind a b)
  | hsetStatus (a b : VOp) : UserRow (.hsetStatus a b)
  | gtopk (a b : VOp) (o e : Bool) (m : MergeKind) (u : Bool) : UserRow (.gtopk a b o e m u)
  | ghist (a b : VOp) (w n : Bool) : UserRow (.ghist a b w n)
  | gscan (a b : VOp) (t f n : Bool) : UserRow (.gscan a b t f n)
  | gperm (a b : VOp) (o : Bool) : UserRow (.gperm a b o)

end Sys2Proof.Machine
end

