-- ==== Sys2Proof/Safety/Queues.lean ====
section
/-! DEFINITION. The rows that put work into the queues of the engines, and the words of streams, the power words and the format
registers: when they do not trap, and what they leave (R175, R189, R227, R251, R252, R254, R260, R280, R287, R288, R396). -/

namespace Sys2Proof.Machine

/-- A cluster range that passes its checks (R142 to R145). -/
def State.SpOk (s : State) (c : Ctx) (r : Range) : Prop := ∃ p, s.spPlace c.group r.1 r.2.1 r.2.2 = .ok p

/-- The trap of R252 stays away: the launch's producer copies. -/
def Ctx.Producer (c : Ctx) : Prop := c.launch.proden = true ∧ c.wave.role = c.launch.prodrole

/-! ### Matrix words (R188, R189, R193) -/

/-- Formats that an MMA form takes at a granted K (R189). -/
def MmaFormats (kg : Nat) (fa fb : Word) : Prop :=
  fmtW fa ≠ 11 ∧ fmtW fb ≠ 11 ∧ (kg = 128 → fmtBits fa ≤ 8 ∧ fmtBits fb ≤ 8) ∧ (kg < 32 → fmtScale fa ≠ 1 ∧ fmtScale fb ≠ 1)

/-- An operand of an MMA form: aligned, and its range reaches scratchpad (R185). -/
def State.MmaOperand (s : State) (c : Ctx) (a : SOp) (f : Word) (rows : Nat) : Prop :=
  (c.s32 a).toNat % 32 = 0
  ∧ s.matFail c (c.s32 a).toNat (elemBytes f rows c.wave.mcfg.2.2 + scaleBytes f rows c.wave.mcfg.2.2) = none

/-- What `mma.sq` checks of its stream (R189). -/
def Ctx.MmaStream (c : Ctx) (k : Fin 4) : Prop :=
  let x := c.wave.stream k.val
  fmtScale (c.fmt 0) = 0 ∧ x.opened = true ∧ sdRowb x.desc * 8 = c.wave.mcfg.2.2 * fmtBits (c.fmt 0)
  ∧ ∀ e ∈ x.fifo.head?, e.popped = 0

/-- What `ald` and `ast` check (R195): the pitch, the address, the rows that the active threads own. -/
def State.RowsReach (s : State) (c : Ctx) (a b : Word) : Prop :=
  fmtScale (c.fmt 2) ≠ 2 ∧ b.toNat < 2 ^ 16 ∧ b.toNat % 8 = 0 ∧ rowLen (c.fmt 2) ≤ b.toNat ∧ a.toNat % 8 = 0
  ∧ ∀ r ∈ ownedRows c.path.active, s.matFail c (rowAddr a b.toNat r) (rowLen (c.fmt 2)) = none

/-- The matrix rows: what they read, when they do not trap, and the entry they queue at a step `tick`. -/
inductive MatrixRow : Instr → BitVec 7 → List (SOp × Bool) → (State → Ctx → Prop) → (Nat → Ctx → MatOp) → Prop where
  | mma (d : BitVec 7) (a b : SOp) : MatrixRow (.mma d a b) d [(a, false), (b, false)]
      (fun s c => MmaFormats c.wave.mcfg.2.2 (c.fmt 0) (c.fmt 1) ∧ s.MmaOperand c a (c.fmt 0) c.wave.mcfg.1
        ∧ s.MmaOperand c b (c.fmt 1) c.wave.mcfg.2.1)
      fun k c => c.newOp k (.mma none) d (c.s32 a) (c.s32 b) (c.fmt 0) (c.fmt 1)
        (mmaCycles c.wave.mcfg.1 c.wave.mcfg.2.1 c.wave.mcfg.2.2 (c.fmt 0) (c.fmt 1))
  | mmaBf16 (d : BitVec 7) (a b : SOp) : MatrixRow (.mmaBf16 d a b) d [(a, false), (b, false)]
      (fun s c => MmaFormats c.wave.mcfg.2.2 10 10 ∧ s.MmaOperand c a 10 c.wave.mcfg.1 ∧ s.MmaOperand c b 10 c.wave.mcfg.2.1)
      fun k c => c.newOp k (.mma none) d (c.s32 a) (c.s32 b) 10 10
        (mmaCycles c.wave.mcfg.1 c.wave.mcfg.2.1 c.wave.mcfg.2.2 10 10)
  | mmaF16 (d : BitVec 7) (a b : SOp) : MatrixRow (.mmaF16 d a b) d [(a, false), (b, false)]
      (fun s c => MmaFormats c.wave.mcfg.2.2 9 9 ∧ s.MmaOperand c a 9 c.wave.mcfg.1 ∧ s.MmaOperand c b 9 c.wave.mcfg.2.1)
      fun k c => c.newOp k (.mma none) d (c.s32 a) (c.s32 b) 9 9
        (mmaCycles c.wave.mcfg.1 c.wave.mcfg.2.1 c.wave.mcfg.2.2 9 9)
  | mmaSq (d : BitVec 7) (q : Fin 4) (b : SOp) : MatrixRow (.mmaSq d q b) d [(b, false)]
      (fun s c => MmaFormats c.wave.mcfg.2.2 (c.fmt 0) (c.fmt 1) ∧ c.MmaStream q ∧ s.MmaOperand c b (c.fmt 1) c.wave.mcfg.2.1)
      fun k c => c.newOp k (.mma (some q)) d 0 (c.s32 b) (c.fmt 0) (c.fmt 1)
        (mmaCycles c.wave.mcfg.1 c.wave.mcfg.2.1 c.wave.mcfg.2.2 (c.fmt 0) (c.fmt 1))
  | aclr (d : BitVec 7) : MatrixRow (.aclr d) d [] (fun _ _ => True) fun k c => c.newOp k .aclr d 0 0 0 0 0
  | ald (d : BitVec 7) (a b : SOp) : MatrixRow (.ald d a b) d [(a, false), (b, false)]
      (fun s c => s.RowsReach c (c.s32 a) (c.s32 b)) fun k c => c.newOp k .ald d (c.s32 a) (c.s32 b) 0 0 0
  | ast (d : BitVec 7) (a b : SOp) : MatrixRow (.ast d a b) d [(a, false), (b, false)]
      (fun s c => s.RowsReach c (c.s32 a) (c.s32 b)) fun k c => c.newOp k .ast d (c.s32 a) (c.s32 b) 0 0 0
  | ascale (d : BitVec 7) (a : SOp) : MatrixRow (.ascale d a) d [(a, false)] (fun _ _ => True)
      fun k c => c.newOp k .ascale d (c.s32 a) 0 0 0 0
  | aexp (d : BitVec 7) (a : SDst) : MatrixRow (.aexp d a) d [] (fun _ _ => True)
      fun k c => { c.newOp k .aexp d 0 0 0 0 0 with dst := a }

/-! ### Copies and fabric operations (R251, R252, R254, R396) -/

/-- An address of a copy in thread `t`: 64 bits, or a cluster address of 32. -/
def Ctx.addrOf (c : Ctx) (sp : Bool) (a : VOp) (t : Nat) : Nat := if sp then (c.v32 t a).toNat else (c.v64 t a).toNat

/-- The operand of length and sync word (R252): at most 2^24 − 1 bytes, the three bits beside the sync bit 0. -/
def Ctx.LengthOk (c : Ctx) (b : VOp) : Prop := ∀ t ∈ c.perf, c.copyLen b t < 2 ^ 24 ∧ (c.v64 t b).extractLsb' 33 3 = 0

/-- Ranges in the aperture are aligned (R252). -/
def WordAligned (rs : List Range) : Prop := ∀ r ∈ rs, inAperture r.2.1 = true → r.2.1 % 4 = 0 ∧ r.2.2 % 4 = 0

/-- The copies with one destination: the kind, and whether destination and source are cluster addresses. -/
inductive CopyRow : Instr → CopyKind → Bool → Bool → VOp → VOp → VOp → Prop where
  | copyG2s (d a b : VOp) : CopyRow (.copyG2s d a b) .g2s true false d a b
  | copyS2g (d a b : VOp) : CopyRow (.copyS2g d a b) .s2g false true d a b
  | copyS2s (d a b : VOp) : CopyRow (.copyS2s d a b) .s2s true true d a b
  | copyG2g (d a b : VOp) : CopyRow (.copyG2g d a b) .g2g false false d a b

/-- The scratchpad ranges of such a copy, without and with its sync word. -/
def Ctx.copyRanges (c : Ctx) (spD spA : Bool) (d a b : VOp) (t : Nat) : List Range :=
  spRanges spD (c.addrOf spD d t) (c.copyLen b t) ++ spRanges spA (c.addrOf spA a t) (c.copyLen b t)

/-- Multicast copies: the kind, and whether the source is a cluster address. -/
inductive MulticastRow : Instr → CopyKind → Bool → VOp → VOp → VOp → Prop where
  | copyG2sMc (d a b : VOp) : MulticastRow (.copyG2sMc d a b) .g2sMc false d a b
  | copyS2sMc (d a b : VOp) : MulticastRow (.copyS2sMc d a b) .s2sMc true d a b

/-- Fabric words: the kind and the link. -/
inductive FabricRow : Instr → FabKind → VOp → VOp → BitVec 4 → Prop where
  | put (a b : VOp) (q : BitVec 4) (r : Bool) : FabricRow (.put a b q r) .put a b q
  | get (a b : VOp) (q : BitVec 4) : FabricRow (.get a b q) .get a b q
  | send (a b : VOp) (q : BitVec 4) (r : Bool) : FabricRow (.send a b q r) .send a b q

/-- The descriptor of a fabric word in thread `t`, as scratchpad holds it. -/
def State.fabAt (s : State) (c : Ctx) (a : VOp) (t : Nat) : BitVec 256 :=
  fabDesc (s.spReadAt c t (c.v32 t a).toNat 32)

/-- The checks of R396 for thread `t` of a fabric word. -/
def State.FabricOk (s : State) (c : Ctx) (k : FabKind) (a b : VOp) (t : Nat) : Prop :=
  let ea := (c.v32 t a).toNat
  let v := s.fabAt c a t
  let o := (c.v32 t b).toNat
  ea % 32 = 0 ∧ (∃ p, s.spPlace c.group false ea 32 = .ok p ∧ s.spPlace c.group true ea 32 = .ok p ∧ s.spBad p 32 = false ∧ s.netFails c ea = false)
  ∧ (k = .send → fabLen v + o < 2 ^ 24) ∧ fabBad k v o = false
  ∧ (∀ r ∈ spRanges (fabLsp v) (fabLocal v o).toNat (fabLen v), s.SpOk c r)
  ∧ (k = .get → ∀ r ∈ syncRanges (fabSync v), s.SpOk c r)

/-- The queue of copies after operations `op` of the threads: in ascending threads, those that move a byte, each in its
thread's open batch (R252, R257). -/
def copyQueue (w : Wave) (ts : List Nat) (op : Nat → CopyOp) : List CopyOp :=
  w.cq ++ ((ts.map op).filter fun o => o.n != 0).map fun o => { o with batch := (w.batch.get o.thread).toNat }

/-! ### HRU and gate words (R280, R281, R287, R288) -/

/-- The selector, and the low word beside it, of an HRU operand in thread `t`. -/
def Ctx.selOf (c : Ctx) (wide : Bool) (b : VOp) (t : Nat) : Word := if wide then (c.v64 t b).extractLsb' 32 32 else c.v32 t b
def Ctx.lowOf (c : Ctx) (wide : Bool) (b : VOp) (t : Nat) : Word := if wide then (c.v64 t b).extractLsb' 0 32 else 0
/-- The capacity in a selector. -/
def selCap (sel : Word) : Nat := (sel.extractLsb' 18 14).toNat

/-- The HRU rows: the kind, whether b is a pair, whether a is an address, the alignment of the pair's low word, and whether the
capacity must be 0. -/
inductive HruRow : Instr → HKind → VOp → VOp → Bool → Bool → Nat → Bool → Prop where
  | hprobe (a b : VOp) : HruRow (.hprobe a b) .probe a b true true 16 false
  | hins (a b : VOp) : HruRow (.hins a b) .ins a b false false 1 true
  | hdel (a b : VOp) (scan : Bool) : HruRow (.hdel a b scan) (.del scan) a b false false 1 true
  | hrehash (a b : VOp) : HruRow (.hrehash a b) .rehash a b true false 4 true

/-- The checks of R280 for thread `t`. -/
def State.HruOk (s : State) (c : Ctx) (kind : HKind) (a b : VOp) (wide aAddr : Bool) (align : Nat) (res : Bool) (t : Nat) : Prop :=
  let sel := c.selOf wide b t
  let lo := (c.lowOf wide b t).toNat
  sel.extractLsb' 0 16 ≠ 0 ∧ (res = true → selCap sel = 0) ∧ (aAddr = false → c.v32 t a ≠ noRow)
  ∧ (aAddr = true → (c.v32 t a).toNat % 4 = 0 ∧ (c.v32 t a).toNat < 2 ^ 30) ∧ (wide = true → lo % align = 0 ∧ lo < 2 ^ 30)
  ∧ (∀ k ∈ selSlots sel, c.launch.hrumask.getLsbD k = true)
  ∧ (kind = .probe → s.SpOk c (false, lo, 16 + 4 * selCap sel))

/-- The rows of `hset` and their operation. -/
inductive HsetRow : Instr → Nat → VOp → VOp → Prop where
  | hsetBind (a b : VOp) : HsetRow (.hsetBind a b) 0 a b
  | hsetBindClear (a b : VOp) : HsetRow (.hsetBindClear a b) 1 a b
  | hsetUnbind (a b : VOp) : HsetRow (.hsetUnbind a b) 2 a b
  | hsetStatus (a b : VOp) : HsetRow (.hsetStatus a b) 3 a b

/-- The checks of R281 and R287: a table that the launch may use, and for a bind a descriptor that R266 takes. -/
def State.HsetOk (s : State) (c : Ctx) (op : Nat) (a b : VOp) (t : Nat) : Prop :=
  let ea := (c.v32 t a).toNat
  let v := BitVec.ofNat 512 (leNat (s.spReadAt c t ea 64))
  (c.v32 t b).toNat ≤ 63 ∧ c.launch.hrumask.getLsbD (c.v32 t b).toNat = true ∧ ea % 64 = 0 ∧ ea < 2 ^ 30
  ∧ (∃ p, s.spPlace c.group false ea 64 = .ok p ∧ s.spPlace c.group true ea 64 = .ok p ∧ (op ≤ 1 → s.spBad p 64 = false ∧ s.netFails c ea = false))
  ∧ (op ≤ 1 → tdValid v = true ∧ tdOvfinit v ≤ tdOvfn v)

/-- The gate rows and what they ask for. -/
inductive GateRow : Instr → GKind → VOp → VOp → Prop where
  | gtopk (a b : VOp) (o e : Bool) (m : MergeKind) (u : Bool) : GateRow (.gtopk a b o e m u) (.topk o e m u) a b
  | ghist (a b : VOp) (w n : Bool) : GateRow (.ghist a b w n) (.hist w n) a b
  | gscan (a b : VOp) (t f n : Bool) : GateRow (.gscan a b t f n) (.scan t f n) a b
  | gperm (a b : VOp) (o : Bool) : GateRow (.gperm a b o) (.perm o) a b

/-- The checks of R288 for thread `t`. -/
def State.GateOk (s : State) (c : Ctx) (k : GKind) (a b : VOp) (t : Nat) : Prop :=
  let ea := (c.v32 t a).toNat
  let lo := ((c.v64 t b).extractLsb' 0 32).toNat
  let hi : Word := (c.v64 t b).extractLsb' 32 32
  gateParam k hi = true ∧ ea % (gateAlign k).1 = 0 ∧ lo % (gateAlign k).2 = 0 ∧ ea < 2 ^ 30 ∧ lo < 2 ^ 30
  ∧ ∀ r ∈ gateRanges k ea lo hi, s.SpOk c r

/-- A word that the threads agree on. -/
def Ctx.Agree32 (c : Ctx) (ts : List Nat) (a : VOp) : Prop := ∀ t ∈ ts, ∀ u ∈ ts, c.v32 t a = c.v32 u a

/-! ### Barriers (R152 to R157, R203) -/

/-- The barrier rows: when they do not trap, and the barrier's number. -/
inductive BarrierRow : Instr → (Ctx → Prop) → (Ctx → Nat) → Prop where
  | bar : BarrierRow .bar (fun _ => True) fun _ => 0
  | barN (a : COp) : BarrierRow (.barN a)
      (fun c => (∀ k, a = .s k → c.goodS k.val = true) ∧ ((c.cnt a).toNat = 0 ∨ ((c.cnt a).toNat ≤ 8 ∧ c.wave.role + 1 = (c.cnt a).toNat)))
      fun c => (c.cnt a).toNat
  | bbar : BarrierRow .bbar (fun _ => True) fun _ => bandBar

end Sys2Proof.Machine
end

