-- ==== Sys2Proof/Safety/Events.lean ====
section
/-! DEFINITION. The steps that no instruction word makes, in the terms of claims: what stands at the head of an engine's queue,
and what its performance leaves behind and leaves alone (R175, R190 to R199, R253, R258, R275, R288). -/

namespace Sys2Proof.Machine

/-! ### What changes beside a wave -/

/-- Beside one wave, which is `v` afterwards, everything is as before. -/
structure BecameWave (w : WaveRef) (v : Wave) (s t : State) : Prop where
  rest   : { t with groups := s.groups } = s
  shells : t.shells = s.shells
  wave   : t.wave? w.group w.wix = some v
  waves  : ∀ g x, (g, x) ≠ (w.group, w.wix) → t.wave? g x = s.wave? g x

/-- Beside one wave, which is `v` afterwards, its group's count of lines may have grown. -/
structure AccessedWave (w : WaveRef) (v : Wave) (s t : State) : Prop where
  rest   : { t with groups := s.groups } = s
  groups : t.groups.map (bare w.group) = s.groups.map (bare w.group)
  wave   : t.wave? w.group w.wix = some v
  waves  : ∀ g x, (g, x) ≠ (w.group, w.wix) → t.wave? g x = s.wave? g x

/-- A group is not being dumped: its engines' errors go to their queues (R374). -/
def State.NoDump (s : State) (g : Group) : Prop := ∀ d ∈ (s.die g.die).dumps, d.group = g.id → d.halt = none

/-! ### The matrix queue -/

/-- The entry at the head of a wave's matrix queue, whose engine cycles have run, and the tile that it names. -/
structure MatHead (s : State) (w : WaveRef) (e : Eng) (op : MatOp) (r : List MatOp) (T : Tile) : Prop where
  eng   : s.eng w = some e
  queue : e.wave.mq = op :: r
  left  : op.left = 0
  begun : op.isMma = false → op.begun = true
  tile  : e.group.tiles[op.tile]? = some T

/-- A group without its waves, and one of them without its tiles. -/
def tileless (gid : Nat) (g : Group) : Group := if g.id = gid then { g with waves := [], tiles := [] } else { g with waves := [] }

/-- Beside one tile of its group, which is `U` afterwards, and one wave, which is `v`, everything is as before. -/
structure TileDone (w : WaveRef) (e : Eng) (i : Nat) (U : Tile) (v : Wave) (s t : State) : Prop where
  rest   : { t with groups := s.groups } = s
  groups : t.groups.map (tileless w.group) = s.groups.map (tileless w.group)
  tiles  : (t.group? w.group).map (fun g => g.tiles) = some (e.group.tiles.set i U)
  wave   : t.wave? w.group w.wix = some v
  waves  : ∀ g x, (g, x) ≠ (w.group, w.wix) → t.wave? g x = s.wave? g x

/-- The units of a row as an engine writes them: where each goes, and its bytes (R185). -/
def State.rowPlaces (s : State) (g : Group) (ea : Nat) (bs : List Byte) : List (SpPlace × List Byte) :=
  (List.range ((bs.length + 3) / 4)).filterMap fun i =>
    let u := (bs.drop (4 * i)).take 4
    (s.engPlace g (ea + 4 * i) u.length).map fun p => (p, u)

/-! ### The copy queue -/

/-- The operation at the head of a wave's copy queue, which waits on no fault record. -/
structure CopyHead (s : State) (w : WaveRef) (e : Eng) (op : CopyOp) (r : List CopyOp) : Prop where
  eng   : s.eng w = some e
  queue : e.wave.cq = op :: r
  fault : op.fault = none
  held  : s.NoneHeld ⟨w.group, w.wix, false⟩
  dump  : s.NoDump e.group

/-- Bytes of the next 32-byte sector at the destination (R253). -/
def CopyOp.sector (op : CopyOp) : Nat := min (op.n - op.done) (32 - (op.d.toNat + op.done) % 32)

/-- The wave after its operation has been given up with a cause (R253). -/
def Wave.gaveUp (w : Wave) (r : List CopyOp) (op : CopyOp) (cause : Nat) : Wave :=
  { w with cq := r, copyErr := w.copyErr ++ [⟨op.thread, cause, op.d, op.a, op.done⟩] }

/-! ### HRU and gate queues -/

/-- The request at the head of a wave's HRU queue, which waits on nothing and whose turn has come. -/
structure HruHead (s : State) (w : WaveRef) (e : Eng) (q : HReq) (r : List HReq) : Prop where
  eng   : s.eng w = some e
  queue : e.wave.hq = q :: r
  fault : q.fault = none
  due   : e.due = true
  free  : s.slotBusy e q = false
  dump  : s.NoDump e.group

/-- The request at the head of a wave's gate queue. -/
structure GateHead (s : State) (w : WaveRef) (e : Eng) (q : GReq) (r : List GReq) : Prop where
  eng   : s.eng w = some e
  queue : e.wave.gq = q :: r

/-- A step that changes memory, one wave and the lines of its group: memory is as in `u`. -/
structure MovedMemory (w : WaveRef) (v : Wave) (s u t : State) : Prop where
  rest   : { t with groups := s.groups, hru := s.hru, mem := s.mem, hostMem := s.hostMem, peerMem := s.peerMem, memBad := s.memBad } = s
  memory : (t.mem, t.hostMem, t.peerMem, t.memBad) = (u.mem, u.hostMem, u.peerMem, u.memBad)
  groups : t.groups.map (bare w.group) = s.groups.map (bare w.group)
  wave   : t.wave? w.group w.wix = some v
  waves  : ∀ g x, (g, x) ≠ (w.group, w.wix) → t.wave? g x = s.wave? g x

/-! ### Accesses that are performed apart from their words -/

/-- Held store `h`, the `k`th of a wave, may be performed: no earlier one touches its bytes, and rows stay in order (R162). -/
def Wave.Loose (v : Wave) (k : Nat) (h : Held) : Prop :=
  ∀ x ∈ v.held.take k, x.meets h = false ∧ ¬(x.bytes.length = 32 ∧ h.bytes.length = 32)

/-- The events that perform load `k` of a wave, which its path `c` has issued; `bs` is what the load reads now. -/
inductive LateRow (s : State) (w : WaveRef) (k : Nat) (x : Load) (c : Ctx) : Instr → List Byte → Prop where
  | globalAccessComplete (p : Phys) : s.ctxAt ⟨w.group, w.wix, x.slot⟩ = some c → x.target = .phys p →
      LateRow s w k x c (.globalAccessComplete w (.late k)) (s.view c x.thread p x.n)
  | scratchpadAccessComplete (g o : Nat) : s.ctxAt ⟨w.group, w.wix, x.slot⟩ = some c → x.target = .sp g o →
      LateRow s w k x c (.scratchpadAccessComplete w (.late k)) (s.spView c x.thread (.sp g o) x.n)

/-! ### What a checkpoint and a commit leave -/

/-- No change waits, and no die holds back a record, an entry of its log or the zeroing of a trailer, or has a record that it may still rewrite
or that was resolved while the machine stood (R351). -/
def State.NoneKept (s : State) : Prop :=
  s.changes = [] ∧ ∀ d ∈ s.dies, d.elHeld = [] ∧ d.zeroHeld = [] ∧ ∀ r ∈ d.recs, r.status ≠ 0 ∧ r.slot.isSome = true ∧ r.late = false

/-- The entries of a commit buffer performed in order, each on memory as it then stands (R235, R236, R320). -/
def State.commits (s : State) : List CEntry → State
  | [] => s
  | .store p bs :: r => (s.physWrite p bs).commits r
  | .atom p wide op a b _ :: r =>
    let n := if wide then 8 else 4
    (s.physWrite p (leBytes n (atomValue wide op (BitVec.ofNat 64 (leNat (s.physRead p n))) a b))).commits r
  | .full p _ :: r => (s.physWrite p (leBytes 8 (BitVec.ofNat 64 (leNat (s.physRead p 8)) ||| 1).toNat)).commits r
  | .emptied p _ :: r =>
    let v : DWord := BitVec.ofNat 64 (leNat (s.physRead p 8))
    (s.physWrite p (leBytes 8 (if v.getLsbD 0 then (v.toNat - 1 + 2 ^ 32) % 2 ^ 64 else v.toNat))).commits r

end Sys2Proof.Machine
end

