-- ==== Sys2Proof/Safety/Launches.lean ====
section
/-! DEFINITION. Launches, completion counters and jobs in the terms of claims: what a counter holds, how a change of it goes up
through `PARENT`, and what LAUNCH and CANCEL leave behind (R296, R314 to R317, R319, R390, R415). -/

namespace Sys2Proof.Machine

/-! ### Completion counters (R314, R315) -/

/-- A completion counter by its fields (R314). -/
structure CounterIs (v : BitVec 256) (remain state : Nat) (canreq : Bool) (err kills : Nat) (parent : DWord) (pbound : Nat) : Prop where
  remain : (v.extractLsb' 0 64).toNat = remain % 2 ^ 64
  state  : (v.extractLsb' 64 2).toNat = state
  canreq : v.getLsbD 66 = canreq
  res    : v.extractLsb' 67 5 = 0
  err    : (v.extractLsb' 72 8).toNat = err
  resv   : v.extractLsb' 80 16 = 0
  kills  : (v.extractLsb' 96 32).toNat = kills
  parent : v.extractLsb' 128 64 = parent
  pbound : (v.extractLsb' 192 64).toNat = pbound % 2 ^ 64

/-- A counter before and after `dec` by `n` (R315). -/
structure CounterLess (v w : BitVec 256) (n : Int) : Prop where
  remain : w.extractLsb' 0 64 = v.extractLsb' 0 64 - BitVec.ofInt 64 n
  state  : w.extractLsb' 64 2 = if w.extractLsb' 0 64 = 0 then (if v.getLsbD 66 then 2 else 1) else v.extractLsb' 64 2
  rest   : w.extractLsb' 66 190 = v.extractLsb' 66 190

/-- `dec` of the counter at an address of a context, and then of the counters above it, as long as one comes to 0 (R315);
at most `k` counters. -/
inductive Lowered (die ctx : Nat) : (k : Nat) → State → DWord → Int → State → Prop where
  | one (k : Nat) (s : State) (va : DWord) (n : Int) (p : Phys) (w : BitVec 256) :
      s.place die ctx true .atomic va.toNat 32 = .ok [(p, 32)] → CounterLess (counterOf (s.physRead p 32)) w n →
      w.extractLsb' 0 64 ≠ 0 ∨ w.extractLsb' 128 64 = 0 →
      Lowered die ctx (k + 1) s va n (s.physWrite p (leBytes 32 w.toNat))
  | up (k : Nat) (s : State) (va : DWord) (n : Int) (p : Phys) (w : BitVec 256) (t : State) :
      s.place die ctx true .atomic va.toNat 32 = .ok [(p, 32)] → CounterLess (counterOf (s.physRead p 32)) w n →
      w.extractLsb' 0 64 = 0 → w.extractLsb' 128 64 ≠ 0 →
      Lowered die ctx k (s.physWrite p (leBytes 32 w.toNat)) (w.extractLsb' 128 64) 1 t →
      Lowered die ctx (k + 1) s va n t

/-- `CANREQ` set in several counters of a context (R317). -/
inductive Marked (die ctx : Nat) : State → List DWord → State → Prop where
  | none (s : State) : Marked die ctx s [] s
  | more (s t : State) (va : DWord) (r : List DWord) (p : Phys) :
      s.place die ctx true .atomic va.toNat 32 = .ok [(p, 32)] →
      Marked die ctx (s.physWrite p (leBytes 32 (counterOf (s.physRead p 32) ||| BitVec.twoPow 256 66).toNat)) r t →
      Marked die ctx s (va :: r) t

/-- The units not dispatched come off the launch's counter, unless it has stopped before (R317). -/
def TakenOff (die : Nat) (l : Launch) (s t : State) : Prop :=
  ((l.stopped = true ∨ l.left = 0) ∧ t = s)
  ∨ (l.stopped = false ∧ l.left ≠ 0 ∧ ∃ k ≤ 64, Lowered die l.ctx k s l.counterVa l.left t)

/-- The launch dispatches no more. -/
def Launch.still (i : Nat) (x : Launch) : Launch := if x.id = i then { x with stopped := true, rl := [], left := 0 } else x

/-! ### CANCEL (R317) -/

/-- The waves of a launch's running groups take the CANCEL trap before their next instructions. -/
def cancelMarks (l : Launch) (a : DWord) (gs : List Group) : List Group :=
  gs.map fun g =>
    if g.launch = l.id ∧ g.ended = false then
      { g with waves := g.waves.map fun w => if w.ended = true then w else { w with cancel := some a } }
    else g

/-- CANCEL of the counter at `p` gone through several launches: one whose counter is not at or below it stays; of the others
`CANREQ` stands in the counters below it, the units not dispatched come off, and `.trap` marks the waves. -/
inductive Cancelled (q : Reader) (p : Phys) (a : DWord) (trap : Bool) : State → List Launch → State → Prop where
  | none (s : State) : Cancelled q p a trap s [] s
  | other (s t : State) (l : Launch) (ls : List Launch) :
      s.counterPath q l p = .none → Cancelled q p a trap s ls t → Cancelled q p a trap s (l :: ls) t
  | hit (s m u t : State) (l : Launch) (ls : List Launch) (below : List DWord) :
      s.counterPath q l p = some below → s.launch? l.id = some l → Marked q.die l.ctx s below m → TakenOff q.die l m u →
      Cancelled q p a trap { u with
        launches := if l.stopped = true then u.launches else u.launches.map (Launch.still l.id)
        groups := if trap = true then cancelMarks l a u.groups else u.groups } ls t →
      Cancelled q p a trap s (l :: ls) t

/-- No change of a counter waits, and no checkpoint holds changes back. -/
def State.NoChanges (s : State) : Prop := s.changes = [] ∧ s.still = false

/-- What CANCEL of the counter at `a` does to a state that has the memory of `s`: `CANREQ` is set there, and the live launches
under it are cancelled; `ends` says of what is left that the word or job ends with it. -/
def CancelDoes (s : State) (q : Reader) (ctx : Nat) (a : DWord) (trap : Bool) (ends : State → Prop) : Prop :=
  ∀ p, s.translate q.die ctx q.priv .atomic a.toNat 32 = .ok p → s.physBad p 32 = false → s.NoChanges →
    let s1 := s.physWrite p (leBytes 32 (counterOf (s.physRead p 32) ||| BitVec.twoPow 256 66).toNat)
    ((∀ l ∈ s.launches, s.live l = true → s1.counterPath q l p = none) → ends s1)
    ∧ ∀ u, Cancelled q p a trap s1 (s.launches.filter s.live) u → ends u

/-! ### LAUNCH (R296, R316) -/

/-- What LAUNCH reads: the record, its class, the structures it names, its counter `v`, which lies at `p`. -/
structure State.LaunchReads (s : State) (q : Reader) (ctx prio : Nat) (a : DWord) (b : Word) (l : Launch) (p : Phys)
    (v : BitVec 256) : Prop where
  record  : ∃ bs, s.readAs q ctx a.toNat 256 = .ok bs ∧ l.lrec = BitVec.ofNat 2048 (leNat bs)
  cls     : l.cls = if b.getLsbD 3 then b.toNat % 8 else (l.lrec.extractLsb' 196 3).toNat
  right   : b.getLsbD 3 = false → prio ≤ l.cls
  parts   : s.readParts q { Launch.draft s.nextId l.lrec l.cls with recVa := a } = .ok l
  counter : ∃ bs, s.readAs q l.ctx l.counterVa.toNat 32 = .ok bs ∧ v = counterOf bs
  place   : s.translate q.die l.ctx q.priv .store l.counterVa.toNat 32 = .ok p
  fresh   : ∀ x ∈ s.launches, x.id ≠ s.nextId

/-- A launch as it is queued: its record and class, its counter's place, every unit still to be dispatched. -/
structure Starts (s : State) (l : Launch) (p : Phys) (L : Launch) : Prop where
  record  : (L.id, L.lrec, L.recVa) = (s.nextId, l.lrec, l.recVa)
  cls     : (L.cls, L.present) = (l.cls, l.cls)
  parts   : (L.mct, L.inmap, L.outmap, L.poolHdr, L.logN) = (l.mct, l.inmap, l.outmap, l.poolHdr, l.logN)
  counter : L.counter = p
  run     : (L.stopped, L.gord, L.commit) = (false, 0, 0)
  left    : L.left = if l.pool = true then 1 else if l.cutmode = 3 then l.logN else l.lext 0 * l.lext 1 * l.lext 2 * l.lext 3

/-- What LAUNCH does: a record that R296 refuses leaves `STATE` 3 and the reason in its counter and lowers its parent; any
other is queued with `REMAIN` in its counter, and is cancelled at once below a counter with `CANREQ`. `ends` says of what is
left that the word or job ends with it. -/
def LaunchDoes (s : State) (q : Reader) (ctx prio : Nat) (a : DWord) (b : Word) (ends : State → Prop) : Prop :=
  ∀ l p v, s.LaunchReads q ctx prio a b l p v →
    let parent : DWord := v.extractLsb' 128 64
    let write (w : BitVec 256) : State := s.physWrite p (leBytes 32 w.toNat)
    let queue (w : BitVec 256) (L : Launch) : State := { write w with launches := s.launches ++ [L], nextId := s.nextId + 1 }
    (∀ k, (s.refusal l = some k ∨ (s.refusal l = none ∧ l.mapRefusal = some k)) →
      ∃ w L, CounterIs w 0 3 false k 0 parent 0 ∧ (L.lrec, L.stopped, L.left) = (l.lrec, true, 0)
        ∧ (parent = 0 → ends (write w))
        ∧ (parent ≠ 0 → s.NoChanges → ∀ n ≤ 64, ∀ t, Lowered q.die l.ctx n (queue w L) parent 1 t → ends t))
    ∧ ∀ above, s.refusal l = none → l.mapRefusal = none → s.countersUp q l.ctx parentDepth parent = (above, none) →
      ∃ w L, CounterIs w L.left 0 false 0 0 parent (if l.repro = true then l.budget * (5120 + 1000 * l.waitlim) else 0)
        ∧ Starts s l p L
        ∧ ((∀ x ∈ above, x.2.getLsbD 66 = false) → ends (queue w L))
        ∧ ∀ i x, above[i]? = some x → x.2.getLsbD 66 = true → (∀ y ∈ above.take i, y.2.getLsbD 66 = false) → s.NoChanges →
          ∀ m u, Marked q.die l.ctx (queue w L) (l.counterVa :: (above.take i).map Prod.fst) m → TakenOff q.die L m u →
            ends { u with launches := u.launches.map (Launch.still L.id) }

/-! ### Jobs (R390) -/

/-- The control launch has done a record: `HEAD` stands behind it, in the job list and in the machine, and a control launch
that is to stop has ended. -/
structure JobDone (k : Control) (u t : State) : Prop where
  rest    : { t with mem := u.mem, io := u.io } = u
  io      : { t.io with jlhead := u.io.jlhead, control := u.io.control, jladdr := u.io.jladdr } = u.io
  head    : t.io.jlhead = k.seen + 1
  memory  : ∀ q, t.byteAt q = (lastByte [(⟨.dev, u.io.jlBase + 8⟩, leBytes 8 (k.seen + 1).toNat)] q).getD (u.byteAt q)
  control : t.io.control = if k.stopping = true then none else some ⟨k.seen + 1, k.tail, false, none⟩
  valid   : t.io.jladdr = if k.stopping = true then u.io.jladdr &&& ~~~(BitVec.twoPow 64 63) else u.io.jladdr

end Sys2Proof.Machine
end

