-- ==== Sys2Proof/Safety/Firmware.lean ====
section
/-! DEFINITION. The management registers in the terms of claims: by number, which values a write takes, and what the machine
holds after it (R205, R209, R212, R247, R249, R318, R336, R342 to R353, R372, R377, R388, R392, R394, R398, R401). -/

namespace Sys2Proof.Machine

/-- The `RES` fields of a value, given as low bits and widths, are zero. -/
def Clear (v : BitVec 512) (fields : List (Nat × Nat)) : Prop := ∀ f ∈ fields, (v.extractLsb' f.1 f.2).toNat = 0

/-- A field of a value. -/
def at_ (v : BitVec 512) (lo n : Nat) : Nat := (v.extractLsb' lo n).toNat

/-- The registers of clusters: number, value, when the write is taken, and what it leaves. -/
inductive ClusterReg (s : State) : Nat → BitVec 512 → Prop → (State → Prop) → Prop where
  | callow (i : Nat) (k : Cluster) (v : BitVec 512) : i < 8 → s.clusters[i]? = some k →
      ClusterReg s (0x10 + i) v (Clear v [(11, 5)]) fun t =>
        t.clusters = s.clusters.set i { k with
          rate := if (s.die (i / 2)).trip = true then 0 else min 1024 (at_ v 0 11)
          step := max 1 (at_ v 16 8), shed := v.extractLsb' 25 7 }
        ∧ { t with clusters := s.clusters, groups := s.groups } = s
        ∧ ∀ g ∈ t.groups, g.cluster = i → 1 ≤ g.prio → g.prio ≤ 7 → k.shed.getLsbD (g.prio - 1) = true →
            v.getLsbD (24 + g.prio) = false → ∀ w ∈ g.waves, w.parked = none
  | cslew (i : Nat) (k : Cluster) (v : BitVec 512) : i < 8 → s.clusters[i]? = some k →
      ClusterReg s (0x20 + i) v (Clear v [(7, 1), (15, 1), (23, 9)]) fun t =>
        t = { s with clusters := s.clusters.set i { k with
          up := min (max 1 (at_ v 0 7)) s.io.slewlim, down := min (max 1 (at_ v 8 7)) s.io.slewlim } }
  | lmap (c q : Nat) (k : Cluster) (v : BitVec 512) : c < 8 → q < 16 → s.clusters[c]? = some k →
      ClusterReg s (0x100 + 16 * c + q) v (Clear v [(7, 25)] ∧ at_ v 0 5 ≤ 16) fun t =>
        t = { s with clusters := s.clusters.set c { k with lmap := k.lmap.set q (BitVec.ofNat 32 (at_ v 0 7)) } }

/-- A ring of a die is empty: the die stands as given, and both words of the trailer are 0; a checkpoint holds the zeroing
back (R249, R351, R377). -/
def Emptied (s : State) (d : Nat) (x : Die) (trailer : Nat) : State :=
  if s.still then { s with dies := s.dies.set d { x with zeroHeld := x.zeroHeld ++ [trailer] } }
  else ({ s with dies := s.dies.set d x }).devWrite trailer (List.replicate 16 0)

/-- The registers of dies. -/
inductive DieReg (s : State) : Nat → BitVec 512 → Prop → (State → Prop) → Prop where
  | fqbase (d : Nat) (x : Die) (v : BitVec 512) : d < 4 → s.dies[d]? = some x → (∀ r ∈ x.recs, r.slot.isSome = true) →
      DieReg s (0x300 + d) v (Clear v [(0, 16)] ∧ at_ v 0 64 < devBytes) fun t =>
        t = Emptied s d { x with fqbase := BitVec.ofNat 64 (at_ v 0 64), fqSet := true, fqtail := 0, fqhead := 0 }
          (at_ v 0 64 + 64 * 2 ^ x.fqlog.toNat)
  | fqlog (d : Nat) (x : Die) (v : BitVec 512) : d < 4 → s.dies[d]? = some x → (∀ r ∈ x.recs, r.slot.isSome = true) →
      DieReg s (0x304 + d) v (6 ≤ at_ v 0 32 ∧ at_ v 0 32 ≤ 16) fun t =>
        t = { s with dies := s.dies.set d { x with fqlog := BitVec.ofNat 32 (at_ v 0 32) } }
  | elbase (d : Nat) (x : Die) (v : BitVec 512) : d < 4 → s.dies[d]? = some x →
      DieReg s (0x308 + d) v (at_ v 0 64 < devBytes) fun t =>
        t = Emptied s d { x with elbase := BitVec.ofNat 64 (at_ v 0 64), elSet := true, eltail := 0 }
          (at_ v 0 64 + 32 * 2 ^ x.ellog.toNat)
  | ellog (d : Nat) (x : Die) (v : BitVec 512) : d < 4 → s.dies[d]? = some x →
      DieReg s (0x30C + d) v (6 ≤ at_ v 0 32 ∧ at_ v 0 32 ≤ 16) fun t =>
        t = { s with dies := s.dies.set d { x with ellog := BitVec.ofNat 32 (at_ v 0 32) } }
  | lctl (d : Nat) (x : Die) (v : BitVec 512) : d < 4 → s.dies[d]? = some x →
      DieReg s (0x400 + d) v (Clear v [(14, 18)]) fun t =>
        t = { s with dies := s.dies.set d { x with
          lctl := BitVec.ofNat 32 (min 110 (max 60 (at_ v 0 8)) + 2 ^ 8 * min 32 (at_ v 8 6)) } }

/-- The registers of the Belfry. -/
inductive BelfryReg (s : State) : Nat → BitVec 512 → Prop → (State → Prop) → Prop where
  | bctl (v : BitVec 512) :
      BelfryReg s 0x500 v (Clear v [(3, 29)]) fun t => t = { s with belfry := { s.belfry with bctl := v.setWidth 32 } }
  | bcurve (i : Nat) (v : BitVec 512) : i < 8 →
      BelfryReg s (0x508 + i) v (Clear v [(25, 7)]) fun t => t = { s with belfry := { s.belfry with
        bcurve := s.belfry.bcurve.set i (BitVec.ofNat 32 (at_ v 0 16 + 2 ^ 16 * min 256 (at_ v 16 9))) } }
  | bshedl (v : BitVec 512) :
      BelfryReg s 0x510 v (Clear v [(63, 1)]) fun t => t = { s with belfry := { s.belfry with bshedl := v.setWidth 64 } }
  | brest (v : BitVec 512) :
      BelfryReg s 0x511 v True fun t => t = { s with belfry := { s.belfry with
        brest := BitVec.ofNat 32 (at_ v 0 8 + 2 ^ 8 * max 1 (at_ v 8 8) + 2 ^ 16 * max 1 (at_ v 16 8) + 2 ^ 24 * max 1 (at_ v 24 8)) } }
  | bcap (v : BitVec 512) :
      BelfryReg s 0x512 v (Clear v [(16, 16)]) fun t => t = { s with belfry := { s.belfry with bcap := v.setWidth 32 } }
  | part (i : Nat) (v : BitVec 512) : i < 8 →
      BelfryReg s (0x518 + i) v (Clear v [(11, 1), (28, 4)]) fun t => t = { s with belfry := { s.belfry with
        part := s.belfry.part.set i (v.setWidth 32) } }
  | ckwin (v : BitVec 512) :
      BelfryReg s 0x521 v (Clear v [(1, 20)]) fun t => t = { s with belfry := { s.belfry with ckwin := v.setWidth 64 } }
  | bckgo (v : BitVec 512) :
      BelfryReg s 0x522 v (Clear v [(2, 30)]) fun t =>
        (v.getLsbD 0 = true → exec .bckgoGo s = .next t)
        ∧ (v.getLsbD 0 = false → v.getLsbD 1 = true → exec .bckgoRestore s = .next t)
        ∧ (v.getLsbD 0 = false → v.getLsbD 1 = false → t = s)

/-- An arrival matching entry by its number (R398). -/
def State.entryOf (s : State) (j : Nat) : BitVec 512 := ((s.io.arrivals.find? fun e => e.1 == j).map Prod.snd).getD 0

/-- The registers of the I/O die, and the translation roots. -/
inductive IoReg (s : State) : Nat → BitVec 512 → Prop → (State → Prop) → Prop where
  | xroot (n : Nat) (v : BitVec 512) : n < 256 →
      IoReg s (0x200 + n) v (Clear v [(0, 13), (52, 11)]) fun t => t = { s with xroot := s.xroot.set n (v.setWidth 64) }
  | ageus (i : Nat) (v : BitVec 512) : i < 8 →
      IoReg s (0x600 + i) v (Clear v [(16, 16)]) fun t => t = { s with io := { s.io with ageus := s.io.ageus.set i (v.setWidth 32) } }
  | dumpctl (v : BitVec 512) :
      IoReg s 0x700 v (Clear v [(1, 5)] ∧ at_ v 52 12 ≠ 0) fun t => t = { s with io := { s.io with dumpctl := v.setWidth 64 } }
  | spwin (i : Nat) (v : BitVec 512) : i < 8 →
      IoReg s (0x800 + i) v (Clear v [(3, 13), (28, 4), (96, 32)]) fun t =>
        t = { s with io := { s.io with spwin := s.io.spwin.set i (v.setWidth 128) } }
  | sretry (v : BitVec 512) :
      IoReg s 0x810 v (Clear v [(16, 16)]) fun t => t = { s with io := { s.io with sretry := BitVec.ofNat 32 (max 1 (at_ v 0 16)) } }
  | badrec (v : BitVec 512) : IoReg s 0x811 v True fun t => t = { s with io := { s.io with badrec := v.setWidth 32 } }
  | obw (i : Nat) (v : BitVec 512) : i < 8 →
      IoReg s (0x908 + i) v (Clear v [(2, 19), (96, 32)]) fun t =>
        t = if s.io.locked = true ∧ v.getLsbD 0 = true ∧ (v.setWidth 128 : BitVec 128) ≠ s.io.obw.getD i 0 then
            { s with io := { s.io with mlog := s.io.mlog ++ [.clamp (0x908 + i)] } }
          else { s with io := { s.io with obw := s.io.obw.set i (v.setWidth 128) } }
  | arrival (i : Nat) (v : BitVec 512) : i < 1024 →
      IoReg s (0x1000 + i) v (Clear v [(6, 2), (48, 16), (64, 6), (152, 8), (384, 128)] ∧ at_ v 128 24 ≠ 0) fun t =>
        t = { s with io := { s.io with arrivals := t.io.arrivals, appends := s.io.appends.filter fun k => k != i } }
        ∧ (∀ j, j ≠ i → t.entryOf j = s.entryOf j)
        ∧ ∀ b < 512, (t.entryOf i).getLsbD b = if 160 ≤ b ∧ b < 192 then (s.entryOf i).getLsbD b else v.getLsbD b

/-- The rows that a write can reach, but for the clamp block and `DUMPGO`. -/
inductive MgmtRow (s : State) (n : Nat) (v : BitVec 512) (ok : Prop) (after : State → Prop) : Prop where
  | cluster : ClusterReg s n v ok after → MgmtRow s n v ok after
  | die : DieReg s n v ok after → MgmtRow s n v ok after
  | belfry : BelfryReg s n v ok after → MgmtRow s n v ok after
  | io : IoReg s n v ok after → MgmtRow s n v ok after

/-- Registers that are read only (R388). -/
def ReadOnly (n : Nat) : Prop :=
  (0x30 ≤ n ∧ n < 0x38) ∨ (0x404 ≤ n ∧ n < 0x40C) ∨ n = 0x513 ∨ n = 0x520 ∨ n = 0x812

end Sys2Proof.Machine
end

