-- ==== Sys2Proof/Safety/Values.lean ====
section
/-! DEFINITION. What the special registers, the selectors of `pread` and the control registers read as, a field at a time in the
terms of the spec (R52, R61, R129, R205, R335 to R339, R350, R355, R366). -/

namespace Sys2Proof.Machine

/-- `WSTAT` by its fields (R61). -/
structure WstatIs (c : Ctx) (v : Word) : Prop where
  ucf    : v.getLsbD 0 = c.wave.ucf
  psel   : v.getLsbD 1 = c.ref.slot
  npath  : (v.extractLsb' 2 2).toNat = c.wave.path0.toList.length + c.wave.path1.toList.length
  res    : v.extractLsb' 4 4 = 0
  ddepth : (v.extractLsb' 8 8).toNat = c.wave.depth % 256
  splitn : (v.extractLsb' 16 16).toNat = c.wave.splitNo % 2 ^ 16

/-- The extent that `LEXT` names: the launch's, or in a pool launch the records between `HEAD` and `TAIL` at the launch (R52,
log 22). -/
def Ctx.extent (c : Ctx) (k : Nat) : Nat :=
  if c.launch.pool = true ∧ k = 0 then
    ((c.launch.poolHdr.extractLsb' 64 64).toNat + 2 ^ 64 - (c.launch.poolHdr.extractLsb' 0 64).toNat) % 2 ^ 64
  else (c.launch.lrec.extractLsb' (256 + 32 * k) 32).toNat

/-- What `gets` reads in thread `t` at a time `ns`, a special register at a time (R52); a 32-bit register is the low half. -/
def Ctx.SpecialIs (c : Ctx) (ns : DWord) (t : Nat) (n : SReg) (v : DWord) : Prop :=
  let low (x : Nat) : Prop := v.toNat % 2 ^ 32 = x % 2 ^ 32
  match n with
  | .gext k => low (c.group.ext.getD k.val 1)
  | .gorg k => low (c.group.org.getD k.val 0)
  | .lext k => low (c.extent k.val)
  | .tix => low (32 * c.wave.wix + t)
  | .wix => low c.wave.wix
  | .nwave => low c.group.nwave
  | .gord => low c.group.gord
  | .bandix => low c.group.bandix
  | .bandn => low c.group.bandn
  | .spsize => low c.group.spsize
  | .role => low c.wave.role
  | .core => low c.group.core
  | .lcore => low c.group.lcore
  | .prio => low c.group.prio
  | .nsclk => v = ns
  | .qcount => v = c.wave.qcount
  | .wstat => WstatIs c (v.setWidth 32)

/-- `CALLOW` by its fields (R205). -/
structure CallowIs (k : Cluster) (v : Word) : Prop where
  rate : (v.extractLsb' 0 11).toNat = k.rate
  res  : v.extractLsb' 11 5 = 0
  step : (v.extractLsb' 16 8).toNat = k.step
  shed0 : v.getLsbD 24 = false
  shed : v.extractLsb' 25 7 = k.shed

/-- `BSTAT` by its fields (R350): the level, the classes shed somewhere, and the flags. -/
structure BstatIs (s : State) (v : Word) : Prop where
  level : (v.extractLsb' 0 9).toNat = s.belfry.level
  shed  : ∀ c < 7, v.getLsbD (9 + c) = true ↔ ∃ k ∈ s.clusters, k.shed.getLsbD c = true
  lost  : v.getLsbD 16 = s.belfry.lost
  cap   : v.getLsbD 17 = s.belfry.capunatt
  unatt : v.getLsbD 18 = s.belfry.unatt
  restoring : v.getLsbD 19 = s.belfry.restoring
  ckpt  : (v.extractLsb' 20 2).toNat = s.belfry.ckpt
  holdup : v.getLsbD 22 = s.belfry.holdup
  res   : v.getLsbD 23 = false
  floor : v.extractLsb' 24 8 = s.belfry.floorred

/-- What `pread` reads (R355): a selector at a time. Fields that a register cannot hold do not arise. -/
def State.PowerIs (s : State) (c : Ctx) (sel : Nat) (v : Word) : Prop :=
  let die := s.die (c.group.cluster / 2)
  let k := s.cluster c.group.cluster
  let low (x : Nat) : Prop := v.toNat = x % 2 ^ 32
  match sel with
  | 0 => low s.belfry.pm
  | 1 => low (s.belfry.pd.getD (c.group.cluster / 2) 0)
  | 2 => v.toNat = die.tj.toNat
  | 3 => low (800 + 50 * die.fop)
  | 4 => v.toNat = (16 * (die.lctl.extractLsb' 0 8).toNat - die.tj.toNat) / 16
  | 5 => k.rate ≤ 1024 → k.step ≤ 255 → CallowIs k v
  | 6 => s.belfry.level ≤ 256 → s.belfry.ckpt ≤ 3 → BstatIs s v
  | 7 => v = s.belfry.freq
  | 8 => low s.belfry.vbus
  | 9 => v.toNat = die.eolh.toNat
  | 10 => low s.belfry.capNow
  | 11 => low (s.belfry.targets.getD c.group.cluster 0)
  | _ => True

/-- `TCAUSE` by its fields (R366). -/
structure TcauseIs (r : TrapRec) (v : Word) : Prop where
  cause   : (v.extractLsb' 0 8).toNat = r.cause % 256
  sub     : (v.extractLsb' 8 8).toNat = r.sub % 256
  resume  : v.getLsbD 16 = r.resume
  exhaust : v.getLsbD 17 = r.exhaust
  winErr  : v.getLsbD 18 = r.winErr
  give    : v.getLsbD 19 = r.give
  len     : (v.extractLsb' 20 3).toNat = r.len % 8
  part    : v.getLsbD 23 = r.part
  res     : v.extractLsb' 24 8 = 0

/-- `TTHR` by its fields (R366): the selected thread's own cause, whether it waits on a fault record, and that record's index. -/
structure TthrIs (s : State) (r : TrapRec) (v : Word) : Prop where
  own  : (v.extractLsb' 0 8).toNat = (((r.own.find? fun x => x.1 == r.thr).map Prod.snd).getD 0) % 256
  waits : v.getLsbD 8 = true ↔ ∃ f, (r.thr, f) ∈ r.refs
  res  : v.extractLsb' 9 7 = 0
  none_ : (∀ f, (r.thr, f) ∉ r.refs) → v.extractLsb' 16 16 = 0
  index : ∀ f rec k, (r.refs.find? fun x => x.1 == r.thr) = some (r.thr, f) → s.record? f = some rec → rec.slot = some k →
    (v.extractLsb' 16 16).toNat = k % 2 ^ 16

/-- What `csrr` reads (R366, R129, R297). -/
def State.CsrIs (s : State) (c : Ctx) (n : Csr) (v : DWord) : Prop :=
  let r := c.wave.trap
  match n with
  | .tcause => TcauseIs r (v.setWidth 32)
  | .tmask => v.setWidth 32 = r.mask
  | .tkill => v.setWidth 32 = r.kill
  | .tpc => v = r.pc
  | .taddr => v = r.addr
  | .tword => v.setWidth 32 = r.word
  | .tthr => TthrIs s r (v.setWidth 32)
  | .wseg => r.thr < 32 → (v.extractLsb' 0 16).toNat = (c.wave.sb.get r.thr).toNat % 2 ^ 16 ∧ (v.extractLsb' 16 5).toNat = r.thr
      ∧ v.extractLsb' 21 11 = 0
  | .twb => (v.extractLsb' 0 16).toNat = (c.wave.wb.get r.thr).toNat % 2 ^ 16 ∧ v.extractLsb' 16 16 = 0
  | .tlevel => r.level ≤ 3 → (v.extractLsb' 0 2).toNat = r.level ∧ v.extractLsb' 2 30 = 0
  | .trstk => v = c.launch.lrec.extractLsb' 960 64
      + BitVec.ofNat 64 (((64 * c.group.core + c.wave.wslot) * 32 + r.thr) * 4 * (c.launch.lrec.extractLsb' 768 17).toNat)

end Sys2Proof.Machine
end

