-- ==== Sys2Proof/Certificates/Slice0/Obligations.lean ====
section
/-! DEFINITION. The statements for the provers. -/

open Sys2Proof Sys2Proof.Machine

/-! ### The machine: reset, decoding, a step, memory -/

/-- What reset leaves, where the spec gives a value (R116, R205, R209, R212, R249, R336, R337, R342, R343, R346, R349, R350, R353,
R386, R391, R392, R401). -/
def Obligations.ResetValues : Prop :=
  (State.reset.groups = [] ∧ State.reset.launches = [] ∧ State.reset.ns = 0)
  ∧ (∀ c < 8, (State.reset.cluster c).rate = 1024 ∧ (State.reset.cluster c).step = 4 ∧ (State.reset.cluster c).shed = 0
      ∧ (State.reset.cluster c).b = 4096 ∧ (State.reset.cluster c).up = 1 ∧ (State.reset.cluster c).down = 1
      ∧ (State.reset.cluster c).level = 0 ∧ (State.reset.cluster c).qhealth = 0x1FFFF
      ∧ ∀ q < 16, (State.reset.cluster c).lmap.getD q 0 = BitVec.ofNat 32 (q + 2 ^ 6))
  ∧ (∀ d < 4, (State.reset.die d).lctl = 110 + 32 * 2 ^ 8 ∧ (State.reset.die d).fop = 32 ∧ (State.reset.die d).eolh = 0xFFFFFF
      ∧ (State.reset.die d).fqbase = 0 ∧ (State.reset.die d).fqlog = 6)
  ∧ (State.reset.belfry.level = 256 ∧ State.reset.belfry.ckpt = 0 ∧ State.reset.belfry.lost = false ∧ State.reset.belfry.bcap = 2600
      ∧ State.reset.belfry.bckgo = 0 ∧ (List.range 7).map (fun c => State.reset.belfry.shedLevel (c + 1)) = [26, 51, 77, 102, 128, 166, 205]
      ∧ State.reset.belfry.brest = 8 + 20 * 2 ^ 8 + 50 * 2 ^ 16 + 32 * 2 ^ 24)
  ∧ State.reset.io.fw = false ∧ State.reset.io.locked = false ∧ State.reset.io.pkglim = 2600 ∧ State.reset.io.slewlim = 64
  ∧ State.reset.io.ttrip = 125 ∧ State.reset.io.control = none ∧ State.reset.io.sretry = 100 ∧ State.reset.io.badrec = 0
  ∧ ∀ c < 256, State.reset.rootOf c = 0

/-- A few words as the tables of the spec encode them (R37, R38, R180, R181, R183, R320, R355, R356). -/
def Obligations.DecodesTableWords : Prop :=
  decodeWord 0xC4180030 = .ok (.shape (.s 6) .d16 .d16 .d128)
  ∧ decodeWord 0xC600000A = .ok (.setfmt 0 10) ∧ decodeWord 0xC604000A = .ok (.setfmt 1 10)
  ∧ decodeWord 0xC8082001 = .ok (.setfmtR 2 (.s 4)) ∧ decodeWord 0xC8140800 = .ok (.getfmt (.s 5) 1)
  ∧ decodeWord 0x70003000 = .ok (.tmarkFull (.w 6)) ∧ decodeWord 0x70003001 = .ok (.tmarkEmpty (.w 6))
  ∧ decodeWord 0x700C3002 = .ok (.ttest 3 (.w 6)) ∧ decodeWord 0x78142000 = .ok (.pread (.s 5) (.s 4))
  ∧ decodeWord 0x78003001 = .ok (.phint (.s 6)) ∧ decodeWord 0xFA000002 = .ok (.xim 2)

/-- Decoding what `encode` writes gives the instruction back, for every instruction that has a word. -/
def Obligations.EncodedWordDecodes : Prop := ∀ i, WellFormed i = true → ∀ w, encode i = some w → decodeWord w = .ok i

/-- Every word that decodes is the encoding of a well-formed instruction: no two words mean the same. -/
def Obligations.DecodedWordEncodes : Prop := ∀ w i, decodeWord w = .ok i → WellFormed i = true ∧ encode i = some w

/-- A step of a path that its core selects and that may issue performs exactly the word that stands at its pc (R24, R35, R206):
time moves on, the core's part of the cycle is over, the path takes the word, the allowance is debited, early reads that may not
pass the word are void (log 7), and `exec` gives the rest. -/
def Obligations.StepRunsDecodedWord : Prop :=
  ∀ s r ts g c c1 w i, s.midSequence = none → s.agenda = .issue r :: ts →
    ({ s.moveOn with agenda := ts } : State).granted r = some g →
    let s0 : State := { g with cur := some r }
    let s1 := s0.modPath r fun p => p.take w
    c.wave.loads = [] → s0.ctxAt r = some c → s1.ctxAt r = some c1 → s0.running c.group = true → c.wave.cancel = none → c.wave.mayIssue c.launch = true →
    c.path.seq = Seq.empty → c.path.wait = .none → c.path.failed = [] → s0.heldBack c = false → c.overBudget = false →
    c.path.pc.toNat % 4 = 0 → s0.fetch c = .ok w → decodeWord w = .ok i → isPrefix w = false → misused c1.path.seq i = false →
    step s = exec i ((s1.debit c1 (wordCost c1 w)).voidEarly c1 (keepsEarly i w))

/-- The memories keep their canonical form in every step. -/
def Obligations.EveryStepKeepsMemoryCanonical : Prop :=
  ∀ s t, s.MemOk → step s = .next t → t.MemOk

/-- They have it after reset. -/
def Obligations.ResetMemoryCanonical : Prop := State.reset.MemOk

/-! ### Words with results in registers -/

/-- The 32-bit integer, logic and bit-field words (R91, R92, R94, R95, `mad.i32` of R93), selection, moves, shuffles,
reductions, scans, votes (R99 to R102) and the active mask (R130) give every performing thread its result, push it, and change
nothing else. -/
def Obligations.IntegerWordsComplete : Prop :=
  ∀ s c i xs d f, IntegerRow i xs d f ∨ ExchangeRow i xs d f → s.ctx = some c → c.Readable c.perf xs →
    ∃ t, exec i s = .next t ∧ Vec32 c s d (f c) t

/-- The words with 64-bit results (R93, and `mov.b64` of R100), and those with predicate results (R96, R97, R98). -/
def Obligations.WideAndPredicateWordsComplete : Prop :=
  (∀ s c i xs d f, WideRow i xs d f → WellFormed i = true → s.ctx = some c → c.Readable c.perf xs →
    ∃ t, exec i s = .next t ∧ Vec64 c s d (f c) t)
  ∧ ∀ s c i xs d f, PredicateRow i xs d f → s.ctx = some c → c.Readable c.perf xs →
    ∃ t, exec i s = .next t ∧ VecP c s d (f c) t

/-- Floating-point arithmetic (R103, R104), the correctly rounded functions and the quotient (R79, R110). -/
def Obligations.FloatWordsComplete : Prop :=
  ∀ s c i xs d f, FloatRow i xs d f ∨ FunctionRow i xs d f → s.ctx = some c → c.Readable c.perf xs →
    ∃ t, exec i s = .next t ∧ Vec32 c s d (f c) t

/-- Conversion (R105, R106), pack and unpack (R108, R109), and the intersect word (R293). -/
def Obligations.ConversionWordsComplete : Prop :=
  (∀ s c d a r ty from_, s.ctx = some c → WellFormed (.cvt d a r ty from_) = true → c.Readable c.perf [⟨a, from_.wide⟩] →
    let f (j : Nat) : DWord := toTy ty (c.rm j r) (tyVal from_ (if from_.wide then c.v64 j a else (c.v32 j a).setWidth 64))
    ∃ t, exec (.cvt d a r ty from_) s = .next t
      ∧ if ty.wide then Vec64 c s d f t else Vec32 c s d (fun j => (f j).setWidth 32) t)
  ∧ (∀ s c d a b k, s.ctx = some c → c.Readable c.perf [⟨a, false⟩] → (fmtW (c.fmt k.val) ≠ 11 ∨ c.perf = []) →
      (fmtScale (c.fmt k.val) = 2 → c.Readable c.perf [⟨b, false⟩]
        ∧ ∀ t ∈ c.perf, ∀ u ∈ c.perf, c.v32 t b &&& 0xFF = c.v32 u b &&& 0xFF) →
      (∃ t, exec (.npack d a b k) s = .next t ∧ Vec32 c s d (c.packed a b k.val) t)
      ∧ ∃ t, exec (.nunpack d a b k) s = .next t ∧ Vec32 c s d (c.unpacked a b k.val) t)
  ∧ ∀ s c d a b, s.ctx = some c → WellFormed (.isect d a b) = true → c.Readable c.perf (narrow [a, b]) →
      ∃ t, exec (.isect d a b) s = .next t
        ∧ Vec64 c s d (fun j => isectOf (c.perf.map fun u => c.v32 u a) (c.perf.map fun u => c.v32 u b) (c.perf.idxOf j)) t

/-- Special registers (R52, R61, R114): into a vector register of each performing thread, or once into a uniform register; what
each of them reads as stands in `SpecialIs`. The extent of a pool launch is log 22's reading. -/
def Obligations.SpecialRegisterReads : Prop :=
  (∀ s c d n, s.ctx = some c → WellFormed (.getsVector d n) = true →
    ∃ (v : Nat → DWord) (t : State), exec (.getsVector d n) s = .next t ∧ (∀ j, c.SpecialIs s.ns j n (v j))
      ∧ if n.wide then Vec64 c s d v t else Vec32 c s d (fun j => (v j).setWidth 32) t)
  ∧ ∀ s c d n, s.ctx = some c → WellFormed (.getsScalar d n) = true → c.Guarded →
    ∃ (v : DWord) (t : State), exec (.getsScalar d n) s = .next t ∧ c.SpecialIs s.ns 0 n v
      ∧ if n.wide then Scal64 c s d v t else Scal32 c s d (v.setWidth 32) t

/-- Scalar words (R111, R112, `getfmt` of R181): one result for the path, taken up by the latch of every active thread; scalar
compares (R113) write the predicate in every active thread. -/
def Obligations.ScalarWordsComplete : Prop :=
  (∀ s c i xs d f, ScalarRow i xs d f → s.ctx = some c → c.Guarded → c.SReadable xs →
    ∃ t, exec i s = .next t ∧ Scal32 c s d (f c) t)
  ∧ (∀ s c i xs d f, WideScalarRow i xs d f → WellFormed i = true → s.ctx = some c → c.Guarded → c.SReadable xs →
    ∃ t, exec i s = .next t ∧ Scal64 c s d (f c) t)
  ∧ ∀ s c i xs d f, CompareRow i xs d f → s.ctx = some c → c.Guarded → c.SReadable xs →
    ∃ t, exec i s = .next t ∧ ScalP c s d (f c) t

/-- A scalar-class or matrix-class word whose guard is false in every active thread does nothing but move on (R33). -/
def Obligations.GuardedOffWordPasses : Prop :=
  ∀ s c i, GuardedRow c.path.priv i → s.ctx = some c → c.GuardedOff → ∃ t, exec i s = .next t ∧ Passed c s [] t

/-- Words that set state of the path or wave (R61, R115, R180, R181, R183): `sets`, the format registers, `shape`; the power
words (R355, R356); what `pread` reads stands in `PowerIs`. -/
def Obligations.SetterWordsComplete : Prop :=
  (∀ s c d, s.ctx = some c → c.Guarded → c.SReadable [(d, false)] →
    exec (.sets d) s = .next ((s.modWave c.ref.group c.ref.wix fun w =>
      { w with ucf := if (c.s32 d).getLsbD 0 then false else w.ucf }).complete c c.perf))
  ∧ (∀ s c k i, s.ctx = some c → c.Guarded → ∃ t, exec (.setfmt k i) s = .next t ∧ SetF c s k (i.setWidth 32) t)
  ∧ (∀ s c k a, s.ctx = some c → c.Guarded → c.SReadable [(a, false)] → fmtValid (c.s32 a) = true →
      ∃ t, exec (.setfmtR k a) s = .next t ∧ SetF c s k (c.s32 a) t)
  ∧ (∀ s c d m n k, s.ctx = some c → c.Guarded →
      let kg := if k = .d128 ∧ ¬((1 ≤ fmtW (c.fmt 0) ∧ fmtW (c.fmt 0) ≤ 8) ∧ 1 ≤ fmtW (c.fmt 1) ∧ fmtW (c.fmt 1) ≤ 8) then 64
        else KDim.size k
      exec (.shape d m n k) s = .next ((s.modWave c.ref.group c.ref.wix fun w =>
        { w with mcfg := (MDim.size m, MDim.size n, kg) }).scalResult c d
          (BitVec.ofNat 32 (MDim.size m + 2 ^ 8 * MDim.size n + 2 ^ 16 * kg))))
  ∧ (∀ s c d a, s.ctx = some c → c.Guarded → c.SReadable [(a, false)] → (c.s32 a).toNat ≤ 11 →
    ∃ v t, exec (.pread d a) s = .next t ∧ s.PowerIs c (c.s32 a).toNat v ∧ Scal32 c s d v t)
  ∧ ∀ s c a, s.ctx = some c → c.Guarded → c.SReadable [(a, false)] → (c.s32 a).toNat < 2 ^ 16 → (c.s32 a).toNat % 256 ≤ 64 →
    exec (.phint a) s = .next ((s.modWave c.ref.group c.ref.wix fun w =>
      { w with hint := if (c.s32 a).toNat / 256 = 0 then none else some ((c.s32 a).toNat % 256, (c.s32 a).toNat / 256) }).complete
        c c.perf)

/-! ### Traps -/

/-- A word that does not decode traps with ILLEGAL and its sub-cause, the word in the record (R38, R39). -/
def Obligations.IllegalWordTraps : Prop :=
  ∀ s r ts g c c1 w e, s.midSequence = none → s.agenda = .issue r :: ts →
    ({ s.moveOn with agenda := ts } : State).granted r = some g →
    let s0 : State := { g with cur := some r }
    let s1 := s0.modPath r fun p => p.take w
    c.wave.loads = [] → s0.ctxAt r = some c → s1.ctxAt r = some c1 → s0.running c.group = true → c.wave.cancel = none → c.wave.mayIssue c.launch = true →
    c.path.seq = Seq.empty → c.path.wait = .none → c.path.failed = [] → s0.heldBack c = false → c.overBudget = false →
    c.path.pc.toNat % 4 = 0 → s0.fetch c = .ok w → decodeWord w = .error e → e.num < 8 → fOp w ≠ 0x7C →
    step s = .next (s1.takeTrap c1 { cause := .illegal, sub := e.num, addr := w.setWidth 64 })

/-- Trap entry from P0 (R363, R366): the record holds what its cause names, the path stands at the handler at P1 with its
threads and registers, its latches are cleared, and beside the wave nothing changes. -/
def Obligations.TrapEntersHandler : Prop :=
  ∀ (s : State) (c : Ctx) (tr : Trap), s.ctxAt c.ref = some c → c.path.priv = false → c.wave.owner ≠ some (!c.ref.slot) → c.launch.handler ≠ 0 →
    tr.cause ≠ .cancel →
    ∃ t c', s.takeTrap c tr = t ∧ t.ctxAt c.ref = some c' ∧ OnlyWave c.ref s t
      ∧ c'.wave.trap = c.trapRec tr ∧ c'.wave.trap.cause = tr.cause.code ∧ c'.wave.trap.sub = tr.sub ∧ c'.wave.trap.level = 0
      ∧ c'.wave.trap.mask = tr.mask ∧ c'.wave.trap.kill = 0 ∧ c'.wave.trap.addr = tr.addr
      ∧ c'.wave.trap.pc = tr.after.getD (if c.path.seq.len = 0 then c.path.pc else c.path.seq.start)
      ∧ c'.wave.owner = some c.ref.slot
      ∧ c'.path = { c.path with
          pc := c.launch.handler, priv := true, latch := [], fill := [], seq := Seq.empty, wait := .none, replay := none
          failed := [], counted := 0, late := [], faulted := [], only := none, defer := 0, deadline := none }
      ∧ c'.wave.path? (!c.ref.slot) = c.wave.path? (!c.ref.slot)
      ∧ (c'.wave.w, c'.wave.o, c'.wave.p, c'.wave.wb, c'.wave.sb, c'.wave.seg, c'.wave.held) =
          (c.wave.w, c.wave.o, c.wave.p, c.wave.wb, c.wave.sb, c.wave.seg, c.wave.held)

/-- A trap at P1 rewrites the record with level 1 and is fatal; while the other path uses the record, a path parks (R363, R364). -/
def Obligations.SecondTraps : Prop :=
  (∀ (s : State) (c : Ctx) (tr : Trap), s.ctxAt c.ref = some c → c.path.priv = true →
    s.takeTrap c tr = (s.modWave c.ref.group c.ref.wix fun w =>
      ({ w with trap := { c.trapRec tr with level := 1 } }).modPath c.ref.slot Path.halt).fatal c.ref.group tr.cause.code)
  ∧ ∀ (s : State) (c : Ctx) (tr : Trap), s.ctxAt c.ref = some c → c.path.priv = false → c.wave.owner = some (!c.ref.slot) →
    ∃ c', (s.takeTrap c tr).ctxAt c.ref = some c' ∧ OnlyWave c.ref s (s.takeTrap c tr) ∧ c'.path.wait = .recordBusy
      ∧ c'.path.pc = c.path.pc ∧ c'.path.priv = false ∧ c'.wave.queued = some (c.trapRec tr) ∧ c'.wave.trap = c.wave.trap

/-- PRIV (R362, R365, R370): words of P1 at P0, the word of P2 at either level, words that P1 does not have at P1. -/
def Obligations.PrivilegeTraps : Prop :=
  (∀ s c i, s.ctx = some c → PrivRow c.path.priv i →
    exec i s = .next (s.takeTrap c { cause := .priv, addr := c.path.seq.word.setWidth 64 }))
  ∧ ∀ s c i, s.ctx = some c → UserRow i → c.path.priv = true →
    exec i s = .next (s.takeTrap c { cause := .priv, addr := c.path.seq.word.setWidth 64 })

/-- LATCH (R48): a performing thread that reads a latch with too few entries, with no unit in error; the mask names these threads. ALIGN and SPBOUND of
loads and stores (R145, R159): the lowest failing thread's address, every failing thread in the mask. -/
def Obligations.OperandTraps : Prop :=
  (∀ s c i xs d f, IntegerRow i xs d f ∨ ExchangeRow i xs d f ∨ FloatRow i xs d f ∨ FunctionRow i xs d f → s.ctx = some c →
    let un := c.perf.filter fun t => xs.any fun x => match x.op with
      | .h k => decide ((c.path.fill.get t).toNat ≤ k.val)
      | _ => false
    un ≠ [] → (∀ t ∈ c.perf, ∀ x ∈ xs, c.badUnit t x = none) →
      exec i s = .next (s.takeTrap c { cause := .latch, mask := maskOf un }))
  ∧ (∀ s c i b xs off n t0 us, (∃ d wide m r f, GlLoadRow i d b off n wide m r f ∧ xs = [⟨b, true⟩])
      ∨ (∃ d m r, GlStoreRow i d b off n m r ∧ xs = [⟨b, true⟩, ⟨d, n == 8⟩]) → s.ctx = some c → c.Readable c.perf xs →
    let ea (t : Nat) : Nat := (c.v64 t b + BitVec.ofNat 64 off).toNat
    c.perf.filter (fun t => ea t % n != 0) = t0 :: us →
    exec i s = .next (s.takeTrap c { cause := .align, mask := maskOf (t0 :: us), addr := BitVec.ofNat 64 (ea t0) }))
  ∧ ∀ s c i b xs off n t0 us, (∃ d wide m r f, SpLoadRow i d b off n wide m r f ∧ xs = [⟨b, false⟩])
      ∨ (∃ d m r, SpStoreRow i d b off n m r ∧ xs = [⟨b, false⟩, ⟨d, n == 8⟩]) → s.ctx = some c → c.Readable c.perf xs →
    let ea (t : Nat) : Nat := (c.v32 t b + BitVec.ofNat 32 off).toNat
    (c.perf.filter (fun t => ea t % n != 0) = t0 :: us →
      exec i s = .next (s.takeTrap c { cause := .align, mask := maskOf (t0 :: us), addr := BitVec.ofNat 64 (ea t0) }))
    ∧ (Aligned ea n c.perf → (∀ t ∈ c.perf, s.spPlace c.group true (ea t) n ≠ .error .perm) →
      c.perf.filter (fun t => match s.spPlace c.group true (ea t) n with | .error _ => true | .ok _ => false) = t0 :: us →
      exec i s = .next (s.takeTrap c { cause := .spbound, mask := maskOf (t0 :: us), addr := BitVec.ofNat 64 (ea t0) }))

/-! ### Control -/

/-- A transfer whose threads are none or the whole path (R120 to R124): the path goes on, or moves to the target with its
latches cleared; branches of a path without threads (R121, R122). -/
def Obligations.TransfersStayOrMove : Prop :=
  (∀ s c i pre target ts w, TransferRow i pre target ts w → s.ctx = some c → pre c →
    let u := (s.modWave c.ref.group c.ref.wix (w c)).complete c c.perf
    (ts c = [] → exec i s = .next u)
    ∧ (ts c ≠ [] → maskOf (ts c) = c.path.mask →
        exec i s = .next (u.modPath c.ref fun p => { p with pc := target c, latch := [], fill := [] })))
  ∧ (∀ s c e p x, s.ctx = some c → c.path.mask = 0 →
    exec (.bra e p x) s = .next (if e = false ∧ p = 0 ∧ c.path.seq.guard = none then
        (s.complete c []).modPath c.ref fun q => { q with pc := c.blockAt x, latch := [], fill := [] }
      else s.complete c []))
  ∧ ∀ s c e p x, s.ctx = some c → c.path.mask = 0 →
    exec (.bru e p x) s = .next (if (if p = 0 then !e else c.bruHolds e p 0) = true then
        (s.complete c []).modPath c.ref fun q => { q with pc := c.blockAt x, latch := [], fill := [] }
      else s.complete c [])

/-- A transfer of some of the path's threads splits it (R50, R53, R120): into the free slot, or onto the divergence stack
while the declared depth allows it; beyond it DIVSTK (R56). Beside the record of R55 the model keeps what the record has no field
for, the privilege and the registers in error of the path that waits, and the bytes it wrote: the model's choice (logs 19, 92). -/
def Obligations.TransfersSplit : Prop :=
  ∀ s c i pre target ts w, TransferRow i pre target ts w → s.ctx = some c → pre c → ts c ≠ [] → maskOf (ts c) ≠ c.path.mask →
    let m := maskOf (ts c)
    (c.wave.path? (!c.ref.slot) = none →
      ∃ t c', exec i s = .next t ∧ OnlyWave c.ref s t ∧ SplitOff c (w c) m (some (c.leaves m (target c))) t c')
    ∧ (∀ q s2, c.wave.path? (!c.ref.slot) = some q → c.wave.depth < c.launch.dsdepth →
        let out := recordBytes (c.leaves m (target c)) false (target c)
        s.storeRecord c c.wave.depth out = .ok s2 →
        ∃ t v, exec i s = .next t ∧ t.wave? c.ref.group c.ref.wix = some v
          ∧ { t with groups := s.groups } = s2 ∧ t.shells = s.shells
          ∧ v.path? c.ref.slot = some (c.stays m) ∧ v.path? (!c.ref.slot) = some q ∧ v.depth = c.wave.depth + 1
          ∧ (v.w, v.o, v.p, v.wb, v.sb) = ((w c c.wave).w, (w c c.wave).o, (w c c.wave).p, (w c c.wave).wb, (w c c.wave).sb)
          ∧ v.stack = ⟨m, some (c.wave.splitNo, true), false, c.path.priv, c.path.badS, out⟩ :: c.wave.stack
          ∧ v.splits = ⟨c.wave.splitNo, c.path.split, c.path.fmt, c.path.marks, false⟩ :: c.wave.splits)
    ∧ (∀ q, c.wave.path? (!c.ref.slot) = some q → c.launch.dsdepth ≤ c.wave.depth →
        exec i s = .next (s.takeTrap c { cause := .divstk, mask := m }))

/-- `wbase` moves the window of each performing thread by its operand (R44, R45, R127); `setmask` gives the path the threads of
it, or that nothing holds, that its operand names (R131). -/
def Obligations.WindowAndMaskWords : Prop :=
  (∀ s c a, s.ctx = some c → c.path.priv = false → c.Readable c.perf [⟨a, false⟩] →
    c.WindowFits (fun t => (c.v32 t a).toInt) c.perf →
    ∃ t c', exec (.wbase a) s = .next t ∧ OnlyWave c.ref s t ∧ t.ctxAt c.ref = some c'
      ∧ c'.path = c.path.next ∧ c'.wave.path? (!c.ref.slot) = c.wave.path? (!c.ref.slot)
      ∧ (∀ j, (c'.wave.wb.get j).toInt = if j ∈ c.perf then ((c.wave.wb.get j).toNat : Int) + (c.v32 j a).toInt
          else (c.wave.wb.get j).toInt)
      ∧ (c'.wave.w, c'.wave.o, c'.wave.p, c'.wave.sb, c'.wave.seg) = (c.wave.w, c.wave.o, c.wave.p, c.wave.sb, c.wave.seg))
  ∧ ∀ s c a, s.ctx = some c → c.Readable (c.readers a) [⟨a, false⟩] → (∀ t ∈ c.readers a, ∀ u ∈ c.readers a, c.v32 t a = c.v32 u a) →
    ∃ m : Mask, exec (.setmask a) s = .next ((s.complete c c.perf).modPath c.ref fun p => { p with mask := m })
      ∧ ∀ t < 32, m.getLsbD t = ((c.v32 (c.oneReader a) a).getLsbD t && (c.path.mask.getLsbD t || c.unowned t))

/-- `join` alone, waiting, and merging with a partner that waits (R51, R54, R125, R126). What the clauses of the divergence stack
say beyond the record of R55 is the model's choice: a path that waits at the join has its PC plus 4 in the record (log 20), and
its mask, split, privilege and registers in error stand in the shadow (log 19), and what a record gives that something else has
written is free (log 92). -/
def Obligations.JoinWords : Prop :=
  (∀ s c, s.ctx = some c → (∀ n side, c.path.split = some (n, side) → c.wave.split? n = none) →
    exec .join s = .next ((s.complete c c.perf).modPath c.ref fun p => { p with latch := [], fill := [] }))
  ∧ (∀ s c n side e, s.ctx = some c → c.path.split = some (n, side) → c.wave.split? n = some e → e.ended = true →
    exec .join s = .next ((s.complete c c.perf).modWave c.ref.group c.ref.wix fun w => (w.dropSplit n).modPath c.ref.slot fun p =>
      { p with split := e.outer, marks := if e.outer = none then 0 else e.marks ||| p.marks, latch := [], fill := [] }))
  ∧ (∀ s c n side e, s.ctx = some c → c.path.split = some (n, side) → c.wave.split? n = some e → e.ended = false →
    ((∃ q, c.wave.path? (!c.ref.slot) = some q ∧ q.split = some (n, !side) ∧ ¬(q.wait = .join ∧ q.pc = c.path.pc))
      ∨ ((∀ q, c.wave.path? (!c.ref.slot) = some q → q.split ≠ some (n, !side))
          ∧ ∀ h ∈ c.wave.stack.head?, h.split ≠ some (n, !side))) →
    exec .join s = .next (s.modPath c.ref fun p => { p.next with pc := c.path.pc, latch := [], fill := [], wait := .join }))
  ∧ (∀ s c n side e q, s.ctx = some c → c.path.split = some (n, side) → c.wave.split? n = some e → e.ended = false →
    c.wave.path? (!c.ref.slot) = some q → q.split = some (n, !side) → q.wait = .join → q.pc = c.path.pc → c.wave.stack = [] →
    let nt := if side then q else c.path
    let tk := if side then c.path else q
    let slot := if side then !c.ref.slot else c.ref.slot
    ∃ t v p, exec .join s = .next t ∧ OnlyWave c.ref s t ∧ t.wave? c.ref.group c.ref.wix = some v ∧ v.path? slot = some p
      ∧ v.path? (!slot) = none ∧ Merged e nt tk p ∧ p.pc = c.path.pc + 4 ∧ v.split? n = none
      ∧ (v.ucf = true ↔ c.wave.ucf = true ∨ Conflict nt tk))
  ∧ ∀ s c n side e h bs, s.ctx = some c → c.path.split = some (n, side) → c.wave.split? n = some e → e.ended = false →
    (∀ q, c.wave.path? (!c.ref.slot) = some q → q.split ≠ some (n, !side)) → c.wave.stack.head? = some h →
    h.split = some (n, !side) → s.readRecord c (c.wave.depth - 1) = .ok bs →
    let q := recordPath h bs
    (h.wait = true → q.pc = c.path.pc →
      let nt := if side then q else c.path
      let tk := if side then c.path else q
      ∃ t v p, exec .join s = .next t ∧ OnlyWave c.ref s t ∧ t.wave? c.ref.group c.ref.wix = some v ∧ v.path? c.ref.slot = some p
        ∧ Merged e nt tk p ∧ p.pc = c.path.pc + 4 ∧ v.depth = c.wave.depth - 1 ∧ v.stack = c.wave.stack.tail
        ∧ (v.ucf = true ↔ c.wave.ucf = true ∨ Conflict nt tk))
    ∧ ∀ s1, h.wait = false →
      let out := recordBytes { c.path with seq := Seq.empty } true (c.path.pc + 4)
      s.storeRecord c (c.wave.depth - 1) out = .ok s1 →
      exec .join s = .next (s1.modWave c.ref.group c.ref.wix fun w =>
        ({ w with stack := ⟨c.path.mask, c.path.split, true, c.path.priv, c.path.badS, out⟩ :: w.stack.tail }).setPath c.ref.slot (some q))

/-- `exit` (R54, R126): threads end and the path goes on with the others, or the path ends, its slot is free, and what waits for it
is released. Inside an open split the other side goes on behind its JOIN, or finds its split ended when it comes there; a record
on the divergence stack takes the free slot. That it comes back at the record's PC, less 4 when it waited at a join, with mask and
privilege from the shadow, is the model's choice (log 19, 20), and a record that something else has written is free (log 92). At P1 the end of the handler's path also frees the trap record
(log 73). -/
def Obligations.ExitEndsThreads : Prop :=
  (∀ s c, s.ctx = some c → s.NoneHeld c.ref → maskOf c.perf ≠ c.path.mask →
    ∃ t c', exec .exit s = .next t ∧ OnlyWave c.ref s t ∧ t.ctxAt c.ref = some c'
      ∧ c'.path = { c.path.next with mask := c.path.mask &&& ~~~maskOf c.perf }
      ∧ c'.wave.exited = c.wave.exited ||| maskOf c.perf
      ∧ (c'.wave.w, c'.wave.o, c'.wave.p) = (c.wave.w, c.wave.o, c.wave.p))
  ∧ ∀ s c, s.ctx = some c → s.NoneHeld c.ref → maskOf c.perf = c.path.mask →
    (c.path.priv = false ∨ c.wave.owner ≠ some c.ref.slot) →
    let ends (f : Wave → Prop) : Prop :=
      ∃ u v, exec .exit s = .next (u.tidy c.ref.group) ∧ OnlyWave c.ref s u ∧ u.wave? c.ref.group c.ref.wix = some v
        ∧ v.exited = c.wave.exited ||| maskOf c.perf ∧ (v.w, v.o, v.p) = (c.wave.w, c.wave.o, c.wave.p)
        ∧ (∀ o ∈ v.mq, o.slot = c.ref.slot → o.dst = .z) ∧ f v
    let other : Option Path := c.wave.path? (!c.ref.slot)
    (c.path.split = none → c.wave.stack = [] →
      exec .exit s = .next ((s.modWave c.ref.group c.ref.wix fun w =>
        { (({ (if c.path.priv then w else w.retire c.perf 0) with
              exited := w.exited ||| maskOf c.perf, held := [] } : Wave).setPath c.ref.slot none) with
          mq := w.mq.map fun o => if o.slot = c.ref.slot then { o with dst := .z } else o }).tidy c.ref.group))
    ∧ (∀ n side e, c.path.split = some (n, side) → c.wave.split? n = some e → e.ended = false →
      (∀ q, other = some q → q.split = some (n, !side) → q.wait = .join → c.wave.stack = [] →
        ends fun v => v.path? c.ref.slot = none ∧ v.split? n = none
          ∧ v.path? (!c.ref.slot) = some { q with
              pc := q.pc + 4, wait := .none, seq := Seq.empty, latch := [], fill := [], split := e.outer
              marks := if e.outer = none then 0 else e.marks ||| q.marks })
      ∧ ((∀ q, other = some q → ¬(q.split = some (n, !side) ∧ q.wait = .join)) →
        (c.wave.stack = [] →
          ends fun v => v.path? c.ref.slot = none ∧ v.path? (!c.ref.slot) = other ∧ v.split? n = some { e with ended := true })
        ∧ ∀ h hs bs, c.wave.stack = h :: hs → h.split = some (n, !side) → h.wait = true →
          s.readRecord c (c.wave.depth - 1) = .ok bs →
          let q := recordPath h bs
          ends fun v => v.split? n = none ∧ v.path? (!c.ref.slot) = other ∧ v.depth = c.wave.depth - 1 ∧ v.stack = hs
            ∧ v.path? c.ref.slot = some { q with
                pc := q.pc + 4, wait := .none, split := e.outer, marks := if e.outer = none then 0 else e.marks ||| q.marks }))
    ∧ ∀ h hs bs, c.path.split = none → c.wave.stack = h :: hs → h.wait = false → s.readRecord c (c.wave.depth - 1) = .ok bs →
      ends fun v => v.path? c.ref.slot = some (recordPath h bs) ∧ v.path? (!c.ref.slot) = other ∧ v.depth = c.wave.depth - 1
        ∧ v.stack = hs

/-- `getmask` (R130). -/
def Obligations.GetmaskWord : Prop :=
  ∀ s c d, s.ctx = some c → ∃ t, exec (.getmask d) s = .next t ∧ Vec32 c s d (fun _ => c.path.mask) t

/-- `nop`, `yield` and the prefixes (R32 to R35, R133); `sleepn` and `waitt` (R134, R135, R233): with the deadline passed the
word completes, before it the path waits; a trap in between leaves the deadline. In a reproducible launch each ends the quantum. -/
def Obligations.PlainWords : Prop :=
  (∀ s c, s.ctx = some c → ∃ t, exec .nop s = .next t ∧ Passed c s c.perf t)
  ∧ (∀ s c, s.ctx = some c → exec .yield s = .next { s.complete c c.perf with cur := none })
  ∧ (∀ s c e p, s.ctx = some c → c.path.seq.guard = none → c.path.seq.chain = 0 → c.path.pc.toNat % 64 ≠ 60 →
    exec (.grd e p) s = .next (s.modPath c.ref fun q => { q with pc := q.pc + 4, seq := { q.seq with guard := some (e, p) } }))
  ∧ (∀ s c i, s.ctx = some c → c.path.seq.chain < 3 → c.path.pc.toNat % 64 ≠ 60 →
    exec (.xim i) s = .next (s.modPath c.ref fun q =>
      { q with pc := q.pc + 4, seq := { q.seq with chain := q.seq.chain + 1, imm := q.seq.imm * 2 ^ 25 + i.toNat } }))
  ∧ (∀ s c k i, s.ctx = some c → c.path.wait = .time k ∨ ((∀ j, c.path.wait ≠ .time j) ∧ c.path.deadline = some k) →
    (∃ d x, i = .sleepn d x) ∨ (∃ a, i = .waitt a) → c.launch.repro = false →
    (k ≤ s.ns.toNat → ∃ t, exec i s = .next t ∧ Passed c s c.perf t)
    ∧ (s.ns.toNat < k → exec i s = .next (s.modPath c.ref fun p => { p with wait := .time k, since := s.ns.toNat })))
  ∧ (∀ s c d i, s.ctx = some c → (∀ k, c.path.wait ≠ .time k) → c.path.deadline = none → c.SReadable [(d, false)] →
    let k := s.ns.toNat + (c.s32 d).toNat + i.toNat
    (c.launch.repro = false → exec (.sleepn d i) s = .next (if k ≤ s.ns.toNat then s.complete c c.perf
      else s.modPath c.ref fun p => { p with wait := .time k, since := s.ns.toNat }))
    ∧ (c.launch.repro = true → exec (.sleepn d i) s = .next ((s.modWave c.ref.group c.ref.wix fun w => { w with qended := true }).modPath
        c.ref fun p => { p with wait := .time k, since := s.ns.toNat })))
  ∧ ∀ s c a, s.ctx = some c → (∀ k, c.path.wait ≠ .time k) → c.path.deadline = none → c.Readable (c.readers a) [⟨a, true⟩] →
    c.Agree (c.readers a) a →
    let k := (c.v64 (c.oneReader a) a).toNat
    (c.launch.repro = false → exec (.waitt a) s = .next (if k ≤ s.ns.toNat then s.complete c c.perf
      else s.modPath c.ref fun p => { p with wait := .time k, since := s.ns.toNat }))
    ∧ (c.launch.repro = true → exec (.waitt a) s = .next ((s.modWave c.ref.group c.ref.wix fun w => { w with qended := true }).modPath
        c.ref fun p => { p with wait := .time k, since := s.ns.toNat }))

/-- `trap n` enters with DEBUG and resumes after the word; `tret` returns (R132, R368). -/
def Obligations.TrapAndReturnWords : Prop :=
  (∀ s c n, s.ctx = some c → exec (.trap n) s = .next
    ((if c.path.priv then s else s.modWave c.ref.group c.ref.wix fun w => w.retire c.perf c.path.counted).takeTrap c
      { cause := .debug, addr := n.setWidth 64, after := some (c.path.pc + 4) }))
  ∧ ∀ s c, s.ctx = some c → c.path.priv = true → c.wave.queued = none →
    let r := c.wave.trap
    let kill := r.kill &&& c.path.mask
    (kill ≠ c.path.mask ∨ c.path.mask = 0) →
    ∃ t c', exec .tret s = .next t ∧ OnlyWave c.ref s t ∧ t.ctxAt c.ref = some c'
      ∧ c'.path.pc = r.pc ∧ c'.path.priv = decide (r.level ≠ 0) ∧ c'.path.mask = c.path.mask &&& ~~~kill ∧ c'.path.latch = []
      ∧ c'.path.fill = [] ∧ c'.path.s = c.path.s
      ∧ c'.path.replay = (if r.part then some (r.mask &&& ~~~kill) else none) ∧ (r.part = true ∨ r.refs = [] ∨ r.pc ≠ r.at_ → c'.path.wait = .none)
      ∧ c'.wave.exited = c.wave.exited ||| kill ∧ c'.wave.owner = none ∧ c'.path.deadline = (if r.pc = r.at_ then r.deadline else none)
      ∧ (c'.wave.w, c'.wave.o, c'.wave.p, c'.wave.wb, c'.wave.sb) = (c.wave.w, c.wave.o, c.wave.p, c.wave.wb, c.wave.sb)

/-! ### Memory -/

/-- Scratchpad loads (R145, R161): every performing thread's bytes, extended, are its result; an `rlx` load may give what the
model has read for it early, or issue now and read later (log 7). -/
def Obligations.ScratchpadLoadsComplete : Prop :=
  ∀ (s : State) (c : Ctx) i d b off n wide m r f p, SpLoadRow i d b off n wide m r f → s.ctx = some c →
    c.Readable c.perf [⟨b, false⟩] →
    let ea (t : Nat) : Nat := (c.v32 t b + BitVec.ofNat 32 off).toNat
    let v (t : Nat) : DWord := f (s.spSeen c t r (p t) n)
    Aligned ea n c.perf → s.SpLoads c true ea n c.perf p → s.NoPromote m r →
    (c.First → (∀ t ∈ c.perf, c.Apart d t (p t)) →
      ∃ t c', exec i s = .next t ∧ Completed c s c.perf t c' ∧ WroteR c c' wide d c.perf v ∧ SameS c c' ∧ SameP c c'
        ∧ Pushed c c' c.perf v)
    ∧ ∀ g o : Nat → Nat, (∀ t ∈ c.perf, p t = .sp (g t) (o t)) → c.ReadsLater s r → c.Together →
      ∃ t c' z, exec i s = .next t ∧ OnlyWave c.ref s t ∧ t.ctxAt c.ref = some c' ∧ c'.path = c.path.next ∧ Extends n f z
        ∧ c'.wave.loads = c.wave.loads ++ c.perf.map (fun t => ⟨t, c.ref.slot, .sp (g t) (o t), n, z, d⟩)
        ∧ SameV c c' ∧ SameS c c' ∧ SameP c c' ∧ SameL c c'

/-- Global loads (R160, R161), as scratchpad loads. -/
def Obligations.GlobalLoadsComplete : Prop :=
  ∀ (s : State) (c : Ctx) i d b off n wide m r f p, GlLoadRow i d b off n wide m r f → s.ctx = some c →
    c.Readable c.perf [⟨b, true⟩] →
    let ea (t : Nat) : Nat := (c.v64 t b + BitVec.ofNat 64 off).toNat
    let v (t : Nat) : DWord := f (s.seen c t r (p t) n)
    Aligned ea n c.perf → s.GLoads c ea n c.perf p → s.NoPromote m r →
    (c.First → ∃ t c', exec i s = .next t ∧ Finished c c.perf t c' ∧ OnlyAccess c.ref s t ∧ WroteR c c' wide d c.perf v ∧ SameS c c'
      ∧ SameP c c' ∧ Pushed c c' c.perf v)
    ∧ (c.ReadsLater s r → c.Together →
      ∃ t c' z, exec i s = .next t ∧ OnlyAccess c.ref s t ∧ t.ctxAt c.ref = some c' ∧ c'.path = c.path.next ∧ Extends n f z
        ∧ c'.wave.loads = c.wave.loads ++ c.perf.map (fun t => ⟨t, c.ref.slot, .phys (p t), n, z, d⟩)
        ∧ SameV c c' ∧ SameS c c' ∧ SameP c c' ∧ SameL c c')

/-- Scratchpad stores (R161, R217, R231): in ascending threads, at once; where the model shows what the memory model allows (log 7),
a relaxed store, or one to a register, is held back, a store of a scope narrower than the cluster stands before its instance
only, and what its thread has read early of the bytes is void. -/
def Obligations.ScratchpadStoresComplete : Prop :=
  ∀ (s : State) (c : Ctx) i d b off n m r p, SpStoreRow i d b off n m r → s.ctx = some c →
    c.Readable c.perf [⟨b, false⟩, ⟨d, n == 8⟩] →
    let ea (t : Nat) : Nat := (c.v32 t b + BitVec.ofNat 32 off).toNat
    Aligned ea n c.perf → s.SpStores c true ea n c.perf p → c.First →
    let hs := c.perf.flatMap fun t => (p t).stores t (scopeLevel m) (c.low d n t)
    ((s.relaxed = false ∨ (r ≠ .rlx ∧ 2 ≤ scopeLevel m ∧ s.NoneEarly c.ref ∧ ∀ t ∈ c.perf, ∃ g o, p t = .sp g o)) →
      s.NoneHeld c.ref → ∃ t, exec i s = .next t
        ∧ t = (c.perf.foldl (fun u j => u.spWrite (p j) (c.low d n j)) s).complete c c.perf
        ∧ { t with groups := s.groups } = s
        ∧ ∀ g o, t.spByteAt g o = match lastSpByte (c.perf.map fun j => (p j, c.low d n j)) g o with
          | some x => (s.spByteAt g o).map fun _ => x
          | none => s.spByteAt g o)
    ∧ (s.relaxed = true → (r = .rlx ∨ (s.NoneHeld c.ref ∧ ∃ t g x u k i, c.perf = [t] ∧ p t = .reg g x u k i)) →
      exec i s = .next ((s.modWave c.ref.group c.ref.wix fun w =>
        { w with
          held := w.held ++ hs
          early := w.early.filter fun x => hs.all fun h => !(x.thread == h.thread && x.meets h) }).complete c c.perf))
    ∧ ∀ g o : Nat → Nat, s.relaxed = true → r ≠ .rlx → scopeLevel m < 2 → s.NoneHeld c.ref → s.NoneEarly c.ref →
      (∀ t ∈ c.perf, p t = .sp (g t) (o t)) →
      exec i s = .next (({ s with near := c.perf.map fun t =>
        ⟨c.group.id, c.ref.wix, c.group.cluster, scopeLevel m, ⟨t, .sp (g t) (o t), c.low d n t, scopeLevel m⟩⟩ } : State).complete
          c c.perf)

/-- Global stores (R161, R217, R220, R232): memory holds the last store to each byte and is otherwise as before; a reproducible
launch buffers them; where the model shows what the memory model allows (log 7), a relaxed store is held back, and one of a scope
narrower than the device stands before its instance only. -/
def Obligations.GlobalStoresComplete : Prop :=
  ∀ (s : State) (c : Ctx) i d b off n m r, GlStoreRow i d b off n m r → s.ctx = some c →
    c.Readable c.perf [⟨b, true⟩, ⟨d, n == 8⟩] →
    let ea (t : Nat) : Nat := (c.v64 t b + BitVec.ofNat 64 off).toNat
    Aligned ea n c.perf → c.First →
    (∀ u ps, c.launch.repro = false → (s.relaxed = false ∨ (r ≠ .rlx ∧ scopeLevel m = 4)) → s.NoneHeld c.ref →
      s.stores c ea (c.low d n) c.perf = some (u, ps) →
      ∃ t c', exec i s = .next t ∧ Finished c c.perf t c' ∧ OnlyMemory c.ref s u t
        ∧ (∀ q, t.byteAt q = (lastByte ps q).getD (s.byteAt q)) ∧ SameV c c' ∧ SameS c c' ∧ SameP c c' ∧ SameL c c')
    ∧ ∀ p : Nat → Phys, (∀ t ∈ c.perf, s.translate c.group.die c.launch.ctx c.path.priv .store (ea t) n = .ok (p t)) →
      let h (t : Nat) : Held := ⟨t, .phys (p t), c.low d n t, scopeLevel m⟩
      (c.launch.repro = true → c.wave.cbuf = [] ∨ c.wave.cbuf.length + c.perf.length ≤ 512 →
        ∃ t c', exec i s = .next t ∧ OnlyAccess c.ref s t ∧ t.ctxAt c.ref = some c' ∧ c'.path = c.path.next
          ∧ c'.wave.cbuf = c.wave.cbuf ++ c.perf.map (fun t => .store (p t) (c.low d n t))
          ∧ SameV c c' ∧ SameS c c' ∧ SameP c c' ∧ SameL c c')
      ∧ (c.launch.repro = false → s.relaxed = true → r = .rlx →
        ∃ t c', exec i s = .next t ∧ OnlyAccess c.ref s t ∧ t.ctxAt c.ref = some c' ∧ c'.path = c.path.next
          ∧ c'.wave.held = c.wave.held ++ c.perf.map h ∧ SameV c c' ∧ SameS c c' ∧ SameP c c' ∧ SameL c c')
      ∧ (c.launch.repro = false → s.relaxed = true → r ≠ .rlx → scopeLevel m < 4 → s.NoneHeld c.ref →
        ∃ t c', exec i s = .next t ∧ OnlyAccess c.ref s { t with near := [] } ∧ t.ctxAt c.ref = some c' ∧ c'.path = c.path.next
          ∧ t.near = c.perf.map (fun t => ⟨c.group.id, c.ref.wix, c.group.cluster, scopeLevel m, h t⟩)
          ∧ SameV c c' ∧ SameS c c' ∧ SameP c c' ∧ SameL c c')

/-- Tile rows (R162, R232). A load gives eight registers of each performing thread its 32-byte sector and pushes the first 64
bits; a store goes sector by sector in ascending addresses, threads of one address in ascending order; the buffer of a
reproducible launch takes its sectors in ascending threads. Where the model shows what the memory model allows (log 7), a relaxed
row is held back, and one of a narrower scope stands before its instance only. -/
def Obligations.TileRowsComplete : Prop :=
  (∀ (s : State) (c : Ctx) d b o m r p, s.ctx = some c → c.Readable c.perf [⟨b, true⟩] →
    let ea (t : Nat) : Nat := (c.v64 t b + BitVec.ofNat 64 (32 * o.toNat)).toNat
    let row (t : Nat) : List Byte := s.view c t (p t) 32
    Aligned ea 32 c.perf → s.GLoads c ea 32 c.perf p → c.First → s.NoPromote m r →
    ∃ t c', exec (.ldtG d b o m r) s = .next t ∧ Finished c c.perf t c' ∧ OnlyAccess c.ref s t ∧ WroteRow c c' d c.perf row
      ∧ SameS c c' ∧ SameP c c' ∧ Pushed c c' c.perf fun t => BitVec.ofNat 64 (leNat ((row t).take 8)))
  ∧ (∀ (s : State) (c : Ctx) d b o m r p, s.ctx = some c → c.Readable c.perf [⟨b, false⟩] →
    let ea (t : Nat) : Nat := (c.v32 t b + BitVec.ofNat 32 (32 * o.toNat)).toNat
    let row (t : Nat) : List Byte := s.spView c t (p t) 32
    Aligned ea 32 c.perf → s.SpLoads c false ea 32 c.perf p → c.First → s.NoPromote m r →
    ∃ t c', exec (.ldtS d b o m r) s = .next t ∧ Completed c s c.perf t c' ∧ WroteRow c c' d c.perf row
      ∧ SameS c c' ∧ SameP c c' ∧ Pushed c c' c.perf fun t => BitVec.ofNat 64 (leNat ((row t).take 8)))
  ∧ (∀ (s : State) (c : Ctx) d b o m r, s.ctx = some c →
    c.Readable c.perf (⟨b, true⟩ :: (List.range 8).map fun i => ⟨srcOf (upReg i d), false⟩) →
    let ea (t : Nat) : Nat := (c.v64 t b + BitVec.ofNat 64 (32 * o.toNat)).toNat
    Aligned ea 32 c.perf → c.First → s.NoneHeld c.ref →
    (∀ us u ps, c.launch.repro = false → (s.relaxed = false ∨ (r ≠ .rlx ∧ scopeLevel m = 4)) → InOrder ea c.perf us →
      s.stores c ea (c.row d) us = some (u, ps) →
      ∃ t c', exec (.sttG d b o m r) s = .next t ∧ Finished c c.perf t c' ∧ OnlyMemory c.ref s u t
        ∧ (∀ q, t.byteAt q = (lastByte ps q).getD (s.byteAt q)) ∧ SameV c c' ∧ SameS c c' ∧ SameP c c' ∧ SameL c c')
    ∧ ∀ p : Nat → Phys,
      (∀ t ∈ c.perf, s.translate c.group.die c.launch.ctx c.path.priv .store (ea t) 32 = .ok (p t)) →
      (c.launch.repro = true → c.wave.cbuf = [] ∨ c.wave.cbuf.length + c.perf.length ≤ 512 →
        ∃ t c', exec (.sttG d b o m r) s = .next t ∧ OnlyAccess c.ref s t ∧ t.ctxAt c.ref = some c' ∧ c'.path = c.path.next
          ∧ c'.wave.cbuf = c.wave.cbuf ++ c.perf.map (fun t => .store (p t) (c.row d t))
          ∧ SameV c c' ∧ SameS c c' ∧ SameP c c' ∧ SameL c c')
      ∧ ∀ us, c.launch.repro = false → s.relaxed = true → (r = .rlx ∨ scopeLevel m < 4) → InOrder ea c.perf us →
        let hs : List Held := us.map fun t => ⟨t, .phys (p t), c.row d t, scopeLevel m⟩
        ∃ t c', exec (.sttG d b o m r) s = .next t ∧ OnlyAccess c.ref s { t with near := [] } ∧ t.ctxAt c.ref = some c'
          ∧ c'.path = c.path.next ∧ c'.wave.held = (if r = .rlx then hs else [])
          ∧ t.near = (if r = .rlx then [] else hs.map fun h => ⟨c.group.id, c.ref.wix, c.group.cluster, scopeLevel m, h⟩)
          ∧ SameV c c' ∧ SameS c c' ∧ SameP c c' ∧ SameL c c')
  ∧ ∀ (s : State) (c : Ctx) d b o m r us p, s.ctx = some c →
    c.Readable c.perf (⟨b, false⟩ :: (List.range 8).map fun i => ⟨srcOf (upReg i d), false⟩) →
    let ea (t : Nat) : Nat := (c.v32 t b + BitVec.ofNat 32 (32 * o.toNat)).toNat
    Aligned ea 32 c.perf → s.SpStores c false ea 32 c.perf p → c.First → s.NoneHeld c.ref → InOrder ea c.perf us →
    let u := us.foldl (fun u j => u.spWrite (p j) (c.row d j)) s
    (s.relaxed = false ∨ (r ≠ .rlx ∧ 2 ≤ scopeLevel m) →
      ∃ t c', exec (.sttS d b o m r) s = .next t ∧ Finished c c.perf t c' ∧ OnlyScratchpad c.ref s u t
        ∧ (∀ g o, t.spByteAt g o = match lastSpByte (us.map fun j => (p j, c.row d j)) g o with
            | some x => (s.spByteAt g o).map fun _ => x
            | none => s.spByteAt g o)
        ∧ SameV c c' ∧ SameS c c' ∧ SameP c c' ∧ SameL c c')
    ∧ (s.relaxed = true → (r = .rlx ∨ scopeLevel m < 2) →
      let hs := us.flatMap fun t => (p t).stores t (scopeLevel m) (c.row d t)
      ∃ t c', exec (.sttS d b o m r) s = .next t ∧ OnlyWave c.ref s { t with near := [] } ∧ t.ctxAt c.ref = some c'
        ∧ c'.path = c.path.next ∧ c'.wave.held = (if r = .rlx then hs else [])
        ∧ t.near = (if r = .rlx then [] else hs.map fun h => ⟨c.group.id, c.ref.wix, c.group.cluster, scopeLevel m, h⟩)
        ∧ SameV c c' ∧ SameS c c' ∧ SameP c c' ∧ SameL c c')

/-- Scratchpad atomics (R163 to R165): one read-modify-write per performing thread, in ascending threads; the old value is the
result. With a scope narrower than the cluster the new value stands before its instance only, where the model shows that (log 7). -/
def Obligations.ScratchpadAtomicsComplete : Prop :=
  ∀ (s : State) (c : Ctx) i d b op wide m r p, SpAtomRow i d b op wide m r → s.ctx = some c →
    c.Readable c.perf (⟨b, false⟩ :: atomReads d wide op) →
    let ea (t : Nat) : Nat := (c.v32 t b).toNat
    let n := if wide then 8 else 4
    let new (t : Nat) (old : DWord) : Nat := atomValue wide op old (c.atomOps d wide t).1 (c.atomOps d wide t).2
    Aligned ea n c.perf → s.SpLoads c false ea n c.perf p → c.First → s.NoneHeld c.ref →
    (s.relaxed = false ∨ 2 ≤ scopeLevel m →
      let r := s.spAtoms p n new c.perf
      ∃ t c', exec i s = .next t ∧ Finished c c.perf t c' ∧ OnlyScratchpad c.ref s r.1 t ∧ WroteR c c' wide d c.perf r.2
        ∧ SameS c c' ∧ SameP c c' ∧ Pushed c c' c.perf r.2)
    ∧ ∀ j g o, s.relaxed = true → scopeLevel m < 2 → c.perf = [j] → p j = .sp g o →
      let old : DWord := BitVec.ofNat 64 (leNat (s.spRead (.sp g o) n))
      ∃ t c', exec i s = .next t ∧ Finished c c.perf t c' ∧ OnlyWave c.ref s { t with near := [] }
        ∧ t.near = [⟨c.group.id, c.ref.wix, c.group.cluster, scopeLevel m, ⟨j, .sp g o, leBytes n (new j old), scopeLevel m⟩⟩]
        ∧ WroteR c c' wide d c.perf (fun _ => old) ∧ SameS c c' ∧ SameP c c' ∧ Pushed c c' c.perf fun _ => old

/-- Global atomics (R163 to R165, R232, R236): at once, or into the commit buffer of a reproducible launch, each thread upon what
the wave then sees of memory; the old value is the result. Host and peer memory allow only add, exchange and compare-and-swap.
With a scope narrower than the device the new value stands before its instance only, where the model shows that (log 7). -/
def Obligations.GlobalAtomicsComplete : Prop :=
  ∀ (s : State) (c : Ctx) i d b op wide m r, GlAtomRow i d b op wide m r → s.ctx = some c →
    c.Readable c.perf (⟨b, true⟩ :: atomReads d wide op) →
    let ea (t : Nat) : Nat := (c.v64 t b).toNat
    let n := if wide then 8 else 4
    let far := op == .add || op == .exch || op == .cas
    let ab (t : Nat) : DWord × DWord := c.atomOps d wide t
    let new (t : Nat) (old : DWord) : Nat := atomValue wide op old (ab t).1 (ab t).2
    Aligned ea n c.perf → c.First → s.NoneHeld c.ref →
    (∀ u ps old, c.launch.repro = false → c.launch.snap = none → (s.relaxed = false ∨ scopeLevel m = 4) →
      s.glAtoms c ea n far new c.perf = some (u, ps, old) →
      ∃ t c', exec i s = .next t ∧ Finished c c.perf t c' ∧ OnlyMemory c.ref s u t
        ∧ (∀ q, t.byteAt q = (lastByte ps q).getD (s.byteAt q)) ∧ WroteR c c' wide d c.perf old ∧ SameS c c' ∧ SameP c c'
        ∧ Pushed c c' c.perf old)
    ∧ ∀ p : Nat → Phys,
      (∀ t ∈ c.perf, s.translate c.group.die c.launch.ctx c.path.priv .atomic (ea t) n = .ok (p t)) →
      ((∀ t ∈ c.perf, s.physBad (p t) n = false ∧ ((p t).space = .dev ∨ far = true)) →
        (c.launch.repro = true → (c.wave.cbuf = [] ∨ c.wave.cbuf.length + c.perf.length ≤ 512) →
          let old (u : State) (t : Nat) : DWord := u.valueAt c t (p t) n
          let e (u : State) (t : Nat) : CEntry := .atom (p t) wide op (ab t).1 (ab t).2 (BitVec.ofNat 64 (new t (old u t)))
          let xs := s.turns c e c.perf
          ∃ t c', exec i s = .next t ∧ t.ctxAt c.ref = some c' ∧ OnlyAccess c.ref s t
            ∧ c'.wave.cbuf = c.wave.cbuf ++ xs.map (fun x => e x.2 x.1) ∧ WroteR c c' wide d c.perf (oldIn xs old)
            ∧ Pushed c c' c.perf (oldIn xs old) ∧ c'.path.pc = c.path.pc + 4 ∧ c'.path.seq = Seq.empty ∧ SameS c c' ∧ SameP c c')
        ∧ ∀ j, c.launch.repro = false → c.launch.snap = none → s.relaxed = true → scopeLevel m < 4 → c.perf = [j] →
          let old : DWord := BitVec.ofNat 64 (leNat (s.physRead (p j) n))
          ∃ t c', exec i s = .next t ∧ Finished c c.perf t c' ∧ OnlyAccess c.ref s { t with near := [] }
            ∧ t.near = [⟨c.group.id, c.ref.wix, c.group.cluster, scopeLevel m,
                ⟨j, .phys (p j), leBytes n (new j old), scopeLevel m⟩⟩]
            ∧ WroteR c c' wide d c.perf (fun _ => old) ∧ SameS c c' ∧ SameP c c' ∧ Pushed c c' c.perf fun _ => old)
      ∧ ∀ j, c.perf = [j] → (p j).space ≠ .dev → far = false → (c.launch.repro = true → c.wave.cbuf.length < 512) →
        ∃ v, s.Excludes c j (BitVec.ofNat 64 (ea j)) v ∧ exec i s = .next v

/-- Fences and sync words (R166, R169, R221, R225): `fence`, `sinit`; tile state words (R164, R232, R320, R393): `tmark.full` and
`tmark.empty` upon device memory, PERM upon host and peer memory (log 86); `ttest`. -/
def Obligations.FenceAndStateWords : Prop :=
  (∀ (s : State) (c : Ctx) m r, s.ctx = some c → s.NoneHeld c.ref → ∃ t, exec (.fence m r) s = .next t ∧ Passed c s c.perf t)
  ∧ (∀ (s : State) (c : Ctx) m r, s.ctx = some c →
    ((m ≠ .devRm ∨ (r ≠ .acq ∧ r ≠ .ar)) → exec (.fence m r) s = .next
      ((if r = .rel ∨ r = .ar then s.release c.ref.group c.ref.wix (scopeLevel m) else s).complete c c.perf))
    ∧ (m = .devRm → r = .acq → exec (.fence m r) s = .next
      ((s.near.foldl (fun (u : State) (x : Near) => u.perform x.store) { s with near := [] }).complete c c.perf)))
  ∧ (∀ (s : State) (c : Ctx) a b p, s.ctx = some c → c.Readable c.perf [⟨a, false⟩, ⟨b, false⟩] →
    let ea (t : Nat) : Nat := (c.v32 t a).toNat
    let bs (t : Nat) : List Byte := leBytes 4 (c.v32 t b).toNat ++ leBytes 12 0
    Aligned ea 16 c.perf → s.SpStores c false ea 16 c.perf p → c.First → s.NoneHeld c.ref →
    let u := c.perf.foldl (fun u j => u.spWrite (p j) (bs j)) s
    ∃ t c', exec (.sinit a b) s = .next t ∧ Finished c c.perf t c' ∧ OnlyScratchpad c.ref s u t
      ∧ (∀ g o, t.spByteAt g o = match lastSpByte (c.perf.map fun j => (p j, bs j)) g o with
          | some x => (s.spByteAt g o).map fun _ => x
          | none => s.spByteAt g o)
      ∧ SameV c c' ∧ SameS c c' ∧ SameP c c' ∧ SameL c c')
  ∧ (∀ (s : State) (c : Ctx) i a f, TileMarkRow i a f → s.ctx = some c → c.Readable c.perf [⟨a, true⟩] →
    let ea (t : Nat) : Nat := (c.v64 t a).toNat
    Aligned ea 8 c.perf → c.First → s.NoneHeld c.ref →
    (∀ u ps old, c.launch.repro = false → c.launch.snap = none → s.glAtoms c ea 8 false (fun _ v => f v) c.perf = some (u, ps, old) →
      ∃ t c', exec i s = .next t ∧ Finished c c.perf t c' ∧ OnlyMemory c.ref s u t
        ∧ (∀ q, t.byteAt q = (lastByte ps q).getD (s.byteAt q)) ∧ SameV c c' ∧ SameS c c' ∧ SameP c c' ∧ SameL c c')
    ∧ ∀ p : Nat → Phys,
      (∀ t ∈ c.perf, s.translate c.group.die c.launch.ctx c.path.priv .atomic (ea t) 8 = .ok (p t)) →
      ((∀ t ∈ c.perf, s.physBad (p t) 8 = false ∧ (p t).space = .dev) → c.launch.repro = true →
        (c.wave.cbuf = [] ∨ c.wave.cbuf.length + c.perf.length ≤ 512) →
        let v (u : State) (t : Nat) : DWord := BitVec.ofNat 64 (f (u.valueAt c t (p t) 8))
        let e (u : State) (t : Nat) : CEntry := match i with
          | .tmarkFull _ => .full (p t) (v u t)
          | _ => .emptied (p t) (v u t)
        ∃ t c', exec i s = .next t ∧ OnlyAccess c.ref s t ∧ t.ctxAt c.ref = some c' ∧ c'.path = c.path.next
          ∧ c'.wave.cbuf = c.wave.cbuf ++ (s.turns c e c.perf).map (fun x => e x.2 x.1)
          ∧ SameV c c' ∧ SameS c c' ∧ SameP c c' ∧ SameL c c')
      ∧ ∀ j, c.perf = [j] → (p j).space ≠ .dev → (c.launch.repro = true → c.wave.cbuf.length < 512) →
        ∃ v, s.Excludes c j (BitVec.ofNat 64 (ea j)) v ∧ exec i s = .next v)
  ∧ ∀ (s : State) (c : Ctx) d a p, s.ctx = some c → c.Readable c.perf [⟨a, true⟩] →
    let ea (t : Nat) : Nat := (c.v64 t a).toNat
    Aligned ea 8 c.perf → s.GLoads c ea 8 c.perf p → c.First →
    ∃ t c', exec (.ttest d a) s = .next t ∧ Finished c c.perf t c' ∧ OnlyAccess c.ref s t
      ∧ WroteP c c' d c.perf (fun t => ((s.view c t (p t) 8).headD 0).getLsbD 0) ∧ SameV c c' ∧ SameS c c' ∧ SameL c c'

/-- `twait` (R170) and `waita` (R171): with every generation at its target, every watched word changed, the word completes,
otherwise the path waits; in a reproducible launch it waits for a commit (R172, R233). -/
def Obligations.WatchWords : Prop :=
  (∀ (s : State) (c : Ctx) d a b (gen : Nat → Word), s.ctx = some c → c.Readable c.perf [⟨a, false⟩, ⟨b, false⟩] →
    let ea (t : Nat) : Nat := (c.v32 t a).toNat
    let targets := c.perf.map fun t => (t, c.v32 t a, c.v32 t b)
    Aligned ea 16 c.perf → (∀ t ∈ c.perf, ∃ p, s.spPlace c.group false (ea t) 16 = .ok p) →
    (∀ x ts k, c.path.wait ≠ .twait x ts k) →
    (c.launch.repro = true → c.perf ≠ [] → exec (.twait d a b) s = .next (s.startWait c (.twait d targets s.ns.toNat)))
    ∧ ((∀ t ∈ c.perf, s.genAt c t (ea t) = .ok (gen t)) → c.launch.repro = false →
      let ok (t : Nat) : Prop := 1 ≤ (gen t - c.v32 t b).toNat ∧ (gen t - c.v32 t b).toNat ≤ 2 ^ 31 - 1
      ((∀ t ∈ c.perf, ok t) →
        ∃ t c', exec (.twait d a b) s = .next t ∧ OnlyWave c.ref s t ∧ t.ctxAt c.ref = some c'
          ∧ c'.path = { c.path.next with run := none } ∧ WroteP c c' d c.perf (fun _ => true) ∧ SameV c c')
      ∧ ((∃ t ∈ c.perf, ¬ ok t) →
        ∃ t c' k, exec (.twait d a b) s = .next t ∧ OnlyWave c.ref s t ∧ t.ctxAt c.ref = some c' ∧ c'.path.pc = c.path.pc
          ∧ c'.path.wait = .twait d targets k ∧ SameV c c' ∧ SameP c c')))
  ∧ ∀ (s : State) (c : Ctx) d b o m r p, s.ctx = some c → c.Readable c.perf [⟨b, true⟩, ⟨srcOf d, true⟩] →
    let ea (t : Nat) : Nat := (c.v64 t b + BitVec.ofNat 64 (8 * o.toNat)).toNat
    let v (t : Nat) : DWord := BitVec.ofNat 64 (leNat (s.view c t (p t) 8))
    let watch := c.perf.map fun t => (t, BitVec.ofNat 64 (ea t), c.v64 t (srcOf d))
    Aligned ea 8 c.perf → (∀ x w g m' r', c.path.wait ≠ .waita x w g m' r') →
    (c.launch.repro = true → exec (.waita d b o m r) s = .next (s.startWait c (.waita d watch [] m r)))
    ∧ (s.GLoads c ea 8 c.perf p → c.First → s.NoPromote m r → c.launch.repro = false →
      ((∀ t ∈ c.perf, v t ≠ c.v64 t (srcOf d)) →
        ∃ t c', exec (.waita d b o m r) s = .next t ∧ OnlyAccess c.ref s t ∧ t.ctxAt c.ref = some c'
          ∧ c'.path.pc = c.path.pc + 4 ∧ c'.path.wait = .none ∧ WroteV64 c c' d c.perf v ∧ SameS c c' ∧ SameP c c'
          ∧ Pushed c c' c.perf v)
      ∧ ((∃ t ∈ c.perf, v t = c.v64 t (srcOf d)) →
        ∃ t c', exec (.waita d b o m r) s = .next t ∧ OnlyAccess c.ref s t ∧ t.ctxAt c.ref = some c' ∧ c'.path.pc = c.path.pc
          ∧ c'.path.wait = .waita d watch ((c.perf.filter fun t => v t != c.v64 t (srcOf d)).map fun t => (t, v t)) m r
          ∧ SameV c c' ∧ SameS c c' ∧ SameP c c' ∧ SameL c c'))

/-- Control registers and `tlbinv` at P1 (R129, R366, R370, R371); what `csrr` reads stands in `CsrIs`. The model's choices: `TTHR`[8]
stays while the trap record names a fault record, resolved or not (log 49); `tlbinv` waits until commits have performed the
accesses that they hold (log 85). -/
def Obligations.HandlerWords : Prop :=
  (∀ (s : State) (c : Ctx) d n, s.ctx = some c → c.path.priv = true → c.Guarded → WellFormed (.csrr d n) = true →
    ∃ v t, exec (.csrr d n) s = .next t ∧ s.CsrIs c n v
      ∧ if n.wide then Scal64 c s d v t else Scal32 c s d (v.setWidth 32) t)
  ∧ (∀ (s : State) (c : Ctx) n a, s.ctx = some c → c.path.priv = true → c.Guarded → c.SReadable [(a, n.wide)] →
    let v : DWord := if n.wide then c.s64 a else (c.s32 a).setWidth 64
    (csrRes n v = true →
      exec (.csrw n a) s = .next (s.takeTrap c { cause := .illegal, sub := 9, addr := c.path.seq.word.setWidth 64 }))
    ∧ (csrRes n v = false → ∃ t c', exec (.csrw n a) s = .next t ∧ OnlyWave c.ref s t ∧ t.ctxAt c.ref = some c'
      ∧ c'.path = c.path.next ∧ (c'.wave.o, c'.wave.p, c'.wave.wb) = (c.wave.o, c.wave.p, c.wave.wb)
      ∧ (n ≠ .wseg → (c'.wave.w, c'.wave.sb) = (c.wave.w, c.wave.sb))
      ∧ c'.wave.trap.mask = (if n = .tmask then c.wave.trap.mask &&& v.setWidth 32 else c.wave.trap.mask)
      ∧ c'.wave.trap.kill = (if n = .tkill then v.setWidth 32 else c.wave.trap.kill)
      ∧ c'.wave.trap.pc = (if n = .tpc then v else c.wave.trap.pc)
      ∧ c'.wave.trap.thr = (if n = .wseg then (v.extractLsb' 16 5).toNat else c.wave.trap.thr)
      ∧ (c'.wave.trap.cause, c'.wave.trap.sub, c'.wave.trap.addr, c'.wave.trap.word) =
          (c.wave.trap.cause, c.wave.trap.sub, c.wave.trap.addr, c.wave.trap.word)))
  ∧ ∀ (s : State) (c : Ctx) a b, s.ctx = some c → c.path.priv = true → c.Guarded → c.SReadable [(a, false), (b, true)] →
    let ctx := (c.s32 a).toNat % 256
    (ctx ≠ c.launch.ctx →
      exec (.tlbinv a b) s = .next (s.takeTrap c { cause := .priv, addr := c.path.seq.word.setWidth 64 }))
    ∧ (ctx = c.launch.ctx → s.near = [] → (∀ g ∈ s.groups, ∀ w ∈ g.waves, w.held = [] ∧ w.loads = []) →
      s.buffers (some ctx) = false →
      ∃ t c', exec (.tlbinv a b) s = .next t
        ∧ t.kept = s.kept.filter (fun k => !(k.ctx == ctx && decide (k.lo ≤ (c.s64 b).toNat)
            && decide ((c.s64 b).toNat < k.lo + 2 ^ k.span)))
        ∧ Finished c c.perf t c' ∧ OnlyWave c.ref s { t with kept := s.kept } ∧ SameV c c' ∧ SameS c c' ∧ SameP c c' ∧ SameL c c')
    ∧ (ctx = c.launch.ctx → s.buffers (some ctx) = true →
      ∃ t c', exec (.tlbinv a b) s = .next t ∧ OnlyWave c.ref s t ∧ t.ctxAt c.ref = some c'
        ∧ c'.path = { c.path with pc := if c.path.seq.len = 0 then c.path.pc else c.path.seq.start, seq := Seq.empty }
        ∧ c'.wave.qended = (c.launch.repro || c.wave.qended))

/-! ### Register pool and barriers -/

/-- `give` and `claim` (R149 to R151): the segment shrinks or grows by whole blocks, the registers given back or taken read 0,
and the pool has the difference; a claim that the pool cannot meet waits. -/
def Obligations.PoolWords : Prop :=
  (∀ (s : State) (c : Ctx) a, s.ctx = some c → c.path.priv = false → (∀ k, a = .s k → c.goodS k.val = true) →
    let n := (c.cnt a).toNat
    n % 32 = 0 → n + 96 ≤ c.wave.seg →
    (∀ t < c.wave.threads, (c.wave.wb.get t).toNat + 96 ≤ (c.wave.sb.get t).toNat + c.wave.seg - n) →
    ∃ t c', exec (.give a) s = .next t ∧ t.ctxAt c.ref = some c' ∧ { t with groups := s.groups } = s
      ∧ c'.path = c.path.next ∧ c'.wave.seg = c.wave.seg - n ∧ c'.group.pool = c.group.pool + n / 32
      ∧ (∀ j k, k < 2048 → c'.wave.w.get (2048 * j + k) =
          if c.wave.seg - n ≤ k ∧ k < c.wave.seg then 0 else c.wave.w.get (2048 * j + k))
      ∧ (c'.wave.o, c'.wave.p, c'.wave.wb, c'.wave.sb, c'.group.sp, c'.group.tiles) =
          (c.wave.o, c.wave.p, c.wave.wb, c.wave.sb, c.group.sp, c.group.tiles))
  ∧ ∀ (s : State) (c : Ctx) a, s.ctx = some c → c.path.priv = false → (∀ k, a = .s k → c.goodS k.val = true) →
    let n := (c.cnt a).toNat
    n % 32 = 0 → c.wave.seg + n ≤ min 2048 c.launch.d →
    (c.launch.repro = false → c.group.claims = [] → n / 32 ≤ c.group.pool →
      ∃ t c', exec (.claim a) s = .next t ∧ t.ctxAt c.ref = some c' ∧ { t with groups := s.groups } = s
        ∧ c'.path = c.path.next ∧ c'.wave.seg = c.wave.seg + n ∧ c'.group.pool = c.group.pool - n / 32
        ∧ (∀ j k, k < 2048 → c'.wave.w.get (2048 * j + k) =
            if c.wave.seg ≤ k ∧ k < c.wave.seg + n then 0 else c.wave.w.get (2048 * j + k))
        ∧ (c'.wave.o, c'.wave.p, c'.wave.wb, c'.wave.sb, c'.group.sp, c'.group.tiles) =
            (c.wave.o, c.wave.p, c.wave.wb, c.wave.sb, c.group.sp, c.group.tiles))
    ∧ (c.launch.repro = true ∨ c.group.claims ≠ [] ∨ c.group.pool < n / 32 →
      ∃ t c', exec (.claim a) s = .next t ∧ t.ctxAt c.ref = some c' ∧ { t with groups := s.groups } = s
        ∧ c'.path.wait = .claim (n / 32) ∧ c'.path.pc = c.path.pc ∧ c'.group.claims = c.group.claims ++ [c.ref]
        ∧ c'.group.pool = c.group.pool ∧ c'.wave.seg = c.wave.seg)

/-- Barriers (R152 to R157, R203, R220): the path waits in the present phase, what it has stored released to the group, or to the
cluster for the band barrier; when it is the last to come, the
phase completes and it goes on. -/
def Obligations.BarrierWords : Prop :=
  (∀ (s : State) (c : Ctx) i pre n, BarrierRow i pre n → s.ctx = some c → c.path.priv = false → pre c →
    exec i s = .next (((s.release c.ref.group c.ref.wix (if n c = bandBar then 2 else 1)).startWait c
      (.bar (n c) (c.group.bars.getD (n c) 0))).tidy c.ref.group))
  ∧ ∀ (s : State) (c : Ctx) i pre n, BarrierRow i pre n → s.ctx = some c → c.path.priv = false → pre c → s.NoneHeld c.ref →
    c.launch.repro = false → c.group.waves = [c.wave] → c.wave.path? (!c.ref.slot) = none → c.wave.depth = 0 →
    c.wave.qended = false → c.group.halted = false → c.group.band = none → s.isShed c.group = false →
    c.group.bars.length = 10 →
    ∃ t c', exec i s = .next t ∧ t.ctxAt c.ref = some c' ∧ { t with groups := s.groups } = s
      ∧ c'.path = { c.path.next with since := s.ns.toNat }
      ∧ (∀ b < 10, c'.group.bars.getD b 0 = if b = n c then c.group.bars.getD b 0 + 1 else c.group.bars.getD b 0)
      ∧ (c'.wave.w, c'.wave.o, c'.wave.p, c'.group.sp) = (c.wave.w, c.wave.o, c.wave.p, c.group.sp)

/-! ### Words that queue work for an engine -/

/-- Matrix words (R175, R188, R189, R193, R195): one entry behind the others of the wave's queue, with what it took at issue. -/
def Obligations.MatrixWordsQueue : Prop :=
  ∀ (s : State) (c : Ctx) i d xs pre op, MatrixRow i d xs pre op → s.ctx = some c → c.path.priv = false → c.Guarded →
    c.SReadable xs → d.toNat < c.group.tiles.length → pre s c → s.NoneHeld c.ref →
    exec i s = .next ((s.modWave c.ref.group c.ref.wix fun w =>
      { w with mq := w.mq ++ [op s.tick c], matN := w.matN + 1 }).complete c c.perf)

/-- Copies and fabric words (R227, R252, R254, R257, R396): an operation of each performing thread that moves a byte, in
ascending threads, each in its thread's open batch. The copies trap at P1 (R365); that the fabric words do not, as their clause
has it, is the model's choice (log 41). -/
def Obligations.CopyWordsQueue : Prop :=
  (∀ (s : State) (c : Ctx) i k spD spA d a b, CopyRow i k spD spA d a b → s.ctx = some c → c.path.priv = false → (c.perf ≠ [] → c.Producer) →
    c.Readable c.perf [⟨d, !spD⟩, ⟨a, !spA⟩, ⟨b, true⟩] → c.LengthOk b →
    (∀ t ∈ c.perf, WordAligned (c.copyRanges spD spA d a b t)
      ∧ ∀ x ∈ c.copyRanges spD spA d a b t ++ syncRanges (c.copySync b t), s.SpOk c x) → s.NoneHeld c.ref →
    exec i s = .next ((s.modWave c.ref.group c.ref.wix fun w =>
      { w with cq := copyQueue w c.perf fun t =>
          { c.newCopy k t (c.copyAddr spD d t) (c.copyAddr spA a t) (c.copyLen b t) (c.copySync b t) [] with
            at_ := s.tick } }).complete c c.perf))
  ∧ (∀ (s : State) (c : Ctx) i k spA d a b, MulticastRow i k spA d a b → s.ctx = some c → c.path.priv = false → (c.perf ≠ [] → c.Producer) →
    c.Readable c.perf [⟨d, false⟩, ⟨a, !spA⟩, ⟨b, true⟩] → c.LengthOk b →
    (∀ t ∈ c.perf, WordAligned (spRanges spA (c.addrOf spA a t) (c.copyLen b t))
      ∧ (∀ x ∈ spRanges spA (c.addrOf spA a t) (c.copyLen b t) ++ syncRanges (c.copySync b t), s.SpOk c x)
      ∧ (s.members c.launch (c.v32 t d)).isSome = true
      ∧ s.memberBound c.launch (c.v32 t d) (c.copyLen b t) (c.copySync b t) = false) → s.NoneHeld c.ref →
    exec i s = .next ((s.modWave c.ref.group c.ref.wix fun w =>
      { w with cq := copyQueue w c.perf fun t =>
          { c.newCopy k t ((c.v32 t d).setWidth 64) (c.copyAddr spA a t) (c.copyLen b t) (c.copySync b t)
              (((s.members c.launch (c.v32 t d)).getD []).map fun g => g.id) with at_ := s.tick } }).complete c c.perf))
  ∧ ∀ (s : State) (c : Ctx) i k a b q, FabricRow i k a b q → s.ctx = some c →
    (c.perf ≠ [] → c.Producer ∧ s.io.spmask.getLsbD q.toNat = true) →
    c.Readable c.perf [⟨a, false⟩, ⟨b, false⟩] → (∀ t ∈ c.perf, s.FabricOk c k a b t) → s.NoneHeld c.ref →
    exec i s = .next ((s.modWave c.ref.group c.ref.wix fun w =>
      { w with cq := copyQueue w c.perf fun t =>
          { c.fabOp k q.toNat (s.fabAt c a t) (c.v32 t b).toNat t with at_ := s.tick } }).complete c c.perf)

/-- Batches and QFENCE (R228, R233, R257, R262): each word completes when what it waits for is over, and waits otherwise; in a
reproducible launch such a wait ends the quantum, that of `cseal` when batches that only a commit can finish hold it. QFENCE waits for the operations that its own path has issued, or one that it
descends from. -/
def Obligations.QueueWaits : Prop :=
  (∀ (s : State) (c : Ctx), s.ctx = some c → (∀ t ∈ c.perf, c.wave.unfinished t < 63) →
    ∃ t c', exec .cseal s = .next t ∧ OnlyWave c.ref s t ∧ t.ctxAt c.ref = some c' ∧ c'.path = c.path.next
      ∧ (∀ j, c'.wave.batch.get j = if j ∈ c.perf then c.wave.batch.get j + 1 else c.wave.batch.get j)
      ∧ c'.wave.cq = c.wave.cq ∧ SameV c c' ∧ SameP c c')
  ∧ (∀ (s : State) (c : Ctx), s.ctx = some c → (∃ t ∈ c.perf, 63 ≤ c.wave.unfinished t) →
    ∃ t c', exec .cseal s = .next t ∧ OnlyWave c.ref s t ∧ t.ctxAt c.ref = some c'
      ∧ c'.path = { c.path with wait := .cseal, since := if c.path.wait = .cseal then c.path.since else s.ns.toNat }
      ∧ (c'.wave.qended = true ↔ c.wave.qended = true
          ∨ (c.launch.repro = true ∧ ∃ t ∈ c.perf, 63 ≤ ({ c.wave with cq := c.wave.copiesBound } : Wave).unfinished t))
      ∧ SameV c c' ∧ SameP c c')
  ∧ (∀ (s : State) (c : Ctx) i, s.ctx = some c → c.path.wait = .none → (∀ e ∈ c.wave.copyErr, e.thread ∉ c.perf) →
    (c.launch.repro = true → c.perf ≠ [] → exec (.cwait i) s = .next (s.startWait c (.cwait i.toNat))))
  ∧ (∀ (s : State) (c : Ctx) i, s.ctx = some c → c.path.wait = .none → (c.launch.repro = false ∨ c.perf = []) →
    (∀ e ∈ c.wave.copyErr, e.thread ∉ c.perf) →
    ((∀ t ∈ c.perf, c.wave.unfinished t ≤ i.toNat) → ∃ t, exec (.cwait i) s = .next t ∧ Passed c s c.perf t)
    ∧ ((∃ t ∈ c.perf, i.toNat < c.wave.unfinished t) → exec (.cwait i) s = .next (s.startWait c (.cwait i.toNat))))
  ∧ ∀ (s : State) (c : Ctx) m, s.ctx = some c → (∀ e ∈ c.wave.copyErr, e.thread ∉ ixs c.path.active) → c.wave.hErr = none →
    c.wave.gErr = none →
    ((m.getLsbD 0 = true → c.wave.mq = []) → (m.getLsbD 1 = true → c.wave.cq = []) → (m.getLsbD 6 = true → c.wave.hq = []) →
      (m.getLsbD 7 = true → c.wave.gq = []) → (∀ k < 4, m.getLsbD (2 + k) = true → c.wave.popsBefore k s.tick = false) →
      c.path.wait = .none → c.launch.repro = false → ∃ t, exec (.qfence m) s = .next t ∧ Passed c s c.perf t)
    ∧ (c.busy s.tick m = false → c.fencesCommit m = false → ∃ t, exec (.qfence m) s = .next t ∧ Passed c s c.perf t)
    ∧ (c.busy s.tick m = true ∨ c.fencesCommit m = true →
      ∃ t c', exec (.qfence m) s = .next t ∧ OnlyWave c.ref s t ∧ t.ctxAt c.ref = some c'
        ∧ c'.path = { c.path with wait := .qfence (c.issuedAt s.tick) } ∧ (c.fencesCommit m = true → c'.wave.qended = true)
        ∧ SameV c c' ∧ SameP c c')

/-- Stream words (R233, R258 to R261): `sset` opens, `spop` takes the next 128 bytes, `sstat` reports, `sclose` closes; each waits
for the pops of its stream that issued before it, and a stream that only commits serve makes it end the quantum (log 80). -/
def Obligations.StreamWords : Prop :=
  (∀ (s : State) (c : Ctx) a b k t0 ts, s.ctx = some c → c.perf = t0 :: ts → c.Readable c.perf [⟨a, false⟩, ⟨b, false⟩] →
    c.Agree32 c.perf a → c.Agree32 c.perf b →
    let ea := (c.v32 t0 a).toNat
    let v : BitVec 512 := BitVec.ofNat 512 (leNat (s.spReadAt c t0 ea 64))
    ea % 64 = 0 → s.SpOk c (false, ea, 64) →
    (∀ p, s.spPlace c.group true ea 64 = .ok p → s.spBad p 64 = false ∧ s.netFails c ea = false) →
    sdBad v = false → s.NoneHeld c.ref → c.wave.popsBefore k.val (c.issuedAt s.tick) = false → c.popsAtCommit k.val = false →
    exec (.sset a b k) s = .next ((s.modWave c.ref.group c.ref.wix fun w => w.modStream k.val fun _ =>
      { Stream.closed with
        opened := true, ended := decide (sdCount v = 0), desc := v, start := c.v32 t0 b, priv := c.path.priv, thread := t0
        at_ := s.tick }).complete c c.perf))
  ∧ (∀ (s : State) (c : Ctx) d k p e es, s.ctx = some c → c.perf ≠ [] → (c.wave.stream k.val).opened = true →
    c.wave.popsBefore k.val (c.issuedAt s.tick) = false → c.popsAtCommit k.val = false → (c.wave.stream k.val).fifo = e :: es →
    e.marker = none →
    ∃ t c', exec (.spop d k p) s = .next t ∧ OnlyWave c.ref s t ∧ t.ctxAt c.ref = some c' ∧ c'.path.pc = c.path.pc + 4
      ∧ WroteV c c' d c.perf (fun j => if e.bad.contains (32 * e.popped + j) then 0
          else BitVec.ofNat 32 (leNat ((e.bytes.drop (128 * e.popped + 4 * j)).take 4)))
      ∧ WroteP c c' p c.perf (fun _ => true)
      ∧ (c.wave.streams.length = 4 → (c'.wave.stream k.val).fifo =
          if e.bytes.length ≤ 128 * (e.popped + 1) then es else { e with popped := e.popped + 1 } :: es))
  ∧ (∀ (s : State) (c : Ctx) d k p, s.ctx = some c → c.perf ≠ [] → (c.wave.stream k.val).opened = true →
    c.wave.popsBefore k.val (c.issuedAt s.tick) = false → c.popsAtCommit k.val = false → (c.wave.stream k.val).fifo = [] →
    ((c.wave.stream k.val).ended = true →
      ∃ t c', exec (.spop d k p) s = .next t ∧ Completed c s c.perf t c' ∧ WroteV c c' d c.perf (fun _ => 0)
        ∧ WroteP c c' p c.perf (fun _ => false))
    ∧ ((c.wave.stream k.val).ended = false →
      ∃ t c', exec (.spop d k p) s = .next t ∧ OnlyWave c.ref s t ∧ t.ctxAt c.ref = some c'
        ∧ c'.path = { c.path with wait := .stream k.val (c.issuedAt s.tick) } ∧ SameV c c' ∧ SameP c c'))
  ∧ (∀ (s : State) (c : Ctx) (k : Fin 4) i, s.ctx = some c →
    (∃ d p, i = .spop d k p ∧ c.perf ≠ [] ∧ (c.wave.stream k.val).opened = true) ∨ i = .sclose k →
    c.wave.popsBefore k.val (c.issuedAt s.tick) = true ∨ c.popsAtCommit k.val = true →
    ∃ t c', exec i s = .next t ∧ OnlyWave c.ref s t ∧ t.ctxAt c.ref = some c'
      ∧ c'.path = { c.path with wait := .stream k.val (c.issuedAt s.tick) } ∧ (c.popsAtCommit k.val = true → c'.wave.qended = true)
      ∧ SameV c c' ∧ SameP c c')
  ∧ (∀ (s : State) (c : Ctx) d k b, s.ctx = some c → c.Readable c.perf [⟨b, false⟩] → (∀ t ∈ c.perf, (c.v32 t b).toNat ≤ 3) →
    let x := if (c.wave.stream k.val).opened then c.wave.stream k.val else Stream.closed
    ∃ t, exec (.sstat d k b) s = .next t ∧ Vec32 c s d (fun j => match (c.v32 j b).toNat with
      | 0 => x.status
      | 1 => x.badrow
      | 2 => x.deliv
      | _ => x.popd) t)
  ∧ ∀ (s : State) (c : Ctx) k, s.ctx = some c → c.wave.popsBefore k.val (c.issuedAt s.tick) = false → c.popsAtCommit k.val = false →
    exec (.sclose k) s = .next ((s.modWave c.ref.group c.ref.wix fun w => w.modStream k.val fun _ => Stream.closed).complete
      c c.perf)

/-- HRU and gate words (R275, R280, R281, R287, R288): requests of each performing thread, or one of the wave; a bind takes the
descriptor that its first thread reads. -/
def Obligations.RequestWordsQueue : Prop :=
  (∀ (s : State) (c : Ctx) i kind a b wide aAddr align res, HruRow i kind a b wide aAddr align res → s.ctx = some c →
    c.path.priv = false → c.Readable c.perf [⟨a, false⟩, ⟨b, wide⟩] →
    (∀ t ∈ c.perf, s.HruOk c kind a b wide aAddr align res t) → s.NoneHeld c.ref →
    exec i s = .next ((s.modWave c.ref.group c.ref.wix fun w =>
      { w with hq := w.hq ++ c.perf.map fun t =>
          { c.newReq kind t (c.v32 t a) (c.lowOf wide b t) (c.selOf wide b t) 0 (selSlots (c.selOf wide b t)) with
            at_ := s.tick } }).complete c c.perf))
  ∧ (∀ (s : State) (c : Ctx) i op a b t0 ts, HsetRow i op a b → s.ctx = some c → c.path.priv = false → c.perf = t0 :: ts →
    c.Readable c.perf [⟨a, false⟩, ⟨b, false⟩] → c.Agree32 c.perf a → c.Agree32 c.perf b → s.HsetOk c op a b t0 →
    s.NoneHeld c.ref →
    ∃ v, (op ≤ 1 → v = BitVec.ofNat 512 (leNat (s.spReadAt c t0 (c.v32 t0 a).toNat 64)))
      ∧ exec i s = .next ((s.modWave c.ref.group c.ref.wix fun w =>
        { w with hq := w.hq ++
            [{ c.newReq (.set op) t0 (c.v32 t0 a) 0 (c.v32 t0 b) v [(c.v32 t0 b).toNat] with at_ := s.tick }] }).complete c c.perf))
  ∧ ∀ (s : State) (c : Ctx) i kind a b t0 ts, GateRow i kind a b → s.ctx = some c → c.path.priv = false → c.perf = t0 :: ts →
    c.Readable c.perf [⟨a, false⟩, ⟨b, true⟩] → c.Agree32 c.perf a → c.Agree c.perf b → s.GateOk c kind a b t0 →
    s.NoneHeld c.ref →
    exec i s = .next ((s.modWave c.ref.group c.ref.wix fun w =>
      { w with gq := w.gq ++ [⟨kind, t0, c.v32 t0 a, (c.v64 t0 b).extractLsb' 0 32, (c.v64 t0 b).extractLsb' 32 32, c.path.split⟩] }).complete
        c c.perf)

/-- `launch` and `cancel` (R314 to R317, R319): what the counter and the queue of launches hold afterwards. A record that is
refused leaves `STATE` 3 and its reason in the counter and lowers the parent; any other is queued in its class, with its units in
`REMAIN` and `STATE` 0, and is cancelled at once under a counter with `CANREQ`. `cancel` sets `CANREQ`, takes off the units not
dispatched, and with `.trap` marks the waves of the running groups. A launch that may not launch or cancel traps with RIGHTS. The
lines that the reads count, and the depth to which counters are followed, are the model's (logs 18, 26). -/
def Obligations.LaunchWords : Prop :=
  (∀ (s : State) (c : Ctx) a b t0 ts, s.ctx = some c → c.perf = t0 :: ts → c.Readable c.perf [⟨a, true⟩, ⟨b, false⟩] →
    c.Agree32 c.perf b → c.Agree c.perf a → c.launch.maylaunch = true → (c.v64 t0 a).toNat % 256 = 0 →
    (c.v32 t0 b).toNat < 16 → ((c.v32 t0 b).getLsbD 3 = true → c.group.prio ≤ (c.v32 t0 b).toNat % 8) → c.First →
    s.NoneHeld c.ref → (c.launch.repro = false ∨ c.wave.cbuf = []) →
    let q : Reader := ⟨c.group.die, c.path.priv, some (c, t0)⟩
    LaunchDoes (s.touchAll c.ref.group (s.launchLines q c.launch.ctx (c.v64 t0 a))) q c.launch.ctx c.group.prio (c.v64 t0 a)
      (c.v32 t0 b) fun u => exec (.launch a b) s = .next (u.complete c c.perf))
  ∧ (∀ (s : State) (c : Ctx) i a trap t0 ts, (i, trap) = (Instr.cancelDrain a, false) ∨ (i, trap) = (Instr.cancelTrap a, true) →
    s.ctx = some c → c.perf = t0 :: ts → c.Readable c.perf [⟨a, true⟩] → c.Agree c.perf a → c.launch.maylaunch = true →
    (c.v64 t0 a).toNat % 32 = 0 → c.First → s.NoneHeld c.ref → (c.launch.repro = false ∨ c.wave.cbuf = []) →
    CancelDoes (s.touch c.ref.group (c.v64 t0 a).toNat 32) ⟨c.group.die, c.path.priv, some (c, t0)⟩ c.launch.ctx (c.v64 t0 a) trap
      fun u => exec i s = .next (u.complete c c.perf))
  ∧ ∀ (s : State) (c : Ctx) i a, i = Instr.cancelDrain a ∨ i = Instr.cancelTrap a → s.ctx = some c → c.perf ≠ [] →
    c.Readable c.perf [⟨a, true⟩] → c.Agree c.perf a → c.launch.maylaunch = false →
    exec i s = .next (s.takeTrap c { cause := .rights, mask := maskOf c.perf, addr := BitVec.ofNat 64 c.group.prio })

/-! ### Events: the engines -/

/-- `aclr` performed (R194): the tile is empty and its flags are clear. -/
def Obligations.AclrPerform : Prop :=
  ∀ s w e op r T, MatHead s w e op r T → op.kind = .aclr →
    ∃ t U, exec (.aclrPerform w) s = .next t ∧ TileDone w e op.tile U { e.wave with mq := r } s t
      ∧ (∀ k, U.m.get k = 0) ∧ U.x = -32768 ∧ (U.zerr, U.rn, U.aerr) = (false, false, false) ∧ U.bad = [] ∧ U.badX = false

/-- `ascale` performed (R198): every element is multiplied by 2^n. -/
def Obligations.AscalePerform : Prop :=
  ∀ s w e op r T, MatHead s w e op r T → op.kind = .ascale →
    let H := T.heal
    let x : Int := H.x + op.a.toInt
    ∃ t U, exec (.ascalePerform w) s = .next t ∧ TileDone w e op.tile U { e.wave with mq := r } s t
      ∧ U.x = (if 32767 < x then 32767 else if x < -32768 then -32768 else x)
      ∧ (U.zerr, U.rn, U.aerr) = (H.zerr, H.rn, H.aerr)
      ∧ ∀ k < 4096, U.m.get k = match accVal (H.m.get k) 0 with
          | .fin _ _ _ =>
            let m := (H.m.get k).toInt
            if 32767 < x then (if m = 0 then 0 else if m < 0 then accNegInf else accInf)
            else if x < -32768 then BitVec.ofInt 48 (roundInt .rne (decide (m < 0)) m.natAbs (x + 32768))
            else H.m.get k
          | _ => H.m.get k

/-- The other matrix entries performed (R190 to R192, R201, R195 to R197, R199): the MMA forms over the exact dot products of their
elements, `ald`, `ast`, `aexp`; an `mma.sq` without its rows waits. -/
def Obligations.MatrixPerforms : Prop :=
  (∀ s w e op r T sq, MatHead s w e op r T → op.kind = .mma sq →
    let db := s.operandAt e.group op.b.toNat (elemBytes op.fb op.ng op.kg + scaleBytes op.fb op.ng op.kg) (elemBytes op.fb op.ng op.kg)
    let done (u : State) (v : Wave) (a : Nat → Nat → Val) (lost : Bool) : Prop :=
      let U := T.heal.update op.mg op.ng fun i j =>
        (List.range op.kg).foldl (fun acc k => acc.add false ((a i k).mul (db.elem op.fb (j * op.kg + k)))) (.fin false 0 0)
      ∃ t, exec (.mmaPerform w) s = .next t
        ∧ TileDone w e op.tile { U with zerr := U.zerr || lost || db.anyLost op.fb (op.ng * op.kg) } { v with mq := r }
            (u.logOperands e op 2 0 op.ng op.kg op.fb db) t
    (sq = none →
      let da := s.operandAt e.group op.a.toNat (elemBytes op.fa op.mg op.kg + scaleBytes op.fa op.mg op.kg) (elemBytes op.fa op.mg op.kg)
      done (s.logOperands e op 1 0 op.mg op.kg op.fa da) e.wave (fun i k => da.elem op.fa (i * op.kg + k)) (da.anyLost op.fa (op.mg * op.kg)))
    ∧ ∀ q, sq = some q →
      let x := e.wave.stream q.val
      let xs := takeRows op.mg x
      (e.wave.mayTake op q = true → rowsReady op.mg x = true →
        done ((List.range xs.length).foldl (fun u i => u.logOperands e op 1 i 1 op.kg op.fa (rowData xs i)) s) (e.wave.modStream q.val fun y => { y with fifo := y.fifo.drop xs.length, popd := y.popd + BitVec.ofNat 32 xs.length })
          (fun i j => (rowData xs i).elem op.fa j) ((List.range xs.length).any fun i => (rowData xs i).anyLost op.fa op.kg))
      ∧ (e.wave.mayTake op q = false ∨ rowsReady op.mg x = false → exec (.mmaPerform w) s = .next s))
  ∧ (∀ s w e op r T, MatHead s w e op r T → op.kind = .ald →
    let rows := (ownedRows op.rows).map fun q => (q, s.aldRow e op q)
    ∃ t U, exec (.aldPerform w) s = .next t
      ∧ TileDone w e op.tile U { e.wave with mq := r } (rows.foldl (fun u x => u.logOperands e op 3 x.1 1 64 op.f2 x.2) s) t
      ∧ U = loadTile (fun i j => match rows.find? fun x => x.1 == i with
          | some x => x.2.elem op.f2 j
          | none => .fin false 0 0) (rows.any fun x => x.2.anyLost op.f2 64))
  ∧ (∀ s w e op r T, MatHead s w e op r T → op.kind = .ast → (∀ ea, s.netDown e.group ea = false) →
    let ps := (ownedRows op.rows).flatMap fun q =>
      s.rowPlaces e.group (rowAddr op.a (op.b.toNat % 2 ^ 16) q) (e.astRow op T.heal q)
    ∃ t v, exec (.astPerform w) s = .next t ∧ { t with groups := s.groups } = s
      ∧ (∀ g o, t.spByteAt g o = match lastSpByte ps g o with
          | some x => (s.spByteAt g o).map fun _ => x
          | none => s.spByteAt g o)
      ∧ (t.group? w.group).map (fun g => g.tiles) = some (e.group.tiles.set op.tile T.heal)
      ∧ t.wave? w.group w.wix = some v ∧ v.mq = r
      ∧ ((∀ x ∈ ps, ∃ g o, x.1 = .sp g o) → v = { e.wave with mq := r }))
  ∧ ∀ s w e op r T, MatHead s w e op r T → op.kind = .aexp →
    ∃ t, exec (.aexpPerform w) s = .next t
      ∧ TileDone w e op.tile T.heal (({ e.wave with mq := r }).putS32 op.slot false op.dst T.heal.status) s t

/-- Copies, fabric operations and streams (R226, R253, R258, R397): a copy reads each source sector once and moves sector by
sector; the peer's answer decides a fabric
operation; a stream delivers the row that an index names. -/
def Obligations.CopyPerforms : Prop :=
  (∀ s w e op r bs u, CopyHead s w e op r → op.kind.link = none → (op.kind.global = false ∨ e.due = true) → op.done < op.n →
    s.copyRead e op op.sector 2 op.read = (bs, none) → op.sector ≤ bs.length → s.copyDest e op (bs.take op.sector) = .ok u →
    let v := u.touchAll e.group.id (op.ranges op.sector)
    let op1 : CopyOp := { op with done := op.done + op.sector, read := bs.drop op.sector }
    exec (.copyPerform w 1) s = .next (if op.n ≤ op.done + op.sector then
        (if v.arrivalLost e op then (v.settleRegs e).abandon e op1 0x11 else ((v.settleRegs e).copyArrive e op).popHead e)
      else v.modHead e fun _ => op1))
  ∧ (∀ s w e op r ga oa gd od, CopyHead s w e op r → op.kind = .s2s → op.sync = none → op.read = [] → op.done < op.n →
    (op.a.toNat + op.done) % 32 = (op.d.toNat + op.done) % 32 →
    s.engPlace e.group (op.a.toNat + op.done) op.sector = some (.sp ga oa) →
    s.engPlace e.group (op.d.toNat + op.done) op.sector = some (.sp gd od) →
    s.spBad (.sp ga oa) op.sector = false → s.netBad = [] →
    ∃ t, exec (.copyPerform w 1) s = .next t ∧ { t with groups := s.groups } = s
      ∧ (∀ g o, t.spByteAt g o = match lastSpByte [(.sp gd od, s.spRead (.sp ga oa) op.sector)] g o with
          | some x => (s.spByteAt g o).map fun _ => x
          | none => s.spByteAt g o)
      ∧ t.wave? w.group w.wix = some { e.wave with
          cq := if op.n ≤ op.done + op.sector then r else { op with done := op.done + op.sector } :: r }
      ∧ ∀ g x, (g, x) ≠ (w.group, w.wix) → t.wave? g x = s.wave? g x)
  ∧ (∀ s w e op r l, CopyHead s w e op r → op.kind.link = some l → e.due = true → e.wave.gone = false →
    (∀ ans, s.io.spireDown.contains l = true ∨ ans = .linkDown →
      ∃ t, exec (.fabricOpPerform w ans) s = .next t ∧ BecameWave w (e.wave.gaveUp r op 0x0F) s t)
    ∧ (s.io.spireDown.contains l = false →
      (∃ t, exec (.fabricOpPerform w .denied) s = .next t ∧ BecameWave w (e.wave.gaveUp r op 0x07) s t)
      ∧ (∃ t, exec (.fabricOpPerform w .refused) s = .next t ∧ BecameWave w (match op.kind with
          | .send _ _ _ => { e.wave with cq := { op with since := some (op.since.getD s.ns.toNat) } :: r }
          | _ => e.wave.gaveUp r op 0x07) s t)
      ∧ ∀ bs u, s.copyRead e op op.sector 2 op.read = (bs, none) → op.sector ≤ bs.length → op.done < op.n →
        s.copyDest e op (bs.take op.sector) = .ok u → op.n ≤ op.done + op.sector →
        let v := u.touchAll e.group.id (op.ranges op.sector)
        v.arrivalLost e op = false →
        exec (.fabricOpPerform w .accepted) s = .next (((v.settleRegs e).copyArrive e op).popHead e)))
  ∧ (∀ s w e op r k, CopyHead s w e op r → op.since = some k → e.wave.gone = false →
    (s.ns.toNat - k < 1000 * s.io.sretry.toNat → exec (.sendRetryTimeout w) s = .next s)
    ∧ (1000 * s.io.sretry.toNat ≤ s.ns.toNat - k →
      ∃ t, exec (.sendRetryTimeout w) s = .next t ∧ BecameWave w (e.wave.gaveUp r op 0x0F) s t))
  ∧ (∀ s w e (k : Fin 4) x, s.eng w = some e → e.wave.streams[k.val]? = some x → x.opened = true → x.ended = false →
    x.fault = none → (e.launch.repro = false ∨ x.global = false) → x.inRow = none →
    (sdCount x.desc ≤ x.row →
      ∃ t, exec (.streamItemDeliver w k) s = .next t
        ∧ BecameWave w { e.wave with streams := e.wave.streams.set k.val { x with ended := true } } s t)
    ∧ ∀ i b bs b', x.row < sdCount x.desc → sdMode x.desc = 1 →
      s.streamWord e x (sdIdx x.desc) (x.start.toNat + x.row) = .ok (i, b) →
      (i ≠ 2 ^ 32 - 1 → rowBeyond x i = false ∧
        s.streamRead e { x with psn := x.psn || b } (sdDspace x.desc) (sdBase x.desc + i * sdPitch x.desc) (sdRowb x.desc)
          = .ok (bs, b')) →
      (i = 2 ^ 32 - 1 → (bs, b') = (List.replicate (sdRowb x.desc) 0, false)) →
      ∃ t, exec (.streamItemDeliver w k) s = .next t
        ∧ AccessedWave w { e.wave with streams := e.wave.streams.set k.val { x with
            fifo := x.fifo ++ [⟨bs, [], 0, none⟩], deliv := x.deliv + 1, item := x.item + 1, row := x.row + 1
            psn := x.psn || b || b', ended := decide (sdCount x.desc ≤ x.row + 1) } } s t)
  ∧ (∀ s link, (∀ g ∈ s.groups, ∀ v ∈ g.waves, ∀ o ∈ v.cq, o.kind.link ≠ some link) →
    exec (.spireLinkDown link) s = .next { s with io := { s.io with
      spireDown := if s.io.spireDown.contains link then s.io.spireDown else s.io.spireDown ++ [link] } })
  ∧ ∀ s link g v l, s.groups = [g] → g.waves = [v] → s.launch? g.launch = some l → v.gone = false → l.repro = false → s.NoDump g →
    let hit (o : CopyOp) : Bool := o.kind.link == some link
    ∃ t, exec (.spireLinkDown link) s = .next t
      ∧ BecameWave ⟨g.id, v.wix⟩ { v with
          cq := v.cq.filter fun o => !hit o
          copyErr := v.copyErr ++ (v.cq.filter hit).map fun o => ⟨o.thread, 0x0F, o.d, o.a, o.done⟩ } s { t with io := s.io }
      ∧ t.io.spireDown.contains link = true

/-- HRU requests (R271 to R276, R282 to R287, R294): each makes its bucket operations slot by slot; an unbound slot fails a request;
an `hset` that finds no earlier request at its slot is performed. That a probe goes on with a lost vector or matrix and marks its
list, and that a move and an insert go on with a lost vector, row or matrix, is the model's choice (log 81). -/
def Obligations.HruPerforms : Prop :=
  (∀ s w e q r, HruHead s w e q r → q.kind = .set 2 → q.sel.toNat < s.hru.length → q.behind = none → s.atSlot w q.sel.toNat = [] →
    ∃ t, exec (.hsetRequest w) s = .next t ∧ BecameWave w { e.wave with hq := r } s { t with hru := s.hru }
      ∧ ∀ k, t.hruSlot k = if k = q.sel.toNat then { s.hruSlot k with bound := false } else s.hruSlot k)
  ∧ (∀ s w e q r g o, HruHead s w e q r → q.kind = .set 3 → q.behind = none → s.atSlot w q.sel.toNat = [] →
    s.engPlace e.group q.a.toNat 64 = some (.sp g o) → s.netDown e.group q.a.toNat = false →
    let x := s.hruSlot q.sel.toNat
    let bs := leBytes 4 x.bound.toNat ++ leBytes 4 x.rows.toNat ++ leBytes 4 x.drops.toNat ++ leBytes 4 x.evicts.toNat
      ++ leBytes 4 x.ovfused.toNat ++ leBytes 4 x.movefail.toNat ++ leBytes 4 x.errs.toNat ++ leBytes 4 x.tgen.toNat ++ leBytes 32 0
    ∃ t, exec (.hsetRequest w) s = .next t ∧ { t with groups := s.groups } = s
      ∧ t.wave? w.group w.wix = some { e.wave with hq := r }
      ∧ ∀ g' o', t.spByteAt g' o' = match lastSpByte [(.sp g o, bs)] g' o' with
          | some y => (s.spByteAt g' o').map fun _ => y
          | none => s.spByteAt g' o')
  ∧ (∀ s w e q r, HruHead s w e q r → q.sel.toNat < s.hru.length → q.behind = none → s.atSlot w q.sel.toNat = [] →
    let k := q.sel.toNat
    let u := s.modSlot k fun x => { x with bound := false, binding := some e.ref, desc := q.desc, ctx := e.launch.ctx }
    let bound (rows ovf : Nat) (t : State) : Prop :=
      t.hruSlot k = ⟨true, none, q.desc, e.launch.ctx, BitVec.ofNat 32 rows, 0, 0, BitVec.ofNat 32 ovf, 0, 0, 0⟩
      ∧ ∀ j, j ≠ k → t.hruSlot j = s.hruSlot j
    (∀ n, q.kind = .set 0 → u.sumCounts k (2 ^ tdL q.desc + tdOvfinit q.desc - q.bucket) q.bucket q.wrote = .ok n →
      ∃ t, exec (.hsetRequest w) s = .next t ∧ AccessedWave w { e.wave with hq := r } s { t with hru := s.hru }
        ∧ bound n (tdOvfinit q.desc) t)
    ∧ ∀ u1, q.kind = .set 1 → u.clearBuckets k (2 ^ tdL q.desc + tdOvfn q.desc - q.bucket) q.bucket q.wrote = (u1, none) →
      ∃ t, exec (.hsetRequest w) s = .next t ∧ MovedMemory w { e.wave with hq := r } s u1 t ∧ bound 0 0 t)
  ∧ (∀ s w e q r k ks i, HruHead s w e q r → q.slots = k :: ks → k < s.hru.length → (s.hruSlot k).bound = false →
    (i = .hinsRequest w ∧ q.kind = .ins) ∨ (∃ scan, i = .hdelRequest w ∧ q.kind = .del scan) →
    ∃ t, exec i s = .next t
      ∧ BecameWave w { e.wave with hq := r, hErr := addErr e.wave.hErr ⟨0x07, 0, BitVec.ofNat 64 k, q.thread, [BitVec.ofNat 64 k], 0⟩ } s
          { t with hru := s.hru }
      ∧ ∀ j, t.hruSlot j = if j = k then { s.hruSlot j with errs := (s.hruSlot j).errs + 1 } else s.hruSlot j)
  ∧ (∀ s w e q r i, HruHead s w e q r → q.slots = [] →
    (i = .hinsRequest w ∧ q.kind = .ins) ∨ (∃ scan, i = .hdelRequest w ∧ q.kind = .del scan)
      ∨ (i = .hrehashRequest w ∧ q.kind = .rehash ∧ q.ready = true ∧ q.writes = []) →
    ∃ t, exec i s = .next t ∧ BecameWave w { e.wave with hq := r } s t)
  ∧ (∀ s w e q r, HruHead s w e q r → q.kind = .probe → q.slots = [] → s.engSpDown e.group q.lo.toNat = false →
    let cap := (q.sel.extractLsb' 18 14).toNat
    let ids := q.out.take cap
    let head := leBytes 4 q.out.length ++ leBytes 4 ids.length ++ leBytes 8 ((decide (cap < q.out.length)).toNat + 16 * q.psn.toNat)
    exec (.hprobeRequest w) s = .next (((s.engSpWrite e.group (q.lo.toNat + 16) (ids.flatMap fun i => leBytes 4 i.toNat)).engSpWrite
      e.group q.lo.toNat head).popReq e))
  ∧ (∀ s w e q r k ks x lost b ch, HruHead s w e q r → q.kind = .probe → q.slots = k :: ks → (s.hruSlot k).bound = true →
    q.ready = true → q.vector (tdLen (s.hruSlot k).desc) = some (x, lost) → s.hashIn k x = .ok b → s.chain k b = .ok ch → s.chainBad k ch = false →
    ∃ t, exec (.hprobeRequest w) s = .next t
      ∧ AccessedWave w { e.wave with hq := { q with
          slots := ks, moving := none, bucket := 0, out := q.out ++ chainIds ch, psn := q.psn || lost || s.matrixBad k } :: r } s t)
  ∧ (∀ s w e q r k ks v b u res, HruHead s w e q r → q.kind = .ins → q.slots = k :: ks → (s.hruSlot k).bound = true →
    s.rowOnce q k = .ok v → s.hashIn k v = .ok b → s.hruInsert e.group.id k q.a b = .ok (u, res) →
    let u1 := u.touchAll e.group.id (keyRange (s.hruSlot k).desc q.a.toNat ++ hashRanges (s.hruSlot k).desc)
    exec (.hinsRequest w) s = .next (if res = .hashfull then u1.hruFail e q k 0x0E q.a.toNat [b, q.a.toNat] else u1.modReq e fun x =>
      { x with slots := x.slots.tail, moving := none, bucket := 0 }))
  ∧ (∀ s w e q r k ks v b u, HruHead s w e q r → q.kind = .del false → q.slots = k :: ks → (s.hruSlot k).bound = true →
    s.rowOnce q k = .ok v → s.hashIn k v = .ok b → s.hruDelete e.group.id k q.a b = .ok u →
    exec (.hdelRequest w) s = .next ((u.touchAll e.group.id (keyRange (s.hruSlot k).desc q.a.toNat ++ hashRanges (s.hruSlot k).desc)).modReq
      e fun x => { x with slots := x.slots.tail, moving := none, bucket := 0 }))
  ∧ (∀ s w e q r k ks u, HruHead s w e q r → q.kind = .del true → q.slots = k :: ks → (s.hruSlot k).bound = true →
    s.hruDelete e.group.id k q.a q.bucket = .ok u →
    exec (.hdelRequest w) s = .next (u.modReq e fun x => if 2 ^ tdL (s.hruSlot k).desc ≤ x.bucket + 1 then
      { x with slots := x.slots.tail, moving := none, bucket := 0 } else { x with bucket := x.bucket + 1 }))
  ∧ (∀ s w e q r k ks a b x lost u res, HruHead s w e q r → q.kind = .rehash → q.ready = true → q.slots = k :: ks →
    (s.hruSlot k).bound = true → q.vector (tdLen (s.hruSlot k).desc) = some (x, lost) → q.moving = none →
    s.hashIn k (vecOf q.olds k) = .ok a → s.hashIn k x = .ok b →
    let s1 := s.touchAll e.group.id (hashRanges (s.hruSlot k).desc)
    (a = b → exec (.hrehashRequest w) s = .next (s1.modReq e fun x => { x with slots := x.slots.tail, moving := none, bucket := 0 }))
    ∧ (a ≠ b → s1.hruInsert e.group.id k q.a b = .ok (u, res) → res = .placed ∨ res = .present →
      exec (.hrehashRequest w) s = .next (u.modReq e fun x => { x with moving := some a })))
  ∧ ∀ (v : BitVec 512) (n : Nat) (i : Word) (b : Bucket) (bs : List Bucket), b.ids.length = tdSlots v → tdSlots v ≤ 32 →
    i ∉ chainIds (b :: bs) → tdPolicy v ≠ 3 → b.count < tdSlots v →
    ∃ x, insertId v n i (b :: bs) = { write := [x], res := .placed } ∧ x.num = b.num ∧ x.held = b.held ++ [i] ∧ x.next = b.next
      ∧ x.seen = min (b.seen + 1) 0xFFFFFFFF

/-- Gate requests performed (R201, R278, R279, R288 to R292): ranking, counts, prefix sums, grouping; a request that R290 or R292
turns down, or whose result cannot cross the network, writes nothing and leaves its error. -/
def Obligations.GatePerforms : Prop :=
  (∀ s w e q r o a m d, GateHead s w e q r → q.kind = .topk o a m d → s.engSpDown e.group q.lo.toNat = false →
    let src := s.readList e.group q.a.toNat
    let es := sortEntries (keyBefore a src.fkey) (if d then dedup m src.fkey src.entries [] src.entries else src.entries)
    let out := es.take (q.hi.extractLsb' 0 16).toNat
    exec (.gtopkRequest w) s = .next ((s.writeList e.group q.lo.toNat
      (leBytes 4 es.length ++ leBytes 4 out.length
        ++ leBytes 8 ((src.trunc || src.clamped).toNat + 2 * o.toNat + 4 * src.fkey.toNat + 16 * src.psn.toNat))
      (out.flatMap fun x => if o then leBytes 4 x.1.toNat ++ leBytes 4 x.2.toNat else leBytes 4 x.2.toNat)).popGate e))
  ∧ (∀ a xs, (sortEntries (keyBefore a false) xs).Perm xs ∧ (sortEntries (keyBefore a false) xs).Pairwise fun x y =>
      (if a then x.1.toInt < y.1.toInt else y.1.toInt < x.1.toInt) ∨ (x.1 = y.1 ∧ x.2.toNat ≤ y.2.toNat))
  ∧ (∀ s w e q r x y, GateHead s w e q r → q.kind = .hist x y →
    let src := s.readList e.group q.a.toNat
    let n := (q.hi.extractLsb' 0 16).toNat
    ((x && src.pair && src.fkey) = true →
      ∃ t, exec (.ghistRequest w) s = .next t
        ∧ BecameWave w { e.wave with gq := r, gErr := addErr e.wave.gErr ⟨0x0D, 10, q.a.setWidth 64, q.thread, [], 0⟩ } s t)
    ∧ ((x && src.pair && src.fkey) = false → s.engSpDown e.group q.lo.toNat = false →
      let old := if y then s.gateWords e.group q.lo.toNat (n + 1) else (List.replicate (n + 1) 0, false)
      ∃ c : List Word, c.length = n + 1
        ∧ (∀ j ≤ n, c.getD j 0 = old.1.getD j 0 + (((src.entries.filter fun z => min z.2.toNat n == j).map fun z =>
            if x && src.pair then z.1 else 1).foldl (· + ·) 0))
        ∧ exec (.ghistRequest w) s =
            .next (((s.engSpWrite e.group q.lo.toNat (c.flatMap fun v => leBytes 4 v.toNat)).gatePsn e q (src.psn || old.2)).popGate e)))
  ∧ (∀ s w e q r tot incl, GateHead s w e q r → q.kind = .scan tot false incl → s.engSpDown e.group q.lo.toNat = false →
    let n := (q.hi.extractLsb' 0 16).toNat
    let v := s.gateWords e.group q.a.toNat n
    ∃ d : List Word, d.length = n + tot.toNat
      ∧ (∀ j < d.length, d.getD j 0 = BitVec.ofNat 32 ((v.1.take (if incl ∧ j < n then j + 1 else j)).map fun z => z.toNat).sum)
      ∧ exec (.gscanRequest w) s =
          .next (((s.engSpWrite e.group q.lo.toNat (d.flatMap fun z => leBytes 4 z.toNat)).gatePsn e q v.2).popGate e))
  ∧ (∀ s w e q r i, GateHead s w e q r → s.engSpDown e.group q.lo.toNat = true →
    (i = .gtopkRequest w ∧ ∃ o a m d, q.kind = .topk o a m d) ∨ (i = .gscanRequest w ∧ ∃ x y z, q.kind = .scan x y z) →
    ∃ t, exec i s = .next t
      ∧ BecameWave w { e.wave with gq := r, gErr := addErr e.wave.gErr ⟨0x11, 0, q.lo.setWidth 64, q.thread, [], 0⟩ } s t)
  ∧ ∀ s w e q r o, GateHead s w e q r → q.kind = .perm o →
    let src := s.readList e.group q.a.toNat
    let n := (q.hi.extractLsb' 0 16).toNat
    let cap := (q.hi.extractLsb' 16 16).toNat
    let v := src.entries.filter fun x => decide (x.1.toNat < n)
    (src.fkey = true →
      ∃ t, exec (.gpermRequest w) s = .next t
        ∧ BecameWave w { e.wave with gq := r, gErr := addErr e.wave.gErr ⟨0x0D, 10, q.a.setWidth 64, q.thread, [], 0⟩ } s t)
    ∧ (src.fkey = false → s.engSpDown e.group q.lo.toNat = false → ∃ out : List (Word × Word),
      (∃ es : List (Word × Word), es.Perm v ∧ out = es.take cap
        ∧ es.Pairwise fun x y => x.1.toNat < y.1.toNat ∨ (x.1 = y.1 ∧ x.2.toNat ≤ y.2.toNat))
      ∧ exec (.gpermRequest w) s = .next ((((s.engSpWrite e.group q.lo.toNat
          (((List.range n).flatMap fun x => leBytes 4 (v.filter fun y => y.1.toNat == x).length)
            ++ (List.range (n + 1)).flatMap fun x => leBytes 4 (v.filter fun y => decide (y.1.toNat < x)).length)).writeList e.group
          (q.lo.toNat + (4 * (2 * n + 1) + 15) / 16 * 16)
          (leBytes 4 v.length ++ leBytes 4 out.length
            ++ leBytes 8 ((decide (cap < v.length) || src.clamped).toNat + 2 * o.toNat + 16 * src.psn.toNat))
          (out.flatMap fun x => if o then leBytes 4 x.1.toNat ++ leBytes 4 x.2.toNat else leBytes 4 x.2.toNat)).popGate e)))

/-- Accesses that are performed apart from their words, walks, and the fault record queue (R160, R217, R220, R222, R245, R246,
R249, R250): a store that the model has held back is performed or becomes visible to a scope instance, one that an instance sees
is performed, a thread reads early or performs a load that it has issued (log 7), a die keeps an entry, reads `HEAD`, sees a `STATUS`. -/
def Obligations.AccessesComplete : Prop :=
  (∀ s w k v h p, s.wave? w.group w.wix = some v → v.held[k]? = some h → h.target = .phys p →
    v.Loose k h → (∀ y ∈ s.near, y.store.meets h = false) →
    ∃ t, exec (.globalAccessComplete w (.store k)) s = .next t
      ∧ BecameWave w { v with held := v.held.eraseIdx k } s
          { t with mem := s.mem, hostMem := s.hostMem, peerMem := s.peerMem, memBad := s.memBad }
      ∧ ∀ q, t.byteAt q = (lastByte [(p, h.bytes)] q).getD (s.byteAt q))
  ∧ (∀ s w k v h g o, s.wave? w.group w.wix = some v → v.held[k]? = some h → h.target = .sp g o →
    v.Loose k h → (∀ y ∈ s.near, y.store.meets h = false) →
    ∃ t, exec (.scratchpadAccessComplete w (.store k)) s = .next t ∧ { t with groups := s.groups } = s
      ∧ t.wave? w.group w.wix = some { v with held := v.held.eraseIdx k }
      ∧ (∀ g' x, (g', x) ≠ (w.group, w.wix) → t.wave? g' x = s.wave? g' x)
      ∧ ∀ g' o', t.spByteAt g' o' = match lastSpByte [(.sp g o, h.bytes)] g' o' with
          | some y => (s.spByteAt g' o').map fun _ => y
          | none => s.spByteAt g' o')
  ∧ (∀ s w k v h g x u n i, s.wave? w.group w.wix = some v → v.held[k]? = some h → h.target = .reg g x u n i →
    v.Loose k h → (∀ y ∈ s.near, y.store.meets h = false) →
    exec (.scratchpadAccessComplete w (.store k)) s =
      .next ((s.regWrite g x u n i h.bytes).modWave w.group w.wix fun y => { y with held := y.held.eraseIdx k }))
  ∧ (∀ s w k g v h reach, s.group? w.group = some g → g.wave? w.wix = some v → v.held[k]? = some h →
    v.Loose k h → (∀ y ∈ s.near, y.store.meets h = false) → h.scope ≤ reach → reach < h.target.top →
    ∃ t, BecameWave w { v with held := v.held.eraseIdx k } { s with near := s.near ++ [⟨g.id, w.wix, g.cluster, reach, h⟩] } t
      ∧ (h.target.global = true → exec (.globalAccessComplete w (.spread k reach)) s = .next t)
      ∧ (h.target.global = false → exec (.scratchpadAccessComplete w (.spread k reach)) s = .next t))
  ∧ (∀ s w k x p, s.near[k]? = some x → x.store.target = .phys p → (∀ y ∈ s.near.take k, y.store.meets x.store = false) →
    x ∉ s.near.eraseIdx k →
    exec (.globalAccessComplete w (.near k)) s = .next ({ s with near := s.near.eraseIdx k }.physWrite p x.store.bytes))
  ∧ (∀ s w k x g o, s.near[k]? = some x → x.store.target = .sp g o → (∀ y ∈ s.near.take k, y.store.meets x.store = false) →
    x ∉ s.near.eraseIdx k →
    exec (.scratchpadAccessComplete w (.near k)) s =
      .next ({ s with near := s.near.eraseIdx k }.modGroup g fun y => y.spWrite o x.store.bytes))
  ∧ (∀ s (w : WaveRef) t (va : DWord) (n : Fin 4) c p, s.relaxed = true → s.loader w t = some c → va.toNat % 2 ^ n.val = 0 →
    s.translate c.group.die c.launch.ctx c.path.priv .load va.toNat (2 ^ n.val) = .ok p → s.physBad p (2 ^ n.val) = false →
    let h : Held := ⟨t, .phys p, s.view c t p (2 ^ n.val), 0⟩
    ∃ u, exec (.globalAccessComplete w (.load t va n)) s = .next u ∧ BecameWave w { c.wave with early := c.wave.early ++ [h] } s u)
  ∧ (∀ s (w : WaveRef) t (ea : DWord) (n : Fin 4) c g o, s.relaxed = true → s.loader w t = some c → ea.toNat % 2 ^ n.val = 0 →
    s.spPlace c.group false ea.toNat (2 ^ n.val) = .ok (.sp g o) → s.spBad (.sp g o) (2 ^ n.val) = false → s.netFails c ea.toNat = false →
    let h : Held := ⟨t, .sp g o, s.spView c t (.sp g o) (2 ^ n.val), 0⟩
    ∃ u, exec (.scratchpadAccessComplete w (.load t ea n)) s = .next u ∧ BecameWave w { c.wave with early := c.wave.early ++ [h] } s u)
  ∧ (∀ s w k x c i bs, LateRow s w k x c i bs → c.wave.loads[k]? = some x → (∀ y ∈ c.wave.loads.take k, y.thread ≠ x.thread) →
    let v : DWord := if x.n = 8 then BitVec.ofNat 64 (leNat bs) else (extend x.signed bs).setWidth 64
    ∃ t c', exec i s = .next t ∧ OnlyWave c.ref s t ∧ t.ctxAt c.ref = some c' ∧ c'.wave.loads = c.wave.loads.eraseIdx k
      ∧ (c'.path.pc, c'.path.wait, c'.path.seq) = (c.path.pc, c.path.wait, c.path.seq)
      ∧ WroteR c c' (x.n == 8) x.dst [x.thread] (fun _ => v) ∧ SameS c c' ∧ SameP c c' ∧ Pushed c c' [x.thread] fun _ => v)
  ∧ (∀ s die ctx (va : DWord) level block e, va.toNat < 2 ^ 56 → ¬(ctx = 0 ∧ s.io.fw = true) → (s.rootOf ctx).getLsbD 63 = true →
    s.walkEntry die ctx va.toNat level = some e →
    let span := if block && pteBlk e && !pteMalformed level va.toNat e then 28 else entrySpan level
    let lo := va.toNat / 2 ^ span * 2 ^ span
    exec (.translationWalk die ctx va level block) s = .next { s with
      kept := ⟨die, ctx, level, lo, span, e⟩
        :: s.kept.filter fun x => !(x.die == die && x.ctx == ctx && x.level == level && x.lo == lo) })
  ∧ (∀ s d x, s.dies[d]? = some x → x.fqSet = true → (∀ r ∈ x.recs, r.slot.isSome = true) → x.zeroHeld.contains x.fqTrailer = false →
    let head := s.devNat (x.fqTrailer + 8) 8
    ∃ h, (x.fqhead ≤ head → h = head) ∧ (h = head ∨ h = x.fqhead)
      ∧ exec (.fqheadPoll d) s = .next { s with dies := s.dies.set d { x with fqhead := h } })
  ∧ ∀ s d n r k, s.record? ⟨d, n⟩ = some r → r.status = 0 → r.slot = some k →
    (s.belfry.halted = true ∨ s.changes = []) →
    ∃ t, exec (.faultStatusObserved d n) s = .next t ∧ t.statusOf ⟨d, n⟩ = min 2 (s.devNat ((s.die d).fqAddr k + 24) 8)
      ∧ { t with dies := s.dies, launches := s.launches, bands := s.bands } = s

/-- Waits that end by themselves (R134, R135, R151, R156, R170, R171): a deadline, the bound of `twait`, a changed word, the wait
limit, a claim that the pool can meet. -/
def Obligations.WaitsEnd : Prop :=
  (∀ s p c k, s.ctxAt p = some c → s.running c.group = true → c.path.wait = .time k → c.launch.repro = false →
    (k ≤ s.ns.toNat → ∃ t, exec (.waitDeadline p) s = .next t ∧ Passed c s c.perf t)
    ∧ (s.ns.toNat < k → exec (.waitDeadline p) s = .next s))
  ∧ (∀ s p c d (us : List Nat) (a b : Nat → Word) (since : Nat) (gen : Nat → Word), s.ctxAt p = some c → s.running c.group = true →
    c.path.wait = .twait d (us.map fun t => (t, a t, b t)) since → c.launch.repro = false → c.launch.waitlim = 0 →
    4096 ≤ s.cyclesSince c.group.die since → (∀ t ∈ us, s.genAt c t (a t).toNat = .ok (gen t)) →
    let ok (t : Nat) : Bool := decide (1 ≤ (gen t - b t).toNat) && decide ((gen t - b t).toNat ≤ 2 ^ 31 - 1)
    ∃ t c', exec (.twaitBound p) s = .next t ∧ OnlyWave c.ref s t ∧ t.ctxAt c.ref = some c' ∧ c'.path.pc = c.path.pc + 4
      ∧ c'.path.wait = .none ∧ WroteP c c' d us ok ∧ SameV c c' ∧ SameS c c' ∧ SameL c c')
  ∧ (∀ (s : State) p (c : Ctx) d (a v : Nat → DWord) m r q, s.ctxAt p = some c → s.running c.group = true →
    c.path.wait = .waita d (c.perf.map fun t => (t, a t, v t)) [] m r → c.launch.repro = false → c.First → s.NoPromote m r →
    s.GLoads c (fun t => (a t).toNat) 8 c.perf q →
    let x (t : Nat) : DWord := BitVec.ofNat 64 (leNat (s.view c t (q t) 8))
    (∀ t ∈ c.perf, x t ≠ v t) →
    ∃ t c', exec (.waitaReread p) s = .next t ∧ OnlyAccess c.ref s t ∧ t.ctxAt c.ref = some c' ∧ c'.path.pc = c.path.pc + 4
      ∧ c'.path.wait = .none ∧ WroteV64 c c' d c.perf x ∧ SameS c c' ∧ SameP c c' ∧ Pushed c c' c.perf x)
  ∧ (∀ s p c, s.ctxAt p = some c → s.running c.group = true →
    (∃ b ph, c.path.wait = .bar b ph) ∨ (∃ n, c.path.wait = .claim n) ∨ (∃ d x y m r, c.path.wait = .waita d x y m r)
      ∨ c.path.wait = .cseal ∨ (∃ n, c.path.wait = .cwait n) ∨ (c.launch.repro = true ∧ ∃ d x y, c.path.wait = .twait d x y) →
    let us := s.ns.toNat - c.path.since
    (c.launch.waitlim ≠ 0 ∧ 1000 * c.launch.waitlim < us →
      exec (.waitLimitTimeout p) s = .next ((s.modGroup c.ref.group fun g =>
        { g with claims := g.claims.filter fun r => r != c.ref }).takeTrap c { cause := .timeout, addr := BitVec.ofNat 64 (us / 1000) }))
    ∧ (c.launch.waitlim = 0 ∨ us ≤ 1000 * c.launch.waitlim → exec (.waitLimitTimeout p) s = .next s))
  ∧ ∀ s g c k rs, s.ctxAt c.ref = some c → c.ref.group = g → c.launch.repro = false → c.group.claims = c.ref :: rs →
    c.path.wait = .claim k → k ≤ c.group.pool → c.wave.qended = false → c.wave.seg + 32 * k ≤ min 2048 c.launch.d →
    ∃ t c', exec (.claimGrant g) s = .next t ∧ t.ctxAt c.ref = some c' ∧ { t with groups := s.groups } = s
      ∧ c'.path = c.path.next ∧ c'.wave.seg = c.wave.seg + 32 * k ∧ c'.group.pool = c.group.pool - k
      ∧ c'.group.claims = rs.filter (fun r => r != c.ref)
      ∧ (∀ j i, i < 2048 → c'.wave.w.get (2048 * j + i) =
          if c.wave.seg ≤ i ∧ i < c.wave.seg + 32 * k then 0 else c.wave.w.get (2048 * j + i))
      ∧ (c'.wave.o, c'.wave.p, c'.wave.wb, c'.wave.sb, c'.group.sp, c'.group.tiles) =
          (c.wave.o, c.wave.p, c.wave.wb, c.wave.sb, c.group.sp, c.group.tiles)

/-! ### Events: power -/

/-- Allowance, floor, slew limiter, Lehr, thermal trip, ageing (R206 to R210, R335 to R339, R356). Which core, entry or event comes
next stands in the model's agenda (log 3); the clauses on the agenda rest on it. -/
def Obligations.PowerEvents : Prop :=
  (∀ s c full k, s.clusters[c]? = some k →
    exec (.allowanceCycle c full) s = .next { s with
      agenda := .cycle c full :: s.agenda, clusters := s.clusters.set c { k with b := min (k.b + 2 * k.rate) 4096, fresh := true } })
  ∧ (∀ s c lcore k, s.clusters[c]? = some k → 63 ≤ (s.coreSched c lcore).idle →
    exec (.floorDue c lcore) s = .next { s with
      agenda := .core c lcore false :: s.agenda
      clusters := s.clusters.set c { k with turns := (lcore, false) :: k.turns.filter fun x => x.1 != lcore } })
  ∧ (∀ s c k, s.clusters[c]? = some k → (∀ pq, s.entrants c pq = []) →
    let a := min (max (k.level - k.down) (min (s.hinted c) (k.level + k.up))) 64
    ∃ t, exec (.slewStep c) s = .next t
      ∧ t.clusters = s.clusters.set c { k with level := a, u := k.u + 16 * a, fillers := k.fillers + a }
      ∧ { t with clusters := s.clusters, groups := s.groups } = s
      ∧ ∀ g x v, s.wave? g x = some v → ∃ h, t.wave? g x = some { v with hint := h })
  ∧ (∀ s d mv x, s.dies[d]? = some x → x.down = false →
    let tjmax := 16 * (x.lctl.extractLsb' 0 8).toNat
    let fmax := (x.lctl.extractLsb' 8 6).toNat
    ∃ y, exec (.lehrPeriod d mv) s = .next { s with dies := s.dies.set d y } ∧ y.vcore = mv
      ∧ (fmax < x.fop ∨ tjmax < x.tj.toNat → y = { x with vcore := mv }.setFop s.ns.toNat (x.fop - 1))
      ∧ (x.fop ≤ fmax → x.tj.toNat ≤ tjmax →
        (x.tj.toNat + 32 < tjmax ∧ x.fop < fmax ∧ x.trip = false
            ∧ (s.belfry.halted = false ∨ s.belfry.restoring2 = true) ∧ (∀ k, x.lastRise = some k → 100000 ≤ s.ns.toNat - k) →
          y = { x with
            vcore := mv, fop := x.fop + 1, clock := x.clock ++ [(x.fop, s.ns.toNat)], lastRise := some s.ns.toNat })
        ∧ (tjmax ≤ x.tj.toNat + 32 ∨ x.fop = fmax ∨ x.trip = true
            ∨ (s.belfry.halted = true ∧ s.belfry.restoring2 = false) ∨ (∃ k, x.lastRise = some k ∧ s.ns.toNat - k < 100000) → y = { x with vcore := mv })))
  ∧ (∀ s d temps x, s.dies[d]? = some x → s.dies.length = 4 → s.clusters.length = 8 → x.down = false →
    let tj := min (temps.foldl max 0) 4095
    ∃ t y, exec (.thermalSample d temps) s = .next t ∧ t.dies = s.dies.set d y ∧ { t with dies := s.dies, clusters := s.clusters } = s
      ∧ y.tj = BitVec.ofNat 12 tj
      ∧ (16 * s.io.ttrip ≤ tj → y.trip = true ∧ y.fop = 0 ∧ (t.cluster (2 * d)).rate = 0 ∧ (t.cluster (2 * d + 1)).rate = 0)
      ∧ (tj < 16 * s.io.ttrip → y.fop = x.fop ∧ t.clusters = s.clusters ∧ y.hotSince = none
          ∧ (y.trip = true ↔ x.trip = true ∧ 16 * (s.io.ttrip - 5) ≤ tj)))
  ∧ (∀ s d x, s.dies[d]? = some x → x.down = false → (∀ g ∈ s.groups, g.die ≠ d) →
    (∀ k, x.hotSince = some k → 100000000 ≤ s.ns.toNat - k →
      exec (.thermalShutdown d) s = .next { s with dies := s.dies.set d { x with down := true } })
    ∧ (x.hotSince = none ∨ (∃ k, x.hotSince = some k ∧ s.ns.toNat - k < 100000000) → exec (.thermalShutdown d) s = .next s))
  ∧ (∀ s d x k l p, s.dies[d]? = some x → x.down = false → x.hotSince = some k → 100000000 ≤ s.ns.toNat - k →
    (∃ g ∈ s.groups, g.die = d) → (∀ g ∈ s.groups, g.die = d → g.launch = l.id) → (∀ g ∈ s.groups, ∀ h ∈ s.groups, g.id = h.id → g = h) →
    s.launch? l.id = some l → s.NoChanges → s.place d l.ctx true .atomic l.counterVa.toNat 32 = .ok [(p, 32)] →
    let c := counterOf (s.physRead p 32)
    ∃ w : BitVec 256, (w.extractLsb' 72 8).toNat = 8 ∧ w.getLsbD 66 = true
      ∧ (∀ b < 256, b ≠ 66 → (b < 72 ∨ 80 ≤ b) → w.getLsbD b = c.getLsbD b)
      ∧ ∀ u, TakenOff d l ({ s with dies := s.dies.set d { x with down := true } }.physWrite p (leBytes 32 w.toNat)) u →
        ∃ t, exec (.thermalShutdown d) s = .next t ∧ t.dies = s.dies.set d { x with down := true }
          ∧ (t.mem, t.hostMem, t.peerMem, t.memBad) = (u.mem, u.hostMem, u.peerMem, u.memBad)
          ∧ t.launches = (if l.stopped = true then s.launches else s.launches.map (Launch.still l.id))
          ∧ (∀ g ∈ t.groups, g.die = d → g.ended = true ∧ g.fatal = true)
          ∧ ((∀ g ∈ s.groups, g.band = none) → ∀ g ∈ s.groups, g.die ≠ d → g ∈ t.groups))
  ∧ ∀ s d h x, s.dies[d]? = some x → exec (.eolhUpdate d h) s = .next { s with dies := s.dies.set d { x with eolh := h } }

/-- Frames, periods, sheds and restores of the Belfry (R340 to R349): the level that the curve gives for the last valid frequency,
the cap, what an evaluation sheds. -/
def Obligations.BelfryEvents : Prop :=
  (∀ s f, frameValid f = false → exec (.shelfFrame f) s = .next s)
  ∧ (∀ s f, frameValid f = true →
    let b := s.belfry
    let lvl := if b.bctl.getLsbD 0 = false then 256
      else match (if f.getLsbD 81 = true then some (f.extractLsb' 32 32) else b.okFreq) with
        | none => b.level
        | some x => min 256 (curveLevel b.bcurve ((x.toNat : Int) - if b.bctl.getLsbD 1 then 60000 else 50000))
    let lim := (f.extractLsb' 96 16).toNat
    let raw := min (min (b.bcap.extractLsb' 0 16).toNat s.io.pkglim) (if lim = 0 then 65535 else lim)
    ∃ t, exec (.shelfFrame f) s = .next t ∧ t.belfry.level = lvl ∧ t.belfry.lost = false
      ∧ t.belfry.capunatt = decide (raw < b.pidle) ∧ t.belfry.capNow = max raw b.pidle
      ∧ t.belfry.okFreq = (if f.getLsbD 81 = true then some (f.extractLsb' 32 32) else b.okFreq)
      ∧ t.belfry.lastFrame = some s.ns.toNat ∧ t.belfry.freq = f.extractLsb' 32 32 ∧ t.belfry.vbus = (f.extractLsb' 64 16).toNat
      ∧ t.belfry.shelflim = (f.extractLsb' 96 16).toNat ∧ t.belfry.holdup = f.getLsbD 80
      ∧ ∀ c, 1 ≤ c → c ≤ 7 → (lvl < b.shedLevel c ∨ raw < b.pidle) → ∀ k ∈ t.clusters, k.shed.getLsbD (c - 1) = true)
  ∧ (∀ s, (2000000 ≤ s.ns.toNat - s.belfry.lastFrame.getD 0 →
      exec .frameLossTimeout s = .next { s with belfry := { s.belfry with lost := true } })
    ∧ (s.ns.toNat - s.belfry.lastFrame.getD 0 < 2000000 → exec .frameLossTimeout s = .next s))
  ∧ (∀ s pm pd, ∃ t, exec (.belfryPeriod pm pd) s = .next t ∧ t.belfry.pm = pm
      ∧ (∀ d < 4, t.belfry.pd.getD d 0 = pd.getD d 0) ∧ (∀ k ∈ t.clusters, k.u = 0)
      ∧ t.clusters.map (fun k => k.um) = s.clusters.map (fun k => k.u)
      ∧ ((∀ k ∈ s.clusters, k.rate ≤ 1024) → ∀ k ∈ t.clusters, k.rate ≤ 1024)
      ∧ (∀ c, 1 ≤ c → c ≤ 7 → (t.belfry.level < t.belfry.shedLevel c ∨ t.belfry.capunatt = true) → ∀ k ∈ t.clusters, k.shed.getLsbD (c - 1) = true))
  ∧ (∀ s, s.belfry.overSince.isSome = true → s.belfry.unattNext ≤ s.ns.toNat →
    ∃ t, exec .unattTimer s = .next t ∧ t.belfry.unatt = true ∧ t.belfry.unattNext = s.belfry.unattNext + 1000000
      ∧ ∀ c, 1 ≤ c → c ≤ 7 → (∃ k ∈ s.clusters, k.shed.getLsbD (c - 1) = false) →
          (∀ d, c < d → d ≤ 7 → ∀ k ∈ s.clusters, k.shed.getLsbD (d - 1) = true) → ∀ k ∈ t.clusters, k.shed.getLsbD (c - 1) = true)
  ∧ (∀ s k, (s.belfry.overSince = none ∨ s.ns.toNat < s.belfry.unattNext) → s.belfry.okSince = some k →
    s.belfry.unatt = true → 1000000 ≤ s.ns.toNat - k →
    exec .unattTimer s = .next { s with belfry := { s.belfry with unatt := false } })
  ∧ ∀ s cls c due r k, s.belfry.restore = (cls, c, due) :: r → due ≤ s.ns.toNat → s.clusters[c]? = some k → 1 ≤ cls → cls ≤ 7 →
    ∃ t, exec (.restoreStagger cls c) s = .next t
      ∧ t.clusters = s.clusters.set c { k with shed := k.shed &&& ~~~(BitVec.twoPow 7 (cls - 1)) }
      ∧ (∀ g ∈ t.groups, g.cluster = c → g.prio = cls → ∀ w ∈ g.waves, w.parked = none)
      ∧ { t with clusters := s.clusters, groups := s.groups, belfry := s.belfry } = s
      ∧ (c < 7 → t.belfry.restore = (cls, c + 1, due + 1000 * s.belfry.rgap) :: r)

/-- Checkpoint, restore and core dump (R351 to R354, R372, R374, R375): a checkpoint stops the waves and puts device memory and
its time into the window; a restore brings it back; a dump stops its group before it is written. That no sector is in error after a
restore is the model's reading (log 12). -/
def Obligations.CheckpointAndDumpEvents : Prop :=
  (∀ s i, i = .bckgoGo ∨ i = .bckgoRestore → s.belfry.ckpt = 1 → exec i s = .next s)
  ∧ (∀ s, s.belfry.ckpt ≠ 1 → s.belfry.halted = false → s.near = [] → (∀ g ∈ s.groups, ∀ w ∈ g.waves, w.held = [] ∧ w.loads = []) →
    exec .bckgoGo s = .next { s with
      dies := s.dies.map fun d => d.setFop s.ns.toNat 0
      belfry := { s.belfry with
        halted := true, restoring2 := false, ckclk := s.ns, ckpt := if s.ckwinOk then 1 else 3, bckgo := if s.ckwinOk then 1 else 0 } })
  ∧ (∀ s, s.belfry.ckpt ≠ 1 → s.belfry.halted = false →
    (s.ckwinOk = true → s.imageStamp ≠ 0 → exec .bckgoRestore s = .next { s with
      belfry := { s.belfry with ckpt := 1, bckgo := 2, restoring2 := true, halted := true } })
    ∧ (s.ckwinOk = false ∨ s.imageStamp = 0 → exec .bckgoRestore s = .next { s with
      belfry := { s.belfry with ckpt := 3, bckgo := 0 } }))
  ∧ (∀ s, s.MemOk → s.belfry.halted = true → s.belfry.ckpt = 1 → s.belfry.restoring2 = false → s.enginesIdle = true →
    s.linkUp 0 = true ∨ s.linkUp 1 = true → s.ckBase + devBytes + 8 ≤ 2 ^ 51 → s.NoneKept →
    ∃ t, exec .checkpointCopyDone s = .next t
      ∧ { t with hostMem := s.hostMem } = { s with belfry := { s.belfry with ckpt := 2, bckgo := 0, halted := false } }
      ∧ (∀ a < devBytes, t.hostMem.read (s.ckBase + a) = s.mem.read a)
      ∧ (∀ a, (a < s.ckBase ∨ s.ckBase + devBytes + 8 ≤ a) → t.hostMem.read a = s.hostMem.read a)
      ∧ t.hostMem.nat (s.ckBase + devBytes) 8 = s.belfry.ckclk.toNat)
  ∧ (∀ s, s.belfry.halted = true → s.belfry.ckpt = 3 → s.NoneKept →
    exec .checkpointFailResume s = .next (if 1000000 ≤ s.ns.toNat - s.belfry.ckclk.toNat then
      { s with belfry := { s.belfry with halted := false } } else s))
  ∧ (∀ s, s.MemOk → s.belfry.ckpt = 1 → s.belfry.restoring2 = true → s.linkUp 0 = true ∨ s.linkUp 1 = true →
    s.ckBase + devBytes + 8 ≤ 2 ^ 51 → s.NoneKept →
    ∃ t, exec .restoreCopyDone s = .next t
      ∧ { t with mem := s.mem, memBad := s.memBad } =
          { s with belfry := { s.belfry with ckpt := 2, bckgo := 0, restoring2 := false, halted := false } }
      ∧ t.memBad = [] ∧ ∀ a < devBytes, t.mem.read a = s.hostMem.read (s.ckBase + a))
  ∧ (∀ s die, s.belfry.halted = true ∨ (s.die die).dumps = [] → exec (.coreDump die) s = .next s)
  ∧ (∀ s die d ds g l, s.belfry.halted = false → (s.die die).dumps = d :: ds → s.group? d.group = some g →
    s.launch? g.launch = some l → g.ended = false → d.halt = none →
    ∃ t d', exec (.coreDump die) s = .next t ∧ (∀ x ∈ t.groups, x.id = g.id ∨ (g.band.isSome = true ∧ x.band = g.band) → x.halted = true)
      ∧ (t.die die).dumps = d' :: ds ∧ d'.halt = some s.ns ∧ (d'.group, d'.cause) = (d.group, d.cause))
  ∧ ∀ s die d ds g l, s.belfry.halted = false → (s.die die).dumps = d :: ds → s.group? d.group = some g →
    s.launch? g.launch = some l → g.ended = false → d.halt.isSome = true → (s.giveUpAll g.id (g.waves.map fun w => w.wix)).2 = [] →
    exec (.coreDump die) s = .next (if g.drained then (s.writeDump d l g).endDump die g else s)

/-! ### Events: the Marver -/

/-- Dispatch, completion, pools, ageing, commits (R235, R236, R301 to R303, R307, R308, R312 to R315, R318): the group that a box or
a pool dispatches, how a group's end lowers its counter, and what a commit performs: the buffer in order, each atomic on memory as
it then stands, then the copies of the quantum. With whose rights the Marver acts, and how it takes its turns, is the model's
(logs 18, 45). -/
def Obligations.MarverEvents : Prop :=
  (∀ s, s.belfry.halted = true → exec .marverDispatch s = .next s)
  ∧ (∀ s l l1 p c lc core, s.belfry.halted = false → s.launches = [l] → l.present ≤ 7 → l.repro = false → l.cutmode ≠ 3 →
    l.pool = false → l.bandn ≤ 1 → l.logrec = false → s.blocks = [] → s.nextPlans (s.lookAt l) = (l1, [p]) → l1.id = l.id → l1.lrec = l.lrec →
    s.placePlans (s.lookAt l) (fun _ => false) [p] = some [(c, lc, core)] → p.entry.toNat % 64 = 0 → (∀ g ∈ s.groups, g.id ≠ s.nextId) →
    ∃ t g, exec .marverDispatch s = .next t ∧ t.groups = s.groups ++ [g] ∧ t.nextId = s.nextId + 1
      ∧ { t with groups := s.groups, nextId := s.nextId, launches := s.launches, bands := s.bands, served := s.served } = s
      ∧ (g.launch, g.gord, g.org, g.ext, g.threads) = (l.id, l1.gord, p.org, p.ext, p.threads)
      ∧ (g.cluster, g.lcore, g.core, g.prio, g.pool) = (c, lc, core, l1.present, l.poolb)
      ∧ g.sp = [] ∧ g.tiles = List.replicate l.tiles Tile.empty ∧ g.bars = List.replicate 10 0
      ∧ g.waves.map (fun w => w.wslot) = (List.range (nwaves p.threads)).map (fun i => (s.freeSlots core).getD i 0)
      ∧ ∀ w ∈ g.waves, ∃ q, w.path0 = some q ∧ w.path1 = none ∧ q.pc = p.entry ∧ q.mask = maskBelow (min 32 (p.threads - 32 * w.wix))
          ∧ q.priv = false ∧ w.exited = 0)
  ∧ (∀ s g l, s.group? g.id = some g → g.settled = true → s.belfry.halted = false → s.launch? g.launch = some l → l.repro = false →
    ∃ t, exec (.groupCompletion g.id) s = .next t ∧ ∀ x ∈ t.groups, x.id ≠ g.id)
  ∧ (∀ s g l p, s.group? g.id = some g → g.settled = true → s.belfry.halted = false → s.launch? g.launch = some l → l.repro = false →
    l.outmap = none → l.logrec = false → g.killed = false → s.NoChanges → s.near = [] → (∀ w ∈ g.waves, w.held = []) →
    s.place g.die l.ctx true .atomic l.counterVa.toNat 32 = .ok [(⟨.dev, p⟩, 32)] → p + 32 ≤ devBytes →
    let n := if l.pool then g.tasks else if l.cutmode = 3 then 1 else g.threads
    n < s.mem.nat p 8 →
    ∃ t, exec (.groupCompletion g.id) s = .next t ∧ t.mem.nat p 8 = s.mem.nat p 8 - n
      ∧ ∀ a, a < p ∨ p + 32 ≤ a → t.mem.read a = s.mem.read a)
  ∧ (∀ s g l k u, s.group? g.id = some g → g.settled = true → s.belfry.halted = false → s.launch? g.launch = some l → l.repro = false →
    l.outmap = none → l.logrec = false → g.killed = false → s.NoChanges → s.near = [] → (∀ w ∈ g.waves, w.held = []) → k ≤ 64 →
    Lowered g.die l.ctx k s l.counterVa (if l.pool then g.tasks else if l.cutmode = 3 then 1 else g.threads) u →
    ∃ t, exec (.groupCompletion g.id) s = .next t ∧ t.groups = s.groups.filter (fun x => x.id != g.id)
      ∧ (t.mem, t.hostMem, t.peerMem, t.memBad) = (u.mem, u.hostMem, u.peerMem, u.memBad))
  ∧ (∀ s lid l tail closed, s.launch? lid = some l → l.pool = true → s.belfry.halted = false → s.poolNow l = some (tail, closed) →
    l.stopped = false → l.left ≠ 0 → tail = l.poolHead →
    (closed = false → exec (.poolGroupCommit lid) s = .next s)
    ∧ (closed = true → s.NoChanges → ∀ k ≤ 64, ∀ u, Lowered 0 l.ctx k s l.counterVa 1 u →
      ∃ t, exec (.poolGroupCommit lid) s = .next t ∧ { t with
          launches := s.launches, bands := s.bands, mem := s.mem, hostMem := s.hostMem, peerMem := s.peerMem, memBad := s.memBad } = s
        ∧ (t.mem, t.hostMem, t.peerMem, t.memBad) = (u.mem, u.hostMem, u.peerMem, u.memBad)
        ∧ ∀ x ∈ t.launches, x.id = lid → x.left = 0))
  ∧ (∀ (s : State) i l tail closed (m : Nat) e c lc core hp k u, s.belfry.halted = false → s.launches = [l] → l.present ≤ 7 → l.repro = false →
    l.pool = true → l.stopped = false → l.left ≠ 0 → l.bandn ≤ 1 → l.logrec = false → s.blocks = [] → s.NoChanges →
    (∀ g ∈ s.groups, g.id ≠ s.nextId) → i = .marverDispatch ∨ i = .poolGroupCommit l.id →
    s.poolNow l = some (tail, closed) → l.held = false → 1 ≤ m → m ≤ l.poolExtent → l.poolHead + m ≤ tail →
    (∀ j < m, s.taskEntry l (l.poolHead + j) = some e) → e.toNat % 64 = 0 →
    (m = l.poolExtent ∨ (l.poolHead + m < tail ∧ s.taskEntry l (l.poolHead + m) ≠ some e)
      ∨ (l.poolHead + m = tail ∧ (closed = true ∨ ∃ r, (s.lookAt l).headSeen = some r ∧ 2000 ≤ s.ns.toNat - r))) →
    s.tilesReady l [l.poolHead, 0, 0, 0] [m, 1, 1, 1] = true → s.placeFree (s.lookAt l) (fun _ => false) [m] = some (c, [(lc, core)]) →
    s.place 0 l.ctx true .store l.poolhdr.toNat 8 = .ok [(hp, 8)] → k ≤ 64 →
    Lowered (c / 2) l.ctx k (s.physWrite hp (leBytes 8 (l.poolHead + m))) l.counterVa (-(m : Int)) u →
    ∃ t g, exec i s = .next t ∧ t.groups = s.groups ++ [g]
      ∧ (t.mem, t.hostMem, t.peerMem, t.memBad) = (u.mem, u.hostMem, u.peerMem, u.memBad)
      ∧ (g.launch, g.org, g.ext, g.threads, g.tasks) = (l.id, [l.poolHead, 0, 0, 0], [m, 1, 1, 1], m, m)
      ∧ (g.cluster, g.lcore, g.core) = (c, lc, core)
      ∧ (∀ w ∈ g.waves, ∃ q, w.path0 = some q ∧ w.path1 = none ∧ q.pc = e ∧ q.priv = false)
      ∧ (∀ w ∈ g.waves, ∀ j < w.threads, 32 * w.wix + j < m ∧
          let a : DWord := BitVec.ofNat 64 (taskAddr l.poolHdr (l.poolHead + (32 * w.wix + j)))
          w.w.get (2048 * j) = a.setWidth 32 ∧ w.w.get (2048 * j + 1) = a.extractLsb' 32 32
          ∧ w.w.get (2048 * j + 2) = BitVec.ofNat 32 (l.poolHead + (32 * w.wix + j)) ∧ ∀ r, 3 ≤ r → r < 2048 → w.w.get (2048 * j + r) = 0)
      ∧ ∀ x ∈ t.launches, x.id = l.id → x.poolHead = l.poolHead + m)
  ∧ (∀ s lid, s.belfry.halted = true → exec (.tileStatePoll lid) s = .next s)
  ∧ (∀ s lid l, s.launch? lid = some l → s.belfry.halted = false → l.pool = false →
    ∃ t, exec (.tileStatePoll lid) s = .next t ∧ { t with launches := s.launches } = s
      ∧ t.launch? lid = some { l with since := if (s.nextPlans l).2 = [] then none else some (l.since.getD s.ns.toNat) })
  ∧ (∀ s lid l, s.launch? lid = some l → l.pool = false →
    let us := ((s.io.ageus.getD l.present 0).extractLsb' 0 16).toNat
    ((s.nextPlans l).2 = [] → exec (.classAgeing lid) s = .next (s.modLaunch lid fun _ => { l with since := none }))
    ∧ ((s.nextPlans l).2 ≠ [] →
      (l.since = none → exec (.classAgeing lid) s = .next (s.modLaunch lid fun _ => { l with since := some s.ns.toNat }))
      ∧ ∀ k, l.since = some k → exec (.classAgeing lid) s = .next (if us ≠ 0 ∧ 1 < l.present ∧ 1000 * us < s.ns.toNat - k then
          s.modLaunch lid fun _ => { l with present := l.present - 1, since := some s.ns.toNat } else s.modLaunch lid fun _ => l)))
  ∧ (∀ s lid l, s.launch? lid = some l → s.belfry.halted = true ∨ s.quantumOver l = false → exec (.quantumCommit lid) s = .next s)
  ∧ ∀ s lid l g v, s.launches = [l] → l.id = lid → l.repro = true → l.stopped = true → s.belfry.halted = false →
    s.groups.filter (fun x => x.launch == lid) = [g] → s.group? g.id = some g → g.halted = false → g.ended = false → g.claims = [] → g.waves = [v] →
    v.ended = false → l.quantum ≤ v.qinstr → v.hq = [] → (∀ x ∈ v.streams, x.opened = false) →
    (∀ b q, v.path? b = some q → q.wait = .none) →
    let buffer := s.commits v.cbuf
    (v.cq = [] →
      ∃ t, exec (.quantumCommit lid) s = .next t
        ∧ (t.mem, t.hostMem, t.peerMem, t.memBad) = (buffer.mem, buffer.hostMem, buffer.peerMem, buffer.memBad)
        ∧ (∀ ps, v.cbuf = ps.map (fun x => .store x.1 x.2) → ∀ q, t.byteAt q = (lastByte ps q).getD (s.byteAt q))
        ∧ t.wave? g.id v.wix = some { v with cbuf := [], qcount := v.qcount + 1, qended := false, qinstr := 0 })
    ∧ ∀ op e, v.cq = [op] → op.kind.link = none → op.kind.global = true → op.fault = none → op.since = none →
      let b := buffer.modWave g.id v.wix fun w => { w with cbuf := [], qcount := w.qcount + 1 }
      b.eng ⟨g.id, v.wix⟩ = some e →
      let u := b.copyNow e (op.n + 1) op
      (u.wave? g.id v.wix).map (fun w => w.cq) = some [] →
      ∃ t, exec (.quantumCommit lid) s = .next t
        ∧ (t.mem, t.hostMem, t.peerMem, t.memBad) = (u.mem, u.hostMem, u.peerMem, u.memBad)
        ∧ ∀ a o, t.spByteAt a o = u.spByteAt a o

/-! ### Events: the I/O die -/

/-- The mailbox, the control launch and firmware's registers (R316, R317, R373, R386 to R391, R401, R403): a command is answered with
its status and number, and vector 0 is signalled; a write of a register is refused whole or leaves what its rule says; a job's
launch is queued or refused, a job's `cancel` cancels, and `HEAD` goes on. How the control launch reads, that a host's record
rewritten early is taken as it stands, that it is free which record of the ring a `TAIL` beyond it leads to, and the order of
checks are the model's (logs 16, 51, 54, 55, 56, 91). -/
def Obligations.MailboxEvents : Prop :=
  (∀ s i, i = .mread ∨ i = .mwrite ∨ i = .jlset ∨ i = .jlstop ∨ i = .attest ∨ i = .mailboxUnknownCommand →
    s.io.cmd.extractLsb' 32 32 = s.io.resp.extractLsb' 32 32 → exec i s = .next s)
  ∧ (∀ s, s.io.cmd.extractLsb' 32 32 ≠ s.io.resp.extractLsb' 32 32 →
    let opc := (s.io.cmd.extractLsb' 0 16).toNat
    let n := (s.io.cmd.extractLsb' 64 64).toNat
    let answers (i : Instr) (rstat : Nat) : Prop := ∃ t, exec i s = .next t ∧ { t with io := s.io } = s
      ∧ { t.io with resp := s.io.resp, xfer := s.io.xfer } = { s.io with msix := s.io.msix ++ [0] }
      ∧ t.io.resp.extractLsb' 0 16 = BitVec.ofNat 16 rstat ∧ t.io.resp.extractLsb' 32 32 = s.io.cmd.extractLsb' 32 32
      ∧ t.io.resp.extractLsb' 16 16 = s.io.resp.extractLsb' 16 16
    let result (i : Instr) (v : DWord) : Prop := ∃ t, exec i s = .next t ∧ t.io.resp.extractLsb' 64 64 = v
    (opc = 1 → ∀ v, s.mgmtRead n = some v → v < 2 ^ 64 → answers .mread 0 ∧ result .mread (BitVec.ofNat 64 v))
    ∧ (opc = 1 → s.mgmtRead n = none → answers .mread 2)
    ∧ (opc = 2 → s.io.fw = false → n ≠ 0x900 → (n < 0x908 ∨ 0x910 ≤ n) → answers .mwrite 3)
    ∧ (opc = 2 → s.io.fw = true → n = 0x200 → answers .mwrite 3)
    ∧ (opc = 2 → s.io.fw = true → n ≠ 0x200 → s.mgmtWrite n (s.io.value n) = none → answers .mwrite 2)
    ∧ (opc = 2 → s.io.fw = true → n ≠ 0x200 → ∀ u, s.mgmtWrite n (s.io.value n) = some (.done u) → u.io = s.io →
      ∃ t, exec .mwrite s = .next t ∧ { t with io := s.io } = u ∧ t.io.resp.extractLsb' 0 16 = 0
        ∧ t.io.resp.extractLsb' 32 32 = s.io.cmd.extractLsb' 32 32)
    ∧ (opc = 2 → s.io.fw = true → n ≠ 0x200 → (n < 0x908 ∨ 0x910 ≤ n) → ∀ ok after, MgmtRow s n (s.io.value n) ok after →
      (ok → ∃ u t, after u ∧ exec .mwrite s = .next t ∧ { t with io := u.io } = u
        ∧ { t.io with resp := u.io.resp } = { u.io with msix := u.io.msix ++ [0] } ∧ t.io.resp.extractLsb' 0 16 = 0)
      ∧ (¬ok → ∃ t, exec .mwrite s = .next t ∧ t.io.resp.extractLsb' 0 16 = 2 ∧ t.io.mlog = s.io.mlog ++ [.refused n]))
    ∧ (opc = 3 → s.io.fw = true → s.io.control ≠ none → answers .jlset 4)
    ∧ (opc = 3 → s.io.fw = true → s.io.control = none → (s.belfry.ckpt ≠ 1 ∨ s.belfry.restoring2 = false) → n % 64 = 0 →
      n < devBytes → s.physBad ⟨.dev, n⟩ 64 = false → (s.jobList n).2 = true →
      let h : DWord := BitVec.ofNat 64 (s.devNat (n + 8) 8)
      ∃ t, exec .jlset s = .next t ∧ { t with io := s.io } = s ∧ t.io.control = some ⟨h, h, false, none⟩ ∧ t.io.jlhead = h
        ∧ t.io.jladdr = BitVec.ofNat 64 (2 ^ 63 + n) ∧ t.io.resp.extractLsb' 0 16 = 0)
    ∧ (opc = 4 → s.io.fw = true → (∀ k, s.io.control = some k → k.fault = none) →
      ∃ t, exec .jlstop s = .next t ∧ { t with io := s.io } = s ∧ t.io.control = none
        ∧ t.io.resp.extractLsb' 0 16 = 0 ∧ t.io.resp.extractLsb' 64 64 = s.io.jlhead)
    ∧ (opc = 4 → s.io.fw = true → ∀ k, s.io.control = some k → k.fault ≠ none →
      exec .jlstop s = .next { s with io := { s.io with control := some { k with stopping := true } } })
    ∧ (opc = 5 → s.io.fw = true → answers .attest 0 ∧ result .attest (BitVec.ofNat 64 s.report.length)
      ∧ ∃ t, exec .attest s = .next t ∧ ∀ i < s.report.length, i < xferBytes → t.io.xfer.read (xferBase + i) = s.report.getD i 0)
    ∧ ((opc = 0 ∨ 6 ≤ opc) → answers .mailboxUnknownCommand (if s.io.fw then 1 else 3)))
  ∧ (∀ s n v, s.io.fw = false → exec (.mgmtRegisterWrite n v) s = .next s)
  ∧ (∀ s n v ok after, s.io.fw = true → MgmtRow s n v ok after →
    (ok → ∃ t, exec (.mgmtRegisterWrite n v) s = .next t ∧ after t)
    ∧ (¬ok → exec (.mgmtRegisterWrite n v) s = .next { s with io := { s.io with mlog := s.io.mlog ++ [.refused n] } }))
  ∧ (∀ s n v, s.io.fw = true → ReadOnly n ∨ s.mgmtRead n = none → exec (.mgmtRegisterWrite n v) s = .next s)
  ∧ (∀ (s : State) (v : DWord), v.getLsbD 23 = false → v.getLsbD 31 = false → v.extractLsb' 44 20 = 0 →
    let pkg := (v.extractLsb' 0 16).toNat
    let slew := max 1 (v.extractLsb' 16 7).toNat
    let trip := (v.extractLsb' 24 7).toNat
    let mask : BitVec 12 := v.extractLsb' 32 12
    100 ≤ trip →
    ((pkg ≤ s.io.pkglim ∧ slew ≤ s.io.slewlim ∧ trip ≤ s.io.ttrip ∧ mask &&& ~~~s.io.spmask = 0) →
      exec (.clampBlockWrite v) s = .next { s with
        io := { s.io with pkglim := pkg, slewlim := slew, ttrip := trip, spmask := mask }
        clusters := s.clusters.map fun k => { k with up := min k.up slew, down := min k.down slew } })
    ∧ (s.io.pkglim < pkg ∨ s.io.slewlim < slew ∨ s.io.ttrip < trip ∨ mask &&& ~~~s.io.spmask ≠ 0 →
      exec (.clampBlockWrite v) s = .next { s with io := { s.io with mlog := s.io.mlog ++ [.clamp 0x900] } }))
  ∧ (∀ (s : State) (v : Word) g, v.getLsbD 31 = true → v.extractLsb' 10 6 = 0 → v.extractLsb' 22 9 = 0 →
    let core := (v.extractLsb' 0 10).toNat
    let wslot := (v.extractLsb' 16 6).toNat
    core ≤ 543 →
    (s.groups.find? (fun x => x.core == core && x.waves.any fun w => w.wslot == wslot) = none →
      exec (.dumpgoWrite v) s = .next { s with io := { s.io with mlog := s.io.mlog ++ [.noWave core wslot] } })
    ∧ (s.groups.find? (fun x => x.core == core && x.waves.any fun w => w.wslot == wslot) = some g → s.dumpFits = true →
      (s.die g.die).dumps.length < 17 → (∀ d ∈ (s.die g.die).dumps, d.group ≠ g.id) → g.die < s.dies.length →
      ∃ t, exec (.dumpgoWrite v) s = .next t ∧ { t with dies := s.dies } = s
        ∧ (t.die g.die).dumps = (s.die g.die).dumps ++ [⟨g.id, 0, none, false, 0, []⟩]))
  ∧ (∀ s i, i = .jobLaunch ∨ i = .jobCancelDrain ∨ i = .jobCancelTrap ∨ i = .jobRecordSkip → s.io.control = none → exec i s = .next s)
  ∧ (∀ (s : State) (k : Control), s.io.control = some k → s.belfry.halted = false → k.seen.toNat < k.tail.toNat →
    let list := BitVec.ofNat 512 (s.devNat (s.io.jladdr.extractLsb' 0 52).toNat 64)
    let ring := 2 ^ (list.extractLsb' 128 8).toNat
    ∃ i j, (k.tail.toNat ≤ k.seen.toNat + ring → i = k.seen.toNat % ring) ∧ i < ring ∧
      let a := (list.extractLsb' 192 64).toNat + 64 * i
      let v := BitVec.ofNat 512 (s.devNat a 64)
      s.job = some (k, j, s.physBad ⟨.dev, a⟩ 64) ∧ j.op = (v.extractLsb' 0 4).toNat ∧ j.arg = v.extractLsb' 64 64
      ∧ j.b.toNat = (v.extractLsb' 4 3).toNat + 8 * (v.getLsbD 7).toNat
      ∧ (j.ok = true ↔ v.extractLsb' 8 56 = 0 ∧ v.extractLsb' 128 384 = 0 ∧ 1 ≤ j.op ∧ j.op ≤ 3))
  ∧ ∀ s k j, s.job = some (k, j, false) → k.fault = none →
    (j.ok = true → j.op = 1 → j.arg.toNat % 256 = 0 →
      LaunchDoes s ⟨0, false, none⟩ 0 0 j.arg j.b fun u => ∃ t, exec .jobLaunch s = .next t ∧ JobDone k u t)
    ∧ (j.ok = true → j.arg.toNat % 32 = 0 →
      (j.op = 2 → CancelDoes s ⟨0, false, none⟩ 0 j.arg false fun u => ∃ t, exec .jobCancelDrain s = .next t ∧ JobDone k u t)
      ∧ (j.op = 3 → CancelDoes s ⟨0, false, none⟩ 0 j.arg true fun u => ∃ t, exec .jobCancelTrap s = .next t ∧ JobDone k u t))
    ∧ (j.ok = false → s.io.jlBase + 16 ≤ devBytes → k.stopping = false →
      ∃ t, exec .jobRecordSkip s = .next t ∧ s.io.badrec.toNat ≤ t.io.badrec.toNat
        ∧ (s.io.badrec ≠ 0xFFFFFFFF → t.io.badrec = s.io.badrec + 1) ∧ t.io.jlhead = k.seen + 1
        ∧ t.devNat (s.io.jlBase + 8) 8 = (k.seen + 1).toNat ∧ t.io.control = some ⟨k.seen + 1, k.tail, k.stopping, none⟩)

/-- Accesses from outside, arriving messages, links, firmware, errors, reset (R213, R214, R263, R294, R376, R383 to R386, R393, R394,
R397 to R402). Which of several spare quads stands in, with whose rights the I/O die writes, what a mailbox window does beyond its
records and what a module reset keeps are the model's (logs 29, 30, 53, 54, 57). -/
def Obligations.LinkEvents : Prop :=
  (∀ s link mailbox addr acc, s.io.trained.contains link = false ∨ s.io.down.contains link = true →
    exec (.hostInboundAccess link mailbox addr acc) s = .next s)
  ∧ (∀ s link addr bs, s.io.trained.contains link = true → s.io.down.contains link = false → s.io.fwBad = false →
    addr + bs.length ≤ devBytes →
    ∃ t, exec (.hostInboundAccess link false addr (.write bs)) s = .next t ∧ { t with mem := s.mem, memBad := s.memBad } = s
      ∧ ∀ a, t.mem.read a = if addr ≤ a ∧ a < addr + bs.length then bs.getD (a - addr) 0 else s.mem.read a)
  ∧ (∀ s link addr (bs : List Byte), s.io.trained.contains link = true → s.io.down.contains link = false → addr + bs.length ≤ 128 →
    ∃ t, exec (.hostInboundAccess link true addr (.write bs)) s = .next t ∧ { t with io := s.io } = s
      ∧ { t.io with cmd := s.io.cmd } = s.io
      ∧ ∀ i < 128, t.io.cmd.extractLsb' (8 * i) 8 =
          if addr ≤ i ∧ i < addr + bs.length then bs.getD (i - addr) 0 else s.io.cmd.extractLsb' (8 * i) 8)
  ∧ (∀ s link addr acc, (s.io.spmask.getLsbD link = false ∨ s.io.spireDown.contains link = true
      ∨ ∀ w ∈ s.io.spwin, w.getLsbD 0 = false ∨ w.getLsbD (16 + link) = false) →
    exec (.spireInboundAccess link addr acc) s = .next s)
  ∧ (∀ s link addr bs w, s.io.spmask.getLsbD link = true → s.io.spireDown.contains link = false → link < 12 → w ∈ s.io.spwin →
    w.getLsbD 0 = true → w.getLsbD 2 = true → w.getLsbD (16 + link) = true →
    2 ^ 16 * (w.extractLsb' 32 32).toNat ≤ addr →
    addr + bs.length ≤ 2 ^ 16 * (w.extractLsb' 32 32).toNat + 2 ^ 16 * (w.extractLsb' 64 32).toNat → addr + bs.length ≤ devBytes →
    ∃ t, exec (.spireInboundAccess link addr (.write bs)) s = .next t ∧ { t with mem := s.mem, memBad := s.memBad } = s
      ∧ ∀ a, t.mem.read a = if addr ≤ a ∧ a < addr + bs.length then bs.getD (a - addr) 0 else s.mem.read a)
  ∧ (∀ s link tag off bs i v u, s.io.spmask.getLsbD link = true → s.io.spireDown.contains link = false →
    s.io.matchEntry link tag = some (i, v) → off + bs.length ≤ aeLength v → i ∉ s.io.appends →
    s.ioWrite (aeCtx v) (aeBuf v + off) bs = some u →
    let n := (aeCount v + bs.length) % 2 ^ 32
    ∃ t, exec (.arrivalMatch link tag off bs) s = .next t ∧ { t with io := u.io } = u
      ∧ t.io.arrivals = u.io.arrivals.map (fun e => if e.1 = i then (i, setBits e.2 160 32 n) else e)
      ∧ t.io.appends = if aeLength v ≤ n then u.io.appends ++ [i] else u.io.appends)
  ∧ (∀ s link tag off bs, s.io.matchEntry link tag = none → exec (.arrivalMatch link tag off bs) s = .next s)
  ∧ (∀ s i, i ∉ s.io.appends → exec (.arrivalTaskAppend i) s = .next s)
  ∧ (∀ s i h bs u u1, i ∈ s.io.appends → s.still = false →
    let v := s.io.arrivalEntry i
    s.rangeRead 0 (aeCtx v) true .load (aePool v) 64 = .ok bs → h = BitVec.ofNat 512 (leNat bs) → phValid h = true → 32 ≤ phRecb h →
    phTail h ≠ phHead h + 2 ^ phPlog h →
    s.ioWrite (aeCtx v) (phRbase h + phRecb h * (phTail h % 2 ^ phPlog h)) (taskRecord v (phRecb h)) = some u →
    u.ioWrite (aeCtx v) (aePool v + 8) (leBytes 8 (phTail h + 1)) = some u1 →
    ∃ t, exec (.arrivalTaskAppend i) s = .next t ∧ { t with io := u1.io } = u1 ∧ i ∉ t.io.appends
      ∧ t.io.arrivals = u1.io.arrivals.map (fun e => if e.1 = i then
          (i, if e.2.getLsbD 1 then setBits e.2 160 32 0 else setBits e.2 0 1 0) else e))
  ∧ (∀ s link, ∃ t, exec (.spireLaneFail link) s = .next t ∧ { t with dies := s.dies, mem := s.mem, io := s.io } = s
      ∧ t.io.spireDown = s.io.spireDown
      ∧ (t.io.lanes.find? fun x => x.1 == link) = some (link, ((s.io.lanes.find? fun x => x.1 == link).map Prod.snd).getD 0 + 1))
  ∧ (∀ s link, exec (.hostLinkDown link) s = .next { s with
      io := { s.io with down := if s.io.down.contains link then s.io.down else s.io.down ++ [link] } })
  ∧ (∀ s link, exec (.hostLinkTrained link) s = .next { s with io := { s.io with
      trained := if s.io.trained.contains link then s.io.trained else s.io.trained ++ [link]
      down := s.io.down.filter fun l => l != link
      trainedAt := some (s.io.trainedAt.getD s.ns.toNat) } })
  ∧ (∀ s, exec .linkTrainingTimeout s = .next (if s.io.trainedAt = none ∧ 1000000000 ≤ s.ns.toNat then
      { s with io := { s.io with trainedAt := some s.ns.toNat } } else s))
  ∧ (∀ s img k, s.io.trainedAt = some k → s.io.fw = false → s.io.fwBad = false → 100000000 ≤ s.ns.toNat - k →
    (img.rsaOk = true → img.slhOk = true → s.io.fuseVer ≤ img.version →
      ∃ t n, exec (.firmwareStart img) s = .next t ∧ { t with io := s.io } = { s with belfry := { s.belfry with pidle := n } }
        ∧ { t.io with resp := s.io.resp } = { s.io with fw := true, locked := true, msix := s.io.msix ++ [0] }
        ∧ t.io.resp.getLsbD 16 = true ∧ ∀ i < 1024, i ≠ 16 → t.io.resp.getLsbD i = s.io.resp.getLsbD i)
    ∧ (img.rsaOk = false ∨ img.slhOk = false ∨ img.version < s.io.fuseVer →
      exec (.firmwareStart img) s = .next { s with io := { s.io with fwBad := true, mlog := s.io.mlog ++ [.image] } }))
  ∧ (∀ s img, (s.io.trainedAt = none ∨ s.io.fw = true ∨ s.io.fwBad = true ∨ ∃ k, s.io.trainedAt = some k ∧ s.ns.toNat - k < 100000000) →
    exec (.firmwareStart img) s = .next s)
  ∧ (∀ s, exec .moduleReset s = .next { State.reset with
      tick := s.tick, relaxed := s.relaxed, mem := s.mem, hostMem := s.hostMem, peerMem := s.peerMem, memBad := s.memBad
      netBad := s.netBad
      io := { State.reset.io with fuseVer := s.io.fuseVer } })
  ∧ (∀ s p c, (s.settleLoads p).ctxAt p = some c →
    exec (.softError p) s = .next ((s.settleLoads p).takeTrap c { cause := .soft }))
  ∧ (∀ s d x n, s.dies[d]? = some x →
    exec (.scrub d n false) s = .next { s with dies := s.dies.set d { x with corrected := x.corrected + n } })
  ∧ (∀ s d x n, s.dies[d]? = some x → ∃ t, exec (.scrub d n true) s = .next t ∧ { t with dies := s.dies, mem := s.mem } = s
      ∧ (t.die d).corrected = x.corrected + n ∧ (t.die d).spared = x.spared + 1)
  ∧ (∀ s c pq k, s.clusters[c]? = some k → (∃ g ∈ s.groups, g.cluster = c ∧ g.coreNo / 4 = pq) →
    exec (.quadRetire c pq) s = .next { s with clusters := s.clusters.set c { k with qhealth := k.qhealth &&& ~~~(BitVec.twoPow 17 pq) } })
  ∧ (∀ s c pq k, s.clusters[c]? = some k → k.lmap.length = 16 → (∀ g ∈ s.groups, ¬(g.cluster = c ∧ g.coreNo / 4 = pq)) →
    ∃ m, exec (.quadRetire c pq) s = .next { s with
        clusters := s.clusters.set c { k with qhealth := k.qhealth &&& ~~~(BitVec.twoPow 17 pq), lmap := m } }
      ∧ m.length = k.lmap.length
      ∧ ((∀ e ∈ k.lmap, (e.extractLsb' 0 5).toNat ≠ pq) → m = k.lmap)
      ∧ ∀ q e, pq < 17 → k.lmap[q]? = some e → (e.extractLsb' 0 5).toNat = pq →
        (∀ j f, k.lmap[j]? = some f → (f.extractLsb' 0 5).toNat = pq → j = q) →
        let names (p : Nat) : List Word := k.lmap.filter fun f => (f.extractLsb' 0 5).toNat == p
        let serves (p : Nat) : Prop := p < 17 ∧ p ≠ pq ∧ k.qhealth.getLsbD p = true
        ((∃ p, serves p ∧ names p = []) →
          ∃ p, serves p ∧ names p = [] ∧ m = k.lmap.set q (BitVec.ofNat 32 (p + 64 * (e.getLsbD 6).toNat)))
        ∧ ((∀ p, serves p → names p ≠ []) → (∃ p, serves p ∧ (names p).length = 1) →
          ∃ p, serves p ∧ (names p).length = 1
            ∧ m = (k.lmap.map fun f => if (f.extractLsb' 0 5).toNat = p then f ||| 32 else f).set q
                (BitVec.ofNat 32 (p + 32 + 64 * (e.getLsbD 6).toNat)))
        ∧ ((∀ p, serves p → 2 ≤ (names p).length) → m = k.lmap))
  ∧ ∀ s u, exec (.engineRetire u) s = .next { s with
      io := { s.io with retired := if s.io.retired.contains u then s.io.retired else s.io.retired ++ [u] } }
end

