-- ==== Sys2Proof/Laws/Sparse.lean ====
section
/-! SUPPORT. The laws of sparse stores and of memory: read after write, and the canonical form kept. -/

namespace Sys2Proof.Machine

namespace Sparse

theorem get_put (a : Nat) (v : BitVec w) (m : Sparse w) (b : Nat) (h : get m a = 0) :
    get (put a v m) b = if b = a then v else get m b := by
  unfold put
  split
  · split
    · subst_vars; exact h
    · rfl
  · simp [get]

theorem get_erase (a : Nat) (m : Sparse w) (b : Nat) : get (erase a m) b = if b = a then 0 else get m b := by
  induction m with
  | nil => simp [erase, get]
  | cons x r ih =>
    obtain ⟨k, u⟩ := x
    by_cases hk : a = k
    · by_cases hb : b = a
      · simp only [erase, if_pos hk, ih, if_pos hb]
      · have hbk : b ≠ k := fun e => hb (e.trans hk.symm)
        simp only [erase, if_pos hk, ih, get, if_neg hbk, if_neg hb]
    · by_cases hb : b = k
      · have hba : b ≠ a := fun e => hk (e.symm.trans hb)
        simp only [erase, if_neg hk, get, if_pos hb, if_neg hba]
      · simp only [erase, if_neg hk, get, if_neg hb, ih]

theorem get_insert (a : Nat) (v : BitVec w) (m : Sparse w) (b : Nat) (h : get m a = 0) (hk : ∀ x ∈ m, x.1 ≠ a) :
    get (insert a v m) b = if b = a then v else get m b := by
  induction m with
  | nil => simpa [insert] using get_put a v [] b rfl
  | cons x r ih =>
    obtain ⟨k, u⟩ := x
    have hka : k ≠ a := hk _ (List.mem_cons_self ..)
    have hr : get r a = 0 := by simpa [get, Ne.symm hka] using h
    have ih' := ih hr fun y hy => hk y (List.mem_cons_of_mem _ hy)
    unfold insert
    split
    · exact get_put a v _ b h
    · by_cases hb : b = k
      · have : b ≠ a := fun e => hka (hb.symm.trans e)
        simp [get, hb, hka]
      · simp [get, hb, ih']

theorem erase_keys (a : Nat) (m : Sparse w) : ∀ x ∈ erase a m, x.1 ≠ a := by
  induction m with
  | nil => simp [erase]
  | cons y r ih =>
    obtain ⟨k, u⟩ := y
    unfold erase
    split
    · exact ih
    · rename_i h
      intro x hx
      rcases List.mem_cons.1 hx with rfl | hx
      · exact fun e => h e.symm
      · exact ih x hx

/-- Read after write. -/
@[simp] theorem get_set (m : Sparse w) (a : Nat) (v : BitVec w) (b : Nat) :
    get (set m a v) b = if b = a then v else get m b := by
  unfold set
  rw [get_insert _ _ _ _ (by simp [get_erase]) (erase_keys a m), get_erase]
  split <;> rfl

@[simp] theorem get_nil (a : Nat) : get ([] : Sparse w) a = 0 := rfl

/-! ### The canonical form -/

theorem wfFrom_cons (lo : Option Nat) (k : Nat) (v : BitVec w) (r : Sparse w) :
    wfFrom lo ((k, v) :: r) = true ↔ (∀ l, lo = some l → l < k) ∧ v ≠ 0 ∧ wfFrom (some k) r = true := by
  cases lo <;> simp [wfFrom, and_assoc]

theorem wfFrom_mono {lo lo' : Option Nat} {m : Sparse w} (h : wfFrom lo m = true)
    (hl : ∀ l, lo' = some l → ∃ k, lo = some k ∧ l ≤ k) : wfFrom lo' m = true := by
  cases m with
  | nil => rfl
  | cons x r =>
    obtain ⟨k, v⟩ := x
    rw [wfFrom_cons] at h ⊢
    refine ⟨fun l e => ?_, h.2⟩
    obtain ⟨j, e', hle⟩ := hl l e
    exact Nat.lt_of_le_of_lt hle (h.1 j e')

theorem wfFrom_erase (a : Nat) {lo : Option Nat} {m : Sparse w} (h : wfFrom lo m = true) : wfFrom lo (erase a m) = true := by
  induction m generalizing lo with
  | nil => rfl
  | cons x r ih =>
    obtain ⟨k, v⟩ := x
    rw [wfFrom_cons] at h
    unfold erase
    split
    · exact ih (wfFrom_mono h.2.2 fun l e => ⟨k, rfl, Nat.le_of_lt (h.1 l e)⟩)
    · rw [wfFrom_cons]; exact ⟨h.1, h.2.1, ih h.2.2⟩

theorem wfFrom_put (a : Nat) (v : BitVec w) {lo : Option Nat} {m : Sparse w} (h : wfFrom (some a) m = true)
    (hl : ∀ l, lo = some l → l < a) : wfFrom lo (put a v m) = true := by
  unfold put
  split
  · exact wfFrom_mono h fun l e => ⟨a, rfl, Nat.le_of_lt (hl l e)⟩
  · rw [wfFrom_cons]; exact ⟨hl, ‹_›, h⟩

theorem wfFrom_insert (a : Nat) (v : BitVec w) {lo : Option Nat} {m : Sparse w} (h : wfFrom lo m = true)
    (hk : ∀ x ∈ m, x.1 ≠ a) (hl : ∀ l, lo = some l → l < a) : wfFrom lo (insert a v m) = true := by
  induction m generalizing lo with
  | nil => exact wfFrom_put a v rfl hl
  | cons x r ih =>
    obtain ⟨k, u⟩ := x
    have hh := h
    rw [wfFrom_cons] at hh
    unfold insert
    split
    · rename_i hak
      refine wfFrom_put a v ?_ hl
      rw [wfFrom_cons]
      exact ⟨fun l e => by cases e; exact hak, hh.2⟩
    · rename_i hak
      have : k ≠ a := hk _ (List.mem_cons_self ..)
      rw [wfFrom_cons]
      refine ⟨hh.1, hh.2.1, ih hh.2.2 (fun y hy => hk y (List.mem_cons_of_mem _ hy)) fun l e => ?_⟩
      cases e
      omega

/-- A write keeps the canonical form. -/
theorem wf_set {m : Sparse w} (h : wf m = true) (a : Nat) (v : BitVec w) : wf (set m a v) = true :=
  wfFrom_insert a v (wfFrom_erase a h) (erase_keys a m) fun l e => by cases e

@[simp] theorem wf_nil : wf ([] : Sparse w) = true := rfl

end Sparse

/-! ### Memory -/

@[simp] theorem Memory.read_write (m : Memory) (a : Nat) (v : BitVec 8) (b : Nat) :
    (m.write a v).read b = if b = a then v else m.read b := Sparse.get_set (w := 8) m a v b

theorem Memory.wf_write {m : Memory} (h : m.wf = true) (a : Nat) (v : BitVec 8) : (m.write a v).wf = true :=
  Sparse.wf_set (w := 8) h a v

/-- Bytes written from `a` up are read back there, and nothing else changes. -/
theorem Memory.read_writeBytes (m : Memory) (a : Nat) (bs : List (BitVec 8)) (b : Nat) :
    (m.writeBytes a bs).read b = if a ≤ b ∧ b < a + bs.length then (bs[b - a]?).getD 0 else m.read b := by
  induction bs generalizing m a with
  | nil =>
    have : ¬(a ≤ b ∧ b < a) := by omega
    simp [Memory.writeBytes, this]
  | cons x r ih =>
    simp only [Memory.writeBytes, ih, Memory.read_write, List.length_cons]
    by_cases hb : b = a
    · subst hb
      simp
    · by_cases h1 : a + 1 ≤ b
      · have e : b - a = (b - (a + 1)) + 1 := by omega
        by_cases h2 : b < a + 1 + r.length
        · have h3 : a ≤ b ∧ b < a + (r.length + 1) := by omega
          rw [if_pos ⟨h1, h2⟩, if_pos h3, e, List.getElem?_cons_succ]
        · have h3 : ¬(a ≤ b ∧ b < a + (r.length + 1)) := by omega
          rw [if_neg (fun h => h2 h.2), if_neg h3, if_neg hb]
      · have h2 : ¬(a ≤ b ∧ b < a + (r.length + 1)) := by omega
        rw [if_neg (fun h => h1 h.1), if_neg h2, if_neg hb]

theorem Memory.wf_writeBytes {m : Memory} (h : m.wf = true) (a : Nat) (bs : List (BitVec 8)) : (m.writeBytes a bs).wf = true := by
  induction bs generalizing m a with
  | nil => exact h
  | cons x r ih => exact ih (Memory.wf_write h a x) (a + 1)

/-- A number written as bytes is read back (R5). -/
theorem leNat_leBytes (n v : Nat) : leNat (leBytes n v) = v % 256 ^ n := by
  induction n generalizing v with
  | zero => simp [leBytes, leNat, Nat.mod_one]
  | succ n ih =>
    have h : (BitVec.ofNat 8 v).toNat = v % 256 := BitVec.toNat_ofNat v 8
    rw [leBytes, leNat, ih, h, Nat.pow_succ', Nat.mod_mul]

@[simp] theorem leBytes_length (n v : Nat) : (leBytes n v).length = n := by
  induction n generalizing v with
  | zero => rfl
  | succ n ih => simp [leBytes, ih]

end Sys2Proof.Machine
end

