-- ==== Sys2Proof/Laws/Memory.lean ====
section
/-! SUPPORT. The canonical form of the memories under the shared operations that write memory, and the accesses of several
threads. -/

namespace Sys2Proof.Machine

theorem memOk_of_eq {s t : State} (h : s.MemOk) (a : t.mem = s.mem) (b : t.hostMem = s.hostMem) (c : t.peerMem = s.peerMem) :
    t.MemOk := ⟨a ▸ h.1, b ▸ h.2.1, c ▸ h.2.2⟩

theorem memOk_devWrite {s : State} (h : s.MemOk) (a : Nat) (bs : List Byte) : (s.devWrite a bs).MemOk :=
  ⟨Memory.wf_writeBytes h.1 _ _, h.2⟩

theorem memOk_physWrite {s : State} (h : s.MemOk) (p : Phys) (bs : List Byte) : (s.physWrite p bs).MemOk := by
  unfold State.physWrite
  cases p.space with
  | dev => exact memOk_devWrite h _ _
  | host => exact ⟨h.1, Memory.wf_writeBytes h.2.1 _ _, h.2.2⟩
  | spire => exact ⟨h.1, h.2.1, Memory.wf_writeBytes h.2.2 _ _⟩

theorem memOk_modGroup {s : State} (h : s.MemOk) (id : Nat) (f : Group → Group) : (s.modGroup id f).MemOk := h

theorem memOk_modWave {s : State} (h : s.MemOk) (g x : Nat) (f : Wave → Wave) : (s.modWave g x f).MemOk := h

theorem memOk_writePlaces {s : State} (h : s.MemOk) (ps : List (Phys × Nat)) (bs : List Byte) : (s.writePlaces ps bs).MemOk := by
  induction ps generalizing s bs with
  | nil => exact h
  | cons p ps ih => exact ih (memOk_physWrite h _ _) _

theorem memOk_regWrite {s : State} (h : s.MemOk) (g x t r i : Nat) (bs : List Byte) : (s.regWrite g x t r i bs).MemOk := by
  induction bs generalizing s i with
  | nil => exact h
  | cons b bs ih => exact ih (s := s.regPut g x t (r + i / 4) (i % 4) b) h (i + 1)

theorem memOk_perform {s : State} (h : s.MemOk) (x : Held) : (s.perform x).MemOk := by
  unfold State.perform
  split
  · exact memOk_physWrite h _ _
  · exact memOk_modGroup h _ _
  · exact memOk_regWrite h _ _ _ _ _ _

theorem memOk_foldl {α : Type} (f : State → α → State) (hf : ∀ s x, s.MemOk → (f s x).MemOk) (xs : List α) {s : State} (h : s.MemOk) :
    (xs.foldl f s).MemOk := by
  induction xs generalizing s with
  | nil => exact h
  | cons x xs ih => exact ih (hf s x h)

theorem memOk_performNear {s : State} (h : s.MemOk) (pick : Near → Bool) : (s.performNear pick).MemOk :=
  memOk_foldl _ (fun _ x hs => memOk_perform hs x.store) _ (memOk_of_eq h rfl rfl rfl)

theorem memOk_spread {s : State} (h : s.MemOk) (g : Group) (x level : Nat) (y : Held) : (s.spread g x level y).MemOk := by
  unfold State.spread
  split
  · exact memOk_perform (memOk_performNear h _) _
  · exact memOk_of_eq h rfl rfl rfl

theorem memOk_release {s : State} (h : s.MemOk) (g x n : Nat) : (s.release g x n).MemOk := by
  simp only [State.release]
  generalize (if s.relaxed then n else 4) = level
  split
  · exact h
  · split
    · exact h
    · apply memOk_modWave
      apply memOk_foldl _ (fun _ y hs => memOk_spread hs _ _ _ y)
      exact memOk_performNear h _

theorem memOk_drain {s : State} (h : s.MemOk) (g x : Nat) : (s.drain g x).MemOk := memOk_release h g x 4

theorem memOk_giveLoad {s : State} (h : s.MemOk) (c : Ctx) (d : VDst) (n : Nat) (z : Bool) (t : Nat) (bs : List Byte) :
    (s.giveLoad c d n z t bs).MemOk := by
  unfold State.giveLoad
  split <;> exact memOk_modWave h _ _ _

theorem memOk_performLoad {s : State} (h : s.MemOk) (g x : Nat) (y : Load) : (s.performLoad g x y).MemOk := by
  unfold State.performLoad
  split
  · exact h
  · exact memOk_modWave (memOk_giveLoad h _ _ _ _ _ _) _ _ _

theorem memOk_performLoads {s : State} (h : s.MemOk) (g x : Nat) (pick : Load → Bool) : (s.performLoads g x pick).MemOk := by
  unfold State.performLoads
  split
  · exact h
  · exact memOk_foldl _ (fun _ y hs => memOk_performLoad hs g x y) _ h

theorem memOk_settleLoads {s : State} (h : s.MemOk) (r : PathRef) : (s.settleLoads r).MemOk := memOk_performLoads h _ _ _

theorem memOk_performEvery {s : State} (h : s.MemOk) : s.performEvery.MemOk :=
  memOk_foldl _ (fun _ x hs => memOk_drain hs _ _) _
    (memOk_performNear (memOk_foldl _ (fun _ x hs => memOk_performLoads hs _ _ _) _ h) _)

/-- A part of a memory in the canonical form is in it. -/
theorem wf_filter {m : Memory} (h : m.wf = true) (p : Nat × Byte → Bool) : Memory.wf (m.filter p) = true := by
  have key : ∀ (xs : Sparse 8) (lo lo' : Option Nat), (∀ a, lo = some a → ∃ b, lo' = some b ∧ a ≤ b) → Sparse.wfFrom lo' xs = true →
      Sparse.wfFrom lo (xs.filter p) = true := by
    intro xs
    induction xs with
    | nil => intro _ _ _ _; rfl
    | cons x xs ih =>
      intro lo lo' hlo hx
      obtain ⟨k, v⟩ := x
      rw [Sparse.wfFrom_cons] at hx
      have hlow : ∀ a, lo = some a → a < k := by
        intro a ha
        obtain ⟨b, rfl, hb⟩ := hlo a ha
        exact Nat.lt_of_le_of_lt hb (hx.1 b rfl)
      rw [List.filter_cons]
      split
      · rw [Sparse.wfFrom_cons]
        exact ⟨hlow, hx.2.1, ih (some k) (some k) (fun a ha => ⟨a, ha, Nat.le_refl _⟩) hx.2.2⟩
      · exact ih lo (some k) (fun a ha => ⟨k, rfl, Nat.le_of_lt (hlow a ha)⟩) hx.2.2
  exact key m none none (fun a ha => by cases ha) h

/-! ### Accesses of several threads (R160) -/

theorem failedThread_none (s : State) (c : Ctx) (t : Nat) (h : c.Together) : s.failedThread c t = none := by
  simp [State.failedThread, h.1]

theorem mustWait_false (s : State) (c : Ctx) (t : Nat) (h : c.Together) : s.mustWait c t = false := by
  simp [State.mustWait, h.1, h.2.2]

/-- Threads whose accesses all succeed, in states that keep `P`: the accesses follow one another, and no thread fails or waits. -/
theorem eachThread_ok (P : State → Prop) (c : Ctx) (hc : c.Together) (loc : Nat → Option Target) (f : State → Nat → Except AFault State)
    (g : State → Nat → State) (ts : List Nat) (h : ∀ s t, P s → t ∈ ts → f s t = .ok (g s t) ∧ P (g s t)) (s : State) (hs : P s) :
    s.eachThread c loc f ts [] = (ts.foldl g s, ⟨[], []⟩) := by
  induction ts generalizing s with
  | nil => rfl
  | cons t ts ih =>
    obtain ⟨e, hp⟩ := h s t hs (List.mem_cons_self ..)
    simp only [State.eachThread, mustWait_false s c t hc, State.tryThread, failedThread_none s c t hc, e, List.foldl_cons]
    exact ih (fun s u hs hu => h s u hs (List.mem_cons_of_mem _ hu)) _ hp

/-- Then the word completes. -/
theorem accessAll_ok (P : State → Prop) (c : Ctx) (hc : c.Together) (loc : Nat → Option Target) (f : State → Nat → Except AFault State)
    (g : State → Nat → State) (ts : List Nat) (h : ∀ s t, P s → t ∈ ts → f s t = .ok (g s t) ∧ P (g s t)) (s : State) (hs : P s) :
    s.accessAll c ts loc f = (ts.foldl g s).complete c ts := by
  simp [State.accessAll, eachThread_ok P c hc loc f g ts h s hs, hc.2.1]

/-- A word without a trap goes on. -/
@[simp] theorem unless_none (s : State) (c : Ctx) (k : State) : s.unless c none k = k := rfl
@[simp] theorem unless_some (s : State) (c : Ctx) (t : Trap) (k : State) : s.unless c (some t) k = s.takeTrap c t := rfl

end Sys2Proof.Machine
end

