-- ==== Sys2Proof/Laws/State.lean ====
section
/-! SUPPORT. The fields of the state after each update, and one object of the state after another one was changed. -/

namespace Sys2Proof.Machine

/-! ### `modGroup` -/

@[simp] theorem State.modGroup_tick (s : State) (id : Nat) (f : Group → Group) : (s.modGroup id f).tick = s.tick := rfl
@[simp] theorem State.modGroup_agenda (s : State) (id : Nat) (f : Group → Group) : (s.modGroup id f).agenda = s.agenda := rfl
@[simp] theorem State.modGroup_cur (s : State) (id : Nat) (f : Group → Group) : (s.modGroup id f).cur = s.cur := rfl
@[simp] theorem State.modGroup_relaxed (s : State) (id : Nat) (f : Group → Group) : (s.modGroup id f).relaxed = s.relaxed := rfl
@[simp] theorem State.modGroup_near (s : State) (id : Nat) (f : Group → Group) : (s.modGroup id f).near = s.near := rfl
@[simp] theorem State.modGroup_ns (s : State) (id : Nat) (f : Group → Group) : (s.modGroup id f).ns = s.ns := rfl
@[simp] theorem State.modGroup_mem (s : State) (id : Nat) (f : Group → Group) : (s.modGroup id f).mem = s.mem := rfl
@[simp] theorem State.modGroup_hostMem (s : State) (id : Nat) (f : Group → Group) : (s.modGroup id f).hostMem = s.hostMem := rfl
@[simp] theorem State.modGroup_peerMem (s : State) (id : Nat) (f : Group → Group) : (s.modGroup id f).peerMem = s.peerMem := rfl
@[simp] theorem State.modGroup_memBad (s : State) (id : Nat) (f : Group → Group) : (s.modGroup id f).memBad = s.memBad := rfl
@[simp] theorem State.modGroup_netBad (s : State) (id : Nat) (f : Group → Group) : (s.modGroup id f).netBad = s.netBad := rfl
@[simp] theorem State.modGroup_xroot (s : State) (id : Nat) (f : Group → Group) : (s.modGroup id f).xroot = s.xroot := rfl
@[simp] theorem State.modGroup_kept (s : State) (id : Nat) (f : Group → Group) : (s.modGroup id f).kept = s.kept := rfl
@[simp] theorem State.modGroup_dies (s : State) (id : Nat) (f : Group → Group) : (s.modGroup id f).dies = s.dies := rfl
@[simp] theorem State.modGroup_clusters (s : State) (id : Nat) (f : Group → Group) : (s.modGroup id f).clusters = s.clusters := rfl
@[simp] theorem State.modGroup_hru (s : State) (id : Nat) (f : Group → Group) : (s.modGroup id f).hru = s.hru := rfl
@[simp] theorem State.modGroup_launches (s : State) (id : Nat) (f : Group → Group) : (s.modGroup id f).launches = s.launches := rfl
@[simp] theorem State.modGroup_changes (s : State) (id : Nat) (f : Group → Group) : (s.modGroup id f).changes = s.changes := rfl
@[simp] theorem State.modGroup_blocks (s : State) (id : Nat) (f : Group → Group) : (s.modGroup id f).blocks = s.blocks := rfl
@[simp] theorem State.modGroup_served (s : State) (id : Nat) (f : Group → Group) : (s.modGroup id f).served = s.served := rfl
@[simp] theorem State.modGroup_bands (s : State) (id : Nat) (f : Group → Group) : (s.modGroup id f).bands = s.bands := rfl
@[simp] theorem State.modGroup_nextId (s : State) (id : Nat) (f : Group → Group) : (s.modGroup id f).nextId = s.nextId := rfl
@[simp] theorem State.modGroup_belfry (s : State) (id : Nat) (f : Group → Group) : (s.modGroup id f).belfry = s.belfry := rfl
@[simp] theorem State.modGroup_io (s : State) (id : Nat) (f : Group → Group) : (s.modGroup id f).io = s.io := rfl

/-! ### `modWave` -/

@[simp] theorem State.modWave_tick (s : State) (g x : Nat) (f : Wave → Wave) : (s.modWave g x f).tick = s.tick := rfl
@[simp] theorem State.modWave_agenda (s : State) (g x : Nat) (f : Wave → Wave) : (s.modWave g x f).agenda = s.agenda := rfl
@[simp] theorem State.modWave_cur (s : State) (g x : Nat) (f : Wave → Wave) : (s.modWave g x f).cur = s.cur := rfl
@[simp] theorem State.modWave_relaxed (s : State) (g x : Nat) (f : Wave → Wave) : (s.modWave g x f).relaxed = s.relaxed := rfl
@[simp] theorem State.modWave_near (s : State) (g x : Nat) (f : Wave → Wave) : (s.modWave g x f).near = s.near := rfl
@[simp] theorem State.modWave_ns (s : State) (g x : Nat) (f : Wave → Wave) : (s.modWave g x f).ns = s.ns := rfl
@[simp] theorem State.modWave_mem (s : State) (g x : Nat) (f : Wave → Wave) : (s.modWave g x f).mem = s.mem := rfl
@[simp] theorem State.modWave_hostMem (s : State) (g x : Nat) (f : Wave → Wave) : (s.modWave g x f).hostMem = s.hostMem := rfl
@[simp] theorem State.modWave_peerMem (s : State) (g x : Nat) (f : Wave → Wave) : (s.modWave g x f).peerMem = s.peerMem := rfl
@[simp] theorem State.modWave_memBad (s : State) (g x : Nat) (f : Wave → Wave) : (s.modWave g x f).memBad = s.memBad := rfl
@[simp] theorem State.modWave_netBad (s : State) (g x : Nat) (f : Wave → Wave) : (s.modWave g x f).netBad = s.netBad := rfl
@[simp] theorem State.modWave_xroot (s : State) (g x : Nat) (f : Wave → Wave) : (s.modWave g x f).xroot = s.xroot := rfl
@[simp] theorem State.modWave_kept (s : State) (g x : Nat) (f : Wave → Wave) : (s.modWave g x f).kept = s.kept := rfl
@[simp] theorem State.modWave_dies (s : State) (g x : Nat) (f : Wave → Wave) : (s.modWave g x f).dies = s.dies := rfl
@[simp] theorem State.modWave_clusters (s : State) (g x : Nat) (f : Wave → Wave) : (s.modWave g x f).clusters = s.clusters := rfl
@[simp] theorem State.modWave_hru (s : State) (g x : Nat) (f : Wave → Wave) : (s.modWave g x f).hru = s.hru := rfl
@[simp] theorem State.modWave_launches (s : State) (g x : Nat) (f : Wave → Wave) : (s.modWave g x f).launches = s.launches := rfl
@[simp] theorem State.modWave_changes (s : State) (g x : Nat) (f : Wave → Wave) : (s.modWave g x f).changes = s.changes := rfl
@[simp] theorem State.modWave_blocks (s : State) (g x : Nat) (f : Wave → Wave) : (s.modWave g x f).blocks = s.blocks := rfl
@[simp] theorem State.modWave_served (s : State) (g x : Nat) (f : Wave → Wave) : (s.modWave g x f).served = s.served := rfl
@[simp] theorem State.modWave_bands (s : State) (g x : Nat) (f : Wave → Wave) : (s.modWave g x f).bands = s.bands := rfl
@[simp] theorem State.modWave_nextId (s : State) (g x : Nat) (f : Wave → Wave) : (s.modWave g x f).nextId = s.nextId := rfl
@[simp] theorem State.modWave_belfry (s : State) (g x : Nat) (f : Wave → Wave) : (s.modWave g x f).belfry = s.belfry := rfl
@[simp] theorem State.modWave_io (s : State) (g x : Nat) (f : Wave → Wave) : (s.modWave g x f).io = s.io := rfl

/-! ### `modPath` -/

@[simp] theorem State.modPath_tick (s : State) (r : PathRef) (f : Path → Path) : (s.modPath r f).tick = s.tick := rfl
@[simp] theorem State.modPath_agenda (s : State) (r : PathRef) (f : Path → Path) : (s.modPath r f).agenda = s.agenda := rfl
@[simp] theorem State.modPath_cur (s : State) (r : PathRef) (f : Path → Path) : (s.modPath r f).cur = s.cur := rfl
@[simp] theorem State.modPath_relaxed (s : State) (r : PathRef) (f : Path → Path) : (s.modPath r f).relaxed = s.relaxed := rfl
@[simp] theorem State.modPath_near (s : State) (r : PathRef) (f : Path → Path) : (s.modPath r f).near = s.near := rfl
@[simp] theorem State.modPath_ns (s : State) (r : PathRef) (f : Path → Path) : (s.modPath r f).ns = s.ns := rfl
@[simp] theorem State.modPath_mem (s : State) (r : PathRef) (f : Path → Path) : (s.modPath r f).mem = s.mem := rfl
@[simp] theorem State.modPath_hostMem (s : State) (r : PathRef) (f : Path → Path) : (s.modPath r f).hostMem = s.hostMem := rfl
@[simp] theorem State.modPath_peerMem (s : State) (r : PathRef) (f : Path → Path) : (s.modPath r f).peerMem = s.peerMem := rfl
@[simp] theorem State.modPath_memBad (s : State) (r : PathRef) (f : Path → Path) : (s.modPath r f).memBad = s.memBad := rfl
@[simp] theorem State.modPath_netBad (s : State) (r : PathRef) (f : Path → Path) : (s.modPath r f).netBad = s.netBad := rfl
@[simp] theorem State.modPath_xroot (s : State) (r : PathRef) (f : Path → Path) : (s.modPath r f).xroot = s.xroot := rfl
@[simp] theorem State.modPath_kept (s : State) (r : PathRef) (f : Path → Path) : (s.modPath r f).kept = s.kept := rfl
@[simp] theorem State.modPath_dies (s : State) (r : PathRef) (f : Path → Path) : (s.modPath r f).dies = s.dies := rfl
@[simp] theorem State.modPath_clusters (s : State) (r : PathRef) (f : Path → Path) : (s.modPath r f).clusters = s.clusters := rfl
@[simp] theorem State.modPath_hru (s : State) (r : PathRef) (f : Path → Path) : (s.modPath r f).hru = s.hru := rfl
@[simp] theorem State.modPath_launches (s : State) (r : PathRef) (f : Path → Path) : (s.modPath r f).launches = s.launches := rfl
@[simp] theorem State.modPath_changes (s : State) (r : PathRef) (f : Path → Path) : (s.modPath r f).changes = s.changes := rfl
@[simp] theorem State.modPath_blocks (s : State) (r : PathRef) (f : Path → Path) : (s.modPath r f).blocks = s.blocks := rfl
@[simp] theorem State.modPath_served (s : State) (r : PathRef) (f : Path → Path) : (s.modPath r f).served = s.served := rfl
@[simp] theorem State.modPath_bands (s : State) (r : PathRef) (f : Path → Path) : (s.modPath r f).bands = s.bands := rfl
@[simp] theorem State.modPath_nextId (s : State) (r : PathRef) (f : Path → Path) : (s.modPath r f).nextId = s.nextId := rfl
@[simp] theorem State.modPath_belfry (s : State) (r : PathRef) (f : Path → Path) : (s.modPath r f).belfry = s.belfry := rfl
@[simp] theorem State.modPath_io (s : State) (r : PathRef) (f : Path → Path) : (s.modPath r f).io = s.io := rfl

/-! ### `modLaunch` -/

@[simp] theorem State.modLaunch_tick (s : State) (id : Nat) (f : Launch → Launch) : (s.modLaunch id f).tick = s.tick := rfl
@[simp] theorem State.modLaunch_agenda (s : State) (id : Nat) (f : Launch → Launch) : (s.modLaunch id f).agenda = s.agenda := rfl
@[simp] theorem State.modLaunch_cur (s : State) (id : Nat) (f : Launch → Launch) : (s.modLaunch id f).cur = s.cur := rfl
@[simp] theorem State.modLaunch_relaxed (s : State) (id : Nat) (f : Launch → Launch) : (s.modLaunch id f).relaxed = s.relaxed := rfl
@[simp] theorem State.modLaunch_near (s : State) (id : Nat) (f : Launch → Launch) : (s.modLaunch id f).near = s.near := rfl
@[simp] theorem State.modLaunch_ns (s : State) (id : Nat) (f : Launch → Launch) : (s.modLaunch id f).ns = s.ns := rfl
@[simp] theorem State.modLaunch_mem (s : State) (id : Nat) (f : Launch → Launch) : (s.modLaunch id f).mem = s.mem := rfl
@[simp] theorem State.modLaunch_hostMem (s : State) (id : Nat) (f : Launch → Launch) : (s.modLaunch id f).hostMem = s.hostMem := rfl
@[simp] theorem State.modLaunch_peerMem (s : State) (id : Nat) (f : Launch → Launch) : (s.modLaunch id f).peerMem = s.peerMem := rfl
@[simp] theorem State.modLaunch_memBad (s : State) (id : Nat) (f : Launch → Launch) : (s.modLaunch id f).memBad = s.memBad := rfl
@[simp] theorem State.modLaunch_netBad (s : State) (id : Nat) (f : Launch → Launch) : (s.modLaunch id f).netBad = s.netBad := rfl
@[simp] theorem State.modLaunch_xroot (s : State) (id : Nat) (f : Launch → Launch) : (s.modLaunch id f).xroot = s.xroot := rfl
@[simp] theorem State.modLaunch_kept (s : State) (id : Nat) (f : Launch → Launch) : (s.modLaunch id f).kept = s.kept := rfl
@[simp] theorem State.modLaunch_dies (s : State) (id : Nat) (f : Launch → Launch) : (s.modLaunch id f).dies = s.dies := rfl
@[simp] theorem State.modLaunch_clusters (s : State) (id : Nat) (f : Launch → Launch) : (s.modLaunch id f).clusters = s.clusters := rfl
@[simp] theorem State.modLaunch_hru (s : State) (id : Nat) (f : Launch → Launch) : (s.modLaunch id f).hru = s.hru := rfl
@[simp] theorem State.modLaunch_changes (s : State) (id : Nat) (f : Launch → Launch) : (s.modLaunch id f).changes = s.changes := rfl
@[simp] theorem State.modLaunch_blocks (s : State) (id : Nat) (f : Launch → Launch) : (s.modLaunch id f).blocks = s.blocks := rfl
@[simp] theorem State.modLaunch_served (s : State) (id : Nat) (f : Launch → Launch) : (s.modLaunch id f).served = s.served := rfl
@[simp] theorem State.modLaunch_groups (s : State) (id : Nat) (f : Launch → Launch) : (s.modLaunch id f).groups = s.groups := rfl
@[simp] theorem State.modLaunch_bands (s : State) (id : Nat) (f : Launch → Launch) : (s.modLaunch id f).bands = s.bands := rfl
@[simp] theorem State.modLaunch_nextId (s : State) (id : Nat) (f : Launch → Launch) : (s.modLaunch id f).nextId = s.nextId := rfl
@[simp] theorem State.modLaunch_belfry (s : State) (id : Nat) (f : Launch → Launch) : (s.modLaunch id f).belfry = s.belfry := rfl
@[simp] theorem State.modLaunch_io (s : State) (id : Nat) (f : Launch → Launch) : (s.modLaunch id f).io = s.io := rfl

/-! ### `modDie` -/

@[simp] theorem State.modDie_tick (s : State) (d : Nat) (f : Die → Die) : (s.modDie d f).tick = s.tick := rfl
@[simp] theorem State.modDie_agenda (s : State) (d : Nat) (f : Die → Die) : (s.modDie d f).agenda = s.agenda := rfl
@[simp] theorem State.modDie_cur (s : State) (d : Nat) (f : Die → Die) : (s.modDie d f).cur = s.cur := rfl
@[simp] theorem State.modDie_relaxed (s : State) (d : Nat) (f : Die → Die) : (s.modDie d f).relaxed = s.relaxed := rfl
@[simp] theorem State.modDie_near (s : State) (d : Nat) (f : Die → Die) : (s.modDie d f).near = s.near := rfl
@[simp] theorem State.modDie_ns (s : State) (d : Nat) (f : Die → Die) : (s.modDie d f).ns = s.ns := rfl
@[simp] theorem State.modDie_mem (s : State) (d : Nat) (f : Die → Die) : (s.modDie d f).mem = s.mem := rfl
@[simp] theorem State.modDie_hostMem (s : State) (d : Nat) (f : Die → Die) : (s.modDie d f).hostMem = s.hostMem := rfl
@[simp] theorem State.modDie_peerMem (s : State) (d : Nat) (f : Die → Die) : (s.modDie d f).peerMem = s.peerMem := rfl
@[simp] theorem State.modDie_memBad (s : State) (d : Nat) (f : Die → Die) : (s.modDie d f).memBad = s.memBad := rfl
@[simp] theorem State.modDie_netBad (s : State) (d : Nat) (f : Die → Die) : (s.modDie d f).netBad = s.netBad := rfl
@[simp] theorem State.modDie_xroot (s : State) (d : Nat) (f : Die → Die) : (s.modDie d f).xroot = s.xroot := rfl
@[simp] theorem State.modDie_kept (s : State) (d : Nat) (f : Die → Die) : (s.modDie d f).kept = s.kept := rfl
@[simp] theorem State.modDie_clusters (s : State) (d : Nat) (f : Die → Die) : (s.modDie d f).clusters = s.clusters := rfl
@[simp] theorem State.modDie_hru (s : State) (d : Nat) (f : Die → Die) : (s.modDie d f).hru = s.hru := rfl
@[simp] theorem State.modDie_launches (s : State) (d : Nat) (f : Die → Die) : (s.modDie d f).launches = s.launches := rfl
@[simp] theorem State.modDie_changes (s : State) (d : Nat) (f : Die → Die) : (s.modDie d f).changes = s.changes := rfl
@[simp] theorem State.modDie_blocks (s : State) (d : Nat) (f : Die → Die) : (s.modDie d f).blocks = s.blocks := rfl
@[simp] theorem State.modDie_served (s : State) (d : Nat) (f : Die → Die) : (s.modDie d f).served = s.served := rfl
@[simp] theorem State.modDie_groups (s : State) (d : Nat) (f : Die → Die) : (s.modDie d f).groups = s.groups := rfl
@[simp] theorem State.modDie_bands (s : State) (d : Nat) (f : Die → Die) : (s.modDie d f).bands = s.bands := rfl
@[simp] theorem State.modDie_nextId (s : State) (d : Nat) (f : Die → Die) : (s.modDie d f).nextId = s.nextId := rfl
@[simp] theorem State.modDie_belfry (s : State) (d : Nat) (f : Die → Die) : (s.modDie d f).belfry = s.belfry := rfl
@[simp] theorem State.modDie_io (s : State) (d : Nat) (f : Die → Die) : (s.modDie d f).io = s.io := rfl

/-! ### `modCluster` -/

@[simp] theorem State.modCluster_tick (s : State) (c : Nat) (f : Cluster → Cluster) : (s.modCluster c f).tick = s.tick := rfl
@[simp] theorem State.modCluster_agenda (s : State) (c : Nat) (f : Cluster → Cluster) : (s.modCluster c f).agenda = s.agenda := rfl
@[simp] theorem State.modCluster_cur (s : State) (c : Nat) (f : Cluster → Cluster) : (s.modCluster c f).cur = s.cur := rfl
@[simp] theorem State.modCluster_relaxed (s : State) (c : Nat) (f : Cluster → Cluster) : (s.modCluster c f).relaxed = s.relaxed := rfl
@[simp] theorem State.modCluster_near (s : State) (c : Nat) (f : Cluster → Cluster) : (s.modCluster c f).near = s.near := rfl
@[simp] theorem State.modCluster_ns (s : State) (c : Nat) (f : Cluster → Cluster) : (s.modCluster c f).ns = s.ns := rfl
@[simp] theorem State.modCluster_mem (s : State) (c : Nat) (f : Cluster → Cluster) : (s.modCluster c f).mem = s.mem := rfl
@[simp] theorem State.modCluster_hostMem (s : State) (c : Nat) (f : Cluster → Cluster) : (s.modCluster c f).hostMem = s.hostMem := rfl
@[simp] theorem State.modCluster_peerMem (s : State) (c : Nat) (f : Cluster → Cluster) : (s.modCluster c f).peerMem = s.peerMem := rfl
@[simp] theorem State.modCluster_memBad (s : State) (c : Nat) (f : Cluster → Cluster) : (s.modCluster c f).memBad = s.memBad := rfl
@[simp] theorem State.modCluster_netBad (s : State) (c : Nat) (f : Cluster → Cluster) : (s.modCluster c f).netBad = s.netBad := rfl
@[simp] theorem State.modCluster_xroot (s : State) (c : Nat) (f : Cluster → Cluster) : (s.modCluster c f).xroot = s.xroot := rfl
@[simp] theorem State.modCluster_kept (s : State) (c : Nat) (f : Cluster → Cluster) : (s.modCluster c f).kept = s.kept := rfl
@[simp] theorem State.modCluster_dies (s : State) (c : Nat) (f : Cluster → Cluster) : (s.modCluster c f).dies = s.dies := rfl
@[simp] theorem State.modCluster_hru (s : State) (c : Nat) (f : Cluster → Cluster) : (s.modCluster c f).hru = s.hru := rfl
@[simp] theorem State.modCluster_launches (s : State) (c : Nat) (f : Cluster → Cluster) : (s.modCluster c f).launches = s.launches := rfl
@[simp] theorem State.modCluster_changes (s : State) (c : Nat) (f : Cluster → Cluster) : (s.modCluster c f).changes = s.changes := rfl
@[simp] theorem State.modCluster_blocks (s : State) (c : Nat) (f : Cluster → Cluster) : (s.modCluster c f).blocks = s.blocks := rfl
@[simp] theorem State.modCluster_served (s : State) (c : Nat) (f : Cluster → Cluster) : (s.modCluster c f).served = s.served := rfl
@[simp] theorem State.modCluster_groups (s : State) (c : Nat) (f : Cluster → Cluster) : (s.modCluster c f).groups = s.groups := rfl
@[simp] theorem State.modCluster_bands (s : State) (c : Nat) (f : Cluster → Cluster) : (s.modCluster c f).bands = s.bands := rfl
@[simp] theorem State.modCluster_nextId (s : State) (c : Nat) (f : Cluster → Cluster) : (s.modCluster c f).nextId = s.nextId := rfl
@[simp] theorem State.modCluster_belfry (s : State) (c : Nat) (f : Cluster → Cluster) : (s.modCluster c f).belfry = s.belfry := rfl
@[simp] theorem State.modCluster_io (s : State) (c : Nat) (f : Cluster → Cluster) : (s.modCluster c f).io = s.io := rfl

/-! ### `modIo` -/

@[simp] theorem State.modIo_tick (s : State) (f : Io → Io) : (s.modIo f).tick = s.tick := rfl
@[simp] theorem State.modIo_agenda (s : State) (f : Io → Io) : (s.modIo f).agenda = s.agenda := rfl
@[simp] theorem State.modIo_cur (s : State) (f : Io → Io) : (s.modIo f).cur = s.cur := rfl
@[simp] theorem State.modIo_relaxed (s : State) (f : Io → Io) : (s.modIo f).relaxed = s.relaxed := rfl
@[simp] theorem State.modIo_near (s : State) (f : Io → Io) : (s.modIo f).near = s.near := rfl
@[simp] theorem State.modIo_ns (s : State) (f : Io → Io) : (s.modIo f).ns = s.ns := rfl
@[simp] theorem State.modIo_mem (s : State) (f : Io → Io) : (s.modIo f).mem = s.mem := rfl
@[simp] theorem State.modIo_hostMem (s : State) (f : Io → Io) : (s.modIo f).hostMem = s.hostMem := rfl
@[simp] theorem State.modIo_peerMem (s : State) (f : Io → Io) : (s.modIo f).peerMem = s.peerMem := rfl
@[simp] theorem State.modIo_memBad (s : State) (f : Io → Io) : (s.modIo f).memBad = s.memBad := rfl
@[simp] theorem State.modIo_netBad (s : State) (f : Io → Io) : (s.modIo f).netBad = s.netBad := rfl
@[simp] theorem State.modIo_xroot (s : State) (f : Io → Io) : (s.modIo f).xroot = s.xroot := rfl
@[simp] theorem State.modIo_kept (s : State) (f : Io → Io) : (s.modIo f).kept = s.kept := rfl
@[simp] theorem State.modIo_dies (s : State) (f : Io → Io) : (s.modIo f).dies = s.dies := rfl
@[simp] theorem State.modIo_clusters (s : State) (f : Io → Io) : (s.modIo f).clusters = s.clusters := rfl
@[simp] theorem State.modIo_hru (s : State) (f : Io → Io) : (s.modIo f).hru = s.hru := rfl
@[simp] theorem State.modIo_launches (s : State) (f : Io → Io) : (s.modIo f).launches = s.launches := rfl
@[simp] theorem State.modIo_changes (s : State) (f : Io → Io) : (s.modIo f).changes = s.changes := rfl
@[simp] theorem State.modIo_blocks (s : State) (f : Io → Io) : (s.modIo f).blocks = s.blocks := rfl
@[simp] theorem State.modIo_served (s : State) (f : Io → Io) : (s.modIo f).served = s.served := rfl
@[simp] theorem State.modIo_groups (s : State) (f : Io → Io) : (s.modIo f).groups = s.groups := rfl
@[simp] theorem State.modIo_bands (s : State) (f : Io → Io) : (s.modIo f).bands = s.bands := rfl
@[simp] theorem State.modIo_nextId (s : State) (f : Io → Io) : (s.modIo f).nextId = s.nextId := rfl
@[simp] theorem State.modIo_belfry (s : State) (f : Io → Io) : (s.modIo f).belfry = s.belfry := rfl

/-! ### `modBelfry` -/

@[simp] theorem State.modBelfry_tick (s : State) (f : Belfry → Belfry) : (s.modBelfry f).tick = s.tick := rfl
@[simp] theorem State.modBelfry_agenda (s : State) (f : Belfry → Belfry) : (s.modBelfry f).agenda = s.agenda := rfl
@[simp] theorem State.modBelfry_cur (s : State) (f : Belfry → Belfry) : (s.modBelfry f).cur = s.cur := rfl
@[simp] theorem State.modBelfry_relaxed (s : State) (f : Belfry → Belfry) : (s.modBelfry f).relaxed = s.relaxed := rfl
@[simp] theorem State.modBelfry_near (s : State) (f : Belfry → Belfry) : (s.modBelfry f).near = s.near := rfl
@[simp] theorem State.modBelfry_ns (s : State) (f : Belfry → Belfry) : (s.modBelfry f).ns = s.ns := rfl
@[simp] theorem State.modBelfry_mem (s : State) (f : Belfry → Belfry) : (s.modBelfry f).mem = s.mem := rfl
@[simp] theorem State.modBelfry_hostMem (s : State) (f : Belfry → Belfry) : (s.modBelfry f).hostMem = s.hostMem := rfl
@[simp] theorem State.modBelfry_peerMem (s : State) (f : Belfry → Belfry) : (s.modBelfry f).peerMem = s.peerMem := rfl
@[simp] theorem State.modBelfry_memBad (s : State) (f : Belfry → Belfry) : (s.modBelfry f).memBad = s.memBad := rfl
@[simp] theorem State.modBelfry_netBad (s : State) (f : Belfry → Belfry) : (s.modBelfry f).netBad = s.netBad := rfl
@[simp] theorem State.modBelfry_xroot (s : State) (f : Belfry → Belfry) : (s.modBelfry f).xroot = s.xroot := rfl
@[simp] theorem State.modBelfry_kept (s : State) (f : Belfry → Belfry) : (s.modBelfry f).kept = s.kept := rfl
@[simp] theorem State.modBelfry_dies (s : State) (f : Belfry → Belfry) : (s.modBelfry f).dies = s.dies := rfl
@[simp] theorem State.modBelfry_clusters (s : State) (f : Belfry → Belfry) : (s.modBelfry f).clusters = s.clusters := rfl
@[simp] theorem State.modBelfry_hru (s : State) (f : Belfry → Belfry) : (s.modBelfry f).hru = s.hru := rfl
@[simp] theorem State.modBelfry_launches (s : State) (f : Belfry → Belfry) : (s.modBelfry f).launches = s.launches := rfl
@[simp] theorem State.modBelfry_changes (s : State) (f : Belfry → Belfry) : (s.modBelfry f).changes = s.changes := rfl
@[simp] theorem State.modBelfry_blocks (s : State) (f : Belfry → Belfry) : (s.modBelfry f).blocks = s.blocks := rfl
@[simp] theorem State.modBelfry_served (s : State) (f : Belfry → Belfry) : (s.modBelfry f).served = s.served := rfl
@[simp] theorem State.modBelfry_groups (s : State) (f : Belfry → Belfry) : (s.modBelfry f).groups = s.groups := rfl
@[simp] theorem State.modBelfry_bands (s : State) (f : Belfry → Belfry) : (s.modBelfry f).bands = s.bands := rfl
@[simp] theorem State.modBelfry_nextId (s : State) (f : Belfry → Belfry) : (s.modBelfry f).nextId = s.nextId := rfl
@[simp] theorem State.modBelfry_io (s : State) (f : Belfry → Belfry) : (s.modBelfry f).io = s.io := rfl

@[simp] theorem State.modDie_own (s : State) (d : Nat) (f : Die → Die) : (s.modDie d f).dies = modAt f d s.dies := rfl
@[simp] theorem State.modCluster_own (s : State) (c : Nat) (f : Cluster → Cluster) :
    (s.modCluster c f).clusters = modAt f c s.clusters := rfl
@[simp] theorem State.modIo_own (s : State) (f : Io → Io) : (s.modIo f).io = f s.io := rfl
@[simp] theorem State.modBelfry_own (s : State) (f : Belfry → Belfry) : (s.modBelfry f).belfry = f s.belfry := rfl

/-! ### Lists -/

@[simp] theorem modAt_length (f : α → α) (n : Nat) (xs : List α) : (modAt f n xs).length = xs.length := by
  induction xs generalizing n with
  | nil => cases n <;> rfl
  | cons x r ih => cases n <;> simp [modAt, ih]

theorem modAt_getD (f : α → α) (n : Nat) (xs : List α) (k : Nat) (d : α) :
    (modAt f n xs).getD k d = if k = n ∧ n < xs.length then f (xs.getD n d) else xs.getD k d := by
  induction xs generalizing n k with
  | nil => simp [modAt]
  | cons x r ih =>
    cases n with
    | zero => cases k <;> simp [modAt]
    | succ n => cases k with
      | zero => simp [modAt]
      | succ k => simpa [modAt] using ih n k

/-- The word replaced is read back, and no other one changes. -/
@[simp] theorem putAt_getD (v : BitVec n) (k : Nat) (xs : List (BitVec n)) (j : Nat) :
    (putAt v k xs).getD j 0 = if j = k then v else xs.getD j 0 := by
  induction k generalizing xs j with
  | zero =>
    cases xs with
    | nil => cases j <;> simp [putAt]
    | cons x r => cases j <;> simp [putAt]
  | succ k ih =>
    cases xs with
    | nil =>
      cases j with
      | zero => simp [putAt]
      | succ j => simpa [putAt] using ih [] j
    | cons x r =>
      cases j with
      | zero => simp [putAt]
      | succ j => simpa [putAt] using ih r j

/-- The first of several objects with a name, after those with a name are changed. -/
theorem find_map {α : Type} (n : α → Nat) (id k : Nat) (f : α → α) (hf : ∀ x, n (f x) = n x) (xs : List α) :
    (xs.map fun x => if n x = id then f x else x).find? (fun x => n x == k)
      = (xs.find? fun x => n x == k).map fun x => if k = id then f x else x := by
  induction xs with
  | nil => rfl
  | cons x r ih =>
    by_cases hk : n x = k
    · by_cases hi : n x = id
      · have e : k = id := hk.symm.trans hi
        simp [List.find?, hi, hf, e]
      · have e : k ≠ id := fun e => hi (hk.trans e)
        simp [List.find?, hk, e, hi]
    · by_cases hi : n x = id
      · have e : ¬(id = k) := fun e => hk (hi.trans e)
        simp only [List.map_cons, List.find?_cons]
        rw [if_pos hi, hf, show (n x == k) = false by simpa using hk]
        simpa using ih
      · simp only [List.map_cons, List.find?_cons]
        rw [if_neg hi, show (n x == k) = false by simpa using hk]
        simpa using ih

/-! ### One group, wave, path or launch -/

theorem State.group?_modGroup (s : State) (id k : Nat) (f : Group → Group) (hf : ∀ g, (f g).id = g.id) :
    (s.modGroup id f).group? k = (s.group? k).map fun g => if k = id then f g else g :=
  find_map (fun g : Group => g.id) id k f hf s.groups

theorem Group.wave?_modWave (g : Group) (x k : Nat) (f : Wave → Wave) (hf : ∀ w, (f w).wix = w.wix) :
    (g.modWave x f).wave? k = (g.wave? k).map fun w => if k = x then f w else w :=
  find_map (fun w : Wave => w.wix) x k f hf g.waves

@[simp] theorem Group.modWave_id (g : Group) (x : Nat) (f : Wave → Wave) : (g.modWave x f).id = g.id := rfl

@[simp] theorem State.launch?_modGroup (s : State) (id k : Nat) (f : Group → Group) :
    (s.modGroup id f).launch? k = s.launch? k := rfl

@[simp] theorem State.launch?_modWave (s : State) (g x k : Nat) (f : Wave → Wave) : (s.modWave g x f).launch? k = s.launch? k :=
  rfl

@[simp] theorem State.launch?_modPath (s : State) (r : PathRef) (k : Nat) (f : Path → Path) :
    (s.modPath r f).launch? k = s.launch? k := rfl

theorem State.launch?_modLaunch (s : State) (id k : Nat) (f : Launch → Launch) (hf : ∀ l, (f l).id = l.id) :
    (s.modLaunch id f).launch? k = (s.launch? k).map fun l => if k = id then f l else l :=
  find_map (fun l : Launch => l.id) id k f hf s.launches

theorem State.group?_modWave (s : State) (g x k : Nat) (f : Wave → Wave) :
    (s.modWave g x f).group? k = (s.group? k).map fun y => if k = g then y.modWave x f else y :=
  s.group?_modGroup g k _ fun _ => rfl

theorem State.wave?_modWave (s : State) (g x g' x' : Nat) (f : Wave → Wave) (hf : ∀ w, (f w).wix = w.wix) :
    (s.modWave g x f).wave? g' x' = (s.wave? g' x').map fun w => if g' = g ∧ x' = x then f w else w := by
  unfold State.wave?
  rw [State.group?_modWave]
  cases s.group? g' with
  | none => rfl
  | some y =>
    by_cases hg : g' = g
    · simp [hg, Group.wave?_modWave _ _ _ _ hf]
    · simp [hg]

@[simp] theorem Wave.setPath_wix (w : Wave) (slot : Bool) (p : Option Path) : (w.setPath slot p).wix = w.wix := by
  cases slot <;> rfl
@[simp] theorem Wave.modPath_wix (w : Wave) (slot : Bool) (f : Path → Path) : (w.modPath slot f).wix = w.wix := by
  cases slot <;> rfl

@[simp] theorem Wave.path?_setPath (w : Wave) (slot k : Bool) (p : Option Path) :
    (w.setPath slot p).path? k = if k = slot then p else w.path? k := by
  cases slot <;> cases k <;> rfl

@[simp] theorem Wave.path?_modPath (w : Wave) (slot k : Bool) (f : Path → Path) :
    (w.modPath slot f).path? k = if k = slot then (w.path? k).map f else w.path? k := by
  cases slot <;> cases k <;> rfl

/-! ### The context of a path -/

/-- The context of a path is what its reference names. -/
theorem State.ctxAt_eq {s : State} {r : PathRef} {c : Ctx} (h : s.ctxAt r = some c) :
    c.ref = r ∧ s.group? r.group = some c.group ∧ c.group.wave? r.wix = some c.wave ∧ c.wave.path? r.slot = some c.path
      ∧ s.launch? c.group.launch = some c.launch := by
  unfold State.ctxAt at h
  cases hg : s.group? r.group with
  | none => simp [hg] at h
  | some g =>
    cases hw : g.wave? r.wix with
    | none => simp [hg, hw] at h
    | some w =>
      cases hp : w.path? r.slot with
      | none => simp [hg, hw, hp] at h
      | some p =>
        cases hl : s.launch? g.launch with
        | none => simp [hg, hw, hp, hl] at h
        | some l =>
          simp [hg, hw, hp, hl] at h
          subst h
          simp [hw, hp, hl]

theorem State.ctxAt_mk {s : State} {r : PathRef} {g : Group} {w : Wave} {p : Path} {l : Launch}
    (hg : s.group? r.group = some g) (hw : g.wave? r.wix = some w) (hp : w.path? r.slot = some p)
    (hl : s.launch? g.launch = some l) : s.ctxAt r = some ⟨r, g, w, p, l⟩ := by
  simp [State.ctxAt, hg, hw, hp, hl]

/-- The context of the issuing path. -/
theorem State.ctx_eq {s : State} {c : Ctx} (h : s.ctx = some c) : s.cur = some c.ref ∧ s.ctxAt c.ref = some c := by
  unfold State.ctx at h
  cases hc : s.cur with
  | none => simp [hc] at h
  | some r =>
    rw [hc] at h
    have h' : s.ctxAt r = some c := h
    have := (State.ctxAt_eq h').1
    exact ⟨by rw [this], by rw [this]; exact h'⟩

/-- The context of a path after a change of its wave that keeps the path where it is. -/
theorem State.ctxAt_modWave {s : State} {c : Ctx} (h : s.ctxAt c.ref = some c) (f : Wave → Wave) {q : Path}
    (hf : ∀ w, (f w).wix = w.wix) (hq : (f c.wave).path? c.ref.slot = some q) :
    (s.modWave c.ref.group c.ref.wix f).ctxAt c.ref
      = some ⟨c.ref, c.group.modWave c.ref.wix f, f c.wave, q, c.launch⟩ := by
  obtain ⟨-, hg, hw, hp, hl⟩ := State.ctxAt_eq h
  refine State.ctxAt_mk ?_ ?_ hq ?_
  · rw [State.group?_modWave, hg]; simp
  · rw [Group.wave?_modWave _ _ _ _ hf, hw]; simp
  · exact hl

/-! ### Threads -/

theorem ixs_mem (m : Mask) (t : Nat) : t ∈ ixs m ↔ t < 32 ∧ m.getLsbD t = true := by simp [ixs]
theorem ixs_nodup (m : Mask) : (ixs m).Nodup := List.Nodup.filter _ (List.nodup_range)

theorem Ctx.perf_nodup (c : Ctx) : c.perf.Nodup := List.Nodup.filter _ (ixs_nodup _)
theorem Ctx.perf_lt (c : Ctx) {t : Nat} (h : t ∈ c.perf) : t < 32 := by
  simp only [Ctx.perf, List.mem_filter, ixs_mem] at h
  exact h.1.1

end Sys2Proof.Machine
end

