-- ==== Sys2Proof/Laws/Words.lean ====
section
/-! SUPPORT. What the shared operations that complete a word do, once for each: registers and latches read after they are
written, and all that a completed word leaves alone. -/

set_option linter.unusedSimpArgs false

namespace Sys2Proof.Machine

/-! ### One wave changed -/

theorem State.modWave_modWave (s : State) (g x : Nat) (f h : Wave → Wave) (hf : ∀ w, (f w).wix = w.wix) :
    (s.modWave g x f).modWave g x h = s.modWave g x fun w => h (f w) := by
  simp only [State.modWave, State.modGroup, List.map_map]
  congr 1
  apply List.map_congr_left
  intro y _
  by_cases hy : y.id = g
  · simp only [Function.comp, if_pos hy, Group.modWave, List.map_map]
    congr 1
    apply List.map_congr_left
    intro w _
    by_cases hw : w.wix = x <;> simp [hw, hf]
  · simp [hy]

theorem onlyWave_modWave (s : State) (r : PathRef) (f : Wave → Wave) (hf : ∀ w, (f w).wix = w.wix) :
    OnlyWave r s (s.modWave r.group r.wix f) where
  rest := rfl
  shells := by
    simp only [State.shells, State.modWave, State.modGroup, List.map_map]
    apply List.map_congr_left
    intro g _
    by_cases h : g.id = r.group <;> simp [h, Group.modWave]
  waves g x h := by
    rw [State.wave?_modWave _ _ _ _ _ _ hf]
    have : ¬(g = r.group ∧ x = r.wix) := fun e => h (by rw [e.1, e.2])
    simp [this]

/-! ### Counting -/

theorem countThreads_get (m : Sparse 64) (ts : List Nat) (h : ts.Nodup) (j : Nat) :
    (countThreads m ts).get j = if j ∈ ts then m.get j + 1 else m.get j := by
  induction ts generalizing m with
  | nil => simp [countThreads]
  | cons t r ih =>
    have hn := List.nodup_cons.1 h
    rw [countThreads, ih _ hn.2, Sparse.get_set]
    by_cases hj : j = t
    · subst hj; simp [hn.1]
    · simp [hj]

/-! ### Registers written -/

/-- A wave with other registers `w` and `o`, another bank, and no more uncorrectable units than before. -/
def Wave.withV (w : Wave) (rw ro : Sparse 32) (bank : List Word) (bad : List (Nat × Nat × Nat)) : Wave :=
  { w with w := rw, o := ro, bankW := bank, bad := bad }

theorem Wave.putV_with (w : Wave) (priv : Bool) (d : VDst) (t : Nat) (v : Word) :
    ∃ a b k e, w.putV priv d t v = w.withV a b k e ∧ ∀ u ∈ e, u ∈ w.bad := by
  cases d with
  | w i =>
    cases priv with
    | true =>
      by_cases h : i.val < 16
      · exact ⟨_, _, _, _, by simp only [Wave.putV, Wave.putW, h, if_true]; rfl, fun u h => h⟩
      · exact ⟨_, _, _, _, by simp only [Wave.putV, Wave.putW, h, if_true, if_false]; rfl, fun u h => h⟩
    | false =>
      exact ⟨_, _, _, _, by simp only [Wave.putV, Wave.putW, Bool.false_eq_true, if_false]; rfl, fun u h => List.mem_of_mem_filter h⟩
  | o i => exact ⟨_, _, _, _, rfl, fun u h => List.mem_of_mem_filter h⟩
  | z => exact ⟨_, _, _, _, rfl, fun u h => h⟩

theorem Wave.putAll_with (w : Wave) (priv : Bool) (d : VDst) (vs : List (Nat × Word)) :
    ∃ a b k e, w.putAll priv d vs = w.withV a b k e ∧ ∀ u ∈ e, u ∈ w.bad := by
  induction vs generalizing w with
  | nil => exact ⟨_, _, _, _, rfl, fun u h => h⟩
  | cons x r ih =>
    obtain ⟨t, v⟩ := x
    obtain ⟨a, b, k, e, h, he⟩ := w.putV_with priv d t v
    obtain ⟨a', b', k', e', h', he'⟩ := ih (w.putV priv d t v)
    refine ⟨a', b', k', e', ?_, fun u hu => he u ?_⟩
    · rw [Wave.putAll, h', h]; rfl
    · have := he' u hu
      rw [h] at this
      exact this

/-- `wk` of thread `j` of a wave, at a level. -/
def Wave.readW (w : Wave) (priv : Bool) (k j : Nat) : Word :=
  if priv then (if k < 16 then w.bankW.getD (16 * j + k) 0 else 0) else w.w.get (w.wkey k j)

theorem Wave.phys_lt (w : Wave) (k j : Nat) : w.phys k j < 2048 := BitVec.isLt _

theorem Wave.phys_inj (w : Wave) {k k' j : Nat} (hk : k < 2048) (hk' : k' < 2048) (h : w.phys k j = w.phys k' j) : k = k' := by
  unfold Wave.phys at h
  have h1 := BitVec.eq_of_toNat_eq h
  have h2 := congrArg BitVec.toNat h1
  simp only [BitVec.toNat_setWidth, BitVec.toNat_sub, BitVec.toNat_add, BitVec.toNat_ofNat] at h2
  have a := (w.wb.get j).isLt
  have b := (w.sb.get j).isLt
  omega

theorem Wave.wkey_inj (w : Wave) {k k' j j' : Nat} (hk : k < 2048) (hk' : k' < 2048) :
    w.wkey k j = w.wkey k' j' ↔ k = k' ∧ j = j' := by
  constructor
  · intro h
    unfold Wave.wkey at h
    have a := w.phys_lt k j
    have b := w.phys_lt k' j'
    have hj : j = j' := by omega
    subst hj
    exact ⟨w.phys_inj (j := j) hk hk' (by omega), rfl⟩
  · rintro ⟨rfl, rfl⟩; rfl

theorem Wave.readW_putV (w : Wave) (priv : Bool) (d : VDst) (t : Nat) (v : Word) (k : Fin 96) (j : Nat) :
    (w.putV priv d t v).readW priv k j = if d = .w k ∧ j = t ∧ (priv = false ∨ k.val < 16) then v else w.readW priv k j := by
  cases d with
  | w i =>
    cases priv with
    | true =>
      by_cases hi : i.val < 16
      · by_cases hk : k.val < 16
        · simp only [Wave.putV, Wave.putW, hi, if_true, Wave.readW, hk, putAt_getD]
          have : (16 * j + k.val = 16 * t + i.val) ↔ (VDst.w i = .w k ∧ j = t ∧ (true = false ∨ True)) := by
            simp only [VDst.w.injEq, or_true, and_true, Fin.ext_iff]; omega
          simp only [this]
        · simp [Wave.putV, Wave.putW, hi, Wave.readW, hk]
      · by_cases hk : k.val < 16
        · have : VDst.w i ≠ .w k := by rintro h; injection h with h; subst h; exact hi hk
          simp [Wave.putV, Wave.putW, hi, this]
        · simp [Wave.putV, Wave.putW, hi, Wave.readW, hk]
    | false =>
      simp only [Wave.putV, Wave.putW, Wave.readW, Wave.mend, Bool.false_eq_true, if_false]
      change Sparse.get (Sparse.set _ _ _) (w.wkey k j) = _
      rw [Sparse.get_set]
      have : (w.wkey k j = w.wkey i t) ↔ (VDst.w i = .w k ∧ j = t ∧ (true = true ∨ k.val < 16)) := by
        rw [w.wkey_inj (by omega) (by omega)]
        simp only [VDst.w.injEq, true_or, and_true, Fin.ext_iff]
        exact ⟨fun h => ⟨h.1.symm, h.2⟩, fun h => ⟨h.1.symm, h.2⟩⟩
      simp only [this]
  | o i => cases priv <;> simp [Wave.putV, Wave.putO, Wave.readW, Wave.mend, Wave.wkey, Wave.phys]
  | z => simp [Wave.putV]

theorem Wave.readO_putV (w : Wave) (priv : Bool) (d : VDst) (t : Nat) (v : Word) (k : Fin 8) (j : Nat) :
    (w.putV priv d t v).o.get (8 * j + k) = if d = .o k ∧ j = t then v else w.o.get (8 * j + k) := by
  cases d with
  | w i =>
    cases priv with
    | true => by_cases h : i.val < 16 <;> simp [Wave.putV, Wave.putW, h]
    | false => simp [Wave.putV, Wave.putW, Wave.mend]
  | o i =>
    simp only [Wave.putV, Wave.putO, Wave.mend, Sparse.get_set]
    have : (8 * j + k.val = 8 * t + i.val) ↔ (VDst.o i = .o k ∧ j = t) := by
      simp only [VDst.o.injEq, Fin.ext_iff]; omega
    simp only [this]
  | z => simp [Wave.putV]

theorem Wave.readW_putAll (w : Wave) (priv : Bool) (d : VDst) (ts : List Nat) (hn : ts.Nodup) (f : Nat → Word) (k : Fin 96)
    (j : Nat) : (w.putAll priv d (ts.map fun t => (t, f t))).readW priv k j
      = if d = .w k ∧ j ∈ ts ∧ (priv = false ∨ k.val < 16) then f j else w.readW priv k j := by
  induction ts generalizing w with
  | nil => simp [Wave.putAll]
  | cons t r ih =>
    have h := List.nodup_cons.1 hn
    simp only [List.map_cons, Wave.putAll]
    rw [ih _ h.2, Wave.readW_putV]
    by_cases hj : j = t
    · subst hj; simp [h.1]
    · simp [hj]

theorem Wave.readO_putAll (w : Wave) (priv : Bool) (d : VDst) (ts : List Nat) (hn : ts.Nodup) (f : Nat → Word) (k : Fin 8)
    (j : Nat) : (w.putAll priv d (ts.map fun t => (t, f t))).o.get (8 * j + k)
      = if d = .o k ∧ j ∈ ts then f j else w.o.get (8 * j + k) := by
  induction ts generalizing w with
  | nil => simp [Wave.putAll]
  | cons t r ih =>
    have h := List.nodup_cons.1 hn
    simp only [List.map_cons, Wave.putAll]
    rw [ih _ h.2, Wave.readO_putV]
    by_cases hj : j = t
    · subst hj; simp [h.1]
    · simp [hj]

/-! ### Latches pushed -/

theorem Path.latch_push (p : Path) (t : Nat) (v : DWord) (i j : Nat) (hi : i < 4) :
    (p.push t v).latch.get (4 * j + i) = if j = t then (if i = 0 then v else p.latch.get (4 * j + (i - 1))) else p.latch.get (4 * j + i) := by
  simp only [Path.push, Sparse.get_set]
  by_cases hj : j = t
  · subst hj
    have : i = 0 ∨ i = 1 ∨ i = 2 ∨ i = 3 := by omega
    rcases this with rfl | rfl | rfl | rfl <;> simp
  · have h0 : 4 * j + i ≠ 4 * t := by omega
    have h1 : 4 * j + i ≠ 4 * t + 1 := by omega
    have h2 : 4 * j + i ≠ 4 * t + 2 := by omega
    have h3 : 4 * j + i ≠ 4 * t + 3 := by omega
    simp [hj, h0, h1, h2, h3]

theorem Path.fill_push (p : Path) (t : Nat) (v : DWord) (j : Nat) :
    (p.push t v).fill.get j = if j = t then (if p.fill.get j = 4 then 4 else p.fill.get j + 1) else p.fill.get j := by
  simp only [Path.push, Sparse.get_set]
  by_cases hj : j = t
  · subst hj; simp
  · simp [hj]

theorem Path.latch_pushAll (p : Path) (ts : List Nat) (hn : ts.Nodup) (f : Nat → DWord) (i j : Nat) (hi : i < 4) :
    (p.pushAll (ts.map fun t => (t, f t))).latch.get (4 * j + i)
      = if j ∈ ts then (if i = 0 then f j else p.latch.get (4 * j + (i - 1))) else p.latch.get (4 * j + i) := by
  induction ts generalizing p with
  | nil => simp [Path.pushAll]
  | cons t r ih =>
    have h := List.nodup_cons.1 hn
    simp only [List.map_cons, Path.pushAll]
    rw [ih _ h.2, Path.latch_push _ _ _ _ _ hi]
    by_cases hj : j = t
    · subst hj; simp [h.1]
    · simp only [hj, if_false, List.mem_cons, false_or]
      by_cases hi0 : i = 0
      · simp [hi0]
      · rw [Path.latch_push _ _ _ _ _ (by omega)]
        simp [hj, hi0]

theorem Path.fill_pushAll (p : Path) (ts : List Nat) (hn : ts.Nodup) (f : Nat → DWord) (j : Nat) :
    (p.pushAll (ts.map fun t => (t, f t))).fill.get j
      = if j ∈ ts then (if p.fill.get j = 4 then 4 else p.fill.get j + 1) else p.fill.get j := by
  induction ts generalizing p with
  | nil => simp [Path.pushAll]
  | cons t r ih =>
    have h := List.nodup_cons.1 hn
    simp only [List.map_cons, Path.pushAll]
    rw [ih _ h.2, Path.fill_push]
    by_cases hj : j = t
    · subst hj; simp [h.1]
    · simp [hj]

theorem Path.pushAll_with (p : Path) (vs : List (Nat × DWord)) :
    ∃ a b, p.pushAll vs = { p with latch := a, fill := b } := by
  induction vs generalizing p with
  | nil => exact ⟨_, _, rfl⟩
  | cons x r ih =>
    obtain ⟨a, b, h⟩ := ih (p.push x.1 x.2)
    exact ⟨a, b, by rw [Path.pushAll, h]; rfl⟩

/-! ### Completing a word -/

@[simp] theorem Path.onward_pc (p : Path) (a : DWord) : (p.onward a).pc = a := rfl
@[simp] theorem Path.onward_priv (p : Path) (a : DWord) : (p.onward a).priv = p.priv := rfl
@[simp] theorem Path.onward_s (p : Path) (a : DWord) : (p.onward a).s = p.s := rfl
@[simp] theorem Path.onward_badS (p : Path) (a : DWord) : (p.onward a).badS = p.badS := rfl
@[simp] theorem Path.onward_marks (p : Path) (a : DWord) : (p.onward a).marks = p.marks := rfl
@[simp] theorem Path.onward_fmt (p : Path) (a : DWord) : (p.onward a).fmt = p.fmt := rfl
@[simp] theorem Path.onward_latch (p : Path) (a : DWord) : (p.onward a).latch = p.latch := rfl
@[simp] theorem Path.onward_fill (p : Path) (a : DWord) : (p.onward a).fill = p.fill := rfl

/-- The wave of a word that is completed, as far as `complete` changes it. -/
def Ctx.stepOn (c : Ctx) (ts : List Nat) (w : Wave) : Wave :=
  (if c.path.priv then w else w.retire ts c.path.counted).modPath c.ref.slot fun p => p.onward (c.path.pc + 4)

theorem State.complete_eq (s : State) (c : Ctx) (ts : List Nat) :
    s.complete c ts = s.modWave c.ref.group c.ref.wix (c.stepOn ts) := rfl

theorem Ctx.stepOn_wix (c : Ctx) (ts : List Nat) (w : Wave) : (c.stepOn ts w).wix = w.wix := by
  unfold Ctx.stepOn
  rw [Wave.modPath_wix]
  split <;> rfl

/-- A unit in error after a word was in error before it, or is a latch that has moved up by one place (R62). -/
def BadBefore (old : List (Nat × Nat × Nat)) (u : Nat × Nat × Nat) : Prop :=
  u ∈ old ∨ ∃ k, u = (3, k + 1, u.2.2) ∧ (3, k, u.2.2) ∈ old

theorem badBefore_mendLatches (w : Wave) (ts : List Nat) : ∀ u ∈ (w.mendLatches ts).bad, BadBefore w.bad u := by
  intro u hu
  obtain ⟨v, hv, hvu⟩ := List.mem_filterMap.1 hu
  split at hvu
  · split at hvu
    · injection hvu with e
      subst e
      rename_i h3 _
      exact .inr ⟨v.2.1, rfl, by rw [← h3.1]; exact hv⟩
    · cases hvu
  · injection hvu with e
    subst e
    exact .inl hv

theorem BadBefore.mono {a b : List (Nat × Nat × Nat)} (h : ∀ u ∈ a, u ∈ b) {u : Nat × Nat × Nat} (hu : BadBefore a u) : BadBefore b u :=
  hu.elim (fun x => .inl (h u x)) fun ⟨k, e, x⟩ => .inr ⟨k, e, h _ x⟩

/-- A change of the wave's registers and of the latches and registers of its path, followed by completion. -/
theorem completed_of {s : State} {c : Ctx} (h : s.ctx = some c) (ts : List Nat) (hts : ts.Nodup) (f : Wave → Wave)
    (hf : ∀ w, (f w).wix = w.wix)
    (rw ro rp : Sparse 32) (bw bs : List Word) (bad : List (Nat × Nat × Nat)) (q : Path)
    (hw : f c.wave = ({ c.wave with w := rw, o := ro, p := rp, bankW := bw, bankS := bs, bad := bad }).setPath c.ref.slot (some q))
    (hb : ∀ u ∈ bad, BadBefore c.wave.bad u)
    (hq : { q with
      latch := c.path.latch, fill := c.path.fill, s := c.path.s, badS := c.path.badS, marks := c.path.marks, fmt := c.path.fmt } = c.path)
    (hg : ∀ k, q.badS.getLsbD k = true → c.path.badS.getLsbD k = true) :
    Completed c s ts ((s.modWave c.ref.group c.ref.wix f).complete c ts)
      ⟨c.ref, c.group.modWave c.ref.wix fun w => c.stepOn ts (f w), c.stepOn ts (f c.wave),
        q.onward (c.path.pc + 4), c.launch⟩ := by
  have hctx := (State.ctx_eq h).2
  have hslot : (f c.wave).path? c.ref.slot = some q := by rw [hw]; simp
  have hpr : ∀ w : Wave, (if c.path.priv then w else w.retire ts c.path.counted).path? c.ref.slot = w.path? c.ref.slot := by
    intro w; split <;> rfl
  rw [State.complete_eq, State.modWave_modWave _ _ _ _ _ hf]
  refine ⟨⟨?_, ?_, hg, ?_, ?_, ?_, ?_, ?_⟩, onlyWave_modWave _ _ _ fun w => (c.stepOn_wix ts _).trans (hf w)⟩
  · refine State.ctxAt_modWave hctx _ (fun w => (c.stepOn_wix ts _).trans (hf w)) ?_
    simp [Ctx.stepOn, hpr, hslot]
  · simp only [Path.next, Path.onward]
    rw [← hq]
  · have : ∀ w : Wave, (if c.path.priv then w else w.retire ts c.path.counted).path? (!c.ref.slot) = w.path? (!c.ref.slot) := by
      intro w; split <;> rfl
    simp [Ctx.stepOn, this, hw]
    cases hs : c.ref.slot <;> rfl
  · simp only [Ctx.stepOn, hw]
    cases c.path.priv <;> cases c.ref.slot <;> rfl
  · intro u hu
    apply hb
    simp only [Ctx.stepOn, hw] at hu
    cases hp : c.path.priv <;> cases hs : c.ref.slot <;> simpa [hp, hs, Wave.modPath, Wave.setPath, Wave.path?, Wave.retire] using hu
  · simp only [Ctx.stepOn, hw]
    cases c.path.priv <;> cases c.ref.slot <;> rfl
  · intro j
    simp only [Ctx.stepOn, hw]
    cases hp : c.path.priv
    · have := countThreads_get c.wave.done ts hts j
      cases c.ref.slot <;> simpa [hp, Wave.modPath, Wave.setPath, Wave.path?, Wave.retire] using this
    · cases c.ref.slot <;> simp [hp, Wave.modPath, Wave.setPath, Wave.path?]

theorem Ctx.wreg_eq (c : Ctx) (k j : Nat) : c.wreg k j = c.wave.readW c.path.priv k j := rfl

theorem Wave.setPath_readW (w : Wave) (slot : Bool) (p : Option Path) (priv : Bool) (k j : Nat) :
    (w.setPath slot p).readW priv k j = w.readW priv k j := by cases slot <;> rfl

theorem Ctx.stepOn_reads (c : Ctx) (ts : List Nat) (w : Wave) :
    (∀ priv k j, (c.stepOn ts w).readW priv k j = w.readW priv k j) ∧ (c.stepOn ts w).o = w.o ∧ (c.stepOn ts w).p = w.p
      ∧ (c.stepOn ts w).bankS = w.bankS := by
  unfold Ctx.stepOn
  cases c.path.priv <;> cases c.ref.slot <;> exact ⟨fun _ _ _ => rfl, rfl, rfl, rfl⟩

/-- What a vector-class word with 32-bit results leaves. -/
theorem vec32_of_result {s : State} {c : Ctx} (h : s.ctx = some c) (d : VDst) (f : Nat → Word) :
    Vec32 c s d f (s.vecResult c d (c.perf.map fun t => (t, f t))) := by
  have hn := c.perf_nodup
  obtain ⟨a, b, k, e, hv, he⟩ := c.wave.putAll_with c.path.priv d (c.perf.map fun t => (t, f t))
  obtain ⟨la, fi, hp⟩ := c.path.pushAll_with (c.perf.map fun t => (t, (f t).setWidth 64))
  have hp0 := (State.ctxAt_eq (State.ctx_eq h).2).2.2.2.1
  have hmap1 : (c.perf.map fun t => (t, f t)).map Prod.fst = c.perf := by simp [Function.comp_def]
  have hmap2 : (c.perf.map fun t => (t, f t)).map (fun x => (x.1, x.2.setWidth 64)) = c.perf.map fun t => (t, (f t).setWidth 64) := by
    simp [Function.comp_def]
  let F : Wave → Wave := fun w =>
    ((w.putAll c.path.priv d (c.perf.map fun t => (t, f t))).modPath c.ref.slot fun p =>
      p.pushAll (c.perf.map fun t => (t, (f t).setWidth 64))).mendLatches c.perf
  have hF : ∀ w, (F w).wix = w.wix := by
    intro w
    obtain ⟨a, b, k, e, hv, -⟩ := w.putAll_with c.path.priv d (c.perf.map fun t => (t, f t))
    change ((w.putAll _ _ _).modPath _ _).wix = _
    rw [Wave.modPath_wix, hv]; rfl
  have hFw : F c.wave = ({ c.wave with w := a, o := b, p := c.wave.p, bankW := k, bankS := c.wave.bankS
                                       bad := (({ c.wave with bad := e }).mendLatches c.perf).bad }).setPath c.ref.slot
      (some (c.path.pushAll (c.perf.map fun t => (t, (f t).setWidth 64)))) := by
    simp only [F, hv]
    have hp1 : (c.wave.withV a b k e).path? c.ref.slot = some c.path := by
      rw [← hp0]; cases c.ref.slot <;> rfl
    simp only [Wave.modPath, hp1, Option.map_some]
    cases c.ref.slot <;> rfl
  have key := completed_of h c.perf hn F hF a b c.wave.p k c.wave.bankS _ _ hFw
    (fun u hu => (badBefore_mendLatches _ _ u hu).mono he) (by rw [hp]) (by rw [hp]; exact fun _ h => h)
  have hs : s.vecResult c d (c.perf.map fun t => (t, f t)) = (s.modWave c.ref.group c.ref.wix F).complete c c.perf := by
    simp only [State.vecResult, hmap1, hmap2]; rfl
  rw [hs]
  have hr := c.stepOn_reads c.perf (F c.wave)
  refine ⟨_, key, ⟨?_, ?_⟩, ⟨?_, ?_, ?_⟩, ?_, ?_, ?_⟩
  · intro i j
    rw [Ctx.wreg_eq, Ctx.wreg_eq]
    change (c.stepOn c.perf (F c.wave)).readW (c.path.pushAll _).priv i j = _
    rw [hr.1, hFw, Wave.setPath_readW, hp]
    change (c.wave.withV a b k _).readW _ _ _ = _
    have : ∀ e', (c.wave.withV a b k e').readW c.path.priv i j = (c.wave.withV a b k e).readW c.path.priv i j := fun _ => rfl
    rw [this, ← hv]
    exact c.wave.readW_putAll c.path.priv d c.perf hn f i j
  · intro i j
    change (c.stepOn c.perf (F c.wave)).o.get (8 * j + i) = _
    rw [hr.2.1]
    have : (F c.wave).o = (c.wave.putAll c.path.priv d (c.perf.map fun t => (t, f t))).o := by
      rw [hFw, hv]; cases c.ref.slot <;> rfl
    rw [this]
    exact c.wave.readO_putAll c.path.priv d c.perf hn f i j
  · intro i
    unfold Ctx.sreg
    have : (c.stepOn c.perf (F c.wave)).bankS = c.wave.bankS := by
      rw [hr.2.2.2, hFw]; cases c.ref.slot <;> rfl
    simp only [this, hp]; rfl
  · simp [hp]
  · simp [hp]
  · intro i j _
    have : (c.stepOn c.perf (F c.wave)).p = c.wave.p := by
      rw [hr.2.2.1, hFw]; cases c.ref.slot <;> rfl
    simp [Wave.preg, this]
  · intro i j hi
    exact c.path.latch_pushAll c.perf hn (fun t => (f t).setWidth 64) i j hi
  · intro j
    exact c.path.fill_pushAll c.perf hn (fun t => (f t).setWidth 64) j

/-! ### 64-bit results -/

theorem Wave.putV64_eq (w : Wave) (priv : Bool) (d : VDst) (hd : d.even = true) (t : Nat) (v : DWord) :
    w.putV64 priv d t v = (w.putV priv d t (v.setWidth 32)).putV priv (VDst.above d) t (v.extractLsb' 32 32) := by
  cases d with
  | w k =>
    have : k.val + 1 < 96 := by
      have := k.isLt
      simp only [VDst.even, beq_iff_eq] at hd
      omega
    simp [Wave.putV64, Wave.putV, VDst.above, this]
  | o k =>
    have : k.val + 1 < 8 := by
      have := k.isLt
      simp only [VDst.even, beq_iff_eq] at hd
      omega
    simp [Wave.putV64, Wave.putV, VDst.above, this]
  | z => rfl

theorem VDst.above_ne (d e : VDst) (h : e ≠ .z) (hd : d = e) : VDst.above d ≠ e := by
  subst hd
  cases d with
  | w k => simp only [VDst.above]; split <;> simp [Fin.ext_iff]
  | o k => simp only [VDst.above]; split <;> simp [Fin.ext_iff]
  | z => exact absurd rfl h

theorem Wave.putAll64_with (w : Wave) (priv : Bool) (d : VDst) (hd : d.even = true) (vs : List (Nat × DWord)) :
    ∃ a b k e, w.putAll64 priv d vs = w.withV a b k e ∧ ∀ u ∈ e, u ∈ w.bad := by
  induction vs generalizing w with
  | nil => exact ⟨_, _, _, _, rfl, fun u h => h⟩
  | cons x r ih =>
    obtain ⟨t, v⟩ := x
    obtain ⟨a, b, k, e, h, he⟩ := w.putV_with priv d t (v.setWidth 32)
    obtain ⟨a1, b1, k1, e1, h1, he1⟩ := (w.putV priv d t (v.setWidth 32)).putV_with priv (VDst.above d) t (v.extractLsb' 32 32)
    obtain ⟨a', b', k', e', h', he'⟩ := ih (w.putV64 priv d t v)
    refine ⟨a', b', k', e', ?_, fun u hu => ?_⟩
    · rw [Wave.putAll64, h', Wave.putV64_eq _ _ _ hd, h1, h]; rfl
    · have := he' u hu
      rw [Wave.putV64_eq _ _ _ hd, h1] at this
      have := he1 u this
      rw [h] at this
      exact he u this

theorem Wave.readW_putAll64 (w : Wave) (priv : Bool) (d : VDst) (hd : d.even = true) (ts : List Nat) (hn : ts.Nodup)
    (f : Nat → DWord) (k : Fin 96) (j : Nat) : (w.putAll64 priv d (ts.map fun t => (t, f t))).readW priv k j
      = if j ∈ ts ∧ (priv = false ∨ k.val < 16) ∧ d = .w k then (f j).setWidth 32
        else if j ∈ ts ∧ (priv = false ∨ k.val < 16) ∧ VDst.above d = .w k then (f j).extractLsb' 32 32 else w.readW priv k j := by
  induction ts generalizing w with
  | nil => simp [Wave.putAll64]
  | cons t r ih =>
    have h := List.nodup_cons.1 hn
    simp only [List.map_cons, Wave.putAll64]
    rw [ih _ h.2, Wave.putV64_eq _ _ _ hd, Wave.readW_putV, Wave.readW_putV]
    by_cases hj : j = t
    · subst hj
      by_cases hk : d = .w k
      · subst hk
        have := VDst.above_ne (.w k) (.w k) (by simp) rfl
        simp [h.1, this]
      · simp [h.1, hk, and_comm]
    · simp [hj]

theorem Wave.readO_putAll64 (w : Wave) (priv : Bool) (d : VDst) (hd : d.even = true) (ts : List Nat) (hn : ts.Nodup)
    (f : Nat → DWord) (k : Fin 8) (j : Nat) : (w.putAll64 priv d (ts.map fun t => (t, f t))).o.get (8 * j + k)
      = if j ∈ ts ∧ d = .o k then (f j).setWidth 32
        else if j ∈ ts ∧ VDst.above d = .o k then (f j).extractLsb' 32 32 else w.o.get (8 * j + k) := by
  induction ts generalizing w with
  | nil => simp [Wave.putAll64]
  | cons t r ih =>
    have h := List.nodup_cons.1 hn
    simp only [List.map_cons, Wave.putAll64]
    rw [ih _ h.2, Wave.putV64_eq _ _ _ hd, Wave.readO_putV, Wave.readO_putV]
    by_cases hj : j = t
    · subst hj
      by_cases hk : d = .o k
      · subst hk
        have := VDst.above_ne (.o k) (.o k) (by simp) rfl
        simp [h.1, this]
      · simp [h.1, hk, and_comm]
    · simp [hj]

/-- What a vector-class word with 64-bit results leaves. -/
theorem vec64_of_result {s : State} {c : Ctx} (h : s.ctx = some c) (d : VDst) (hd : d.even = true) (f : Nat → DWord) :
    Vec64 c s d f (s.vecResult64 c d (c.perf.map fun t => (t, f t))) := by
  have hn := c.perf_nodup
  obtain ⟨a, b, k, e, hv, he⟩ := c.wave.putAll64_with c.path.priv d hd (c.perf.map fun t => (t, f t))
  obtain ⟨la, fi, hp⟩ := c.path.pushAll_with (c.perf.map fun t => (t, f t))
  have hp0 := (State.ctxAt_eq (State.ctx_eq h).2).2.2.2.1
  have hmap1 : (c.perf.map fun t => (t, f t)).map Prod.fst = c.perf := by simp [Function.comp_def]
  let F : Wave → Wave := fun w =>
    ((w.putAll64 c.path.priv d (c.perf.map fun t => (t, f t))).modPath c.ref.slot fun p =>
      p.pushAll (c.perf.map fun t => (t, f t))).mendLatches c.perf
  have hF : ∀ w, (F w).wix = w.wix := by
    intro w
    obtain ⟨a, b, k, e, hv, -⟩ := w.putAll64_with c.path.priv d hd (c.perf.map fun t => (t, f t))
    change ((w.putAll64 _ _ _).modPath _ _).wix = _
    rw [Wave.modPath_wix, hv]; rfl
  have hFw : F c.wave = ({ c.wave with w := a, o := b, p := c.wave.p, bankW := k, bankS := c.wave.bankS
                                       bad := (({ c.wave with bad := e }).mendLatches c.perf).bad }).setPath c.ref.slot
      (some (c.path.pushAll (c.perf.map fun t => (t, f t)))) := by
    simp only [F, hv]
    have hp1 : (c.wave.withV a b k e).path? c.ref.slot = some c.path := by
      rw [← hp0]; cases c.ref.slot <;> rfl
    simp only [Wave.modPath, hp1, Option.map_some]
    cases c.ref.slot <;> rfl
  have key := completed_of h c.perf hn F hF a b c.wave.p k c.wave.bankS _ _ hFw
    (fun u hu => (badBefore_mendLatches _ _ u hu).mono he) (by rw [hp]) (by rw [hp]; exact fun _ h => h)
  have hs : s.vecResult64 c d (c.perf.map fun t => (t, f t)) = (s.modWave c.ref.group c.ref.wix F).complete c c.perf := by
    simp only [State.vecResult64, hmap1]; rfl
  rw [hs]
  have hr := c.stepOn_reads c.perf (F c.wave)
  refine ⟨_, key, ⟨?_, ?_⟩, ⟨?_, ?_, ?_⟩, ?_, ?_, ?_⟩
  · intro i j
    rw [Ctx.wreg_eq, Ctx.wreg_eq]
    change (c.stepOn c.perf (F c.wave)).readW (c.path.pushAll _).priv i j = _
    rw [hr.1, hFw, Wave.setPath_readW, hp]
    change (c.wave.withV a b k _).readW _ _ _ = _
    have : ∀ e', (c.wave.withV a b k e').readW c.path.priv i j = (c.wave.withV a b k e).readW c.path.priv i j := fun _ => rfl
    rw [this, ← hv]
    exact c.wave.readW_putAll64 c.path.priv d hd c.perf hn f i j
  · intro i j
    change (c.stepOn c.perf (F c.wave)).o.get (8 * j + i) = _
    rw [hr.2.1]
    have : (F c.wave).o = (c.wave.putAll64 c.path.priv d (c.perf.map fun t => (t, f t))).o := by
      rw [hFw, hv]; cases c.ref.slot <;> rfl
    rw [this]
    exact c.wave.readO_putAll64 c.path.priv d hd c.perf hn f i j
  · intro i
    unfold Ctx.sreg
    have : (c.stepOn c.perf (F c.wave)).bankS = c.wave.bankS := by
      rw [hr.2.2.2, hFw]; cases c.ref.slot <;> rfl
    simp only [this, hp]; rfl
  · simp [hp]
  · simp [hp]
  · intro i j _
    have : (c.stepOn c.perf (F c.wave)).p = c.wave.p := by
      rw [hr.2.2.1, hFw]; cases c.ref.slot <;> rfl
    simp [Wave.preg, this]
  · intro i j hi
    exact c.path.latch_pushAll c.perf hn f i j hi
  · intro j
    exact c.path.fill_pushAll c.perf hn f j

/-! ### Predicates -/

theorem Wave.putP_eq (w : Wave) (k : Fin 8) (t : Nat) (b : Bool) : ∃ a, w.putP k t b = { w with p := a } := by
  unfold Wave.putP
  split
  · exact ⟨_, rfl⟩
  · exact ⟨_, rfl⟩

theorem Wave.putPs_eq (w : Wave) (k : Fin 8) (vs : List (Nat × Bool)) : ∃ a, w.putPs k vs = { w with p := a } := by
  induction vs generalizing w with
  | nil => exact ⟨_, rfl⟩
  | cons x r ih =>
    obtain ⟨a, h⟩ := w.putP_eq k x.1 x.2
    obtain ⟨b, h'⟩ := ih (w.putP k x.1 x.2)
    exact ⟨b, by rw [Wave.putPs, h', h]⟩

theorem Wave.preg_putP (w : Wave) (k : Fin 8) (t : Nat) (b : Bool) (i : Fin 8) (j : Nat) (hj : j < 32) :
    (w.putP k t b).preg i j = if i = k ∧ k ≠ 0 ∧ j = t then b else w.preg i j := by
  unfold Wave.putP
  by_cases hk : k = 0
  · simp [hk]
  · by_cases hi : i = k
    · subst hi
      simp only [Wave.preg, if_neg hk, Sparse.get_set, if_pos rfl]
      by_cases ht : j = t
      · subst ht
        cases b <;> simp [hj, hk]
      · have ht' : ¬(t = j) := fun e => ht e.symm
        cases b <;> simp [ht, ht', hj]
    · have : ¬(i.val = k.val) := fun e => hi (Fin.ext e)
      simp [Wave.preg, hk, hi, Sparse.get_set, this]

theorem Wave.preg_putPs (w : Wave) (k : Fin 8) (ts : List Nat) (hn : ts.Nodup) (f : Nat → Bool) (i : Fin 8) (j : Nat)
    (hj : j < 32) : (w.putPs k (ts.map fun t => (t, f t))).preg i j = if i = k ∧ k ≠ 0 ∧ j ∈ ts then f j else w.preg i j := by
  induction ts generalizing w with
  | nil => simp [Wave.putPs]
  | cons t r ih =>
    have h := List.nodup_cons.1 hn
    simp only [List.map_cons, Wave.putPs]
    rw [ih _ h.2, Wave.preg_putP _ _ _ _ _ _ hj]
    by_cases ht : j = t
    · subst ht; simp [h.1]
    · simp [ht]

theorem sameV_of {c c' : Ctx} (h : ∀ (k j : Nat), c'.wreg k j = c.wreg k j) (h' : ∀ k j, c'.oreg k j = c.oreg k j) : SameV c c' :=
  ⟨fun k j => by simp [h], fun k j => by simp [h']⟩

theorem sameP_of {c c' : Ctx} (h : c'.wave.p = c.wave.p) : SameP c c' := fun k j _ => by simp [Wave.preg, h]

/-- A change of the predicates alone, followed by completion. -/
theorem predicates_of {s : State} {c : Ctx} (h : s.ctx = some c) (ts us : List Nat) (hts : ts.Nodup) (hus : us.Nodup) (d : Fin 8)
    (f : Nat → Bool) :
    ∃ c', Completed c s ts ((s.modWave c.ref.group c.ref.wix fun w => w.putPs d (us.map fun t => (t, f t))).complete c ts) c'
      ∧ WroteP c c' d us f ∧ SameV c c' ∧ SameS c c' ∧ SameL c c' := by
  obtain ⟨a, ha⟩ := c.wave.putPs_eq d (us.map fun t => (t, f t))
  have hp0 := (State.ctxAt_eq (State.ctx_eq h).2).2.2.2.1
  have hF : ∀ w : Wave, (w.putPs d (us.map fun t => (t, f t))).wix = w.wix := by
    intro w
    obtain ⟨a, h⟩ := w.putPs_eq d (us.map fun t => (t, f t))
    rw [h]
  have hset : ∀ w : Wave, w.path? c.ref.slot = some c.path → w = w.setPath c.ref.slot (some c.path) := by
    intro w hw
    cases hs : c.ref.slot <;> rw [hs] at hw <;> simp only [Wave.path?, if_true, Bool.false_eq_true, if_false] at hw <;>
      simp [Wave.setPath, ← hw]
  have hFw : c.wave.putPs d (us.map fun t => (t, f t))
      = ({ c.wave with w := c.wave.w, o := c.wave.o, p := a, bankW := c.wave.bankW, bankS := c.wave.bankS, bad := c.wave.bad }).setPath
        c.ref.slot (some c.path) := by
    rw [ha]
    exact hset _ (by rw [← hp0]; cases c.ref.slot <;> rfl)
  have key := completed_of h ts hts (fun w => w.putPs d (us.map fun t => (t, f t))) hF _ _ a _ _ _ _ hFw (fun u hu => .inl hu) rfl fun _ h => h
  have hr := c.stepOn_reads ts (c.wave.putPs d (us.map fun t => (t, f t)))
  refine ⟨_, key, ?_, sameV_of ?_ ?_, ⟨?_, rfl, rfl⟩, rfl, rfl⟩
  · intro i j hj
    rw [← c.wave.preg_putPs d us hus f i j hj]
    simp [Wave.preg, hr.2.2.1]
  · intro i j
    rw [Ctx.wreg_eq, Ctx.wreg_eq]
    change (c.stepOn ts _).readW c.path.priv i j = _
    rw [hr.1, ha]; rfl
  · intro i j
    change (c.stepOn ts _).o.get (8 * j + i) = _
    rw [hr.2.1, ha]; rfl
  · intro i
    unfold Ctx.sreg
    have : (c.stepOn ts (c.wave.putPs d (us.map fun t => (t, f t)))).bankS = c.wave.bankS := by rw [hr.2.2.2, ha]
    simp only [this]; rfl

/-- What a vector-class word with a predicate result leaves. -/
theorem vecP_of_result {s : State} {c : Ctx} (h : s.ctx = some c) (d : Fin 8) (f : Nat → Bool) :
    VecP c s d f (s.predResult c d (c.perf.map fun t => (t, f t))) := by
  have hmap1 : (c.perf.map fun t => (t, f t)).map Prod.fst = c.perf := by simp [Function.comp_def]
  obtain ⟨c', h1, h2⟩ := predicates_of h c.perf c.perf c.perf_nodup c.perf_nodup d f
  exact ⟨c', by rw [State.predResult, hmap1]; exact h1, h2⟩

/-- What a word that is only completed leaves. -/
theorem passed_of_complete {s : State} {c : Ctx} (h : s.ctx = some c) (ts : List Nat) (hts : ts.Nodup) :
    Passed c s ts (s.complete c ts) := by
  obtain ⟨c', h1, h2, h3, h4, h5⟩ := predicates_of h ts [] hts List.nodup_nil 0 fun _ => false
  have e : s.complete c ts = (s.modWave c.ref.group c.ref.wix fun w => w.putPs 0 ([].map fun t => (t, false))).complete c ts := by
    rw [State.complete_eq, State.complete_eq,
      State.modWave_modWave _ _ _ (fun w => w.putPs 0 ([].map fun t => (t, false))) _ fun _ => rfl]
    rfl
  exact ⟨c', by rw [e]; exact h1, h3, h4, h2, h5⟩

/-! ### Scalar results -/

/-- `sk` of a wave's slot, at a level. -/
def Wave.readS (w : Wave) (q : Path) (priv : Bool) (k : Nat) : Word :=
  if priv && k < 16 then w.bankS.getD k 0 else q.s.get k

theorem Ctx.sreg_eq (c : Ctx) (k : Nat) : c.sreg k = c.wave.readS c.path c.path.priv k := rfl

/-- A wave with a path in a slot and another bank of uniform registers. -/
def Wave.withS (w : Wave) (slot : Bool) (bank : List Word) (q : Path) : Wave := ({ w with bankS := bank }).setPath slot (some q)

/-- A path with other uniform registers and marks. -/
def Path.withS (p : Path) (m : Sparse 32) (y x : DWord) : Path := { p with s := m, badS := y, marks := x }

/-- One uniform register written: what the wave and the path then are. -/
theorem Wave.putS32_with (w : Wave) (slot priv : Bool) (d : SDst) (v : Word) (p : Path) (hp : w.path? slot = some p) :
    ∃ k m y x, w.putS32 slot priv d v = w.withS slot k (p.withS m y x) ∧ (∀ i, y.getLsbD i = true → p.badS.getLsbD i = true)
      ∧ x = p.marks ||| SDst.mark priv d
      ∧ ∀ i : Fin 64, (w.putS32 slot priv d v).readS (p.withS m y x) priv i = if d = .s i then v else w.readS p priv i := by
  have hset : ∀ k, w.withS slot k p = { w with bankS := k } := by
    intro k
    cases hs : slot <;> rw [hs] at hp <;> simp only [Wave.path?, if_true, Bool.false_eq_true, if_false] at hp <;>
      simp [Wave.withS, Wave.setPath, ← hp]
  cases d with
  | z =>
    refine ⟨w.bankS, p.s, p.badS, p.marks, ?_, fun u h => h, by simp [SDst.mark], fun i => ?_⟩
    · exact (hset _).symm
    · simp [Wave.putS32, Path.withS]
  | s k =>
    by_cases hb : (priv && decide (k.val < 16)) = true
    · refine ⟨putAt v k w.bankS, p.s, p.badS, p.marks, ?_, fun u h => h, by simp [SDst.mark, hb], fun i => ?_⟩
      · refine Eq.trans ?_ (hset _).symm
        simp [Wave.putS32, Wave.putSk, hb]
      · by_cases hi : (priv && decide (i.val < 16)) = true
        · have : (SDst.s k = .s i) ↔ i.val = k.val := by simp only [SDst.s.injEq, Fin.ext_iff]; omega
          simp only [Wave.putS32, Wave.putSk, hb, if_true, Wave.readS, hi, putAt_getD, this]
        · have : ¬(SDst.s k = .s i) := by
            intro h; injection h with h; subst h; exact hi hb
          simp [Wave.putS32, Wave.putSk, hb, Wave.readS, hi, this, Path.withS]
    · refine ⟨w.bankS, p.s.set k v, p.badS &&& ~~~(BitVec.twoPow 64 k), p.marks ||| BitVec.twoPow 64 k, ?_, fun i h => ?_, ?_,
        fun i => ?_⟩
      · simp only [Wave.putS32, Wave.putSk, hb, Bool.false_eq_true, if_false, Wave.modPath, hp, Option.map_some, Wave.withS, Path.putS]
        cases slot <;> rfl
      · simp only [BitVec.getLsbD_and, Bool.and_eq_true] at h
        exact h.1
      · simp [SDst.mark, hb]
      · have hbank : (w.putS32 slot priv (.s k) v).bankS = w.bankS := by
          simp only [Wave.putS32, Wave.putSk, hb, Bool.false_eq_true, if_false, Wave.modPath]
          cases slot <;> rfl
        by_cases hi : (priv && decide (i.val < 16)) = true
        · have : ¬(SDst.s k = .s i) := by
            intro h; injection h with h; subst h; exact hb hi
          simp only [Wave.readS, hi, if_true, hbank, this, if_false]
        · have : (SDst.s k = .s i) ↔ i.val = k.val := by simp only [SDst.s.injEq, Fin.ext_iff]; omega
          simp only [Wave.readS, hi, Bool.false_eq_true, if_false, Path.withS, Sparse.get_set, this]

/-- Uniform registers written, then latches pushed in the active threads, then completion. -/
theorem scalar_of {s : State} {c : Ctx} (h : s.ctx = some c) (P : Wave → Wave) (hP : ∀ w, (P w).wix = w.wix) (k : List Word)
    (m : Sparse 32) (y x : DWord) (v : DWord) (hw : P c.wave = c.wave.withS c.ref.slot k (c.path.withS m y x))
    (he : ∀ i, y.getLsbD i = true → c.path.badS.getLsbD i = true) :
    ∃ c', Completed c s c.perf (((s.modWave c.ref.group c.ref.wix P).pushScalar c v).complete c c.perf) c'
      ∧ (∀ i, c'.sreg i = (P c.wave).readS (c.path.withS m y x) c.path.priv i)
      ∧ c'.path.marks = x ∧ c'.path.fmt = c.path.fmt ∧ SameV c c' ∧ SameP c c' ∧ Pushed c c' (ixs c.path.active) fun _ => v := by
  have hn := ixs_nodup c.path.active
  have hp0 := (State.ctxAt_eq (State.ctx_eq h).2).2.2.2.1
  let q0 : Path := c.path.withS m y x
  obtain ⟨la, fi, hp⟩ := q0.pushAll_with ((ixs c.path.active).map fun t => (t, v))
  let L : Wave → Wave := fun w =>
    (w.modPath c.ref.slot fun p => p.pushAll ((ixs c.path.active).map fun t => (t, v))).mendLatches (ixs c.path.active)
  have hL : ∀ w, (L w).wix = w.wix := fun w => by
    change (w.modPath _ _).wix = _
    simp
  have hLP : L (P c.wave) = ({ c.wave with w := c.wave.w, o := c.wave.o, p := c.wave.p, bankW := c.wave.bankW, bankS := k
                                           bad := (c.wave.mendLatches (ixs c.path.active)).bad }).setPath
      c.ref.slot (some (q0.pushAll ((ixs c.path.active).map fun t => (t, v)))) := by
    simp only [L, hw]
    have hp1 : (c.wave.withS c.ref.slot k q0).path? c.ref.slot = some q0 := by
      simp [Wave.withS]
    change Wave.mendLatches (Wave.modPath (c.wave.withS c.ref.slot k q0) c.ref.slot _) _ = _
    simp only [Wave.modPath, hp1, Option.map_some]
    cases c.ref.slot <;> rfl
  have key := completed_of h c.perf c.perf_nodup (fun w => L (P w)) (fun w => (hL _).trans (hP w)) _ _ _ _ _ _ _ hLP
    (fun u hu => badBefore_mendLatches _ _ u hu) (by rw [hp]; rfl) (by rw [hp]; exact he)
  have hs : ((s.modWave c.ref.group c.ref.wix P).pushScalar c v).complete c c.perf
      = (s.modWave c.ref.group c.ref.wix fun w => L (P w)).complete c c.perf := by
    rw [State.pushScalar, State.modWave_modWave _ _ _ _ _ hP]
  rw [hs]
  have hr := c.stepOn_reads c.perf (L (P c.wave))
  refine ⟨_, key, ?_, ?_, ?_, sameV_of ?_ ?_, sameP_of ?_, ?_, ?_⟩
  · intro i
    rw [Ctx.sreg_eq]
    simp only [Wave.readS]
    have h1 : (c.stepOn c.perf (L (P c.wave))).bankS = (P c.wave).bankS := by
      rw [hr.2.2.2, hLP, hw]; cases c.ref.slot <;> rfl
    rw [h1, hp]; rfl
  · simp only [hp]; rfl
  · simp only [hp]; rfl
  · intro i j
    rw [Ctx.wreg_eq, Ctx.wreg_eq]
    change (c.stepOn c.perf (L (P c.wave))).readW (q0.pushAll _).priv i j = _
    rw [hr.1, hLP, hp, Wave.setPath_readW]; rfl
  · intro i j
    change (c.stepOn c.perf (L (P c.wave))).o.get (8 * j + i) = _
    rw [hr.2.1, hLP]; cases c.ref.slot <;> rfl
  · change (c.stepOn c.perf (L (P c.wave))).p = _
    rw [hr.2.2.1, hLP]; cases c.ref.slot <;> rfl
  · intro i j hi
    exact q0.latch_pushAll _ hn (fun _ => v) i j hi
  · intro j
    exact q0.fill_pushAll _ hn (fun _ => v) j

theorem Wave.putSk_wix (w : Wave) (slot priv : Bool) (k : Nat) (v : Word) : (w.putSk slot priv k v).wix = w.wix := by
  unfold Wave.putSk
  split
  · rfl
  · exact Wave.modPath_wix _ _ _

/-- What a scalar-class word with a 32-bit result leaves. -/
theorem scal32_of_result {s : State} {c : Ctx} (h : s.ctx = some c) (d : SDst) (v : Word) :
    Scal32 c s d v (s.scalResult c d v) := by
  have hp0 := (State.ctxAt_eq (State.ctx_eq h).2).2.2.2.1
  obtain ⟨k, m, y, x, hw, he, hx, hread⟩ := c.wave.putS32_with c.ref.slot c.path.priv d v c.path hp0
  have hP : ∀ w : Wave, (w.putS32 c.ref.slot c.path.priv d v).wix = w.wix := by
    intro w
    cases d with
    | z => rfl
    | s k => exact Wave.putSk_wix _ _ _ _ _
  obtain ⟨c', h1, h2, h3, h4, h5, h6, h7⟩ := scalar_of h (fun w => w.putS32 c.ref.slot c.path.priv d v) hP k m y x (v.setWidth 64) hw he
  exact ⟨c', h1, ⟨fun i => (h2 i).trans (hread i), h3.trans hx, h4⟩, h5, h6, h7⟩

theorem SDst.above_ne (d : SDst) (k : Fin 64) (hd : d = .s k) : SDst.above d ≠ .s k := by
  subst hd
  simp only [SDst.above]
  split <;> simp [Fin.ext_iff]

/-- What a scalar-class word with a 64-bit result leaves. -/
theorem scal64_of_result {s : State} {c : Ctx} (h : s.ctx = some c) (d : SDst) (hd : d.even = true) (v : DWord) :
    Scal64 c s d v (s.scalResult64 c d v) := by
  have hp0 := (State.ctxAt_eq (State.ctx_eq h).2).2.2.2.1
  have heq : ∀ w : Wave, w.putS64 c.ref.slot c.path.priv d v
      = (w.putS32 c.ref.slot c.path.priv d (v.setWidth 32)).putS32 c.ref.slot c.path.priv (SDst.above d) (v.extractLsb' 32 32) := by
    intro w
    cases d with
    | z => rfl
    | s k =>
      have : k.val + 1 < 64 := by
        have := k.isLt
        simp only [SDst.even, beq_iff_eq] at hd
        omega
      simp [Wave.putS64, Wave.putS32, SDst.above, this]
  have hP : ∀ (d : SDst) (u : Word) (w : Wave), (w.putS32 c.ref.slot c.path.priv d u).wix = w.wix := by
    intro d u w
    cases d with
    | z => rfl
    | s k => exact Wave.putSk_wix _ _ _ _ _
  obtain ⟨k, m, y, x, hw, he, hx, hread⟩ := c.wave.putS32_with c.ref.slot c.path.priv d (v.setWidth 32) c.path hp0
  obtain ⟨k', m', y', x', hw', he', hx', hread'⟩ :=
    (c.wave.putS32 c.ref.slot c.path.priv d (v.setWidth 32)).putS32_with c.ref.slot c.path.priv (SDst.above d) (v.extractLsb' 32 32)
      (c.path.withS m y x) (by rw [hw]; simp [Wave.withS])
  have hw'' : c.wave.putS64 c.ref.slot c.path.priv d v = c.wave.withS c.ref.slot k' (c.path.withS m' y' x') := by
    rw [heq, hw', hw]
    cases c.ref.slot <;> rfl
  obtain ⟨c', h1, h2, h3, h4, h5, h6, h7⟩ := scalar_of h (fun w => w.putS64 c.ref.slot c.path.priv d v)
    (fun w => by rw [heq, hP, hP]) k' m' y' x' v hw'' (fun i hi => he i (he' i hi))
  refine ⟨c', h1, ⟨fun i => ?_, ?_, h4⟩, h5, h6, h7⟩
  · rw [h2 i, heq]
    refine (hread' i).trans ?_
    rw [hread i]
    by_cases hi : d = .s i
    · simp [hi, SDst.above_ne (.s i) i rfl]
    · simp only [hi, if_false]; rfl
  · rw [h3, hx']
    change x ||| SDst.mark c.path.priv (SDst.above d) = _
    rw [hx]

/-- What a uniform compare leaves. -/
theorem scmp_of_result {s : State} {c : Ctx} (h : s.ctx = some c) (d : Fin 8) (b : Bool) :
    ∃ c', Completed c s c.perf (s.scmpResult c d b) c' ∧ WroteP c c' d (ixs c.path.active) (fun _ => b) ∧ SameV c c' ∧ SameS c c'
      ∧ SameL c c' :=
  predicates_of h c.perf (ixs c.path.active) c.perf_nodup (ixs_nodup _) d fun _ => b

end Sys2Proof.Machine
end

