-- ==== Sys2Proof/Tests/Slice0.lean ====
section
/-! SUPPORT. Tests: words of the spec decoded, ill-formed instructions refused, worked examples of the spec, and for every
statement that has hypotheses a state and operands that meet them. -/

open Sys2Proof Sys2Proof.Machine
namespace Sys2Proof.Tests

set_option Elab.async false

/-! ### Small states -/

/-- The machine with a program of one word loaded (log 6): one group of one wave of one thread. -/
def boot (w : Word) : State := State.reset.bootWord w
def st : State := boot 0

/-- Its path. -/
def ref : PathRef := ⟨1, 0, false⟩

/-- The issuer in a state of these tests. -/
def cx (s : State) : Ctx :=
  s.ctx.getD ⟨ref, bootGroup 0 0 0, newWave (bootLaunch 0) bootPlan 0 0 0, Path.fresh 0 0, bootLaunch 0⟩

/-- The machine with its wave, path, group or launch changed. -/
def chWave (f : Wave → Wave) : State := st.modWave 1 0 f
def chPath (f : Path → Path) : State := st.modPath ref f
def chGroup (f : Group → Group) : State := st.modGroup 1 f
def chLaunch (f : Launch → Launch) : State := st.modLaunch 0 f

/-- A bit of the launch record set. -/
def Launch.with (l : Launch) (k : Nat) : Launch := { l with lrec := l.lrec ||| BitVec.twoPow 2048 k }

/-- At P1; with a guard that holds in no thread; with two threads. -/
def st1 : State := chPath fun p => { p with priv := true }
def stOff : State := chPath fun p => { p with seq := { p.seq with guard := some (true, 0) } }
def st2 : State := (chWave fun w => { w with threads := 2 }).modPath ref fun p => { p with mask := 3 }

/-- An answer that a computation gives, read off it by evaluation. -/
theorem ok_of {e : Except ε α} {a : α} (h : e.toOption = some a) : e = .ok a := by
  cases e <;> simp_all [Except.toOption]

theorem is_ok {e : Except ε α} (h : e.toOption.isSome = true) : ∃ a, e = .ok a := by
  cases e <;> simp_all [Except.toOption]

theorem pair_none {p : α × Option β} (h : p.2 = none) : p = (p.1, none) := by rw [← h]

/-- The state that a step or an instruction answers. -/
def next? : Host.Outcome State Fault Refusal → Option State
  | .next t => some t
  | _ => none

theorem next_of {o : Host.Outcome State Fault Refusal} (h : (next? o).isSome = true) : ∃ t, o = .next t := by
  cases o <;> simp_all [next?]

/-- Uniform registers can be read where no unit is uncorrectable. -/
theorem sreadable {c : Ctx} (h : c.path.badS = 0) (xs : List (SOp × Bool)) : c.SReadable xs := by
  intro x _ k _
  simp [Ctx.goodS, h]

theorem pair_of {α β : Type} {p : α × Option β} (h : p.2 = none) : ∃ u, p = (u, none) := by
  obtain ⟨a, b⟩ := p
  cases h
  exact ⟨a, rfl⟩

/-- What each thread's address reaches, by evaluation. -/
theorem gloads {s : State} {c : Ctx} {ea : Nat → Nat} {n : Nat} {ts : List Nat} {p : Nat → Phys}
    (h : ∀ t ∈ ts, (s.translate c.group.die c.launch.ctx c.path.priv .load (ea t) n).toOption = some (p t) ∧ s.physBad (p t) n = false) :
    s.GLoads c ea n ts p := fun t ht => ⟨ok_of (h t ht).1, (h t ht).2⟩

theorem sploads {s : State} {c : Ctx} {a : Bool} {ea : Nat → Nat} {n : Nat} {ts : List Nat} {p : Nat → SpPlace}
    (h : ∀ t ∈ ts, (s.spPlace c.group a (ea t) n).toOption = some (p t) ∧ s.spBad (p t) n = false ∧ s.netFails c (ea t) = false) :
    s.SpLoads c a ea n ts p := fun t ht => ⟨ok_of (h t ht).1, (h t ht).2⟩

theorem spstores {s : State} {c : Ctx} {a : Bool} {ea : Nat → Nat} {n : Nat} {ts : List Nat} {p : Nat → SpPlace}
    (h : ∀ t ∈ ts, (s.spPlace c.group a (ea t) n).toOption = some (p t) ∧ s.netFails c (ea t) = false) :
    s.SpStores c a ea n ts p := fun t ht => ⟨ok_of (h t ht).1, (h t ht).2⟩

/-- An optional value that is there, read off by evaluation. -/
theorem some_of {α : Type} {o : Option α} (h : o.isSome = true) : ∃ a, o = some a := Option.isSome_iff_exists.1 h

theorem getD_of {α : Type} {o : Option α} {d : α} (h : o.isSome = true) : o = some (o.getD d) := by
  cases o <;> simp_all

theorem single {α : Type} {l : List α} {d : α} (h : l.length = 1) : l = [l.headD d] := by
  match l, h with
  | [_], _ => rfl

theorem some_of₂ {α β : Type} {o : Option (α × β)} (h : o.isSome = true) : ∃ a b, o = some (a, b) := by
  obtain ⟨⟨a, b⟩, e⟩ := some_of h
  exact ⟨a, b, e⟩

theorem some_of₃ {α β γ : Type} {o : Option (α × β × γ)} (h : o.isSome = true) : ∃ a b c, o = some (a, b, c) := by
  obtain ⟨⟨a, b, c⟩, e⟩ := some_of h
  exact ⟨a, b, c, e⟩

theorem spok {s : State} {c : Ctx} {r : Range} (h : (s.spPlace c.group r.1 r.2.1 r.2.2).toOption.isSome = true) : s.SpOk c r := is_ok h

theorem ctx_of {s : State} (h : s.ctx.isSome = true) : s.ctx = some (cx s) := by
  obtain ⟨c, e⟩ := some_of h
  rw [cx, e]; rfl

/-! ### Words from the encoding tables of the spec, written out field by field -/

/-- The sub-cause of a word that is refused (R39). -/
def errorOf (r : Except Illegal Instr) : Nat := match r with | .error e => e.num | .ok _ => 0

/-- R26, R41: operands of a vector word stand in the order d, a, b. -/
theorem test_decode_add : decodeWord 0b0000001_0000001_0000010_0000011_0000 = .ok (.addI32 (.w 1) (.w 2) (.w 3)) := by rfl
/-- R26: the first output register, the newest latch, the last uniform register of a vector word. -/
theorem test_decode_rotl_latch_uniform : decodeWord 0b0000010_1100000_1101000_1111011_0111 = .ok (.rotlB32 (.o 0) (.h 0) (.s 15)) := by rfl
/-- R26: `z`, `ix` and `imm`. -/
theorem test_decode_bfi_specials : decodeWord 0b0000011_1111100_1111101_1111110_0010 = .ok (.bfiB32 .z .ix .imm) := by rfl
/-- R26, R30: an even destination, the last `w` and `o` registers. -/
theorem test_decode_mulwide : decodeWord 0b0000100_1011110_1011111_1100111_1000 = .ok (.mulwideI32 (.w 94) (.w 95) (.o 7)) := by rfl
/-- R41. -/
theorem test_decode_mad64 : decodeWord 0b0000101_0000010_0000100_0000110_0001 = .ok (.madI64 (.w 2) (.w 4) (.w 6)) := by rfl
/-- R92: the largest shift. -/
theorem test_decode_shl_imm : decodeWord 0b0001101_0000001_0000010_00000011111 = .ok (.shlB32Imm (.w 1) (.w 2) 31) := by rfl
/-- R41, R97. -/
theorem test_decode_setp_f32_nan : decodeWord 0b0010100_0000111_0000001_0000010_1101 = .ok (.setpF32 .nan 7 (.w 1) (.w 2)) := by rfl
/-- R41, R97. -/
theorem test_decode_setp_bf16_ge : decodeWord 0b0011110_0000001_0000010_0000011_1101 = .ok (.setpBf16 .ge 1 (.w 2) (.w 3)) := by rfl
/-- R98. -/
theorem test_decode_pandn : decodeWord 0b0010110_0000011_0000010_0000001_0100 = .ok (.pandn 3 2 1) := by rfl
/-- R99: fn[3] is the sense, fn[2:0] the predicate. -/
theorem test_decode_sel_sense : decodeWord 0b0010111_0000001_0000010_0000011_1101 = .ok (.selB32 (.w 1) (.w 2) (.w 3) true 5) := by rfl
/-- R41. -/
theorem test_decode_shfl_xor : decodeWord 0b0011000_0000001_0000010_0000011_0101 = .ok (.shflXor (.w 1) (.w 2) (.w 3)) := by rfl
/-- R41. -/
theorem test_decode_wred_or : decodeWord 0b0011001_0000001_0000010_0000000_1011 = .ok (.wredOrB32 (.w 1) (.w 2)) := by rfl
/-- R103: fn[1:0] the operation, fn[3:2] the rounding. -/
theorem test_decode_fma_bf16_rd : decodeWord 0b0011100_0000001_0000010_0000011_1111 = .ok (.fmaBf16 (.w 1) (.w 2) (.w 3) .rd) := by rfl
/-- R105: rounding, destination type, source type. -/
theorem test_decode_cvt : decodeWord 0b0100000_0000010_0000100_10001101010 = .ok (.cvt (.w 2) (.w 4) .sr .u64 .f32) := by rfl
/-- R107: fn[1:0] the format register, fn[3:2] the direction. -/
theorem test_decode_nunpack : decodeWord 0b0100001_0000001_0000010_1111100_0111 = .ok (.nunpack (.w 1) (.w 2) .z 3) := by rfl
/-- R110. -/
theorem test_decode_div_f16 : decodeWord 0b0100011_0000001_0000010_0000011_1100 = .ok (.divF16 (.w 1) (.w 2) (.w 3)) := by rfl
/-- R27, R30. -/
theorem test_decode_ssub_i64 : decodeWord 0b0101000_0000010_0000100_0111110_1101 = .ok (.ssubI64 (.s 2) (.s 4) (.s 62)) := by rfl
/-- R27, R113. -/
theorem test_decode_scmp_ge_u32 : decodeWord 0b0101011_0000001_0111111_1111100_1011 = .ok (.scmpGeU32 1 (.s 63) .z) := by rfl
/-- R52, R114: imm18[17] selects the destination class. -/
theorem test_decode_gets_vector : decodeWord 0b0101100_0000100_100000000000010000 = .ok (.getsVector (.w 4) .tix) := by rfl
/-- R36: the sense, the predicate, a displacement of -1. -/
theorem test_decode_bra_never_back : decodeWord 0b0110000_1011_111111111111111111111 = .ok (.bra true 3 0x1FFFFF) := by rfl
/-- R36: the farthest block forward. -/
theorem test_decode_call_forward : decodeWord 0b0110010_0000_011111111111111111111 = .ok (.call 0xFFFFF) := by rfl
/-- R41. -/
theorem test_decode_nop : decodeWord 0b01100110000000000000000000000000 = .ok (.nop) := by rfl
/-- R132: the code stands in the d field. -/
theorem test_decode_trap : decodeWord 0b0110011_1111111_0000000_0000000_1011 = .ok (.trap 0x7F) := by rfl
/-- R134. -/
theorem test_decode_sleepn : decodeWord 0b0110100_0000011_111111111111111111 = .ok (.sleepn (.s 3) 0x3FFFF) := by rfl
/-- R396: the last link, with `.rel`. -/
theorem test_decode_put : decodeWord 0b0111001_0000001_0000010_1011_0000001 = .ok (.put (.w 1) (.w 2) 11 true) := by rfl
/-- R25, R38. -/
theorem test_decode_ld_s_i8 : decodeWord 0b1000001_0000001_0000010_111111_000_01 = .ok (.ldSI8 (.w 1) (.w 2) 63 .wv .acq) := by rfl
/-- R25, R38. -/
theorem test_decode_st_g_b64 : decodeWord 0b1010011_0000010_0000100_000001_101_10 = .ok (.stGB64 (.w 2) (.w 4) 1 .sys .rel) := by rfl
/-- R38, R162. -/
theorem test_decode_ldt_g : decodeWord 0b1010100_0001000_0000010_000000_110_01 = .ok (.ldtG (.w 8) (.w 2) 0 .devRm .acq) := by rfl
/-- R163, R164: the operation stands in off6. -/
theorem test_decode_atom_cas : decodeWord 0b1011011_0000100_0000010_001001_011_11 = .ok (.atomGB64 (.w 4) (.w 2) .cas .die .ar) := by rfl
/-- R166. -/
theorem test_decode_fence : decodeWord 0b1011100_0000000_0000000_000000_100_11 = .ok (.fence .dev .ar) := by rfl
/-- R41. -/
theorem test_decode_bar : decodeWord 0b10111100000000000000000000000100 = .ok (.bar) := by rfl
/-- R170. -/
theorem test_decode_twait : decodeWord 0b1011110_0000011_0000001_0000010_0001 = .ok (.twait 3 (.w 1) (.w 2)) := by rfl
/-- R28, R188: the last tile, the FIFO number in the a field. -/
theorem test_decode_mma_sq : decodeWord 0b1100000_1111111_0000011_0001001_0011 = .ok (.mmaSq 127 3 (.s 9)) := by rfl
/-- R193. -/
theorem test_decode_aexp : decodeWord 0b1100001_0000101_0000110_0000000_0100 = .ok (.aexp 5 (.s 6)) := by rfl
/-- R251. -/
theorem test_decode_copy_s2g : decodeWord 0b1101000_0000010_0000001_0000100_0001 = .ok (.copyS2g (.w 2) (.w 1) (.w 4)) := by rfl
/-- R257. -/
theorem test_decode_cwait : decodeWord 0b1101010_0000000_0000000_00000111111 = .ok (.cwait 63) := by rfl
/-- R259. -/
theorem test_decode_sset : decodeWord 0b1101011_0000001_0000010_0011_0000000 = .ok (.sset (.w 1) (.w 2) 3) := by rfl
/-- R262: the mask is imm11 [7:0]. -/
theorem test_decode_qfence : decodeWord 0b1101101_0000000_0000000_0001_1000001 = .ok (.qfence 0xC1) := by rfl
/-- R280. -/
theorem test_decode_hdel_scan : decodeWord 0b1110010_0000001_0000010_0000_0000001 = .ok (.hdel (.w 1) (.w 2) true) := by rfl
/-- R288: OUTPAIR, ASC, MERGE, DEDUP from bit 4 down. -/
theorem test_decode_gtopk : decodeWord 0b1110101_0000001_0000010_0000_0011011 = .ok (.gtopk (.w 1) (.w 2) true true .max true) := by rfl
/-- R316. -/
theorem test_decode_cancel_trap : decodeWord 0b1111011_0000010_0000000_0000_0000001 = .ok (.cancelTrap (.w 2)) := by rfl
/-- R31. -/
theorem test_decode_grd : decodeWord 0b1111100_1_101_000000000000000000000 = .ok (.grd true 5) := by rfl
/-- R31. -/
theorem test_decode_xim : decodeWord 0b1111101_1111111111111111111111111 = .ok (.xim 0x1FFFFFF) := by rfl
/-- R366. -/
theorem test_decode_csrr : decodeWord 0b1111110_0000100_0000100_0000000_0000 = .ok (.csrr (.s 4) .tpc) := by rfl
/-- R27: no output register in a scalar word. -/
theorem test_illegal_class : errorOf (decodeWord 0b0101000_1100000_0000001_0000010_0000) = 4 := by rfl
/-- R41: an unassigned major. -/
theorem test_illegal_major : errorOf (decodeWord 0b0000000_0000000000000000000000000) = 1 := by rfl
/-- R41: an unlisted fn. -/
theorem test_illegal_fn : errorOf (decodeWord 0b0000001_0000001_0000010_0000011_1110) = 2 := by rfl
/-- R39: `abs.i32` has no b. -/
theorem test_illegal_res_field : errorOf (decodeWord 0b0000001_0000001_0000010_0000011_1101) = 3 := by rfl
/-- R26: a latch is no destination. -/
theorem test_illegal_latch_written : errorOf (decodeWord 0b0000001_1101000_0000001_0000010_0000) = 5 := by rfl
/-- R30: an odd register in a 64-bit field. -/
theorem test_illegal_odd_pair : errorOf (decodeWord 0b0000100_0000001_0000010_0000100_0000) = 6 := by rfl
/-- R38: scope 7. -/
theorem test_illegal_scope : errorOf (decodeWord 0b1000100_0000001_0000010_000000_111_00) = 8 := by rfl
/-- R38: a load has no `.rel`. -/
theorem test_illegal_load_release : errorOf (decodeWord 0b1000100_0000001_0000010_000000_000_10) = 8 := by rfl
/-- R92: a shift of 32. -/
theorem test_illegal_shift_32 : errorOf (decodeWord 0b0001101_0000001_0000010_00000100000) = 9 := by rfl
/-- The words that the spec writes out, in its worked loop and beside its forms (R20 to R22, R108, R261, R370, R395). -/
theorem test_decode_worked_loop : (
    [0x88081804, 0x02141602, 0x02183680, 0x100C1820, 0x50142FE1, 0x56102FC1, 0x62800000, 0x90181804].map fun w => (decodeWord w).toOption)
    = ([.ldS (.w 2) (.w 3) 0 .gr .rlx, .mulI32 (.w 5) (.w 2) (.o 0), .addI32 (.w 6) (.w 6) (.h 0), .addI32Imm (.w 3) (.w 3) 32,
        .ssubI32 (.s 5) (.s 5) .imm, .scmpNeI32 4 (.s 5) .z, .bru false 4 0, .stS (.w 6) (.w 3) 0 .gr .rlx] : List Instr).map some := by rfl
theorem test_decode_prefixes : ([0xFA000001, 0xF8200000].map fun w => (decodeWord w).toOption) = [some (.xim 1), some (.grd false 1)] := by rfl
theorem test_decode_examples_core : ([0x42101FC1, 0x421427C5, 0x023067E0, 0x02080FE0, 0x64000401].map fun w => (decodeWord w).toOption)
    = ([.npack (.w 4) (.w 3) .z 1, .nunpack (.w 5) (.w 4) .z 1, .addI32 (.w 12) (.w 12) .imm, .addI32 (.w 2) (.w 1) .imm, .call 0x401] :
        List Instr).map some := by rfl
theorem test_decode_examples_streams : ([0xD653E080, 0xD8100820, 0xD8140FC1, 0xD8000802].map fun w => (decodeWord w).toOption)
    = ([.sset (.w 20) .z 1, .spop (.w 4) 1 2, .sstat (.w 5) 1 .z, .sclose 1] : List Instr).map some := by rfl
theorem test_decode_examples_fabric : ([0x722BE181, 0x742BE580, 0x76306800].map fun w => (decodeWord w).toOption)
    = ([.put (.w 10) .z 3 true, .get (.w 10) .z 11, .send (.w 12) (.w 13) 0 false] : List Instr).map some := by rfl
theorem test_decode_examples_control : (
    [0xFC100000, 0xFC182000, 0xFC042801, 0xFC283801, 0xFC001042, 0xFC001003].map fun w => (decodeWord w).toOption)
    = ([.csrr (.s 4) .tcause, .csrr (.s 6) .tpc, .csrw .tmask (.s 5), .csrw .wseg (.s 7), .tlbinv (.s 2) (.s 4), .tlbinvAll (.s 2)] :
        List Instr).map some := by rfl

/-! ### Ill-formed instructions, one for each check -/

/-- R30: an odd register in a 64-bit field of a vector word, in each of its places. -/
theorem test_ill_formed_pairs : [
    .addI64 (.w 1) (.w 2) (.w 4), .subI64 (.w 2) (.w 3) (.w 4), .mulI64 (.w 2) (.w 4) (.w 5), .shlB64 (.w 1) (.w 2) .z,
    .shrU64 (.w 2) (.w 3) .z, .shrI64 (.o 1) (.w 2) .z, .minI64 (.w 2) (.o 3) .z, .maxI64 (.w 2) .z (.s 1), .mulwideI32 (.w 1) .z .z,
    .mulwideU32 (.w 3) .z .z, .madI64 (.w 1) .z .z, .setpI64 .eq 0 (.w 1) .z, .setpI64 .eq 0 .z (.w 1), .movB64 (.w 1) .z,
    .movB64 .z (.w 1), .cvt (.w 1) (.w 1) .rne .i64 .f32, .cvt (.w 1) (.w 1) .rne .f32 .u64].all (fun i => !WellFormed i) = true := by decide

/-- R27, R30: the same in scalar words; R113, R134: what a scalar operand may not be. -/
theorem test_ill_formed_scalars : [
    .saddI64 (.s 1) .z .z, .saddI64 .z (.s 1) .z, .ssubI64 .z .z (.s 1), .getsScalar (.s 1) .nsclk, .getsScalar (.s 2) .tix,
    .getsVector (.w 1) .qcount, .sets .imm, .sleepn .imm 0, .csrr (.s 1) .tpc, .csrw .taddr (.s 2), .csrw .tpc (.s 1), .tlbinv .z (.s 1)].all
      (fun i => !WellFormed i) = true := by decide

/-- R92, R180, R257, R262, R396: immediates out of their range. -/
theorem test_ill_formed_immediates : [
    .shlB32Imm .z .z 32, .shrU32Imm .z .z 32, .shrI32Imm .z .z 2047, .setfmt 0 0, .setfmt 0 12, .cwait 64, .qfence 0, .put .z .z 12 false,
    .get .z .z 12, .send .z .z 15 true].all (fun i => !WellFormed i) = true := by decide

/-- R30: addresses of one or two registers, of which the first is odd. -/
theorem test_ill_formed_addresses : [
    .jmpi (.w 1), .calli (.w 1), .waitt (.w 1), .tmarkFull (.w 1), .tmarkEmpty (.w 1), .ttest 0 (.w 1), .launch (.w 1) .z, .cancelDrain (.w 1),
    .cancelTrap (.w 1), .copyG2s .z (.w 1) .z, .copyG2s .z .z (.w 1), .copyS2g (.w 1) .z .z, .copyS2g .z .z (.w 1), .copyS2s .z .z (.w 1),
    .copyG2g (.w 1) .z .z, .copyG2g .z (.w 1) .z, .copyG2g .z .z (.w 1), .copyG2sMc .z (.w 1) .z, .copyG2sMc .z .z (.w 1), .copyS2sMc .z .z (.w 1),
    .hprobe .z (.w 1), .hrehash .z (.w 1), .gtopk .z (.w 1) false false .sum false, .ghist .z (.w 1) false false,
    .gscan .z (.w 1) false false false, .gperm .z (.w 1) false, .isect (.w 1) .z .z].all (fun i => !WellFormed i) = true := by decide

/-- R30, R38, R161: loads and stores. -/
theorem test_ill_formed_accesses : [
    .ldSU8 .z .z 0 .wv .rel, .ldSI8 .z .z 0 .wv .ar, .ldSU16 .z .z 0 .devRm .rlx, .ldSI16 .z .z 0 .devRm .rel, .ldS .z .z 0 .gr .rel,
    .ldSB64 (.w 1) .z 0 .wv .rlx, .ldSB64 .z .z 0 .wv .rel, .stSB8 .z .z 0 .wv .acq, .stSB16 .z .z 0 .devRm .rel, .stS .z .z 0 .wv .ar,
    .stSB64 (.w 1) .z 0 .wv .rlx, .stSB64 .z .z 0 .wv .acq, .ldGU8 .z (.w 1) 0 .wv .rlx, .ldGI8 .z .z 0 .wv .rel, .ldGU16 .z (.w 1) 0 .wv .rlx,
    .ldGI16 .z .z 0 .wv .rel, .ldG .z (.w 1) 0 .wv .rlx, .ldGB64 (.w 1) .z 0 .wv .rlx, .ldGB64 .z (.w 1) 0 .wv .rlx, .ldGB64 .z .z 0 .wv .rel,
    .stGB8 .z (.w 1) 0 .wv .rlx, .stGB16 .z .z 0 .wv .acq, .stG .z (.w 1) 0 .wv .rlx, .stGB64 (.w 1) .z 0 .wv .rlx, .stGB64 .z (.w 1) 0 .wv .rlx,
    .stGB64 .z .z 0 .wv .acq].all (fun i => !WellFormed i) = true := by decide

/-- R38, R162 to R166, R171: tile rows, atomics, fences, watches. -/
theorem test_ill_formed_rows_and_atomics : [
    .ldtG (.w 4) .z 0 .wv .rlx, .ldtG .z .z 0 .wv .rlx, .ldtG (.w 8) (.w 1) 0 .wv .rlx, .ldtG (.w 8) .z 0 .wv .rel, .sttG (.o 1) .z 0 .wv .rlx,
    .sttG (.o 0) (.w 1) 0 .wv .rlx, .sttG (.o 0) .z 0 .wv .acq, .ldtS (.w 4) .z 0 .wv .rlx, .ldtS (.w 0) .z 0 .wv .rel, .sttS .z .z 0 .wv .rlx,
    .sttS (.w 0) .z 0 .devRm .rlx, .atomS (.w 1) .z .cas .wv .rlx, .atomS .z .z .add .devRm .rlx, .atomSB64 (.w 2) .z .cas .wv .rlx,
    .atomSB64 (.w 1) .z .add .wv .rlx, .atomSB64 .z .z .fadd .wv .rlx, .atomSB64 .z .z .add .devRm .rel, .atomG .z .z .cas .wv .rlx,
    .atomG .z (.w 1) .add .wv .rlx, .atomG .z .z .add .devRm .rlx, .atomGB64 (.w 2) .z .cas .wv .rlx, .atomGB64 .z .z .fadd .wv .rlx,
    .atomGB64 .z (.w 1) .add .wv .rlx, .atomGB64 .z .z .add .devRm .rel, .fence .wv .rlx, .fence .devRm .rel, .waita (.w 1) .z 0 .wv .rlx,
    .waita .z (.w 1) 0 .wv .rlx, .waita .z .z 0 .wv .rel].all (fun i => !WellFormed i) = true := by decide

/-! ### Worked examples and corner values, one step each -/

/-- The issuer after an instruction; a state whose thread 0 holds values in registers. -/
def after (i : Instr) (s : State) : Ctx := cx ((next? (exec i s)).getD s)
def holding (xs : List (Nat × Word)) : State := chWave fun w => { w with w := xs }
def w1 (i : Instr) (xs : List (Nat × Word)) : Word := (after i (holding xs)).v32 0 (.w 1)
def wide1 (i : Instr) (xs : List (Nat × Word)) : DWord := (after i (holding xs)).v64 0 (.w 0)

/-- R91. -/
theorem test_add_wraps : w1 (.addI32 (.w 1) (.w 2) (.w 3)) [(2, 0xFFFFFFFF), (3, 2)] = 1 := by decide +kernel
theorem test_mulhi_signed : w1 (.mulhiI32 (.w 1) (.w 2) (.w 3)) [(2, 0xFFFFFFFF), (3, 2)] = 0xFFFFFFFF := by decide +kernel
theorem test_adds_saturates : w1 (.addsI32 (.w 1) (.w 2) (.w 3)) [(2, 0x7FFFFFFF), (3, 1)] = 0x7FFFFFFF := by decide +kernel
theorem test_subs_unsigned : w1 (.subsU32 (.w 1) (.w 2) (.w 3)) [(2, 1), (3, 2)] = 0 := by decide +kernel
theorem test_abs_least : w1 (.absI32 (.w 1) (.w 2)) [(2, 0x80000000)] = 0x7FFFFFFF := by decide +kernel
/-- R94, R95. -/
theorem test_shift_of_32 : w1 (.shlB32 (.w 1) (.w 2) (.w 3)) [(2, 1), (3, 32)] = 0 := by decide +kernel
theorem test_shift_keeps_sign : w1 (.shrI32 (.w 1) (.w 2) (.w 3)) [(2, 0x80000000), (3, 40)] = 0xFFFFFFFF := by decide +kernel
theorem test_rotl : w1 (.rotlB32 (.w 1) (.w 2) (.w 3)) [(2, 0x80000001), (3, 33)] = 3 := by decide +kernel
theorem test_bfe_sign : w1 (.bfeI32 (.w 1) (.w 2) (.w 3)) [(2, 0x00000F00), (3, 0x0408)] = 0xFFFFFFFF := by decide +kernel
theorem test_bfi : w1 (.bfiB32 (.w 1) (.w 2) (.w 3)) [(1, 0xFFFFFFFF), (2, 0), (3, 0x0804)] = 0xFFFFF00F := by decide +kernel
theorem test_bsel : w1 (.bselB32 (.w 1) (.w 2) (.w 3)) [(1, 0xFFFF0000), (2, 0x12345678), (3, 0x9ABCDEF0)] = 0x1234DEF0 := by decide +kernel
/-- R93. -/
theorem test_mulwide : wide1 (.mulwideI32 (.w 0) (.w 2) (.w 3)) [(2, 0xFFFFFFFF), (3, 2)] = 0xFFFFFFFFFFFFFFFE := by decide +kernel
theorem test_mad64_source_is_destination : wide1 (.madI64 (.w 0) (.w 0) (.w 0)) [(0, 3)] = 12 := by decide +kernel
/-- R103 to R106, R110: FP32 1.5, -1.5, NaN; sums are rounded once. -/
theorem test_fadd_tie : w1 (.faddF32 (.w 1) (.w 2) (.w 3) .rne) [(2, 0x3F800000), (3, 0x33800000)] = 0x3F800000 := by decide +kernel
theorem test_fadd_up : w1 (.faddF32 (.w 1) (.w 2) (.w 3) .ru) [(2, 0x3F800000), (3, 0x33800000)] = 0x3F800001 := by decide +kernel
theorem test_fmin_nan : w1 (.fminF32 (.w 1) (.w 2) (.w 3)) [(2, 0x7FC00000), (3, 0x3F800000)] = 0x3F800000 := by decide +kernel
theorem test_fmin_zeros : w1 (.fminF32 (.w 1) (.w 2) (.w 3)) [(2, 0), (3, 0x80000000)] = 0x80000000 := by decide +kernel
theorem test_cvt_to_zero : w1 (.cvt (.w 1) (.w 2) .rz .i32 .f32) [(2, 0xBFC00000)] = 0xFFFFFFFF := by decide +kernel
theorem test_rsqrt : w1 (.rsqrtF32 (.w 1) (.w 2)) [(2, 0x40800000)] = 0x3F000000 := by decide +kernel
/-- e to full precision is 2.71828182845904…, whose FP32 code is 0x402DF854. -/
theorem test_exp : w1 (.expF32 (.w 1) (.w 2)) [(2, 0x3F800000)] = 0x402DF854 := by decide +kernel

/-- Several threads, `w0` holding each thread's index; a register of them at fixed values. -/
def several (n : Nat) (xs : List (Nat × Word)) : State :=
  (chWave fun w => { w with threads := n, w := ((List.range n).map fun t => (2048 * t, BitVec.ofNat 32 t)) ++ xs }).modPath ref fun p =>
    { p with mask := maskBelow n, s := [(15, 1)] }
/-- R101, R102, over five threads. -/
theorem test_shfl_down : (fun c : Ctx => (c.v32 3 (.w 1), c.v32 4 (.w 1))) (after (.shflDown (.w 1) (.w 0) (.s 15)) (several 5 [])) = (4, 4) := by
  decide +kernel
theorem test_wscan : (after (.wscanAddxI32 (.w 1) (.w 0)) (several 5 [])).v32 4 (.w 1) = 6 := by decide +kernel
theorem test_ballot : (after (.voteBallot (.w 1) (.w 0)) (several 5 [])).v32 0 (.w 1) = 0x1E := by decide +kernel
/-- R121 and fragment 3 of the spec: the threads of odd index take the branch, the others stay. -/
theorem test_divergence : (fun c : Ctx => (c.path.mask, (c.wave.path1.map fun p => p.mask), c.path.pc.toNat % 64, (c.wave.path1.map fun p => p.pc)))
    (after (.bra false 1 1) ((several 5 []).modWave 1 0 fun w => { w with p := [(1, 0x0A)] })) = (0x15, some 0x0A, 4, some 0x30040) := by
  decide +kernel
/-- The spec's wave packed to E2M1 with a block scale of 2: the codes of eight elements, and the scale byte. -/
theorem test_npack : (fun c : Ctx => (c.v32 0 (.w 4), c.v32 3 (.w 4), c.v32 4 (.w 4), c.v32 5 (.w 4)))
    (after (.npack (.w 4) (.w 3) .z 1) ((several 32 []).modWave 1 0 (fun w => { w with w := (List.range 32).map fun t =>
      (2048 * t + 3, [0, 0x3F400000, 0xBFC00000, 0x40200000, 0x40A00000, 0xC1400000, 0x40400000, 0x3E4CCCCD].getD (t % 8) 0) })
      |>.modPath ref fun p => { p with fmt := [0, 0x80254, 0, 0] })) = (0x03F42A10, 0x03F42A10, 128, 0) := by decide +kernel
/-- R161: a halfword is read with its sign, lowest byte first. -/
theorem test_load_sign : (after (.ldSI16 (.w 1) .z 1 .wv .rlx) (chGroup fun g => { g with sp := [(2, 0xFE), (3, 0x80)] })).v32 0 (.w 1) = 0xFFFF80FE := by
  decide +kernel
/-- R164: an atomic writes its new value and returns the old one. -/
theorem test_atomic : (fun c : Ctx => (c.v32 0 (.w 1), c.group.sp.bytes 4 4)) (after (.atomS (.w 1) .z .add .wv .rlx)
    ((chWave fun w => { w with w := [(1, 3)] }).modGroup 1 fun g => { g with sp := [(0, 0xFF)] })) = (0xFF, [0, 0, 0, 0]) := by decide +kernel
/-- R112, R113: a carry into the high half; an unsigned comparison. -/
theorem test_sadd64 : (after (.saddI64 (.s 2) (.s 4) (.s 6)) (chPath fun p => { p with s := [(4, 0xFFFFFFFF), (6, 1)] })).s64 (.s 2) = 0x100000000 := by
  decide +kernel
/-- R132, R365 to R367: `trap` enters the handler at P1, and saves the address of the word after it. -/
theorem test_trap : (fun c : Ctx => (c.path.pc, c.path.priv, c.wave.trap.pc)) (after (.trap 7) st) = (0x31000, true, 0x30004) := by decide +kernel

/-! ### The spec's worked figures -/

/-- A tile that overflows is shifted by the least number of bits (R84): 32,732, and 4. -/
theorem test_renorm : renormShift [2 ^ 47 + 2 ^ 45 + 3, -7] = 4 := by decide +kernel
theorem test_renorm_empty : renormShift [2 ^ 32775] = 32732 := by decide +kernel
theorem test_renorm_values : (shiftRne (2 ^ 47 + 2 ^ 45 + 3) 4, shiftRne (-7) 4) = (2 ^ 43 + 2 ^ 41, 0) := by decide +kernel

/-! ### Witnesses of the statements' hypotheses -/

/-! ### Witnesses -/

/-- A step that takes up a `nop`. -/
def stepIn : State := boot 0x66000000
noncomputable def stepG : State := (({ stepIn.moveOn with agenda := [] } : State).granted ref).getD stepIn
noncomputable def step0 : State := { stepG with cur := some ref }
noncomputable def step1 : State := step0.modPath ref fun p => p.take 0x66000000

theorem witness_StepRunsDecodedWord :
    (({ stepIn.moveOn with agenda := [] } : State).granted ref = some stepG ∧ (cx step0).wave.loads = [])
    ∧ (stepIn.midSequence = none ∧ stepIn.agenda = [.issue ref] ∧ step0.ctxAt ref = some (cx step0) ∧ step1.ctxAt ref = some (cx step1)
      ∧ step0.running (cx step0).group = true ∧ (cx step0).wave.cancel = none ∧ (cx step0).wave.mayIssue (cx step0).launch = true
      ∧ (cx step0).path.seq = Seq.empty ∧ (cx step0).path.wait = .none ∧ (cx step0).path.failed = []
      ∧ step0.heldBack (cx step0) = false ∧ (cx step0).overBudget = false ∧ (cx step0).path.pc.toNat % 4 = 0)
    ∧ step0.fetch (cx step0) = .ok 0x66000000 ∧ decodeWord 0x66000000 = .ok .nop ∧ isPrefix 0x66000000 = false
    ∧ misused (cx step1).path.seq .nop = false :=
  ⟨⟨getD_of (by decide +kernel), by decide +kernel⟩, by decide +kernel, ok_of (by decide +kernel), by rfl, by rfl, by decide +kernel⟩

/-- The all-zero word (R39). -/
def badIn : State := boot 0
noncomputable def badG : State := (({ badIn.moveOn with agenda := [] } : State).granted ref).getD badIn
noncomputable def bad0 : State := { badG with cur := some ref }
noncomputable def bad1 : State := bad0.modPath ref fun p => p.take 0

theorem witness_IllegalWordTraps :
    (({ badIn.moveOn with agenda := [] } : State).granted ref = some badG ∧ (cx bad0).wave.loads = [])
    ∧ (badIn.midSequence = none ∧ badIn.agenda = [.issue ref] ∧ bad0.ctxAt ref = some (cx bad0) ∧ bad1.ctxAt ref = some (cx bad1)
      ∧ bad0.running (cx bad0).group = true ∧ (cx bad0).wave.cancel = none ∧ (cx bad0).wave.mayIssue (cx bad0).launch = true
      ∧ (cx bad0).path.seq = Seq.empty ∧ (cx bad0).path.wait = .none ∧ (cx bad0).path.failed = []
      ∧ bad0.heldBack (cx bad0) = false ∧ (cx bad0).overBudget = false ∧ (cx bad0).path.pc.toNat % 4 = 0)
    ∧ bad0.fetch (cx bad0) = .ok 0 ∧ (∃ e, decodeWord 0 = .error e ∧ e.num = 1) ∧ fOp 0 ≠ 0x7C :=
  ⟨⟨getD_of (by decide +kernel), by decide +kernel⟩, by decide +kernel, ok_of (by decide +kernel), ⟨_, rfl, rfl⟩, by decide⟩

theorem witness_EncodedWordDecodes : WellFormed (.addI32 (.w 1) (.w 2) (.w 3)) = true
    ∧ encode (.addI32 (.w 1) (.w 2) (.w 3)) = some 0x02041030 := by constructor <;> rfl

theorem witness_DecodedWordEncodes : decodeWord 0x02041030 = .ok (.addI32 (.w 1) (.w 2) (.w 3)) := by rfl

theorem witness_EveryStepKeepsMemoryCanonical : stepIn.MemOk ∧ ∃ t, step stepIn = .next t := by
  refine ⟨by unfold State.MemOk; decide +kernel, ?_⟩
  exact next_of (by decide +kernel)

theorem witness_IntegerWordsComplete : (∃ f, IntegerRow (.addI32 (.w 1) (.w 2) .imm) (narrow [.w 2, .imm]) (.w 1) f)
    ∧ (∃ f, ExchangeRow (.shflUp (.w 1) (.w 2) .imm) (narrow [.w 2, .imm]) (.w 1) f) ∧ st.ctx = some (cx st)
    ∧ (cx st).Readable (cx st).perf (narrow [.w 2, .imm]) :=
  ⟨⟨_, .addI32 ..⟩, ⟨_, .shflUp ..⟩, by decide +kernel, by unfold Ctx.Readable; decide +kernel⟩

theorem witness_WideAndPredicateWordsComplete :
    ((∃ f, WideRow (.addI64 (.w 2) (.w 94) .imm) (wide [.w 94, .imm]) (.w 2) f) ∧ WellFormed (.addI64 (.w 2) (.w 94) .imm) = true
      ∧ st.ctx = some (cx st) ∧ (cx st).Readable (cx st).perf (wide [.w 94, .imm]))
    ∧ (∃ f, PredicateRow (.setpI32 .lt 7 (.w 95) .ix) (narrow [.w 95, .ix]) 7 f)
      ∧ (cx st).Readable (cx st).perf (narrow [.w 95, .ix]) :=
  ⟨⟨⟨_, .addI64 ..⟩, by decide +kernel, by decide +kernel, by unfold Ctx.Readable; decide +kernel⟩, ⟨_, .setpI32 ..⟩,
    by unfold Ctx.Readable; decide +kernel⟩

theorem witness_FloatWordsComplete : (∃ f, FloatRow (.fmaF32 (.w 1) (.w 2) (.w 3) .rd) (narrow [.w 2, .w 3, srcOf (.w 1)]) (.w 1) f)
    ∧ (∃ f, FunctionRow (.divF32 (.w 1) (.w 2) (.w 3)) (narrow [.w 2, .w 3]) (.w 1) f) ∧ st.ctx = some (cx st)
    ∧ (cx st).Readable (cx st).perf (narrow [.w 2, .w 3, srcOf (.w 1)]) ∧ (cx st).Readable (cx st).perf (narrow [.w 2, .w 3]) :=
  ⟨⟨_, .fmaF32 ..⟩, ⟨_, .divF32 ..⟩, by decide +kernel, by unfold Ctx.Readable; decide +kernel, by unfold Ctx.Readable; decide +kernel⟩

/-- A format with `SCALE` 2, whose scale operand is read (R107). -/
def stScale : State := chPath fun p => { p with fmt := [0x100008, 0, 0, 0] }

theorem witness_ConversionWordsComplete :
    (WellFormed (.cvt (.w 2) (.w 4) .sr .u64 .f32) = true ∧ st.ctx = some (cx st) ∧ (cx st).Readable (cx st).perf [⟨.w 4, false⟩])
    ∧ (fmtW ((cx st).fmt 0) ≠ 11 ∧ fmtScale ((cx st).fmt 0) ≠ 2)
    ∧ (stScale.ctx = some (cx stScale) ∧ (cx stScale).Readable (cx stScale).perf [⟨.w 1, false⟩] ∧ fmtW ((cx stScale).fmt 0) ≠ 11
      ∧ fmtScale ((cx stScale).fmt 0) = 2 ∧ (cx stScale).Readable (cx stScale).perf [⟨.w 2, false⟩]
      ∧ ∀ t ∈ (cx stScale).perf, ∀ u ∈ (cx stScale).perf, (cx stScale).v32 t (.w 2) &&& 0xFF = (cx stScale).v32 u (.w 2) &&& 0xFF)
    ∧ WellFormed (.isect (.w 2) (.w 3) (.w 4)) = true ∧ (cx st).Readable (cx st).perf (narrow [.w 3, .w 4]) := by
  unfold Ctx.Readable; decide +kernel

theorem witness_SpecialRegisterReads : st.ctx = some (cx st) ∧ WellFormed (.getsVector (.w 2) .nsclk) = true
    ∧ WellFormed (.getsScalar (.s 62) .qcount) = true ∧ (cx st).Guarded := by
  unfold Ctx.Guarded; decide +kernel

theorem witness_ScalarWordsComplete : st.ctx = some (cx st) ∧ (cx st).Guarded
    ∧ (∃ f, ScalarRow (.saddI32 (.s 0) (.s 63) .imm) [(.s 63, false), (.imm, false)] (.s 0) f)
    ∧ (cx st).SReadable [(.s 63, false), (.imm, false)]
    ∧ (∃ f, WideScalarRow (.saddI64 (.s 0) (.s 62) .imm) [(.s 62, true), (.imm, true)] (.s 0) f)
    ∧ WellFormed (.saddI64 (.s 0) (.s 62) .imm) = true ∧ (cx st).SReadable [(.s 62, true), (.imm, true)]
    ∧ ∃ f, CompareRow (.scmpEqI32 1 (.s 63) .imm) [(.s 63, false), (.imm, false)] 1 f := by
  refine ⟨by decide +kernel, by unfold Ctx.Guarded; decide +kernel, ⟨_, .saddI32 ..⟩, sreadable (by decide +kernel) _, ⟨_, .saddI64 ..⟩, by decide,
    sreadable (by decide +kernel) _, ⟨_, .scmpEqI32 ..⟩⟩

/-- The first uniform register holds a value; register `w2` of thread 0 does. -/
def stS (v : Word) : State := chPath fun p => { p with s := [(0, v)] }
def stW (v : Word) : State := chWave fun w => { w with w := [(2, v)] }

theorem witness_GuardedOffWordPasses : GuardedRow (cx stOff).path.priv (.setfmt 0 10) ∧ GuardedRow false (.aclr 127)
    ∧ GuardedRow true (.csrr (.s 0) .tcause) ∧ stOff.ctx = some (cx stOff) ∧ (cx stOff).GuardedOff := by
  refine ⟨.setfmt .., .aclr _ rfl, .csrr _ _ rfl, by decide +kernel, by unfold Ctx.GuardedOff; decide +kernel⟩

theorem witness_SetterWordsComplete : ((stS 10).ctx = some (cx (stS 10)) ∧ fmtValid ((cx (stS 10)).s32 (.s 0)) = true)
    ∧ ((stS 11).ctx = some (cx (stS 11)) ∧ (cx (stS 11)).Guarded ∧ ((cx (stS 11)).s32 (.s 0)).toNat = 11)
    ∧ ((stS 0xFF40).ctx = some (cx (stS 0xFF40)) ∧ ((cx (stS 0xFF40)).s32 (.s 0)).toNat < 2 ^ 16
      ∧ ((cx (stS 0xFF40)).s32 (.s 0)).toNat % 256 = 64)
    ∧ st.ctx = some (cx st) ∧ (cx st).Guarded ∧ (cx st).SReadable [(.s 0, false)] := by
  refine ⟨by decide +kernel, by unfold Ctx.Guarded; decide +kernel, by decide +kernel, by decide +kernel, by unfold Ctx.Guarded; decide +kernel, sreadable (by decide +kernel) _⟩

theorem witness_TrapEntersHandler : st.ctxAt (cx st).ref = some (cx st) ∧ (cx st).path.priv = false
    ∧ (cx st).wave.owner ≠ some (!(cx st).ref.slot) ∧ (cx st).launch.handler ≠ 0 ∧ Cause.illegal ≠ .cancel := by decide +kernel

/-- The other path's trap is in the record. -/
def stOther : State := chWave fun w => { w with owner := some true }

theorem witness_SecondTraps : (st1.ctxAt (cx st1).ref = some (cx st1) ∧ (cx st1).path.priv = true)
    ∧ stOther.ctxAt (cx stOther).ref = some (cx stOther) ∧ (cx stOther).path.priv = false
    ∧ (cx stOther).wave.owner = some (!(cx stOther).ref.slot) := by decide +kernel

theorem witness_PrivilegeTraps : (st.ctx = some (cx st) ∧ PrivRow (cx st).path.priv .tret ∧ PrivRow true (.tlbinvAll .z))
    ∧ st1.ctx = some (cx st1) ∧ UserRow .bar ∧ (cx st1).path.priv = true :=
  ⟨⟨by decide +kernel, .tret (by decide +kernel), .tlbinvAll _⟩, by decide +kernel, .bar, by decide +kernel⟩

/-- One latch filled. -/
def stLatch : State := chPath fun p => { p with latch := [(0, 7)], fill := [(0, 1)] }

theorem witness_OperandTraps :
    ((∃ f, IntegerRow (.addI32 (.w 1) (.h 0) (.h 1)) (narrow [.h 0, .h 1]) (.w 1) f) ∧ stLatch.ctx = some (cx stLatch)
      ∧ (cx stLatch).perf.filter (fun t => (narrow [.h 0, .h 1]).any fun x => match x.op with
          | .h k => decide (((cx stLatch).path.fill.get t).toNat ≤ k.val)
          | _ => false) = [0]
      ∧ ∀ t ∈ (cx stLatch).perf, ∀ x ∈ narrow [.h 0, .h 1], (cx stLatch).badUnit t x = none)
    ∧ ((∃ f, GlLoadRow (.ldG (.w 1) (.w 2) 0 .wv .rlx) (.w 1) (.w 2) (4 * (0 : BitVec 6).toNat) 4 false .wv .rlx f)
      ∧ GlStoreRow (.stGB64 (.w 4) (.w 2) 63 .wv .rlx) (.w 4) (.w 2) (8 * (63 : BitVec 6).toNat) 8 .wv .rlx
      ∧ (stW 2).ctx = some (cx (stW 2)) ∧ (cx (stW 2)).Readable (cx (stW 2)).perf [⟨.w 2, true⟩, ⟨.w 4, true⟩]
      ∧ (cx (stW 2)).perf.filter (fun t => ((cx (stW 2)).v64 t (.w 2) + BitVec.ofNat 64 0).toNat % 4 != 0) = [0]
      ∧ (cx (stW 2)).perf.filter (fun t => ((cx (stW 2)).v64 t (.w 2) + BitVec.ofNat 64 504).toNat % 8 != 0) = [0])
    ∧ (∃ f, SpLoadRow (.ldS (.w 1) (.w 2) 0 .wv .rlx) (.w 1) (.w 2) (4 * (0 : BitVec 6).toNat) 4 false .wv .rlx f)
      ∧ SpStoreRow (.stS (.w 3) (.w 2) 0 .wv .rlx) (.w 3) (.w 2) (4 * (0 : BitVec 6).toNat) 4 .wv .rlx
      ∧ (stW 65536).ctx = some (cx (stW 65536)) ∧ (cx (stW 65536)).Readable (cx (stW 65536)).perf [⟨.w 2, false⟩, ⟨.w 3, false⟩]
      ∧ (cx (stW 2)).perf.filter (fun t => ((cx (stW 2)).v32 t (.w 2) + BitVec.ofNat 32 0).toNat % 4 != 0) = [0]
      ∧ Aligned (fun t => ((cx (stW 65536)).v32 t (.w 2) + BitVec.ofNat 32 0).toNat) 4 (cx (stW 65536)).perf
      ∧ (cx (stW 65536)).perf.filter (fun t => match (stW 65536).spPlace (cx (stW 65536)).group true
            ((cx (stW 65536)).v32 t (.w 2) + BitVec.ofNat 32 0).toNat 4 with | .error _ => true | .ok _ => false) = [0]
      ∧ (match (stW 65536).spPlace (cx (stW 65536)).group true 65536 4 with | .error .perm => true | _ => false) = false := by
  refine ⟨⟨⟨_, .addI32 ..⟩, by decide +kernel, by decide +kernel, by decide +kernel⟩, ⟨⟨_, .ldG ..⟩, .stGB64 .., ?_⟩, ⟨_, .ldS ..⟩, .stS .., ?_⟩
  · unfold Ctx.Readable; decide +kernel
  · unfold Ctx.Readable Aligned; decide +kernel

/-- Predicate `p1` holds in thread 0 of two. -/
def stP : State := st2.modWave 1 0 fun w => { w with p := [(1, 1)] }
/-- The window of thread 0 one frame up; a path without threads. -/
def stWin : State := chWave fun w => { w with wb := [(0, 32)] }
def stEmpty : State := chPath fun p => { p with mask := 0 }

theorem witness_TransfersStayOrMove :
    (∀ x, ∃ pre ts w, TransferRow (.bra true 0 x) pre (fun c => c.blockAt x) ts w ∧ pre (cx st) ∧ ts (cx st) = [])
    ∧ (∀ x, ∃ pre ts w, TransferRow (.bru false 0 x) pre (fun c => c.blockAt x) ts w ∧ pre (cx st) ∧ ts (cx st) ≠ []
        ∧ maskOf (ts (cx st)) = (cx st).path.mask)
    ∧ (∀ x, ∃ pre ts w, TransferRow (.call x) pre (fun c => c.blockAt x) ts w ∧ pre (cx st) ∧ maskOf (ts (cx st)) = (cx st).path.mask)
    ∧ (∃ pre target ts w, TransferRow (.calli (.w 2)) pre target ts w ∧ pre (cx (stW 64)) ∧ target (cx (stW 64)) = 64)
    ∧ (∃ pre target ts w, TransferRow .ret pre target ts w ∧ pre (cx stWin) ∧ ts (cx stWin) = [0])
    ∧ (st.ctx = some (cx st) ∧ (stW 64).ctx = some (cx (stW 64)) ∧ stWin.ctx = some (cx stWin))
    ∧ stEmpty.ctx = some (cx stEmpty) ∧ (cx stEmpty).path.mask = 0 := by
  refine ⟨fun x => ⟨_, _, _, .bra .., ?_, ?_⟩, fun x => ⟨_, _, _, .bru .., ?_, ?_, ?_⟩, fun x => ⟨_, _, _, .call .., ?_, ?_⟩,
    ⟨_, _, _, _, .calli .., ?_, ?_⟩, ⟨_, _, _, _, .ret, ?_, ?_⟩, ?_, ?_⟩
  all_goals first
    | decide +kernel
    | (unfold Ctx.WindowFits; decide +kernel)
    | (unfold Ctx.Readable Ctx.Agree Ctx.WindowFits; decide +kernel)
    | (unfold Ctx.Readable Ctx.WindowFits; decide +kernel)

/-- Both slots taken, at a depth of the divergence stack. -/
def stDeep (n : Nat) : State := stP.modWave 1 0 fun w => { w with depth := n, path1 := some { Path.fresh 0 0 with mask := 4 } }

theorem witness_TransfersSplit : ∃ pre target ts w, TransferRow (.bra false 1 0x100000) pre target ts w
    ∧ (stP.ctx = some (cx stP) ∧ pre (cx stP) ∧ ts (cx stP) = [0] ∧ maskOf (ts (cx stP)) ≠ (cx stP).path.mask
      ∧ (cx stP).wave.path? (!(cx stP).ref.slot) = none)
    ∧ ((stDeep 15).ctx = some (cx (stDeep 15)) ∧ pre (cx (stDeep 15)) ∧ ts (cx (stDeep 15)) = [0]
      ∧ ((cx (stDeep 15)).wave.path? (!(cx (stDeep 15)).ref.slot)).isSome = true
      ∧ (cx (stDeep 15)).wave.depth < (cx (stDeep 15)).launch.dsdepth
      ∧ ∃ s2, (stDeep 15).storeRecord (cx (stDeep 15)) (cx (stDeep 15)).wave.depth
          (recordBytes ((cx (stDeep 15)).leaves 1 (target (cx (stDeep 15)))) false (target (cx (stDeep 15)))) = .ok s2)
    ∧ (stDeep 16).ctx = some (cx (stDeep 16)) ∧ pre (cx (stDeep 16)) ∧ ts (cx (stDeep 16)) = [0]
      ∧ ((cx (stDeep 16)).wave.path? (!(cx (stDeep 16)).ref.slot)).isSome = true
      ∧ (cx (stDeep 16)).launch.dsdepth ≤ (cx (stDeep 16)).wave.depth := by
  refine ⟨_, _, _, _, .bra .., ?_, ⟨?_, ?_, ?_, ?_, ?_, is_ok ?_⟩, ?_⟩
  all_goals decide +kernel

/-- One thread, whose window may still move up by 160 registers. -/
theorem witness_WindowAndMaskWords :
    ((stW 160).ctx = some (cx (stW 160)) ∧ (cx (stW 160)).path.priv = false ∧ (cx (stW 160)).Readable (cx (stW 160)).perf [⟨.w 2, false⟩]
      ∧ (cx (stW 160)).WindowFits (fun t => ((cx (stW 160)).v32 t (.w 2)).toInt) (cx (stW 160)).perf)
    ∧ st2.ctx = some (cx st2) ∧ (cx st2).Readable ((cx st2).readers (.w 2)) [⟨.w 2, false⟩]
      ∧ ∀ t ∈ (cx st2).readers (.w 2), ∀ u ∈ (cx st2).readers (.w 2), (cx st2).v32 t (.w 2) = (cx st2).v32 u (.w 2) := by
  unfold Ctx.Readable Ctx.WindowFits; decide +kernel

/-- The path is one side of an open split; the other side stands in the other slot, or on the stack. -/
def side (n : Nat) (taken : Bool) (w : Wait) (p : Path) : Path := { p with split := some (n, taken), wait := w }
def stSplit (ended : Bool) : State :=
  (chPath (side 5 false .none)).modWave 1 0 fun w => { w with splits := [⟨5, none, [0, 0, 0, 0], 0, ended⟩] }
def stPair (w : Wait) : State :=
  (stSplit false).modWave 1 0 fun v => { v with path1 := (v.path0.map fun p => side 5 true w { p with mask := 2 }) }
def aShadow (wait : Bool) : Shadow :=
  ⟨2, some (5, true), wait, false, 0,
    recordBytes (Path.fresh (BitVec.ofNat 64 bootPc) 2) wait (BitVec.ofNat 64 (bootPc + 4 * wait.toNat))⟩
def stStacked (wait : Bool) : State :=
  let s := (stSplit false).modWave 1 0 fun v => { v with depth := 1, stack := [aShadow wait] }
  ((s.storeRecord (cx s) 0 (aShadow wait).bytes).toOption).getD s

theorem witness_JoinWords :
    (st.ctx = some (cx st) ∧ (cx st).path.split = none)
    ∧ ((stSplit true).ctx = some (cx (stSplit true)) ∧ (cx (stSplit true)).path.split = some (5, false)
      ∧ ((cx (stSplit true)).wave.split? 5).map (fun e => e.ended) = some true)
    ∧ ((stPair .none).ctx = some (cx (stPair .none)) ∧ (cx (stPair .none)).path.split = some (5, false)
      ∧ ((cx (stPair .none)).wave.split? 5).map (fun e => e.ended) = some false
      ∧ ((cx (stPair .none)).wave.path? true).map (fun q => (q.split, q.wait)) = some (some (5, true), .none))
    ∧ ((stSplit false).ctx = some (cx (stSplit false)) ∧ (cx (stSplit false)).wave.path? true = none ∧ (cx (stSplit false)).wave.stack = [])
    ∧ ((stPair .join).ctx = some (cx (stPair .join)) ∧ ((cx (stPair .join)).wave.split? 5).map (fun e => e.ended) = some false
      ∧ ((cx (stPair .join)).wave.path? true).map (fun q => (q.split, q.wait, q.pc)) = some (some (5, true), .join, (cx (stPair .join)).path.pc)
      ∧ (cx (stPair .join)).wave.stack = [])
    ∧ ∀ wait, (stStacked wait).ctx = some (cx (stStacked wait)) ∧ (cx (stStacked wait)).path.split = some (5, false)
      ∧ ((cx (stStacked wait)).wave.split? 5).map (fun e => e.ended) = some false ∧ (cx (stStacked wait)).wave.path? true = none
      ∧ (cx (stStacked wait)).wave.stack.head? = some (aShadow wait)
      ∧ (((stStacked wait).readRecord (cx (stStacked wait)) ((cx (stStacked wait)).wave.depth - 1)).toOption.map fun bs =>
          (recordPath (aShadow wait) bs).pc) = some (cx (stStacked wait)).path.pc
      ∧ ((stStacked wait).storeRecord (cx (stStacked wait)) ((cx (stStacked wait)).wave.depth - 1)
          (recordBytes { (cx (stStacked wait)).path with seq := Seq.empty } true ((cx (stStacked wait)).path.pc + 4))).toOption.isSome = true := by
  decide +kernel

/-- The guard holds in one thread of two. -/
def stHalf : State := stP.modPath ref fun p => { p with seq := { p.seq with guard := some (false, 1) } }

/-- The path ends: alone, beside a path that waits for it or not, over a record of the other side or of an outer path. -/
def ending (s : State) : Prop :=
  s.ctx = some (cx s) ∧ s.NoneHeld (cx s).ref ∧ maskOf (cx s).perf = (cx s).path.mask ∧ (cx s).path.priv = false
def outer : Shadow := ⟨2, none, false, false, 0, recordBytes (Path.fresh 64 2) false 64⟩
def stOuter : State :=
  let s := st.modWave 1 0 fun v => { v with depth := 1, stack := [outer] }
  ((s.storeRecord (cx s) 0 outer.bytes).toOption).getD s

theorem witness_ExitEndsThreads :
    (stHalf.ctx = some (cx stHalf) ∧ stHalf.NoneHeld (cx stHalf).ref ∧ maskOf (cx stHalf).perf ≠ (cx stHalf).path.mask
      ∧ (cx stHalf).perf = [0])
    ∧ (ending st ∧ (cx st).path.split = none ∧ (cx st).wave.stack = [])
    ∧ (∀ w ∈ [Wait.none, .join], ending (stPair w) ∧ (cx (stPair w)).path.split = some (5, false)
      ∧ ((cx (stPair w)).wave.split? 5).map (fun e => e.ended) = some false ∧ (cx (stPair w)).wave.stack = []
      ∧ ((cx (stPair w)).wave.path? true).map (fun q => (q.split, q.wait)) = some (some (5, true), w))
    ∧ (ending (stStacked true) ∧ (cx (stStacked true)).path.split = some (5, false)
      ∧ ((cx (stStacked true)).wave.split? 5).map (fun e => e.ended) = some false ∧ (cx (stStacked true)).wave.path? true = none
      ∧ (cx (stStacked true)).wave.stack = [aShadow true]
      ∧ ∃ bs, (stStacked true).readRecord (cx (stStacked true)) ((cx (stStacked true)).wave.depth - 1) = .ok bs)
    ∧ ending stOuter ∧ (cx stOuter).path.split = none ∧ (cx stOuter).wave.stack = [outer]
      ∧ ∃ bs, stOuter.readRecord (cx stOuter) ((cx stOuter).wave.depth - 1) = .ok bs := by
  unfold ending State.NoneHeld
  refine ⟨by decide +kernel, by decide +kernel, fun w h => ?_, ⟨?_, ?_, ?_, ?_, ?_, is_ok ?_⟩, ?_, ?_, ?_, is_ok ?_⟩
  · simp only [List.mem_cons, List.not_mem_nil, or_false] at h
    rcases h with rfl | rfl <;> decide +kernel
  all_goals decide +kernel

theorem witness_GetmaskWord : st.ctx = some (cx st) := by decide +kernel

/-- The last word of a chain; a deadline that has come. -/
def stChain : State := chPath fun p => { p with pc := p.pc + 56, seq := { p.seq with chain := 2, imm := 2 ^ 50 - 1 } }
def stTime (k : Nat) : State := chPath fun p => { p with wait := .time k }

theorem witness_PlainWords :
    (st.ctx = some (cx st) ∧ (cx st).path.seq.guard = none ∧ (cx st).path.seq.chain = 0 ∧ (cx st).path.pc.toNat % 64 ≠ 60)
    ∧ (stChain.ctx = some (cx stChain) ∧ (cx stChain).path.seq.chain = 2 ∧ (cx stChain).path.pc.toNat % 64 = 56)
    ∧ ((stTime 0).ctx = some (cx (stTime 0)) ∧ (cx (stTime 0)).path.wait = .time 0 ∧ (cx (stTime 0)).launch.repro = false
      ∧ 0 ≤ (stTime 0).ns.toNat)
    ∧ ((chPath fun p => { p with deadline := some 7 }).ctx.map (fun c => (c.path.wait, c.path.deadline)) = some (.none, some 7))
    ∧ (∀ k, (cx st).path.wait ≠ .time k) ∧ (cx st).path.deadline = none ∧ (cx st).SReadable [(.s 0, false)] ∧ (cx st).launch.repro = false
    ∧ (cx st).Readable ((cx st).readers (.w 2)) [⟨.w 2, true⟩] ∧ (cx st).Agree ((cx st).readers (.w 2)) (.w 2) := by
  refine ⟨by decide +kernel, by decide +kernel, by decide +kernel, by decide +kernel, fun k h => ?_, by decide +kernel,
    sreadable (by decide +kernel) _, by decide +kernel, by unfold Ctx.Readable; decide +kernel, by unfold Ctx.Agree; decide +kernel⟩
  have e : (cx st).path.wait = .none := by decide +kernel
  rw [e] at h; cases h

/-- In its handler, with a thread of two to be ended. -/
def stKill : State := (st2.modPath ref fun p => { p with priv := true }).modWave 1 0 fun w =>
  { w with trap := { w.trap with kill := 1 } }

theorem witness_TrapAndReturnWords :
    st.ctx = some (cx st)
    ∧ (st1.ctx = some (cx st1) ∧ (cx st1).path.priv = true ∧ (cx st1).wave.queued = none
      ∧ (cx st1).wave.trap.kill &&& (cx st1).path.mask ≠ (cx st1).path.mask)
    ∧ (stKill.ctx = some (cx stKill) ∧ (cx stKill).path.priv = true ∧ (cx stKill).wave.queued = none
      ∧ (cx stKill).wave.trap.kill &&& (cx stKill).path.mask = 1 ∧ (cx stKill).path.mask = 3) := by decide +kernel

/-- The last word of the scratchpad of `st`, its last row, and one of global memory. -/
def stLast : State := stW 65532
def stRow : State := stW 65504
def stG : State := stW 0x40000
/-- An address in a thread of `c`. -/
def ea32 (c : Ctx) (k : Nat) (t : Nat) : Nat := (c.v32 t (.w 2) + BitVec.ofNat 32 k).toNat
def ea64 (c : Ctx) (k : Nat) (t : Nat) : Nat := (c.v64 t (.w 2) + BitVec.ofNat 64 k).toNat

theorem witness_ScratchpadLoadsComplete : ∃ (s : State) (c : Ctx) (f : List Byte → DWord) (p : Nat → SpPlace),
    SpLoadRow (.ldS (.w 1) (.w 2) 0 .wv .rlx) (.w 1) (.w 2) (4 * (0 : BitVec 6).toNat) 4 false .wv .rlx f
    ∧ s.ctx = some c ∧ c.Readable c.perf [⟨.w 2, false⟩] ∧ Aligned (ea32 c 0) 4 c.perf ∧ s.SpLoads c true (ea32 c 0) 4 c.perf p
    ∧ c.First ∧ s.NoPromote .wv .rlx ∧ ∀ t ∈ c.perf, c.Apart (.w 1) t (p t) := by
  refine ⟨stLast, cx stLast, _, fun _ => .sp 1 65532, .ldS .., by decide +kernel, ?_, ?_, sploads (by decide +kernel),
    by unfold Ctx.First Ctx.Together; decide +kernel, nofun, fun _ _ => trivial⟩
  · unfold Ctx.Readable; decide +kernel
  · unfold Aligned; decide +kernel

theorem witness_GlobalLoadsComplete : ∃ (s : State) (c : Ctx) (f : List Byte → DWord) (p : Nat → Phys),
    GlLoadRow (.ldGB64 (.w 4) (.w 2) 63 .wv .rlx) (.w 4) (.w 2) (8 * (63 : BitVec 6).toNat) 8 true .wv .rlx f
    ∧ s.ctx = some c ∧ c.Readable c.perf [⟨.w 2, true⟩] ∧ Aligned (ea64 c 504) 8 c.perf ∧ s.GLoads c (ea64 c 504) 8 c.perf p
    ∧ c.First ∧ s.NoPromote .devRm .acq := by
  refine ⟨stG, cx stG, _, fun _ => ⟨.dev, 0x401F8⟩, .ldGB64 .., by decide +kernel, ?_, ?_, gloads (by decide +kernel),
    by unfold Ctx.First Ctx.Together; decide +kernel, fun _ _ => by decide +kernel⟩
  · unfold Ctx.Readable; decide +kernel
  · unfold Aligned; decide +kernel

/-- The load of the one thread reads later. -/
def later (s : State) : State := ({ s with relaxed := true }).modPath ref fun p => { p with defer := 1 }
theorem witness_LoadsReadLater :
    ((later stG).ctx = some (cx (later stG)) ∧ (cx (later stG)).Readable (cx (later stG)).perf [⟨.w 2, true⟩]
      ∧ Aligned (ea64 (cx (later stG)) 504) 8 (cx (later stG)).perf
      ∧ (later stG).GLoads (cx (later stG)) (ea64 (cx (later stG)) 504) 8 (cx (later stG)).perf (fun _ => ⟨.dev, 0x401F8⟩)
      ∧ (later stG).NoPromote .wv .rlx ∧ (cx (later stG)).ReadsLater (later stG) .rlx ∧ (cx (later stG)).Together)
    ∧ (later stLast).ctx = some (cx (later stLast)) ∧ (cx (later stLast)).Readable (cx (later stLast)).perf [⟨.w 2, false⟩]
      ∧ Aligned (ea32 (cx (later stLast)) 0) 4 (cx (later stLast)).perf
      ∧ (later stLast).SpLoads (cx (later stLast)) true (ea32 (cx (later stLast)) 0) 4 (cx (later stLast)).perf (fun _ => .sp 1 65532)
      ∧ (later stLast).NoPromote .wv .rlx ∧ (cx (later stLast)).ReadsLater (later stLast) .rlx ∧ (cx (later stLast)).Together := by
  refine ⟨⟨?_, ?_, ?_, gloads ?_, nofun, ?_, ?_⟩, ?_, ?_, ?_, sploads ?_, nofun, ?_, ?_⟩
  all_goals first
    | decide +kernel
    | (unfold Ctx.Readable; decide +kernel)
    | (unfold Aligned; decide +kernel)
    | (unfold Ctx.ReadsLater; decide +kernel)
    | (unfold Ctx.Together; decide +kernel)

/-- What the statements assume of a wave that no turn of the memory model concerns. -/
def clear (s : State) (c : Ctx) : Prop := s.ctx = some c ∧ c.First ∧ s.NoneHeld c.ref

theorem witness_ScratchpadStoresComplete : ∀ relaxed : Bool, ∃ (s : State) (c : Ctx),
    s.relaxed = relaxed ∧ SpStoreRow (.stS (.w 4) (.w 2) 0 .wv .rlx) (.w 4) (.w 2) (4 * (0 : BitVec 6).toNat) 4 .wv .rlx
    ∧ SpStoreRow (.stS (.w 4) (.w 2) 0 .bd .rel) (.w 4) (.w 2) (4 * (0 : BitVec 6).toNat) 4 .bd .rel
    ∧ SpStoreRow (.stS (.w 4) (.w 2) 0 .gr .rel) (.w 4) (.w 2) (4 * (0 : BitVec 6).toNat) 4 .gr .rel
    ∧ scopeLevel .bd = 2 ∧ scopeLevel .gr < 2
    ∧ clear s c ∧ s.NoneEarly c.ref ∧ c.Readable c.perf [⟨.w 2, false⟩, ⟨.w 4, false⟩] ∧ Aligned (ea32 c 0) 4 c.perf
    ∧ s.SpStores c true (ea32 c 0) 4 c.perf (fun _ => .sp 1 65532) := by
  unfold clear Ctx.First Ctx.Together State.NoneHeld State.NoneEarly Ctx.Readable Aligned
  intro b
  refine ⟨{ stLast with relaxed := b }, cx { stLast with relaxed := b }, rfl, .stS .., .stS .., .stS .., rfl, by decide, ?_, ?_, ?_, ?_,
    spstores (by revert b; decide +kernel)⟩
  all_goals revert b; decide +kernel

/-- A store to register `w0` of the wave itself, through the aperture. -/
def stAper : State := { stW (2 ^ 30) with relaxed := true }
theorem witness_ScratchpadStoresComplete_register : clear stAper (cx stAper) ∧ (cx stAper).perf = [0]
    ∧ (cx stAper).Readable (cx stAper).perf [⟨.w 2, false⟩, ⟨.w 4, false⟩] ∧ Aligned (ea32 (cx stAper) 0) 4 (cx stAper).perf
    ∧ stAper.SpStores (cx stAper) true (ea32 (cx stAper) 0) 4 (cx stAper).perf (fun _ => .reg 1 0 0 0 0) := by
  unfold clear Ctx.First Ctx.Together State.NoneHeld Ctx.Readable Aligned
  exact ⟨by decide +kernel, by decide +kernel, by decide +kernel, by decide +kernel, spstores (by decide +kernel)⟩

/-- A reproducible launch, whose commit buffer has room for one operation. -/
def stRepro : State := (stG.modLaunch 0 fun l => Launch.with l 199).modWave 1 0 fun w =>
  { w with cbuf := List.replicate 511 (.store ⟨.dev, 0⟩ []) }

theorem translates {s : State} {c : Ctx} {k : Access} {ea : Nat → Nat} {n : Nat} {ts : List Nat} {p : Nat → Phys}
    (h : ∀ t ∈ ts, (s.translate c.group.die c.launch.ctx c.path.priv k (ea t) n).toOption = some (p t)) :
    ∀ t ∈ ts, s.translate c.group.die c.launch.ctx c.path.priv k (ea t) n = .ok (p t) := fun t ht => ok_of (h t ht)

/-- Where the model shows what the memory model allows (log 7). -/
def stGr : State := { stG with relaxed := true }

theorem witness_GlobalStoresComplete :
    GlStoreRow (.stGB64 (.w 4) (.w 2) 1 .wv .rlx) (.w 4) (.w 2) (8 * (1 : BitVec 6).toNat) 8 .wv .rlx
    ∧ (∀ m, GlStoreRow (.stGB64 (.w 4) (.w 2) 1 m .rel) (.w 4) (.w 2) (8 * (1 : BitVec 6).toNat) 8 m .rel)
    ∧ scopeLevel .dev = 4 ∧ scopeLevel .die < 4
    ∧ (∃ (s : State) (c : Ctx), clear s c ∧ c.Readable c.perf [⟨.w 2, true⟩, ⟨.w 4, true⟩] ∧ Aligned (ea64 c 8) 8 c.perf
      ∧ c.launch.repro = false ∧ s.relaxed = false ∧ ∃ u ps, s.stores c (ea64 c 8) (c.low (.w 4) 8) c.perf = some (u, ps))
    ∧ (∃ (s : State) (c : Ctx), clear s c ∧ c.Readable c.perf [⟨.w 2, true⟩, ⟨.w 4, true⟩] ∧ Aligned (ea64 c 8) 8 c.perf
      ∧ c.launch.repro = true ∧ c.wave.cbuf.length + c.perf.length = 512
      ∧ ∀ t ∈ c.perf, s.translate c.group.die c.launch.ctx c.path.priv .store (ea64 c 8 t) 8 = .ok ⟨.dev, 0x40008⟩)
    ∧ ∃ (s : State) (c : Ctx), clear s c ∧ c.Readable c.perf [⟨.w 2, true⟩, ⟨.w 4, true⟩] ∧ Aligned (ea64 c 8) 8 c.perf
      ∧ c.launch.repro = false ∧ s.relaxed = true
      ∧ ∀ t ∈ c.perf, s.translate c.group.die c.launch.ctx c.path.priv .store (ea64 c 8 t) 8 = .ok ⟨.dev, 0x40008⟩ := by
  unfold clear Ctx.First Ctx.Together Ctx.Readable Aligned State.NoneHeld
  refine ⟨.stGB64 .., fun _ => .stGB64 .., rfl, by decide, ⟨stG, cx stG, ?_, ?_, ?_, ?_, ?_, some_of₂ ?_⟩,
    ⟨stRepro, cx stRepro, ?_, ?_, ?_, ?_, ?_, translates ?_⟩, stGr, cx stGr, ?_, ?_, ?_, ?_, ?_, translates ?_⟩
  all_goals decide +kernel

theorem witness_TileRowsComplete :
    (∀ relaxed : Bool, ∃ (s : State) (c : Ctx), s.relaxed = relaxed ∧ clear s c ∧ c.Readable c.perf [⟨.w 2, true⟩] ∧ Aligned (ea64 c 32) 32 c.perf
      ∧ s.GLoads c (ea64 c 32) 32 c.perf (fun _ => ⟨.dev, 0x40020⟩) ∧ s.NoPromote .devRm .acq
      ∧ c.Readable c.perf (⟨.w 2, true⟩ :: (List.range 8).map fun i => ⟨srcOf (upReg i (.w 8)), false⟩)
      ∧ c.launch.repro = false ∧ InOrder (ea64 c 32) c.perf c.perf
      ∧ (∀ t ∈ c.perf, s.translate c.group.die c.launch.ctx c.path.priv .store (ea64 c 32 t) 32 = .ok ⟨.dev, 0x40020⟩)
      ∧ ∃ u ps, s.stores c (ea64 c 32) (c.row (.w 8)) c.perf = some (u, ps))
    ∧ (∃ (s : State) (c : Ctx), clear s c ∧ Aligned (ea64 c 32) 32 c.perf ∧ c.launch.repro = true
      ∧ c.Readable c.perf (⟨.w 2, true⟩ :: (List.range 8).map fun i => ⟨srcOf (upReg i (.w 8)), false⟩)
      ∧ c.wave.cbuf.length + c.perf.length = 512
      ∧ ∀ t ∈ c.perf, s.translate c.group.die c.launch.ctx c.path.priv .store (ea64 c 32 t) 32 = .ok ⟨.dev, 0x40020⟩)
    ∧ ∀ relaxed : Bool, ∃ (s : State) (c : Ctx), s.relaxed = relaxed ∧ clear s c ∧ c.Readable c.perf [⟨.w 2, false⟩] ∧ Aligned (ea32 c 0) 32 c.perf
      ∧ s.SpLoads c false (ea32 c 0) 32 c.perf (fun _ => .sp 1 65504) ∧ s.NoPromote .devRm .acq
      ∧ c.Readable c.perf (⟨.w 2, false⟩ :: (List.range 8).map fun i => ⟨srcOf (upReg i (.w 8)), false⟩)
      ∧ s.SpStores c false (ea32 c 0) 32 c.perf (fun _ => .sp 1 65504) ∧ InOrder (ea32 c 0) c.perf c.perf := by
  unfold clear Ctx.First Ctx.Together Ctx.Readable Aligned State.NoneHeld InOrder
  refine ⟨fun b => ⟨{ stG with relaxed := b }, cx { stG with relaxed := b }, rfl, ?_, ?_, ?_, gloads ?_, fun _ _ => ?_, ?_, ?_, ?_,
      translates ?_, some_of₂ ?_⟩, ⟨stRepro, cx stRepro, ?_, ?_, ?_, ?_, ?_, translates ?_⟩,
    fun b => ⟨{ stRow with relaxed := b }, cx { stRow with relaxed := b }, rfl, ?_, ?_, ?_, sploads ?_, fun _ _ => ?_, ?_, spstores ?_, ?_⟩⟩
  all_goals first
    | decide +kernel
    | (revert b; decide +kernel)

theorem witness_ScratchpadAtomicsComplete :
    (∀ m, SpAtomRow (.atomS (.w 4) (.w 2) .cas m .ar) (.w 4) (.w 2) .cas false m .ar) ∧ scopeLevel .bd = 2 ∧ scopeLevel .gr < 2
    ∧ ∀ relaxed : Bool, ∃ (s : State) (c : Ctx), s.relaxed = relaxed ∧ clear s c ∧ c.perf = [0]
      ∧ c.Readable c.perf (⟨.w 2, false⟩ :: atomReads (.w 4) false .cas) ∧ Aligned (fun t => (c.v32 t (.w 2)).toNat) 4 c.perf
      ∧ s.SpLoads c false (fun t => (c.v32 t (.w 2)).toNat) 4 c.perf (fun _ => .sp 1 65532) := by
  unfold clear Ctx.First Ctx.Together Ctx.Readable Aligned State.NoneHeld
  refine ⟨fun _ => .atomS .., rfl, by decide, fun b => ⟨{ stLast with relaxed := b }, cx { stLast with relaxed := b }, rfl, ?_, ?_, ?_, ?_,
    sploads ?_⟩⟩
  all_goals revert b; decide +kernel

/-- The loaded page lies in host memory, in a window of the host's (R385). -/
def stFar : State := (stG.devWrite bootTable [31 + 64]).modIo fun io => { io with obw := io.obw.set 0 (1 + 0xFFFF * 2 ^ 64), trained := [0] }

theorem witness_GlobalAtomicsComplete :
    (∀ m, GlAtomRow (.atomGB64 (.w 4) (.w 2) .add m .ar) (.w 4) (.w 2) .add true m .ar)
    ∧ GlAtomRow (.atomGB64 (.w 4) (.w 2) .minI .sys .rlx) (.w 4) (.w 2) .minI true .sys .rlx
    ∧ (∃ (s : State) (c : Ctx), clear s c ∧ c.Readable c.perf (⟨.w 2, true⟩ :: atomReads (.w 4) true .add)
      ∧ Aligned (fun t => (c.v64 t (.w 2)).toNat) 8 c.perf ∧ c.launch.repro = false ∧ c.launch.snap = none ∧ s.relaxed = false
      ∧ ∃ u ps old, s.glAtoms c (fun t => (c.v64 t (.w 2)).toNat) 8 true
          (fun j v => atomValue true .add v (c.atomOps (.w 4) true j).1 (c.atomOps (.w 4) true j).2) c.perf = some (u, ps, old))
    ∧ (∃ (s : State) (c : Ctx), clear s c ∧ c.Readable c.perf (⟨.w 2, true⟩ :: atomReads (.w 4) true .add)
      ∧ Aligned (fun t => (c.v64 t (.w 2)).toNat) 8 c.perf ∧ c.launch.repro = true
      ∧ c.wave.cbuf.length + c.perf.length = 512
      ∧ ∀ t ∈ c.perf, s.translate c.group.die c.launch.ctx c.path.priv .atomic (c.v64 t (.w 2)).toNat 8 = .ok ⟨.dev, 0x40000⟩
        ∧ s.physBad ⟨.dev, 0x40000⟩ 8 = false)
    ∧ (∃ (s : State) (c : Ctx), clear s c ∧ c.Readable c.perf (⟨.w 2, true⟩ :: atomReads (.w 4) true .add)
      ∧ Aligned (fun t => (c.v64 t (.w 2)).toNat) 8 c.perf ∧ c.launch.repro = false ∧ c.launch.snap = none ∧ s.relaxed = true ∧ c.perf = [0]
      ∧ ∀ t ∈ c.perf, s.translate c.group.die c.launch.ctx c.path.priv .atomic (c.v64 t (.w 2)).toNat 8 = .ok ⟨.dev, 0x40000⟩
        ∧ s.physBad ⟨.dev, 0x40000⟩ 8 = false)
    ∧ ∃ (s : State) (c : Ctx), clear s c ∧ c.Readable c.perf (⟨.w 2, true⟩ :: atomReads (.w 4) true .minI)
      ∧ Aligned (fun t => (c.v64 t (.w 2)).toNat) 8 c.perf ∧ c.launch.repro = false ∧ c.perf = [0]
      ∧ ∀ t ∈ c.perf, s.translate c.group.die c.launch.ctx c.path.priv .atomic (c.v64 t (.w 2)).toNat 8 = .ok ⟨.host, 0x40000⟩ := by
  unfold clear Ctx.First Ctx.Together Ctx.Readable Aligned State.NoneHeld
  have h : ∀ t ∈ (cx stRepro).perf, (stRepro.translate (cx stRepro).group.die (cx stRepro).launch.ctx (cx stRepro).path.priv .atomic
      ((cx stRepro).v64 t (.w 2)).toNat 8).toOption = some ⟨.dev, 0x40000⟩ ∧ stRepro.physBad ⟨.dev, 0x40000⟩ 8 = false := by decide +kernel
  have h1 : ∀ t ∈ (cx stGr).perf, (stGr.translate (cx stGr).group.die (cx stGr).launch.ctx (cx stGr).path.priv .atomic
      ((cx stGr).v64 t (.w 2)).toNat 8).toOption = some ⟨.dev, 0x40000⟩ ∧ stGr.physBad ⟨.dev, 0x40000⟩ 8 = false := by decide +kernel
  refine ⟨fun _ => .atomGB64 .., .atomGB64 .., ⟨stG, cx stG, ?_, ?_, ?_, ?_, ?_, ?_, some_of₃ ?_⟩,
    ⟨stRepro, cx stRepro, ?_, ?_, ?_, ?_, ?_, fun t ht => ⟨ok_of (h t ht).1, (h t ht).2⟩⟩,
    ⟨stGr, cx stGr, ?_, ?_, ?_, ?_, ?_, ?_, ?_, fun t ht => ⟨ok_of (h1 t ht).1, (h1 t ht).2⟩⟩,
    stFar, cx stFar, ?_, ?_, ?_, ?_, ?_, translates ?_⟩
  all_goals decide +kernel

theorem witness_FenceAndStateWords :
    (∃ (s : State) (c : Ctx), clear s c ∧ c.Readable c.perf [⟨.w 2, false⟩, ⟨.w 3, false⟩]
      ∧ Aligned (fun t => (c.v32 t (.w 2)).toNat) 16 c.perf
      ∧ s.SpStores c false (fun t => (c.v32 t (.w 2)).toNat) 16 c.perf (fun _ => .sp 1 65504))
    ∧ (∃ f, TileMarkRow (.tmarkEmpty (.w 2)) (.w 2) f) ∧ (∃ f, TileMarkRow (.tmarkFull (.w 2)) (.w 2) f)
    ∧ (∃ (s : State) (c : Ctx), clear s c ∧ c.Readable c.perf [⟨.w 2, true⟩] ∧ Aligned (fun t => (c.v64 t (.w 2)).toNat) 8 c.perf
      ∧ c.launch.repro = false ∧ c.launch.snap = none
      ∧ s.GLoads c (fun t => (c.v64 t (.w 2)).toNat) 8 c.perf (fun _ => ⟨.dev, 0x40000⟩)
      ∧ (∃ u ps old, s.glAtoms c (fun t => (c.v64 t (.w 2)).toNat) 8 false
          (fun _ v => if v.getLsbD 0 then (v.toNat - 1 + 2 ^ 32) % 2 ^ 64 else v.toNat) c.perf = some (u, ps, old)))
    ∧ (∃ (s : State) (c : Ctx), clear s c ∧ c.Readable c.perf [⟨.w 2, true⟩] ∧ Aligned (fun t => (c.v64 t (.w 2)).toNat) 8 c.perf
      ∧ c.launch.repro = true ∧ c.wave.cbuf.length + c.perf.length = 512
      ∧ ∀ t ∈ c.perf, s.translate c.group.die c.launch.ctx c.path.priv .atomic (c.v64 t (.w 2)).toNat 8 = .ok ⟨.dev, 0x40000⟩
        ∧ s.physBad ⟨.dev, 0x40000⟩ 8 = false)
    ∧ ∃ (s : State) (c : Ctx), clear s c ∧ c.Readable c.perf [⟨.w 2, true⟩]
      ∧ Aligned (fun t => (c.v64 t (.w 2)).toNat) 8 c.perf ∧ c.launch.repro = false ∧ c.perf = [0]
      ∧ ∀ t ∈ c.perf, s.translate c.group.die c.launch.ctx c.path.priv .atomic (c.v64 t (.w 2)).toNat 8 = .ok ⟨.host, 0x40000⟩ := by
  unfold clear Ctx.First Ctx.Together Ctx.Readable Aligned State.NoneHeld
  have h : ∀ t ∈ (cx stRepro).perf, (stRepro.translate (cx stRepro).group.die (cx stRepro).launch.ctx (cx stRepro).path.priv .atomic
      ((cx stRepro).v64 t (.w 2)).toNat 8).toOption = some ⟨.dev, 0x40000⟩ ∧ stRepro.physBad ⟨.dev, 0x40000⟩ 8 = false := by decide +kernel
  refine ⟨⟨stRow, cx stRow, ?_, ?_, ?_, spstores ?_⟩, ⟨_, .empty _⟩, ⟨_, .full _⟩, ⟨stG, cx stG, ?_, ?_, ?_, ?_, ?_, gloads ?_, some_of₃ ?_⟩,
    ⟨stRepro, cx stRepro, ?_, ?_, ?_, ?_, ?_, fun t ht => ⟨ok_of (h t ht).1, (h t ht).2⟩⟩, stFar, cx stFar, ?_, ?_, ?_, ?_, ?_, translates ?_⟩
  all_goals decide +kernel

theorem witness_WatchWords :
    (∃ (s : State) (c : Ctx) (gen : Nat → Word), s.ctx = some c ∧ c.Readable c.perf [⟨.w 2, false⟩, ⟨.w 4, false⟩]
      ∧ Aligned (fun t => (c.v32 t (.w 2)).toNat) 16 c.perf
      ∧ (∀ t ∈ c.perf, ∃ p, s.spPlace c.group false (c.v32 t (.w 2)).toNat 16 = .ok p)
      ∧ (∀ t ∈ c.perf, s.genAt c t (c.v32 t (.w 2)).toNat = .ok (gen t)) ∧ c.launch.repro = false ∧ c.path.wait = .none
      ∧ ∃ t ∈ c.perf, gen t - c.v32 t (.w 4) = 0)
    ∧ (∃ (s : State) (c : Ctx), s.ctx = some c ∧ (∀ t ∈ c.perf, s.genAt c t (c.v32 t (.w 2)).toNat = .ok 0)
      ∧ ∀ t ∈ c.perf, (0 : Word) - c.v32 t (.w 4) = 1)
    ∧ ∃ (s : State) (c : Ctx), s.ctx = some c ∧ c.Readable c.perf [⟨.w 2, true⟩, ⟨.w 4, true⟩]
      ∧ Aligned (ea64 c 504) 8 c.perf ∧ s.GLoads c (ea64 c 504) 8 c.perf (fun _ => ⟨.dev, 0x401F8⟩) ∧ c.First
      ∧ s.NoPromote .devRm .acq ∧ c.launch.repro = false ∧ c.path.wait = .none
      ∧ ∃ t ∈ c.perf, BitVec.ofNat 64 (leNat (s.view c t ⟨.dev, 0x401F8⟩ 8)) = c.v64 t (.w 4) := by
  unfold Ctx.Readable Aligned Ctx.First Ctx.Together
  have h : (∀ t ∈ (cx stRow).perf, ((stRow.spPlace (cx stRow).group false ((cx stRow).v32 t (.w 2)).toNat 16).toOption).isSome = true)
      ∧ (∀ t ∈ (cx stRow).perf, (stRow.genAt (cx stRow) t ((cx stRow).v32 t (.w 2)).toNat).toOption = some 0) := by decide +kernel
  let sBehind : State := chWave fun w => { w with w := [(2, 65504), (4, 0xFFFFFFFF)] }
  have h1 : ∀ t ∈ (cx sBehind).perf, (sBehind.genAt (cx sBehind) t ((cx sBehind).v32 t (.w 2)).toNat).toOption = some 0 := by
    decide +kernel
  refine ⟨⟨stRow, cx stRow, fun _ => 0, ?_, ?_, ?_, fun t ht => is_ok (h.1 t ht), fun t ht => ok_of (h.2 t ht), ?_, ?_, ?_⟩,
    ⟨sBehind, cx sBehind, ?_, fun t ht => ok_of (h1 t ht), ?_⟩, stG, cx stG, ?_, ?_, ?_, gloads ?_, ?_, fun _ _ => ?_, ?_, ?_, ?_⟩
  all_goals decide +kernel

/-- At P1, with a uniform register outside the trap bank. -/
def stH (v : Word) : State := st1.modPath ref fun p => { p with s := [(32, v)] }

theorem witness_HandlerWords : st1.ctx = some (cx st1) ∧ (cx st1).path.priv = true ∧ (cx st1).Guarded
    ∧ WellFormed (.csrr (.s 62) .trstk) = true ∧ (cx st1).SReadable [(.s 0, false), (.s 2, true)] ∧ st1.NoneHeld (cx st1).ref
    ∧ ((cx st1).s32 (.s 0)).toNat % 256 ≠ (cx st1).launch.ctx
    ∧ csrRes .tthr ((cx st1).s64 (.s 2)) = false ∧ csrRes .tmask ((cx st1).s64 (.s 2)) = false
    ∧ (stH 1).ctx = some (cx (stH 1)) ∧ ((cx (stH 1)).s32 (.s 32)).toNat % 256 = (cx (stH 1)).launch.ctx
    ∧ csrRes .wseg (((cx (stH 0xFFFFFFFF)).s32 (.s 32)).setWidth 64) = true
    ∧ (stH 1).near = [] ∧ (stH 1).buffers (some (cx (stH 1)).launch.ctx) = false
    ∧ ∀ g ∈ (stH 1).groups, ∀ w ∈ g.waves, w.held = [] ∧ w.loads = [] := by
  refine ⟨?_, ?_, ?_, ?_, sreadable (by decide +kernel) _, ?_, ?_, ?_, ?_, ?_, ?_, ?_, ?_, ?_, ?_⟩
  all_goals first
    | decide +kernel
    | (unfold Ctx.Guarded; decide +kernel)
    | (unfold State.NoneHeld; decide +kernel)

/-- The largest amounts that may be given and claimed. -/
theorem witness_PoolWords :
    ((stS 160).ctx = some (cx (stS 160)) ∧ (cx (stS 160)).path.priv = false ∧ (cx (stS 160)).goodS 0 = true
      ∧ ((cx (stS 160)).cnt (.s 0)).toNat % 32 = 0 ∧ ((cx (stS 160)).cnt (.s 0)).toNat + 96 = (cx (stS 160)).wave.seg
      ∧ ∀ t < (cx (stS 160)).wave.threads, ((cx (stS 160)).wave.wb.get t).toNat + 96 ≤
          ((cx (stS 160)).wave.sb.get t).toNat + (cx (stS 160)).wave.seg - ((cx (stS 160)).cnt (.s 0)).toNat)
    ∧ ((stS 256).ctx = some (cx (stS 256)) ∧ ((cx (stS 256)).cnt (.s 0)).toNat % 32 = 0
      ∧ (cx (stS 256)).wave.seg + ((cx (stS 256)).cnt (.s 0)).toNat = min 2048 (cx (stS 256)).launch.d
      ∧ (cx (stS 256)).launch.repro = false ∧ (cx (stS 256)).group.claims = []
      ∧ ((cx (stS 256)).cnt (.s 0)).toNat / 32 = (cx (stS 256)).group.pool)
    ∧ ∃ (s : State) (c : Ctx), s.ctx = some c ∧ (c.cnt (.s 0)).toNat = 256 ∧ c.group.pool < (c.cnt (.s 0)).toNat / 32 := by
  refine ⟨by decide +kernel, by decide +kernel, (stS 256).modGroup 1 fun g => { g with pool := 7 },
    cx ((stS 256).modGroup 1 fun g => { g with pool := 7 }), by decide +kernel⟩

theorem witness_BarrierWords : (∃ pre n, BarrierRow (.barN (.s 0)) pre n ∧ pre (cx (stS 1)) ∧ n (cx (stS 1)) = 1)
    ∧ (stS 1).ctx = some (cx (stS 1)) ∧ (cx (stS 1)).path.priv = false ∧ (stS 1).NoneHeld (cx (stS 1)).ref
    ∧ (cx (stS 1)).launch.repro = false ∧ (cx (stS 1)).group.waves = [(cx (stS 1)).wave]
    ∧ (cx (stS 1)).wave.path? (!(cx (stS 1)).ref.slot) = none ∧ (cx (stS 1)).wave.depth = 0 ∧ (cx (stS 1)).wave.qended = false
    ∧ (cx (stS 1)).group.halted = false ∧ (cx (stS 1)).group.band = none ∧ (stS 1).isShed (cx (stS 1)).group = false
    ∧ (cx (stS 1)).group.bars.length = 10 := by
  unfold State.NoneHeld
  refine ⟨⟨_, _, .barN _, ⟨?_, ?_⟩, ?_⟩, ?_, ?_, ?_, ?_, ?_, ?_, ?_, ?_, ?_, ?_, ?_, ?_⟩
  · intro k h; cases h; decide +kernel
  all_goals decide +kernel

/-- Formats, and values of the first two uniform registers. -/
def stM (v w : Word) : State := chPath fun p => { p with fmt := [10, 10, 10, 0], s := [(0, v), (1, w)] }
/-- A stream whose rows fit the granted shape. -/
def aStream (x : Stream) : List Stream := [x, Stream.closed, Stream.closed, Stream.closed]
def stMq : State := (stM 0 65024).modWave 1 0 fun w =>
  { w with streams := aStream { Stream.closed with opened := true, desc := BitVec.ofNat 512 (1 + 32 * 2 ^ 32) } }

theorem witness_MatrixWordsQueue :
    (∃ pre op, MatrixRow (.mma 3 (.s 0) (.s 1)) 3 [(.s 0, false), (.s 1, false)] pre op ∧ pre (stM 0 65024) (cx (stM 0 65024)))
    ∧ (∃ pre op, MatrixRow (.mmaSq 3 0 (.s 1)) 3 [(.s 1, false)] pre op ∧ pre stMq (cx stMq))
    ∧ (∃ pre op, MatrixRow (.ald 3 (.s 0) (.s 1)) 3 [(.s 0, false), (.s 1, false)] pre op ∧ pre (stM 0 128) (cx (stM 0 128)))
    ∧ ((stM 0 128).ctx = some (cx (stM 0 128)) ∧ (cx (stM 0 128)).path.priv = false ∧ (cx (stM 0 128)).perf = [0]
      ∧ (3 : BitVec 7).toNat < (cx (stM 0 128)).group.tiles.length)
    ∧ (cx (stM 0 128)).Guarded ∧ (cx (stM 0 128)).SReadable [(.s 0, false), (.s 1, false)]
    ∧ stMq.ctx = some (cx stMq) ∧ stMq.NoneHeld (cx stMq).ref := by
  refine ⟨⟨_, _, .mma .., ?_⟩, ⟨_, _, .mmaSq .., ?_⟩, ⟨_, _, .ald .., ?_⟩, ⟨ctx_of ?_, ?_, ?_, ?_⟩, ?_,
    sreadable ?_ _, ctx_of ?_, ?_⟩
  · unfold MmaFormats State.MmaOperand; decide +kernel
  · unfold MmaFormats Ctx.MmaStream State.MmaOperand; decide +kernel
  · unfold State.RowsReach; decide +kernel
  · decide +kernel
  · decide +kernel
  · decide +kernel
  · decide +kernel
  · unfold Ctx.Guarded; decide +kernel
  · decide +kernel
  · decide +kernel
  · unfold State.NoneHeld; decide +kernel

/-- Operands of a copy of 32 bytes into the last sector of scratchpad; the multicast set of core 0. -/
def stC : State := (chWave fun w => { w with w := [(2, 65504), (4, 0x40000), (6, 32)] }).modLaunch 0 fun l => { l with mct := [(0, 1)] }
/-- The largest offset of a `send`. -/
def stSend : State := chWave fun w => { w with w := [(4, 0xFFFFFF)] }

theorem witness_CopyWordsQueue :
    (∃ (s : State) (c : Ctx), CopyRow (.copyG2s (.w 2) (.w 4) (.w 6)) .g2s true false (.w 2) (.w 4) (.w 6) ∧ s.ctx = some c
      ∧ c.path.priv = false ∧ c.Producer ∧ c.Readable c.perf [⟨.w 2, false⟩, ⟨.w 4, true⟩, ⟨.w 6, true⟩] ∧ c.LengthOk (.w 6)
      ∧ (∀ t ∈ c.perf, WordAligned (c.copyRanges true false (.w 2) (.w 4) (.w 6) t))
      ∧ (∀ t ∈ c.perf, ∀ x ∈ c.copyRanges true false (.w 2) (.w 4) (.w 6) t ++ syncRanges (c.copySync (.w 6) t), s.SpOk c x)
      ∧ s.NoneHeld c.ref
      ∧ MulticastRow (.copyG2sMc (.w 2) (.w 4) (.w 6)) .g2sMc false (.w 2) (.w 4) (.w 6)
      ∧ (∀ t ∈ c.perf, WordAligned (spRanges false (c.addrOf false (.w 4) t) (c.copyLen (.w 6) t)))
      ∧ ∀ t ∈ c.perf, (s.members c.launch (c.v32 t (.w 2))).isSome = true
        ∧ s.memberBound c.launch (c.v32 t (.w 2)) (c.copyLen (.w 6) t) (c.copySync (.w 6) t) = false)
    ∧ ∃ (s : State) (c : Ctx), FabricRow (.send (.w 2) (.w 4) 11 false) .send (.w 2) (.w 4) 11 ∧ s.ctx = some c ∧ c.Producer
      ∧ s.io.spmask.getLsbD (11 : BitVec 4).toNat = true ∧ c.Readable c.perf [⟨.w 2, false⟩, ⟨.w 4, false⟩]
      ∧ (∀ t ∈ c.perf, s.FabricOk c .send (.w 2) (.w 4) t) ∧ s.NoneHeld c.ref := by
  unfold Ctx.Producer Ctx.Readable Ctx.LengthOk WordAligned State.NoneHeld
  have h : ∀ t ∈ (cx stC).perf, ∀ x ∈ (cx stC).copyRanges true false (.w 2) (.w 4) (.w 6) t ++ syncRanges ((cx stC).copySync (.w 6) t),
      (stC.spPlace (cx stC).group x.1 x.2.1 x.2.2).toOption.isSome = true := by decide +kernel
  have hf : ∀ t ∈ (cx stSend).perf, ((cx stSend).v32 t (.w 2)).toNat = 0 ∧ fabLen (stSend.fabAt (cx stSend) (.w 2) t) = 0
      ∧ ((cx stSend).v32 t (.w 4)).toNat < 2 ^ 24 ∧ fabBad .send (stSend.fabAt (cx stSend) (.w 2) t) ((cx stSend).v32 t (.w 4)).toNat = false
      ∧ fabLsp (stSend.fabAt (cx stSend) (.w 2) t) = false := by decide +kernel
  have hp : (stSend.spPlace (cx stSend).group false 0 32).toOption = some (.sp 1 0)
      ∧ (stSend.spPlace (cx stSend).group true 0 32).toOption = some (.sp 1 0) ∧ stSend.spBad (.sp 1 0) 32 = false := by decide +kernel
  have hF : ∀ t ∈ (cx stSend).perf, stSend.FabricOk (cx stSend) .send (.w 2) (.w 4) t := by
    intro t ht
    obtain ⟨h1, h2, h3, h4, h5⟩ := hf t ht
    refine ⟨by rw [h1], ⟨.sp 1 0, by rw [h1]; exact ok_of hp.1, by rw [h1]; exact ok_of hp.2.1, hp.2.2, by rw [h1]; decide +kernel⟩,
      fun _ => by omega, h4, ?_, nofun⟩
    rw [h5, h2]; intro r hr; simp [spRanges] at hr
  refine ⟨⟨stC, cx stC, .copyG2s .., ?_, ?_, ?_, ?_, ?_, ?_, fun t ht x hx => spok (h t ht x hx), ?_, .copyG2sMc .., ?_, ?_⟩,
    stSend, cx stSend, .send .., ?_, ?_, ?_, ?_, hF, ?_⟩
  all_goals decide +kernel

/-- The queue of thread 0: `n` copies, each in a sealed batch of its own. -/
def aCopy (b : Nat) : CopyOp :=
  { kind := .s2s, thread := 0, batch := b, d := 0, a := 0, n := 32, sync := none, members := [], done := 0, read := [], fault := none,
    since := none, quantum := 0, at_ := 0, split := none, priv := false }
def stQ (n : Nat) : State := chWave fun w => { w with cq := (List.range n).map aCopy, batch := [(0, BitVec.ofNat 32 n)] }

/-- A reproducible launch, the wave's queues empty. -/
def stRq : State := st.modLaunch 0 fun l => Launch.with l 199

theorem witness_QueueWaits :
    ((stQ 62).ctx = some (cx (stQ 62)) ∧ ∀ t ∈ (cx (stQ 62)).perf, (cx (stQ 62)).wave.unfinished t = 62)
    ∧ ((stQ 63).ctx = some (cx (stQ 63)) ∧ (∃ t ∈ (cx (stQ 63)).perf, (cx (stQ 63)).wave.unfinished t = 63)
      ∧ (cx (stQ 63)).path.wait = .none ∧ (cx (stQ 63)).launch.repro = false ∧ (cx (stQ 63)).wave.copyErr = []
      ∧ (cx (stQ 63)).wave.hErr = none ∧ (cx (stQ 63)).wave.gErr = none
      ∧ (cx (stQ 63)).busy (stQ 63).tick 2 = true ∧ (cx (stQ 63)).busy (stQ 63).tick 1 = false)
    ∧ stRq.ctx = some (cx stRq) ∧ (cx stRq).path.wait = .none ∧ (cx stRq).launch.repro = true ∧ (cx stRq).perf = [0]
      ∧ (cx stRq).wave.copyErr = [] ∧ (cx stRq).wave.hErr = none ∧ (cx stRq).wave.gErr = none
      ∧ (cx stRq).fencesCommit 2 = true ∧ (cx stRq).fencesCommit 1 = false ∧ (cx stRq).busy stRq.tick 1 = false := by decide +kernel

/-- A stream descriptor in scratchpad; an open stream. -/
def stDesc : State := st.spWrite (.sp 1 0) (leBytes 8 (1 + 128 * 2 ^ 32))
def stOpen (x : Stream) : State := chWave fun w => { w with streams := aStream { x with opened := true } }
def stRows (n : Nat) : State := stOpen { Stream.closed with fifo := [⟨List.replicate n 1, [], 0, none⟩] }
/-- A pop by a matrix word that issued before. -/
def stFed : State := (stRows 128).modWave 1 0 fun w => { w with mq := [
  { kind := .mma (some 0), tile := 3, a := 0, b := 128, fa := 10, fb := 10, f2 := 10, mg := 16, ng := 16, kg := 16, rows := 1, n := 0, pc := 0,
    slot := false, dst := .s 0, left := 0, begun := true, passed := 0, at_ := 0, split := none, quantum := none }] }

theorem witness_StreamWords :
    (stDesc.ctx = some (cx stDesc) ∧ (cx stDesc).perf = [0] ∧ ((cx stDesc).v32 0 (.w 2)).toNat = 0
      ∧ (stDesc.spPlace (cx stDesc).group false 0 64).toOption = some (.sp 1 0)
      ∧ (stDesc.spPlace (cx stDesc).group true 0 64).toOption = some (.sp 1 0) ∧ stDesc.spBad (.sp 1 0) 64 = false
      ∧ stDesc.netFails (cx stDesc) 0 = false
      ∧ (cx stDesc).wave.popsBefore 1 ((cx stDesc).issuedAt stDesc.tick) = false ∧ (cx stDesc).popsAtCommit 1 = false
      ∧ sdBad (BitVec.ofNat 512 (leNat (stDesc.spReadAt (cx stDesc) 0 0 64))) = false
      ∧ ∀ t ∈ (cx stDesc).perf, ∀ x ∈ [(⟨.w 2, false⟩ : Src)], (cx stDesc).unlatched t x = false ∧ (cx stDesc).badUnit t x = none)
    ∧ stDesc.NoneHeld (cx stDesc).ref
    ∧ (∀ n ∈ [128, 160], (stRows n).ctx = some (cx (stRows n)) ∧ (cx (stRows n)).perf = [0]
      ∧ ((cx (stRows n)).wave.stream 0).opened = true
      ∧ (cx (stRows n)).wave.popsBefore 0 ((cx (stRows n)).issuedAt (stRows n).tick) = false ∧ (cx (stRows n)).popsAtCommit 0 = false
      ∧ ((cx (stRows n)).wave.stream 0).fifo = [⟨List.replicate n 1, [], 0, none⟩] ∧ (cx (stRows n)).wave.streams.length = 4)
    ∧ (∀ b, (stOpen { Stream.closed with ended := b }).ctx = some (cx (stOpen { Stream.closed with ended := b }))
      ∧ ((cx (stOpen { Stream.closed with ended := b })).wave.stream 0).fifo = []
      ∧ ((cx (stOpen { Stream.closed with ended := b })).wave.stream 0).ended = b
      ∧ (cx (stOpen { Stream.closed with ended := b })).popsAtCommit 0 = false
      ∧ (cx (stOpen { Stream.closed with ended := b })).wave.popsBefore 0
          ((cx (stOpen { Stream.closed with ended := b })).issuedAt (stOpen { Stream.closed with ended := b }).tick) = false)
    ∧ ({ stFed with tick := 1 }.ctx = some (cx { stFed with tick := 1 }) ∧ (cx { stFed with tick := 1 }).perf = [0]
      ∧ (cx { stFed with tick := 1 }).wave.popsBefore 0 ((cx { stFed with tick := 1 }).issuedAt 1) = true)
    ∧ (stW 3).ctx = some (cx (stW 3)) ∧ ∀ t ∈ (cx (stW 3)).perf, ((cx (stW 3)).v32 t (.w 2)).toNat = 3 := by
  unfold State.NoneHeld; decide +kernel

/-- Operands of HRU words; a valid table descriptor; a list head. -/
def stHru : State := (chWave fun w => { w with w := [(2, 4), (4, 16), (5, 0x8001), (6, 0x8001), (8, 63)] }).spWrite (.sp 1 0)
  (leBytes 64 (1 + 1 * 2 ^ 4 + 1 * 2 ^ 16 + 10 * 2 ^ 32 + 4 * 2 ^ 448))

theorem witness_RequestWordsQueue :
    (∃ (s : State) (c : Ctx), HruRow (.hins (.w 2) (.w 6)) .ins (.w 2) (.w 6) false false 1 true ∧ s.ctx = some c ∧ c.path.priv = false
      ∧ c.Readable c.perf [⟨.w 2, false⟩, ⟨.w 6, false⟩] ∧ (∀ t ∈ c.perf, s.HruOk c .ins (.w 2) (.w 6) false false 1 true t)
      ∧ HruRow (.hprobe (.w 2) (.w 4)) .probe (.w 2) (.w 4) true true 16 false
      ∧ c.Readable c.perf [⟨.w 2, false⟩, ⟨.w 4, true⟩] ∧ (∀ t ∈ c.perf, s.HruOk c .probe (.w 2) (.w 4) true true 16 false t)
      ∧ s.NoneHeld c.ref
      ∧ HsetRow (.hsetBind (.w 0) (.w 8)) 0 (.w 0) (.w 8) ∧ c.perf = [0] ∧ c.Agree32 c.perf (.w 0) ∧ c.Agree32 c.perf (.w 8)
      ∧ s.HsetOk c 0 (.w 0) (.w 8) 0)
    ∧ ∃ (s : State) (c : Ctx), GateRow (.ghist (.w 0) (.w 4) false false) (.hist false false) (.w 0) (.w 4) ∧ s.ctx = some c
      ∧ c.perf = [0] ∧ c.Agree32 c.perf (.w 0) ∧ c.Agree c.perf (.w 4) ∧ s.GateOk c (.hist false false) (.w 0) (.w 4) 0 := by
  let sG : State := chWave fun w => { w with w := [(4, 16), (5, 4096)] }
  have h : ∀ t ∈ (cx stHru).perf, ((stHru.spPlace (cx stHru).group false ((cx stHru).lowOf true (.w 4) t).toNat
      (16 + 4 * selCap ((cx stHru).selOf true (.w 4) t))).toOption).isSome = true := by decide +kernel
  have hp : ((stHru.spPlace (cx stHru).group false ((cx stHru).v32 0 (.w 0)).toNat 64).toOption = some (.sp 1 0))
      ∧ (stHru.spPlace (cx stHru).group true ((cx stHru).v32 0 (.w 0)).toNat 64).toOption = some (.sp 1 0)
      ∧ stHru.spBad (.sp 1 0) 64 = false := by decide +kernel
  have hg : ∀ r ∈ gateRanges (.hist false false) ((cx sG).v32 0 (.w 0)).toNat (((cx sG).v64 0 (.w 4)).extractLsb' 0 32).toNat
      (((cx sG).v64 0 (.w 4)).extractLsb' 32 32), ((sG.spPlace (cx sG).group r.1 r.2.1 r.2.2).toOption).isSome = true := by decide +kernel
  refine ⟨⟨stHru, cx stHru, .hins .., ?_, ?_, ?_, fun t ht => ⟨?_, ?_, ?_, nofun, nofun, ?_, nofun⟩, .hprobe .., ?_,
    fun t ht => ⟨?_, nofun, nofun, ?_, ?_, ?_, fun _ => spok (h t ht)⟩, ?_, .hsetBind .., ?_, ?_, ?_,
    ⟨?_, ?_, ?_, ?_, ⟨.sp 1 0, ok_of hp.1, ok_of hp.2.1, fun _ => ⟨hp.2.2, by decide +kernel⟩⟩, ?_⟩⟩, sG, cx sG, .ghist .., ?_, ?_, ?_, ?_,
    ⟨?_, ?_, ?_, ?_, ?_, fun r hr => spok (hg r hr)⟩⟩
  all_goals first
    | decide +kernel
    | (revert ht; revert t; decide +kernel)
    | (unfold Ctx.Readable; decide +kernel)
    | (unfold Ctx.Agree; decide +kernel)
    | (unfold Ctx.Agree32; decide +kernel)
    | (unfold State.NoneHeld; decide +kernel)

/-- A launch record in memory, with bits of it changed, its counter and a counter above it. -/
def cells (a : Nat) (bs : List Byte) : Memory := (bs.zipIdx.filter fun x => x.1 != 0).map fun x => (a + x.2, x.1)
def stL (flip : Nat) (parent : Nat) (top : Nat) : State :=
  { chWave fun w => { w with w := [(2, 0x50000), (4, 8), (6, 0x40000)] } with
    mem := st.mem ++ cells 0x40010 (leBytes 8 parent) ++ cells 0x40100 (leBytes 16 top)
      ++ cells 0x50000 (leBytes 256 (bootRecord ^^^ BitVec.ofNat 2048 flip).toNat) }

theorem okD {ε α : Type} {e : Except ε α} {d : α} (h : e.toOption.isSome = true) : e = .ok (e.toOption.getD d) := by
  cases e <;> simp_all [Except.toOption]

/-- The launch that a reader reads, and its counter. -/
def lrecOf (s : State) (q : Reader) (ctx : Nat) (a : DWord) : BitVec 2048 :=
  BitVec.ofNat 2048 (leNat ((s.readAs q ctx a.toNat 256).toOption.getD []))
def draftOf (s : State) (q : Reader) (ctx : Nat) (a : DWord) (cls : Nat) : Launch :=
  { Launch.draft s.nextId (lrecOf s q ctx a) cls with recVa := a }
def lOf (s : State) (q : Reader) (ctx : Nat) (a : DWord) (cls : Nat) : Launch :=
  (s.readParts q (draftOf s q ctx a cls)).toOption.getD (bootLaunch 0)
def vOf (s : State) (q : Reader) (l : Launch) : BitVec 256 := counterOf ((s.readAs q l.ctx l.counterVa.toNat 32).toOption.getD [])

theorem reads_of {s : State} {q : Reader} {ctx prio : Nat} {a : DWord} {b : Word} {cls : Nat} {p : Phys}
    (h : (s.readAs q ctx a.toNat 256).toOption.isSome = true ∧ (s.readParts q (draftOf s q ctx a cls)).toOption.isSome = true
      ∧ (lOf s q ctx a cls).lrec = lrecOf s q ctx a ∧ (lOf s q ctx a cls).cls = cls
      ∧ cls = (if b.getLsbD 3 then b.toNat % 8 else ((lOf s q ctx a cls).lrec.extractLsb' 196 3).toNat) ∧ (b.getLsbD 3 = false → prio ≤ cls)
      ∧ (s.readAs q (lOf s q ctx a cls).ctx (lOf s q ctx a cls).counterVa.toNat 32).toOption.isSome = true
      ∧ (s.translate q.die (lOf s q ctx a cls).ctx q.priv .store (lOf s q ctx a cls).counterVa.toNat 32).toOption = some p
      ∧ ∀ x ∈ s.launches, x.id ≠ s.nextId) :
    s.LaunchReads q ctx prio a b (lOf s q ctx a cls) p (vOf s q (lOf s q ctx a cls)) := by
  obtain ⟨h1, h2, h3, h4, h5, h6, h7, h8, h9⟩ := h
  refine ⟨⟨_, okD (d := []) h1, h3⟩, h4.trans h5, fun e => by rw [h4]; exact h6 e, ?_, ⟨_, okD (d := []) h7, rfl⟩, ok_of h8, h9⟩
  rw [h3, h4]
  exact okD h2

/-- A counter lowered. -/
def less (v : BitVec 256) (n : Int) : BitVec 256 :=
  let r := v.extractLsb' 0 64 - BitVec.ofInt 64 n
  v.extractLsb' 66 190 ++ (if r = 0 then (if v.getLsbD 66 then 2 else 1) else v.extractLsb' 64 2 : BitVec 2) ++ r
def lessAt (s : State) (p : Phys) (n : Int) : BitVec 256 := less (counterOf (s.physRead p 32)) n
def lowerAt (s : State) (p : Phys) (n : Int) : State := s.physWrite p (leBytes 32 (lessAt s p n).toNat)

/-- The counter at `p` can be lowered, and stands at the top or not at 0; or it comes to 0 below `va2`. -/
def lowers (die ctx : Nat) (s : State) (va : DWord) (n : Int) (p : Phys) : Prop :=
  (s.place die ctx true .atomic va.toNat 32).toOption = some [(p, 32)]
  ∧ (lessAt s p n).extractLsb' 0 64 = (counterOf (s.physRead p 32)).extractLsb' 0 64 - BitVec.ofInt 64 n
  ∧ (lessAt s p n).extractLsb' 64 2 = (if (lessAt s p n).extractLsb' 0 64 = 0 then (if (counterOf (s.physRead p 32)).getLsbD 66 then 2 else 1)
      else (counterOf (s.physRead p 32)).extractLsb' 64 2)
  ∧ (lessAt s p n).extractLsb' 66 190 = (counterOf (s.physRead p 32)).extractLsb' 66 190

theorem lowered_one {die ctx k : Nat} {s : State} {va : DWord} {n : Int} {p : Phys} (h : lowers die ctx s va n p)
    (h1 : (lessAt s p n).extractLsb' 0 64 ≠ 0 ∨ (lessAt s p n).extractLsb' 128 64 = 0) : Lowered die ctx (k + 1) s va n (lowerAt s p n) :=
  .one k s va n p _ (ok_of h.1) ⟨h.2.1, h.2.2.1, h.2.2.2⟩ h1

theorem lowered_one' {die ctx k : Nat} {s : State} {va : DWord} {n : Int} {p : Phys} (h : lowers die ctx s va n p
    ∧ ((lessAt s p n).extractLsb' 0 64 ≠ 0 ∨ (lessAt s p n).extractLsb' 128 64 = 0)) : Lowered die ctx (k + 1) s va n (lowerAt s p n) :=
  lowered_one h.1 h.2

theorem lowered_up {die ctx k : Nat} {s t : State} {va : DWord} {n : Int} {p : Phys} (h : lowers die ctx s va n p)
    (h1 : (lessAt s p n).extractLsb' 0 64 = 0 ∧ (lessAt s p n).extractLsb' 128 64 ≠ 0)
    (h2 : Lowered die ctx k (lowerAt s p n) ((lessAt s p n).extractLsb' 128 64) 1 t) : Lowered die ctx (k + 1) s va n t :=
  .up k s va n p _ t (ok_of h.1) ⟨h.2.1, h.2.2.1, h.2.2.2⟩ h1.1 h1.2 h2

/-- The reader of `launch` in thread 0, and the state in which it reads. -/
def qL (s : State) : Reader := ⟨(cx s).group.die, (cx s).path.priv, some (cx s, 0)⟩
def stR (s : State) : State := s.touchAll 1 (s.launchLines (qL s) 1 0x50000)

/-- A counter's words, written out (R314). -/
def counterWord (remain state err parent pbound : Nat) : BitVec 256 :=
  BitVec.ofNat 256 (remain + state * 2 ^ 64 + err * 2 ^ 72 + parent * 2 ^ 128 + pbound * 2 ^ 192)
theorem counter_is {v : BitVec 256} {remain state err kills pbound : Nat} {canreq : Bool} {parent : DWord}
    (h : (v.extractLsb' 0 64).toNat = remain % 2 ^ 64 ∧ (v.extractLsb' 64 2).toNat = state ∧ v.getLsbD 66 = canreq ∧ v.extractLsb' 67 5 = 0
      ∧ (v.extractLsb' 72 8).toNat = err ∧ v.extractLsb' 80 16 = 0 ∧ (v.extractLsb' 96 32).toNat = kills ∧ v.extractLsb' 128 64 = parent
      ∧ (v.extractLsb' 192 64).toNat = pbound % 2 ^ 64) : CounterIs v remain state canreq err kills parent pbound :=
  ⟨h.1, h.2.1, h.2.2.1, h.2.2.2.1, h.2.2.2.2.1, h.2.2.2.2.2.1, h.2.2.2.2.2.2.1, h.2.2.2.2.2.2.2.1, h.2.2.2.2.2.2.2.2⟩

/-- The state after a launch has been queued, or refused with a parent. -/
def queuedAs (s : State) (w : BitVec 256) (L : Launch) : State :=
  { s.physWrite ⟨.dev, 0x40000⟩ (leBytes 32 w.toNat) with launches := s.launches ++ [L], nextId := s.nextId + 1 }

/-- A launch read by thread 0: queued, cancelled at once, refused under a parent or under none. -/
def lr (s : State) : Launch := lOf (stR s) (qL s) 1 0x50000 0
def readsHere (s : State) : Prop :=
  (stR s).LaunchReads (qL s) 1 (cx s).group.prio 0x50000 8 (lr s) ⟨.dev, 0x40000⟩ (vOf (stR s) (qL s) (lr s))

theorem witness_LaunchWords_issue : ∃ (s : State) (c : Ctx), s.ctx = some c ∧ c.perf = [0] ∧ c.Readable c.perf [⟨.w 2, true⟩, ⟨.w 4, false⟩]
    ∧ c.Agree32 c.perf (.w 4) ∧ c.Agree c.perf (.w 2) ∧ c.launch.maylaunch = true ∧ c.v64 0 (.w 2) = 0x50000 ∧ c.launch.ctx = 1
    ∧ c.v32 0 (.w 4) = 8 ∧ c.group.prio = (c.v32 0 (.w 4)).toNat % 8 ∧ c.First ∧ s.NoneHeld c.ref ∧ c.launch.repro = false
    ∧ c.Readable c.perf [⟨.w 6, true⟩] ∧ c.Agree c.perf (.w 6) ∧ c.v64 0 (.w 6) = 0x40000 ∧ s = stL 0 0x40100 0 := by
  unfold Ctx.Readable Ctx.Agree Ctx.Agree32 Ctx.First Ctx.Together State.NoneHeld
  refine ⟨stL 0 0x40100 0, cx (stL 0 0x40100 0), ctx_of ?_, ?_, ?_, ?_, ?_, ?_, ?_, ?_, ?_, ?_, ?_, ?_, ?_, ?_, ?_, ?_, rfl⟩
  all_goals decide +kernel

theorem witness_LaunchWords_rights : ∃ (s : State) (c : Ctx), s.ctx = some c ∧ c.perf ≠ [] ∧ c.Readable c.perf [⟨.w 6, true⟩]
    ∧ c.Agree c.perf (.w 6) ∧ c.launch.maylaunch = false := by
  unfold Ctx.Readable Ctx.Agree
  let s : State := chLaunch fun l => { l with lrec := l.lrec ^^^ BitVec.twoPow 2048 207 }
  refine ⟨s, cx s, ctx_of ?_, ?_, ?_, ?_, ?_⟩
  all_goals decide +kernel

/-- What makes `LaunchReads` of it, by evaluation. -/
def readFacts (s : State) : Prop :=
  ((stR s).readAs (qL s) 1 0x50000 256).toOption.isSome = true
  ∧ ((stR s).readParts (qL s) (draftOf (stR s) (qL s) 1 0x50000 0)).toOption.isSome = true
  ∧ (lr s).lrec = lrecOf (stR s) (qL s) 1 0x50000 ∧ (lr s).cls = 0
  ∧ ((stR s).readAs (qL s) (lr s).ctx (lr s).counterVa.toNat 32).toOption.isSome = true
  ∧ ((stR s).translate (qL s).die (lr s).ctx (qL s).priv .store (lr s).counterVa.toNat 32).toOption = some ⟨.dev, 0x40000⟩
  ∧ ∀ x ∈ (stR s).launches, x.id ≠ (stR s).nextId

theorem reads_here {s : State} {p : Prop} (h : readFacts s ∧ p) : readsHere s ∧ p :=
  let f := h.1
  ⟨reads_of ⟨f.1, f.2.1, f.2.2.1, f.2.2.2.1, rfl, nofun, f.2.2.2.2.1, f.2.2.2.2.2.1, f.2.2.2.2.2.2⟩, h.2⟩

/-- A record of five dimensions, refused (R296), under no counter or under one; records that are queued. -/
def stBad (parent : Nat) : State := stL (2 ^ 210) parent 0
def stGood (top : Nat) : State := stL 0 0x40100 top

theorem witness_LaunchWords_refused : ∀ parent ∈ [0, 0x40100], readsHere (stBad parent) ∧ (stR (stBad parent)).refusal (lr (stBad parent)) = some 1
    ∧ (vOf (stR (stBad parent)) (qL (stBad parent)) (lr (stBad parent))).extractLsb' 128 64 = BitVec.ofNat 64 parent
    ∧ (stR (stBad parent)).changes = [] ∧ (stR (stBad parent)).still = false := by
  intro parent h; simp only [List.mem_cons, List.not_mem_nil, or_false] at h
  rcases h with rfl | rfl <;> exact reads_here (by unfold readFacts; decide +kernel)

def wBad : BitVec 256 := counterWord 0 3 1 0x40100 0
def lBad : Launch := { lr (stBad 0x40100) with stopped := true, left := 0 }
def qBad : State := queuedAs (stR (stBad 0x40100)) wBad lBad
theorem witness_LaunchWords_refused_below : CounterIs wBad 0 3 false 1 0 0x40100 0
    ∧ lBad = { lr (stBad 0x40100) with stopped := true, left := 0 } ∧ ∃ t, Lowered 0 1 64 qBad 0x40100 1 t :=
  ⟨counter_is (by decide +kernel), rfl, _, lowered_one' (p := ⟨.dev, 0x40100⟩) (by unfold lowers; decide +kernel)⟩

/-- A launch queued under a counter, with or without `CANREQ` in it (R315, R317). -/
theorem witness_LaunchWords_queued : ∀ top ∈ [0, 2 ^ 66], readsHere (stGood top) ∧ (stR (stGood top)).refusal (lr (stGood top)) = none
    ∧ (lr (stGood top)).mapRefusal = none ∧ (vOf (stR (stGood top)) (qL (stGood top)) (lr (stGood top))).extractLsb' 128 64 = 0x40100
    ∧ (stR (stGood top)).countersUp (qL (stGood top)) (lr (stGood top)).ctx parentDepth 0x40100 = ([(0x40100, BitVec.ofNat 256 top)], none)
    ∧ (stR (stGood top)).changes = [] ∧ (stR (stGood top)).still = false := by
  intro top h; simp only [List.mem_cons, List.not_mem_nil, or_false] at h
  rcases h with rfl | rfl <;> exact reads_here (by unfold readFacts; decide +kernel)

def lGood : Launch := { lr (stGood (2 ^ 66)) with counter := ⟨.dev, 0x40000⟩, left := 1 }
def qGood : State := queuedAs (stR (stGood (2 ^ 66))) (counterWord 1 0 0 0x40100 0) lGood
def canreq (s : State) (p : Phys) : State := s.physWrite p (leBytes 32 (counterOf (s.physRead p 32) ||| BitVec.twoPow 256 66).toNat)
def mGood : State := canreq qGood ⟨.dev, 0x40000⟩

theorem starts_of {s : State} {l : Launch} {p : Phys} {L : Launch} {r : Prop} (h : ((L.id, L.lrec, L.recVa) = (s.nextId, l.lrec, l.recVa)
    ∧ (L.cls, L.present) = (l.cls, l.cls) ∧ (L.mct, L.inmap, L.outmap, L.poolHdr, L.logN) = (l.mct, l.inmap, l.outmap, l.poolHdr, l.logN)
    ∧ L.counter = p ∧ (L.stopped, L.gord, L.commit) = (false, 0, 0)
    ∧ L.left = if l.pool = true then 1 else if l.cutmode = 3 then l.logN else l.lext 0 * l.lext 1 * l.lext 2 * l.lext 3) ∧ r) : Starts s l p L ∧ r :=
  ⟨⟨h.1.1, h.1.2.1, h.1.2.2.1, h.1.2.2.2.1, h.1.2.2.2.2.1, h.1.2.2.2.2.2⟩, h.2⟩

theorem witness_LaunchWords_cancelled_queued : CounterIs (counterWord 1 0 0 0x40100 0) lGood.left 0 false 0 0 0x40100 0
    ∧ Starts (stR (stGood (2 ^ 66))) (lr (stGood (2 ^ 66))) ⟨.dev, 0x40000⟩ lGood ∧ (lr (stGood (2 ^ 66))).repro = false
    ∧ (qL (stGood (2 ^ 66))).die = 0 ∧ (lr (stGood (2 ^ 66))).ctx = 1 :=
  ⟨counter_is (by decide +kernel), starts_of (by decide +kernel)⟩

theorem placed_of {s : State} {d c : Nat} {va : DWord} {p : Phys} (h : (s.place d c true .atomic va.toNat 32).toOption = some [(p, 32)]) :
    Marked d c s [va] (canreq s p) := .more _ _ _ _ p (ok_of h) (.none _)

theorem witness_LaunchWords_cancelled_marked : Marked 0 1 qGood [0x40000] mGood := placed_of (by decide +kernel)

def pGood : State := lowerAt mGood ⟨.dev, 0x40000⟩ 1
theorem witness_LaunchWords_cancelled : (lGood.left = 1 ∧ lGood.ctx = 1 ∧ lGood.counterVa = 0x40000) ∧ ∃ u, Lowered 0 1 64 mGood 0x40000 1 u := by
  have h : lowers 0 1 mGood 0x40000 1 ⟨.dev, 0x40000⟩
      ∧ ((lessAt mGood ⟨.dev, 0x40000⟩ 1).extractLsb' 0 64 = 0 ∧ (lessAt mGood ⟨.dev, 0x40000⟩ 1).extractLsb' 128 64 ≠ 0)
      ∧ (lessAt mGood ⟨.dev, 0x40000⟩ 1).extractLsb' 128 64 = 0x40100 := by unfold lowers; decide +kernel
  refine ⟨by decide +kernel, lowerAt pGood ⟨.dev, 0x40100⟩ 1, lowered_up (k := 63) (p := ⟨.dev, 0x40000⟩) h.1 h.2.1 ?_⟩
  rw [h.2.2]
  change Lowered 0 1 (62 + 1) pGood 0x40100 1 (lowerAt pGood ⟨.dev, 0x40100⟩ 1)
  exact lowered_one' (k := 62) (s := pGood) (va := 0x40100) (n := 1) (p := ⟨.dev, 0x40100⟩) (by unfold lowers; decide +kernel)

/-- CANCEL of the counter above the one of the running launch, and of one that no launch stands under. -/
def stUnder (a : DWord) : State := (stGood 0).touch 1 a.toNat 32
def mUnder : State := canreq (stUnder 0x40100) ⟨.dev, 0x40100⟩

theorem witness_LaunchWords_cancel_none :
    (stUnder 0x40200).translate 0 1 false .atomic (0x40200 : DWord).toNat 32 = .ok ⟨.dev, 0x40200⟩
    ∧ (stUnder 0x40200).physBad ⟨.dev, 0x40200⟩ 32 = false ∧ (stUnder 0x40200).NoChanges
    ∧ ∀ l ∈ (stUnder 0x40200).launches, (stUnder 0x40200).live l = true →
        (canreq (stUnder 0x40200) ⟨.dev, 0x40200⟩).counterPath (qL (stGood 0)) l ⟨.dev, 0x40200⟩ = none := by
  unfold State.NoChanges
  refine ⟨ok_of ?_, ?_, ?_, ?_⟩
  all_goals decide +kernel

theorem witness_LaunchWords_cancel :
    (stUnder 0x40100).translate 0 1 false .atomic (0x40100 : DWord).toNat 32 = .ok ⟨.dev, 0x40100⟩
    ∧ (stUnder 0x40100).physBad ⟨.dev, 0x40100⟩ 32 = false ∧ (stUnder 0x40100).NoChanges
    ∧ ∀ trap, ∃ u, Cancelled (qL (stGood 0)) ⟨.dev, 0x40100⟩ 0x40100 trap mUnder ((stUnder 0x40100).launches.filter (stUnder 0x40100).live) u := by
  unfold State.NoChanges
  have e : (stUnder 0x40100).launches.filter (stUnder 0x40100).live = [bootLaunch 0] := by decide +kernel
  refine ⟨ok_of ?_, ?_, ?_, fun trap => ?_⟩
  · decide +kernel
  · decide +kernel
  · decide +kernel
  · rw [e]
    exact ⟨_, .hit _ (canreq mUnder ⟨.dev, 0x40000⟩) (canreq mUnder ⟨.dev, 0x40000⟩) _ _ _ [0x40000] (by decide +kernel) (by decide +kernel)
      (placed_of (by decide +kernel)) (.inl ⟨.inr (by decide +kernel), rfl⟩) (.none _)⟩

/-! ### Witnesses of the event statements -/

def wref : WaveRef := ⟨1, 0⟩
/-- What an engine of the wave works for. -/
def en (s : State) : Eng := (s.eng wref).getD ⟨(cx st).group, (cx st).wave, (cx st).launch⟩

theorem eng_of {s : State} (h : (s.eng wref).isSome = true) : s.eng wref = some (en s) := by
  obtain ⟨c, e⟩ := some_of h
  rw [en, e]; rfl

/-- A matrix entry whose cycles have run. -/
def aMat (k : MatKind) : MatOp :=
  { kind := k, tile := 3, a := 0x7FFFFFFF, b := 128, fa := 10, fb := 10, f2 := 10, mg := 16, ng := 16, kg := 16, rows := 1, n := 0, pc := 0,
    slot := false, dst := .s 0, left := 0, begun := true, passed := 0, at_ := 0, split := none, quantum := none }
def stMat (k : MatKind) : State := chWave fun w => { w with mq := [aMat k], streams := aStream { Stream.closed with opened := true } }

theorem matHead (k : MatKind) (h : ((stMat k).eng wref).isSome = true ∧ (en (stMat k)).wave.mq = [aMat k]
    ∧ (en (stMat k)).group.tiles[3]?.isSome = true) : ∃ T, MatHead (stMat k) wref (en (stMat k)) (aMat k) [] T := by
  obtain ⟨T, e⟩ := some_of h.2.2
  exact ⟨T, eng_of h.1, h.2.1, rfl, fun _ => rfl, e⟩

def stMatEnd : State := (stMat (.mma (some 0))).modWave 1 0 fun w => { w with streams := aStream { Stream.closed with opened := true, ended := true } }
theorem witness_MatrixPerforms_rows : (∃ T, MatHead stMatEnd wref (en stMatEnd) (aMat (.mma (some 0))) [] T)
    ∧ (en stMatEnd).wave.mayTake (aMat (.mma (some 0))) 0 = true ∧ rowsReady 16 ((en stMatEnd).wave.stream 0) = true := by
  have h : (stMatEnd.eng wref).isSome = true ∧ (en stMatEnd).wave.mq = [aMat (.mma (some 0))] ∧ (en stMatEnd).group.tiles[3]?.isSome = true := by
    decide +kernel
  obtain ⟨T, e⟩ := some_of h.2.2
  exact ⟨⟨T, eng_of h.1, h.2.1, rfl, fun _ => rfl, e⟩, by decide +kernel⟩

theorem witness_AclrPerform : (∃ T, MatHead (stMat .aclr) wref (en (stMat .aclr)) (aMat .aclr) [] T) ∧ (aMat .aclr).kind = .aclr :=
  ⟨matHead _ (by decide +kernel), rfl⟩

theorem witness_AscalePerform : (∃ T, MatHead (stMat .ascale) wref (en (stMat .ascale)) (aMat .ascale) [] T)
    ∧ (aMat .ascale).kind = .ascale := ⟨matHead _ (by decide +kernel), rfl⟩

theorem witness_MatrixPerforms :
    (∃ T, MatHead (stMat (.mma none)) wref (en (stMat (.mma none))) (aMat (.mma none)) [] T)
    ∧ ((∃ T, MatHead (stMat (.mma (some 0))) wref (en (stMat (.mma (some 0)))) (aMat (.mma (some 0))) [] T)
      ∧ rowsReady 16 ((en (stMat (.mma (some 0)))).wave.stream 0) = false
      ∧ (en (stMat (.mma (some 0)))).wave.mayTake (aMat (.mma (some 0))) 0 = true
      ∧ rowsReady 16 { Stream.closed with opened := true, ended := true } = true)
    ∧ (∃ T, MatHead (stMat .ald) wref (en (stMat .ald)) (aMat .ald) [] T)
    ∧ (∃ T, MatHead (stMat .ast) wref (en (stMat .ast)) (aMat .ast) [] T)
    ∧ ∃ T, MatHead (stMat .aexp) wref (en (stMat .aexp)) (aMat .aexp) [] T :=
  ⟨matHead _ (by decide +kernel), ⟨matHead _ (by decide +kernel), by decide +kernel, by decide +kernel, by decide +kernel⟩,
    matHead _ (by decide +kernel), matHead _ (by decide +kernel), matHead _ (by decide +kernel)⟩

/-- A copy at the head of the queue; a send that was refused 100 µs ago, at the bound of the retry limit. -/
def stCopy (o : CopyOp) : State := { chWave fun w => { w with cq := [o] } with ns := 100000 }
def aSend : CopyOp := { aCopy 0 with kind := .send 11 0 false, since := some 0 }

theorem copyHead {o : CopyOp} (h : ((stCopy o).eng wref).isSome = true) (h1 : (en (stCopy o)).wave.cq = [o] ∧ (stCopy o).near = []
      ∧ (∀ g ∈ (stCopy o).groups, g.id = 1 → ∀ w ∈ g.waves, w.wix = 0 → w.held = [])
      ∧ ∀ d ∈ ((stCopy o).die (en (stCopy o)).group.die).dumps, d.group = (en (stCopy o)).group.id → d.halt = none) (h2 : o.fault = none) :
    CopyHead (stCopy o) wref (en (stCopy o)) o [] := ⟨eng_of h, h1.1, h2, ⟨h1.2.1, h1.2.2.1⟩, h1.2.2.2⟩

theorem witness_CopyPerforms :
    (CopyHead (stCopy (aCopy 0)) wref (en (stCopy (aCopy 0))) (aCopy 0) [] ∧ (aCopy 0).kind.link = none
      ∧ (aCopy 0).kind.global = false ∧ (aCopy 0).sync = none ∧ (aCopy 0).read = [] ∧ (aCopy 0).done < (aCopy 0).n
      ∧ ∃ bs, (stCopy (aCopy 0)).copyRead (en (stCopy (aCopy 0))) (aCopy 0) (aCopy 0).sector 2 (aCopy 0).read = (bs, none)
        ∧ (aCopy 0).sector ≤ bs.length
        ∧ (∃ u, (stCopy (aCopy 0)).copyDest (en (stCopy (aCopy 0))) (aCopy 0) (bs.take (aCopy 0).sector) = .ok u))
    ∧ ((stCopy (aCopy 0)).engPlace (en (stCopy (aCopy 0))).group 0 32 = some (.sp 1 0) ∧ (aCopy 0).sector = 32
      ∧ (stCopy (aCopy 0)).spBad (.sp 1 0) 32 = false ∧ (stCopy (aCopy 0)).netBad = [])
    ∧ (CopyHead (stCopy aSend) wref (en (stCopy aSend)) aSend [] ∧ aSend.kind.link = some 11 ∧ (en (stCopy aSend)).due = true ∧ aSend.done < aSend.n
      ∧ (en (stCopy aSend)).wave.gone = false ∧ (stCopy aSend).io.spireDown.contains 11 = false
      ∧ aSend.n ≤ aSend.done + aSend.sector ∧ (∀ v : State, v.arrivalLost (en (stCopy aSend)) aSend = false) ∧ (stCopy aSend).ns.toNat = 1000 * (stCopy aSend).io.sretry.toNat
      ∧ ∃ bs, (stCopy aSend).copyRead (en (stCopy aSend)) aSend aSend.sector 2 aSend.read = (bs, none) ∧ aSend.sector ≤ bs.length
        ∧ (∃ u, (stCopy aSend).copyDest (en (stCopy aSend)) aSend (bs.take aSend.sector) = .ok u)) := by
  refine ⟨⟨copyHead ?_ ?_ rfl, rfl, rfl, rfl, rfl, ?_, _, pair_none ?_, ?_, is_ok ?_⟩, ?_, copyHead ?_ ?_ rfl, rfl, ?_, ?_, ?_, ?_, ?_,
    fun _ => rfl, ?_, _, pair_none ?_, ?_, is_ok ?_⟩
  all_goals decide +kernel

/-- A stream of two rows from scratchpad indices: row `n` is next. -/
def rowStream (n : Nat) : Stream :=
  { Stream.closed with opened := true, desc := BitVec.ofNat 512 (1 + 2 ^ 5 + 2 ^ 6 + 128 * 2 ^ 32 + 2 * 2 ^ 320), row := n }
def stRow1 (n : Nat) : State := chWave fun w => { w with streams := aStream (rowStream n) }

theorem witness_CopyPerforms_streams :
    (((stRow1 2).eng wref).isSome = true ∧ (en (stRow1 2)).wave.streams[0]? = some (rowStream 2) ∧ (rowStream 2).opened = true
      ∧ (rowStream 2).ended = false ∧ (rowStream 2).fault = none ∧ (rowStream 2).global = false ∧ (rowStream 2).inRow = none
      ∧ sdCount (rowStream 2).desc = (rowStream 2).row)
    ∧ ((rowStream 1).row < sdCount (rowStream 1).desc ∧ sdMode (rowStream 1).desc = 1
      ∧ ∃ i b, (stRow1 1).streamWord (en (stRow1 1)) (rowStream 1) (sdIdx (rowStream 1).desc) ((rowStream 1).start.toNat + (rowStream 1).row)
          = .ok (i, b) ∧ i ≠ 2 ^ 32 - 1
        ∧ (((stRow1 1).streamRead (en (stRow1 1)) { rowStream 1 with psn := (rowStream 1).psn || b } (sdDspace (rowStream 1).desc)
            (sdBase (rowStream 1).desc + i * sdPitch (rowStream 1).desc) (sdRowb (rowStream 1).desc)).toOption).isSome = true)
    ∧ (∀ g ∈ st.groups, ∀ v ∈ g.waves, ∀ o ∈ v.cq, o.kind.link ≠ some 11)
    ∧ (stCopy aSend).groups.length = 1 ∧ (∀ g ∈ (stCopy aSend).groups, g.waves.length = 1 ∧ (∀ v ∈ g.waves, v.gone = false)
        ∧ ((stCopy aSend).launch? g.launch).map (fun l => l.repro) = some false ∧ ((stCopy aSend).die g.die).dumps = []) := by
  refine ⟨by decide +kernel, ⟨by decide +kernel, by decide +kernel, 0, false, ok_of ?_, ?_, ?_⟩, ?_, ?_⟩
  all_goals decide +kernel

/-- A table of two buckets in the memory of the loaded program: policy 0, one BF16 element (R265). -/
def aTable : BitVec 512 := BitVec.ofNat 512 (1 + 1 * 2 ^ 4 + 1 * 2 ^ 16 + 10 * 2 ^ 32 + 0x60000 * 2 ^ 256 + 0x70000 * 2 ^ 320
  + 0x80000 * 2 ^ 384 + 4 * 2 ^ 448)
def aReq (k : HKind) (slots : List Nat) : HReq :=
  { kind := k, thread := 0, a := 0, lo := 0, sel := 0x10001, desc := aTable, slots := slots, ready := true,
    olds := [(0, [0x80, 0x3F])], query := [(0, 0x80), (1, 0xBF)], room := 16, qbad := [], moving := none, bucket := 0, writes := [], wrote := 0,
    put := 0, out := [], psn := false, fault := none, stopped := 0, behind := none, quantum := 0, at_ := 0, split := none }
/-- Its slot bound, and a request at the head of the wave's queue. -/
def stReq (r : HReq) (bound : Bool) : State :=
  { chWave fun w => { w with hq := [r] } with hru := st.hru.set 0 { HruSlot.reset with bound := bound, desc := aTable, ctx := 1 } }

theorem hruHead {r : HReq} {b : Bool} (h : ((stReq r b).eng wref).isSome = true ∧ (en (stReq r b)).wave.hq = [r] ∧ r.fault = none
    ∧ (en (stReq r b)).due = true ∧ (stReq r b).slotBusy (en (stReq r b)) r = false
    ∧ ∀ d ∈ ((stReq r b).die (en (stReq r b)).group.die).dumps, d.group = (en (stReq r b)).group.id → d.halt = none) :
    HruHead (stReq r b) wref (en (stReq r b)) r [] := ⟨eng_of h.1, h.2.1, h.2.2.1, h.2.2.2.1, h.2.2.2.2.1, h.2.2.2.2.2⟩

/-- The request that unbinds the last slot; status; bind and bind with a clear. -/
def rUnbind : HReq := { aReq (.set 2) [63] with sel := 63 }
def rStatus : HReq := { aReq (.set 3) [0] with sel := 0 }
def rBind (op : Nat) : HReq := { aReq (.set op) [0] with sel := 0 }
def uBind (s : State) (r : HReq) : State := s.modSlot r.sel.toNat fun x =>
  { x with bound := false, binding := some (en s).ref, desc := r.desc, ctx := (en s).launch.ctx }

theorem witness_HruPerforms_set :
    (HruHead (stReq rUnbind false) wref (en (stReq rUnbind false)) rUnbind [] ∧ rUnbind.kind = .set 2
      ∧ rUnbind.sel.toNat + 1 = (stReq rUnbind false).hru.length ∧ rUnbind.behind = none ∧ (stReq rUnbind false).atSlot wref 63 = [])
    ∧ (HruHead (stReq rStatus true) wref (en (stReq rStatus true)) rStatus [] ∧ rStatus.kind = .set 3
      ∧ (stReq rStatus true).engPlace (en (stReq rStatus true)).group rStatus.a.toNat 64 = some (.sp 1 0)
      ∧ (stReq rStatus true).netDown (en (stReq rStatus true)).group rStatus.a.toNat = false
      ∧ rStatus.behind = none ∧ (stReq rStatus true).atSlot wref 0 = [])
    ∧ (HruHead (stReq (rBind 0) false) wref (en (stReq (rBind 0) false)) (rBind 0) []
      ∧ (rBind 0).behind = none ∧ (∀ op, (stReq (rBind op) false).atSlot wref 0 = [])
      ∧ ∃ n, (uBind (stReq (rBind 0) false) (rBind 0)).sumCounts 0 (2 ^ tdL aTable + tdOvfinit aTable - (rBind 0).bucket) (rBind 0).bucket
          (rBind 0).wrote = .ok n)
    ∧ HruHead (stReq (rBind 1) false) wref (en (stReq (rBind 1) false)) (rBind 1) []
      ∧ ∃ u1, (uBind (stReq (rBind 1) false) (rBind 1)).clearBuckets 0 (2 ^ tdL aTable + tdOvfn aTable - (rBind 1).bucket) (rBind 1).bucket
          (rBind 1).wrote = (u1, none) := by
  have h : ((uBind (stReq (rBind 1) false) (rBind 1)).clearBuckets 0 (2 ^ tdL aTable + tdOvfn aTable - (rBind 1).bucket) (rBind 1).bucket
      (rBind 1).wrote).2 = none := by decide +kernel
  refine ⟨⟨hruHead (by decide +kernel), rfl, by decide +kernel⟩, ⟨hruHead (by decide +kernel), rfl, by decide +kernel⟩,
    ⟨hruHead (by decide +kernel), rfl, fun _ => rfl, is_ok (by decide +kernel)⟩, hruHead (by decide +kernel), pair_of h⟩

theorem witness_HruPerforms :
    (HruHead (stReq (aReq .ins [0]) false) wref (en (stReq (aReq .ins [0]) false)) (aReq .ins [0]) []
      ∧ ((stReq (aReq .ins [0]) false).hruSlot 0).bound = false)
    ∧ (HruHead (stReq (aReq .rehash []) true) wref (en (stReq (aReq .rehash []) true)) (aReq .rehash []) []
      ∧ (aReq .rehash []).ready = true ∧ (aReq .rehash []).writes = [])
    ∧ (∀ ks ∈ [[], [0]], HruHead (stReq (aReq .probe ks) true) wref (en (stReq (aReq .probe ks) true)) (aReq .probe ks) [])
    ∧ (∀ k ∈ [HKind.ins, .del false, .del true, .rehash], HruHead (stReq (aReq k [0]) true) wref (en (stReq (aReq k [0]) true)) (aReq k [0]) []
      ∧ ((stReq (aReq k [0]) true).hruSlot 0).bound = true)
    ∧ ((aReq .probe [0]).vector (tdLen ((stReq (aReq .probe [0]) true).hruSlot 0).desc) = some ([0x80, 0xBF], false)
      ∧ (stReq (aReq .probe [0]) true).hashIn 0 [0x80, 0xBF] = .ok 0
      ∧ (∃ ch, (stReq (aReq .probe [0]) true).chain 0 0 = .ok ch ∧ (stReq (aReq .probe [0]) true).chainBad 0 ch = false))
    ∧ ((stReq (aReq .ins [0]) true).rowOnce (aReq .ins [0]) 0 = .ok [0x80, 0x3F] ∧ (stReq (aReq .ins [0]) true).hashIn 0 [0x80, 0x3F] = .ok 1
      ∧ (∃ r, (stReq (aReq .ins [0]) true).hruInsert 1 0 0 1 = .ok r))
    ∧ ((stReq (aReq (.del false) [0]) true).rowOnce (aReq (.del false) [0]) 0 = .ok [0x80, 0x3F]
      ∧ ∃ u, (stReq (aReq (.del false) [0]) true).hruDelete 1 0 0 1 = .ok u)
    ∧ (∃ u, (stReq (aReq (.del true) [0]) true).hruDelete 1 0 0 0 = .ok u)
    ∧ ((stReq (aReq .rehash [0]) true).hashIn 0 (vecOf (aReq .rehash [0]).olds 0) = .ok 1
      ∧ (stReq (aReq .rehash [0]) true).hashIn 0 [0x80, 0xBF] = .ok 0 ∧ (aReq .rehash [0]).moving = none)
    ∧ tdSlots aTable = 8 ∧ tdPolicy aTable ≠ 3 := by
  refine ⟨⟨hruHead (by decide +kernel), by decide +kernel⟩, ⟨hruHead (by decide +kernel), rfl, rfl⟩, ?_, ?_,
    ⟨by decide +kernel, ok_of (by decide +kernel), ?_⟩, ⟨ok_of (by decide +kernel), ok_of (by decide +kernel), is_ok (by decide +kernel)⟩,
    ⟨ok_of (by decide +kernel), is_ok (by decide +kernel)⟩, is_ok (by decide +kernel),
    ⟨ok_of (by decide +kernel), ok_of (by decide +kernel), rfl⟩, by decide +kernel⟩
  · intro ks hk; simp only [List.mem_cons, List.not_mem_nil, or_false] at hk
    rcases hk with rfl | rfl <;> exact hruHead (by decide +kernel)
  · intro k hk; simp only [List.mem_cons, List.not_mem_nil, or_false] at hk
    rcases hk with rfl | rfl | rfl | rfl <;> exact ⟨hruHead (by decide +kernel), by decide +kernel⟩
  · exact ⟨[⟨0, 0, List.replicate 8 0⟩], ok_of (by decide +kernel), by decide +kernel⟩

/-- A request at the head of the gate queue; lists with and without weights to add. -/
def aGate (k : GKind) : GReq := ⟨k, 0, 0, 64, 4, none⟩
def stGate (k : GKind) (head : Nat) : State := (chWave fun w => { w with gq := [aGate k] }).spWrite (.sp 1 0) (leBytes 16 head)

theorem gateHead {k : GKind} {n : Nat} (h : ((stGate k n).eng wref).isSome = true ∧ (en (stGate k n)).wave.gq = [aGate k]) :
    GateHead (stGate k n) wref (en (stGate k n)) (aGate k) [] := ⟨eng_of h.1, h.2⟩

theorem witness_GatePerforms :
    (∀ k ∈ [GKind.topk true true .max true, .hist true true, .scan true false true, .perm true],
      GateHead (stGate k 0) wref (en (stGate k 0)) (aGate k) [])
    ∧ (let src := (stGate (.hist true true) (6 * 2 ^ 64)).readList (en (stGate (.hist true true) (6 * 2 ^ 64))).group 0
      (true && src.pair && src.fkey) = true)
    ∧ (let src := (stGate (.perm true) 0).readList (en (stGate (.perm true) 0)).group 0
      src.fkey = false)
    ∧ ((stGate (.perm true) (4 * 2 ^ 64)).readList (en (stGate (.perm true) (4 * 2 ^ 64))).group 0).fkey = true
    ∧ (∀ b : Bool, ({ stGate (.scan true true true) 0 with netBad := if b then [(0, 0, 0)] else [] } : State).engSpDown
        (en (stGate (.scan true true true) 0)).group (aGate (.scan true true true)).lo.toNat = b) := by
  refine ⟨?_, by decide +kernel, by decide +kernel, by decide +kernel, by decide +kernel⟩
  intro k hk; simp only [List.mem_cons, List.not_mem_nil, or_false] at hk
  rcases hk with rfl | rfl | rfl | rfl <;> exact gateHead (by decide +kernel)

/-- Three stores that the model has held back; a store that a scope instance sees; a record that a die has put into its queue. -/
def h0 : Held := ⟨0, .phys ⟨.dev, 0x40000⟩, [1], 1⟩
def h1 : Held := ⟨0, .sp 1 0, [2], 1⟩
def h2 : Held := ⟨0, .reg 1 0 0 0 0, [3, 0, 0, 0], 1⟩
def stHeld : State := chWave fun w => { w with held := [h0, h1, h2] }
def vHeld : Wave := (stHeld.wave? 1 0).getD (cx st).wave
def stNear (h : Held) : State := { st with near := [⟨1, 0, 0, 1, h⟩] }
def aRec : FaultRec :=
  { n := 0, slot := some 0, va := 0, ctx := 1, kind := .load, fault := ⟨1, 0, 16⟩, core := 0, wslot := 0, mask := 1, count := 1, status := 0,
    excluded := false, late := false }
def stRec : State := st.modDie 0 fun d => { d with fqbase := 0x90000, fqSet := true, recs := [aRec] }

theorem witness_AccessesComplete :
    (stHeld.group? 1 = some ((stHeld.group? 1).getD (cx st).group) ∧ stHeld.wave? wref.group wref.wix = some vHeld
      ∧ vHeld.held = [h0, h1, h2] ∧ (∀ k < 3, ∀ h, vHeld.held[k]? = some h → vHeld.Loose k h) ∧ stHeld.near = []
      ∧ h0.scope ≤ 1 ∧ 1 < h0.target.top ∧ 1 < h1.target.top ∧ h0.target.global = true ∧ h1.target.global = false)
    ∧ (∀ h ∈ [h0, h1], (stNear h).near[0]? = some ⟨1, 0, 0, 1, h⟩ ∧ (∀ y ∈ (stNear h).near.take 0, y.store.meets h = false)
      ∧ ⟨1, 0, 0, 1, h⟩ ∉ (stNear h).near.eraseIdx 0)
    ∧ ((0x1FFFFFFFF : DWord).toNat < 2 ^ 56 ∧ ¬((1 : Nat) = 0 ∧ st.io.fw = true) ∧ (st.rootOf 1).getLsbD 63 = true
      ∧ ∃ e, st.walkEntry 0 1 (0x1FFFFFFFF : DWord).toNat 0 = some e)
    ∧ (∃ x, stRec.dies[0]? = some x ∧ x.fqSet = true ∧ (∀ r ∈ x.recs, r.slot.isSome = true)
      ∧ x.zeroHeld.contains x.fqTrailer = false)
    ∧ ∃ r, stRec.record? ⟨0, 0⟩ = some r ∧ r.status = 0 ∧ r.slot = some 0 ∧ stRec.changes = [] := by
  refine ⟨⟨getD_of ?_, getD_of ?_, ?_, ?_, ?_, ?_, ?_, ?_, ?_, ?_⟩, ?_, ⟨?_, ?_, ?_, some_of ?_⟩,
    ⟨{ Die.reset with fqbase := 0x90000, fqSet := true, recs := [aRec] }, ?_, ?_, ?_, ?_⟩, aRec, ?_, ?_, ?_, ?_⟩
  case refine_4 =>
    intro k hk h e
    have e0 : vHeld.held = [h0, h1, h2] := by decide +kernel
    unfold Wave.Loose
    rw [e0] at e ⊢
    match k, hk with
    | 0, _ => cases e; decide +kernel
    | 1, _ => cases e; decide +kernel
    | 2, _ => cases e; decide +kernel
  all_goals decide +kernel

/-- A load performed early: a word of device memory at the end of a page's sector, the last word of the scratchpad. -/
def stEarly : State := { st with relaxed := true }

theorem loader_of {s : State} (h : (s.loader wref 0).isSome = true) :
    s.loader wref 0 = some ((s.loader wref 0).getD (cx s)) := by
  obtain ⟨c, e⟩ := some_of h
  rw [e]; rfl

theorem witness_AccessesCompleteEarly : stEarly.relaxed = true ∧ ∃ c, stEarly.loader wref 0 = some c
    ∧ (0x401F8 : DWord).toNat % 2 ^ (3 : Fin 4).val = 0
    ∧ stEarly.translate c.group.die c.launch.ctx c.path.priv .load (0x401F8 : DWord).toNat (2 ^ (3 : Fin 4).val) = .ok ⟨.dev, 0x401F8⟩
    ∧ stEarly.physBad ⟨.dev, 0x401F8⟩ (2 ^ (3 : Fin 4).val) = false
    ∧ (65532 : DWord).toNat % 2 ^ (2 : Fin 4).val = 0
    ∧ stEarly.spPlace c.group false (65532 : DWord).toNat (2 ^ (2 : Fin 4).val) = .ok (.sp 1 65532)
    ∧ stEarly.spBad (.sp 1 65532) (2 ^ (2 : Fin 4).val) = false ∧ stEarly.netFails c (65532 : DWord).toNat = false ∧ c.wave.early = [] := by
  refine ⟨rfl, _, loader_of (by decide +kernel), by decide, ok_of (by decide +kernel), by decide +kernel, by decide,
    ok_of (by decide +kernel), by decide +kernel, by decide +kernel, by decide +kernel⟩

/-- R220: nothing orders a load after an earlier `rlx` load of another location; R221: a load behind an acquire is not read before
it. -/
def readEarly (o : BitVec 6) (r : Order) : Ctx :=
  after (.ldGB64 (.w 4) (.w 2) o .dev r) (stG.modWave 1 0 fun w =>
    { w with early := [⟨0, .phys ⟨.dev, 0x40000⟩, [7, 0, 0, 0, 0, 0, 0, 0], 0⟩] })
theorem test_load_early : (readEarly 0 .rlx).v64 0 (.w 4) = 7 := by decide +kernel
theorem test_acquire_voids_early : (readEarly 1 .rlx).wave.early ≠ [] ∧ (readEarly 1 .acq).wave.early = [] := by decide +kernel

/-- A path that waits, at a time. -/
def stWait (k : Wait) (ns : DWord) : State := { chPath fun p => { p with wait := k } with ns := ns }

theorem ctxAt_of {s : State} (h : s.ctx.isSome = true) (hc : s.cur = some ref) : s.ctxAt ref = some (cx s) := by
  have e := ctx_of h
  rwa [State.ctx, hc] at e

/-- Loads that have issued and not read: one of device memory, one of scratchpad. -/
def aLoad (p : Target) : Load := ⟨0, false, p, 2, true, .w 4⟩
def stLate (p : Target) : State := chWave fun w => { w with loads := [aLoad p] }
theorem witness_AccessesCompleteLate : ∃ bs cs : List Byte,
    LateRow (stLate (.phys ⟨.dev, 0x40000⟩)) wref 0 (aLoad (.phys ⟨.dev, 0x40000⟩)) (cx (stLate (.phys ⟨.dev, 0x40000⟩)))
      (.globalAccessComplete wref (.late 0)) bs
    ∧ LateRow (stLate (.sp 1 65534)) wref 0 (aLoad (.sp 1 65534)) (cx (stLate (.sp 1 65534))) (.scratchpadAccessComplete wref (.late 0)) cs
    ∧ (cx (stLate (.sp 1 65534))).wave.loads[0]? = some (aLoad (.sp 1 65534))
    ∧ ∀ y ∈ (cx (stLate (.sp 1 65534))).wave.loads.take 0, y.thread ≠ 0 :=
  ⟨_, _, .globalAccessComplete _ (ctxAt_of (by decide +kernel) rfl) rfl, .scratchpadAccessComplete _ _ (ctxAt_of (by decide +kernel) rfl) rfl,
    by decide +kernel, by decide +kernel⟩

def stLim (ns : DWord) : State := (stWait (.cwait 0) ns).modLaunch 0 fun l => Launch.with l 688
def stClaim : State := ((stWait (.claim 8) 0).modGroup 1 fun g => { g with claims := [ref] })

theorem witness_WaitsEnd :
    (∀ ns ∈ [(6 : DWord), 7], (stWait (.time 7) ns).ctxAt ref = some (cx (stWait (.time 7) ns))
      ∧ (stWait (.time 7) ns).running (cx (stWait (.time 7) ns)).group = true ∧ (cx (stWait (.time 7) ns)).path.wait = .time 7
      ∧ (cx (stWait (.time 7) ns)).launch.repro = false)
    ∧ ((stWait (.twait 1 ([0].map fun _ => (0, 0, 1)) 0) 1707).ctxAt ref = some (cx (stWait (.twait 1 ([0].map fun _ => (0, 0, 1)) 0) 1707))
      ∧ 4096 ≤ (stWait (.twait 1 ([0].map fun _ => (0, 0, 1)) 0) 1707).cyclesSince 0 0
      ∧ (cx (stWait (.twait 1 ([0].map fun _ => (0, 0, 1)) 0) 1707)).launch.waitlim = 0
      ∧ (stWait (.twait 1 ([0].map fun _ => (0, 0, 1)) 0) 1707).genAt (cx (stWait (.twait 1 ([0].map fun _ => (0, 0, 1)) 0) 1707)) 0 0 = .ok 0)
    ∧ (∃ (s : State) (c : Ctx), s.ctxAt ref = some c ∧ s.running c.group = true ∧ c.launch.repro = false ∧ c.First
      ∧ s.NoPromote .devRm .acq
      ∧ c.path.wait = .waita (.w 4) (c.perf.map fun t => (t, 0x40000, 5)) [] .devRm .acq
      ∧ s.GLoads c (fun _ => (0x40000 : DWord).toNat) 8 c.perf (fun _ => ⟨.dev, 0x40000⟩)
      ∧ ∀ t ∈ c.perf, BitVec.ofNat 64 (leNat (s.view c t ⟨.dev, 0x40000⟩ 8)) ≠ 5)
    ∧ (∀ ns ∈ [(1000 : DWord), 1001], (stLim ns).ctxAt ref = some (cx (stLim ns)) ∧ (stLim ns).running (cx (stLim ns)).group = true
      ∧ (cx (stLim ns)).path.wait = .cwait 0 ∧ (cx (stLim ns)).launch.waitlim = 1 ∧ (cx (stLim ns)).path.since = 0)
    ∧ (stClaim.ctxAt ref = some (cx stClaim) ∧ (cx stClaim).launch.repro = false ∧ (cx stClaim).group.claims = [ref]
      ∧ (cx stClaim).path.wait = .claim 8 ∧ 8 = (cx stClaim).group.pool ∧ (cx stClaim).wave.qended = false
      ∧ (cx stClaim).wave.seg + 32 * 8 = min 2048 (cx stClaim).launch.d) := by
  unfold Ctx.First Ctx.Together
  have h1 : ∀ ns ∈ [(6 : DWord), 7], (stWait (.time 7) ns).ctxAt ref = some (cx (stWait (.time 7) ns))
      ∧ (stWait (.time 7) ns).running (cx (stWait (.time 7) ns)).group = true ∧ (cx (stWait (.time 7) ns)).path.wait = .time 7
      ∧ (cx (stWait (.time 7) ns)).launch.repro = false := by
    intro ns h; simp only [List.mem_cons, List.not_mem_nil, or_false] at h
    rcases h with rfl | rfl <;> exact ⟨ctxAt_of (by decide +kernel) rfl, by decide +kernel⟩
  have h2 : ∀ ns ∈ [(1000 : DWord), 1001], (stLim ns).ctxAt ref = some (cx (stLim ns)) ∧ (stLim ns).running (cx (stLim ns)).group = true
      ∧ (cx (stLim ns)).path.wait = .cwait 0 ∧ (cx (stLim ns)).launch.waitlim = 1 ∧ (cx (stLim ns)).path.since = 0 := by
    intro ns h; simp only [List.mem_cons, List.not_mem_nil, or_false] at h
    rcases h with rfl | rfl <;> exact ⟨ctxAt_of (by decide +kernel) rfl, by decide +kernel⟩
  refine ⟨h1, ⟨ctxAt_of ?_ rfl, ?_, ?_, ok_of ?_⟩, ⟨stWait (.waita (.w 4) [(0, 0x40000, 5)] [] .devRm .acq) 0, _, ctxAt_of ?_ rfl, ?_, ?_, ?_, fun _ _ => ?_, ?_,
    gloads ?_, ?_⟩, h2, ctxAt_of ?_ rfl, ?_⟩
  all_goals decide +kernel

theorem witness_WaitsEnd_repro : let s := ((stWait (.twait 1 [] 0) 1001).modLaunch 0 fun l => Launch.with (Launch.with l 688) 199)
    s.ctxAt ref = some (cx s) ∧ s.running (cx s).group = true ∧ (cx s).launch.repro = true ∧ (cx s).path.wait = .twait 1 [] 0
      ∧ (cx s).launch.waitlim = 1 := ⟨ctxAt_of (by decide +kernel) rfl, by decide +kernel⟩

theorem pair_single {α β : Type} {p : α × List β} {d : β} (h : p.2.length = 1) : p = (p.1, [p.2.headD d]) := by
  obtain ⟨a, l⟩ := p
  match l, h with
  | [_], _ => rfl

/-- Reset with die 0, the Belfry or the I/O die changed, at a time. -/
def onDie (ns : DWord) (f : Die → Die) : State := { State.reset.modDie 0 f with ns := ns }
def onBelfry (ns : DWord) (f : Belfry → Belfry) : State := { State.reset with ns := ns, belfry := f Belfry.reset }
def onIo (ns : DWord) (f : Io → Io) : State := { State.reset with ns := ns, io := f Io.reset }

theorem witness_PowerEvents :
    (State.reset.clusters[0]? = some Cluster.reset ∧ ∀ pq, State.reset.entrants 0 pq = [])
    ∧ 63 = (({ State.reset with clusters := State.reset.clusters.map fun k => { k with cores := k.cores.map fun _ => ⟨none, 63, []⟩ } } : State).coreSched
        0 0).idle
    ∧ ((onDie 0 id).dies[0]? = some Die.reset ∧ Die.reset.down = false ∧ Die.reset.fop = (Die.reset.lctl.extractLsb' 8 6).toNat
      ∧ Die.reset.tj.toNat ≤ 16 * (Die.reset.lctl.extractLsb' 0 8).toNat)
    ∧ ((onDie 0 fun d => { d with fop := 33 }).dies[0]? = some { Die.reset with fop := 33 } ∧ (Die.reset.lctl.extractLsb' 8 6).toNat < 33)
    ∧ (State.reset.dies.length = 4 ∧ State.reset.clusters.length = 8
      ∧ 16 * State.reset.io.ttrip = min ([2000].foldl max 0) 4095 ∧ min ([1999].foldl max 0) 4095 < 16 * State.reset.io.ttrip)
    ∧ ((onDie 100000000 fun d => { d with hotSince := some 0 }).dies[0]? = some { Die.reset with hotSince := some 0 }
      ∧ 100000000 ≤ (onDie 100000000 id).ns.toNat - 0 ∧ (onDie 99999999 id).ns.toNat - 0 < 100000000)
    ∧ ∀ g ∈ State.reset.groups, g.die ≠ 0 :=
  ⟨⟨rfl, fun _ => rfl⟩, by decide +kernel, ⟨rfl, rfl, by decide +kernel, by decide +kernel⟩, ⟨rfl, by decide +kernel⟩,
    ⟨rfl, rfl, by decide +kernel, by decide +kernel⟩, ⟨rfl, by decide +kernel, by decide +kernel⟩, nofun⟩

/-- A die at its limit for 100 ms, with a group on it. -/
def stHot : State := { st.modDie 0 fun d => { d with hotSince := some 0 } with ns := 100000000 }
theorem witness_PowerEvents_shutdown : stHot.dies[0]? = some { Die.reset with hotSince := some 0 } ∧ 100000000 ≤ stHot.ns.toNat - 0
    ∧ (∃ g ∈ stHot.groups, g.die = 0) ∧ (∀ g ∈ stHot.groups, g.die = 0 → g.launch = (bootLaunch 0).id)
    ∧ (∀ g ∈ stHot.groups, ∀ h ∈ stHot.groups, g.id = h.id → g = h) ∧ stHot.launch? 0 = some (bootLaunch 0) ∧ stHot.NoChanges
    ∧ stHot.place 0 (bootLaunch 0).ctx true .atomic (bootLaunch 0).counterVa.toNat 32 = .ok [(⟨.dev, 0x40000⟩, 32)]
    ∧ (bootLaunch 0).left = 0 ∧ ∀ g ∈ stHot.groups, g.band = none := by
  unfold State.NoChanges
  have e : stHot.groups.length = 1 ∧ (stHot.groups.any fun g => g.die == 0) = true := by decide +kernel
  have e1 := single (d := (cx st).group) e.1
  refine ⟨?_, ?_, ⟨stHot.groups.headD (cx st).group, ?_, ?_⟩, ?_, ?_, ?_, ?_, ok_of ?_, ?_, ?_⟩
  case refine_3 => rw [e1]; exact List.mem_cons_self
  case refine_6 =>
    intro g hg h hh _
    rw [e1] at hg hh
    simp only [List.mem_cons, List.not_mem_nil, or_false] at hg hh
    rw [hg, hh]
  all_goals decide +kernel

/-- A frame of the shelf: 49.5 Hz, 54 V, 800 W, `FVALID`; its check word is the CRC-32 of IEEE 802.3, computed apart. -/
def aFrame : BitVec 256 := 0xda7015bf000000000000000000000000000003200002d2f00000c15c0001b31f

theorem witness_BelfryEvents :
    (frameValid aFrame = true ∧ frameValid (aFrame ^^^ 0x10000) = false)
    ∧ (2000000 ≤ (onBelfry 2000000 id).ns.toNat - (onBelfry 2000000 id).belfry.lastFrame.getD 0
      ∧ (onBelfry 1999999 id).ns.toNat - (onBelfry 1999999 id).belfry.lastFrame.getD 0 < 2000000)
    ∧ (∀ k ∈ State.reset.clusters, k.rate ≤ 1024)
    ∧ ((onBelfry 5 fun b => { b with overSince := some 0, unattNext := 5 }).belfry.overSince.isSome = true
      ∧ (onBelfry 5 fun b => { b with overSince := some 0, unattNext := 5 }).belfry.unattNext ≤ 5)
    ∧ ((onBelfry 1000000 fun b => { b with okSince := some 0, unatt := true }).belfry.overSince = none
      ∧ 1000000 ≤ (onBelfry 1000000 fun b => { b with okSince := some 0, unatt := true }).ns.toNat - 0)
    ∧ ((onBelfry 5 fun b => { b with restore := [(7, 7, 5)] }).belfry.restore = [(7, 7, 5)]
      ∧ 5 ≤ (onBelfry 5 fun b => { b with restore := [(7, 7, 5)] }).ns.toNat
      ∧ (onBelfry 5 fun b => { b with restore := [(7, 7, 5)] }).clusters[7]? = some Cluster.reset) := by decide +kernel

/-- A window for the image on each link; an image with a stamp in host memory; a dump of the group, begun or not. -/
def stCk (n : Nat) (halted back : Bool) : State :=
  { State.reset with
    belfry := { Belfry.reset with ckpt := n, halted := halted, restoring2 := back, ckwin := 1 }
    hostMem := [(2 ^ 30 * 768, 7)]
    io := { Io.reset with trained := [0, 1], obw := [1 + 393217 * 2 ^ 64, 3 + 393217 * 2 ^ 64] } }
def aDump : DumpReq := ⟨1, 0, none, false, 0, []⟩
def stDump (h : Option DWord) : State := st.modDie 0 fun d => { d with dumps := [{ aDump with halt := h }] }

theorem witness_CheckpointAndDumpEvents :
    ((stCk 1 false false).belfry.ckpt = 1 ∧ (stCk 0 false false).belfry.ckpt ≠ 1 ∧ (stCk 0 false false).belfry.halted = false
      ∧ (stCk 0 false false).near = [] ∧ (stCk 0 false false).groups = [] ∧ (stCk 0 false false).ckwinOk = true
      ∧ (stCk 0 false false).imageStamp ≠ 0 ∧ State.reset.ckwinOk = false)
    ∧ ((stCk 1 true false).MemOk ∧ (stCk 1 true false).belfry.halted = true ∧ (stCk 1 true false).belfry.restoring2 = false
      ∧ (stCk 1 true false).enginesIdle = true ∧ (stCk 1 true false).linkUp 0 = true ∧ (stCk 1 true false).ckBase + devBytes + 8 ≤ 2 ^ 51
      ∧ (stCk 1 true false).NoneKept)
    ∧ ((stCk 3 true false).belfry.halted = true ∧ (stCk 3 true false).belfry.ckpt = 3 ∧ (stCk 3 true false).NoneKept)
    ∧ ((stCk 1 true true).NoneKept ∧ (stCk 1 true true).MemOk ∧ (stCk 1 true true).belfry.restoring2 = true ∧ (stCk 1 true true).linkUp 0 = true)
    ∧ ((stDump none).belfry.halted = false ∧ ((stDump none).die 0).dumps = [aDump]
      ∧ ((stDump none).group? aDump.group).map (fun g => (g.launch, g.ended)) = some (0, false) ∧ ((stDump none).launch? 0).isSome = true)
    ∧ (((stDump (some 1)).die 0).dumps.map (fun d => d.halt) = [some 1]
      ∧ ((stDump (some 1)).group? 1).map (fun g => ((stDump (some 1)).giveUpAll g.id (g.waves.map fun w => w.wix)).2) = some []) := by
  unfold State.MemOk State.NoneKept
  refine ⟨?_, ?_, ?_, ?_, ?_, ?_⟩
  all_goals decide +kernel

/-- A launch of one group that has still to be placed; a group that has settled. -/
def stNew : State :=
  { State.reset with
    launches := [{ bootLaunch 0 with gord := 0, rl := [.box [0, 0, 0, 0] [1, 1, 1, 1]], left := 1 }], nextId := 1 }
def lNew : Launch := stNew.launches.headD (bootLaunch 0)
/-- A group that has settled, with 5 units left under its counter; pool launches, empty and closed or not. -/
def stEnd : State := (chGroup fun g =>
  { g with exit := some 0, waves := g.waves.map fun w => { w with path0 := none } }).devWrite 0x40000 [5]
def stPool (closed : Bool) : State :=
  (st.modLaunch 0 fun l => { l with lrec := (l.lrec ^^^ 1 <<< 192) ||| 2 <<< 192 ||| 0x60000 <<< 1408, left := 1 }).devWrite 0x60010 [if closed then 1 else 0]
/-- A pool launch at its first task: the extent it dispatches with, `TAIL`, `CLOSED`, the entry address of task 1. -/
def aPool (tail : Nat) (closed : Bool) : Nat := packFields [(64, tail), (128, closed.toNat), (136, 4), (144, 16), (192, 0x70000)]
def stTask (ext tail : Nat) (closed : Bool) (e1 : Nat) : State :=
  { (st.modLaunch 0 fun l => { l with
      lrec := (l.lrec ^^^ 1 <<< 192) ||| 2 <<< 192 ||| 0x60000 <<< 1408, left := 1, poolHdr := BitVec.ofNat 512 (aPool tail closed)
      shape := [ext, 1, 1, 1] }) with
    mem := st.mem ++ cells 0x60000 (leBytes 64 (aPool tail closed)) ++ cells 0x70000 (leBytes 8 0x30000 ++ leBytes 8 0 ++ leBytes 8 e1) }
def lTask (s : State) : Launch := s.launches.headD (bootLaunch 0)
/-- A reproducible launch that has been stopped, its one wave at the end of a quantum with operations to commit, and a copy. -/
def stCommit (cs : List CEntry) (q : List CopyOp) : State :=
  (st.modLaunch 0 fun l => { Launch.with l 199 with stopped := true }).modWave 1 0 fun w =>
    { w with qinstr := 4096, cbuf := cs, cq := q }
def toMem : CopyOp := { aCopy 0 with kind := .s2g, d := 0x40000, quantum := 0 }

theorem witness_MarverEvents :
    (stCk 1 true false).belfry.halted = true
    ∧ (stNew.belfry.halted = false ∧ stNew.launches = [lNew] ∧ lNew.present ≤ 7 ∧ lNew.repro = false ∧ lNew.cutmode ≠ 3
      ∧ lNew.pool = false ∧ lNew.bandn ≤ 1 ∧ lNew.logrec = false ∧ stNew.blocks = []
      ∧ ∃ l1 p, stNew.nextPlans (stNew.lookAt lNew) = (l1, [p]) ∧ l1.id = lNew.id ∧ l1.lrec = lNew.lrec
        ∧ stNew.placePlans (stNew.lookAt lNew) (fun _ => false) [p] = some [(0, 0, 0)] ∧ p.entry.toNat % 64 = 0
        ∧ ∀ g ∈ stNew.groups, g.id ≠ stNew.nextId)
    ∧ (∃ g l, stEnd.group? 1 = some g ∧ g.id = 1 ∧ g.settled = true ∧ stEnd.launch? 0 = some l ∧ g.launch = 0 ∧ l.repro = false
      ∧ l.outmap = none ∧ l.logrec = false ∧ g.killed = false ∧ (∀ x ∈ stEnd.groups, ∀ w ∈ x.waves, w.held = [])
      ∧ stEnd.place g.die l.ctx true .atomic l.counterVa.toNat 32 = .ok [(⟨.dev, 0x40000⟩, 32)]
      ∧ l.pool = false ∧ l.cutmode ≠ 3 ∧ g.threads = 1 ∧ stEnd.mem.nat 0x40000 8 = 5)
    ∧ (stEnd.NoChanges ∧ stEnd.near = [] ∧ ∃ u, Lowered 0 1 64 stEnd 0x40000 1 u)
    ∧ (∃ l, (stPool true).launch? 0 = some l ∧ l.pool = true ∧ (stPool true).poolNow l = some (0, true) ∧ l.stopped = false
      ∧ l.left ≠ 0 ∧ 0 = l.poolHead)
    ∧ ((stPool true).NoChanges ∧ ∃ u, Lowered 0 1 64 (stPool true) 0x40000 1 u)
    ∧ (∃ l, (stPool false).launch? 0 = some l ∧ (stPool false).poolNow l = some (0, false))
    ∧ (∃ l, stNew.launch? 0 = some l ∧ (stNew.nextPlans l).2 ≠ [] ∧ l.since = none)
    ∧ (∃ l, st.launch? 0 = some l ∧ (st.nextPlans l).2 = [] ∧ st.quantumOver l = false) := by
  unfold State.NoChanges
  have hN : ((stNew.nextPlans (stNew.lookAt lNew)).2.length = 1 ∧ (stNew.nextPlans (stNew.lookAt lNew)).1.id = lNew.id
      ∧ (stNew.nextPlans (stNew.lookAt lNew)).1.lrec = lNew.lrec
      ∧ stNew.placePlans (stNew.lookAt lNew) (fun _ => false) [(stNew.nextPlans (stNew.lookAt lNew)).2.headD bootPlan] = some [(0, 0, 0)]
      ∧ ((stNew.nextPlans (stNew.lookAt lNew)).2.headD bootPlan).entry.toNat % 64 = 0) := by decide +kernel
  refine ⟨?_, ⟨?_, rfl, ?_, ?_, ?_, ?_, ?_, ?_, rfl, (stNew.nextPlans (stNew.lookAt lNew)).1,
      (stNew.nextPlans (stNew.lookAt lNew)).2.headD bootPlan, pair_single hN.1, hN.2.1, hN.2.2.1, hN.2.2.2.1, hN.2.2.2.2, nofun⟩,
    ⟨(stEnd.group? 1).getD (cx st).group, (stEnd.launch? 0).getD lNew, getD_of ?_, ?_, ?_, getD_of ?_, ?_, ?_, ?_, ?_, ?_, ?_, ok_of ?_, ?_, ?_, ?_, ?_⟩,
    ⟨?_, ?_, _, lowered_one' (p := ⟨.dev, 0x40000⟩) (by unfold lowers; decide +kernel)⟩,
    ⟨((stPool true).launch? 0).getD lNew, getD_of ?_, ?_, ?_, ?_, ?_, ?_⟩,
    ⟨?_, _, lowered_one' (p := ⟨.dev, 0x40000⟩) (by unfold lowers; decide +kernel)⟩,
    ⟨((stPool false).launch? 0).getD lNew, getD_of ?_, ?_⟩,
    ⟨(stNew.launch? 0).getD lNew, getD_of ?_, ?_, ?_⟩, ⟨(st.launch? 0).getD lNew, getD_of ?_, ?_, ?_⟩⟩
  all_goals decide +kernel

/-- One task at the pool's extent; one of two, the pool closed behind it; one of two, the next with another entry address. -/
theorem witness_MarverEvents_pool : ∀ x ∈ [(1, 1, false, 0), (2, 1, true, 0), (2, 2, false, 0x30040)],
    let s := stTask x.1 x.2.1 x.2.2.1 x.2.2.2
    (s.belfry.halted = false ∧ s.launches = [lTask s] ∧ (lTask s).present ≤ 7 ∧ (lTask s).repro = false ∧ (lTask s).pool = true
      ∧ (lTask s).stopped = false ∧ (lTask s).left ≠ 0 ∧ (lTask s).bandn ≤ 1 ∧ (lTask s).logrec = false ∧ s.blocks = [] ∧ s.changes = [] ∧ s.still = false
      ∧ (∀ g ∈ s.groups, g.id ≠ s.nextId) ∧ (lTask s).held = false ∧ (lTask s).poolExtent = x.1 ∧ (lTask s).poolHead = 0
      ∧ s.taskEntry (lTask s) 0 = some 0x30000 ∧ s.poolNow (lTask s) = some (x.2.1, x.2.2.1)
      ∧ (1 = x.1 ∨ (1 < x.2.1 ∧ s.taskEntry (lTask s) 1 ≠ some 0x30000) ∨ (1 = x.2.1 ∧ x.2.2.1 = true))
      ∧ s.tilesReady (lTask s) [0, 0, 0, 0] [1, 1, 1, 1] = true
      ∧ s.placeFree (s.lookAt (lTask s)) (fun _ => false) [1] = some (2, [(0, 136)]))
    ∧ s.place 0 (lTask s).ctx true .store (lTask s).poolhdr.toNat 8 = .ok [(⟨.dev, 0x60000⟩, 8)]
    ∧ ∃ u, Lowered 1 (lTask s).ctx 64 (s.physWrite ⟨.dev, 0x60000⟩ (leBytes 8 1)) (lTask s).counterVa (-1) u := by
  intro x h; simp only [List.mem_cons, List.not_mem_nil, or_false] at h
  rcases h with rfl | rfl | rfl
  all_goals
    refine ⟨?_, ok_of ?_, _, lowered_one' (p := ⟨.dev, 0x40000⟩) ?_⟩
    all_goals first
      | decide +kernel
      | (unfold lowers; decide +kernel)

theorem witness_MarverEvents_commit : ∀ q ∈ [[], [toMem]], ∃ l g v,
    let s := stCommit [.store ⟨.dev, 0x40000⟩ [1], .atom ⟨.dev, 0x40000⟩ false .add 1 0 2] q
    s.launches = [l] ∧ l.repro = true ∧ l.stopped = true ∧ s.groups.filter (fun x => x.launch == 0) = [g]
      ∧ s.group? 1 = some g ∧ g.id = 1 ∧ g.halted = false ∧ g.ended = false ∧ g.claims = [] ∧ g.waves = [v] ∧ v.ended = false
      ∧ l.quantum = v.qinstr ∧ v.cq = q ∧ v.hq = [] ∧ (∀ x ∈ v.streams, x.opened = false)
      ∧ (v.path? false).map (fun q => q.wait) = some .none ∧ v.path? true = none := by
  intro q h; simp only [List.mem_cons, List.not_mem_nil, or_false] at h
  rcases h with rfl | rfl
  all_goals
    refine ⟨(stCommit _ _).launches.headD lNew, ((stCommit _ _).groups.filter (fun x => x.launch == 0)).headD (cx st).group,
      (((stCommit _ _).groups.filter (fun x => x.launch == 0)).headD (cx st).group).waves.headD (cx st).wave, single ?_, ?_, ?_, single ?_, ?_, ?_,
      ?_, ?_, ?_, single ?_, ?_, ?_, ?_, ?_, ?_, ?_, ?_⟩
    all_goals decide +kernel

/-- The copy moves its bytes when the quantum's buffer has been committed. -/
def committed : State :=
  ((stCommit [.store ⟨.dev, 0x40000⟩ [1]] [toMem]).commits [.store ⟨.dev, 0x40000⟩ [1]]).modWave 1 0 fun w => { w with cbuf := [], qcount := w.qcount + 1 }
theorem witness_MarverEvents_copy : toMem.kind.link = none ∧ toMem.kind.global = true ∧ toMem.fault = none ∧ toMem.since = none
    ∧ (committed.eng wref).isSome = true
    ∧ ((committed.copyNow (en committed) (toMem.n + 1) toMem).wave? 1 0).map (fun w => w.cq) = some [] := by decide +kernel

/-- A command in the command record, before firmware starts or after. -/
def stMb (fw : Bool) (opc n : Nat) : State :=
  { State.reset with mem := [(0x1010, 4)], io := { Io.reset with fw, cmd := BitVec.ofNat 1024 (opc + 2 ^ 32 + n * 2 ^ 64) } }
def jobRec : FaultRef := ⟨0, 0⟩
def waiting (s : State) (fault : Option FaultRef) : State :=
  { s with io := { s.io with control := some ⟨0, 0, false, fault⟩ } }

def isRefused : Option MgmtEnd → Bool
  | some .refused => true
  | _ => false
def doneAs (io : Io) : Option MgmtEnd → Bool
  | some (.done u) => u.io == io
  | _ => false
theorem refused_of {e : Option MgmtEnd} (h : isRefused e = true) : e = some .refused := by
  rcases e with _ | (_ | _ | _) <;> simp_all [isRefused]
theorem doneAs_of {e : Option MgmtEnd} {io : Io} (h : doneAs io e = true) : ∃ u, e = some (.done u) ∧ u.io = io := by
  rcases e with _ | (_ | _ | _) <;> simp_all [doneAs]

/-- A job list with one record in it, of an operation; a launch record and a counter stand where it points. -/
def stJob (op arg : Nat) : State :=
  let s : State := { State.reset with io := { Io.reset with fw := true, jladdr := 2 ^ 63 + 0x1000, control := some ⟨0, 1, false, none⟩ } }
  ((s.devWrite 0x1000 (leBytes 8 1)).devWrite 0x1010 [4]).devWrite 0x1018 (leBytes 8 0x2000) |>.devWrite 0x2000 (leBytes 16 (op + arg * 2 ^ 64))
    |>.devWrite 0x50000 (leBytes 256 (bootRecord ^^^ (1 <<< 224)).toNat)
def jobAt (s : State) (ok : Bool) (op : Nat) (arg : DWord) : Bool :=
  match s.job with
  | some (k, j, false) => k.fault.isNone && j.ok == ok && j.op == op && j.arg == arg && j.b == 0
  | _ => false
theorem job_of {s : State} {ok : Bool} {op : Nat} {arg : DWord} (h : jobAt s ok op arg = true) :
    ∃ k j, s.job = some (k, j, false) ∧ k.fault = none ∧ j.ok = ok ∧ j.op = op ∧ j.arg = arg ∧ j.b = 0 := by
  unfold jobAt at h
  split at h
  · next k j e => exact ⟨k, j, e, by simpa [and_assoc] using h⟩
  · cases h

/-- The launch that a job names, read by the control launch. -/
def qJ : Reader := ⟨0, false, none⟩
def lJob (s : State) : Launch := lOf s qJ 0 0x50000 0
def jobFacts (s : State) : Prop := s.LaunchReads qJ 0 0 0x50000 0 (lJob s) ⟨.dev, 0x40000⟩ (vOf s qJ (lJob s))
theorem job_facts : jobFacts (stJob 1 0x50000) ∧ (stJob 1 0x50000).refusal (lJob (stJob 1 0x50000)) = none
    ∧ (lJob (stJob 1 0x50000)).mapRefusal = none ∧ (vOf (stJob 1 0x50000) qJ (lJob (stJob 1 0x50000))).extractLsb' 128 64 = 0
    ∧ (stJob 1 0x50000).countersUp qJ (lJob (stJob 1 0x50000)).ctx parentDepth 0 = ([], none) :=
  ⟨reads_of (by decide +kernel), by decide +kernel⟩

theorem witness_MailboxEvents :
    (State.reset.io.cmd.extractLsb' 32 32 = State.reset.io.resp.extractLsb' 32 32
      ∧ (stMb true 1 0x810).io.cmd.extractLsb' 32 32 ≠ (stMb true 1 0x810).io.resp.extractLsb' 32 32)
    ∧ ((stMb true 1 0x810).mgmtRead 0x810 = some 100 ∧ (100 : Nat) < 2 ^ 64 ∧ (stMb true 1 5).mgmtRead 5 = none
      ∧ (stMb true 2 5).mgmtWrite 5 ((stMb true 2 5).io.value 5) = none
      ∧ (∃ u, (stMb true 2 0x20).mgmtWrite 0x20 ((stMb true 2 0x20).io.value 0x20) = some (.done u) ∧ u.io = (stMb true 2 0x20).io))
    ∧ ((stMb true 3 0x1000).io.control = none ∧ (stMb true 3 0x1000).belfry.ckpt ≠ 1 ∧ (stMb true 3 0x1000).physBad ⟨.dev, 0x1000⟩ 64 = false
      ∧ ((stMb true 3 0x1000).jobList 0x1000).2 = true
      ∧ (waiting (stMb true 4 0) (some jobRec)).io.control = some ⟨0, 0, false, some jobRec⟩)
    ∧ (∃ u, State.reset.mgmtWrite 0x500 0 = some (.done u) ∧ u.io = Io.reset) ∧ State.reset.mgmtWrite 0x20 0x80 = some .refused
    ∧ (∃ v : DWord, v.getLsbD 23 = false ∧ v.getLsbD 31 = false ∧ v.extractLsb' 44 20 = 0 ∧ 100 ≤ (v.extractLsb' 24 7).toNat
      ∧ (v.extractLsb' 0 16).toNat ≤ State.reset.io.pkglim ∧ max 1 (v.extractLsb' 16 7).toNat ≤ State.reset.io.slewlim
      ∧ (v.extractLsb' 24 7).toNat ≤ State.reset.io.ttrip ∧ (v.extractLsb' 32 12 : BitVec 12) &&& ~~~State.reset.io.spmask = 0)
    ∧ (∃ v : DWord, v.getLsbD 23 = false ∧ v.getLsbD 31 = false ∧ v.extractLsb' 44 20 = 0 ∧ 100 ≤ (v.extractLsb' 24 7).toNat
      ∧ State.reset.io.pkglim < (v.extractLsb' 0 16).toNat)
    ∧ (∃ (v : Word) (g : Group), v.getLsbD 31 = true ∧ v.extractLsb' 10 6 = 0 ∧ v.extractLsb' 22 9 = 0 ∧ (v.extractLsb' 0 10).toNat = 0
      ∧ (v.extractLsb' 16 6).toNat = 0 ∧ State.reset.groups.find? (fun x => x.core == 0 && x.waves.any fun w => w.wslot == 0) = none
      ∧ st.groups.find? (fun x => x.core == 0 && x.waves.any fun w => w.wslot == 0) = some g ∧ st.dumpFits = true
      ∧ (st.die g.die).dumps = [] ∧ g.die < st.dies.length)
    ∧ (∃ k j, (stJob 1 0x50000).job = some (k, j, false) ∧ k.fault = none ∧ j.ok = true ∧ j.op = 1 ∧ j.arg = 0x50000 ∧ j.b = 0)
    ∧ (∃ l v, (stJob 1 0x50000).LaunchReads ⟨0, false, none⟩ 0 0 0x50000 0 l ⟨.dev, 0x40000⟩ v ∧ (stJob 1 0x50000).refusal l = none
      ∧ l.mapRefusal = none ∧ v.extractLsb' 128 64 = 0 ∧ (stJob 1 0x50000).countersUp ⟨0, false, none⟩ l.ctx parentDepth 0 = ([], none))
    ∧ (∃ k j, (stJob 2 0x40000).job = some (k, j, false) ∧ k.fault = none ∧ j.ok = true ∧ j.op = 2 ∧ j.arg = 0x40000 ∧ j.b = 0)
    ∧ (∃ k j, (stJob 3 0x40000).job = some (k, j, false) ∧ k.fault = none ∧ j.ok = true ∧ j.op = 3 ∧ j.arg = 0x40000 ∧ j.b = 0)
    ∧ (∀ op ∈ [2, 3], (stJob op 0x40000).translate 0 0 false .atomic (0x40000 : DWord).toNat 32 = .ok ⟨.dev, 0x40000⟩
      ∧ (stJob op 0x40000).physBad ⟨.dev, 0x40000⟩ 32 = false ∧ (stJob op 0x40000).changes = [] ∧ (stJob op 0x40000).still = false
      ∧ (stJob op 0x40000).launches = [])
    ∧ (∃ k j, (stJob 5 0).job = some (k, j, false) ∧ k.fault = none ∧ j.ok = false ∧ j.op = 5 ∧ j.arg = 0 ∧ j.b = 0) ∧ (stJob 5 0).io.jlBase + 16 ≤ devBytes := by
  have hj : jobFacts (stJob 1 0x50000) ∧ _ := job_facts
  refine ⟨?_, ⟨?_, ?_, ?_, ?_, doneAs_of ?_⟩, ?_, doneAs_of ?_, refused_of ?_, ⟨0x0FFF7D400A28, ?_⟩, ⟨0x0FFF7D40FFFF, ?_⟩,
    ⟨0x80000000, (st.groups.find? (fun x => x.core == 0 && x.waves.any fun w => w.wslot == 0)).getD (cx st).group, ?_, ?_, ?_, ?_, ?_, ?_,
      getD_of ?_, ?_, ?_, ?_⟩,
    job_of ?_, ⟨_, _, hj⟩, job_of ?_, job_of ?_, ?_, job_of ?_, ?_⟩
  all_goals decide +kernel

/-- Management registers: writes that are taken and writes that are refused, at the ends of their rows. -/
theorem witness_MailboxEvents_registers :
    (∃ v, (∃ after, MgmtRow State.reset 0x17 v (Clear v [(11, 5)]) after) ∧ Clear v [(11, 5)])
    ∧ (∃ v, (∃ after, MgmtRow State.reset 0x27 v (Clear v [(7, 1), (15, 1), (23, 9)]) after) ∧ ¬Clear v [(7, 1), (15, 1), (23, 9)])
    ∧ (∃ v, (∃ after, MgmtRow State.reset 0x303 v (Clear v [(0, 16)] ∧ at_ v 0 64 < devBytes) after) ∧ Clear v [(0, 16)] ∧ at_ v 0 64 = devBytes)
    ∧ (∃ v, (∃ after, MgmtRow State.reset 0x30F v (6 ≤ at_ v 0 32 ∧ at_ v 0 32 ≤ 16) after) ∧ at_ v 0 32 = 16)
    ∧ (∃ v, (∃ after, MgmtRow State.reset 0x522 v (Clear v [(2, 30)]) after) ∧ Clear v [(2, 30)] ∧ v.getLsbD 0 = true)
    ∧ (∃ v, (∃ after, MgmtRow State.reset 0x13FF v (Clear v [(6, 2), (48, 16), (64, 6), (152, 8), (384, 128)] ∧ at_ v 128 24 ≠ 0) after)
      ∧ Clear v [(6, 2), (48, 16), (64, 6), (152, 8), (384, 128)] ∧ at_ v 128 24 ≠ 0)
    ∧ ((stMb true 2 0x17).io.cmd.extractLsb' 0 16 = 2 ∧ ∃ k ok after, (stMb true 2 0x17).clusters[7]? = some k
      ∧ MgmtRow (stMb true 2 0x17) 0x17 ((stMb true 2 0x17).io.value 0x17) ok after)
    ∧ ReadOnly 0x30 ∧ ReadOnly 0x812 ∧ State.reset.mgmtRead 0x18 = none := by
  unfold Clear at_
  refine ⟨⟨0x400, ⟨_, .cluster (.callow 7 Cluster.reset _ ?_ ?_)⟩, ?_⟩, ⟨0x80, ⟨_, .cluster (.cslew 7 Cluster.reset _ ?_ ?_)⟩, ?_⟩,
    ⟨BitVec.ofNat 512 devBytes, ⟨_, .die (.fqbase 3 Die.reset _ ?_ ?_ ?_)⟩, ?_⟩, ⟨16, ⟨_, .die (.ellog 3 Die.reset _ ?_ ?_)⟩, ?_⟩,
    ⟨1, ⟨_, .belfry (.bckgo _)⟩, ?_⟩, ⟨2 ^ 128, ⟨_, .io (.arrival 1023 _ ?_)⟩, ?_⟩,
    ⟨?_, Cluster.reset, _, _, ?_, .cluster (.callow 7 Cluster.reset _ ?_ ?_)⟩, ?_, ?_, ?_⟩
  all_goals first
    | decide +kernel
    | (unfold ReadOnly; decide)

/-- Host link 0 up; a spire window over all of device memory for link 3. -/
def stLk : State :=
  { State.reset with io := { Io.reset with trained := [0], spwin := [7 + 2 ^ 19 + 0xFFFFFFFF * 2 ^ 64], fw := true } }
/-- An arrival entry for tag 9 on any link, its buffer and its pool in context 0; all but one byte counted or not; complete or not. -/
def aEntry (count : Nat) : BitVec 512 :=
  BitVec.ofNat 512 (packFields [(0, 1), (2, 15), (16, 9), (64, 0x70000), (128, 64), (160, count), (192, 0x60000)])
def stAe (count : Nat) (appends : List Nat) : State :=
  { stLk with mem := [(0x60011, 4), (0x60012, 32)], io := { stLk.io with arrivals := [(5, aEntry count)], appends } }
def hdrOf (s : State) : List Byte := ((s.rangeRead 0 0 true .load 0x60000 64).toOption).getD []
def aImage (v : Nat) : FwImage := ⟨true, true, v⟩

theorem all_of {α : Type} {l : List α} {p : α → Prop} [DecidablePred p] (h : l.all (fun x => decide (p x)) = true) : ∀ x ∈ l, p x := by
  simpa using h
theorem any_of {α : Type} {l : List α} {p : α → Prop} [DecidablePred p] (h : l.any (fun x => decide (p x)) = true) : ∃ x ∈ l, p x := by
  simpa using h

theorem witness_LinkEvents :
    (State.reset.io.trained.contains 0 = false ∧ stLk.io.trained.contains 0 = true ∧ stLk.io.down.contains 0 = false ∧ stLk.io.fwBad = false)
    ∧ (State.reset.io.spmask.getLsbD 3 = true ∧ (∀ w ∈ State.reset.io.spwin, w.getLsbD 0 = false) ∧ State.reset.io.spireDown.contains 3 = false)
    ∧ (∃ w ∈ stLk.io.spwin, w.getLsbD 0 = true ∧ w.getLsbD 2 = true ∧ w.getLsbD (16 + 3) = true
      ∧ 2 ^ 16 * (w.extractLsb' 32 32).toNat ≤ 0x1000 ∧ 0x1000 + 8 ≤ 2 ^ 16 * (w.extractLsb' 32 32).toNat + 2 ^ 16 * (w.extractLsb' 64 32).toNat)
    ∧ (∃ u, (stAe 0 []).io.matchEntry 3 9 = some (5, aEntry 0) ∧ 60 + [1, 2, 3, 4].length ≤ aeLength (aEntry 0) ∧ 5 ∉ (stAe 0 []).io.appends
      ∧ (stAe 0 []).ioWrite (aeCtx (aEntry 0)) (aeBuf (aEntry 0) + 60) [1, 2, 3, 4] = some u)
    ∧ (stAe 0 []).io.matchEntry 3 8 = none
    ∧ (∃ u u1, (stAe 64 [5]).still = false ∧ 5 ∈ (stAe 64 [5]).io.appends ∧ (stAe 64 [5]).io.arrivalEntry 5 = aEntry 64
      ∧ (stAe 64 [5]).rangeRead 0 (aeCtx (aEntry 64)) true .load (aePool (aEntry 64)) 64 = .ok (hdrOf (stAe 64 [5]))
      ∧ phValid (BitVec.ofNat 512 (leNat (hdrOf (stAe 64 [5])))) = true ∧ 32 ≤ phRecb (BitVec.ofNat 512 (leNat (hdrOf (stAe 64 [5]))))
      ∧ phTail (BitVec.ofNat 512 (leNat (hdrOf (stAe 64 [5])))) = 0 ∧ phHead (BitVec.ofNat 512 (leNat (hdrOf (stAe 64 [5])))) = 0
      ∧ phRbase (BitVec.ofNat 512 (leNat (hdrOf (stAe 64 [5])))) = 0
      ∧ (stAe 64 [5]).ioWrite (aeCtx (aEntry 64)) 0 (taskRecord (aEntry 64) 32) = some u
      ∧ u.ioWrite (aeCtx (aEntry 64)) (aePool (aEntry 64) + 8) (leBytes 8 1) = some u1)
    ∧ (State.reset.io.trainedAt = none ∧ 1000000000 ≤ ({ State.reset with ns := 1000000000 } : State).ns.toNat)
    ∧ ((onIo 100000000 fun x => { x with trainedAt := some 0 }).io.fw = false ∧ (onIo 100000000 fun x => { x with trainedAt := some 0 }).io.fwBad = false
      ∧ 100000000 ≤ (onIo 100000000 id).ns.toNat - 0 ∧ (onIo 99999999 id).ns.toNat - 0 < 100000000
      ∧ (onIo 0 id).io.fuseVer ≤ (aImage 0).version ∧ (aImage 0).version < (onIo 0 fun x => { x with fuseVer := 1 }).io.fuseVer)
    ∧ ((st.ctxAt ref).isSome = true ∧ (State.reset.dies[0]?).isSome = true ∧ (State.reset.clusters[0]?).isSome = true
      ∧ (∃ g ∈ st.groups, g.cluster = 0 ∧ (g.core - 68 * 0) / 4 = 0) ∧ (∀ g ∈ st.groups, ¬(g.cluster = 0 ∧ (g.core - 68 * 0) / 4 = 1))
      ∧ Cluster.reset.lmap.length = 16 ∧ ∀ e ∈ Cluster.reset.lmap, (e.extractLsb' 0 5).toNat ≠ 16) := by
  refine ⟨?_, ⟨?_, fun w h => (List.eq_of_mem_replicate h) ▸ ?_, ?_⟩, ⟨7 + 2 ^ 19 + 0xFFFFFFFF * 2 ^ 64, List.mem_cons_self, ?_⟩, ⟨((stAe 0 []).ioWrite (aeCtx (aEntry 0)) (aeBuf (aEntry 0) + 60) [1, 2, 3, 4]).getD st, ?_, ?_, ?_, getD_of ?_⟩, ?_,
    ⟨((stAe 64 [5]).ioWrite (aeCtx (aEntry 64)) 0 (taskRecord (aEntry 64) 32)).getD st,
      ((((stAe 64 [5]).ioWrite (aeCtx (aEntry 64)) 0 (taskRecord (aEntry 64) 32)).getD st).ioWrite (aeCtx (aEntry 64))
        (aePool (aEntry 64) + 8) (leBytes 8 1)).getD st, ?_, ?_, ?_, ok_of ?_, ?_, ?_, ?_, ?_, ?_, getD_of ?_, getD_of ?_⟩, ?_, ?_, ?_, ?_, ?_, any_of ?_, all_of ?_, ?_, all_of ?_⟩
  all_goals decide +kernel

/-- Physical quads that an entry of a cluster's map names, and quads that may stand in for quad 1 (R213). -/
def namesOf (k : Cluster) (p : Nat) : List Word := k.lmap.filter fun f => (f.extractLsb' 0 5).toNat == p
def spares (k : Cluster) : List Nat := (List.range 17).filter fun p => p != 1 && k.qhealth.getLsbD p

/-- Quad 16 is free; it is out of service, and every other quad carries one logical quad; no quad is left. -/
theorem witness_LinkEvents_spare :
    (Cluster.reset.lmap[1]? = some (BitVec.ofNat 32 65) ∧ ((65 : Word).extractLsb' 0 5).toNat = 1 ∧ (namesOf Cluster.reset 1).length = 1)
    ∧ (16 ∈ spares Cluster.reset ∧ namesOf Cluster.reset 16 = [])
    ∧ (∀ p ∈ spares { Cluster.reset with qhealth := 0xFFFF }, (namesOf Cluster.reset p).length = 1)
    ∧ (spares { Cluster.reset with qhealth := 0xFFFF }).length = 15
    ∧ spares { Cluster.reset with qhealth := 2 } = [] := by decide +kernel

end Sys2Proof.Tests
end

section
/-! SUPPORT. Encoding: every word that is encoded decodes, and every word that decodes is the encoding of its instruction. -/

namespace Sys2Proof.Laws.RoundTrip

/-- Every instruction has its round trip: one lemma for each constructor, in the order of the table (R41). -/
theorem statement_all (i : Instr) : Statement i :=
  Instr.rec (motive := Statement)
    addI32 subI32 mulI32 mulhiI32 mulhiU32 addsI32 subsI32 addsU32 subsU32 minI32 maxI32 minU32 maxU32 absI32 andB32
    orB32 xorB32 andnB32 shlB32 shrU32 shrI32 rotlB32 popcB32 clzB32 brevB32 notB32 bfeU32 bfeI32 bfiB32 bselB32
    addI64 subI64 mulI64 shlB64 shrU64 shrI64 minI64 maxI64 mulwideI32 mulwideU32 madI32 madI64 addI32Imm mulI32Imm
    andB32Imm orB32Imm xorB32Imm shlB32Imm shrU32Imm shrI32Imm movB32Imm setpI32 setpU32 setpF32 setpI64 setpF16
    setpBf16 pand por pxor pnot pandn selB32 movB32 movB64 shflIdx shflUp shflDown shflXor wredAddI32 wredMinI32
    wredMaxI32 wredAddF32 wscanAddI32 wscanAddxI32 wscanAddF32 voteAny voteAll voteBallot wredAndB32 wredOrB32
    faddF32 fsubF32 fmulF32 fmaF32 faddF16 fsubF16 fmulF16 fmaF16 faddBf16 fsubBf16 fmulBf16 fmaBf16 fminF32 fmaxF32
    fabsF32 fnegF32 fminF16 fmaxF16 fminBf16 fmaxBf16 cvt npack nunpack expF32 exp2F32 logF32 log2F32 sinpiF32
    cospiF32 tanhF32 sigmF32 erfF32 rcpF32 rsqrtF32 sqrtF32 divF32 expF16 exp2F16 logF16 log2F16 sinpiF16 cospiF16
    tanhF16 sigmF16 erfF16 rcpF16 rsqrtF16 sqrtF16 divF16 expBf16 exp2Bf16 logBf16 log2Bf16 sinpiBf16 cospiBf16
    tanhBf16 sigmBf16 erfBf16 rcpBf16 rsqrtBf16 sqrtBf16 divBf16 saddI32 ssubI32 smulI32 sandB32 sorB32 sxorB32
    sshlB32 sshrU32 sshrI32 sminI32 smaxI32 smovB32 saddI64 ssubI64 sminU32 smaxU32 smovB32Imm saddI32Imm scmpEqI32
    scmpNeI32 scmpLtI32 scmpLeI32 scmpGtI32 scmpGeI32 scmpEqU32 scmpNeU32 scmpLtU32 scmpLeU32 scmpGtU32 scmpGeU32
    getsScalar getsVector sets bra bru call nop join ret exit yield tret getmask setmask jmpi calli wbase trap
    sleepn waitt tmarkFull tmarkEmpty ttest put get send pread phint ldSU8 ldSI8 ldSU16 ldSI16 ldS ldSB64 stSB8
    stSB16 stS stSB64 ldGU8 ldGI8 ldGU16 ldGI16 ldG ldGB64 stGB8 stGB16 stG stGB64 ldtG sttG ldtS sttS atomS
    atomSB64 atomG atomGB64 fence waita sinit twait give claim bar barN bbar mma mmaBf16 mmaF16 mmaSq aclr ald ast
    ascale aexp shape setfmt getfmt setfmtR copyG2s copyS2g copyS2s copyG2g copyG2sMc copyS2sMc cseal cwait sset
    spop sstat sclose qfence hprobe hins hdel hrehash hsetBind hsetBindClear hsetUnbind hsetStatus gtopk ghist gscan
    gperm isect launch cancelDrain cancelTrap grd xim csrr csrw tlbinv tlbinvAll globalAccessComplete
    translationWalk fqheadPoll faultStatusObserved copyPerform streamItemDeliver mmaPerform aclrPerform aldPerform
    astPerform ascalePerform aexpPerform hprobeRequest hinsRequest hdelRequest hrehashRequest hsetRequest
    gtopkRequest ghistRequest gscanRequest gpermRequest fabricOpPerform sendRetryTimeout waitDeadline twaitBound
    waitaReread waitLimitTimeout claimGrant allowanceCycle floorDue slewStep marverDispatch groupCompletion
    poolGroupCommit tileStatePoll classAgeing quantumCommit coreDump dumpgoWrite clampBlockWrite mgmtRegisterWrite
    mread mwrite jlset jlstop attest mailboxUnknownCommand jobLaunch jobCancelDrain jobCancelTrap jobRecordSkip
    hostInboundAccess spireInboundAccess arrivalMatch arrivalTaskAppend spireLaneFail shelfFrame frameLossTimeout
    belfryPeriod unattTimer restoreStagger bckgoGo bckgoRestore checkpointCopyDone checkpointFailResume
    restoreCopyDone lehrPeriod thermalSample thermalShutdown eolhUpdate softError scrub quadRetire engineRetire
    moduleReset hostLinkTrained linkTrainingTimeout firmwareStart scratchpadAccessComplete hostLinkDown
    spireLinkDown
    i

/-- Settles O3: each instruction by its own round-trip lemma. -/
theorem encodedWordDecodes : Obligations.EncodedWordDecodes := by
  unfold Obligations.EncodedWordDecodes
  exact statement_all

/-- Settles O2: the decoder is evaluated on the eleven words. -/
theorem decodesTableWords : Obligations.DecodesTableWords := by
  unfold Obligations.DecodesTableWords
  decide

end Sys2Proof.Laws.RoundTrip
end

section
/-! SUPPORT. Encoding: a word that decodes is the word of a well-formed instruction (O4). -/

namespace Sys2Proof.Laws

/-! ### Field decoders read codes back -/

/-- The operand that a field decoder reads from `c`, where it reads one, has the code `c`. -/
def codesBack (f : BitVec n → Except Illegal α) (code : α → BitVec n) (c : BitVec n) : Bool :=
  match f c with
  | .ok a => code a == c
  | .error _ => true

/-- A decoder that reads every code back, and gives only operands of the code it was given, is the inverse of the codes. -/
theorem eq_ok_iff {f : BitVec n → Except Illegal α} {code : α → BitVec n} (h : ∀ a, f (code a) = .ok a)
    (h' : ∀ c, codesBack f code c = true) {c : BitVec n} {a : α} : f c = .ok a ↔ c = code a :=
  ⟨fun e => .symm (by simpa [codesBack, e] using h' c), fun e => e ▸ h a⟩

@[simp] theorem vSrc_eq_ok {c : BitVec 7} {a : VOp} : vSrc c = .ok a ↔ c = a.code := eq_ok_iff vSrc_code (by decide)
@[simp] theorem vDst_eq_ok {c : BitVec 7} {d : VDst} : vDst c = .ok d ↔ c = d.code := eq_ok_iff vDst_code (by decide)
@[simp] theorem sSrc_eq_ok {c : BitVec 7} {a : SOp} : sSrc c = .ok a ↔ c = a.code := eq_ok_iff sSrc_code (by decide)
@[simp] theorem sDst_eq_ok {c : BitVec 7} {d : SDst} : sDst c = .ok d ↔ c = d.code := eq_ok_iff sDst_code (by decide)
@[simp] theorem cSrc_eq_ok {c : BitVec 7} {a : COp} : cSrc c = .ok a ↔ c = a.code := eq_ok_iff cSrc_code (by decide)
@[simp] theorem pred_eq_ok {c : BitVec 7} {p : Fin 8} : pred c = .ok p ↔ c = predCode p := eq_ok_iff pred_code (by decide)
@[simp] theorem fmtField_eq_ok {c : BitVec 7} {k : Fin 4} : fmtField c = .ok k ↔ c = fmtCode k :=
  eq_ok_iff fmtField_code (by decide)
@[simp] theorem rnd_eq_ok {c : BitVec 3} {r : Rnd} : rnd c = .ok r ↔ c = rndCode r := eq_ok_iff rnd_code (by decide)
@[simp] theorem numTy_eq_ok {c : BitVec 4} {t : NumTy} : numTy c = .ok t ↔ c = numTyCode t := eq_ok_iff numTy_code (by decide)
@[simp] theorem scope_eq_ok {c : BitVec 3} {s : Scope} : scope c = .ok s ↔ c = scopeCode s := eq_ok_iff scope_code (by decide)
@[simp] theorem atomOp_eq_ok {c : BitVec 6} {o : AtomOp} : atomOp c = .ok o ↔ c = atomCode o := eq_ok_iff atomOp_code (by decide)
@[simp] theorem sReg_eq_ok {c : BitVec 8} {n : SReg} : sReg c = .ok n ↔ c = sRegCode n := eq_ok_iff sReg_code (by decide)
@[simp] theorem csr_eq_ok {c : BitVec 7} {n : Csr} : csr c = .ok n ↔ c = csrCode n := eq_ok_iff csr_code (by decide)
@[simp] theorem mDim_eq_ok {c : BitVec 2} {m : MDim} : mDim c = .ok m ↔ c = mDimCode m := eq_ok_iff mDim_code (by decide)
@[simp] theorem mergeKind_eq_ok {c : BitVec 2} {m : MergeKind} : mergeKind c = .ok m ↔ c = mergeCode m :=
  eq_ok_iff mergeKind_code (by decide)

theorem icmp_eq_ok {c : BitVec 4} {k : ICmp} : icmp c.toNat = .ok k ↔ c = icmpCode k :=
  eq_ok_iff (f := fun c => icmp c.toNat) icmp_code (by decide)
theorem fcmp_eq_ok {c : BitVec 4} {k : FCmp} : fcmp c.toNat = .ok k ↔ c = fcmpCode k :=
  eq_ok_iff (f := fun c => fcmp c.toNat) fcmp_code (by decide)

@[simp] theorem orderCode_order (c : BitVec 2) : orderCode (order c) = c := by revert c; decide
@[simp] theorem kDimCode_kDim (c : BitVec 2) : kDimCode (kDim c) = c := by revert c; decide
@[simp] theorem arndCode_arnd (c : BitVec 2) : arndCode (arnd c.toNat) = c := by revert c; decide

/-! ### Checks of one field -/

@[simp] theorem ite_ok_iff {p : Prop} [Decidable p] {a b : α} {e : Illegal} :
    (if p then .ok a else .error e : Except Illegal α) = .ok b ↔ p ∧ a = b := by
  split <;> simp_all

@[simp] theorem ite_error_iff {p : Prop} [Decidable p] {x : Except Illegal α} {b : α} {e : Illegal} :
    (if p then .error e else x) = .ok b ↔ ¬p ∧ x = .ok b := by
  split <;> simp_all

@[simp] theorem res_eq_ok {x : BitVec n} {u : Unit} : res x = .ok u ↔ x = 0#n := by simp [res]
@[simp] theorem zero_eq_ok {e : Illegal} {x : BitVec n} {u : Unit} : zero e x = .ok u ↔ x = 0#n := by simp [zero]
@[simp] theorem shImm_eq_ok {i j : BitVec 11} : shImm i = .ok j ↔ i = j ∧ i.toNat < 32 := ite_ok_iff.trans and_comm
@[simp] theorem cwaitN_eq_ok {i j : BitVec 11} : cwaitN i = .ok j ↔ i = j ∧ i.toNat < 64 := ite_ok_iff.trans and_comm
@[simp] theorem linkNo_eq_ok {q r : BitVec 4} : linkNo q = .ok r ↔ q = r ∧ q.toNat < 12 := ite_ok_iff.trans and_comm
@[simp] theorem fmtImm_eq_ok {i j : BitVec 18} : fmtImm i = .ok j ↔ i = j ∧ fmtValid (i.setWidth 32) = true :=
  ite_ok_iff.trans and_comm
@[simp] theorem setsReg_eq_ok {c : BitVec 8} {u : Unit} : setsReg c = .ok u ↔ c = 0x20#8 := by simp [setsReg]

theorem bind_eq_ok {x : Except Illegal α} {f : α → Except Illegal β} {b : β} :
    x.bind f = .ok b ↔ ∃ a, x = .ok a ∧ f a = .ok b := by
  cases x <;> simp [Except.bind]

@[simp] theorem vSrc64_eq_ok {c : BitVec 7} {a : VOp} : vSrc64 c = .ok a ↔ c = a.code ∧ a.even = true := by
  simp [vSrc64, bind_eq_ok, evenV]
@[simp] theorem vDst64_eq_ok {c : BitVec 7} {d : VDst} : vDst64 c = .ok d ↔ c = d.code ∧ d.even = true := by
  simp [vDst64, bind_eq_ok, evenVd]
@[simp] theorem sSrc64_eq_ok {c : BitVec 7} {a : SOp} : sSrc64 c = .ok a ↔ c = a.code ∧ a.even = true := by
  simp [sSrc64, bind_eq_ok, evenS]
@[simp] theorem sDst64_eq_ok {c : BitVec 7} {d : SDst} : sDst64 c = .ok d ↔ c = d.code ∧ d.even = true := by
  simp [sDst64, bind_eq_ok, evenSd]
@[simp] theorem csrWr_eq_ok {c : BitVec 7} {n : Csr} : csrWr c = .ok n ↔ c = csrCode n ∧ n.writable = true := by
  simp [csrWr, bind_eq_ok]

@[simp] theorem sSrcNoImm_eq_ok {c : BitVec 7} {a : SOp} : sSrcNoImm c = .ok a ↔ c = a.code ∧ a ≠ .imm := by
  constructor
  · intro h
    obtain ⟨hc, h⟩ := ite_error_iff.1 h
    have ha := sSrc_eq_ok.1 h
    exact ⟨ha, fun e => hc (by rw [ha, e]; rfl)⟩
  · rintro ⟨rfl, h⟩
    exact sSrcNoImm_code h

@[simp] theorem rowDst_eq_ok {c : BitVec 7} {d : VDst} : rowDst c = .ok d ↔ c = d.code ∧ d.rowReg = true := by
  constructor
  · have back : ∀ c : BitVec 7, (match rowDst c with | .ok d => c == d.code && d.rowReg | .error _ => true) = true := by decide
    intro h
    simpa [h] using back c
  · rintro ⟨rfl, h⟩
    exact rowDst_code h

@[simp] theorem also_eq_ok {x : Except Illegal α} {chk : Except Illegal Unit} {a : α} :
    also x chk = .ok a ↔ x = .ok a ∧ chk = .ok () := by
  cases x <;> cases chk <;> simp [also, ap]

/-- Where a field holds a pair, `evenIf` refuses exactly the odd registers (R30, R88). -/
theorem evenIf_iff {code : α → BitVec 7} {even : α → Bool} (h : ∀ a, decide (evenIf true (code a) = .ok ()) = even a)
    {b : Bool} {a : α} : evenIf b (code a) = .ok () ↔ (!b || even a) = true := by
  cases b with
  | false => simp [evenIf]
  | true => simp [← h a]

@[simp] theorem evenIf_v_iff {b : Bool} {a : VOp} : evenIf b a.code = .ok () ↔ (!b || a.even) = true :=
  evenIf_iff (fun a => by cases a with
    | w k | o k | h k | s k => revert k; decide
    | z | ix | imm => decide)

@[simp] theorem evenIf_vd_iff {b : Bool} {d : VDst} : evenIf b d.code = .ok () ↔ (!b || d.even) = true :=
  evenIf_iff (fun d => by cases d with
    | w k | o k => revert k; decide
    | z => decide)

@[simp] theorem evenIf_s_iff {b : Bool} {a : SOp} : evenIf b a.code = .ok () ↔ (!b || a.even) = true :=
  evenIf_iff (fun a => by cases a with
    | s k => revert k; decide
    | z | imm => decide)

@[simp] theorem evenIf_sd_iff {b : Bool} {d : SDst} : evenIf b d.code = .ok () ↔ (!b || d.even) = true :=
  evenIf_iff (fun d => by cases d with
    | s k => revert k; decide
    | z => decide)

@[simp] theorem notPerThread_iff {n : SReg} : notPerThread (sRegCode n) = .ok () ↔ n.perThread = false := by
  cases n with
  | gext k | gorg k | lext k => revert k; decide
  | _ => decide

@[simp] theorem atomReg_iff {o : AtomOp} {d : VDst} : atomReg (atomCode o) d.code = .ok () ↔ atomData o d = true := by
  simp [atomReg]

@[simp] theorem atomReg64_iff {o : AtomOp} {d : VDst} :
    atomReg64 (atomCode o) d.code = .ok () ↔ atomData64 o d = true ∧ o ≠ .fadd := by
  cases o <;> simp [atomReg64, atomCode, atomData64]

theorem scopeCode_inj {s t : Scope} : scopeCode s = scopeCode t ↔ s = t :=
  ⟨fun h => Except.ok.inj (by rw [← scope_code s, ← scope_code t, h]), congrArg scopeCode⟩

theorem ordOk_iff {legal : Scope → Order → Bool} {w : Word} :
    ordOk legal w = .ok () ↔ ∃ s, w.extractLsb' 2 3 = scopeCode s ∧ legal s (order (w.extractLsb' 0 2)) = true := by
  unfold ordOk
  split
  · next s h =>
    rw [ite_ok_iff, and_iff_left rfl, ← fOrder, ← fScope, scope_eq_ok.1 h]
    simp only [scopeCode_inj, exists_eq_left']
  · next e h =>
    refine ⟨nofun, fun ⟨s, hs, _⟩ => ?_⟩
    rw [← fScope] at hs
    exact absurd h (by simp [hs])

@[simp] theorem streamNo_eq_ok {q : BitVec 4} {k : Fin 4} : streamNo q = .ok k ↔ q = 0#2 ++ (BitVec.ofFin k : BitVec 2) :=
  eq_ok_iff (f := streamNo) (code := fun k => 0#2 ++ (BitVec.ofFin k : BitVec 2)) streamNo_code (by decide)

@[simp] theorem qMask_eq_ok {w : Word} {m : BitVec 8} :
    qMask w = .ok m ↔ w.extractLsb' 0 8 = m ∧ w.extractLsb' 8 3 = 0#3 ∧ w.extractLsb' 0 8 ≠ 0 :=
  ite_ok_iff.trans and_comm

/-! ### Words put together from fields -/

/-- The bits of `w` from bit `s` on are `x`. -/
def HasBits (w : Word) (s : Nat) (x : BitVec n) : Prop := w.extractLsb' s n = x

theorem hasBits_append {w : Word} {s m n : Nat} {x : BitVec m} {y : BitVec n} :
    HasBits w s (x ++ y) ↔ HasBits w (s + n) x ∧ HasBits w s y := by
  have h : w.extractLsb' s (m + n) = w.extractLsb' (s + n) m ++ w.extractLsb' s n :=
    (BitVec.extractLsb'_append_extractLsb'_eq_extractLsb' (by omega)).symm
  constructor
  · intro e
    have e' := h.symm.trans e
    exact ⟨by simpa [HasBits, BitVec.extractLsb'_append_eq_left] using congrArg (BitVec.extractLsb' n m) e',
      by simpa [HasBits, BitVec.extractLsb'_append_eq_right] using congrArg (BitVec.extractLsb' 0 n) e'⟩
  · rintro ⟨rfl, rfl⟩
    exact h

theorem eq_word_iff {w x : Word} {p q : Prop} (h : HasBits w 0 x ↔ p) (h' : p ↔ q) : x = w ↔ q := by
  rw [← h', ← h, HasBits, BitVec.extractLsb'_eq_self, eq_comm]

section
variable {w : Word}

theorem layout_7_7_7_7_4 {x0 x1 x2 x3 : BitVec 7} {x4 : BitVec 4} :
    x0 ++ x1 ++ x2 ++ x3 ++ x4 = w ↔
      w.extractLsb' 25 7 = x0 ∧ w.extractLsb' 18 7 = x1 ∧ w.extractLsb' 11 7 = x2 ∧ w.extractLsb' 4 7 = x3 ∧
      w.extractLsb' 0 4 = x4 :=
  eq_word_iff hasBits_append (by simp only [hasBits_append, and_assoc]; exact Iff.rfl)

theorem layout_7_7_7_7_2_2 {x0 x1 x2 x3 : BitVec 7} {x4 x5 : BitVec 2} :
    x0 ++ x1 ++ x2 ++ x3 ++ x4 ++ x5 = w ↔
      w.extractLsb' 25 7 = x0 ∧ w.extractLsb' 18 7 = x1 ∧ w.extractLsb' 11 7 = x2 ∧ w.extractLsb' 4 7 = x3 ∧
      w.extractLsb' 2 2 = x4 ∧ w.extractLsb' 0 2 = x5 :=
  eq_word_iff hasBits_append (by simp only [hasBits_append, and_assoc]; exact Iff.rfl)

theorem layout_7_7_7_7_1_3 {x0 x1 x2 x3 : BitVec 7} {x4 : BitVec 1} {x5 : BitVec 3} :
    x0 ++ x1 ++ x2 ++ x3 ++ x4 ++ x5 = w ↔
      w.extractLsb' 25 7 = x0 ∧ w.extractLsb' 18 7 = x1 ∧ w.extractLsb' 11 7 = x2 ∧ w.extractLsb' 4 7 = x3 ∧
      w.extractLsb' 3 1 = x4 ∧ w.extractLsb' 0 3 = x5 :=
  eq_word_iff hasBits_append (by simp only [hasBits_append, and_assoc]; exact Iff.rfl)

theorem layout_7_7_7_11 {x0 x1 x2 : BitVec 7} {x3 : BitVec 11} :
    x0 ++ x1 ++ x2 ++ x3 = w ↔
      w.extractLsb' 25 7 = x0 ∧ w.extractLsb' 18 7 = x1 ∧ w.extractLsb' 11 7 = x2 ∧ w.extractLsb' 0 11 = x3 :=
  eq_word_iff hasBits_append (by simp only [hasBits_append, and_assoc]; exact Iff.rfl)

theorem layout_7_7_7_3_4_4 {x0 x1 x2 : BitVec 7} {x3 : BitVec 3} {x4 x5 : BitVec 4} :
    x0 ++ x1 ++ x2 ++ x3 ++ x4 ++ x5 = w ↔
      w.extractLsb' 25 7 = x0 ∧ w.extractLsb' 18 7 = x1 ∧ w.extractLsb' 11 7 = x2 ∧ w.extractLsb' 8 3 = x3 ∧
      w.extractLsb' 4 4 = x4 ∧ w.extractLsb' 0 4 = x5 :=
  eq_word_iff hasBits_append (by simp only [hasBits_append, and_assoc]; exact Iff.rfl)

theorem layout_7_7_7_6_3_2 {x0 x1 x2 : BitVec 7} {x3 : BitVec 6} {x4 : BitVec 3} {x5 : BitVec 2} :
    x0 ++ x1 ++ x2 ++ x3 ++ x4 ++ x5 = w ↔
      w.extractLsb' 25 7 = x0 ∧ w.extractLsb' 18 7 = x1 ∧ w.extractLsb' 11 7 = x2 ∧ w.extractLsb' 5 6 = x3 ∧
      w.extractLsb' 2 3 = x4 ∧ w.extractLsb' 0 2 = x5 :=
  eq_word_iff hasBits_append (by simp only [hasBits_append, and_assoc]; exact Iff.rfl)

theorem layout_7_7_7_4_7 {x0 x1 x2 : BitVec 7} {x3 : BitVec 4} {x4 : BitVec 7} :
    x0 ++ x1 ++ x2 ++ x3 ++ x4 = w ↔
      w.extractLsb' 25 7 = x0 ∧ w.extractLsb' 18 7 = x1 ∧ w.extractLsb' 11 7 = x2 ∧ w.extractLsb' 7 4 = x3 ∧
      w.extractLsb' 0 7 = x4 :=
  eq_word_iff hasBits_append (by simp only [hasBits_append, and_assoc]; exact Iff.rfl)

theorem layout_7_7_7_4_6_1 {x0 x1 x2 : BitVec 7} {x3 : BitVec 4} {x4 : BitVec 6} {x5 : BitVec 1} :
    x0 ++ x1 ++ x2 ++ x3 ++ x4 ++ x5 = w ↔
      w.extractLsb' 25 7 = x0 ∧ w.extractLsb' 18 7 = x1 ∧ w.extractLsb' 11 7 = x2 ∧ w.extractLsb' 7 4 = x3 ∧
      w.extractLsb' 1 6 = x4 ∧ w.extractLsb' 0 1 = x5 :=
  eq_word_iff hasBits_append (by simp only [hasBits_append, and_assoc]; exact Iff.rfl)

theorem layout_7_7_7_2_2_7 {x0 x1 x2 : BitVec 7} {x3 x4 : BitVec 2} {x5 : BitVec 7} :
    x0 ++ x1 ++ x2 ++ x3 ++ x4 ++ x5 = w ↔
      w.extractLsb' 25 7 = x0 ∧ w.extractLsb' 18 7 = x1 ∧ w.extractLsb' 11 7 = x2 ∧ w.extractLsb' 9 2 = x3 ∧
      w.extractLsb' 7 2 = x4 ∧ w.extractLsb' 0 7 = x5 :=
  eq_word_iff hasBits_append (by simp only [hasBits_append, and_assoc]; exact Iff.rfl)

theorem layout_7_7_7_10_1 {x0 x1 x2 : BitVec 7} {x3 : BitVec 10} {x4 : BitVec 1} :
    x0 ++ x1 ++ x2 ++ x3 ++ x4 = w ↔
      w.extractLsb' 25 7 = x0 ∧ w.extractLsb' 18 7 = x1 ∧ w.extractLsb' 11 7 = x2 ∧ w.extractLsb' 1 10 = x3 ∧
      w.extractLsb' 0 1 = x4 :=
  eq_word_iff hasBits_append (by simp only [hasBits_append, and_assoc]; exact Iff.rfl)

theorem layout_7_7_7_9_1_1 {x0 x1 x2 : BitVec 7} {x3 : BitVec 9} {x4 x5 : BitVec 1} :
    x0 ++ x1 ++ x2 ++ x3 ++ x4 ++ x5 = w ↔
      w.extractLsb' 25 7 = x0 ∧ w.extractLsb' 18 7 = x1 ∧ w.extractLsb' 11 7 = x2 ∧ w.extractLsb' 2 9 = x3 ∧
      w.extractLsb' 1 1 = x4 ∧ w.extractLsb' 0 1 = x5 :=
  eq_word_iff hasBits_append (by simp only [hasBits_append, and_assoc]; exact Iff.rfl)

theorem layout_7_7_7_8_1_1_1 {x0 x1 x2 : BitVec 7} {x3 : BitVec 8} {x4 x5 x6 : BitVec 1} :
    x0 ++ x1 ++ x2 ++ x3 ++ x4 ++ x5 ++ x6 = w ↔
      w.extractLsb' 25 7 = x0 ∧ w.extractLsb' 18 7 = x1 ∧ w.extractLsb' 11 7 = x2 ∧ w.extractLsb' 3 8 = x3 ∧
      w.extractLsb' 2 1 = x4 ∧ w.extractLsb' 1 1 = x5 ∧ w.extractLsb' 0 1 = x6 :=
  eq_word_iff hasBits_append (by simp only [hasBits_append, and_assoc]; exact Iff.rfl)

theorem layout_7_7_7_6_1_1_2_1 {x0 x1 x2 : BitVec 7} {x3 : BitVec 6} {x4 x5 : BitVec 1} {x6 : BitVec 2} {x7 : BitVec 1} :
    x0 ++ x1 ++ x2 ++ x3 ++ x4 ++ x5 ++ x6 ++ x7 = w ↔
      w.extractLsb' 25 7 = x0 ∧ w.extractLsb' 18 7 = x1 ∧ w.extractLsb' 11 7 = x2 ∧ w.extractLsb' 5 6 = x3 ∧
      w.extractLsb' 4 1 = x4 ∧ w.extractLsb' 3 1 = x5 ∧ w.extractLsb' 1 2 = x6 ∧ w.extractLsb' 0 1 = x7 :=
  eq_word_iff hasBits_append (by simp only [hasBits_append, and_assoc]; exact Iff.rfl)

theorem layout_7_7_18 {x0 x1 : BitVec 7} {x2 : BitVec 18} :
    x0 ++ x1 ++ x2 = w ↔
      w.extractLsb' 25 7 = x0 ∧ w.extractLsb' 18 7 = x1 ∧ w.extractLsb' 0 18 = x2 :=
  eq_word_iff hasBits_append (by simp only [hasBits_append, and_assoc]; exact Iff.rfl)

theorem layout_7_7_10_8 {x0 x1 : BitVec 7} {x2 : BitVec 10} {x3 : BitVec 8} :
    x0 ++ x1 ++ x2 ++ x3 = w ↔
      w.extractLsb' 25 7 = x0 ∧ w.extractLsb' 18 7 = x1 ∧ w.extractLsb' 8 10 = x2 ∧ w.extractLsb' 0 8 = x3 :=
  eq_word_iff hasBits_append (by simp only [hasBits_append, and_assoc]; exact Iff.rfl)

theorem layout_7_7_12_2_2_2 {x0 x1 : BitVec 7} {x2 : BitVec 12} {x3 x4 x5 : BitVec 2} :
    x0 ++ x1 ++ x2 ++ x3 ++ x4 ++ x5 = w ↔
      w.extractLsb' 25 7 = x0 ∧ w.extractLsb' 18 7 = x1 ∧ w.extractLsb' 6 12 = x2 ∧ w.extractLsb' 4 2 = x3 ∧
      w.extractLsb' 2 2 = x4 ∧ w.extractLsb' 0 2 = x5 :=
  eq_word_iff hasBits_append (by simp only [hasBits_append, and_assoc]; exact Iff.rfl)

theorem layout_7_14_11 {x0 : BitVec 7} {x1 : BitVec 14} {x2 : BitVec 11} :
    x0 ++ x1 ++ x2 = w ↔
      w.extractLsb' 25 7 = x0 ∧ w.extractLsb' 11 14 = x1 ∧ w.extractLsb' 0 11 = x2 :=
  eq_word_iff hasBits_append (by simp only [hasBits_append, and_assoc]; exact Iff.rfl)

theorem layout_7_17_8 {x0 : BitVec 7} {x1 : BitVec 17} {x2 : BitVec 8} :
    x0 ++ x1 ++ x2 = w ↔
      w.extractLsb' 25 7 = x0 ∧ w.extractLsb' 8 17 = x1 ∧ w.extractLsb' 0 8 = x2 :=
  eq_word_iff hasBits_append (by simp only [hasBits_append, and_assoc]; exact Iff.rfl)

theorem layout_7_20_3_2 {x0 : BitVec 7} {x1 : BitVec 20} {x2 : BitVec 3} {x3 : BitVec 2} :
    x0 ++ x1 ++ x2 ++ x3 = w ↔
      w.extractLsb' 25 7 = x0 ∧ w.extractLsb' 5 20 = x1 ∧ w.extractLsb' 2 3 = x2 ∧ w.extractLsb' 0 2 = x3 :=
  eq_word_iff hasBits_append (by simp only [hasBits_append, and_assoc]; exact Iff.rfl)

theorem layout_7_4_21 {x0 : BitVec 7} {x1 : BitVec 4} {x2 : BitVec 21} :
    x0 ++ x1 ++ x2 = w ↔
      w.extractLsb' 25 7 = x0 ∧ w.extractLsb' 21 4 = x1 ∧ w.extractLsb' 0 21 = x2 :=
  eq_word_iff hasBits_append (by simp only [hasBits_append, and_assoc]; exact Iff.rfl)

theorem layout_7_1_3_21 {x0 : BitVec 7} {x1 : BitVec 1} {x2 : BitVec 3} {x3 : BitVec 21} :
    x0 ++ x1 ++ x2 ++ x3 = w ↔
      w.extractLsb' 25 7 = x0 ∧ w.extractLsb' 24 1 = x1 ∧ w.extractLsb' 21 3 = x2 ∧ w.extractLsb' 0 21 = x3 :=
  eq_word_iff hasBits_append (by simp only [hasBits_append, and_assoc]; exact Iff.rfl)

theorem layout_7_25 {x0 : BitVec 7} {x1 : BitVec 25} :
    x0 ++ x1 = w ↔
      w.extractLsb' 25 7 = x0 ∧ w.extractLsb' 0 25 = x1 :=
  eq_word_iff hasBits_append Iff.rfl

end

/-! ### What a decoded word encodes

Of a row that the decoder accepts, each operand's code is its field of the word and each check is a condition of
`WellFormed`; the word that `encode` puts together then has at each place of the row's layout what `w` has there. -/

/-- Where the decoder gives an instruction, it is well-formed and has the word `w`. -/
def Sound (w : Word) (x : Except Illegal Instr) : Prop := ∀ i, x = .ok i → WellFormed i = true ∧ encode i = some w

theorem forall_ap {f : Except Illegal (α → β)} {x : Except Illegal α} {q : β → Prop} :
    (∀ b, ap f x = .ok b → q b) ↔ ∀ g, f = .ok g → ∀ a, x = .ok a → q (g a) := by
  cases f <;> cases x <;> simp [ap]

theorem forall_also {x : Except Illegal α} {chk : Except Illegal Unit} {q : α → Prop} :
    (∀ a, also x chk = .ok a → q a) ↔ ∀ a, x = .ok a → chk = .ok () → q a := by
  simp only [also_eq_ok, and_imp]

section
variable {w : Word}

theorem fn_lit {k : Nat} : w.extractLsb' 0 4 = BitVec.ofNat 4 k ↔ fFn w = k % 16 := by
  rw [← BitVec.toNat_inj, BitVec.toNat_ofNat]; rfl

theorem op_lit {k : Nat} : w.extractLsb' 25 7 = BitVec.ofNat 7 k ↔ fOp w = k % 128 := by
  rw [← BitVec.toNat_inj, BitVec.toNat_ofNat]; rfl

theorem ofNat_append {m n k : Nat} : BitVec.ofNat (m + n) k = BitVec.ofNat m (k / 2 ^ n) ++ BitVec.ofNat n k := by
  refine BitVec.eq_of_getLsbD_eq fun i hi => ?_
  simp only [BitVec.getLsbD_append, BitVec.getLsbD_ofNat, hi, Nat.testBit_div_two_pow]
  by_cases h : i < n
  · simp [h]
  · simp [h, show i - n < m by omega, show i - n + n = i by omega]

/-- A field of constant value is two fields of constant value. -/
theorem field_lit (s m n : Nat) {k : Nat} :
    w.extractLsb' s (m + n) = BitVec.ofNat (m + n) k ↔
      w.extractLsb' (s + n) m = BitVec.ofNat m (k / 2 ^ n) ∧ w.extractLsb' s n = BitVec.ofNat n k := by
  rw [ofNat_append]
  exact hasBits_append

theorem low11_lit {k : Nat} : w.extractLsb' 0 11 = BitVec.ofNat 11 k ↔
    w.extractLsb' 4 7 = BitVec.ofNat 7 (k / 2 ^ 4) ∧ w.extractLsb' 0 4 = BitVec.ofNat 4 k := field_lit 0 7 4
theorem low18_lit {k : Nat} : w.extractLsb' 0 18 = BitVec.ofNat 18 k ↔
    w.extractLsb' 11 7 = BitVec.ofNat 7 (k / 2 ^ 11) ∧ w.extractLsb' 0 11 = BitVec.ofNat 11 k := field_lit 0 7 11
theorem low25_lit {k : Nat} : w.extractLsb' 0 25 = BitVec.ofNat 25 k ↔
    w.extractLsb' 18 7 = BitVec.ofNat 7 (k / 2 ^ 18) ∧ w.extractLsb' 0 18 = BitVec.ofNat 18 k := field_lit 0 7 18
theorem mid10_lit {k : Nat} : w.extractLsb' 8 10 = BitVec.ofNat 10 k ↔
    w.extractLsb' 17 1 = BitVec.ofNat 1 (k / 2 ^ 9) ∧ w.extractLsb' 8 9 = BitVec.ofNat 9 k := field_lit 8 1 9
theorem low18_lit_8 {k : Nat} : w.extractLsb' 0 18 = BitVec.ofNat 18 k ↔
    w.extractLsb' 8 10 = BitVec.ofNat 10 (k / 2 ^ 8) ∧ w.extractLsb' 0 8 = BitVec.ofNat 8 k := field_lit 0 10 8
theorem mid20_lit {k : Nat} : w.extractLsb' 5 20 = BitVec.ofNat 20 k ↔
    w.extractLsb' 18 7 = BitVec.ofNat 7 (k / 2 ^ 13) ∧ w.extractLsb' 5 13 = BitVec.ofNat 13 k := field_lit 5 7 13
theorem mid13_lit {k : Nat} : w.extractLsb' 5 13 = BitVec.ofNat 13 k ↔
    w.extractLsb' 11 7 = BitVec.ofNat 7 (k / 2 ^ 6) ∧ w.extractLsb' 5 6 = BitVec.ofNat 6 k := field_lit 5 7 6
theorem mid14_lit {k : Nat} : w.extractLsb' 11 14 = BitVec.ofNat 14 k ↔
    w.extractLsb' 18 7 = BitVec.ofNat 7 (k / 2 ^ 7) ∧ w.extractLsb' 11 7 = BitVec.ofNat 7 k := field_lit 11 7 7
theorem mid17_lit {k : Nat} : w.extractLsb' 8 17 = BitVec.ofNat 17 k ↔
    w.extractLsb' 11 14 = BitVec.ofNat 14 (k / 2 ^ 3) ∧ w.extractLsb' 8 3 = BitVec.ofNat 3 k := field_lit 8 14 3
theorem low11_lit_2 {k : Nat} : w.extractLsb' 0 11 = BitVec.ofNat 11 k ↔
    w.extractLsb' 2 9 = BitVec.ofNat 9 (k / 2 ^ 2) ∧ w.extractLsb' 0 2 = BitVec.ofNat 2 k := field_lit 0 9 2
theorem low11_lit_1 {k : Nat} : w.extractLsb' 0 11 = BitVec.ofNat 11 k ↔
    w.extractLsb' 1 10 = BitVec.ofNat 10 (k / 2 ^ 1) ∧ w.extractLsb' 0 1 = BitVec.ofNat 1 k := field_lit 0 10 1

theorem queue_append {x y : BitVec 2} : w.extractLsb' 7 4 = x ++ y ↔ w.extractLsb' 9 2 = x ∧ w.extractLsb' 7 2 = y :=
  hasBits_append (s := 7) (x := x) (y := y)

theorem ofBool_bit {k : Nat} : BitVec.ofBool (w.getLsbD k) = w.extractLsb' k 1 := by
  refine BitVec.eq_of_getLsbD_eq fun i hi => ?_
  obtain rfl : i = 0 := by omega
  simp
theorem bit_set {k : Nat} : w.extractLsb' k 1 = 1#1 ↔ w.getLsbD k = true := by
  rw [← ofBool_bit]; cases w.getLsbD k <;> decide
theorem bit_clear {k : Nat} : w.extractLsb' k 1 = 0#1 ↔ ¬w.getLsbD k = true := by
  rw [← ofBool_bit]; cases w.getLsbD k <;> decide

theorem fn_div_4 : fFn w / 4 = (w.extractLsb' 2 2).toNat := by
  simp only [fFn, BitVec.extractLsb'_toNat, Nat.shiftRight_eq_div_pow]; omega
theorem fn_mod_4 : fFn w % 4 = (w.extractLsb' 0 2).toNat := by
  simp only [fFn, BitVec.extractLsb'_toNat, Nat.shiftRight_eq_div_pow]; omega
theorem low2_lit {k : Nat} : w.extractLsb' 0 2 = BitVec.ofNat 2 k ↔ (w.extractLsb' 0 2).toNat = k % 4 := by
  rw [← BitVec.toNat_inj, BitVec.toNat_ofNat]
theorem fn_low2_lit {k : Nat} : w.extractLsb' 0 2 = BitVec.ofNat 2 k ↔ fFn w % 4 = k % 4 := by rw [low2_lit, fn_mod_4]
theorem fn_high2_lit {k : Nat} : w.extractLsb' 2 2 = BitVec.ofNat 2 k ↔ fFn w / 4 = k % 4 := by
  rw [← BitVec.toNat_inj, BitVec.toNat_ofNat, fn_div_4]

/-- A two-bit selector has its last value where it has none of the others. -/
theorem fn_mod_4_last : fFn w % 4 = 3 ↔ ¬fFn w % 4 = 0 ∧ ¬fFn w % 4 = 1 ∧ ¬fFn w % 4 = 2 := by omega
theorem low2_last : (w.extractLsb' 0 2).toNat = 3 ↔
    ¬(w.extractLsb' 0 2).toNat = 0 ∧ ¬(w.extractLsb' 0 2).toNat = 1 ∧ ¬(w.extractLsb' 0 2).toNat = 2 := by
  rw [← fn_mod_4]; exact fn_mod_4_last

theorem fn_bit3_clear : w.extractLsb' 3 1 = 0#1 ↔ fFn w < 8 := by
  rw [← BitVec.toNat_inj]
  simp only [fFn, BitVec.extractLsb'_toNat, Nat.shiftRight_eq_div_pow, BitVec.toNat_ofNat]; omega
theorem fn_bit3_set : w.extractLsb' 3 1 = 1#1 ↔ ¬fFn w < 8 := by
  rw [← BitVec.toNat_inj]
  simp only [fFn, BitVec.extractLsb'_toNat, Nat.shiftRight_eq_div_pow, BitVec.toNat_ofNat]; omega
theorem icmp_fn3 {c : ICmp} : icmp (fFn w % 8) = .ok c ↔ w.extractLsb' 0 3 = (icmpCode c).extractLsb' 0 3 := by
  have h : fFn w % 8 = (w.extractLsb' 0 3).toNat := by
    simp only [fFn, BitVec.extractLsb'_toNat, Nat.shiftRight_eq_div_pow]; omega
  rw [h]
  exact eq_ok_iff (f := fun x : BitVec 3 => icmp x.toNat) (code := fun c => (icmpCode c).extractLsb' 0 3)
    (fun c => by cases c <;> rfl) (by decide)
theorem icmp_fn {c : ICmp} : icmp (fFn w) = .ok c ↔ w.extractLsb' 0 4 = icmpCode c := icmp_eq_ok
theorem fcmp_fn {c : FCmp} : fcmp (fFn w) = .ok c ↔ w.extractLsb' 0 4 = fcmpCode c := fcmp_eq_ok
theorem sound_error {e : Illegal} : Sound w (.error e) := fun _ h => nomatch h

theorem decInt_sound {op : Nat} (h : fOp w = op) : Sound w (decInt op w) := by
  unfold decInt
  split <;> (try split) <;> try exact sound_error
  all_goals
    simp only [Sound, forall_also, forall_ap, ap1, ap2, ap3, fD, fA, fB, fImm11, vSrc_eq_ok, vDst_eq_ok, vSrc64_eq_ok,
      vDst64_eq_ok, res_eq_ok, shImm_eq_ok, Except.ok.injEq, forall_eq', and_imp]
    intros
    refine ⟨?_, congrArg some ?_⟩
    · simp only [WellFormed, Bool.and_eq_true, decide_eq_true_eq, and_self, *]
    · simp only [layout_7_7_7_7_4, layout_7_7_7_11, op_lit, fn_lit, low11_lit, Nat.reduceMod, Nat.reduceDiv,
        Nat.reducePow, and_self, *]

theorem decPred_sound {op : Nat} (h : fOp w = op) : Sound w (decPred op w) := by
  unfold decPred
  split <;> (try split) <;> try exact sound_error
  all_goals
    simp only [Sound, forall_also, forall_ap, ap1, ap2, ap3, ap4, ap5, fD, fA, fB, vSrc_eq_ok, vDst_eq_ok,
      vSrc64_eq_ok, vDst64_eq_ok, pred_eq_ok, res_eq_ok, icmp_fn, fcmp_fn, icmp_fn3, Except.ok.injEq, forall_eq',
      and_imp]
    intros
    refine ⟨?_, congrArg some ?_⟩
    · simp only [WellFormed, Bool.and_eq_true, and_self, *]
    · simp only [layout_7_7_7_7_4, layout_7_7_7_7_1_3, layout_7_7_7_11, op_lit, fn_lit, low11_lit, fn_bit3_clear,
        fn_bit3_set, ofBool_bit, BitVec.ofFin_toFin, Nat.reduceMod, Nat.reduceDiv, Nat.reducePow, not_false_eq_true,
        and_self, *]

theorem decFloat_sound {op : Nat} (h : fOp w = op) : Sound w (decFloat op w) := by
  unfold decFloat
  split <;> (try split) <;> try exact sound_error
  all_goals
    simp +contextual only [Sound, forall_also, forall_ap, ap1, ap2, ap3, ap4, ap5, fD, fA, fB, vSrc_eq_ok, vDst_eq_ok,
      rnd_eq_ok, numTy_eq_ok, res_eq_ok, fn_div_4, wideTy_code, evenIf_v_iff, evenIf_vd_iff, Except.ok.injEq,
      forall_eq']
    intros
    refine ⟨?_, congrArg some ?_⟩
    · simp only [WellFormed, Bool.and_eq_true, and_self, *]
    · simp_all only [layout_7_7_7_7_4, layout_7_7_7_7_2_2, layout_7_7_7_11, layout_7_7_7_3_4_4, op_lit, fn_lit,
        low11_lit, fn_low2_lit, fn_high2_lit, fn_mod_4_last, BitVec.ofFin_toFin, arndCode_arnd, Nat.reduceMod,
        Nat.reduceDiv, Nat.reducePow, not_false_eq_true, and_self, imp_false]

theorem decScalar_sound {op : Nat} (h : fOp w = op) : Sound w (decScalar op w) := by
  unfold decScalar
  split <;> (try split) <;> try exact sound_error
  all_goals
    simp +contextual only [Sound, forall_also, forall_ap, ap1, ap2, ap3, fD, fA, fB, fImm11, vDst_eq_ok, sSrc_eq_ok,
      sDst_eq_ok, sSrc64_eq_ok, sDst64_eq_ok, sSrcNoImm_eq_ok, pred_eq_ok, sReg_eq_ok, res_eq_ok, setsReg_eq_ok,
      wideSReg_code, evenIf_vd_iff, evenIf_sd_iff, notPerThread_iff, Except.ok.injEq, forall_eq', and_imp]
    intros
    refine ⟨?_, congrArg some ?_⟩
    · simp only [WellFormed, Bool.and_eq_true, decide_eq_true_eq, Bool.not_false, ne_eq, not_false_eq_true, and_self,
        *]
    · simp only [layout_7_7_7_7_4, layout_7_7_7_11, layout_7_7_18, layout_7_7_10_8, op_lit, fn_lit, low11_lit,
        low18_lit_8, mid10_lit, bit_set, bit_clear, BitVec.reduceOfNat, Nat.reduceMod, Nat.reduceDiv, Nat.reducePow,
        Bool.false_eq_true, not_false_eq_true, and_self, *]

theorem decCtl_sound {op : Nat} (h : fOp w = op) : Sound w (decCtl op w) := by
  unfold decCtl
  split <;> (try split) <;> try exact sound_error
  all_goals
    simp only [Sound, forall_also, forall_ap, ap1, ap2, ap3, ap4, fD, fA, fB, fImm18, fQ, fCtl, vSrc_eq_ok,
      vDst_eq_ok, vSrc64_eq_ok, sSrc_eq_ok, sDst_eq_ok, sSrcNoImm_eq_ok, pred_eq_ok, res_eq_ok, zero_eq_ok,
      linkNo_eq_ok, Except.ok.injEq, forall_eq', and_imp]
    intros
    refine ⟨?_, congrArg some ?_⟩
    · simp only [WellFormed, decide_eq_true_eq, ne_eq, not_false_eq_true, *]
    · simp only [layout_7_7_7_11, layout_7_7_7_4_7, layout_7_7_7_4_6_1, layout_7_7_18, layout_7_4_21, layout_7_1_3_21,
        layout_7_25, op_lit, fn_lit, low11_lit, low18_lit, low25_lit, ofBool_bit, BitVec.ofFin_toFin, Nat.reduceMod,
        Nat.reduceDiv, Nat.reducePow, and_self, *]

theorem decMem_sound {op : Nat} (h : fOp w = op) : Sound w (decMem op w) := by
  unfold decMem
  split <;> (try split) <;> try exact sound_error
  all_goals
    simp +contextual only [Sound, forall_also, forall_ap, ap1, ap2, ap3, ap4, ap5, fD, fA, fB, fOff, fScope, fOrder,
      vSrc_eq_ok, vDst_eq_ok, vSrc64_eq_ok, vDst64_eq_ok, cSrc_eq_ok, pred_eq_ok, rowDst_eq_ok, scope_eq_ok,
      atomOp_eq_ok, res_eq_ok, atomReg_iff, atomReg64_iff, ordOk_iff, scopeCode_inj, exists_eq_left', Except.ok.injEq,
      forall_eq', and_imp]
    intros
    refine ⟨?_, congrArg some ?_⟩
    · simp only [WellFormed, Bool.and_eq_true, decide_eq_true_eq, ne_eq, not_false_eq_true, and_self, *]
    · simp only [layout_7_7_7_7_4, layout_7_7_7_11, layout_7_7_7_6_3_2, layout_7_20_3_2, layout_7_25, op_lit, fn_lit,
        low11_lit, low18_lit, low25_lit, mid20_lit, mid13_lit, orderCode_order, Nat.reduceMod, Nat.reduceDiv,
        Nat.reducePow, and_self, *]

theorem decEng_sound {op : Nat} (h : fOp w = op) : Sound w (decEng op w) := by
  unfold decEng
  split <;> (try split) <;> try exact sound_error
  all_goals
    simp +contextual only [Sound, forall_also, forall_ap, ap1, ap2, ap3, ap4, fD, fA, fB, fImm11, fImm18, fQ, fCtl,
      vSrc_eq_ok, vDst_eq_ok, vSrc64_eq_ok, sSrc_eq_ok, sDst_eq_ok, pred_eq_ok, fmtField_eq_ok, mDim_eq_ok, res_eq_ok,
      cwaitN_eq_ok, fmtImm_eq_ok, streamNo_eq_ok, queue_append, qMask_eq_ok, Except.ok.injEq, forall_eq', and_imp]
    intros
    refine ⟨?_, congrArg some ?_⟩
    · simp only [WellFormed, Bool.and_eq_true, decide_eq_true_eq, ne_eq, not_false_eq_true, and_self, *]
    · simp only [layout_7_7_7_7_4, layout_7_7_7_11, layout_7_7_7_2_2_7, layout_7_7_18, layout_7_7_12_2_2_2,
        layout_7_14_11, layout_7_17_8, layout_7_25, op_lit, fn_lit, low11_lit, low18_lit, low25_lit, mid14_lit,
        mid17_lit, kDimCode_kDim, Nat.reduceMod, Nat.reduceDiv, Nat.reducePow, and_self, *]

theorem decReq_sound {op : Nat} (h : fOp w = op) : Sound w (decReq op w) := by
  unfold decReq
  split
  case h_5 =>
    split
    all_goals
      simp only [Sound, forall_also, forall_ap, ap1, ap2, fD, fA, vSrc_eq_ok, zero_eq_ok, Except.ok.injEq, forall_eq']
      intros
      refine ⟨?_, congrArg some ?_⟩
      · simp only [WellFormed, *]
      · simp_all only [layout_7_7_7_11, op_lit, low11_lit_2, low2_lit, low2_last, Nat.reduceMod, Nat.reduceDiv,
          Nat.reducePow, not_false_eq_true, and_self, imp_false]
  case h_12 =>
    split
    all_goals
      simp only [Sound, forall_also, forall_ap, ap1, fD, fA, vSrc64_eq_ok, res_eq_ok, Except.ok.injEq, forall_eq',
        and_imp]
      intros
      refine ⟨?_, congrArg some ?_⟩
      · simp only [WellFormed, *]
      · simp only [layout_7_7_18, op_lit, low18_lit, low11_lit_1, bit_set, bit_clear, Nat.reduceMod, Nat.reduceDiv,
          Nat.reducePow, Bool.false_eq_true, not_false_eq_true, and_self, *]
  all_goals (try split) <;> try exact sound_error
  all_goals
    simp +contextual only [Sound, forall_also, forall_ap, ap1, ap2, ap3, ap4, ap5, ap6, fD, fA, fB, vSrc_eq_ok,
      vSrc64_eq_ok, vDst64_eq_ok, sSrc_eq_ok, sDst_eq_ok, sSrc64_eq_ok, csr_eq_ok, csrWr_eq_ok, mergeKind_eq_ok,
      res_eq_ok, zero_eq_ok, wideCsr_code, evenIf_s_iff, evenIf_sd_iff, Except.ok.injEq, forall_eq', and_imp]
    intros
    refine ⟨?_, congrArg some ?_⟩
    · simp only [WellFormed, Bool.and_eq_true, and_self, *]
    · simp only [layout_7_7_7_7_4, layout_7_7_7_11, layout_7_7_7_10_1, layout_7_7_7_9_1_1, layout_7_7_7_8_1_1_1,
        layout_7_7_7_6_1_1_2_1, layout_7_1_3_21, layout_7_25, op_lit, fn_lit, low11_lit, ofBool_bit,
        BitVec.ofFin_toFin, Nat.reduceMod, Nat.reduceDiv, Nat.reducePow, and_self, *]

/-- The major opcode names one of the eight tables of R41, and each of them is sound. -/
theorem decodeWord_sound : Sound w (decodeWord w) := by
  unfold decodeWord
  dsimp only
  split_ifs
  · exact decInt_sound rfl
  · exact decPred_sound rfl
  · exact decFloat_sound rfl
  · exact decScalar_sound rfl
  · exact decCtl_sound rfl
  · exact decMem_sound rfl
  · exact decEng_sound rfl
  · exact decReq_sound rfl

end

/-- Settles O4: the decoder is sound on every word. -/
theorem decodedWordEncodes : Obligations.DecodedWordEncodes := by
  unfold Obligations.DecodedWordEncodes
  exact fun w => decodeWord_sound (w := w)

end Sys2Proof.Laws
end

section
/-! SUPPORT. Words that issue, by privilege level and guard (O14). -/

namespace Sys2Proof.Machine

/-! ### A word that issues, by its level -/

theorem issue_of_ctx {s : State} {c : Ctx} (h : s.ctx = some c) (k : Ctx → State) : issue s k = .next (k c) := by
  simp [issue, h]

theorem atP0_user {s : State} {c : Ctx} (h : s.ctx = some c) (hp : c.path.priv = false) (k : Ctx → State) :
    atP0 s k = .next (k c) := by
  simp [atP0, issue_of_ctx h, hp]

theorem atP0_priv {s : State} {c : Ctx} (h : s.ctx = some c) (hp : c.path.priv = true) (k : Ctx → State) :
    atP0 s k = .next (s.takeTrap c { cause := .priv, addr := c.path.seq.word.setWidth 64 }) := by
  simp [atP0, issue_of_ctx h, hp]

theorem atP1_priv {s : State} {c : Ctx} (h : s.ctx = some c) (hp : c.path.priv = true) (k : Ctx → State) :
    atP1 s k = .next (k c) := by
  simp [atP1, issue_of_ctx h, hp]

theorem atP1_user {s : State} {c : Ctx} (h : s.ctx = some c) (hp : c.path.priv = false) (k : Ctx → State) :
    atP1 s k = .next (s.takeTrap c { cause := .priv, addr := c.path.seq.word.setWidth 64 }) := by
  simp [atP1, issue_of_ctx h, hp]

/-! ### A guard that is false in every active thread -/

theorem differing_eq_nil {f : Nat → Bool} {ts : List Nat} (h : ∀ t ∈ ts, ∀ u ∈ ts, f t = f u) : differing f ts = [] := by
  cases ts with
  | nil => rfl
  | cons t ts =>
    refine List.filter_eq_nil_iff.2 fun u hu => ?_
    simp [h u (.tail _ hu) t (.head _)]

theorem guardTrap_of_guardedOff {c : Ctx} (h : c.GuardedOff) : c.guardTrap = none := by
  have hd : differing (guardIn c.wave c.path.seq.guard) (ixs c.path.active) = [] :=
    differing_eq_nil fun t ht u hu => (h.2 t ht).trans (h.2 u hu).symm
  rw [Ctx.guardTrap, hd]

theorem performs_of_guardedOff {c : Ctx} (h : c.GuardedOff) : c.performs = false := by
  obtain ⟨hne, hoff⟩ := h
  unfold Ctx.performs
  split
  · next he => exact absurd he hne
  · next t ts he => exact hoff t (by simp [he])

/-- The form in which a guarded word stands in the model: its class, with whatever it does when it is performed. -/
inductive GuardedForm (priv : Bool) (s : State) (out : Out) : Prop where
  | scalar (xs : List (SOp × Bool)) (k : Ctx → State) (h : out = scal s xs k)
  | system (xs : List (SOp × Bool)) (k : Ctx → State) (hp : priv = true) (h : out = scalP1 s xs k)
  | matrix (d : BitVec 7) (xs : List (SOp × Bool)) (checks : Ctx → Option Trap) (op : Ctx → MatOp) (hp : priv = false)
      (h : out = Machine.matrix s d xs checks op)

theorem guardedForm_of_row {priv : Bool} {i : Instr} (h : GuardedRow priv i) (s : State) :
    GuardedForm priv s (exec i s) := by
  cases h with
  | scalar32 h => cases h <;> exact .scalar _ _ rfl
  | scalar64 h => cases h <;> exact .scalar _ _ rfl
  | compare h => cases h <;> exact .scalar _ _ rfl
  | gets | sets | shape | setfmt | setfmtR | pread | phint => exact .scalar _ _ rfl
  | csrr _ _ hp | csrw _ _ hp | tlbinv _ _ hp => exact .system _ _ hp rfl
  | mma _ _ _ hp | mmaBf16 _ _ _ hp | mmaF16 _ _ _ hp | mmaSq _ _ _ hp | aclr _ hp | ald _ _ _ hp | ast _ _ _ hp
  | ascale _ _ hp | aexp _ _ hp => exact .matrix _ _ _ _ hp rfl

/-- Of each class, a word with a false guard is completed by no thread. -/
theorem GuardedForm.completes {s : State} {c : Ctx} {out : Out} (h : GuardedForm c.path.priv s out) (hc : s.ctx = some c)
    (hg : c.GuardedOff) : out = .next (s.complete c []) := by
  have ht := guardTrap_of_guardedOff hg
  have hp := performs_of_guardedOff hg
  cases h with
  | scalar xs k h => simp [h, scal, issue_of_ctx hc, ht, hp]
  | system xs k hl h => simp [h, scalP1, atP1_priv hc hl, ht, hp]
  | matrix d xs checks op hl h => simp [h, Machine.matrix, atP0_user hc hl, ht, hp]

/-- Settles O14: such a word is completed by no thread, and its completion only moves the path on. -/
theorem guardedOffWordPasses : Obligations.GuardedOffWordPasses := by
  unfold Obligations.GuardedOffWordPasses
  intro s c i hi hc hg
  exact ⟨_, (guardedForm_of_row hi s).completes hc hg, passed_of_complete hc [] List.nodup_nil⟩

end Sys2Proof.Machine
end

section
/-! SUPPORT. Words at a level that may not use them (O19). -/

namespace Sys2Proof.Machine

/-- A word of P1 is checked for its level before anything else; the word of P2 has no level that may use it. -/
theorem privRow_traps {s : State} {c : Ctx} (hc : s.ctx = some c) {i : Instr} (h : PrivRow c.path.priv i) :
    exec i s = .next (s.takeTrap c { cause := .priv, addr := c.path.seq.word.setWidth 64 }) := by
  cases h with
  | csrr _ _ hp | csrw _ _ hp | tlbinv _ _ hp | tret hp => exact atP1_user hc hp _
  | tlbinvAll => exact issue_of_ctx hc _

/-- A word that P1 does not have is checked for its level before anything else. -/
theorem userRow_traps {s : State} {c : Ctx} (hc : s.ctx = some c) (hp : c.path.priv = true) {i : Instr} (h : UserRow i) :
    exec i s = .next (s.takeTrap c { cause := .priv, addr := c.path.seq.word.setWidth 64 }) := by
  cases h <;> exact atP0_priv hc hp _

/-- Settles O19: by the level that each row is checked for. -/
theorem privilegeTraps : Obligations.PrivilegeTraps := by
  unfold Obligations.PrivilegeTraps
  exact ⟨fun _ _ _ hc h => privRow_traps hc h, fun _ _ _ hc h hp => userRow_traps hc hp h⟩

end Sys2Proof.Machine
end

section
/-! SUPPORT. Transfers of no thread or of the whole path (O21). -/

namespace Sys2Proof.Machine

/-! ### Targets -/

/-- The address without its place in the fetch block. -/
theorem and_not_63 (a : DWord) : a &&& ~~~(63 : DWord) = BitVec.ofNat 64 (a.toNat / 64 * 64) := by
  refine BitVec.eq_of_getLsbD_eq fun i hi => ?_
  have h63 : (63 : DWord).getLsbD i = decide (i < 6) := Nat.testBit_two_pow_sub_one 6 i
  have hblock : a.toNat / 64 * 64 = a.toNat / 2 ^ 6 * 2 ^ 6 := by norm_num only
  rw [BitVec.getLsbD_and, BitVec.getLsbD_not, h63, BitVec.getLsbD_ofNat, hblock, Nat.testBit_mul_two_pow,
    Nat.testBit_div_two_pow]
  by_cases h : i < 6
  · simp [h, hi]
  · simp [h, hi, show 6 ≤ i by omega, show i - 6 + 6 = i by omega, BitVec.getLsbD]

theorem blockTarget_eq (c : Ctx) (x : BitVec 21) : c.blockTarget x = c.blockAt x := by
  rw [Ctx.blockTarget, Ctx.blockAt, and_not_63, BitVec.ofInt_add, BitVec.ofInt_natCast, Int.mul_comm, BitVec.ofInt_mul]
  rfl

theorem lowest64_eq {c : Ctx} (h : c.perf ≠ []) (a : VOp) : c.lowest64 a = c.firstOf a := by
  obtain ⟨t, ts, hp⟩ := List.exists_cons_of_ne_nil h
  simp [Ctx.lowest64, Ctx.firstOf, hp]

/-! ### Checks that pass -/

theorem srcTrap_eq_none {c : Ctx} {ts : List Nat} {xs : List Src} (h : c.Readable ts xs) : c.srcTrap ts xs = none := by
  have hun : (ts.filter fun t => xs.any fun x => c.unlatched t x) = [] :=
    List.filter_eq_nil_iff.2 fun t ht => by simpa using fun x hx => (h t ht x hx).1
  have hbad : (ts.filterMap fun t => (xs.filterMap fun x => c.badUnit t x).head?) = [] :=
    List.filterMap_eq_nil_iff.2 fun t ht => by
      rw [List.filterMap_eq_nil_iff.2 fun x hx => (h t ht x hx).2]
      rfl
  rw [Ctx.srcTrap, hun, hbad]
  rfl

theorem windowFail_eq_none {c : Ctx} {k : Nat → Int} {ts : List Nat} (h : c.WindowFits k ts) {t : Nat} (ht : t ∈ ts) :
    c.windowFail (k t) t = none := by
  obtain ⟨h0, hlo, hhi, hd⟩ := h t ht
  simp only [Ctx.windowFail]
  rw [if_neg (by omega), if_neg (by omega), if_neg (by omega), if_neg (by omega)]

theorem windowTrap_eq_none {c : Ctx} {k : Nat → Int} {ts : List Nat} (h : c.WindowFits k ts) : c.windowTrap k ts = none := by
  have hbad : (ts.filterMap fun t => (c.windowFail (k t) t).map fun f => (t, f)) = [] :=
    List.filterMap_eq_nil_iff.2 fun t ht => by simp [windowFail_eq_none h ht]
  simp [Ctx.windowTrap, hbad]

theorem nonUniform_eq_nil {f : Nat → DWord} {ts : List Nat} (h : ∀ t ∈ ts, ∀ u ∈ ts, f t = f u) :
    Ctx.nonUniform f ts = [] := by
  cases ts with
  | nil => rfl
  | cons t ts =>
    refine List.filter_eq_nil_iff.2 fun u hu => ?_
    simp [h u (.tail _ hu) t (.head _)]

theorem targetTrap_eq_none {c : Ctx} {a : VOp} (h : c.Agree c.perf a)
    (hal : c.perf ≠ [] → (c.firstOf a).extractLsb' 0 6 = 0) : c.targetTrap a = none := by
  rw [Ctx.targetTrap, nonUniform_eq_nil h]
  cases hp : c.perf with
  | nil => rfl
  | cons t ts =>
    have : (c.v64 t a).extractLsb' 0 6 = 0 := by simpa [Ctx.firstOf, hp] using hal
    simp [this]

/-! ### The shared transfer -/

theorem State.modWave_id (s : State) (g x : Nat) : (s.modWave g x fun w => w) = s := by
  simp [State.modWave, State.modGroup, Group.modWave]

/-- Of no thread, a transfer is the completion of the word; of all, its path then stands at the target. -/
theorem transfer_nil (s : State) (c : Ctx) (target : DWord) (w : Wave → Wave) :
    s.transfer c [] target w = (s.modWave c.ref.group c.ref.wix w).complete c c.perf := by
  simp [State.transfer]

theorem transfer_all {s : State} {c : Ctx} {ts : List Nat} (hne : ts ≠ []) (hall : maskOf ts = c.path.mask) (target : DWord)
    (w : Wave → Wave) :
    s.transfer c ts target w = ((s.modWave c.ref.group c.ref.wix w).complete c c.perf).modPath c.ref fun p => p.goto target := by
  simp [State.transfer, hne, hall]

/-- A call that finds its window free transfers, with the link written and the window moved. -/
theorem callTo_eq {s : State} {c : Ctx} (h : c.WindowFits (fun _ => 32) c.perf) (target : DWord) :
    s.callTo c target =
      s.transfer c c.perf target fun w => (w.link (c.path.pc + 4) c.perf).slide (fun _ => 32) c.perf := by
  rw [State.callTo, windowTrap_eq_none h, unless_none]

/-- A transfer whose target is that of the lowest thread does not need one where there is no thread. -/
theorem transfer_perf_congr {s : State} {c : Ctx} {x y : DWord} (h : c.perf ≠ [] → x = y) (w : Wave → Wave) :
    s.transfer c c.perf x w = s.transfer c c.perf y w := by
  by_cases hp : c.perf = []
  · rw [hp, transfer_nil, transfer_nil]
  · rw [h hp]

/-- An indirect call without a thread writes no link and moves no window. -/
theorem transfer_call_nil {s : State} {c : Ctx} (hp : c.perf = []) (target : DWord) :
    s.transfer c c.perf target (fun w => (w.link (c.path.pc + 4) c.perf).slide (fun _ => 32) c.perf) = s.complete c [] := by
  rw [hp, transfer_nil, hp]
  exact congrArg (fun u : State => u.complete c []) (State.modWave_id s _ _)

/-- Each row, when it does not trap, is the shared transfer of its threads to its target. -/
theorem transferRow_exec {s : State} {c : Ctx} {i : Instr} {pre target ts w} (h : TransferRow i pre target ts w)
    (hc : s.ctx = some c) (hpre : pre c) : exec i s = .next (s.transfer c (ts c) (target c) (w c)) := by
  cases h with
  | bra e p x =>
    have hm : ¬(c.path.mask = 0 ∧ e = false ∧ p = 0 ∧ c.path.seq.guard = none) := fun hn => hpre hn.1
    dsimp only
    rw [← blockTarget_eq]
    exact (issue_of_ctx hc _).trans (congrArg _ (if_neg hm))
  | bru e p x =>
    obtain ⟨hm, hagree⟩ := hpre
    dsimp only
    rw [← blockTarget_eq]
    refine (issue_of_ctx hc _).trans (congrArg _ ((if_neg hm).trans ?_))
    have hd : differing (c.bruHolds e p) (ixs c.path.mask) = [] := differing_eq_nil hagree
    change (match differing (c.bruHolds e p) (ixs c.path.mask) with
      | [] => s.transfer c ((ixs c.path.mask).filter (c.bruHolds e p)) (c.blockTarget x) id
      | us => s.takeTrap c { cause := .nunif, mask := maskOf us }) = _
    rw [hd]
    rfl
  | jmpi a =>
    obtain ⟨hr, hagree, hal⟩ := hpre
    refine (issue_of_ctx hc _).trans (congrArg _ ?_)
    dsimp only
    rw [srcTrap_eq_none hr, targetTrap_eq_none hagree hal]
    exact transfer_perf_congr (fun hp => lowest64_eq hp a) _
  | call x =>
    obtain ⟨hp, hfit⟩ := hpre
    dsimp only
    rw [← blockTarget_eq]
    exact (atP0_user hc hp _).trans (congrArg _ (callTo_eq hfit _))
  | calli a =>
    obtain ⟨hp, hr, hagree, hal, hfit⟩ := hpre
    refine (atP0_user hc hp _).trans (congrArg _ ?_)
    dsimp only
    rw [srcTrap_eq_none hr, targetTrap_eq_none hagree hal]
    by_cases hn : c.perf = []
    · rw [if_pos hn, transfer_call_nil hn]
      rfl
    · rw [if_neg hn, callTo_eq hfit, lowest64_eq hn]
      rfl
  | ret =>
    obtain ⟨hp, hfit, hr⟩ := hpre
    refine (atP0_user hc hp _).trans (congrArg _ ?_)
    dsimp only
    rw [windowTrap_eq_none hfit, srcTrap_eq_none hr]
    exact transfer_perf_congr (fun hn => by rw [lowest64_eq hn]) _

/-! ### A path without threads -/

theorem perf_eq_nil {c : Ctx} (h : c.path.mask = 0) : c.perf = [] := by
  have ha : c.path.active = 0#32 := by
    rw [Path.active]
    split <;> simp [h]
  simp [Ctx.perf, ha, ixs]

/-- `bra` without threads goes where its condition is the constant true, unguarded (R121). -/
theorem bra_empty {s : State} {c : Ctx} (hc : s.ctx = some c) (hm : c.path.mask = 0) (e : Bool) (p : Fin 8) (x : BitVec 21) :
    exec (.bra e p x) s = .next (if e = false ∧ p = 0 ∧ c.path.seq.guard = none then
      (s.complete c []).modPath c.ref fun q => q.goto (c.blockAt x) else s.complete c []) := by
  have hperf := perf_eq_nil hm
  rw [← blockTarget_eq]
  refine (issue_of_ctx hc _).trans (congrArg _ ?_)
  simp only [hm, hperf, true_and, List.filter_nil, transfer_nil]
  exact congrArg (fun u : State => ite _ _ (u.complete c [])) (State.modWave_id s _ _)

/-- `bru` without threads reads its condition in thread 0 (R122). -/
theorem bru_empty {s : State} {c : Ctx} (hc : s.ctx = some c) (hm : c.path.mask = 0) (e : Bool) (p : Fin 8) (x : BitVec 21) :
    exec (.bru e p x) s = .next (if (if p = 0 then !e else c.bruHolds e p 0) = true then
      (s.complete c []).modPath c.ref fun q => q.goto (c.blockAt x) else s.complete c []) := by
  rw [← blockTarget_eq]
  exact (issue_of_ctx hc _).trans (congrArg _ (if_pos hm))

/-- Settles O21: each row is the shared transfer, whose threads are none or the whole path; a path without threads has branches
of its own. -/
theorem transfersStayOrMove : Obligations.TransfersStayOrMove := by
  unfold Obligations.TransfersStayOrMove
  refine ⟨fun s c i pre target ts w h hc hpre => ?_, fun s c e p x hc hm => bra_empty hc hm e p x,
    fun s c e p x hc hm => bru_empty hc hm e p x⟩
  have hexec := transferRow_exec h hc hpre
  constructor
  · intro hts
    rw [hexec, hts, transfer_nil]
  · intro hne hall
    rw [hexec, transfer_all hne hall]
    rfl

end Sys2Proof.Machine
end

section
/-! SUPPORT. Plain words and waits on time (O27). -/

namespace Sys2Proof.Machine

/-! ### Operands of one value for the path -/

theorem ixs_eq_nil {m : Mask} : ixs m = [] ↔ m = 0 := by
  constructor
  · intro h
    refine BitVec.eq_of_getLsbD_eq fun t ht => ?_
    have : t ∉ ixs m := by simp [h]
    simpa [ixs_mem, ht] using this
  · rintro rfl
    simp [ixs]

theorem reader_eq (c : Ctx) (a : VOp) : c.reader a = c.readers a := by
  cases a <;> simp [Ctx.reader, Ctx.readers, uniformOp, ixs_eq_nil]

theorem reader_headD (c : Ctx) (a : VOp) : (c.reader a).headD 0 = c.oneReader a := by
  have hempty : (if c.path.mask = 0 then [0] else ixs c.path.mask).headD 0 = (ixs c.path.mask).headD 0 := by
    split
    · next h => rw [ixs_eq_nil.2 h]; rfl
    · rfl
  cases a with
  | s | z | imm => rfl
  | w | o | h | ix => exact hempty

theorem sTrap_eq_none {c : Ctx} {d : SOp} (h : c.SReadable [(d, false)]) : c.sTrap [(d, false)] = none := by
  cases d with
  | z | imm => rfl
  | s k =>
    have hk := (h _ (.head _) k rfl).1
    have hread : ([k.val].filter fun k => !(c.path.priv && decide (k < 16))).filter c.path.badS.getLsbD = [] := by
      rw [List.filter_filter, List.filter_eq_nil_iff]
      intro n hn
      obtain rfl := List.mem_singleton.1 hn
      revert hk
      simp only [Ctx.goodS]
      cases c.path.priv && decide (k.val < 16) <;> simp
    simp only [Ctx.sTrap, List.flatMap_singleton, Bool.false_eq_true, if_false, hread]

/-! ### Waits on time -/

theorem timed_eq_some {c : Ctx} {k : Nat}
    (h : c.path.wait = .time k ∨ ((∀ j, c.path.wait ≠ .time j) ∧ c.path.deadline = some k)) : c.timed = some k := by
  rw [Ctx.timed]
  obtain h | ⟨hw, hd⟩ := h
  · rw [h]
  · split
    · next j hj => exact absurd hj (hw j)
    · exact hd

theorem timed_eq_none {c : Ctx} (hw : ∀ k, c.path.wait ≠ .time k) (hd : c.path.deadline = none) : c.timed = none := by
  rw [Ctx.timed]
  split
  · next j hj => exact absurd hj (hw j)
  · exact hd

theorem waitUntil_eq {s : State} {c : Ctx} (h : c.launch.repro = false) (k : Nat) :
    s.waitUntil c k = if k ≤ s.ns.toNat then s.complete c c.perf
      else s.modPath c.ref fun p => { p with wait := .time k, since := s.ns.toNat } := by
  simp [State.waitUntil, h]

theorem waitUntil_repro {s : State} {c : Ctx} (h : c.launch.repro = true) (k : Nat) :
    s.waitUntil c k = (s.modWave c.ref.group c.ref.wix fun w => { w with qended := true }).modPath c.ref fun p =>
      { p with wait := .time k, since := s.ns.toNat } := by
  simp [State.waitUntil, h]

/-- A wait that is under way, or that a trap has cut short, goes on with its deadline (R135). -/
theorem sleep_resumed {s : State} {c : Ctx} {i : Instr} {k : Nat} (hc : s.ctx = some c) (ht : c.timed = some k)
    (hi : (∃ d x, i = .sleepn d x) ∨ ∃ a, i = .waitt a) : exec i s = .next (s.waitUntil c k) := by
  obtain ⟨d, x, rfl⟩ | ⟨a, rfl⟩ := hi <;>
    exact (issue_of_ctx hc _).trans (congrArg _ (by rw [ht]))

theorem sleepn_begins {s : State} {c : Ctx} (hc : s.ctx = some c) (ht : c.timed = none) {d : SOp}
    (hd : c.SReadable [(d, false)]) (i : BitVec 18) :
    exec (.sleepn d i) s = .next (s.waitUntil c (s.ns.toNat + (c.s32 d).toNat + i.toNat)) :=
  (issue_of_ctx hc _).trans (congrArg _ (by rw [ht, sTrap_eq_none hd, unless_none]))

theorem waitt_begins {s : State} {c : Ctx} (hc : s.ctx = some c) (ht : c.timed = none) {a : VOp}
    (hr : c.Readable (c.readers a) [⟨a, true⟩]) (ha : c.Agree (c.readers a) a) :
    exec (.waitt a) s = .next (s.waitUntil c (c.v64 (c.oneReader a) a).toNat) := by
  refine (issue_of_ctx hc _).trans (congrArg _ ?_)
  dsimp only
  rw [ht, reader_headD, reader_eq, srcTrap_eq_none hr, nonUniform_eq_nil ha]
  rfl

/-! ### Prefixes -/

theorem grd_joins {s : State} {c : Ctx} (hc : s.ctx = some c) (hg : c.path.seq.guard = none) (hx : c.path.seq.chain = 0)
    (hp : c.path.pc.toNat % 64 ≠ 60) (e : Bool) (p : Fin 8) :
    exec (.grd e p) s = .next (s.prefixed c fun q => { q with guard := some (e, p) }) :=
  (issue_of_ctx hc _).trans (congrArg _ (if_neg (by simp [hg, hx, hp])))

theorem xim_joins {s : State} {c : Ctx} (hc : s.ctx = some c) (hx : c.path.seq.chain < 3)
    (hp : c.path.pc.toNat % 64 ≠ 60) (i : BitVec 25) :
    exec (.xim i) s =
      .next (s.prefixed c fun q => { q with chain := q.chain + 1, imm := q.imm * 2 ^ 25 + i.toNat }) :=
  (issue_of_ctx hc _).trans (congrArg _ (if_neg (by simp [hx, hp])))

/-- Settles O27: a clause for each word; the waits come down to `waitUntil` with their deadline. -/
theorem plainWords : Obligations.PlainWords := by
  unfold Obligations.PlainWords
  refine ⟨?nop, ?yield, ?grd, ?xim, ?resumed, ?sleepn, ?waitt⟩
  case nop => exact fun s c hc => ⟨_, issue_of_ctx hc _, passed_of_complete hc _ c.perf_nodup⟩
  case yield => exact fun s c hc => issue_of_ctx hc _
  case grd => exact fun s c e p hc hg hx hp => grd_joins hc hg hx hp e p
  case xim => exact fun s c i hc hx hp => xim_joins hc hx hp i
  case resumed =>
    intro s c k i hc ht hi hr
    rw [sleep_resumed hc (timed_eq_some ht) hi, waitUntil_eq hr]
    constructor
    · intro h
      exact ⟨_, congrArg _ (if_pos h), passed_of_complete hc _ c.perf_nodup⟩
    · intro h
      exact congrArg _ (if_neg (by omega))
  case sleepn =>
    intro s c d i hc hw hd hr
    dsimp only
    rw [sleepn_begins hc (timed_eq_none hw hd) hr]
    exact ⟨fun h => congrArg _ (waitUntil_eq h _), fun h => congrArg _ (waitUntil_repro h _)⟩
  case waitt =>
    intro s c a hc hw hd hr ha
    dsimp only
    rw [waitt_begins hc (timed_eq_none hw hd) hr ha]
    exact ⟨fun h => congrArg _ (waitUntil_eq h _), fun h => congrArg _ (waitUntil_repro h _)⟩

end Sys2Proof.Machine
end

section
/-! SUPPORT. A step of a path that may issue, and the word that it performs (O5, O16). -/

namespace Sys2Proof.Machine

/-! ### What the end of a core's part of the cycle leaves of a path -/

/-- The path is the same in both states, and so is the CANCEL that is due to its wave, if `t` has the path. -/
def SamePath (r : PathRef) (s t : State) : Prop :=
  ∀ c, t.ctxAt r = some c → ∃ x, s.ctxAt r = some x ∧ x.path = c.path ∧ x.wave.cancel = c.wave.cancel

theorem SamePath.trans {r : PathRef} {s t u : State} (h : SamePath r s t) (h' : SamePath r t u) : SamePath r s u := by
  intro c hc
  obtain ⟨x, hx, hp, hk⟩ := h' c hc
  obtain ⟨y, hy, hp', hk'⟩ := h x hx
  exact ⟨y, hy, hp'.trans hp, hk'.trans hk⟩

theorem samePath_quantumEnds (r : PathRef) (s : State) (c : Ctx) : SamePath r s (s.quantumEnds c) := by
  intro c' hc'
  obtain ⟨-, hg', hw', hp', hl'⟩ := State.ctxAt_eq hc'
  rw [State.quantumEnds, State.group?_modWave] at hg'
  obtain ⟨g, hg, hgc⟩ := Option.map_eq_some_iff.1 hg'
  have hid : c'.group.launch = g.launch := by rw [← hgc]; split <;> rfl
  have hw : ∃ w, g.wave? r.wix = some w ∧ w.path? r.slot = c'.wave.path? r.slot ∧ w.cancel = c'.wave.cancel := by
    rw [← hgc] at hw'
    split at hw'
    · rw [Group.wave?_modWave] at hw'
      · obtain ⟨w, hw, hwc⟩ := Option.map_eq_some_iff.1 hw'
        refine ⟨w, hw, ?_⟩
        rw [← hwc]
        split <;> exact ⟨rfl, rfl⟩
      · exact fun _ => rfl
    · exact ⟨_, hw', rfl, rfl⟩
  obtain ⟨w, hw, hp, hk⟩ := hw
  rw [hid] at hl'
  exact ⟨_, State.ctxAt_mk hg hw (hp.trans hp') hl', rfl, hk⟩

theorem samePath_endHeld (r : PathRef) (s : State) (c core : Nat) : SamePath r s (s.endHeld c core) := by
  rw [State.endHeld]
  generalize (s.round c core).filter s.endsHeld = xs
  induction xs generalizing s with
  | nil => exact fun c hc => ⟨c, hc, rfl, rfl⟩
  | cons x xs ih => exact (samePath_quantumEnds r s x).trans (ih _)

/-- A path that its core grants its part of the cycle is the path that asked for it. -/
theorem samePath_granted {r : PathRef} {s g : State} (h : s.granted r = some g) : SamePath r s g := by
  unfold State.granted at h
  split at h
  · exact nomatch h
  · next x hx =>
    dsimp only at h
    split at h
    · exact nomatch h
    · next core full _ _ =>
      split at h
      · split at h
        · obtain rfl := Option.some.inj h
          exact samePath_endHeld r s _ _
        · exact nomatch h
      · exact nomatch h

/-! ### What is held back -/

theorem onAhead_false_mono {s : State} {c : Ctx} {f f' : Ctx → Instr → Bool} (hle : ∀ c i, f' c i = true → f c i = true)
    (h : s.onAhead c f = false) : s.onAhead c f' = false := by
  unfold State.onAhead at h ⊢
  dsimp only at h ⊢
  split
  · rfl
  · next w hw =>
    rw [hw] at h
    dsimp only at h
    split
    · rfl
    · next i hi =>
      rw [hi] at h
      dsimp only at h
      exact Bool.eq_false_iff.2 fun hf => by simp [hle _ _ hf] at h

/-- What waits for a commit waits for the matrix queue. -/
theorem holds_of_holdsToCommit (s : State) (c : Ctx) (i : Instr) (h : c.holdsToCommit i = true) : s.holds c i = true := by
  obtain ⟨o, ho, hm⟩ := List.any_eq_true.1 h
  have hq : o ∈ c.wave.mq := (List.dropWhile_suffix _).subset ho
  exact Bool.or_eq_true_iff.2 (.inr (List.any_eq_true.2 ⟨o, hq, hm⟩))

theorem endsHeld_false {s : State} {c : Ctx} (h : s.heldBack c = false) : s.endsHeld c = false := by
  rw [State.endsHeld, onAhead_false_mono (fun c i => holds_of_holdsToCommit s c i) h, Bool.and_false]

/-! ### From a step to its word -/

theorem State.modPath_id (s : State) (r : PathRef) : s.modPath r id = s := by
  have hw : ∀ w : Wave, w.modPath r.slot id = w := fun w => by
    cases h : r.slot <;> simp [Wave.modPath, Wave.setPath, Wave.path?]
  simp [State.modPath, hw, State.modWave, State.modGroup, Group.modWave]

/-- The state in which a path is the issuer. -/
def State.issuing (s : State) (r : PathRef) : State := { s with cur := some r }

@[simp] theorem State.issuing_ctxAt (s : State) (r q : PathRef) : (s.issuing r).ctxAt q = s.ctxAt q := rfl

/-- The path of `c` is in no sequence and waits for nothing, and nothing keeps it from its next word. -/
structure Unhindered (s : State) (c : Ctx) : Prop where
  loads   : c.wave.loads = []
  running : s.running c.group = true
  cancel  : c.wave.cancel = none
  may     : c.wave.mayIssue c.launch = true
  seq     : c.path.seq = Seq.empty
  wait    : c.path.wait = .none
  failed  : c.path.failed = []
  held    : s.heldBack c = false
  budget  : c.overBudget = false

section
variable {s g : State} {r : PathRef} {c c1 : Ctx} {w : Word}

/-- A step in which the turn laid down is that of a path, and no sequence is under way. -/
theorem step_issue {ts : List Turn} (hm : s.midSequence = none) (ha : s.agenda = .issue r :: ts) :
    step s = ({ s.moveOn with agenda := ts } : State).pathTurn r id := by
  have hm' : s.moveOn.midSequence = none := hm
  have ha' : s.moveOn.agenda = .issue r :: ts := ha
  simp [step, State.turn, hm', ha', State.runTurn]

/-- The turn of a path that its core grants its part of the cycle. -/
theorem pathTurn_granted (hg : s.granted r = some g) (hc : g.ctxAt r = some c) (hw : c.path.wait = .none)
    (hk : c.wave.cancel = none) : s.pathTurn r id = g.issuePath r := by
  obtain ⟨x, hx, hp, hk'⟩ := samePath_granted hg c hc
  have hasks : x.asks = true := by simp [Ctx.asks, hp, hk', hw, hk]
  simp [State.pathTurn, hx, hasks, hg, State.modPath_id]

theorem issuePath_begins (hc : g.ctxAt r = some c) (h : Unhindered (g.issuing r) c) :
    g.issuePath r = (g.issuing r).beginSeq c := by
  have hc' : (g.issuing r).ctxAt r = some c := hc
  have hlen : c.path.seq.len = 0 := by rw [h.seq]; rfl
  have hstay : g.loadsStay c = true := by simp [State.loadsStay, h.loads]
  rw [State.issuePath, hc]
  dsimp only
  rw [if_pos hstay, State.issueReady, ← State.issuing, hc']
  simp [hlen, h.running, h.cancel, h.wait, endsHeld_false h.held, h.may, h.held]

/-- The word fetched is taken and performed. -/
theorem beginSeq_performs (hc : s.ctxAt r = some c) (hc1 : (s.modPath r fun p => p.take w).ctxAt r = some c1)
    (h : Unhindered s c) (hpc : c.path.pc.toNat % 4 = 0) (hw : s.fetch c = .ok w) :
    s.beginSeq c = (s.modPath r fun p => p.take w).performWord c1 w := by
  obtain ⟨hr, -⟩ := State.ctxAt_eq hc
  simp [State.beginSeq, h.failed, h.budget, State.issueNext, hr, hc, hpc, hw, hc1]

/-- What a step comes down to for O5 and O16: the path takes the word at its pc and performs it. -/
theorem step_performs {ts : List Turn} (hm : s.midSequence = none) (ha : s.agenda = .issue r :: ts)
    (hg : ({ s.moveOn with agenda := ts } : State).granted r = some g) (hc : g.ctxAt r = some c)
    (hc1 : ((g.issuing r).modPath r fun p => p.take w).ctxAt r = some c1) (h : Unhindered (g.issuing r) c)
    (hpc : c.path.pc.toNat % 4 = 0) (hw : (g.issuing r).fetch c = .ok w) :
    step s = ((g.issuing r).modPath r fun p => p.take w).performWord c1 w := by
  rw [step_issue hm ha, pathTurn_granted hg hc h.wait h.cancel, issuePath_begins hc h,
    beginSeq_performs (by simpa using hc) hc1 h hpc hw]

/-- A path in no sequence that takes a word has it as the word of a sequence of its own. -/
theorem seq_take {p : Path} (h : p.seq = Seq.empty) (w : Word) : (p.take w).seq.bad = none ∧ (p.take w).seq.word = w := by
  have hlen : p.seq.len = 0 := by rw [h]; rfl
  simp [Path.take, hlen, Seq.empty]

/-- The path that has taken the first word of a sequence. -/
theorem ctxAt_take (hc : s.ctxAt r = some c) (hc1 : (s.modPath r fun p => p.take w).ctxAt r = some c1) :
    c1.path = c.path.take w ∧ c1.wave.loads = c.wave.loads := by
  obtain ⟨rfl, -, -, hp, -⟩ := State.ctxAt_eq hc
  have h := State.ctxAt_modWave hc (fun v => v.modPath c.ref.slot fun p => p.take w) (q := c.path.take w)
    (fun v => v.modPath_wix _ _) (by simp [hp])
  rw [State.modPath, h] at hc1
  obtain rfl := Option.some.inj hc1
  refine ⟨rfl, ?_⟩
  change (c.wave.modPath c.ref.slot _).loads = c.wave.loads
  cases c.ref.slot <;> rfl

/-- The first word of a sequence that is well used: debited, early reads settled, performed. -/
theorem performWord_ok {i : Instr} (hq : c.path.seq.bad = none) (hl : c.wave.loads = []) (hd : decodeWord w = .ok i)
    (hp : isPrefix w = false) (hm : misused c.path.seq i = false) :
    s.performWord c w = exec i ((s.debit c (wordCost c w)).voidEarly c (keepsEarly i w)) := by
  simp [State.performWord, hd, hp, hm, hq, hl]

/-- The first word of a sequence that does not decode, with a sub-cause that misuse of the sequence does not change. -/
theorem performWord_illegal {e : Illegal} (hq : c.path.seq.bad = none) (hw : c.path.seq.word = w)
    (hd : decodeWord w = .error e) (he : e.num < 8) (hop : fOp w ≠ 0x7C) :
    s.performWord c w = .next (s.takeTrap c { cause := .illegal, sub := e.num, addr := w.setWidth 64 }) := by
  have hsub : ¬8 ≤ e.num := by omega
  simp [State.performWord, hd, hop, hsub, Ctx.illegalTrap, hq, hw]

end

/-- Settles O5: the step performs the word, which is well used and finds no loads that read later. -/
theorem stepRunsDecodedWord : Obligations.StepRunsDecodedWord := by
  unfold Obligations.StepRunsDecodedWord
  intro s r ts g c c1 w i hm ha hg s0 s1 hl hc hc1 hrun hk hmay hq hw hf hh hb hpc hfetch hd hp hu
  obtain ⟨hpath, hloads⟩ := ctxAt_take hc hc1
  have hbad : c1.path.seq.bad = none := by rw [hpath]; exact (seq_take hq w).1
  exact (step_performs hm ha hg hc hc1 ⟨hl, hrun, hk, hmay, hq, hw, hf, hh, hb⟩ hpc hfetch).trans
    (performWord_ok hbad (hloads.trans hl) hd hp hu)

/-- Settles O16: the step performs the word, which has no meaning. -/
theorem illegalWordTraps : Obligations.IllegalWordTraps := by
  unfold Obligations.IllegalWordTraps
  intro s r ts g c c1 w e hm ha hg s0 s1 hl hc hc1 hrun hk hmay hq hw hf hh hb hpc hfetch hd he hop
  obtain ⟨hpath, -⟩ := ctxAt_take hc hc1
  obtain ⟨hbad, hword⟩ := seq_take hq w
  exact (step_performs hm ha hg hc hc1 ⟨hl, hrun, hk, hmay, hq, hw, hf, hh, hb⟩ hpc hfetch).trans
    (performWord_illegal (by rw [hpath]; exact hbad) (by rw [hpath]; exact hword) hd he hop)

end Sys2Proof.Machine
end

section
/-! SUPPORT. Floating-point words (O10). -/

namespace Sys2Proof.Machine

/-- A vector-class word whose sources can be read gives its results. -/
theorem vec_completes {s : State} {c : Ctx} {xs : List Src} (hc : s.ctx = some c) (hr : c.Readable c.perf xs) (d : VDst)
    (f : Ctx → Nat → Word) : ∃ t, vec s xs d f = .next t ∧ Vec32 c s d (f c) t := by
  have hv : vec s xs d f = .next (s.vecResult c d (c.perf.map fun t => (t, f c t))) := by
    rw [vec, issue_of_ctx hc, srcTrap_eq_none hr, unless_none]
  exact ⟨_, hv, vec32_of_result hc d (f c)⟩

/-- The word of each row is the vector-class word with the row's sources, destination and result. -/
theorem floatRow_exec {i : Instr} {xs : List Src} {d : VDst} {f : Ctx → Nat → Word} (h : FloatRow i xs d f) (s : State) :
    exec i s = vec s xs d f := by
  cases h <;> rfl

theorem functionRow_exec {i : Instr} {xs : List Src} {d : VDst} {f : Ctx → Nat → Word} (h : FunctionRow i xs d f) (s : State) :
    exec i s = vec s xs d f := by
  cases h <;> rfl

/-- Settles O10: the word of each row is a vector-class word, which completes where its sources can be read. -/
theorem floatWordsComplete : Obligations.FloatWordsComplete := by
  unfold Obligations.FloatWordsComplete
  intro s c i xs d f hi hc hr
  have he : exec i s = vec s xs d f := hi.elim (floatRow_exec · s) (functionRow_exec · s)
  rw [he]
  exact vec_completes hc hr d f

end Sys2Proof.Machine
end

section
/-! SUPPORT. What an engine works for, and one tile and one wave of its group changed (O49). -/

namespace Sys2Proof.Machine

/-! ### What an engine works for -/

theorem State.eng_eq {s : State} {w : WaveRef} {e : Eng} (h : s.eng w = some e) :
    s.group? w.group = some e.group ∧ e.group.wave? w.wix = some e.wave := by
  obtain ⟨g, hg, h⟩ := Option.bind_eq_some_iff.1 h
  obtain ⟨v, hv, h⟩ := Option.bind_eq_some_iff.1 h
  obtain ⟨l, -, rfl⟩ := Option.map_eq_some_iff.1 h
  exact ⟨hg, hv⟩

/-- An engine's group and wave have the names by which the engine was reached. -/
theorem State.eng_ref {s : State} {w : WaveRef} {e : Eng} (h : s.eng w = some e) : e.ref = w := by
  obtain ⟨hg, hv⟩ := State.eng_eq h
  have hid : e.group.id = w.group := by simpa using List.find?_some hg
  have hix : e.wave.wix = w.wix := by simpa using List.find?_some hv
  rw [Eng.ref, hid, hix]

theorem State.wave?_of_eng {s : State} {w : WaveRef} {e : Eng} (h : s.eng w = some e) :
    s.wave? w.group w.wix = some e.wave := by
  obtain ⟨hg, hv⟩ := State.eng_eq h
  simp [State.wave?, hg, hv]

/-- The entry at the head of a wave's matrix queue, when its cycles have run or the arbiter has started it, is performed. -/
theorem matEvent_of_head {s t : State} {w : WaveRef} {e : Eng} {op : MatOp} {r : List MatOp} {T : Tile}
    (h : MatHead s w e op r T) {k : State → Eng → MatOp → Option State} (ht : k s e op = some t) :
    matEvent w s k = .next t := by
  simp only [matEvent, onWave, h.eng, h.queue]
  by_cases hm : op.isMma = true
  · simp [hm, h.left, ht]
  · simp [hm, h.begun (Bool.eq_false_iff.2 hm), ht]

/-! ### Groups under a change of one of them -/

/-- A change of a group that leaves its waves alone leaves every wave alone. -/
theorem State.wave?_modGroup (f : Group → Group) (hid : ∀ g, (f g).id = g.id) (hw : ∀ g, (f g).waves = g.waves) (s : State)
    (id g x : Nat) : (s.modGroup id f).wave? g x = s.wave? g x := by
  rw [State.wave?, State.wave?, State.group?_modGroup _ _ _ _ hid]
  cases s.group? g with
  | none => rfl
  | some y =>
    change Group.wave? (if g = id then f y else y) x = y.wave? x
    split
    · rw [Group.wave?, Group.wave?, hw]
    · rfl

theorem modAt_eq_set {α : Type} {f : α → α} {n : Nat} {xs : List α} {x : α} (h : xs[n]? = some x) :
    modAt f n xs = xs.set n (f x) := by
  induction xs generalizing n with
  | nil => simp at h
  | cons y ys ih =>
    cases n with
    | zero =>
      obtain rfl : y = x := by simpa using h
      rfl
    | succ n => exact congrArg (y :: ·) (ih (by simpa using h))

/-- One tile of a group changed. -/
def Group.modTile (i : Nat) (f : Tile → Tile) (g : Group) : Group := { g with tiles := modAt f i g.tiles }

theorem State.matDone_eq {w : WaveRef} {e : Eng} (h : e.ref = w) (s : State) (op : MatOp) (f : Tile → Tile) :
    s.matDone e op f
      = (s.modGroup w.group (Group.modTile op.tile f)).modWave w.group w.wix fun v => { v with mq := v.mq.tail } := by
  subst h; rfl

/-! ### A tile and a wave that are done -/

theorem tileless_map_modWave (s : State) (g x : Nat) (f : Wave → Wave) :
    (s.modWave g x f).groups.map (tileless g) = s.groups.map (tileless g) := by
  simp only [State.modWave, State.modGroup, List.map_map]
  refine List.map_congr_left fun y _ => ?_
  by_cases h : y.id = g <;> simp [h, tileless, Group.modWave]

theorem tileless_map_modTile (s : State) (g i : Nat) (f : Tile → Tile) :
    (s.modGroup g (Group.modTile i f)).groups.map (tileless g) = s.groups.map (tileless g) := by
  simp only [State.modGroup, List.map_map]
  refine List.map_congr_left fun y _ => ?_
  by_cases h : y.id = g <;> simp [h, tileless, Group.modTile]

section
variable {w : WaveRef} {e : Eng} {i : Nat} {U : Tile} {v : Wave} {s t : State}

theorem TileDone.modTile {T : Tile} (f : Tile → Tile) (hT : e.group.tiles[i]? = some T)
    (ht : (s.group? w.group).map (fun g => g.tiles) = some e.group.tiles) (hv : s.wave? w.group w.wix = some v) :
    TileDone w e i (f T) v s (s.modGroup w.group (Group.modTile i f)) where
  rest := rfl
  groups := tileless_map_modTile _ _ _ _
  tiles := by
    obtain ⟨g, hg, hgt⟩ := Option.map_eq_some_iff.1 ht
    have hgt : g.tiles = e.group.tiles := hgt
    simp [State.group?_modGroup _ _ _ (Group.modTile i f) (fun _ => rfl), hg, Group.modTile, hgt, modAt_eq_set hT]
  wave := by rw [State.wave?_modGroup (Group.modTile i f) (fun _ => rfl) (fun _ => rfl), hv]
  waves g x _ := State.wave?_modGroup (Group.modTile i f) (fun _ => rfl) (fun _ => rfl) _ _ _ _

/-- The wave changed once more, after the tile. -/
theorem TileDone.modWave (h : TileDone w e i U v s t) {f : Wave → Wave} (hf : ∀ v, (f v).wix = v.wix) :
    TileDone w e i U (f v) s (t.modWave w.group w.wix f) where
  rest := h.rest
  groups := (tileless_map_modWave _ _ _ _).trans h.groups
  tiles := by
    rw [← h.tiles, State.group?_modWave, Option.map_map]
    congr 1
    funext g
    simp only [Function.comp]
    split <;> rfl
  wave := by rw [State.wave?_modWave _ _ _ _ _ _ hf, h.wave]; simp
  waves g x hne := ((onlyWave_modWave t ⟨w.group, w.wix, false⟩ f hf).waves g x hne).trans (h.waves g x hne)

/-- The wave had been changed before the tile. -/
theorem TileDone.of_modWave {f : Wave → Wave} (hf : ∀ v, (f v).wix = v.wix)
    (h : TileDone w e i U v (s.modWave w.group w.wix f) t) : TileDone w e i U v s t where
  rest := congrArg (fun x : State => { x with groups := s.groups }) h.rest
  groups := h.groups.trans (tileless_map_modWave _ _ _ _)
  tiles := h.tiles
  wave := h.wave
  waves g x hne := (h.waves g x hne).trans ((onlyWave_modWave s ⟨w.group, w.wix, false⟩ f hf).waves g x hne)

/-- The head of the matrix queue is done: its tile is new, and the entry has gone. -/
theorem tileDone_matDone {op o : MatOp} {r : List MatOp} {T : Tile} (f : Tile → Tile) (he : e.ref = w)
    (hT : e.group.tiles[op.tile]? = some T) (ht : (s.group? w.group).map (fun g => g.tiles) = some e.group.tiles)
    (hv : s.wave? w.group w.wix = some v) (hq : v.mq = o :: r) :
    TileDone w e op.tile (f T) { v with mq := r } s (s.matDone e op f) := by
  have h := (TileDone.modTile f hT ht hv).modWave (f := fun v => { v with mq := v.mq.tail }) fun _ => rfl
  rw [hq] at h
  rw [State.matDone_eq he]
  exact h

end

end Sys2Proof.Machine
end

section
/-! SUPPORT. Errors logged while an engine works: beside the groups (O49). -/

namespace Sys2Proof.Machine

/-- Other groups in a state. -/
def State.withGroups (s : State) (gs : List Group) : State := { s with groups := gs }

/-- An operation neither reads the groups nor changes them. -/
structure GroupBlind (f : State → State) : Prop where
  blind : ∀ s gs, f (s.withGroups gs) = (f s).withGroups gs

namespace GroupBlind

variable {f k : State → State}

theorem groups (h : GroupBlind f) (s : State) : (f s).groups = s.groups := by
  have e : f s = (f s).withGroups s.groups := h.blind s s.groups
  rw [e]; rfl

theorem modWave (h : GroupBlind f) (s : State) (g x : Nat) (k : Wave → Wave) :
    f (s.modWave g x k) = (f s).modWave g x k := by
  have e : (f s).modWave g x k = (f s).withGroups (s.modWave g x k).groups := by
    simp only [State.modWave, State.modGroup, State.withGroups, h.groups]
  exact (h.blind s _).trans e.symm

theorem group? (h : GroupBlind f) (s : State) (g : Nat) : (f s).group? g = s.group? g := by
  rw [State.group?, State.group?, h.groups]

theorem wave? (h : GroupBlind f) (s : State) (g x : Nat) : (f s).wave? g x = s.wave? g x := by
  rw [State.wave?, State.wave?, h.group?]

theorem id : GroupBlind fun s => s := ⟨fun _ _ => rfl⟩

theorem comp (h : GroupBlind f) (h' : GroupBlind k) : GroupBlind fun s => k (f s) :=
  ⟨fun s gs => (congrArg k (h.blind s gs)).trans (h'.blind _ gs)⟩

theorem foldl {α : Type} {k : State → α → State} (h : ∀ x, GroupBlind fun s => k s x) (xs : List α) :
    GroupBlind fun s => xs.foldl k s :=
  ⟨fun _ gs => List.foldl_hom (fun u : State => u.withGroups gs) fun u x => (h x).blind u gs⟩

theorem ite {c : State → Prop} [∀ s, Decidable (c s)] (hc : ∀ s gs, c (s.withGroups gs) = c s) (h : GroupBlind f)
    (h' : GroupBlind k) : GroupBlind fun s => if c s then f s else k s where
  blind s gs := by
    simp only [hc, h.blind, h'.blind]
    split <;> rfl

end GroupBlind

theorem groupBlind_writeError (d : Nat) (x : ErrEntry) : GroupBlind fun s => s.writeError d x :=
  .ite (fun _ _ => rfl) ⟨fun _ _ => rfl⟩ ⟨fun _ _ => rfl⟩

theorem groupBlind_logError (d src : Nat) (unc spared : Bool) (core detail : Nat) (addr : DWord) :
    GroupBlind fun s => s.logError d src unc spared core detail addr :=
  .ite (fun _ _ => rfl) ⟨fun _ _ => rfl⟩
    ⟨fun s gs => (groupBlind_writeError d ⟨src, unc, spared, core, detail, addr, s.ns⟩).blind s gs⟩

theorem groupBlind_logOperand (e : Eng) (op : MatOp) (which : Nat) (at_ : List Nat) :
    GroupBlind fun s => s.logOperand e op which at_ := groupBlind_logError ..

theorem groupBlind_logOperands (e : Eng) (op : MatOp) (which row rows kg : Nat) (f : Word) (o : OperandData) :
    GroupBlind fun s => s.logOperands e op which row rows kg f o := by
  have hlog : ∀ (lost : Nat → Bool) (place : Nat → List Nat) (i : Nat), GroupBlind fun s =>
      if lost i = true then s.logOperand e op which (place i) else s :=
    fun _ _ _ => .ite (fun _ _ => rfl) (groupBlind_logOperand ..) .id
  exact .ite (fun _ _ => rfl) .id ((GroupBlind.foldl (hlog _ _) _).comp (GroupBlind.foldl (hlog _ _) _))

end Sys2Proof.Machine
end

section
/-! SUPPORT. Rows that an engine writes unit by unit (O49). -/

namespace Sys2Proof.Machine

/-! ### What writes at cluster addresses leave of groups and waves -/

/-- A wave without the contents of its registers, and a group without those and its bytes of scratchpad: what is left when the
places that cluster addresses reach are left out. -/
def Wave.layout (v : Wave) : Wave := { v with w := [], bad := [] }
def Group.layout (g : Group) : Group := { g with sp := [], spBad := [], waves := g.waves.map Wave.layout }
def State.layout (s : State) : State := { s with groups := s.groups.map Group.layout }

@[simp] theorem Wave.layout_threads (v : Wave) : v.layout.threads = v.threads := rfl
@[simp] theorem Wave.layout_seg (v : Wave) : v.layout.seg = v.seg := rfl
@[simp] theorem Wave.layout_mq (v : Wave) : v.layout.mq = v.mq := rfl
@[simp] theorem Group.layout_id (g : Group) : g.layout.id = g.id := rfl
@[simp] theorem Group.layout_spsize (g : Group) : g.layout.spsize = g.spsize := rfl
@[simp] theorem Group.layout_tiles (g : Group) : g.layout.tiles = g.tiles := rfl
@[simp] theorem State.layout_netDown (s : State) (g : Group) (ea : Nat) : s.layout.netDown g ea = s.netDown g ea := rfl

theorem State.group?_layout (s : State) (g : Nat) : s.layout.group? g = (s.group? g).map Group.layout := List.find?_map ..

theorem Group.wave?_layout (g : Group) (x : Nat) : g.layout.wave? x = (g.wave? x).map Wave.layout := List.find?_map ..

theorem State.wave?_layout (s : State) (g x : Nat) : s.layout.wave? g x = (s.wave? g x).map Wave.layout := by
  rw [State.wave?, State.wave?, State.group?_layout]
  cases s.group? g with
  | none => rfl
  | some y => exact y.wave?_layout x

theorem layout_modGroup (f : Group → Group) (hf : ∀ g, (f g).layout = g.layout) (s : State) (g : Nat) :
    (s.modGroup g f).layout = s.layout := by
  simp only [State.layout, State.modGroup, List.map_map]
  congr 1
  refine List.map_congr_left fun y _ => ?_
  by_cases h : y.id = g <;> simp [h, hf]

theorem layout_modWave (f : Wave → Wave) (hf : ∀ v, (f v).layout = v.layout) (s : State) (g x : Nat) :
    (s.modWave g x f).layout = s.layout := by
  refine layout_modGroup _ (fun y => ?_) s g
  simp only [Group.layout, Group.modWave, List.map_map]
  congr 1
  refine List.map_congr_left fun v _ => ?_
  by_cases h : v.wix = x <;> simp [h, hf]

theorem layout_regBytesPut (s : State) (g x t r byte : Nat) (bs : List Byte) :
    (s.regBytesPut g x t r byte bs).layout = s.layout := by
  induction bs generalizing s byte with
  | nil => rfl
  | cons b bs ih =>
    refine (ih _ _).trans (layout_modWave _ (fun v => ?_) s g x)
    split <;> rfl

theorem layout_foldl_mend (v : Wave) (t : Nat) (ns : List Nat) :
    (ns.foldl (fun v n => v.mend (0, n, t)) v).layout = v.layout := by
  induction ns generalizing v with
  | nil => rfl
  | cons n ns ih => exact ih _

theorem layout_spWrite (s : State) (p : SpPlace) (bs : List Byte) : (s.spWrite p bs).layout = s.layout := by
  cases p with
  | sp g o => exact layout_modGroup (fun y => y.spWrite o bs) (fun _ => rfl) s g
  | reg g x t r byte =>
    refine (layout_modWave _ (fun v => ?_) _ g x).trans (layout_regBytesPut s g x t r byte bs)
    split
    · rfl
    · exact layout_foldl_mend v t _

/-- States of one layout differ in their groups only. -/
theorem rest_of_layout {s t : State} (h : t.layout = s.layout) : { t with groups := s.groups } = s :=
  congrArg (fun x : State => { x with groups := s.groups }) h

/-! ### Where a cluster address reaches -/

theorem State.target_layout (s : State) (g : Group) (k : Nat) : s.layout.target g k = (s.target g k).map Group.layout := by
  simp only [State.target]
  split
  · exact s.group?_layout g.id
  · split
    · rfl
    · exact List.find?_map ..

/-- The bounds of an address are those of the layout. -/
theorem State.spPlace_layout (s : State) (g : Group) (apert : Bool) (ea n : Nat) :
    s.layout.spPlace g.layout apert ea n = s.spPlace g apert ea n := by
  unfold State.spPlace
  rw [show s.layout.target g.layout _ = _ from s.target_layout g _]
  cases s.target g _ with
  | none => rfl
  | some x =>
    simp only [Option.map_some, x.wave?_layout, Group.layout_id, Group.layout_spsize]
    cases x.wave? _ with
    | none => rfl
    | some v =>
      simp only [Option.map_some, Wave.layout_threads, Wave.layout_seg]
      congr

/-- An engine reaches the place of the layout. (The offset becomes a variable: a kernel that unfolds the product in it would
count to 2^30.) -/
theorem State.engPlace_layout (s : State) (g : Group) (ea n : Nat) : s.layout.engPlace g ea n = s.engPlace g ea n := by
  unfold State.engPlace
  generalize ea % _ + _ = off
  obtain ⟨a, rfl⟩ : ∃ a, a = off := ⟨_, rfl⟩
  rw [s.target_layout]
  cases s.target g _ with
  | none => rfl
  | some x => simp only [Option.map_some, s.spPlace_layout]

theorem engPlace_of_layout {s t : State} (h : t.layout = s.layout) (g : Group) (ea n : Nat) :
    t.engPlace g ea n = s.engPlace g ea n := by
  rw [← t.engPlace_layout, h, s.engPlace_layout]

theorem netDown_of_layout {s t : State} (h : t.layout = s.layout) (g : Group) (ea : Nat) : t.netDown g ea = s.netDown g ea := by
  rw [← t.layout_netDown, h, s.layout_netDown]

/-! ### Writes one after the other -/

/-- Bytes written at some places, one after the other. -/
def State.spWrites (s : State) (ps : List (SpPlace × List Byte)) : State := ps.foldl (fun u x => u.spWrite x.1 x.2) s

theorem State.spWrites_append (s : State) (ps qs : List (SpPlace × List Byte)) :
    s.spWrites (ps ++ qs) = (s.spWrites ps).spWrites qs := List.foldl_append

theorem layout_spWrites (s : State) (ps : List (SpPlace × List Byte)) : (s.spWrites ps).layout = s.layout := by
  induction ps generalizing s with
  | nil => rfl
  | cons x ps ih => exact (ih _).trans (layout_spWrite s x.1 x.2)

/-- An engine's write is that of the place it reaches, if any. -/
theorem engSpWrite_eq {s : State} {g : Group} {ea : Nat} (h : s.netDown g ea = false) (bs : List Byte) :
    s.engSpWrite g ea bs = s.spWrites (((s.engPlace g ea bs.length).map fun p => (p, bs)).toList) := by
  rw [State.engSpWrite, h]
  cases s.engPlace g ea bs.length <;> rfl

/-- Writes whose places the layout fixes are writes at the places that they have before the first of them. -/
theorem foldl_spWrites {α : Type} {k : State → α → State} {place : State → α → List (SpPlace × List Byte)} {s : State}
    (hk : ∀ u x, u.layout = s.layout → k u x = u.spWrites (place u x))
    (hp : ∀ u x, u.layout = s.layout → place u x = place s x) (xs : List α) :
    xs.foldl k s = s.spWrites (xs.flatMap (place s)) := by
  induction xs using List.reverseRecOn with
  | nil => rfl
  | append_singleton xs x ih =>
    have hl := layout_spWrites s (xs.flatMap (place s))
    rw [List.foldl_append, ih, List.foldl_cons, List.foldl_nil, hk _ x hl, hp _ x hl, List.flatMap_append,
      State.spWrites_append, List.flatMap_singleton]

/-- Unit `i` of a row, at its place, if it has one. -/
def State.unitPlaces (s : State) (g : Group) (ea : Nat) (bs : List Byte) (i : Nat) : List (SpPlace × List Byte) :=
  let u := (bs.drop (4 * i)).take 4
  ((s.engPlace g (ea + 4 * i) u.length).map fun p => (p, u)).toList

theorem rowPlaces_eq_flatMap (s : State) (g : Group) (ea : Nat) (bs : List Byte) :
    s.rowPlaces g ea bs = (List.range ((bs.length + 3) / 4)).flatMap (s.unitPlaces g ea bs) :=
  List.filterMap_eq_flatMap_toList _ _

theorem unitPlaces_of_layout {s t : State} (h : t.layout = s.layout) (g : Group) (ea : Nat) (bs : List Byte) (i : Nat) :
    t.unitPlaces g ea bs i = s.unitPlaces g ea bs i := by
  simp only [State.unitPlaces, engPlace_of_layout h]

theorem writeRow_eq {s : State} {g : Group} (h : ∀ ea, s.netDown g ea = false) (ea : Nat) (bs : List Byte) :
    s.writeRow g ea bs = s.spWrites (s.rowPlaces g ea bs) := by
  rw [rowPlaces_eq_flatMap]
  exact foldl_spWrites (place := fun u => u.unitPlaces g ea bs)
    (fun u i hu => engSpWrite_eq ((netDown_of_layout hu g _).trans (h _)) _)
    (fun u i hu => unitPlaces_of_layout hu g ea bs i) _

theorem rowPlaces_of_layout {s t : State} (h : t.layout = s.layout) (g : Group) (ea : Nat) (bs : List Byte) :
    t.rowPlaces g ea bs = s.rowPlaces g ea bs := by
  simp only [State.rowPlaces, engPlace_of_layout h]

/-- Where the network works no row is logged as lost. -/
theorem logRow_eq {s : State} {e : Eng} (h : ∀ ea, s.netDown e.group ea = false) (op : MatOp) (q : Nat) :
    s.logRow e op q = s := by
  simp [State.logRow, State.engSpDown, h]

/-- The units that the rows of an `ast` write, and where (R197). -/
def State.astPlaces (s : State) (e : Eng) (op : MatOp) (T : Tile) : List (SpPlace × List Byte) :=
  (ownedRows op.rows).flatMap fun q => s.rowPlaces e.group (rowAddr op.a (op.b.toNat % 2 ^ 16) q) (e.astRow op T q)

theorem performAst_eq {s : State} {e : Eng} {op : MatOp} {T : Tile} (hT : e.group.tiles.getD op.tile Tile.empty = T)
    (h : ∀ ea, s.netDown e.group ea = false) :
    s.performAst e op = (s.spWrites (s.astPlaces e op T.heal)).matDone e op Tile.heal := by
  simp only [State.performAst, hT]
  congr 1
  refine foldl_spWrites (place := fun u q => u.rowPlaces e.group (rowAddr op.a (op.b.toNat % 2 ^ 16) q) (e.astRow op T.heal q))
    (fun u q hu => ?_) (fun u q hu => rowPlaces_of_layout hu ..) _
  have hu' : ∀ ea, u.netDown e.group ea = false := fun ea => (netDown_of_layout hu _ _).trans (h ea)
  rw [writeRow_eq hu', logRow_eq fun ea => (netDown_of_layout (layout_spWrites u _) _ _).trans (hu' ea)]

/-! ### The bytes of scratchpad afterwards -/

theorem spByteAt_modGroup (f : Group → Group) (hid : ∀ g, (f g).id = g.id) (hsp : ∀ g, (f g).sp = g.sp) (s : State)
    (id g o : Nat) : (s.modGroup id f).spByteAt g o = s.spByteAt g o := by
  rw [State.spByteAt, State.spByteAt, State.group?_modGroup _ _ _ _ hid, Option.map_map]
  congr 1
  funext y
  change (if g = id then f y else y).sp.read o = _
  split
  · rw [hsp]
  · rfl

theorem spByteAt_modWave (s : State) (g x : Nat) (f : Wave → Wave) (h o : Nat) :
    (s.modWave g x f).spByteAt h o = s.spByteAt h o := spByteAt_modGroup (fun y => y.modWave x f) (fun _ => rfl) (fun _ => rfl) ..

theorem spByteAt_regWrite (s : State) (g x t r byte : Nat) (bs : List Byte) (h o : Nat) :
    (s.regWrite g x t r byte bs).spByteAt h o = s.spByteAt h o := by
  have hput : (s.regBytesPut g x t r byte bs).spByteAt h o = s.spByteAt h o := by
    induction bs generalizing s byte with
    | nil => rfl
    | cons b bs ih => exact (ih _ _).trans (spByteAt_modWave ..)
  exact (spByteAt_modWave ..).trans hput

/-- A write in scratchpad puts its bytes where they go, and leaves every other one. -/
theorem spByteAt_spWrite (s : State) (h a : Nat) (bs : List Byte) (g o : Nat) :
    (s.spWrite (.sp h a) bs).spByteAt g o = (s.spByteAt g o).map fun b =>
      if h = g ∧ a ≤ o ∧ o < a + bs.length then (bs[o - a]?).getD 0 else b := by
  have hg : (s.spWrite (.sp h a) bs).group? g = (s.group? g).map fun y => if g = h then y.spWrite a bs else y :=
    s.group?_modGroup h g (fun y => y.spWrite a bs) fun _ => rfl
  rw [State.spByteAt, State.spByteAt, hg, Option.map_map, Option.map_map]
  congr 1
  funext y
  by_cases hgh : h = g
  · simp [hgh, Group.spWrite, Memory.read_writeBytes]
  · simp [hgh, Ne.symm hgh]

theorem lastSpByte_append_sp (ps : List (SpPlace × List Byte)) (h a : Nat) (bs : List Byte) (g o : Nat) :
    lastSpByte (ps ++ [(.sp h a, bs)]) g o = if h = g ∧ a ≤ o ∧ o < a + bs.length then bs[o - a]? else lastSpByte ps g o := by
  rw [lastSpByte, List.foldl_append]
  rfl

/-- After some writes a byte is the one that the last of them puts there. -/
theorem spByteAt_spWrites (s : State) (ps : List (SpPlace × List Byte)) (g o : Nat) :
    (s.spWrites ps).spByteAt g o = (s.spByteAt g o).map fun b => (lastSpByte ps g o).getD b := by
  induction ps using List.reverseRecOn with
  | nil => simp [State.spWrites, lastSpByte]
  | append_singleton ps x ih =>
    have hw : s.spWrites (ps ++ [x]) = (s.spWrites ps).spWrite x.1 x.2 := s.spWrites_append ps [x]
    obtain ⟨⟨h, a⟩ | _, bs⟩ := x
    · rw [hw, spByteAt_spWrite, ih, Option.map_map, lastSpByte_append_sp]
      congr 1
      funext b
      by_cases hc : h = g ∧ a ≤ o ∧ o < a + bs.length
      · have hlt : o - a < bs.length := by omega
        simp [hc, hlt]
      · simp [hc]
    · rw [hw, lastSpByte, List.foldl_append, ← lastSpByte]
      exact (spByteAt_regWrite ..).trans ih

/-! ### The wave of the engine afterwards -/

/-- Writes in scratchpad leave every wave. -/
theorem wave?_spWrites {s : State} {ps : List (SpPlace × List Byte)} (h : ∀ x ∈ ps, ∃ g o, x.1 = .sp g o) (g x : Nat) :
    (s.spWrites ps).wave? g x = s.wave? g x := by
  induction ps generalizing s with
  | nil => rfl
  | cons y ps ih =>
    obtain ⟨p, bs⟩ := y
    obtain ⟨⟨k, o, rfl⟩, hps⟩ := List.forall_mem_cons.1 h
    exact (ih hps).trans (State.wave?_modGroup (fun z => z.spWrite o bs) (fun _ => rfl) (fun _ => rfl) s k g x)

theorem wave?_of_layout {s t : State} {g x : Nat} {v : Wave} (h : t.layout = s.layout) (hv : s.wave? g x = some v) :
    ∃ v', t.wave? g x = some v' ∧ v'.mq = v.mq := by
  have hl : (t.wave? g x).map Wave.layout = some v.layout := by
    rw [← t.wave?_layout, h, s.wave?_layout, hv, Option.map_some]
  obtain ⟨v', hv', hvl⟩ := Option.map_eq_some_iff.1 hl
  exact ⟨v', hv', by rw [← v'.layout_mq, hvl, v.layout_mq]⟩

theorem tiles_of_layout {s t : State} (h : t.layout = s.layout) (g : Nat) :
    (t.group? g).map (fun y => y.tiles) = (s.group? g).map fun y => y.tiles := by
  have hl : (t.group? g).map Group.layout = (s.group? g).map Group.layout := by
    rw [← t.group?_layout, h, s.group?_layout]
  simpa [Option.map_map, Function.comp_def] using congrArg (Option.map Group.tiles) hl

end Sys2Proof.Machine
end

section
/-! SUPPORT. The entries of the matrix queue performed (O49). -/

namespace Sys2Proof.Machine

section
variable {s : State} {w : WaveRef} {e : Eng} {op : MatOp} {r : List MatOp} {T : Tile}

theorem MatHead.tiles_eq (h : MatHead s w e op r T) : (s.group? w.group).map (fun g => g.tiles) = some e.group.tiles := by
  rw [(State.eng_eq h.eng).1]; rfl

theorem MatHead.getD_tile (h : MatHead s w e op r T) : e.group.tiles.getD op.tile Tile.empty = T := by
  simp [List.getD, h.tile]

/-- The head of the queue is done in a state in which errors have been logged. -/
theorem MatHead.tileDone (h : MatHead s w e op r T) {k : State → State} (hk : GroupBlind k) (f : Tile → Tile) :
    TileDone w e op.tile (f T) { e.wave with mq := r } (k s) ((k s).matDone e op f) :=
  tileDone_matDone f (State.eng_ref h.eng) h.tile ((congrArg (Option.map _) (hk.group? s _)).trans h.tiles_eq)
    ((hk.wave? s _ _).trans (State.wave?_of_eng h.eng)) h.queue

/-- And in one in which the wave has been changed as well, but for its matrix queue. -/
theorem MatHead.tileDone_modWave (h : MatHead s w e op r T) {k : State → State} (hk : GroupBlind k) (f : Tile → Tile)
    {F : Wave → Wave} (hF : ∀ v, (F v).wix = v.wix) (hq : (F e.wave).mq = e.wave.mq) :
    TileDone w e op.tile (f T) { F e.wave with mq := r } (k s) ((k (s.modEng e F)).matDone e op f) := by
  have hm : s.modEng e F = s.modWave w.group w.wix F := by rw [← State.eng_ref h.eng]; rfl
  rw [hm, hk.modWave]
  refine .of_modWave hF (tileDone_matDone f (State.eng_ref h.eng) h.tile ?_ ?_ (hq.trans h.queue))
  · rw [State.group?_modWave, hk.group?, (State.eng_eq h.eng).1]
    simp [Group.modWave]
  · rw [State.wave?_modWave _ _ _ _ _ _ hF, hk.wave?, State.wave?_of_eng h.eng]
    simp

end

/-! ### The MMA forms (R190, R191) -/

/-- The exact dot products of the operands' elements, added to a tile; whether an operand was lost (R83, R192). -/
def mmaTile (op : MatOp) (db : OperandData) (a : Nat → Nat → Val) (lost : Bool) (T : Tile) : Tile :=
  let U := T.heal.update op.mg op.ng fun i j =>
    (List.range op.kg).foldl (fun acc k => acc.add false ((a i k).mul (db.elem op.fb (j * op.kg + k)))) (.fin false 0 0)
  { U with zerr := U.zerr || lost || db.anyLost op.fb (op.ng * op.kg) }

/-- Operand B of an entry. -/
def State.mmaB (s : State) (e : Eng) (op : MatOp) : OperandData :=
  s.operandAt e.group op.b.toNat (elemBytes op.fb op.ng op.kg + scaleBytes op.fb op.ng op.kg) (elemBytes op.fb op.ng op.kg)

/-- Operand A of an entry that has it in scratchpad. -/
def State.mmaA (s : State) (e : Eng) (op : MatOp) : OperandData :=
  s.operandAt e.group op.a.toNat (elemBytes op.fa op.mg op.kg + scaleBytes op.fa op.mg op.kg) (elemBytes op.fa op.mg op.kg)

section
variable {s : State} {w : WaveRef} {e : Eng} {op : MatOp} {r : List MatOp} {T : Tile}

theorem mmaPerform_eq (h : MatHead s w e op r T) {sq : Option (Fin 4)} (hk : op.kind = .mma sq) :
    exec (.mmaPerform w) s = .next (s.performMma e op sq) := matEvent_of_head h (by rw [hk])

/-- Both operands in scratchpad. -/
theorem mma_performs (h : MatHead s w e op r T) (hk : op.kind = .mma none) :
    ∃ t, exec (.mmaPerform w) s = .next t
      ∧ TileDone w e op.tile
          (mmaTile op (s.mmaB e op) (fun i k => (s.mmaA e op).elem op.fa (i * op.kg + k))
            ((s.mmaA e op).anyLost op.fa (op.mg * op.kg)) T) { e.wave with mq := r }
          ((s.logOperands e op 1 0 op.mg op.kg op.fa (s.mmaA e op)).logOperands e op 2 0 op.ng op.kg op.fb (s.mmaB e op)) t :=
  ⟨_, mmaPerform_eq h hk, h.tileDone ((groupBlind_logOperands e op 1 0 op.mg op.kg op.fa (s.mmaA e op)).comp
    (groupBlind_logOperands e op 2 0 op.ng op.kg op.fb (s.mmaB e op))) _⟩

/-- The stream after its rows have been taken. -/
def Stream.took (n : Nat) (x : Stream) : Stream := { x with fifo := x.fifo.drop n, popd := x.popd + BitVec.ofNat 32 n }

/-- The errors of the rows that an `mma.sq` takes, logged. -/
def State.logRows (s : State) (e : Eng) (op : MatOp) (xs : List Entry) : State :=
  (List.range xs.length).foldl (fun u i => u.logOperands e op 1 i 1 op.kg op.fa (rowData xs i)) s

/-- Operand A in the rows of a stream. -/
theorem mmaSq_performs (h : MatHead s w e op r T) {q : Fin 4} (hk : op.kind = .mma (some q))
    (ht : e.wave.mayTake op q = true) (hr : rowsReady op.mg (e.wave.stream q.val) = true) :
    let xs := takeRows op.mg (e.wave.stream q.val)
    ∃ t, exec (.mmaPerform w) s = .next t
      ∧ TileDone w e op.tile
          (mmaTile op (s.mmaB e op) (fun i j => (rowData xs i).elem op.fa j)
            ((List.range xs.length).any fun i => (rowData xs i).anyLost op.fa op.kg) T)
          { e.wave.modStream q.val (Stream.took xs.length) with mq := r }
          ((s.logRows e op xs).logOperands e op 2 0 op.ng op.kg op.fb (s.mmaB e op)) t := by
  intro xs
  refine ⟨_, mmaPerform_eq h hk, ?_⟩
  simp only [State.performMma, ht, hr, Bool.and_self, if_true]
  exact h.tileDone_modWave ((GroupBlind.foldl (fun i => groupBlind_logOperands e op 1 i 1 op.kg op.fa (rowData xs i)) _).comp
    (groupBlind_logOperands e op 2 0 op.ng op.kg op.fb (s.mmaB e op))) _
    (F := fun v => v.modStream q.val (Stream.took xs.length)) (fun _ => rfl) rfl

theorem mmaSq_waits (h : MatHead s w e op r T) {q : Fin 4} (hk : op.kind = .mma (some q))
    (hw : e.wave.mayTake op q = false ∨ rowsReady op.mg (e.wave.stream q.val) = false) :
    exec (.mmaPerform w) s = .next s := by
  have hno : (e.wave.mayTake op q && rowsReady op.mg (e.wave.stream q.val)) = false := by
    rcases hw with hw | hw <;> simp [hw]
  rw [mmaPerform_eq h hk]
  simp only [State.performMma, hno, Bool.false_eq_true, if_false]

/-! ### Tile instructions (R196, R197, R199) -/

/-- The rows that an `ald` reads. -/
def State.aldRows (s : State) (e : Eng) (op : MatOp) : List (Nat × OperandData) :=
  (ownedRows op.rows).map fun q => (q, s.aldRow e op q)

/-- The tile that an `ald` makes of them. -/
def State.aldTile (s : State) (e : Eng) (op : MatOp) : Tile :=
  loadTile (fun i j => match (s.aldRows e op).find? fun x => x.1 == i with
    | some x => x.2.elem op.f2 j
    | none => .fin false 0 0) ((s.aldRows e op).any fun x => x.2.anyLost op.f2 64)

theorem ald_performs (h : MatHead s w e op r T) (hk : op.kind = .ald) :
    ∃ t, exec (.aldPerform w) s = .next t
      ∧ TileDone w e op.tile (s.aldTile e op) { e.wave with mq := r }
          ((s.aldRows e op).foldl (fun u x => u.logOperands e op 3 x.1 1 64 op.f2 x.2) s) t := by
  have hx : exec (.aldPerform w) s = .next (s.performAld e op) := matEvent_of_head h (by rw [hk])
  have hlog : ∀ x : Nat × OperandData, GroupBlind fun u => u.logOperands e op 3 x.1 1 64 op.f2 x.2 := fun _ =>
    groupBlind_logOperands ..
  exact ⟨_, hx, h.tileDone (GroupBlind.foldl hlog (s.aldRows e op)) fun _ => s.aldTile e op⟩

theorem aexp_performs (h : MatHead s w e op r T) (hk : op.kind = .aexp) :
    ∃ t, exec (.aexpPerform w) s = .next t
      ∧ TileDone w e op.tile T.heal (({ e.wave with mq := r }).putS32 op.slot false op.dst T.heal.status) s t := by
  have hx : exec (.aexpPerform w) s
      = .next ((s.matDone e op Tile.heal).modEng e fun v => v.putS32 op.slot false op.dst T.heal.status) :=
    matEvent_of_head h (by rw [hk, ← h.getD_tile])
  have hm : ∀ f : Wave → Wave, (s.matDone e op Tile.heal).modEng e f = (s.matDone e op Tile.heal).modWave w.group w.wix f := by
    rw [← State.eng_ref h.eng]; exact fun _ => rfl
  have hwix : ∀ v : Wave, (v.putS32 op.slot false op.dst T.heal.status).wix = v.wix := fun v => by
    cases op.dst with
    | z => rfl
    | s k => exact v.putSk_wix ..
  refine ⟨_, hx, ?_⟩
  rw [hm]
  exact (h.tileDone .id Tile.heal).modWave hwix

/-- The state in which the rows of an `ast` have been written is the one before, but for scratchpad and registers. -/
theorem ast_performs (h : MatHead s w e op r T) (hk : op.kind = .ast) (hnet : ∀ ea, s.netDown e.group ea = false) :
    ∃ t v, exec (.astPerform w) s = .next t ∧ { t with groups := s.groups } = s
      ∧ (∀ g o, t.spByteAt g o = (s.spByteAt g o).map fun b => (lastSpByte (s.astPlaces e op T.heal) g o).getD b)
      ∧ (t.group? w.group).map (fun g => g.tiles) = some (e.group.tiles.set op.tile T.heal)
      ∧ t.wave? w.group w.wix = some v ∧ v.mq = r
      ∧ ((∀ x ∈ s.astPlaces e op T.heal, ∃ g o, x.1 = .sp g o) → v = { e.wave with mq := r }) := by
  have hx : exec (.astPerform w) s = .next (s.performAst e op) := matEvent_of_head h (by rw [hk])
  have hl := layout_spWrites s (s.astPlaces e op T.heal)
  have hew := State.wave?_of_eng h.eng
  obtain ⟨v, hv, hmq⟩ := wave?_of_layout hl hew
  have hd : TileDone w e op.tile T.heal { v with mq := r } (s.spWrites (s.astPlaces e op T.heal)) (s.performAst e op) := by
    rw [performAst_eq h.getD_tile hnet]
    exact tileDone_matDone Tile.heal (State.eng_ref h.eng) h.tile ((tiles_of_layout hl _).trans h.tiles_eq) hv
      (hmq.trans h.queue)
  refine ⟨_, _, hx, ?_, fun g o => ?_, hd.tiles, hd.wave, rfl, fun hsp => ?_⟩
  · exact (congrArg (fun u : State => { u with groups := s.groups }) hd.rest).trans (rest_of_layout hl)
  · rw [performAst_eq h.getD_tile hnet, State.matDone_eq (State.eng_ref h.eng), spByteAt_modWave,
      spByteAt_modGroup (Group.modTile op.tile Tile.heal) (fun _ => rfl) (fun _ => rfl), spByteAt_spWrites]
  · rw [wave?_spWrites hsp, hew] at hv
    rw [Option.some.inj hv]

end

/-- Settles O49: a clause for each kind of entry, and for an `mma.sq` that waits. -/
theorem matrixPerforms : Obligations.MatrixPerforms := by
  unfold Obligations.MatrixPerforms
  refine ⟨?mma, ?ald, ?ast, ?aexp⟩
  case mma =>
    intro s w e op r T sq h hk
    refine ⟨?_, fun q hq => ⟨fun ht hr => ?_, fun hw => ?_⟩⟩
    · rintro rfl
      exact mma_performs h hk
    · subst hq
      exact mmaSq_performs h hk ht hr
    · subst hq
      exact mmaSq_waits h hk hw
  case ald =>
    intro s w e op r T h hk
    obtain ⟨t, hx, hd⟩ := ald_performs h hk
    exact ⟨t, _, hx, hd, rfl⟩
  case ast =>
    intro s w e op r T h hk hnet
    obtain ⟨t, v, hx, hrest, hsp, htail⟩ := ast_performs h hk hnet
    refine ⟨t, v, hx, hrest, fun g o => (hsp g o).trans ?_, htail⟩
    change _ = match lastSpByte (s.astPlaces e op T.heal) g o with
      | some x => (s.spByteAt g o).map fun _ => x
      | none => s.spByteAt g o
    cases lastSpByte (s.astPlaces e op T.heal) g o with
    | some x => rfl
    | none => exact Option.map_id' ..
  case aexp => exact fun s w e op r T h hk => aexp_performs h hk

end Sys2Proof.Machine
end

section
/-! SUPPORT. What the arithmetic words compute, in the numbers that the tables of the spec give (R91 to R96). -/

namespace Sys2Proof.Machine

/-! ### Lesser and greater -/

section
variable {α β : Type} [LinearOrder β] {val : α → β} {code : β → α} (h : ∀ x, code (val x) = x)
include h

/-- The operand of the lesser value is the code of the lesser value. -/
theorem ite_lt_eq_code_min (a b : α) : (if val b < val a then b else a) = code (min (val a) (val b)) := by
  split
  · next hlt => rw [min_eq_right hlt.le, h]
  · next hge => rw [min_eq_left (not_lt.1 hge), h]

theorem ite_lt_eq_code_max (a b : α) : (if val a < val b then b else a) = code (max (val a) (val b)) := by
  split
  · next hlt => rw [max_eq_right hlt.le, h]
  · next hge => rw [max_eq_left (not_lt.1 hge), h]

end

theorem ofNat_toNat_self (a : BitVec w) : BitVec.ofNat w a.toNat = a := by
  rw [BitVec.ofNat_toNat, BitVec.setWidth_eq]

theorem minS_eq (a b : BitVec w) : minS a b = BitVec.ofInt w (min a.toInt b.toInt) := by
  simp only [minS, BitVec.slt, decide_eq_true_eq]
  exact ite_lt_eq_code_min (fun _ => BitVec.ofInt_toInt) a b

theorem maxS_eq (a b : BitVec w) : maxS a b = BitVec.ofInt w (max a.toInt b.toInt) := by
  simp only [maxS, BitVec.slt, decide_eq_true_eq]
  exact ite_lt_eq_code_max (fun _ => BitVec.ofInt_toInt) a b

theorem minU_eq (a b : BitVec w) : minU a b = BitVec.ofNat w (min a.toNat b.toNat) := by
  simp only [minU, BitVec.ult, decide_eq_true_eq]
  exact ite_lt_eq_code_min ofNat_toNat_self a b

theorem maxU_eq (a b : BitVec w) : maxU a b = BitVec.ofNat w (max a.toNat b.toNat) := by
  simp only [maxU, BitVec.ult, decide_eq_true_eq]
  exact ite_lt_eq_code_max ofNat_toNat_self a b

/-! ### Shifts -/

theorem shl_eq_ite (a : BitVec w) (n : Nat) : shl a n = if n < w then BitVec.ofNat w (a.toNat * 2 ^ n) else 0 := by
  have h : a <<< n = BitVec.ofNat w (a.toNat * 2 ^ n) :=
    BitVec.eq_of_toNat_eq (by rw [BitVec.toNat_shiftLeft, BitVec.toNat_ofNat, Nat.shiftLeft_eq])
  rw [shl, h]

theorem shrU_eq_ite (a : BitVec w) (n : Nat) : shrU a n = if n < w then BitVec.ofNat w (a.toNat / 2 ^ n) else 0 := by
  have h : a >>> n = BitVec.ofNat w (a.toNat / 2 ^ n) := by
    rw [← Nat.shiftRight_eq_div_pow, ← BitVec.toNat_ushiftRight, ofNat_toNat_self]
  rw [shrU, h]

/-- A shift by the width or more leaves nothing of the product modulo 2^w. -/
theorem shl_eq (a : BitVec w) (n : Nat) : shl a n = BitVec.ofNat w (a.toNat * 2 ^ n) := by
  rw [shl_eq_ite]
  split
  · rfl
  · next h =>
    refine BitVec.eq_of_toNat_eq ?_
    have hdvd : 2 ^ w ∣ a.toNat * 2 ^ n := (pow_dvd_pow 2 (not_lt.1 h)).mul_left _
    simp [Nat.mod_eq_zero_of_dvd hdvd]

/-- A shift by the width or more leaves nothing of the quotient. -/
theorem shrU_eq (a : BitVec w) (n : Nat) : shrU a n = BitVec.ofNat w (a.toNat / 2 ^ n) := by
  rw [shrU_eq_ite]
  split
  · rfl
  · next h =>
    have hlt : a.toNat < 2 ^ n := a.isLt.trans_le (Nat.pow_le_pow_right two_pos (not_lt.1 h))
    rw [Nat.div_eq_of_lt hlt]
    rfl

theorem shrS_eq (a : BitVec w) (n : Nat) : shrS a n = BitVec.ofInt w (a.toInt / 2 ^ min n (w - 1)) := by
  rw [shrS, BitVec.sshiftRight, Int.shiftRight_eq_div_pow]
  push_cast
  rfl

/-! ### Bits counted -/

theorem popc_eq (a : Word) : popc a = BitVec.ofNat 32 ((List.range 32).countP fun i => a.getLsbD i) := by
  rw [popc, popc.ones, List.countP_eq_length_filter]

/-- The place of the highest bit of a word that is not 0. -/
theorem getLsbD_log2 {a : Word} (h : a ≠ 0) :
    a.getLsbD a.toNat.log2 = true ∧ ∀ i, a.toNat.log2 < i → a.getLsbD i = false := by
  have hne : a.toNat ≠ 0 := fun e => h (BitVec.eq_of_toNat_eq e)
  exact ⟨Nat.testBit_log2 hne, fun i hi => Nat.testBit_eq_false_of_lt ((Nat.log2_lt hne).1 hi)⟩

theorem clz_eq (a : Word) :
    clz a = BitVec.ofNat 32 ((List.range 32).takeWhile fun i => !a.getLsbD (31 - i)).length := by
  rw [clz]
  congr 1
  split
  · next h => subst h; rfl
  · next h =>
    obtain ⟨hset, habove⟩ := getLsbD_log2 h
    have hlt : a.toNat.log2 < 32 := (Nat.log2_lt (fun e => h (BitVec.eq_of_toNat_eq e))).2 a.isLt
    have hidx : (List.range 32).findIdx (fun i => !!a.getLsbD (31 - i)) = 31 - a.toNat.log2 := by
      rw [List.findIdx_eq (by simp; omega)]
      simp only [List.getElem_range, Bool.not_not]
      refine ⟨?_, fun j hj => habove _ (by omega)⟩
      rwa [show 31 - (31 - a.toNat.log2) = a.toNat.log2 by omega]
    rw [List.takeWhile_eq_take_findIdx_not, hidx, List.length_take, List.length_range]
    omega

/-! ### Bit fields (R95) -/

theorem fieldPos_add_fieldLen_le {b : Word} (h : fieldLen b ≠ 0) : fieldPos b + fieldLen b ≤ 32 := by
  unfold fieldLen at h ⊢
  split
  · next hp => exact absurd (if_pos hp) h
  · omega

theorem getLsbD_fieldBits (b : Word) (i : Nat) :
    (fieldBits b).getLsbD i = decide (i < 32 ∧ fieldPos b ≤ i ∧ i < fieldPos b + fieldLen b) := by
  rw [fieldBits, BitVec.getLsbD_ofNat, Nat.testBit_mul_two_pow, Nat.testBit_two_pow_sub_one]
  by_cases hi : fieldPos b ≤ i
  · have : i - fieldPos b < fieldLen b ↔ i < fieldPos b + fieldLen b := by omega
    simp [hi, this]
  · simp [hi]

theorem fieldBits_eq_zero {b : Word} (h : fieldLen b = 0) : fieldBits b = 0#32 := by
  simp [fieldBits, h]

/-- A field that is extracted: its bits from the lowest up, and nothing above them. -/
theorem getLsbD_extracted {a b : Word} (h : fieldLen b ≠ 0) (i : Nat) :
    ((a &&& fieldBits b) >>> fieldPos b).getLsbD i = (decide (i < fieldLen b) && a.getLsbD (fieldPos b + i)) := by
  have hle := fieldPos_add_fieldLen_le h
  rw [BitVec.getLsbD_ushiftRight, BitVec.getLsbD_and, getLsbD_fieldBits, Bool.and_comm]
  congr 1
  exact decide_eq_decide.2 (by omega)

/-- Shifting a value of `n` bits to the top and back extends its sign. -/
theorem sshiftRight_shiftLeft_eq_signExtend {x : Word} {y : BitVec n} (h0 : n ≠ 0) (hn : n ≤ 32)
    (h : ∀ i < n, x.getLsbD i = y.getLsbD i) : (x <<< (32 - n)).sshiftRight (32 - n) = y.signExtend 32 := by
  refine BitVec.eq_of_getLsbD_eq fun i hi => ?_
  rw [BitVec.getLsbD_sshiftRight, BitVec.getLsbD_signExtend, BitVec.msb_eq_getLsbD_last, BitVec.msb_eq_getLsbD_last,
    BitVec.getLsbD_shiftLeft, BitVec.getLsbD_shiftLeft]
  by_cases hin : i < n
  · have h1 : 32 - n + i < 32 := by omega
    have h2 : 32 - n + i - (32 - n) = i := by omega
    simp [hin, hi, h1, h2, h i hin, -BitVec.getLsbD_eq_getElem]
  · have h1 : ¬ 32 - n + i < 32 := by omega
    have h2 : 31 - (32 - n) = n - 1 := by omega
    have h3 : ¬ 31 < 32 - n := by omega
    simp [hin, hi, h1, h2, h3, h (n - 1) (by omega), -BitVec.getLsbD_eq_getElem]

theorem bfeS_eq (a b : Word) :
    bfeS a b = if fieldLen b = 0 then 0 else (a.extractLsb' (fieldPos b) (fieldLen b)).signExtend 32 := by
  change (if fieldLen b = 0 then 0 else (bfeU a b <<< (32 - fieldLen b)).sshiftRight (32 - fieldLen b)) = _
  split
  · rfl
  · next h =>
    have hle := fieldPos_add_fieldLen_le h
    have hU : bfeU a b = (a &&& fieldBits b) >>> fieldPos b := if_neg h
    refine sshiftRight_shiftLeft_eq_signExtend h (by omega) fun i hi => ?_
    rw [hU, getLsbD_extracted h, BitVec.getLsbD_extractLsb']

/-- A field of length 0 has an empty mask: the insertion leaves `d` as it is. -/
theorem bfi_eq (d a b : Word) :
    bfi d a b = (d &&& ~~~(fieldBits b)) ||| ((a <<< fieldPos b) &&& fieldBits b) := by
  change (if fieldLen b = 0 then d else _) = _
  split
  · next h =>
    rw [fieldBits_eq_zero h, BitVec.and_zero, BitVec.or_zero, BitVec.not_zero, BitVec.and_allOnes]
  · rfl

/-! ### Conditions -/

theorem holds_decide (k : ICmp) (p q : Prop) [Decidable p] [Decidable q] : holds k (decide p) (decide q) = condOn k p q := by
  cases k <;> rfl

theorem cmpS_eq (k : ICmp) (a b : BitVec w) : cmpS k a b = condOn k (a.toInt < b.toInt) (a.toInt = b.toInt) := by
  have he : (a == b) = decide (a.toInt = b.toInt) := by
    rw [beq_eq_decide]
    exact decide_eq_decide.2 BitVec.toInt_inj.symm
  rw [cmpS, he, BitVec.slt, holds_decide]

theorem cmpU_eq (k : ICmp) (a b : BitVec w) : cmpU k a b = condOn k (a.toNat < b.toNat) (a.toNat = b.toNat) := by
  have he : (a == b) = decide (a.toNat = b.toNat) := by
    rw [beq_eq_decide]
    exact decide_eq_decide.2 BitVec.toNat_inj.symm
  rw [cmpU, he, BitVec.ult, holds_decide]

/-! ### Values of several threads (R101, R102) -/

theorem sumW_eq (xs : List Word) : sumW xs = BitVec.ofNat 32 (xs.map BitVec.toNat).sum := by
  have key : ∀ (xs : List Word) (n : Nat),
      xs.foldl (· + ·) (BitVec.ofNat 32 n) = BitVec.ofNat 32 (n + (xs.map BitVec.toNat).sum) := by
    intro xs
    induction xs with
    | nil => exact fun n => rfl
    | cons x xs ih =>
      intro n
      have hx : BitVec.ofNat 32 n + x = BitVec.ofNat 32 (n + x.toNat) := by
        rw [BitVec.ofNat_add, ofNat_toNat_self]
      rw [List.foldl_cons, hx, ih, List.map_cons, List.sum_cons, Nat.add_assoc]
  simpa [sumW] using key xs 0

theorem sumW_map (f : Nat → Word) (ts : List Nat) : sumW (ts.map f) = BitVec.ofNat 32 (ts.map fun t => (f t).toNat).sum := by
  rw [sumW_eq, List.map_map]
  rfl

/-- A fold may begin with a value that changes no term, if there is a term. -/
theorem foldW_eq_foldl {f : Word → Word → Word} {e : Word} (he : ∀ x, f e x = x) {xs : List Word} (h : xs ≠ []) :
    foldW f xs = xs.foldl f e := by
  cases xs with
  | nil => exact absurd rfl h
  | cons x xs => rw [foldW, List.foldl_cons, he]

theorem shuffled_some (c : Ctx) (a : VOp) (t j : Nat) : c.shuffled a t (some j) = from_ c a t j := by
  simp [Ctx.shuffled, from_]

/-- A shuffle past either end of the wave has no source. -/
theorem shuffled_ite (c : Ctx) (a : VOp) (t j : Nat) (p : Prop) [Decidable p] :
    c.shuffled a t (if p then some j else none) = if p then from_ c a t j else c.v32 t a := by
  split
  · exact shuffled_some ..
  · rfl

end Sys2Proof.Machine
end

section
/-! SUPPORT. Integer, exchange, wide and predicate words (O8, O9). -/

namespace Sys2Proof.Machine

/-! ### The classes of words with a result per thread -/

/-- Only the results of performing threads matter. -/
theorem vec_congr {s : State} {xs : List Src} {d : VDst} {f g : Ctx → Nat → Word} (h : ∀ c : Ctx, ∀ t ∈ c.perf, f c t = g c t) :
    vec s xs d f = vec s xs d g := by
  have hm : ∀ c : Ctx, (c.perf.map fun t => (t, f c t)) = c.perf.map fun t => (t, g c t) := fun c =>
    List.map_congr_left fun t ht => by rw [h c t ht]
  simp only [vec, hm]

theorem vec64_congr {s : State} {xs : List Src} {d : VDst} {f g : Ctx → Nat → DWord} (h : ∀ c t, f c t = g c t) :
    vec64 s xs d f = vec64 s xs d g := by
  rw [funext₂ h]

theorem vecP_congr {s : State} {xs : List Src} {d : Fin 8} {f g : Ctx → Nat → Bool} (h : ∀ c t, f c t = g c t) :
    vecP s xs d f = vecP s xs d g := by
  rw [funext₂ h]

theorem vec64_completes {s : State} {c : Ctx} {xs : List Src} (hc : s.ctx = some c) (hr : c.Readable c.perf xs) {d : VDst}
    (hd : d.even = true) (f : Ctx → Nat → DWord) : ∃ t, vec64 s xs d f = .next t ∧ Vec64 c s d (f c) t := by
  have hv : vec64 s xs d f = .next (s.vecResult64 c d (c.perf.map fun t => (t, f c t))) := by
    rw [vec64, issue_of_ctx hc, srcTrap_eq_none hr, unless_none]
  exact ⟨_, hv, vec64_of_result hc d hd (f c)⟩

theorem vecP_completes {s : State} {c : Ctx} {xs : List Src} (hc : s.ctx = some c) (hr : c.Readable c.perf xs) (d : Fin 8)
    (f : Ctx → Nat → Bool) : ∃ t, vecP s xs d f = .next t ∧ VecP c s d (f c) t := by
  have hv : vecP s xs d f = .next (s.predResult c d (c.perf.map fun t => (t, f c t))) := by
    rw [vecP, issue_of_ctx hc, srcTrap_eq_none hr, unless_none]
  exact ⟨_, hv, vecP_of_result hc d (f c)⟩

/-! ### The rows, word by word -/

theorem integerRow_exec {i : Instr} {xs : List Src} {d : VDst} {f : Ctx → Nat → Word} (h : IntegerRow i xs d f) (s : State) :
    exec i s = vec s xs d f := by
  cases h with
  | minI32 => exact vec_congr fun _ _ _ => minS_eq ..
  | maxI32 => exact vec_congr fun _ _ _ => maxS_eq ..
  | minU32 => exact vec_congr fun _ _ _ => minU_eq ..
  | maxU32 => exact vec_congr fun _ _ _ => maxU_eq ..
  | shlB32 => exact vec_congr fun _ _ _ => shl_eq_ite ..
  | shrU32 => exact vec_congr fun _ _ _ => shrU_eq_ite ..
  | shrI32 => exact vec_congr fun _ _ _ => shrS_eq ..
  | popcB32 => exact vec_congr fun _ _ _ => popc_eq ..
  | clzB32 => exact vec_congr fun _ _ _ => clz_eq ..
  | bfeI32 => exact vec_congr fun _ _ _ => bfeS_eq ..
  | bfiB32 => exact vec_congr fun _ _ _ => bfi_eq ..
  | shlB32Imm => exact vec_congr fun _ _ _ => shl_eq ..
  | shrU32Imm => exact vec_congr fun _ _ _ => shrU_eq ..
  | shrI32Imm => exact vec_congr fun _ _ _ => shrS_eq ..
  | _ => rfl

/-- A performing thread is one of the terms. -/
theorem terms_ne_nil {c : Ctx} {t : Nat} (h : t ∈ c.perf) (a : VOp) : c.terms a ≠ [] :=
  List.ne_nil_of_mem (List.mem_map_of_mem h)

theorem exchangeRow_exec {i : Instr} {xs : List Src} {d : VDst} {f : Ctx → Nat → Word} (h : ExchangeRow i xs d f) (s : State) :
    exec i s = vec s xs d f := by
  cases h with
  | shflIdx | shflXor => exact vec_congr fun _ _ _ => shuffled_some ..
  | shflUp | shflDown => exact vec_congr fun _ _ _ => shuffled_ite ..
  | wredAddI32 => exact vec_congr fun _ _ _ => sumW_eq _
  | wscanAddI32 | wscanAddxI32 => exact vec_congr fun _ _ _ => sumW_map ..
  | voteAny | voteAll => exact vec_congr fun c _ _ => by simp [Ctx.terms]
  | wredAndB32 => exact vec_congr fun _ _ ht => foldW_eq_foldl (fun _ => BitVec.allOnes_and) (terms_ne_nil ht _)
  | wredOrB32 => exact vec_congr fun _ _ ht => foldW_eq_foldl (fun _ => BitVec.zero_or) (terms_ne_nil ht _)
  | _ => rfl

theorem wideRow_exec {i : Instr} {xs : List Src} {d : VDst} {f : Ctx → Nat → DWord} (h : WideRow i xs d f) (s : State) :
    exec i s = vec64 s xs d f := by
  cases h with
  | shlB64 => exact vec64_congr fun _ _ => shl_eq_ite ..
  | shrU64 => exact vec64_congr fun _ _ => shrU_eq_ite ..
  | shrI64 => exact vec64_congr fun _ _ => shrS_eq ..
  | minI64 => exact vec64_congr fun _ _ => minS_eq ..
  | maxI64 => exact vec64_congr fun _ _ => maxS_eq ..
  | _ => rfl

/-- A well-formed word with 64-bit results names the lower register of a pair (R30). -/
theorem wideRow_even {i : Instr} {xs : List Src} {d : VDst} {f : Ctx → Nat → DWord} (h : WideRow i xs d f)
    (hw : WellFormed i = true) : d.even = true := by
  cases h with
  | mulwideI32 | mulwideU32 => exact hw
  | shlB64 | shrU64 | shrI64 | movB64 => exact (Bool.and_eq_true_iff.1 hw).1
  | _ => exact (Bool.and_eq_true_iff.1 (Bool.and_eq_true_iff.1 hw).1).1

theorem predicateRow_exec {i : Instr} {xs : List Src} {d : Fin 8} {f : Ctx → Nat → Bool} (h : PredicateRow i xs d f) (s : State) :
    exec i s = vecP s xs d f := by
  cases h with
  | setpI32 | setpI64 => exact vecP_congr fun _ _ => cmpS_eq ..
  | setpU32 => exact vecP_congr fun _ _ => cmpU_eq ..
  | _ => rfl

/-- Settles O8: the word of each row is a vector-class word with the row's result, which completes where its sources can be
read. -/
theorem integerWordsComplete : Obligations.IntegerWordsComplete := by
  unfold Obligations.IntegerWordsComplete
  intro s c i xs d f hi hc hr
  have he : exec i s = vec s xs d f := hi.elim (integerRow_exec · s) (exchangeRow_exec · s)
  rw [he]
  exact vec_completes hc hr d f

/-- Settles O9: as O8, for pairs of registers and for predicates. -/
theorem wideAndPredicateWordsComplete : Obligations.WideAndPredicateWordsComplete := by
  unfold Obligations.WideAndPredicateWordsComplete
  refine ⟨fun s c i xs d f hi hw hc hr => ?_, fun s c i xs d f hi hc hr => ?_⟩
  · rw [wideRow_exec hi s]
    exact vec64_completes hc hr (wideRow_even hi hw) f
  · rw [predicateRow_exec hi s]
    exact vecP_completes hc hr d f

end Sys2Proof.Machine
end

section
/-! SUPPORT. Conversion, pack, unpack and intersect words (O11). -/

namespace Sys2Proof.Machine

/-! ### Conversion (R105, R106) -/

theorem cvt_completes {s : State} {c : Ctx} {a : VOp} {src : NumTy} (hc : s.ctx = some c)
    (hr : c.Readable c.perf [⟨a, src.wide⟩]) {d : VDst} {ty : NumTy} (hd : ty.wide = true → d.even = true) (r : Rnd) :
    ∃ t, exec (.cvt d a r ty src) s = .next t
      ∧ if ty.wide then Vec64 c s d (fun j => toTy ty (c.rm j r) (tyVal src (c.cvtSrc j src a))) t
        else Vec32 c s d (fun j => (toTy ty (c.rm j r) (tyVal src (c.cvtSrc j src a))).setWidth 32) t := by
  change ∃ t, execCvt d a r ty src s = .next t ∧ _
  rw [execCvt]
  split
  · next h => exact vec64_completes hc hr (hd h) _
  · exact vec_completes hc hr d _

/-! ### Pack and unpack (R107 to R109) -/

/-- The scale byte is looked at only where the format takes its scale from there. -/
theorem packTrap_eq_none {c : Ctx} {b : VOp} {k : Fin 4} (hw : fmtW (c.fmt k.val) ≠ 11 ∨ c.perf = [])
    (hs : fmtScale (c.fmt k.val) = 2 → ∀ t ∈ c.perf, ∀ u ∈ c.perf, c.v32 t b &&& 0xFF = c.v32 u b &&& 0xFF) (n : Nat) :
    c.packTrap n b k = none := by
  have hw' : ¬(fmtW (c.fmt k.val) = 11 ∧ c.perf ≠ []) := fun h => hw.elim (absurd h.1) h.2
  rw [Ctx.packTrap, if_neg hw']
  split
  · next h => rw [nonUniform_eq_nil fun t ht u hu => congrArg _ (hs h t ht u hu)]
  · rfl

theorem readable_packSrc {c : Ctx} {a b : VOp} {k : Fin 4} (ha : c.Readable c.perf [⟨a, false⟩])
    (hb : fmtScale (c.fmt k.val) = 2 → c.Readable c.perf [⟨b, false⟩]) : c.Readable c.perf (c.packSrc a b k) := by
  rw [Ctx.packSrc]
  split
  · next h =>
    intro t ht x hx
    rcases List.mem_cons.1 hx with rfl | hx
    · exact ha t ht _ (.head _)
    · exact hb h t ht x hx
  · exact ha

/-- What `npack` and `nunpack` share: without a trap, the results are written. -/
theorem packWord_completes {s : State} {c : Ctx} {a b : VOp} {k : Fin 4} (hc : s.ctx = some c)
    (hr : c.Readable c.perf (c.packSrc a b k)) (ht : c.packTrap s.tick b k = none) (d : VDst) (f : Ctx → Nat → Word) :
    ∃ t, (issue s fun c => s.unless c (c.srcTrap c.perf (c.packSrc a b k) <|> c.packTrap s.tick b k)
        (s.vecResult c d (c.perf.map fun t => (t, f c t)))) = .next t ∧ Vec32 c s d (f c) t := by
  refine ⟨_, (issue_of_ctx hc _).trans (congrArg _ ?_), vec32_of_result hc d (f c)⟩
  rw [srcTrap_eq_none hr, ht]
  rfl

/-- Settles O11: a clause for `cvt`, one for `npack` and `nunpack`, and one for `isect`. -/
theorem conversionWordsComplete : Obligations.ConversionWordsComplete := by
  unfold Obligations.ConversionWordsComplete
  refine ⟨?cvt, ?pack, ?isect⟩
  case cvt =>
    intro s c d a r ty src hc hw hr
    have hd : (!ty.wide || d.even) = true := (Bool.and_eq_true_iff.1 hw).1
    exact cvt_completes hc hr (fun h => by simpa [h] using hd) r
  case pack =>
    intro s c d a b k hc ha hw hb
    have hr := readable_packSrc ha fun h => (hb h).1
    have ht := packTrap_eq_none hw (fun h => (hb h).2) s.tick
    exact ⟨packWord_completes hc hr ht d fun c => c.packed a b k.val, packWord_completes hc hr ht d fun c => c.unpacked a b k.val⟩
  case isect => exact fun s c d a b hc hw hr => vec64_completes hc hr hw _

end Sys2Proof.Machine
end

section
/-! SUPPORT. Scalar words and scalar compares (O13). -/

namespace Sys2Proof.Machine

/-! ### A guard that is true in every active thread -/

theorem guardTrap_of_guarded {c : Ctx} (h : c.Guarded) : c.guardTrap = none := by
  have hd : differing (guardIn c.wave c.path.seq.guard) (ixs c.path.active) = [] :=
    differing_eq_nil fun t ht u hu => (h t ht).trans (h u hu).symm
  rw [Ctx.guardTrap, hd]

theorem performs_of_guarded {c : Ctx} (h : c.Guarded) : c.performs = true := by
  unfold Ctx.performs
  split
  · rfl
  · next t ts he => exact h t (by simp [he])

/-! ### Uniform registers that can be read -/

theorem badS_of_goodS {c : Ctx} {k : Nat} (h : c.goodS k = true) (hk : (!(c.path.priv && decide (k < 16))) = true) :
    c.path.badS.getLsbD k = false := by
  rw [Bool.not_eq_true'] at hk
  simpa [Ctx.goodS, hk] using h

theorem sTrap_eq_none_of_sReadable {c : Ctx} {xs : List (SOp × Bool)} (h : c.SReadable xs) : c.sTrap xs = none := by
  rw [Ctx.sTrap]
  split
  · rfl
  · next n ns hn =>
    obtain ⟨hunit, hbad⟩ := List.mem_filter.1 (hn ▸ List.mem_cons_self : n ∈ List.filter _ _)
    obtain ⟨⟨a, wide⟩, hx, hread⟩ := List.mem_flatMap.1 hunit
    cases a with
    | z | imm => exact absurd hread List.not_mem_nil
    | s k =>
      obtain ⟨hlo, hhi⟩ := h _ hx k rfl
      obtain ⟨hmem, hbank⟩ := List.mem_filter.1 hread
      have hgood : c.goodS n = true := by
        cases wide with
        | false => rwa [List.mem_singleton.1 hmem]
        | true =>
          obtain rfl | hmem := List.mem_cons.1 hmem
          · exact hlo
          · rw [List.mem_singleton.1 hmem]
            exact hhi rfl
      rw [badS_of_goodS hgood hbank] at hbad
      cases hbad

/-! ### The class of scalar words -/

theorem scal_performed {s : State} {c : Ctx} {xs : List (SOp × Bool)} (hc : s.ctx = some c) (hg : c.Guarded)
    (hr : c.SReadable xs) (k : Ctx → State) : scal s xs k = .next (k c) := by
  simp only [scal, issue_of_ctx hc, guardTrap_of_guarded hg, performs_of_guarded hg, sTrap_eq_none_of_sReadable hr, unless_none,
    if_true]

theorem scal_congr {s : State} {xs : List (SOp × Bool)} {α : Type} {put : Ctx → α → State} {f g : Ctx → α} (h : ∀ c, f c = g c) :
    (scal s xs fun c => put c (f c)) = scal s xs fun c => put c (g c) := by
  rw [funext h]

/-! ### The rows, word by word -/

theorem scalarRow_exec {i : Instr} {xs : List (SOp × Bool)} {d : SDst} {f : Ctx → Word} (h : ScalarRow i xs d f) (s : State) :
    exec i s = scal s xs fun c => s.scalResult c d (f c) := by
  cases h with
  | sshlB32 => exact scal_congr fun _ => shl_eq_ite ..
  | sshrU32 => exact scal_congr fun _ => shrU_eq_ite ..
  | sshrI32 => exact scal_congr fun _ => shrS_eq ..
  | sminI32 => exact scal_congr fun _ => minS_eq ..
  | smaxI32 => exact scal_congr fun _ => maxS_eq ..
  | sminU32 => exact scal_congr fun _ => minU_eq ..
  | smaxU32 => exact scal_congr fun _ => maxU_eq ..
  | _ => rfl

theorem wideScalarRow_exec {i : Instr} {xs : List (SOp × Bool)} {d : SDst} {f : Ctx → DWord} (h : WideScalarRow i xs d f)
    (s : State) : exec i s = scal s xs fun c => s.scalResult64 c d (f c) := by
  cases h <;> rfl

theorem wideScalarRow_even {i : Instr} {xs : List (SOp × Bool)} {d : SDst} {f : Ctx → DWord} (h : WideScalarRow i xs d f)
    (hw : WellFormed i = true) : d.even = true := by
  cases h <;> exact (Bool.and_eq_true_iff.1 (Bool.and_eq_true_iff.1 hw).1).1

theorem compareRow_exec {i : Instr} {xs : List (SOp × Bool)} {d : Fin 8} {f : Ctx → Bool} (h : CompareRow i xs d f) (s : State) :
    exec i s = scal s xs fun c => s.scmpResult c d (f c) := by
  cases h with
  | scmpEqI32 | scmpNeI32 | scmpLtI32 | scmpLeI32 | scmpGtI32 | scmpGeI32 => exact scal_congr fun _ => cmpS_eq ..
  | scmpEqU32 | scmpNeU32 | scmpLtU32 | scmpLeU32 | scmpGtU32 | scmpGeU32 => exact scal_congr fun _ => cmpU_eq ..

/-- Settles O13: the word of each row is a scalar-class word with the row's result, which is performed under its guard where its
sources can be read. -/
theorem scalarWordsComplete : Obligations.ScalarWordsComplete := by
  unfold Obligations.ScalarWordsComplete
  refine ⟨?narrow, ?wide, ?compare⟩
  case narrow =>
    intro s c i xs d f hi hc hg hr
    rw [scalarRow_exec hi s]
    exact ⟨_, scal_performed hc hg hr _, scal32_of_result hc d (f c)⟩
  case wide =>
    intro s c i xs d f hi hw hc hg hr
    rw [wideScalarRow_exec hi s]
    exact ⟨_, scal_performed hc hg hr _, scal64_of_result hc d (wideScalarRow_even hi hw) (f c)⟩
  case compare =>
    intro s c i xs d f hi hc hg hr
    rw [compareRow_exec hi s]
    exact ⟨_, scal_performed hc hg hr _, scmp_of_result hc d (f c)⟩

end Sys2Proof.Machine
end

section
/-! SUPPORT. The values after reset (O1). -/

namespace Sys2Proof.Machine

theorem cluster_reset {c : Nat} (h : c < 8) : State.reset.cluster c = Cluster.reset := List.getD_replicate _ h

theorem die_reset {d : Nat} (h : d < 4) : State.reset.die d = Die.reset := List.getD_replicate _ h

theorem rootOf_reset (c : Nat) : State.reset.rootOf c = 0 := Sparse.get_nil c

/-- Settles O1: the clusters, dies and roots by what each one's reset is, the rest by evaluating the state after reset. -/
theorem resetValues : Obligations.ResetValues := by
  unfold Obligations.ResetValues
  refine ⟨⟨rfl, rfl, rfl⟩, ?cluster, ?die, ?belfry, rfl, rfl, rfl, rfl, rfl, rfl, rfl, rfl, fun c _ => rootOf_reset c⟩
  case cluster =>
    intro c hc
    rw [cluster_reset hc]
    decide
  case die =>
    intro d hd
    rw [die_reset hd]
    decide
  case belfry => decide

end Sys2Proof.Machine
end

section
/-! SUPPORT. The active mask read (O26). -/

namespace Sys2Proof.Machine

/-- Settles O26: `getmask` is a vector-class word without sources. -/
theorem getmaskWord : Obligations.GetmaskWord := by
  unfold Obligations.GetmaskWord
  exact fun s c d hc => vec_completes (xs := []) hc (fun _ _ _ => nofun) d fun c _ => c.path.mask

end Sys2Proof.Machine
end

section
/-! SUPPORT. Traps from programs and returns from traps (O28). -/

namespace Sys2Proof.Machine

/-! ### What a return does to the wave (R368) -/

/-- Of the wave, what the return completes is counted. -/
theorem TrapRec.settle_with (r : TrapRec) (kill : Mask) (w : Wave) :
    ∃ n q a m, r.settle kill w = { w with retired := n, qinstr := q, ati := a, done := m } := by
  unfold TrapRec.settle
  split_ifs <;> exact ⟨_, _, _, _, rfl⟩

/-- Of the wave, the error that the trap delivered is cleared. -/
theorem TrapRec.delivered_with (r : TrapRec) (w : Wave) :
    ∃ e h g, r.delivered w = { w with copyErr := e, hErr := h, gErr := g } := by
  unfold TrapRec.delivered
  split <;> exact ⟨_, _, _, rfl⟩

/-- The threads of the path that end as it returns. -/
def Ctx.killed (c : Ctx) : Mask := c.wave.trap.kill &&& c.path.mask

/-- A wave after the return of its path, before the record is free. -/
def Ctx.returning (c : Ctx) (now : Nat) (w : Wave) : Wave :=
  (c.wave.trap.settle c.killed { c.wave.trap.delivered w with exited := w.exited ||| c.killed, unshed := false }).modPath c.ref.slot
    (c.wave.trap.resumed c.killed now)

theorem Ctx.returning_with (c : Ctx) (now : Nat) (w : Wave) :
    ∃ n q a m e h g, c.returning now w =
      ({ w with
        retired := n, qinstr := q, ati := a, done := m, copyErr := e, hErr := h, gErr := g, exited := w.exited ||| c.killed
        unshed := false }).modPath c.ref.slot (c.wave.trap.resumed c.killed now) := by
  obtain ⟨e, h, g, hd⟩ := c.wave.trap.delivered_with w
  obtain ⟨n, q, a, m, hs⟩ := c.wave.trap.settle_with c.killed
    { c.wave.trap.delivered w with exited := w.exited ||| c.killed, unshed := false }
  exact ⟨n, q, a, m, e, h, g, by rw [Ctx.returning, hs, hd]⟩

theorem Ctx.returning_wix (c : Ctx) (now : Nat) (w : Wave) : (c.returning now w).wix = w.wix := by
  obtain ⟨n, q, a, m, e, h, g, hw⟩ := c.returning_with now w
  rw [hw, Wave.modPath_wix]

theorem Ctx.returning_path (c : Ctx) (now : Nat) (w : Wave) :
    (c.returning now w).path? c.ref.slot = (w.path? c.ref.slot).map (c.wave.trap.resumed c.killed now) := by
  obtain ⟨n, q, a, m, e, h, g, hw⟩ := c.returning_with now w
  rw [hw, Wave.path?_modPath, if_pos rfl]
  rfl

/-- The threads that end have exited; the kept trap and the registers stay. -/
theorem Ctx.returning_reads (c : Ctx) (now : Nat) (w : Wave) :
    (c.returning now w).exited = w.exited ||| c.killed ∧ (c.returning now w).queued = w.queued
      ∧ ((c.returning now w).w, (c.returning now w).o, (c.returning now w).p, (c.returning now w).wb, (c.returning now w).sb)
        = (w.w, w.o, w.p, w.wb, w.sb) := by
  obtain ⟨n, q, a, m, e, h, g, hw⟩ := c.returning_with now w
  rw [hw]
  cases c.ref.slot <;> exact ⟨rfl, rfl, rfl⟩

/-- A wave after the return of its path, with the record free. -/
def Ctx.returned (c : Ctx) (now : Nat) (w : Wave) : Wave := { c.returning now w with owner := none }

/-! ### The return of a path that keeps a thread -/

/-- Without a kept trap of the other path, the record is free and nothing else happens. -/
theorem freeRecord_of_unqueued {s : State} {c : Ctx} {v : Wave} (hv : s.wave? c.ref.group c.ref.wix = some v)
    (hq : v.queued = none) : s.freeRecord c = s.modWave c.ref.group c.ref.wix fun w => { w with owner := none } := by
  rw [State.freeRecord, hv]
  dsimp only
  rw [hq]

theorem tret_keeping {s : State} {c : Ctx} (hc : s.ctxAt c.ref = some c) (hq : c.wave.queued = none)
    (hk : c.killed ≠ c.path.mask ∨ c.path.mask = 0) :
    s.tret c = s.modWave c.ref.group c.ref.wix (c.returned s.ns.toNat) := by
  obtain ⟨-, hg, hw, -, -⟩ := State.ctxAt_eq hc
  have hwave : s.wave? c.ref.group c.ref.wix = some c.wave := by simp [State.wave?, hg, hw]
  have hret : s.tret c = (s.modWave c.ref.group c.ref.wix (c.returning s.ns.toNat)).freeRecord c :=
    if_neg fun h => hk.elim (absurd h.1) h.2
  have hv : (s.modWave c.ref.group c.ref.wix (c.returning s.ns.toNat)).wave? c.ref.group c.ref.wix
      = some (c.returning s.ns.toNat c.wave) := by
    rw [State.wave?_modWave _ _ _ _ _ _ (c.returning_wix s.ns.toNat), hwave]
    simp
  have hfree := freeRecord_of_unqueued hv ((c.returning_reads _ _).2.1.trans hq)
  exact hret.trans (hfree.trans (State.modWave_modWave _ _ _ _ _ (c.returning_wix s.ns.toNat)))

/-- The threads that the trapped word left unfinished replay it, but for those that end (R368). -/
theorem TrapRec.resumed_replay (r : TrapRec) (kill : Mask) (now : Nat) (p : Path) :
    (r.resumed kill now p).replay = if r.part then some (r.mask &&& ~~~kill) else none := by
  cases h : r.part <;> simp [TrapRec.resumed, h]

/-- The path goes on at once where it replays threads, waits on no fault record, or does not go back to the trapped word. -/
theorem TrapRec.resumed_wait {r : TrapRec} (h : r.part = true ∨ r.refs = [] ∨ r.pc ≠ r.at_) (kill : Mask) (now : Nat)
    (p : Path) : (r.resumed kill now p).wait = .none := by
  rcases h with h | h | h <;> simp [TrapRec.resumed, h]

/-- Settles O28: `trap` by its meaning; a return that leaves a thread is a change of the wave alone. -/
theorem trapAndReturnWords : Obligations.TrapAndReturnWords := by
  unfold Obligations.TrapAndReturnWords
  refine ⟨?trap, ?tret⟩
  case trap => exact fun s c n hc => issue_of_ctx hc _
  case tret =>
    intro s c hc hp hq r kill hk
    have hctx := (State.ctx_eq hc).2
    obtain ⟨-, -, -, hpath, -⟩ := State.ctxAt_eq hctx
    have hwix : ∀ w, (c.returned s.ns.toNat w).wix = w.wix := c.returning_wix s.ns.toNat
    have hres : (c.returned s.ns.toNat c.wave).path? c.ref.slot = some (r.resumed kill s.ns.toNat c.path) :=
      (c.returning_path s.ns.toNat c.wave).trans (by rw [hpath]; rfl)
    obtain ⟨hexit, -, hregs⟩ := c.returning_reads s.ns.toNat c.wave
    exact ⟨_, _, (atP1_priv hc hp _).trans (congrArg _ (tret_keeping hctx hq hk)), onlyWave_modWave s c.ref _ hwix,
      State.ctxAt_modWave hctx _ hwix hres, rfl, rfl, rfl, rfl, rfl, rfl, r.resumed_replay _ _ _,
      fun h => r.resumed_wait h _ _ _, hexit, rfl, rfl, hregs⟩

end Sys2Proof.Machine
end

section
/-! SUPPORT. Control registers and `tlbinv` (O38). -/

namespace Sys2Proof.Machine

/-! ### Fields of a register given as a number -/

theorem extractLsb'_ofNat_toNat {w lo len : Nat} (h : lo + len ≤ w) (n : Nat) :
    ((BitVec.ofNat w n).extractLsb' lo len).toNat = n / 2 ^ lo % 2 ^ len := by
  have hle : 2 ^ len ∣ 2 ^ (w - lo) := Nat.pow_dvd_pow 2 (by omega)
  have hw : 2 ^ w = 2 ^ lo * 2 ^ (w - lo) := by rw [← Nat.pow_add]; congr 1; omega
  rw [BitVec.extractLsb'_toNat, BitVec.toNat_ofNat, Nat.shiftRight_eq_div_pow, hw, Nat.mod_mul_right_div_self,
    Nat.mod_mod_of_dvd _ hle]

theorem extractLsb'_ofNat_eq_zero {w lo len n : Nat} (h : lo + len ≤ w) (hn : n / 2 ^ lo % 2 ^ len = 0) :
    (BitVec.ofNat w n).extractLsb' lo len = 0 :=
  BitVec.eq_of_toNat_eq ((extractLsb'_ofNat_toNat h n).trans hn)

theorem getLsbD_ofNat_eq {w k n : Nat} (h : k < w) {b : Bool} (hn : n / 2 ^ k % 2 = b.toNat) : (BitVec.ofNat w n).getLsbD k = b := by
  rw [BitVec.getLsbD_ofNat, Nat.testBit_eq_decide_div_mod_eq, hn]
  cases b <;> simp [h]

/-! ### What `csrr` reads (R366) -/

theorem TrapRec.tcauseIs (r : TrapRec) : TcauseIs r r.tcause := by
  have h1 := r.resume.toNat_le
  have h2 := r.exhaust.toNat_le
  have h3 := r.winErr.toNat_le
  have h4 := r.give.toNat_le
  have h5 := r.part.toNat_le
  refine ⟨(extractLsb'_ofNat_toNat (by decide) _).trans ?_, (extractLsb'_ofNat_toNat (by decide) _).trans ?_,
    getLsbD_ofNat_eq (by decide) ?_, getLsbD_ofNat_eq (by decide) ?_, getLsbD_ofNat_eq (by decide) ?_,
    getLsbD_ofNat_eq (by decide) ?_, (extractLsb'_ofNat_toNat (by decide) _).trans ?_, getLsbD_ofNat_eq (by decide) ?_,
    extractLsb'_ofNat_eq_zero (by decide) ?_⟩
  all_goals omega

theorem find_thread_eq_none {refs : List (Nat × FaultRef)} {t : Nat} :
    refs.find? (fun x => x.1 == t) = none ↔ ∀ f, (t, f) ∉ refs := by
  rw [List.find?_eq_none]
  constructor
  · exact fun h f hf => h _ hf (beq_self_eq_true t)
  · rintro h ⟨u, f⟩ hf hu
    obtain rfl : u = t := eq_of_beq hu
    exact h f hf

theorem recIndex_of_slot {s : State} {f : FaultRef} {x : FaultRec} {k : Nat} (hx : s.record? f = some x) (hk : x.slot = some k) :
    s.recIndex f = k % 2 ^ 16 := by
  simp [State.recIndex, hx, hk]

/-- No fault record, where the selected thread waits on none. -/
theorem tthrIs_of_none {s : State} {r : TrapRec} (h : r.refs.find? (fun x => x.1 == r.thr) = none) : TthrIs s r (s.tthr r) := by
  have hnone := find_thread_eq_none.1 h
  have hv : s.tthr r = BitVec.ofNat 32 (((r.own.find? fun x => x.1 == r.thr).map Prod.snd).getD 0 % 256) := by
    rw [State.tthr, h]
  rw [hv]
  refine ⟨?own, iff_of_false ?waits (not_exists.2 hnone), ?res, fun _ => ?none, fun f _ _ hf => by rw [h] at hf; cases hf⟩
  case own => exact (extractLsb'_ofNat_toNat (by decide) _).trans (by omega)
  case waits =>
    rw [getLsbD_ofNat_eq (b := false) (by decide) (by rw [Bool.toNat_false]; omega)]
    decide
  all_goals exact extractLsb'_ofNat_eq_zero (by decide) (by omega)

/-- The index of the first record that the selected thread waits on. -/
theorem tthrIs_of_some {s : State} {r : TrapRec} {x : Nat × FaultRef} (h : r.refs.find? (fun x => x.1 == r.thr) = some x) :
    TthrIs s r (s.tthr r) := by
  have hmem : ∃ f, (r.thr, f) ∈ r.refs := by
    by_contra hn
    rw [find_thread_eq_none.2 (not_exists.1 hn)] at h
    cases h
  have hv : s.tthr r = BitVec.ofNat 32
      (((r.own.find? fun x => x.1 == r.thr).map Prod.snd).getD 0 % 256 + 2 ^ 8 + 2 ^ 16 * s.recIndex x.2) := by
    rw [State.tthr, h]
  rw [hv]
  refine ⟨?own, iff_of_true ?waits hmem, ?res, fun hn => (hmem.elim hn).elim, fun f y k hf hy hk => ?index⟩
  case own => exact (extractLsb'_ofNat_toNat (by decide) _).trans (by omega)
  case waits => exact getLsbD_ofNat_eq (by decide) (by rw [Bool.toNat_true]; omega)
  case res => exact extractLsb'_ofNat_eq_zero (by decide) (by omega)
  case index =>
    obtain rfl : x = (r.thr, f) := Option.some.inj (h.symm.trans hf)
    have hi : s.recIndex (r.thr, f).2 = k % 2 ^ 16 := recIndex_of_slot hy hk
    exact (extractLsb'_ofNat_toNat (by decide) _).trans (by omega)

theorem State.tthrIs (s : State) (r : TrapRec) : TthrIs s r (s.tthr r) := by
  cases h : r.refs.find? fun x => x.1 == r.thr with
  | none => exact tthrIs_of_none h
  | some x => exact tthrIs_of_some h

theorem State.csrIs (s : State) (c : Ctx) (n : Csr) : s.CsrIs c n (s.csrValue c n) := by
  have hlow : ∀ v : Word, (v.setWidth 64).setWidth 32 = v := fun v => by simp
  cases n with
  | tcause =>
    change TcauseIs c.wave.trap ((c.wave.trap.tcause.setWidth 64).setWidth 32)
    rw [hlow]
    exact c.wave.trap.tcauseIs
  | tthr =>
    change TthrIs s c.wave.trap (((s.tthr c.wave.trap).setWidth 64).setWidth 32)
    rw [hlow]
    exact s.tthrIs c.wave.trap
  | tmask | tkill | tword => exact hlow _
  | tpc | taddr | trstk => rfl
  | wseg =>
    intro h
    exact ⟨(extractLsb'_ofNat_toNat (by decide) _).trans (by omega), (extractLsb'_ofNat_toNat (by decide) _).trans (by omega),
      extractLsb'_ofNat_eq_zero (by decide) (by omega)⟩
  | twb => exact ⟨(extractLsb'_ofNat_toNat (by decide) _).trans (by omega), extractLsb'_ofNat_eq_zero (by decide) (by omega)⟩
  | tlevel =>
    intro h
    exact ⟨(extractLsb'_ofNat_toNat (by decide) _).trans (by omega), extractLsb'_ofNat_eq_zero (by decide) (by omega)⟩

/-! ### Scalar-class words of P1 -/

theorem scalP1_performed {s : State} {c : Ctx} {xs : List (SOp × Bool)} (hc : s.ctx = some c) (hp : c.path.priv = true)
    (hg : c.Guarded) (hr : c.SReadable xs) (k : Ctx → State) : scalP1 s xs k = .next (k c) := by
  simp only [scalP1, atP1_priv hc hp, guardTrap_of_guarded hg, performs_of_guarded hg, sTrap_eq_none_of_sReadable hr, unless_none,
    if_true]

/-! ### What `csrw` writes (R129, R370) -/

/-- Beside the trap record, a control register that is written moves a segment at most. -/
theorem Wave.writeCsr_with (w : Wave) (d : Nat) (n : Csr) (v : DWord) :
    ∃ rw sb bad r, w.writeCsr d n v = { w with w := rw, sb := sb, bad := bad, trap := r } := by
  cases n with
  | wseg =>
    change ∃ rw sb bad r, w.writeWseg d v = _
    unfold Wave.writeWseg
    dsimp only
    split_ifs <;> exact ⟨_, _, _, _, rfl⟩
  | _ => exact ⟨_, _, _, _, rfl⟩

theorem Wave.writeCsr_segment (w : Wave) (d : Nat) {n : Csr} (h : n ≠ .wseg) (v : DWord) :
    ((w.writeCsr d n v).w, (w.writeCsr d n v).sb) = (w.w, w.sb) := by
  cases n with
  | wseg => exact absurd rfl h
  | _ => rfl

theorem Wave.writeWseg_trap (w : Wave) (d : Nat) (v : DWord) :
    ∃ e, (w.writeWseg d v).trap = { w.trap with winErr := e, thr := (v.extractLsb' 16 5).toNat } := by
  unfold Wave.writeWseg
  dsimp only
  split_ifs with hthr
  · exact ⟨_, rfl⟩
  all_goals
    rw [not_not.1 hthr]
    exact ⟨_, rfl⟩

/-- The fields of the trap record that a write reaches. -/
theorem Wave.writeCsr_trap (w : Wave) (d : Nat) (n : Csr) (v : DWord) :
    ∃ e, (w.writeCsr d n v).trap =
      { w.trap with
        winErr := e
        mask := if n = .tmask then w.trap.mask &&& v.setWidth 32 else w.trap.mask
        kill := if n = .tkill then v.setWidth 32 else w.trap.kill
        pc := if n = .tpc then v else w.trap.pc
        thr := if n = .wseg then (v.extractLsb' 16 5).toNat else w.trap.thr } := by
  cases n with
  | wseg => exact w.writeWseg_trap d v
  | _ => exact ⟨_, rfl⟩

/-! ### A word of P1 that changes its wave and completes -/

theorem Ctx.stepOn_priv {c : Ctx} (hp : c.path.priv = true) (ts : List Nat) (w : Wave) :
    c.stepOn ts w = w.modPath c.ref.slot fun p => p.onward (c.path.pc + 4) := by
  rw [Ctx.stepOn, if_pos hp]

/-- The wave is the changed one, but for the path, which moves on. -/
theorem complete_modWave {s : State} {c : Ctx} (hc : s.ctxAt c.ref = some c) (hp : c.path.priv = true) (ts : List Nat)
    (f : Wave → Wave) (hf : ∀ w, (f w).wix = w.wix) (hpath : (f c.wave).path? c.ref.slot = some c.path) :
    ∃ c', OnlyWave c.ref s ((s.modWave c.ref.group c.ref.wix f).complete c ts)
      ∧ ((s.modWave c.ref.group c.ref.wix f).complete c ts).ctxAt c.ref = some c' ∧ c'.path = c.path.next
      ∧ c'.wave = (f c.wave).modPath c.ref.slot fun p => p.onward (c.path.pc + 4) := by
  rw [State.complete_eq, State.modWave_modWave _ _ _ _ _ hf]
  have hwix : ∀ w, (c.stepOn ts (f w)).wix = w.wix := fun w => (c.stepOn_wix ts _).trans (hf w)
  have hq : (c.stepOn ts (f c.wave)).path? c.ref.slot = some c.path.next := by
    rw [Ctx.stepOn_priv hp, Wave.path?_modPath, if_pos rfl, hpath]
    rfl
  exact ⟨_, onlyWave_modWave s c.ref _ hwix, State.ctxAt_modWave hc _ hwix hq, rfl, Ctx.stepOn_priv hp ts _⟩

theorem csrw_writes {s : State} {c : Ctx} (hc : s.ctxAt c.ref = some c) (hp : c.path.priv = true) (n : Csr) (v : DWord) :
    ∃ c', OnlyWave c.ref s ((s.modWave c.ref.group c.ref.wix fun w => w.writeCsr c.launch.d n v).complete c c.perf)
      ∧ ((s.modWave c.ref.group c.ref.wix fun w => w.writeCsr c.launch.d n v).complete c c.perf).ctxAt c.ref = some c'
      ∧ c'.path = c.path.next ∧ (c'.wave.o, c'.wave.p, c'.wave.wb) = (c.wave.o, c.wave.p, c.wave.wb)
      ∧ (c'.wave.w, c'.wave.sb, c'.wave.trap)
        = ((c.wave.writeCsr c.launch.d n v).w, (c.wave.writeCsr c.launch.d n v).sb, (c.wave.writeCsr c.launch.d n v).trap) := by
  have hwith := fun w : Wave => w.writeCsr_with c.launch.d n v
  have hf : ∀ w : Wave, (w.writeCsr c.launch.d n v).wix = w.wix := fun w => by
    obtain ⟨rw, sb, bad, r, h⟩ := hwith w
    rw [h]
  obtain ⟨-, -, -, hpath, -⟩ := State.ctxAt_eq hc
  have hsame : (c.wave.writeCsr c.launch.d n v).path? c.ref.slot = some c.path ∧
      ((c.wave.writeCsr c.launch.d n v).o, (c.wave.writeCsr c.launch.d n v).p, (c.wave.writeCsr c.launch.d n v).wb)
        = (c.wave.o, c.wave.p, c.wave.wb) := by
    obtain ⟨rw, sb, bad, r, h⟩ := hwith c.wave
    rw [h]
    exact ⟨hpath, rfl⟩
  obtain ⟨c', honly, hc', hnext, hwave⟩ := complete_modWave hc hp c.perf _ hf hsame.1
  refine ⟨c', honly, hc', hnext, ?_, ?_⟩
  · rw [hwave, ← hsame.2]
    cases c.ref.slot <;> rfl
  · rw [hwave]
    cases c.ref.slot <;> rfl

/-! ### What `tlbinv` does where nothing is held back -/

/-- No wave holds back a store, or has a load that reads later. -/
def State.NothingHeld (s : State) : Prop := s.near = [] ∧ ∀ g ∈ s.groups, ∀ w ∈ g.waves, w.held = [] ∧ w.loads = []

theorem performNear_of_none {s : State} (h : s.near = []) (pick : Near → Bool) : s.performNear pick = s := by
  have hs : ({ s with near := [] } : State) = s := by rw [← h]
  simpa [State.performNear, splitNear, h] using hs

theorem State.wave?_mem {s : State} {g x : Nat} {w : Wave} (h : s.wave? g x = some w) : ∃ y ∈ s.groups, w ∈ y.waves := by
  obtain ⟨y, hy, hw⟩ := Option.bind_eq_some_iff.1 h
  exact ⟨y, List.mem_of_find?_eq_some hy, List.mem_of_find?_eq_some hw⟩

/-- A change that changes no wave. -/
theorem State.modWave_eq_self {s : State} {f : Wave → Wave} (h : ∀ y ∈ s.groups, ∀ w ∈ y.waves, f w = w) (g x : Nat) :
    s.modWave g x f = s := by
  have hgroup : ∀ y ∈ s.groups, (if y.id = g then y.modWave x f else y) = y := fun y hy => by
    have hw : ∀ w ∈ y.waves, (if w.wix = x then f w else w) = w := fun w hw => by rw [h y hy w hw, ite_self]
    rw [Group.modWave, (List.map_congr_left hw).trans (List.map_id' _), ite_self]
  rw [State.modWave, State.modGroup, (List.map_congr_left hgroup).trans (List.map_id' _)]

theorem performLoads_of_nothingHeld {s : State} (h : s.NothingHeld) (g x : Nat) (pick : Load → Bool) :
    s.performLoads g x pick = s := by
  rw [State.performLoads]
  split
  · rfl
  · next w hw =>
    obtain ⟨y, hy, hmem⟩ := State.wave?_mem hw
    rw [(h.2 y hy w hmem).2]
    rfl

theorem release_of_nothingHeld {s : State} (h : s.NothingHeld) (g x n : Nat) : s.release g x n = s := by
  have hnear : ∀ f : Near → Near, ({ s with near := s.near.map f } : State) = s := fun f => by rw [h.1, List.map_nil, ← h.1]
  rw [State.release]
  split
  · rfl
  · next y hy =>
    dsimp only
    split
    · rfl
    · next w hw =>
      have hheld := (h.2 y (List.mem_of_find?_eq_some hy) w (List.mem_of_find?_eq_some hw)).1
      rw [performNear_of_none h.1, hnear, hheld]
      exact State.modWave_eq_self (fun y hy w hw => by rw [← (h.2 y hy w hw).1]) g x

theorem performEvery_of_nothingHeld {s : State} (h : s.NothingHeld) : s.performEvery = s := by
  rw [State.performEvery, List.foldl_fixed' fun _ => performLoads_of_nothingHeld h _ _ _, State.drainEvery, performNear_of_none h.1]
  exact List.foldl_fixed' (fun _ => release_of_nothingHeld h _ _ _) _

theorem extractLsb'_8_toNat (v : Word) : (v.extractLsb' 0 8).toNat = v.toNat % 256 := by
  simp [BitVec.extractLsb'_toNat]

/-- Entries of the context that cover the address are forgotten; beside that the word is only completed. -/
theorem forget_completes {s : State} {c : Ctx} (hc : s.ctx = some c) (ctx va : Nat) :
    ∃ c', Finished c c.perf ((s.forget ctx va).complete c c.perf) c'
      ∧ OnlyWave c.ref s { (s.forget ctx va).complete c c.perf with kept := s.kept }
      ∧ SameV c c' ∧ SameS c c' ∧ SameP c c' ∧ SameL c c' := by
  obtain ⟨c', hdone, hsame⟩ := passed_of_complete (s := s.forget ctx va) hc c.perf c.perf_nodup
  exact ⟨c', hdone.toFinished, onlyWave_modWave s c.ref _ (c.stepOn_wix c.perf), hsame⟩

/-- A wave whose path is to issue its word again, from the first word of the sequence. -/
def Ctx.again (c : Ctx) (w : Wave) : Wave :=
  ({ w with qended := c.launch.repro || w.qended }).modPath c.ref.slot fun p => { p with pc := p.start, seq := Seq.empty }

theorem again_eq (s : State) (c : Ctx) :
    (if c.launch.repro then s.endQuantum c else s.retry c) = s.modWave c.ref.group c.ref.wix c.again := by
  unfold Ctx.again
  cases c.launch.repro <;> rfl

/-- Such a word changes its wave alone. -/
theorem again_leaves {s : State} {c : Ctx} (hc : s.ctxAt c.ref = some c) :
    ∃ c', OnlyWave c.ref s (s.modWave c.ref.group c.ref.wix c.again)
      ∧ (s.modWave c.ref.group c.ref.wix c.again).ctxAt c.ref = some c'
      ∧ c'.path = { c.path with pc := if c.path.seq.len = 0 then c.path.pc else c.path.seq.start, seq := Seq.empty }
      ∧ c'.wave.qended = (c.launch.repro || c.wave.qended) := by
  obtain ⟨-, -, -, hpath, -⟩ := State.ctxAt_eq hc
  have hwix : ∀ w, (c.again w).wix = w.wix := fun w => by rw [Ctx.again, Wave.modPath_wix]
  have hq : (c.again c.wave).path? c.ref.slot = some { c.path with pc := c.path.start, seq := Seq.empty } := by
    rw [Ctx.again, Wave.path?_modPath, if_pos rfl]
    change (c.wave.path? c.ref.slot).map _ = _
    rw [hpath]
    rfl
  refine ⟨_, onlyWave_modWave s c.ref _ hwix, State.ctxAt_modWave hc _ hwix hq, rfl, ?_⟩
  change (c.again c.wave).qended = _
  rw [Ctx.again]
  cases c.ref.slot <;> rfl

/-- Settles O38: the words of P1 are performed under their guard; what each reads or changes stands in the lemmas above. -/
theorem handlerWords : Obligations.HandlerWords := by
  unfold Obligations.HandlerWords
  refine ⟨?csrr, ?csrw, ?tlbinv⟩
  case csrr =>
    intro s c d n hc hp hg hw
    have hexec : exec (.csrr d n) s = .next (if n.wide then s.scalResult64 c d (s.csrValue c n)
        else s.scalResult c d ((s.csrValue c n).setWidth 32)) := scalP1_performed hc hp hg (fun _ h => absurd h List.not_mem_nil) _
    refine ⟨s.csrValue c n, _, hexec, s.csrIs c n, ?_⟩
    have hd : (!n.wide || d.even) = true := hw
    split
    · next h => exact scal64_of_result hc d (by simpa [h] using hd) _
    · exact scal32_of_result hc d _
  case csrw =>
    intro s c n a hc hp hg hr v
    have hexec : exec (.csrw n a) s = .next (if csrRes n v then
        s.takeTrap c { cause := .illegal, sub := 9, addr := c.path.seq.word.setWidth 64 }
        else (s.modWave c.ref.group c.ref.wix fun w => w.writeCsr c.launch.d n v).complete c c.perf) :=
      scalP1_performed hc hp hg hr _
    rw [hexec]
    refine ⟨fun h => by rw [if_pos h], fun h => ?_⟩
    rw [if_neg (by rw [h]; decide)]
    obtain ⟨c', honly, hc', hnext, hregs, hwrote⟩ := csrw_writes (State.ctx_eq hc).2 hp n v
    obtain ⟨hw, hsb, htrap⟩ : c'.wave.w = _ ∧ c'.wave.sb = _ ∧ c'.wave.trap = _ := by simpa only [Prod.mk.injEq] using hwrote
    obtain ⟨e, hrec⟩ := c.wave.writeCsr_trap c.launch.d n v
    rw [hrec] at htrap
    refine ⟨_, c', rfl, honly, hc', hnext, hregs, fun hn => ?_, ?_⟩
    · rw [hw, hsb]
      exact c.wave.writeCsr_segment _ hn v
    · rw [htrap]
      exact ⟨rfl, rfl, rfl, rfl, rfl⟩
  case tlbinv =>
    intro s c a b hc hp hg hr ctx
    have hctx : ((c.s32 a).extractLsb' 0 8).toNat = ctx := extractLsb'_8_toNat _
    have hexec : exec (.tlbinv a b) s = .next (if ctx ≠ c.launch.ctx then
          s.takeTrap c { cause := .priv, addr := c.path.seq.word.setWidth 64 }
        else if s.buffers (some ctx) then if c.launch.repro then s.endQuantum c else s.retry c
        else (s.performEvery.forget ctx (c.s64 b).toNat).complete c c.perf) := by
      rw [← hctx]
      exact scalP1_performed hc hp hg hr _
    rw [hexec]
    refine ⟨fun h => by rw [if_pos h], fun h hnear hheld hbuf => ?_, fun h hbuf => ?_⟩
    · rw [if_neg (not_not.2 h), if_neg (by rw [hbuf]; decide), performEvery_of_nothingHeld ⟨hnear, hheld⟩]
      obtain ⟨c', hdone, honly, hsame⟩ := forget_completes hc ctx (c.s64 b).toNat
      exact ⟨_, c', rfl, rfl, hdone, honly, hsame⟩
    · rw [if_neg (not_not.2 h), if_pos hbuf, again_eq]
      obtain ⟨c', hagain⟩ := again_leaves (State.ctx_eq hc).2
      exact ⟨_, c', rfl, hagain⟩

end Sys2Proof.Machine
end

section
/-! SUPPORT. The end of a wait whose destination is not a pair (O54). -/

namespace Sys2Proof.Machine

/-- The path of the program loaded into the machine after reset. -/
def bootRef : PathRef := ⟨1, 0, false⟩

/-- A path of thread 0 at a `waita` whose word was to change from 5 and is 0. The destination is `o7`, the lower register of no
pair: no `waita` that decodes has it (R30), but the statement asks nothing of the destination. `o0` of thread 1 holds 1. -/
def unpairedWait : State :=
  (State.reset.bootWord 0).modWave 1 0 fun w =>
    ({ w with threads := 2, o := [(8, 1)] }).modPath false fun p =>
      { p with wait := .waita (.o 7) [(0, 0x40000, 5)] [] .wv .rlx }

/-- What the waiting path belongs to. -/
def unpairedCtx : Ctx := (unpairedWait.ctxAt bootRef).get (by decide +kernel)

theorem unpairedWait_ctxAt : unpairedWait.ctxAt bootRef = some unpairedCtx := (Option.some_get _).symm

/-- The path could go on: its one thread reads 0 in the word that it watches. -/
theorem unpairedWait_changed :
    unpairedWait.running unpairedCtx.group = true
      ∧ unpairedCtx.path.wait = .waita (.o 7) (unpairedCtx.perf.map fun t => (t, 0x40000, 5)) [] .wv .rlx
      ∧ unpairedCtx.launch.repro = false ∧ unpairedCtx.First
      ∧ ∀ t ∈ unpairedCtx.perf, BitVec.ofNat 64 (leNat (unpairedWait.view unpairedCtx t ⟨.dev, 0x40000⟩ 8)) ≠ 5 := by
  unfold Ctx.First Ctx.Together
  decide +kernel

theorem unpairedWait_loads :
    unpairedWait.GLoads unpairedCtx (fun _ => (0x40000 : DWord).toNat) 8 unpairedCtx.perf fun _ => ⟨.dev, 0x40000⟩ := by
  unfold State.GLoads
  decide +kernel

/-- Register `ok` of a thread of a path after a step. -/
def oregAfter (r : PathRef) (k j : Nat) : Out → Option Word
  | .next t => (t.ctxAt r).map fun c => c.oreg k j
  | _ => none

/-- The high half of what thread 0 has read stands in `o0` of thread 1. -/
theorem unpairedWait_spills : oregAfter bootRef 0 1 (exec (.waitaReread bootRef) unpairedWait) = some 0 := by decide +kernel

/-- Refutes O54, by its clause on changed words: `waita` may name a destination that is not the lower register of a pair. With
`o7` the high half goes to the next thread's `o0`, of which the clause says that it stays. -/
theorem not_waitsEnd : ¬ Obligations.WaitsEnd := by
  unfold Obligations.WaitsEnd
  rintro ⟨-, -, hwaita, -⟩
  obtain ⟨hrun, hwait, hrepro, hfirst, hchanged⟩ := unpairedWait_changed
  obtain ⟨t, c', hexec, -, hc', -, -, ⟨-, horeg⟩, -⟩ := hwaita unpairedWait bootRef unpairedCtx (.o 7) (fun _ => 0x40000)
    (fun _ => 5) .wv .rlx (fun _ => ⟨.dev, 0x40000⟩) unpairedWait_ctxAt hrun hwait hrepro hfirst nofun unpairedWait_loads hchanged
  have hstays : c'.oreg 0 1 = 1 := by
    have hperf : 1 ∉ unpairedCtx.perf := by decide +kernel
    have hold : unpairedCtx.oreg 0 1 = 1 := by decide +kernel
    simpa [hperf, hold] using horeg 0 1
  have hspills : some (c'.oreg 0 1) = some 0 := by
    have h := unpairedWait_spills
    rwa [hexec, oregAfter, ← (State.ctxAt_eq unpairedWait_ctxAt).1, hc'] at h
  rw [hstays] at hspills
  exact absurd hspills (by decide)

end Sys2Proof.Machine
end

section
/-! SUPPORT. Results of 64 bits whose destination is not a pair (O29, O30, O34, O35, O37, O53). -/

namespace Sys2Proof.Machine

/-- The issuing path is that of thread 0. Its register `w2` holds a global address of the loaded page; `o0` of thread 1 holds 1, so
that it shows what is written there. -/
def spillState : State :=
  (State.reset.bootWord 0).modWave 1 0 fun w => { w with threads := 2, w := [(2, 0x40000)], o := [(8, 1)] }

/-- What the issuing path belongs to. -/
def spillCtx : Ctx := spillState.ctx.get (by decide +kernel)

theorem spillState_ctx : spillState.ctx = some spillCtx := (Option.some_get _).symm

theorem spillCtx_perf : spillCtx.perf = [0] := by decide +kernel

theorem spillCtx_oreg : spillCtx.oreg 0 1 = 1 := by decide +kernel

theorem spillCtx_first : spillCtx.First := by
  unfold Ctx.First Ctx.Together
  decide +kernel

theorem spillState_noneHeld : spillState.NoneHeld spillCtx.ref := by
  unfold State.NoneHeld
  decide +kernel

/-- A step writes 64 bits of thread 0 into `o7`, the lower register of no pair (R30), and its high half, 0, has gone to the next
thread's `o0`: no list of results of thread 0 says so. No word that decodes has such a destination, but none of the statements
asks that of its word. -/
theorem not_wroteR_of_spill {c c' : Ctx} {t : State} {out : Out} {f : Nat → DWord} (hold : c.oreg 0 1 = 1)
    (hspill : oregAfter c.ref 0 1 out = some 0) (hout : out = .next t) (hc' : t.ctxAt c.ref = some c') :
    ¬ WroteR c c' true (.o 7) [0] f := by
  rintro ⟨-, horeg⟩
  have hstays : c'.oreg 0 1 = 1 := by simpa [hold] using horeg 0 1
  have hspills : some (c'.oreg 0 1) = some 0 := by rwa [hout, oregAfter, hc'] at hspill
  rw [hstays] at hspills
  exact absurd hspills (by decide)

/-! ### Loads -/

/-- Refutes O29, by `ld.s.b64` into `o7`. -/
theorem not_scratchpadLoadsComplete : ¬ Obligations.ScratchpadLoadsComplete := by
  unfold Obligations.ScratchpadLoadsComplete
  intro h
  obtain ⟨hnow, -⟩ := h spillState spillCtx _ (.o 7) .z _ 8 true .wv .rlx _ (fun _ => .sp 1 0) (.ldSB64 _ _ 0 _ _) spillState_ctx
    (by unfold Ctx.Readable; decide +kernel) (by unfold Aligned; decide +kernel) (by unfold State.SpLoads; decide +kernel) nofun
  obtain ⟨t, c', hexec, hdone, hwrote, -⟩ := hnow spillCtx_first fun _ _ => trivial
  rw [spillCtx_perf] at hwrote
  exact not_wroteR_of_spill spillCtx_oreg (by decide +kernel) hexec hdone.ctx hwrote

/-- Refutes O30, by `ld.g.b64` into `o7`. -/
theorem not_globalLoadsComplete : ¬ Obligations.GlobalLoadsComplete := by
  unfold Obligations.GlobalLoadsComplete
  intro h
  obtain ⟨hnow, -⟩ := h spillState spillCtx _ (.o 7) (.w 2) _ 8 true .wv .rlx _ (fun _ => ⟨.dev, 0x40000⟩) (.ldGB64 _ _ 0 _ _)
    spillState_ctx (by unfold Ctx.Readable; decide +kernel) (by unfold Aligned; decide +kernel)
    (by unfold State.GLoads; decide +kernel) nofun
  obtain ⟨t, c', hexec, hdone, -, hwrote, -⟩ := hnow spillCtx_first
  rw [spillCtx_perf] at hwrote
  exact not_wroteR_of_spill spillCtx_oreg (by decide +kernel) hexec hdone.ctx hwrote

/-- Refutes O37, by `waita` with the pair that `o7` does not name: the watched word is 0 and was to change from 2^32. -/
theorem not_watchWords : ¬ Obligations.WatchWords := by
  unfold Obligations.WatchWords
  rintro ⟨-, h⟩
  obtain ⟨-, hnow⟩ := h spillState spillCtx (.o 7) (.w 2) 0 .wv .rlx (fun _ => ⟨.dev, 0x40000⟩) spillState_ctx
    (by unfold Ctx.Readable; decide +kernel) (by unfold Aligned; decide +kernel)
    (fun _ _ _ _ _ hwait => absurd (show spillCtx.path.wait = .none by decide +kernel) (by simp [hwait]))
  obtain ⟨hchanged, -⟩ := hnow (by unfold State.GLoads; decide +kernel) spillCtx_first nofun (by decide +kernel)
  obtain ⟨t, c', hexec, -, hc', -, -, hwrote, -⟩ := hchanged (by decide +kernel)
  rw [spillCtx_perf] at hwrote
  exact not_wroteR_of_spill spillCtx_oreg (by decide +kernel) hexec hc' hwrote

/-! ### Atomics -/

/-- Refutes O34, by `atom.s.b64` with `o7`. -/
theorem not_scratchpadAtomicsComplete : ¬ Obligations.ScratchpadAtomicsComplete := by
  unfold Obligations.ScratchpadAtomicsComplete
  intro h
  obtain ⟨hnow, -⟩ := h spillState spillCtx _ (.o 7) .z .add true .bd .rlx (fun _ => .sp 1 0) (.atomSB64 ..) spillState_ctx
    (by unfold Ctx.Readable; decide +kernel) (by unfold Aligned; decide +kernel) (by unfold State.SpLoads; decide +kernel)
    spillCtx_first spillState_noneHeld
  obtain ⟨t, c', hexec, hdone, -, hwrote, -⟩ := hnow (by decide +kernel)
  rw [spillCtx_perf] at hwrote
  exact not_wroteR_of_spill spillCtx_oreg (by decide +kernel) hexec hdone.ctx hwrote

/-- The atomic of thread 0 upon the loaded page: what it leaves, where it went, and what stood there. -/
def spillAtom : Option (State × List (Phys × List Byte) × (Nat → DWord)) :=
  spillState.glAtoms spillCtx (fun t => (spillCtx.v64 t (.w 2)).toNat) 8 true
    (fun t old => atomValue true .add old (spillCtx.atomOps (.o 7) true t).1 (spillCtx.atomOps (.o 7) true t).2) spillCtx.perf

/-- Refutes O35, by `atom.g.b64` with `o7`. -/
theorem not_globalAtomicsComplete : ¬ Obligations.GlobalAtomicsComplete := by
  unfold Obligations.GlobalAtomicsComplete
  intro h
  obtain ⟨hnow, -⟩ := h spillState spillCtx _ (.o 7) (.w 2) .add true .dev .rlx (.atomGB64 ..) spillState_ctx
    (by unfold Ctx.Readable; decide +kernel) (by unfold Aligned; decide +kernel) spillCtx_first spillState_noneHeld
  obtain ⟨⟨u, ps, old⟩, hatom⟩ : ∃ r, spillAtom = some r := Option.isSome_iff_exists.1 (by decide +kernel)
  obtain ⟨t, c', hexec, hdone, -, -, hwrote, -⟩ := hnow u ps old (by decide +kernel) (by decide +kernel) (by decide +kernel) hatom
  rw [spillCtx_perf] at hwrote
  exact not_wroteR_of_spill spillCtx_oreg (by decide +kernel) hexec hdone.ctx hwrote

/-! ### Loads that read later -/

/-- A load of thread 0 that has issued and not read yet. -/
def spillLoad : Load := ⟨0, false, .sp 1 0, 8, false, .o 7⟩

def lateState : State := spillState.modWave 1 0 fun w => { w with loads := [spillLoad] }

/-- What its path belongs to. -/
def lateCtx : Ctx := (lateState.ctxAt bootRef).get (by decide +kernel)

theorem lateState_ctxAt : lateState.ctxAt bootRef = some lateCtx := (Option.some_get _).symm

/-- Refutes O53, by its clause on loads that read later, of one into `o7`. -/
theorem not_accessesComplete : ¬ Obligations.AccessesComplete := by
  unfold Obligations.AccessesComplete
  rintro ⟨-, -, -, -, -, -, -, -, hlate, -⟩
  obtain ⟨t, c', hexec, -, hc', -, -, hwrote, -⟩ := hlate lateState ⟨1, 0⟩ 0 spillLoad lateCtx _ _
    (.scratchpadAccessComplete 1 0 lateState_ctxAt rfl) (by decide +kernel) (by decide +kernel)
  exact not_wroteR_of_spill (by decide +kernel) (by decide +kernel) hexec hc' hwrote

end Sys2Proof.Machine
end

section
/-! SUPPORT. Threads that access memory one after the other, and what stands beside their accesses (O31, O32, O33, O36). -/

namespace Sys2Proof.Machine

/-! ### Threads in turn (R160) -/

section

variable {f : State → Nat → Except AFault State} {c : Ctx} {ts : List Nat} {s u : State}

/-- The threads of a list make the access `f` one after the other, and each of them succeeds. -/
inductive InTurn (f : State → Nat → Except AFault State) : List Nat → State → State → Prop where
  | nil (s : State) : InTurn f [] s s
  | cons {t : Nat} {ts : List Nat} {s s1 u : State} (h : f s t = .ok s1) (r : InTurn f ts s1 u) : InTurn f (t :: ts) s u

theorem accessAll_of_inTurn (hc : c.Together) (loc : Nat → Option Target) (h : InTurn f ts s u) :
    s.accessAll c ts loc f = u.complete c ts := by
  have heach : s.eachThread c loc f ts [] = (u, ⟨[], []⟩) := by
    induction h with
    | nil => rfl
    | cons h _ ih =>
      simp only [State.eachThread, mustWait_false _ _ _ hc, State.tryThread, failedThread_none _ _ _ hc, h]
      exact ih
  simp [State.accessAll, heach, hc.2.1]

theorem rowsAll_of_inTurn (hc : c.Together) (k : State → List Nat → State) (h : InTurn f ts s u) :
    s.rowsAll c ts f k = (k u c.perf).complete c c.perf := by
  have hrows : s.rows c f ts = (u, none) := by
    induction h with
    | nil => rfl
    | cons h _ ih =>
      simp only [State.rows, mustWait_false _ _ _ hc, State.tryThread, failedThread_none _ _ _ hc, h]
      exact ih
  rw [State.rowsAll, hrows]

/-- Threads whose accesses keep `P`, which speaks of those that have made theirs, all make them. -/
theorem InTurn.of_invariant {P : List Nat → State → Prop} (h0 : P [] s)
    (hstep : ∀ done t rest v, ts = done ++ t :: rest → P done v → ∃ v', f v t = .ok v' ∧ P (done ++ [t]) v') :
    ∃ u, InTurn f ts s u ∧ P ts u := by
  suffices key : ∀ rest done v, ts = done ++ rest → P done v → ∃ u, InTurn f rest v u ∧ P ts u from key ts [] s rfl h0
  intro rest
  induction rest with
  | nil =>
    intro done v hts hv
    rw [List.append_nil] at hts
    exact ⟨v, .nil v, hts ▸ hv⟩
  | cons t rest ih =>
    intro done v hts hv
    obtain ⟨v', hf, hv'⟩ := hstep done t rest v hts hv
    obtain ⟨u, hu, hP⟩ := ih (done ++ [t]) v' (by simp [hts]) hv'
    exact ⟨u, .cons hf hu, hP⟩

/-- Threads that lead through the states `U`, each named by those that have made their access. -/
theorem InTurn.of_states (U : List Nat → State) (h0 : U [] = s)
    (hstep : ∀ done t rest, ts = done ++ t :: rest → f (U done) t = .ok (U (done ++ [t]))) : InTurn f ts s (U ts) := by
  obtain ⟨u, hu, rfl⟩ := InTurn.of_invariant (f := f) (ts := ts) (P := fun done v => v = U done) h0.symm
    fun done t rest v hts hv => ⟨_, hv ▸ hstep done t rest hts, rfl⟩
  exact hu

end

/-! ### Groups and waves changed one after the other -/

theorem State.modGroup_modGroup (s : State) (g : Nat) (F G : Group → Group) (hF : ∀ y, (F y).id = y.id) :
    (s.modGroup g F).modGroup g G = s.modGroup g fun y => G (F y) := by
  simp only [State.modGroup, List.map_map]
  congr 1
  refine List.map_congr_left fun y _ => ?_
  by_cases h : y.id = g <;> simp [h, hF]

theorem State.modGroup_comm (s : State) (a b : Nat) {F G : Group → Group} (hF : ∀ y, (F y).id = y.id) (hG : ∀ y, (G y).id = y.id)
    (h : ∀ y, G (F y) = F (G y)) : (s.modGroup a F).modGroup b G = (s.modGroup b G).modGroup a F := by
  simp only [State.modGroup, List.map_map]
  congr 1
  refine List.map_congr_left fun y _ => ?_
  by_cases ha : y.id = a
  · by_cases hb : y.id = b
    · simp [← ha, ← hb, hF, hG, h]
    · simp [← ha, hb, hF]
  · by_cases hb : y.id = b
    · simp [← hb, ha, hG]
    · simp [ha, hb]

theorem GroupBlind.modGroup {k : State → State} (h : GroupBlind k) (s : State) (g : Nat) (F : Group → Group) :
    k (s.modGroup g F) = (k s).modGroup g F := by
  have e : (k s).modGroup g F = (k s).withGroups (s.modGroup g F).groups := by
    simp only [State.modGroup, State.withGroups, h.groups]
  exact (h.blind s _).trans e.symm

/-- A change that leaves the wave which it is for as it is. -/
theorem State.modWave_eq_of {s : State} {g x : Nat} {f : Wave → Wave}
    (h : ∀ y ∈ s.groups, y.id = g → ∀ w ∈ y.waves, w.wix = x → f w = w) : s.modWave g x f = s := by
  have hgroups : s.groups.map (fun y => if y.id = g then y.modWave x f else y) = s.groups.map id := by
    refine List.map_congr_left fun y hy => ?_
    split
    · next hg =>
      have hwaves : y.waves.map (fun w => if w.wix = x then f w else w) = y.waves.map id :=
        List.map_congr_left fun w hw => by
          split
          · next hx => exact h y hy hg w hw hx
          · rfl
      rw [Group.modWave, hwaves, List.map_id]
      rfl
    · rfl
  rw [State.modWave, State.modGroup, hgroups, List.map_id]

/-- The count of lines of a group changed (R304). -/
def Group.withLines (l : Sparse 8 → Sparse 8) (g : Group) : Group := { g with lines := l g.lines }

/-- The lines of a group and one of its waves changed: what stands beside the memory that an access changes. -/
def State.aside (s : State) (r : PathRef) (l : Sparse 8 → Sparse 8) (f : Wave → Wave) : State :=
  (s.modGroup r.group (Group.withLines l)).modWave r.group r.wix f

section

variable {s : State} {r : PathRef} {l : Sparse 8 → Sparse 8} {f : Wave → Wave}

theorem State.modGroup_id (s : State) (g : Nat) : s.modGroup g (Group.withLines id) = s := by
  have h : s.groups.map (fun y => if y.id = g then Group.withLines id y else y) = s.groups.map id :=
    List.map_congr_left fun y _ => ite_self y
  rw [State.modGroup, h, List.map_id]

theorem State.aside_id (s : State) (r : PathRef) (f : Wave → Wave) : s.aside r id f = s.modWave r.group r.wix f := by
  rw [State.aside, State.modGroup_id]

theorem State.aside_modWave (s : State) (r : PathRef) (l : Sparse 8 → Sparse 8) {f : Wave → Wave} (hf : ∀ w, (f w).wix = w.wix)
    (h : Wave → Wave) : (s.aside r l f).modWave r.group r.wix h = s.aside r l fun w => h (f w) :=
  State.modWave_modWave _ _ _ f h hf

theorem State.aside_touch (s : State) (r : PathRef) (l : Sparse 8 → Sparse 8) (f : Wave → Wave) (va n : Nat) :
    ∃ l', (s.aside r l f).touch r.group va n = s.aside r l' f := by
  refine ⟨fun m => (List.range ((va + n - 1) / 128 + 1 - va / 128)).foldl (fun m i => m.set (va / 128 + i) 1) (l m), ?_⟩
  let k : Sparse 8 → Sparse 8 := fun m => (List.range ((va + n - 1) / 128 + 1 - va / 128)).foldl (fun m i => m.set (va / 128 + i) 1) m
  calc (s.aside r l f).touch r.group va n
    _ = ((s.modGroup r.group (Group.withLines l)).modGroup r.group (Group.withLines k)).modWave r.group r.wix f :=
      State.modGroup_comm _ _ _ (F := fun y => y.modWave r.wix f) (G := Group.withLines k) (fun _ => rfl) (fun _ => rfl) fun _ => rfl
    _ = s.aside r (fun m => k (l m)) f := by
      rw [State.modGroup_modGroup _ _ (Group.withLines l) (Group.withLines k) fun _ => rfl]
      rfl

theorem GroupBlind.aside {k : State → State} (h : GroupBlind k) : k (s.aside r l f) = (k s).aside r l f := by
  rw [State.aside, h.modWave, h.modGroup]
  rfl

theorem onlyAccess_aside (hf : ∀ w, (f w).wix = w.wix) : OnlyAccess r s (s.aside r l f) where
  rest := rfl
  groups := by
    simp only [State.aside, State.modWave, State.modGroup, List.map_map]
    refine List.map_congr_left fun y _ => ?_
    by_cases h : y.id = r.group <;> simp [h, bare, Group.modWave, Group.withLines]
  waves g x h := by
    have hgx : ¬(g = r.group ∧ x = r.wix) := fun e => h (by rw [e.1, e.2])
    rw [State.aside, State.wave?_modWave _ _ _ _ _ _ hf]
    simp only [hgx, if_false, Option.map_id']
    exact State.wave?_modGroup (Group.withLines l) (fun _ => rfl) (fun _ => rfl) ..

end

/-- A group without its waves is none the wiser of a change of its lines or scratchpad: the path is found as before. -/
theorem State.ctxAt_modGroup {s : State} {r : PathRef} {c : Ctx} (h : s.ctxAt r = some c) (g : Nat) (F : Group → Group)
    (hF : ∀ y, ((F y).id, (F y).waves, (F y).launch) = (y.id, y.waves, y.launch)) :
    ∃ y, (s.modGroup g F).ctxAt r = some { c with group := y } := by
  have hid : ∀ y, (F y).id = y.id := fun y => (Prod.mk.inj (hF y)).1
  have hwaves : ∀ y, (F y).waves = y.waves := fun y => (Prod.mk.inj (Prod.mk.inj (hF y)).2).1
  have hlaunch : ∀ y, (F y).launch = y.launch := fun y => (Prod.mk.inj (Prod.mk.inj (hF y)).2).2
  obtain ⟨rfl, hg, hw, hp, hl⟩ := State.ctxAt_eq h
  refine ⟨if c.ref.group = g then F c.group else c.group, State.ctxAt_mk ?_ ?_ hp ?_⟩
  · rw [State.group?_modGroup _ _ _ _ hid, hg]
    rfl
  · split
    · rwa [Group.wave?, hwaves]
    · exact hw
  · split
    · rwa [hlaunch]
    · exact hl

theorem State.ctxAt_aside {s : State} {c : Ctx} (h : s.ctxAt c.ref = some c) (l : Sparse 8 → Sparse 8) (f : Wave → Wave) {q : Path}
    (hf : ∀ w, (f w).wix = w.wix) (hq : (f c.wave).path? c.ref.slot = some q) :
    ∃ y, (s.aside c.ref l f).ctxAt c.ref = some ⟨c.ref, y, f c.wave, q, c.launch⟩ := by
  obtain ⟨y, hy⟩ := State.ctxAt_modGroup h c.ref.group (Group.withLines l) fun _ => rfl
  exact ⟨_, State.ctxAt_modWave (c := { c with group := y }) hy f hf hq⟩

/-! ### What a wave has pending (R217, R220, R232; log 7) -/

/-- A wave that holds back more stores and has more entries in its commit buffer; what its threads have read early may differ. -/
def Wave.pend (e : List Held → List Held) (hs : List Held) (es : List CEntry) (w : Wave) : Wave :=
  { w with early := e w.early, held := w.held ++ hs, cbuf := w.cbuf ++ es }

/-- Beside lines and early reads, the wave has come to hold back `hs` and to buffer `es`. -/
def Pends (r : PathRef) (l : Sparse 8 → Sparse 8) (hs : List Held) (es : List CEntry) (s u : State) : Prop :=
  ∃ e, u = s.aside r l (Wave.pend e hs es)

theorem Wave.pend_nil (w : Wave) : w.pend id [] [] = w := by
  simp [Wave.pend]

section

variable {c : Ctx} {r : PathRef} {l : Sparse 8 → Sparse 8} {hs : List Held} {es : List CEntry} {s u : State}

theorem Pends.refl (r : PathRef) (s : State) : Pends r id [] [] s s := by
  refine ⟨id, ?_⟩
  rw [State.aside_id, funext Wave.pend_nil, State.modWave_id]

theorem Pends.touch (h : Pends r l hs es s u) (va n : Nat) : ∃ l', Pends r l' hs es s (u.touch r.group va n) := by
  obtain ⟨e, rfl⟩ := h
  obtain ⟨l', hl'⟩ := s.aside_touch r l (Wave.pend e hs es) va n
  exact ⟨l', e, hl'⟩

theorem Pends.blind (h : Pends r l hs es s u) {k : State → State} (hk : GroupBlind k) : Pends r l hs es (k s) (k u) := by
  obtain ⟨e, rfl⟩ := h
  exact ⟨e, hk.aside⟩

theorem Pends.voidOwn (h : Pends c.ref l hs es s u) (x : Held) : Pends c.ref l hs es s (u.voidOwn c x) := by
  obtain ⟨e, rfl⟩ := h
  exact ⟨fun es => (e es).filter fun y => !(y.thread == x.thread && y.meets x),
    s.aside_modWave _ l (f := Wave.pend e hs es) (fun _ => rfl) _⟩

theorem Pends.hold (h : Pends c.ref l hs es s u) (x : Held) : Pends c.ref l (hs ++ [x]) es s (u.hold c x) := by
  obtain ⟨e, hu⟩ := h.voidOwn x
  refine ⟨e, ?_⟩
  rw [State.hold, hu, s.aside_modWave _ l (f := Wave.pend e hs es) fun _ => rfl]
  congr 1
  funext w
  simp [Wave.pend]

theorem Pends.buffer (h : Pends c.ref l hs es s u) (x : CEntry) : Pends c.ref l hs (es ++ [x]) s (u.buffer c x) := by
  obtain ⟨e, rfl⟩ := h
  refine ⟨e, ?_⟩
  rw [State.buffer, s.aside_modWave _ l (f := Wave.pend e hs es) fun _ => rfl]
  congr 1
  funext w
  simp [Wave.pend]

theorem Pends.ctxAt (h : Pends c.ref l hs es s u) (hc : s.ctxAt c.ref = some c) :
    ∃ y e, u.ctxAt c.ref = some { c with group := y, wave := c.wave.pend e hs es } := by
  obtain ⟨e, rfl⟩ := h
  obtain ⟨y, hy⟩ := State.ctxAt_aside hc l (Wave.pend e hs es) (fun _ => rfl) (State.ctxAt_eq hc).2.2.2.1
  exact ⟨y, e, hy⟩

theorem Pends.complete (h : Pends c.ref l hs es s u) (ts : List Nat) :
    ∃ f, (∀ w, (f w).wix = w.wix) ∧ u.complete c ts = s.aside c.ref l f := by
  obtain ⟨e, rfl⟩ := h
  exact ⟨fun w => c.stepOn ts (w.pend e hs es), fun w => c.stepOn_wix ts _,
    s.aside_modWave _ l (f := Wave.pend e hs es) (fun _ => rfl) (c.stepOn ts)⟩

theorem Pends.onlyAccess (h : Pends c.ref l hs es s u) (ts : List Nat) : OnlyAccess c.ref s (u.complete c ts) := by
  obtain ⟨f, hf, hu⟩ := h.complete ts
  exact hu ▸ onlyAccess_aside hf

end

/-- A word completed by a wave that has something pending: it has done no more. -/
theorem complete_pending {u : State} {c : Ctx} {y : Group} {e : List Held → List Held} {hs : List Held} {es : List CEntry}
    (hcur : u.cur = some c.ref) (hu : u.ctxAt c.ref = some { c with group := y, wave := c.wave.pend e hs es }) {ts : List Nat}
    (hts : ts.Nodup) :
    ∃ c', (u.complete c ts).ctxAt c.ref = some c' ∧ c'.path = c.path.next ∧ c'.wave.held = c.wave.held ++ hs
      ∧ c'.wave.cbuf = c.wave.cbuf ++ es ∧ (hs = [] → es = [] → Finished c ts (u.complete c ts) c')
      ∧ SameV c c' ∧ SameS c c' ∧ SameP c c' ∧ SameL c c' := by
  let c1 : Ctx := { c with group := y, wave := c.wave.pend e hs es }
  have hctx : u.ctx = some c1 := by rw [State.ctx, hcur]; exact hu
  obtain ⟨c', hdone, hv, hs', hp, hl⟩ := passed_of_complete hctx ts hts
  have hc' : c' = ⟨c.ref, y.modWave c.ref.wix (c.stepOn ts), c.stepOn ts c1.wave, c.path.onward (c.path.pc + 4), c.launch⟩ := by
    have hpath : (c.stepOn ts c1.wave).path? c.ref.slot = some (c.path.onward (c.path.pc + 4)) := by
      have hslot : (if c.path.priv then c1.wave else c1.wave.retire ts c.path.counted).path? c.ref.slot = some c.path := by
        rw [← (State.ctxAt_eq hu).2.2.2.1]
        split <;> rfl
      simp [Ctx.stepOn, hslot]
    have h := State.ctxAt_modWave (c := c1) hu (c.stepOn ts) (fun w => c.stepOn_wix ts w) hpath
    exact Option.some.inj (hdone.ctx.symm.trans h)
  refine ⟨c', hdone.ctx, ?_, ?_, ?_, fun h1 h2 => ?_, hv, hs', hp, hl⟩
  · rw [hc']; rfl
  · rw [hc']
    simp only [Ctx.stepOn]
    cases c.path.priv <;> cases c.ref.slot <;> rfl
  · rw [hc']
    simp only [Ctx.stepOn]
    cases c.path.priv <;> cases c.ref.slot <;> rfl
  · subst h1 h2
    obtain ⟨hctx', hpath, hgood, hother, hwave, hbad, hcounts, hdone'⟩ := hdone.toFinished
    refine ⟨hctx', hpath, hgood, hother, ?_, hbad, hcounts, hdone'⟩
    have h := congrArg (fun w : Wave => { w with early := c.wave.early }) hwave
    simp only [c1, Wave.pend, List.append_nil] at h
    exact h

end Sys2Proof.Machine
end

section
/-! SUPPORT. Stores at cluster addresses: at once, held back, or visible to one scope only (O31). -/

namespace Sys2Proof.Machine

/-! ### Releases that find nothing to perform (R220, R221; log 7) -/

/-- The wave of a path holds back no store. -/
def State.HoldsNone (s : State) (r : PathRef) : Prop :=
  ∀ g ∈ s.groups, g.id = r.group → ∀ w ∈ g.waves, w.wix = r.wix → w.held = []

theorem State.NoneHeld.holdsNone {s : State} {r : PathRef} (h : s.NoneHeld r) : s.HoldsNone r := h.2

/-- The wave of a path has issued no load that reads later. -/
def State.NoLoads (s : State) (r : PathRef) : Prop := ∀ w, s.wave? r.group r.wix = some w → w.loads = []

theorem State.wave?_of_ctxAt {s : State} {r : PathRef} {c : Ctx} (h : s.ctxAt r = some c) : s.wave? r.group r.wix = some c.wave := by
  obtain ⟨-, hg, hw, -⟩ := State.ctxAt_eq h
  rw [State.wave?, hg]
  exact hw

theorem State.noLoads_of_ctxAt {s : State} {r : PathRef} {c : Ctx} (h : s.ctxAt r = some c) (hl : c.wave.loads = []) : s.NoLoads r :=
  fun w hw => by rwa [Option.some.inj (hw.symm.trans (State.wave?_of_ctxAt h))]

theorem State.wave?_mem_group {s : State} {g x : Nat} {w : Wave} (h : s.wave? g x = some w) :
    ∃ y ∈ s.groups, y.id = g ∧ w ∈ y.waves ∧ w.wix = x := by
  obtain ⟨y, hy, hw⟩ := Option.bind_eq_some_iff.1 h
  exact ⟨y, List.mem_of_find?_eq_some hy, by simpa using List.find?_some hy, List.mem_of_find?_eq_some hw,
    by simpa using List.find?_some hw⟩

theorem State.HoldsNone.modWave {s : State} {r : PathRef} (h : s.HoldsNone r) (g x : Nat) {f : Wave → Wave}
    (hf : ∀ w, (f w).wix = w.wix) (hh : ∀ w, w.held = [] → (f w).held = []) : (s.modWave g x f).HoldsNone r := by
  intro y hy hg w hw hx
  obtain ⟨z, hz, rfl⟩ := List.mem_map.1 hy
  split at hw
  · next hid =>
    obtain ⟨v, hv, rfl⟩ := List.mem_map.1 hw
    rw [if_pos hid] at hg
    split at hx
    · next hvx =>
      rw [if_pos hvx]
      exact hh v (h z hz hg v hv ((hf v).symm.trans hx))
    · next hvx =>
      rw [if_neg hvx]
      exact h z hz hg v hv hx
  · next hid =>
    rw [if_neg hid] at hg
    exact h z hz hg w hw hx

theorem splitNear_eq_of_none {pick : Near → Bool} {xs : List Near} (h : ∀ x ∈ xs, pick x = false) : splitNear pick xs = ([], xs) := by
  induction xs with
  | nil => rfl
  | cons x xs ih =>
    obtain ⟨hx, hxs⟩ := List.forall_mem_cons.1 h
    rw [splitNear, List.foldr_cons, ← splitNear, ih hxs]
    simp [hx]

theorem performNear_eq_self {s : State} {pick : Near → Bool} (h : ∀ x ∈ s.near, pick x = false) : s.performNear pick = s := by
  rw [State.performNear, splitNear_eq_of_none h]
  rfl

/-- A release leaves the state: the wave holds nothing back, and what agents of the level see is seen there already. -/
theorem release_eq_self {s : State} {r : PathRef} {n : Nat} (hheld : s.HoldsNone r)
    (hnear : ∀ y ∈ s.near, s.relaxed = true ∧ n < y.store.target.top ∧ n ≤ y.reach) : s.release r.group r.wix n = s := by
  simp only [State.release]
  cases hg : s.group? r.group with
  | none => rfl
  | some x =>
    cases hw : x.wave? r.wix with
    | none => simp only [hw]
    | some w =>
      have hwave : s.wave? r.group r.wix = some w := by rw [State.wave?, hg]; exact hw
      obtain ⟨y, hy, hyg, hwy, hwx⟩ := State.wave?_mem_group hwave
      have hempty : w.held = [] := hheld y hy hyg w hwy hwx
      have hpick : ∀ y ∈ s.near,
          (y.seenBy x r.wix && decide (y.store.target.top ≤ if s.relaxed = true then n else 4)) = false := by
        intro y hy
        obtain ⟨hrel, htop, -⟩ := hnear y hy
        simp only [hrel, if_true, Bool.and_eq_false_iff, decide_eq_false_iff_not]
        exact .inr (by omega)
      have hmap : s.near.map (fun y => if y.seenBy x r.wix = true then
          { y with reach := max y.reach (if s.relaxed = true then n else 4) } else y) = s.near := by
        conv_rhs => rw [← List.map_id s.near]
        refine List.map_congr_left fun y hy => ?_
        obtain ⟨hrel, -, hreach⟩ := hnear y hy
        split
        · simp only [max_eq_left hreach]
          rfl
        · rfl
      simp only [hw, performNear_eq_self hpick, hmap, hempty, List.foldl_nil]
      exact State.modWave_eq_of fun y hy hg w hw hx => by rw [← hheld y hy hg w hw hx]

theorem release_of_noneHeld {s : State} {r : PathRef} (h : s.NoneHeld r) (n : Nat) : s.release r.group r.wix n = s :=
  release_eq_self h.holdsNone fun y hy => by rw [h.1] at hy; cases hy

theorem loadsFirst_eq_self {s : State} {c : Ctx} (h : s.NoLoads c.ref) (t : Nat) (p : Option Target) (n : Nat) :
    s.loadsFirst c t p n = s := by
  unfold State.loadsFirst
  cases p with
  | none => rfl
  | some q =>
    cases hw : s.wave? c.ref.group c.ref.wix with
    | none => rfl
    | some w => simp [h w hw]

/-! ### A store that is performed now (R217, R221) -/

theorem put_unrelaxed {s : State} (hr : s.relaxed = false) (c : Ctx) (h : Held) : s.put c h = s.perform h := by
  simp [State.put, State.land, hr]

/-- A store whose scope reaches every agent. -/
theorem put_wide {s : State} (hr : s.relaxed = true) (hn : s.near = []) (c : Ctx) {h : Held} (ht : h.target.top ≤ h.scope) :
    s.put c h = (s.voidOwn c h).perform h := by
  have hnear : ∀ x ∈ (s.voidOwn c h).near, (x.seenBy c.group c.ref.wix && x.store.meets h) = false := by
    intro x hx
    change x ∈ s.near at hx
    rw [hn] at hx
    cases hx
  have hr' : (s.voidOwn c h).relaxed = true := hr
  rw [State.put, if_pos hr, State.land, if_pos hr', State.spread, if_pos ht, performNear_eq_self hnear]

/-- A store of a narrower scope is visible to the agents of its scope. -/
def Ctx.stands (c : Ctx) (h : Held) : Near := ⟨c.group.id, c.ref.wix, c.group.cluster, h.scope, h⟩

theorem put_narrow {s : State} (hr : s.relaxed = true) (c : Ctx) {h : Held} (ht : h.scope < h.target.top) :
    s.put c h = { s.voidOwn c h with near := s.near ++ [c.stands h] } := by
  have hr' : (s.voidOwn c h).relaxed = true := hr
  rw [State.put, if_pos hr, State.land, if_pos hr', State.spread, if_neg (by omega)]
  rfl

/-! ### A store at a cluster address (R144, R161) -/

section

variable {s : State} {c : Ctx} {t ea : Nat} {bs : List Byte} {sc : Scope} {o : Order} {p : SpPlace}

/-- The store of a thread at scratchpad bytes. -/
def spHeld (t g a : Nat) (bs : List Byte) (sc : Scope) : Held := ⟨t, .sp g a, bs, scopeLevel sc⟩

theorem sStore_unrelaxed (hp : s.spPlace c.group true ea bs.length = .ok p) (hn : s.netFails c ea = false) (hr : s.relaxed = false)
    (hh : s.NoneHeld c.ref) : s.sStore c t ea bs sc o = .ok (s.spWrite p bs) := by
  have hrel : (if (o == .rlx) = true then s else s.release c.ref.group c.ref.wix (spLevel sc)) = s := by
    rw [release_of_noneHeld hh, ite_self]
  simp only [State.sStore, hp, hn, hrel, hr, Bool.false_and, Bool.false_eq_true, if_false]
  cases p with
  | sp g a => simp only [SpPlace.stores, List.foldl_cons, List.foldl_nil, put_unrelaxed hr]; rfl
  | reg => rfl

theorem sStore_wide {g a : Nat} (hp : s.spPlace c.group true ea bs.length = .ok (.sp g a)) (hn : s.netFails c ea = false)
    (hr : s.relaxed = true) (ho : o ≠ .rlx) (hsc : 2 ≤ scopeLevel sc) (hh : s.NoneHeld c.ref) :
    s.sStore c t ea bs sc o = .ok ((s.voidOwn c (spHeld t g a bs sc)).spWrite (.sp g a) bs) := by
  have hrlx : (o == .rlx) = false := by simpa using ho
  have hput : s.put c (spHeld t g a bs sc) = (s.voidOwn c (spHeld t g a bs sc)).perform (spHeld t g a bs sc) :=
    put_wide hr hh.1 c hsc
  simp only [State.sStore, hp, hn, hrlx, release_of_noneHeld hh, Bool.and_false, Bool.false_eq_true, if_false, SpPlace.stores,
    List.foldl_cons, List.foldl_nil]
  exact congrArg Except.ok hput

theorem sStore_held (hp : s.spPlace c.group true ea bs.length = .ok p) (hn : s.netFails c ea = false) (hr : s.relaxed = true)
    (ho : o = .rlx ∨ (s.NoneHeld c.ref ∧ ∃ g x u k i, p = .reg g x u k i)) :
    s.sStore c t ea bs sc o = .ok ((p.stores t (scopeLevel sc) bs).foldl (fun u h => u.hold c h) s) := by
  rcases ho with rfl | ⟨hh, g, x, u, k, i, rfl⟩
  · have hrlx : (Order.rlx == Order.rlx) = true := rfl
    simp only [State.sStore, hp, hn, hr, hrlx, Bool.and_self, Bool.false_eq_true, if_false, if_true]
    cases p <;> rfl
  · simp only [State.sStore, hp, hn, hr, release_of_noneHeld hh, ite_self, Bool.false_eq_true, if_false, if_true]

theorem sStore_narrow {g a : Nat} (hp : s.spPlace c.group true ea bs.length = .ok (.sp g a)) (hn : s.netFails c ea = false)
    (hr : s.relaxed = true) (ho : o ≠ .rlx) (hsc : scopeLevel sc < 2) (hh : s.HoldsNone c.ref)
    (hnear : ∀ y ∈ s.near, scopeLevel sc < y.store.target.top ∧ scopeLevel sc ≤ y.reach) :
    s.sStore c t ea bs sc o =
      .ok { s.voidOwn c (spHeld t g a bs sc) with near := s.near ++ [c.stands (spHeld t g a bs sc)] } := by
  have hrlx : (o == .rlx) = false := by simpa using ho
  have hlevel : spLevel sc = scopeLevel sc := min_eq_left (by omega)
  have hrel : s.release c.ref.group c.ref.wix (spLevel sc) = s :=
    release_eq_self hh fun y hy => by rw [hlevel]; exact ⟨hr, hnear y hy⟩
  have hput : s.put c (spHeld t g a bs sc) = { s.voidOwn c (spHeld t g a bs sc) with near := s.near ++ [c.stands (spHeld t g a bs sc)] } :=
    put_narrow hr c hsc
  simp only [State.sStore, hp, hn, hrlx, hrel, Bool.and_false, Bool.false_eq_true, if_false, SpPlace.stores, List.foldl_cons,
    List.foldl_nil]
  exact congrArg Except.ok hput

end

/-! ### What stays of places, waves and addresses while threads store -/

section

variable {s t : State}

theorem spPlace_of_layout (h : t.layout = s.layout) (g : Group) (apert : Bool) (ea n : Nat) :
    t.spPlace g apert ea n = s.spPlace g apert ea n := by
  rw [← t.spPlace_layout, h, s.spPlace_layout]

theorem wave_of_layout (h : t.layout = s.layout) {y : Group} (hy : y ∈ t.groups) {w : Wave} (hw : w ∈ y.waves) :
    ∃ z ∈ s.groups, z.id = y.id ∧ ∃ v ∈ z.waves, v.layout = w.layout := by
  have hgroups : t.groups.map Group.layout = s.groups.map Group.layout := congrArg State.groups h
  obtain ⟨z, hz, hzy⟩ := List.mem_map.1 (hgroups ▸ List.mem_map_of_mem hy)
  have hwaves : z.waves.map Wave.layout = y.waves.map Wave.layout := congrArg Group.waves hzy
  obtain ⟨v, hv, hvw⟩ := List.mem_map.1 (hwaves ▸ List.mem_map_of_mem hw)
  exact ⟨z, hz, (congrArg Group.id hzy :), v, hv, hvw⟩

theorem noneHeld_of_layout (h : t.layout = s.layout) {r : PathRef} (hs : s.NoneHeld r) : t.NoneHeld r := by
  refine ⟨(congrArg State.near h).trans hs.1, fun y hy hg w hw hx => ?_⟩
  obtain ⟨z, hz, hzy, v, hv, hvw⟩ := wave_of_layout h hy hw
  have hheld : v.held = w.held := (congrArg Wave.held hvw :)
  have hwix : v.wix = w.wix := (congrArg Wave.wix hvw :)
  exact hheld ▸ hs.2 z hz (hzy.trans hg) v hv (hwix.trans hx)

theorem noneEarly_of_layout (h : t.layout = s.layout) {r : PathRef} (hs : s.NoneEarly r) : t.NoneEarly r := by
  intro y hy hg w hw hx
  obtain ⟨z, hz, hzy, v, hv, hvw⟩ := wave_of_layout h hy hw
  have hearly : v.early = w.early := (congrArg Wave.early hvw :)
  have hwix : v.wix = w.wix := (congrArg Wave.wix hvw :)
  exact hearly ▸ hs z hz (hzy.trans hg) v hv (hwix.trans hx)

theorem noLoads_of_layout (h : t.layout = s.layout) {r : PathRef} (hs : s.NoLoads r) : t.NoLoads r := by
  intro w hw
  have hl : (s.wave? r.group r.wix).map Wave.layout = some w.layout := by
    rw [← s.wave?_layout, ← h, t.wave?_layout, hw, Option.map_some]
  obtain ⟨v, hv, hvw⟩ := Option.map_eq_some_iff.1 hl
  have hloads : v.loads = w.loads := (congrArg Wave.loads hvw :)
  exact hloads ▸ hs v hv

/-- What a change of a wave makes of the groups. -/
def Group.modWaveIn (g x : Nat) (f : Wave → Wave) (z : Group) : Group := if z.id = g then z.modWave x f else z

theorem Group.modWaveIn_eq (g x : Nat) (f : Wave → Wave) (z : Group) :
    z.modWaveIn g x f = { z with waves := (z.modWaveIn g x f).waves } := by
  unfold Group.modWaveIn
  split <;> rfl

theorem Group.find?_modWaveIn (g x : Nat) (f : Wave → Wave) {q : Group → Bool} (hq : ∀ z ws, q { z with waves := ws } = q z)
    (zs : List Group) : (zs.map (Group.modWaveIn g x f)).find? q = (zs.find? q).map (Group.modWaveIn g x f) := by
  rw [List.find?_map]
  congr 2
  funext z
  rw [Function.comp, Group.modWaveIn_eq, hq]

theorem Group.wave?_modWaveIn (g x k : Nat) {f : Wave → Wave} (hf : ∀ w, (f w).wix = w.wix) (z : Group) :
    (z.modWaveIn g x f).wave? k = (z.wave? k).map fun w => if z.id = g ∧ k = x then f w else w := by
  unfold Group.modWaveIn
  split
  · next h => simp [h, Group.wave?_modWave z x k f hf]
  · next h => simp [h]

/-- Where a cluster address reaches does not depend on what a wave has in its registers, or pending. -/
theorem spPlace_modWave (s : State) (g x : Nat) {f : Wave → Wave}
    (hf : ∀ w, ((f w).wix, (f w).threads, (f w).seg) = (w.wix, w.threads, w.seg)) (y : Group) (apert : Bool) (ea n : Nat) :
    (s.modWave g x f).spPlace y apert ea n = s.spPlace y apert ea n := by
  have htarget : ∀ k, (s.modWave g x f).target y k = (s.target y k).map (Group.modWaveIn g x f) := by
    intro k
    simp only [State.target]
    split
    · exact Group.find?_modWaveIn g x f (q := fun z => z.id == y.id) (fun _ _ => rfl) s.groups
    · split
      · rfl
      · exact Group.find?_modWaveIn g x f
          (q := fun z => !z.ended && z.band == y.band && z.cluster == y.cluster && z.lcore == (y.lcore + k) % 64)
          (fun _ _ => rfl) s.groups
  unfold State.spPlace
  rw [htarget]
  cases s.target y _ with
  | none => rfl
  | some z =>
    have hid : (z.modWaveIn g x f).id = z.id := by rw [Group.modWaveIn_eq]
    have hsize : (z.modWaveIn g x f).spsize = z.spsize := by rw [Group.modWaveIn_eq]
    simp only [Option.map_some, hid, hsize, Group.wave?_modWaveIn g x _ fun w => (Prod.mk.inj (hf w)).1]
    cases z.wave? _ with
    | none => rfl
    | some w =>
      obtain ⟨-, h⟩ := Prod.mk.inj (hf w)
      obtain ⟨hthreads, hseg⟩ := Prod.mk.inj h
      simp only [Option.map_some, apply_ite Wave.threads, apply_ite Wave.seg, hthreads, hseg, ite_self]

end

/-! ### Scratchpad stores (R161) -/

theorem alignTrap_eq_none {ea : Nat → Nat} {n : Nat} {ts : List Nat} (h : Aligned ea n ts) : alignTrap ea n ts = none := by
  have hmis : misaligned ea n ts = [] := List.filter_eq_nil_iff.2 fun t ht => by simp [h t ht]
  rw [alignTrap, hmis]
  rfl

theorem spTrap_eq_none {s : State} {c : Ctx} {apert : Bool} {ea : Nat → Nat} {n : Nat} {ts : List Nat} (ha : Aligned ea n ts)
    (hp : ∀ t ∈ ts, ∃ p, s.spPlace c.group apert (ea t) n = .ok p) : s.spTrap c apert ea n n ts = none := by
  have hfails : ∀ e, s.spFails c apert ea n e ts = [] := fun e => List.filter_eq_nil_iff.2 fun t ht => by
    obtain ⟨p, h⟩ := hp t ht
    simp [h]
  rw [State.spTrap, alignTrap_eq_none ha, hfails, hfails]
  rfl

/-- A thread of a wave stores some bytes: what it has read early of them is void. -/
def Wave.voiding (hs : List Held) (w : Wave) : Wave :=
  { w with early := w.early.filter fun x => hs.all fun h => !(x.thread == h.thread && x.meets h) }

/-- What a wave is when it has come to hold some stores back. -/
def Wave.holding (hs : List Held) (w : Wave) : Wave :=
  { w with
    held := w.held ++ hs
    early := w.early.filter fun x => hs.all fun h => !(x.thread == h.thread && x.meets h) }

theorem Wave.voiding_nil (w : Wave) : w.voiding [] = w := by
  simp [Wave.voiding]

theorem Wave.voiding_voiding (w : Wave) (hs : List Held) (h : Held) : (w.voiding hs).voiding [h] = w.voiding (hs ++ [h]) := by
  simp [Wave.voiding, Bool.and_comm]

theorem Wave.holding_nil (w : Wave) : w.holding [] = w := by
  simp [Wave.holding]

theorem Wave.holding_holding (w : Wave) (hs : List Held) (h : Held) : (w.holding hs).holding [h] = w.holding (hs ++ [h]) := by
  simp [Wave.holding, Bool.and_comm]

theorem voidOwn_eq (s : State) (c : Ctx) (h : Held) : s.voidOwn c h = s.modWave c.ref.group c.ref.wix (Wave.voiding [h]) :=
  congrArg (s.modWave c.ref.group c.ref.wix) (funext fun w => by simp [Wave.voiding])

theorem voidOwn_voiding (s : State) (c : Ctx) (hs : List Held) (h : Held) :
    (s.modWave c.ref.group c.ref.wix (Wave.voiding hs)).voidOwn c h = s.modWave c.ref.group c.ref.wix (Wave.voiding (hs ++ [h])) := by
  rw [voidOwn_eq, State.modWave_modWave _ _ _ (Wave.voiding hs) _ fun _ => rfl]
  simp only [Wave.voiding_voiding]

theorem voiding_of_noneEarly {s : State} {r : PathRef} (h : s.NoneEarly r) (hs : List Held) :
    s.modWave r.group r.wix (Wave.voiding hs) = s :=
  State.modWave_eq_of fun y hy hg w hw hx => by
    have he : w.early = [] := h y hy hg w hw hx
    rw [Wave.voiding, he, List.filter_nil, ← he]

theorem hold_eq (s : State) (c : Ctx) (h : Held) : s.hold c h = s.modWave c.ref.group c.ref.wix (Wave.holding [h]) := by
  rw [State.hold, voidOwn_eq, State.modWave_modWave s _ _ (Wave.voiding [h]) _ fun _ => rfl]
  rfl

theorem foldl_hold (s : State) (c : Ctx) (hs : List Held) :
    hs.foldl (fun u h => u.hold c h) s = s.modWave c.ref.group c.ref.wix (Wave.holding hs) := by
  induction hs using List.reverseRecOn with
  | nil => rw [funext Wave.holding_nil, State.modWave_id, List.foldl_nil]
  | append_singleton hs h ih =>
    rw [List.foldl_append, List.foldl_cons, List.foldl_nil, ih, hold_eq,
      State.modWave_modWave _ _ _ (Wave.holding hs) _ fun _ => rfl]
    simp only [Wave.holding_holding]

theorem State.NoLoads.modWave {s : State} {r : PathRef} (h : s.NoLoads r) (g x : Nat) {f : Wave → Wave}
    (hf : ∀ w, ((f w).wix, (f w).loads) = (w.wix, w.loads)) : (s.modWave g x f).NoLoads r := by
  intro w hw
  rw [State.wave?_modWave _ _ _ _ _ _ fun w => (Prod.mk.inj (hf w)).1] at hw
  obtain ⟨v, hv, rfl⟩ := Option.map_eq_some_iff.1 hw
  have hload : (f v).loads = v.loads := (Prod.mk.inj (hf v)).2
  split
  · exact hload.trans (h v hv)
  · exact h v hv

theorem State.NoneHeld.voiding {s : State} {r : PathRef} (h : s.NoneHeld r) (g x : Nat) (hs : List Held) :
    (s.modWave g x (Wave.voiding hs)).NoneHeld r :=
  ⟨h.1, h.holdsNone.modWave g x (fun _ => rfl) fun _ hw => hw⟩

/-- Scratchpad bytes and a wave change one after the other in either order. -/
theorem spWrite_modWave (s : State) (g x : Nat) {f : Wave → Wave} (a o : Nat) (bs : List Byte) :
    (s.modWave g x f).spWrite (.sp a o) bs = (s.spWrite (.sp a o) bs).modWave g x f :=
  State.modGroup_comm _ _ _ (F := fun y => y.modWave x f) (G := fun y => y.spWrite o bs) (fun _ => rfl) (fun _ => rfl) fun _ => rfl

/-- A scratchpad store by each thread in turn. -/
def Ctx.storesS (c : Ctx) (apert : Bool) (ea : Nat → Nat) (data : Nat → List Byte) (n : Nat) (sc : Scope) (o : Order) (s : State)
    (t : Nat) : Except AFault State :=
  (s.loadsFirst c t (s.spLoc c apert ea n t) n).sStore c t (ea t) (data t) sc o

section

variable {s : State} {c : Ctx} {apert : Bool} {ea : Nat → Nat} {data : Nat → List Byte} {n : Nat} {sc : Scope} {o : Order}
  {p : Nat → SpPlace} {us : List Nat}

theorem Ctx.storesS_eq (hl : s.NoLoads c.ref) (t : Nat) : c.storesS apert ea data n sc o s t = s.sStore c t (ea t) (data t) sc o := by
  rw [Ctx.storesS, loadsFirst_eq_self hl]

/-- What a scratchpad store of a word that comes first finds, in every state of one layout. -/
theorem State.SpStores.of_layout {u : State} {ts : List Nat} (h : u.layout = s.layout) (hp : s.SpStores c apert ea n ts p) :
    u.SpStores c apert ea n ts p := fun t ht =>
  ⟨(spPlace_of_layout h ..).trans (hp t ht).1, (netDown_of_layout h ..).trans (hp t ht).2⟩

theorem State.SpStores.modWave {ts : List Nat} (hp : s.SpStores c apert ea n ts p) (g x : Nat) {f : Wave → Wave}
    (hf : ∀ w, ((f w).wix, (f w).threads, (f w).seg) = (w.wix, w.threads, w.seg)) :
    (s.modWave g x f).SpStores c apert ea n ts p := fun t ht =>
  ⟨(spPlace_modWave s g x hf ..).trans (hp t ht).1, (hp t ht).2⟩

variable (hc : s.ctx = some c) (hf : c.First) (hlen : ∀ t, (data t).length = n) (hp : s.SpStores c true ea n us p)

include hc hf hlen hp

/-- At once: the bytes go where they belong, thread by thread. -/
theorem storesS_unrelaxed (hr : s.relaxed = false) (hh : s.NoneHeld c.ref) :
    InTurn (c.storesS apert ea data n sc o) us s (s.spWrites (us.map fun t => (p t, data t))) := by
  have hloads : s.NoLoads c.ref := State.noLoads_of_ctxAt (State.ctx_eq hc).2 hf.2.2
  refine InTurn.of_states (fun done => s.spWrites (done.map fun t => (p t, data t))) rfl fun done t rest hus => ?_
  have hl := layout_spWrites s (done.map fun t => (p t, data t))
  have hrelaxed : (s.spWrites (done.map fun t => (p t, data t))).relaxed = false := (congrArg State.relaxed hl :).trans hr
  obtain ⟨hplace, hnet⟩ := hp.of_layout hl t (by simp [hus])
  rw [Ctx.storesS_eq (noLoads_of_layout hl hloads),
    sStore_unrelaxed ((hlen t).symm ▸ hplace) hnet hrelaxed (noneHeld_of_layout hl hh), List.map_append, State.spWrites_append]
  rfl

/-- The same where relaxed stores show, for a scope that reaches the whole cluster. -/
theorem storesS_wide {g a : Nat → Nat} (hr : s.relaxed = true) (ho : o ≠ .rlx) (hsc : 2 ≤ scopeLevel sc) (hh : s.NoneHeld c.ref)
    (hsp : ∀ t ∈ us, p t = .sp (g t) (a t)) :
    InTurn (c.storesS apert ea data n sc o) us s ((s.spWrites (us.map fun t => (p t, data t))).modWave c.ref.group c.ref.wix
      (Wave.voiding (us.map fun t => spHeld t (g t) (a t) (data t) sc))) := by
  have hloads : s.NoLoads c.ref := State.noLoads_of_ctxAt (State.ctx_eq hc).2 hf.2.2
  let M (done : List Nat) : State := s.spWrites (done.map fun t => (p t, data t))
  let V (done : List Nat) : Wave → Wave := Wave.voiding (done.map fun t => spHeld t (g t) (a t) (data t) sc)
  refine InTurn.of_states (fun done => (M done).modWave c.ref.group c.ref.wix (V done)) ?_ fun done t rest hus => ?_
  · simp only [V, List.map_nil, funext Wave.voiding_nil, State.modWave_id]
    rfl
  have ht : t ∈ us := by simp [hus]
  have hl : (M done).layout = s.layout := layout_spWrites ..
  have hrelaxed : (M done).relaxed = true := (congrArg State.relaxed hl :).trans hr
  obtain ⟨hplace, hnet⟩ := (hp.of_layout hl).modWave c.ref.group c.ref.wix (f := V done) (fun _ => rfl) t ht
  rw [hsp t ht] at hplace
  have hheld : ((M done).modWave c.ref.group c.ref.wix (V done)).NoneHeld c.ref := (noneHeld_of_layout hl hh).voiding ..
  rw [Ctx.storesS_eq ((noLoads_of_layout hl hloads).modWave _ _ (f := V done) fun _ => rfl),
    sStore_wide ((hlen t).symm ▸ hplace) hnet hrelaxed ho hsc hheld, voidOwn_voiding, spWrite_modWave]
  simp only [M, V, List.map_append, State.spWrites_append, ← hsp t ht]
  rfl

/-- Held back, where the order is relaxed or the place is a register. -/
theorem storesS_held (hr : s.relaxed = true) (ho : o = .rlx ∨ (s.NoneHeld c.ref ∧ ∃ t g x u k i, us = [t] ∧ p t = .reg g x u k i)) :
    InTurn (c.storesS apert ea data n sc o) us s
      (s.modWave c.ref.group c.ref.wix (Wave.holding (us.flatMap fun t => (p t).stores t (scopeLevel sc) (data t)))) := by
  have hloads : s.NoLoads c.ref := State.noLoads_of_ctxAt (State.ctx_eq hc).2 hf.2.2
  let F (done : List Nat) : Wave → Wave := Wave.holding (done.flatMap fun t => (p t).stores t (scopeLevel sc) (data t))
  let U (done : List Nat) : State := s.modWave c.ref.group c.ref.wix (F done)
  have h0 : U [] = s := by
    simp only [U, F, List.flatMap_nil, funext Wave.holding_nil, State.modWave_id]
  refine InTurn.of_states U h0 fun done t rest hus => ?_
  obtain ⟨hplace, hnet⟩ := hp.modWave c.ref.group c.ref.wix (f := F done) (fun _ => rfl) t (by simp [hus])
  have horder : o = .rlx ∨ ((U done).NoneHeld c.ref ∧ ∃ g x u k i, p t = .reg g x u k i) := by
    refine ho.imp_right fun ⟨hh, t', g, x, u, k, i, hone, hpt⟩ => ?_
    obtain ⟨rfl, rfl, -⟩ : done = [] ∧ t = t' ∧ rest = [] := by
      rw [hone] at hus
      cases done <;> simp_all
    exact ⟨h0 ▸ hh, g, x, u, k, i, hpt⟩
  rw [Ctx.storesS_eq (hloads.modWave _ _ (f := F done) fun _ => rfl), sStore_held ((hlen t).symm ▸ hplace) hnet hr horder]
  simp only [U, F, List.flatMap_append, List.flatMap_singleton, ← foldl_hold, List.foldl_append]

/-- Visible to their scope only, where it is narrower than the cluster. -/
theorem storesS_near {g a : Nat → Nat} (hr : s.relaxed = true) (ho : o ≠ .rlx) (hsc : scopeLevel sc < 2) (hh : s.NoneHeld c.ref)
    (hsp : ∀ t ∈ us, p t = .sp (g t) (a t)) :
    InTurn (c.storesS apert ea data n sc o) us s
      (({ s with near := us.map fun t => c.stands (spHeld t (g t) (a t) (data t) sc) } : State).modWave c.ref.group c.ref.wix
        (Wave.voiding (us.map fun t => spHeld t (g t) (a t) (data t) sc))) := by
  have hloads : s.NoLoads c.ref := State.noLoads_of_ctxAt (State.ctx_eq hc).2 hf.2.2
  let N (done : List Nat) : State := { s with near := done.map fun t => c.stands (spHeld t (g t) (a t) (data t) sc) }
  let V (done : List Nat) : Wave → Wave := Wave.voiding (done.map fun t => spHeld t (g t) (a t) (data t) sc)
  refine InTurn.of_states (fun done => (N done).modWave c.ref.group c.ref.wix (V done)) ?_ fun done t rest hus => ?_
  · simp only [N, V, List.map_nil, funext Wave.voiding_nil, State.modWave_id, ← hh.1]
  have ht : t ∈ us := by simp [hus]
  have hpN : (N done).SpStores c true ea n us p := hp
  obtain ⟨hplace, hnet⟩ := hpN.modWave c.ref.group c.ref.wix (f := V done) (fun _ => rfl) t ht
  rw [hsp t ht] at hplace
  have hnear : ∀ y ∈ (N done).near, scopeLevel sc < y.store.target.top ∧ scopeLevel sc ≤ y.reach := by
    intro y hy
    obtain ⟨j, -, rfl⟩ := List.mem_map.1 hy
    exact ⟨hsc, le_rfl⟩
  have hheld : ((N done).modWave c.ref.group c.ref.wix (V done)).HoldsNone c.ref :=
    State.HoldsNone.modWave (s := N done) hh.holdsNone _ _ (fun _ => rfl) fun _ hw => hw
  have hloadsN : (N done).NoLoads c.ref := hloads
  rw [Ctx.storesS_eq (hloadsN.modWave _ _ (f := V done) fun _ => rfl),
    sStore_narrow ((hlen t).symm ▸ hplace) hnet hr ho hsc hheld hnear, voidOwn_voiding]
  simp only [N, V, List.map_append, List.map_singleton]
  rfl

end

/-- Bytes written at some places, read afterwards. -/
theorem spByteAt_eq_lastSpByte (s : State) (ps : List (SpPlace × List Byte)) (g o : Nat) :
    (s.spWrites ps).spByteAt g o = match lastSpByte ps g o with
      | some x => (s.spByteAt g o).map fun _ => x
      | none => s.spByteAt g o := by
  rw [spByteAt_spWrites]
  cases lastSpByte ps g o with
  | none => exact congrFun Option.map_id _
  | some x => rfl

theorem storeS_of_inTurn {s u : State} {c : Ctx} {d b : VOp} {o : BitVec 6} {n : Nat} {sc : Scope} {r : Order} {p : Nat → SpPlace}
    (hc : s.ctx = some c) (hr : c.Readable c.perf [⟨b, false⟩, ⟨d, n == 8⟩]) (ha : Aligned (c.eaS b (n * o.toNat)) n c.perf)
    (hp : s.SpStores c true (c.eaS b (n * o.toNat)) n c.perf p) (ht : c.Together)
    (h : InTurn (c.storesS true (c.eaS b (n * o.toNat)) (c.low d n) n sc r) c.perf s u) :
    storeS s d b o n sc r = .next (u.complete c c.perf) := by
  have hsp := spTrap_eq_none ha fun t ht => ⟨p t, (hp t ht).1⟩
  simp only [storeS, issue_of_ctx hc, srcTrap_eq_none hr, hsp]
  exact congrArg Host.Outcome.next (accessAll_of_inTurn ht _ h)

theorem spStoreRow_exec {i : Instr} {d b : VOp} {off n : Nat} {m : Scope} {r : Order} (h : SpStoreRow i d b off n m r) :
    ∃ o : BitVec 6, off = n * o.toNat ∧ ∀ s, exec i s = storeS s d b o n m r := by
  cases h <;> exact ⟨_, rfl, fun _ => rfl⟩

/-- Scratchpad stores at once, where nothing has been read early: they are as if written one after the other. -/
theorem storesS_now {s : State} {c : Ctx} {apert : Bool} {ea : Nat → Nat} {data : Nat → List Byte} {n : Nat} {sc : Scope} {o : Order}
    {p : Nat → SpPlace} {us : List Nat} (hc : s.ctx = some c) (hf : c.First) (hlen : ∀ t, (data t).length = n)
    (hp : s.SpStores c true ea n us p) (hh : s.NoneHeld c.ref)
    (hr : s.relaxed = false ∨ (o ≠ .rlx ∧ 2 ≤ scopeLevel sc ∧ s.NoneEarly c.ref ∧ ∀ t ∈ us, ∃ g a, p t = .sp g a)) :
    InTurn (c.storesS apert ea data n sc o) us s (s.spWrites (us.map fun t => (p t, data t))) := by
  cases hrel : s.relaxed with
  | false => exact storesS_unrelaxed hc hf hlen hp hrel hh
  | true =>
    obtain ⟨ho, hsc, hearly, hsp⟩ := hr.resolve_left (by simp [hrel])
    choose! g a hpt using hsp
    have h := storesS_wide (apert := apert) hc hf hlen hp hrel ho hsc hh hpt
    rwa [voiding_of_noneEarly (noneEarly_of_layout (layout_spWrites ..) hearly)] at h

/-- Settles O31: each row is the shared store, whose threads store at once, hold back, or store for their scope only. -/
theorem scratchpadStoresComplete : Obligations.ScratchpadStoresComplete := by
  unfold Obligations.ScratchpadStoresComplete
  intro s c i d b off n m r p hrow hc hread ea halign hp hfirst hs
  obtain ⟨o, rfl, hexec⟩ := spStoreRow_exec hrow
  have hlen : ∀ t, (c.low d n t).length = n := fun t => leBytes_length ..
  have hstep : ∀ u, InTurn (c.storesS true ea (c.low d n) n m r) c.perf s u → exec i s = .next (u.complete c c.perf) := fun u hu =>
    (hexec s).trans (storeS_of_inTurn hc hread halign hp hfirst.1 hu)
  refine ⟨fun hr hheld => ⟨_, hstep _ (storesS_now hc hfirst hlen hp hheld hr), ?_, ?_, fun g a => ?_⟩, fun hr ho => ?_,
    fun g a hr ho hsc hheld hearly hsp => ?_⟩
  · rw [State.spWrites, List.foldl_map]
  · exact congrArg (fun u : State => { u with groups := s.groups }) (layout_spWrites s _)
  · rw [State.complete_eq, spByteAt_modWave]
    exact spByteAt_eq_lastSpByte ..
  · exact hstep _ (storesS_held hc hfirst hlen hp hr ho)
  · have h := storesS_near (apert := true) hc hfirst hlen hp hr ho hsc hheld hsp
    rw [voiding_of_noneEarly (s := { s with near := c.perf.map fun t => c.stands (spHeld t (g t) (a t) (c.low d n t) m) }) hearly] at h
    exact hstep _ h

end Sys2Proof.Machine
end

section
/-! SUPPORT. Stores to global memory: at once, buffered, held back, or visible to one scope only (O32). -/

namespace Sys2Proof.Machine

/-! ### Bytes written to global memory, one place after the other -/

/-- Bytes written at some translated addresses, one after the other. -/
def State.physWrites (s : State) (ps : List (Phys × List Byte)) : State := ps.foldl (fun u x => u.physWrite x.1 x.2) s

theorem State.physWrites_append (s : State) (ps : List (Phys × List Byte)) (p : Phys) (bs : List Byte) :
    s.physWrites (ps ++ [(p, bs)]) = (s.physWrites ps).physWrite p bs := List.foldl_append

/-- The states differ in their global memory only. -/
def MemoryOnly (s m : State) : Prop :=
  { m with mem := s.mem, hostMem := s.hostMem, peerMem := s.peerMem, memBad := s.memBad } = s

theorem MemoryOnly.physWrites (s : State) (ps : List (Phys × List Byte)) : MemoryOnly s (s.physWrites ps) := by
  induction ps using List.reverseRecOn with
  | nil => rfl
  | append_singleton ps x ih =>
    rw [State.physWrites_append]
    unfold MemoryOnly at ih ⊢
    conv_rhs => rw [← ih]
    unfold State.physWrite
    cases x.1.space <;> rfl

theorem groupBlind_physWrite (p : Phys) (bs : List Byte) : GroupBlind fun s => s.physWrite p bs where
  blind s gs := by
    unfold State.physWrite
    cases p.space <;> rfl

section

variable {s m : State} {c : Ctx}

theorem MemoryOnly.groups (h : MemoryOnly s m) : m.groups = s.groups := (congrArg State.groups h :)

theorem MemoryOnly.ctx (h : MemoryOnly s m) : m.ctx = s.ctx := (congrArg State.ctx h :)

theorem MemoryOnly.noneHeld (h : MemoryOnly s m) {r : PathRef} (hs : s.NoneHeld r) : m.NoneHeld r := by
  rw [← h] at hs
  exact hs

end

/-- What a write leaves of a byte. -/
theorem byteAt_physWrite (s : State) (p : Phys) (bs : List Byte) (q : Phys) :
    (s.physWrite p bs).byteAt q =
      if ¬(q.space = .dev ∧ devBytes ≤ q.addr) ∧ p.space = q.space ∧ p.addr ≤ q.addr ∧ q.addr < p.addr + bs.length then
        (bs[q.addr - p.addr]?).getD 0
      else s.byteAt q := by
  obtain ⟨ps, a⟩ := p
  obtain ⟨qs, b⟩ := q
  cases ps <;> cases qs <;>
    simp [State.byteAt, State.physRead, State.physWrite, State.devWrite, State.devBytesAt, Memory.bytes, Memory.read_writeBytes]
  by_cases hb : b < devBytes
  · by_cases hin : a ≤ b ∧ b < a + bs.length
    · have h1 : b < a + min (devBytes - a) bs.length := by omega
      have h2 : b - a < devBytes - a := by omega
      simp [hb, hin, h1, h2]
    · have h1 : ¬(a ≤ b ∧ b < a + min (devBytes - a) bs.length) := by omega
      simp [hb, hin, h1]
  · simp [hb]

theorem lastByte_append (ps : List (Phys × List Byte)) (p : Phys) (bs : List Byte) (q : Phys) :
    lastByte (ps ++ [(p, bs)]) q =
      if ¬(q.space = .dev ∧ devBytes ≤ q.addr) ∧ p.space = q.space ∧ p.addr ≤ q.addr ∧ q.addr < p.addr + bs.length then
        bs[q.addr - p.addr]?
      else lastByte ps q := by
  unfold lastByte
  by_cases hq : q.space = .dev ∧ devBytes ≤ q.addr
  · simp [hq]
  · simp only [List.foldl_append, List.foldl_cons, List.foldl_nil, hq, not_false_eq_true, true_and, if_false]

/-- After some writes a byte is the one that the last of them puts there. -/
theorem byteAt_physWrites (s : State) (ps : List (Phys × List Byte)) (q : Phys) :
    (s.physWrites ps).byteAt q = (lastByte ps q).getD (s.byteAt q) := by
  induction ps using List.reverseRecOn with
  | nil => simp [State.physWrites, lastByte]
  | append_singleton ps x ih =>
    obtain ⟨p, bs⟩ := x
    rw [State.physWrites_append, byteAt_physWrite, lastByte_append, ih]
    split
    · next h =>
      have hlt : q.addr - p.addr < bs.length := by omega
      simp [hlt]
    · rfl

/-! ### Translation and permission, whatever the groups, and what stores stand before it (R242) -/

theorem walkFrom_withGroups (s : State) (gs : List Group) (xs : List Near) (va fuel level table : Nat) :
    ({ s with groups := gs, near := xs } : State).walkFrom va fuel level table = s.walkFrom va fuel level table := by
  induction fuel generalizing level table with
  | zero => rfl
  | succ fuel ih => simp only [State.walkFrom, ih]; rfl

theorem translate_withGroups (s : State) (gs : List Group) (xs : List Near) (die ctx : Nat) (priv : Bool) (k : Access) (va n : Nat) :
    ({ s with groups := gs, near := xs } : State).translate die ctx priv k va n = s.translate die ctx priv k va n := by
  simp only [State.translate, State.walk, walkFrom_withGroups]
  rfl

theorem translate_aside (s : State) (r : PathRef) (l : Sparse 8 → Sparse 8) (f : Wave → Wave) (die ctx : Nat) (priv : Bool) (k : Access)
    (va n : Nat) : (s.aside r l f).translate die ctx priv k va n = s.translate die ctx priv k va n :=
  translate_withGroups s (s.aside r l f).groups s.near die ctx priv k va n

theorem reach_of_translate {s : State} {c : Ctx} {k : Access} {va n : Nat} {p : Phys}
    (h : s.translate c.group.die c.launch.ctx c.path.priv k va n = .ok p) : s.reach c k va n = .ok p := by
  simp only [State.reach, h]

section

variable {c : Ctx} {r : PathRef} {l : Sparse 8 → Sparse 8} {hs : List Held} {es : List CEntry} {s u : State}

theorem Pends.reach (h : Pends c.ref l hs es s u) {k : Access} {va n : Nat} {p : Phys}
    (ht : s.translate c.group.die c.launch.ctx c.path.priv k va n = .ok p) : u.reach c k va n = .ok p := by
  obtain ⟨e, rfl⟩ := h
  exact reach_of_translate ((translate_aside ..).trans ht)

theorem Pends.near (h : Pends r l hs es s u) : u.near = s.near := by
  obtain ⟨e, rfl⟩ := h
  rfl

theorem Pends.relaxed (h : Pends r l hs es s u) : u.relaxed = s.relaxed := by
  obtain ⟨e, rfl⟩ := h
  rfl

theorem Pends.cur (h : Pends r l hs es s u) : u.cur = s.cur := by
  obtain ⟨e, rfl⟩ := h
  rfl

theorem State.HoldsNone.withLines {s : State} {r : PathRef} (h : s.HoldsNone r) (g : Nat) (l : Sparse 8 → Sparse 8) :
    (s.modGroup g (Group.withLines l)).HoldsNone r := by
  intro y hy hg w hw hx
  obtain ⟨z, hz, rfl⟩ := List.mem_map.1 hy
  split at hw <;> split at hg <;> exact h z hz hg w hw hx

theorem Pends.holdsNone {r' : PathRef} (h : Pends r l [] es s u) (hs : s.HoldsNone r') : u.HoldsNone r' := by
  obtain ⟨e, rfl⟩ := h
  exact (hs.withLines r.group l).modWave _ _ (fun _ => rfl) fun w hw => by simp [Wave.pend, hw]

theorem Pends.noneHeld {r' : PathRef} (h : Pends r l [] es s u) (hs : s.NoneHeld r') : u.NoneHeld r' :=
  ⟨h.near.trans hs.1, h.holdsNone hs.holdsNone⟩

theorem Pends.noLoads (h : Pends c.ref l hs es s u) (hc : s.ctx = some c) (hl : c.wave.loads = []) : u.NoLoads c.ref := by
  obtain ⟨y, e, hu⟩ := h.ctxAt (State.ctx_eq hc).2
  exact State.noLoads_of_ctxAt hu hl

/-- What a word leaves that its wave completes with something pending. -/
theorem Pends.completes (h : Pends c.ref l hs es s u) (hc : s.ctx = some c) {ts : List Nat} (hts : ts.Nodup) :
    ∃ c', (u.complete c ts).ctxAt c.ref = some c' ∧ OnlyAccess c.ref s (u.complete c ts) ∧ c'.path = c.path.next
      ∧ c'.wave.held = c.wave.held ++ hs ∧ c'.wave.cbuf = c.wave.cbuf ++ es
      ∧ (hs = [] → es = [] → Finished c ts (u.complete c ts) c') ∧ SameV c c' ∧ SameS c c' ∧ SameP c c' ∧ SameL c c' := by
  obtain ⟨hcur, hctx⟩ := State.ctx_eq hc
  obtain ⟨y, e, hu⟩ := h.ctxAt hctx
  obtain ⟨c', hc', hdone⟩ := complete_pending (h.cur.trans hcur) hu hts
  exact ⟨c', hc', h.onlyAccess ts, hdone⟩

end

/-! ### What changes beside the wave, the lines and memory -/

section

variable {r : PathRef} {s m t : State}

theorem OnlyAccess.onlyMemory (h : OnlyAccess r m t) (hm : MemoryOnly s m) : OnlyMemory r s m t where
  rest := by
    have hrest := congrArg (fun x : State =>
      { x with groups := s.groups, mem := s.mem, hostMem := s.hostMem, peerMem := s.peerMem, memBad := s.memBad }) h.rest
    refine (hrest :).trans ?_
    conv_rhs => rw [← hm]
    rw [← hm.groups]
  memory := (congrArg (fun x : State => (x.mem, x.hostMem, x.peerMem, x.memBad)) h.rest :)
  groups := by rw [h.groups, hm.groups]
  waves g x hgx := (h.waves g x hgx).trans (congrArg (fun gs => State.wave? { s with groups := gs } g x) hm.groups)

theorem OnlyAccess.byteAt (h : OnlyAccess r m t) (q : Phys) : t.byteAt q = m.byteAt q :=
  (congrArg (fun x : State => x.byteAt q) h.rest :)

theorem OnlyAccess.withoutNear {xs : List Near} (hs : s.near = []) (h : OnlyAccess r { s with near := xs } t) :
    OnlyAccess r s { t with near := [] } where
  rest := by
    refine (congrArg (fun x : State => { x with near := [] }) h.rest :).trans ?_
    rw [← hs]
  groups := h.groups
  waves := h.waves

theorem OnlyAccess.near (h : OnlyAccess r s t) : t.near = s.near := (congrArg State.near h.rest :)

end

/-! ### A store to a global address (R161, R232) -/

section

variable {c : Ctx} {l : Sparse 8 → Sparse 8} {hs : List Held} {es : List CEntry} {m v : State} {t va : Nat} {bs : List Byte}
  {sc : Scope} {o : Order} {p : Phys}

/-- The store of a thread to global memory. -/
def glHeld (t : Nat) (p : Phys) (bs : List Byte) (sc : Scope) : Held := ⟨t, .phys p, bs, scopeLevel sc⟩

theorem Pends.gStore_buffers (h : Pends c.ref l hs es m v)
    (ht : m.translate c.group.die c.launch.ctx c.path.priv .store va bs.length = .ok p) (hr : c.launch.repro = true) :
    ∃ v', v.gStore c t va bs sc o = .ok v' ∧ ∃ l', Pends c.ref l' hs (es ++ [.store p bs]) m v' := by
  obtain ⟨l', h'⟩ := h.touch va bs.length
  refine ⟨_, ?_, l', h'.buffer (.store p bs)⟩
  simp only [State.gStore, h.reach ht, Except.map, hr, if_true]

theorem Pends.gStore_holds (h : Pends c.ref l hs es m v)
    (ht : m.translate c.group.die c.launch.ctx c.path.priv .store va bs.length = .ok p) (hr : c.launch.repro = false)
    (hrel : m.relaxed = true) :
    ∃ v', v.gStore c t va bs sc .rlx = .ok v' ∧ ∃ l', Pends c.ref l' (hs ++ [glHeld t p bs sc]) es m v' := by
  obtain ⟨l', h'⟩ := h.touch va bs.length
  have hrlx : (v.relaxed && Order.rlx == Order.rlx) = true := by rw [h.relaxed, hrel]; rfl
  refine ⟨_, ?_, l', h'.hold (glHeld t p bs sc)⟩
  simp only [State.gStore, h.reach ht, Except.map, hr, hrlx, if_true, Bool.false_eq_true, if_false]
  rfl

theorem Pends.gStore_lands (h : Pends c.ref l [] es m v)
    (ht : m.translate c.group.die c.launch.ctx c.path.priv .store va bs.length = .ok p) (hr : c.launch.repro = false)
    (hh : m.NoneHeld c.ref) (ho : m.relaxed = false ∨ (o ≠ .rlx ∧ scopeLevel sc = 4)) :
    ∃ v', v.gStore c t va bs sc o = .ok v' ∧ ∃ l', Pends c.ref l' [] es (m.physWrite p bs) v' := by
  obtain ⟨l', h'⟩ := h.touch va bs.length
  have hheld := h'.noneHeld hh
  have hrlx : (v.relaxed && o == Order.rlx) = false := by
    rw [h.relaxed]
    rcases ho with hm | ⟨hne, -⟩
    · simp [hm]
    · simp [hne]
  have hstore : v.gStore c t va bs sc o = .ok ((v.touch c.ref.group va bs.length).put c (glHeld t p bs sc)) := by
    simp only [State.gStore, h.reach ht, Except.map, hr, hrlx, Bool.false_eq_true, if_false, release_of_noneHeld hheld]
    rfl
  refine ⟨_, hstore, l', ?_⟩
  cases hm : m.relaxed with
  | false =>
    rw [put_unrelaxed (h'.relaxed.trans hm)]
    exact h'.blind (groupBlind_physWrite p bs)
  | true =>
    obtain ⟨-, hsc⟩ := ho.resolve_left (by simp [hm])
    rw [put_wide (h'.relaxed.trans hm) hheld.1 c (h := glHeld t p bs sc) hsc.ge]
    exact (h'.voidOwn _).blind (groupBlind_physWrite p bs)

theorem groupBlind_near (xs : List Near) : GroupBlind fun s => { s with near := xs } := ⟨fun _ _ => rfl⟩

theorem Pends.gStore_stands (h : Pends c.ref l [] es m v)
    (ht : m.translate c.group.die c.launch.ctx c.path.priv .store va bs.length = .ok p) (hr : c.launch.repro = false)
    (hrel : m.relaxed = true) (ho : o ≠ .rlx) (hsc : scopeLevel sc < 4) (hh : m.HoldsNone c.ref)
    (hnear : ∀ y ∈ m.near, scopeLevel sc < y.store.target.top ∧ scopeLevel sc ≤ y.reach) :
    ∃ v', v.gStore c t va bs sc o = .ok v'
      ∧ ∃ l', Pends c.ref l' [] es { m with near := m.near ++ [c.stands (glHeld t p bs sc)] } v' := by
  obtain ⟨l', h'⟩ := h.touch va bs.length
  have hrlx : (v.relaxed && o == Order.rlx) = false := by simp [ho]
  have hrelease := release_eq_self (h'.holdsNone hh) (n := scopeLevel sc) fun y hy =>
    ⟨h'.relaxed.trans hrel, hnear y (h'.near ▸ hy)⟩
  have hput := put_narrow (s := v.touch c.ref.group va bs.length) (h'.relaxed.trans hrel) c (h := glHeld t p bs sc) hsc
  have hstore : v.gStore c t va bs sc o = .ok ((v.touch c.ref.group va bs.length).put c (glHeld t p bs sc)) := by
    simp only [State.gStore, h.reach ht, Except.map, hr, hrlx, Bool.false_eq_true, if_false, hrelease]
    rfl
  rw [hput, h'.near] at hstore
  exact ⟨_, hstore, l', (h'.voidOwn (glHeld t p bs sc)).blind (groupBlind_near _)⟩

end

end Sys2Proof.Machine
end

section
/-! SUPPORT. Global stores of the threads of a word, one after the other (O32, O33). -/

namespace Sys2Proof.Machine

section

variable {s u : State} {c : Ctx} {ea : Nat → Nat} {data : Nat → List Byte} {n : Nat} {sc : Scope} {o : Order} {us : List Nat}
  {p : Nat → Phys} {ps : List (Phys × List Byte)}

theorem State.stores_append (s : State) (c : Ctx) (ea : Nat → Nat) (data : Nat → List Byte) (us ts : List Nat) :
    s.stores c ea data (us ++ ts) =
      (s.stores c ea data us).bind fun r => (r.1.stores c ea data ts).map fun q => (q.1, r.2 ++ q.2) := by
  induction us generalizing s with
  | nil => simp [State.stores]
  | cons t us ih =>
    simp only [List.cons_append, State.stores]
    split
    · simp [ih, Option.map_bind, Option.bind_map, Function.comp_def]
    · rfl

theorem State.stores_eq_physWrites (h : s.stores c ea data us = some (u, ps)) : u = s.physWrites ps := by
  induction us generalizing s ps with
  | nil =>
    obtain ⟨rfl, rfl⟩ := Prod.mk.inj (Option.some.inj h)
    rfl
  | cons t us ih =>
    simp only [State.stores] at h
    split at h
    · obtain ⟨⟨v, qs⟩, hv, hr⟩ := Option.map_eq_some_iff.1 h
      obtain ⟨rfl, rfl⟩ := Prod.mk.inj hr
      have hu := ih hv
      exact hu
    · cases h

/-- The store of the next thread: it goes where its address translates to by then. -/
theorem State.stores_next {done rest : List Nat} {t : Nat} (h : s.stores c ea data (done ++ t :: rest) = some (u, ps)) :
    ∃ qs p, s.stores c ea data done = some (s.physWrites qs, qs)
      ∧ (s.physWrites qs).translate c.group.die c.launch.ctx c.path.priv .store (ea t) (data t).length = .ok p
      ∧ s.stores c ea data (done ++ [t]) = some ((s.physWrites qs).physWrite p (data t), qs ++ [(p, data t)]) := by
  rw [State.stores_append] at h
  obtain ⟨⟨m, qs⟩, hdone, hrest⟩ := Option.bind_eq_some_iff.1 h
  obtain rfl := State.stores_eq_physWrites hdone
  obtain ⟨q, hq, -⟩ := Option.map_eq_some_iff.1 hrest
  simp only [State.stores] at hq
  split at hq
  · next p hp => exact ⟨qs, p, hdone, hp, by simp [State.stores_append, hdone, State.stores, hp]⟩
  · cases hq

/-- A global store by each thread in turn. -/
def Ctx.storesG (c : Ctx) (ea : Nat → Nat) (data : Nat → List Byte) (n : Nat) (sc : Scope) (o : Order) (s : State) (t : Nat) :
    Except AFault State :=
  (s.loadsFirst c t (s.globalLoc c .store ea n t) n).gStore c t (ea t) (data t) sc o

theorem Ctx.storesG_eq (hl : s.NoLoads c.ref) (t : Nat) : c.storesG ea data n sc o s t = s.gStore c t (ea t) (data t) sc o := by
  rw [Ctx.storesG, loadsFirst_eq_self hl]

/-- At once: each byte goes where it belongs. -/
theorem storesG_now (hc : s.ctx = some c) (hf : c.First) (hr : c.launch.repro = false)
    (ho : s.relaxed = false ∨ (o ≠ .rlx ∧ scopeLevel sc = 4)) (hh : s.NoneHeld c.ref) (hs : s.stores c ea data us = some (u, ps)) :
    ∃ v, InTurn (c.storesG ea data n sc o) us s v ∧ ∃ l, Pends c.ref l [] [] u v := by
  obtain ⟨v, hv, m, qs, hm, l, hp⟩ := InTurn.of_invariant (f := c.storesG ea data n sc o) (ts := us) (s := s)
    (P := fun done v => ∃ m qs, s.stores c ea data done = some (m, qs) ∧ ∃ l, Pends c.ref l [] [] m v)
    ⟨s, [], rfl, id, .refl ..⟩ fun done t rest v hus ⟨m, qs, hm, l, hp⟩ => by
      obtain ⟨qs', p, hdone, ht, hnext⟩ := State.stores_next (hus ▸ hs)
      obtain ⟨rfl, rfl⟩ := Prod.mk.inj (Option.some.inj (hm.symm.trans hdone))
      have hmem := MemoryOnly.physWrites s qs
      have hrelaxed : (s.physWrites qs).relaxed = s.relaxed := (congrArg State.relaxed hmem :)
      obtain ⟨v', hv', l', hp'⟩ := hp.gStore_lands (t := t) ht hr (hmem.noneHeld hh) (hrelaxed.symm ▸ ho)
      exact ⟨v', (Ctx.storesG_eq (hp.noLoads (hmem.ctx.trans hc) hf.2.2) t).trans hv', _, _, hnext, l', hp'⟩
  obtain ⟨rfl, -⟩ := Prod.mk.inj (Option.some.inj (hm.symm.trans hs))
  exact ⟨v, hv, l, hp⟩

/-- Into the commit buffer, in a reproducible launch. -/
theorem storesG_buffered (hc : s.ctx = some c) (hf : c.First) (hr : c.launch.repro = true)
    (hp : ∀ t ∈ us, s.translate c.group.die c.launch.ctx c.path.priv .store (ea t) (data t).length = .ok (p t)) :
    ∃ v, InTurn (c.storesG ea data n sc o) us s v ∧ ∃ l, Pends c.ref l [] (us.map fun t => .store (p t) (data t)) s v :=
  InTurn.of_invariant (P := fun done v => ∃ l, Pends c.ref l [] (done.map fun t => .store (p t) (data t)) s v) ⟨id, .refl ..⟩
    fun done t rest v hus ⟨l, h⟩ => by
      obtain ⟨v', hv', l', h'⟩ := h.gStore_buffers (t := t) (sc := sc) (o := o) (hp t (by simp [hus])) hr
      exact ⟨v', (Ctx.storesG_eq (h.noLoads hc hf.2.2) t).trans hv', l', by simpa using h'⟩

/-- Held back, where the order is relaxed. -/
theorem storesG_held (hc : s.ctx = some c) (hf : c.First) (hr : c.launch.repro = false) (hrel : s.relaxed = true)
    (hp : ∀ t ∈ us, s.translate c.group.die c.launch.ctx c.path.priv .store (ea t) (data t).length = .ok (p t)) :
    ∃ v, InTurn (c.storesG ea data n sc .rlx) us s v ∧ ∃ l, Pends c.ref l (us.map fun t => glHeld t (p t) (data t) sc) [] s v :=
  InTurn.of_invariant (P := fun done v => ∃ l, Pends c.ref l (done.map fun t => glHeld t (p t) (data t) sc) [] s v) ⟨id, .refl ..⟩
    fun done t rest v hus ⟨l, h⟩ => by
      obtain ⟨v', hv', l', h'⟩ := h.gStore_holds (t := t) (sc := sc) (hp t (by simp [hus])) hr hrel
      exact ⟨v', (Ctx.storesG_eq (h.noLoads hc hf.2.2) t).trans hv', l', by simpa using h'⟩

/-- Visible to their scope only, where it is narrower than the device. -/
theorem storesG_near (hc : s.ctx = some c) (hf : c.First) (hr : c.launch.repro = false) (hrel : s.relaxed = true) (ho : o ≠ .rlx)
    (hsc : scopeLevel sc < 4) (hh : s.NoneHeld c.ref)
    (hp : ∀ t ∈ us, s.translate c.group.die c.launch.ctx c.path.priv .store (ea t) (data t).length = .ok (p t)) :
    ∃ v, InTurn (c.storesG ea data n sc o) us s v
      ∧ ∃ l, Pends c.ref l [] [] { s with near := us.map fun t => c.stands (glHeld t (p t) (data t) sc) } v := by
  let M (done : List Nat) : State := { s with near := done.map fun t => c.stands (glHeld t (p t) (data t) sc) }
  have h0 : M [] = s := by
    simp only [M, List.map_nil, ← hh.1]
  refine InTurn.of_invariant (P := fun done v => ∃ l, Pends c.ref l [] [] (M done) v) ⟨id, h0 ▸ .refl ..⟩
    fun done t rest v hus ⟨l, h⟩ => ?_
  have hnear : ∀ y ∈ (M done).near, scopeLevel sc < y.store.target.top ∧ scopeLevel sc ≤ y.reach := by
    intro y hy
    obtain ⟨j, -, rfl⟩ := List.mem_map.1 hy
    exact ⟨hsc, le_rfl⟩
  have htrans : (M done).translate c.group.die c.launch.ctx c.path.priv .store (ea t) (data t).length = .ok (p t) :=
    (translate_withGroups s s.groups ..).trans (hp t (by simp [hus]))
  have hheld : (M done).HoldsNone c.ref := hh.holdsNone
  obtain ⟨v', hv', l', h'⟩ := h.gStore_stands (t := t) htrans hr hrel ho hsc hheld hnear
  exact ⟨v', (Ctx.storesG_eq (h.noLoads hc hf.2.2) t).trans hv', l', by simpa [M] using h'⟩

theorem Ctx.fits_of_room (h : c.launch.repro = true → c.wave.cbuf = [] ∨ c.wave.cbuf.length + n ≤ 512) : c.fits n = true := by
  cases hr : c.launch.repro with
  | false => simp [Ctx.fits, hr]
  | true => rcases h hr with h | h <;> simp [Ctx.fits, h]

end

theorem storeG_of_inTurn {s u : State} {c : Ctx} {d b : VOp} {o : BitVec 6} {n : Nat} {sc : Scope} {r : Order} (hc : s.ctx = some c)
    (hread : c.Readable c.perf [⟨b, true⟩, ⟨d, n == 8⟩]) (ha : Aligned (c.eaG b (n * o.toNat)) n c.perf) (ht : c.Together)
    (hfit : c.fits c.perf.length = true) (h : InTurn (c.storesG (c.eaG b (n * o.toNat)) (c.low d n) n sc r) c.perf s u) :
    storeG s d b o n sc r = .next (u.complete c c.perf) := by
  simp only [storeG, issue_of_ctx hc, srcTrap_eq_none hread, alignTrap_eq_none ha, hfit, if_true]
  exact congrArg Host.Outcome.next (accessAll_of_inTurn ht _ h)

theorem glStoreRow_exec {i : Instr} {d b : VOp} {off n : Nat} {m : Scope} {r : Order} (h : GlStoreRow i d b off n m r) :
    ∃ o : BitVec 6, off = n * o.toNat ∧ ∀ s, exec i s = storeG s d b o n m r := by
  cases h <;> exact ⟨_, rfl, fun _ => rfl⟩

/-- Settles O32: each row is the shared store, whose threads store at once, buffer, hold back, or store for their scope only. -/
theorem globalStoresComplete : Obligations.GlobalStoresComplete := by
  unfold Obligations.GlobalStoresComplete
  intro s c i d b off n m r hrow hc hread ea halign hfirst
  obtain ⟨o, rfl, hexec⟩ := glStoreRow_exec hrow
  have hnodup : c.perf.Nodup := c.perf_nodup
  have hlen : ∀ t, (c.low d n t).length = n := fun t => leBytes_length ..
  have hstep : ∀ u, (c.launch.repro = true → c.wave.cbuf = [] ∨ c.wave.cbuf.length + c.perf.length ≤ 512) →
      InTurn (c.storesG ea (c.low d n) n m r) c.perf s u → exec i s = .next (u.complete c c.perf) := fun u hroom hu =>
    (hexec s).trans (storeG_of_inTurn hc hread halign hfirst.1 (Ctx.fits_of_room hroom) hu)
  refine ⟨fun u ps hr ho hheld hs => ?_, fun p hp => ?_⟩
  · obtain ⟨v, hv, l, h⟩ := storesG_now hc hfirst hr ho hheld hs
    obtain rfl := State.stores_eq_physWrites hs
    have hmem := MemoryOnly.physWrites s ps
    obtain ⟨c', -, hacc, -, -, -, hfin, hsame⟩ := h.completes (hmem.ctx.trans hc) hnodup
    exact ⟨_, c', hstep v (by simp [hr]) hv, hfin rfl rfl, hacc.onlyMemory hmem,
      fun q => (hacc.byteAt q).trans (byteAt_physWrites s ps q), hsame⟩
  · have hp' : ∀ t ∈ c.perf, s.translate c.group.die c.launch.ctx c.path.priv .store (ea t) (c.low d n t).length = .ok (p t) :=
      fun t ht => (hlen t).symm ▸ hp t ht
    refine ⟨fun hr hroom => ?_, fun hr hrel ho => ?_, fun hr hrel ho hsc hheld => ?_⟩
    · obtain ⟨v, hv, l, h⟩ := storesG_buffered hc hfirst hr hp'
      obtain ⟨c', hc', hacc, hpath, -, hbuf, -, hsame⟩ := h.completes hc hnodup
      exact ⟨_, c', hstep v (fun _ => hroom) hv, hacc, hc', hpath, hbuf, hsame⟩
    · subst ho
      obtain ⟨v, hv, l, h⟩ := storesG_held hc hfirst hr hrel hp'
      obtain ⟨c', hc', hacc, hpath, hheld, -, -, hsame⟩ := h.completes hc hnodup
      exact ⟨_, c', hstep v (by simp [hr]) hv, hacc, hc', hpath, hheld, hsame⟩
    · obtain ⟨v, hv, l, h⟩ := storesG_near hc hfirst hr hrel ho hsc hheld hp'
      obtain ⟨c', hc', hacc, hpath, -, -, -, hsame⟩ := h.completes hc hnodup
      exact ⟨_, c', hstep v (by simp [hr]) hv, hacc.withoutNear hheld.1, hc', hpath, hacc.near, hsame⟩

end Sys2Proof.Machine
end

section
/-! SUPPORT. Tile rows in registers, and the order of their threads (O33). -/

namespace Sys2Proof.Machine

/-! ### The order of the threads (R162) -/

theorem insertBy_perm (ea : Nat → Nat) (t : Nat) (us : List Nat) : (insertBy ea t us).Perm (t :: us) := by
  induction us with
  | nil => exact .refl _
  | cons u us ih =>
    rw [insertBy]
    split
    · exact .refl _
    · exact (ih.cons u).trans (.swap t u us)

theorem insertBy_pairwise {ea : Nat → Nat} {t : Nat} {us : List Nat} (hlt : ∀ u ∈ us, u < t)
    (h : us.Pairwise fun t u => ea t < ea u ∨ (ea t = ea u ∧ t < u)) :
    (insertBy ea t us).Pairwise fun t u => ea t < ea u ∨ (ea t = ea u ∧ t < u) := by
  induction us with
  | nil => exact List.pairwise_singleton ..
  | cons u us ih =>
    obtain ⟨hu, hus⟩ := List.pairwise_cons.1 h
    rw [insertBy]
    split
    · next hea =>
      refine List.pairwise_cons.2 ⟨fun v hv => .inl ?_, h⟩
      rcases List.mem_cons.1 hv with rfl | hv
      · exact hea
      · rcases hu v hv with h | ⟨h, -⟩ <;> omega
    · next hea =>
      refine List.pairwise_cons.2 ⟨fun v hv => ?_, ih (fun v hv => hlt v (List.mem_cons_of_mem u hv)) hus⟩
      rcases List.mem_cons.1 ((insertBy_perm ea t us).mem_iff.1 hv) with rfl | hv
      · have := hlt u List.mem_cons_self
        omega
      · exact hu v hv

theorem sortBy_inOrder (ea : Nat → Nat) {ts : List Nat} (h : ts.Pairwise (· < ·)) : InOrder ea ts (sortBy ea ts) := by
  induction ts using List.reverseRecOn with
  | nil => exact ⟨.refl _, .nil⟩
  | append_singleton ts t ih =>
    obtain ⟨hts, -, hlt⟩ := List.pairwise_append.1 h
    obtain ⟨hperm, hpair⟩ := ih hts
    have hsort : sortBy ea (ts ++ [t]) = insertBy ea t (sortBy ea ts) := by simp [sortBy]
    rw [hsort]
    exact ⟨(insertBy_perm ..).trans ((hperm.cons t).trans (List.perm_append_singleton t ts).symm),
      insertBy_pairwise (fun u hu => hlt u (hperm.mem_iff.1 hu) t (by simp)) hpair⟩

theorem Ctx.perf_pairwise (c : Ctx) : c.perf.Pairwise (· < ·) :=
  (List.pairwise_lt_range.filter _).filter _

/-- The order is unique: it is the one that the model takes. -/
theorem eq_sortBy {c : Ctx} {ea : Nat → Nat} {us : List Nat} (h : InOrder ea c.perf us) : us = sortBy ea c.perf := by
  obtain ⟨hperm, hpair⟩ := sortBy_inOrder ea c.perf_pairwise
  exact (h.1.trans hperm.symm).eq_of_pairwise (fun a b _ _ hab hba => by omega) h.2 hpair

/-! ### One row given to its thread (R47, R162) -/

/-- The register above another is none but that one. -/
theorem upReg_inj {d e : VDst} {i j : Nat} (he : e ≠ .z) (hi : upReg i d = e) (hj : upReg j d = e) : i = j := by
  subst hi
  cases d with
  | w k =>
    simp only [upReg] at hj he
    split at hj <;> split at hj <;> simp_all
  | o k =>
    simp only [upReg] at hj he
    split at hj <;> split at hj <;> simp_all
  | z => exact absurd rfl he

/-- The word of a row that goes into its register `i`. -/
def rowWord (bs : List Byte) (i : Nat) : Word := BitVec.ofNat 32 (leNat ((bs.drop (4 * i)).take 4))

/-- Some registers of a row written in its thread. -/
def Wave.putRow (w : Wave) (priv : Bool) (d : VDst) (t : Nat) (bs : List Byte) (is : List Nat) : Wave :=
  is.foldl (fun w i => w.putV priv (upReg i d) t (rowWord bs i)) w

section

variable (w : Wave) (priv : Bool) (d : VDst) (t : Nat) (bs : List Byte) (is : List Nat)

theorem Wave.putRow_append (i : Nat) :
    w.putRow priv d t bs (is ++ [i]) = (w.putRow priv d t bs is).putV priv (upReg i d) t (rowWord bs i) := List.foldl_append

theorem Wave.putRow_with : ∃ a b k e, w.putRow priv d t bs is = w.withV a b k e ∧ ∀ u ∈ e, u ∈ w.bad := by
  induction is using List.reverseRecOn with
  | nil => exact ⟨_, _, _, _, rfl, fun u h => h⟩
  | append_singleton is i ih =>
    obtain ⟨a, b, k, e, h, he⟩ := ih
    obtain ⟨a', b', k', e', h', he'⟩ := (w.putRow priv d t bs is).putV_with priv (upReg i d) t (rowWord bs i)
    refine ⟨a', b', k', e', ?_, fun u hu => he u ?_⟩
    · rw [w.putRow_append, h', h]
      rfl
    · have hu' := he' u hu
      rw [h] at hu'
      exact hu'

/-- A register read after a row has been written: `get` reads register `e`, which its thread writes where `P` holds. -/
theorem Wave.get_putRow {get : Wave → Word} {e : VDst} {P : Prop} [Decidable P] (he : e ≠ .z)
    (hget : ∀ (w : Wave) d v, get (w.putV priv d t v) = if d = e ∧ P then v else get w) :
    get (w.putRow priv d t bs is) = match is.find? fun i => upReg i d == e with
      | some i => if P then rowWord bs i else get w
      | none => get w := by
  induction is using List.reverseRecOn with
  | nil => rfl
  | append_singleton is i ih =>
    rw [w.putRow_append, hget, ih, List.find?_append]
    by_cases hi : upReg i d = e
    · cases hfind : is.find? fun i => upReg i d == e with
      | none => by_cases hP : P <;> simp [hi, hP]
      | some j =>
        obtain rfl := upReg_inj he hi (by simpa using List.find?_some hfind)
        by_cases hP : P <;> simp [hP]
    · cases is.find? fun i => upReg i d == e <;> simp [hi]

end

/-! ### The rows of several threads -/

/-- A row given to its thread: its registers, and its first 64 bits in the latch. -/
def Ctx.takeRow (c : Ctx) (d : VDst) (row : Nat → List Byte) (w : Wave) (t : Nat) : Wave :=
  ((w.putRow c.path.priv d t (row t) (List.range 8)).modPath c.ref.slot fun p =>
    p.push t (BitVec.ofNat 64 (leNat ((row t).take 8)))).mendLatches [t]

theorem giveRow_eq (s : State) (c : Ctx) (d : VDst) (row : Nat → List Byte) (t : Nat) :
    s.giveRow c d t (row t) = s.modWave c.ref.group c.ref.wix fun w => c.takeRow d row w t := rfl

/-- The wave after the rows of some threads. -/
def Ctx.takeRows (c : Ctx) (d : VDst) (row : Nat → List Byte) (ts : List Nat) (w : Wave) : Wave := ts.foldl (c.takeRow d row) w

/-- What the rows of the threads `ts` have made of the wave of `c`, and of its path, which is `q` now. -/
structure Ctx.TookRows (c : Ctx) (d : VDst) (row : Nat → List Byte) (ts : List Nat) (w : Wave) (q : Path) : Prop where
  path  : w.path? c.ref.slot = some q
  keeps : { q with latch := c.path.latch, fill := c.path.fill } = c.path
  wave  : w = ({ c.wave with w := w.w, o := w.o, bankW := w.bankW, bad := w.bad } : Wave).setPath c.ref.slot (some q)
  bad   : ∀ u ∈ w.bad, u ∈ c.wave.bad ∨ ∃ k, u = (3, k + 1, u.2.2) ∧ (3, k, u.2.2) ∈ c.wave.bad ∧ u.2.2 ∈ ts
  readW : ∀ (k : Fin 96) j, w.readW c.path.priv k j = match (List.range 8).find? fun i => upReg i d == .w k with
    | some i => if j ∈ ts ∧ (c.path.priv = false ∨ k.val < 16) then rowWord (row j) i else c.wave.readW c.path.priv k j
    | none => c.wave.readW c.path.priv k j
  readO : ∀ (k : Fin 8) j, w.o.get (8 * j + k) = match (List.range 8).find? fun i => upReg i d == .o k with
    | some i => if j ∈ ts then rowWord (row j) i else c.wave.o.get (8 * j + k)
    | none => c.wave.o.get (8 * j + k)
  latch : ∀ i j, i < 4 → q.latch.get (4 * j + i) =
    if j ∈ ts then (if i = 0 then BitVec.ofNat 64 (leNat ((row j).take 8)) else c.path.latch.get (4 * j + (i - 1)))
    else c.path.latch.get (4 * j + i)
  fill  : ∀ j, q.fill.get j = if j ∈ ts then (if c.path.fill.get j = 4 then 4 else c.path.fill.get j + 1) else c.path.fill.get j

section

variable {c : Ctx} {d : VDst} {row : Nat → List Byte} {ts : List Nat} {w : Wave} {q : Path} {t : Nat}

theorem Ctx.TookRows.nil (h : c.wave.path? c.ref.slot = some c.path) : c.TookRows d row [] c.wave c.path where
  path := h
  keeps := rfl
  wave := by
    cases hs : c.ref.slot <;> rw [hs] at h <;> simp only [Wave.path?, if_true, Bool.false_eq_true, if_false] at h <;>
      simp [Wave.setPath, ← h]
  bad u hu := .inl hu
  readW k j := by split <;> simp
  readO k j := by split <;> simp
  latch i j _ := by simp
  fill j := by simp

theorem mem_mendLatches {t : Nat} {u : Nat × Nat × Nat} (h : u ∈ (w.mendLatches [t]).bad) :
    u ∈ w.bad ∨ ∃ k, u = (3, k + 1, t) ∧ (3, k, t) ∈ w.bad := by
  obtain ⟨⟨i, k, j⟩, hv, hvu⟩ := List.mem_filterMap.1 h
  split at hvu
  · next hi =>
    obtain ⟨rfl, hj⟩ := hi
    obtain rfl : j = t := by simpa using hj
    split at hvu
    · exact .inr ⟨k, (Option.some.inj hvu).symm, hv⟩
    · cases hvu
  · exact .inl (Option.some.inj hvu ▸ hv)

theorem Ctx.TookRows.snoc (h : c.TookRows d row ts w q) (ht : t ∉ ts) :
    c.TookRows d row (ts ++ [t]) (c.takeRow d row w t) (q.push t (BitVec.ofNat 64 (leNat ((row t).take 8)))) := by
  obtain ⟨a, b, k, e, hput, he⟩ := w.putRow_with c.path.priv d t (row t) (List.range 8)
  have hslot : (w.withV a b k e).path? c.ref.slot = some q := by rw [← h.path]; cases c.ref.slot <;> rfl
  have htake : c.takeRow d row w t =
      ((w.withV a b k e).setPath c.ref.slot (some (q.push t (BitVec.ofNat 64 (leNat ((row t).take 8)))))).mendLatches [t] := by
    rw [Ctx.takeRow, hput, Wave.modPath, hslot, Option.map_some]
  have hreadW : ∀ k j, (c.takeRow d row w t).readW c.path.priv k j =
      (w.putRow c.path.priv d t (row t) (List.range 8)).readW c.path.priv k j := by
    intro k j
    rw [htake, hput]
    cases c.ref.slot <;> rfl
  have hreadO : (c.takeRow d row w t).o = (w.putRow c.path.priv d t (row t) (List.range 8)).o := by
    rw [htake, hput]
    cases c.ref.slot <;> rfl
  have hbad : (c.takeRow d row w t).bad = ((w.withV a b k e).mendLatches [t]).bad := by
    rw [htake]
    cases c.ref.slot <;> rfl
  have hmem : ∀ {j}, j ≠ t → (j ∈ ts ++ [t] ↔ j ∈ ts) := fun hj => by simp [hj]
  refine ⟨?_, h.keeps, ?_, fun u hu => ?_, fun k j => ?_, fun k j => ?_, fun i j hi => ?_, fun j => ?_⟩
  · rw [htake]
    cases c.ref.slot <;> rfl
  · rw [htake]
    conv_lhs => rw [h.wave]
    cases c.ref.slot <;> rfl
  · rw [hbad] at hu
    have hold : ∀ v ∈ (w.withV a b k e).bad,
        v ∈ c.wave.bad ∨ ∃ k, v = (3, k + 1, v.2.2) ∧ (3, k, v.2.2) ∈ c.wave.bad ∧ v.2.2 ∈ ts :=
      fun v hv => h.bad v (he v hv)
    rcases mem_mendLatches hu with hu | ⟨k', rfl, hk⟩
    · rcases hold u hu with hu | ⟨k', hu, hk, hts⟩
      · exact .inl hu
      · exact .inr ⟨k', hu, hk, List.mem_append_left _ hts⟩
    · rcases hold _ hk with hk | ⟨-, -, -, hts⟩
      · exact .inr ⟨k', rfl, hk, by simp⟩
      · exact absurd hts ht
  · rw [hreadW, Wave.get_putRow w c.path.priv d t (row t) (List.range 8) (get := fun w => w.readW c.path.priv k j) (e := .w k)
      (P := j = t ∧ (c.path.priv = false ∨ k.val < 16)) (by simp) fun w d v => w.readW_putV c.path.priv d t v k j, h.readW]
    cases (List.range 8).find? fun i => upReg i d == .w k with
    | none => rfl
    | some i =>
      by_cases hj : j = t
      · subst hj
        simp [ht]
      · simp [hj]
  · rw [hreadO, Wave.get_putRow w c.path.priv d t (row t) (List.range 8) (get := fun w => w.o.get (8 * j + k)) (e := .o k)
      (P := j = t) (by simp) fun w d v => w.readO_putV c.path.priv d t v k j, h.readO]
    cases (List.range 8).find? fun i => upReg i d == .o k with
    | none => rfl
    | some i =>
      by_cases hj : j = t
      · subst hj
        simp
      · simp [hj]
  · rw [Path.latch_push _ _ _ _ _ hi]
    by_cases hj : j = t
    · subst hj
      by_cases hi0 : i = 0
      · simp [hi0]
      · simp [hi0, h.latch (i - 1) j (by omega), ht]
    · rw [if_neg hj, h.latch i j hi]
      simp only [hmem hj]
  · rw [Path.fill_push, h.fill]
    by_cases hj : j = t
    · subst hj
      simp [ht]
    · simp only [hj, if_false, hmem hj]

theorem Ctx.tookRows (h : c.wave.path? c.ref.slot = some c.path) (hts : ts.Nodup) :
    ∃ q, c.TookRows d row ts (c.takeRows d row ts c.wave) q := by
  induction ts using List.reverseRecOn with
  | nil => exact ⟨_, .nil h⟩
  | append_singleton ts t ih =>
    obtain ⟨hn, -, hd⟩ := List.nodup_append.1 hts
    obtain ⟨q, hq⟩ := ih hn
    have hsnoc := hq.snoc (t := t) fun ht => hd t ht t (by simp) rfl
    rw [Ctx.takeRows, List.foldl_append]
    exact ⟨_, hsnoc⟩

theorem Ctx.takeRows_snoc (c : Ctx) (d : VDst) (row : Nat → List Byte) (ts : List Nat) (t : Nat) :
    (fun w => c.takeRow d row (c.takeRows d row ts w) t) = c.takeRows d row (ts ++ [t]) :=
  funext fun w => by simp only [Ctx.takeRows, List.foldl_append, List.foldl_cons, List.foldl_nil]

theorem Ctx.takeRow_keeps (c : Ctx) (d : VDst) (row : Nat → List Byte) (w : Wave) (t : Nat) :
    (c.takeRow d row w t).wix = w.wix ∧ (c.takeRow d row w t).threads = w.threads ∧ (c.takeRow d row w t).seg = w.seg
      ∧ (c.takeRow d row w t).held = w.held ∧ (c.takeRow d row w t).cbuf = w.cbuf := by
  obtain ⟨a, b, k, e, hput, -⟩ := w.putRow_with c.path.priv d t (row t) (List.range 8)
  rw [Ctx.takeRow, hput]
  cases c.ref.slot <;> exact ⟨rfl, rfl, rfl, rfl, rfl⟩

/-- Rows change registers, latches and what of them is in error. -/
theorem Ctx.takeRows_keeps (c : Ctx) (d : VDst) (row : Nat → List Byte) (ts : List Nat) (w : Wave) :
    (c.takeRows d row ts w).wix = w.wix ∧ (c.takeRows d row ts w).threads = w.threads ∧ (c.takeRows d row ts w).seg = w.seg
      ∧ (c.takeRows d row ts w).held = w.held ∧ (c.takeRows d row ts w).cbuf = w.cbuf := by
  induction ts using List.reverseRecOn with
  | nil => exact ⟨rfl, rfl, rfl, rfl, rfl⟩
  | append_singleton ts t ih =>
    obtain ⟨hwix, hthreads, hseg, hheld, hcbuf⟩ := c.takeRow_keeps d row (c.takeRows d row ts w) t
    rw [← c.takeRows_snoc]
    simp only [hwix, hthreads, hseg, hheld, hcbuf]
    exact ih

theorem Ctx.takeRows_wix (c : Ctx) (d : VDst) (row : Nat → List Byte) (ts : List Nat) (w : Wave) : (c.takeRows d row ts w).wix = w.wix :=
  (c.takeRows_keeps d row ts w).1

end

end Sys2Proof.Machine
end

section
/-! SUPPORT. Tile rows loaded and stored (O33). -/

namespace Sys2Proof.Machine

/-! ### What a thread reads, whatever registers and lines have changed -/

section

variable {s : State} {c : Ctx} {r : PathRef} {l : Sparse 8 → Sparse 8} {f : Wave → Wave}

theorem State.wave?_aside (s : State) (r : PathRef) (l : Sparse 8 → Sparse 8) (hf : ∀ w, (f w).wix = w.wix) (g x : Nat) :
    (s.aside r l f).wave? g x = (s.wave? g x).map fun w => if g = r.group ∧ x = r.wix then f w else w := by
  rw [State.aside, State.wave?_modWave _ _ _ _ _ _ hf, State.wave?_modGroup (Group.withLines l) (fun _ => rfl) fun _ => rfl]

theorem view_aside (hf : ∀ w, ((f w).wix, (f w).held, (f w).cbuf) = (w.wix, w.held, w.cbuf)) (t : Nat) (p : Phys) (n : Nat) :
    (s.aside r l f).view c t p n = s.view c t p n := by
  have hwix : ∀ w, (f w).wix = w.wix := fun w => (Prod.mk.inj (hf w)).1
  have hheld : ∀ w, (f w).held = w.held := fun w => (Prod.mk.inj (Prod.mk.inj (hf w)).2).1
  have hcbuf : ∀ w, (f w).cbuf = w.cbuf := fun w => (Prod.mk.inj (Prod.mk.inj (hf w)).2).2
  unfold State.view
  rw [State.wave?_aside s r l hwix]
  cases s.wave? c.ref.group c.ref.wix with
  | none => rfl
  | some w =>
    simp only [Option.map_some, apply_ite Wave.held, apply_ite Wave.cbuf, hheld, hcbuf, ite_self]
    rfl

theorem group?_sp_modWave (s : State) (g x : Nat) (f : Wave → Wave) (a : Nat) :
    ((s.modWave g x f).group? a).map (fun y => (y.sp, y.spBad)) = (s.group? a).map fun y => (y.sp, y.spBad) := by
  rw [State.modWave, State.group?_modGroup s g a (fun y => y.modWave x f) fun _ => rfl, Option.map_map]
  congr 1
  funext y
  by_cases h : a = g <;> simp [h, Group.modWave]

theorem spRead_modWave (s : State) (g x : Nat) (f : Wave → Wave) (a o n : Nat) :
    (s.modWave g x f).spRead (.sp a o) n = s.spRead (.sp a o) n := by
  have h := group?_sp_modWave s g x f a
  unfold State.spRead
  cases hu : (s.modWave g x f).group? a <;> cases hs : s.group? a <;> simp_all

theorem spBad_modWave (s : State) (g x : Nat) (f : Wave → Wave) (a o n : Nat) :
    (s.modWave g x f).spBad (.sp a o) n = s.spBad (.sp a o) n := by
  have h := group?_sp_modWave s g x f a
  unfold State.spBad
  cases hu : (s.modWave g x f).group? a <;> cases hs : s.group? a <;> simp_all

theorem spView_modWave (s : State) (g x : Nat) (hf : ∀ w, ((f w).wix, (f w).held) = (w.wix, w.held)) (t a o n : Nat) :
    (s.modWave g x f).spView c t (.sp a o) n = s.spView c t (.sp a o) n := by
  have hwix : ∀ w, (f w).wix = w.wix := fun w => (Prod.mk.inj (hf w)).1
  have hheld : ∀ w, (f w).held = w.held := fun w => (Prod.mk.inj (hf w)).2
  unfold State.spView
  rw [spRead_modWave, State.wave?_modWave _ _ _ _ _ _ hwix]
  cases s.wave? c.ref.group c.ref.wix with
  | none => rfl
  | some w =>
    simp only [Option.map_some, apply_ite Wave.held, hheld, ite_self]
    rfl

/-- A place that a word may reach without the register aperture is a scratchpad place. -/
theorem spPlace_scratchpad {g : Group} {ea n : Nat} {p : SpPlace} (h : s.spPlace g false ea n = .ok p) :
    s.spPlace g true ea n = .ok p ∧ ∃ a o, p = .sp a o := by
  unfold State.spPlace at h ⊢
  dsimp only at h ⊢
  split at h
  · cases h
  · next y hy =>
    split at h
    · cases h
    · next hspace =>
      split at h
      · next h0 =>
        split at h
        · next hsize =>
          cases h
          refine ⟨?_, _, _, rfl⟩
          simp only [h0, hsize, if_true, Nat.zero_ne_one, false_and, if_false]
        · cases h
      · have h1 : ea / 2 ^ 30 ≠ 1 := fun e => hspace ⟨e, rfl⟩
        rw [if_neg h1] at h
        cases h

end

/-! ### Rows loaded (R162) -/

section

variable {s : State} {c : Ctx} {d : VDst} {row : Nat → List Byte} {us : List Nat}

theorem State.ctx_withLines (h : s.ctx = some c) (l : Sparse 8 → Sparse 8) :
    ∃ y, (s.modGroup c.ref.group (Group.withLines l)).ctx = some { c with group := y } := by
  obtain ⟨hcur, hctx⟩ := State.ctx_eq h
  obtain ⟨y, hy⟩ := State.ctxAt_modGroup hctx c.ref.group (Group.withLines l) fun _ => rfl
  refine ⟨y, ?_⟩
  change (s.cur.bind fun r => _) = _
  rw [hcur]
  exact hy

/-- What a completed word leaves of its wave does not depend on its group. -/
theorem Finished.ofGroup {y : Group} {ts : List Nat} {t : State} {c' : Ctx} (h : Finished { c with group := y } ts t c') :
    Finished c ts t c' :=
  ⟨h.ctx, h.path, h.good, h.other, h.wave, h.bad, h.counts, h.done⟩

/-- Some rows given to their threads, and the word completed. -/
theorem rows_complete (h : s.ctx = some c) (hus : us.Perm c.perf) (l : Sparse 8 → Sparse 8) :
    ∃ c', Finished c c.perf ((s.aside c.ref l (c.takeRows d row us)).complete c c.perf) c' ∧ WroteRow c c' d c.perf row
      ∧ SameS c c' ∧ SameP c c' ∧ Pushed c c' c.perf fun t => BitVec.ofNat 64 (leNat ((row t).take 8)) := by
  obtain ⟨y, h1⟩ := State.ctx_withLines h l
  obtain ⟨q, hq⟩ := c.tookRows (d := d) (row := row) (State.ctxAt_eq (State.ctx_eq h).2).2.2.2.1 (hus.nodup_iff.2 c.perf_nodup)
  obtain ⟨w, hw⟩ : ∃ w, w = c.takeRows d row us c.wave := ⟨_, rfl⟩
  rw [← hw] at hq
  have hpriv : q.priv = c.path.priv := (congrArg Path.priv hq.keeps :)
  have hbad : ∀ u ∈ w.bad, BadBefore c.wave.bad u := fun u hu => (hq.bad u hu).imp_right fun ⟨k, hk, hold, _⟩ => ⟨k, hk, hold⟩
  have hkeeps : { q with
      latch := c.path.latch, fill := c.path.fill, s := c.path.s, badS := c.path.badS, marks := c.path.marks, fmt := c.path.fmt }
      = c.path :=
    (congrArg (fun p : Path => { p with s := c.path.s, badS := c.path.badS, marks := c.path.marks, fmt := c.path.fmt }) hq.keeps :)
  obtain ⟨hfin, -⟩ := completed_of h1 c.perf c.perf_nodup (c.takeRows d row us)
    (c.takeRows_wix d row us) w.w w.o c.wave.p w.bankW c.wave.bankS w.bad q
    (hw ▸ hq.wave) hbad hkeeps fun k hk => (congrArg Path.badS hq.keeps :) ▸ hk
  have hmem : ∀ j, j ∈ us ↔ j ∈ c.perf := fun j => hus.mem_iff
  have hu : (s.aside c.ref l (c.takeRows d row us)).complete c c.perf
      = ((s.modGroup c.ref.group (Group.withLines l)).modWave c.ref.group c.ref.wix (c.takeRows d row us)).complete c c.perf := rfl
  obtain ⟨hread, ho, hp, hbank⟩ := c.stepOn_reads c.perf w
  have hfields : (w.p, w.bankS) = (c.wave.p, c.wave.bankS) := by
    rw [hq.wave]
    cases c.ref.slot <;> rfl
  obtain ⟨hpreg, hbankS⟩ := Prod.mk.inj hfields
  have hs : q.s = c.path.s := (congrArg Path.s hq.keeps :)
  refine ⟨⟨c.ref, y.modWave c.ref.wix fun w => c.stepOn c.perf (c.takeRows d row us w), c.stepOn c.perf w,
    q.onward (c.path.pc + 4), c.launch⟩, ?_, ⟨fun k j => ?_, fun k j => ?_⟩, ⟨fun k => ?_, ?_, ?_⟩,
    sameP_of (hp.trans hpreg), fun i j hi => ?_, fun j => ?_⟩
  · rw [hu, hw]
    exact hfin.ofGroup
  · rw [Ctx.wreg_eq, Ctx.wreg_eq]
    simp only [Path.onward_priv, hpriv, hread, hq.readW, hmem]
    rfl
  · change (c.stepOn c.perf w).o.get (8 * j + k) = _
    simp only [ho, hq.readO, hmem]
    rfl
  · simp only [Ctx.sreg, Path.onward_priv, Path.onward_s, hpriv, hs, hbank, hbankS]
  · exact (congrArg Path.marks hq.keeps :)
  · exact (congrArg Path.fmt hq.keeps :)
  · simp only [Ctx.latch, Path.onward_latch, hq.latch i j hi, hmem]
  · simp only [Path.onward_fill, hq.fill, hmem]

/-- The rows that threads load from global memory. -/
theorem ldtG_inTurn {ea : Nat → Nat} {p : Nat → Phys} (hp : s.GLoads c ea 32 us p) :
    ∃ l, InTurn (fun s t => (s.gLoad c t (ea t) 32).map fun r => r.2.giveRow c d t r.1) us s
      (s.aside c.ref l (c.takeRows d (fun t => s.view c t (p t) 32) us)) := by
  let row : Nat → List Byte := fun t => s.view c t (p t) 32
  obtain ⟨u, hu, l, rfl⟩ := InTurn.of_invariant (f := fun s t => (s.gLoad c t (ea t) 32).map fun r => r.2.giveRow c d t r.1) (ts := us)
    (s := s) (P := fun done v => ∃ l, v = s.aside c.ref l (c.takeRows d row done)) ⟨id, (s.aside_id .. ▸ State.modWave_id ..).symm⟩
    fun done t rest v hus ⟨l, hv⟩ => by
      obtain ⟨htrans, hbad⟩ := hp t (by simp [hus])
      have hreach : v.reach c .load (ea t) 32 = .ok (p t) := hv ▸ reach_of_translate ((translate_aside ..).trans htrans)
      have hphys : v.physBad (p t) 32 = false := by rw [hv]; exact hbad
      have hview : v.view c t (p t) 32 = row t := by
        rw [hv]
        refine view_aside (fun w => ?_) ..
        obtain ⟨hwix, -, -, hheld, hcbuf⟩ := c.takeRows_keeps d row done w
        rw [hwix, hheld, hcbuf]
      obtain ⟨l', hl'⟩ := s.aside_touch c.ref l (c.takeRows d row done) (ea t) 32
      refine ⟨(v.touch c.ref.group (ea t) 32).giveRow c d t (row t), ?_, l', ?_⟩
      · simp only [State.gLoad, hreach, Except.bind, hphys, Bool.false_eq_true, if_false, hview, Except.map]
      · rw [giveRow_eq, hv, hl', s.aside_modWave _ _ (c.takeRows_wix d row done), c.takeRows_snoc]
  exact ⟨l, hu⟩

/-- The rows that threads load from scratchpad. -/
theorem ldtS_inTurn {ea : Nat → Nat} {p : Nat → SpPlace} (hp : s.SpLoads c false ea 32 us p) :
    InTurn (fun s t => (s.sLoad c t (ea t) 32).map fun bs => s.giveRow c d t bs) us s
      (s.modWave c.ref.group c.ref.wix (c.takeRows d (fun t => s.spView c t (p t) 32) us)) := by
  let row : Nat → List Byte := fun t => s.spView c t (p t) 32
  refine InTurn.of_states (fun done => s.modWave c.ref.group c.ref.wix (c.takeRows d row done)) (State.modWave_id ..)
    fun done t rest hus => ?_
  obtain ⟨hplace, hbad, hnet⟩ := hp t (by simp [hus])
  obtain ⟨hplace, a, o, hpt⟩ := spPlace_scratchpad hplace
  rw [hpt] at hplace hbad
  have hplace' := (spPlace_modWave s c.ref.group c.ref.wix (f := c.takeRows d row done) (fun w => by
    obtain ⟨hwix, hthreads, hseg, -⟩ := c.takeRows_keeps d row done w
    rw [hwix, hthreads, hseg]) ..).trans hplace
  have hnet' : (s.modWave c.ref.group c.ref.wix (c.takeRows d row done)).netFails c (ea t) = false := hnet
  have hview : (s.modWave c.ref.group c.ref.wix (c.takeRows d row done)).spView c t (.sp a o) 32 = row t :=
    (spView_modWave s _ _ (fun w => by
      obtain ⟨hwix, -, -, hheld, -⟩ := c.takeRows_keeps d row done w
      rw [hwix, hheld]) ..).trans (by simp only [row, hpt])
  have hload : (s.modWave c.ref.group c.ref.wix (c.takeRows d row done)).sLoad c t (ea t) 32 = .ok (row t) := by
    simp only [State.sLoad, hplace', spBad_modWave, hbad, hnet', Bool.or_self, Bool.false_eq_true, if_false, hview]
  rw [hload, Except.map, giveRow_eq, State.modWave_modWave s _ _ (c.takeRows d row done) _ (c.takeRows_wix d row done),
    c.takeRows_snoc]

theorem promote_of_noPromote {m : Scope} {r : Order} (h : s.NoPromote m r) : s.promote m r = s := by
  unfold State.promote
  split
  · next hm => exact performNear_of_none (h hm.1 hm.2) _
  · rfl

end

/-! ### Rows stored (R162) -/

section

variable {s u : State} {c : Ctx} {l : Sparse 8 → Sparse 8} {hs : List Held} {es : List CEntry} {ea : Nat → Nat} {p : Nat → Phys}
  {row : Nat → List Byte}

theorem Pends.bufferRows {ts : List Nat} (h : Pends c.ref l hs es s u)
    (hp : ∀ t ∈ ts, s.translate c.group.die c.launch.ctx c.path.priv .store (ea t) 32 = .ok (p t)) :
    Pends c.ref l hs (es ++ ts.map fun t => .store (p t) (row t)) s (u.bufferRows c ea row ts) := by
  induction ts generalizing u es with
  | nil => simpa [State.bufferRows] using h
  | cons t ts ih =>
    obtain ⟨ht, hts⟩ := List.forall_mem_cons.1 hp
    simp only [State.bufferRows, h.reach ht]
    have hrest := ih (h.buffer (.store (p t) (row t))) hts
    simpa using hrest

/-- The lines of some rows counted. -/
theorem touches_inTurn {us : List Nat} (hp : ∀ t ∈ us, s.translate c.group.die c.launch.ctx c.path.priv .store (ea t) 32 = .ok (p t)) :
    ∃ u, InTurn (fun s t => (s.reach c .store (ea t) 32).map fun _ => s.touch c.ref.group (ea t) 32) us s u
      ∧ ∃ l, Pends c.ref l [] [] s u :=
  InTurn.of_invariant (P := fun _ v => ∃ l, Pends c.ref l [] [] s v) ⟨id, .refl ..⟩ fun done t rest v hus ⟨l, h⟩ => by
    refine ⟨v.touch c.ref.group (ea t) 32, ?_, h.touch ..⟩
    simp only [h.reach (hp t (by simp [hus])), Except.map]

end

theorem Ctx.rowBytes_length (c : Ctx) (d : VDst) (t : Nat) : (c.rowBytes d t).length = 32 := by
  simp [Ctx.rowBytes, leBytes_length]

theorem State.NoneHeld.held_eq {s : State} {c : Ctx} (h : s.NoneHeld c.ref) (hc : s.ctx = some c) : c.wave.held = [] := by
  obtain ⟨y, hy, hg, hw, hx⟩ := State.wave?_mem_group (State.wave?_of_ctxAt (State.ctx_eq hc).2)
  exact h.2 y hy hg _ hw hx

end Sys2Proof.Machine
end

section
/-! SUPPORT. The tile row words (O33). -/

namespace Sys2Proof.Machine

section

variable {s u : State} {c : Ctx} {d : VDst} {b : VOp} {o : BitVec 6} {m : Scope} {r : Order}

/-! ### Rows loaded (R162) -/

theorem ldtG_completes {p : Nat → Phys} (hc : s.ctx = some c) (hread : c.Readable c.perf [⟨b, true⟩])
    (ha : Aligned (c.eaG b (32 * o.toNat)) 32 c.perf) (hp : s.GLoads c (c.eaG b (32 * o.toNat)) 32 c.perf p) (hf : c.First)
    (hpro : s.NoPromote m r) :
    ∃ l, exec (.ldtG d b o m r) s = .next ((s.aside c.ref l (c.takeRows d (fun t => s.view c t (p t) 32)
      (sortBy (c.eaG b (32 * o.toNat)) c.perf))).complete c c.perf) := by
  have hperm := (sortBy_inOrder (c.eaG b (32 * o.toNat)) c.perf_pairwise).1
  obtain ⟨l, h⟩ := ldtG_inTurn (d := d) (us := sortBy (c.eaG b (32 * o.toNat)) c.perf) (p := p) fun t ht => hp t (hperm.mem_iff.1 ht)
  refine ⟨l, ?_⟩
  change execLdtG d b o m r s = _
  simp only [execLdtG, issue_of_ctx hc, srcTrap_eq_none hread, alignTrap_eq_none ha, promote_of_noPromote hpro]
  exact congrArg Host.Outcome.next (rowsAll_of_inTurn hf.1 (fun s _ => s) h)

theorem ldtS_completes {p : Nat → SpPlace} (hc : s.ctx = some c) (hread : c.Readable c.perf [⟨b, false⟩])
    (ha : Aligned (c.eaS b (32 * o.toNat)) 32 c.perf) (hp : s.SpLoads c false (c.eaS b (32 * o.toNat)) 32 c.perf p) (hf : c.First)
    (hpro : s.NoPromote m r) :
    exec (.ldtS d b o m r) s = .next ((s.modWave c.ref.group c.ref.wix (c.takeRows d (fun t => s.spView c t (p t) 32)
      (sortBy (c.eaS b (32 * o.toNat)) c.perf))).complete c c.perf) := by
  have hperm := (sortBy_inOrder (c.eaS b (32 * o.toNat)) c.perf_pairwise).1
  have h := ldtS_inTurn (d := d) (us := sortBy (c.eaS b (32 * o.toNat)) c.perf) (p := p) fun t ht => hp t (hperm.mem_iff.1 ht)
  have hsp := spTrap_eq_none ha fun t ht => ⟨p t, (hp t ht).1⟩
  change execLdtS d b o m r s = _
  simp only [execLdtS, issue_of_ctx hc, srcTrap_eq_none hread, hsp, promote_of_noPromote hpro]
  exact congrArg Host.Outcome.next (rowsAll_of_inTurn hf.1 (fun s _ => s) h)

/-! ### Rows stored (R162, R232) -/

theorem sttG_of_inTurn (hc : s.ctx = some c)
    (hread : c.Readable c.perf (⟨b, true⟩ :: (List.range 8).map fun i => ⟨srcOf (upReg i d), false⟩))
    (ha : Aligned (c.eaG b (32 * o.toNat)) 32 c.perf) (hf : c.First) (hr : c.launch.repro = false)
    (h : InTurn (c.storesG (c.eaG b (32 * o.toNat)) (c.row d) 32 m r) (sortBy (c.eaG b (32 * o.toNat)) c.perf) s u) :
    exec (.sttG d b o m r) s = .next (u.complete c c.perf) := by
  have hfit : c.fits c.perf.length = true := Ctx.fits_of_room (by simp [hr])
  have htrap : c.srcTrap c.perf (⟨b, true⟩ :: rowSrcs d) = none := srcTrap_eq_none hread
  change execSttG d b o m r s = _
  simp only [execSttG, issue_of_ctx hc, htrap, alignTrap_eq_none ha, hfit, hr, if_true, Bool.false_eq_true, if_false]
  exact congrArg Host.Outcome.next (rowsAll_of_inTurn hf.1 (fun s _ => s) h)

theorem sttG_buffers (hc : s.ctx = some c)
    (hread : c.Readable c.perf (⟨b, true⟩ :: (List.range 8).map fun i => ⟨srcOf (upReg i d), false⟩))
    (ha : Aligned (c.eaG b (32 * o.toNat)) 32 c.perf) (hf : c.First) (hr : c.launch.repro = true)
    (hroom : c.wave.cbuf = [] ∨ c.wave.cbuf.length + c.perf.length ≤ 512)
    (h : InTurn (fun s t => (s.reach c .store (c.eaG b (32 * o.toNat) t) 32).map fun _ =>
      s.touch c.ref.group (c.eaG b (32 * o.toNat) t) 32) (sortBy (c.eaG b (32 * o.toNat)) c.perf) s u) :
    exec (.sttG d b o m r) s = .next ((u.bufferRows c (c.eaG b (32 * o.toNat)) (c.row d) c.perf).complete c c.perf) := by
  have hfit : c.fits c.perf.length = true := Ctx.fits_of_room fun _ => hroom
  have htrap : c.srcTrap c.perf (⟨b, true⟩ :: rowSrcs d) = none := srcTrap_eq_none hread
  have hwait : c.perf.any (s.mustWait c) = false := List.any_eq_false.2 fun t _ => by simp [mustWait_false _ _ _ hf.1]
  change execSttG d b o m r s = _
  simp only [execSttG, issue_of_ctx hc, htrap, alignTrap_eq_none ha, hfit, hr, hwait, if_true, Bool.false_eq_true, if_false]
  exact congrArg Host.Outcome.next (rowsAll_of_inTurn hf.1 (fun s ts => s.bufferRows c (c.eaG b (32 * o.toNat)) (c.rowBytes d) ts) h)

theorem sttS_of_inTurn {p : Nat → SpPlace} (hc : s.ctx = some c)
    (hread : c.Readable c.perf (⟨b, false⟩ :: (List.range 8).map fun i => ⟨srcOf (upReg i d), false⟩))
    (ha : Aligned (c.eaS b (32 * o.toNat)) 32 c.perf) (hp : s.SpStores c false (c.eaS b (32 * o.toNat)) 32 c.perf p) (hf : c.First)
    (h : InTurn (c.storesS false (c.eaS b (32 * o.toNat)) (c.row d) 32 m r) (sortBy (c.eaS b (32 * o.toNat)) c.perf) s u) :
    exec (.sttS d b o m r) s = .next (u.complete c c.perf) := by
  have hsp := spTrap_eq_none ha fun t ht => ⟨p t, (hp t ht).1⟩
  have htrap : c.srcTrap c.perf (⟨b, false⟩ :: rowSrcs d) = none := srcTrap_eq_none hread
  change execSttS d b o m r s = _
  simp only [execSttS, issue_of_ctx hc, htrap, hsp]
  exact congrArg Host.Outcome.next (rowsAll_of_inTurn hf.1 (fun s _ => s) h)

end

/-! ### Bytes written in scratchpads: what stays of paths and waves -/

section

variable {s : State} {c : Ctx} {ps : List (SpPlace × List Byte)}

theorem spWrites_ctxAt (h : s.ctxAt c.ref = some c) (hps : ∀ x ∈ ps, ∃ g a, x.1 = .sp g a) :
    ∃ y, (s.spWrites ps).ctxAt c.ref = some { c with group := y } := by
  induction ps using List.reverseRecOn with
  | nil => exact ⟨c.group, h⟩
  | append_singleton ps x ih =>
    obtain ⟨y, hy⟩ := ih fun x hx => hps x (by simp [hx])
    obtain ⟨g, a, hx⟩ := hps x (by simp)
    obtain ⟨z, hz⟩ := State.ctxAt_modGroup (c := { c with group := y }) hy g (fun z => z.spWrite a x.2) fun _ => rfl
    refine ⟨z, ?_⟩
    rw [State.spWrites_append, State.spWrites, List.foldl_cons, List.foldl_nil, hx]
    exact hz

theorem spWrites_wave? (hps : ∀ x ∈ ps, ∃ g a, x.1 = .sp g a) (g x : Nat) : (s.spWrites ps).wave? g x = s.wave? g x := by
  induction ps using List.reverseRecOn with
  | nil => rfl
  | append_singleton ps y ih =>
    obtain ⟨a, k, hy⟩ := hps y (by simp)
    rw [State.spWrites_append, State.spWrites, List.foldl_cons, List.foldl_nil, hy,
      ← ih fun x hx => hps x (by simp [hx])]
    exact State.wave?_modGroup (fun z : Group => z.spWrite k y.2) (fun _ => rfl) (fun _ => rfl) ..

theorem onlyScratchpad_of_spWrites {r : PathRef} (hps : ∀ x ∈ ps, ∃ g a, x.1 = .sp g a) {f : Wave → Wave}
    (hf : ∀ w, (f w).wix = w.wix) :
    OnlyScratchpad r s (s.spWrites ps) ((s.spWrites ps).modWave r.group r.wix f) where
  rest := (congrArg (fun u : State => { u with groups := s.groups }) (layout_spWrites s ps) :)
  shells := (onlyWave_modWave _ r f hf).shells
  waves g x h := ((onlyWave_modWave _ r f hf).waves g x h).trans (spWrites_wave? hps g x)

theorem onlyWave_withoutNear {r : PathRef} (hs : s.near = []) (xs : List Near) {f : Wave → Wave} (hf : ∀ w, (f w).wix = w.wix) :
    OnlyWave r s { ({ s with near := xs } : State).modWave r.group r.wix f with near := [] } := by
  have h : ({ s with near := [] } : State) = s := by rw [← hs]
  have ht : ({ ({ s with near := xs } : State).modWave r.group r.wix f with near := [] } : State) = s.modWave r.group r.wix f :=
    congrArg (fun v : State => v.modWave r.group r.wix f) h
  exact ht ▸ onlyWave_modWave s r f hf

theorem Wave.pend_wix (e : List Held → List Held) (hs : List Held) (es : List CEntry) (w : Wave) : (w.pend e hs es).wix = w.wix := rfl

theorem Wave.voiding_eq_pend (hs : List Held) :
    Wave.voiding hs = Wave.pend (fun es => es.filter fun x => hs.all fun h => !(x.thread == h.thread && x.meets h)) [] [] :=
  funext fun w => by simp [Wave.voiding, Wave.pend]

theorem Wave.holding_eq_pend (hs : List Held) :
    Wave.holding hs = Wave.pend (fun es => es.filter fun x => hs.all fun h => !(x.thread == h.thread && x.meets h)) hs [] :=
  funext fun w => by simp [Wave.holding, Wave.pend]

theorem stores_of_sp {p : Nat → SpPlace} {us : List Nat} {g a : Nat → Nat} (h : ∀ t ∈ us, p t = .sp (g t) (a t)) (sc : Scope)
    (data : Nat → List Byte) :
    us.flatMap (fun t => (p t).stores t (scopeLevel sc) (data t)) = us.map fun t => spHeld t (g t) (a t) (data t) sc := by
  rw [List.map_eq_flatMap]
  exact List.flatMap_congr fun t ht => by rw [h t ht]; rfl

/-- A word that the wave completes with stores held back, where scratchpads may have changed. -/
theorem complete_held {m : State} {y : Group} (hcur : m.cur = some c.ref) (hm : m.ctxAt c.ref = some { c with group := y })
    (e : List Held → List Held) (hs : List Held) :
    ∃ c', ((m.modWave c.ref.group c.ref.wix (Wave.pend e hs [])).complete c c.perf).ctxAt c.ref = some c' ∧ c'.path = c.path.next
      ∧ c'.wave.held = c.wave.held ++ hs
      ∧ (hs = [] → Finished c c.perf ((m.modWave c.ref.group c.ref.wix (Wave.pend e hs [])).complete c c.perf) c')
      ∧ SameV c c' ∧ SameS c c' ∧ SameP c c' ∧ SameL c c' := by
  have hu := State.ctxAt_modWave (c := { c with group := y }) hm (Wave.pend e hs []) (fun _ => rfl) (State.ctxAt_eq hm).2.2.2.1
  obtain ⟨c', hc', hpath, hheld, -, hfin, hsame⟩ :=
    complete_pending (u := m.modWave c.ref.group c.ref.wix (Wave.pend e hs [])) hcur hu c.perf_nodup
  exact ⟨c', hc', hpath, hheld, fun h => hfin h rfl, hsame⟩

theorem complete_after_modWave (m : State) (c : Ctx) {f : Wave → Wave} (hf : ∀ w, (f w).wix = w.wix) (ts : List Nat) :
    (m.modWave c.ref.group c.ref.wix f).complete c ts = m.modWave c.ref.group c.ref.wix fun w => c.stepOn ts (f w) :=
  State.modWave_modWave _ _ _ f _ hf

end

/-! ### Rows stored in the order of their sectors, and the word completed -/

section

variable {s : State} {c : Ctx} {apert : Bool} {ea : Nat → Nat} {data : Nat → List Byte} {n : Nat} {sc : Scope}
  {o : Order} {us : List Nat}

/-- Bytes written in scratchpads, and the word completed. -/
theorem spWrites_complete {ps : List (SpPlace × List Byte)} (hc : s.ctx = some c) (hps : ∀ x ∈ ps, ∃ g a, x.1 = .sp g a)
    (e : List Held → List Held) {t : State}
    (ht : t = ((s.spWrites ps).modWave c.ref.group c.ref.wix (Wave.pend e [] [])).complete c c.perf) :
    ∃ c', Finished c c.perf t c' ∧ OnlyScratchpad c.ref s (s.spWrites ps) t
      ∧ (∀ g a, t.spByteAt g a = match lastSpByte ps g a with
          | some x => (s.spByteAt g a).map fun _ => x
          | none => s.spByteAt g a)
      ∧ SameV c c' ∧ SameS c c' ∧ SameP c c' ∧ SameL c c' := by
  obtain ⟨hcur, hctx⟩ := State.ctx_eq hc
  obtain ⟨y, hy⟩ := spWrites_ctxAt hctx hps
  have hcur' : (s.spWrites ps).cur = some c.ref := (congrArg State.cur (layout_spWrites s ps) :).trans hcur
  obtain ⟨c', -, -, -, hfin, hsame⟩ := complete_held hcur' hy e []
  subst ht
  refine ⟨c', hfin rfl, ?_, fun g a => ?_, hsame⟩
  · rw [complete_after_modWave _ c (Wave.pend_wix _ _ _)]
    exact onlyScratchpad_of_spWrites hps fun w => c.stepOn_wix ..
  · rw [State.complete_eq, spByteAt_modWave, spByteAt_modWave]
    exact spByteAt_eq_lastSpByte ..

/-- Scratchpad stores at once. -/
theorem storesS_now_complete {p : Nat → SpPlace} (hc : s.ctx = some c) (hf : c.First) (hlen : ∀ t, (data t).length = n)
    (hp : s.SpStores c true ea n us p) (hh : s.NoneHeld c.ref) (hsp : ∀ t ∈ us, ∃ g a, p t = .sp g a)
    (hr : s.relaxed = false ∨ (o ≠ .rlx ∧ 2 ≤ scopeLevel sc)) :
    ∃ v c', InTurn (c.storesS apert ea data n sc o) us s v ∧ Finished c c.perf (v.complete c c.perf) c'
      ∧ OnlyScratchpad c.ref s (s.spWrites (us.map fun t => (p t, data t))) (v.complete c c.perf)
      ∧ (∀ g a, (v.complete c c.perf).spByteAt g a = match lastSpByte (us.map fun t => (p t, data t)) g a with
          | some x => (s.spByteAt g a).map fun _ => x
          | none => s.spByteAt g a)
      ∧ SameV c c' ∧ SameS c c' ∧ SameP c c' ∧ SameL c c' := by
  obtain ⟨ps, hps⟩ : ∃ ps, ps = us.map fun t => (p t, data t) := ⟨_, rfl⟩
  have hplaces : ∀ x ∈ ps, ∃ g a, x.1 = .sp g a := fun x hx => by
    obtain ⟨t, ht, rfl⟩ := List.mem_map.1 (hps ▸ hx)
    exact hsp t ht
  obtain ⟨e, hv⟩ : ∃ e, InTurn (c.storesS apert ea data n sc o) us s
      ((s.spWrites ps).modWave c.ref.group c.ref.wix (Wave.pend e [] [])) := by
    cases hrel : s.relaxed with
    | false =>
      refine ⟨id, ?_⟩
      rw [funext Wave.pend_nil, State.modWave_id, hps]
      exact storesS_unrelaxed hc hf hlen hp hrel hh
    | true =>
      obtain ⟨ho, hsc⟩ := hr.resolve_left (by simp [hrel])
      choose! g a hpt using hsp
      exact ⟨_, hps ▸ Wave.voiding_eq_pend _ ▸ storesS_wide hc hf hlen hp hrel ho hsc hh hpt⟩
  obtain ⟨c', hdone⟩ := spWrites_complete hc hplaces e rfl
  exact ⟨_, c', hv, hps ▸ hdone⟩

/-- Scratchpad stores held back, or visible to their scope only. -/
theorem storesS_later_complete {p : Nat → SpPlace} (hc : s.ctx = some c) (hf : c.First) (hlen : ∀ t, (data t).length = n)
    (hp : s.SpStores c true ea n us p) (hh : s.NoneHeld c.ref) (hsp : ∀ t ∈ us, ∃ g a, p t = .sp g a) (hr : s.relaxed = true)
    (ho : o = .rlx ∨ scopeLevel sc < 2) {hs : List Held} (hhs : hs = us.flatMap fun t => (p t).stores t (scopeLevel sc) (data t)) :
    ∃ v c', InTurn (c.storesS apert ea data n sc o) us s v ∧ OnlyWave c.ref s { v.complete c c.perf with near := [] }
      ∧ (v.complete c c.perf).ctxAt c.ref = some c' ∧ c'.path = c.path.next ∧ c'.wave.held = (if o = .rlx then hs else [])
      ∧ (v.complete c c.perf).near =
        (if o = .rlx then [] else hs.map fun h => ⟨c.group.id, c.ref.wix, c.group.cluster, scopeLevel sc, h⟩)
      ∧ SameV c c' ∧ SameS c c' ∧ SameP c c' ∧ SameL c c' := by
  obtain ⟨hcur, hctx⟩ := State.ctx_eq hc
  by_cases hrlx : o = .rlx
  · have hv := storesS_held (apert := apert) (sc := sc) hc hf hlen hp hr (.inl hrlx)
    rw [Wave.holding_eq_pend, ← hhs] at hv
    obtain ⟨c', hc', hpath, hheld, -, hsame⟩ := complete_held hcur hctx
      (fun es => es.filter fun x => hs.all fun h => !(x.thread == h.thread && x.meets h)) hs
    rw [hh.held_eq hc] at hheld
    refine ⟨_, c', hv, ?_, hc', hpath, hheld.trans (if_pos hrlx).symm, hh.1.trans (if_pos hrlx).symm, hsame⟩
    rw [complete_after_modWave _ c (Wave.pend_wix _ _ _)]
    exact onlyWave_withoutNear hh.1 s.near fun w => c.stepOn_wix ..
  · choose! g a hpt using hsp
    have hmap : hs = us.map fun t => spHeld t (g t) (a t) (data t) sc := hhs.trans (stores_of_sp hpt sc data)
    have hv := storesS_near (apert := apert) hc hf hlen hp hr hrlx (ho.resolve_left hrlx) hh hpt
    have hnear : (us.map fun t => c.stands (spHeld t (g t) (a t) (data t) sc))
        = hs.map fun h => ⟨c.group.id, c.ref.wix, c.group.cluster, scopeLevel sc, h⟩ := by
      rw [hmap, List.map_map]
      rfl
    rw [Wave.voiding_eq_pend, ← hmap, hnear] at hv
    obtain ⟨c', hc', hpath, hheld, -, hsame⟩ := complete_held
      (m := { s with near := hs.map fun h => ⟨c.group.id, c.ref.wix, c.group.cluster, scopeLevel sc, h⟩ }) hcur hctx
      (fun es => es.filter fun x => hs.all fun h => !(x.thread == h.thread && x.meets h)) []
    rw [hh.held_eq hc] at hheld
    refine ⟨_, c', hv, ?_, hc', hpath, hheld.trans (if_neg hrlx).symm, (if_neg hrlx).symm, hsame⟩
    rw [complete_after_modWave _ c (Wave.pend_wix _ _ _)]
    exact onlyWave_withoutNear hh.1 _ fun w => c.stepOn_wix ..

/-- Global stores held back, or visible to their scope only. -/
theorem storesG_later_complete {p : Nat → Phys} (hc : s.ctx = some c) (hf : c.First) (hr : c.launch.repro = false)
    (hrel : s.relaxed = true) (hh : s.NoneHeld c.ref) (ho : o = .rlx ∨ scopeLevel sc < 4)
    (hp : ∀ t ∈ us, s.translate c.group.die c.launch.ctx c.path.priv .store (ea t) (data t).length = .ok (p t)) {hs : List Held}
    (hhs : hs = us.map fun t => glHeld t (p t) (data t) sc) :
    ∃ v c', InTurn (c.storesG ea data n sc o) us s v ∧ OnlyAccess c.ref s { v.complete c c.perf with near := [] }
      ∧ (v.complete c c.perf).ctxAt c.ref = some c' ∧ c'.path = c.path.next ∧ c'.wave.held = (if o = .rlx then hs else [])
      ∧ (v.complete c c.perf).near =
        (if o = .rlx then [] else hs.map fun h => ⟨c.group.id, c.ref.wix, c.group.cluster, scopeLevel sc, h⟩)
      ∧ SameV c c' ∧ SameS c c' ∧ SameP c c' ∧ SameL c c' := by
  subst hhs
  by_cases hrlx : o = .rlx
  · subst hrlx
    obtain ⟨v, hv, l, h⟩ := storesG_held (n := n) hc hf hr hrel hp
    obtain ⟨c', hc', hacc, hpath, hheld, -, -, hsame⟩ := h.completes hc c.perf_nodup
    have hnear : (v.complete c c.perf).near = [] := hacc.near.trans hh.1
    have hacc' : OnlyAccess c.ref s { v.complete c c.perf with near := [] } := by rwa [← hnear]
    rw [hh.held_eq hc] at hheld
    exact ⟨v, c', hv, hacc', hc', hpath, hheld, hnear, hsame⟩
  · obtain ⟨v, hv, l, h⟩ := storesG_near (n := n) hc hf hr hrel hrlx (ho.resolve_left hrlx) hh hp
    obtain ⟨c', hc', hacc, hpath, hheld, -, -, hsame⟩ := h.completes hc c.perf_nodup
    rw [hh.held_eq hc] at hheld
    refine ⟨v, c', hv, hacc.withoutNear hh.1, hc', hpath, hheld.trans (if_neg hrlx).symm, ?_, hsame⟩
    rw [if_neg hrlx, hacc.near, List.map_map]
    rfl

end

/-- Settles O33: a row load gives each thread its sector, in the order of the sectors; a row store is the shared store of its
class in that order, or buffers by ascending threads. -/
theorem tileRowsComplete : Obligations.TileRowsComplete := by
  unfold Obligations.TileRowsComplete
  refine ⟨?_, ?_, ?_, ?_⟩
  · intro s c d b o m r p hc hread ea row ha hp hf hpro
    obtain ⟨l, hexec⟩ := ldtG_completes (d := d) (r := r) hc hread ha hp hf hpro
    obtain ⟨c', hfin, hrow⟩ := rows_complete (d := d) (row := row) hc (sortBy_inOrder ea c.perf_pairwise).1 l
    have honly : OnlyAccess c.ref s ((s.aside c.ref l (c.takeRows d row (sortBy ea c.perf))).complete c c.perf) := by
      rw [State.complete_eq, s.aside_modWave _ _ (c.takeRows_wix d row _)]
      exact onlyAccess_aside fun w => (c.stepOn_wix ..).trans (c.takeRows_wix ..)
    exact ⟨_, c', hexec, hfin, honly, hrow⟩
  · intro s c d b o m r p hc hread ea row ha hp hf hpro
    have hexec := ldtS_completes (d := d) (r := r) hc hread ha hp hf hpro
    obtain ⟨c', hfin, hrow⟩ := rows_complete (d := d) (row := row) hc (sortBy_inOrder ea c.perf_pairwise).1 id
    rw [State.aside_id] at hfin
    refine ⟨_, c', hexec, ⟨hfin, ?_⟩, hrow⟩
    rw [complete_after_modWave s c (c.takeRows_wix d row _)]
    exact onlyWave_modWave _ _ _ fun w => (c.stepOn_wix ..).trans (c.takeRows_wix ..)
  · intro s c d b o m r hc hread ea ha hf hheld
    refine ⟨fun us u ps hr ho hus hs => ?_, fun p hp => ⟨fun hr hroom => ?_, ?_⟩⟩
    · obtain rfl := eq_sortBy hus
      obtain ⟨v, hv, l, h⟩ := storesG_now (n := 32) hc hf hr ho hheld hs
      obtain rfl := State.stores_eq_physWrites hs
      have hmem := MemoryOnly.physWrites s ps
      obtain ⟨c', -, hacc, -, -, -, hfin, hsame⟩ := h.completes (hmem.ctx.trans hc) c.perf_nodup
      exact ⟨_, c', sttG_of_inTurn hc hread ha hf hr hv, hfin rfl rfl, hacc.onlyMemory hmem,
        fun q => (hacc.byteAt q).trans (byteAt_physWrites s ps q), hsame⟩
    · have hperm := (sortBy_inOrder ea c.perf_pairwise).1
      obtain ⟨v, hv, l, h⟩ := touches_inTurn (us := sortBy ea c.perf) (p := p) fun t ht => hp t (hperm.mem_iff.1 ht)
      obtain ⟨c', hc', hacc, hpath, -, hbuf, -, hsame⟩ := (h.bufferRows (row := c.row d) hp).completes hc c.perf_nodup
      exact ⟨_, c', sttG_buffers hc hread ha hf hr hroom hv, hacc, hc', hpath, hbuf, hsame⟩
    · intro us hr hrel ho hus hs
      obtain rfl := eq_sortBy hus
      obtain ⟨v, c', hv, hdone⟩ := storesG_later_complete (n := 32) (data := c.row d) hc hf hr hrel hheld ho
        (fun t ht => (c.rowBytes_length d t : (c.row d t).length = 32).symm ▸ hp t (hus.1.mem_iff.1 ht)) (hs := hs) rfl
      exact ⟨_, c', sttG_of_inTurn hc hread ha hf hr hv, hdone⟩
  · intro s c d b o m r us p hc hread ea ha hp hf hheld hus u
    obtain rfl := eq_sortBy hus
    have hp' : s.SpStores c true ea 32 (sortBy ea c.perf) p := fun t ht =>
      ⟨(spPlace_scratchpad (hp t (hus.1.mem_iff.1 ht)).1).1, (hp t (hus.1.mem_iff.1 ht)).2⟩
    have hsp : ∀ t ∈ sortBy ea c.perf, ∃ g a, p t = .sp g a := fun t ht => (spPlace_scratchpad (hp t (hus.1.mem_iff.1 ht)).1).2
    have hu : u = s.spWrites ((sortBy ea c.perf).map fun t => (p t, c.row d t)) := by rw [State.spWrites, List.foldl_map]
    rw [hu]
    refine ⟨fun hr => ?_, ?_⟩
    · obtain ⟨v, c', hv, hdone⟩ := storesS_now_complete (apert := false) hc hf (c.rowBytes_length d) hp' hheld hsp hr
      exact ⟨_, c', sttS_of_inTurn hc hread ha hp hf hv, hdone⟩
    · intro hrel ho hs
      obtain ⟨v, c', hv, hdone⟩ :=
        storesS_later_complete (apert := false) hc hf (c.rowBytes_length d) hp' hheld hsp hrel ho (hs := hs) rfl
      exact ⟨_, c', sttS_of_inTurn hc hread ha hp hf hv, hdone⟩

end Sys2Proof.Machine
end

section
/-! SUPPORT. Fences, `sinit` and `ttest` (O36). -/

namespace Sys2Proof.Machine

/-! ### Fences (R166, R220, R221, R225) -/

theorem splitNear_all (xs : List Near) : splitNear (fun _ => true) xs = (xs, []) := by
  induction xs with
  | nil => rfl
  | cons x xs ih =>
    rw [splitNear, List.foldr_cons, ← splitNear, ih]
    rfl

section

variable {s : State} {c : Ctx} {m : Scope} {r : Order}

theorem fence_exec (hc : s.ctx = some c) :
    exec (.fence m r) s = .next (((s.orderFirst c (scopeLevel m) r).promote m r).complete c c.perf) :=
  issue_of_ctx hc _

theorem promote_eq_self (h : m ≠ .devRm ∨ (r ≠ .acq ∧ r ≠ .ar)) : s.promote m r = s := by
  unfold State.promote
  rw [if_neg]
  rintro ⟨hm, hr⟩
  rcases h with h | ⟨hacq, har⟩
  · exact h hm
  · exact hr.elim hacq har

theorem orderFirst_of_noneHeld (h : s.NoneHeld c.ref) (n : Nat) : s.orderFirst c n r = s := by
  rw [State.orderFirst, release_of_noneHeld h, ite_self]

end

/-! ### `sinit` (R169) -/

section

variable {s : State} {c : Ctx} {a b : VOp} {p : Nat → SpPlace}

/-- The bytes of a sync word with its total. -/
def Ctx.syncWord (c : Ctx) (b : VOp) (t : Nat) : List Byte := leBytes 4 (c.v32 t b).toNat ++ leBytes 12 0

theorem sinit_exec (hc : s.ctx = some c) (hread : c.Readable c.perf [⟨a, false⟩, ⟨b, false⟩]) (ha : Aligned (c.eaS a 0) 16 c.perf)
    (hp : s.SpStores c false (c.eaS a 0) 16 c.perf p) (hf : c.First) (hh : s.NoneHeld c.ref) :
    exec (.sinit a b) s = .next ((s.spWrites (c.perf.map fun t => (p t, c.syncWord b t))).complete c c.perf) := by
  have hsp := spTrap_eq_none ha fun t ht => ⟨p t, (hp t ht).1⟩
  change execSinit a b s = _
  simp only [execSinit, issue_of_ctx hc, srcTrap_eq_none hread, hsp]
  refine congrArg Host.Outcome.next (accessAll_of_inTurn hf.1 _ ?_)
  refine InTurn.of_states (fun done => s.spWrites (done.map fun t => (p t, c.syncWord b t))) rfl fun done t rest hts => ?_
  have hl := layout_spWrites s (done.map fun t => (p t, c.syncWord b t))
  obtain ⟨hplace, hnet⟩ := hp.of_layout hl t (by simp [hts])
  have hnet' : (s.spWrites (done.map fun t => (p t, c.syncWord b t))).netFails c (c.eaS a 0 t) = false := hnet
  simp only [hplace, hnet', State.drain, release_of_noneHeld (noneHeld_of_layout hl hh), List.map_append, State.spWrites_append]
  rfl

end

/-! ### `ttest` (R320) -/

/-- Bit 0 of a little-endian number is that of its first byte. -/
theorem testBit_zero_leNat (bs : List Byte) : (leNat bs).testBit 0 = (bs.headD 0).getLsbD 0 := by
  cases bs with
  | nil => rfl
  | cons b bs =>
    have hparity : (b.toNat + 256 * leNat bs) % 2 = b.toNat % 2 := by omega
    simp only [leNat, List.headD_cons, BitVec.getLsbD, Nat.testBit_zero, hparity]

theorem Wave.putPs_append (w : Wave) (d : Fin 8) (vs : List (Nat × Bool)) (t : Nat) (x : Bool) :
    w.putPs d (vs ++ [(t, x)]) = (w.putPs d vs).putP d t x := by
  induction vs generalizing w with
  | nil => rfl
  | cons v vs ih => exact ih ..

theorem Wave.putPs_keeps (w : Wave) (d : Fin 8) (vs : List (Nat × Bool)) :
    ((w.putPs d vs).wix, (w.putPs d vs).held, (w.putPs d vs).cbuf) = (w.wix, w.held, w.cbuf) := by
  obtain ⟨a, h⟩ := w.putPs_eq d vs
  rw [h]

section

variable {s : State} {c : Ctx} {d : Fin 8} {a : VOp} {p : Nat → Phys}

theorem ttest_exec (hc : s.ctx = some c) (hread : c.Readable c.perf [⟨a, true⟩]) (ha : Aligned (c.eaG a 0) 8 c.perf)
    (hp : s.GLoads c (c.eaG a 0) 8 c.perf p) (hf : c.First) :
    ∃ l, exec (.ttest d a) s = .next ((s.aside c.ref l fun w =>
      w.putPs d (c.perf.map fun t => (t, ((s.view c t (p t) 8).headD 0).getLsbD 0))).complete c c.perf) := by
  let P (done : List Nat) (w : Wave) : Wave := w.putPs d (done.map fun t => (t, ((s.view c t (p t) 8).headD 0).getLsbD 0))
  have hP : ∀ done w, (P done w).wix = w.wix := fun done w => (Prod.mk.inj (w.putPs_keeps d _)).1
  obtain ⟨u, hu, l, rfl⟩ := InTurn.of_invariant (ts := c.perf) (s := s) (P := fun done v => ∃ l, v = s.aside c.ref l (P done))
    (f := fun s t => (s.gLoad c t (c.eaG a 0 t) 8).map fun r =>
      r.2.modWave c.ref.group c.ref.wix fun w => w.putP d t ((leNat r.1).testBit 0))
    ⟨id, (s.aside_id .. ▸ State.modWave_id ..).symm⟩ fun done t rest v hts ⟨l, hv⟩ => by
      obtain ⟨htrans, hbad⟩ := hp t (by simp [hts])
      have hreach : v.reach c .load (c.eaG a 0 t) 8 = .ok (p t) := hv ▸ reach_of_translate ((translate_aside ..).trans htrans)
      have hphys : v.physBad (p t) 8 = false := by rw [hv]; exact hbad
      have hview : v.view c t (p t) 8 = s.view c t (p t) 8 := by
        rw [hv]
        exact view_aside (fun w => w.putPs_keeps d _) ..
      obtain ⟨l', hl'⟩ := s.aside_touch c.ref l (P done) (c.eaG a 0 t) 8
      refine ⟨(v.touch c.ref.group (c.eaG a 0 t) 8).modWave c.ref.group c.ref.wix fun w =>
        w.putP d t ((leNat (s.view c t (p t) 8)).testBit 0), ?_, l', ?_⟩
      · simp only [State.gLoad, hreach, Except.bind, hphys, Bool.false_eq_true, if_false, hview, Except.map]
      · rw [hv, hl', s.aside_modWave _ _ (hP done)]
        congr 1
        funext w
        simp only [P, List.map_append, List.map_singleton, Wave.putPs_append, testBit_zero_leNat]
  refine ⟨l, ?_⟩
  change execTtest d a s = _
  simp only [execTtest, issue_of_ctx hc, srcTrap_eq_none hread, alignTrap_eq_none ha]
  exact congrArg Host.Outcome.next (accessAll_of_inTurn hf.1 (fun _ => none) hu)

/-- Predicates written beside lines counted, and the word completed. -/
theorem predicates_aside (hc : s.ctx = some c) (l : Sparse 8 → Sparse 8) (f : Nat → Bool) {t : State}
    (ht : t = (s.aside c.ref l fun w => w.putPs d (c.perf.map fun t => (t, f t))).complete c c.perf) :
    ∃ c', Finished c c.perf t c' ∧ OnlyAccess c.ref s t ∧ WroteP c c' d c.perf f ∧ SameV c c' ∧ SameS c c' ∧ SameL c c' := by
  obtain ⟨y, h1⟩ := State.ctx_withLines hc l
  obtain ⟨c', hdone, hp, hv, hs, hl⟩ := predicates_of h1 c.perf c.perf c.perf_nodup c.perf_nodup d f
  subst ht
  refine ⟨c', hdone.toFinished.ofGroup, ?_, hp, hv, hs, hl⟩
  have hwix : ∀ w : Wave, (w.putPs d (c.perf.map fun t => (t, f t))).wix = w.wix := fun w => (Prod.mk.inj (w.putPs_keeps d _)).1
  rw [State.complete_eq, s.aside_modWave _ _ hwix]
  exact onlyAccess_aside fun w => (c.stepOn_wix ..).trans (hwix w)

end

end Sys2Proof.Machine
end

section
/-! SUPPORT. Tile state words changed (O36). -/

namespace Sys2Proof.Machine

/-! ### What a wave sees of memory -/

section

variable {s u v m : State} {c : Ctx} {r : PathRef} {l : Sparse 8 → Sparse 8} {es : List CEntry}

theorem Pends.view (h : Pends r l [] [] s u) (c : Ctx) (t : Nat) (p : Phys) (n : Nat) : u.view c t p n = s.view c t p n := by
  obtain ⟨e, rfl⟩ := h
  exact view_aside (fun w => by simp [Wave.pend]) ..

theorem Pends.physBad (h : Pends r l [] [] s u) (p : Phys) (n : Nat) : u.physBad p n = s.physBad p n := by
  obtain ⟨e, rfl⟩ := h
  rfl

theorem Ctx.launch?_id (h : s.ctx = some c) : s.launch? c.launch.id = some c.launch := by
  have hl := (State.ctxAt_eq (State.ctx_eq h).2).2.2.2.2
  have hid : c.launch.id = c.group.launch := by simpa using List.find?_some hl
  rw [hid, hl]

/-- Without a snapshot, and with nothing held back, a thread sees memory. -/
theorem view_eq_physRead (hc : s.ctx = some c) (hsnap : c.launch.snap = none) (hh : s.NoneHeld c.ref) (t : Nat) (p : Phys) (n : Nat) :
    s.view c t p n = s.physRead p n := by
  have hnear : s.nearRead c p n = s.physRead p n := by rw [State.nearRead, hh.1, List.foldl_nil]
  simp only [State.view, State.wave?_of_ctxAt (State.ctx_eq hc).2, hh.held_eq hc, Ctx.launch?_id hc, Option.bind_some, hsnap, hnear,
    List.foldl_nil]

/-! ### Entries in turn (R232) -/

/-- Entries put into the commit buffer of the wave. -/
def State.buffered (s : State) (c : Ctx) (es : List CEntry) : State :=
  s.modWave c.ref.group c.ref.wix fun w => { w with cbuf := w.cbuf ++ es }

theorem State.buffered_nil (s : State) (c : Ctx) : s.buffered c [] = s := by
  simp only [State.buffered, List.append_nil, State.modWave_id]

theorem State.buffered_buffered (s : State) (c : Ctx) (es fs : List CEntry) :
    (s.buffered c es).buffered c fs = s.buffered c (es ++ fs) := by
  rw [State.buffered, State.buffered, State.modWave_modWave _ _ _ (fun w => { w with cbuf := w.cbuf ++ es }) _ fun _ => rfl]
  simp only [List.append_assoc]
  rfl

/-- The entries of threads in their turns. -/
def State.entries (s : State) (c : Ctx) (e : State → Nat → CEntry) (ts : List Nat) : List CEntry :=
  (s.turns c e ts).map fun x => e x.2 x.1

theorem State.entries_append (s : State) (c : Ctx) (e : State → Nat → CEntry) (ts : List Nat) (t : Nat) :
    s.entries c e (ts ++ [t]) = s.entries c e ts ++ [e (s.buffered c (s.entries c e ts)) t] := by
  induction ts generalizing s with
  | nil =>
    rw [show s.entries c e [] = [] from rfl, s.buffered_nil]
    rfl
  | cons u ts ih =>
    have hcons : ∀ us, s.entries c e (u :: us) = e s u :: (s.buffered c [e s u]).entries c e us := fun _ => rfl
    rw [List.cons_append, hcons, hcons, ih, State.buffered_buffered]
    rfl

theorem State.buffered_aside (s : State) (c : Ctx) (l : Sparse 8 → Sparse 8) (e : List Held → List Held) (es : List CEntry) :
    (s.buffered c es).aside c.ref l (Wave.pend e [] []) = s.aside c.ref l (Wave.pend e [] es) := by
  have hlines : (s.buffered c es).modGroup c.ref.group (Group.withLines l)
      = (s.modGroup c.ref.group (Group.withLines l)).modWave c.ref.group c.ref.wix fun w => { w with cbuf := w.cbuf ++ es } :=
    State.modGroup_comm s _ _ (F := fun y => y.modWave c.ref.wix fun w => { w with cbuf := w.cbuf ++ es }) (G := Group.withLines l)
      (fun _ => rfl) (fun _ => rfl) fun _ => rfl
  rw [State.aside, hlines, State.modWave_modWave _ _ _ (fun w => { w with cbuf := w.cbuf ++ es }) _ fun _ => rfl]
  exact congrArg ((s.modGroup c.ref.group (Group.withLines l)).modWave c.ref.group c.ref.wix) (funext fun w => by simp [Wave.pend])

theorem pends_buffered : Pends c.ref l [] [] (s.buffered c es) u ↔ Pends c.ref l [] es s u := by
  simp only [Pends, State.buffered_aside]

theorem State.NoneHeld.buffered (h : s.NoneHeld c.ref) (es : List CEntry) : (s.buffered c es).NoneHeld c.ref :=
  ⟨h.1, h.holdsNone.modWave _ _ (fun _ => rfl) fun _ hw => hw⟩

/-! ### Atomics on global memory, one after the other (R164) -/

variable {ea : Nat → Nat} {n : Nat} {far : Bool} {new : Nat → DWord → Nat} {ts : List Nat} {ps : List (Phys × List Byte)}

/-- The memory that atomics leave, and what each has written where. -/
def State.atomTrail (s : State) (c : Ctx) (ea : Nat → Nat) (n : Nat) (far : Bool) (new : Nat → DWord → Nat) (ts : List Nat) :
    Option (State × List (Phys × List Byte)) :=
  (s.glAtoms c ea n far new ts).map fun r => (r.1, r.2.1)

theorem State.atomTrail_cons (s : State) (c : Ctx) (ea : Nat → Nat) (n : Nat) (far : Bool) (new : Nat → DWord → Nat) (t : Nat)
    (ts : List Nat) :
    s.atomTrail c ea n far new (t :: ts) = match s.translate c.group.die c.launch.ctx c.path.priv .atomic (ea t) n with
      | .error _ => none
      | .ok p =>
        if (p.space ≠ .dev ∧ far = false) ∨ s.physBad p n = true then none
        else
          let bs := leBytes n (new t (BitVec.ofNat 64 (leNat (s.physRead p n))))
          ((s.physWrite p bs).atomTrail c ea n far new ts).map fun r => (r.1, (p, bs) :: r.2) := by
  simp only [State.atomTrail, State.glAtoms]
  cases s.translate c.group.die c.launch.ctx c.path.priv .atomic (ea t) n with
  | error e => rfl
  | ok p =>
    by_cases hbad : (p.space ≠ .dev ∧ far = false) ∨ s.physBad p n = true
    · simp [if_pos hbad]
    · simp [if_neg hbad, Function.comp_def]

theorem State.atomTrail_append (s : State) (c : Ctx) (us ts : List Nat) :
    s.atomTrail c ea n far new (us ++ ts) =
      (s.atomTrail c ea n far new us).bind fun r => (r.1.atomTrail c ea n far new ts).map fun q => (q.1, r.2 ++ q.2) := by
  induction us generalizing s with
  | nil => simp [State.atomTrail, State.glAtoms, Function.comp_def]
  | cons t us ih =>
    simp only [List.cons_append, State.atomTrail_cons]
    split
    · rfl
    · split
      · rfl
      · simp [ih, Option.map_bind, Option.bind_map, Function.comp_def]

theorem State.atomTrail_eq_physWrites (h : s.atomTrail c ea n far new ts = some (u, ps)) : u = s.physWrites ps := by
  induction ts generalizing s ps with
  | nil =>
    obtain ⟨rfl, rfl⟩ := Prod.mk.inj (Option.some.inj h)
    rfl
  | cons t ts ih =>
    rw [State.atomTrail_cons] at h
    split at h
    · cases h
    · split at h
      · cases h
      · obtain ⟨⟨v, qs⟩, hv, hr⟩ := Option.map_eq_some_iff.1 h
        obtain ⟨rfl, rfl⟩ := Prod.mk.inj hr
        have hu := ih hv
        exact hu

/-- The atomic of the next thread. -/
theorem State.atomTrail_next {done rest : List Nat} {t : Nat} (h : s.atomTrail c ea n false new (done ++ t :: rest) = some (u, ps)) :
    ∃ qs p bs, s.atomTrail c ea n false new done = some (s.physWrites qs, qs)
      ∧ (s.physWrites qs).translate c.group.die c.launch.ctx c.path.priv .atomic (ea t) n = .ok p
      ∧ p.space = .dev ∧ (s.physWrites qs).physBad p n = false
      ∧ bs = leBytes n (new t (BitVec.ofNat 64 (leNat ((s.physWrites qs).physRead p n))))
      ∧ s.atomTrail c ea n false new (done ++ [t]) = some ((s.physWrites qs).physWrite p bs, qs ++ [(p, bs)]) := by
  rw [State.atomTrail_append] at h
  obtain ⟨⟨m, qs⟩, hdone, hrest⟩ := Option.bind_eq_some_iff.1 h
  obtain rfl := State.atomTrail_eq_physWrites hdone
  obtain ⟨q, hq, -⟩ := Option.map_eq_some_iff.1 hrest
  rw [State.atomTrail_cons] at hq
  split at hq
  · cases hq
  · next p hp =>
    split at hq
    · cases hq
    · next hok =>
      obtain ⟨hspace, hbad⟩ := not_or.1 hok
      replace hspace : p.space = .dev := by simpa using hspace
      replace hbad : (s.physWrites qs).physBad p n = false := by simpa using hbad
      refine ⟨qs, p, _, hdone, hp, hspace, hbad, rfl, ?_⟩
      rw [State.atomTrail_append, hdone, Option.bind_some, State.atomTrail_cons]
      simp only [hp, hspace, hbad, ne_eq, not_true_eq_false, false_and, Bool.false_eq_true, or_self, if_false]
      rfl

end

/-! ### Tile state words (R320) -/

/-- The entry of a row in a commit buffer. -/
def markEntry (i : Instr) (p : Phys) (v : DWord) : CEntry :=
  match i with
  | .tmarkFull _ => .full p v
  | _ => .emptied p v

/-- What the two rows share: the word after them, and their entry in a commit buffer. -/
structure TileMark (i : Instr) (a : VOp) (f : DWord → Nat) (g : DWord → DWord) (k : Phys → DWord → CEntry) : Prop where
  exec  : ∀ s, Machine.exec i s = tmark s a g k
  value : ∀ v, f v = (g v).toNat
  entry : ∀ p v, markEntry i p v = k p v

/-- A word is the sum of what a mask keeps of it and what the mask clears. -/
theorem and_add_and_not (x m : Word) : (x &&& m) + (x &&& ~~~m) = x := by
  have hdisjoint : x &&& m &&& (x &&& ~~~m) = 0#32 := by
    ext i hi
    simp only [BitVec.getElem_and, BitVec.getElem_not, BitVec.getElem_zero]
    cases x[i] <;> cases m[i] <;> rfl
  rw [BitVec.add_eq_or_of_and_eq_zero _ _ hdisjoint]
  ext i hi
  simp only [BitVec.getElem_or, BitVec.getElem_and, BitVec.getElem_not]
  cases x[i] <;> cases m[i] <;> rfl

/-- Bit 0 cleared in a word that has it. -/
theorem and_not_one {x : Word} (h : x.getLsbD 0 = true) : x &&& ~~~(1 : Word) = x - 1 := by
  have hlow : x &&& (1 : Word) = 1 := by
    ext i hi
    rcases i with - | i
    · simpa using h
    · simp
  have hsum := and_add_and_not x 1
  rw [hlow] at hsum
  exact (BitVec.eq_sub_iff_add_eq.2 ((BitVec.add_comm _ _).trans hsum))

theorem tileEmptied_toNat (v : DWord) :
    (tileEmptied v).toNat = if v.getLsbD 0 then (v.toNat - 1 + 2 ^ 32) % 2 ^ 64 else v.toNat := by
  unfold tileEmptied
  split
  · next h =>
    have hodd : v.toNat % 2 = 1 := by simpa [BitVec.getLsbD, Nat.testBit_zero] using h
    have hlow : (v.setWidth 32 : Word).getLsbD 0 = true := by simpa using h
    rw [and_not_one hlow, BitVec.toNat_append, ← Nat.shiftLeft_add_eq_or_of_lt (BitVec.isLt _), Nat.shiftLeft_eq]
    have hone : (1 : Word).toNat = 1 := rfl
    have hlt := v.isLt
    simp only [BitVec.toNat_add, BitVec.toNat_sub, BitVec.extractLsb'_toNat, BitVec.toNat_setWidth, Nat.shiftRight_eq_div_pow, hone]
    omega
  · rfl

theorem TileMarkRow.tileMark {i : Instr} {a : VOp} {f : DWord → Nat} (h : TileMarkRow i a f) : ∃ g k, TileMark i a f g k := by
  cases h with
  | full a => exact ⟨tileFull, .full, fun _ => rfl, fun _ => rfl, fun _ _ => rfl⟩
  | empty a => exact ⟨tileEmptied, .emptied, fun _ => rfl, fun v => (tileEmptied_toNat v).symm, fun _ _ => rfl⟩

section

variable {s u v m : State} {c : Ctx} {l : Sparse 8 → Sparse 8} {g : DWord → DWord} {k : Phys → DWord → CEntry}
  {va t : Nat} {p : Phys}

/-- At once: the word is changed in memory. -/
theorem Pends.tileChange_lands (h : Pends c.ref l [] [] m v) (hc : m.ctx = some c) (hr : c.launch.repro = false)
    (hsnap : c.launch.snap = none) (hh : m.NoneHeld c.ref)
    (ht : m.translate c.group.die c.launch.ctx c.path.priv .atomic va 8 = .ok p) (hspace : p.space = .dev) (hbad : m.physBad p 8 = false) :
    ∃ v', v.tileChange c va g k t = .ok v'
      ∧ ∃ l', Pends c.ref l' [] [] (m.physWrite p (leBytes 8 (g (BitVec.ofNat 64 (leNat (m.physRead p 8)))).toNat)) v' := by
  obtain ⟨l', h'⟩ := h.touch va 8
  have hdrain : (v.touch c.ref.group va 8).drain c.ref.group c.ref.wix = v.touch c.ref.group va 8 := release_of_noneHeld (h'.noneHeld hh) _
  have hview : (v.touch c.ref.group va 8).view c t p 8 = m.physRead p 8 := (h'.view ..).trans (view_eq_physRead hc hsnap hh ..)
  refine ⟨_, ?_, l', h'.blind (groupBlind_physWrite p _)⟩
  simp only [State.tileChange, h.reach ht, Except.bind, hspace, h.physBad, hbad, hdrain, hview, hr, bne_self_eq_false, Bool.false_eq_true,
    if_false]

/-- In a reproducible launch: the change enters the commit buffer. -/
theorem Pends.tileChange_buffers (h : Pends c.ref l [] [] m v) (hr : c.launch.repro = true) (hh : m.NoneHeld c.ref)
    (ht : m.translate c.group.die c.launch.ctx c.path.priv .atomic va 8 = .ok p) (hspace : p.space = .dev) (hbad : m.physBad p 8 = false) :
    ∃ v', v.tileChange c va g k t = .ok v'
      ∧ ∃ l', Pends c.ref l' [] [] (m.buffered c [k p (g (m.valueAt c t p 8))]) v' := by
  obtain ⟨l', h'⟩ := h.touch va 8
  have hdrain : (v.touch c.ref.group va 8).drain c.ref.group c.ref.wix = v.touch c.ref.group va 8 := release_of_noneHeld (h'.noneHeld hh) _
  refine ⟨_, ?_, l', pends_buffered.2 (h'.buffer (k p (g (m.valueAt c t p 8))))⟩
  simp only [State.tileChange, h.reach ht, Except.bind, hspace, h.physBad, hbad, hdrain, h'.view, hr, bne_self_eq_false,
    Bool.false_eq_true, if_false, if_true]
  rfl

/-- The changes of several threads at once. -/
theorem tileChanges_land {ea : Nat → Nat} {ts : List Nat} {ps : List (Phys × List Byte)} (hc : s.ctx = some c)
    (hr : c.launch.repro = false) (hsnap : c.launch.snap = none) (hh : s.NoneHeld c.ref)
    (hs : s.atomTrail c ea 8 false (fun _ v => (g v).toNat) ts = some (u, ps)) :
    ∃ v, InTurn (fun s t => s.tileChange c (ea t) g k t) ts s v ∧ ∃ l, Pends c.ref l [] [] u v := by
  obtain ⟨v, hv, m, qs, hm, l, hp⟩ := InTurn.of_invariant (f := fun s t => s.tileChange c (ea t) g k t) (ts := ts) (s := s)
    (P := fun done v => ∃ m qs, s.atomTrail c ea 8 false (fun _ v => (g v).toNat) done = some (m, qs) ∧ ∃ l, Pends c.ref l [] [] m v)
    ⟨s, [], rfl, id, .refl ..⟩ fun done t rest v hts ⟨m, qs, hm, l, hp⟩ => by
      obtain ⟨qs', p, bs, hdone, ht, hspace, hbad, rfl, hnext⟩ := State.atomTrail_next (hts ▸ hs)
      obtain ⟨rfl, rfl⟩ := Prod.mk.inj (Option.some.inj (hm.symm.trans hdone))
      have hmem := MemoryOnly.physWrites s qs
      obtain ⟨v', hv', l', hp'⟩ :=
        hp.tileChange_lands (g := g) (k := k) (t := t) (hmem.ctx.trans hc) hr hsnap (hmem.noneHeld hh) ht hspace hbad
      exact ⟨v', hv', _, _, hnext, l', hp'⟩
  obtain ⟨rfl, -⟩ := Prod.mk.inj (Option.some.inj (hm.symm.trans hs))
  exact ⟨v, hv, l, hp⟩

/-- The changes of several threads buffered. -/
theorem tileChanges_buffer {ea : Nat → Nat} {ts : List Nat} {p : Nat → Phys} (hr : c.launch.repro = true) (hh : s.NoneHeld c.ref)
    (hp : ∀ t ∈ ts, s.translate c.group.die c.launch.ctx c.path.priv .atomic (ea t) 8 = .ok (p t))
    (hok : ∀ t ∈ ts, s.physBad (p t) 8 = false ∧ (p t).space = .dev) :
    ∃ v, InTurn (fun s t => s.tileChange c (ea t) g k t) ts s v
      ∧ ∃ l, Pends c.ref l [] (s.entries c (fun u t => k (p t) (g (u.valueAt c t (p t) 8))) ts) s v := by
  obtain ⟨v, hv, l, h⟩ := InTurn.of_invariant (f := fun s t => s.tileChange c (ea t) g k t) (ts := ts) (s := s)
    (P := fun done v => ∃ l, Pends c.ref l [] [] (s.buffered c (s.entries c (fun u t => k (p t) (g (u.valueAt c t (p t) 8))) done)) v)
    ⟨id, (s.buffered_nil c).symm ▸ .refl ..⟩ fun done t rest v hts ⟨l, h⟩ => by
      have ht : t ∈ ts := by simp [hts]
      obtain ⟨hbad, hspace⟩ := hok t ht
      have htrans := (translate_withGroups s (s.buffered c (s.entries c (fun u t => k (p t) (g (u.valueAt c t (p t) 8))) done)).groups
        s.near c.group.die c.launch.ctx c.path.priv .atomic (ea t) 8).trans (hp t ht)
      obtain ⟨v', hv', l', h'⟩ := h.tileChange_buffers (g := g) (k := k) (t := t) hr (hh.buffered _) htrans hspace hbad
      refine ⟨v', hv', l', ?_⟩
      rw [State.entries_append, ← State.buffered_buffered]
      exact h'
  exact ⟨v, hv, l, pends_buffered.1 h⟩

/-- The fault of an access that the walk allows has the cause of a permission fault (R164, R248). -/
theorem permFault_cause {die ctx : Nat} {priv : Bool} {n : Nat} (h : s.translate die ctx priv .atomic va n = .ok p) :
    (s.permFault die ctx va).cause = 2 := by
  unfold State.translate at h
  unfold State.permFault
  split at h
  · cases h
  · next hl => rw [hl]

/-- A word of one thread that host or peer memory excludes. -/
theorem excludes_of_excluded {f : State → Nat → Except AFault State} {loc : Nat → Option Target} {j : Nat} {x : XFault} {va : DWord}
    (ht : c.Together) (hperf : c.perf = [j]) (hx : x.cause = 2) (hj : f s j = .error (.excluded x va)) :
    s.Excludes c j va (s.accessAll c c.perf loc f) := by
  obtain ⟨u, r, hpost⟩ : ∃ u r, s.postFault c.group.die
      ⟨va, c.launch.ctx, .atomic, x, c.group.core, c.wave.wslot, BitVec.twoPow 32 j, true⟩
      = (u, r) := ⟨_, _, rfl⟩
  refine ⟨x, u, r, hx, hpost, ?_⟩
  have hcount : u.count c [] = u := by
    unfold State.count
    split
    · rfl
    · exact State.modWave_id ..
  have heach : s.eachThread c loc f [j] [] = (s, ⟨[(j, .excluded x va)], []⟩) := by
    simp only [State.eachThread, mustWait_false _ _ _ ht, State.tryThread, failedThread_none _ _ _ ht, hj]
    rfl
  have hpostAll : s.postAll c [(j, .excluded x va)] = (u, [(j, 0x07, some r, va)]) := by
    simp only [State.postAll, State.postThread, State.postMask, hpost, hx, if_true]
    rfl
  have hpartial : s.accessAll c c.perf loc f = s.partialTrap c [(j, .excluded x va)] [j] := by
    simp [State.accessAll, hperf, heach, ht.2.1]
  rw [hpartial, State.partialTrap, hpostAll, hperf, ht.2.1]
  simp [hcount]
  rfl

end

end Sys2Proof.Machine
end

section
/-! SUPPORT. Fences and state words settled (O36). -/

namespace Sys2Proof.Machine

section

variable {s u : State} {c : Ctx} {a : VOp} {g : DWord → DWord} {k : Phys → DWord → CEntry}

theorem tmark_eq (hc : s.ctx = some c) (hread : c.Readable c.perf [⟨a, true⟩]) (ha : Aligned (c.eaG a 0) 8 c.perf)
    (hroom : c.launch.repro = true → c.wave.cbuf = [] ∨ c.wave.cbuf.length + c.perf.length ≤ 512) :
    tmark s a g k = .next (s.accessAll c c.perf (s.globalLoc c .atomic (c.eaG a 0) 8) fun s t => s.tileChange c (c.eaG a 0 t) g k t) := by
  simp only [tmark, issue_of_ctx hc, srcTrap_eq_none hread, alignTrap_eq_none ha, Ctx.fits_of_room hroom, if_true]
  rfl

theorem tmark_of_inTurn (hc : s.ctx = some c) (hread : c.Readable c.perf [⟨a, true⟩]) (ha : Aligned (c.eaG a 0) 8 c.perf)
    (hf : c.First) (hroom : c.launch.repro = true → c.wave.cbuf = [] ∨ c.wave.cbuf.length + c.perf.length ≤ 512)
    (h : InTurn (fun s t => s.tileChange c (c.eaG a 0 t) g k t) c.perf s u) : tmark s a g k = .next (u.complete c c.perf) :=
  (tmark_eq hc hread ha hroom).trans (congrArg Host.Outcome.next (accessAll_of_inTurn hf.1 _ h))

end

/-- A base without an offset. -/
theorem Ctx.eaG_zero (c : Ctx) (a : VOp) : c.eaG a 0 = fun t => (c.v64 t a).toNat :=
  funext fun _ => congrArg BitVec.toNat (BitVec.add_zero _)

theorem Ctx.eaS_zero (c : Ctx) (a : VOp) : c.eaS a 0 = fun t => (c.v32 t a).toNat :=
  funext fun _ => congrArg BitVec.toNat (BitVec.add_zero _)

/-- Settles O36: a fence is its release, its promotion and the completion; the other words are accesses in turn. -/
theorem fenceAndStateWords : Obligations.FenceAndStateWords := by
  unfold Obligations.FenceAndStateWords
  refine ⟨fun s c m r hc hh => ⟨_, fence_exec hc, ?_⟩, fun s c m r hc => ⟨fun hm => ?_, fun hm hr => ?_⟩, ?_, ?_, ?_⟩
  · rw [orderFirst_of_noneHeld hh, promote_of_noPromote fun _ _ => hh.1]
    exact passed_of_complete hc _ c.perf_nodup
  · rw [fence_exec hc, promote_eq_self hm, State.orderFirst]
  · subst hm hr
    rw [fence_exec hc]
    simp [State.orderFirst, State.promote, State.performNear, splitNear_all]
  · intro s c a b p hc hread ea bs ha hp hf hh u
    have hu : u = s.spWrites (c.perf.map fun t => (p t, c.syncWord b t)) := by
      rw [State.spWrites, List.foldl_map]
      rfl
    have hplaces : ∀ x ∈ c.perf.map fun t => (p t, c.syncWord b t), ∃ g o, x.1 = .sp g o := fun x hx => by
      obtain ⟨t, ht, rfl⟩ := List.mem_map.1 hx
      exact (spPlace_scratchpad (hp t ht).1).2
    have hexec := sinit_exec (a := a) (b := b) (p := p) hc hread (c.eaS_zero a ▸ ha) (c.eaS_zero a ▸ hp) hf hh
    rw [hu]
    obtain ⟨c', hdone⟩ := spWrites_complete hc hplaces id
      (t := (s.spWrites (c.perf.map fun t => (p t, c.syncWord b t))).complete c c.perf) (by rw [funext Wave.pend_nil, State.modWave_id])
    exact ⟨_, c', hexec, hdone⟩
  · intro s c i a f hrow hc hread ea ha hf hh
    obtain ⟨g, k, hmark⟩ := hrow.tileMark
    have hea : c.eaG a 0 = ea := c.eaG_zero a
    obtain rfl : f = fun v => (g v).toNat := funext hmark.value
    refine ⟨fun u ps old hr hsnap hs => ?_, fun p hp => ⟨fun hok hr hroom => ?_, fun j hperf hspace hroom => ?_⟩⟩
    · have htrail : s.atomTrail c ea 8 false (fun _ v => (g v).toNat) c.perf = some (u, ps) := by rw [State.atomTrail, hs]; rfl
      obtain ⟨v, hv, l, h⟩ := tileChanges_land (g := g) (k := k) hc hr hsnap hh htrail
      obtain rfl := State.atomTrail_eq_physWrites htrail
      have hmem := MemoryOnly.physWrites s ps
      obtain ⟨c', -, hacc, -, -, -, hfin, hsame⟩ := h.completes (hmem.ctx.trans hc) c.perf_nodup
      have hexec := tmark_of_inTurn (u := v) (g := g) (k := k) hc hread (hea ▸ ha) hf (by simp [hr]) (hea ▸ hv)
      exact ⟨_, c', (hmark.exec s).trans hexec, hfin rfl rfl, hacc.onlyMemory hmem,
        fun q => (hacc.byteAt q).trans (byteAt_physWrites s ps q), hsame⟩
    · intro val e
      obtain ⟨v, hv, l, h⟩ := tileChanges_buffer (g := g) (k := k) hr hh hp hok
      obtain ⟨c', hc', hacc, hpath, -, hbuf, -, hsame⟩ := h.completes hc c.perf_nodup
      have hexec := tmark_of_inTurn (u := v) (g := g) (k := k) hc hread (hea ▸ ha) hf (fun _ => hroom) (hea ▸ hv)
      have he : (fun u t => k (p t) (g (u.valueAt c t (p t) 8))) = e := funext fun u => funext fun t => by
        have hval : val u t = g (u.valueAt c t (p t) 8) := by simp [val]
        exact hval ▸ (hmark.entry (p t) (val u t)).symm
      rw [he] at hbuf
      exact ⟨_, c', (hmark.exec s).trans hexec, hacc, hc', hpath, hbuf, hsame⟩
    · have htrans := hp j (by simp [hperf])
      have hexec := tmark_eq (g := g) (k := k) hc hread (hea ▸ ha) fun hr => .inr (by rw [hperf]; exact hroom hr)
      have hj : s.tileChange c (ea j) g k j =
          .error (.excluded (s.permFault c.group.die c.launch.ctx (ea j)) (BitVec.ofNat 64 (ea j))) := by
        have hne : ((p j).space != Space.dev) = true := by simpa using hspace
        simp only [State.tileChange, reach_of_translate htrans, Except.bind, hne, if_true]
      rw [hea] at hexec
      exact ⟨_, excludes_of_excluded hf.1 hperf (permFault_cause htrans) hj, (hmark.exec s).trans hexec⟩
  · intro s c d a p hc hread ea ha hp hf
    obtain ⟨l, hexec⟩ := ttest_exec (d := d) (p := p) hc hread (c.eaG_zero a ▸ ha) (c.eaG_zero a ▸ hp) hf
    obtain ⟨c', hdone⟩ := predicates_aside (d := d) hc l (fun t => ((s.view c t (p t) 8).headD 0).getLsbD 0) rfl
    exact ⟨_, c', hexec, hdone⟩

end Sys2Proof.Machine
end

section
/-! SUPPORT. `give` and `claim` (O39). -/

namespace Sys2Proof.Machine

theorem Sparse.get_filter {w : Nat} (m : Sparse w) {p : Nat × BitVec w → Bool} {q : Nat → Bool} (hp : ∀ x, p x = q x.1) (a : Nat) :
    Sparse.get (m.filter p) a = if q a then m.get a else 0 := by
  induction m with
  | nil => simp
  | cons x m ih =>
    obtain ⟨k, v⟩ := x
    rw [List.filter_cons, hp]
    by_cases hk : a = k
    · subst hk
      cases hq : q a <;> simp_all [Sparse.get]
    · cases hq : q k <;> simp [Sparse.get, hk, ih]

theorem Wave.get_dropRegs (w : Wave) (lo hi j k : Nat) (hk : k < 2048) :
    (w.dropRegs lo hi).w.get (2048 * j + k) = if lo ≤ k ∧ k < hi then 0 else w.w.get (2048 * j + k) := by
  have hkey : (2048 * j + k) % 2048 = k := by omega
  simp only [Wave.dropRegs]
  rw [Sparse.get_filter _ (q := fun i => !(decide (lo ≤ i % 2048) && decide (i % 2048 < hi))) fun _ => rfl, hkey]
  by_cases hlo : lo ≤ k <;> by_cases hhi : k < hi <;> simp [hlo, hhi]

theorem State.ctxAt_modGroup_own {s : State} {c : Ctx} (h : s.ctxAt c.ref = some c) {F : Group → Group}
    (hF : ∀ y, ((F y).id, (F y).waves, (F y).launch) = (y.id, y.waves, y.launch)) :
    (s.modGroup c.ref.group F).ctxAt c.ref = some { c with group := F c.group } := by
  obtain ⟨hid, hrest⟩ := Prod.mk.inj (hF c.group)
  obtain ⟨hwaves, hlaunch⟩ := Prod.mk.inj hrest
  obtain ⟨-, hg, hw, hp, hl⟩ := State.ctxAt_eq h
  refine State.ctxAt_mk ?_ ?_ hp ?_
  · rw [State.group?_modGroup s c.ref.group c.ref.group F fun y => (Prod.mk.inj (hF y)).1, hg, Option.map_some, if_pos rfl]
  · rwa [Group.wave?, hwaves]
  · rwa [hlaunch]

theorem cTrap_eq_none {c : Ctx} {a : COp} (h : ∀ k, a = .s k → c.goodS k.val = true) : c.cTrap a = none := by
  cases a with
  | z | imm => rfl
  | s k =>
    refine sTrap_eq_none fun x hx i hi => ?_
    obtain rfl := List.mem_singleton.1 hx
    obtain rfl := SOp.s.inj hi
    exact ⟨h k rfl, by simp⟩

section

variable {s : State} {c : Ctx}

theorem Ctx.stepOn_keeps (c : Ctx) (ts : List Nat) (w : Wave) :
    (c.stepOn ts w).w = w.w ∧ (c.stepOn ts w).seg = w.seg ∧ (c.stepOn ts w).o = w.o ∧ (c.stepOn ts w).p = w.p
      ∧ (c.stepOn ts w).wb = w.wb ∧ (c.stepOn ts w).sb = w.sb := by
  unfold Ctx.stepOn
  cases c.path.priv <;> cases c.ref.slot <;> exact ⟨rfl, rfl, rfl, rfl, rfl, rfl⟩

theorem complete_ctxAt {m : State} {y : Group} {w : Wave} (h : m.ctxAt c.ref = some ⟨c.ref, y, w, c.path, c.launch⟩) (ts : List Nat) :
    (m.complete c ts).ctxAt c.ref = some ⟨c.ref, y.modWave c.ref.wix (c.stepOn ts), c.stepOn ts w, c.path.next, c.launch⟩ := by
  have hslot : (if c.path.priv then w else w.retire ts c.path.counted).path? c.ref.slot = some c.path := by
    rw [← (State.ctxAt_eq h).2.2.2.1]
    split <;> rfl
  exact State.ctxAt_modWave (c := ⟨c.ref, y, w, c.path, c.launch⟩) h (c.stepOn ts) (c.stepOn_wix ts) (by simp [Ctx.stepOn, hslot]; rfl)

/-- A wave with a segment of another size, and registers that are gone from it or new in it. -/
def Wave.resize (lo hi m : Nat → Nat) (w : Wave) : Wave := { w.dropRegs (lo w.seg) (hi w.seg) with seg := m w.seg }

/-- The segment of the wave resized, its group changed beside, and the word completed. -/
theorem resize_completes (hc : s.ctx = some c) (lo hi m : Nat → Nat) {P : Group → Group}
    (hP : ∀ y, ((P y).id, (P y).waves, (P y).launch) = (y.id, y.waves, y.launch)) {t : State}
    (ht : t = (s.modGroup c.ref.group fun y => P (y.modWave c.ref.wix (Wave.resize lo hi m))).complete c c.perf) :
    ∃ c', t.ctxAt c.ref = some c' ∧ { t with groups := s.groups } = s ∧ c'.path = c.path.next ∧ c'.wave.seg = m c.wave.seg
      ∧ (∀ j k, k < 2048 → c'.wave.w.get (2048 * j + k) =
          if lo c.wave.seg ≤ k ∧ k < hi c.wave.seg then 0 else c.wave.w.get (2048 * j + k))
      ∧ (c'.wave.o, c'.wave.p, c'.wave.wb, c'.wave.sb) = (c.wave.o, c.wave.p, c.wave.wb, c.wave.sb)
      ∧ ∃ ws, c'.group = { P (c.group.modWave c.ref.wix (Wave.resize lo hi m)) with waves := ws } := by
  obtain ⟨-, hctx⟩ := State.ctx_eq hc
  have hsplit : (s.modGroup c.ref.group fun y => P (y.modWave c.ref.wix (Wave.resize lo hi m)))
      = (s.modWave c.ref.group c.ref.wix (Wave.resize lo hi m)).modGroup c.ref.group P :=
    (State.modGroup_modGroup s c.ref.group (fun y => y.modWave c.ref.wix (Wave.resize lo hi m)) P fun _ => rfl).symm
  have hsized := State.ctxAt_modWave hctx (Wave.resize lo hi m) (q := c.path) (fun _ => rfl) (State.ctxAt_eq hctx).2.2.2.1
  have hpooled := State.ctxAt_modGroup_own (c := ⟨c.ref, _, Wave.resize lo hi m c.wave, c.path, c.launch⟩) hsized hP
  obtain ⟨hw, hseg, ho, hp, hwb, hsb⟩ := c.stepOn_keeps c.perf (Wave.resize lo hi m c.wave)
  rw [hsplit] at ht
  subst ht
  refine ⟨_, complete_ctxAt (c := c) hpooled c.perf, rfl, rfl, hseg, fun j k hk => ?_, ?_, _, rfl⟩
  · simp only [hw]
    exact Wave.get_dropRegs c.wave _ _ j k hk
  · simp only [ho, hp, hwb, hsb]
    rfl

theorem startWait_ctxAt (hc : s.ctx = some c) (x : Wait) :
    ∃ f : Wave → Wave, (∀ w, (f w).wix = w.wix) ∧ s.startWait c x = s.modWave c.ref.group c.ref.wix f
      ∧ (f c.wave).path? c.ref.slot = some { c.path with wait := x, since := s.ns.toNat }
      ∧ (f c.wave).path? (!c.ref.slot) = c.wave.path? (!c.ref.slot) ∧ (f c.wave).qended = (c.wave.qended || c.launch.repro)
      ∧ { f c.wave with qended := c.wave.qended, path0 := c.wave.path0, path1 := c.wave.path1 } = c.wave := by
  have hpath := (State.ctxAt_eq (State.ctx_eq hc).2).2.2.2.1
  refine ⟨_, fun w => ?_, rfl, ?_, ?_, ?_, ?_⟩
  · rw [Wave.modPath_wix]
  · have hslot : ({ c.wave with qended := c.wave.qended || c.launch.repro } : Wave).path? c.ref.slot = some c.path := by
      rw [← hpath]
      rfl
    simp [hslot]
  · cases c.ref.slot <;> rfl
  · cases c.ref.slot <;> rfl
  · cases c.ref.slot <;> rfl

end

/-- Settles O39: both words change the segment and the pool at one go, or the path joins the queue of claims. -/
theorem poolWords : Obligations.PoolWords := by
  unfold Obligations.PoolWords
  refine ⟨fun s c a hc hp hgood => ?_, fun s c a hc hp hgood => ?_⟩
  · intro n hn hseg hwin
    have hcount : ¬(n % 32 ≠ 0 ∨ c.wave.seg - 96 < n) := by omega
    have hgive : c.giveFails n = [] := List.filter_eq_nil_iff.2 fun t ht => by
      have hw := hwin t (List.mem_range.1 ht)
      simp only [decide_eq_true_eq]
      omega
    have hexec : exec (.give a) s = .next ((s.modGroup c.ref.group fun g =>
        { g.modWave c.ref.wix (Wave.resize (fun k => k - n) (fun k => k) fun k => k - n) with pool := g.pool + n / 32 }).complete c
          c.perf) := by
      change execGive a s = _
      simp only [execGive, atP0_user hc hp, cTrap_eq_none hgood]
      simp only [n] at hcount hgive
      rw [if_neg hcount, if_pos hgive]
      rfl
    obtain ⟨c', hc', honly, hpath, hseg', hregs, hwave, ws, hgroup⟩ :=
      resize_completes hc (fun k => k - n) (fun k => k) (fun k => k - n)
      (P := fun g => { g with pool := g.pool + n / 32 }) (fun _ => rfl) rfl
    simp only [Prod.mk.injEq] at hwave ⊢
    exact ⟨_, c', hexec, hc', honly, hpath, hseg', by rw [hgroup]; rfl, hregs, hwave.1, hwave.2.1, hwave.2.2.1, hwave.2.2.2,
      by rw [hgroup]; rfl, by rw [hgroup]; rfl⟩
  · intro n hn hseg
    have hfits : c.claimFails n = false := by
      simp only [Ctx.claimFails, Bool.or_eq_false_iff, decide_eq_false_iff_not]
      omega
    have hexec : exec (.claim a) s = .next
        (if c.launch.repro = false ∧ c.group.claims = [] ∧ n / 32 ≤ c.group.pool then s.grant c n
          else (s.startWait c (.claim (n / 32))).modGroup c.ref.group fun g => { g with claims := g.claims ++ [c.ref] }) := by
      change execClaim a s = _
      simp only [n] at hfits
      simp only [execClaim, atP0_user hc hp, cTrap_eq_none hgood, hfits]
      rfl
    refine ⟨fun hr hclaims hpool => ?_, fun hwait => ?_⟩
    · rw [if_pos ⟨hr, hclaims, hpool⟩] at hexec
      obtain ⟨c', hc', honly, hpath, hseg', hregs, hwave, ws, hgroup⟩ :=
        resize_completes hc (fun k => k) (fun k => k + n) (fun k => k + n)
        (P := fun g => { g with pool := g.pool - n / 32, claims := g.claims.filter fun r => r != c.ref }) (fun _ => rfl) rfl
      simp only [Prod.mk.injEq] at hwave ⊢
      exact ⟨_, c', hexec, hc', honly, hpath, hseg', by rw [hgroup]; rfl, hregs, hwave.1, hwave.2.1, hwave.2.2.1, hwave.2.2.2,
        by rw [hgroup]; rfl, by rw [hgroup]; rfl⟩
    · have hnot : ¬(c.launch.repro = false ∧ c.group.claims = [] ∧ n / 32 ≤ c.group.pool) := by
        rintro ⟨hr, hclaims, hpool⟩
        rcases hwait with h | h | h
        · simp [hr] at h
        · exact h hclaims
        · omega
      rw [if_neg hnot] at hexec
      obtain ⟨f, hf, hstart, hslot, -, -, hwave⟩ := startWait_ctxAt hc (.claim (n / 32))
      have hmod := State.ctxAt_modWave (State.ctx_eq hc).2 f hf hslot
      have hdone := State.ctxAt_modGroup_own (c := ⟨c.ref, _, f c.wave, _, c.launch⟩) hmod
        (F := fun g => { g with claims := g.claims ++ [c.ref] }) fun _ => rfl
      rw [← hstart] at hdone
      exact ⟨_, _, hexec, hdone, rfl, rfl, rfl, rfl, rfl, (congrArg Wave.seg hwave :)⟩

end Sys2Proof.Machine
end

section
/-! SUPPORT. Barriers of a group with one running path (O40). -/

namespace Sys2Proof.Machine

/-! ### A wave with one running path, and a group of that wave -/

/-- The wave has one path, in a slot, and no record; its quantum has not ended. -/
structure Wave.Alone (w : Wave) (slot : Bool) (p : Path) : Prop where
  path   : w.path? slot = some p
  other  : w.path? (!slot) = none
  depth  : w.depth = 0
  qended : w.qended = false

/-- The group has one wave, which has one path. -/
structure Group.Lone (g : Group) (w : Wave) (slot : Bool) (p : Path) : Prop where
  waves  : g.waves = [w]
  halted : g.halted = false
  alone  : w.Alone slot p

section

variable {w : Wave} {slot : Bool} {p : Path} {b ph : Nat}

theorem Wave.Alone.paths (h : w.Alone slot p) : (w.path0, w.path1) = if slot then (none, some p) else (some p, none) := by
  have hpath := h.path
  have hother := h.other
  cases slot <;> simp_all [Wave.path?]

theorem Wave.Alone.not_ended (h : w.Alone slot p) : w.ended = false := by
  have hpaths := h.paths
  cases slot <;> simp_all [Wave.ended]

theorem Wave.Alone.arrived (h : w.Alone slot p) : w.arrived b ph = p.waitsAt b ph := by
  have hpaths := h.paths
  have hdepth := h.depth
  cases slot <;> simp_all [Wave.arrived]

theorem Wave.Alone.finishWait_eq (h : w.Alone slot p) :
    w.finishWait slot = (if p.priv then w else w.retire (ixs p.active) p.counted).setPath slot (some (p.onward (p.pc + 4))) := by
  simp only [Wave.finishWait, h.path]

theorem Wave.Alone.finishWait (h : w.Alone slot p) : (w.finishWait slot).Alone slot (p.onward (p.pc + 4)) := by
  rw [h.finishWait_eq]
  obtain ⟨-, hother, hdepth, hqended⟩ := h
  refine ⟨Wave.path?_setPath .. ▸ if_pos rfl, ?_, ?_, ?_⟩
  · cases p.priv <;> cases slot <;> exact hother
  · cases p.priv <;> cases slot <;> exact hdepth
  · cases p.priv <;> cases slot <;> exact hqended

/-- What the end of a wait leaves of the wave. -/
theorem Wave.Alone.finishWait_keeps (h : w.Alone slot p) :
    (w.finishWait slot).wix = w.wix ∧ (w.finishWait slot).w = w.w ∧ (w.finishWait slot).o = w.o ∧ (w.finishWait slot).p = w.p := by
  rw [h.finishWait_eq]
  cases p.priv <;> cases slot <;> exact ⟨rfl, rfl, rfl, rfl⟩

theorem Wave.Alone.release (h : w.Alone slot p) (hw : p.wait = .bar b ph) : w.release b (ph + 1) = w.finishWait slot := by
  have hother := h.other
  have hfinish := h.finishWait.other
  cases slot with
  | false =>
    have hgo : (w.finishWait false).path? true = none := hfinish
    simp [Wave.release, h.qended, h.path, hw, hgo]
  | true =>
    have hnone : w.path? false = none := hother
    simp [Wave.release, h.qended, hnone, h.path, hw]

end

/-! ### Phases completed (R153) -/

section

variable {g : Group} {w : Wave} {slot : Bool} {p : Path} {b n : Nat}

/-- The barriers that count a wave: those of every role, and its role's own. -/
def Wave.countedAt (w : Wave) (b : Nat) : Bool := b == 0 || b == bandBar || w.role + 1 == b

theorem Group.Lone.full_iff (h : g.Lone w slot p) : g.full b = true ↔ w.countedAt b = true ∧ p.waitsAt b (g.phase b) = true := by
  have hcounted : g.counted b = if w.countedAt b then [w] else [] := by
    simp [Group.counted, h.waves, List.filter_cons, h.alone.not_ended, Wave.countedAt]
  rw [Group.full, hcounted, h.halted]
  cases hc : w.countedAt b <;> simp [h.alone.arrived]

/-- Barriers at which the path does not wait do not complete. -/
theorem Group.Lone.settle_idle (h : g.Lone w slot p) {bs : List Nat} (hbs : ∀ b ∈ bs, p.waitsAt b (g.phase b) = false) :
    bs.foldl (fun g b => if g.full b then g.completePhase b else g) g = g := by
  induction bs with
  | nil => rfl
  | cons b bs ih =>
    obtain ⟨hb, hrest⟩ := List.forall_mem_cons.1 hbs
    have hfull : ¬g.full b = true := fun e => by simpa [hb] using (h.full_iff.1 e).2
    rw [List.foldl_cons, if_neg hfull]
    exact ih hrest

theorem Group.Lone.completePhase (h : g.Lone w slot p) (hw : p.wait = .bar n (g.phase n)) :
    (g.completePhase n).Lone (w.finishWait slot) slot (p.onward (p.pc + 4)) where
  waves := by simp only [Group.completePhase, h.waves, List.map_cons, List.map_nil, h.alone.release hw]
  halted := h.halted
  alone := h.alone.finishWait

theorem Path.waitsAt_onward (p : Path) (a : DWord) (b ph : Nat) : (p.onward a).waitsAt b ph = false := rfl

/-- Of these barriers the one at which the path waits completes. -/
theorem Group.Lone.settle_waited (h : g.Lone w slot p) (hw : p.wait = .bar n (g.phase n)) (hn : w.countedAt n = true) {bs : List Nat}
    (hbs : bs.Nodup) (hmem : n ∈ bs) : bs.foldl (fun g b => if g.full b then g.completePhase b else g) g = g.completePhase n := by
  have hother : ∀ b, b ≠ n → p.waitsAt b (g.phase b) = false := fun b hb => by simp [Path.waitsAt, hw, Ne.symm hb]
  have hfull : g.full n = true := h.full_iff.2 ⟨hn, by simp [Path.waitsAt, hw]⟩
  induction bs with
  | nil => cases hmem
  | cons b bs ih =>
    obtain ⟨hb, hrest⟩ := List.nodup_cons.1 hbs
    rw [List.foldl_cons]
    by_cases hbn : b = n
    · subst hbn
      rw [if_pos hfull]
      exact (h.completePhase hw).settle_idle fun i _ => Path.waitsAt_onward ..
    · have hidle : ¬g.full b = true := fun e => by simpa [hother b hbn] using (h.full_iff.1 e).2
      rw [if_neg hidle]
      exact ih hrest ((List.mem_cons.1 hmem).resolve_left (Ne.symm hbn))

end

/-! ### A group put in order (R154, R157, R203) -/

section

variable {s : State} {g : Group} {w : Wave} {slot : Bool} {p : Path} {n : Nat}

/-- A group of which a wave runs. -/
def Group.running (g : Group) : Group := { g with exit := none }

/-- The group after its waves have left and parked: nothing, where its wave runs and its class is not shed. -/
theorem Group.Lone.park_leave (h : g.Lone w slot p) (hshed : s.isShed g = false) :
    s.park (g.leave s.ns.toNat) = g.running := by
  have hleave : g.leave s.ns.toNat = g.running := by
    simp [Group.leave, Group.freed, h.waves, h.alone.not_ended, Wave.leave, Group.running]
  have hshed' : s.isShed g.running = false := hshed
  rw [hleave, State.park, hshed', if_neg (by simp)]

theorem Group.Lone.running (h : g.Lone w slot p) : g.running.Lone w slot p := ⟨h.waves, h.halted, h.alone⟩

/-- The group's own phase is put in order: the barrier at which the path waits completes, if it is one of the group's. -/
theorem Group.Lone.settleBars (h : g.Lone w slot p) (hw : p.wait = .bar n (g.phase n)) (hn : w.countedAt n = true) :
    g.settleBars = if n < 9 then g.completePhase n else g := by
  unfold Group.settleBars
  split
  · next hlt => exact h.settle_waited hw hn List.nodup_range (List.mem_range.2 hlt)
  · next hge =>
    refine h.settle_idle fun b hb => ?_
    have hne : n ≠ b := fun e => hge (e ▸ List.mem_range.1 hb)
    simp [Path.waitsAt, hw, hne]

/-- A group with no band: its own band barrier completes where it is full. -/
theorem settleBand_own {y : Group} (hband : y.band = none) (hexit : y.exit = none) :
    s.settleBand y = if y.full bandBar then s.modGroup y.id fun x => x.completePhase bandBar else s := by
  have hgroups : s.bandGroups y = [y] := by simp [State.bandGroups, hband, Group.ended, hexit]
  simp only [State.settleBand, hgroups, List.isEmpty_cons, Bool.not_false, Bool.true_and, List.all_cons, List.all_nil, Bool.and_true]
  split
  · simp only [List.any_cons, List.any_nil, Bool.or_false, beq_iff_eq, State.modGroup, eq_comm (a := y.id)]
  · rfl

theorem Group.settleBars_id (y : Group) : y.settleBars.id = y.id := by
  unfold Group.settleBars
  generalize List.range 9 = bs
  induction bs generalizing y with
  | nil => rfl
  | cons b bs ih =>
    rw [List.foldl_cons, ih]
    split <;> rfl

theorem park_id (y : Group) : (s.park y).id = y.id := by
  unfold State.park
  split <;> rfl

theorem settleBand_groups (y : Group) : { s.settleBand y with groups := s.groups } = s := by
  simp only [State.settleBand]
  split <;> rfl

theorem tidy_groups (gid : Nat) : { s.tidy gid with groups := s.groups } = s := by
  simp only [State.tidy]
  split
  · rfl
  · next y _ =>
    exact congrArg (fun u : State => { u with groups := s.groups })
      (settleBand_groups (s := s.modGroup gid fun g => (s.park (g.leave s.ns.toNat)).settleBars) y)

/-- The last path to come completes its phase. -/
theorem tidy_completes {gid : Nat} (hg : s.group? gid = some g) (h : g.Lone w slot p) (hshed : s.isShed g = false)
    (hband : g.band = none) (hw : p.wait = .bar n (g.phase n)) (hn : w.countedAt n = true) (h9 : n ≤ bandBar) :
    (s.tidy gid).group? gid = some (g.running.completePhase n) := by
  obtain ⟨s1, hs1⟩ : ∃ s1, s1 = s.modGroup gid fun y => (s.park (y.leave s.ns.toNat)).settleBars := ⟨_, rfl⟩
  have hlone := h.running
  have hid : g.id = gid := by simpa using List.find?_some hg
  have hg1 : s1.group? gid = some (if n < 9 then g.running.completePhase n else g.running) := by
    rw [hs1, State.group?_modGroup s gid gid (fun y => (s.park (y.leave s.ns.toNat)).settleBars) fun y =>
      (Group.settleBars_id _).trans (park_id _), hg, Option.map_some, if_pos rfl, h.park_leave hshed, hlone.settleBars hw hn]
  have htidy : s.tidy gid =
      s1.settleBand (if n < 9 then g.running.completePhase n else g.running) := by
    simp only [State.tidy, ← hs1, hg1]
  rw [htidy]
  by_cases hlt : n < 9
  · rw [if_pos hlt] at hg1 ⊢
    have hidle : ¬(g.running.completePhase n).full bandBar = true := fun e =>
      absurd ((hlone.completePhase hw).full_iff.1 e).2 (by simp [Path.waitsAt_onward])
    rw [settleBand_own (y := g.running.completePhase n) hband rfl, if_neg hidle, hg1]
  · obtain rfl : n = bandBar := le_antisymm h9 (not_lt.1 hlt)
    rw [if_neg hlt] at hg1 ⊢
    have hfull : g.running.full bandBar = true := hlone.full_iff.2 ⟨hn, by simp [Path.waitsAt, hw]; rfl⟩
    rw [settleBand_own (y := g.running) hband rfl, if_pos hfull,
      State.group?_modGroup s1 g.running.id gid (fun x => x.completePhase bandBar) fun _ => rfl, hg1, Option.map_some,
      if_pos (show gid = g.running.id from hid.symm)]

end

/-! ### Barrier words (R152, R153) -/

section

variable {s : State} {c : Ctx}

theorem barrierRow_exec {i : Instr} {pre : Ctx → Prop} {n : Ctx → Nat} (h : BarrierRow i pre n) (hc : s.ctx = some c)
    (hp : c.path.priv = false) (hpre : pre c) : exec i s = .next (s.comeTo c (n c)) := by
  cases h with
  | bar => exact atP0_user hc hp _
  | bbar => exact atP0_user hc hp _
  | barN a =>
    obtain ⟨hgood, hn⟩ := hpre
    have hnum : ¬8 < (c.cnt a).toNat := by omega
    have hrole : ¬((c.cnt a).toNat ≠ 0 ∧ c.wave.role + 1 ≠ (c.cnt a).toNat) := by omega
    change execBarN a s = _
    simp only [execBarN, atP0_user hc hp, cTrap_eq_none hgood, if_neg hnum, if_neg hrole]
    rfl

/-- A barrier that a word names counts its wave, and is one of the ten. -/
theorem barrierRow_counts {i : Instr} {pre : Ctx → Prop} {n : Ctx → Nat} (h : BarrierRow i pre n) (hpre : pre c) :
    c.wave.countedAt (n c) = true ∧ n c ≤ bandBar := by
  cases h with
  | bar => exact ⟨rfl, by simp [bandBar]⟩
  | bbar => exact ⟨by simp [Wave.countedAt], le_rfl⟩
  | barN a =>
    obtain ⟨-, hn⟩ := hpre
    rcases hn with h0 | ⟨h8, hrole⟩
    · simp [Wave.countedAt, h0, bandBar]
    · exact ⟨by simp [Wave.countedAt, hrole], h8.trans (by simp [bandBar])⟩

end

/-- Settles O40: the wait is the word's own; alone in its group, the path fills its barrier, and the phase completes. -/
theorem barrierWords : Obligations.BarrierWords := by
  unfold Obligations.BarrierWords
  refine ⟨fun s c i pre n hrow hc hp hpre => barrierRow_exec hrow hc hp hpre, ?_⟩
  intro s c i pre n hrow hc hp hpre hh hr hwaves hother hdepth hqended hhalted hband hshed hbars
  obtain ⟨hcount, h9⟩ := barrierRow_counts hrow hpre
  obtain ⟨f, hf, hstart, hslot, hotherf, hqendedf, hwave⟩ := startWait_ctxAt hc (.bar (n c) (c.group.bars.getD (n c) 0))
  obtain ⟨-, hctx⟩ := State.ctx_eq hc
  obtain ⟨-, hg, hw, hpath, hl⟩ := State.ctxAt_eq hctx
  have hwix : c.wave.wix = c.ref.wix := by simpa using List.find?_some hw
  have hexec : exec i s = .next ((s.modWave c.ref.group c.ref.wix f).tidy c.ref.group) := by
    rw [barrierRow_exec hrow hc hp hpre, State.comeTo, release_of_noneHeld hh]
    exact congrArg (fun u : State => Host.Outcome.next (u.tidy c.ref.group)) hstart
  have hgf : (s.modWave c.ref.group c.ref.wix f).group? c.ref.group = some (c.group.modWave c.ref.wix f) := by
    rw [State.modWave, State.group?_modGroup s _ _ (fun y => y.modWave c.ref.wix f) fun _ => rfl, hg, Option.map_some, if_pos rfl]
  have hlone : (c.group.modWave c.ref.wix f).Lone (f c.wave) c.ref.slot
      { c.path with wait := .bar (n c) (c.group.bars.getD (n c) 0), since := s.ns.toNat } :=
    ⟨by simp [Group.modWave, hwaves, hwix], hhalted, hslot, hotherf.trans hother, (congrArg Wave.depth hwave :).trans hdepth,
      by rw [hqendedf, hqended, hr]; rfl⟩
  have hcountf : (f c.wave).countedAt (n c) = true := by
    have hrole : (f c.wave).role = c.wave.role := (congrArg Wave.role hwave :)
    rw [Wave.countedAt, hrole]
    exact hcount
  have hdone := tidy_completes hgf hlone hshed hband rfl hcountf h9
  have honly : { (s.modWave c.ref.group c.ref.wix f).tidy c.ref.group with groups := s.groups } = s :=
    congrArg (fun u : State => { u with groups := s.groups }) (tidy_groups (s := s.modWave c.ref.group c.ref.wix f) c.ref.group)
  have hend := hlone.running.completePhase (n := n c) rfl
  have hlaunch := (congrArg (fun u : State => u.launch? c.group.launch) honly :)
  have hwixf : ((f c.wave).finishWait c.ref.slot).wix = c.ref.wix := by
    rw [hlone.alone.finishWait_keeps.1, hf, hwix]
  have hctx' := State.ctxAt_mk hdone (w := (f c.wave).finishWait c.ref.slot) (by simp [Group.wave?, hend.waves, hwixf]) hend.alone.path
    (hlaunch.trans hl)
  obtain ⟨-, hregs⟩ := hlone.alone.finishWait_keeps
  refine ⟨_, _, hexec, hctx', honly, rfl, fun b hb => ?_, ?_⟩
  · simp only [Group.completePhase, Group.running, Group.modWave, modAt_getD, hbars]
    by_cases hbn : b = n c
    · subst hbn
      simp [hb]
    · simp [hbn]
  · obtain ⟨hw', ho', hp'⟩ := hregs
    simp only [hw', ho', hp']
    exact (congrArg (fun w : Wave => (w.w, w.o, w.p, c.group.sp)) hwave :)

end Sys2Proof.Machine
end

section
/-! SUPPORT. Matrix words put in the wave's queue (O41). -/

namespace Sys2Proof.Machine

/-! ### Checks at issue that find nothing (R174, R185, R189, R195) -/

section

variable {s : State} {c : Ctx} {a b fa fb : Word} {which align ea n : Nat}

theorem tileTrap_eq_none {d : BitVec 7} (h : d.toNat < c.group.tiles.length) : c.tileTrap d = none :=
  if_neg (Nat.not_le.2 h)

theorem matAlign_eq_none (h : a.toNat % align = 0) : matAlign which align a = none :=
  if_neg (not_not.2 h)

theorem matRange_eq_none (h : s.matFail c ea n = none) : s.matRange c which ea n = none := by
  rw [State.matRange, h, Option.map_none]

/-- The checks of an MMA form: the formats, then those of the stream where operand A comes from one. -/
theorem mmaTrap_eq_none {sq : Option (Fin 4)} (h : MmaFormats c.wave.mcfg.2.2 fa fb)
    (hsq : ∀ q, sq = some q → fa = c.fmt 0 ∧ c.MmaStream q) : c.mmaTrap sq fa fb = none := by
  obtain ⟨ha, hb, hwide, hscale⟩ := h
  have hbits : ¬(c.wave.mcfg.2.2 = 128 ∧ (8 < fmtBits fa ∨ 8 < fmtBits fb)) := fun ⟨hk, h8⟩ => by
    have := hwide hk
    omega
  have hblockA : ¬(c.wave.mcfg.2.2 < 32 ∧ fmtScale fa = 1) := fun ⟨hk, h1⟩ => (hscale hk).1 h1
  have hblockB : ¬(c.wave.mcfg.2.2 < 32 ∧ fmtScale fb = 1) := fun ⟨hk, h1⟩ => (hscale hk).2 h1
  simp only [Ctx.mmaTrap, if_neg ha, if_neg hb, if_neg hbits, if_neg hblockA, if_neg hblockB]
  cases sq with
  | none => rfl
  | some q =>
    obtain ⟨rfl, hplain, hopen, hrow, hhead⟩ := hsq q rfl
    have hfresh : ((c.wave.stream q.val).fifo.head?.map fun e => decide (0 < e.popped)).getD false = false := by
      cases hf : (c.wave.stream q.val).fifo.head? with
      | none => rfl
      | some e => simp [hhead e hf]
    simp [hplain, hopen, hrow, hfresh]

/-- The checks of an operand in scratchpad. -/
theorem operand_checks_eq_none {x : SOp} {rows : Nat} (h : s.MmaOperand c x fa rows) (which : Nat) :
    matAlign which 32 (c.s32 x) = none
      ∧ s.matRange c which (c.s32 x).toNat (elemBytes fa rows c.wave.mcfg.2.2 + scaleBytes fa rows c.wave.mcfg.2.2) = none :=
  ⟨matAlign_eq_none h.1, matRange_eq_none h.2⟩

theorem rowTrap_eq_none (h : s.RowsReach c a b) : s.rowTrap c a b = none := by
  obtain ⟨hscale, hb, hb8, hlen, ha, hrows⟩ := h
  have hpitch : b.toNat % 2 ^ 16 = b.toNat := Nat.mod_eq_of_lt hb
  have hfit : ¬(b.toNat / 2 ^ 16 ≠ 0 ∨ b.toNat % 8 ≠ 0 ∨ b.toNat < rowLen (c.fmt 2)) := by
    omega
  have hnone : (ownedRows c.path.active).filterMap
      (fun r => s.matRange c 3 (rowAddr a b.toNat r) (rowLen (c.fmt 2))) = [] :=
    List.filterMap_eq_nil_iff.2 fun r hr => matRange_eq_none (hrows r hr)
  simp only [State.rowTrap, hpitch, if_neg hscale, if_neg hfit, matAlign_eq_none ha, hnone]
  rfl

end

/-! ### The class of matrix words -/

/-- A matrix word whose checks find nothing leaves its entry behind the others. -/
theorem matrix_queues {s : State} {c : Ctx} {d : BitVec 7} {xs : List (SOp × Bool)} {checks : Ctx → Option Trap}
    (hc : s.ctx = some c) (hp : c.path.priv = false) (hg : c.Guarded) (hr : c.SReadable xs)
    (hd : d.toNat < c.group.tiles.length) (hchecks : checks c = none) (hh : s.NoneHeld c.ref) (op : Ctx → MatOp) :
    matrix s d xs checks op = .next ((s.modWave c.ref.group c.ref.wix fun w =>
      { w with mq := w.mq ++ [op c], matN := w.matN + 1 }).complete c c.perf) := by
  have hdrain : s.drain c.ref.group c.ref.wix = s := release_of_noneHeld hh 4
  simp only [matrix, atP0_user hc hp, guardTrap_of_guarded hg, performs_of_guarded hg, sTrap_eq_none_of_sReadable hr,
    tileTrap_eq_none hd, hchecks, hdrain, if_true]
  rfl

/-! ### The rows, word by word -/

/-- An MMA form with both operands in scratchpad. -/
theorem mmaWord_eq_matrix (s : State) (d : BitVec 7) (a b : SOp) (fa fb : Ctx → Word) :
    ∃ checks, mmaWord s d a b fa fb = matrix s d [(a, false), (b, false)] checks (fun c =>
        c.newOp s.tick (.mma none) d (c.s32 a) (c.s32 b) (fa c) (fb c)
          (mmaCycles c.wave.mcfg.1 c.wave.mcfg.2.1 c.wave.mcfg.2.2 (fa c) (fb c)))
      ∧ ∀ c, MmaFormats c.wave.mcfg.2.2 (fa c) (fb c) → s.MmaOperand c a (fa c) c.wave.mcfg.1 →
        s.MmaOperand c b (fb c) c.wave.mcfg.2.1 → checks c = none := by
  refine ⟨_, rfl, fun c hf ha hb => ?_⟩
  obtain ⟨halignA, hrangeA⟩ := operand_checks_eq_none ha 1
  obtain ⟨halignB, hrangeB⟩ := operand_checks_eq_none hb 2
  have hform : c.mmaTrap none (fa c) (fb c) = none := mmaTrap_eq_none hf nofun
  simp only [hform, halignA, hrangeA, halignB, hrangeB]
  rfl

/-- Each word is of the class, with its row's entry, and its own checks find nothing where the row's precondition holds. -/
theorem matrixRow_exec {i : Instr} {d : BitVec 7} {xs : List (SOp × Bool)} {pre : State → Ctx → Prop} {op : Nat → Ctx → MatOp}
    (h : MatrixRow i d xs pre op) (s : State) :
    ∃ checks, exec i s = matrix s d xs checks (op s.tick) ∧ ∀ c, pre s c → checks c = none := by
  have two (a b : SOp) (fa fb : Ctx → Word) := mmaWord_eq_matrix s d a b fa fb
  cases h with
  | mma _ a b =>
    obtain ⟨checks, he, hn⟩ := two a b (fun c => c.fmt 0) fun c => c.fmt 1
    exact ⟨checks, he, fun c ⟨hf, ha, hb⟩ => hn c hf ha hb⟩
  | mmaBf16 _ a b =>
    obtain ⟨checks, he, hn⟩ := two a b (fun _ => 10) fun _ => 10
    exact ⟨checks, he, fun c ⟨hf, ha, hb⟩ => hn c hf ha hb⟩
  | mmaF16 _ a b =>
    obtain ⟨checks, he, hn⟩ := two a b (fun _ => 9) fun _ => 9
    exact ⟨checks, he, fun c ⟨hf, ha, hb⟩ => hn c hf ha hb⟩
  | mmaSq =>
    refine ⟨_, rfl, fun c ⟨hf, hx, hb⟩ => ?_⟩
    obtain ⟨halign, hrange⟩ := operand_checks_eq_none hb 2
    simp only [mmaTrap_eq_none hf fun _ hq => ⟨rfl, Option.some.inj hq ▸ hx⟩, halign, hrange]
    rfl
  | ald | ast => exact ⟨_, rfl, fun c h => rowTrap_eq_none h⟩
  | aclr | ascale | aexp => exact ⟨_, rfl, fun _ _ => rfl⟩

/-- Settles O41: each row is a matrix word whose own checks find nothing, and such a word queues its row's entry. -/
theorem matrixWordsQueue : Obligations.MatrixWordsQueue := by
  unfold Obligations.MatrixWordsQueue
  intro s c i d xs pre op hrow hc hp hg hr hd hpre hh
  obtain ⟨checks, hexec, hchecks⟩ := matrixRow_exec hrow s
  rw [hexec]
  exact matrix_queues hc hp hg hr hd (hchecks c hpre) hh (op s.tick)

end Sys2Proof.Machine
end

section
/-! SUPPORT. `aclr` and `ascale` performed (O47, O48). -/

namespace Sys2Proof.Machine

/-- Settles O47: the head entry is done with the empty tile. -/
theorem aclrPerform : Obligations.AclrPerform := by
  unfold Obligations.AclrPerform
  intro s w e op r T h hk
  have hexec : exec (.aclrPerform w) s = .next (s.matDone e op fun _ => Tile.empty) := matEvent_of_head h (by rw [hk])
  exact ⟨_, Tile.empty, hexec, h.tileDone .id fun _ => Tile.empty, fun _ => rfl, rfl, rfl, rfl, rfl⟩

/-! ### The elements of a tile, place by place (R198) -/

/-- The number of a place, by which its element is stored. -/
def placeKey (p : Nat × Nat) : Nat := 64 * p.1 + p.2

theorem exists_placeKey {k : Nat} (hk : k < 4096) : ∃ p ∈ tilePlaces, placeKey p = k :=
  ⟨(k / 64, k % 64), List.mem_flatMap.2 ⟨k / 64, by simp; omega, by simp; omega⟩, by simp only [placeKey]; omega⟩

/-- The code of a finite element: neither NaN nor an infinity (R81). -/
def finiteCode (M : BitVec 48) : Bool :=
  match accVal M 0 with
  | .fin _ _ _ => true
  | .inf _ => false
  | .nan => false

/-- One place of a tile: `f` put for a finite element. -/
def Tile.putPlace (T : Tile) (f : Int → BitVec 48) (m : Sparse 48) (p : Nat × Nat) : Sparse 48 :=
  match accVal (T.m.get (placeKey p)) 0 with
  | .fin _ _ _ => m.set (placeKey p) (f (T.m.get (placeKey p)).toInt)
  | .inf _ => m
  | .nan => m

theorem Tile.get_putPlace (T : Tile) (f : Int → BitVec 48) (m : Sparse 48) (p : Nat × Nat) (k : Nat) :
    (T.putPlace f m p).get k
      = if k = placeKey p ∧ finiteCode (T.m.get k) = true then f (T.m.get k).toInt else m.get k := by
  by_cases hk : k = placeKey p
  · subst hk
    simp only [Tile.putPlace, finiteCode]
    cases accVal (T.m.get (placeKey p)) 0 <;> simp
  · rw [if_neg fun h => hk h.1, Tile.putPlace]
    cases accVal (T.m.get (placeKey p)) 0 <;> simp [hk]

theorem Tile.get_foldl_putPlace (T : Tile) (f : Int → BitVec 48) (ps : List (Nat × Nat)) (m : Sparse 48) (k : Nat) :
    (ps.foldl (T.putPlace f) m).get k
      = if k ∈ ps.map placeKey ∧ finiteCode (T.m.get k) = true then f (T.m.get k).toInt else m.get k := by
  induction ps generalizing m with
  | nil => simp
  | cons p ps ih =>
    have hmem : k ∈ (p :: ps).map placeKey ↔ k = placeKey p ∨ k ∈ ps.map placeKey := List.mem_cons
    rw [List.foldl_cons, ih, Tile.get_putPlace]
    by_cases hp : k = placeKey p
    · simp only [hmem, eq_true hp, true_or, true_and]
      by_cases hf : finiteCode (T.m.get k) = true <;> simp [hf]
    · simp only [hmem, hp, false_or, false_and, if_false]

/-- `f` put for every finite element of a tile. -/
def Tile.putFinite (T : Tile) (f : Int → BitVec 48) : Sparse 48 := tilePlaces.foldl (T.putPlace f) T.m

theorem Tile.get_putFinite (T : Tile) (f : Int → BitVec 48) {k : Nat} (hk : k < 4096) :
    (T.putFinite f).get k = if finiteCode (T.m.get k) = true then f (T.m.get k).toInt else T.m.get k := by
  have hmem : k ∈ tilePlaces.map placeKey := List.mem_map.2 (exists_placeKey hk)
  simp only [Tile.putFinite, Tile.get_foldl_putPlace, hmem, true_and]

/-! ### A tile scaled (R198) -/

/-- A finite element above the range of exponents: zero, or the infinity of its sign. -/
def aboveCode (k : Int) : BitVec 48 := if k = 0 then 0 else if k < 0 then accNegInf else accInf

/-- A finite element rounded when the exponent would be `x`, below the range. -/
def belowCode (x k : Int) : BitVec 48 := BitVec.ofInt 48 (roundInt .rne (decide (k < 0)) k.natAbs (x + 32768))

/-- The codes of a tile whose exponent would be `x`. -/
def Tile.scaledCodes (T : Tile) (x : Int) : Sparse 48 :=
  if 32767 < x then T.putFinite aboveCode else if x < -32768 then T.putFinite (belowCode x) else T.m

/-- The exponent that stands for `x`, the nearest in the range. -/
def clampExp (x : Int) : Int := if 32767 < x then 32767 else if x < -32768 then -32768 else x

theorem Tile.scaleBy_eq (T : Tile) (n : Int) :
    T.scaleBy n = { T with m := T.scaledCodes (T.x + n), x := clampExp (T.x + n) } := by
  unfold Tile.scaleBy Tile.scaledCodes clampExp
  by_cases hhi : 32767 < T.x + n
  · simp only [if_pos hhi]
    rfl
  · by_cases hlo : T.x + n < -32768
    · simp only [if_neg hhi, if_pos hlo]
      rfl
    · simp only [if_neg hhi, if_neg hlo]

theorem Tile.get_scaledCodes (T : Tile) (x : Int) {k : Nat} (hk : k < 4096) :
    (T.scaledCodes x).get k
      = if finiteCode (T.m.get k) = true then
          if 32767 < x then aboveCode (T.m.get k).toInt
          else if x < -32768 then belowCode x (T.m.get k).toInt
          else T.m.get k
        else T.m.get k := by
  unfold Tile.scaledCodes
  by_cases hhi : 32767 < x
  · simp only [if_pos hhi, T.get_putFinite aboveCode hk]
  · by_cases hlo : x < -32768
    · simp only [if_neg hhi, if_pos hlo, T.get_putFinite (belowCode x) hk]
    · simp only [if_neg hhi, if_neg hlo, ite_self]

/-- Settles O48: the head entry is done with its tile scaled, whose exponent, flags and elements are known. -/
theorem ascalePerform : Obligations.AscalePerform := by
  unfold Obligations.AscalePerform
  intro s w e op r T h hk H x
  have hexec : exec (.ascalePerform w) s = .next (s.matDone e op fun T => T.heal.scaleBy op.a.toInt) :=
    matEvent_of_head h (by rw [hk])
  refine ⟨_, _, hexec, h.tileDone .id fun T => T.heal.scaleBy op.a.toInt, ?_⟩
  rw [show T.heal.scaleBy op.a.toInt = { H with m := H.scaledCodes x, x := clampExp x } from H.scaleBy_eq _]
  refine ⟨rfl, rfl, fun k hlt => (H.get_scaledCodes x hlt).trans ?_⟩
  rw [finiteCode]
  cases accVal (H.m.get k) 0 <;> rfl

end Sys2Proof.Machine
end

section
/-! SUPPORT. Sorted entries, counts and sums of the gate unit (O52). -/

namespace Sys2Proof.Machine

/-! ### Insertion of entries (R289, R292) -/

theorem insertEntry_perm (before : Word → Word → Option Bool) (x : Word × Word) (ys : List (Word × Word)) :
    (insertEntry before x ys).Perm (x :: ys) := by
  induction ys with
  | nil => exact .refl _
  | cons y ys ih =>
    rw [insertEntry]
    split
    · exact .refl _
    · exact (ih.cons y).trans (.swap x y ys)

theorem sortEntries_perm (before : Word → Word → Option Bool) (xs : List (Word × Word)) : (sortEntries before xs).Perm xs := by
  have h : ∀ acc, (xs.foldl (fun acc x => insertEntry before x acc) acc).Perm (xs.reverse ++ acc) := by
    induction xs with
    | nil => exact fun acc => .refl acc
    | cons x xs ih =>
      intro acc
      simpa using (ih (insertEntry before x acc)).trans ((insertEntry_perm before x acc).append_left _)
  exact (h []).trans (by simp [List.reverse_perm])

section
variable {before : Word → Word → Option Bool} {R : Word × Word → Word × Word → Prop}

theorem insertEntry_pairwise (htrans : ∀ x y z, R x y → R y z → R x z)
    (hbefore : ∀ x y, if entryBefore before x y = true then R x y else R y x) (x : Word × Word) {ys : List (Word × Word)}
    (h : ys.Pairwise R) : (insertEntry before x ys).Pairwise R := by
  induction ys with
  | nil => simp [insertEntry]
  | cons y ys ih =>
    obtain ⟨hy, hys⟩ := List.pairwise_cons.1 h
    have hxy := hbefore x y
    rw [insertEntry]
    split at hxy
    case isTrue hb =>
      rw [if_pos hb]
      refine List.pairwise_cons.2 ⟨fun z hz => ?_, h⟩
      obtain rfl | hz := List.mem_cons.1 hz
      · exact hxy
      · exact htrans x y z hxy (hy z hz)
    case isFalse hb =>
      rw [if_neg hb]
      refine List.pairwise_cons.2 ⟨fun z hz => ?_, ih hys⟩
      obtain rfl | hz := List.mem_cons.1 ((insertEntry_perm before x ys).mem_iff.1 hz)
      · exact hxy
      · exact hy z hz

/-- Entries come out in any order that extends the comparison. -/
theorem sortEntries_pairwise (htrans : ∀ x y z, R x y → R y z → R x z)
    (hbefore : ∀ x y, if entryBefore before x y = true then R x y else R y x) (xs : List (Word × Word)) :
    (sortEntries before xs).Pairwise R := by
  have h : ∀ acc : List (Word × Word), acc.Pairwise R → (xs.foldl (fun acc x => insertEntry before x acc) acc).Pairwise R := by
    induction xs with
    | nil => exact fun _ h => h
    | cons x xs ih => exact fun acc h => ih _ (insertEntry_pairwise htrans hbefore x h)
  exact h [] .nil

end

/-- The order of integer keys: by key, then by id. -/
def keyOrder (asc : Bool) (x y : Word × Word) : Prop :=
  (if asc then x.1.toInt < y.1.toInt else y.1.toInt < x.1.toInt) ∨ (x.1 = y.1 ∧ x.2.toNat ≤ y.2.toNat)

theorem keyOrder_trans (asc : Bool) (x y z : Word × Word) (h : keyOrder asc x y) (h' : keyOrder asc y z) : keyOrder asc x z := by
  obtain h | ⟨h1, h2⟩ := h <;> obtain h' | ⟨h1', h2'⟩ := h'
  · exact .inl (by cases asc <;> simp at h h' ⊢ <;> omega)
  · exact .inl (h1' ▸ h)
  · exact .inl (h1 ▸ h')
  · exact .inr ⟨h1.trans h1', h2.trans h2'⟩

theorem entryBefore_keyOrder (asc : Bool) (x y : Word × Word) :
    if entryBefore (keyBefore asc false) x y = true then keyOrder asc x y else keyOrder asc y x := by
  have hlt : ∀ a b : Word, a.slt b = decide (a.toInt < b.toInt) := fun _ _ => rfl
  obtain h | h | h := lt_trichotomy x.1.toInt y.1.toInt
  · cases asc <;> simp [entryBefore, keyBefore, hlt, keyOrder, h]
  · have he : x.1 = y.1 := BitVec.eq_of_toInt_eq h
    simp only [entryBefore, keyBefore, hlt, keyOrder, he, lt_self_iff_false, decide_false, Bool.false_eq_true, if_false,
      BitVec.ult, decide_eq_true_eq, ite_self, false_or, true_and]
    split <;> omega
  · cases asc <;> simp [entryBefore, keyBefore, hlt, keyOrder, h, h.not_gt]

/-- The order of experts: by number, then by id. -/
def expertOrder (x y : Word × Word) : Prop := x.1.toNat < y.1.toNat ∨ (x.1 = y.1 ∧ x.2.toNat ≤ y.2.toNat)

theorem expertOrder_trans (x y z : Word × Word) (h : expertOrder x y) (h' : expertOrder y z) : expertOrder x z := by
  obtain h | ⟨h1, h2⟩ := h <;> obtain h' | ⟨h1', h2'⟩ := h'
  · exact .inl (h.trans h')
  · exact .inl (h1' ▸ h)
  · exact .inl (h1 ▸ h')
  · exact .inr ⟨h1.trans h1', h2.trans h2'⟩

theorem entryBefore_expertOrder (x y : Word × Word) :
    if entryBefore (fun x y => if x = y then none else some (x.ult y)) x y = true then expertOrder x y else expertOrder y x := by
  by_cases he : x.1 = y.1
  · simp only [entryBefore, expertOrder, he, if_true, lt_self_iff_false, false_or, true_and, BitVec.ult, decide_eq_true_eq]
    split <;> omega
  · have hne : x.1.toNat ≠ y.1.toNat := fun h => he (BitVec.eq_of_toNat_eq h)
    simp only [entryBefore, if_neg he, expertOrder, BitVec.ult, decide_eq_true_eq]
    split <;> omega

/-! ### Counts and sums (R290, R291) -/

theorem foldl_add_eq (a : Word) (xs : List Word) : xs.foldl (· + ·) a = a + xs.foldl (· + ·) 0 := by
  simpa using List.foldl_assoc (α := Word) (op := (· + ·)) (l := xs) (a₁ := a) (a₂ := 0)

theorem foldl_add_eq_ofNat (xs : List Word) :
    xs.foldl (· + ·) 0 = BitVec.ofNat 32 (xs.map fun z => z.toNat).sum := by
  induction xs with
  | nil => rfl
  | cons x xs ih =>
    rw [List.foldl_cons, foldl_add_eq, ih, zero_add, List.map_cons, List.sum_cons, BitVec.ofNat_add,
      BitVec.ofNat_toNat, BitVec.setWidth_eq]

theorem foldl_countEntry_length (n : Nat) (weight : Bool) (es : List (Word × Word)) (c : List Word) :
    (es.foldl (countEntry n weight) c).length = c.length := by
  induction es generalizing c with
  | nil => rfl
  | cons e es ih => rw [List.foldl_cons, ih, countEntry, modAt_length]

/-- Each bin has grown by the values of the entries that fall into it; the last bin takes every id from `n` on. -/
theorem foldl_countEntry_getD {n j : Nat} (weight : Bool) (es : List (Word × Word)) {c : List Word} (hc : c.length = n + 1) :
    (es.foldl (countEntry n weight) c).getD j 0
      = c.getD j 0 + ((es.filter fun z => min z.2.toNat n == j).map fun z => if weight then z.1 else 1).foldl (· + ·) 0 := by
  induction es generalizing c with
  | nil => simp
  | cons e es ih =>
    have hlt : min e.2.toNat n < c.length := by omega
    have hbin : (countEntry n weight c e).getD j 0
        = if j = min e.2.toNat n then c.getD j 0 + (if weight then e.1 else 1) else c.getD j 0 := by
      rw [countEntry, modAt_getD]
      by_cases h : j = min e.2.toNat n
      · rw [if_pos ⟨h, hlt⟩, if_pos h, ← h]
      · rw [if_neg fun e => h e.1, if_neg h]
    rw [List.foldl_cons, ih (by rw [countEntry, modAt_length, hc]), hbin]
    by_cases h : j = min e.2.toNat n
    · rw [if_pos h, List.filter_cons_of_pos (by simp [h]), List.map_cons, List.foldl_cons, foldl_add_eq (0 + _), zero_add,
        add_assoc]
    · rw [if_neg h, List.filter_cons_of_neg (by simp [Ne.symm h])]

theorem State.gateWords_length (s : State) (g : Group) (ea n : Nat) : (s.gateWords g ea n).1.length = n := by
  simp [State.gateWords]

/-- The running sums of `v`, followed by the sum of it all where that is asked for. -/
def runningSums (tot incl : Bool) (v : List Word) : List Word :=
  (List.range v.length).map (fun i => (v.take (if incl then i + 1 else i)).foldl (· + ·) 0)
    ++ if tot then [v.foldl (· + ·) 0] else []

theorem runningSums_length (tot incl : Bool) (v : List Word) : (runningSums tot incl v).length = v.length + tot.toNat := by
  cases tot <;> simp [runningSums]

theorem runningSums_getD {tot incl : Bool} {v : List Word} {j : Nat} (hj : j < (runningSums tot incl v).length) :
    (runningSums tot incl v).getD j 0
      = BitVec.ofNat 32 ((v.take (if incl ∧ j < v.length then j + 1 else j)).map fun z => z.toNat).sum := by
  rw [runningSums_length] at hj
  by_cases h : j < v.length
  · rw [runningSums, List.getD_append _ _ _ _ (by simpa using h)]
    rw [← foldl_add_eq_ofNat]
    simp [h]
  · obtain rfl : tot = true := by
      cases tot
      · exact absurd hj h
      · rfl
    obtain rfl : j = v.length := by simp at hj; omega
    rw [runningSums, List.getD_append_right _ _ _ _ (by simp)]
    rw [← foldl_add_eq_ofNat]
    simp

/-! ### Bytes of lists (R278, R279) -/

theorem leBytes_mod (n v : Nat) : leBytes n (v % 256 ^ n) = leBytes n v := by
  induction n generalizing v with
  | zero => rfl
  | succ n ih =>
    have hbyte : BitVec.ofNat 8 (v % 256 ^ (n + 1)) = BitVec.ofNat 8 v :=
      BitVec.eq_of_toNat_eq (by simp)
    rw [leBytes, leBytes, hbyte, Nat.pow_succ', Nat.mod_mul_right_div_self, ih]

theorem wordBytes_map_ofNat {α : Type} (f : α → Nat) (xs : List α) :
    wordBytes (xs.map fun x => BitVec.ofNat 32 (f x)) = xs.flatMap fun x => leBytes 4 (f x) := by
  rw [wordBytes, List.flatMap_map]
  exact List.flatMap_congr fun x _ => (congrArg (leBytes 4) (BitVec.toNat_ofNat ..)).trans (leBytes_mod 4 _)

theorem wordBytes_append (xs ys : List Word) : wordBytes (xs ++ ys) = wordBytes xs ++ wordBytes ys := List.flatMap_append

theorem listHead_noErr (ntot nw : Nat) (trunc pair fkey psn : Bool) :
    listHead ntot nw trunc pair fkey false psn
      = leBytes 4 ntot ++ leBytes 4 nw ++ leBytes 8 (trunc.toNat + 2 * pair.toNat + 4 * fkey.toNat + 16 * psn.toNat) := rfl

end Sys2Proof.Machine
end

section
/-! SUPPORT. Gate requests performed (O52). -/

namespace Sys2Proof.Machine

/-! ### A wave changed by an engine -/

theorem State.becameWave_modEng {s : State} {w : WaveRef} {e : Eng} (h : s.eng w = some e) {f : Wave → Wave}
    (hf : ∀ v, (f v).wix = v.wix) : BecameWave w (f e.wave) s (s.modEng e f) := by
  obtain rfl := State.eng_ref h
  have ho := onlyWave_modWave s ⟨e.group.id, e.wave.wix, false⟩ f hf
  refine ⟨ho.rest, ho.shells, ?_, ho.waves⟩
  have hv : s.wave? e.group.id e.wave.wix = some e.wave := State.wave?_of_eng h
  simp [State.modEng, Eng.ref, State.wave?_modWave _ _ _ _ _ _ hf, hv]

/-- A request that is turned down leaves the queue, and its error the wave. -/
theorem State.becameWave_gateErr {s : State} {w : WaveRef} {e : Eng} {q : GReq} {r : List GReq} (h : GateHead s w e q r)
    (cause sub : Nat) (addr : Word) :
    BecameWave w { e.wave with gq := r, gErr := addErr e.wave.gErr ⟨cause, sub, addr.setWidth 64, q.thread, [], 0⟩ } s
      (s.gateErr e q cause sub addr) := by
  have hb := State.becameWave_modEng h.eng
    (f := fun v => { v with gq := v.gq.tail, gErr := addErr v.gErr ⟨cause, sub, addr.setWidth 64, q.thread, [], 0⟩ }) fun _ => rfl
  rw [h.queue] at hb
  rw [State.gateErr, State.popGate, State.modEng, State.modEng, State.modWave_modWave]
  · exact hb
  · exact fun _ => rfl

/-! ### The head request of a gate queue -/

section
variable {s : State} {w : WaveRef} {e : Eng} {q : GReq} {r : List GReq}

theorem gateEvent_of_head (h : GateHead s w e q r) {k : Eng → GReq → Option State} {t : State} (ht : k e q = some t) :
    gateEvent w s k = .next t := by
  simp only [gateEvent, onWave, h.eng, h.queue, ht, Option.getD_some]

theorem exec_gtopkRequest (h : GateHead s w e q r) {o a d : Bool} {m : MergeKind} (hk : q.kind = .topk o a m d) :
    exec (.gtopkRequest w) s = .next (s.gateTopk e q o a m d) := gateEvent_of_head h (by rw [hk])

theorem exec_ghistRequest (h : GateHead s w e q r) {x y : Bool} (hk : q.kind = .hist x y) :
    exec (.ghistRequest w) s = .next (s.gateHist e q x y) := gateEvent_of_head h (by rw [hk])

theorem exec_gscanRequest (h : GateHead s w e q r) {x y z : Bool} (hk : q.kind = .scan x y z) :
    exec (.gscanRequest w) s = .next (s.gateScan e q x y z) := gateEvent_of_head h (by rw [hk])

theorem exec_gpermRequest (h : GateHead s w e q r) {o : Bool} (hk : q.kind = .perm o) :
    exec (.gpermRequest w) s = .next (s.gatePerm e q o) := gateEvent_of_head h (by rw [hk])

theorem State.gateOut_up (h : s.engSpDown e.group q.lo.toNat = false) (k : State) : s.gateOut e q k = k := by
  simp [State.gateOut, h]

theorem State.gateOut_down (h : s.engSpDown e.group q.lo.toNat = true) (k : State) :
    s.gateOut e q k = s.gateErr e q 0x11 0 q.lo := by simp [State.gateOut, h]

theorem State.gateScan_ints (tot incl : Bool) :
    s.gateScan e q tot false incl = s.gateOut e q
      (let v := s.gateWords e.group q.a.toNat (q.hi.extractLsb' 0 16).toNat
       ((s.engSpWrite e.group q.lo.toNat (wordBytes (runningSums tot incl v.1))).gatePsn e q v.2).popGate e) := by
  cases tot <;> simp [State.gateScan, runningSums, State.gateWords_length]

end

/-- Settles O52: a clause for each request by what it computes, and one for the order of the entries. -/
theorem gatePerforms : Obligations.GatePerforms := by
  unfold Obligations.GatePerforms
  refine ⟨?topk, ?order, ?hist, ?scan, ?down, ?perm⟩
  case topk =>
    intro s w e q r o a m d h hk hup src es out
    rw [exec_gtopkRequest h hk, State.gateTopk, State.gateOut_up hup]
    rfl
  case order =>
    exact fun a xs => ⟨sortEntries_perm _ xs, sortEntries_pairwise (keyOrder_trans a) (entryBefore_keyOrder a) xs⟩
  case hist =>
    intro s w e q r x y h hk src n
    refine ⟨fun hf => ⟨_, exec_ghistRequest h hk, ?_⟩, ?_⟩
    · rw [State.gateHist, if_pos hf]
      exact State.becameWave_gateErr h 0x0D 10 q.a
    · intro hf hup old
      have hold : old.1.length = n + 1 := by
        cases y
        · exact List.length_replicate
        · exact s.gateWords_length e.group q.lo.toNat (n + 1)
      refine ⟨src.entries.foldl (countEntry n (x && src.pair)) old.1, (foldl_countEntry_length ..).trans hold,
        fun j _ => foldl_countEntry_getD _ _ hold, ?_⟩
      rw [exec_ghistRequest h hk, State.gateHist, if_neg (Bool.eq_false_iff.1 hf), State.gateOut_up hup]
      rfl
  case scan =>
    intro s w e q r tot incl h hk hup n v
    have hv : v.1.length = n := s.gateWords_length e.group q.a.toNat n
    refine ⟨runningSums tot incl v.1, by rw [runningSums_length, hv], fun j hj => hv ▸ runningSums_getD hj, ?_⟩
    rw [exec_gscanRequest h hk, State.gateScan_ints, State.gateOut_up hup]
    rfl
  case down =>
    intro s w e q r i h hdown hi
    have hb := State.becameWave_gateErr h 0x11 0 q.lo
    obtain ⟨rfl, o, a, m, d, hk⟩ | ⟨rfl, x, y, z, hk⟩ := hi
    · exact ⟨_, (exec_gtopkRequest h hk).trans (congrArg Host.Outcome.next (State.gateOut_down hdown _)), hb⟩
    · exact ⟨_, (exec_gscanRequest h hk).trans (congrArg Host.Outcome.next (State.gateOut_down hdown _)), hb⟩
  case perm =>
    intro s w e q r o h hk src n cap v
    refine ⟨fun hf => ⟨_, exec_gpermRequest h hk, ?_⟩, fun hf hup => ?_⟩
    · rw [State.gatePerm, if_pos hf]
      exact State.becameWave_gateErr h 0x0D 10 q.a
    · refine ⟨_, ⟨sortEntries _ v, sortEntries_perm _ v, rfl,
        sortEntries_pairwise expertOrder_trans entryBefore_expertOrder v⟩, ?_⟩
      rw [exec_gpermRequest h hk, State.gatePerm, if_neg (Bool.eq_false_iff.1 hf), State.gateOut_up hup, wordBytes_append,
        wordBytes_map_ofNat, wordBytes_map_ofNat, listHead_noErr]
      rfl

end Sys2Proof.Machine
end

section
/-! SUPPORT. Dies and clusters changed, and fields put into vectors (O55, O60). -/

namespace Sys2Proof.Machine

theorem State.modCluster_set {s : State} {c : Nat} {k : Cluster} (h : s.clusters[c]? = some k) (f : Cluster → Cluster) :
    s.modCluster c f = { s with clusters := s.clusters.set c (f k) } := by
  rw [State.modCluster, modAt_eq_set h]

theorem State.modDie_set {s : State} {d : Nat} {x : Die} (h : s.dies[d]? = some x) (f : Die → Die) :
    s.modDie d f = { s with dies := s.dies.set d (f x) } := by
  rw [State.modDie, modAt_eq_set h]

theorem modAt_modAt {α : Type} (f k : α → α) (n : Nat) (xs : List α) :
    modAt k n (modAt f n xs) = modAt (fun x => k (f x)) n xs := by
  induction xs generalizing n with
  | nil => cases n <;> rfl
  | cons x xs ih =>
    cases n with
    | zero => rfl
    | succ n => exact congrArg (x :: ·) (ih n)

theorem State.modDie_modDie {s : State} {d : Nat} (f k : Die → Die) :
    (s.modDie d f).modDie d k = s.modDie d fun x => k (f x) :=
  congrArg (fun ds => { s with dies := ds }) (modAt_modAt f k d s.dies)

theorem State.die_of_getElem? {s : State} {d : Nat} {x : Die} (h : s.dies[d]? = some x) : s.die d = x := by
  simp [State.die, List.getD, h]

theorem State.cluster_of_getElem? {s : State} {c : Nat} {k : Cluster} (h : s.clusters[c]? = some k) : s.cluster c = k := by
  simp [State.cluster, List.getD, h]

/-- The bits of a vector of which one field has been replaced. -/
theorem getLsbD_setBits {w : Nat} (v : BitVec w) (lo n x b : Nat) (hb : b < w) :
    (setBits v lo n x).getLsbD b = if lo ≤ b ∧ b < lo + n then x.testBit (b - lo) else v.getLsbD b := by
  have hmask : ((2 ^ n - 1) * 2 ^ lo).testBit b = decide (lo ≤ b ∧ b < lo + n) := by
    rw [Nat.testBit_mul_two_pow, Nat.testBit_two_pow_sub_one]
    by_cases h : lo ≤ b <;> simp [h]
    omega
  have hfield : (x % 2 ^ n * 2 ^ lo).testBit b = (decide (lo ≤ b ∧ b < lo + n) && x.testBit (b - lo)) := by
    rw [Nat.testBit_mul_two_pow, Nat.testBit_mod_two_pow]
    by_cases h : lo ≤ b
    · have : (b - lo < n) ↔ b < lo + n := by omega
      simp [h, this]
    · simp [h]
  simp only [setBits, BitVec.getLsbD_or, BitVec.getLsbD_and, BitVec.getLsbD_not, BitVec.getLsbD_ofNat, hb, decide_true, Bool.true_and,
    hmask, hfield]
  by_cases h : lo ≤ b ∧ b < lo + n <;> simp [h]

end Sys2Proof.Machine
end

section
/-! SUPPORT. Allowance, slew limiter, Lehr and thermal sensors (O55). -/

namespace Sys2Proof.Machine

/-! ### The slew limiter of a cluster whose engines stand still (R210) -/

section
variable {s : State} {c : Nat} {k : Cluster}

/-- No entry is granted anything, and every unit runs as a filler. -/
theorem State.slewStep_idle (hk : s.clusters[c]? = some k) (h : ∀ pq, s.entrants c pq = []) :
    s.slewStep c = ({ s with clusters := s.clusters.set c { k with
        level := k.nextLevel (s.hinted c), u := k.u + 16 * k.nextLevel (s.hinted c)
        fillers := k.fillers + k.nextLevel (s.hinted c) } } : State).ageHints c := by
  have hqs : (List.range 17).filter (fun q => !(s.entrants c q).isEmpty) = [] := by simp [h]
  have hc := State.cluster_of_getElem? hk
  simp only [State.slewStep, hqs, hc, sortKey, List.foldl_nil, List.length_nil, grantUnits, Nat.mul_zero, Nat.zero_max,
    State.modCluster_set hk, Nat.sub_self, Nat.min_zero, Nat.sub_zero]

/-- A hint one step older. -/
def agedHint (h : Option (Nat × Nat)) : Option (Nat × Nat) :=
  h.bind fun x => if x.2 ≤ 1 then none else some (x.1, x.2 - 1)

/-- Ageing changes nothing of a wave but its hint. -/
theorem State.wave?_ageHints {g x : Nat} {v : Wave} (h : s.wave? g x = some v) :
    ∃ p, (s.ageHints c).wave? g x = some { v with hint := p } := by
  obtain ⟨y, hy, hv⟩ := Option.bind_eq_some_iff.1 h
  have hgroup : (s.ageHints c).group? g = some (if y.cluster = c then
      { y with waves := y.waves.map fun w => { w with hint := agedHint w.hint } } else y) := by
    rw [State.group?, State.ageHints, List.find?_map]
    have : ((fun z : Group => z.id == g) ∘ fun z => if z.cluster = c then
        { z with waves := z.waves.map fun w => { w with hint := agedHint w.hint } } else z) = fun z => z.id == g := by
      funext z
      simp only [Function.comp]
      split <;> rfl
    exact (congrArg (fun p => Option.map _ (s.groups.find? p)) this).trans (by rw [show s.groups.find? _ = some y from hy]; rfl)
  rw [State.wave?, hgroup, Option.bind_some]
  split
  · refine ⟨agedHint v.hint, ?_⟩
    rw [Group.wave?, List.find?_map]
    exact congrArg (Option.map _) hv
  · exact ⟨v.hint, hv⟩

end

/-! ### The Lehr (R336) -/

@[simp] theorem Die.setFop_vcore (x : Die) (now f : Nat) : (x.setFop now f).vcore = x.vcore := by
  unfold Die.setFop
  split <;> rfl

@[simp] theorem Die.setFop_fop (x : Die) (now f : Nat) : (x.setFop now f).fop = f := by
  unfold Die.setFop
  split
  · exact Eq.symm ‹_›
  · rfl

@[simp] theorem Die.setFop_tj (x : Die) (now f : Nat) : (x.setFop now f).tj = x.tj := by
  unfold Die.setFop
  split <;> rfl

theorem Die.setFop_succ (x : Die) (now : Nat) :
    x.setFop now (x.fop + 1) = { x with fop := x.fop + 1, clock := x.clock ++ [(x.fop, now)] } := by
  rw [Die.setFop, if_neg (Nat.succ_ne_self _)]

/-- The operating point has to fall: it stands above the limit, or the die is too hot. -/
abbrev Die.MustFall (x : Die) : Prop :=
  (x.lctl.extractLsb' 8 6).toNat < x.fop ∨ 16 * (x.lctl.extractLsb' 0 8).toNat < x.tj.toNat

/-- The operating point may rise by one. -/
def Die.mayRise (x : Die) (b : Belfry) (now : Nat) : Bool :=
  decide (x.tj.toNat + 32 < 16 * (x.lctl.extractLsb' 0 8).toNat) && decide (x.fop < (x.lctl.extractLsb' 8 6).toNat) && !x.trip
    && (!b.halted || b.restoring2) && x.lastRise.all fun k => decide (100000 ≤ now - k)

/-- A die after a period of the Lehr. -/
def Die.lehrNext (x : Die) (b : Belfry) (now : Nat) : Die :=
  if x.MustFall then x.setFop now (x.fop - 1)
  else if x.mayRise b now then { x.setFop now (x.fop + 1) with lastRise := some now } else x

theorem Die.lehrNext_vcore (x : Die) (b : Belfry) (now : Nat) : (x.lehrNext b now).vcore = x.vcore := by
  unfold Die.lehrNext
  split
  · simp
  · split
    · simp
    · rfl

theorem State.lehr_eq {s : State} {d : Nat} {x : Die} (hx : s.dies[d]? = some x) (hup : x.down = false) (mv : BitVec 12) :
    s.lehr d mv = { s with dies := s.dies.set d (({ x with vcore := mv } : Die).lehrNext s.belfry s.ns.toNat) } := by
  simp only [State.lehr, State.die_of_getElem? hx]
  rw [if_neg (by simp [hup]), State.modDie_modDie, State.modDie_set hx]
  congr 2
  rw [Die.lehrNext, Die.mayRise]
  by_cases hf : (x.lctl.extractLsb' 8 6).toNat < x.fop
  · rw [if_pos hf, if_pos (.inl hf)]
  · by_cases ht : 16 * (x.lctl.extractLsb' 0 8).toNat < x.tj.toNat
    · rw [if_neg hf, if_pos ht, if_pos (.inr ht)]
    · rw [if_neg hf, if_neg ht, if_neg (show ¬({ x with vcore := mv } : Die).MustFall from not_or.2 ⟨hf, ht⟩)]
      refine ite_congr (propext ?_) (fun _ => rfl) (fun _ => rfl)
      cases x.lastRise <;> simp only [Bool.and_eq_true, Bool.or_eq_true, Bool.not_eq_true', decide_eq_true_eq, and_assoc,
        Option.all_some, Option.all_none]

section
variable {x : Die} {b : Belfry} {now : Nat}

theorem Die.mayRise_iff :
    x.mayRise b now = true ↔ x.tj.toNat + 32 < 16 * (x.lctl.extractLsb' 0 8).toNat ∧ x.fop < (x.lctl.extractLsb' 8 6).toNat
      ∧ x.trip = false ∧ (b.halted = false ∨ b.restoring2 = true) ∧ ∀ k, x.lastRise = some k → 100000 ≤ now - k := by
  simp only [Die.mayRise, Bool.and_eq_true, Bool.or_eq_true, Bool.not_eq_true', decide_eq_true_eq, and_assoc, Option.all_eq_true]

theorem Die.lehrNext_fall (h : x.MustFall) : x.lehrNext b now = x.setFop now (x.fop - 1) := by
  rw [Die.lehrNext, if_pos h]

theorem Die.lehrNext_rise (h : ¬x.MustFall) (hr : x.mayRise b now = true) :
    x.lehrNext b now = { x with fop := x.fop + 1, clock := x.clock ++ [(x.fop, now)], lastRise := some now } := by
  rw [Die.lehrNext, if_neg h, if_pos hr, Die.setFop_succ]

theorem Die.lehrNext_hold (h : ¬x.MustFall) (hr : ¬x.mayRise b now = true) : x.lehrNext b now = x := by
  rw [Die.lehrNext, if_neg h, if_neg hr]

end

/-! ### Thermal sensors (R337, R338) -/

section
variable {s : State} {d : Nat} {x : Die}

/-- A die that measures its trip point. -/
def Die.tripped (x : Die) (now tj : Nat) : Die :=
  { ({ x with tj := BitVec.ofNat 12 tj } : Die).setFop now 0 with trip := true, hotSince := some (x.hotSince.getD now) }

theorem State.thermal_hot (hx : s.dies[d]? = some x) (hup : x.down = false) {temps : List Nat}
    (h : 16 * s.io.ttrip ≤ min (temps.foldl max 0) 4095) :
    s.thermal d temps
      = ({ s with dies := s.dies.set d (x.tripped s.ns.toNat (min (temps.foldl max 0) 4095)) } : State).rateZero d := by
  simp only [State.thermal, State.die_of_getElem? hx]
  rw [if_neg (by simp [hup]), if_pos h, State.modDie_modDie, State.modDie_set hx]
  rfl

theorem State.thermal_cool (hx : s.dies[d]? = some x) (hup : x.down = false) {temps : List Nat}
    (h : min (temps.foldl max 0) 4095 < 16 * s.io.ttrip) :
    s.thermal d temps = { s with dies := s.dies.set d { x with
      tj := BitVec.ofNat 12 (min (temps.foldl max 0) 4095), hotSince := none
      trip := x.trip && decide (16 * (s.io.ttrip - 5) ≤ min (temps.foldl max 0) 4095) } } := by
  simp only [State.thermal, State.die_of_getElem? hx]
  rw [if_neg (by simp [hup]), if_neg (Nat.not_le.2 h), State.modDie_modDie, State.modDie_set hx]

theorem State.rateZero_rate (s : State) {c : Nat} (hc : c = 2 * d ∨ c = 2 * d + 1) (hlen : c < s.clusters.length) :
    ((s.rateZero d).cluster c).rate = 0 := by
  simp only [State.rateZero, State.cluster, State.modCluster_own, modAt_getD, modAt_length]
  obtain rfl | rfl := hc
  · simp [hlen]
  · simp [hlen]

end

end Sys2Proof.Machine
end

section
/-! SUPPORT. Changes of counters whose memory is another state's (O55). -/

namespace Sys2Proof.Machine

/-! ### Dies, launches, changes and what they do not reach -/

/-- Other dies, launches and pending changes in a state. -/
def State.beside (s : State) (ds : List Die) (ls : List Launch) (cs : List Pending) : State :=
  { s with dies := ds, launches := ls, changes := cs }

section
variable (s : State) (ds : List Die) (ls : List Launch) (cs : List Pending)

theorem walkFrom_beside (va fuel level table : Nat) :
    (s.beside ds ls cs).walkFrom va fuel level table = s.walkFrom va fuel level table := by
  induction fuel generalizing level table with
  | zero => rfl
  | succ fuel ih => simp only [State.walkFrom, ih]; rfl

theorem translate_beside (die ctx : Nat) (priv : Bool) (k : Access) (va n : Nat) :
    (s.beside ds ls cs).translate die ctx priv k va n = s.translate die ctx priv k va n := by
  simp only [State.translate, State.walk, walkFrom_beside]
  rfl

theorem place_beside (die ctx : Nat) (priv : Bool) (k : Access) (va n : Nat) :
    (s.beside ds ls cs).place die ctx priv k va n = s.place die ctx priv k va n := by
  simp only [State.place, translate_beside]

theorem physWrite_beside (p : Phys) (bs : List Byte) :
    (s.beside ds ls cs).physWrite p bs = (s.physWrite p bs).beside ds ls cs := by
  unfold State.physWrite
  cases p.space <;> rfl

end

/-! ### One change made (R315, R415) -/

section
variable {s t : State} {ds : List Die} {ls : List Launch} {lid die core wslot : Nat} {grp : Option Nat} {ctx : Nat}

/-- A change of a counter is the only one pending, and its place is reached. -/
theorem settle_one {x : Change} {p : Phys} (hctx : (ls.find? fun l => l.id == lid).map (fun l => l.ctx) = some ctx)
    (hp : s.place die ctx true .atomic x.va.toNat 32 = .ok [(p, 32)]) (hx : x.access = .atomic ∧ x.size = 32 ∧ x.isFull = false)
    (hlen : (x.apply (s.physRead p 32)).length = 32) (fuel : Nat) :
    (s.beside ds ls [⟨x, lid, grp, die, core, wslot, none⟩]).settle (fuel + 1)
      = ((s.physWrite p (x.apply (s.physRead p 32))).beside ds ls (match x.next (s.physRead p 32) with
          | none => []
          | some y => [⟨y, lid, grp, die, core, wslot, none⟩])).settle fuel := by
  obtain ⟨hacc, hsize, hfull⟩ := hx
  obtain ⟨q, hq⟩ : ∃ q : Pending, q = ⟨x, lid, grp, die, core, wslot, none⟩ := ⟨_, rfl⟩
  have hready : (s.beside ds ls [q]).ready [] (s.beside ds ls [q]).changes = some (0, q, false) := by
    subst hq
    rfl
  have hctx' : (s.beside ds ls [q]).changeCtx q = some ctx := by
    subst hq
    exact hctx
  have hread : ([(p, 32)].flatMap fun y => (s.beside ds ls [q]).physRead y.1 y.2) = s.physRead p 32 := by
    rw [List.flatMap_cons, List.flatMap_nil, List.append_nil]
    rfl
  rw [← hq, State.settle, hready]
  simp only [Bool.false_eq_true, if_false, State.tryChange, hctx']
  subst hq
  simp only [place_beside, hacc, hsize, hp, hfull, Bool.false_and, Bool.false_eq_true, if_false]
  rw [hread]
  congr 1
  simp only [State.writePlaces, List.take_of_length_le hlen.le, physWrite_beside]
  rfl

theorem settle_none (s : State) (h : s.changes = []) (fuel : Nat) : s.settle fuel = s := by
  cases fuel with
  | zero => rfl
  | succ n => simp [State.settle, h, State.ready]

end

section
variable {v w : BitVec 256} {n : Int}

theorem ofInt_cntRemain (v : BitVec 256) (n : Int) :
    BitVec.ofInt 64 (cntRemain v - n) = v.extractLsb' 0 64 - BitVec.ofInt 64 n := by
  rw [Int.sub_eq_add_neg, BitVec.ofInt_add, BitVec.ofInt_neg, cntRemain, BitVec.ofInt_natCast, BitVec.ofNat_toNat, BitVec.setWidth_eq,
    BitVec.sub_eq_add_neg]

theorem CounterLess.remain_eq (h : CounterLess v w n) : BitVec.ofInt 64 (cntRemain v - n) = w.extractLsb' 0 64 :=
  (ofInt_cntRemain v n).trans h.remain.symm

theorem CounterLess.getLsbD_rest (h : CounterLess v w n) {b : Nat} (hb : 66 ≤ b) (hlt : b < 256) : w.getLsbD b = v.getLsbD b := by
  have hbit := congrArg (fun x => BitVec.getLsbD x (b - 66)) h.rest
  have hsub : b - 66 < 190 := by omega
  simpa only [BitVec.getLsbD_extractLsb', hsub, decide_true, Bool.true_and, Nat.add_sub_cancel' hb] using hbit

theorem CounterLess.parent_eq (h : CounterLess v w n) : w.extractLsb' 128 64 = cntParent v := by
  refine BitVec.eq_of_getLsbD_eq fun i hi => ?_
  simp only [cntParent, BitVec.getLsbD_extractLsb', h.getLsbD_rest (b := 128 + i) (by omega) (by omega)]

/-- A counter that is lowered is the one that the model computes. -/
theorem CounterLess.eq_cntDec (h : CounterLess v w n) : w = cntDec v n := by
  have hlow : ∀ b < 64, w.getLsbD b = (w.extractLsb' 0 64).toNat.testBit b := by
    intro b hb
    rw [BitVec.testBit_toNat, BitVec.getLsbD_extractLsb', Nat.zero_add, decide_eq_true hb, Bool.true_and]
  have hstate : ∀ (x : BitVec 256) (b : Nat), 64 ≤ b → b < 66 → x.getLsbD b = (x.extractLsb' 64 2).getLsbD (b - 64) := by
    intro x b hb hlt
    have hsub : b - 64 < 2 := by omega
    simp only [BitVec.getLsbD_extractLsb', hsub, decide_true, Bool.true_and, Nat.add_sub_cancel' hb]
  have hzero : (w.extractLsb' 0 64).toNat = 0 ↔ w.extractLsb' 0 64 = 0 := ⟨fun e => BitVec.eq_of_toNat_eq e, fun e => by rw [e]; rfl⟩
  refine BitVec.eq_of_getLsbD_eq fun b hb => ?_
  rw [cntDec, h.remain_eq]
  simp only [hzero, apply_ite (fun x : BitVec 256 => x.getLsbD b), getLsbD_setBits _ _ _ _ _ hb, Nat.zero_le, true_and, Nat.zero_add,
    Nat.sub_zero]
  by_cases hb1 : b < 64
  · simp [hb1, hlow b hb1, Nat.not_le.2 hb1]
  · by_cases hb2 : b < 66
    · have hdone : (if v.getLsbD 66 = true then 2 else 1 : BitVec 2) = BitVec.ofNat 2 (if cntCanreq v = true then 2 else 1) := by
        rw [cntCanreq]
        split <;> rfl
      have hlt : b - 64 < 2 := by omega
      rw [hstate w b (Nat.not_lt.1 hb1) hb2, h.state, hdone, hstate v b (Nat.not_lt.1 hb1) hb2,
        apply_ite (fun x : BitVec 2 => x.getLsbD (b - 64)), BitVec.getLsbD_ofNat, decide_eq_true hlt, Bool.true_and]
      simp [hb1, hb2, Nat.not_lt.1 hb1]
    · simp [hb1, hb2, h.getLsbD_rest (Nat.not_lt.1 hb2) hb]

end

section
variable {s t : State} {ds : List Die} {ls : List Launch} {lid die core wslot : Nat} {grp : Option Nat} {ctx : Nat}

theorem next_dec {w : BitVec 256} {va : DWord} {n : Int} {bs : List Byte} (h : CounterLess (counterOf bs) w n) :
    (Change.dec va n).next bs
      = if w.extractLsb' 0 64 = 0 ∧ w.extractLsb' 128 64 ≠ 0 then some (.dec (w.extractLsb' 128 64) 1) else none := by
  simp only [Change.next, h.remain_eq, h.parent_eq, bne_iff_ne, Bool.and_eq_true]
  exact if_congr (and_congr decide_eq_true_iff Iff.rfl) rfl rfl

/-- Counters lowered one above the other are what settling the change at the lowest one leaves. -/
theorem settle_lowered {k : Nat} {va : DWord} {n : Int} (h : Lowered die ctx k s va n t)
    (hctx : (ls.find? fun l => l.id == lid).map (fun l => l.ctx) = some ctx) {fuel : Nat} (hk : k ≤ fuel) :
    (s.beside ds ls [⟨.dec va n, lid, grp, die, core, wslot, none⟩]).settle fuel = t.beside ds ls [] := by
  induction h generalizing fuel with
  | one k s va n p w hp hless hend =>
    obtain ⟨fuel, rfl⟩ : ∃ m, fuel = m + 1 := ⟨fuel - 1, by omega⟩
    rw [settle_one (x := .dec va n) hctx hp ⟨rfl, rfl, rfl⟩ (leBytes_length ..), next_dec hless,
      if_neg (fun e => hend.elim (absurd e.1) e.2), Change.apply, ← hless.eq_cntDec]
    exact settle_none _ rfl _
  | up k s va n p w t hp hless h0 hparent _ ih =>
    obtain ⟨fuel, rfl⟩ : ∃ m, fuel = m + 1 := ⟨fuel - 1, by omega⟩
    rw [settle_one (x := .dec va n) hctx hp ⟨rfl, rfl, rfl⟩ (leBytes_length ..), next_dec hless, if_pos ⟨h0, hparent⟩, Change.apply,
      ← hless.eq_cntDec]
    exact ih (by omega)

end

end Sys2Proof.Machine
end

section
/-! SUPPORT. Launches and groups on a die that is shut down (O55). -/

namespace Sys2Proof.Machine

/-! ### The launch on the die (R317, R338) -/

theorem MemoryOnly.trans {s m t : State} (h : MemoryOnly s m) (h' : MemoryOnly m t) : MemoryOnly s t := by
  rw [MemoryOnly, ← h]
  conv_rhs => rw [← h']

theorem MemoryOnly.physWrite (s : State) (p : Phys) (bs : List Byte) : MemoryOnly s (s.physWrite p bs) :=
  MemoryOnly.physWrites s [(p, bs)]

theorem Lowered.memoryOnly {die ctx k : Nat} {s t : State} {va : DWord} {n : Int} (h : Lowered die ctx k s va n t) :
    MemoryOnly s t := by
  induction h with
  | one k s va n p w hp hless hend => exact .physWrite s p _
  | up k s va n p w t hp hless h0 hparent _ ih => exact (MemoryOnly.physWrite s p _).trans ih

theorem TakenOff.memoryOnly {die : Nat} {l : Launch} {s t : State} (h : TakenOff die l s t) : MemoryOnly s t := by
  obtain ⟨-, rfl⟩ | ⟨-, -, k, -, h⟩ := h
  · rfl
  · exact h.memoryOnly

theorem settleAll_none {s : State} (h : s.changes = []) : s.settleAll = s := by
  rw [State.settleAll, settle_none s h, ite_self]

theorem settleAll_one {s : State} (h : s.still = false) (ds : List Die) (ls : List Launch) (q : Pending) :
    (s.beside ds ls [q]).settleAll = (s.beside ds ls [q]).settle 64 :=
  if_neg (show ¬s.still = true by rw [h]; exact Bool.false_ne_true)

/-- A counter with `ERRCODE` 8 and `CANREQ` (R338). -/
def lostCounter (c : BitVec 256) : BitVec 256 := setBits (setBits c 72 8 8) 66 1 1

theorem lostCounter_getLsbD (c : BitVec 256) {b : Nat} (hb : b < 256) :
    (lostCounter c).getLsbD b = if b = 66 then true else if 72 ≤ b ∧ b < 80 then Nat.testBit 8 (b - 72) else c.getLsbD b := by
  rw [lostCounter, getLsbD_setBits _ _ _ _ _ hb, getLsbD_setBits _ _ _ _ _ hb]
  by_cases h : b = 66
  · simp [h]
  · have : ¬(66 ≤ b ∧ b < 66 + 1) := by omega
    rw [if_neg this, if_neg h]

theorem lostCounter_err (c : BitVec 256) : ((lostCounter c).extractLsb' 72 8).toNat = 8 := by
  have h : (lostCounter c).extractLsb' 72 8 = 8#8 := by
    refine BitVec.eq_of_getLsbD_eq fun i hi => ?_
    have h1 : 72 + i ≠ 66 := by omega
    have h2 : 72 ≤ 72 + i ∧ 72 + i < 80 := by omega
    rw [BitVec.getLsbD_extractLsb', lostCounter_getLsbD c (by omega), if_neg h1, if_pos h2, BitVec.getLsbD_ofNat, Nat.add_sub_cancel_left]
  rw [h]
  rfl

theorem lostCounter_canreq (c : BitVec 256) : (lostCounter c).getLsbD 66 = true := lostCounter_getLsbD c (by decide)

theorem lostCounter_rest (c : BitVec 256) {b : Nat} (hb : b < 256) (h66 : b ≠ 66) (h72 : b < 72 ∨ 80 ≤ b) :
    (lostCounter c).getLsbD b = c.getLsbD b := by
  have : ¬(72 ≤ b ∧ b < 80) := by omega
  rw [lostCounter_getLsbD c hb, if_neg h66, if_neg this]

section
variable {s u : State} {d : Nat} {l : Launch} {p : Phys}

/-- The launch stops, and its undispatched units come off its counter. -/
theorem drainLaunch_eq (hl : s.launch? l.id = some l) (hno : s.NoChanges) (hu : TakenOff d l s u) :
    s.drainLaunch l.id d 0 0
      = u.beside s.dies (if l.stopped = true then s.launches else s.launches.map (Launch.still l.id)) [] := by
  obtain ⟨hnone, hstill⟩ := hno
  have hs : s = s.beside s.dies s.launches [] := by rw [State.beside, ← hnone]
  by_cases hstop : l.stopped = true
  · obtain ⟨-, rfl⟩ | ⟨h, -⟩ := hu
    · rw [State.drainLaunch, State.stopLaunch, hl]
      simp only [if_pos hstop]
      rw [settleAll_none hnone]
      exact hs
    · exact absurd (hstop.symm.trans h) Bool.noConfusion
  · have hstopped : s.stopLaunch l.id d 0 0 = s.beside s.dies (s.launches.map (Launch.still l.id))
        (if l.left = 0 then [] else [⟨.dec l.counterVa l.left, l.id, none, d, 0, 0, none⟩]) := by
      rw [State.stopLaunch, hl]
      simp only [if_neg hstop, hnone, List.nil_append]
      rfl
    rw [State.drainLaunch, hstopped, if_neg hstop]
    obtain ⟨h | h, rfl⟩ | ⟨-, hleft, k, hk, hlow⟩ := hu
    · exact absurd h hstop
    · rw [if_pos h]
      exact settleAll_none rfl
    · have hfind : ((s.launches.map (Launch.still l.id)).find? fun x => x.id == l.id).map (fun x => x.ctx) = some l.ctx := by
        have := find_map (fun x : Launch => x.id) l.id l.id (fun x => { x with stopped := true, rl := [], left := 0 }) (fun _ => rfl)
          s.launches
        refine (congrArg (Option.map fun x => x.ctx) this).trans ?_
        rw [show s.launches.find? _ = some l from hl]
        simp only [Option.map_some, if_true]
        rfl
      rw [if_neg hleft, settleAll_one hstill]
      exact settle_lowered hlow hfind hk

/-- The launch of a die that goes down: its counter is marked, and then it stops. -/
theorem loseLaunches_one (hl : s.launch? l.id = some l) (hno : s.NoChanges)
    (hp : s.place d l.ctx true .atomic l.counterVa.toNat 32 = .ok [(p, 32)])
    (hu : TakenOff d l (s.physWrite p (leBytes 32 (lostCounter (counterOf (s.physRead p 32))).toNat)) u) :
    s.loseLaunches d [l.id]
      = u.beside s.dies (if l.stopped = true then s.launches else s.launches.map (Launch.still l.id)) [] := by
  obtain ⟨hnone, hstill⟩ := hno
  obtain ⟨m, hm⟩ : ∃ m, m = s.physWrite p (leBytes 32 (lostCounter (counterOf (s.physRead p 32))).toNat) := ⟨_, rfl⟩
  have hmem : MemoryOnly s m := hm ▸ .physWrite ..
  have hdies : m.dies = s.dies := (congrArg State.dies hmem :)
  have hlaunches : m.launches = s.launches := (congrArg State.launches hmem :)
  have hchanges : m.changes = [] := (congrArg State.changes hmem :).trans hnone
  have hbelfry : m.belfry = s.belfry := (congrArg State.belfry hmem :)
  have hmark : s.launchChange l.id (.mark l.counterVa (some 8) true) d 0 0 = m := by
    have hstart : ({ s with changes := s.changes ++ [⟨.mark l.counterVa (some 8) true, l.id, none, d, 0, 0, none⟩] } : State)
        = s.beside s.dies s.launches [⟨.mark l.counterVa (some 8) true, l.id, none, d, 0, 0, none⟩] := by
      rw [hnone]
      rfl
    have hctx : (s.launches.find? fun x => x.id == l.id).map (fun x => x.ctx) = some l.ctx := congrArg (Option.map fun x => x.ctx) hl
    rw [State.launchChange, State.change, hstart, settleAll_one hstill,
      settle_one (x := .mark l.counterVa (some 8) true) hctx hp ⟨rfl, rfl, rfl⟩ (leBytes_length ..)]
    refine (settle_none _ rfl 63).trans ?_
    rw [← hdies, ← hlaunches, show m = m.beside m.dies m.launches [] by rw [State.beside, ← hchanges]]
    rw [hm]
    rfl
  have hl' : m.launch? l.id = some l := by
    rw [State.launch?, hlaunches]
    exact hl
  have hno : m.NoChanges := ⟨hchanges, by rw [State.still, hbelfry]; exact hstill⟩
  rw [State.loseLaunches, hl]
  simp only [hmark, drainLaunch_eq hl' hno (hm ▸ hu), hdies, hlaunches, State.loseLaunches]

end

/-! ### The groups on the die (R338) -/

/-- A group that has ended as fatal. -/
def Group.Fatal (g : Group) : Prop := g.ended = true ∧ g.fatal = true

/-- `f` leaves the groups where they are and ends those with the ids `is`; without bands it leaves every other one alone. -/
structure Ends (is : List Nat) (gs : List Group) (f : Group → Group) : Prop where
  id    : ∀ g, (f g).id = g.id
  die   : ∀ g, (f g).die = g.die
  band  : ∀ g, (f g).band = g.band
  fatal : ∀ g, g.Fatal ∨ g.id ∈ is → (f g).Fatal
  other : (∀ g ∈ gs, g.band = none) → ∀ g, g.id ∉ is → f g = g

/-- `f` changes the barriers and waves of groups only. -/
def BarsOnly (f : Group → Group) : Prop := ∀ g, { f g with bars := g.bars, waves := g.waves } = g

theorem BarsOnly.comp {f k : Group → Group} (hf : BarsOnly f) (hk : BarsOnly k) : BarsOnly fun g => k (f g) := by
  exact fun g => (congrArg (fun y : Group => { y with bars := g.bars, waves := g.waves }) (hk (f g))).trans (hf g)

theorem BarsOnly.completePhase (b : Nat) : BarsOnly fun g => g.completePhase b := fun _ => rfl

theorem BarsOnly.ite {f : Group → Group} (hf : BarsOnly f) (p : Group → Prop) [DecidablePred p] :
    BarsOnly fun g => if p g then f g else g := by
  intro g
  dsimp only
  split
  · exact hf g
  · rfl

theorem BarsOnly.settleBars : BarsOnly Group.settleBars := by
  unfold Group.settleBars
  generalize List.range 9 = bs
  induction bs with
  | nil => exact fun _ => rfl
  | cons b bs ih => exact (BarsOnly.ite (.completePhase b) fun g => g.full b = true).comp ih

theorem BarsOnly.park (s : State) : BarsOnly s.park :=
  BarsOnly.ite (f := fun g => { g with waves := g.waves.map (Wave.parkArrived s.ns.toNat) }) (fun _ => rfl) fun g => s.isShed g = true

section
variable {f : Group → Group} {g : Group}

theorem BarsOnly.id (h : BarsOnly f) : (f g).id = g.id := (congrArg Group.id (h g) :)
theorem BarsOnly.die (h : BarsOnly f) : (f g).die = g.die := (congrArg Group.die (h g) :)
theorem BarsOnly.band (h : BarsOnly f) : (f g).band = g.band := (congrArg Group.band (h g) :)
theorem BarsOnly.fatal_iff (h : BarsOnly f) : (f g).Fatal ↔ g.Fatal := by
  have e := congrArg Group.Fatal (h g)
  exact iff_of_eq e

end

theorem Group.lost_leave_fatal (g : Group) (now : Nat) : (g.lost.leave now).Fatal := by
  have h : g.lost.waves.all Wave.ended = true := by
    simp only [Group.lost, Group.finish, List.map_map, List.all_map, List.all_eq_true]
    intro w _
    rfl
  refine ⟨?_, rfl⟩
  simp [Group.ended, Group.leave, h]

/-- A lost group, as the state `s` leaves it. -/
def State.lostGroup (s : State) (g : Group) : Group := (s.park (g.lost.leave s.ns.toNat)).settleBars

theorem State.lostGroup_barsOnly (s : State) (g : Group) :
    { s.lostGroup g with bars := (g.lost.leave s.ns.toNat).bars, waves := (g.lost.leave s.ns.toNat).waves } = g.lost.leave s.ns.toNat :=
  ((BarsOnly.park s).comp .settleBars) (g.lost.leave s.ns.toNat)

theorem State.lostGroup_fatal (s : State) (g : Group) : (s.lostGroup g).Fatal := by
  have h := Group.lost_leave_fatal g s.ns.toNat
  rw [← s.lostGroup_barsOnly g] at h
  exact h

theorem lostGroup_ends (s : State) (i : Nat) (gs : List Group) : Ends [i] gs fun g => if g.id = i then s.lostGroup g else g where
  id g := by
    split
    · exact (congrArg Group.id (s.lostGroup_barsOnly g) :)
    · rfl
  die g := by
    split
    · exact (congrArg Group.die (s.lostGroup_barsOnly g) :)
    · rfl
  band g := by
    split
    · exact (congrArg Group.band (s.lostGroup_barsOnly g) :)
    · rfl
  fatal g h := by
    split
    · exact s.lostGroup_fatal g
    · exact h.resolve_right (by simpa using ‹¬g.id = i›)
  other _ g h := if_neg (by simpa using h)

theorem Ends.comp_barsOnly {is : List Nat} {gs : List Group} {f k : Group → Group} (h : Ends is gs f) (hk : BarsOnly k)
    (hband : ¬∀ g ∈ gs, g.band = none) : Ends is gs fun g => k (f g) where
  id g := hk.id.trans (h.id g)
  die g := hk.die.trans (h.die g)
  band g := hk.band.trans (h.band g)
  fatal g hg := hk.fatal_iff.2 (h.fatal g hg)
  other hb := absurd hb hband

theorem loseGroup_eq (s : State) (i : Nat) :
    (s.modGroup i Group.lost).tidy i
      = let u := s.modGroup i s.lostGroup
        match u.group? i with
        | none => u
        | some y => u.settleBand y := by
  have hmap : (s.modGroup i Group.lost).modGroup i (fun g => (s.park (g.leave s.ns.toNat)).settleBars) = s.modGroup i s.lostGroup := by
    simp only [State.modGroup, List.map_map]
    congr 1
    refine List.map_congr_left fun g _ => ?_
    by_cases h : g.id = i
    · simp only [Function.comp, if_pos h]
      exact if_pos h
    · simp only [Function.comp, if_neg h]
  rw [← hmap]
  rfl

/-- One group lost. -/
theorem loseGroup_ends (s : State) (i : Nat) :
    ∃ f, ((s.modGroup i Group.lost).tidy i).groups = s.groups.map f ∧ Ends [i] s.groups f := by
  have hlost := lostGroup_ends s i s.groups
  rw [loseGroup_eq]
  cases hy : (s.modGroup i s.lostGroup).group? i with
  | none => exact ⟨_, by simp only [hy]; rfl, hlost⟩
  | some y =>
    simp only [hy, State.settleBand]
    split
    case isFalse => exact ⟨_, rfl, hlost⟩
    case isTrue hfull =>
      have hphase : BarsOnly fun x =>
          if (((s.modGroup i s.lostGroup).bandGroups y).any fun z => z.id == x.id) = true then x.completePhase bandBar else x :=
        .ite (.completePhase bandBar) _
      refine ⟨_, List.map_map, hlost.comp_barsOnly hphase fun hb => ?_⟩
      have hid : y.id = i := by simpa using List.find?_some hy
      obtain ⟨z, hz, rfl⟩ := List.mem_map.1 (List.mem_of_find?_eq_some hy)
      have hended : (if z.id = i then s.lostGroup z else z).ended = true := (hlost.fatal z (.inr (by simpa [hlost.id] using hid))).1
      have hnone : (if z.id = i then s.lostGroup z else z).band = none := (hlost.band z).trans (hb z hz)
      simp [State.bandGroups, hnone, hended] at hfull

theorem loseGroups_ends (s : State) (gs : List Group) :
    ∃ f, (s.loseGroups gs).groups = s.groups.map f ∧ Ends (gs.map fun g => g.id) s.groups f := by
  induction gs generalizing s with
  | nil => exact ⟨fun g => g, by simp [State.loseGroups], fun _ => rfl, fun _ => rfl, fun _ => rfl, fun g h => by simpa using h,
      fun _ _ _ => rfl⟩
  | cons x gs ih =>
    obtain ⟨f, hf, h⟩ := loseGroup_ends s x.id
    obtain ⟨k, hk, h'⟩ := ih ((s.modGroup x.id Group.lost).tidy x.id)
    refine ⟨fun g => k (f g), by rw [State.loseGroups, hk, hf, List.map_map]; rfl, fun g => (h'.id _).trans (h.id g),
      fun g => (h'.die _).trans (h.die g), fun g => (h'.band _).trans (h.band g), fun g hg => h'.fatal _ ?_, fun hb g hg => ?_⟩
    · simp only [List.map_cons, List.mem_cons] at hg
      obtain hg | hg | hg := hg
      · exact .inl (h.fatal g (.inl hg))
      · exact .inl (h.fatal g (.inr (by simp [hg])))
      · exact .inr (by rw [h.id]; exact hg)
    · simp only [List.map_cons, List.mem_cons, not_or] at hg
      rw [h.other hb g (by simpa using hg.1)]
      refine h'.other (fun y hy => ?_) g hg.2
      rw [hf] at hy
      obtain ⟨z, hz, rfl⟩ := List.mem_map.1 hy
      rw [h.band, hb z hz]

theorem loseGroups_groups (s : State) (gs : List Group) : { s.loseGroups gs with groups := s.groups } = s := by
  induction gs generalizing s with
  | nil => rfl
  | cons x gs ih =>
    have htidy := tidy_groups (s := s.modGroup x.id Group.lost) x.id
    calc ({ s.loseGroups (x :: gs) with groups := s.groups } : State)
        = { ((s.modGroup x.id Group.lost).tidy x.id) with groups := s.groups } :=
          congrArg (fun u : State => { u with groups := s.groups }) (ih ((s.modGroup x.id Group.lost).tidy x.id))
      _ = s := congrArg (fun u : State => { u with groups := s.groups }) htidy

/-! ### The shutdown -/

theorem eraseDups_all {xs : List Nat} {a : Nat} (hne : xs ≠ []) (h : ∀ x ∈ xs, x = a) : xs.eraseDups = [a] := by
  cases xs with
  | nil => exact absurd rfl hne
  | cons x xs =>
    obtain rfl := h x List.mem_cons_self
    have hnone : xs.filter (fun b => !b == x) = [] := by
      simpa using fun y hy => h y (List.mem_cons_of_mem _ hy)
    rw [List.eraseDups_cons, hnone, List.eraseDups_nil]

/-- A die powered down. -/
def State.dieDown (s : State) (d : Nat) (x : Die) : State := { s with dies := s.dies.set d { x with down := true } }

section
variable {s u : State} {d k : Nat} {x : Die} {l : Launch} {p : Phys}

/-- The die has been too hot for long enough. -/
theorem State.shutdown_due (hx : s.dies[d]? = some x) (hup : x.down = false) (hk : x.hotSince = some k)
    (hlong : 100000000 ≤ s.ns.toNat - k) {gs : List Group} (hgs : s.groups.filter (fun g => g.die == d) = gs) :
    s.shutdown d = ((s.dieDown d x).loseLaunches d (gs.map fun g => g.launch).eraseDups).loseGroups gs := by
  have hwait : ¬(x.down = true ∨ s.ns.toNat - k < 100000000) := by simp [hup, hlong]
  rw [State.shutdown, State.die_of_getElem? hx, hk]
  refine (if_neg hwait).trans ?_
  rw [State.modDie_set hx, hgs]
  rfl

/-- The die has not been too hot for long enough. -/
theorem State.shutdown_early (hx : s.dies[d]? = some x)
    (hk : x.hotSince = none ∨ ∃ k, x.hotSince = some k ∧ s.ns.toNat - k < 100000000) : s.shutdown d = s := by
  obtain hk | ⟨k, hk, hlt⟩ := hk
  · simp only [State.shutdown, State.die_of_getElem? hx, hk]
  · simp only [State.shutdown, State.die_of_getElem? hx, hk]
    exact if_pos (.inr hlt)

/-- The groups on the die are all of one launch. -/
theorem State.shutdown_one (hx : s.dies[d]? = some x) (hup : x.down = false) (hk : x.hotSince = some k)
    (hlong : 100000000 ≤ s.ns.toNat - k) (hon : ∃ g ∈ s.groups, g.die = d)
    (hlaunch : ∀ g ∈ s.groups, g.die = d → g.launch = l.id)
    (hl : s.launch? l.id = some l) (hno : s.NoChanges) (hp : s.place d l.ctx true .atomic l.counterVa.toNat 32 = .ok [(p, 32)])
    (hu : TakenOff d l ((s.dieDown d x).physWrite p (leBytes 32 (lostCounter (counterOf (s.physRead p 32))).toNat)) u) :
    s.shutdown d = (u.beside (s.dieDown d x).dies (if l.stopped = true then s.launches else s.launches.map (Launch.still l.id))
      []).loseGroups (s.groups.filter fun g => g.die == d) := by
  have hdups : ((s.groups.filter fun g => g.die == d).map fun g => g.launch).eraseDups = [l.id] := by
    obtain ⟨g, hg, hd⟩ := hon
    have hmem : g ∈ s.groups.filter fun g => g.die == d := by simp [hg, hd]
    refine eraseDups_all (by simpa using List.ne_nil_of_mem hmem) fun i hi => ?_
    obtain ⟨g, hg, rfl⟩ := List.mem_map.1 hi
    obtain ⟨hg, hd⟩ := List.mem_filter.1 hg
    exact hlaunch g hg (by simpa using hd)
  have hpS : (s.dieDown d x).place d l.ctx true .atomic l.counterVa.toNat 32 = .ok [(p, 32)] :=
    (place_beside s (s.dieDown d x).dies s.launches s.changes ..).trans hp
  rw [State.shutdown_due hx hup hk hlong rfl, hdups, loseLaunches_one (s := s.dieDown d x) hl hno hpS hu]
  rfl

end

/-- Settles O55: a clause for each event; a shutdown marks and drains the one launch on the die, and ends the die's groups. -/
theorem powerEvents : Obligations.PowerEvents := by
  unfold Obligations.PowerEvents
  refine ⟨?allowance, ?floor, ?slew, ?lehr, ?thermal, ?cold, ?shutdown, ?eolh⟩
  case allowance =>
    intro s c full k hk
    exact congrArg (fun u : State => Host.Outcome.next { u with agenda := .cycle c full :: s.agenda }) (State.modCluster_set hk _)
  case floor =>
    intro s c core k hk hidle
    refine congrArg Host.Outcome.next ((if_pos hidle).trans ?_)
    rw [State.modCluster_set hk]
  case slew =>
    intro s c k hk hidle a
    refine ⟨_, rfl, ?_, ?_, fun g x v hv => ?_⟩
    · rw [State.slewStep_idle hk hidle]
      rfl
    · rw [State.slewStep_idle hk hidle]
      rfl
    · rw [State.slewStep_idle hk hidle]
      exact State.wave?_ageHints hv
  case lehr =>
    intro s d mv x hx hup tjmax fmax
    refine ⟨_, congrArg Host.Outcome.next (State.lehr_eq hx hup mv), Die.lehrNext_vcore .., fun h => Die.lehrNext_fall h,
      fun hf ht => ?_⟩
    have hfall : ¬({ x with vcore := mv } : Die).MustFall := not_or.2 ⟨Nat.not_lt.2 hf, Nat.not_lt.2 ht⟩
    refine ⟨fun h => Die.lehrNext_rise hfall (Die.mayRise_iff.2 h), fun h => Die.lehrNext_hold hfall fun hr => ?_⟩
    obtain ⟨hcool, hlow, htrip, hrun, hlast⟩ := Die.mayRise_iff.1 hr
    obtain h | h | h | ⟨hhalt, hrest⟩ | ⟨k, hk, h⟩ := h
    · exact absurd hcool (Nat.not_lt.2 h)
    · exact absurd h hlow.ne
    · exact absurd (htrip.symm.trans h) Bool.false_ne_true
    · obtain h | h := hrun
      · exact absurd (h.symm.trans hhalt) Bool.false_ne_true
      · exact absurd (hrest.symm.trans h) Bool.false_ne_true
    · exact absurd (hlast k hk) (Nat.not_le.2 h)
  case thermal =>
    intro s d temps x hx hdies hclusters hup tj
    have hd : d < 4 := hdies ▸ (List.getElem?_eq_some_iff.1 hx).1
    by_cases h : 16 * s.io.ttrip ≤ tj
    · refine ⟨_, _, congrArg Host.Outcome.next (State.thermal_hot hx hup h), rfl, rfl, Die.setFop_tj .., fun _ =>
        ⟨rfl, Die.setFop_fop .., State.rateZero_rate _ (.inl rfl) (by rw [hclusters]; omega),
          State.rateZero_rate _ (.inr rfl) (by rw [hclusters]; omega)⟩,
        fun hlt => absurd h (Nat.not_le.2 hlt)⟩
    · refine ⟨_, _, congrArg Host.Outcome.next (State.thermal_cool hx hup (Nat.not_le.1 h)), rfl, rfl, rfl, fun hle => absurd hle h,
        fun _ => ⟨rfl, rfl, rfl, ?_⟩⟩
      simp [tj]
  case eolh =>
    intro s d h x hx
    exact congrArg Host.Outcome.next (State.modDie_set hx _)
  case cold =>
    intro s d x hx hup hnone
    have hgs : s.groups.filter (fun g => g.die == d) = [] := by simpa using hnone
    refine ⟨fun k hk hlong => congrArg Host.Outcome.next ?_, fun hk => congrArg Host.Outcome.next (State.shutdown_early hx hk)⟩
    rw [State.shutdown_due hx hup hk hlong hgs]
    rfl
  case shutdown =>
    intro s d x k l p hx hup hk hlong hon hlaunch hids hl hno hp c
    refine ⟨lostCounter c, lostCounter_err c, lostCounter_canreq c, fun b hb h66 h72 => lostCounter_rest c hb h66 h72, fun u hu => ?_⟩
    have hgroups : u.groups = s.groups :=
      (congrArg State.groups ((MemoryOnly.physWrite (s.dieDown d x) p _).trans hu.memoryOnly) :)
    have hexec := State.shutdown_one hx hup hk hlong hon hlaunch hl hno hp hu
    have hgs : ∀ g, g ∈ s.groups.filter (fun g => g.die == d) ↔ g ∈ s.groups ∧ g.die = d := by simp
    generalize s.groups.filter (fun g => g.die == d) = gs at hexec hgs
    obtain ⟨X, hX⟩ : ∃ X : State, X = u.beside (s.dieDown d x).dies (if l.stopped = true then s.launches
        else s.launches.map (Launch.still l.id)) [] := ⟨_, rfl⟩
    have hkeeps : ∀ {α : Type} (k : State → α), (∀ v gs, k (v.withGroups gs) = k v) → k (X.loseGroups gs) = k X :=
      fun k hk => (hk _ X.groups).symm.trans (congrArg k (loseGroups_groups X gs))
    obtain ⟨f, hf, hends⟩ := loseGroups_ends X gs
    rw [show X.groups = s.groups by rw [hX]; exact hgroups] at hf hends
    refine ⟨X.loseGroups gs, hX ▸ congrArg Host.Outcome.next hexec, ?_, ?_, ?_, fun g hg hd => ?_, fun hb g hg hd => ?_⟩
    · exact (hkeeps State.dies fun _ _ => rfl).trans (by rw [hX]; rfl)
    · exact (hkeeps (fun v => (v.mem, v.hostMem, v.peerMem, v.memBad)) fun _ _ => rfl).trans (by rw [hX]; rfl)
    · exact (hkeeps State.launches fun _ _ => rfl).trans (by rw [hX]; rfl)
    · rw [hf] at hg
      obtain ⟨z, hz, rfl⟩ := List.mem_map.1 hg
      rw [hends.die] at hd
      exact hends.fatal z (.inr (List.mem_map_of_mem ((hgs z).2 ⟨hz, hd⟩)))
    · rw [hf]
      refine List.mem_map.2 ⟨g, hg, hends.other hb g fun hid => ?_⟩
      obtain ⟨z, hz, hzid⟩ := List.mem_map.1 hid
      obtain ⟨hz, hzd⟩ := (hgs z).1 hz
      exact hd (hids g hg z hz hzid.symm ▸ hzd)

end Sys2Proof.Machine
end

section
/-! SUPPORT. Accesses from outside (O60). -/

namespace Sys2Proof.Machine

/-! ### Writes that reach device memory (R384, R394) -/

/-- Bytes written to device memory are read back, and nothing else changes there. -/
theorem read_physWrite_dev (s : State) {addr : Nat} {bs : List Byte} (h : addr + bs.length ≤ devBytes) (a : Nat) :
    (s.physWrite ⟨.dev, addr⟩ bs).mem.read a = if addr ≤ a ∧ a < addr + bs.length then bs.getD (a - addr) 0 else s.mem.read a := by
  have htake : bs.take (devBytes - addr) = bs := List.take_of_length_le (by omega)
  simp only [State.physWrite, State.devWrite, htake, Memory.read_writeBytes, List.getD_eq_getElem?_getD]

theorem carries_iff {x : Io} {link : Nat} :
    x.carries link = true ↔ x.trained.contains link = true ∧ x.down.contains link = false := by
  simp only [Io.carries, Bool.and_eq_true, Bool.not_eq_true']

theorem hostAccess_write {s : State} {link addr : Nat} {bs : List Byte} (htrain : s.io.trained.contains link = true)
    (hup : s.io.down.contains link = false) (hfw : s.io.fwBad = false) (h : addr + bs.length ≤ devBytes) :
    s.hostAccess link false addr (.write bs) = s.physWrite ⟨.dev, addr⟩ bs := by
  have hlow : devBytes < 2 ^ 40 := by decide
  have hbar : ¬(s.io.fwBad = true ∨ 2 ^ 40 ≤ addr) := by
    rintro (h' | h')
    · exact absurd (hfw.symm.trans h') Bool.false_ne_true
    · omega
  simp only [State.hostAccess, carries_iff.2 ⟨htrain, hup⟩, Bool.not_true, Bool.false_eq_true, if_false, if_neg hbar]
  exact if_neg (Nat.not_lt.2 h)

theorem spireUp_iff {x : Io} {link : Nat} :
    x.spireUp link = true ↔ x.spmask.getLsbD link = true ∧ x.spireDown.contains link = false := by
  simp only [Io.spireUp, Bool.and_eq_true, Bool.not_eq_true']

/-! ### The mailbox window (R383) -/

/-- The bytes of a vector of which one byte has been replaced. -/
theorem extractLsb'_setBits_byte (v : BitVec 1024) {a i : Nat} (hi : i < 128) (b : Byte) :
    (setBits v (8 * a) 8 b.toNat).extractLsb' (8 * i) 8 = if i = a then b else v.extractLsb' (8 * i) 8 := by
  refine BitVec.eq_of_getLsbD_eq fun j hj => ?_
  rw [BitVec.getLsbD_extractLsb', getLsbD_setBits _ _ _ _ _ (by omega), decide_eq_true hj, Bool.true_and]
  by_cases h : i = a
  · subst h
    have hin : 8 * i ≤ 8 * i + j ∧ 8 * i + j < 8 * i + 8 := by omega
    rw [if_pos hin, if_pos rfl, Nat.add_sub_cancel_left, BitVec.testBit_toNat]
  · have hout : ¬(8 * a ≤ 8 * i + j ∧ 8 * i + j < 8 * a + 8) := by omega
    rw [if_neg hout, if_neg h, BitVec.getLsbD_extractLsb', decide_eq_true hj, Bool.true_and]

theorem Io.mailboxPut_cmd {a : Nat} {bs : List Byte} (h : a + bs.length ≤ 128) (x : Io) :
    { x.mailboxPut a bs with cmd := x.cmd } = x
      ∧ ∀ i < 128, (x.mailboxPut a bs).cmd.extractLsb' (8 * i) 8
          = if a ≤ i ∧ i < a + bs.length then bs.getD (i - a) 0 else x.cmd.extractLsb' (8 * i) 8 := by
  induction bs generalizing a x with
  | nil =>
    refine ⟨rfl, fun i _ => ?_⟩
    have : ¬(a ≤ i ∧ i < a + 0) := by omega
    rw [List.length_nil, if_neg this]
    rfl
  | cons b bs ih =>
    rw [List.length_cons] at h ⊢
    have ha : a < 128 := by omega
    obtain ⟨hrest, hbytes⟩ := ih (a := a + 1) (by omega) { x with cmd := setBits x.cmd (8 * a) 8 b.toNat }
    rw [Io.mailboxPut, if_pos ha]
    refine ⟨(congrArg (fun y : Io => { y with cmd := x.cmd }) hrest :), fun i hi => ?_⟩
    rw [hbytes i hi, extractLsb'_setBits_byte _ hi]
    by_cases heq : i = a
    · subst heq
      have h1 : ¬(i + 1 ≤ i ∧ i < i + 1 + bs.length) := by omega
      have h2 : i ≤ i ∧ i < i + (bs.length + 1) := by omega
      rw [if_neg h1, if_pos rfl, if_pos h2, Nat.sub_self, List.getD_cons_zero]
    · rw [if_neg heq]
      by_cases hin : a + 1 ≤ i ∧ i < a + 1 + bs.length
      · have h2 : a ≤ i ∧ i < a + (bs.length + 1) := by omega
        rw [if_pos hin, if_pos h2, show i - a = i - (a + 1) + 1 by omega, List.getD_cons_succ]
      · have h2 : ¬(a ≤ i ∧ i < a + (bs.length + 1)) := by omega
        rw [if_neg hin, if_neg h2]

end Sys2Proof.Machine
end

section
/-! SUPPORT. Errors logged, links that lose lanes, and storage repaired (O60). -/

namespace Sys2Proof.Machine

/-! ### What logging an error leaves alone (R377) -/

theorem writeError_rest (s : State) (d : Nat) (x : ErrEntry) : { s.writeError d x with dies := s.dies, mem := s.mem } = s := by
  have hwrites : ∀ (a n v : Nat) (bs : List Byte) (b : Nat) (f : Die → Die),
      { ((s.devWrite b bs).devWriteNat a n v).modDie d f with dies := s.dies, mem := s.mem } = s := fun _ _ _ _ _ _ => rfl
  simp only [State.writeError]
  split
  · rfl
  · exact hwrites ..

theorem logError_rest (s : State) (d src : Nat) (unc spared : Bool) (core detail : Nat) (addr : DWord) :
    { s.logError d src unc spared core detail addr with dies := s.dies, mem := s.mem } = s := by
  simp only [State.logError]
  split
  · rfl
  · exact writeError_rest ..

theorem logError_io (s : State) (d src : Nat) (unc spared : Bool) (core detail : Nat) (addr : DWord) :
    (s.logError d src unc spared core detail addr).io = s.io :=
  (congrArg State.io (logError_rest s d src unc spared core detail addr) :)

/-- What a change of dies leaves alone in each of them, it leaves alone in the one that it changes. -/
theorem die_modDie_keeps {α : Type} (s : State) (d e : Nat) {f : Die → Die} {k : Die → α} (h : ∀ x, k (f x) = k x) :
    k ((s.modDie d f).die e) = k (s.die e) := by
  rw [State.die, State.modDie_own, modAt_getD]
  split
  · next he => rw [h, he.1]; rfl
  · rfl

/-- Logging an error leaves the counts of corrected errors and of spares. -/
theorem logError_counts (s : State) (d src : Nat) (unc spared : Bool) (core detail : Nat) (addr : DWord) (e : Nat) :
    (((s.logError d src unc spared core detail addr).die e).corrected, ((s.logError d src unc spared core detail addr).die e).spared)
      = ((s.die e).corrected, (s.die e).spared) := by
  simp only [State.logError, State.writeError]
  split
  · exact die_modDie_keeps s d e (k := fun x => (x.corrected, x.spared)) fun _ => rfl
  · split
    · exact die_modDie_keeps s d e (k := fun x => (x.corrected, x.spared)) fun _ => rfl
    · exact die_modDie_keeps _ d e (k := fun x => (x.corrected, x.spared)) fun _ => rfl

/-! ### Lanes (R393) -/

/-- An element put into a list in which none has its name is found by it. -/
theorem find?_insertKey {α : Type} {key : α → Nat} {p : α → Bool} {x : α} (hx : p x = true) {ys : List α}
    (h : ∀ y ∈ ys, p y = false) : (insertKey key x ys).find? p = some x := by
  induction ys with
  | nil => simp [insertKey, hx]
  | cons y ys ih =>
    rw [insertKey]
    split
    · rw [List.find?_cons_of_pos hx]
    · rw [List.find?_cons_of_neg (by simp [h y List.mem_cons_self]), ih fun z hz => h z (List.mem_cons_of_mem _ hz)]

theorem laneFail_lanes (s : State) (link : Nat) :
    ((s.laneFail link).io.lanes.find? fun x => x.1 == link)
      = some (link, ((s.io.lanes.find? fun x => x.1 == link).map Prod.snd).getD 0 + 1) := by
  rw [State.laneFail, logError_io]
  exact find?_insertKey (by simp) fun y hy => by simpa using (List.mem_filter.1 hy).2

theorem laneFail_rest (s : State) (link : Nat) :
    { s.laneFail link with dies := s.dies, mem := s.mem, io := s.io } = s ∧ (s.laneFail link).io.spireDown = s.io.spireDown := by
  constructor
  · exact (congrArg (fun u : State => { u with io := s.io }) (logError_rest (s.modIo _) ..) :)
  · rw [State.laneFail, logError_io]
    rfl

/-! ### Storage repaired (R376) -/

section
variable {s : State} {d : Nat} {x : Die}

/-- A die has corrected `n` more errors, and has put in a spare. -/
def Die.spareUsed (n : Nat) (x : Die) : Die := { x with corrected := x.corrected + n, spared := x.spared + 1 }

theorem scrub_rest (s : State) (d n src : Nat) (unc spared : Bool) (core detail : Nat) (addr : DWord) :
    { (s.modDie d (Die.spareUsed n)).logError d src unc spared core detail addr with dies := s.dies, mem := s.mem } = s :=
  (congrArg (fun u : State => { u with dies := s.dies }) (logError_rest (s.modDie d (Die.spareUsed n)) d src unc spared core detail addr) :)

theorem scrub_counts (hx : s.dies[d]? = some x) (n src : Nat) (unc spared : Bool) (core detail : Nat) (addr : DWord) :
    (((s.modDie d (Die.spareUsed n)).logError d src unc spared core detail addr).die d).corrected = x.corrected + n
      ∧ (((s.modDie d (Die.spareUsed n)).logError d src unc spared core detail addr).die d).spared = x.spared + 1 := by
  obtain ⟨hlt, rfl⟩ := List.getElem?_eq_some_iff.1 hx
  rw [← Prod.mk.injEq, logError_counts, State.modDie_set hx, State.die_of_getElem? (List.getElem?_set_self hlt)]
  rfl

end

end Sys2Proof.Machine
end

section
/-! SUPPORT. Retired quads (O60). -/

namespace Sys2Proof.Machine

/-! ### The map of a cluster with one entry changed (R213, R214) -/

/-- The quad that an entry names. -/
def quadOf (e : Word) : Nat := (e.extractLsb' 0 5).toNat

section
variable {lmap : List Word} {q : Nat} {e : Word}

theorem remapTo_own (he : lmap[q]? = some e) (p : Nat) :
    remapTo lmap q p false = lmap.set q (BitVec.ofNat 32 (p + 64 * (e.getLsbD 6).toNat)) := by
  refine List.ext_getElem? fun i => ?_
  rw [remapTo, List.getElem?_mapIdx, List.getElem?_set]
  by_cases h : q = i
  · subst h
    obtain ⟨hlt, rfl⟩ := List.getElem?_eq_some_iff.1 he
    simp [hlt]
  · simp [h, Ne.symm h]

theorem remapTo_guest (he : lmap[q]? = some e) (p : Nat) :
    remapTo lmap q p true = (lmap.map fun f => if quadOf f = p then f ||| 32 else f).set q
      (BitVec.ofNat 32 (p + 32 + 64 * (e.getLsbD 6).toNat)) := by
  refine List.ext_getElem? fun i => ?_
  rw [remapTo, List.getElem?_mapIdx, List.getElem?_set, List.getElem?_map]
  by_cases h : q = i
  · subst h
    obtain ⟨hlt, rfl⟩ := List.getElem?_eq_some_iff.1 he
    simp [hlt]
  · rw [if_neg h]
    refine congrArg (fun f => Option.map f lmap[i]?) (funext fun f => ?_)
    simp only [if_neg (Ne.symm h), Bool.true_and, beq_iff_eq]
    exact if_congr Iff.rfl rfl rfl

theorem remapTo_length (lmap : List Word) (q p : Nat) (guest : Bool) : (remapTo lmap q p guest).length = lmap.length := by
  simp [remapTo]

end

/-! ### Quads that can stand in (R213, R214) -/

/-- The entries that name a quad. -/
def Cluster.named (k : Cluster) (p : Nat) : List Word := k.lmap.filter fun f => quadOf f == p

/-- A quad is in service. -/
def Cluster.Serves (k : Cluster) (p : Nat) : Prop := p < 17 ∧ k.qhealth.getLsbD p = true

section
variable {k : Cluster} {p : Nat}

theorem named_eq_nil : k.named p = [] ↔ (k.lmap.any fun e => (e.extractLsb' 0 5).toNat == p) = false := by
  simp [Cluster.named, quadOf]

theorem unusedQuad_some (h : k.unusedQuad = some p) : k.Serves p ∧ k.named p = [] := by
  have hlt := List.mem_range.1 (List.mem_of_find?_eq_some h)
  have hp := List.find?_some h
  simp only [Bool.and_eq_true, Bool.not_eq_true'] at hp
  exact ⟨⟨hlt, hp.1⟩, named_eq_nil.2 hp.2⟩

theorem unusedQuad_none (h : k.unusedQuad = none) (hp : k.Serves p) : k.named p ≠ [] := by
  intro hnil
  have := List.find?_eq_none.1 h p (List.mem_range.2 hp.1)
  simp only [hp.2, named_eq_nil.1 hnil, Bool.not_false, Bool.and_self, not_true_eq_false] at this

theorem sharedQuad_some (h : k.sharedQuad = some p) : k.Serves p ∧ (k.named p).length = 1 := by
  have hlt := List.mem_range.1 (List.mem_of_find?_eq_some h)
  have hp := List.find?_some h
  simp only [Bool.and_eq_true, decide_eq_true_eq] at hp
  exact ⟨⟨hlt, hp.1⟩, hp.2⟩

theorem sharedQuad_none (h : k.sharedQuad = none) (hp : k.Serves p) : (k.named p).length ≠ 1 := by
  intro hone
  have := List.find?_eq_none.1 h p (List.mem_range.2 hp.1)
  rw [hp.2, Bool.true_and, decide_eq_true_eq] at this
  exact this hone

/-- A retired quad's entry takes a quad that no entry names. -/
theorem remap_unused {q : Nat} {e : Word} (he : k.lmap[q]? = some e) (h : ∃ p, k.Serves p ∧ k.named p = []) :
    ∃ p, k.Serves p ∧ k.named p = [] ∧ (k.remap q).lmap = k.lmap.set q (BitVec.ofNat 32 (p + 64 * (e.getLsbD 6).toNat)) := by
  cases hu : k.unusedQuad with
  | none =>
    obtain ⟨p, hp, hnil⟩ := h
    exact absurd hnil (unusedQuad_none hu hp)
  | some p =>
    obtain ⟨hp, hnil⟩ := unusedQuad_some hu
    exact ⟨p, hp, hnil, by rw [Cluster.remap, hu, ← remapTo_own he]⟩

theorem unusedQuad_eq_none (h : ∀ p, k.Serves p → k.named p ≠ []) : k.unusedQuad = none := by
  cases hu : k.unusedQuad with
  | none => rfl
  | some p => exact absurd (unusedQuad_some hu).2 (h p (unusedQuad_some hu).1)

/-- Where every quad is named, the entry shares one that one entry names. -/
theorem remap_shared {q : Nat} {e : Word} (he : k.lmap[q]? = some e) (hall : ∀ p, k.Serves p → k.named p ≠ [])
    (h : ∃ p, k.Serves p ∧ (k.named p).length = 1) :
    ∃ p, k.Serves p ∧ (k.named p).length = 1
      ∧ (k.remap q).lmap = (k.lmap.map fun f => if quadOf f = p then f ||| 32 else f).set q
          (BitVec.ofNat 32 (p + 32 + 64 * (e.getLsbD 6).toNat)) := by
  cases hs : k.sharedQuad with
  | none =>
    obtain ⟨p, hp, hone⟩ := h
    exact absurd hone (sharedQuad_none hs hp)
  | some p =>
    obtain ⟨hp, hone⟩ := sharedQuad_some hs
    exact ⟨p, hp, hone, by rw [Cluster.remap, unusedQuad_eq_none hall, hs, ← remapTo_guest he]⟩

/-- Where every quad is shared already, the entry stays. -/
theorem remap_stays (h : ∀ p, k.Serves p → 2 ≤ (k.named p).length) (q : Nat) : k.remap q = k := by
  have hu : k.unusedQuad = none := unusedQuad_eq_none fun p hp hnil => by
    have := h p hp
    rw [hnil] at this
    exact absurd this (by decide)
  cases hs : k.sharedQuad with
  | none => rw [Cluster.remap, hu, hs]
  | some p =>
    obtain ⟨hp, hone⟩ := sharedQuad_some hs
    exact absurd (h p hp) (by omega)

end

/-! ### A quad retired -/

/-- A cluster without one of its quads. -/
def Cluster.without (k : Cluster) (pq : Nat) : Cluster := { k with qhealth := k.qhealth &&& ~~~(BitVec.twoPow 17 pq) }

/-- The logical quads that a quad carries. -/
def Cluster.carried (k : Cluster) (pq : Nat) : List Nat := (List.range 16).filter fun q => quadOf (k.lmap.getD q 0) == pq

theorem serves_without {k : Cluster} {pq p : Nat} : (k.without pq).Serves p ↔ p < 17 ∧ p ≠ pq ∧ k.qhealth.getLsbD p = true := by
  refine and_congr_right fun hp => ?_
  simp only [Cluster.without, BitVec.getLsbD_and, BitVec.getLsbD_not, BitVec.getLsbD_twoPow, decide_eq_true hp, Bool.true_and]
  by_cases h : pq = p
  · simp [h, hp]
  · simp [h, Ne.symm h]

theorem remap_rest (k : Cluster) (q : Nat) : ∃ m, k.remap q = { k with lmap := m } ∧ m.length = k.lmap.length := by
  rw [Cluster.remap]
  split
  · exact ⟨_, rfl, remapTo_length ..⟩
  · split
    · exact ⟨_, rfl, remapTo_length ..⟩
    · exact ⟨_, rfl, rfl⟩

theorem foldl_remap_rest (k : Cluster) (qs : List Nat) :
    ∃ m, qs.foldl Cluster.remap k = { k with lmap := m } ∧ m.length = k.lmap.length := by
  induction qs generalizing k with
  | nil => exact ⟨_, rfl, rfl⟩
  | cons q qs ih =>
    obtain ⟨m, hm, hlen⟩ := remap_rest k q
    obtain ⟨m', hm', hlen'⟩ := ih (k.remap q)
    refine ⟨m', ?_, ?_⟩
    · rw [List.foldl_cons, hm', hm]
    · rw [hlen', hm]
      exact hlen

/-- No entry names the quad. -/
theorem carried_none {k : Cluster} {pq : Nat} (hlen : k.lmap.length = 16) (h : ∀ e ∈ k.lmap, quadOf e ≠ pq) : k.carried pq = [] := by
  refine List.filter_eq_nil_iff.2 fun q hq => ?_
  have hlt : q < k.lmap.length := by simpa [hlen] using hq
  simpa [hlt] using h k.lmap[q] (List.getElem_mem hlt)

/-- One entry names the quad. -/
theorem carried_one {k : Cluster} {pq q : Nat} {e : Word} (hlen : k.lmap.length = 16) (he : k.lmap[q]? = some e) (hq : quadOf e = pq)
    (h : ∀ j f, k.lmap[j]? = some f → quadOf f = pq → j = q) : k.carried pq = [q] := by
  refine List.perm_singleton.1 ((List.perm_ext_iff_of_nodup (List.nodup_range.filter _) (List.nodup_singleton q)).2 fun j => ?_)
  simp only [List.mem_filter, List.mem_range, List.mem_singleton, beq_iff_eq]
  constructor
  · rintro ⟨hj, hname⟩
    have hlt : j < k.lmap.length := hlen ▸ hj
    exact h j k.lmap[j] (List.getElem?_eq_getElem hlt) (by simpa [hlt] using hname)
  · rintro rfl
    obtain ⟨hlt, rfl⟩ := List.getElem?_eq_some_iff.1 he
    exact ⟨hlen ▸ hlt, by simpa [hlt] using hq⟩

section
variable {s : State} {c pq : Nat} {k : Cluster}

theorem retireQuad_resident (hk : s.clusters[c]? = some k) (h : ∃ g ∈ s.groups, g.cluster = c ∧ g.coreNo / 4 = pq) :
    s.retireQuad c pq = { s with clusters := s.clusters.set c (k.without pq) } := by
  have hany : (s.groups.any fun g => g.cluster == c && g.coreNo / 4 == pq) = true := by simpa using h
  simp only [State.retireQuad, hany, if_true]
  exact State.modCluster_set hk _

theorem retireQuad_free (hk : s.clusters[c]? = some k) (h : ∀ g ∈ s.groups, ¬(g.cluster = c ∧ g.coreNo / 4 = pq)) :
    s.retireQuad c pq = { s with clusters := s.clusters.set c (((k.without pq).carried pq).foldl Cluster.remap (k.without pq)) } := by
  have hany : (s.groups.any fun g => g.cluster == c && g.coreNo / 4 == pq) = false := by simpa using h
  simp only [State.retireQuad, hany, Bool.false_eq_true, if_false]
  rw [State.modCluster_set hk]
  have hlt : c < s.clusters.length := (List.getElem?_eq_some_iff.1 hk).1
  refine (State.modCluster_set (k := k.without pq) (by simp [hlt, Cluster.without]) _).trans ?_
  simp only [List.set_set]
  rfl

end

end Sys2Proof.Machine
end

section
/-! SUPPORT. Arriving messages, firmware and the events of links (O60). -/

namespace Sys2Proof.Machine

theorem arrive_matched {s u : State} {link off i : Nat} {tag : Word} {bs : List Byte} {v : BitVec 512}
    (hmask : s.io.spmask.getLsbD link = true) (hup : s.io.spireDown.contains link = false)
    (hmatch : s.io.matchEntry link tag = some (i, v)) (hlen : off + bs.length ≤ aeLength v) (hi : i ∉ s.io.appends)
    (hu : s.ioWrite (aeCtx v) (aeBuf v + off) bs = some u) :
    s.arrive link tag off bs =
      let n := (aeCount v + bs.length) % 2 ^ 32
      u.modIo fun x => { x with
        arrivals := x.arrivals.map fun e => if e.1 = i then (i, setBits e.2 160 32 n) else e
        appends := if aeLength v ≤ n then x.appends ++ [i] else x.appends } := by
  have hfree : ¬(aeLength v < off + bs.length ∨ s.io.appends.contains i = true) := by
    simpa [hi] using hlen
  simp only [State.arrive, spireUp_iff.2 ⟨hmask, hup⟩, Bool.not_true, Bool.false_eq_true, if_false, hmatch, if_neg hfree, hu]
  split <;> rfl

theorem appendTask_room {s u u1 : State} {i : Nat} {bs : List Byte} (hi : i ∈ s.io.appends) (hstill : s.still = false)
    (hread : s.rangeRead 0 (aeCtx (s.io.arrivalEntry i)) true .load (aePool (s.io.arrivalEntry i)) 64 = .ok bs)
    {h : BitVec 512} (hh : h = BitVec.ofNat 512 (leNat bs)) (hvalid : phValid h = true) (hrec : 32 ≤ phRecb h)
    (hroom : phTail h ≠ phHead h + 2 ^ phPlog h)
    (hu : s.ioWrite (aeCtx (s.io.arrivalEntry i)) (phRbase h + phRecb h * (phTail h % 2 ^ phPlog h))
      (taskRecord (s.io.arrivalEntry i) (phRecb h)) = some u)
    (hu1 : u.ioWrite (aeCtx (s.io.arrivalEntry i)) (aePool (s.io.arrivalEntry i) + 8) (leBytes 8 (phTail h + 1)) = some u1) :
    s.appendTask i = u1.modIo fun x => { x with
      arrivals := x.arrivals.map fun e => if e.1 = i then (i, rearm e.2) else e
      appends := x.appends.filter fun k => k != i } := by
  subst hh
  have hwaits : (!s.io.appends.contains i || s.still) = false := by simp [hi, hstill]
  have hgood : ¬(phRecb (BitVec.ofNat 512 (leNat bs)) < 32 ∨ phValid (BitVec.ofNat 512 (leNat bs)) = false) := by
    simp [hvalid, hrec]
  simp only [State.appendTask, hwaits, Bool.false_eq_true, if_false, hread, if_neg hgood, if_neg hroom, hu, hu1]
  rfl

theorem startFirmware_accepted {s : State} {img : FwImage} {k : Nat} (hk : s.io.trainedAt = some k) (hfw : s.io.fw = false)
    (hbad : s.io.fwBad = false) (hlong : 100000000 ≤ s.ns.toNat - k) (hok : imageOk img s.io.fuseVer = true) :
    s.startFirmware img = { s with
      io := { s.io with fw := true, locked := true, resp := setBits s.io.resp 16 1 1, msix := s.io.msix ++ [0] }
      belfry := { s.belfry with pidle := (Config.measured s.tick).toNat % 2 ^ 16 } } := by
  have hwait : ¬(s.io.fw = true ∨ s.io.fwBad = true ∨ s.ns.toNat - k < 100000000) := by simp [hfw, hbad, hlong]
  rw [State.startFirmware, hk]
  refine (if_neg hwait).trans ?_
  rw [if_pos hok]
  rfl

theorem startFirmware_refused {s : State} {img : FwImage} {k : Nat} (hk : s.io.trainedAt = some k) (hfw : s.io.fw = false)
    (hbad : s.io.fwBad = false) (hlong : 100000000 ≤ s.ns.toNat - k) (hok : imageOk img s.io.fuseVer = false) :
    s.startFirmware img = { s with io := { s.io with fwBad := true, mlog := s.io.mlog ++ [.image] } } := by
  have hwait : ¬(s.io.fw = true ∨ s.io.fwBad = true ∨ s.ns.toNat - k < 100000000) := by simp [hfw, hbad, hlong]
  rw [State.startFirmware, hk]
  refine (if_neg hwait).trans ?_
  rw [if_neg (by simp [hok])]
  rfl

theorem startFirmware_idle {s : State} {img : FwImage} (h : s.io.trainedAt = none ∨ s.io.fw = true ∨ s.io.fwBad = true
    ∨ ∃ k, s.io.trainedAt = some k ∧ s.ns.toNat - k < 100000000) : s.startFirmware img = s := by
  cases hk : s.io.trainedAt with
  | none => rw [State.startFirmware, hk]
  | some k =>
    have hwait : s.io.fw = true ∨ s.io.fwBad = true ∨ s.ns.toNat - k < 100000000 := by simpa [hk] using h
    rw [State.startFirmware, hk]
    exact if_pos hwait

/-- Settles O60: a clause for each event. -/
theorem linkEvents : Obligations.LinkEvents := by
  unfold Obligations.LinkEvents
  refine ⟨?hostDown, ?hostWrite, ?mailbox, ?spireBlocked, ?spireWrite, ?matched, ?unmatched, ?idle, ?append, ?lane, ?linkDown, ?trained,
    ?timeout, ?firmware, ?early, ?reset, ?soft, ?scrub, ?spare, ?resident, ?retire, ?engine⟩
  case hostDown =>
    intro s link mailbox addr acc h
    have hcarry : s.io.carries link = false := by
      simp only [Io.carries, Bool.and_eq_false_iff, Bool.not_eq_false']
      exact h
    refine congrArg Host.Outcome.next ?_
    simp only [State.hostAccess, hcarry, Bool.not_false, if_true]
  case hostWrite =>
    intro s link addr bs htrain hup hfw h
    exact ⟨_, congrArg Host.Outcome.next (hostAccess_write htrain hup hfw h), rfl, read_physWrite_dev s h⟩
  case mailbox =>
    intro s link addr bs htrain hup h
    have hexec : s.hostAccess link true addr (.write bs) = s.modIo fun x => x.mailboxPut addr bs := by
      simp only [State.hostAccess, carries_iff.2 ⟨htrain, hup⟩, Bool.not_true, Bool.false_eq_true, if_false, if_true]
    obtain ⟨hrest, hbytes⟩ := Io.mailboxPut_cmd h s.io
    exact ⟨_, congrArg Host.Outcome.next hexec, rfl, hrest, hbytes⟩
  case spireBlocked =>
    intro s link addr acc h
    refine congrArg Host.Outcome.next (if_neg ?_)
    rw [Bool.and_eq_true, spireUp_iff, List.any_eq_true]
    rintro ⟨⟨hmask, hup⟩, w, hw, hallow⟩
    obtain h | h | h := h
    · exact Bool.false_ne_true (h.symm.trans hmask)
    · exact Bool.false_ne_true (hup.symm.trans h)
    · simp only [spAllows, Bool.and_eq_true] at hallow
      obtain ⟨⟨⟨⟨⟨hvalid, -⟩, -⟩, hlink⟩, -⟩, -⟩ := hallow
      obtain h | h := h w hw
      · exact Bool.false_ne_true (h.symm.trans hvalid)
      · exact Bool.false_ne_true (h.symm.trans hlink)
  case spireWrite =>
    intro s link addr bs w hmask hup hlink hw hvalid hwrite hopen hbase hlimit h
    have hallow : spAllows w link addr (.write bs) = true := by
      simp only [spAllows, hvalid, hwrite, hlink, hopen, hbase, accSize, hlimit, decide_true, Bool.and_self]
    refine ⟨_, congrArg Host.Outcome.next (if_pos ?_), rfl, read_physWrite_dev s h⟩
    rw [Bool.and_eq_true, spireUp_iff, List.any_eq_true]
    exact ⟨⟨hmask, hup⟩, w, hw, hallow⟩
  case matched =>
    intro s link tag off bs i v u hmask hup hmatch hlen hi hu n
    exact ⟨_, congrArg Host.Outcome.next (arrive_matched hmask hup hmatch hlen hi hu), rfl, rfl, rfl⟩
  case unmatched =>
    intro s link tag off bs h
    refine congrArg Host.Outcome.next ?_
    simp only [State.arrive, h, ite_self]
  case idle =>
    intro s i h
    exact congrArg Host.Outcome.next (if_pos (by simp [h]))
  case append =>
    intro s i h bs u u1 hi hstill v hread hh hvalid hrec hroom hu hu1
    exact ⟨_, congrArg Host.Outcome.next (appendTask_room hi hstill hread hh hvalid hrec hroom hu hu1), rfl, by simp, rfl⟩
  case lane =>
    intro s link
    exact ⟨_, rfl, (laneFail_rest s link).1, (laneFail_rest s link).2, laneFail_lanes s link⟩
  case linkDown => exact fun _ _ => rfl
  case trained => exact fun _ _ => rfl
  case timeout =>
    intro s
    exact congrArg Host.Outcome.next (if_congr (and_congr_left' Option.isNone_iff_eq_none) rfl rfl)
  case firmware =>
    intro s img k hk hfw hbad hlong
    refine ⟨fun hrsa hslh hver => ?_, fun h => ?_⟩
    · have hok : imageOk img s.io.fuseVer = true := by simp [imageOk, hrsa, hslh, hver]
      refine ⟨_, _, congrArg Host.Outcome.next (startFirmware_accepted hk hfw hbad hlong hok), rfl, rfl, ?_, fun i hi hne => ?_⟩
      · exact getLsbD_setBits _ _ _ _ _ (by decide)
      · have hout : ¬(16 ≤ i ∧ i < 16 + 1) := by omega
        exact (getLsbD_setBits _ _ _ _ _ hi).trans (if_neg hout)
    · have hok : imageOk img s.io.fuseVer = false := by
        simp only [imageOk, Bool.and_eq_false_iff, decide_eq_false_iff_not, Nat.not_le, or_assoc]
        exact h
      exact congrArg Host.Outcome.next (startFirmware_refused hk hfw hbad hlong hok)
  case early => exact fun s img h => congrArg Host.Outcome.next (startFirmware_idle h)
  case reset => exact fun _ => rfl
  case soft =>
    intro s p c hc
    refine congrArg Host.Outcome.next ?_
    simp only [hc]
  case scrub =>
    intro s d x n hx
    exact congrArg Host.Outcome.next (State.modDie_set hx _)
  case spare =>
    exact fun s d x n hx => ⟨_, rfl, scrub_rest s d n .., scrub_counts hx n ..⟩
  case resident =>
    exact fun s c pq k hk h => congrArg Host.Outcome.next (retireQuad_resident hk h)
  case retire =>
    intro s c pq k hk hlen h
    obtain ⟨m, hm, hmlen⟩ := foldl_remap_rest (k.without pq) ((k.without pq).carried pq)
    refine ⟨m, congrArg Host.Outcome.next ((retireQuad_free hk h).trans (by rw [hm]; rfl)), hmlen, fun hnone => ?_, ?_⟩
    · rw [carried_none (k := k.without pq) hlen hnone] at hm
      exact (congrArg Cluster.lmap hm).symm
    · intro q e _ hq he huniq names serves
      rw [carried_one (k := k.without pq) hlen hq he huniq] at hm
      have hlmap : ((k.without pq).remap q).lmap = m := congrArg Cluster.lmap hm
      have hserves : ∀ p, (k.without pq).Serves p ↔ serves p := fun p => serves_without
      simp only [← hserves]
      refine ⟨fun hfree => ?_, fun hall hone => ?_, fun hall => ?_⟩
      · rw [← hlmap]
        exact remap_unused hq hfree
      · rw [← hlmap]
        exact remap_shared hq hall hone
      · rw [← hlmap, remap_stays hall]
        rfl
  case engine => exact fun _ _ => rfl

end Sys2Proof.Machine
end

section
/-! SUPPORT. Copy and fabric words put in the wave's queue (O42). -/

namespace Sys2Proof.Machine

/-! ### Checks at issue that find nothing (R252, R254, R396) -/

section

variable {s : State} {c : Ctx} {ts : List Nat}

theorem failWith_eq_none {f : Nat → Option Nat} (h : ∀ t ∈ ts, f t = none) (cause : Cause) (sub : Nat) :
    failWith cause sub f ts = none := by
  have hnone : (ts.filterMap fun t => (f t).map fun a => (t, a)) = [] :=
    List.filterMap_eq_nil_iff.2 fun t ht => by rw [h t ht, Option.map_none]
  rw [failWith, hnone]

theorem rangeFail_eq_none {rs : List Range} (h : ∀ r ∈ rs, s.SpOk c r) (e : SpErr) : s.rangeFail c e rs = none := by
  rw [State.rangeFail, List.find?_eq_none.2, Option.map_none]
  intro r hr
  obtain ⟨p, hp⟩ := h r hr
  simp [hp]

theorem rangeTrap_eq_none {rs : Nat → List Range} (h : ∀ t ∈ ts, ∀ r ∈ rs t, s.SpOk c r) : s.rangeTrap c rs ts = none := by
  rw [State.rangeTrap, failWith_eq_none fun t ht => rangeFail_eq_none (h t ht) .perm,
    failWith_eq_none fun t ht => rangeFail_eq_none (h t ht) .bound]
  rfl

theorem spEccTrap_eq_none {ea : Nat → Nat} {n : Nat}
    (h : ∀ t ∈ ts, ∀ p, s.spPlace c.group true (ea t) n = .ok p → s.spBad p n = false ∧ s.netFails c (ea t) = false) :
    s.spEccTrap c ea n ts = none := by
  rw [State.spEccTrap, List.filter_eq_nil_iff.2]
  intro t ht
  cases hp : s.spPlace c.group true (ea t) n with
  | error e => simp
  | ok p => simp [h t ht p hp]

theorem producerTrap_eq_none (h : c.perf ≠ [] → c.Producer) : c.producerTrap = none := by
  refine if_neg fun ⟨hne, hnot⟩ => ?_
  obtain ⟨hen, hrole⟩ := h hne
  simp [hen, hrole] at hnot

theorem copyAlign_eq_none {b : VOp} {ranges : Nat → List Range} {t : Nat} (hb : (c.v64 t b).extractLsb' 33 3 = 0)
    (h : WordAligned (ranges t)) : c.copyAlign b ranges t = none := by
  have hfind : (ranges t).find? (fun r => inAperture r.2.1 && (r.2.1 % 4 != 0 || r.2.2 % 4 != 0)) = none := by
    refine List.find?_eq_none.2 fun r hr => ?_
    by_cases hin : inAperture r.2.1 = true
    · simp [hin, h r hr hin]
    · simp [hin]
  simp [Ctx.copyAlign, hb, hfind]

theorem copyTrap_eq_none {b : VOp} {ranges : Nat → List Range} (hp : c.perf ≠ [] → c.Producer) (hb : c.LengthOk b)
    (h : ∀ t ∈ c.perf, WordAligned (ranges t)) : c.copyTrap b ranges = none := by
  rw [Ctx.copyTrap, producerTrap_eq_none hp, failWith_eq_none fun t ht => if_neg (Nat.not_le.2 (hb t ht).1),
    failWith_eq_none fun t ht => copyAlign_eq_none (hb t ht).2 (h t ht)]
  rfl

end

/-! ### The queue afterwards (R227, R252, R257) -/

theorem Wave.pushCopy_eq (w : Wave) (op : CopyOp) : w.pushCopy op = { w with
    cq := w.cq ++ if op.n != 0 then [{ op with batch := (w.batch.get op.thread).toNat }] else [] } := by
  unfold Wave.pushCopy
  by_cases h : op.n = 0 <;> simp [h]

theorem Wave.foldl_pushCopy (w : Wave) (op : Nat → CopyOp) (ts : List Nat) :
    ts.foldl (fun w t => w.pushCopy (op t)) w = { w with cq := copyQueue w ts op } := by
  induction ts generalizing w with
  | nil => simp [copyQueue]
  | cons t ts ih =>
    rw [List.foldl_cons, ih, Wave.pushCopy_eq]
    by_cases h : (op t).n = 0 <;> simp [copyQueue, h]

theorem State.queueCopies_eq (s : State) (c : Ctx) (op : Nat → CopyOp) :
    s.queueCopies c op = (s.modWave c.ref.group c.ref.wix fun w =>
      { w with cq := copyQueue w c.perf fun t => { op t with at_ := s.tick } }).complete c c.perf := by
  simp only [State.queueCopies, Wave.foldl_pushCopy]

/-! ### The words -/

theorem Ctx.copyAddr_toNat (c : Ctx) (sp : Bool) (a : VOp) (t : Nat) : (c.copyAddr sp a t).toNat = c.addrOf sp a t := by
  cases sp
  · rfl
  · simp only [Ctx.copyAddr, Ctx.addrOf, if_true, BitVec.toNat_setWidth]
    omega

section

variable {s : State} {c : Ctx} {a b d : VOp}

/-- A copy with one destination. -/
theorem copy_queues {spD spA : Bool} (hc : s.ctx = some c) (hp : c.path.priv = false) (hprod : c.perf ≠ [] → c.Producer)
    (hr : c.Readable c.perf [⟨d, !spD⟩, ⟨a, !spA⟩, ⟨b, true⟩]) (hb : c.LengthOk b)
    (h : ∀ t ∈ c.perf, WordAligned (c.copyRanges spD spA d a b t)
      ∧ ∀ x ∈ c.copyRanges spD spA d a b t ++ syncRanges (c.copySync b t), s.SpOk c x) (k : CopyKind) :
    copy s k spD spA d a b = .next (s.queueCopies c fun t =>
      c.newCopy k t (c.copyAddr spD d t) (c.copyAddr spA a t) (c.copyLen b t) (c.copySync b t) []) := by
  have hchecks := copyTrap_eq_none (ranges := fun t => c.copyRanges spD spA d a b t) hprod hb fun t ht => (h t ht).1
  have hranges := rangeTrap_eq_none (s := s) (rs := fun t => c.copyRanges spD spA d a b t ++ syncRanges (c.copySync b t)) fun t ht =>
    (h t ht).2
  simp only [Ctx.copyRanges] at hchecks hranges
  simp only [copy, atP0_user hc hp, Ctx.copyAddr_toNat, srcTrap_eq_none hr, hchecks, hranges]
  rfl

/-- A multicast copy. -/
theorem copyMc_queues {spA : Bool} (hc : s.ctx = some c) (hp : c.path.priv = false) (hprod : c.perf ≠ [] → c.Producer)
    (hr : c.Readable c.perf [⟨d, false⟩, ⟨a, !spA⟩, ⟨b, true⟩]) (hb : c.LengthOk b)
    (h : ∀ t ∈ c.perf, WordAligned (spRanges spA (c.addrOf spA a t) (c.copyLen b t))
      ∧ (∀ x ∈ spRanges spA (c.addrOf spA a t) (c.copyLen b t) ++ syncRanges (c.copySync b t), s.SpOk c x)
      ∧ (s.members c.launch (c.v32 t d)).isSome = true
      ∧ s.memberBound c.launch (c.v32 t d) (c.copyLen b t) (c.copySync b t) = false) (k : CopyKind) :
    copyMc s k spA d a b = .next (s.queueCopies c fun t =>
      c.newCopy k t ((c.v32 t d).setWidth 64) (c.copyAddr spA a t) (c.copyLen b t) (c.copySync b t)
        (((s.members c.launch (c.v32 t d)).getD []).map fun g => g.id)) := by
  have hchecks := copyTrap_eq_none (ranges := fun t => spRanges spA (c.addrOf spA a t) (c.copyLen b t)) hprod hb fun t ht => (h t ht).1
  have hperm := failWith_eq_none (f := fun t =>
    if (s.members c.launch (c.v32 t d)).isNone then some (c.v32 t d).toNat
    else s.rangeFail c .perm (spRanges spA (c.addrOf spA a t) (c.copyLen b t) ++ syncRanges (c.copySync b t)))
    (fun t ht => by
      obtain ⟨-, hok, hsome, -⟩ := h t ht
      obtain ⟨gs, hgs⟩ := Option.isSome_iff_exists.1 hsome
      rw [hgs]
      exact rangeFail_eq_none hok .perm) .perm 0
  have hbound := failWith_eq_none (f := fun t =>
    if s.memberBound c.launch (c.v32 t d) (c.copyLen b t) (c.copySync b t) then some (c.v32 t d).toNat
    else s.rangeFail c .bound (spRanges spA (c.addrOf spA a t) (c.copyLen b t) ++ syncRanges (c.copySync b t)))
    (fun t ht => by
      obtain ⟨-, hok, -, hin⟩ := h t ht
      rw [hin]
      exact rangeFail_eq_none hok .bound) .spbound 0
  simp only [copyMc, atP0_user hc hp, Ctx.copyAddr_toNat, srcTrap_eq_none hr, hchecks, hperm, hbound]
  rfl

/-- A fabric word. -/
theorem fabric_queues {k : FabKind} {q : BitVec 4} (hc : s.ctx = some c)
    (hprod : c.perf ≠ [] → c.Producer ∧ s.io.spmask.getLsbD q.toNat = true) (hr : c.Readable c.perf [⟨a, false⟩, ⟨b, false⟩])
    (h : ∀ t ∈ c.perf, s.FabricOk c k a b t) (hh : s.NoneHeld c.ref) :
    fabric s k a b q = .next (s.queueCopies c fun t => c.fabOp k q.toNat (s.fabAt c a t) (c.v32 t b).toNat t) := by
  have hdrain : (if c.perf = [] then s else s.drain c.ref.group c.ref.wix) = s := by
    rw [State.drain, release_of_noneHeld hh, ite_self]
  have hmask := failWith_eq_none (f := fun _ => if s.io.spmask.getLsbD q.toNat then none else some q.toNat)
    (ts := c.perf) (fun t ht => if_pos (hprod (List.ne_nil_of_mem ht)).2) .perm 0
  have halign := alignTrap_eq_none (ea := c.eaS a 0) (n := 32) (ts := c.perf) fun t ht => by
    rw [c.eaS_zero]
    exact (h t ht).1
  have hreach := rangeTrap_eq_none (s := s) (c := c) (rs := fun t => [(false, c.eaS a 0 t, 32)]) (ts := c.perf) fun t ht r hr => by
    obtain ⟨-, ⟨p, hp, -⟩, -⟩ := h t ht
    rw [List.mem_singleton.1 hr, c.eaS_zero]
    exact ⟨p, hp⟩
  have hecc := spEccTrap_eq_none (s := s) (c := c) (ea := c.eaS a 0) (n := 32) (ts := c.perf) fun t ht p hp => by
    obtain ⟨-, ⟨p', -, hp', hbad, hnet⟩, -⟩ := h t ht
    rw [c.eaS_zero] at hp ⊢
    obtain rfl := Except.ok.inj (hp'.symm.trans hp)
    exact ⟨hbad, hnet⟩
  have hlen := failWith_eq_none (ts := c.perf) (f := fun t =>
    if k = .send ∧ 2 ^ 24 ≤ fabLen (s.fabAt c a t) + (c.v32 t b).toNat then some (fabLen (s.fabAt c a t) + (c.v32 t b).toNat)
    else none) (fun t ht => by
      obtain ⟨-, -, hlen, -⟩ := h t ht
      exact if_neg fun ⟨hk, hle⟩ => absurd (hlen hk) (Nat.not_lt.2 hle)) .stream 1
  have hbad := failWith_eq_none (ts := c.perf) (f := fun t =>
    if fabBad k (s.fabAt c a t) (c.v32 t b).toNat then some (c.eaS a 0 t) else none) (fun t ht => by
      obtain ⟨-, -, -, hbad, -⟩ := h t ht
      exact if_neg (Bool.eq_false_iff.1 hbad)) .stream 3
  have hranges := rangeTrap_eq_none (s := s) (c := c) (ts := c.perf) (rs := fun t =>
    spRanges (fabLsp (s.fabAt c a t)) (fabLocal (s.fabAt c a t) (c.v32 t b).toNat).toNat (fabLen (s.fabAt c a t))
      ++ if k = .get then syncRanges (fabSync (s.fabAt c a t)) else []) fun t ht r hr => by
    obtain ⟨-, -, -, -, hlocal, hsync⟩ := h t ht
    obtain hr | hr := List.mem_append.1 hr
    · exact hlocal r hr
    · by_cases hk : k = .get
      · exact hsync hk r (by simpa [hk] using hr)
      · simp [hk] at hr
  simp only [State.fabAt, ← congrFun (c.eaS_zero a)] at hlen hbad hranges ⊢
  simp only [fabric, issue_of_ctx hc, hdrain, srcTrap_eq_none hr, producerTrap_eq_none fun hne => (hprod hne).1, hmask, halign, hreach,
    hecc, hlen, hbad, hranges]
  rfl

end

/-! ### The rows, word by word -/

theorem copyRow_exec {i : Instr} {k : CopyKind} {spD spA : Bool} {d a b : VOp} (h : CopyRow i k spD spA d a b) (s : State) :
    exec i s = copy s k spD spA d a b := by
  cases h <;> rfl

theorem multicastRow_exec {i : Instr} {k : CopyKind} {spA : Bool} {d a b : VOp} (h : MulticastRow i k spA d a b) (s : State) :
    exec i s = copyMc s k spA d a b := by
  cases h <;> rfl

theorem fabricRow_exec {i : Instr} {k : FabKind} {a b : VOp} {q : BitVec 4} (h : FabricRow i k a b q) (s : State) :
    exec i s = fabric s k a b q := by
  cases h <;> rfl

/-- Settles O42: each row is a copy, a multicast copy or a fabric word whose checks find nothing, and such a word queues an
operation of each performing thread. -/
theorem copyWordsQueue : Obligations.CopyWordsQueue := by
  unfold Obligations.CopyWordsQueue
  refine ⟨?copy, ?multicast, ?fabric⟩
  case copy =>
    intro s c i k spD spA d a b hrow hc hp hprod hr hb h _
    rw [copyRow_exec hrow, copy_queues hc hp hprod hr hb h, State.queueCopies_eq]
  case multicast =>
    intro s c i k spA d a b hrow hc hp hprod hr hb h _
    rw [multicastRow_exec hrow, copyMc_queues hc hp hprod hr hb h, State.queueCopies_eq]
  case fabric =>
    intro s c i k a b q hrow hc hprod hr h hh
    rw [fabricRow_exec hrow, fabric_queues hc hprod hr h hh, State.queueCopies_eq]

end Sys2Proof.Machine
end

section
/-! SUPPORT. Batches and `qfence` (O43). -/

namespace Sys2Proof.Machine

/-! ### A word that waits where it stands -/

/-- A wave one of whose paths changes; its quantum ends if `b` says so. -/
def Wave.stall (b slot : Bool) (F : Path → Path) (w : Wave) : Wave := ({ w with qended := w.qended || b }).modPath slot F

theorem Wave.stall_keeps (b slot : Bool) (F : Path → Path) (w : Wave) :
    { w.stall b slot F with qended := w.qended, path0 := w.path0, path1 := w.path1 } = w := by
  cases slot <;> rfl

theorem Wave.stall_qended (b slot : Bool) (F : Path → Path) (w : Wave) : (w.stall b slot F).qended = (w.qended || b) := by
  cases slot <;> rfl

theorem Wave.stall_wix (b slot : Bool) (F : Path → Path) (w : Wave) : (w.stall b slot F).wix = w.wix := Wave.modPath_wix ..

section

variable {s : State} {c : Ctx}

/-- Beside the path that begins to wait and the end of its quantum, the wave is as before, and so is everything else. -/
theorem stall_leaves (hc : s.ctx = some c) (b : Bool) (F : Path → Path) (hF : (F c.path).priv = c.path.priv) :
    ∃ c', OnlyWave c.ref s (s.modWave c.ref.group c.ref.wix (Wave.stall b c.ref.slot F))
      ∧ (s.modWave c.ref.group c.ref.wix (Wave.stall b c.ref.slot F)).ctxAt c.ref = some c'
      ∧ c'.path = F c.path ∧ c'.wave.qended = (c.wave.qended || b) ∧ SameV c c' ∧ SameP c c' := by
  obtain ⟨-, hctx⟩ := State.ctx_eq hc
  have hslot : ({ c.wave with qended := c.wave.qended || b } : Wave).path? c.ref.slot = some c.path :=
    (State.ctxAt_eq hctx).2.2.2.1
  have hkeeps := c.wave.stall_keeps b c.ref.slot F
  refine ⟨_, onlyWave_modWave _ _ _ (Wave.stall_wix b c.ref.slot F),
    State.ctxAt_modWave hctx _ (q := F c.path) (Wave.stall_wix b c.ref.slot F) ?_, rfl, Wave.stall_qended .., sameV_of ?_ ?_, sameP_of ?_⟩
  · simp [Wave.stall, hslot]
  · intro k j
    rw [Ctx.wreg_eq, Ctx.wreg_eq, hF]
    exact (congrArg (fun w : Wave => w.readW c.path.priv k j) hkeeps :)
  · intro k j
    exact (congrArg (fun w : Wave => w.o.get (8 * j + k)) hkeeps :)
  · exact (congrArg Wave.p hkeeps :)

/-! ### Batches (R257) -/

/-- The copy errors that a trap would deliver are of other threads. -/
theorem copyErrTrap_eq_none {ts : List Nat} (h : ∀ e ∈ c.wave.copyErr, e.thread ∉ ts) : c.copyErrTrap ts = none := by
  have hnone : (ts.filterMap fun t => c.wave.copyErr.find? fun e => e.thread == t) = [] := by
    refine List.filterMap_eq_nil_iff.2 fun t ht => List.find?_eq_none.2 fun e he => ?_
    have hne : e.thread ≠ t := fun heq => h e he (heq ▸ ht)
    simpa using hne
  rw [Ctx.copyErrTrap, hnone]

/-- Batches of threads opened, as `cseal` counts them. -/
theorem get_foldl_next {w : Nat} (m : Sparse w) {ts : List Nat} (hts : ts.Nodup) (j : Nat) :
    Sparse.get (ts.foldl (fun m t => Sparse.set m t (Sparse.get m t + 1)) m) j = if j ∈ ts then m.get j + 1 else m.get j := by
  induction ts generalizing m with
  | nil => simp
  | cons t ts ih =>
    obtain ⟨hnot, hnodup⟩ := List.nodup_cons.1 hts
    rw [List.foldl_cons, ih _ hnodup, Sparse.get_set]
    by_cases hj : j = t
    · subst hj
      simp [hnot]
    · simp [hj]

/-- `cseal` opens the next batch of each performing thread. -/
def Wave.sealBatches (ts : List Nat) (w : Wave) : Wave :=
  { w with batch := ts.foldl (fun m t => m.set t (m.get t + 1)) w.batch }

theorem cseal_exec (hc : s.ctx = some c) :
    exec .cseal s = .next (if c.perf.any fun t => decide (63 ≤ c.wave.unfinished t) then
      s.modWave c.ref.group c.ref.wix (Wave.stall
        (c.launch.repro && c.perf.any fun t => decide (63 ≤ ({ c.wave with cq := c.wave.copiesBound } : Wave).unfinished t)) c.ref.slot
        fun p => { p with wait := .cseal, since := if c.path.wait = Wait.cseal then p.since else s.ns.toNat })
      else (s.modWave c.ref.group c.ref.wix (Wave.sealBatches c.perf)).complete c c.perf) :=
  issue_of_ctx hc _

theorem Ctx.stepOn_batch (c : Ctx) (ts : List Nat) (w : Wave) :
    (c.stepOn ts w).batch = w.batch ∧ (c.stepOn ts w).cq = w.cq := by
  unfold Ctx.stepOn
  cases c.path.priv <;> cases c.ref.slot <;> exact ⟨rfl, rfl⟩

/-- What a `cseal` leaves that completes. -/
theorem sealBatches_complete (hc : s.ctx = some c) {t : State}
    (ht : t = (s.modWave c.ref.group c.ref.wix (Wave.sealBatches c.perf)).complete c c.perf) :
    ∃ c', OnlyWave c.ref s t ∧ t.ctxAt c.ref = some c' ∧ c'.path = c.path.next
      ∧ (∀ j, c'.wave.batch.get j = if j ∈ c.perf then c.wave.batch.get j + 1 else c.wave.batch.get j)
      ∧ c'.wave.cq = c.wave.cq ∧ SameV c c' ∧ SameP c c' := by
  obtain ⟨-, hctx⟩ := State.ctx_eq hc
  have hsealed := State.ctxAt_modWave hctx (Wave.sealBatches c.perf) (q := c.path) (fun _ => rfl) (State.ctxAt_eq hctx).2.2.2.1
  obtain ⟨hbatch, hcq⟩ := c.stepOn_batch c.perf (c.wave.sealBatches c.perf)
  obtain ⟨hw, ho, hp, -⟩ := c.stepOn_reads c.perf (c.wave.sealBatches c.perf)
  subst ht
  refine ⟨_, ?_, complete_ctxAt (c := c) hsealed c.perf, rfl, fun j => ?_, hcq, sameV_of ?_ ?_, sameP_of hp⟩
  · rw [State.complete_eq, State.modWave_modWave _ _ _ (Wave.sealBatches c.perf) _ fun _ => rfl]
    exact onlyWave_modWave _ _ _ fun w => c.stepOn_wix ..
  · rw [hbatch]
    exact get_foldl_next _ c.perf_nodup j
  · exact fun k j => hw c.path.priv k j
  · exact fun k j => congrArg (fun o : Sparse 32 => o.get (8 * j + k)) ho

theorem cwait_exec (hc : s.ctx = some c) (hw : c.path.wait = .none) (he : ∀ e ∈ c.wave.copyErr, e.thread ∉ c.perf) (i : BitVec 11) :
    exec (.cwait i) s = .next
      (if c.launch.repro = true ∧ c.perf ≠ [] then s.startWait c (.cwait i.toNat)
       else if c.perf.all fun t => decide (c.wave.unfinished t ≤ i.toNat) then s.complete c c.perf
       else s.startWait c (.cwait i.toNat)) := by
  change execCwait i s = _
  simp only [execCwait, issue_of_ctx hc, hw, State.pollCwait, copyErrTrap_eq_none he, unless_none]
  rfl

/-! ### `qfence` (R262) -/

theorem qfence_exec (hc : s.ctx = some c) {m : BitVec 8} (he : ∀ e ∈ c.wave.copyErr, e.thread ∉ ixs c.path.active)
    (hh : c.wave.hErr = none) (hg : c.wave.gErr = none) :
    exec (.qfence m) s = .next (if c.fencesCommit m || c.busy s.tick m then
      s.modWave c.ref.group c.ref.wix (Wave.stall (c.fencesCommit m || c.waitsForCommit s.tick m) c.ref.slot
        fun p => { p with wait := .qfence (c.issuedAt s.tick) })
      else s.complete c c.perf) := by
  have hnone : ((if m.getLsbD 1 then c.copyErrTrap (ixs c.path.active) else none)
      <|> (if m.getLsbD 6 then engErrTrap 6 c.wave.hErr else none)
      <|> if m.getLsbD 7 then engErrTrap 7 c.wave.gErr else none) = none := by
    simp [copyErrTrap_eq_none he, hh, hg, engErrTrap]
  change execQfence m s = _
  simp only [execQfence, issue_of_ctx hc, hnone, unless_none]
  rfl

/-- A fence of empty queues, outside reproducible launches. -/
theorem idle_of_empty {m : BitVec 8} {tick : Nat} (h0 : m.getLsbD 0 = true → c.wave.mq = []) (h1 : m.getLsbD 1 = true → c.wave.cq = [])
    (h6 : m.getLsbD 6 = true → c.wave.hq = []) (h7 : m.getLsbD 7 = true → c.wave.gq = [])
    (hpops : ∀ k < 4, m.getLsbD (2 + k) = true → c.wave.popsBefore k tick = false) (hw : c.path.wait = .none)
    (hr : c.launch.repro = false) : c.busy tick m = false ∧ c.fencesCommit m = false := by
  have hissued : c.issuedAt tick = tick := by rw [Ctx.issuedAt, hw]
  have hq (k : Nat) {α : Type} {xs : List α} (p : α → Bool) (h : m.getLsbD k = true → xs = []) : (m.getLsbD k && xs.any p) = false := by
    cases hk : m.getLsbD k
    · rfl
    · rw [h hk]
      rfl
  have hnopops : ((List.range 4).any fun k => m.getLsbD (2 + k) && c.wave.popsBefore k (c.issuedAt tick)) = false := by
    rw [hissued, List.any_eq_false]
    intro k hk
    cases hm : m.getLsbD (2 + k)
    · simp
    · simp [hpops k (List.mem_range.1 hk) hm]
  refine ⟨?_, by simp [Ctx.fencesCommit, hr]⟩
  simp only [Ctx.busy, Ctx.busyAtCommit, hq 0 _ h0, hq 1 _ h1, hq 6 _ h6, hq 7 _ h7, hnopops, Bool.or_self]

end

/-- Settles O43: each word completes, or its path begins to wait and its quantum may end. -/
theorem queueWaits : Obligations.QueueWaits := by
  unfold Obligations.QueueWaits
  refine ⟨?opens, ?full, ?ends, ?cwait, ?qfence⟩
  case opens =>
    intro s c hc hroom
    have hany : ¬(c.perf.any fun t => decide (63 ≤ c.wave.unfinished t)) = true := by simpa using hroom
    obtain ⟨c', hleaves⟩ := sealBatches_complete hc rfl
    exact ⟨_, c', (cseal_exec hc).trans (by rw [if_neg hany]), hleaves⟩
  case full =>
    intro s c hc hfull
    have hany : (c.perf.any fun t => decide (63 ≤ c.wave.unfinished t)) = true := by simpa using hfull
    obtain ⟨c', honly, hctx, hpath, hq, hv, hp⟩ := stall_leaves hc
      (c.launch.repro && c.perf.any fun t => decide (63 ≤ ({ c.wave with cq := c.wave.copiesBound } : Wave).unfinished t))
      (fun p => { p with wait := .cseal, since := if c.path.wait = Wait.cseal then p.since else s.ns.toNat }) rfl
    refine ⟨_, c', (cseal_exec hc).trans (by rw [if_pos hany]), honly, hctx, hpath, ?_, hv, hp⟩
    rw [hq]
    simp
  case ends =>
    intro s c i hc hw he hr hne
    rw [cwait_exec hc hw he, if_pos ⟨hr, hne⟩]
  case cwait =>
    intro s c i hc hw hr he
    have hfree : ¬(c.launch.repro = true ∧ c.perf ≠ []) := fun ⟨h, hne⟩ => by simp [h, hne] at hr
    refine ⟨fun hall => ⟨_, ?_, passed_of_complete hc _ c.perf_nodup⟩, fun hmore => ?_⟩
    · rw [cwait_exec hc hw he, if_neg hfree, if_pos (by simpa using hall)]
    · rw [cwait_exec hc hw he, if_neg hfree, if_neg (by simpa using hmore)]
  case qfence =>
    intro s c m hc he hh hg
    have hexec := qfence_exec hc (m := m) he hh hg
    have hpass (hb : c.busy s.tick m = false) (hf : c.fencesCommit m = false) :
        ∃ t, exec (.qfence m) s = .next t ∧ Passed c s c.perf t :=
      ⟨_, hexec.trans (by simp [hb, hf]), passed_of_complete hc _ c.perf_nodup⟩
    refine ⟨fun h0 h1 h6 h7 hpops hw hr => ?_, hpass, fun hwait => ?_⟩
    · obtain ⟨hb, hf⟩ := idle_of_empty h0 h1 h6 h7 hpops hw hr
      exact hpass hb hf
    · obtain ⟨c', honly, hctx, hpath, hq, hv, hp⟩ := stall_leaves hc (c.fencesCommit m || c.waitsForCommit s.tick m)
        (fun p => { p with wait := .qfence (c.issuedAt s.tick) }) rfl
      have hcond : (c.fencesCommit m || c.busy s.tick m) = true := by
        rw [Bool.or_eq_true]
        exact hwait.symm
      exact ⟨_, c', hexec.trans (by rw [if_pos hcond]), honly, hctx, hpath, fun hf => by simp [hq, hf], hv, hp⟩

end Sys2Proof.Machine
end

section
/-! SUPPORT. Stream words (O44). -/

namespace Sys2Proof.Machine

theorem OnlyWave.trans {r : PathRef} {s t u : State} (h : OnlyWave r s t) (h' : OnlyWave r t u) : OnlyWave r s u where
  rest := by
    have := congrArg (fun x : State => { x with groups := s.groups }) h'.rest
    exact (this :).trans h.rest
  shells := h'.shells.trans h.shells
  waves g x hne := (h'.waves g x hne).trans (h.waves g x hne)

/-! ### Results in a register and a predicate (R260) -/

section

variable {s : State} {c : Ctx}

/-- What `popResult` makes of the wave before the word is completed. -/
def Ctx.popOn (c : Ctx) (d : VDst) (p : Fin 8) (f : Nat → Word) (b : Bool) (w : Wave) : Wave :=
  (((w.putPs p (c.perf.map fun t => (t, b))).putAll c.path.priv d (c.perf.map fun t => (t, f t))).modPath c.ref.slot fun q =>
    q.pushAll (c.perf.map fun t => (t, (f t).setWidth 64))).mendLatches c.perf

theorem Ctx.popOn_wix (c : Ctx) (d : VDst) (p : Fin 8) (f : Nat → Word) (b : Bool) (w : Wave) : (c.popOn d p f b w).wix = w.wix := by
  obtain ⟨a, ha⟩ := w.putPs_eq p (c.perf.map fun t => (t, b))
  obtain ⟨rw', ro, k, e, hv, -⟩ := ({ w with p := a } : Wave).putAll_with c.path.priv d (c.perf.map fun t => (t, f t))
  change ((((w.putPs _ _).putAll _ _ _).modPath _ _).wix) = _
  rw [Wave.modPath_wix, ha, hv]
  rfl

theorem popResult_eq (s : State) (c : Ctx) (d : VDst) (p : Fin 8) (f : Nat → Word) (b : Bool) :
    s.popResult c d p f b = (s.modWave c.ref.group c.ref.wix (c.popOn d p f b)).complete c c.perf := by
  have hfst : (c.perf.map fun t => (t, f t)).map Prod.fst = c.perf := by simp [Function.comp_def]
  have hpush : (c.perf.map fun t => (t, f t)).map (fun x => (x.1, x.2.setWidth 64)) = c.perf.map fun t => (t, (f t).setWidth 64) := by
    simp [Function.comp_def]
  simp only [State.popResult, State.vecResult, hfst, hpush]
  rw [State.modWave_modWave _ _ _ (fun w => w.putPs p (c.perf.map fun t => (t, b))) _ fun w => (Prod.mk.inj (w.putPs_keeps p _)).1]
  rfl

/-- What a word leaves that gives each performing thread a result, and all of them one predicate. -/
theorem popResult_leaves (hc : s.ctx = some c) (d : VDst) (p : Fin 8) (f : Nat → Word) (b : Bool) :
    ∃ c', Completed c s c.perf (s.popResult c d p f b) c' ∧ WroteV c c' d c.perf f ∧ WroteP c c' p c.perf fun _ => b := by
  have hn := c.perf_nodup
  have hslot := (State.ctxAt_eq (State.ctx_eq hc).2).2.2.2.1
  obtain ⟨a, ha⟩ := c.wave.putPs_eq p (c.perf.map fun t => (t, b))
  obtain ⟨rw', ro, k, e, hv, he⟩ := ({ c.wave with p := a } : Wave).putAll_with c.path.priv d (c.perf.map fun t => (t, f t))
  obtain ⟨la, fi, hq⟩ := c.path.pushAll_with (c.perf.map fun t => (t, (f t).setWidth 64))
  have hpop : c.popOn d p f b c.wave = ({ c.wave with
      w := rw', o := ro, p := a, bankW := k, bankS := c.wave.bankS
      bad := (({ c.wave with bad := e }).mendLatches c.perf).bad }).setPath c.ref.slot
        (some (c.path.pushAll (c.perf.map fun t => (t, (f t).setWidth 64)))) := by
    have hslot' : (({ c.wave with p := a } : Wave).withV rw' ro k e).path? c.ref.slot = some c.path := by
      rw [← hslot]
      cases c.ref.slot <;> rfl
    simp only [Ctx.popOn, ha, hv, Wave.modPath, hslot', Option.map_some]
    cases c.ref.slot <;> rfl
  have hdone := completed_of hc c.perf hn (c.popOn d p f b) (c.popOn_wix d p f b) rw' ro a k c.wave.bankS _ _ hpop
    (fun u hu => (badBefore_mendLatches _ _ u hu).mono he) (by rw [hq]) (by rw [hq]; exact fun _ h => h)
  obtain ⟨hw, ho, hp, -⟩ := c.stepOn_reads c.perf (c.popOn d p f b c.wave)
  rw [popResult_eq]
  refine ⟨_, hdone, ⟨fun i j => ?_, fun i j => ?_⟩, fun i j hj => ?_⟩
  · rw [Ctx.wreg_eq]
    change (c.stepOn c.perf (c.popOn d p f b c.wave)).readW (c.path.pushAll _).priv i j = _
    rw [hw, hpop, Wave.setPath_readW, hq]
    have hread : (({ c.wave with p := a } : Wave).withV rw' ro k e).readW c.path.priv i j
        = if d = .w i ∧ j ∈ c.perf ∧ (c.path.priv = false ∨ i.val < 16) then f j else c.wreg i j := by
      rw [← hv]
      exact Wave.readW_putAll _ c.path.priv d c.perf hn f i j
    exact hread
  · change (c.stepOn c.perf (c.popOn d p f b c.wave)).o.get (8 * j + i) = _
    have horeg : (({ c.wave with p := a } : Wave).withV rw' ro k e).o.get (8 * j + i)
        = if d = .o i ∧ j ∈ c.perf then f j else c.oreg i j := by
      rw [← hv]
      exact Wave.readO_putAll _ c.path.priv d c.perf hn f i j
    rw [ho, hpop, ← horeg]
    cases c.ref.slot <;> rfl
  · have hpreg : ({ c.wave with p := a } : Wave).preg i j = if i = p ∧ p ≠ 0 ∧ j ∈ c.perf then b else c.wave.preg i j := by
      rw [← ha]
      exact c.wave.preg_putPs p c.perf hn (fun _ => b) i j hj
    have hpeq : (c.popOn d p f b c.wave).p = a := by
      rw [hpop]
      cases c.ref.slot <;> rfl
    rw [← hpreg]
    simp only [Wave.preg, hp, hpeq]

/-! ### Waits for pops (R233, R260) -/

theorem waitStream_leaves (hc : s.ctx = some c) (k : Nat) :
    ∃ c', OnlyWave c.ref s (s.waitStream c k) ∧ (s.waitStream c k).ctxAt c.ref = some c'
      ∧ c'.path = { c.path with wait := .stream k (c.issuedAt s.tick) } ∧ (c.popsAtCommit k = true → c'.wave.qended = true)
      ∧ SameV c c' ∧ SameP c c' := by
  obtain ⟨c', honly, hctx, hpath, hq, hv, hp⟩ := stall_leaves hc
    (c.popsAtCommit k || (c.launch.repro && (c.wave.stream k).global && !(c.wave.stream k).ended))
    (fun p => { p with wait := .stream k (c.issuedAt s.tick) }) rfl
  exact ⟨c', honly, hctx, hpath, fun h => by simp [hq, h], hv, hp⟩

/-! ### The words -/

theorem agreeTrap_eq_none {fs : List (Nat → DWord)} {ts : List Nat} (h : ∀ f ∈ fs, ∀ t ∈ ts, ∀ u ∈ ts, f t = f u) :
    agreeTrap fs ts = none := by
  cases ts with
  | nil => rfl
  | cons t ts =>
    have hnone : (ts.filter fun u => fs.any fun f => f u != f t) = [] := by
      refine List.filter_eq_nil_iff.2 fun u hu => ?_
      simpa using fun f hf => h f hf u (.tail _ hu) t (.head _)
    rw [agreeTrap, hnone]

theorem sset_exec {a b : VOp} {k : Fin 4} {t0 : Nat} {ts : List Nat} (hc : s.ctx = some c) (hperf : c.perf = t0 :: ts)
    (hr : c.Readable c.perf [⟨a, false⟩, ⟨b, false⟩]) (ha : c.Agree32 c.perf a) (hb : c.Agree32 c.perf b)
    (halign : (c.v32 t0 a).toNat % 64 = 0) (hok : s.SpOk c (false, (c.v32 t0 a).toNat, 64))
    (hgood : ∀ p, s.spPlace c.group true (c.v32 t0 a).toNat 64 = .ok p →
      s.spBad p 64 = false ∧ s.netFails c (c.v32 t0 a).toNat = false)
    (hdesc : sdBad (BitVec.ofNat 512 (leNat (s.spReadAt c t0 (c.v32 t0 a).toNat 64))) = false) (hh : s.NoneHeld c.ref)
    (hpops : c.wave.popsBefore k.val (c.issuedAt s.tick) = false) (hcommit : c.popsAtCommit k.val = false) :
    exec (.sset a b k) s = .next ((s.modWave c.ref.group c.ref.wix fun w => w.modStream k.val fun _ =>
      Stream.start_ (BitVec.ofNat 512 (leNat (s.spReadAt c t0 (c.v32 t0 a).toNat 64))) (c.v32 t0 b) c.path.priv t0 s.tick).complete c
        c.perf) := by
  have hmem : t0 ∈ c.perf := by simp [hperf]
  have hsame : ∀ t ∈ c.perf, (c.v32 t a).toNat = (c.v32 t0 a).toNat := fun t ht => by rw [ha t ht t0 hmem]
  have hagree : agreeTrap [fun t => (c.v32 t a).setWidth 64, fun t => (c.v32 t b).setWidth 64] c.perf = none :=
    agreeTrap_eq_none fun f hf t ht u hu => by
      obtain rfl | hf := List.mem_cons.1 hf
      · exact congrArg (BitVec.setWidth 64) (ha t ht u hu)
      · rw [List.mem_singleton.1 hf]
        exact congrArg (BitVec.setWidth 64) (hb t ht u hu)
  have haligned : alignTrap (fun t => (c.v32 t a).toNat) 64 c.perf = none :=
    alignTrap_eq_none fun t ht => by rw [hsame t ht, halign]
  have hranges : s.rangeTrap c (fun t => [(false, (c.v32 t a).toNat, 64)]) c.perf = none :=
    rangeTrap_eq_none fun t ht r hr => by
      rw [List.mem_singleton.1 hr, hsame t ht]
      exact hok
  have hecc : s.spEccTrap c (fun t => (c.v32 t a).toNat) 64 [t0] = none :=
    spEccTrap_eq_none fun t ht p hp => by
      obtain rfl := List.mem_singleton.1 ht
      exact hgood p hp
  have hdrain : s.drain c.ref.group c.ref.wix = s := release_of_noneHeld hh 4
  have hsrc := srcTrap_eq_none hr
  rw [hperf] at hsrc hagree haligned hranges
  change execSset a b k s = _
  simp only [execSset, issue_of_ctx hc, hperf, hdrain, hsrc, hagree, haligned, hranges, hecc, hdesc, hpops, hcommit]
  rfl

/-- Pops of the stream that issued before this one are not over, or only a commit serves them. -/
theorem spop_waits (hc : s.ctx = some c) (d : VDst) (k : Fin 4) (p : Fin 8) (hne : c.perf ≠ [])
    (hopen : (c.wave.stream k.val).opened = true)
    (hpops : (c.popsAtCommit k.val || c.wave.popsBefore k.val (c.issuedAt s.tick)) = true) :
    exec (.spop d k p) s = .next (s.waitStream c k.val) := by
  change execSpop d k p s = _
  rw [execSpop, issue_of_ctx hc, if_neg hne, hopen, hpops]
  rfl

/-- Nothing is there to pop: the end of the stream, or an entry to come. -/
theorem spop_empty (hc : s.ctx = some c) (d : VDst) (k : Fin 4) (p : Fin 8) (hne : c.perf ≠ [])
    (hopen : (c.wave.stream k.val).opened = true) (hpops : c.wave.popsBefore k.val (c.issuedAt s.tick) = false)
    (hcommit : c.popsAtCommit k.val = false) (hfifo : (c.wave.stream k.val).fifo = []) :
    exec (.spop d k p) s = .next (
      if (c.wave.stream k.val).ended then s.popResult c d p (fun _ => 0) false else s.waitStream c k.val) := by
  change execSpop d k p s = _
  rw [execSpop, issue_of_ctx hc, if_neg hne, hopen, hpops, hcommit, hfifo]
  rfl

theorem spop_chunk (hc : s.ctx = some c) (d : VDst) (k : Fin 4) (p : Fin 8) (hne : c.perf ≠ []) {e : Entry} {es : List Entry}
    (hopen : (c.wave.stream k.val).opened = true) (hpops : c.wave.popsBefore k.val (c.issuedAt s.tick) = false)
    (hcommit : c.popsAtCommit k.val = false) (hfifo : (c.wave.stream k.val).fifo = e :: es) (hmark : e.marker = none) :
    exec (.spop d k p) s = .next
      ((s.modWave c.ref.group c.ref.wix fun w => w.modStream k.val Stream.pop).popResult c d p e.word true) := by
  change execSpop d k p s = _
  rw [execSpop, issue_of_ctx hc, if_neg hne, hopen, hpops, hcommit, hfifo]
  simp only [hmark]
  rfl

theorem sclose_exec (hc : s.ctx = some c) (k : Fin 4) :
    exec (.sclose k) s = .next (
      if (c.popsAtCommit k.val || c.wave.popsBefore k.val (c.issuedAt s.tick)) = true then s.waitStream c k.val
      else (s.modWave c.ref.group c.ref.wix fun w => w.modStream k.val fun _ => Stream.closed).complete c c.perf) :=
  issue_of_ctx hc _

/-- The wave whose stream `k` has given a chunk. -/
theorem popped_leaves (hc : s.ctx = some c) (d : VDst) (k : Fin 4) (p : Fin 8) (f : Nat → Word) {t : State}
    (ht : t = (s.modWave c.ref.group c.ref.wix fun w => w.modStream k.val Stream.pop).popResult c d p f true) :
    ∃ c', OnlyWave c.ref s t ∧ t.ctxAt c.ref = some c' ∧ c'.path.pc = c.path.pc + 4 ∧ WroteV c c' d c.perf f
      ∧ WroteP c c' p c.perf (fun _ => true)
      ∧ (c.wave.streams.length = 4 → c'.wave.stream k.val = (c.wave.stream k.val).pop) := by
  obtain ⟨hcur, hctx⟩ := State.ctx_eq hc
  have hpopped := State.ctxAt_modWave hctx (fun w => w.modStream k.val Stream.pop) (q := c.path) (fun _ => rfl)
    (State.ctxAt_eq hctx).2.2.2.1
  obtain ⟨c1, hc1⟩ : ∃ c1 : Ctx, c1 = ⟨c.ref, c.group.modWave c.ref.wix fun w => w.modStream k.val Stream.pop,
    c.wave.modStream k.val Stream.pop, c.path, c.launch⟩ := ⟨_, rfl⟩
  have hctx1 : (s.modWave c.ref.group c.ref.wix fun w => w.modStream k.val Stream.pop).ctx = some c1 := by
    rw [State.ctx, State.modWave_cur, hcur, hc1]
    exact hpopped
  obtain ⟨c', hdone, hv, hp⟩ := popResult_leaves hctx1 d p f true
  subst hc1
  refine ⟨c', ?_, ?_, ?_, hv, hp, fun hlen => ?_⟩
  · rw [ht]
    exact (onlyWave_modWave s c.ref (fun w => w.modStream k.val Stream.pop) fun _ => rfl).trans hdone.only
  · rw [ht]
    exact hdone.ctx
  · exact (congrArg Path.pc hdone.path :)
  · have hstreams : c'.wave.streams = modAt Stream.pop k.val c.wave.streams := (congrArg Wave.streams hdone.wave :)
    rw [Wave.stream, hstreams, modAt_getD, if_pos ⟨rfl, by rw [hlen]; exact k.isLt⟩]
    rfl

theorem Stream.pop_fifo {x : Stream} {e : Entry} {es : List Entry} (h : x.fifo = e :: es) :
    x.pop.fifo = if e.bytes.length ≤ 128 * (e.popped + 1) then es else { e with popped := e.popped + 1 } :: es := by
  rw [Stream.pop, h]
  simp only
  split <;> rfl

theorem Stream.select_eq (x : Stream) (sel : Word) :
    x.select sel = match sel.toNat with
      | 0 => x.status
      | 1 => x.badrow
      | 2 => x.deliv
      | _ => x.popd := by
  have hiff (n : Nat) (hn : n < 2 ^ 32) : sel = BitVec.ofNat 32 n ↔ sel.toNat = n := by
    rw [BitVec.toNat_eq, BitVec.toNat_ofNat, Nat.mod_eq_of_lt hn]
  have h0 : sel = 0 ↔ sel.toNat = 0 := hiff 0 (by omega)
  have h1 : sel = 1 ↔ sel.toNat = 1 := hiff 1 (by omega)
  have h2 : sel = 2 ↔ sel.toNat = 2 := hiff 2 (by omega)
  simp only [Stream.select, h0, h1, h2]
  match sel.toNat with
  | 0 | 1 | 2 => rfl
  | _ + 3 => rfl

theorem sstat_exec {d : VDst} {k : Fin 4} {b : VOp} (hc : s.ctx = some c) (hr : c.Readable c.perf [⟨b, false⟩])
    (hb : ∀ t ∈ c.perf, (c.v32 t b).toNat ≤ 3) :
    exec (.sstat d k b) s = .next (s.vecResult c d (c.perf.map fun t =>
      (t, (if (c.wave.stream k.val).opened then c.wave.stream k.val else Stream.closed).select (c.v32 t b)))) := by
  have hsel := failWith_eq_none (ts := c.perf) (f := fun t => if 3 < (c.v32 t b).toNat then some (c.v32 t b).toNat else none)
    (fun t ht => if_neg (Nat.not_lt.2 (hb t ht))) .stream 4
  change execSstat d k b s = _
  simp only [execSstat, issue_of_ctx hc, srcTrap_eq_none hr, hsel]
  rfl

end

/-- Settles O44: the checks of each word find nothing, and it completes or waits for the pops of its stream. -/
theorem streamWords : Obligations.StreamWords := by
  unfold Obligations.StreamWords
  refine ⟨?sset, ?chunk, ?empty, ?waits, ?sstat, ?sclose⟩
  case sset =>
    intro s c a b k t0 ts hc hperf hr ha hb ea v halign hok hgood hdesc hh hpops hcommit
    exact sset_exec hc hperf hr ha hb halign hok hgood hdesc hh hpops hcommit
  case chunk =>
    intro s c d k p e es hc hne hopen hpops hcommit hfifo hmark
    obtain ⟨c', honly, hctx, hpc, hv, hp, hpop⟩ := popped_leaves hc d k p e.word rfl
    refine ⟨_, c', spop_chunk hc d k p hne hopen hpops hcommit hfifo hmark, honly, hctx, hpc, hv, hp, fun hlen => ?_⟩
    rw [hpop hlen, Stream.pop_fifo hfifo]
  case empty =>
    intro s c d k p hc hne hopen hpops hcommit hfifo
    have hexec := spop_empty hc d k p hne hopen hpops hcommit hfifo
    refine ⟨fun hend => ?_, fun hgoes => ?_⟩
    · obtain ⟨c', hdone, hv, hp⟩ := popResult_leaves hc d p (fun _ => 0) false
      exact ⟨_, c', hexec.trans (by rw [if_pos hend]), hdone, hv, hp⟩
    · obtain ⟨c', honly, hctx, hpath, -, hv, hp⟩ := waitStream_leaves hc k.val
      exact ⟨_, c', hexec.trans (by rw [if_neg (Bool.eq_false_iff.1 hgoes)]), honly, hctx, hpath, hv, hp⟩
  case waits =>
    intro s c k i hc hi hwait
    have hcond : (c.popsAtCommit k.val || c.wave.popsBefore k.val (c.issuedAt s.tick)) = true := by
      rw [Bool.or_eq_true]
      exact hwait.symm
    obtain ⟨c', hleaves⟩ := waitStream_leaves hc k.val
    refine ⟨_, c', ?_, hleaves⟩
    obtain ⟨d, p, rfl, hne, hopen⟩ | rfl := hi
    · exact spop_waits hc d k p hne hopen hcond
    · rw [sclose_exec hc, if_pos hcond]
  case sstat =>
    intro s c d k b hc hr hb x
    refine ⟨_, sstat_exec hc hr hb, ?_⟩
    have hvec := vec32_of_result hc d fun t => x.select (c.v32 t b)
    simp only [Stream.select_eq] at hvec ⊢
    exact hvec
  case sclose =>
    intro s c k hc hpops hcommit
    rw [sclose_exec hc]
    simp only [hpops, hcommit]
    rfl

end Sys2Proof.Machine
end

section
/-! SUPPORT. A commit performs a narrow atomic with its operands as they stand (O58). -/

namespace Sys2Proof.Machine

/-- A `cas` of 32 bits on the loaded page, whose compare value is 2^32. No program makes such an entry, since a narrow atomic
extends its operands with zeros (R163), but the statement asks nothing of the buffer. -/
def wideCompare : CEntry := .atom ⟨.dev, 0x40000⟩ false .cas (2 ^ 32) 5 0

/-- The loaded program's launch as a reproducible one that has been stopped, its one wave at the end of its quantum with that
entry to commit. -/
def casState : State :=
  ((State.reset.bootWord 0).modLaunch 0 fun l => { l with lrec := l.lrec ||| 1 <<< 199, stopped := true }).modWave 1 0 fun w =>
    { w with qinstr := 4096, cbuf := [wideCompare] }

def casLaunch : Launch := (casState.launch? 0).get (by decide +kernel)

def casGroup : Group := (casState.group? 1).get (by decide +kernel)

def casWave : Wave := (casState.wave? 1 0).get (by decide +kernel)

theorem casState_launches : casState.launches = [casLaunch] := rfl

theorem casState_group : casState.group? casGroup.id = some casGroup := rfl

theorem casGroup_waves : casGroup.waves = [casWave] := rfl

theorem casState_groups : casState.groups.filter (fun x => x.launch == 0) = [casGroup] := rfl

theorem casWave_cbuf : casWave.cbuf = [wideCompare] := by decide +kernel

/-- What the clause asks of the launch, its group and its wave. -/
theorem casLaunch_commitDue : casLaunch.id = 0 ∧ casLaunch.repro = true ∧ casLaunch.stopped = true ∧ casState.belfry.halted = false
    ∧ casGroup.halted = false ∧ casGroup.ended = false ∧ casGroup.claims = [] ∧ casWave.ended = false
    ∧ casLaunch.quantum ≤ casWave.qinstr ∧ casWave.hq = [] ∧ (∀ x ∈ casWave.streams, x.opened = false) ∧ casWave.cq = [] := by
  decide +kernel

theorem casWave_waits : ∀ b q, casWave.path? b = some q → q.wait = .none := by
  have h : ∀ b, ∀ q ∈ casWave.path? b, q.wait = .none := by decide +kernel
  exact h

/-- The byte at `a` after a step. -/
def byteAfter (a : Nat) : Out → Option Byte
  | .next t => some (t.mem.read a)
  | _ => none

/-- The machine finds 0 where the operand of 64 bits is 2^32, and lets it stand. -/
theorem casState_commit : byteAfter 0x40000 (exec (.quantumCommit 0) casState) = some 0 := by decide +kernel

/-- By the statement the low halves are equal, and 5 is written. -/
theorem casState_commits : (casState.commits casWave.cbuf).mem.read 0x40000 = 5 := by decide +kernel

/-- Refutes O58, by its clause on commits: the statement compares the low 32 bits of a narrow `cas`, the machine the whole operand,
and they differ for a compare value of 2^32. -/
theorem not_marverEvents : ¬ Obligations.MarverEvents := by
  unfold Obligations.MarverEvents
  rintro ⟨-, -, -, -, -, -, -, -, -, -, -, hcommit⟩
  obtain ⟨hid, hrepro, hstopped, hbelfry, hhalted, hended, hclaims, hwave, hquantum, hhq, hstreams, hcq⟩ := casLaunch_commitDue
  obtain ⟨hbuffer, -⟩ := hcommit casState 0 casLaunch casGroup casWave casState_launches hid hrepro hstopped hbelfry casState_groups
    casState_group hhalted hended hclaims casGroup_waves hwave hquantum hhq hstreams casWave_waits
  obtain ⟨t, hexec, hmem, -⟩ := hbuffer hcq
  have hfive : t.mem.read 0x40000 = 5 := by
    rw [(Prod.mk.inj hmem).1]
    exact casState_commits
  have hzero : byteAfter 0x40000 (.next t) = some 0 := hexec ▸ casState_commit
  rw [byteAfter, hfive] at hzero
  exact absurd hzero (by decide)

end Sys2Proof.Machine
end

section
/-! SUPPORT. Copies, fabric operations, streams and the loss of a link (O50). -/

namespace Sys2Proof.Machine

/-! ### Stores of the wave before its operations, where none is held back (R227) -/

section

variable {s : State} {e : Eng}

theorem State.NoneHeld.modEng_filter (h : s.NoneHeld ⟨e.group.id, e.wave.wix, false⟩) (keep : Held → Bool) :
    (s.modEng e fun w => { w with held := w.held.filter keep }) = s :=
  State.modWave_eq_of fun y hy hid w hw hix =>
    congrArg (fun hs => { w with held := hs }) (show w.held.filter keep = w.held by rw [h.2 y hy hid w hw hix, List.filter_nil])

theorem State.NoneHeld.held_nil {r : PathRef} (h : s.NoneHeld r) {w : Wave} (hw : s.wave? r.group r.wix = some w) : w.held = [] := by
  obtain ⟨y, hy, hid, hmem, hix⟩ := State.wave?_mem_group hw
  exact h.2 y hy hid w hmem hix

theorem settleRegs_of_noneHeld (h : s.NoneHeld ⟨e.group.id, e.wave.wix, false⟩) : s.settleRegs e = s := by
  unfold State.settleRegs
  split
  · rfl
  · next w hw =>
    rw [h.held_nil hw]
    exact h.modEng_filter _

theorem storesFirst_of_noneHeld (h : s.NoneHeld ⟨e.group.id, e.wave.wix, false⟩) (x : Held) : s.storesFirst e x = s := by
  unfold State.storesFirst
  split
  · rfl
  · next w hw =>
    rw [h.held_nil hw, performNear_of_none h.1]
    exact h.modEng_filter _

end

/-! ### The head of a copy queue -/

section

variable {s u : State} {w : WaveRef} {e : Eng} {op : CopyOp} {r : List CopyOp} {bs : List Byte}

theorem CopyHead.noneHeld (h : CopyHead s w e op r) : s.NoneHeld ⟨e.group.id, e.wave.wix, false⟩ := by
  obtain rfl := State.eng_ref h.eng
  exact h.held

theorem CopyOp.sector_pos (h : op.done < op.n) : 0 < op.sector := by
  unfold CopyOp.sector
  omega

/-- A sector whose bytes have been read and can be written. -/
theorem copySector_of_read (h : s.NoneHeld ⟨e.group.id, e.wave.wix, false⟩) (hdone : op.done < op.n)
    (hread : s.copyRead e op op.sector 2 op.read = (bs, none)) (hlen : op.sector ≤ bs.length)
    (hdest : s.copyDest e op (bs.take op.sector) = .ok u) :
    s.copySector e op = (u.touchAll e.group.id (op.ranges op.sector)).copyMoved e { op with read := bs } op.sector := by
  have hne : bs ≠ [] := List.length_pos_iff.1 ((CopyOp.sector_pos hdone).trans_le hlen)
  have hstores : (s.copyPlaces e op (min 64 (op.n - op.done))).foldl (fun t x => t.storesFirst e x) (s.settleRegs e) = s := by
    rw [settleRegs_of_noneHeld h]
    exact List.foldl_fixed' (fun x => storesFirst_of_noneHeld h x) _
  rw [State.copySector, hstores, ← CopyOp.sector, hread]
  simp only [if_neg hne, hdest, min_eq_left hlen]

/-- The operation after a sector of which `bs` has been read. -/
def CopyOp.moved (op : CopyOp) (bs : List Byte) : CopyOp := { op with done := op.done + op.sector, read := bs.drop op.sector }

/-- The state after the last sector of an operation: the arrival applied, or lost. -/
def State.copyEnds (v : State) (e : Eng) (op : CopyOp) (bs : List Byte) : State :=
  if v.arrivalLost e op then (v.settleRegs e).abandon e (op.moved bs) 0x11 else ((v.settleRegs e).copyArrive e op).popHead e

theorem copyMoved_last (hlast : op.n ≤ op.done + op.sector) (v : State) (bs : List Byte) :
    v.copyMoved e { op with read := bs } op.sector = (v.copyEnds e op bs, none) := by
  have hlost : v.arrivalLost e { op with read := bs } = v.arrivalLost e op := rfl
  rw [State.copyMoved, if_neg (Nat.not_lt.2 hlast), hlost, State.copyEnds]
  split <;> rfl

theorem copyMoved_more (hmore : op.done + op.sector < op.n) (v : State) (bs : List Byte) :
    v.copyMoved e { op with read := bs } op.sector = (v.modHead e fun _ => op.moved bs, some (op.moved bs)) := by
  rw [State.copyMoved, if_pos hmore]
  rfl

/-- `k + 1` sectors of an operation whose next sector is its last. -/
theorem copySectors_of_last (h : s.NoneHeld ⟨e.group.id, e.wave.wix, false⟩) (hdone : op.done < op.n)
    (hread : s.copyRead e op op.sector 2 op.read = (bs, none)) (hlen : op.sector ≤ bs.length)
    (hdest : s.copyDest e op (bs.take op.sector) = .ok u) (hlast : op.n ≤ op.done + op.sector) (k : Nat) :
    s.copySectors e (k + 1) op = (u.touchAll e.group.id (op.ranges op.sector)).copyEnds e op bs := by
  rw [State.copySectors, copySector_of_read h hdone hread hlen hdest, copyMoved_last hlast]

/-- One sector of an operation of which more are to follow. -/
theorem copySectors_one_of_more (h : s.NoneHeld ⟨e.group.id, e.wave.wix, false⟩) (hdone : op.done < op.n)
    (hread : s.copyRead e op op.sector 2 op.read = (bs, none)) (hlen : op.sector ≤ bs.length)
    (hdest : s.copyDest e op (bs.take op.sector) = .ok u) (hmore : op.done + op.sector < op.n) :
    s.copySectors e 1 op = (u.touchAll e.group.id (op.ranges op.sector)).modHead e fun _ => op.moved bs := by
  rw [State.copySectors, copySector_of_read h hdone hread hlen hdest, copyMoved_more hmore]
  rfl

theorem CopyHead.resume (h : CopyHead s w e op r) (k : State) : s.copyResume e op k = k := by
  rw [State.copyResume, h.fault]

theorem CopyHead.restarted (h : CopyHead s w e op r) : { op with fault := none } = op := by
  rw [← h.fault]

/-- A copy that need not wait for a commit moves one sector. -/
theorem copyPerform_exec (h : CopyHead s w e op r) (hlocal : op.kind.link = none) (hdue : op.kind.global = false ∨ e.due = true) :
    exec (.copyPerform w 1) s = .next (s.copySectors e 1 op) := by
  have hnow : ¬(op.kind.link.isSome || (op.kind.global && !e.due)) = true := by
    obtain hdue | hdue := hdue <;> simp [hlocal, hdue]
  change onWave s w (fun e => s.performCopy e 1) = _
  simp only [onWave, h.eng, State.performCopy, h.queue]
  rw [if_neg hnow, State.copyNow, h.resume, h.restarted]

theorem copyPerform_moves (h : CopyHead s w e op r) (hlocal : op.kind.link = none) (hdue : op.kind.global = false ∨ e.due = true)
    (hdone : op.done < op.n) (hread : s.copyRead e op op.sector 2 op.read = (bs, none)) (hlen : op.sector ≤ bs.length)
    (hdest : s.copyDest e op (bs.take op.sector) = .ok u) :
    exec (.copyPerform w 1) s = .next (if op.n ≤ op.done + op.sector then
        (u.touchAll e.group.id (op.ranges op.sector)).copyEnds e op bs
      else (u.touchAll e.group.id (op.ranges op.sector)).modHead e fun _ => op.moved bs) := by
  rw [copyPerform_exec h hlocal hdue]
  split
  · next hlast => rw [copySectors_of_last h.noneHeld hdone hread hlen hdest hlast]
  · next hmore => rw [copySectors_one_of_more h.noneHeld hdone hread hlen hdest (Nat.not_le.1 hmore)]

/-! ### Operations given up (R253) -/

theorem modAt_eq_self {α : Type} {f : α → α} {n : Nat} {xs : List α} {d : α} (h : f (xs.getD n d) = xs.getD n d) :
    modAt f n xs = xs := by
  induction xs generalizing n with
  | nil => cases n <;> rfl
  | cons x xs ih =>
    cases n with
    | zero => exact congrArg (· :: xs) h
    | succ n => exact congrArg (x :: ·) (ih h)

theorem noteLost_of_noDump {g : Group} (h : s.NoDump g) (item : List Nat) : s.noteLost g item = s := by
  have hdumps : ((s.die g.die).dumps.map fun d =>
      if d.group == g.id && d.halt.isSome then { d with lost := d.lost ++ [item], second := true } else d) = (s.die g.die).dumps := by
    refine (List.map_congr_left fun d hd => if_neg ?_).trans (List.map_id' _)
    by_cases hid : d.group = g.id
    · simp [h d hd hid]
    · simp [hid]
  have hdie := congrArg (fun ds => { s.die g.die with dumps := ds }) hdumps
  rw [State.noteLost, State.modDie, modAt_eq_self (d := Die.reset) hdie]

/-- The operation leaves the queue, and its error stands with the wave. -/
theorem becameWave_abandon (h : CopyHead s w e op r) (hgone : e.wave.gone = false) (cause : Nat) :
    BecameWave w (e.wave.gaveUp r op cause) s (s.abandon e op cause) := by
  have hnote : (s.popHead e).noteLost e.group (e.lostCopy op) = s.popHead e := noteLost_of_noDump (s := s.popHead e) h.dump _
  have hb := State.becameWave_modEng h.eng (f := fun v =>
    { v with cq := v.cq.tail, copyErr := v.copyErr ++ [⟨op.thread, cause, op.d, op.a, op.done⟩] }) fun _ => rfl
  rw [h.queue] at hb
  simp only [State.abandon, hnote, hgone, if_neg Bool.false_ne_true]
  rw [State.popHead, State.modEng, State.modEng, State.modWave_modWave _ _ _ (fun v => { v with cq := v.cq.tail }) _ fun _ => rfl]
  exact hb

/-- The head of the queue is changed. -/
theorem becameWave_modHead (h : CopyHead s w e op r) (f : CopyOp → CopyOp) :
    BecameWave w { e.wave with cq := f op :: r } s (s.modHead e f) := by
  have hb := State.becameWave_modEng h.eng (f := fun v => { v with cq := modAt f 0 v.cq }) fun _ => rfl
  rw [h.queue] at hb
  exact hb

/-! ### A copy within scratchpad -/

theorem spRead_length (s : State) (p : SpPlace) (n : Nat) : (s.spRead p n).length = n := by
  unfold State.spRead
  split
  · split
    · exact (List.length_map ..).trans List.length_range
    · exact List.length_replicate
  · exact (List.length_map ..).trans List.length_range

theorem netDown_of_none (h : s.netBad = []) (g : Group) (ea : Nat) : s.netDown g ea = false := by
  rw [State.netDown, h]
  rfl

/-- Where source and destination lie alike in their sectors, one read of the source serves a sector. -/
theorem copyRead_within (hk : op.kind = .s2s) (hread : op.read = []) (hdone : op.done < op.n)
    (halike : (op.a.toNat + op.done) % 32 = (op.d.toNat + op.done) % 32) {p : SpPlace}
    (hsrc : s.engPlace e.group (op.a.toNat + op.done) op.sector = some p) (hgood : s.spBad p op.sector = false)
    (hnet : s.netBad = []) : s.copyRead e op op.sector 2 op.read = (s.spRead p op.sector, none) := by
  have hsector : min (op.n - op.done) (32 - (op.a.toNat + op.done) % 32) = op.sector := by rw [halike, CopyOp.sector]
  have hbad : s.engSpBad e.group (op.a.toNat + op.done) op.sector = false := by
    simp [State.engSpBad, hsrc, hgood, netDown_of_none hnet]
  have hsource : s.copySource e op op.done op.sector = .ok (s.spRead p op.sector) := by
    simp [State.copySource, hk, hbad, State.engSpRead, hsrc]
  have hempty : ¬op.sector ≤ ([] : List Byte).length := Nat.not_le.2 (CopyOp.sector_pos hdone)
  rw [hread, State.copyRead, if_neg hempty]
  simp only [List.length_nil, Nat.add_zero, hsector, hsource, List.nil_append]
  rw [State.copyRead, if_pos (spRead_length ..).ge]

theorem copyDest_within (hk : op.kind = .s2s) (hnet : s.netBad = []) {g o : Nat}
    (hdst : s.engPlace e.group (op.d.toNat + op.done) bs.length = some (.sp g o)) :
    s.copyDest e op bs = .ok (s.spWrite (.sp g o) bs) := by
  simp [State.copyDest, hk, State.copySp, hdst, netDown_of_none hnet]

/-- Bytes written in scratchpad, and then the wave changed. -/
theorem wave?_modEng_spWrite (h : s.eng w = some e) (g o : Nat) (bs : List Byte) {f : Wave → Wave} (hf : ∀ v, (f v).wix = v.wix) :
    ((s.spWrite (.sp g o) bs).modEng e f).wave? w.group w.wix = some (f e.wave)
      ∧ ∀ a x, (a, x) ≠ (w.group, w.wix) → ((s.spWrite (.sp g o) bs).modEng e f).wave? a x = s.wave? a x := by
  have hsp (a x : Nat) : (s.spWrite (.sp g o) bs).wave? a x = s.wave? a x :=
    State.wave?_modGroup (fun y => y.spWrite o bs) (fun _ => rfl) (fun _ => rfl) ..
  obtain rfl := State.eng_ref h
  refine ⟨?_, fun a x hne => ((onlyWave_modWave _ ⟨e.group.id, e.wave.wix, false⟩ f hf).waves a x hne).trans (hsp a x)⟩
  have hv : s.wave? e.group.id e.wave.wix = some e.wave := State.wave?_of_eng h
  simp [State.modEng, Eng.ref, State.wave?_modWave _ _ _ _ _ _ hf, hsp, hv]

/-- The wave after a sector of its head operation has been moved, of whose source no byte is read ahead. -/
def Wave.sectorMoved (op : CopyOp) (v : Wave) : Wave :=
  { v with cq := if op.n ≤ op.done + op.sector then v.cq.tail
      else modAt (fun _ => { op with done := op.done + op.sector }) 0 v.cq }

theorem copyPerform_within (h : CopyHead s w e op r) (hk : op.kind = .s2s) (hsync : op.sync = none) (hread : op.read = [])
    (hdone : op.done < op.n) (halike : (op.a.toNat + op.done) % 32 = (op.d.toNat + op.done) % 32) {ga oa gd od : Nat}
    (hsrc : s.engPlace e.group (op.a.toNat + op.done) op.sector = some (.sp ga oa))
    (hdst : s.engPlace e.group (op.d.toNat + op.done) op.sector = some (.sp gd od))
    (hgood : s.spBad (.sp ga oa) op.sector = false) (hnet : s.netBad = []) :
    exec (.copyPerform w 1) s
      = .next ((s.spWrite (.sp gd od) (s.spRead (.sp ga oa) op.sector)).modEng e (Wave.sectorMoved op)) := by
  have hlen := spRead_length s (.sp ga oa) op.sector
  have hmoved : op.moved (s.spRead (.sp ga oa) op.sector) = { op with done := op.done + op.sector } := by
    rw [CopyOp.moved, List.drop_of_length_le hlen.le, ← hread]
  have hdest : s.copyDest e op ((s.spRead (.sp ga oa) op.sector).take op.sector)
      = .ok (s.spWrite (.sp gd od) (s.spRead (.sp ga oa) op.sector)) := by
    rw [List.take_of_length_le hlen.le]
    exact copyDest_within hk hnet (hlen.symm ▸ hdst)
  have hranges : op.ranges op.sector = [] := by rw [CopyOp.ranges, hk]
  have hlost (v : State) : v.arrivalLost e op = false := by rw [State.arrivalLost, hsync]; rfl
  have harrive (v : State) : v.copyArrive e op = v := by rw [State.copyArrive, hsync]
  have hheld : (s.spWrite (.sp gd od) (s.spRead (.sp ga oa) op.sector)).NoneHeld ⟨e.group.id, e.wave.wix, false⟩ :=
    noneHeld_of_layout (layout_spWrite ..) h.noneHeld
  rw [copyPerform_moves h (by rw [hk]; rfl) (.inl (by rw [hk]; rfl)) hdone
    (copyRead_within hk hread hdone halike hsrc hgood hnet) hlen.ge hdest, hranges]
  simp only [State.touchAll, State.copyEnds, hlost, harrive, settleRegs_of_noneHeld hheld, hmoved]
  unfold Wave.sectorMoved
  split <;> rfl

/-! ### Answers of a peer (R397) -/

theorem fabricOpPerform_exec (h : CopyHead s w e op r) {l : Nat} (hlink : op.kind.link = some l) (hdue : e.due = true)
    (ans : PeerAnswer) : exec (.fabricOpPerform w ans) s = .next (s.fabricNow e ans op l) := by
  change onWave s w (fun e => s.performFabric e ans) = _
  simp only [onWave, h.eng, State.performFabric, h.queue, hlink, hdue, if_true]

/-- A link that is down, or goes down, ends an operation on it. -/
theorem fabricNow_down {ans : PeerAnswer} {l : Nat} (h : s.io.spireDown.contains l = true ∨ ans = .linkDown) :
    s.fabricNow e ans op l = s.abandon e op 0x0F := by
  obtain h | rfl := h
  · exact if_pos h
  · exact ite_self _

theorem fabricNow_up {l : Nat} (h : s.io.spireDown.contains l = false) :
    s.fabricNow e .accepted op l = s.fabricMove e op ∧ s.fabricNow e .denied op l = s.abandon e op 0x07 :=
  ⟨if_neg (Bool.eq_false_iff.1 h), if_neg (Bool.eq_false_iff.1 h)⟩

/-- A `send` that is refused is tried again. -/
theorem fabricNow_refused_send {l : Nat} (h : s.io.spireDown.contains l = false) {a : Nat} {b : Word} {c : Bool}
    (hk : op.kind = .send a b c) :
    s.fabricNow e .refused op l = s.modHead e fun o => { o with since := some (o.since.getD s.ns.toNat) } :=
  (if_neg (Bool.eq_false_iff.1 h)).trans (by rw [hk])

/-- Any other operation that is refused is given up. -/
theorem fabricNow_refused {l : Nat} (h : s.io.spireDown.contains l = false) (hk : ∀ a b c, op.kind ≠ .send a b c) :
    s.fabricNow e .refused op l = s.abandon e op 0x07 := by
  simp only [State.fabricNow, if_neg (Bool.eq_false_iff.1 h)]

theorem sendRetryTimeout_exec (h : CopyHead s w e op r) {k : Nat} (hsince : op.since = some k) :
    exec (.sendRetryTimeout w) s = .next (if 1000 * s.io.sretry.toNat ≤ s.ns.toNat - k then s.abandon e op 0x0F else s) := by
  change onWave s w s.sendTimeout = _
  simp only [onWave, h.eng, State.sendTimeout, h.queue, hsince]

end

/-! ### Rows of a stream (R258) -/

section

variable {s : State} {w : WaveRef} {e : Eng} {x y : Stream} {k : Fin 4}

theorem Wave.stream_of_getElem? {v : Wave} {k : Nat} (h : v.streams[k]? = some x) : v.stream k = x := by
  simp [Wave.stream, h]

theorem streamItemDeliver_exec (he : s.eng w = some e) (hx : e.wave.streams[k.val]? = some x) (hopen : x.opened = true)
    (hend : x.ended = false) (hfault : x.fault = none) (hdue : e.launch.repro = false ∨ x.global = false) :
    exec (.streamItemDeliver w k) s = .next (s.streamRun e k.val (sdCount x.desc - x.row + 2) x) := by
  have hnow : ¬(e.launch.repro && x.global) = true := by obtain h | h := hdue <;> simp [h]
  have hagain : ({ x with fault := none } : Stream) = x := by rw [← hfault]
  change onWave s w (fun e => if e.launch.repro && (e.wave.stream k.val).global then s else s.streamDeliver e k.val) = _
  simp only [onWave, he, State.streamDeliver, Wave.stream_of_getElem? hx, if_neg hnow, hagain]
  rw [if_neg (by simp [hopen, hend]), hfault]

/-- A step of the production that ends the stream or delivers an entry is the last of a run. -/
theorem streamRun_of_step (h : s.streamStep e x = .ok y) (hy : y.ended = true ∨ y.fifo.length ≠ x.fifo.length) (j n : Nat) :
    s.streamRun e j (n + 1) x = (s.touchAll e.group.id (s.streamRanges e x)).modEng e fun v => v.modStream j fun _ => y := by
  have hlast : (y.ended || y.fifo.length != x.fifo.length) = true := by simpa using hy
  simp only [State.streamRun, h, if_pos hlast]

theorem streamStep_end (hrow : x.inRow = none) (hcount : sdCount x.desc ≤ x.row) :
    s.streamStep e x = .ok { x with ended := true } := by
  simp only [State.streamStep, hrow, if_pos hcount]

/-- The stream after the row at its next index: an entry of `bs`, and whether a unit was bad so far. -/
def Stream.rowDelivered (x : Stream) (bs : List Byte) (bad : Bool) : Stream :=
  { x with
    fifo := x.fifo ++ [⟨bs, [], 0, none⟩], deliv := x.deliv + 1, item := x.item + 1, row := x.row + 1, psn := bad
    ended := decide (sdCount x.desc ≤ x.row + 1) }

theorem streamItem_zeros (x : Stream) :
    s.streamItem e x (2 ^ 32 - 1) = .ok (x.deliver (List.replicate (sdRowb x.desc) 0)) := if_pos rfl

theorem streamItem_row {i : Nat} (hi : i ≠ 2 ^ 32 - 1) (hbelow : rowBeyond x i = false) {bs : List Byte} {b : Bool}
    (hread : s.streamRead e x (sdDspace x.desc) (sdBase x.desc + i * sdPitch x.desc) (sdRowb x.desc) = .ok (bs, b)) :
    s.streamItem e x i = .ok { x.deliver bs with psn := x.psn || b } := by
  rw [State.streamItem, if_neg hi, if_neg (Bool.eq_false_iff.1 hbelow), hread]
  rfl

theorem streamStep_row (hrow : x.inRow = none) (hcount : x.row < sdCount x.desc) (hmode : sdMode x.desc = 1) {i : Nat} {b : Bool}
    (hword : s.streamWord e x (sdIdx x.desc) (x.start.toNat + x.row) = .ok (i, b))
    (hitem : s.streamItem e { x with psn := x.psn || b } i = .ok y) : s.streamStep e x = .ok y.nextItem := by
  simp only [hrow] at hitem
  simp only [State.streamStep, hrow, if_neg (Nat.not_le.2 hcount), if_pos hmode, hword, Except.bind, hitem, Except.map]

theorem nextItem_deliver (hrow : x.inRow = none) (hend : x.ended = false) (b : Bool) (bs : List Byte) :
    ({ x.deliver bs with psn := b } : Stream).nextItem = x.rowDelivered bs b := by
  simp only [Stream.nextItem, Stream.deliver, hrow, Stream.nextRow, hend, Bool.false_or, Stream.rowDelivered]

/-- The next index names a row, or the row of zeros, which is delivered. -/
theorem streamStep_delivers (hrow : x.inRow = none) (hend : x.ended = false) (hcount : x.row < sdCount x.desc)
    (hmode : sdMode x.desc = 1) {i : Nat} {b b' : Bool} {bs : List Byte}
    (hword : s.streamWord e x (sdIdx x.desc) (x.start.toNat + x.row) = .ok (i, b))
    (hread : i ≠ 2 ^ 32 - 1 → rowBeyond x i = false
      ∧ s.streamRead e { x with psn := x.psn || b } (sdDspace x.desc) (sdBase x.desc + i * sdPitch x.desc) (sdRowb x.desc)
        = .ok (bs, b'))
    (hzeros : i = 2 ^ 32 - 1 → (bs, b') = (List.replicate (sdRowb x.desc) 0, false)) :
    s.streamStep e x = .ok (x.rowDelivered bs (x.psn || b || b')) := by
  have hitem : s.streamItem e { x with psn := x.psn || b } i
      = .ok { ({ x with psn := x.psn || b } : Stream).deliver bs with psn := x.psn || b || b' } := by
    by_cases hi : i = 2 ^ 32 - 1
    · obtain ⟨rfl, rfl⟩ := Prod.mk.inj (hzeros hi)
      rw [hi, streamItem_zeros, Bool.or_false]
      rfl
    · obtain ⟨hbelow, hbytes⟩ := hread hi
      exact streamItem_row (x := { x with psn := x.psn || b }) hi hbelow hbytes
  exact (streamStep_row hrow hcount hmode hword hitem).trans
    (congrArg Except.ok (nextItem_deliver (x := { x with psn := x.psn || b }) hrow hend _ _))

/-- Lines that engines touch are counted in the group. -/
theorem State.aside_touchAll (s : State) (r : PathRef) (l : Sparse 8 → Sparse 8) (f : Wave → Wave) (rs : List (Nat × Nat)) :
    ∃ l', (s.aside r l f).touchAll r.group rs = s.aside r l' f := by
  induction rs generalizing l with
  | nil => exact ⟨l, rfl⟩
  | cons x rs ih =>
    rw [State.touchAll]
    split
    · exact ih l
    · obtain ⟨l', hl'⟩ := s.aside_touch r l f x.1 x.2
      rw [hl']
      exact ih l'

/-- An engine accesses global memory, and then the wave is changed. -/
theorem accessedWave_modEng (he : s.eng w = some e) (rs : List (Nat × Nat)) {f : Wave → Wave} (hf : ∀ v, (f v).wix = v.wix) :
    AccessedWave w (f e.wave) s ((s.touchAll e.group.id rs).modEng e f) := by
  obtain ⟨l, hl⟩ := s.aside_touchAll ⟨e.group.id, e.wave.wix, false⟩ id (fun v => v) rs
  rw [State.aside_id, State.modWave_id] at hl
  have haside : (s.touchAll e.group.id rs).modEng e f = s.aside ⟨e.group.id, e.wave.wix, false⟩ l f :=
    (congrArg (fun u : State => u.modEng e f) hl).trans (s.aside_modWave _ l (f := fun v => v) (fun _ => rfl) f)
  obtain rfl := State.eng_ref he
  have honly := onlyAccess_aside (s := s) (r := ⟨e.group.id, e.wave.wix, false⟩) (l := l) hf
  have hv : s.wave? e.group.id e.wave.wix = some e.wave := State.wave?_of_eng he
  rw [haside]
  exact ⟨honly.rest, honly.groups, by simp [Eng.ref, State.wave?_aside _ _ _ hf, hv], honly.waves⟩

theorem Wave.modStream_of_getElem? {v : Wave} {k : Nat} (h : v.streams[k]? = some x) (y : Stream) :
    v.modStream k (fun _ => y) = { v with streams := v.streams.set k y } := by
  rw [Wave.modStream, modAt_eq_set h]

end

/-! ### A link that goes down (R397) -/

section

variable {s : State} {link : Nat}

theorem dropLinkOps_of_none (h : ∀ g ∈ s.groups, ∀ v ∈ g.waves, ∀ o ∈ v.cq, o.kind.link ≠ some link) {w : WaveRef} {e : Eng}
    (he : s.eng w = some e) : s.dropLinkOps e link = s := by
  have hmiss : ∀ g ∈ s.groups, ∀ v ∈ g.waves, ∀ o ∈ v.cq, (o.kind.link == some link && e.due) = false :=
    fun g hg v hv o ho => by simp [h g hg v hv o ho]
  have hkeep : s.modEng e (fun v => { v with cq := v.cq.filter fun o => !(o.kind.link == some link && e.due) }) = s :=
    State.modWave_eq_self (fun g hg v hv => congrArg (fun os => { v with cq := os })
      (List.filter_eq_self.2 fun o ho => by simp [hmiss g hg v hv o ho])) ..
  obtain ⟨g, hg, hv⟩ := State.wave?_mem (State.wave?_of_eng he)
  have hgone : e.wave.cq.filter (fun o => o.kind.link == some link && e.due) = [] :=
    List.filter_eq_nil_iff.2 fun o ho => by simp [hmiss g hg e.wave hv o ho]
  simp only [State.dropLinkOps, hkeep, hgone, List.foldl_nil, List.map_nil, List.append_nil]
  split
  · rfl
  · exact State.modWave_id ..

theorem dropLink_of_none (h : ∀ g ∈ s.groups, ∀ v ∈ g.waves, ∀ o ∈ v.cq, o.kind.link ≠ some link) (ws : List WaveRef) :
    s.dropLink link ws = s := by
  induction ws with
  | nil => rfl
  | cons w ws ih =>
    rw [State.dropLink]
    cases he : s.eng w with
    | none => exact ih
    | some e =>
      simp only [dropLinkOps_of_none h he]
      exact ih

/-- The link among those that are down. -/
def State.linkLost (s : State) (link : Nat) : State := { s with io := { s.io with
  spireDown := if s.io.spireDown.contains link then s.io.spireDown else s.io.spireDown ++ [link] } }

theorem spireLinkDown_exec (s : State) (link : Nat) :
    exec (.spireLinkDown link) s
      = .next ((s.linkLost link).dropLink link (s.groups.flatMap fun g => g.waves.map fun w => ⟨g.id, w.wix⟩)) := rfl

theorem linkLost_contains (s : State) (link : Nat) : (s.linkLost link).io.spireDown.contains link = true := by
  change (if s.io.spireDown.contains link then s.io.spireDown else s.io.spireDown ++ [link]).contains link = true
  split
  · assumption
  · simp

/-- A wave without its operations on a link, of which `gone` have ended with TIMEOUT. -/
def Wave.offLink (link : Nat) (gone : List CopyOp) (v : Wave) : Wave :=
  { v with
    cq := v.cq.filter fun o => !(o.kind.link == some link)
    copyErr := v.copyErr ++ gone.map fun o => ⟨o.thread, 0x0F, o.d, o.a, o.done⟩ }

theorem dropLinkOps_eq {e : Eng} (hgone : e.wave.gone = false) (hdue : e.due = true) :
    s.dropLinkOps e link = s.modEng e (Wave.offLink link (e.wave.cq.filter fun o => o.kind.link == some link)) := by
  simp only [State.dropLinkOps, hgone, hdue, Bool.and_true, if_neg Bool.false_ne_true]
  exact State.modWave_modWave _ _ _ (fun v => { v with cq := v.cq.filter fun o => !(o.kind.link == some link) }) _ fun _ => rfl

theorem eng_of_single {g : Group} {v : Wave} {l : Launch} (hg : s.groups = [g]) (hv : g.waves = [v])
    (hl : s.launch? g.launch = some l) : s.eng ⟨g.id, v.wix⟩ = some ⟨g, v, l⟩ := by
  have hgroup : s.group? g.id = some g := by simp [State.group?, hg]
  have hwave : g.wave? v.wix = some v := by simp [Group.wave?, hv]
  simp [State.eng, hgroup, hwave, hl]

end

/-- Settles O50: at the head of its queue an operation moves a sector, ends or is given up; a stream runs until it has delivered
or ended; a lost link ends the operations on it. -/
theorem copyPerforms : Obligations.CopyPerforms := by
  unfold Obligations.CopyPerforms
  refine ⟨?sector, ?within, ?fabric, ?retry, ?stream, ?unused, ?link⟩
  case sector =>
    intro s w e op r bs u h hlocal hdue hdone hread hlen hdest
    exact copyPerform_moves h hlocal hdue hdone hread hlen hdest
  case within =>
    intro s w e op r ga oa gd od h hk hsync hread hdone halike hsrc hdst hgood hnet
    obtain ⟨hwave, hwaves⟩ := wave?_modEng_spWrite h.eng gd od (s.spRead (.sp ga oa) op.sector) (f := Wave.sectorMoved op) fun _ => rfl
    refine ⟨_, copyPerform_within h hk hsync hread hdone halike hsrc hdst hgood hnet, rfl, fun g o => ?_, ?_, hwaves⟩
    · exact (spByteAt_modWave ..).trans (spByteAt_eq_lastSpByte s [(.sp gd od, s.spRead (.sp ga oa) op.sector)] g o)
    · rw [hwave, Wave.sectorMoved, h.queue]
      rfl
  case fabric =>
    intro s w e op r l h hlink hdue hgone
    have hexec := fabricOpPerform_exec h hlink hdue
    refine ⟨fun ans hdown => ⟨_, ?_, becameWave_abandon h hgone 0x0F⟩, fun hup => ⟨?denied, ?refused, ?accepted⟩⟩
    · rw [hexec, fabricNow_down hdown]
    case denied => exact ⟨_, by rw [hexec, (fabricNow_up hup).2], becameWave_abandon h hgone 0x07⟩
    case refused =>
      split
      · next hsend =>
        exact ⟨_, (hexec _).trans (congrArg Host.Outcome.next (fabricNow_refused_send hup hsend)),
          becameWave_modHead h fun o => { o with since := some (o.since.getD s.ns.toNat) }⟩
      · next hother =>
        exact ⟨_, (hexec _).trans (congrArg Host.Outcome.next (fabricNow_refused hup hother)), becameWave_abandon h hgone 0x07⟩
    case accepted =>
      intro bs u hread hlen hdone hdest hlast v hlost
      rw [hexec, (fabricNow_up hup).1, State.fabricMove, h.resume, h.restarted,
        copySectors_of_last h.noneHeld hdone hread hlen hdest hlast, State.copyEnds, if_neg (Bool.eq_false_iff.1 hlost)]
  case retry =>
    intro s w e op r k h hsince hgone
    have hexec := sendRetryTimeout_exec h hsince
    refine ⟨fun hearly => ?_, fun hover => ⟨_, ?_, becameWave_abandon h hgone 0x0F⟩⟩
    · rw [hexec, if_neg (Nat.not_le.2 hearly)]
    · rw [hexec, if_pos hover]
  case stream =>
    intro s w e k x he hx hopen hend hfault hdue hrow
    have hexec := streamItemDeliver_exec he hx hopen hend hfault hdue
    have hafter (y : Stream) := Wave.modStream_of_getElem? hx y
    refine ⟨fun hcount => ?_, fun i b bs b' hcount hmode hword hread hzeros => ?_⟩
    · have hranges : s.streamRanges e x = [] := by simp only [State.streamRanges, hrow, if_pos hcount]
      refine ⟨_, hexec.trans (congrArg Host.Outcome.next (streamRun_of_step (streamStep_end hrow hcount) (.inl rfl) ..)), ?_⟩
      rw [hranges, ← hafter]
      exact State.becameWave_modEng he (f := fun v => v.modStream k.val fun _ => { x with ended := true }) fun _ => rfl
    · have hstep := streamStep_delivers hrow hend hcount hmode hword hread hzeros
      have hlonger : (x.rowDelivered bs (x.psn || b || b')).fifo.length ≠ x.fifo.length := by simp [Stream.rowDelivered]
      refine ⟨_, hexec.trans (congrArg Host.Outcome.next (streamRun_of_step hstep (.inr hlonger) ..)), ?_⟩
      have haccessed := accessedWave_modEng he (s.streamRanges e x)
        (f := fun v => v.modStream k.val fun _ => x.rowDelivered bs (x.psn || b || b')) fun _ => rfl
      simp only [hafter] at haccessed
      exact haccessed
  case unused =>
    intro s link hnone
    exact (spireLinkDown_exec s link).trans (congrArg Host.Outcome.next (dropLink_of_none (s := s.linkLost link) hnone _))
  case link =>
    intro s link g v l hg hv hl hgone hrepro _ hit
    have he : s.eng ⟨g.id, v.wix⟩ = some ⟨g, v, l⟩ := eng_of_single hg hv hl
    have hdrop := dropLinkOps_eq (s := s.linkLost link) (link := link) (e := ⟨g, v, l⟩) hgone (by simp [Eng.due, hrepro])
    refine ⟨(s.linkLost link).modEng ⟨g, v, l⟩ (Wave.offLink link (v.cq.filter hit)), ?_,
      State.becameWave_modEng he (f := Wave.offLink link (v.cq.filter hit)) fun _ => rfl, linkLost_contains s link⟩
    have he' : (s.linkLost link).eng ⟨g.id, v.wix⟩ = some ⟨g, v, l⟩ := he
    have hrefs : (s.groups.flatMap fun g => g.waves.map fun w => (⟨g.id, w.wix⟩ : WaveRef)) = [⟨g.id, v.wix⟩] := by
      simp [hg, hv]
    rw [spireLinkDown_exec, hrefs, State.dropLink, he']
    exact congrArg Host.Outcome.next hdrop

end Sys2Proof.Machine
end

section
/-! SUPPORT. The memories after reset (O7). -/

namespace Sys2Proof.Machine

/-- Settles O7: the memories are empty. -/
theorem resetMemoryCanonical : Obligations.ResetMemoryCanonical := by
  unfold Obligations.ResetMemoryCanonical
  exact ⟨rfl, rfl, rfl⟩

end Sys2Proof.Machine
end

section
/-! SUPPORT. Trap entry, double traps and traps that wait (O17, O18). -/

namespace Sys2Proof.Machine

/-- The wave whose path enters the handler of launch `l` with a record (R363, R365). -/
def Wave.entered (slot : Bool) (l : Launch) (rec : TrapRec) (tick : Nat) (w : Wave) : Wave :=
  ({ w with
    trap := rec, owner := some slot, unshed := w.unshed || rec.cause == 0x15, qended := w.qended || (l.repro && l.handler != 0)
    bankW := freeBankW tick, bankS := freeBankS tick } : Wave).modPath slot fun p => { p.halt with priv := true, pc := l.handler }

/-- The wave whose path waits for the trap record, with the record of its own trap (R363). -/
def Wave.parkTrap (slot : Bool) (rec : TrapRec) (now : Nat) (w : Wave) : Wave :=
  ({ w with queued := some rec } : Wave).modPath slot fun p => { p.halt with wait := .recordBusy, since := now }

@[simp] theorem Wave.entered_wix (slot : Bool) (l : Launch) (rec : TrapRec) (tick : Nat) (w : Wave) :
    (w.entered slot l rec tick).wix = w.wix := Wave.modPath_wix ..

/-- What the entry leaves in the wave beside the path. -/
theorem Wave.entered_reads (slot : Bool) (l : Launch) (rec : TrapRec) (tick : Nat) (w : Wave) :
    let e := w.entered slot l rec tick
    e.trap = rec ∧ e.owner = some slot ∧ e.path? (!slot) = w.path? (!slot)
      ∧ (e.w, e.o, e.p, e.wb, e.sb, e.seg, e.held) = (w.w, w.o, w.p, w.wb, w.sb, w.seg, w.held) := by
  cases slot <;> exact ⟨rfl, rfl, rfl, rfl⟩

/-- The wave with a parked trap keeps its own record. -/
theorem Wave.parkTrap_reads (slot : Bool) (rec : TrapRec) (now : Nat) (w : Wave) :
    (w.parkTrap slot rec now).queued = some rec ∧ (w.parkTrap slot rec now).trap = w.trap := by
  cases slot <;> exact ⟨rfl, rfl⟩

@[simp] theorem Wave.parkTrap_wix (slot : Bool) (rec : TrapRec) (now : Nat) (w : Wave) : (w.parkTrap slot rec now).wix = w.wix :=
  Wave.modPath_wix ..

/-- Trap entry with a handler is a change of the wave alone. -/
theorem enterTrap_eq (s : State) (r : PathRef) {l : Launch} {rec : TrapRec} (hl : l.handler ≠ 0) (hrec : rec.cause ≠ 0x15) :
    s.enterTrap r l rec = s.modWave r.group r.wix (Wave.entered r.slot l rec s.tick) := by
  simp only [State.enterTrap, if_neg hrec, if_pos hl]
  refine (State.modWave_modWave s _ _ _ _ fun w => ?_).trans (congrArg _ (funext fun w => ?_))
  · exact Wave.modPath_wix ..
  · cases r.slot <;> simp [Wave.entered, Wave.modPath, Wave.setPath, Wave.path?, Function.comp_def]

theorem Cause.code_eq_cancel {k : Cause} : k.code = 0x15 ↔ k = .cancel := by cases k <;> decide

section
variable {s : State} {c : Ctx} {tr : Trap}

theorem takeTrap_enters (hp : c.path.priv = false) (ho : c.wave.owner ≠ some (!c.ref.slot)) (hl : c.launch.handler ≠ 0)
    (hk : tr.cause ≠ .cancel) :
    s.takeTrap c tr = s.modWave c.ref.group c.ref.wix (Wave.entered c.ref.slot c.launch (c.trapRec tr) s.tick) := by
  rw [State.takeTrap, if_neg (by simp [hp]), if_neg ho, enterTrap_eq s c.ref hl (mt Cause.code_eq_cancel.1 hk)]

theorem takeTrap_parks (hp : c.path.priv = false) (ho : c.wave.owner = some (!c.ref.slot)) :
    s.takeTrap c tr = s.modWave c.ref.group c.ref.wix (Wave.parkTrap c.ref.slot (c.trapRec tr) s.ns.toNat) := by
  rw [State.takeTrap, if_neg (by simp [hp]), if_pos ho]
  rfl

end

/-- Settles O17: the entry is one change of the wave, whose fields are read off. -/
theorem trapEntersHandler : Obligations.TrapEntersHandler := by
  unfold Obligations.TrapEntersHandler
  intro s c tr hc hp ho hl hk
  obtain ⟨-, -, -, hpath, -⟩ := State.ctxAt_eq hc
  have hq : (c.wave.entered c.ref.slot c.launch (c.trapRec tr) s.tick).path? c.ref.slot
      = some { c.path.halt with priv := true, pc := c.launch.handler } := by
    rw [Wave.entered, Wave.path?_modPath, if_pos rfl]
    exact congrArg (Option.map _) hpath
  obtain ⟨htrap, howner, hother, hregs⟩ := Wave.entered_reads c.ref.slot c.launch (c.trapRec tr) s.tick c.wave
  refine ⟨_, _, takeTrap_enters hp ho hl hk, State.ctxAt_modWave hc _ (Wave.entered_wix _ _ _ _) hq,
    onlyWave_modWave _ _ _ (Wave.entered_wix _ _ _ _), htrap, congrArg TrapRec.cause htrap,
    congrArg TrapRec.sub htrap, (congrArg TrapRec.level htrap).trans ?_, congrArg TrapRec.mask htrap, congrArg TrapRec.kill htrap,
    congrArg TrapRec.addr htrap, (congrArg TrapRec.pc htrap).trans ?_, howner, rfl, hother, hregs⟩
  · simp [Ctx.trapRec, hp]
  · simp [Ctx.trapRec, Path.start, hp]

/-- Settles O18: a double trap is the machine's own rule; a trap that waits changes the wave alone. -/
theorem secondTraps : Obligations.SecondTraps := by
  unfold Obligations.SecondTraps
  refine ⟨fun s c tr hc hp => if_pos hp, fun s c tr hc hp ho => ?_⟩
  obtain ⟨-, -, -, hpath, -⟩ := State.ctxAt_eq hc
  have hq : (c.wave.parkTrap c.ref.slot (c.trapRec tr) s.ns.toNat).path? c.ref.slot
      = some { c.path.halt with wait := .recordBusy, since := s.ns.toNat } := by
    rw [Wave.parkTrap, Wave.path?_modPath, if_pos rfl]
    exact congrArg (Option.map _) hpath
  obtain ⟨hqueued, htrap⟩ := Wave.parkTrap_reads c.ref.slot (c.trapRec tr) s.ns.toNat c.wave
  rw [takeTrap_parks hp ho]
  exact ⟨_, State.ctxAt_modWave hc _ (Wave.parkTrap_wix _ _ _) hq, onlyWave_modWave _ _ _ (Wave.parkTrap_wix _ _ _),
    rfl, rfl, hp, hqueued, htrap⟩

end Sys2Proof.Machine
end

section
/-! SUPPORT. What it says of a computation that the memories stay in the canonical form, and the updates that touch none (O6). -/

namespace Sys2Proof.Machine

/-- Where a computation ends in a state, or in a value that holds one, the memories of that state are in the canonical form. -/
def AllOk {ε α : Type} (f : α → State) (x : Except ε α) : Prop := ∀ a, x = .ok a → (f a).MemOk

section
variable {ε α β : Type} {f : α → State}

theorem allOk_ok {a : α} (h : (f a).MemOk) : AllOk (ε := ε) f (.ok a) := fun _ e => by cases e; exact h

theorem allOk_error {a : ε} : AllOk f (.error a) := fun _ e => nomatch e

theorem allOk_map {x : Except ε β} {g : β → α} (h : ∀ b, x = .ok b → (f (g b)).MemOk) : AllOk f (x.map g) := by
  cases x with
  | error a => exact allOk_error
  | ok b => exact allOk_ok (h b rfl)

theorem allOk_bind {x : Except ε β} {g : β → Except ε α} (h : ∀ b, x = .ok b → AllOk f (g b)) : AllOk f (x.bind g) := by
  cases x with
  | error a => exact allOk_error
  | ok b => exact h b rfl

end

theorem memOk_fst {α : Type} {p : State × α} {t : State} {x : α} (h : p.1.MemOk) (e : p = (t, x)) : t.MemOk := by
  rw [e] at h
  exact h

/-- The accesses of one thread keep the canonical form. -/
def KeepsMem (f : State → Nat → Except AFault State) : Prop := ∀ s t, s.MemOk → AllOk (fun u => u) (f s t)

theorem memOk_touch {s : State} (g a n : Nat) (h : s.MemOk) : (s.touch g a n).MemOk := h

theorem memOk_buffer {s : State} (c : Ctx) (e : CEntry) (h : s.MemOk) : (s.buffer c e).MemOk := h

theorem memOk_modPath {s : State} (r : PathRef) (f : Path → Path) (h : s.MemOk) : (s.modPath r f).MemOk := h

theorem memOk_modLaunch {s : State} (id : Nat) (f : Launch → Launch) (h : s.MemOk) : (s.modLaunch id f).MemOk := h

theorem memOk_modDie {s : State} (d : Nat) (f : Die → Die) (h : s.MemOk) : (s.modDie d f).MemOk := h

theorem memOk_modCluster {s : State} (c : Nat) (f : Cluster → Cluster) (h : s.MemOk) : (s.modCluster c f).MemOk := h

theorem memOk_modIo {s : State} (f : Io → Io) (h : s.MemOk) : (s.modIo f).MemOk := h

theorem memOk_modBelfry {s : State} (f : Belfry → Belfry) (h : s.MemOk) : (s.modBelfry f).MemOk := h

theorem memOk_modEng {s : State} (e : Eng) (f : Wave → Wave) (h : s.MemOk) : (s.modEng e f).MemOk := h

theorem memOk_modEntry {s : State} (r : WaveRef) (f : MatOp → MatOp) (h : s.MemOk) : (s.modEntry r f).MemOk := h

theorem memOk_modReq {s : State} (e : Eng) (f : HReq → HReq) (h : s.MemOk) : (s.modReq e f).MemOk := h

theorem memOk_popReq {s : State} (e : Eng) (h : s.MemOk) : (s.popReq e).MemOk := h

theorem memOk_unattWatch {s : State} (h : s.MemOk) : s.unattWatch.MemOk := h

theorem memOk_modSlot {s : State} (k : Nat) (f : HruSlot → HruSlot) (h : s.MemOk) : (s.modSlot k f).MemOk := h

theorem memOk_modDump {s : State} (d : Nat) (f : DumpReq → DumpReq) (h : s.MemOk) : (s.modDump d f).MemOk := h

theorem memOk_look {s : State} (h : s.MemOk) : s.look.MemOk := h

theorem memOk_reap {s : State} (h : s.MemOk) : s.reap.MemOk := h

theorem memOk_matDone {s : State} (e : Eng) (op : MatOp) (f : Tile → Tile) (h : s.MemOk) : (s.matDone e op f).MemOk := h

end Sys2Proof.Machine
end

section
/-! SUPPORT. Dumps, the error log, counters and fault queues keep the memories in the canonical form (O6). -/

namespace Sys2Proof.Machine

theorem memOk_requestDump {s : State} (die gid cause : Nat) (h : s.MemOk) : (s.requestDump die gid cause).MemOk := by
  unfold State.requestDump
  split <;> exact h

theorem memOk_settleBand {s : State} (g : Group) (h : s.MemOk) : (s.settleBand g).MemOk := by
  unfold State.settleBand
  dsimp only
  split <;> exact h

theorem memOk_tidy {s : State} (gid : Nat) (h : s.MemOk) : (s.tidy gid).MemOk := by
  unfold State.tidy
  dsimp only
  split
  · exact h
  · exact memOk_settleBand _ h

theorem memOk_devWriteNat {s : State} (a n v : Nat) (h : s.MemOk) : (s.devWriteNat a n v).MemOk := by
  unfold State.devWriteNat
  exact memOk_devWrite h _ _

theorem memOk_writeError {s : State} (d : Nat) (x : ErrEntry) (h : s.MemOk) : (s.writeError d x).MemOk := by
  unfold State.writeError
  dsimp only
  split
  · exact h
  · exact memOk_modDie _ _ (memOk_devWriteNat _ _ _ (memOk_devWrite h _ _))

theorem memOk_logError {s : State} (d src : Nat) (unc spared : Bool) (core detail : Nat) (addr : DWord) (h : s.MemOk) :
    (s.logError d src unc spared core detail addr).MemOk := by
  unfold State.logError
  dsimp only
  split
  · exact h
  · exact memOk_writeError _ _ h

theorem memOk_stopLaunch {s : State} (lid die core wslot : Nat) (h : s.MemOk) : (s.stopLaunch lid die core wslot).MemOk := by
  unfold State.stopLaunch
  split
  · exact h
  · split
    · exact h
    · exact h

theorem memOk_abandonChange {s : State} (i : Nat) (p : Pending) (h : s.MemOk) : (s.abandonChange i p).MemOk := by
  unfold State.abandonChange
  split
  · split
    · exact h
    · exact h
  · dsimp only
    exact memOk_stopLaunch _ _ _ _ (memOk_logError _ _ _ _ _ _ _ h)

theorem memOk_rewriteRecord {s : State} (d : Nat) (r : FaultRec) (h : s.MemOk) : (s.rewriteRecord d r).MemOk := by
  unfold State.rewriteRecord
  split
  · exact h
  · split
    · exact h
    · exact memOk_devWrite h _ _

theorem memOk_observeSlot {s : State} (d k : Nat) (h : s.MemOk) : (s.observeSlot d k).MemOk := by
  unfold State.observeSlot
  refine memOk_foldl _ (fun _ x ht => ?_) _ h
  exact ht

theorem memOk_writeRecord {s : State} (d : Nat) (h : s.MemOk) : (s.writeRecord d).MemOk := by
  unfold State.writeRecord
  dsimp only
  split
  · exact memOk_observeSlot _ _ h
  · split
    · exact memOk_observeSlot _ _ h
    · exact memOk_modDie _ _ (memOk_devWriteNat _ _ _ (memOk_devWrite (memOk_observeSlot _ _ h) _ _))

theorem memOk_writeRecords {s : State} (d n : Nat) (h : s.MemOk) : (s.writeRecords d n).MemOk := by
  induction n generalizing s with
  | zero => exact h
  | succ n ih => exact ih (memOk_writeRecord d h)

theorem memOk_flushRecords {s : State} (d : Nat) (h : s.MemOk) : (s.flushRecords d).MemOk := by
  unfold State.flushRecords
  exact memOk_writeRecords _ _ h

theorem memOk_postFault {s : State} (d : Nat) (f : NewFault) (h : s.MemOk) : (s.postFault d f).1.MemOk := by
  unfold State.postFault
  split
  · dsimp only
    exact memOk_rewriteRecord _ _ h
  · dsimp only
    exact memOk_flushRecords _ h

theorem memOk_tryChange {s : State} (i : Nat) (p : Pending) (h : s.MemOk) : (s.tryChange i p).MemOk := by
  unfold State.tryChange
  split
  · exact h
  · dsimp only
    split
    · exact memOk_postFault _ _ h
    · exact h
    · split
      · exact memOk_postFault _ _ h
      · exact memOk_writePlaces h _ _

theorem memOk_settle {s : State} (n : Nat) (h : s.MemOk) : (s.settle n).MemOk := by
  induction n generalizing s with
  | zero => exact h
  | succ n ih =>
    unfold State.settle
    split
    · exact h
    · refine ih ?_
      split
      · exact memOk_abandonChange _ _ h
      · exact memOk_tryChange _ _ h

theorem memOk_settleAll {s : State} (h : s.MemOk) : s.settleAll.MemOk := by
  unfold State.settleAll
  split
  · exact h
  · exact memOk_settle _ h

theorem memOk_drainLaunch {s : State} (lid die core wslot : Nat) (h : s.MemOk) : (s.drainLaunch lid die core wslot).MemOk := by
  unfold State.drainLaunch
  exact memOk_settleAll (memOk_stopLaunch _ _ _ _ h)

theorem memOk_change {s : State} (p : Pending) (h : s.MemOk) : (s.change p).MemOk := by
  unfold State.change
  exact memOk_settleAll h

theorem memOk_launchChange {s : State} (lid : Nat) (x : Change) (die core wslot : Nat) (h : s.MemOk) :
    (s.launchChange lid x die core wslot).MemOk := by
  unfold State.launchChange
  exact memOk_change _ h

theorem memOk_fatalEnd {s : State} (gid : Nat) (h : s.MemOk) : (s.fatalEnd gid).MemOk := by
  unfold State.fatalEnd
  split
  · exact h
  · split
    · exact h
    · exact memOk_tidy _ (memOk_modGroup (memOk_drainLaunch _ _ _ _ (memOk_launchChange _ _ _ _ _ h)) _ _)

theorem memOk_fatal {s : State} (gid cause : Nat) (h : s.MemOk) : (s.fatal gid cause).MemOk := by
  unfold State.fatal
  split
  · exact h
  · split
    · exact memOk_modGroup (memOk_requestDump _ _ _ h) _ _
    · exact memOk_fatalEnd _ (memOk_logError _ _ _ _ _ _ _ h)

end Sys2Proof.Machine
end

section
/-! SUPPORT. Traps, splits and the ways of a path keep the memories in the canonical form (O6). -/

namespace Sys2Proof.Machine

theorem memOk_enterTrap {s : State} (r : PathRef) (l : Launch) (rec : TrapRec) (h : s.MemOk) : (s.enterTrap r l rec).MemOk := by
  unfold State.enterTrap
  extract_lets s1 s2
  have h2 : s2.MemOk := by
    unfold s2
    split <;> exact h
  split
  · exact h2
  · split
    · exact h2
    · split
      · exact memOk_tidy _ h2
      · exact memOk_fatal _ _ h2

theorem memOk_takeTrap {s : State} (c : Ctx) (t : Trap) (h : s.MemOk) : (s.takeTrap c t).MemOk := by
  unfold State.takeTrap
  split
  · exact memOk_fatal _ _ h
  · split
    · exact h
    · exact memOk_enterTrap _ _ _ h

theorem memOk_fetchTrap {s : State} (c : Ctx) (f : AFault) (h : s.MemOk) : (s.fetchTrap c f).MemOk := by
  unfold State.fetchTrap
  dsimp only
  split
  · exact memOk_takeTrap _ _ (memOk_postFault _ _ h)
  · exact memOk_takeTrap _ _ h
  · exact h
  · exact h
  · exact h

theorem memOk_unless {s k : State} (hk : k.MemOk) (c : Ctx) (t : Option Trap) (h : s.MemOk) : (s.unless c t k).MemOk := by
  unfold State.unless
  split
  · exact memOk_takeTrap _ _ h
  · exact hk

theorem memOk_writeSectors {s : State} (ps : List Phys) (bs : List Byte) (h : s.MemOk) : (s.writeSectors ps bs).MemOk := by
  induction ps generalizing s bs with
  | nil => exact h
  | cons p ps ih => exact ih _ (memOk_physWrite h _ _)

theorem memOk_storeRecord {s : State} (c : Ctx) (i : Nat) (bs : List Byte) (h : s.MemOk) :
    AllOk (fun u => u) (s.storeRecord c i bs) := allOk_map fun _ _ => memOk_writeSectors _ _ h

theorem memOk_doSplit {s : State} (c : Ctx) (m : Mask) (target next : DWord) (h : s.MemOk) :
    AllOk (fun u => u) (s.doSplit c m target next) := by
  unfold State.doSplit
  dsimp only
  split
  · exact allOk_ok h
  · exact allOk_map fun u e => memOk_storeRecord _ _ _ h u e

theorem memOk_postMask {s : State} (c : Ctx) (m : Mask) (f : AFault) (h : s.MemOk) : (s.postMask c m f).1.MemOk := by
  unfold State.postMask
  dsimp only
  split
  · exact memOk_postFault _ _ h
  · exact memOk_postFault _ _ h
  · exact memOk_postFault _ _ h
  · exact memOk_postFault _ _ h
  · exact h

theorem memOk_wholeTrap {s : State} (c : Ctx) (t : Nat) (f : AFault) (h : s.MemOk) : (s.wholeTrap c t f).MemOk := by
  unfold State.wholeTrap
  exact memOk_takeTrap _ _ (memOk_postMask _ _ _ h)

theorem memOk_transfer {s : State} (c : Ctx) (ts : List Nat) (target : DWord) (w : Wave → Wave) (h : s.MemOk) :
    (s.transfer c ts target w).MemOk := by
  unfold State.transfer
  dsimp only
  split
  · exact h
  · split
    · exact h
    · refine memOk_unless ?_ _ _ h
      split
      · rename_i t e
        exact memOk_modWave (memOk_modWave (memOk_doSplit _ _ _ _ h t e) _ _ _) _ _ _
      · exact memOk_wholeTrap _ _ _ h

theorem memOk_callTo {s : State} (c : Ctx) (target : DWord) (h : s.MemOk) : (s.callTo c target).MemOk := by
  unfold State.callTo
  exact memOk_unless (memOk_transfer _ _ _ _ h) _ _ h

theorem memOk_loadTop {s : State} (c : Ctx) (slot : Bool) (h : s.MemOk) : AllOk (fun u => u) (s.loadTop c slot) := by
  unfold State.loadTop
  split
  · exact allOk_ok h
  · split
    · exact allOk_ok h
    · exact allOk_map fun _ _ => h

theorem memOk_joinTop {s : State} (c : Ctx) (e : Split) (side : Bool) (x : Shadow) (h : s.MemOk) :
    AllOk (fun u => u) (s.joinTop c e side x) := by
  refine allOk_bind fun _ _ => ?_
  dsimp only
  split
  · split <;> exact allOk_ok h
  · exact allOk_map fun u e => memOk_storeRecord _ _ _ h u e

theorem memOk_endPath {s : State} (c : Ctx) (h : s.MemOk) : AllOk (fun u => u) (s.endPath c) := memOk_loadTop c c.ref.slot h

theorem memOk_freeRecord {s : State} (c : Ctx) (h : s.MemOk) : (s.freeRecord c).MemOk := by
  unfold State.freeRecord
  split
  · exact h
  · split
    · exact h
    · exact memOk_enterTrap _ _ _ h

theorem memOk_exitThreads {s : State} (c : Ctx) (h : s.MemOk) : (s.exitThreads c).MemOk := by
  unfold State.exitThreads
  dsimp only
  split
  · split
    · rename_i t e1
      refine memOk_tidy _ ?_
      split
      · refine memOk_freeRecord _ (memOk_endPath _ ?_ t e1)
        exact memOk_modWave (memOk_drain h _ _) _ _ _
      · refine memOk_endPath _ ?_ t e1
        exact memOk_modWave (memOk_drain h _ _) _ _ _
    · exact memOk_wholeTrap _ _ _ h
  · exact memOk_modPath _ _ (memOk_modWave (memOk_drain h _ _) _ _ _)

theorem memOk_tret {s : State} (c : Ctx) (h : s.MemOk) : (s.tret c).MemOk := by
  unfold State.tret
  dsimp only
  split
  · split
    · rename_i t e
      refine memOk_tidy _ (memOk_freeRecord _ (memOk_endPath _ ?_ t e))
      exact h
    · exact memOk_wholeTrap _ _ _ h
  · exact memOk_freeRecord _ h

theorem memOk_waitUntil {s : State} (c : Ctx) (deadline : Nat) (h : s.MemOk) : (s.waitUntil c deadline).MemOk := by
  unfold State.waitUntil
  dsimp only
  split
  · refine memOk_modWave ?_ _ _ _
    split <;> exact h
  · refine memOk_modPath _ _ ?_
    split <;> exact h

end Sys2Proof.Machine
end

section
/-! SUPPORT. Loads, stores, atomics and waits keep the memories in the canonical form (O6). -/

namespace Sys2Proof.Machine

theorem memOk_tryThread {s : State} (c : Ctx) (t : Nat) {f : State → Nat → Except AFault State} (hf : KeepsMem f) (h : s.MemOk) :
    AllOk (fun u => u) (s.tryThread c t f) := by
  unfold State.tryThread
  split
  · exact allOk_error
  · exact hf _ _ h

theorem memOk_eachThread {s : State} (c : Ctx) (loc : Nat → Option Target) {f : State → Nat → Except AFault State}
    (hf : KeepsMem f) (ts ws : List Nat) (h : s.MemOk) : (s.eachThread c loc f ts ws).1.MemOk := by
  induction ts generalizing s ws with
  | nil => exact h
  | cons t ts ih =>
    unfold State.eachThread
    split
    · exact ih _ h
    · split
      · rename_i u e
        exact ih _ (memOk_tryThread c t hf h u e)
      · exact ih _ h

theorem memOk_postThread {s : State} (c : Ctx) (t : Nat) (f : AFault) (h : s.MemOk) : (s.postThread c t f).1.MemOk := by
  unfold State.postThread
  exact memOk_postMask _ _ _ h

theorem memOk_postAll {s : State} (c : Ctx) (fs : List (Nat × AFault)) (h : s.MemOk) : (s.postAll c fs).1.MemOk := by
  induction fs generalizing s with
  | nil => exact h
  | cons x fs ih => exact ih (memOk_postThread _ _ _ h)

theorem memOk_count {s : State} (c : Ctx) (ts : List Nat) (h : s.MemOk) : (s.count c ts).MemOk := by
  unfold State.count
  split <;> exact h

theorem memOk_goOnLater {s : State} (c : Ctx) (fs : List (Nat × AFault)) (finished pending : List Nat) (h : s.MemOk) :
    (s.goOnLater c fs finished pending).MemOk := by
  unfold State.goOnLater
  exact memOk_modPath _ _ (memOk_count _ _ (memOk_postAll _ _ h))

theorem memOk_partialTrap {s : State} (c : Ctx) (fs : List (Nat × AFault)) (unfinished : List Nat) (h : s.MemOk) :
    (s.partialTrap c fs unfinished).MemOk := by
  unfold State.partialTrap
  exact memOk_takeTrap _ _ (memOk_count _ _ (memOk_postAll _ _ h))

theorem memOk_accessAll {s : State} (c : Ctx) (ts : List Nat) (loc : Nat → Option Target)
    {f : State → Nat → Except AFault State} (hf : KeepsMem f) (h : s.MemOk) : (s.accessAll c ts loc f).MemOk := by
  unfold State.accessAll
  split
  rename_i e
  dsimp only
  split
  · exact memOk_goOnLater _ _ _ _ (memOk_fst (memOk_eachThread _ _ hf _ _ h) e)
  · split
    · exact memOk_modWave (memOk_fst (memOk_eachThread _ _ hf _ _ h) e) _ _ _
    · exact memOk_partialTrap _ _ _ (memOk_fst (memOk_eachThread _ _ hf _ _ h) e)

theorem memOk_tileChange {s : State} (c : Ctx) (va : Nat) (f : DWord → DWord) (k : Phys → DWord → CEntry) (t : Nat)
    (h : s.MemOk) :
    AllOk (fun u => u) (s.tileChange c va f k t) := by
  refine allOk_bind fun p _ => ?_
  split
  · exact allOk_error
  · split
    · exact allOk_error
    · refine allOk_ok ?_
      split
      · exact memOk_buffer _ _ (memOk_drain (memOk_touch _ _ _ h) _ _)
      · exact memOk_physWrite (memOk_drain (memOk_touch _ _ _ h) _ _) _ _

theorem memOk_gLoad {s : State} (c : Ctx) (t va n : Nat) (h : s.MemOk) : AllOk Prod.snd (s.gLoad c t va n) := by
  refine allOk_bind fun p _ => ?_
  split
  · exact allOk_error
  · exact allOk_ok h

theorem memOk_promote {s : State} (sc : Scope) (r : Order) (h : s.MemOk) : (s.promote sc r).MemOk := by
  unfold State.promote
  split
  · exact memOk_performNear h _
  · exact h

theorem memOk_loadAll {s : State} (c : Ctx) (sc : Scope) (r : Order) {f : State → Nat → Except AFault State}
    (hf : KeepsMem f) (h : s.MemOk) : (s.loadAll c sc r f).MemOk := memOk_accessAll _ _ _ hf (memOk_promote _ _ h)

theorem memOk_voidOwn {s : State} (c : Ctx) (h : Held) (ok : s.MemOk) : (s.voidOwn c h).MemOk := by
  unfold State.voidOwn
  exact ok

theorem memOk_settleEarly {s : State} (c : Ctx) (r : Order) (h : Held) (ok : s.MemOk) : (s.settleEarly c r h).MemOk := by
  unfold State.settleEarly
  exact ok

theorem memOk_sRead {s : State} (c : Ctx) (t : Nat) (r : Order) (ea n : Nat) (h : s.MemOk) :
    AllOk Prod.snd (s.sRead c t r ea n) := by
  unfold State.sRead
  split
  · exact allOk_ok h
  · split
    · exact allOk_error
    · refine allOk_ok ?_
      split
      · exact memOk_settleEarly _ _ _ h
      · exact h

theorem memOk_sLoadTo {s : State} (c : Ctx) (t : Nat) (r : Order) (ea n : Nat) (signed : Bool) (d : VDst) (h : s.MemOk) :
    AllOk (fun u => u) (s.sLoadTo c t r ea n signed d) := by
  unfold State.sLoadTo
  split
  · split
    · exact allOk_error
    · exact allOk_ok h
  · exact allOk_map fun x e => memOk_giveLoad (memOk_sRead _ _ _ _ _ h x e) _ _ _ _ _ _

theorem memOk_hold {s : State} (c : Ctx) (h : Held) (ok : s.MemOk) : (s.hold c h).MemOk := by
  unfold State.hold
  exact memOk_modWave (memOk_voidOwn _ _ ok) _ _ _

theorem memOk_land {s : State} (c : Ctx) (h : Held) (ok : s.MemOk) : (s.land c h).MemOk := by
  unfold State.land
  split
  · exact memOk_spread ok _ _ _ _
  · exact memOk_perform ok _

theorem memOk_put {s : State} (c : Ctx) (h : Held) (ok : s.MemOk) : (s.put c h).MemOk := by
  unfold State.put
  refine memOk_land _ _ ?_
  split
  · exact memOk_voidOwn _ _ ok
  · exact ok

theorem memOk_spWrite {s : State} (p : SpPlace) (bs : List Byte) (h : s.MemOk) : (s.spWrite p bs).MemOk := by
  unfold State.spWrite
  split
  · exact h
  · exact memOk_regWrite h _ _ _ _ _ _

theorem memOk_sStore {s : State} (c : Ctx) (t ea : Nat) (bs : List Byte) (sc : Scope) (o : Order) (h : s.MemOk) :
    AllOk (fun u => u) (s.sStore c t ea bs sc o) := by
  unfold State.sStore
  split
  · exact allOk_ok h
  · split
    · exact allOk_error
    · refine allOk_ok ?_
      have hs : (if o == .rlx then s else s.release c.ref.group c.ref.wix (spLevel sc)).MemOk := by
        split
        · exact h
        · exact memOk_release h _ _ _
      revert hs
      generalize (if o == .rlx then s else s.release c.ref.group c.ref.wix (spLevel sc)) = u
      intro hu
      split
      · split
        · refine memOk_foldl _ (fun _ x ht => ?_) _ hu
          exact memOk_hold _ _ ht
        · refine memOk_foldl _ (fun _ x ht => ?_) _ hu
          exact memOk_put _ _ ht
      · split
        · refine memOk_foldl _ (fun _ x ht => ?_) _ hu
          exact memOk_hold _ _ ht
        · exact memOk_spWrite _ _ hu

theorem memOk_loadsFirst {s : State} (c : Ctx) (t : Nat) (place : Option Target) (n : Nat) (h : s.MemOk) :
    (s.loadsFirst c t place n).MemOk := by
  unfold State.loadsFirst
  split
  · dsimp only
    split
    · exact memOk_performLoads h _ _ _
    · exact h
  · exact h

theorem memOk_gRead {s : State} (c : Ctx) (t : Nat) (r : Order) (va n : Nat) (h : s.MemOk) :
    AllOk Prod.snd (s.gRead c t r va n) := by
  refine allOk_bind fun p _ => ?_
  split
  · exact allOk_error
  · exact allOk_ok h

theorem memOk_gLoadTo {s : State} (c : Ctx) (t : Nat) (r : Order) (va n : Nat) (signed : Bool) (d : VDst) (h : s.MemOk) :
    AllOk (fun u => u) (s.gLoadTo c t r va n signed d) := by
  unfold State.gLoadTo
  split
  · refine allOk_bind fun p _ => ?_
    split
    · exact allOk_error
    · exact allOk_ok h
  · exact allOk_map fun x e => memOk_giveLoad (memOk_gRead _ _ _ _ _ h x e) _ _ _ _ _ _

theorem memOk_gStore {s : State} (c : Ctx) (t va : Nat) (bs : List Byte) (sc : Scope) (o : Order) (h : s.MemOk) :
    AllOk (fun u => u) (s.gStore c t va bs sc o) := by
  refine allOk_map fun p _ => ?_
  dsimp only
  split
  · exact memOk_buffer _ _ (memOk_touch _ _ _ h)
  · split
    · exact memOk_hold _ _ (memOk_touch _ _ _ h)
    · exact memOk_put _ _ (memOk_release (memOk_touch _ _ _ h) _ _ _)

theorem memOk_rows {s : State} (c : Ctx) {f : State → Nat → Except AFault State} (hf : KeepsMem f) (ts : List Nat) (h : s.MemOk) :
    (s.rows c f ts).1.MemOk := by
  induction ts generalizing s with
  | nil => exact h
  | cons t ts ih =>
    unfold State.rows
    split
    · exact h
    · split
      · rename_i u e
        exact ih (memOk_tryThread c t hf h u e)
      · exact h

theorem memOk_rowsAll {s : State} (c : Ctx) (ts : List Nat) {f : State → Nat → Except AFault State} (hf : KeepsMem f)
    {k : State → List Nat → State} (hk : ∀ t us, t.MemOk → (k t us).MemOk) (h : s.MemOk) : (s.rowsAll c ts f k).MemOk := by
  have hr := memOk_rows c hf ts h
  unfold State.rowsAll
  dsimp only
  split
  · rename_i t e
    exact hk _ _ (memOk_fst hr e)
  · rename_i t us e
    exact memOk_goOnLater _ _ _ _ (hk _ _ (memOk_fst hr e))
  · rename_i t a us e
    exact memOk_partialTrap _ _ _ (hk _ _ (memOk_fst hr e))

theorem memOk_bufferRows {s : State} (c : Ctx) (ea : Nat → Nat) (row : Nat → List Byte) (ts : List Nat) (h : s.MemOk) :
    (s.bufferRows c ea row ts).MemOk := by
  induction ts generalizing s with
  | nil => exact h
  | cons t ts ih =>
    unfold State.bufferRows
    refine ih ?_
    split <;> exact h

theorem memOk_giveOld {s : State} (c : Ctx) (d : VDst) (wide : Bool) (t : Nat) (old : DWord) (h : s.MemOk) :
    (s.giveOld c d wide t old).MemOk := by
  unfold State.giveOld
  split <;> exact h

theorem memOk_acquire {s : State} (c : Ctx) (t : Nat) (r : Order) (h : s.MemOk) : (s.acquire c t r).MemOk := by
  unfold State.acquire
  split <;> exact h

theorem memOk_ownFirst {s : State} (c : Ctx) (h : Held) (ok : s.MemOk) : (s.ownFirst c h).MemOk := by
  unfold State.ownFirst
  split
  · exact ok
  · dsimp only
    refine memOk_modWave (memOk_foldl _ (fun _ x ht => ?_) _ (memOk_performNear ok _)) _ _ _
    exact memOk_perform ht _

theorem memOk_orderFirst {s : State} (c : Ctx) (level : Nat) (r : Order) (h : s.MemOk) : (s.orderFirst c level r).MemOk := by
  unfold State.orderFirst
  split
  · exact memOk_release h _ _ _
  · exact h

theorem memOk_atomFirst {s : State} (c : Ctx) (h : Held) (level : Nat) (sc : Scope) (r : Order) (ok : s.MemOk) :
    (s.atomFirst c h level sc r).MemOk := by
  unfold State.atomFirst
  exact memOk_acquire _ _ _ (memOk_voidOwn _ _ (memOk_ownFirst _ _ (memOk_promote _ _ (memOk_orderFirst _ _ _ ok))))

theorem memOk_sAtom {s : State} (c : Ctx) (t ea : Nat) (wide : Bool) (op : AtomOp) (a b : DWord) (sc : Scope) (r : Order)
    (h : s.MemOk) :
    AllOk Prod.snd (s.sAtom c t ea wide op a b sc r) := by
  unfold State.sAtom
  extract_lets n
  split
  · exact allOk_ok h
  · split
    · exact allOk_error
    · exact allOk_ok (memOk_foldl _ (fun _ x ht => memOk_land c x ht) _
        (memOk_foldl _ (fun _ x ht => memOk_atomFirst c x (spLevel sc) sc r ht) _ h))

theorem memOk_gAtom {s : State} (c : Ctx) (t va : Nat) (wide : Bool) (op : AtomOp) (a b : DWord) (sc : Scope) (r : Order)
    (h : s.MemOk) :
    AllOk Prod.snd (s.gAtom c t va wide op a b sc r) := by
  unfold State.gAtom
  extract_lets n
  refine allOk_bind fun p _ => ?_
  split
  · exact allOk_error
  · split
    · exact allOk_error
    · refine allOk_ok ?_
      dsimp only
      have h1 := fun x => memOk_atomFirst c x (scopeLevel sc) sc r (memOk_touch c.ref.group va n h)
      split
      · exact memOk_buffer c _ (h1 _)
      · exact memOk_land c _ (h1 _)

theorem memOk_waitaPass {s : State} (c : Ctx) (got : List (Nat × DWord)) (ws : List (Nat × DWord × DWord)) (h : s.MemOk) :
    (s.waitaPass c got ws).1.MemOk := by
  induction ws generalizing s got with
  | nil => exact h
  | cons w ws ih =>
    obtain ⟨t, va, v⟩ := w
    unfold State.waitaPass
    split
    · exact ih _ h
    · split
      · exact ih _ h
      · rename_i bs u e
        refine ih _ ?_
        unfold State.tryThread at e
        split at e
        · cases e
        · exact memOk_gLoad _ _ _ _ h _ e

theorem memOk_giveAll64 {s : State} (c : Ctx) (d : VDst) (vs : List (Nat × DWord)) (h : s.MemOk) :
    (s.giveAll64 c d vs).MemOk := by
  induction vs generalizing s with
  | nil => exact h
  | cons v vs ih => exact ih h

theorem memOk_pollWaita {s : State} (c : Ctx) (d : VDst) (watch : List (Nat × DWord × DWord)) (got : List (Nat × DWord))
    (sc : Scope) (r : Order) (h : s.MemOk) : (s.pollWaita c d watch got sc r).MemOk := by
  unfold State.pollWaita
  split
  · rename_i e
    split
    · exact memOk_modWave (memOk_giveAll64 _ _ _ (memOk_fst (memOk_waitaPass _ _ _ (memOk_promote _ _ h)) e)) _ _ _
    · exact memOk_modPath _ _ (memOk_fst (memOk_waitaPass _ _ _ (memOk_promote _ _ h)) e)
  · rename_i e
    exact memOk_partialTrap _ _ _ (memOk_giveAll64 _ _ _ (memOk_fst (memOk_waitaPass _ _ _ (memOk_promote _ _ h)) e))

theorem memOk_timeout {s : State} (c : Ctx) (since : Nat) (h : s.MemOk) : (s.timeout c since).MemOk := by
  unfold State.timeout
  exact memOk_takeTrap _ _ h

theorem memOk_pollTwait {s : State} (c : Ctx) (d : Fin 8) (targets : List (Nat × Word × Word)) (since : Nat) (ended : Bool)
    (h : s.MemOk) : (s.pollTwait c d targets since ended).MemOk := by
  unfold State.pollTwait
  dsimp only
  split
  · exact h
  · split
    · exact memOk_timeout _ _ h
    · split
      · exact h
      · exact memOk_partialTrap _ _ _ h

theorem memOk_comeTo {s : State} (c : Ctx) (b : Nat) (h : s.MemOk) : (s.comeTo c b).MemOk := by
  unfold State.comeTo
  exact memOk_tidy _ (memOk_modWave (memOk_release h _ _ _) _ _ _)

theorem memOk_pollCwait {s : State} (c : Ctx) (n : Nat) (h : s.MemOk) : (s.pollCwait c n).MemOk := by
  unfold State.pollCwait
  refine memOk_unless ?_ _ _ h
  split
  · exact h
  · split <;> exact h

theorem memOk_queueReqs {s : State} (c : Ctx) (rs : List HReq) (h : s.MemOk) : (s.queueReqs c rs).MemOk := by
  unfold State.queueReqs
  exact memOk_modWave (memOk_modWave (memOk_drain h _ _) _ _ _) _ _ _

end Sys2Proof.Machine
end

section
/-! SUPPORT. Launches, cancels and late accesses keep the memories in the canonical form (O6). -/

namespace Sys2Proof.Machine

theorem memOk_afterBuffer {s : State} (c : Ctx) {f : State → State} (hf : ∀ t, t.MemOk → (f t).MemOk) (h : s.MemOk) :
    (s.afterBuffer c f).MemOk := by
  unfold State.afterBuffer
  split
  · exact h
  · exact hf _ (memOk_drain h _ _)

theorem memOk_readerTrap {s : State} (c : Ctx) (t : Nat) (f : AFault) (h : s.MemOk) : (s.readerTrap c t f).MemOk := by
  unfold State.readerTrap
  exact memOk_partialTrap _ _ _ h

theorem memOk_touchAll {s : State} (g : Nat) (rs : List (Nat × Nat)) (h : s.MemOk) : (s.touchAll g rs).MemOk := by
  induction rs generalizing s with
  | nil => exact h
  | cons r rs ih =>
    unfold State.touchAll
    refine ih ?_
    split
    · exact h
    · exact memOk_touch _ _ _ h

theorem memOk_refuse {s : State} (l : Launch) (p : Phys) (old : BitVec 256) (reason die core wslot : Nat) (h : s.MemOk) :
    (s.refuse l p old reason die core wslot).MemOk := by
  unfold State.refuse
  dsimp only
  split
  · exact memOk_physWrite h _ _
  · exact memOk_launchChange _ _ _ _ _ (memOk_physWrite h _ _)

theorem memOk_markAll {s : State} (lid core wslot die : Nat) (vas : List DWord) (h : s.MemOk) :
    (s.markAll lid core wslot die vas).MemOk := by
  induction vas generalizing s with
  | nil => exact h
  | cons va vas ih => exact ih (memOk_launchChange _ _ _ _ _ h)

theorem memOk_cancelLaunch {s : State} (l : Launch) (below : List DWord) (a : DWord) (trap : Bool) (die core wslot : Nat)
    (h : s.MemOk) : (s.cancelLaunch l below a trap die core wslot).MemOk := by
  unfold State.cancelLaunch
  dsimp only
  split
  · exact memOk_drainLaunch _ _ _ _ (memOk_markAll _ _ _ _ _ h)
  · exact memOk_drainLaunch _ _ _ _ (memOk_markAll _ _ _ _ _ h)

theorem memOk_start {s : State} (q : Reader) (l : Launch) (p : Phys) (old : BitVec 256) (above : List (DWord × BitVec 256))
    (core wslot : Nat) (h : s.MemOk) : (s.start q l p old above core wslot).MemOk := by
  unfold State.start
  dsimp only
  split
  · exact memOk_physWrite h _ _
  · exact memOk_cancelLaunch _ _ _ _ _ _ _ (memOk_physWrite h _ _)

theorem memOk_cancelUnder {s : State} (q : Reader) (top : Phys) (a : DWord) (trap : Bool) (core wslot : Nat)
    (ls : List Launch) (h : s.MemOk) : (s.cancelUnder q top a trap core wslot ls).MemOk := by
  induction ls generalizing s with
  | nil => exact h
  | cons l ls ih =>
    unfold State.cancelUnder
    refine ih ?_
    split
    · exact h
    · exact memOk_cancelLaunch _ _ _ _ _ _ _ h

theorem memOk_cancelCounter {s : State} (q : Reader) (ctx : Nat) (a : DWord) (trap : Bool) (core wslot : Nat) (h : s.MemOk) :
    AllOk (fun u => u) (s.cancelCounter q ctx a trap core wslot) := by
  unfold State.cancelCounter
  split
  · exact allOk_error
  · split
    · exact allOk_error
    · exact allOk_ok (memOk_cancelUnder _ _ _ _ _ _ _ (memOk_physWrite h _ _))

theorem memOk_completeHeld {s : State} (w : WaveRef) (k : Nat) (reach : Option Nat) (glob : Bool) (h : s.MemOk) :
    (s.completeHeld w k reach glob).MemOk := by
  unfold State.completeHeld
  split
  · exact h
  · split
    · exact h
    · exact memOk_modWave (memOk_spread (memOk_performNear h _) _ _ _ _) _ _ _

theorem memOk_completeNear {s : State} (k : Nat) (glob : Bool) (h : s.MemOk) : (s.completeNear k glob).MemOk := by
  unfold State.completeNear
  split
  · exact h
  · split
    · exact memOk_performNear h _
    · exact h

theorem memOk_addEarly {s : State} (c : Ctx) (h : Held) (ok : s.MemOk) : (s.addEarly c h).MemOk := by
  unfold State.addEarly
  exact ok

theorem memOk_earlyGlobal {s : State} (w : WaveRef) (t va n : Nat) (h : s.MemOk) : (s.earlyGlobal w t va n).MemOk := by
  unfold State.earlyGlobal
  split
  · exact h
  · split
    · exact h
    · split
      · exact h
      · exact memOk_addEarly _ _ h

theorem memOk_completeLoad {s : State} (w : WaveRef) (k : Nat) (glob : Bool) (h : s.MemOk) : (s.completeLoad w k glob).MemOk := by
  unfold State.completeLoad
  split
  · exact h
  · split
    · exact h
    · exact memOk_performLoad h _ _ _

theorem memOk_keep {s : State} (die ctx va level : Nat) (block : Bool) (h : s.MemOk) : (s.keep die ctx va level block).MemOk := by
  unfold State.keep
  split
  · exact h
  · split
    · exact h
    · exact h

theorem memOk_pollHead {s : State} (d : Nat) (h : s.MemOk) : (s.pollHead d).MemOk := by
  unfold State.pollHead
  split
  · exact memOk_flushRecords _ h
  · exact h

theorem memOk_abandon {s : State} (e : Eng) (op : CopyOp) (cause : Nat) (h : s.MemOk) : (s.abandon e op cause).MemOk := by
  unfold State.abandon
  dsimp only
  split
  · exact memOk_logError _ _ _ _ _ _ _ h
  · exact h

end Sys2Proof.Machine
end

section
/-! SUPPORT. Copies and streams keep the memories in the canonical form (O6). -/

namespace Sys2Proof.Machine

theorem memOk_copyResume {s : State} (e : Eng) (op : CopyOp) (k : State) (h : s.MemOk) (hk : k.MemOk) :
    (s.copyResume e op k).MemOk := by
  unfold State.copyResume
  split
  · exact hk
  · split
    · exact h
    · exact hk
    · exact memOk_abandon _ _ _ h

theorem memOk_storesFirst {s : State} (e : Eng) (h : Held) (ok : s.MemOk) : (s.storesFirst e h).MemOk := by
  unfold State.storesFirst
  split
  · exact ok
  · dsimp only
    refine memOk_modEng _ _ (memOk_foldl _ (fun _ x ht => ?_) _ (memOk_performNear ok _))
    exact memOk_perform ht _

theorem memOk_settleRegs {s : State} (e : Eng) (h : s.MemOk) : (s.settleRegs e).MemOk := by
  unfold State.settleRegs
  split
  · exact h
  · dsimp only
    refine memOk_modEng _ _ (memOk_foldl _ (fun _ x ht => ?_) _ h)
    exact memOk_perform ht _

theorem memOk_engFault {s : State} (e : Eng) (thread : Nat) (f : AFault) (h : s.MemOk) : (s.engFault e thread f).1.MemOk := by
  unfold State.engFault
  split
  · exact memOk_postFault _ _ h
  · exact h
  · exact h
  · exact h
  · exact h

theorem memOk_copyStops {s : State} (e : Eng) (op : CopyOp) (f : AFault) (h : s.MemOk) : (s.copyStops e op f).MemOk := by
  unfold State.copyStops
  split
  · split
    rename_i t r e
    exact memOk_fst (t := t) (memOk_engFault _ _ _ h) e
  · exact memOk_abandon _ _ _ h

theorem memOk_copySp {s : State} (e : Eng) (t ea : Nat) (bs : List Byte) (h : s.MemOk) :
    AllOk (fun u => u) (s.copySp e t ea bs) := by
  unfold State.copySp
  split
  · exact allOk_ok h
  · split
    · exact allOk_error
    · split
      · exact allOk_ok (memOk_spWrite _ _ h)
      · split
        · exact allOk_ok h
        · exact allOk_ok (memOk_spWrite _ _ h)

theorem allOk_foldl {ε α β : Type} {f : α → State} {g : Except ε α → β → Except ε α}
    (hg : ∀ x b, AllOk f x → AllOk f (g x b)) (bs : List β) {x : Except ε α} (hx : AllOk f x) : AllOk f (bs.foldl g x) := by
  induction bs generalizing x with
  | nil => exact hx
  | cons b bs ih => exact ih (hg x b hx)

theorem memOk_engWrite {s : State} (e : Eng) (priv : Bool) (va : Nat) (bs : List Byte) (h : s.MemOk) :
    AllOk (fun u => u) (s.engWrite e priv va bs) := by
  refine allOk_foldl (fun x b hx => ?_) _ (allOk_ok h)
  split
  · exact allOk_error
  · split
    · exact allOk_error
    · exact allOk_ok (memOk_physWrite (hx _ rfl) _ _)

theorem memOk_memberWrite {s : State} (off : Nat) (bs : List Byte) (gs : List Nat) (h : s.MemOk) :
    (s.memberWrite off bs gs).MemOk := by
  induction gs generalizing s with
  | nil => exact h
  | cons g gs ih =>
    unfold State.memberWrite
    refine ih ?_
    split
    · split <;> exact h
    · exact h

theorem memOk_copyDest {s : State} (e : Eng) (op : CopyOp) (bs : List Byte) (h : s.MemOk) :
    AllOk (fun u => u) (s.copyDest e op bs) := by
  have hsp := memOk_copySp e op.thread (op.d.toNat + op.done) bs h
  have hgl := memOk_engWrite e op.priv (op.d.toNat + op.done) bs h
  have hmc : AllOk (fun u => u) (if s.memberDown e op.members then .error (.ecc op.d)
      else .ok (s.memberWrite ((op.d.toNat + op.done) % 2 ^ 24) bs op.members) : Except AFault State) := by
    split
    · exact allOk_error
    · exact allOk_ok (memOk_memberWrite _ _ _ h)
  unfold State.copyDest
  dsimp only
  split
  · exact hsp
  · exact hgl
  · exact hsp
  · exact hgl
  · exact hmc
  · exact hmc
  · exact allOk_ok (memOk_physWrite h _ _)
  · split
    · exact hsp
    · exact hgl
  · exact allOk_ok h

theorem memOk_engSpWrite {s : State} (g : Group) (ea : Nat) (bs : List Byte) (h : s.MemOk) : (s.engSpWrite g ea bs).MemOk := by
  unfold State.engSpWrite
  split
  · exact h
  · split
    · exact h
    · exact memOk_spWrite _ _ h

theorem memOk_arrival {s : State} (g : Group) (ea n : Nat) (h : s.MemOk) : (s.arrival g ea n).MemOk := by
  unfold State.arrival
  exact memOk_engSpWrite _ _ _ h

theorem memOk_copyArrive {s : State} (e : Eng) (op : CopyOp) (h : s.MemOk) : (s.copyArrive e op).MemOk := by
  unfold State.copyArrive
  split
  · exact h
  · split
    · refine memOk_foldl _ (fun t g ht => ?_) _ h
      split
      · split <;> exact ht
      · exact ht
    · exact memOk_arrival _ _ _ h

theorem memOk_copyMoved {s : State} (e : Eng) (op : CopyOp) (n : Nat) (h : s.MemOk) : (s.copyMoved e op n).1.MemOk := by
  unfold State.copyMoved
  dsimp only
  split
  · exact h
  · split
    · exact memOk_abandon _ _ _ (memOk_settleRegs _ h)
    · exact memOk_modEng _ _ (memOk_copyArrive _ _ (memOk_settleRegs _ h))

theorem memOk_copySector {s0 : State} (e : Eng) (op : CopyOp) (h : s0.MemOk) : (s0.copySector e op).1.MemOk := by
  unfold State.copySector
  dsimp only
  split
  · split
    · refine memOk_copyStops _ _ _ (memOk_foldl _ (fun _ x ht => ?_) _ (memOk_settleRegs _ h))
      exact memOk_storesFirst _ _ ht
    · refine memOk_foldl _ (fun _ x ht => ?_) _ (memOk_settleRegs _ h)
      exact memOk_storesFirst _ _ ht
  · split
    · refine memOk_copyStops _ _ _ (memOk_foldl _ (fun _ x ht => ?_) _ (memOk_settleRegs _ h))
      exact memOk_storesFirst _ _ ht
    · rename_i t e1
      refine memOk_copyMoved _ _ _ (memOk_touchAll _ _ (memOk_copyDest _ _ _ ?_ t e1))
      refine memOk_foldl _ (fun _ x ht => ?_) _ (memOk_settleRegs _ h)
      exact memOk_storesFirst _ _ ht

theorem memOk_copySectors {s : State} (e : Eng) (n : Nat) (op : CopyOp) (h : s.MemOk) : (s.copySectors e n op).MemOk := by
  induction n generalizing s op with
  | zero => exact h
  | succ n ih =>
    unfold State.copySectors
    split
    · rename_i e1
      exact memOk_fst (memOk_copySector _ _ h) e1
    · rename_i e1
      exact ih _ (memOk_fst (memOk_copySector _ _ h) e1)

theorem memOk_copyNow {s : State} (e : Eng) (n : Nat) (op : CopyOp) (h : s.MemOk) : (s.copyNow e n op).MemOk := by
  unfold State.copyNow
  exact memOk_copyResume _ _ _ h (memOk_copySectors _ _ _ h)

theorem memOk_performCopy {s : State} (e : Eng) (n : Nat) (h : s.MemOk) : (s.performCopy e n).MemOk := by
  unfold State.performCopy
  split
  · exact h
  · split
    · exact h
    · exact memOk_copyNow _ _ _ h

theorem memOk_streamRun {s : State} (e : Eng) (k n : Nat) (x : Stream) (h : s.MemOk) : (s.streamRun e k n x).MemOk := by
  induction n generalizing s x with
  | zero => exact h
  | succ n ih =>
    unfold State.streamRun
    split
    · exact h
    · exact memOk_modEng _ _ (memOk_engFault _ _ _ h)
    · dsimp only
      split
      · exact memOk_modEng _ _ (memOk_touchAll _ _ h)
      · exact ih _ (memOk_touchAll _ _ h)

theorem memOk_streamDeliver {s : State} (e : Eng) (k : Nat) (h : s.MemOk) : (s.streamDeliver e k).MemOk := by
  unfold State.streamDeliver
  dsimp only
  split
  · exact h
  · split
    · exact memOk_streamRun _ _ _ _ h
    · split
      · exact h
      · exact memOk_streamRun _ _ _ _ h
      · exact h

end Sys2Proof.Machine
end

section
/-! SUPPORT. Matrix entries keep the memories in the canonical form (O6). -/

namespace Sys2Proof.Machine

theorem memOk_startEntry {s : State} (xs : List Entrant) (x : Entrant) (h : s.MemOk) : (s.startEntry xs x).MemOk := by
  unfold State.startEntry
  refine memOk_modEntry _ _ (memOk_foldl _ (fun _ x ht => ?_) _ h)
  split <;> exact ht

theorem memOk_startTile {s t : State} {c pq : Nat} {r : WaveRef} (e : s.startTile c pq r = some t) (h : s.MemOk) : t.MemOk := by
  unfold State.startTile at e
  dsimp only at e
  split at e
  · cases e
  · split at e
    · cases e
    · split at e
      · cases e
        exact memOk_startEntry _ _ h
      · cases e

theorem memOk_logOperand {s : State} (e : Eng) (op : MatOp) (which : Nat) (at_ : List Nat) (h : s.MemOk) :
    (s.logOperand e op which at_).MemOk := by
  unfold State.logOperand
  exact memOk_logError _ _ _ _ _ _ _ h

theorem memOk_logOperands {s : State} (e : Eng) (op : MatOp) (which row rows kg : Nat) (f : Word) (o : OperandData)
    (h : s.MemOk) : (s.logOperands e op which row rows kg f o).MemOk := by
  unfold State.logOperands
  split
  · exact h
  · dsimp only
    refine memOk_foldl _ (fun _ x ht => ?_) _ (memOk_foldl _ (fun _ x ht => ?_) _ h)
    · split
      · exact memOk_logOperand _ _ _ _ ht
      · exact ht
    · split
      · exact memOk_logOperand _ _ _ _ ht
      · exact ht

theorem memOk_performMma {s : State} (e : Eng) (op : MatOp) (sq : Option (Fin 4)) (h : s.MemOk) :
    (s.performMma e op sq).MemOk := by
  unfold State.performMma
  extract_lets db b run
  have hrun : ∀ t a lost, t.MemOk → (run t a lost).MemOk := fun _ _ _ ht => memOk_matDone _ _ _
    (memOk_logOperands _ _ _ _ _ _ _ _ ht)
  split
  · exact hrun _ _ _ (memOk_logOperands _ _ _ _ _ _ _ _ h)
  · dsimp only
    split
    · exact hrun _ _ _ (memOk_foldl _ (fun _ i ht => memOk_logOperands _ _ _ _ _ _ _ _ ht) _ (memOk_modEng _ _ h))
    · exact h

theorem memOk_performAld {s : State} (e : Eng) (op : MatOp) (h : s.MemOk) : (s.performAld e op).MemOk := by
  unfold State.performAld
  dsimp only
  refine memOk_matDone _ _ _ (memOk_foldl _ (fun _ x ht => ?_) _ h)
  exact memOk_logOperands _ _ _ _ _ _ _ _ ht

theorem memOk_logRow {s : State} (e : Eng) (op : MatOp) (row : Nat) (h : s.MemOk) : (s.logRow e op row).MemOk := by
  unfold State.logRow
  split
  · exact memOk_logOperand _ _ _ _ h
  · exact h

theorem memOk_writeRow {s : State} (g : Group) (ea : Nat) (bs : List Byte) (h : s.MemOk) : (s.writeRow g ea bs).MemOk := by
  unfold State.writeRow
  refine memOk_foldl _ (fun _ x ht => ?_) _ h
  exact memOk_engSpWrite _ _ _ ht

theorem memOk_performAst {s : State} (e : Eng) (op : MatOp) (h : s.MemOk) : (s.performAst e op).MemOk := by
  unfold State.performAst
  dsimp only
  refine memOk_matDone _ _ _ (memOk_foldl _ (fun _ x ht => ?_) _ h)
  exact memOk_logRow _ _ _ (memOk_writeRow _ _ _ ht)

end Sys2Proof.Machine
end

section
/-! SUPPORT. The requests of the hash unit keep the memories in the canonical form (O6). -/

namespace Sys2Proof.Machine

theorem memOk_hruFail {s : State} (e : Eng) (r : HReq) (k cause addr : Nat) (more : List Nat) (h : s.MemOk) :
    (s.hruFail e r k cause addr more).MemOk := by
  unfold State.hruFail
  dsimp only
  split
  · refine memOk_engSpWrite _ _ _ (memOk_modEng _ _ ?_)
    split
    · refine memOk_modSlot _ _ ?_
      split <;> exact h
    · split <;> exact h
  · refine memOk_modEng _ _ ?_
    split
    · refine memOk_modSlot _ _ ?_
      split <;> exact h
    · split <;> exact h

theorem memOk_writeList {s : State} (g : Group) (ea : Nat) (head : List Byte) (entries : List Byte) (h : s.MemOk) :
    (s.writeList g ea head entries).MemOk := by
  unfold State.writeList
  exact memOk_engSpWrite _ _ _ (memOk_engSpWrite _ _ _ h)

theorem memOk_hruStop {s : State} (e : Eng) (r : HReq) (k : Nat) (f : HFail) (h : s.MemOk) : (s.hruStop e r k f).MemOk := by
  unfold State.hruStop
  split
  · exact memOk_hruFail _ _ _ _ _ _ h
  · exact memOk_modReq _ _ (memOk_postFault _ _ h)

theorem memOk_probeStep {s : State} (e : Eng) (r : HReq) (h : s.MemOk) : (s.probeStep e r).MemOk := by
  unfold State.probeStep
  split
  · dsimp only
    split
    · exact memOk_hruFail _ _ _ _ _ _ h
    · exact memOk_modEng _ _ (memOk_writeList _ _ _ _ h)
  · dsimp only
    split
    · exact memOk_hruFail _ _ _ _ _ _ h
    · split
      · exact h
      · split
        · exact memOk_hruFail _ _ _ _ _ _ h
        · split
          · exact memOk_hruStop _ _ _ _ h
          · exact memOk_modReq _ _ (memOk_touchAll _ _ h)

theorem memOk_hruWrite {s : State} (k va : Nat) (bs : List Byte) (h : s.MemOk) : (s.hruWrite k va bs).1.MemOk := by
  refine List.foldlRecOn (motive := fun r : State × Option HFail => r.1.MemOk) _ _ h fun r hr x _ => ?_
  split
  · exact hr
  · split
    · exact hr
    · exact memOk_physWrite hr _ _

theorem memOk_writeChain {s : State} (k : Nat) (bs : List Bucket) (h : s.MemOk) : AllOk (fun u => u) (s.writeChain k bs) := by
  refine allOk_foldl (fun x b hx => ?_) _ (allOk_ok h)
  split
  · exact allOk_error
  · split
    · exact allOk_error
    · rename_i e
      have h1 := memOk_fst (memOk_hruWrite _ _ _ (hx _ rfl)) e
      split
      · exact allOk_error
      · rename_i e1
        exact allOk_ok (memOk_fst (memOk_hruWrite _ _ _ h1) e1)

theorem memOk_hruInsert {s : State} (g k : Nat) (i : Word) (b : Nat) (h : s.MemOk) : AllOk Prod.fst (s.hruInsert g k i b) := by
  refine allOk_bind fun ch _ => ?_
  split
  · exact allOk_error
  · exact allOk_map fun u e => memOk_touchAll _ _ (memOk_writeChain _ _ h u e)

theorem memOk_insStep {s : State} (e : Eng) (r : HReq) (h : s.MemOk) : (s.insStep e r).MemOk := by
  unfold State.insStep
  split
  · exact h
  · split
    · exact memOk_hruFail _ _ _ _ _ _ h
    · split
      · exact memOk_hruStop _ _ _ _ h
      · dsimp only
        split
        · exact memOk_hruStop (s := s.modReq e _) _ _ _ _ h
        · rename_i hins
          have hx := allOk_bind (f := fun x => x.2.1) (fun b _ => allOk_map fun y hy => memOk_hruInsert _ _ _ _ h y hy) _ hins
          split
          · exact memOk_hruFail _ _ _ _ _ _ (memOk_touchAll _ _ hx)
          · exact memOk_touchAll _ _ hx

theorem memOk_hruDelete {s : State} (g k : Nat) (i : Word) (b : Nat) (h : s.MemOk) :
    AllOk (fun u => u) (s.hruDelete g k i b) := by
  refine allOk_bind fun ch _ => ?_
  split
  · exact allOk_error
  · have ht := memOk_touchAll g (bucketRanges (s.hruSlot k).desc ch) h
    dsimp only
    split
    · exact allOk_ok ht
    · exact allOk_map fun u e => memOk_writeChain _ _ ht u e

theorem memOk_delStep {s : State} (e : Eng) (r : HReq) (scan : Bool) (h : s.MemOk) : (s.delStep e r scan).MemOk := by
  unfold State.delStep
  split
  · exact h
  · split
    · exact memOk_hruFail _ _ _ _ _ _ h
    · split
      · split
        · exact memOk_hruStop _ _ _ _ h
        · rename_i hdel
          exact memOk_modReq _ _ (memOk_hruDelete _ _ _ _ h _ hdel)
      · split
        · exact memOk_hruStop _ _ _ _ h
        · split
          · exact memOk_hruStop (s := s.modReq e _) _ _ _ _ h
          · rename_i hdel
            exact memOk_modReq _ _ (memOk_touchAll _ _ (allOk_bind (fun b _ => memOk_hruDelete _ _ _ b h) _ hdel))

theorem memOk_rehashStep {s : State} (e : Eng) (r : HReq) (h : s.MemOk) : (s.rehashStep e r).MemOk := by
  unfold State.rehashStep
  split
  · split
    · exact memOk_hruFail _ _ _ _ _ _ h
    · split
      · exact memOk_hruStop (s := s.modReq e _) _ _ _ _ h
      · dsimp only
        split
        · exact memOk_hruFail _ _ _ _ _ _ h
        · exact memOk_touchAll _ _ h
  · split
    · split
      · exact h
      · dsimp only
        split
        · rename_i hw
          exact memOk_hruStop _ _ _ _ (memOk_modReq _ _ (memOk_fst (memOk_hruWrite _ _ _ h) hw))
        · rename_i hw
          exact memOk_hruStop _ _ _ _ (memOk_fst (memOk_hruWrite _ _ _ h) hw)
        · rename_i hw
          exact memOk_modReq _ _ (memOk_touchAll _ _ (memOk_fst (memOk_hruWrite _ _ _ h) hw))
    · split
      · exact memOk_hruFail _ _ _ _ _ _ h
      · split
        · exact memOk_hruFail _ _ _ _ _ _ h
        · split
          · split
            · exact memOk_hruStop _ _ _ _ h
            · rename_i hdel
              exact memOk_modReq _ _ (memOk_hruDelete _ _ _ _ h _ hdel)
          · split
            · exact memOk_hruStop _ _ _ _ h
            · dsimp only
              split
              · exact memOk_modReq _ _ (memOk_touchAll _ _ h)
              · split
                · exact memOk_hruStop _ _ _ _ (memOk_touchAll _ _ h)
                · rename_i u res hins
                  have hu := memOk_hruInsert _ _ _ _ (memOk_touchAll _ _ h) _ hins
                  split
                  · exact memOk_modReq _ _ hu
                  · exact memOk_modReq _ _ hu
                  · exact memOk_modReq _ _ (memOk_modSlot _ _ hu)
                  · exact memOk_hruFail _ _ _ _ _ _ (memOk_modSlot _ _ hu)

theorem memOk_clearBucket {s : State} (k b w : Nat) (h : s.MemOk) : (s.clearBucket k b w).1.MemOk := by
  unfold State.clearBucket
  dsimp only
  split
  · rename_i hw
    exact memOk_fst (memOk_hruWrite _ _ _ h) hw
  · rename_i hw
    exact memOk_fst (memOk_hruWrite _ _ _ h) hw
  · rename_i hw
    have h1 := memOk_fst (memOk_hruWrite _ _ _ h) hw
    split
    · rename_i hx
      exact memOk_fst (memOk_hruWrite _ _ _ h1) hx
    · rename_i hx
      exact memOk_fst (memOk_hruWrite _ _ _ h1) hx
    · rename_i hx
      exact memOk_fst (memOk_hruWrite _ _ _ h1) hx

theorem memOk_clearBuckets {s : State} (k n b w : Nat) (h : s.MemOk) : (s.clearBuckets k n b w).1.MemOk := by
  induction n generalizing s b w with
  | zero => exact h
  | succ n ih =>
    unfold State.clearBuckets
    split
    · rename_i e
      exact memOk_fst (memOk_clearBucket _ _ _ h) e
    · rename_i e
      exact ih _ _ (memOk_fst (memOk_clearBucket _ _ _ h) e)

theorem memOk_setNow {s : State} (e : Eng) (r : HReq) (op : Nat) (h : s.MemOk) : (s.setNow e r op).MemOk := by
  unfold State.setNow
  extract_lets k v t
  have ht : t.MemOk := h
  split
  · split
    · exact memOk_hruStop _ _ _ _ (memOk_modReq _ _ ht)
    · exact memOk_popReq _ (memOk_modSlot _ _ (memOk_touchAll _ _ ht))
  · split
    · rename_i t1 b w f e1
      exact memOk_hruStop _ _ _ _ (memOk_modReq _ _ (memOk_fst (memOk_clearBuckets _ _ _ _ ht) e1))
    · rename_i t1 e1
      exact memOk_popReq _ (memOk_modSlot _ _ (memOk_touchAll _ _ (memOk_fst (memOk_clearBuckets _ _ _ _ ht) e1)))
  · exact h
  · split
    · exact memOk_hruFail _ _ _ _ _ _ h
    · exact memOk_engSpWrite _ _ _ h

theorem memOk_setStep {s : State} (e : Eng) (r : HReq) (op : Nat) (h : s.MemOk) : (s.setStep e r op).MemOk := by
  unfold State.setStep
  split
  · split
    · exact h
    · exact memOk_setNow _ _ _ h
  · dsimp only
    split
    · refine memOk_setNow _ _ _ (memOk_modReq _ _ ?_)
      split <;> exact h
    · refine memOk_modReq _ _ ?_
      split <;> exact h

theorem memOk_hruStep {s : State} (e : Eng) (r : HReq) (h : s.MemOk) : (s.hruStep e r).MemOk := by
  unfold State.hruStep
  split
  · exact memOk_probeStep _ _ h
  · exact memOk_insStep _ _ h
  · exact memOk_delStep _ _ _ h
  · exact memOk_rehashStep _ _ h
  · exact memOk_setStep _ _ _ h

theorem memOk_hruResume {s : State} (e : Eng) (r : HReq) (h : s.MemOk) : (s.hruResume e r).MemOk := by
  unfold State.hruResume
  split
  · exact memOk_hruStep _ _ h
  · split
    · exact h
    · exact memOk_hruStep _ _ h
    · dsimp only
      exact memOk_hruFail _ _ _ _ _ _ h

end Sys2Proof.Machine
end

section
/-! SUPPORT. Gates and the fabric keep the memories in the canonical form (O6). -/

namespace Sys2Proof.Machine

theorem memOk_gateOut {s : State} (e : Eng) (r : GReq) (k : State) (h : s.MemOk) (hk : k.MemOk) : (s.gateOut e r k).MemOk := by
  unfold State.gateOut
  split
  · exact h
  · exact hk

theorem memOk_gateTopk {s : State} (e : Eng) (r : GReq) (outpair asc : Bool) (m : MergeKind) (dd : Bool) (h : s.MemOk) :
    (s.gateTopk e r outpair asc m dd).MemOk := by
  unfold State.gateTopk
  dsimp only
  exact memOk_gateOut _ _ _ h (memOk_modEng _ _ (memOk_writeList _ _ _ _ h))

theorem memOk_gatePsn {s : State} (e : Eng) (r : GReq) (psn : Bool) (h : s.MemOk) : (s.gatePsn e r psn).MemOk := by
  unfold State.gatePsn
  split
  · exact memOk_logError _ _ _ _ _ _ _ h
  · exact h

theorem memOk_gateHist {s : State} (e : Eng) (r : GReq) (weight add : Bool) (h : s.MemOk) :
    (s.gateHist e r weight add).MemOk := by
  unfold State.gateHist
  dsimp only
  split
  · exact h
  · exact memOk_gateOut _ _ _ h (memOk_modEng _ _ (memOk_gatePsn _ _ _ (memOk_engSpWrite _ _ _ h)))

theorem memOk_gateScan {s : State} (e : Eng) (r : GReq) (total f32 incl : Bool) (h : s.MemOk) :
    (s.gateScan e r total f32 incl).MemOk := by
  unfold State.gateScan
  dsimp only
  exact memOk_gateOut _ _ _ h (memOk_modEng _ _ (memOk_gatePsn _ _ _ (memOk_engSpWrite _ _ _ h)))

theorem memOk_gatePerm {s : State} (e : Eng) (r : GReq) (outpair : Bool) (h : s.MemOk) : (s.gatePerm e r outpair).MemOk := by
  unfold State.gatePerm
  dsimp only
  split
  · exact h
  · exact memOk_gateOut _ _ _ h (memOk_modEng _ _ (memOk_writeList _ _ _ _ (memOk_engSpWrite _ _ _ h)))

theorem memOk_fabricMove {s : State} (e : Eng) (op : CopyOp) (h : s.MemOk) : (s.fabricMove e op).MemOk := by
  unfold State.fabricMove
  exact memOk_copyResume _ _ _ h (memOk_copySectors _ _ _ h)

theorem memOk_fabricNow {s : State} (e : Eng) (ans : PeerAnswer) (op : CopyOp) (l : Nat) (h : s.MemOk) :
    (s.fabricNow e ans op l).MemOk := by
  unfold State.fabricNow
  split
  · exact memOk_abandon _ _ _ h
  · split
    · exact memOk_fabricMove _ _ h
    · exact memOk_abandon _ _ _ h
    · exact memOk_abandon _ _ _ h
    · split
      · exact h
      · exact memOk_abandon _ _ _ h

theorem memOk_performFabric {s : State} (e : Eng) (ans : PeerAnswer) (h : s.MemOk) : (s.performFabric e ans).MemOk := by
  unfold State.performFabric
  split
  · exact h
  · split
    · exact h
    · split
      · exact memOk_fabricNow _ _ _ _ h
      · exact h

theorem memOk_sendTimeout {s : State} (e : Eng) (h : s.MemOk) : (s.sendTimeout e).MemOk := by
  unfold State.sendTimeout
  split
  · exact h
  · split
    · exact h
    · split
      · exact memOk_abandon _ _ _ h
      · exact h

end Sys2Proof.Machine
end

section
/-! SUPPORT. Claims, the slew limit and the dispatcher keep the memories in the canonical form (O6). -/

namespace Sys2Proof.Machine

theorem memOk_serveClaim {s : State} (g : Nat) (h : s.MemOk) : (s.serveClaim g).MemOk := by
  unfold State.serveClaim
  split
  · exact h
  · split
    · exact h
    · split
      · split
        · exact h
        · split
          · exact memOk_takeTrap _ _ h
          · exact h
      · exact h

theorem memOk_engineCycle {s : State} (c pq : Nat) (h : s.MemOk) : (s.engineCycle c pq).MemOk := by
  unfold State.engineCycle
  dsimp only
  split
  · exact h
  · split
    · exact h
    · exact memOk_modEntry _ _ (memOk_startEntry _ _ h)

theorem memOk_engineCycles {s : State} (c pq n : Nat) (h : s.MemOk) : (s.engineCycles c pq n).MemOk := by
  induction n generalizing s with
  | zero => exact h
  | succ n ih => exact ih (memOk_engineCycle _ _ h)

theorem memOk_slewStep {s : State} (c : Nat) (h : s.MemOk) : (s.slewStep c).MemOk := by
  unfold State.slewStep
  extract_lets oldest qs a work t
  have ht : t.MemOk := memOk_foldl _ (fun _ x ht => memOk_engineCycles c x.1 x.2 ht) _ h
  exact ht

theorem memOk_checkLog {s : State} (l : Launch) (h : s.MemOk) : (s.checkLog l).MemOk := by
  unfold State.checkLog
  split
  · split
    · exact h
    · exact memOk_drainLaunch _ _ _ _ (memOk_launchChange _ _ _ _ _ h)
  · exact h

theorem memOk_lift {s : State} (h : s.MemOk) : s.lift.MemOk := h

theorem memOk_survey {s : State} (h : s.MemOk) : s.survey.MemOk :=
  memOk_lift (memOk_look (memOk_foldl _ (fun _ l ht => memOk_checkLog l ht) _ h))

theorem memOk_entryTrap {s : State} (g : Group) (h : s.MemOk) : (s.entryTrap g).MemOk := by
  unfold State.entryTrap
  split
  · exact h
  · split
    · exact h
    · exact memOk_takeTrap _ _ h

theorem memOk_groupChange {s : State} (g : Group) (x : Change) (h : s.MemOk) : (s.groupChange g x).MemOk := by
  unfold State.groupChange
  exact memOk_change _ h

theorem memOk_poolTaken {s : State} (g : Group) (h : s.MemOk) : (s.poolTaken g).MemOk := by
  unfold State.poolTaken
  split
  · exact h
  · split
    · refine memOk_groupChange _ _ ?_
      split
      · exact memOk_writePlaces h _ _
      · exact h
    · exact h

theorem memOk_logDispatch {s : State} (g : Group) (h : s.MemOk) : (s.logDispatch g).MemOk := by
  unfold State.logDispatch
  split
  · exact h
  · split
    · exact memOk_groupChange _ _ (memOk_groupChange _ _ h)
    · exact h

theorem memOk_putGroup {s : State} (l : Launch) (p : Plan) (cluster lcore core : Nat) (band : Option (Nat × Nat × Nat))
    (h : s.MemOk) : (s.putGroup l p cluster lcore core band).1.MemOk := by
  unfold State.putGroup
  dsimp only
  exact memOk_entryTrap _ (memOk_poolTaken _ (memOk_logDispatch _ h))

theorem memOk_putAll {s : State} (l : Launch) (band : Option Nat) (n ix : Nat) (ps : List (Plan × Nat × Nat × Nat))
    (h : s.MemOk) :
    (s.putAll l band n ix ps).MemOk := by
  induction ps generalizing s l ix with
  | nil => exact h
  | cons p ps ih => exact ih _ _ (memOk_putGroup _ _ _ _ _ _ h)

theorem memOk_putPlans {s : State} (l : Launch) (ps : List Plan) (at_ : List (Nat × Nat × Nat)) (h : s.MemOk) :
    (s.putPlans l ps at_).MemOk := by
  unfold State.putPlans
  extract_lets banded s1 s2
  have h1 : s1.MemOk := by
    unfold s1
    split <;> exact h
  have h2 : s2.MemOk := memOk_putAll _ _ _ _ _ h1
  exact h2

theorem memOk_takeVictim {s : State} (l : Launch) (ps : List Plan) (h : s.MemOk) : (s.takeVictim l ps).MemOk := by
  unfold State.takeVictim
  dsimp only
  split
  · exact h
  · split <;> exact h

theorem memOk_serve {s : State} (only : Option Nat) (ls : List Launch) (h : s.MemOk) : (s.serve only ls).1.MemOk := by
  induction ls generalizing s with
  | nil => exact h
  | cons l ls ih =>
    unfold State.serve
    split
    · exact ih h
    · dsimp only
      split
      · exact ih h
      · split
        · exact memOk_putPlans _ _ _ h
        · exact ih (memOk_takeVictim _ _ h)

theorem memOk_dispatch {s : State} (h : s.MemOk) : s.dispatch.MemOk :=
  memOk_reap (memOk_look (memOk_serve none s.survey.serviceOrder (memOk_survey h)))

theorem memOk_groupChanges {s : State} (g : Group) (xs : List Change) (h : s.MemOk) : (s.groupChanges g xs).MemOk := by
  induction xs generalizing s with
  | nil => exact h
  | cons x xs ih => exact ih (memOk_groupChange _ _ h)

theorem memOk_completeGroup {s : State} (g : Group) (h : s.MemOk) : (s.completeGroup g).MemOk := by
  unfold State.completeGroup
  split
  · exact h
  · extract_lets s1 s2
    have h2 : s2.MemOk := memOk_groupChanges _ _ (memOk_foldl _ (fun _ w ht => memOk_drain ht g.id w.wix) _ h)
    exact memOk_reap (memOk_look h2)

theorem memOk_poolCommit {s : State} (l : Launch) (h : s.MemOk) : (s.poolCommit l).MemOk := by
  unfold State.poolCommit
  split
  · exact h
  · split
    · exact h
    · split
      · split
        · exact memOk_reap (memOk_launchChange _ _ _ _ _ h)
        · exact h
      · dsimp only
        split
        · split
          · exact memOk_dispatch (memOk_look h)
          · exact memOk_look h
        · exact memOk_look h

theorem memOk_commitDispatch {s : State} (lid n : Nat) (h : s.MemOk) : (s.commitDispatch lid n).MemOk := by
  induction n generalizing s with
  | zero => exact h
  | succ n ih =>
    have hs := memOk_survey h
    unfold State.commitDispatch
    dsimp only
    split
    · exact hs
    · have ht := memOk_serve (some lid) ((s.survey.serviceOrder.takeWhile fun x => x.id != lid) ++ [‹Launch›]) hs
      split
      · exact ih ht
      · exact ht

theorem memOk_serveClaims {s : State} (g n : Nat) (h : s.MemOk) : (s.serveClaims g n).MemOk := by
  induction n generalizing s with
  | zero => exact h
  | succ n ih => exact ih (memOk_serveClaim _ h)

theorem memOk_grantClaims {s : State} (lid : Nat) (h : s.MemOk) : (s.grantClaims lid).MemOk := by
  unfold State.grantClaims
  refine memOk_foldl _ (fun _ x ht => ?_) _ h
  exact memOk_serveClaims _ _ ht

theorem memOk_pollPath {s : State} (r : PathRef) (h : s.MemOk) : (s.pollPath r).MemOk := by
  unfold State.pollPath
  split
  · exact h
  · split
    · split <;> exact h
    · exact memOk_pollTwait _ _ _ _ _ h
    · exact memOk_pollWaita _ _ _ _ _ _ h
    · exact memOk_pollCwait _ _ h
    · exact h

theorem memOk_pollWaits {s : State} (ws : List WaveRef) (h : s.MemOk) : (s.pollWaits ws).MemOk := by
  unfold State.pollWaits
  refine memOk_foldl _ (fun _ x ht => ?_) _ h
  exact memOk_pollPath _ (memOk_pollPath _ ht)

theorem memOk_beginQuantum {s : State} (lid : Nat) (h : s.MemOk) : (s.beginQuantum lid).MemOk := by
  unfold State.beginQuantum
  extract_lets s1 s2 s3
  have h2 : s2.MemOk := h
  have h3 : s3.MemOk := memOk_grantClaims _ (memOk_pollWaits _ h2)
  exact h3

end Sys2Proof.Machine
end

section
/-! SUPPORT. Commits and dumps keep the memories in the canonical form (O6). -/

namespace Sys2Proof.Machine

theorem memOk_performEntry {s : State} (e : CEntry) (h : s.MemOk) : (s.performEntry e).MemOk := by
  unfold State.performEntry
  split
  · exact memOk_physWrite h _ _
  · dsimp only
    exact memOk_physWrite h _ _
  · exact memOk_physWrite h _ _
  · exact memOk_physWrite h _ _

theorem memOk_commitCopy {s : State} (e : Eng) (fuel : Nat) (h : s.MemOk) : (s.commitCopy e fuel).MemOk := by
  unfold State.commitCopy
  split
  · exact h
  · split
    · exact memOk_fabricNow _ _ _ _ h
    · exact memOk_copyNow _ _ _ h

theorem memOk_commitEngines {s : State} (w : WaveRef) (copies : Bool) (n : Nat) (h : s.MemOk) :
    (s.commitEngines w copies n).MemOk := by
  induction n generalizing s copies with
  | zero => exact h
  | succ n ih =>
    unfold State.commitEngines
    split
    · exact h
    · split
      · exact h
      · exact ih _ (memOk_commitCopy _ _ h)
      · refine ih _ ?_
        split
        · exact h
        · exact memOk_hruResume _ _ h
      · exact ih _ (memOk_streamDeliver _ _ h)

theorem memOk_commitWave {s : State} (w : WaveRef) (h : s.MemOk) : (s.commitWave w).MemOk := by
  unfold State.commitWave
  split
  · exact h
  · dsimp only
    refine memOk_commitEngines _ _ _ (memOk_modWave (memOk_foldl _ (fun _ x ht => ?_) _ h) _ _ _)
    exact memOk_performEntry _ ht

theorem memOk_commitMemory {s : State} (l : Launch) (h : s.MemOk) : (s.commitMemory l).MemOk := by
  unfold State.commitMemory
  dsimp only
  refine memOk_foldl _ (fun _ x ht => ?_) _ (memOk_foldl _ (fun _ x ht => ?_) _ h)
  · exact memOk_completeGroup _ ht
  · exact memOk_commitWave _ ht

theorem memOk_commit {s : State} (l : Launch) (h : s.MemOk) : (s.commit l).MemOk := by
  unfold State.commit
  exact memOk_reap (memOk_look (memOk_modLaunch _ _ (memOk_commitDispatch _ _ (memOk_beginQuantum _ (memOk_commitMemory _ h)))))

theorem memOk_giveUp {s : State} (e : Eng) (h : s.MemOk) : (s.giveUp e).1.MemOk := by
  unfold State.giveUp
  extract_lets cq hq ss t u
  have ht : t.MemOk := h
  have hu : u.MemOk := by
    unfold u
    split
    · exact memOk_foldl _ (fun _ k hk => memOk_modSlot k _ hk) _ ht
    · exact ht
  exact hu

theorem memOk_giveUpAll {s : State} (gid : Nat) (ws : List Nat) (h : s.MemOk) : (s.giveUpAll gid ws).1.MemOk := by
  induction ws generalizing s with
  | nil => exact h
  | cons w ws ih =>
    unfold State.giveUpAll
    split
    · exact ih h
    · exact ih (memOk_giveUp _ h)

theorem memOk_haltFor {s : State} (d : Nat) (g : Group) (h : s.MemOk) : (s.haltFor d g).MemOk := by
  unfold State.haltFor
  dsimp only
  refine memOk_modDump _ _ (memOk_giveUpAll _ _ (memOk_foldl _ (fun _ x ht => ?_) _ h))
  exact memOk_drain (memOk_performLoads ht _ _ _) _ _

theorem memOk_endDump {s : State} (d : Nat) (g : Group) (h : s.MemOk) : (s.endDump d g).MemOk := by
  unfold State.endDump
  exact memOk_fatalEnd _ h

theorem memOk_writeSections {s : State} (at_ limit : Nat) (xs : List Section) (h : s.MemOk) :
    (s.writeSections at_ limit xs).1.MemOk := by
  induction xs generalizing s at_ with
  | nil => exact h
  | cons x xs ih =>
    unfold State.writeSections
    dsimp only
    split
    · exact h
    · exact ih _ (memOk_physWrite h _ _)

theorem memOk_writeDump {s : State} (d : DumpReq) (l : Launch) (g : Group) (h : s.MemOk) : (s.writeDump d l g).MemOk := by
  unfold State.writeDump
  dsimp only
  split
  · exact memOk_logError _ _ _ _ _ _ _ h
  · split
    · exact h
    · exact memOk_physWrite (memOk_writeSections _ _ _ h) _ _

theorem memOk_dumpStep {s : State} (d : Nat) (h : s.MemOk) : (s.dumpStep d).MemOk := by
  unfold State.dumpStep
  split
  · exact h
  · split
    · exact h
    · split
      · exact h
      · split
        · exact h
        · split
          · exact memOk_haltFor _ _ h
          · split
            rename_i e3
            split
            · exact memOk_modDump _ _ (memOk_fst (memOk_giveUpAll _ _ h) e3)
            · split
              · exact memOk_endDump _ _ (memOk_writeDump _ _ _ h)
              · exact h

end Sys2Proof.Machine
end

section
/-! SUPPORT. Firmware's writes, jobs and inbound accesses keep the memories in the canonical form (O6). -/

namespace Sys2Proof.Machine

theorem memOk_writeCallow {s : State} (c : Nat) (v : BitVec 512) (h : s.MemOk) : (s.writeCallow c v).MemOk := by
  unfold State.writeCallow
  dsimp only
  refine memOk_foldl _ (fun _ x ht => ?_) _ h
  exact ht

theorem memOk_clearTrailer {s : State} (d a : Nat) (h : s.MemOk) : (s.clearTrailer d a).MemOk := by
  unfold State.clearTrailer
  split
  · exact h
  · exact memOk_devWriteNat _ _ _ h

theorem memOk_writeFqbase {s : State} (d a : Nat) (h : s.MemOk) : (s.writeFqbase d a).MemOk := by
  unfold State.writeFqbase
  dsimp only
  exact memOk_flushRecords _ (memOk_clearTrailer _ _ h)

theorem memOk_writeElbase {s : State} (d a : Nat) (h : s.MemOk) : (s.writeElbase d a).MemOk := by
  unfold State.writeElbase
  dsimp only
  exact memOk_clearTrailer _ _ h

theorem memOk_startCheckpoint {s : State} (h : s.MemOk) : s.startCheckpoint.MemOk := by
  unfold State.startCheckpoint
  split
  · exact h
  · dsimp only
    exact memOk_performEvery h

theorem memOk_startRestore {s : State} (h : s.MemOk) : s.startRestore.MemOk := by
  unfold State.startRestore
  split
  · exact h
  · split <;> exact h

theorem memOk_writeBckgo {s : State} (v : Word) (h : s.MemOk) : (s.writeBckgo v).MemOk := by
  unfold State.writeBckgo
  split
  · exact h
  · split
    · exact memOk_startCheckpoint h
    · split
      · exact memOk_startRestore h
      · exact h

theorem memOk_dumpGo {s : State} (v : Word) (h : s.MemOk) : (s.dumpGo v).MemOk := by
  unfold State.dumpGo
  dsimp only
  split
  · exact h
  · split
    · exact h
    · split
      · exact memOk_requestDump _ _ _ h
      · exact memOk_logError _ _ _ _ _ _ _ h

theorem memOk_nextJob {s : State} (k : Control) (h : s.MemOk) : (s.nextJob k).MemOk := by
  unfold State.nextJob
  dsimp only
  split
  · exact memOk_modIo _ (memOk_modIo _ (memOk_devWriteNat _ _ _ h))
  · exact memOk_modIo _ (memOk_devWriteNat _ _ _ h)

theorem memOk_skipJob {s : State} (k : Control) (h : s.MemOk) : (s.skipJob k).MemOk := by
  unfold State.skipJob
  exact memOk_nextJob _ h

theorem memOk_jobFault {s : State} (k : Control) (f : AFault) (h : s.MemOk) : (s.jobFault k f).MemOk := by
  unfold State.jobFault
  split
  · exact memOk_modIo _ (memOk_postFault _ _ h)
  · exact memOk_modIo _ (memOk_postFault _ _ h)
  · exact memOk_skipJob _ h
  · exact memOk_skipJob _ h
  · exact memOk_skipJob _ h

theorem memOk_inbound {s : State} (a : Nat) (acc : Inbound) (h : s.MemOk) : (s.inbound a acc).MemOk := by
  unfold State.inbound
  split
  · exact h
  · exact memOk_physWrite h _ _
  · split
    · exact memOk_physWrite h _ _
    · exact h

theorem memOk_hostAccess {s : State} (link : Nat) (mailbox : Bool) (addr : Nat) (acc : Inbound) (h : s.MemOk) :
    (s.hostAccess link mailbox addr acc).MemOk := by
  unfold State.hostAccess
  split
  · exact h
  · split
    · split <;> exact h
    · split
      · exact h
      · dsimp only
        split
        · exact memOk_modIo _ (memOk_inbound _ _ h)
        · exact memOk_inbound _ _ h

theorem memOk_ioWrite {s t : State} {ctx va : Nat} {bs : List Byte} (e : s.ioWrite ctx va bs = some t) (h : s.MemOk) :
    t.MemOk := by
  unfold State.ioWrite at e
  split at e
  · cases e
    exact memOk_writePlaces h _ _
  · cases e

theorem memOk_dropEntry {s : State} (i : Nat) (h : s.MemOk) : (s.dropEntry i).MemOk := by
  unfold State.dropEntry
  exact memOk_logError _ _ _ _ _ _ _ h

theorem memOk_arrive {s : State} (link : Nat) (tag : Word) (off : Nat) (bs : List Byte) (h : s.MemOk) :
    (s.arrive link tag off bs).MemOk := by
  unfold State.arrive
  split
  · exact h
  · split
    · exact h
    · split
      · exact h
      · split
        · exact memOk_dropEntry _ h
        · rename_i e1
          dsimp only
          split
          · exact memOk_modIo _ (memOk_modIo _ (memOk_ioWrite e1 h))
          · exact memOk_modIo _ (memOk_ioWrite e1 h)

theorem memOk_appendTask {s : State} (i : Nat) (h : s.MemOk) : (s.appendTask i).MemOk := by
  unfold State.appendTask
  split
  · exact h
  · dsimp only
    split
    · exact memOk_dropEntry _ h
    · split
      · exact memOk_dropEntry _ h
      · split
        · exact h
        · split
          · exact memOk_dropEntry _ h
          · rename_i e1
            split
            · exact memOk_dropEntry _ h
            · rename_i e2
              exact memOk_modIo _ (memOk_modIo _ (memOk_ioWrite e2 (memOk_ioWrite e1 h)))

theorem memOk_laneFail {s : State} (link : Nat) (h : s.MemOk) : (s.laneFail link).MemOk := by
  unfold State.laneFail
  dsimp only
  exact memOk_logError _ _ _ _ _ _ _ h

end Sys2Proof.Machine
end

section
/-! SUPPORT. The Belfry, checkpoints and restores keep the memories in the canonical form (O6). -/

namespace Sys2Proof.Machine

theorem memOk_beginRestore {s : State} (cs : List Nat) (h : s.MemOk) : (s.beginRestore cs).MemOk := by
  induction cs generalizing s with
  | nil => exact h
  | cons c cs ih =>
    unfold State.beginRestore
    refine ih ?_
    split <;> exact h

theorem memOk_setShed {s : State} (c : Nat) (h : s.MemOk) : (s.setShed c).MemOk := by
  unfold State.setShed
  refine memOk_foldl _ (fun _ x ht => ?_) _ h
  exact ht

theorem memOk_shedClass {s : State} (c : Nat) (h : s.MemOk) : (s.shedClass c).MemOk := by
  have h1 := memOk_setShed c h
  exact ⟨h1.1, h1.2.1, h1.2.2⟩

theorem memOk_shedAll {s : State} (cs : List Nat) (h : s.MemOk) : (s.shedAll cs).MemOk := by
  induction cs generalizing s with
  | nil => exact h
  | cons c cs ih =>
    unfold State.shedAll
    refine ih ?_
    split
    · exact memOk_shedClass _ h
    · split
      · exact memOk_setShed _ h
      · exact h

theorem memOk_rateStep {s : State} (k : Nat) (e : Int) (h : s.MemOk) : (s.rateStep k e).MemOk := by
  unfold State.rateStep
  split <;> exact h

theorem memOk_rateSteps {s : State} (e : Int) (ks : List Nat) (h : s.MemOk) : (s.rateSteps e ks).MemOk := by
  induction ks generalizing s with
  | nil => exact h
  | cons k ks ih => exact ih (memOk_rateStep _ _ h)

theorem memOk_rateLoop {s : State} (ps : List (Nat × Int)) (h : s.MemOk) : (s.rateLoop ps).MemOk := by
  induction ps generalizing s with
  | nil => exact h
  | cons p ps ih => exact ih (memOk_rateSteps _ _ h)

theorem memOk_evaluate {s : State} (h : s.MemOk) : s.evaluate.MemOk := by
  unfold State.evaluate
  extract_lets s1 s2
  have h2 : s2.MemOk := memOk_shedAll (s := s1) _ h
  have h3 := memOk_rateLoop (s2.belfry.partOrder.map fun p => (p, s2.rateChange p)) h2
  exact memOk_unattWatch h3

theorem memOk_frame {s : State} (f : BitVec 256) (h : s.MemOk) : (s.frame f).MemOk := by
  unfold State.frame
  split
  · exact h
  · extract_lets s1
    have h0 : (s.modBelfry fun b => b.take f s.ns.toNat).MemOk := h
    have h1 : s1.MemOk := memOk_beginRestore _ (memOk_modBelfry _ (memOk_evaluate h0))
    split
    · exact memOk_startCheckpoint h1
    · exact h1

theorem memOk_period {s : State} (pm : Nat) (pd : List Nat) (h : s.MemOk) : (s.period pm pd).MemOk := by
  unfold State.period
  dsimp only
  exact memOk_evaluate h

theorem memOk_keepShed {s : State} (cs : List Nat) (h : s.MemOk) : (s.keepShed cs).MemOk := by
  induction cs generalizing s with
  | nil => exact h
  | cons c cs ih =>
    unfold State.keepShed
    refine ih ?_
    split
    · exact memOk_shedClass _ h
    · exact h

theorem memOk_unattTimer {s : State} (h : s.MemOk) : s.unattTimer.MemOk := by
  unfold State.unattTimer
  dsimp only
  split
  · split
    · exact memOk_keepShed _ h
    · exact memOk_shedClass _ (memOk_modBelfry _ (memOk_keepShed _ h))
  · split
    · exact h
    · split <;> exact h

theorem memOk_stagger {s : State} (cls c : Nat) (h : s.MemOk) : (s.stagger cls c).MemOk := by
  unfold State.stagger
  split
  · exact h
  · split
    · exact h
    · exact h

theorem memOk_clearHeld {s : State} (d : Nat) (h : s.MemOk) : (s.clearHeld d).MemOk := by
  unfold State.clearHeld
  refine memOk_modDie _ _ (memOk_foldl _ (fun _ x ht => ?_) _ h)
  exact memOk_devWriteNat _ _ _ ht

theorem memOk_releaseErrors {s : State} (d : Nat) (h : s.MemOk) : (s.releaseErrors d).MemOk := by
  unfold State.releaseErrors
  refine memOk_modDie _ _ (memOk_foldl _ (fun _ x ht => ?_) _ h)
  exact memOk_writeError _ _ ht

theorem memOk_releaseHeld {s0 : State} (d : Nat) (h : s0.MemOk) : (s0.releaseHeld d).MemOk := by
  unfold State.releaseHeld
  dsimp only
  refine memOk_releaseErrors _ (memOk_flushRecords _ (memOk_foldl _ (fun _ x ht => ?_) _ (memOk_clearHeld _ h)))
  exact memOk_rewriteRecord _ _ ht

theorem memOk_resume {s : State} (h : s.MemOk) : s.resume.MemOk := by
  unfold State.resume
  refine memOk_settleAll (memOk_foldl _ (fun _ x ht => ?_) _ h)
  exact memOk_releaseHeld _ ht

/-- The image put into host memory is in the canonical form. -/
theorem wf_writeImage {s : State} (h : s.MemOk) : s.writeImage.wf = true := by
  refine Memory.wf_writeBytes (List.foldlRecOn (motive := fun m : Memory => m.wf = true) _ _ (wf_filter h.2.1 _)
    fun m hm x _ => ?_) _ _
  split
  · exact Memory.wf_write hm _ _
  · exact hm

theorem memOk_withHost {s : State} {m : Memory} (h : s.MemOk) (hm : m.wf = true) : ({ s with hostMem := m } : State).MemOk :=
  ⟨h.1, hm, h.2.2⟩

theorem memOk_copyDone {s : State} (h : s.MemOk) : s.copyDone.MemOk := by
  unfold State.copyDone
  split
  · exact memOk_resume (memOk_modBelfry _ (memOk_withHost h (wf_writeImage h)))
  · exact h

/-- Device memory as an image holds it is in the canonical form. -/
theorem wf_readImage (s : State) : s.readImage.wf = true := by
  refine List.foldlRecOn (motive := fun m : Memory => m.wf = true) _ _ rfl fun m hm x _ => ?_
  split
  · exact Memory.wf_write hm _ _
  · exact hm

theorem memOk_withMem {s : State} {m : Memory} (h : s.MemOk) (hm : m.wf = true) :
    ({ s with mem := m, memBad := [] } : State).MemOk := ⟨hm, h.2⟩

theorem memOk_restoreDone {s : State} (h : s.MemOk) : s.restoreDone.MemOk := by
  unfold State.restoreDone
  split
  · exact memOk_resume (memOk_modBelfry _ (memOk_withMem h (wf_readImage s)))
  · exact h

end Sys2Proof.Machine
end

section
/-! SUPPORT. What happens to a die and to a link keeps the memories in the canonical form (O6). -/

namespace Sys2Proof.Machine

theorem memOk_lehr {s : State} (d : Nat) (mv : BitVec 12) (h : s.MemOk) : (s.lehr d mv).MemOk := by
  unfold State.lehr
  dsimp only
  split <;> exact h

theorem memOk_thermal {s : State} (d : Nat) (temps : List Nat) (h : s.MemOk) : (s.thermal d temps).MemOk := by
  unfold State.thermal
  extract_lets tj s1
  have h1 : s1.MemOk := memOk_modDie _ _ h
  split
  · exact h1
  · split
    · exact memOk_modCluster _ _ (memOk_modCluster _ _ (memOk_modDie _ _ h1))
    · exact memOk_modDie _ _ h1

theorem memOk_loseGroups {s : State} (gs : List Group) (h : s.MemOk) : (s.loseGroups gs).MemOk := by
  induction gs generalizing s with
  | nil => exact h
  | cons g gs ih => exact ih (memOk_tidy (s := s.modGroup g.id Group.lost) _ h)

theorem memOk_loseLaunches {s : State} (d : Nat) (ls : List Nat) (h : s.MemOk) : (s.loseLaunches d ls).MemOk := by
  induction ls generalizing s with
  | nil => exact h
  | cons lid ls ih =>
    unfold State.loseLaunches
    split
    · exact ih h
    · exact ih (memOk_drainLaunch _ _ _ _ (memOk_launchChange _ _ _ _ _ h))

theorem memOk_shutdown {s : State} (d : Nat) (h : s.MemOk) : (s.shutdown d).MemOk := by
  unfold State.shutdown
  split
  · exact h
  · split
    · exact h
    · dsimp only
      exact memOk_loseGroups _ (memOk_loseLaunches _ _ h)

theorem memOk_retireQuad {s : State} (c pq : Nat) (h : s.MemOk) : (s.retireQuad c pq).MemOk := by
  unfold State.retireQuad
  dsimp only
  split <;> exact h

theorem memOk_startFirmware {s : State} (img : FwImage) (h : s.MemOk) : (s.startFirmware img).MemOk := by
  unfold State.startFirmware
  split
  · exact h
  · split
    · exact h
    · split <;> exact h

theorem memOk_earlyScratchpad {s : State} (w : WaveRef) (t ea n : Nat) (h : s.MemOk) : (s.earlyScratchpad w t ea n).MemOk := by
  unfold State.earlyScratchpad
  split
  · exact h
  · split
    · exact h
    · split
      · exact h
      · split
        · exact h
        · exact memOk_addEarly _ _ h

theorem memOk_dropLinkOps {s : State} (e : Eng) (link : Nat) (h : s.MemOk) : (s.dropLinkOps e link).MemOk := by
  unfold State.dropLinkOps
  dsimp only
  split
  · refine memOk_foldl _ (fun _ x ht => ?_) _ h
    exact memOk_logError _ _ _ _ _ _ _ ht
  · exact h

theorem memOk_dropLink {s : State} (link : Nat) (ws : List WaveRef) (h : s.MemOk) : (s.dropLink link ws).MemOk := by
  induction ws generalizing s with
  | nil => exact h
  | cons w ws ih =>
    unfold State.dropLink
    refine ih ?_
    split
    · exact h
    · exact memOk_dropLinkOps _ _ h

end Sys2Proof.Machine
end

section
/-! SUPPORT. What the scheduler does beside words keeps the memories in the canonical form (O6). -/

namespace Sys2Proof.Machine

theorem memOk_voidEarly {s : State} (c : Ctx) (keep : Bool) (h : s.MemOk) : (s.voidEarly c keep).MemOk := by
  unfold State.voidEarly
  split <;> exact h

theorem memOk_trapAhead {s : State} (c : Ctx) (t : Trap) (h : s.MemOk) : (s.trapAhead c t).MemOk := by
  unfold State.trapAhead
  dsimp only
  split
  · exact h
  · exact memOk_takeTrap _ _ h

theorem memOk_cancelPath {s : State} (r : PathRef) (counter : DWord) (h : s.MemOk) : (s.cancelPath r counter).MemOk := by
  unfold State.cancelPath
  dsimp only
  split
  · exact h
  · exact memOk_trapAhead _ _ h

theorem memOk_takeCancel {s : State} (c : Ctx) (counter : DWord) (h : s.MemOk) : (s.takeCancel c counter).MemOk := by
  unfold State.takeCancel
  extract_lets s1 s2 o
  have h1 : s1.MemOk := h
  have h2 : s2.MemOk := memOk_cancelPath _ _ h1
  split
  · exact h2
  · split
    · exact h2
    · exact memOk_cancelPath _ _ (memOk_settleLoads h2 _)

theorem memOk_recordsDone {s : State} (c : Ctx) (refs : List (Nat × FaultRef)) (h : s.MemOk) : (s.recordsDone c refs).MemOk := by
  unfold State.recordsDone
  dsimp only
  split
  · split
    · exact memOk_freeRecord _ h
    · exact memOk_fatal _ _ h
  · exact h

theorem memOk_endHeld {s : State} (c core : Nat) (h : s.MemOk) : (s.endHeld c core).MemOk := by
  unfold State.endHeld
  refine memOk_foldl _ (fun _ x ht => ?_) _ h
  exact ht

theorem memOk_invalidate {s : State} (ctx : Option Nat) (h : s.MemOk) : (s.invalidate ctx).MemOk := by
  unfold State.invalidate
  dsimp only
  split
  · exact h
  · exact memOk_performEvery h

theorem memOk_linkRetry {s : State} (link : Nat) (h : s.MemOk) : (s.linkRetry link).MemOk := by
  unfold State.linkRetry
  split
  · exact memOk_logError _ _ _ _ _ _ _ h
  · exact h

end Sys2Proof.Machine
end

section
/-! SUPPORT. The families of words, engine events and mailbox commands keep the memories in the canonical form (O6). -/

namespace Sys2Proof.Machine

/-- A step's outcome holds memories in the canonical form, if it is a state. -/
def OutOk (o : Out) : Prop := ∀ t, o = .next t → t.MemOk

theorem outOk_next {t : State} (h : t.MemOk) : OutOk (.next t) := fun u e => by
  cases e
  exact h

theorem outOk_issue {s : State} {k : Ctx → State} (hk : ∀ c, (k c).MemOk) : OutOk (issue s k) := by
  unfold issue
  split
  · exact fun t e => nomatch e
  · exact outOk_next (hk _)

section
variable {s : State} (h : s.MemOk)
include h

/-- A word whose operands are checked first: what the checks find, or what the word does. -/
theorem outOk_checked {f : Ctx → Option Trap} {k : Ctx → State} (hk : ∀ c, (k c).MemOk) :
    OutOk (issue s fun c => s.unless c (f c) (k c)) := outOk_issue fun c => memOk_unless (hk c) c _ h

theorem outOk_vec (xs : List Src) (d : VDst) (f : Ctx → Nat → Word) : OutOk (vec s xs d f) :=
  outOk_checked h fun _ => h

theorem outOk_vec64 (xs : List Src) (d : VDst) (f : Ctx → Nat → DWord) : OutOk (vec64 s xs d f) :=
  outOk_checked h fun _ => h

theorem outOk_vecP (xs : List Src) (d : Fin 8) (f : Ctx → Nat → Bool) : OutOk (vecP s xs d f) :=
  outOk_checked h fun _ => h

theorem outOk_scal (xs : List (SOp × Bool)) {k : Ctx → State} (hk : ∀ c, (k c).MemOk) : OutOk (scal s xs k) :=
  outOk_issue fun c => by
    refine memOk_unless ?_ c _ h
    split
    · exact memOk_unless (hk c) c _ h
    · exact h

theorem outOk_atP0 {k : Ctx → State} (hk : ∀ c, (k c).MemOk) : OutOk (atP0 s k) :=
  outOk_issue fun c => by
    split
    · exact memOk_takeTrap c _ h
    · exact hk c

theorem outOk_atP1 {k : Ctx → State} (hk : ∀ c, (k c).MemOk) : OutOk (atP1 s k) :=
  outOk_issue fun c => by
    split
    · exact hk c
    · exact memOk_takeTrap c _ h

theorem outOk_scalP1 (xs : List (SOp × Bool)) {k : Ctx → State} (hk : ∀ c, (k c).MemOk) : OutOk (scalP1 s xs k) :=
  outOk_atP1 h fun c => by
    refine memOk_unless ?_ c _ h
    split
    · exact memOk_unless (hk c) c _ h
    · exact h

theorem outOk_tmark (a : VOp) (f : DWord → DWord) (e : Phys → DWord → CEntry) : OutOk (tmark s a f e) :=
  outOk_issue fun c => by
    refine memOk_unless ?_ c _ h
    split
    · exact memOk_accessAll c _ _ (fun _ t hu => memOk_tileChange c _ f e t hu) h
    · exact h

theorem outOk_fabric (k : FabKind) (a b : VOp) (link : BitVec 4) : OutOk (fabric s k a b link) :=
  outOk_issue fun c => by
    have hs : (if c.perf = [] then s else s.drain c.ref.group c.ref.wix).MemOk := by
      split
      · exact h
      · exact memOk_drain h _ _
    refine memOk_unless ?_ c _ hs
    exact hs

theorem outOk_loadS (d : VDst) (b : VOp) (o : BitVec 6) (sc : Scope) (r : Order) (n : Nat) (signed : Bool) :
    OutOk (loadS s d b o sc r n signed) :=
  outOk_issue fun c => memOk_unless (memOk_loadAll c sc r (fun _ t hu => memOk_sLoadTo c t r _ n signed d hu) h) c _ h

theorem outOk_storeS (d b : VOp) (o : BitVec 6) (n : Nat) (sc : Scope) (r : Order) : OutOk (storeS s d b o n sc r) :=
  outOk_issue fun c =>
    memOk_unless (memOk_accessAll c _ _ (fun _ t hu => memOk_sStore c t _ _ sc r (memOk_loadsFirst c t _ n hu)) h) c _ h

theorem outOk_loadG (d : VDst) (b : VOp) (o : BitVec 6) (sc : Scope) (r : Order) (n : Nat) (signed : Bool) :
    OutOk (loadG s d b o sc r n signed) :=
  outOk_issue fun c => memOk_unless (memOk_loadAll c sc r (fun _ t hu => memOk_gLoadTo c t r _ n signed d hu) h) c _ h

theorem outOk_storeG (d b : VOp) (o : BitVec 6) (n : Nat) (sc : Scope) (r : Order) : OutOk (storeG s d b o n sc r) :=
  outOk_issue fun c => by
    refine memOk_unless ?_ c _ h
    split
    · exact memOk_accessAll c _ _ (fun _ t hu => memOk_gStore c t _ _ sc r (memOk_loadsFirst c t _ n hu)) h
    · exact h

theorem outOk_atomicS (d : VDst) (b : VOp) (op : AtomOp) (wide : Bool) (sc : Scope) (r : Order) :
    OutOk (atomicS s d b op wide sc r) :=
  outOk_issue fun c => by
    refine memOk_unless (memOk_accessAll c _ _ (fun _ t hu => ?_) h) c _ h
    exact allOk_map fun x e => memOk_giveOld c d wide t x.1 (memOk_sAtom c t _ wide op _ _ sc r hu x e)

theorem outOk_atomicG (d : VDst) (b : VOp) (op : AtomOp) (wide : Bool) (sc : Scope) (r : Order) :
    OutOk (atomicG s d b op wide sc r) :=
  outOk_issue fun c => by
    refine memOk_unless ?_ c _ h
    split
    · refine memOk_accessAll c _ _ (fun _ t hu => ?_) h
      exact allOk_map fun x e => memOk_giveOld c d wide t x.1 (memOk_gAtom c t _ wide op _ _ sc r hu x e)
    · exact h

theorem outOk_matrix (d : BitVec 7) (xs : List (SOp × Bool)) (checks : Ctx → Option Trap) (op : Ctx → MatOp) :
    OutOk (matrix s d xs checks op) :=
  outOk_atP0 h fun c => by
    refine memOk_unless ?_ c _ h
    split
    · refine memOk_unless ?_ c _ h
      exact memOk_drain h c.ref.group c.ref.wix
    · exact h

theorem outOk_mmaWord (d : BitVec 7) (a b : SOp) (fa fb : Ctx → Word) : OutOk (mmaWord s d a b fa fb) := outOk_matrix h _ _ _ _

theorem outOk_copy (kind : CopyKind) (spD spA : Bool) (d a b : VOp) : OutOk (copy s kind spD spA d a b) :=
  outOk_atP0 h fun c => by
    refine memOk_unless ?_ c _ h
    exact h

theorem outOk_copyMc (kind : CopyKind) (spA : Bool) (d a b : VOp) : OutOk (copyMc s kind spA d a b) :=
  outOk_atP0 h fun c => by
    refine memOk_unless ?_ c _ h
    exact h

theorem outOk_hruWord (kind : HKind) (a b : VOp) (wide aAddr : Bool) (align : Nat) (res14 : Bool) :
    OutOk (hruWord s kind a b wide aAddr align res14) :=
  outOk_atP0 h fun c => memOk_unless (memOk_queueReqs c _ h) c _ h

theorem outOk_hset (op : Nat) (a b : VOp) : OutOk (hset s op a b) :=
  outOk_atP0 h fun c => by
    split
    · exact h
    · have hd := memOk_drain h c.ref.group c.ref.wix
      exact memOk_unless (memOk_queueReqs c _ hd) c _ hd

theorem outOk_gate (kind : GKind) (a b : VOp) : OutOk (gate s kind a b) :=
  outOk_atP0 h fun c => by
    split
    · exact h
    · refine memOk_unless ?_ c _ h
      exact memOk_drain h c.ref.group c.ref.wix

theorem outOk_cancel (a : VOp) (trap : Bool) : OutOk (cancel s a trap) :=
  outOk_issue fun c => by
    split
    · exact h
    · refine memOk_unless (memOk_afterBuffer c (fun u hu => ?_) h) c _ h
      split
      · exact memOk_goOnLater c _ _ _ hu
      · split
        · exact memOk_readerTrap c _ _ hu
        · dsimp only
          split
          · exact memOk_readerTrap c _ _ (memOk_touch _ _ _ hu)
          · rename_i e
            have ht := memOk_cancelCounter _ _ _ _ _ _ (memOk_touch _ _ _ hu) _ e
            exact ht

theorem outOk_onWave (w : WaveRef) {k : Eng → State} (hk : ∀ e, (k e).MemOk) : OutOk (onWave s w k) := by
  refine outOk_next ?_
  split
  · exact h
  · exact hk _

omit h in
theorem memOk_getD {s : State} (h : s.MemOk) {x : Option State} (hx : ∀ t, x = some t → t.MemOk) : (x.getD s).MemOk := by
  cases x with
  | none => exact h
  | some t => exact hx t rfl

theorem outOk_matEvent (w : WaveRef) {k : State → Eng → MatOp → Option State}
    (hk : ∀ t e op u, t.MemOk → k t e op = some u → u.MemOk) : OutOk (matEvent w s k) :=
  outOk_onWave h w fun e => by
    split
    · exact h
    · split
      · split
        · exact memOk_getD h fun _ => hk _ _ _ _ h
        · exact h
      · split
        · exact memOk_getD h fun _ => hk _ _ _ _ h
        · split
          · exact h
          · rename_i t ht
            have ht := memOk_startTile ht h
            split
            · exact h
            · exact memOk_getD h fun _ => hk _ _ _ _ ht

theorem outOk_hruEvent (w : WaveRef) (is : HKind → Bool) : OutOk (hruEvent w is s) :=
  outOk_onWave h w fun e => by
    split
    · exact h
    · split
      · exact memOk_hruResume e _ h
      · exact h

theorem outOk_gateEvent (w : WaveRef) {k : Eng → GReq → Option State} (hk : ∀ e r u, k e r = some u → u.MemOk) :
    OutOk (gateEvent w s k) :=
  outOk_onWave h w fun e => by
    split
    · exact h
    · exact memOk_getD h (hk _ _)

theorem outOk_command (code : Nat) (boot : Bool) {k : State} (hk : k.MemOk) : OutOk (command code boot s k) := by
  refine outOk_next ?_
  split
  · split
    · exact hk
    · exact h
  · exact h

theorem outOk_jobEvent (op : Nat) {f : Control → Job → State} (hf : ∀ k j, (f k j).MemOk) : OutOk (jobEvent op s f) := by
  refine outOk_next ?_
  split
  · exact h
  · split
    · exact h
    · split
      · exact hf _ _
      · split
        · exact hf _ _
        · exact h

theorem outOk_jobCancel (op : Nat) (trap : Bool) : OutOk (jobCancel op trap s) :=
  outOk_jobEvent h op fun k j => by
    split
    · exact memOk_skipJob k h
    · split
      · exact memOk_jobFault k _ h
      · rename_i e
        exact memOk_nextJob k (memOk_cancelCounter _ _ _ _ _ _ h _ e)

end

end Sys2Proof.Machine
end

section
/-! SUPPORT. Firmware's registers and launch records keep the memories in the canonical form (O6). -/

namespace Sys2Proof.Machine

/-- A write of firmware's that is performed leaves the memories in the canonical form. -/
def EndOk (x : Option MgmtEnd) : Prop := ∀ t, x = some (.done t) → t.MemOk

theorem endOk_none : EndOk none := fun _ e => nomatch e

theorem endOk_forbidden (clamp : Bool) : EndOk (some (.forbidden clamp)) := fun _ e => nomatch e

theorem endOk_refused : EndOk (some .refused) := fun _ e => nomatch e

theorem endOk_done {t : State} (h : t.MemOk) : EndOk (some (.done t)) := fun u e => by
  cases e
  exact h

theorem endOk_mgmtIf {t : State} (h : t.MemOk) (ok : Bool) : EndOk (some (mgmtIf ok t)) := by
  unfold mgmtIf
  split
  · exact endOk_done h
  · exact endOk_refused

theorem endOk_orElse {x y : Option MgmtEnd} (hx : EndOk x) (hy : EndOk y) : EndOk (x <|> y) := by
  cases x with
  | none => exact hy
  | some a => exact hx

section
variable {s : State} (h : s.MemOk)
include h

theorem endOk_writeCluster (n : Nat) (v : BitVec 512) : EndOk (s.writeCluster n v) := by
  unfold State.writeCluster
  split
  · exact endOk_mgmtIf (memOk_writeCallow _ _ h) _
  · split
    · exact endOk_mgmtIf (t := s.writeCslew _ _) h _
    · split
      · exact endOk_forbidden _
      · split
        · exact endOk_mgmtIf (memOk_modCluster _ _ h) _
        · exact endOk_none

theorem endOk_writeDie (n : Nat) (v : BitVec 512) : EndOk (s.writeDie n v) := by
  unfold State.writeDie
  extract_lets d log
  split
  · exact endOk_mgmtIf (memOk_writeFqbase _ _ h) _
  · split
    · exact endOk_mgmtIf (memOk_flushRecords _ (memOk_modDie _ _ h)) _
    · split
      · exact endOk_mgmtIf (memOk_writeElbase _ _ h) _
      · split
        · exact endOk_mgmtIf (memOk_modDie _ _ h) _
        · split
          · exact endOk_mgmtIf (memOk_modDie _ _ h) _
          · split
            · exact endOk_forbidden _
            · exact endOk_none

theorem endOk_setBelfry (ok : Bool) (f : Belfry → Belfry) : EndOk (s.setBelfry ok f) := endOk_mgmtIf (memOk_modBelfry f h) ok

theorem endOk_writeBelfry (n : Nat) (v : BitVec 512) : EndOk (s.writeBelfry n v) := by
  unfold State.writeBelfry
  extract_lets w
  split
  · exact endOk_setBelfry h _ _
  · split
    · exact endOk_setBelfry h _ _
    · split
      · exact endOk_setBelfry h _ _
      · split
        · exact endOk_setBelfry h _ _
        · split
          · exact endOk_setBelfry h _ _
          · split
            · exact endOk_forbidden _
            · split
              · exact endOk_setBelfry h _ _
              · split
                · exact endOk_forbidden _
                · split
                  · exact endOk_setBelfry h _ _
                  · split
                    · exact endOk_mgmtIf (memOk_writeBckgo _ h) _
                    · exact endOk_none

theorem endOk_writeClamp (v : BitVec 512) : EndOk (some (s.writeClamp v)) := by
  unfold State.writeClamp
  extract_lets pkg slew trip mask
  split
  · exact endOk_refused
  · split
    · exact endOk_forbidden _
    · exact endOk_done ⟨h.1, h.2.1, h.2.2⟩

theorem endOk_writeObw (i : Nat) (v : BitVec 512) : EndOk (some (s.writeObw i v)) := by
  unfold State.writeObw
  extract_lets w
  split
  · exact endOk_refused
  · split
    · exact endOk_forbidden _
    · exact endOk_done (memOk_modIo _ h)

theorem endOk_writeArrival (i : Nat) (v : BitVec 512) : EndOk (some (s.writeArrival i v)) := by
  unfold State.writeArrival
  extract_lets old w
  exact endOk_mgmtIf (memOk_modIo _ h) _

theorem endOk_writeIo (n : Nat) (v : BitVec 512) : EndOk (s.writeIo n v) := by
  unfold State.writeIo
  extract_lets w
  split
  · exact endOk_mgmtIf (by exact h) _
  · split
    · exact endOk_mgmtIf (memOk_modIo _ h) _
    · split
      · exact endOk_mgmtIf (memOk_modIo _ h) _
      · split
        · exact endOk_mgmtIf (memOk_dumpGo _ h) _
        · split
          · exact endOk_mgmtIf (memOk_modIo _ h) _
          · split
            · exact endOk_mgmtIf (memOk_modIo _ h) _
            · split
              · exact endOk_done (memOk_modIo _ h)
              · split
                · exact endOk_forbidden _
                · split
                  · exact endOk_writeClamp h v
                  · split
                    · exact endOk_writeObw h _ v
                    · split
                      · exact endOk_writeArrival h _ v
                      · exact endOk_none

theorem endOk_mgmtWrite (n : Nat) (v : BitVec 512) : EndOk (s.mgmtWrite n v) :=
  endOk_orElse (endOk_writeCluster h n v) (endOk_orElse (endOk_writeDie h n v)
    (endOk_orElse (endOk_writeBelfry h n v) (endOk_writeIo h n v)))

theorem memOk_p2Write (n : Nat) (v : BitVec 512) : (s.p2Write n v).MemOk := by
  unfold State.p2Write
  split
  · exact h
  · exact h
  · split <;> exact h
  · rename_i t e
    exact endOk_mgmtWrite h n v t e

theorem memOk_launchRecord (q : Reader) (ctx prio : Nat) (a : DWord) (b : Word) (core wslot : Nat) {t : State}
    (e : s.launchRecord q ctx prio a b core wslot = .done t) : t.MemOk := by
  unfold State.launchRecord at e
  split at e
  · cases e
  · extract_lets at e
    split at e
    · cases e
    · split at e
      · cases e
      · cases e
      · cases e
      · split at e
        · cases e
          exact memOk_refuse _ _ _ _ _ _ _ h
        · split at e
          · cases e
          · cases e
            exact memOk_start _ _ _ _ _ _ _ h
end

end Sys2Proof.Machine
end

section
/-! SUPPORT. Each word and event keeps the memories in the canonical form (O6). -/

namespace Sys2Proof.Machine

section
variable {s : State} (h : s.MemOk)
include h

theorem outOk_scalResult (xs : List (SOp × Bool)) (d : SDst) (f : Ctx → Word) :
    OutOk (scal s xs fun c => s.scalResult c d (f c)) := outOk_scal h xs fun _ => h

theorem outOk_scalResult64 (xs : List (SOp × Bool)) (d : SDst) (f : Ctx → DWord) :
    OutOk (scal s xs fun c => s.scalResult64 c d (f c)) := outOk_scal h xs fun _ => h

theorem outOk_scmpResult (xs : List (SOp × Bool)) (d : Fin 8) (f : Ctx → Bool) :
    OutOk (scal s xs fun c => s.scmpResult c d (f c)) := outOk_scal h xs fun _ => h

omit h in
theorem memOk_scalResult {s : State} (c : Ctx) (d : SDst) (v : Word) (h : s.MemOk) : (s.scalResult c d v).MemOk := h

omit h in
theorem memOk_respond {s : State} (rstat : Nat) (res : List DWord) (h : s.MemOk) : (s.respond rstat res).MemOk := h

omit h in
theorem memOk_ite {p : Prop} [Decidable p] {t u : State} (ht : t.MemOk) (hu : u.MemOk) : (if p then t else u).MemOk := by
  split
  · exact ht
  · exact hu

theorem outOk_execCvt (d : VDst) (a : VOp) (r : Rnd) (t u : NumTy) : OutOk (execCvt d a r t u s) := by
  unfold execCvt
  split
  · exact outOk_vec64 h _ _ _
  · exact outOk_vec h _ _ _

theorem outOk_execNpack (d : VDst) (a b : VOp) (k : Fin 4) : OutOk (execNpack d a b k s) := outOk_checked h fun _ => h

theorem outOk_execNunpack (d : VDst) (a b : VOp) (k : Fin 4) : OutOk (execNunpack d a b k s) := outOk_checked h fun _ => h

theorem outOk_execGetsScalar (d : SDst) (n : SReg) : OutOk (execGetsScalar d n s) :=
  outOk_scal h _ fun c => by
    split <;> exact h

theorem outOk_execGetsVector (d : VDst) (n : SReg) : OutOk (execGetsVector d n s) := by
  unfold execGetsVector
  split
  · exact outOk_vec64 h _ _ _
  · exact outOk_vec h _ _ _

theorem outOk_execSets (d : SOp) : OutOk (execSets d s) := outOk_scal h _ fun _ => h

theorem outOk_execBra (e : Bool) (p : Fin 8) (x : BitVec 21) : OutOk (execBra e p x s) :=
  outOk_issue fun c => by
    split
    · exact h
    · exact memOk_transfer c _ _ _ h

theorem outOk_execBru (e : Bool) (p : Fin 8) (x : BitVec 21) : OutOk (execBru e p x s) :=
  outOk_issue fun c => by
    extract_lets hit taken
    split
    · split <;> exact h
    · split
      · exact memOk_transfer c _ _ _ h
      · exact memOk_takeTrap c _ h

theorem outOk_execCall (x : BitVec 21) : OutOk (execCall x s) := outOk_atP0 h fun c => memOk_callTo c _ h

theorem outOk_execNop : OutOk (execNop s) := outOk_issue fun _ => h

theorem outOk_execJoin : OutOk (execJoin s) :=
  outOk_issue fun c => by
    split
    · exact h
    · split
      · exact h
      · split
        · exact h
        · split
          · split
            · extract_lets slot
              split
              · rename_i e
                exact memOk_loadTop _ _ (memOk_modWave h _ _ _) _ e
              · exact memOk_wholeTrap c _ _ h
            · exact h
          · split
            · exact h
            · split
              · split
                · rename_i e
                  exact memOk_joinTop _ _ _ _ h _ e
                · exact memOk_wholeTrap c _ _ h
              · exact h

theorem outOk_execRet : OutOk (execRet s) :=
  outOk_atP0 h fun c => by
    refine memOk_unless ?_ c _ h
    exact memOk_transfer c _ _ _ h

theorem outOk_execExit : OutOk (execExit s) := outOk_issue fun c => memOk_exitThreads c h

theorem outOk_execYield : OutOk (execYield s) := outOk_issue fun _ => h

theorem outOk_execTret : OutOk (execTret s) := outOk_atP1 h fun c => memOk_tret c h

theorem outOk_execSetmask (a : VOp) : OutOk (execSetmask a s) := outOk_checked h fun _ => h

theorem outOk_execJmpi (a : VOp) : OutOk (execJmpi a s) := outOk_checked h fun c => memOk_transfer c _ _ _ h

theorem outOk_execCalli (a : VOp) : OutOk (execCalli a s) :=
  outOk_atP0 h fun c => by
    refine memOk_unless ?_ c _ h
    split
    · exact h
    · exact memOk_callTo c _ h

theorem outOk_execWbase (a : VOp) : OutOk (execWbase a s) :=
  outOk_atP0 h fun c => by
    refine memOk_unless ?_ c _ h
    exact h

theorem outOk_execTrap (n : BitVec 7) : OutOk (execTrap n s) :=
  outOk_issue fun c => by
    refine memOk_takeTrap c _ ?_
    split <;> exact h

theorem outOk_execSleepn (d : SOp) (i : BitVec 18) : OutOk (execSleepn d i s) :=
  outOk_issue fun c => by
    split
    · exact memOk_waitUntil c _ h
    · exact memOk_unless (memOk_waitUntil c _ h) c _ h

theorem outOk_execWaitt (a : VOp) : OutOk (execWaitt a s) :=
  outOk_issue fun c => by
    split
    · exact memOk_waitUntil c _ h
    · exact memOk_unless (memOk_waitUntil c _ h) c _ h

theorem outOk_execTtest (d : Fin 8) (a : VOp) : OutOk (execTtest d a s) :=
  outOk_checked h fun c => by
    refine memOk_accessAll c _ _ (fun _ t hu => ?_) h
    exact allOk_map fun x e => memOk_gLoad c t _ 8 hu x e

theorem outOk_execPread (d : SDst) (a : SOp) : OutOk (execPread d a s) :=
  outOk_scal h _ fun c => by
    extract_lets sel
    split
    · exact memOk_takeTrap c _ h
    · exact h

theorem outOk_execPhint (a : SOp) : OutOk (execPhint a s) :=
  outOk_scal h _ fun c => by
    extract_lets v n m
    split
    · exact memOk_takeTrap c _ h
    · exact h

theorem outOk_execLdtG (d : VDst) (b : VOp) (o : BitVec 6) (sc : Scope) (r : Order) : OutOk (execLdtG d b o sc r s) :=
  outOk_checked h fun c => by
    refine memOk_rowsAll c _ (fun _ t hu => ?_) (fun _ _ hu => hu) (memOk_promote sc r h)
    exact allOk_map fun x e => memOk_gLoad c t _ 32 hu x e

theorem outOk_execSttG (d : VDst) (b : VOp) (o : BitVec 6) (sc : Scope) (r : Order) : OutOk (execSttG d b o sc r s) :=
  outOk_checked h fun c => by
    split
    · split
      · split
        · exact memOk_goOnLater c _ _ _ h
        · refine memOk_rowsAll c _ (fun _ t hu => ?_) (fun _ _ hu => memOk_bufferRows c _ _ _ hu) h
          exact allOk_map fun _ _ => memOk_touch _ _ _ hu
      · exact memOk_rowsAll c _ (fun _ t hu => memOk_gStore c t _ _ sc r (memOk_loadsFirst c t _ 32 hu)) (fun _ _ hu => hu) h
    · exact h

theorem outOk_execLdtS (d : VDst) (b : VOp) (o : BitVec 6) (sc : Scope) (r : Order) : OutOk (execLdtS d b o sc r s) :=
  outOk_checked h fun c => by
    refine memOk_rowsAll c _ (fun _ t hu => ?_) (fun _ _ hu => hu) (memOk_promote sc r h)
    exact allOk_map fun _ _ => hu

theorem outOk_execSttS (d : VDst) (b : VOp) (o : BitVec 6) (sc : Scope) (r : Order) : OutOk (execSttS d b o sc r s) :=
  outOk_checked h fun c =>
    memOk_rowsAll c _ (fun _ t hu => memOk_sStore c t _ _ sc r (memOk_loadsFirst c t _ 32 hu)) (fun _ _ hu => hu) h

theorem outOk_execFence (sc : Scope) (r : Order) : OutOk (execFence sc r s) :=
  outOk_issue fun c => by
    have hp := memOk_promote sc r (memOk_orderFirst c (scopeLevel sc) r h)
    exact hp

theorem outOk_execWaita (d : VDst) (b : VOp) (o : BitVec 6) (sc : Scope) (r : Order) : OutOk (execWaita d b o sc r s) :=
  outOk_issue fun c => by
    split
    · exact memOk_pollWaita c _ _ _ _ _ h
    · refine memOk_unless ?_ c _ h
      split
      · exact h
      · exact memOk_pollWaita c _ _ _ _ _ (memOk_modPath _ _ h)

theorem outOk_execSinit (a b : VOp) : OutOk (execSinit a b s) :=
  outOk_checked h fun c => by
    refine memOk_accessAll c _ _ (fun u t hu => ?_) h
    split
    · split
      · exact allOk_error
      · exact allOk_ok (memOk_spWrite _ _ (memOk_drain hu _ _))
    · exact allOk_ok hu

theorem outOk_execTwait (d : Fin 8) (a b : VOp) : OutOk (execTwait d a b s) :=
  outOk_issue fun c => by
    split
    · exact memOk_pollTwait c _ _ _ _ h
    · refine memOk_unless ?_ c _ h
      split
      · exact h
      · exact memOk_pollTwait c _ _ _ _ h

theorem outOk_execGive (a : COp) : OutOk (execGive a s) :=
  outOk_atP0 h fun c => by
    refine memOk_unless ?_ c _ h
    exact h

theorem outOk_execClaim (a : COp) : OutOk (execClaim a s) :=
  outOk_atP0 h fun c => by
    refine memOk_unless ?_ c _ h
    split <;> exact h

theorem outOk_execBar : OutOk (execBar s) := outOk_atP0 h fun c => memOk_comeTo c _ h

theorem outOk_execBarN (a : COp) : OutOk (execBarN a s) := outOk_atP0 h fun c => memOk_unless (memOk_comeTo c _ h) c _ h

theorem outOk_execBbar : OutOk (execBbar s) := outOk_atP0 h fun c => memOk_comeTo c _ h

theorem outOk_execShape (d : SDst) (m n : MDim) (k : KDim) : OutOk (execShape d m n k s) :=
  outOk_scal h _ fun c => memOk_scalResult c d _ (memOk_modWave h _ _ _)

theorem outOk_execSetfmt (k : Fin 4) (i : BitVec 18) : OutOk (execSetfmt k i s) := outOk_scal h _ fun _ => h

theorem outOk_execSetfmtR (d : Fin 4) (a : SOp) : OutOk (execSetfmtR d a s) :=
  outOk_scal h _ fun c => by
    split
    · exact h
    · exact memOk_takeTrap c _ h

theorem outOk_execCseal : OutOk (execCseal s) :=
  outOk_issue fun c => by
    split <;> exact h

theorem outOk_execCwait (i : BitVec 11) : OutOk (execCwait i s) :=
  outOk_issue fun c => by
    split
    · exact memOk_pollCwait c _ h
    · split
      · refine memOk_unless ?_ c _ h
        exact h
      · exact memOk_pollCwait c _ h

theorem outOk_execSset (a b : VOp) (k : Fin 4) : OutOk (execSset a b k s) :=
  outOk_issue fun c => by
    split
    · exact h
    · have hd := memOk_drain h c.ref.group c.ref.wix
      refine memOk_unless ?_ c _ hd
      split <;> exact hd

theorem outOk_execSpop (d : VDst) (k : Fin 4) (p : Fin 8) : OutOk (execSpop d k p s) :=
  outOk_issue fun c => by
    extract_lets x
    split
    · exact h
    · split
      · exact memOk_takeTrap c _ h
      · split
        · exact h
        · split
          · split <;> exact h
          · split
            · exact memOk_takeTrap c _ h
            · exact h

theorem outOk_execSstat (d : VDst) (k : Fin 4) (b : VOp) : OutOk (execSstat d k b s) := outOk_checked h fun _ => h

theorem outOk_execSclose (k : Fin 4) : OutOk (execSclose k s) :=
  outOk_issue fun c => by
    split <;> exact h

theorem outOk_execQfence (m : BitVec 8) : OutOk (execQfence m s) :=
  outOk_checked h fun c => by
    split <;> exact h

theorem outOk_execLaunch (a b : VOp) : OutOk (execLaunch a b s) :=
  outOk_issue fun c => by
    split
    · exact h
    · refine memOk_unless (memOk_afterBuffer c (fun u hu => ?_) h) c _ h
      split
      · exact memOk_goOnLater c _ _ _ hu
      · split
        · exact memOk_readerTrap c _ _ hu
        · extract_lets s1
          have h1 : s1.MemOk := memOk_touchAll _ _ hu
          split
          · exact memOk_readerTrap c _ _ h1
          · exact memOk_takeTrap c _ h1
          · rename_i e
            have h2 := memOk_launchRecord h1 _ _ _ _ _ _ _ e
            exact h2

theorem outOk_execGrd (e : Bool) (p : Fin 8) : OutOk (execGrd e p s) :=
  outOk_issue fun c => by
    split
    · exact memOk_takeTrap c _ h
    · exact h

theorem outOk_execXim (i : BitVec 25) : OutOk (execXim i s) :=
  outOk_issue fun c => by
    split
    · exact memOk_takeTrap c _ h
    · exact h

theorem outOk_execCsrr (d : SDst) (n : Csr) : OutOk (execCsrr d n s) :=
  outOk_scalP1 h _ fun c => by
    split <;> exact h

theorem outOk_execCsrw (n : Csr) (a : SOp) : OutOk (execCsrw n a s) :=
  outOk_scalP1 h _ fun c => by
    extract_lets v
    split
    · exact memOk_takeTrap c _ h
    · exact h

theorem outOk_execTlbinv (a b : SOp) : OutOk (execTlbinv a b s) :=
  outOk_scalP1 h _ fun c => by
    extract_lets ctx
    split
    · exact memOk_takeTrap c _ h
    · split
      · split <;> exact h
      · exact memOk_performEvery h

theorem outOk_execTlbinvAll (x : SOp) : OutOk (execTlbinvAll x s) := outOk_issue fun c => memOk_takeTrap c _ h

theorem outOk_execGlobalAccessComplete (w : WaveRef) (a : LooseAccess) : OutOk (execGlobalAccessComplete w a s) := by
  refine outOk_next ?_
  split
  · exact memOk_completeHeld w _ _ _ h
  · exact memOk_completeHeld w _ _ _ h
  · exact memOk_completeNear _ _ h
  · split
    · exact memOk_earlyGlobal w _ _ _ h
    · exact h
  · exact memOk_completeLoad w _ _ h

theorem outOk_execTranslationWalk (die ctx : Nat) (va : DWord) (level : Nat) (block : Bool) :
    OutOk (execTranslationWalk die ctx va level block s) :=
  outOk_next (memOk_keep die ctx _ level block h)

theorem outOk_execFqheadPoll (die : Nat) : OutOk (execFqheadPoll die s) := outOk_next (memOk_pollHead die h)

theorem outOk_execFaultStatusObserved (die n : Nat) : OutOk (execFaultStatusObserved die n s) := by
  refine outOk_next ?_
  split
  · exact h
  · exact memOk_reap (memOk_settleAll h)

theorem outOk_execCopyPerform (w : WaveRef) (n : Nat) : OutOk (execCopyPerform w n s) :=
  outOk_onWave h w fun e => memOk_performCopy e n h

theorem outOk_execStreamItemDeliver (w : WaveRef) (k : Fin 4) : OutOk (execStreamItemDeliver w k s) :=
  outOk_onWave h w fun e => by
    split
    · exact h
    · exact memOk_streamDeliver e _ h

theorem outOk_execMmaPerform (w : WaveRef) : OutOk (execMmaPerform w s) :=
  outOk_matEvent h w fun t e op u ht eq => by
    split at eq
    · cases eq
      exact memOk_performMma e op _ ht
    · cases eq

theorem outOk_execAclrPerform (w : WaveRef) : OutOk (execAclrPerform w s) :=
  outOk_matEvent h w fun t e op u ht eq => by
    split at eq
    · cases eq
      exact ht
    · cases eq

theorem outOk_execAldPerform (w : WaveRef) : OutOk (execAldPerform w s) :=
  outOk_matEvent h w fun t e op u ht eq => by
    split at eq
    · cases eq
      exact memOk_performAld e op ht
    · cases eq

theorem outOk_execAstPerform (w : WaveRef) : OutOk (execAstPerform w s) :=
  outOk_matEvent h w fun t e op u ht eq => by
    split at eq
    · cases eq
      exact memOk_performAst e op ht
    · cases eq

theorem outOk_execAscalePerform (w : WaveRef) : OutOk (execAscalePerform w s) :=
  outOk_matEvent h w fun t e op u ht eq => by
    split at eq
    · cases eq
      exact ht
    · cases eq

theorem outOk_execAexpPerform (w : WaveRef) : OutOk (execAexpPerform w s) :=
  outOk_matEvent h w fun t e op u ht eq => by
    split at eq
    · cases eq
      exact ht
    · cases eq

theorem outOk_execHprobeRequest (w : WaveRef) : OutOk (execHprobeRequest w s) := outOk_hruEvent h w _

theorem outOk_execHinsRequest (w : WaveRef) : OutOk (execHinsRequest w s) := outOk_hruEvent h w _

theorem outOk_execHdelRequest (w : WaveRef) : OutOk (execHdelRequest w s) := outOk_hruEvent h w _

theorem outOk_execHrehashRequest (w : WaveRef) : OutOk (execHrehashRequest w s) := outOk_hruEvent h w _

theorem outOk_execHsetRequest (w : WaveRef) : OutOk (execHsetRequest w s) := outOk_hruEvent h w _

theorem outOk_execGtopkRequest (w : WaveRef) : OutOk (execGtopkRequest w s) :=
  outOk_gateEvent h w fun e r u eq => by
    split at eq
    · cases eq
      exact memOk_gateTopk e r _ _ _ _ h
    · cases eq

theorem outOk_execGhistRequest (w : WaveRef) : OutOk (execGhistRequest w s) :=
  outOk_gateEvent h w fun e r u eq => by
    split at eq
    · cases eq
      exact memOk_gateHist e r _ _ h
    · cases eq

theorem outOk_execGscanRequest (w : WaveRef) : OutOk (execGscanRequest w s) :=
  outOk_gateEvent h w fun e r u eq => by
    split at eq
    · cases eq
      exact memOk_gateScan e r _ _ _ h
    · cases eq

theorem outOk_execGpermRequest (w : WaveRef) : OutOk (execGpermRequest w s) :=
  outOk_gateEvent h w fun e r u eq => by
    split at eq
    · cases eq
      exact memOk_gatePerm e r _ h
    · cases eq

theorem outOk_execFabricOpPerform (w : WaveRef) (ans : PeerAnswer) : OutOk (execFabricOpPerform w ans s) :=
  outOk_onWave h w fun e => memOk_performFabric e ans h

theorem outOk_execSendRetryTimeout (w : WaveRef) : OutOk (execSendRetryTimeout w s) :=
  outOk_onWave h w fun e => memOk_sendTimeout e h

theorem outOk_execWaitDeadline (p : PathRef) : OutOk (execWaitDeadline p s) := by
  refine outOk_next ?_
  split
  · exact h
  · split
    · split <;> exact h
    · exact h

theorem outOk_execTwaitBound (p : PathRef) : OutOk (execTwaitBound p s) := by
  refine outOk_next ?_
  split
  · exact h
  · split
    · split
      · exact memOk_pollTwait _ _ _ _ _ h
      · exact h
    · exact h

theorem outOk_execWaitaReread (p : PathRef) : OutOk (execWaitaReread p s) := by
  refine outOk_next ?_
  split
  · exact h
  · split
    · split
      · exact h
      · exact memOk_pollWaita _ _ _ _ _ _ h
    · exact h

theorem outOk_execWaitLimitTimeout (p : PathRef) : OutOk (execWaitLimitTimeout p s) := by
  refine outOk_next ?_
  split
  · exact h
  · split
    · exact memOk_timeout _ _ h
    · exact h

theorem outOk_execClaimGrant (g : Nat) : OutOk (execClaimGrant g s) := by
  refine outOk_next ?_
  split
  · exact h
  · split
    · exact h
    · exact memOk_serveClaim g h

theorem outOk_execAllowanceCycle (c : Nat) (full : List Nat) : OutOk (execAllowanceCycle c full s) := outOk_next h

theorem outOk_execFloorDue (c core : Nat) : OutOk (execFloorDue c core s) := by
  refine outOk_next ?_
  split <;> exact h

theorem outOk_execSlewStep (c : Nat) : OutOk (execSlewStep c s) := outOk_next (memOk_slewStep c h)

theorem outOk_execMarverDispatch : OutOk (execMarverDispatch s) := by
  refine outOk_next ?_
  split
  · exact h
  · exact memOk_dispatch h

theorem outOk_execGroupCompletion (gid : Nat) : OutOk (execGroupCompletion gid s) := by
  refine outOk_next ?_
  split
  · exact h
  · exact memOk_ite (memOk_completeGroup _ h) h

theorem outOk_execPoolGroupCommit (lid : Nat) : OutOk (execPoolGroupCommit lid s) := by
  refine outOk_next ?_
  split
  · exact h
  · split
    · exact memOk_poolCommit _ h
    · exact h

theorem outOk_execTileStatePoll (lid : Nat) : OutOk (execTileStatePoll lid s) := by
  refine outOk_next ?_
  split <;> exact h

theorem outOk_execClassAgeing (lid : Nat) : OutOk (execClassAgeing lid s) := by
  refine outOk_next ?_
  split <;> exact h

theorem outOk_execQuantumCommit (lid : Nat) : OutOk (execQuantumCommit lid s) := by
  refine outOk_next ?_
  split
  · exact h
  · split
    · exact memOk_commit _ h
    · exact h

theorem outOk_execCoreDump (die : Nat) : OutOk (execCoreDump die s) := by
  refine outOk_next ?_
  split
  · exact h
  · exact memOk_dumpStep die h

theorem outOk_execDumpgoWrite (v : Word) : OutOk (execDumpgoWrite v s) := outOk_next (memOk_p2Write h _ _)

theorem outOk_execClampBlockWrite (v : DWord) : OutOk (execClampBlockWrite v s) := outOk_next (memOk_p2Write h _ _)

theorem outOk_execMgmtRegisterWrite (n : Nat) (v : BitVec 512) : OutOk (execMgmtRegisterWrite n v s) := by
  refine outOk_next ?_
  split
  · exact memOk_p2Write h _ _
  · exact h

theorem outOk_execMread : OutOk (execMread s) :=
  outOk_command h _ _ (by
    split <;> exact h)

theorem outOk_execMwrite : OutOk (execMwrite s) :=
  outOk_command h _ _ (by
    split
    · exact h
    · split
      · exact h
      · exact h
      · split <;> exact h
      · rename_i e
        exact memOk_respond 0 [] (endOk_mgmtWrite h _ _ _ e))

theorem outOk_execJlset : OutOk (execJlset s) :=
  outOk_command h _ _ (by
    extract_lets a
    split
    · exact h
    · split <;> exact h)

theorem outOk_execJlstop : OutOk (execJlstop s) :=
  outOk_command h _ _ (by
    split
    · exact h
    · split <;> exact h)

theorem outOk_execAttest : OutOk (execAttest s) := outOk_command h _ _ (memOk_respond _ _ (memOk_modIo _ h))

theorem outOk_execMailboxUnknownCommand : OutOk (execMailboxUnknownCommand s) := by
  refine outOk_next ?_
  split <;> exact h

theorem outOk_execJobLaunch : OutOk (execJobLaunch s) :=
  outOk_jobEvent h _ fun k j => by
    split
    · exact memOk_skipJob k h
    · split
      · exact memOk_jobFault k _ h
      · exact memOk_skipJob k h
      · rename_i e
        exact memOk_nextJob k (memOk_launchRecord h _ _ _ _ _ _ _ e)

theorem outOk_execJobRecordSkip : OutOk (execJobRecordSkip s) := by
  refine outOk_next ?_
  split
  · exact h
  · exact memOk_ite (memOk_skipJob _ h) h

theorem outOk_execHostInboundAccess (link : Nat) (mailbox : Bool) (addr : Nat) (acc : Inbound) :
    OutOk (execHostInboundAccess link mailbox addr acc s) :=
  outOk_next (memOk_hostAccess link mailbox addr acc h)

theorem outOk_execSpireInboundAccess (link addr : Nat) (acc : Inbound) : OutOk (execSpireInboundAccess link addr acc s) := by
  refine outOk_next ?_
  split
  · exact memOk_inbound addr acc h
  · exact h

theorem outOk_execArrivalMatch (link : Nat) (tag : Word) (off : Nat) (bs : List Byte) :
    OutOk (execArrivalMatch link tag off bs s) :=
  outOk_next (memOk_arrive link tag off bs h)

theorem outOk_execArrivalTaskAppend (i : Nat) : OutOk (execArrivalTaskAppend i s) := outOk_next (memOk_appendTask i h)

theorem outOk_execSpireLaneFail (link : Nat) : OutOk (execSpireLaneFail link s) := outOk_next (memOk_laneFail link h)

theorem outOk_execShelfFrame (f : BitVec 256) : OutOk (execShelfFrame f s) := outOk_next (memOk_frame f h)

theorem outOk_execFrameLossTimeout : OutOk (execFrameLossTimeout s) := by
  refine outOk_next ?_
  split <;> exact h

theorem outOk_execBelfryPeriod (pm : Nat) (pd : List Nat) : OutOk (execBelfryPeriod pm pd s) := outOk_next (memOk_period pm pd h)

theorem outOk_execUnattTimer : OutOk (execUnattTimer s) := outOk_next (memOk_unattTimer h)

theorem outOk_execRestoreStagger (cls c : Nat) : OutOk (execRestoreStagger cls c s) := outOk_next (memOk_stagger cls c h)

theorem outOk_execBckgoGo : OutOk (execBckgoGo s) := outOk_next (memOk_writeBckgo 1 h)

theorem outOk_execBckgoRestore : OutOk (execBckgoRestore s) := outOk_next (memOk_writeBckgo 2 h)

theorem outOk_execCheckpointCopyDone : OutOk (execCheckpointCopyDone s) := outOk_next (memOk_copyDone h)

theorem outOk_execCheckpointFailResume : OutOk (execCheckpointFailResume s) := by
  refine outOk_next ?_
  split
  · exact memOk_resume h
  · exact h

theorem outOk_execRestoreCopyDone : OutOk (execRestoreCopyDone s) := outOk_next (memOk_restoreDone h)

theorem outOk_execLehrPeriod (die : Nat) (mv : BitVec 12) : OutOk (execLehrPeriod die mv s) := outOk_next (memOk_lehr die mv h)

theorem outOk_execThermalSample (die : Nat) (temps : List Nat) : OutOk (execThermalSample die temps s) :=
  outOk_next (memOk_thermal die temps h)

theorem outOk_execThermalShutdown (die : Nat) : OutOk (execThermalShutdown die s) := outOk_next (memOk_shutdown die h)

theorem outOk_execEolhUpdate (die : Nat) (v : BitVec 24) : OutOk (execEolhUpdate die v s) := outOk_next h

theorem outOk_execSoftError (p : PathRef) : OutOk (execSoftError p s) := by
  refine outOk_next ?_
  have hl := memOk_settleLoads h p
  split
  · exact h
  · exact memOk_takeTrap _ _ hl

theorem outOk_execScrub (die corrected : Nat) (spare : Bool) : OutOk (execScrub die corrected spare s) := by
  refine outOk_next ?_
  split
  · exact memOk_logError _ _ _ _ _ _ _ h
  · exact h

theorem outOk_execQuadRetire (c pq : Nat) : OutOk (execQuadRetire c pq s) := outOk_next (memOk_retireQuad c pq h)

theorem outOk_execEngineRetire (u : EngineUnit) : OutOk (execEngineRetire u s) := outOk_next h

theorem outOk_execModuleReset : OutOk (execModuleReset s) := outOk_next h

theorem outOk_execHostLinkTrained (link : Nat) : OutOk (execHostLinkTrained link s) := outOk_next h

theorem outOk_execLinkTrainingTimeout : OutOk (execLinkTrainingTimeout s) := by
  refine outOk_next ?_
  split <;> exact h

theorem outOk_execFirmwareStart (img : FwImage) : OutOk (execFirmwareStart img s) := outOk_next (memOk_startFirmware img h)

theorem outOk_execScratchpadAccessComplete (w : WaveRef) (a : LooseAccess) : OutOk (execScratchpadAccessComplete w a s) := by
  refine outOk_next ?_
  split
  · exact memOk_completeHeld w _ _ _ h
  · exact memOk_completeHeld w _ _ _ h
  · exact memOk_completeNear _ _ h
  · split
    · exact memOk_earlyScratchpad w _ _ _ h
    · exact h
  · exact memOk_completeLoad w _ _ h

theorem outOk_execHostLinkDown (link : Nat) : OutOk (execHostLinkDown link s) := outOk_next h

theorem outOk_execSpireLinkDown (link : Nat) : OutOk (execSpireLinkDown link s) := outOk_next (memOk_dropLink link _ h)

end

theorem outOk_exec {s : State} (h : s.MemOk) (i : Instr) : OutOk (exec i s) := by
  cases i with
    | addI32 | subI32 | mulI32 | mulhiI32 | mulhiU32 | addsI32 | subsI32 | addsU32 | subsU32 | minI32 | maxI32 | minU32 | maxU32
    | absI32 | andB32 | orB32 | xorB32 | andnB32 | shlB32 | shrU32 | shrI32 | rotlB32 | popcB32 | clzB32 | brevB32 | notB32 |
    bfeU32 | bfeI32 | bfiB32 | bselB32 | madI32 | addI32Imm | mulI32Imm | andB32Imm | orB32Imm | xorB32Imm | shlB32Imm |
    shrU32Imm | shrI32Imm | movB32Imm | selB32 | movB32 | shflIdx | shflUp | shflDown | shflXor | wredAddI32 | wredMinI32 |
    wredMaxI32 | wredAddF32 | wscanAddI32 | wscanAddxI32 | wscanAddF32 | voteAny | voteAll | voteBallot | wredAndB32 | wredOrB32
    | faddF32 | fsubF32 | fmulF32 | fmaF32 | faddF16 | fsubF16 | fmulF16 | fmaF16 | faddBf16 | fsubBf16 | fmulBf16 | fmaBf16 |
    fminF32 | fmaxF32 | fabsF32 | fnegF32 | fminF16 | fmaxF16 | fminBf16 | fmaxBf16 | expF32 | exp2F32 | logF32 | log2F32 |
    sinpiF32 | cospiF32 | tanhF32 | sigmF32 | erfF32 | rcpF32 | rsqrtF32 | sqrtF32 | divF32 | expF16 | exp2F16 | logF16 |
    log2F16 | sinpiF16 | cospiF16 | tanhF16 | sigmF16 | erfF16 | rcpF16 | rsqrtF16 | sqrtF16 | divF16 | expBf16 | exp2Bf16 |
    logBf16 | log2Bf16 | sinpiBf16 | cospiBf16 | tanhBf16 | sigmBf16 | erfBf16 | rcpBf16 | rsqrtBf16 | sqrtBf16 | divBf16 |
    getmask => exact outOk_vec h _ _ _
    | saddI32 | ssubI32 | smulI32 | sandB32 | sorB32 | sxorB32 | sshlB32 | sshrU32 | sshrI32 | sminI32 | smaxI32 | smovB32 |
    sminU32 | smaxU32 | smovB32Imm | saddI32Imm | getfmt => exact outOk_scalResult h _ _ _
    | addI64 | subI64 | mulI64 | shlB64 | shrU64 | shrI64 | minI64 | maxI64 | mulwideI32 | mulwideU32 | madI64 | movB64 | isect
    => exact outOk_vec64 h _ _ _
    | scmpEqI32 | scmpNeI32 | scmpLtI32 | scmpLeI32 | scmpGtI32 | scmpGeI32 | scmpEqU32 | scmpNeU32 | scmpLtU32 | scmpLeU32 |
    scmpGtU32 | scmpGeU32 => exact outOk_scmpResult h _ _ _
    | setpI32 | setpU32 | setpF32 | setpI64 | setpF16 | setpBf16 | pand | por | pxor | pnot | pandn => exact outOk_vecP h _ _ _
    | ldSU8 | ldSI8 | ldSU16 | ldSI16 | ldS | ldSB64 => exact outOk_loadS h _ _ _ _ _ _ _
    | ldGU8 | ldGI8 | ldGU16 | ldGI16 | ldG | ldGB64 => exact outOk_loadG h _ _ _ _ _ _ _
    | mmaSq | aclr | ald | ast | ascale | aexp => exact outOk_matrix h _ _ _ _
    | stSB8 | stSB16 | stS | stSB64 => exact outOk_storeS h _ _ _ _ _ _
    | stGB8 | stGB16 | stG | stGB64 => exact outOk_storeG h _ _ _ _ _ _
    | copyG2s | copyS2g | copyS2s | copyG2g => exact outOk_copy h _ _ _ _ _ _
    | hprobe | hins | hdel | hrehash => exact outOk_hruWord h _ _ _ _ _ _ _
    | hsetBind | hsetBindClear | hsetUnbind | hsetStatus => exact outOk_hset h _ _ _
    | gtopk | ghist | gscan | gperm => exact outOk_gate h _ _ _
    | put | get | send => exact outOk_fabric h _ _ _ _
    | mma | mmaBf16 | mmaF16 => exact outOk_mmaWord h _ _ _ _ _
    | saddI64 | ssubI64 => exact outOk_scalResult64 h _ _ _
    | tmarkFull | tmarkEmpty => exact outOk_tmark h _ _ _
    | atomS | atomSB64 => exact outOk_atomicS h _ _ _ _ _ _
    | atomG | atomGB64 => exact outOk_atomicG h _ _ _ _ _ _
    | copyG2sMc | copyS2sMc => exact outOk_copyMc h _ _ _ _ _
    | cancelDrain | cancelTrap => exact outOk_cancel h _ _
    | jobCancelDrain | jobCancelTrap => exact outOk_jobCancel h _ _
    | cvt => exact outOk_execCvt h _ _ _ _ _
    | npack => exact outOk_execNpack h _ _ _ _
    | nunpack => exact outOk_execNunpack h _ _ _ _
    | getsScalar => exact outOk_execGetsScalar h _ _
    | getsVector => exact outOk_execGetsVector h _ _
    | sets => exact outOk_execSets h _
    | bra => exact outOk_execBra h _ _ _
    | bru => exact outOk_execBru h _ _ _
    | call => exact outOk_execCall h _
    | nop => exact outOk_execNop h
    | join => exact outOk_execJoin h
    | ret => exact outOk_execRet h
    | exit => exact outOk_execExit h
    | yield => exact outOk_execYield h
    | tret => exact outOk_execTret h
    | setmask => exact outOk_execSetmask h _
    | jmpi => exact outOk_execJmpi h _
    | calli => exact outOk_execCalli h _
    | wbase => exact outOk_execWbase h _
    | trap => exact outOk_execTrap h _
    | sleepn => exact outOk_execSleepn h _ _
    | waitt => exact outOk_execWaitt h _
    | ttest => exact outOk_execTtest h _ _
    | pread => exact outOk_execPread h _ _
    | phint => exact outOk_execPhint h _
    | ldtG => exact outOk_execLdtG h _ _ _ _ _
    | sttG => exact outOk_execSttG h _ _ _ _ _
    | ldtS => exact outOk_execLdtS h _ _ _ _ _
    | sttS => exact outOk_execSttS h _ _ _ _ _
    | fence => exact outOk_execFence h _ _
    | waita => exact outOk_execWaita h _ _ _ _ _
    | sinit => exact outOk_execSinit h _ _
    | twait => exact outOk_execTwait h _ _ _
    | give => exact outOk_execGive h _
    | claim => exact outOk_execClaim h _
    | bar => exact outOk_execBar h
    | barN => exact outOk_execBarN h _
    | bbar => exact outOk_execBbar h
    | shape => exact outOk_execShape h _ _ _ _
    | setfmt => exact outOk_execSetfmt h _ _
    | setfmtR => exact outOk_execSetfmtR h _ _
    | cseal => exact outOk_execCseal h
    | cwait => exact outOk_execCwait h _
    | sset => exact outOk_execSset h _ _ _
    | spop => exact outOk_execSpop h _ _ _
    | sstat => exact outOk_execSstat h _ _ _
    | sclose => exact outOk_execSclose h _
    | qfence => exact outOk_execQfence h _
    | launch => exact outOk_execLaunch h _ _
    | grd => exact outOk_execGrd h _ _
    | xim => exact outOk_execXim h _
    | csrr => exact outOk_execCsrr h _ _
    | csrw => exact outOk_execCsrw h _ _
    | tlbinv => exact outOk_execTlbinv h _ _
    | tlbinvAll a => exact outOk_execTlbinvAll h a
    | globalAccessComplete => exact outOk_execGlobalAccessComplete h _ _
    | translationWalk => exact outOk_execTranslationWalk h _ _ _ _ _
    | fqheadPoll => exact outOk_execFqheadPoll h _
    | faultStatusObserved => exact outOk_execFaultStatusObserved h _ _
    | copyPerform => exact outOk_execCopyPerform h _ _
    | streamItemDeliver => exact outOk_execStreamItemDeliver h _ _
    | mmaPerform => exact outOk_execMmaPerform h _
    | aclrPerform => exact outOk_execAclrPerform h _
    | aldPerform => exact outOk_execAldPerform h _
    | astPerform => exact outOk_execAstPerform h _
    | ascalePerform => exact outOk_execAscalePerform h _
    | aexpPerform => exact outOk_execAexpPerform h _
    | hprobeRequest => exact outOk_execHprobeRequest h _
    | hinsRequest => exact outOk_execHinsRequest h _
    | hdelRequest => exact outOk_execHdelRequest h _
    | hrehashRequest => exact outOk_execHrehashRequest h _
    | hsetRequest => exact outOk_execHsetRequest h _
    | gtopkRequest => exact outOk_execGtopkRequest h _
    | ghistRequest => exact outOk_execGhistRequest h _
    | gscanRequest => exact outOk_execGscanRequest h _
    | gpermRequest => exact outOk_execGpermRequest h _
    | fabricOpPerform => exact outOk_execFabricOpPerform h _ _
    | sendRetryTimeout => exact outOk_execSendRetryTimeout h _
    | waitDeadline => exact outOk_execWaitDeadline h _
    | twaitBound => exact outOk_execTwaitBound h _
    | waitaReread => exact outOk_execWaitaReread h _
    | waitLimitTimeout => exact outOk_execWaitLimitTimeout h _
    | claimGrant => exact outOk_execClaimGrant h _
    | allowanceCycle => exact outOk_execAllowanceCycle h _ _
    | floorDue => exact outOk_execFloorDue h _ _
    | slewStep => exact outOk_execSlewStep h _
    | marverDispatch => exact outOk_execMarverDispatch h
    | groupCompletion => exact outOk_execGroupCompletion h _
    | poolGroupCommit => exact outOk_execPoolGroupCommit h _
    | tileStatePoll => exact outOk_execTileStatePoll h _
    | classAgeing => exact outOk_execClassAgeing h _
    | quantumCommit => exact outOk_execQuantumCommit h _
    | coreDump => exact outOk_execCoreDump h _
    | dumpgoWrite => exact outOk_execDumpgoWrite h _
    | clampBlockWrite => exact outOk_execClampBlockWrite h _
    | mgmtRegisterWrite => exact outOk_execMgmtRegisterWrite h _ _
    | mread => exact outOk_execMread h
    | mwrite => exact outOk_execMwrite h
    | jlset => exact outOk_execJlset h
    | jlstop => exact outOk_execJlstop h
    | attest => exact outOk_execAttest h
    | mailboxUnknownCommand => exact outOk_execMailboxUnknownCommand h
    | jobLaunch => exact outOk_execJobLaunch h
    | jobRecordSkip => exact outOk_execJobRecordSkip h
    | hostInboundAccess => exact outOk_execHostInboundAccess h _ _ _ _
    | spireInboundAccess => exact outOk_execSpireInboundAccess h _ _ _
    | arrivalMatch => exact outOk_execArrivalMatch h _ _ _ _
    | arrivalTaskAppend => exact outOk_execArrivalTaskAppend h _
    | spireLaneFail => exact outOk_execSpireLaneFail h _
    | shelfFrame => exact outOk_execShelfFrame h _
    | frameLossTimeout => exact outOk_execFrameLossTimeout h
    | belfryPeriod => exact outOk_execBelfryPeriod h _ _
    | unattTimer => exact outOk_execUnattTimer h
    | restoreStagger => exact outOk_execRestoreStagger h _ _
    | bckgoGo => exact outOk_execBckgoGo h
    | bckgoRestore => exact outOk_execBckgoRestore h
    | checkpointCopyDone => exact outOk_execCheckpointCopyDone h
    | checkpointFailResume => exact outOk_execCheckpointFailResume h
    | restoreCopyDone => exact outOk_execRestoreCopyDone h
    | lehrPeriod => exact outOk_execLehrPeriod h _ _
    | thermalSample => exact outOk_execThermalSample h _ _
    | thermalShutdown => exact outOk_execThermalShutdown h _
    | eolhUpdate => exact outOk_execEolhUpdate h _ _
    | softError => exact outOk_execSoftError h _
    | scrub => exact outOk_execScrub h _ _ _
    | quadRetire => exact outOk_execQuadRetire h _ _
    | engineRetire => exact outOk_execEngineRetire h _
    | moduleReset => exact outOk_execModuleReset h
    | hostLinkTrained => exact outOk_execHostLinkTrained h _
    | linkTrainingTimeout => exact outOk_execLinkTrainingTimeout h
    | firmwareStart => exact outOk_execFirmwareStart h _
    | scratchpadAccessComplete => exact outOk_execScratchpadAccessComplete h _ _
    | hostLinkDown => exact outOk_execHostLinkDown h _
    | spireLinkDown => exact outOk_execSpireLinkDown h _

end Sys2Proof.Machine
end

section
/-! SUPPORT. Every step keeps the memories in the canonical form (O6). -/

namespace Sys2Proof.Machine

theorem outOk_ite {p : Prop} [Decidable p] {a b : Out} (ha : OutOk a) (hb : OutOk b) : OutOk (if p then a else b) := by
  split
  · exact ha
  · exact hb

section
variable {s : State} (h : s.MemOk)
include h

theorem outOk_performWord (c : Ctx) (w : Word) : OutOk (s.performWord c w) := by
  have hgo : ∀ (i : Instr) {t : State}, t.MemOk → OutOk (exec i ((t.debit c (wordCost c w)).voidEarly c (keepsEarly i w))) :=
    fun i t ht => outOk_exec (memOk_voidEarly c _ (s := t.debit c _) ht) i
  unfold State.performWord
  split
  · split
    · exact outOk_exec (memOk_modPath _ _ h) _
    · exact outOk_next (memOk_takeTrap c _ h)
  · split
    · exact outOk_exec h _
    · split
      · exact outOk_next (memOk_takeTrap c _ h)
      · split
        · exact outOk_next (memOk_takeTrap c _ h)
        · extract_lets go
          split
          · exact hgo _ h
          · split
            · exact hgo _ h
            · exact hgo _ (memOk_settleLoads h _)

theorem outOk_ofPath (r : PathRef) {k : State → Ctx → Out} (hk : ∀ t c, t.MemOk → OutOk (k t c)) :
    OutOk (match s.ctxAt r with | none => .next s | some c => k s c) := by
  split
  · exact outOk_next h
  · exact hk s _ h

theorem outOk_issueNext (r : PathRef) : OutOk (s.issueNext r) := by
  unfold State.issueNext
  split
  · exact outOk_next h
  · extract_lets taken
    have htaken : ∀ (w : Word) (k : State → Ctx → Out), (∀ t c, t.MemOk → OutOk (k t c)) → OutOk (taken w k) :=
      fun w k hk => outOk_ofPath (memOk_modPath r _ h) r hk
    clear_value taken
    split
    · exact htaken _ _ fun t c ht => outOk_next (memOk_takeTrap c _ ht)
    · split
      · exact htaken _ _ fun t c ht => outOk_next (memOk_fetchTrap c _ ht)
      · exact htaken _ _ fun t c ht => outOk_performWord ht c _

theorem outOk_beginSeq (c : Ctx) : OutOk (s.beginSeq c) := by
  unfold State.beginSeq
  split
  · split
    · extract_lets s1
      have h1 : s1.MemOk := h
      refine outOk_next ?_
      split
      · exact h1
      · exact memOk_wholeTrap _ _ _ h1
    · exact outOk_issueNext h _
  · split
    · exact outOk_next (memOk_trapAhead c _ h)
    · exact outOk_issueNext h _

theorem outOk_reissue (c : Ctx) : OutOk (s.reissue c) := by
  unfold State.reissue
  split
  · exact outOk_exec h _
  · exact outOk_next h

theorem outOk_issueReady (r : PathRef) : OutOk (s.issueReady r) := by
  unfold State.issueReady
  extract_lets t
  have ht : t.MemOk := h
  split
  · exact outOk_next h
  · split
    · exact outOk_issueNext ht r
    · split
      · exact outOk_next h
      · split
        · exact outOk_next (memOk_takeCancel _ _ ht)
        · split
          · split
            · exact outOk_next h
            · split
              · exact outOk_beginSeq ht _
              · exact outOk_next h
          · split
            · split
              · exact outOk_reissue ht _
              · exact outOk_next h
            · split
              · exact outOk_next (memOk_recordsDone _ _ (memOk_voidEarly _ _ ht))
              · exact outOk_next h
          · split
            · exact outOk_issueNext (memOk_modPath _ _ ht) r
            · exact outOk_next h
          · split
            · exact outOk_reissue ht _
            · exact outOk_next h

theorem outOk_issuePath (r : PathRef) : OutOk (s.issuePath r) := by
  unfold State.issuePath
  split
  · exact outOk_next h
  · split
    · exact outOk_issueReady h r
    · exact outOk_issueReady (memOk_settleLoads h r) r

theorem memOk_idleCycle (c core : Nat) (eligible : Bool) : (s.idleCycle c core eligible).MemOk := h

theorem memOk_endTurn (c : Nat) : (s.endTurn c).MemOk := h

theorem memOk_pick (c core : Nat) (full : Bool) (x : Ctx) : (s.pick c core full x).MemOk := h

theorem memOk_granted {r : PathRef} {t : State} (e : s.granted r = some t) : t.MemOk := by
  unfold State.granted at e
  split at e
  · cases e
  · extract_lets c at e
    split at e
    · cases e
    · extract_lets u at e
      have hu : u.MemOk := memOk_endHeld _ _ h
      split at e
      · split at e
        · cases e
          exact memOk_pick hu _ _ _ _
        · cases e
      · cases e

theorem outOk_pathTurn (r : PathRef) (f : Path → Path) : OutOk (s.pathTurn r f) := by
  unfold State.pathTurn
  split
  · exact outOk_next h
  · split
    · split
      · rename_i e
        exact outOk_issuePath (memOk_modPath _ _ (memOk_granted h e)) r
      · exact outOk_next h
    · exact outOk_issuePath (memOk_modPath _ _ h) r

theorem outOk_otherTurn (t : Turn) : OutOk (s.otherTurn t) := by
  cases t with
  | event i => exact outOk_exec h i
  | issue p => exact outOk_pathTurn h p id
  | cycle _ _ | core _ _ _ | part _ _ | defer _ _ | invalidate _ | linkRetry _ | rest => exact outOk_next h

theorem memOk_firstChange (ts : List Turn) : (s.firstChange ts).MemOk := by
  induction ts with
  | nil => exact h
  | cons t ts ih =>
    unfold State.firstChange
    split
    · rename_i u e
      split
      · exact ih
      · exact outOk_otherTurn h t u e
    · exact ih
    · exact ih

theorem memOk_restTurn : s.restTurn.MemOk := memOk_firstChange h _

theorem outOk_defaultTurn : OutOk s.defaultTurn := by
  unfold State.defaultTurn
  split
  · exact outOk_next (memOk_restTurn h)
  · exact outOk_next h

theorem outOk_cycleTurn (c : Nat) (full : List Nat) : OutOk (s.cycleTurn c full) := by
  unfold State.cycleTurn
  split
  · extract_lets t xs
    have ht : t.MemOk := by
      unfold t
      split <;> exact h
    exact outOk_next ht
  · exact outOk_next h

theorem outOk_coreTurn (c core : Nat) (full : Bool) : OutOk (s.coreTurn c core full) := by
  unfold State.coreTurn
  split
  · exact outOk_next h
  · extract_lets t
    have ht : t.MemOk := memOk_endHeld _ _ h
    split
    · exact outOk_issuePath (memOk_pick ht _ _ _ _) _
    · exact outOk_next (memOk_endTurn (memOk_idleCycle ht _ _ _) _)

theorem outOk_runTurn (t : Turn) : OutOk (s.runTurn t) := by
  cases t with
  | event i =>
    exact outOk_ite (outOk_exec h i) (outOk_next h)
  | issue p => exact outOk_pathTurn h p id
  | cycle c full => exact outOk_cycleTurn h c full
  | core c core full => exact outOk_coreTurn h c core full
  | part p ts => exact outOk_pathTurn h p _
  | defer p ts => exact outOk_pathTurn h p _
  | invalidate ctx =>
    exact outOk_next (memOk_ite (memOk_invalidate ctx h) h)
  | linkRetry link => exact outOk_next (memOk_linkRetry link h)
  | rest => exact outOk_next (memOk_restTurn h)

theorem memOk_withAgenda (ts : List Turn) : ({ s with agenda := ts } : State).MemOk := h

theorem outOk_turn : OutOk s.turn := by
  unfold State.turn
  split
  · exact outOk_issuePath h _
  · split
    · exact outOk_defaultTurn h
    · exact outOk_runTurn (memOk_withAgenda h _) _

theorem outOk_step : OutOk (step s) := outOk_turn (s := s.moveOn) h
end

/-- Settles O6: every word, event and turn of the scheduler writes a memory only through writes that keep it canonical, or puts
into its place an image that was built by such writes. -/
theorem everyStepKeepsMemoryCanonical : Obligations.EveryStepKeepsMemoryCanonical :=
  fun _ t h e => outOk_step h t e

end Sys2Proof.Machine
end

section
/-! SUPPORT. What memory accesses leave alone of the Belfry, the clusters and the dies (O56, O57). -/

namespace Sys2Proof.Machine

/-- The Belfry, the clusters and the dies of a state: what power is measured and dealt out by. -/
def State.power (s : State) : Belfry × List Cluster × List Die := (s.belfry, s.clusters, s.dies)

theorem power_foldl {α : Type} (f : State → α → State) (hf : ∀ s x, (f s x).power = s.power) (xs : List α) (s : State) :
    (xs.foldl f s).power = s.power := by
  induction xs generalizing s with
  | nil => rfl
  | cons x xs ih => exact (ih _).trans (hf s x)

theorem power_physWrite (s : State) (p : Phys) (bs : List Byte) : (s.physWrite p bs).power = s.power := by
  unfold State.physWrite
  split <;> rfl

theorem power_regBytesPut (s : State) (g x t r i : Nat) (bs : List Byte) : (s.regBytesPut g x t r i bs).power = s.power := by
  induction bs generalizing s i with
  | nil => rfl
  | cons b bs ih => exact ih (s.regPut g x t (r + i / 4) (i % 4) b) (i + 1)

theorem power_perform (s : State) (h : Held) : (s.perform h).power = s.power := by
  unfold State.perform
  split
  · exact power_physWrite s _ _
  · rfl
  · exact power_regBytesPut s _ _ _ _ _ _

theorem power_performNear (s : State) (pick : Near → Bool) : (s.performNear pick).power = s.power :=
  power_foldl (fun t (x : Near) => t.perform x.store) (fun t x => power_perform t x.store) _ _

theorem power_spread (s : State) (g : Group) (x level : Nat) (h : Held) : (s.spread g x level h).power = s.power := by
  unfold State.spread
  split
  · exact (power_perform _ h).trans (power_performNear s _)
  · rfl

theorem power_release (s : State) (g x n : Nat) : (s.release g x n).power = s.power := by
  unfold State.release
  extract_lets level
  split
  · rfl
  · split
    · rfl
    · exact (power_foldl _ (fun t y => power_spread t _ _ _ y) _ _).trans (power_performNear s _)

theorem power_performLoad (s : State) (g x : Nat) (y : Load) : (s.performLoad g x y).power = s.power := by
  unfold State.performLoad
  split
  · rfl
  · unfold State.giveLoad
    split <;> rfl

theorem power_performLoads (s : State) (g x : Nat) (pick : Load → Bool) : (s.performLoads g x pick).power = s.power := by
  unfold State.performLoads
  split
  · rfl
  · exact power_foldl _ (fun t y => power_performLoad t g x y) _ s

theorem power_performEvery (s : State) : s.performEvery.power = s.power :=
  ((power_foldl (fun t (x : Nat × Nat) => t.drain x.1 x.2) (fun t x => power_release t x.1 x.2 4) _ _).trans
      (power_performNear _ _)).trans
    (power_foldl (fun t (x : Nat × Nat) => t.performLoads x.1 x.2 fun _ => true) (fun t x => power_performLoads t x.1 x.2 _) _ s)

end Sys2Proof.Machine
end

section
/-! SUPPORT. Sheds and steps of `RATE` (R344 to R349; O56). -/

namespace Sys2Proof.Machine

/-- Every cluster sheds a class. -/
def State.AllShed (s : State) (c : Nat) : Prop := ∀ k ∈ s.clusters, k.shed.getLsbD (c - 1) = true

theorem twoPow_getLsbD_self {c : Nat} (h1 : 1 ≤ c) (h7 : c ≤ 7) : (BitVec.twoPow 7 (c - 1)).getLsbD (c - 1) = true := by
  rw [BitVec.getLsbD_twoPow]
  simp
  omega

theorem foldl_parkShed (ks : List Nat) (s : State) :
    ∃ gs, ks.foldl State.parkShed s = { s with groups := gs } := by
  induction ks generalizing s with
  | nil => exact ⟨s.groups, rfl⟩
  | cons k ks ih => exact ih (s.parkShed k)

theorem clusters_setShed (s : State) (c : Nat) :
    (s.setShed c).clusters = s.clusters.map fun k => { k with shed := k.shed ||| BitVec.twoPow 7 (c - 1) } := by
  obtain ⟨gs, e⟩ := foldl_parkShed (List.range 8)
    { s with clusters := s.clusters.map fun k => { k with shed := k.shed ||| BitVec.twoPow 7 (c - 1) } }
  rw [State.setShed, e]

theorem belfry_setShed (s : State) (c : Nat) : (s.setShed c).belfry = s.belfry := by
  obtain ⟨gs, e⟩ := foldl_parkShed (List.range 8)
    { s with clusters := s.clusters.map fun k => { k with shed := k.shed ||| BitVec.twoPow 7 (c - 1) } }
  rw [State.setShed, e]

theorem clusters_shedClass (s : State) (c : Nat) : (s.shedClass c).clusters = (s.setShed c).clusters := by
  simp only [State.shedClass]

theorem allShed_setShed_self (s : State) {c : Nat} (h1 : 1 ≤ c) (h7 : c ≤ 7) : (s.setShed c).AllShed c := by
  unfold State.AllShed
  rw [clusters_setShed]
  intro k hk
  obtain ⟨x, _, rfl⟩ := List.mem_map.1 hk
  simp [twoPow_getLsbD_self h1 h7]

theorem allShed_setShed {s : State} {d : Nat} (h : s.AllShed d) (c : Nat) : (s.setShed c).AllShed d := by
  unfold State.AllShed
  rw [clusters_setShed]
  intro k hk
  obtain ⟨x, hx, rfl⟩ := List.mem_map.1 hk
  simp [h x hx]

theorem allShed_shedClass_self (s : State) {c : Nat} (h1 : 1 ≤ c) (h7 : c ≤ 7) : (s.shedClass c).AllShed c := by
  unfold State.AllShed
  rw [clusters_shedClass]
  exact allShed_setShed_self s h1 h7

theorem allShed_shedClass {s : State} {d : Nat} (h : s.AllShed d) (c : Nat) : (s.shedClass c).AllShed d := by
  unfold State.AllShed
  rw [clusters_shedClass]
  exact allShed_setShed h c

theorem allShed_shedAll {s : State} {d : Nat} (h : s.AllShed d) (cs : List Nat) : (s.shedAll cs).AllShed d := by
  induction cs generalizing s with
  | nil => exact h
  | cons c cs ih =>
    refine ih ?_
    split
    · exact allShed_shedClass h c
    · split
      · exact allShed_setShed h c
      · exact h

theorem allShed_keepShed {s : State} {d : Nat} (h : s.AllShed d) (cs : List Nat) : (s.keepShed cs).AllShed d := by
  induction cs generalizing s with
  | nil => exact h
  | cons c cs ih =>
    refine ih ?_
    split
    · exact allShed_shedClass h c
    · exact h

/-- What the Belfry holds beside the progress of sheds, restores and checkpoints: the readings, the level, the cap. -/
def Belfry.told (b : Belfry) : Belfry :=
  { b with held := [], restore := [], restoring := false, overSince := none, okSince := none, unattNext := 0
           halted := false, restoring2 := false, ckclk := 0, ckpt := 0, bckgo := 0 }

theorem told_shedClass (s : State) (c : Nat) : (s.shedClass c).belfry.told = s.belfry.told := by
  simp only [State.shedClass, Belfry.told]

theorem told_shedAll (cs : List Nat) (s : State) : (s.shedAll cs).belfry.told = s.belfry.told := by
  induction cs generalizing s with
  | nil => rfl
  | cons c cs ih =>
    refine (ih _).trans ?_
    split
    · exact told_shedClass s c
    · split
      · rw [belfry_setShed]
      · rfl

theorem toShed_iff (s : State)
    (c : Nat) : s.toShed c = true ↔ s.belfry.level < s.belfry.shedLevel c ∨ s.belfry.capunatt = true := by
  simp [State.toShed]

theorem toShed_of_told {s t : State} (h : t.belfry.told = s.belfry.told) (c : Nat) : t.toShed c = s.toShed c := by
  have hlevel : t.belfry.level = s.belfry.level := (congrArg Belfry.level h :)
  have hsheds : t.belfry.bshedl = s.belfry.bshedl := (congrArg Belfry.bshedl h :)
  have hcap : t.belfry.capunatt = s.belfry.capunatt := (congrArg Belfry.capunatt h :)
  rw [State.toShed, State.toShed, Belfry.shedLevel, Belfry.shedLevel, hlevel, hsheds, hcap]

/-- A class that is to be shed is shed in every cluster. -/
theorem allShed_shedAll_of_toShed (cs : List Nat) {s : State} {c : Nat} (h1 : 1 ≤ c) (h7 : c ≤ 7) (hc : c ∈ cs)
    (h : s.toShed c = true) : (s.shedAll cs).AllShed c := by
  induction cs generalizing s with
  | nil => cases hc
  | cons d ds ih =>
    unfold State.shedAll
    rcases List.mem_cons.1 hc with rfl | hc
    · rw [if_pos h]
      exact allShed_shedAll (allShed_shedClass_self s h1 h7) ds
    · exact ih hc ((toShed_of_told (told_shedAll [d] s) c).trans h)

/-- A cluster without what a step of `RATE` writes. -/
def Cluster.unrated (k : Cluster) : Cluster := { k with rate := 0, window := 0, rises := 0 }

theorem map_modAt {α β : Type} {g : α → β} {f : α → α} (h : ∀ x, g (f x) = g x) (n : Nat) (xs : List α) :
    (modAt f n xs).map g = xs.map g := by
  induction xs generalizing n with
  | nil => cases n <;> rfl
  | cons x xs ih =>
    cases n with
    | zero => simp [modAt, h]
    | succ n => simp [modAt, ih]

theorem mem_modAt {α : Type} {f : α → α} {n : Nat} {xs : List α} {y : α} (h : y ∈ modAt f n xs) : y ∈ xs ∨ ∃ x ∈ xs, y = f x := by
  induction xs generalizing n with
  | nil => cases n <;> cases h
  | cons x xs ih =>
    cases n with
    | zero =>
      rcases List.mem_cons.1 h with rfl | h
      · exact .inr ⟨x, by simp, rfl⟩
      · exact .inl (by simp [h])
    | succ n =>
      rcases List.mem_cons.1 h with rfl | h
      · exact .inl (by simp)
      · rcases ih h with h | ⟨z, hz, e⟩
        · exact .inl (by simp [h])
        · exact .inr ⟨z, by simp [hz], e⟩

/-- What a step of `RATE` does: the Belfry stays, the clusters stay but for what it writes, and no `RATE` goes above 1,024. -/
structure Rated (s t : State) : Prop where
  belfry : t.belfry = s.belfry
  unrated : t.clusters.map Cluster.unrated = s.clusters.map Cluster.unrated
  bound : (∀ k ∈ s.clusters, k.rate ≤ 1024) → ∀ k ∈ t.clusters, k.rate ≤ 1024

theorem Rated.refl (s : State) : Rated s s := ⟨rfl, rfl, id⟩

theorem Rated.trans {s t u : State} (h : Rated s t) (k : Rated t u) : Rated s u :=
  ⟨k.belfry.trans h.belfry, k.unrated.trans h.unrated, fun x => k.bound (h.bound x)⟩

theorem rated_rateStep (s : State) (k : Nat) (e : Int) : Rated s (s.rateStep k e) := by
  unfold State.rateStep
  split
  · exact .refl s
  · refine ⟨rfl, map_modAt (g := Cluster.unrated) (by intro x; rfl) _ _, fun h y hy => ?_⟩
    rcases mem_modAt hy with hy | ⟨x, _, rfl⟩
    · exact h y hy
    · dsimp only
      omega

theorem rated_rateSteps (e : Int) (ks : List Nat) (s : State) : Rated s (s.rateSteps e ks) := by
  induction ks generalizing s with
  | nil => exact .refl s
  | cons k ks ih => exact (rated_rateStep s k e).trans (ih _)

theorem rated_rateLoop (ps : List (Nat × Int)) (s : State) : Rated s (s.rateLoop ps) := by
  induction ps generalizing s with
  | nil => exact .refl s
  | cons p ps ih => exact (rated_rateSteps p.2 _ s).trans (ih _)

theorem Rated.allShed {s t : State} (h : Rated s t) {c : Nat} (hs : s.AllShed c) : t.AllShed c := by
  intro k hk
  have hm : k.unrated ∈ s.clusters.map Cluster.unrated := h.unrated ▸ List.mem_map_of_mem hk
  obtain ⟨x, hx, e⟩ := List.mem_map.1 hm
  have hshed : x.shed = k.shed := (congrArg Cluster.shed e :)
  exact hshed ▸ hs x hx

/-- The same clusters but for their sheds and what a step of `RATE` writes. -/
def Cluster.unshed (k : Cluster) : Cluster := { k.unrated with shed := 0 }

theorem map_unshed_of_unrated {xs ys : List Cluster} (h : xs.map Cluster.unrated = ys.map Cluster.unrated) :
    xs.map Cluster.unshed = ys.map Cluster.unshed := by
  have hmap := congrArg (List.map fun k : Cluster => { k with shed := 0 }) h
  rw [List.map_map, List.map_map] at hmap
  exact hmap

/-- What sheds do to the clusters: they change no field but `shed`. -/
structure Shed (s t : State) : Prop where
  unshed : t.clusters.map Cluster.unshed = s.clusters.map Cluster.unshed
  bound : (∀ k ∈ s.clusters, k.rate ≤ 1024) → ∀ k ∈ t.clusters, k.rate ≤ 1024

theorem Shed.trans {s t u : State} (h : Shed s t) (k : Shed t u) : Shed s u :=
  ⟨k.unshed.trans h.unshed, fun x => k.bound (h.bound x)⟩

theorem Rated.shed {s t : State} (h : Rated s t) : Shed s t := ⟨map_unshed_of_unrated h.unrated, h.bound⟩

theorem shed_setShed (s : State) (c : Nat) : Shed s (s.setShed c) := by
  constructor
  · rw [clusters_setShed, List.map_map]
    rfl
  · rw [clusters_setShed]
    intro h k hk
    obtain ⟨x, hx, rfl⟩ := List.mem_map.1 hk
    exact h x hx

theorem shed_shedClass (s : State) (c : Nat) : Shed s (s.shedClass c) := by
  constructor
  · rw [clusters_shedClass]
    exact (shed_setShed s c).unshed
  · rw [clusters_shedClass]
    exact (shed_setShed s c).bound

theorem shed_shedAll (cs : List Nat) (s : State) : Shed s (s.shedAll cs) := by
  induction cs generalizing s with
  | nil => exact ⟨rfl, id⟩
  | cons c cs ih =>
    refine Shed.trans ?_ (ih _)
    split
    · exact shed_shedClass s c
    · split
      · exact shed_setShed s c
      · exact ⟨rfl, id⟩

/-- The Belfry as an evaluation first writes it (R345, R347 to R349). -/
def State.evalBelfry (s : State) : Belfry :=
  { s.belfry with capunatt := decide (s.capRaw < s.belfry.pidle), floorred := s.floorred, capNow := s.cap
                  targets := (List.range 8).map fun k => s.ptgt (s.belfry.partOf k) }

theorem told_unattWatch (s : State) : s.unattWatch.belfry.told = s.belfry.told := rfl

theorem told_evaluate (s : State) : s.evaluate.belfry.told = s.evalBelfry.told := by
  unfold State.evaluate
  extract_lets s1 s2
  have h2 : s2.belfry.told = s.evalBelfry.told := told_shedAll _ s1
  refine (told_unattWatch _).trans ?_
  rw [(rated_rateLoop _ s2).belfry]
  exact h2

theorem shed_evaluate (s : State) : Shed s s.evaluate := by
  unfold State.evaluate
  extract_lets s1 s2
  have h2 : Shed s1 s2 := shed_shedAll _ s1
  have h3 := h2.trans (rated_rateLoop (s2.belfry.partOrder.map fun p => (p, s2.rateChange p)) s2).shed
  exact ⟨h3.unshed, h3.bound⟩

theorem allShed_evaluate {s : State} {c : Nat} (h1 : 1 ≤ c) (h7 : c ≤ 7)
    (h : s.belfry.level < s.belfry.shedLevel c ∨ s.capRaw < s.belfry.pidle) : s.evaluate.AllShed c := by
  unfold State.evaluate
  extract_lets s1 s2
  have hs : s1.toShed c = true := (toShed_iff s1 c).2 (h.imp id fun x => decide_eq_true x)
  have h2 : s2.AllShed c := allShed_shedAll_of_toShed _ h1 h7 (by simp; omega) hs
  exact (rated_rateLoop (s2.belfry.partOrder.map fun p => (p, s2.rateChange p)) s2).allShed h2

theorem told_beginRestore (cs : List Nat) (s : State) : (s.beginRestore cs).belfry.told = s.belfry.told := by
  induction cs generalizing s with
  | nil => rfl
  | cons c cs ih =>
    refine (ih _).trans ?_
    split <;> rfl

theorem clusters_beginRestore (cs : List Nat) (s : State) : (s.beginRestore cs).clusters = s.clusters := by
  induction cs generalizing s with
  | nil => rfl
  | cons c cs ih =>
    refine (ih _).trans ?_
    split <;> rfl

theorem told_startCheckpoint (s : State) : s.startCheckpoint.belfry.told = s.belfry.told := by
  unfold State.startCheckpoint
  split
  · rfl
  · have h : s.performEvery.belfry = s.belfry := congrArg Prod.fst (power_performEvery s)
    extract_lets s1 ok
    have h1 : s1.belfry = s.belfry := h
    rw [← h1]
    rfl

theorem clusters_startCheckpoint (s : State) : s.startCheckpoint.clusters = s.clusters := by
  unfold State.startCheckpoint
  split
  · rfl
  · exact congrArg (fun x => x.2.1) (power_performEvery s)

/-- What is left of a valid frame: the evaluation, whatever it starts beside it. -/
theorem frame_valid {s : State} {f : BitVec 256} (h : frameValid f = true) :
    let u := (s.modBelfry fun b => b.take f s.ns.toNat).evaluate
    (s.frame f).belfry.told = u.belfry.told ∧ (s.frame f).clusters = u.clusters := by
  intro u
  unfold State.frame
  rw [if_neg (by simp [h])]
  extract_lets s1
  have htold : s1.belfry.told = u.belfry.told := told_beginRestore _ u.countHeld
  have hclusters : s1.clusters = u.clusters := clusters_beginRestore _ u.countHeld
  split
  · exact ⟨(told_startCheckpoint s1).trans htold, (clusters_startCheckpoint s1).trans hclusters⟩
  · exact ⟨htold, hclusters⟩

end Sys2Proof.Machine
end

section
/-! The Belfry's events (O56). -/

namespace Sys2Proof.Machine

theorem capRaw_eq (s : State) : s.capRaw = min (min (s.belfry.bcap.extractLsb' 0 16).toNat s.io.pkglim)
    (if s.belfry.shelflim = 0 then 65535 else s.belfry.shelflim) := by
  have hbound : (s.belfry.bcap.extractLsb' 0 16).toNat < 65536 := BitVec.isLt _
  unfold State.capRaw
  split
  · rw [if_pos (by assumption)]
    omega
  · rw [if_neg (by assumption)]

/-- The level that a frame or a period gives (R342, R344). -/
theorem curve_eq (b : Belfry) : b.curve = if b.bctl.getLsbD 0 = false then 256 else match b.okFreq with
    | none => b.level
    | some x => min 256 (curveLevel b.bcurve ((x.toNat : Int) - if b.bctl.getLsbD 1 then 60000 else 50000)) := by
  unfold Belfry.curve Belfry.en Belfry.nominal
  cases b.bctl.getLsbD 0 <;> rfl

theorem frame_of_invalid {s : State} {f : BitVec 256} (h : frameValid f = false) : s.frame f = s := by
  rw [State.frame, if_pos (by simp [h])]

/-- The Belfry after a valid frame, but for the progress of sheds, restores and checkpoints. -/
theorem frame_told {s : State} {f : BitVec 256} (h : frameValid f = true) :
    (s.frame f).belfry.told = (s.modBelfry fun b => b.take f s.ns.toNat).evalBelfry.told :=
  (frame_valid h).1.trans (told_evaluate _)

theorem level_take (b : Belfry) (f : BitVec 256) (now : Nat) :
    (b.take f now).level = if b.bctl.getLsbD 0 = false then 256
      else match (if f.getLsbD 81 = true then some (f.extractLsb' 32 32) else b.okFreq) with
        | none => b.level
        | some x => min 256 (curveLevel b.bcurve ((x.toNat : Int) - if b.bctl.getLsbD 1 then 60000 else 50000)) :=
  curve_eq _

theorem allShed_frame {s : State} {f : BitVec 256} (h : frameValid f = true) {c : Nat} (h1 : 1 ≤ c) (h7 : c ≤ 7)
    (hc : (s.belfry.take f s.ns.toNat).level < s.belfry.shedLevel c
      ∨ (s.modBelfry fun b => b.take f s.ns.toNat).capRaw < s.belfry.pidle) : (s.frame f).AllShed c := by
  unfold State.AllShed
  rw [(frame_valid h).2]
  exact allShed_evaluate h1 h7 hc

/-- The state that a period evaluates (R345). -/
def State.measured (s : State) (pm : Nat) (pd : List Nat) : State :=
  { s.modBelfry (fun b =>
      { b with pm, pd := (List.range 4).map fun d => pd.getD d 0, level := if b.en && b.lost then b.level else b.curve })
    with clusters := s.clusters.map fun (k : Cluster) => { k with u := 0, um := k.u } }

theorem period_eq (s : State) (pm : Nat) (pd : List Nat) : s.period pm pd = (s.measured pm pd).evaluate := rfl

theorem Shed.map_um {s t : State} (h : Shed s t) : t.clusters.map Cluster.um = s.clusters.map Cluster.um := by
  have hmap := congrArg (List.map Cluster.um) h.unshed
  rw [List.map_map, List.map_map] at hmap
  exact hmap

theorem Shed.u_eq {s t : State} (h : Shed s t) (hs : ∀ k ∈ s.clusters, k.u = 0) : ∀ k ∈ t.clusters, k.u = 0 := by
  intro k hk
  have hm : k.unshed ∈ s.clusters.map Cluster.unshed := h.unshed ▸ List.mem_map_of_mem hk
  obtain ⟨x, hx, e⟩ := List.mem_map.1 hm
  have hu : x.u = k.u := (congrArg Cluster.u e :)
  exact hu ▸ hs x hx

theorem told_period (s : State) (pm : Nat) (pd : List Nat) :
    (s.period pm pd).belfry.told = (s.measured pm pd).evalBelfry.told := told_evaluate _

theorem allShed_period {s : State} {pm : Nat} {pd : List Nat} {c : Nat} (h1 : 1 ≤ c) (h7 : c ≤ 7)
    (hc : (s.period pm pd).belfry.level < (s.period pm pd).belfry.shedLevel c ∨ (s.period pm pd).belfry.capunatt = true) :
    (s.period pm pd).AllShed c := by
  have htold := told_period s pm pd
  have hlevel : (s.period pm pd).belfry.level = (s.measured pm pd).belfry.level := (congrArg Belfry.level htold :)
  have hsheds : (s.period pm pd).belfry.bshedl = (s.measured pm pd).belfry.bshedl := (congrArg Belfry.bshedl htold :)
  have hcap : (s.period pm pd).belfry.capunatt = decide ((s.measured pm pd).capRaw < (s.measured pm pd).belfry.pidle) :=
    (congrArg Belfry.capunatt htold :)
  rw [period_eq]
  refine allShed_evaluate h1 h7 (hc.imp (fun hl => ?_) fun hd => ?_)
  · rw [hlevel, Belfry.shedLevel, hsheds] at hl
    exact hl
  · rw [hcap] at hd
    exact of_decide_eq_true hd

theorem rate_period {s : State} (h : ∀ k ∈ s.clusters, k.rate ≤ 1024) (pm : Nat) (pd : List Nat) :
    ∀ k ∈ (s.period pm pd).clusters, k.rate ≤ 1024 := by
  refine (shed_evaluate (s.measured pm pd)).bound fun k hk => ?_
  obtain ⟨x, hx, rfl⟩ := List.mem_map.1 hk
  exact h x hx

theorem u_period (s : State) (pm : Nat) (pd : List Nat) : ∀ k ∈ (s.period pm pd).clusters, k.u = 0 := by
  refine (shed_evaluate (s.measured pm pd)).u_eq fun k hk => ?_
  obtain ⟨x, _, rfl⟩ := List.mem_map.1 hk
  rfl

theorem um_period (s : State) (pm : Nat) (pd : List Nat) :
    (s.period pm pd).clusters.map (fun k => k.um) = s.clusters.map fun k => k.u := by
  refine (shed_evaluate (s.measured pm pd)).map_um.trans ?_
  rw [State.measured, List.map_map]
  rfl

/-- What the timer of an unattainable target leaves of the Belfry beside the progress of restores (R345). -/
theorem keepShed_timer (cs : List Nat) (s : State) :
    (s.keepShed cs).belfry.unatt = s.belfry.unatt ∧ (s.keepShed cs).belfry.unattNext = s.belfry.unattNext := by
  induction cs generalizing s with
  | nil => exact ⟨rfl, rfl⟩
  | cons c cs ih =>
    unfold State.keepShed
    split
    · obtain ⟨h1, h2⟩ := ih (s.shedClass c)
      exact ⟨h1, h2⟩
    · exact ih s

/-- The lowest class that some cluster does not shed is the one that a pass over the classes from the top finds. -/
theorem find_unshed {s : State} {c : Nat} (h1 : 1 ≤ c) (h7 : c ≤ 7) (habove : ∀ d, c < d → d ≤ 7 → s.AllShed d)
    (hc : ¬ s.AllShed c) :
    [7, 6, 5, 4, 3, 2, 1].find? (fun d => !(s.clusters.all fun k => k.shed.getLsbD (d - 1))) = some c := by
  have hall : ∀ d, s.AllShed d → (!(s.clusters.all fun k => k.shed.getLsbD (d - 1))) = false := fun d hd => by
    simpa [State.AllShed] using hd
  have hnot : (!(s.clusters.all fun k => k.shed.getLsbD (c - 1))) = true := by
    simpa [State.AllShed] using hc
  rw [List.find?_eq_some_iff_append]
  refine ⟨hnot, (List.range (7 - c)).map (fun i => 7 - i), (List.range (c - 1)).map (fun i => c - 1 - i), ?_, fun d hd => ?_⟩
  · interval_cases c <;> rfl
  · obtain ⟨i, hi, rfl⟩ := List.mem_map.1 hd
    rw [List.mem_range] at hi
    rw [hall _ (habove _ (by omega) (by omega))]
    rfl

/-- The next millisecond of an unattainable target: the timer first keeps what restores had begun to give back (R345). -/
def State.timed (s : State) : State :=
  (s.modBelfry fun b => { b with unatt := true, unattNext := b.unattNext + 1000000, held := List.replicate 7 0 }).keepShed
    [1, 2, 3, 4, 5, 6, 7]

theorem unattTimer_due {s : State} (hover : s.belfry.overSince.isSome = true) (hdue : s.belfry.unattNext ≤ s.ns.toNat) :
    s.unattTimer = match [7, 6, 5, 4, 3, 2, 1].find? fun c => !(s.timed.clusters.all fun k => k.shed.getLsbD (c - 1)) with
      | none => s.timed
      | some c => (s.timed.modBelfry fun b => { b with powShed := b.powShed ||| BitVec.twoPow 7 (c - 1) }).shedClass c := by
  rw [State.unattTimer, if_pos ⟨hover, hdue⟩]
  rfl

theorem unattTimer_belfry {s : State} (hover : s.belfry.overSince.isSome = true) (hdue : s.belfry.unattNext ≤ s.ns.toNat) :
    s.unattTimer.belfry.unatt = true ∧ s.unattTimer.belfry.unattNext = s.belfry.unattNext + 1000000 := by
  have h : s.timed.belfry.unatt = true ∧ s.timed.belfry.unattNext = s.belfry.unattNext + 1000000 := keepShed_timer _ _
  rw [unattTimer_due hover hdue]
  split
  · exact h
  · exact h

theorem allShed_timed {s : State} {c : Nat} (h : s.AllShed c) : s.timed.AllShed c :=
  allShed_keepShed (s := s.modBelfry _) h _

theorem allShed_unattTimer {s : State} (hover : s.belfry.overSince.isSome = true) (hdue : s.belfry.unattNext ≤ s.ns.toNat)
    {c : Nat} (h1 : 1 ≤ c) (h7 : c ≤ 7) (habove : ∀ d, c < d → d ≤ 7 → s.AllShed d) : s.unattTimer.AllShed c := by
  rw [unattTimer_due hover hdue]
  by_cases hc : s.timed.AllShed c
  · split
    · exact hc
    · exact allShed_shedClass (s := s.timed.modBelfry _) hc _
  · rw [find_unshed h1 h7 (fun d hd h7 => allShed_timed (habove d hd h7)) hc]
    exact allShed_shedClass_self _ h1 h7

theorem unattTimer_within {s : State} {k : Nat} (hnot : s.belfry.overSince = none ∨ s.ns.toNat < s.belfry.unattNext)
    (hok : s.belfry.okSince = some k) (hun : s.belfry.unatt = true) (hlong : 1000000 ≤ s.ns.toNat - k) :
    s.unattTimer = { s with belfry := { s.belfry with unatt := false } } := by
  have hoff : ¬(s.belfry.overSince.isSome ∧ s.belfry.unattNext ≤ s.ns.toNat) := by
    rintro ⟨h, hle⟩
    rcases hnot with hnone | hlt
    · simp [hnone] at h
    · omega
  rw [State.unattTimer, if_neg hoff, hok]
  exact if_pos ⟨hun, hlong⟩

/-- The class of a cluster given back (R346). -/
theorem stagger_eq {s : State} {cls c due : Nat} {r : List (Nat × Nat × Nat)} (hr : s.belfry.restore = (cls, c, due) :: r)
    (hdue : due ≤ s.ns.toNat) :
    ∃ b, s.stagger cls c = { (s.modCluster c fun x => { x with shed := x.shed &&& ~~~(BitVec.twoPow 7
      (cls - 1)) }).unpark cls c with belfry := b }
      ∧ (c < 7 → b.restore = (cls, c + 1, due + 1000 * s.belfry.rgap) :: r) := by
  rw [State.stagger, hr]
  dsimp only
  rw [if_pos ⟨rfl, rfl, hdue⟩]
  exact ⟨_, rfl, fun h => if_pos h⟩

theorem parked_unpark {s : State} {cls c : Nat} : ∀ g ∈ (s.unpark cls c).groups, g.cluster = c → g.prio = cls →
    ∀ w ∈ g.waves, w.parked = none := by
  intro g hg hc hp w hw
  obtain ⟨x, _, rfl⟩ := List.mem_map.1 hg
  split at hw
  · obtain ⟨v, _, rfl⟩ := List.mem_map.1 hw
    split
    · assumption
    · rfl
  · rename_i hx
    rw [if_neg hx] at hc hp
    exact absurd ⟨hc, hp⟩ hx

/-- Settles O56: what an evaluation writes is told once (`told_evaluate`), a class that is shed stays shed through it, and
a frame, a period, the timer and a restore are read off that. -/
theorem belfryEvents : Obligations.BelfryEvents := by
  unfold Obligations.BelfryEvents
  refine ⟨fun s f h => congrArg _ (frame_of_invalid h), fun s f h => ?_, fun s => ⟨fun h => ?_, fun h => ?_⟩, fun s pm pd => ?_,
    fun s hover hdue => ?_, fun s k hnot hok hun hlong => congrArg _ (unattTimer_within hnot hok hun hlong),
    fun s cls c due r k hr hdue hk h1 h7 => ?_⟩
  · intro b lvl lim raw
    have htold := frame_told (s := s) h
    have hlevel : (b.take f s.ns.toNat).level = lvl := level_take b f _
    have hraw : (s.modBelfry fun b => b.take f s.ns.toNat).capRaw = raw := capRaw_eq _
    refine ⟨s.frame f, rfl, ?_⟩
    refine ⟨(congrArg Belfry.level htold :).trans hlevel, (congrArg Belfry.lost htold :), ?_, ?_,
      (congrArg Belfry.okFreq htold :),
      (congrArg Belfry.lastFrame htold :), (congrArg Belfry.freq htold :), (congrArg Belfry.vbus htold :),
      (congrArg Belfry.shelflim htold :), (congrArg Belfry.holdup htold :), fun c h1 h7 hc => ?_⟩
    · rw [← hraw]
      exact (congrArg Belfry.capunatt htold :)
    · rw [← hraw]
      exact (congrArg Belfry.capNow htold :)
    · refine allShed_frame h h1 h7 ?_
      rw [hlevel, hraw]
      exact hc
  · exact congrArg _ (if_pos h)
  · exact congrArg _ (if_neg (by omega))
  · have htold := told_period s pm pd
    have hpd : (s.period pm pd).belfry.pd = (List.range 4).map fun d => pd.getD d 0 := (congrArg Belfry.pd htold :)
    refine ⟨s.period pm pd, rfl, (congrArg Belfry.pm htold :), fun d hd => ?_, u_period s pm pd, um_period s pm pd,
      fun h => rate_period h pm pd, fun c h1 h7 hc => allShed_period h1 h7 hc⟩
    rw [hpd]
    simp [List.getD, hd]
  · obtain ⟨hunatt, hnext⟩ := unattTimer_belfry hover hdue
    exact ⟨s.unattTimer, rfl, hunatt, hnext, fun c h1 h7 _ habove => allShed_unattTimer hover hdue h1 h7 habove⟩
  · obtain ⟨b, e, hb⟩ := stagger_eq hr hdue
    refine ⟨s.stagger cls c, rfl, ?_, ?_, ?_, ?_⟩
    · rw [e]
      exact modAt_eq_set hk
    · rw [e]
      exact parked_unpark
    · rw [e]
      rfl
    · rw [e]
      exact hb

end Sys2Proof.Machine
end

section
/-! SUPPORT. Copies of a memory into another at a shift (O57). -/

namespace Sys2Proof.Machine

theorem lt_of_wfFrom {w k : Nat} {m : Sparse w} (h : Sparse.wfFrom (some k) m = true) : ∀ x ∈ m, k < x.1 := by
  induction m generalizing k with
  | nil => simp
  | cons y r ih =>
    obtain ⟨j, v⟩ := y
    obtain ⟨hk, -, hr⟩ := (Sparse.wfFrom_cons _ _ _ _).1 h
    have hkj : k < j := hk k rfl
    intro x hx
    rcases List.mem_cons.1 hx with rfl | hx
    · exact hkj
    · exact Nat.lt_trans hkj (ih hr x hx)

theorem wf_tail {m : Memory} {x : Host.Cell} (h : Memory.wf (x :: m) = true) :
    Memory.wf m = true ∧ ∀ y ∈ m, y.1 ≠ x.1 := by
  obtain ⟨k, v⟩ := x
  obtain ⟨-, -, hr⟩ := (Sparse.wfFrom_cons (w := 8) none k v m).1 h
  exact And.intro (Sparse.wfFrom_mono (w := 8) hr fun l e => nomatch e) fun y hy e =>
    absurd (lt_of_wfFrom (w := 8) hr y hy) (by simp [e])

/-- The entries of `m` whose address satisfies `p`, written at the addresses that `f` gives. -/
def copyTo (p : Nat → Prop) [DecidablePred p] (f : Nat → Nat) (m old : Memory) : Memory :=
  m.foldl (fun u x => if p x.1 then Memory.write u (f x.1) x.2 else u) old

section
variable {p : Nat → Prop} [DecidablePred p] {f : Nat → Nat}

theorem read_copyTo_other {m : Memory} (old : Memory) {b : Nat} (h : ∀ x ∈ m, p x.1 → f x.1 ≠ b) :
    (copyTo p f m old).read b = old.read b := by
  induction m generalizing old with
  | nil => rfl
  | cons x m ih =>
    refine (ih _ fun y hy => h y (List.mem_cons_of_mem _ hy)).trans ?_
    dsimp only
    split
    · next hp => rw [Memory.read_write, if_neg (h x (by simp) hp).symm]
    · rfl

theorem read_copyTo {m : Memory} (hm : m.wf = true) (old : Memory) {b k : Nat} (hk : p k)
    (hf : ∀ a, p a → (f a = b ↔ a = k)) (h0 : old.read b = 0) : (copyTo p f m old).read b = m.read k := by
  induction m generalizing old with
  | nil => exact h0
  | cons x m ih =>
    obtain ⟨hm', hne⟩ := wf_tail hm
    obtain ⟨a, v⟩ := x
    by_cases ha : a = k
    · subst ha
      have hother : ∀ y ∈ m, p y.1 → f y.1 ≠ b := fun y hy hp e => hne y hy ((hf _ hp).1 e)
      refine (read_copyTo_other _ hother).trans ?_
      dsimp only
      rw [if_pos hk, (hf a hk).2 rfl, Memory.read_write, if_pos rfl]
      exact (if_pos rfl).symm
    · have hread : Memory.read ((a, v) :: m) k = Memory.read m k := if_neg (Ne.symm ha)
      rw [hread]
      refine ih hm' _ ?_
      dsimp only
      split
      · next hp => rw [Memory.read_write, if_neg fun e => ha ((hf a hp).1 e.symm), h0]
      · exact h0

end

theorem bytes_writeBytes (m : Memory) (a : Nat) (bs : List (BitVec 8)) : (m.writeBytes a bs).bytes a bs.length = bs := by
  refine List.ext_getElem (by simp [Memory.bytes]) fun i h1 h2 => ?_
  simp [Memory.bytes, Memory.read_writeBytes, h2]

theorem nat_writeBytes (m : Memory) (a n v : Nat) : (m.writeBytes a (leBytes n v)).nat a n = v % 256 ^ n := by
  have h := bytes_writeBytes m a (leBytes n v)
  rw [leBytes_length] at h
  rw [Memory.nat, h, leNat_leBytes]

/-- Host memory without the window of an image. -/
def State.outsideImage (s : State) : Memory :=
  s.hostMem.filter fun x => decide (x.1 < s.imageAddr 0) || decide (s.imageAddr devBytes ≤ x.1)

theorem read_outsideImage (s : State) (a : Nat) :
    s.outsideImage.read a = if a < s.ckBase ∨ s.ckBase + devBytes ≤ a then s.hostMem.read a else 0 := by
  have h := Sparse.get_filter (w := 8) s.hostMem
    (p := fun x => decide (x.1 < s.imageAddr 0) || decide (s.imageAddr devBytes ≤ x.1))
    (q := fun i => decide (i < s.imageAddr 0) || decide (s.imageAddr devBytes ≤ i)) (fun _ => rfl) a
  refine h.trans (if_congr ?_ rfl rfl)
  rw [Bool.or_eq_true, decide_eq_true_eq, decide_eq_true_eq]
  rfl

theorem writeImage_eq (s : State) : s.writeImage =
    (copyTo (fun a => a < devBytes) s.imageAddr s.mem s.outsideImage).writeBytes (s.imageAddr devBytes)
      (leBytes 8 s.belfry.ckclk.toNat) := rfl

theorem readImage_eq (s : State) : s.readImage =
    copyTo (fun a => s.imageAddr 0 ≤ a ∧ a < s.imageAddr devBytes) (fun a => a - s.imageAddr 0) s.hostMem [] := rfl

theorem read_writeImage {s : State} (h : s.MemOk) {a : Nat} (ha : a < devBytes) :
    s.writeImage.read (s.ckBase + a) = s.mem.read a := by
  rw [writeImage_eq, Memory.read_writeBytes, if_neg (by simp [State.imageAddr]; omega)]
  refine read_copyTo h.1 _ ha (fun b _ => by simp [State.imageAddr]) ?_
  rw [read_outsideImage, if_neg (by omega)]

theorem read_writeImage_outside (s : State) {a : Nat} (ha : a < s.ckBase ∨ s.ckBase + devBytes + 8 ≤ a) :
    s.writeImage.read a = s.hostMem.read a := by
  rw [writeImage_eq, Memory.read_writeBytes, if_neg (by simp [State.imageAddr]; omega),
    read_copyTo_other _ (fun x _ hx => by simp only [State.imageAddr]; omega), read_outsideImage, if_pos (by omega)]

theorem nat_writeImage (s : State) : s.writeImage.nat (s.ckBase + devBytes) 8 = s.belfry.ckclk.toNat := by
  rw [writeImage_eq]
  refine (nat_writeBytes _ _ 8 _).trans (Nat.mod_eq_of_lt ?_)
  exact s.belfry.ckclk.isLt

theorem read_readImage {s : State} (h : s.MemOk) {a : Nat} (ha : a < devBytes) :
    s.readImage.read a = s.hostMem.read (s.ckBase + a) := by
  rw [readImage_eq]
  refine read_copyTo h.2.1 _ ⟨?_, ?_⟩ (fun b hb => ?_) rfl
  · simp [State.imageAddr]
  · simp [State.imageAddr, ha]
  · simp only [State.imageAddr] at hb ⊢
    omega

end Sys2Proof.Machine
end

section
/-! The checkpoint's and the dump's events (O57). -/

namespace Sys2Proof.Machine

theorem die_mem_or_reset (s : State) (d : Nat) : s.die d ∈ s.dies ∨ s.die d = Die.reset := by
  rw [State.die, List.getD_eq_getElem?_getD]
  cases h : s.dies[d]? with
  | none => exact .inr rfl
  | some x => exact .inl (List.mem_of_getElem? h)

theorem noneKept_die {s : State} (h : s.NoneKept) (d : Nat) :
    (s.die d).elHeld = [] ∧ (s.die d).zeroHeld = [] ∧
      ∀ r ∈ (s.die d).recs, r.status ≠ 0 ∧ r.slot.isSome = true ∧ r.late = false := by
  rcases die_mem_or_reset s d with hd | hd
  · exact h.2 _ hd
  · rw [hd]
    exact ⟨rfl, rfl, fun r hr => nomatch hr⟩

theorem modDie_eq_self {s : State} {d : Nat} {f : Die → Die} (h : f (s.die d) = s.die d) : s.modDie d f = s := by
  rw [State.modDie, modAt_eq_self h]

theorem clearHeld_of_noneKept {s : State} (h : s.NoneKept) (d : Nat) : s.clearHeld d = s := by
  obtain ⟨-, hzero, -⟩ := noneKept_die h d
  have hself : s.modDie d (fun x => { x with zeroHeld := [] }) = s := modDie_eq_self (by rw [← hzero])
  rw [State.clearHeld, hzero]
  exact hself

theorem releaseErrors_of_noneKept {s : State} (h : s.NoneKept) (d : Nat) : s.releaseErrors d = s := by
  obtain ⟨hel, -, -⟩ := noneKept_die h d
  have hself : s.modDie d (fun x => { x with elHeld := [] }) = s := modDie_eq_self (by rw [← hel])
  rw [State.releaseErrors, hel]
  exact hself

theorem flushRecords_of_noneKept {s : State} (h : s.NoneKept) (d : Nat) : s.flushRecords d = s := by
  obtain ⟨-, -, hrecs⟩ := noneKept_die h d
  have hnone : (s.die d).recs.filter (fun r => r.slot.isNone) = [] :=
    List.filter_eq_nil_iff.2 fun r hr => by simp [Option.isSome_iff_ne_none.1 (hrecs r hr).2.1]
  rw [State.flushRecords, hnone]
  rfl

/-- A die that has held nothing back has nothing to give out when the machine goes on. -/
theorem releaseHeld_of_noneKept {s : State} (h : s.NoneKept) (d : Nat) : s.releaseHeld d = s := by
  obtain ⟨-, -, hrecs⟩ := noneKept_die h d
  have hopen : (s.die d).recs.filter (fun r => r.status == 0) = [] :=
    List.filter_eq_nil_iff.2 fun r hr => by simpa using (hrecs r hr).1
  rw [State.releaseHeld, clearHeld_of_noneKept h, hopen]
  exact (congrArg (State.releaseErrors · d) (flushRecords_of_noneKept h d)).trans (releaseErrors_of_noneKept h d)

theorem dies_of_noneKept {s : State} (h : s.NoneKept) :
    (s.dies.map fun (d : Die) => { d with recs := d.recs.map fun (r : FaultRec) => { r with late := false } }) = s.dies := by
  refine (List.map_congr_left fun d hd => ?_).trans (List.map_id _)
  have hrecs : (d.recs.map fun (r : FaultRec) => { r with late := false }) = d.recs := by
    refine (List.map_congr_left fun r hr => ?_).trans (List.map_id _)
    rw [← ((h.2 d hd).2.2 r hr).2.2]
    rfl
  rw [hrecs]
  rfl

theorem resume_of_noneKept {s : State} (h : s.NoneKept) :
    s.resume = { s with belfry := { s.belfry with halted := false } } := by
  have hs : ({ s with belfry := { s.belfry with halted := false } } : State).NoneKept := h
  rw [State.resume, dies_of_noneKept h, List.foldl_fixed' (releaseHeld_of_noneKept hs)]
  exact settleAll_none h.1

theorem startCheckpoint_of_nothingHeld {s : State} (hck : s.belfry.ckpt ≠ 1) (hgo : s.belfry.halted = false)
    (h : s.NothingHeld) :
    s.startCheckpoint = { s with
      dies := s.dies.map fun d => d.setFop s.ns.toNat 0
      belfry := { s.belfry with
        halted := true, restoring2 := false, ckclk := s.ns
        ckpt := if s.ckwinOk then 1 else 3, bckgo := if s.ckwinOk then 1 else 0 } } := by
  rw [State.startCheckpoint, if_neg (by simp [hck, hgo]), performEvery_of_nothingHeld h]

theorem startRestore_eq {s : State} (hck : s.belfry.ckpt ≠ 1) (hgo : s.belfry.halted = false) :
    s.startRestore = if s.ckwinOk = false ∨ s.imageStamp = 0 then s.modBelfry fun b => { b with ckpt := 3, bckgo := 0 }
      else s.modBelfry fun b => { b with ckpt := 1, bckgo := 2, restoring2 := true, halted := true } := by
  rw [State.startRestore, if_neg (by simp [hck, hgo])]

theorem writeBckgo_of_running {s : State} (h : s.belfry.ckpt = 1) (v : Word) : s.writeBckgo v = s := if_pos h

theorem writeBckgo_go {s : State} (h : s.belfry.ckpt ≠ 1) : s.writeBckgo 1 = s.startCheckpoint := by
  rw [State.writeBckgo, if_neg h]
  rfl

theorem writeBckgo_restore {s : State} (h : s.belfry.ckpt ≠ 1) : s.writeBckgo 2 = s.startRestore := by
  rw [State.writeBckgo, if_neg h]
  rfl

/-- The end of a copy, whatever memory it has put into its place. -/
theorem resume_of_noneKept' {s t : State} (h : s.NoneKept) (hc : t.changes = s.changes) (hd : t.dies = s.dies) :
    t.resume = { t with belfry := { t.belfry with halted := false } } :=
  resume_of_noneKept ⟨hc.trans h.1, hd ▸ h.2⟩

theorem copyDone_eq {s : State} (hh : s.belfry.halted = true) (hck : s.belfry.ckpt = 1) (hre : s.belfry.restoring2 = false)
    (hidle : s.enginesIdle = true) (hlink : s.linkUp 0 = true ∨ s.linkUp 1 = true) (h : s.NoneKept) :
    s.copyDone = { s with hostMem := s.writeImage, belfry := { s.belfry with ckpt := 2, bckgo := 0, halted := false } } := by
  rw [State.copyDone, if_pos ⟨hh, hck, hre, hidle, Bool.or_eq_true_iff.2 hlink⟩]
  generalize s.writeImage = m
  exact resume_of_noneKept' h rfl rfl

theorem restoreDone_eq {s : State} (hck : s.belfry.ckpt = 1) (hre : s.belfry.restoring2 = true)
    (hlink : s.linkUp 0 = true ∨ s.linkUp 1 = true) (h : s.NoneKept) :
    s.restoreDone = { s with
      mem := s.readImage, memBad := []
      belfry := { s.belfry with ckpt := 2, bckgo := 0, restoring2 := false, halted := false } } := by
  rw [State.restoreDone, if_pos ⟨hck, hre, Bool.or_eq_true_iff.2 hlink⟩]
  generalize s.readImage = m
  exact resume_of_noneKept' h rfl rfl

/-! ### The core dump -/

/-- What a group is beside its waves stays, and so do the dies. -/
structure SameShells (s t : State) : Prop where
  dies : t.dies = s.dies
  shells : t.shells = s.shells

theorem SameShells.trans {s t u : State} (h : SameShells s t) (k : SameShells t u) : SameShells s u :=
  ⟨k.dies.trans h.dies, k.shells.trans h.shells⟩

theorem sameShells_modWave (s : State) (g x : Nat) (f : Wave → Wave) : SameShells s (s.modWave g x f) := by
  refine ⟨rfl, ?_⟩
  simp only [State.shells, State.modWave, State.modGroup, List.map_map]
  refine List.map_congr_left fun y _ => ?_
  simp only [Function.comp_apply, Group.modWave]
  split <;> rfl

theorem sameShells_modSlots (f : HruSlot → HruSlot) (ks : List Nat) (s : State) :
    SameShells s (ks.foldl (fun (t : State) k => t.modSlot k f) s) := by
  induction ks generalizing s with
  | nil => exact ⟨rfl, rfl⟩
  | cons k ks ih => exact (⟨rfl, rfl⟩ : SameShells s (s.modSlot k f)).trans (ih _)

theorem sameShells_giveUp (s : State) (e : Eng) : SameShells s (s.giveUp e).1 := by
  unfold State.giveUp
  extract_lets cq hq ss t u
  have ht : SameShells s t := sameShells_modWave s _ _ _
  refine ht.trans ?_
  change SameShells t u
  unfold u
  split
  · exact sameShells_modSlots _ _ t
  · exact ⟨rfl, rfl⟩

theorem sameShells_giveUpAll (gid : Nat) (xs : List Nat) (s : State) : SameShells s (s.giveUpAll gid xs).1 := by
  induction xs generalizing s with
  | nil => exact ⟨rfl, rfl⟩
  | cons x xs ih =>
    unfold State.giveUpAll
    split
    · exact ih s
    · exact (sameShells_giveUp s _).trans (ih _)

/-- Groups that are equal but for their waves are halted alike. -/
theorem halted_of_shells {s t : State} (h : t.shells = s.shells) {g : Group}
    (hs : ∀ x ∈ s.groups, g.mates x = true → x.halted = true) :
    ∀ x ∈ t.groups, g.mates x = true → x.halted = true := by
  intro x hx hmate
  have hm : ({ x with waves := [] } : Group) ∈ s.shells := h ▸ List.mem_map_of_mem hx
  obtain ⟨y, hy, e⟩ := List.mem_map.1 hm
  have hid : y.id = x.id := (congrArg Group.id e :)
  have hband : y.band = x.band := (congrArg Group.band e :)
  have hhalted : y.halted = x.halted := (congrArg Group.halted e :)
  rw [← hhalted]
  refine hs y hy ?_
  rw [Group.mates, hid, hband]
  exact hmate

/-- The waves of a group made visible, and its band stopped: how a dump begins (R374). -/
def State.stopBand (s : State) (g : Group) : State :=
  let s1 := g.waves.foldl (fun (t : State) w => (t.performLoads g.id w.wix fun _ => true).drain g.id w.wix) s
  { s1 with groups := s1.groups.map fun x => if g.mates x then { x with halted := true } else x }

theorem dies_stopBand (s : State) (g : Group) : (s.stopBand g).dies = s.dies :=
  congrArg (fun x => x.2.2) (power_foldl
    (fun (t : State) (w : Wave) => (t.performLoads g.id w.wix fun _ => true).drain g.id w.wix)
    (fun t w => (power_release _ g.id w.wix 4).trans (power_performLoads t g.id w.wix _)) g.waves s)

theorem halted_stopBand (s : State) (g : Group) : ∀ x ∈ (s.stopBand g).groups, g.mates x = true → x.halted = true := by
  intro x hx hmate
  obtain ⟨y, _, rfl⟩ := List.mem_map.1 hx
  split
  · rfl
  · next hy =>
    rw [if_neg hy] at hmate
    exact absurd hmate hy

theorem haltFor_eq (s : State) (d : Nat) (g : Group) :
    ∃ t f, s.haltFor d g = t.modDump d f ∧ SameShells (s.stopBand g) t
      ∧ ∀ r, (f r).halt = some s.ns ∧ ((f r).group, (f r).cause) = (r.group, r.cause) :=
  ⟨((s.stopBand g).giveUpAll g.id (g.waves.map fun w => w.wix)).1,
    fun r => { r with
      halt := some s.ns
      lost := ((s.stopBand g).giveUpAll g.id (g.waves.map fun w => w.wix)).2
      errs := ((((s.stopBand g).giveUpAll g.id (g.waves.map fun w => w.wix)).1.group? g.id).map Group.errCount).getD 0 },
    rfl, sameShells_giveUpAll _ _ _, fun _ => ⟨rfl, rfl⟩⟩

theorem dumps_modDump {s : State} {d : Nat} {x : DumpReq} {xs : List DumpReq} (h : (s.die d).dumps = x :: xs)
    (f : DumpReq → DumpReq) :
    ((s.modDump d f).die d).dumps = f x :: xs := by
  have hd : d < s.dies.length := by
    by_contra hn
    rw [State.die, List.getD_eq_default _ _ (by omega)] at h
    cases h
  rw [State.die, State.modDump, State.modDie_own, modAt_getD, if_pos ⟨rfl, hd⟩]
  show modAt f 0 (s.die d).dumps = _
  rw [h]
  rfl

theorem exec_coreDump (s : State) (die : Nat) :
    exec (.coreDump die) s = .next (if s.belfry.halted then s else s.dumpStep die) := rfl

theorem dumpStep_idle {s : State} {d : Nat} (h : (s.die d).dumps = []) : s.dumpStep d = s := by
  rw [State.dumpStep, h]

/-- The step of the first dump of a die (R374). -/
theorem dumpStep_eq {s : State} {die : Nat} {d : DumpReq} {ds : List DumpReq} {g : Group} {l : Launch}
    (hd : (s.die die).dumps = d :: ds) (hg : s.group? d.group = some g) (hl : s.launch? g.launch = some l)
    (he : g.ended = false) :
    s.dumpStep die = if d.halt.isNone then s.haltFor die g
      else
        let (t, lost) := s.giveUpAll g.id (g.waves.map fun w => w.wix)
        if !lost.isEmpty then t.modDump die fun x => { x with lost := x.lost ++ lost, second := true }
        else if g.drained then (s.writeDump d l g).endDump die g
        else s := by
  rw [State.dumpStep, hd]
  dsimp only
  rw [hg]
  dsimp only
  rw [hl]
  dsimp only
  rw [he]
  rfl

theorem coreDump_halts {s : State} {die : Nat} {d : DumpReq} {ds : List DumpReq} {g : Group}
    (hd : (s.die die).dumps = d :: ds) :
    (∀ x ∈ (s.haltFor die g).groups, x.id = g.id ∨ (g.band.isSome = true ∧ x.band = g.band) → x.halted = true)
      ∧ ∃ d', ((s.haltFor die g).die die).dumps = d' :: ds
        ∧ d'.halt = some s.ns ∧ (d'.group, d'.cause) = (d.group, d.cause) := by
  obtain ⟨t, f, e, hsame, hf⟩ := haltFor_eq s die g
  rw [e]
  constructor
  · intro x hx hmate
    exact halted_of_shells hsame.shells (halted_stopBand s g) x hx (by simpa [Group.mates] using hmate)
  · have hdumps : (t.die die).dumps = d :: ds := by
      rw [← hd, State.die, State.die, hsame.dies, dies_stopBand]
    exact ⟨f d, dumps_modDump hdumps f, hf d⟩

/-- Settles O57: a machine that has kept nothing back resumes without a change, the image is memory read through
a copy at a shift, and a dump's first step halts the band before anything is written. -/
theorem checkpointAndDumpEvents : Obligations.CheckpointAndDumpEvents := by
  unfold Obligations.CheckpointAndDumpEvents
  refine ⟨fun s i hi hck => ?_, fun s hck hgo hnear hheld => ?_, fun s hck hgo => ⟨fun hok hst => ?_, fun hbad => ?_⟩,
    fun s hmem hh hck hre hidle hlink _ hkept => ?_, fun s hh hck hkept => ?_, fun s hmem hck hre hlink _ hkept => ?_,
    fun s die hidle => ?_, fun s die d ds g l hgo hd hg hl he hhalt => ?_, fun s die d ds g l hgo hd hg hl he hhalt hlost => ?_⟩
  · rcases hi with rfl | rfl <;> exact congrArg _ (writeBckgo_of_running hck _)
  · exact congrArg _ ((writeBckgo_go hck).trans (startCheckpoint_of_nothingHeld hck hgo ⟨hnear, hheld⟩))
  · refine congrArg _ ((writeBckgo_restore hck).trans ((startRestore_eq hck hgo).trans (if_neg ?_)))
    simp [hok, hst]
  · exact congrArg _ ((writeBckgo_restore hck).trans ((startRestore_eq hck hgo).trans (if_pos hbad)))
  · refine ⟨s.copyDone, rfl, ?_⟩
    rw [copyDone_eq hh hck hre hidle hlink hkept]
    have hin := fun a (ha : a < devBytes) => read_writeImage hmem ha
    have hout := fun a (ha : a < s.ckBase ∨ s.ckBase + devBytes + 8 ≤ a) => read_writeImage_outside s ha
    have hstamp := nat_writeImage s
    generalize s.writeImage = m at *
    exact ⟨rfl, hin, hout, hstamp⟩
  · refine congrArg _ ((if_congr ?_ (resume_of_noneKept hkept) rfl).trans rfl)
    simp [hh, hck]
  · refine ⟨s.restoreDone, rfl, ?_⟩
    rw [restoreDone_eq hck hre hlink hkept]
    have hin := fun a (ha : a < devBytes) => read_readImage hmem ha
    generalize s.readImage = m at *
    exact ⟨rfl, rfl, hin⟩
  · refine (exec_coreDump s die).trans (congrArg Host.Outcome.next ?_)
    rcases hidle with hh | hd
    · exact if_pos hh
    · rw [dumpStep_idle hd, ite_self]
  · obtain ⟨hgroups, d', hdumps, hns, hsame⟩ := coreDump_halts (g := g) hd
    refine ⟨s.haltFor die g, d', (exec_coreDump s die).trans (congrArg Host.Outcome.next ?_), hgroups, hdumps, hns, hsame⟩
    rw [if_neg (by simp [hgo]), dumpStep_eq hd hg hl he, hhalt]
    rfl
  · refine (exec_coreDump s die).trans (congrArg Host.Outcome.next ?_)
    rw [if_neg (by simp [hgo]), dumpStep_eq hd hg hl he, if_neg (by simpa [Option.isSome_iff_ne_none] using hhalt)]
    dsimp only
    rw [hlost]
    rfl

end Sys2Proof.Machine
end

section
/-! SUPPORT. Counters written, marked and lowered for launches (R314 to R317; O46, O59). -/

namespace Sys2Proof.Machine

/-! ### The fields of a counter (R314) -/

/-- A field that `setBits` has replaced. -/
theorem toNat_extract_setBits_same {w : Nat} (v : BitVec w) {lo n : Nat} (x : Nat) (h : lo + n ≤ w) :
    ((setBits v lo n x).extractLsb' lo n).toNat = x % 2 ^ n := by
  refine Nat.eq_of_testBit_eq fun i => ?_
  rw [BitVec.testBit_toNat, BitVec.getLsbD_extractLsb', Nat.testBit_mod_two_pow]
  by_cases hi : i < n
  · rw [getLsbD_setBits _ _ _ _ _ (by omega), if_pos (by omega), Nat.add_sub_cancel_left]
  · simp [hi]

/-- A field that `setBits` has not replaced. -/
theorem extract_setBits_other {w : Nat} (v : BitVec w) {lo n : Nat} (x : Nat) {lo' n' : Nat} (hw : lo' + n' ≤ w)
    (h : lo' + n' ≤ lo ∨ lo + n ≤ lo') : (setBits v lo n x).extractLsb' lo' n' = v.extractLsb' lo' n' := by
  refine BitVec.eq_of_getLsbD_eq fun i hi => ?_
  rw [BitVec.getLsbD_extractLsb', BitVec.getLsbD_extractLsb', getLsbD_setBits _ _ _ _ _ (by omega), if_neg (by omega)]

theorem extract_zero (w lo n : Nat) : (0 : BitVec w).extractLsb' lo n = 0 := by
  refine BitVec.eq_of_getLsbD_eq fun i hi => ?_
  simp

/-- The counter that `launch` writes (R314). -/
theorem counterIs_counterStart (old : BitVec 256) (remain : Nat) {state err : Nat} (pbound : Nat) (hs : state < 4)
    (he : err < 256) :
    CounterIs (counterStart old remain state err pbound) remain state false err 0 (cntParent old) pbound where
  remain := by
    rw [counterStart, extract_setBits_other _ _ (by omega) (by omega), extract_setBits_other _ _ (by omega) (by omega),
      extract_setBits_other _ _ (by omega) (by omega), extract_setBits_other _ _ (by omega) (by omega),
        toNat_extract_setBits_same _ _ (by omega)]
  state := by
    rw [counterStart, extract_setBits_other _ _ (by omega) (by omega), extract_setBits_other _ _ (by omega) (by omega),
      extract_setBits_other _ _ (by omega) (by omega), toNat_extract_setBits_same _ _ (by omega)]
    exact Nat.mod_eq_of_lt hs
  canreq := by
    rw [counterStart]
    simp only [getLsbD_setBits _ _ _ _ 66 (by omega : 66 < 256)]
    simp
  res := by
    rw [counterStart, extract_setBits_other _ _ (by omega) (by omega), extract_setBits_other _ _ (by omega) (by omega),
      extract_setBits_other _ _ (by omega) (by omega), extract_setBits_other _ _ (by omega) (by omega),
      extract_setBits_other _ _ (by omega) (by omega), extract_zero]
  err := by
    rw [counterStart, extract_setBits_other _ _ (by omega) (by omega), extract_setBits_other _ _ (by omega) (by omega),
      toNat_extract_setBits_same _ _ (by omega)]
    exact Nat.mod_eq_of_lt he
  resv := by
    rw [counterStart, extract_setBits_other _ _ (by omega) (by omega), extract_setBits_other _ _ (by omega) (by omega),
      extract_setBits_other _ _ (by omega) (by omega), extract_setBits_other _ _ (by omega) (by omega),
      extract_setBits_other _ _ (by omega) (by omega), extract_zero]
  kills := by
    rw [counterStart, extract_setBits_other _ _ (by omega) (by omega), extract_setBits_other _ _ (by omega) (by omega),
      extract_setBits_other _ _ (by omega) (by omega), extract_setBits_other _ _ (by omega) (by omega),
      extract_setBits_other _ _ (by omega) (by omega), extract_zero]
    rfl
  parent := by
    rw [counterStart, extract_setBits_other _ _ (by omega) (by omega)]
    refine BitVec.eq_of_toNat_eq ?_
    rw [toNat_extract_setBits_same _ _ (by omega)]
    exact Nat.mod_eq_of_lt (cntParent old).isLt
  pbound := by
    rw [counterStart, toNat_extract_setBits_same _ _ (by omega)]

/-- `CANREQ` set (R317). -/
theorem setBits_canreq (c : BitVec 256) : setBits c 66 1 1 = c ||| BitVec.twoPow 256 66 := by
  refine BitVec.eq_of_getLsbD_eq fun b hb => ?_
  rw [getLsbD_setBits _ _ _ _ _ hb, BitVec.getLsbD_or, BitVec.getLsbD_twoPow]
  by_cases h : b = 66
  · subst h
    simp
  · rw [if_neg (by omega)]
    simp [Ne.symm h]

/-! ### One change of a counter after another -/

section
variable {s t u : State} {die ctx core wslot : Nat} {lid : Nat}

/-- The state with other launches in it and no change pending: what settling leaves of a state that has none. -/
theorem MemoryOnly.keeps (h : MemoryOnly s t) : t.launches = s.launches ∧ t.changes = s.changes ∧ t.still = s.still :=
  ⟨(congrArg State.launches h :), (congrArg State.changes h :), (congrArg State.still h :)⟩

theorem MemoryOnly.noChanges (h : MemoryOnly s t) (hn : s.NoChanges) : t.NoChanges := by
  obtain ⟨-, hc, hs⟩ := h.keeps
  exact ⟨hc.trans hn.1, hs.trans hn.2⟩

theorem MemoryOnly.launch? (h : MemoryOnly s t) (i : Nat) : t.launch? i = s.launch? i := by
  rw [State.launch?, State.launch?, h.keeps.1]

theorem beside_self (h : s.changes = []) : s.beside s.dies s.launches [] = s := by
  rw [State.beside, ← h]

/-- A change when none waits. -/
theorem launchChange_eq (hn : s.NoChanges) (x : Change) :
    s.launchChange lid x die core wslot = (s.beside s.dies s.launches [⟨x, lid, none, die, core, wslot, none⟩]).settle 64 := by
  rw [State.launchChange, State.change, hn.1]
  exact settleAll_one hn.2 _ _ _

/-- A counter lowered for a launch is what `Lowered` says (R315). -/
theorem launchChange_dec {k : Nat} {va : DWord} {n : Int} (hn : s.NoChanges)
    (hctx : (s.launch? lid).map (fun l => l.ctx) = some ctx)
    (h : Lowered die ctx k s va n t) (hk : k ≤ 64) : s.launchChange lid (.dec va n) die core wslot = t := by
  obtain ⟨hl, hc, -⟩ := h.memoryOnly.keeps
  rw [launchChange_eq hn, settle_lowered h hctx hk, ← hl, show s.dies = t.dies from (congrArg State.dies h.memoryOnly :).symm]
  exact beside_self (hc.trans hn.1)

/-- `CANREQ` set in one counter for a launch (R317). -/
theorem launchChange_mark {va : DWord} {p : Phys} (hn : s.NoChanges) (hctx : (s.launch? lid).map (fun l => l.ctx) = some ctx)
    (hp : s.place die ctx true .atomic va.toNat 32 = .ok [(p, 32)]) :
    s.launchChange lid (.mark va none true) die core wslot
      = s.physWrite p (leBytes 32 (counterOf (s.physRead p 32) ||| BitVec.twoPow 256 66).toNat) := by
  obtain ⟨m, hm⟩ : ∃ m, m = s.physWrite p (leBytes 32 (counterOf (s.physRead p 32) ||| BitVec.twoPow 256 66).toNat) := ⟨_, rfl⟩
  have hmem : MemoryOnly s m := hm ▸ .physWrite ..
  obtain ⟨hl, hc, -⟩ := hmem.keeps
  have hd : m.dies = s.dies := (congrArg State.dies hmem :)
  rw [launchChange_eq hn, settle_one (x := .mark va none true) hctx hp ⟨rfl, rfl, rfl⟩ (leBytes_length ..), ← hm]
  refine (settle_none _ rfl 63).trans ?_
  rw [← hd, ← hl]
  refine Eq.trans ?_ (beside_self (hc.trans hn.1))
  rw [hm, ← setBits_canreq]
  rfl

theorem Marked.memoryOnly {vas : List DWord} (h : Marked die ctx s vas t) : MemoryOnly s t := by
  induction h with
  | none s => exact rfl
  | more s t va r p hp _ ih => exact (MemoryOnly.physWrite s p _).trans ih

/-- The counters that are marked for a launch are those of `Marked`. -/
theorem markAll_eq {vas : List DWord} (h : Marked die ctx s vas t) (hn : s.NoChanges)
    (hctx : (s.launch? lid).map (fun l => l.ctx) = some ctx) : s.markAll lid core wslot die vas = t := by
  induction h with
  | none s => rfl
  | more s t va r p hp _ ih =>
    have hmem := MemoryOnly.physWrite s p (leBytes 32 (counterOf (s.physRead p 32) ||| BitVec.twoPow 256 66).toNat)
    rw [State.markAll, launchChange_mark hn hctx hp]
    exact ih (hmem.noChanges hn) (by rw [hmem.launch?]; exact hctx)

end

/-! ### A launch stopped (R317) -/

section
variable {s m u : State} {die core wslot : Nat} {l : Launch}

/-- The launch stops, and its undispatched units come off its counter; whichever wave it is done for. -/
theorem drainLaunch_takenOff (hl : s.launch? l.id = some l) (hn : s.NoChanges) (hu : TakenOff die l s u) :
    s.drainLaunch l.id die core wslot
      = { u with launches := if l.stopped = true then u.launches else u.launches.map (Launch.still l.id) } := by
  obtain ⟨hlaunches, hchanges, hstill⟩ := hu.memoryOnly.keeps
  have hdies : u.dies = s.dies := (congrArg State.dies hu.memoryOnly :)
  by_cases hstop : l.stopped = true
  · obtain ⟨-, rfl⟩ | ⟨h, -⟩ := hu
    · rw [State.drainLaunch, State.stopLaunch, hl]
      simp only [if_pos hstop]
      exact settleAll_none hn.1
    · exact absurd (hstop.symm.trans h) Bool.noConfusion
  · have hstopped : s.stopLaunch l.id die core wslot = s.beside s.dies (s.launches.map (Launch.still l.id))
        (if l.left = 0 then [] else [⟨.dec l.counterVa l.left, l.id, none, die, core, wslot, none⟩]) := by
      rw [State.stopLaunch, hl]
      simp only [if_neg hstop, hn.1, List.nil_append]
      rfl
    have hleft : u.beside s.dies (s.launches.map (Launch.still l.id)) []
        = { u with launches := u.launches.map (Launch.still l.id) } := by
      rw [State.beside, ← hdies, ← hlaunches, ← hchanges.trans hn.1]
    rw [State.drainLaunch, hstopped, if_neg hstop, ← hleft]
    obtain ⟨h | h, rfl⟩ | ⟨-, hne, k, hk, hlow⟩ := hu
    · exact absurd h hstop
    · rw [if_pos h]
      exact settleAll_none rfl
    · have hfind : ((s.launches.map (Launch.still l.id)).find? fun x => x.id == l.id).map (fun x => x.ctx) = some l.ctx := by
        have hmap := find_map (fun x : Launch => x.id) l.id l.id (fun x => { x with stopped := true, rl := [], left := 0 })
          (fun _ => rfl) s.launches
        refine (congrArg (Option.map fun x => x.ctx) hmap).trans ?_
        rw [show s.launches.find? _ = some l from hl]
        simp only [Option.map_some, if_true]
        rfl
      rw [if_neg hne, settleAll_one hn.2]
      exact settle_lowered hlow hfind hk

/-- A launch below a cancelled counter (R317). -/
theorem cancelLaunch_eq {below : List DWord} {a : DWord} {trap : Bool} (hl : s.launch? l.id = some l) (hn : s.NoChanges)
    (hm : Marked die l.ctx s below m) (hu : TakenOff die l m u) :
    s.cancelLaunch l below a trap die core wslot = { u with
      launches := if l.stopped = true then u.launches else u.launches.map (Launch.still l.id)
      groups := if trap = true then cancelMarks l a u.groups else u.groups } := by
  have hl' : m.launch? l.id = some l := (hm.memoryOnly.launch? _).trans hl
  have hctx : (s.launch? l.id).map (fun l => l.ctx) = some l.ctx := by rw [hl]; rfl
  rw [State.cancelLaunch, markAll_eq hm hn hctx]
  simp only [drainLaunch_takenOff hl' (hm.memoryOnly.noChanges hn) hu]
  cases trap
  · rfl
  · simp [cancelMarks]

/-- What is left when several launches have been cancelled has no change pending. -/
theorem cancelUnder_eq {q : Reader} {p : Phys} {a : DWord} {trap : Bool} {ls : List Launch} (h : Cancelled q p a trap s ls u)
    (hn : s.NoChanges) : s.cancelUnder q p a trap core wslot ls = u := by
  induction h with
  | none s => rfl
  | other s t l ls hpath _ ih =>
    rw [State.cancelUnder, hpath]
    exact ih hn
  | hit s m u t l ls below hpath hl hm hu _ ih =>
    rw [State.cancelUnder, hpath]
    simp only [cancelLaunch_eq hl hn hm hu]
    obtain ⟨hc, hs⟩ := hu.memoryOnly.noChanges (hm.memoryOnly.noChanges hn)
    exact ih ⟨hc, hs⟩

theorem Cancelled.none_of_paths {q : Reader} {p : Phys} {a : DWord} {trap : Bool} {ls : List Launch}
    (h : ∀ l ∈ ls, s.counterPath q l p = .none) : Cancelled q p a trap s ls s := by
  induction ls with
  | nil => exact .none s
  | cons l ls ih => exact .other s s l ls (h l (.head _)) (ih fun x hx => h x (.tail _ hx))

/-- CANCEL of a counter, by whichever word or job it is asked for (R317). -/
theorem cancelDoes_of {q : Reader} {ctx : Nat} {a : DWord} {trap : Bool} {ends : State → Prop}
    (h : ∀ u, s.cancelCounter q ctx a trap core wslot = .ok u → ends u) : CancelDoes s q ctx a trap ends := by
  intro p hp hgood hn s1
  have hs1 : s1.NoChanges := (MemoryOnly.physWrite s p _).noChanges hn
  have hall : ∀ u, Cancelled q p a trap s1 (s.launches.filter s.live) u → ends u := by
    intro u hu
    refine h u ?_
    rw [State.cancelCounter, hp]
    simp only [hgood, Bool.false_eq_true, if_false, setBits_canreq]
    exact congrArg Except.ok (cancelUnder_eq hu hs1)
  refine ⟨fun hno => hall s1 (.none_of_paths fun l hl => ?_), hall⟩
  obtain ⟨hmem, hlive⟩ := List.mem_filter.1 hl
  exact hno l hmem hlive

end

end Sys2Proof.Machine
end

section
/-! SUPPORT. What LAUNCH leaves behind (R296, R316; O46, O59). -/

namespace Sys2Proof.Machine

variable {s : State} {q : Reader} {l l0 : Launch} {p : Phys}

/-- A launch with the structures that its record names. -/
def Launch.withParts (l : Launch) (im om : Option (BitVec 512)) (mct : Sparse 64) (hdr : BitVec 512) (head n : Nat) : Launch :=
  { l with inmap := im, outmap := om, mct, poolHdr := hdr, poolHead := head, logN := n }

/-- Reading the structures changes nothing else in a launch. -/
theorem readParts_ok (h : s.readParts q l0 = .ok l) : ∃ im om mct hdr head n, l = l0.withParts im om mct hdr head n := by
  unfold State.readParts at h
  cases h0 : s.readPart q l0 0 with
  | error f => rw [h0] at h; exact nomatch h
  | ok im =>
  cases h1 : s.readPart q l0 1 with
  | error f => rw [h0, h1] at h; exact nomatch h
  | ok om =>
  cases h2 : s.readPart q l0 2 with
  | error f => rw [h0, h1, h2] at h; exact nomatch h
  | ok mct =>
  cases h3 : s.readPart q l0 3 with
  | error f => rw [h0, h1, h2, h3] at h; exact nomatch h
  | ok ph =>
  cases h4 : s.readPart q l0 4 with
  | error f => rw [h0, h1, h2, h3, h4] at h; exact nomatch h
  | ok n =>
  rw [h0, h1, h2, h3, h4] at h
  exact ⟨_, _, _, _, _, _, (Except.ok.inj h).symm⟩

/-- Whether the record is refused does not depend on the structures it names. -/
theorem refusal_withParts (s : State) (l : Launch) (im om : Option (BitVec 512)) (mct : Sparse 64)
    (hdr : BitVec 512) (head n : Nat) :
    s.refusal (l.withParts im om mct hdr head n) = s.refusal l := rfl

theorem lexts_prod (l : Launch) : prod l.lexts = l.lext 0 * l.lext 1 * l.lext 2 * l.lext 3 := by
  simp [Launch.lexts, prod, List.range_succ]

/-- `launch` of a record whose reads all succeed (R316). -/
theorem launchRecord_reads {ctx prio : Nat} {a : DWord} {b : Word} {v : BitVec 256} (h : s.LaunchReads q ctx prio a b l p v)
    (core wslot : Nat) :
    s.launchRecord q ctx prio a b core wslot = match s.refusal l <|> l.mapRefusal with
      | some reason => .done (s.refuse l p v reason q.die core wslot)
      | none => match s.countersUp q l.ctx parentDepth (cntParent v) with
        | (_, some f) => .fault f
        | (above, none) => .done (s.start q l p v above core wslot) := by
  obtain ⟨⟨bs, hbs, hrec⟩, hcls, hright, hparts, ⟨old, hold, rfl⟩, hplace, -⟩ := h
  obtain ⟨l0, hl0⟩ : ∃ l0, l0 = { Launch.draft s.nextId l.lrec l.cls with recVa := a } := ⟨_, rfl⟩
  rw [← hl0] at hparts
  obtain ⟨im, om, mct, hdr, head, n, hl⟩ := readParts_ok hparts
  have hwhy : s.refusal l = s.refusal l0 := hl ▸ refusal_withParts s l0 im om mct hdr head n
  have hplace0 : s.counterPlace q l0 = .ok p := by
    rw [State.counterPlace, show s.translate q.die l0.ctx q.priv .store l0.counterVa.toNat 32 = .ok p by rw [← hplace, hl]; rfl]
  have hctx : l0.ctx = l.ctx := by rw [hl]; rfl
  have hva : l0.counterVa = l.counterVa := by rw [hl]; rfl
  have hno : ¬((!b.getLsbD 3) = true ∧ l.cls < prio) := by
    rintro ⟨h3, hlt⟩
    have := hright (by simpa using h3)
    omega
  rw [State.launchRecord, hbs]
  simp only [← hrec, ← hcls, if_neg hno, ← hl0, hparts, hplace0, ← hwhy, hctx, hva, hold] <;> rfl

/-- The reasons for which a record is refused fit into `ERRCODE` (R296). -/
theorem refusal_le {k : Nat} (h : s.refusal l = some k ∨ (s.refusal l = none ∧ l.mapRefusal = some k)) : k < 256 := by
  have hrec : s.refusal l = some k → k < 256 := by
    rw [State.refusal]
    intro h
    split at h
    · cases h; decide
    · split at h
      · cases h; decide
      · split at h
        · cases h; decide
        · split at h
          · cases h; decide
          · exact nomatch h
  rcases h with h | ⟨-, h⟩
  · exact hrec h
  · rw [Launch.mapRefusal] at h
    obtain ⟨-, h⟩ := Option.ite_none_right_eq_some.1 h
    cases h
    decide

theorem orElse_of_refused {k : Nat} (h : s.refusal l = some k ∨ (s.refusal l = none ∧ l.mapRefusal = some k)) :
    (s.refusal l <|> l.mapRefusal) = some k := by
  rcases h with h | ⟨h, h'⟩
  · rw [h]; rfl
  · rw [h, h']; rfl

/-- The launch that `launch` queues is found by its number. -/
theorem find_queued {xs : List Launch} {L : Launch} (h : ∀ x ∈ xs, x.id ≠ L.id) :
    (xs ++ [L]).find? (fun x => x.id == L.id) = some L := by
  have hnone : xs.find? (fun x => x.id == L.id) = none := List.find?_eq_none.2 fun x hx => by simpa using h x hx
  rw [List.find?_append, hnone]
  simp

/-- What the Marver notes of a launch that it looks at. -/
theorem lookAt_eq (s : State) (l : Launch) : ∃ seen since, s.lookAt l = { l with poolSeen := seen, since } := by
  unfold State.lookAt
  split
  · split
    · exact ⟨_, _, rfl⟩
    · unfold Launch.sawTail
      split <;> exact ⟨_, _, rfl⟩
  · exact ⟨_, _, rfl⟩

/-- A launch as it is queued (R303, R316). -/
theorem starts_lookAt (t : State) {im om : Option (BitVec 512)} {mct : Sparse 64} {hdr : BitVec 512} {head n : Nat}
    {r : BitVec 2048}
    {cls : Nat} {a : DWord} (hl : l = ({ Launch.draft s.nextId r cls with recVa := a } : Launch).withParts im om mct hdr head n) :
    Starts s l p (t.lookAt (l.begin p)) := by
  obtain ⟨seen, since, e⟩ := lookAt_eq t (l.begin p)
  rw [e]
  subst hl
  refine ⟨rfl, rfl, rfl, rfl, rfl, ?_⟩
  rw [← lexts_prod]
  rfl

/-- A launch that is refused (R296, R315): its counter says so, and the counter above it is lowered. -/
theorem refuse_eq {v : BitVec 256} {die reason core wslot : Nat} :
    s.refuse l p v reason die core wslot =
      if cntParent v = 0 then s.physWrite p (leBytes 32 (counterStart v 0 3 reason 0).toNat)
      else ({ s.physWrite p (leBytes 32 (counterStart v 0 3 reason 0).toNat) with
          launches := s.launches ++ [{ l with stopped := true, counter := p }], nextId := s.nextId + 1 } : State).launchChange
        l.id (.dec (cntParent v) 1) die core wslot := by
  obtain ⟨hl, -, -⟩ := (MemoryOnly.physWrite s p (leBytes 32 (counterStart v 0 3 reason 0).toNat)).keeps
  have hid : (s.physWrite p (leBytes 32 (counterStart v 0 3 reason 0).toNat)).nextId = s.nextId :=
    (congrArg State.nextId (MemoryOnly.physWrite s p (leBytes 32 (counterStart v 0 3 reason 0).toNat)) :)
  rw [State.refuse]
  simp only [hl, hid]

/-- The state in which a launch stands in the queue, its counter written (R316). -/
def State.withLaunch (s : State) (p : Phys) (w : BitVec 256) (L : Launch) : State :=
  { s.physWrite p (leBytes 32 w.toNat) with launches := s.launches ++ [L], nextId := s.nextId + 1 }

theorem noChanges_withLaunch (hn : s.NoChanges) (p : Phys) (w : BitVec 256) (L : Launch) : (s.withLaunch p w L).NoChanges :=
  (MemoryOnly.physWrite s p (leBytes 32 w.toNat)).noChanges hn

/-- The counter that `launch` writes, and the launch that it queues. -/
def Launch.firstCounter (l : Launch) (p : Phys) (v : BitVec 256) : BitVec 256 :=
  counterStart v (l.begin p).left 0 0 (l.begin p).pbound
def State.firstLaunch (s : State) (l : Launch) (p : Phys) (v : BitVec 256) : Launch :=
  (s.physWrite p (leBytes 32 (l.firstCounter p v).toNat)).lookAt (l.begin p)

theorem firstLaunch_eq (s : State) (l : Launch) (p : Phys) (v : BitVec 256) :
    ∃ seen since, s.firstLaunch l p v = { l.begin p with poolSeen := seen, since } := lookAt_eq _ _

/-- A launch is queued, and cancelled at once below a counter with `CANREQ` (R316, R317). -/
theorem start_eq (v : BitVec 256) (above : List (DWord × BitVec 256)) (core wslot : Nat) :
    s.start q l p v above core wslot = match above.findIdx? fun x => cntCanreq x.2 with
      | none => s.withLaunch p (l.firstCounter p v) (s.firstLaunch l p v)
      | some i => (s.withLaunch p (l.firstCounter p v) (s.firstLaunch l p v)).cancelLaunch (s.firstLaunch l p v)
          (l.counterVa :: (above.take i).map Prod.fst) ((above.map Prod.fst).getD i 0) false q.die core wslot := by
  obtain ⟨seen, since, h⟩ := firstLaunch_eq s l p v
  have hcancel : ∀ (t : State) below a, t.cancelLaunch (s.firstLaunch l p v) below a false q.die core wslot
      = t.cancelLaunch (l.begin p) below a false q.die core wslot := by
    intro t below a
    rw [h]
    rfl
  simp only [hcancel]
  rfl

theorem findIdx?_of_first {α : Type} {f : α → Bool} {xs : List α} {i : Nat} {x : α} (hi : xs[i]? = some x) (hx : f x = true)
    (hbefore : ∀ y ∈ xs.take i, f y = false) : xs.findIdx? f = some i := by
  obtain ⟨hlt, hget⟩ := List.getElem?_eq_some_iff.1 hi
  refine List.findIdx?_eq_some_iff_getElem.2 ⟨hlt, hget ▸ hx, fun j hj => ?_⟩
  have hmem : xs[j] ∈ xs.take i := List.mem_take_iff_getElem.2 ⟨j, by omega, rfl⟩
  simp [hbefore _ hmem]

/-- What `launch` does, by whichever word or job it is asked for (R316). -/
theorem launchDoes_of {ctx prio : Nat} {a : DWord} {b : Word} {core wslot : Nat} {ends : State → Prop}
    (h : ∀ u, s.launchRecord q ctx prio a b core wslot = .done u → ends u) : LaunchDoes s q ctx prio a b ends := by
  intro l p v hreads parent write queue
  have hrun := launchRecord_reads hreads core wslot
  obtain ⟨-, -, -, hparts, -, -, hfresh⟩ := hreads
  obtain ⟨im, om, mct, hdr, head, n, hl⟩ := readParts_ok hparts
  have hid : l.id = s.nextId := by rw [hl]; rfl
  have hqueued : ∀ w L, L.id = l.id → L.ctx = l.ctx → (queue w L).launch? L.id = some L :=
    fun w L hL _ => find_queued fun x hx => hL.trans hid ▸ hfresh x hx
  refine ⟨fun k hk => ?_, fun above hrec hmap hup => ?_⟩
  · have hdone : ends (s.refuse l p v k q.die core wslot) := h _ (by rw [hrun, orElse_of_refused hk])
    rw [refuse_eq] at hdone
    refine ⟨counterStart v 0 3 k 0, { l with stopped := true, counter := p },
      counterIs_counterStart v 0 0 (by decide) (refusal_le hk), by rw [hl]; rfl, fun h0 => ?_, fun hne hn m hm t ht => ?_⟩
    · rwa [if_pos (show cntParent v = 0 from h0)] at hdone
    · have hfind := hqueued (counterStart v 0 3 k 0) { l with stopped := true, counter := p } rfl rfl
      rw [if_neg (show ¬cntParent v = 0 from hne)] at hdone
      rwa [← launchChange_dec (noChanges_withLaunch hn p _ _) (congrArg (Option.map fun x => x.ctx) hfind) ht hm]
  · have hdone : ends (s.start q l p v above core wslot) :=
      h _ (by rw [hrun, hrec, hmap, show s.countersUp q l.ctx parentDepth (cntParent v) = (above, none) from hup]; rfl)
    rw [start_eq] at hdone
    obtain ⟨seen, since, hL⟩ := firstLaunch_eq s l p v
    have hleft : (s.firstLaunch l p v).left = (l.begin p).left := by rw [hL]
    refine ⟨l.firstCounter p v, s.firstLaunch l p v, ?_, starts_lookAt _ hl, fun hno => ?_,
      fun i x hi hx hbefore hn m u hm hu => ?_⟩
    · rw [hleft]
      exact counterIs_counterStart v _ _ (by decide) (by decide)
    · rwa [show above.findIdx? (fun x => cntCanreq x.2) = none from List.findIdx?_eq_none_iff.2 hno] at hdone
    · rw [show above.findIdx? (fun x => cntCanreq x.2) = some i from findIdx?_of_first hi hx hbefore] at hdone
      have hstop : (s.firstLaunch l p v).stopped = false := by rw [hL, hl]; rfl
      have hctx : (s.firstLaunch l p v).ctx = l.ctx := by rw [hL]; rfl
      have hfind := hqueued (l.firstCounter p v) (s.firstLaunch l p v) (by rw [hL]; rfl) hctx
      have hcancel := cancelLaunch_eq (core := core) (wslot := wslot) (a := (above.map Prod.fst).getD i 0) (trap := false)
        hfind (noChanges_withLaunch hn p _ _) (hctx.symm ▸ hm) hu
      rw [hstop] at hcancel
      exact hcancel ▸ hdone

end Sys2Proof.Machine
end

section
/-! The words `launch` and `cancel` (O46). -/

namespace Sys2Proof.Machine

variable {s : State} {c : Ctx} {a : VOp} {t0 : Nat} {ts : List Nat}

theorem afterBuffer_eq (hh : s.NoneHeld c.ref) (hb : c.launch.repro = false ∨ c.wave.cbuf = []) (f : State → State) :
    s.afterBuffer c f = f s := by
  have hno : ¬(c.launch.repro && !c.wave.cbuf.isEmpty) = true := by
    rcases hb with h | h <;> simp [h]
  rw [State.afterBuffer, if_neg hno, State.drain, release_of_noneHeld hh]

/-- Threads that agree on an address that thread `t0` has aligned have it aligned. -/
theorem aligned_of_agree {n : Nat} (hperf : c.perf = t0 :: ts) (ha : c.Agree c.perf a) (h0 : (c.v64 t0 a).toNat % n = 0) :
    Aligned (fun t => (c.v64 t a).toNat) n c.perf := by
  intro t ht
  dsimp only
  rw [ha t ht t0 (hperf ▸ .head _)]
  exact h0

/-- The operands and the right of `launch` and `cancel` pass (R316, R317). -/
theorem launchTrap_eq_none {bs : List (Nat → DWord)} {n : Nat} (hperf : c.perf = t0 :: ts) (ha : c.Agree c.perf a)
    (hbs : ∀ f ∈ bs, ∀ t ∈ c.perf, ∀ u ∈ c.perf, f t = f u) (hmay : c.launch.maylaunch = true) (h0 : (c.v64 t0 a).toNat % n = 0) :
    c.launchTrap a bs n = none := by
  have hagree : agreeTrap ((fun t => c.v64 t a) :: bs) c.perf = none :=
    agreeTrap_eq_none fun f hf => (List.mem_cons.1 hf).elim (fun e => e ▸ ha) (hbs f)
  rw [Ctx.launchTrap, hagree, hmay, alignTrap_eq_none (aligned_of_agree hperf ha h0)]
  rfl

/-- A launch that may not launch or cancel (R321). -/
theorem launchTrap_rights (ha : c.Agree c.perf a) (hmay : c.launch.maylaunch = false) (n : Nat) :
    c.launchTrap a [] n = some { cause := .rights, mask := maskOf c.perf, addr := BitVec.ofNat 64 c.group.prio } := by
  have hagree : agreeTrap [fun t => c.v64 t a] c.perf = none := agreeTrap_eq_none fun f hf => List.mem_singleton.1 hf ▸ ha
  rw [Ctx.launchTrap, hagree, hmay]
  rfl

/-- `launch` whose operands pass and whose record is read without a fault. -/
theorem exec_launch {b : VOp} (hc : s.ctx = some c) (hperf : c.perf = t0 :: ts) (hr : c.Readable c.perf [⟨a, true⟩, ⟨b, false⟩])
    (hb : c.Agree32 c.perf b) (ha : c.Agree c.perf a) (hmay : c.launch.maylaunch = true) (h0 : (c.v64 t0 a).toNat % 256 = 0)
    (hlt : (c.v32 t0 b).toNat < 16) (hcls : (c.v32 t0 b).getLsbD 3 = true → c.group.prio ≤ (c.v32 t0 b).toNat % 8)
    (hfirst : c.First)
    (hh : s.NoneHeld c.ref) (hbuf : c.launch.repro = false ∨ c.wave.cbuf = []) {u : State}
    (hu : (s.touchAll c.ref.group (s.launchLines (c.launchReader t0) c.launch.ctx (c.v64 t0 a))).launchRecord (c.launchReader t0)
      c.launch.ctx c.group.prio (c.v64 t0 a) (c.v32 t0 b) c.group.core c.wave.wslot = .done u) :
    exec (.launch a b) s = .next (u.complete c c.perf) := by
  have htrap : c.launchTrap a [fun t => (c.v32 t b).setWidth 64] 256 = none :=
    launchTrap_eq_none hperf ha (fun f hf t ht w hw => List.mem_singleton.1 hf ▸ congrArg (BitVec.setWidth 64)
      (hb t ht w hw)) hmay h0
  have hno : ¬((c.v32 t0 b).getLsbD 3 = true ∧ (c.v32 t0 b).toNat % 8 < c.group.prio) := fun h => by
    have := hcls h.1
    omega
  refine (issue_of_ctx hc _).trans (congrArg Host.Outcome.next ?_)
  rw [hperf]
  dsimp only
  rw [← hperf, srcTrap_eq_none hr, htrap, if_neg (Nat.not_le.2 hlt), if_neg hno, afterBuffer_eq hh hbuf]
  simp only [mustWait_false s c t0 hfirst.1, failedThread_none s c t0 hfirst.1, Bool.false_eq_true, if_false, hu]
  rfl

theorem exec_cancel {trap : Bool} (hc : s.ctx = some c) (hperf : c.perf = t0 :: ts) (hr : c.Readable c.perf [⟨a, true⟩])
    (ha : c.Agree c.perf a) (hmay : c.launch.maylaunch = true) (h0 : (c.v64 t0 a).toNat % 32 = 0) (hfirst : c.First)
    (hh : s.NoneHeld c.ref) (hbuf : c.launch.repro = false ∨ c.wave.cbuf = []) {u : State}
    (hu : (s.touch c.ref.group (c.v64 t0 a).toNat 32).cancelCounter (c.launchReader t0) c.launch.ctx
      (c.v64 t0 a) trap c.group.core
      c.wave.wslot = .ok u) : cancel s a trap = .next (u.complete c c.perf) := by
  have htrap : c.launchTrap a [] 32 = none := launchTrap_eq_none hperf ha (fun f hf => nomatch hf) hmay h0
  refine (issue_of_ctx hc _).trans (congrArg Host.Outcome.next ?_)
  rw [hperf]
  dsimp only
  rw [← hperf, srcTrap_eq_none hr, htrap, afterBuffer_eq hh hbuf]
  simp only [mustWait_false s c t0 hfirst.1, failedThread_none s c t0 hfirst.1, Bool.false_eq_true, if_false, hu]
  rfl

theorem cancel_rights {trap : Bool} (hc : s.ctx = some c) (hperf : c.perf ≠ []) (hr : c.Readable c.perf [⟨a, true⟩])
    (ha : c.Agree c.perf a) (hmay : c.launch.maylaunch = false) :
    cancel s a trap
      = .next (s.takeTrap c { cause := .rights, mask := maskOf c.perf, addr := BitVec.ofNat 64 c.group.prio }) := by
  obtain ⟨t, ts, hp⟩ := List.exists_cons_of_ne_nil hperf
  refine (issue_of_ctx hc _).trans (congrArg Host.Outcome.next ?_)
  rw [hp]
  dsimp only
  rw [← hp, srcTrap_eq_none hr, launchTrap_rights ha hmay]
  rfl

/-- Settles O46: the words run the read of the record and the change of the counter that `launchDoes_of` and `cancelDoes_of` are
about. -/
theorem launchWords : Obligations.LaunchWords := by
  unfold Obligations.LaunchWords
  refine ⟨fun s c a b t0 ts hc hperf hr hb ha hmay h0 hlt hcls hfirst hh hbuf => ?_,
    fun s c i a trap t0 ts hi hc hperf hr ha hmay h0 hfirst hh hbuf => ?_, fun s c i a hi hc hperf hr ha hmay => ?_⟩
  · exact launchDoes_of fun u hu => exec_launch hc hperf hr hb ha hmay h0 hlt hcls hfirst hh hbuf hu
  · refine cancelDoes_of (core := c.group.core) (wslot := c.wave.wslot) fun u hu => ?_
    have h := exec_cancel hc hperf hr ha hmay h0 hfirst hh hbuf hu
    rcases hi with hi | hi <;> obtain ⟨rfl, rfl⟩ := Prod.mk.inj hi <;> exact h
  · rcases hi with rfl | rfl <;> exact cancel_rights hc hperf hr ha hmay

end Sys2Proof.Machine
end

section
/-! SUPPORT. The management registers by number (R388; O59). -/

namespace Sys2Proof.Machine

variable {s : State} {n : Nat} {v : BitVec 512} {ok : Prop} {after : State → Prop}

/-! ### Numbers -/

theorem among_iff {n lo k : Nat} : among n lo k = true ↔ lo ≤ n ∧ n < lo + k := by
  simp [among]

theorem among_of_mem {n lo k : Nat} (h : lo ≤ n ∧ n < lo + k) : among n lo k = true := among_iff.2 h

theorem among_of_not_mem {n lo k : Nat} (h : n < lo ∨ lo + k ≤ n) : among n lo k = false := by
  rw [Bool.eq_false_iff, Ne, among_iff]
  omega

theorem writeCluster_of_ge (h : 0x180 ≤ n) : s.writeCluster n v = none := by
  simp (disch := omega) only [State.writeCluster, among_of_not_mem, Bool.false_eq_true, if_false]

theorem writeDie_of_outside (h : n < 0x300 ∨ 0x40C ≤ n) : s.writeDie n v = none := by
  simp (disch := omega) only [State.writeDie, among_of_not_mem, Bool.false_eq_true, if_false]

theorem writeBelfry_of_outside (h : n < 0x500 ∨ 0x523 ≤ n) : s.writeBelfry n v = none := by
  simp (disch := omega) only [State.writeBelfry, among_of_not_mem, Bool.false_eq_true, if_false, if_neg]

theorem mgmtWrite_cluster {e : MgmtEnd} (h : s.writeCluster n v = some e) : s.mgmtWrite n v = some e := by
  rw [State.mgmtWrite, h]
  rfl

theorem mgmtWrite_die {e : MgmtEnd} (hn : 0x180 ≤ n) (h : s.writeDie n v = some e) : s.mgmtWrite n v = some e := by
  rw [State.mgmtWrite, writeCluster_of_ge hn, h]
  rfl

theorem mgmtWrite_belfry {e : MgmtEnd} (hn : 0x40C ≤ n) (h : s.writeBelfry n v = some e) : s.mgmtWrite n v = some e := by
  rw [State.mgmtWrite, writeCluster_of_ge (by omega), writeDie_of_outside (.inr hn), h]
  rfl

theorem mgmtWrite_io {e : MgmtEnd} (hn : 0x180 ≤ n) (hn' : n < 0x300 ∨ 0x523 ≤ n)
    (h : s.writeIo n v = some e) :
    s.mgmtWrite n v = some e := by
  rw [State.mgmtWrite, writeCluster_of_ge hn, writeDie_of_outside (by omega), writeBelfry_of_outside (by omega), h]
  rfl

/-! ### A row: refused, or taken with what it leaves -/

/-- A write is refused, or done as its row says. -/
def Written (s : State) (n : Nat) (v : BitVec 512) (ok : Prop) (after : State → Prop) : Prop :=
  (ok → ∃ u, s.mgmtWrite n v = some (.done u) ∧ after u) ∧ (¬ok → s.mgmtWrite n v = some .refused)

theorem written_of {b : Bool} {u : State} (h : s.mgmtWrite n v = some (mgmtIf b u)) (hb : b = true ↔ ok) (hu : ok → after u) :
    Written s n v ok after := by
  refine ⟨fun hok => ⟨u, ?_, hu hok⟩, fun hno => ?_⟩
  · rw [h, hb.2 hok]
    rfl
  · rw [h, Bool.eq_false_iff.2 fun e => hno (hb.1 e)]
    rfl

@[simp] theorem clear_nil : Clear v [] := fun _ h => nomatch h

@[simp] theorem clear_cons {f : Nat × Nat} {fs : List (Nat × Nat)} : Clear v (f :: fs) ↔ bits v f.1 f.2 = 0 ∧ Clear v fs := by
  simp [Clear, bits]

theorem at_eq_bits (v : BitVec 512) (lo n : Nat) : at_ v lo n = bits v lo n := rfl

theorem bits_bit (v : BitVec 512) (b : Nat) : bits v b 1 = (v.getLsbD b).toNat := by
  refine Nat.eq_of_testBit_eq fun i => ?_
  rw [bits, BitVec.testBit_toNat, BitVec.getLsbD_extractLsb']
  cases i with
  | zero => cases v.getLsbD b <;> rfl
  | succ i =>
    have hone : (1 : Nat).testBit (i + 1) = false := by rw [Nat.testBit_succ]; exact Nat.zero_testBit i
    cases v.getLsbD b <;> simp [hone]

theorem bits_one (v : BitVec 512) (b : Nat) : bits v b 1 = 0 ↔ v.getLsbD b = false := by
  rw [bits_bit]
  cases v.getLsbD b <;> simp

theorem modAt_const {α : Type} (x : α) (n : Nat) (xs : List α) : modAt (fun _ => x) n xs = xs.set n x := by
  induction xs generalizing n with
  | nil => cases n <;> rfl
  | cons y ys ih =>
    cases n with
    | zero => rfl
    | succ n => exact congrArg (y :: ·) (ih n)

theorem cluster_of_get {c : Nat} {k : Cluster} (h : s.clusters[c]? = some k) : s.cluster c = k := by
  rw [State.cluster, List.getD_eq_getElem?_getD, h]
  rfl

/-! ### Clusters (R205, R209, R212, R360) -/

/-- Only groups change. -/
def GroupsOnly (s t : State) : Prop := { t with groups := s.groups } = s

theorem GroupsOnly.trans {t u : State} (h : GroupsOnly s t) (h' : GroupsOnly t u) : GroupsOnly s u := by
  rw [GroupsOnly, ← h]
  conv_rhs => rw [← h']

theorem groupsOnly_unparks (c : Nat) (is : List Nat) (s : State) :
    GroupsOnly s (is.foldl (fun (t : State) i => t.unpark (i + 1) c) s) := by
  induction is generalizing s with
  | nil => rfl
  | cons i is ih => exact (show GroupsOnly s (s.unpark (i + 1) c) from rfl).trans (ih _)

/-- No wave of a class of a cluster is parked. -/
def State.NoneParked (s : State) (c cls : Nat) : Prop :=
  ∀ g ∈ s.groups, g.cluster = c → g.prio = cls → ∀ w ∈ g.waves, w.parked = none

theorem noneParked_unpark {c cls : Nat} (h : s.NoneParked c cls) (cls' c' : Nat) : (s.unpark cls' c').NoneParked c cls := by
  intro g hg hc hp w hw
  obtain ⟨x, hx, rfl⟩ := List.mem_map.1 hg
  split at hw
  · next hxc =>
    rw [if_pos hxc] at hc hp
    obtain ⟨y, hy, rfl⟩ := List.mem_map.1 hw
    rw [h x hx hc hp y hy]
    exact h x hx hc hp y hy
  · next hxc =>
    rw [if_neg hxc] at hc hp
    exact h x hx hc hp w hw

theorem noneParked_unparks (c : Nat) (is : List Nat) (s : State) {cls : Nat} (h : s.NoneParked c cls ∨ ∃ i ∈ is, i + 1 = cls) :
    (is.foldl (fun (t : State) i => t.unpark (i + 1) c) s).NoneParked c cls := by
  induction is generalizing s with
  | nil => exact h.resolve_right fun ⟨i, hi, _⟩ => nomatch hi
  | cons i is ih =>
    refine ih _ ?_
    rcases h with h | ⟨j, hj, rfl⟩
    · exact .inl (noneParked_unpark h _ _)
    · rcases List.mem_cons.1 hj with rfl | hj
      · exact .inl parked_unpark
      · exact .inr ⟨j, hj, rfl⟩

theorem writeCallow_leaves {i : Nat} {k : Cluster} (hk : s.clusters[i]? = some k) :
    (s.writeCallow i v).clusters = s.clusters.set i { k with
        rate := if (s.die (i / 2)).trip = true then 0 else min 1024 (bits v 0 11)
        step := max 1 (bits v 16 8), shed := v.extractLsb' 25 7 }
      ∧ { s.writeCallow i v with clusters := s.clusters, groups := s.groups } = s
      ∧ ∀ g ∈ (s.writeCallow i v).groups, g.cluster = i → 1 ≤ g.prio → g.prio ≤ 7 → k.shed.getLsbD (g.prio - 1) = true →
          v.getLsbD (24 + g.prio) = false → ∀ w ∈ g.waves, w.parked = none := by
  have hshed : BitVec.ofNat 7 (bits v 25 7) = v.extractLsb' 25 7 := by rw [bits, BitVec.ofNat_toNat, BitVec.setWidth_eq]
  obtain ⟨t, ht⟩ : ∃ t, t = s.modCluster i fun k => { k with
      rate := if (s.die (i / 2)).trip then 0 else min 1024 (bits v 0 11)
      step := atLeast1 (bits v 16 8), shed := v.extractLsb' 25 7 } :=
    ⟨_, rfl⟩
  obtain ⟨is, his⟩ : ∃ is, is = (List.range 7).filter fun j => k.shed.getLsbD j && !(v.extractLsb' 25 7).getLsbD j := ⟨_, rfl⟩
  have hw : s.writeCallow i v = is.foldl (fun (t : State) j => t.unpark (j + 1) i) (t.parkShed i) := by
    rw [State.writeCallow, hshed, cluster_of_get hk, his, ht]
  have honly : GroupsOnly t (s.writeCallow i v) := by
    rw [hw]
    exact (show GroupsOnly t (t.parkShed i) from rfl).trans (groupsOnly_unparks i is _)
  rw [State.modCluster_set hk] at ht
  refine ⟨?_, ?_, fun g hg hc h1 h7 hwas hnow => ?_⟩
  · refine (congrArg State.clusters honly :).trans ?_
    rw [ht]
    rfl
  · refine (congrArg (fun x : State => { x with clusters := s.clusters, groups := s.groups }) honly :).trans ?_
    rw [ht]
  · refine noneParked_unparks i is (t.parkShed i) (cls := g.prio) (.inr ⟨g.prio - 1, ?_, by omega⟩) g (hw ▸ hg) hc rfl
    have hbit : (v.extractLsb' 25 7).getLsbD (g.prio - 1) = false := by
      rw [BitVec.getLsbD_extractLsb', show 25 + (g.prio - 1) = 24 + g.prio by omega, hnow, Bool.and_false]
    rw [his, List.mem_filter, List.mem_range, hwas, hbit]
    exact ⟨by omega, rfl⟩

theorem writeCluster_callow {i : Nat} (hi : i < 8) :
    s.writeCluster (0x10 + i) v = some (mgmtIf (bits v 11 5 == 0) (s.writeCallow i v)) := by
  simp (disch := omega) only [State.writeCluster, among_of_mem, if_true, Nat.add_sub_cancel_left]

theorem writeCluster_cslew {i : Nat} (hi : i < 8) :
    s.writeCluster (0x20 + i) v = some (mgmtIf (!v.getLsbD 7 && !v.getLsbD 15 && bits v 23 9 == 0) (s.writeCslew i v)) := by
  simp (disch := omega) only [State.writeCluster, among_of_mem, among_of_not_mem, if_true, Bool.false_eq_true, if_false,
    Nat.add_sub_cancel_left]

theorem writeCluster_lmap {c q : Nat} (hc : c < 8) (hq : q < 16) :
    s.writeCluster (0x100 + 16 * c + q) v = some (mgmtIf (bits v 7 25 == 0 && decide (bits v 0 5 ≤ 16))
      (s.modCluster c fun k => { k with lmap := k.lmap.set q (BitVec.ofNat 32 (bits v 0 7)) })) := by
  have hdiv : (0x100 + 16 * c + q - 0x100) / 16 = c := by omega
  have hmod : (0x100 + 16 * c + q) % 16 = q := by omega
  simp (disch := omega) only [State.writeCluster, among_of_mem, among_of_not_mem, if_true, Bool.false_eq_true, if_false,
    hdiv, hmod, modAt_const]

theorem written_cluster (h : ClusterReg s n v ok after) : Written s n v ok after := by
  cases h with
  | callow i k v hi hk =>
    exact written_of (mgmtWrite_cluster (writeCluster_callow hi)) (by simp) fun _ => writeCallow_leaves hk
  | cslew i k v hi hk =>
    exact written_of (mgmtWrite_cluster (writeCluster_cslew hi)) (by simp [bits_one, and_assoc])
      fun _ => State.modCluster_set hk _
  | lmap c q k v hc hq hk =>
    exact written_of (mgmtWrite_cluster (writeCluster_lmap hc hq)) (by simp [at_eq_bits]) fun _ => State.modCluster_set hk _

/-! ### Dies (R249, R336, R377) -/

theorem die_of_get {d : Nat} {x : Die} (h : s.dies[d]? = some x) : s.die d = x := by
  rw [State.die, List.getD_eq_getElem?_getD, h]
  rfl

/-- Records that all stand in the ring leave nothing to write. -/
theorem flushRecords_of_slots {d : Nat} {x : Die} (hx : s.dies[d]? = some x) (h : ∀ r ∈ x.recs, r.slot.isSome = true) :
    s.flushRecords d = s := by
  have hnone : (s.die d).recs.filter (fun r => r.slot.isNone) = [] :=
    List.filter_eq_nil_iff.2 fun r hr => by simp [Option.isSome_iff_ne_none.1 (h r (die_of_get hx ▸ hr))]
  rw [State.flushRecords, hnone]
  rfl

/-- The trailer of a ring that has been moved (R249, R351). -/
theorem clearTrailer_eq {d : Nat} {x y : Die} (hx : s.dies[d]? = some x) (a : Nat) :
    ({ s with dies := s.dies.set d y } : State).clearTrailer d a = Emptied s d y a := by
  obtain ⟨hlt, -⟩ := List.getElem?_eq_some_iff.1 hx
  have hy : ({ s with dies := s.dies.set d y } : State).dies[d]? = some y := List.getElem?_set_self hlt
  rw [State.clearTrailer, Emptied, State.modDie_set hy, List.set_set]
  rfl

theorem dies_emptied {d : Nat} {x y : Die} (hx : s.dies[d]? = some x) (a : Nat) :
    ∃ z, (Emptied s d y a).dies[d]? = some z ∧ z.recs = y.recs := by
  obtain ⟨hlt, -⟩ := List.getElem?_eq_some_iff.1 hx
  unfold Emptied
  split
  · exact ⟨_, List.getElem?_set_self hlt, rfl⟩
  · exact ⟨_, List.getElem?_set_self hlt, rfl⟩

theorem toNat_bits_64 (v : BitVec 512) : (BitVec.ofNat 64 (bits v 0 64)).toNat = bits v 0 64 := by
  rw [BitVec.toNat_ofNat]
  exact Nat.mod_eq_of_lt (v.extractLsb' 0 64).isLt

theorem writeFqbase_eq {d : Nat} {x : Die} (hx : s.dies[d]? = some x) (h : ∀ r ∈ x.recs, r.slot.isSome = true) :
    s.writeFqbase d (bits v 0 64) = Emptied s d
        { x with fqbase := BitVec.ofNat 64 (bits v 0 64), fqSet := true, fqtail := 0, fqhead := 0 }
      (bits v 0 64 + 64 * 2 ^ x.fqlog.toNat) := by
  obtain ⟨hlt, -⟩ := List.getElem?_eq_some_iff.1 hx
  obtain ⟨y, hy⟩ : ∃ y, y = { x with fqbase := BitVec.ofNat 64 (bits v 0 64), fqSet := true, fqtail := 0, fqhead := 0 } :=
    ⟨_, rfl⟩
  have hmod : (s.modDie d fun x => { x with fqbase := BitVec.ofNat 64 (bits v 0 64), fqSet := true, fqtail := 0, fqhead := 0 })
      = { s with dies := s.dies.set d y } := by rw [hy, State.modDie_set hx]
  have htrailer : (({ s with dies := s.dies.set d y } : State).die d).fqTrailer = bits v 0 64 + 64 * 2 ^ x.fqlog.toNat := by
    rw [die_of_get (x := y) (List.getElem?_set_self hlt), Die.fqTrailer, hy, toNat_bits_64]
  obtain ⟨z, hz, hrecs⟩ := dies_emptied (y := y) hx (bits v 0 64 + 64 * 2 ^ x.fqlog.toNat)
  rw [State.writeFqbase]
  simp only [hmod, htrailer]
  rw [clearTrailer_eq hx, flushRecords_of_slots hz (by rw [hrecs, hy]; exact h), hy]

theorem writeElbase_eq {d : Nat} {x : Die} (hx : s.dies[d]? = some x) :
    s.writeElbase d (bits v 0 64) = Emptied s d { x with elbase := BitVec.ofNat 64 (bits v 0 64), elSet := true, eltail := 0 }
      (bits v 0 64 + 32 * 2 ^ x.ellog.toNat) := by
  obtain ⟨hlt, -⟩ := List.getElem?_eq_some_iff.1 hx
  rw [State.writeElbase, State.modDie_set hx, die_of_get (List.getElem?_set_self hlt)]
  exact clearTrailer_eq hx _

theorem fqlog_eq {d : Nat} {x : Die} (hx : s.dies[d]? = some x) (h : ∀ r ∈ x.recs, r.slot.isSome = true) (w : Word) :
    (s.modDie d fun x => { x with fqlog := w }).flushRecords d = { s with dies := s.dies.set d { x with fqlog := w } } := by
  obtain ⟨hlt, -⟩ := List.getElem?_eq_some_iff.1 hx
  rw [State.modDie_set hx]
  exact flushRecords_of_slots (x := { x with fqlog := w }) (List.getElem?_set_self hlt) h

section
variable {d : Nat} (hd : d < 4)
include hd

theorem writeDie_fqbase : s.writeDie (0x300 + d) v
    = some (mgmtIf (bits v 0 16 == 0 && decide (bits v 0 64 < devBytes)) (s.writeFqbase d (bits v 0 64))) := by
  have hmod : (0x300 + d) % 4 = d := by omega
  simp (disch := omega) only [State.writeDie, among_of_mem, if_true, hmod]

theorem writeDie_fqlog : s.writeDie (0x304 + d) v
    = some (mgmtIf (decide (6 ≤ bits v 0 32) && decide (bits v 0 32 ≤ 16))
      ((s.modDie d fun x => { x with fqlog := BitVec.ofNat 32 (bits v 0 32) }).flushRecords d)) := by
  have hmod : (0x304 + d) % 4 = d := by omega
  simp (disch := omega) only [State.writeDie, among_of_mem, among_of_not_mem, if_true, Bool.false_eq_true, if_false, hmod]

theorem writeDie_elbase : s.writeDie (0x308 + d) v
    = some (mgmtIf (decide (bits v 0 64 < devBytes)) (s.writeElbase d (bits v 0 64))) := by
  have hmod : (0x308 + d) % 4 = d := by omega
  simp (disch := omega) only [State.writeDie, among_of_mem, among_of_not_mem, if_true, Bool.false_eq_true, if_false, hmod]

theorem writeDie_ellog : s.writeDie (0x30C + d) v
    = some (mgmtIf (decide (6 ≤ bits v 0 32) && decide (bits v 0 32 ≤ 16))
      (s.modDie d fun x => { x with ellog := BitVec.ofNat 32 (bits v 0 32) })) := by
  have hmod : (0x30C + d) % 4 = d := by omega
  simp (disch := omega) only [State.writeDie, among_of_mem, among_of_not_mem, if_true, Bool.false_eq_true, if_false, hmod]

theorem writeDie_lctl : s.writeDie (0x400 + d) v
    = some (mgmtIf (bits v 14 18 == 0) (s.modDie d fun x => { x with lctl := lctlOf v })) := by
  have hmod : (0x400 + d) % 4 = d := by omega
  simp (disch := omega) only [State.writeDie, among_of_mem, among_of_not_mem, if_true, Bool.false_eq_true, if_false, hmod]

end

theorem written_die (h : DieReg s n v ok after) : Written s n v ok after := by
  cases h with
  | fqbase d x v hd hx hrecs =>
    exact written_of (mgmtWrite_die (by omega) (writeDie_fqbase hd)) (by simp [at_eq_bits]) fun _ => writeFqbase_eq hx hrecs
  | fqlog d x v hd hx hrecs =>
    exact written_of (mgmtWrite_die (by omega) (writeDie_fqlog hd)) (by simp [at_eq_bits]) fun _ => fqlog_eq hx hrecs _
  | elbase d x v hd hx =>
    exact written_of (mgmtWrite_die (by omega) (writeDie_elbase hd)) (by simp [at_eq_bits]) fun _ => writeElbase_eq hx
  | ellog d x v hd hx =>
    exact written_of (mgmtWrite_die (by omega) (writeDie_ellog hd)) (by simp [at_eq_bits]) fun _ => State.modDie_set hx _
  | lctl d x v hd hx =>
    exact written_of (mgmtWrite_die (by omega) (writeDie_lctl hd)) (by simp) fun _ => State.modDie_set hx _

/-! ### The Belfry (R342 to R353) -/

/-- `BCKGO` by its bits (R351, R354). -/
theorem writeBckgo_bits (s : State) (v : BitVec 512) :
    (v.getLsbD 0 = true → exec .bckgoGo s = .next (s.writeBckgo (v.setWidth 32)))
      ∧ (v.getLsbD 0 = false → v.getLsbD 1 = true → exec .bckgoRestore s = .next (s.writeBckgo (v.setWidth 32)))
      ∧ (v.getLsbD 0 = false → v.getLsbD 1 = false → s.writeBckgo (v.setWidth 32) = s) := by
  have h0 : (v.setWidth 32).getLsbD 0 = v.getLsbD 0 := by simp
  have h1 : (v.setWidth 32).getLsbD 1 = v.getLsbD 1 := by simp
  refine ⟨fun h => congrArg Host.Outcome.next ?_, fun h h' => congrArg Host.Outcome.next ?_, fun h h' => ?_⟩
  · simp only [State.writeBckgo, h0, h, if_true]
    rfl
  · simp only [State.writeBckgo, h0, h1, h, h', if_true]
    rfl
  · simp only [State.writeBckgo, h0, h1, h, h', Bool.false_eq_true, if_false, ite_self]

theorem writeBelfry_curve {i : Nat} (hi : i < 8) : s.writeBelfry (0x508 + i) v
    = some (mgmtIf (bits v 25 7 == 0) (s.modBelfry fun b =>
      { b with bcurve := b.bcurve.set i (BitVec.ofNat 32 (bits v 0 16 + 2 ^ 16 * min 256 (bits v 16 9))) })) := by
  simp (disch := omega) only [State.writeBelfry, among_of_mem, if_neg, if_true, Nat.add_sub_cancel_left, State.setBelfry,
    modAt_const]

theorem writeBelfry_part {i : Nat} (hi : i < 8) : s.writeBelfry (0x518 + i) v
    = some (mgmtIf (!v.getLsbD 11 && bits v 28 4 == 0)
      (s.modBelfry fun b => { b with part := b.part.set i (v.setWidth 32) })) := by
  simp (disch := omega) only [State.writeBelfry, among_of_mem, among_of_not_mem, if_neg, Bool.false_eq_true, if_true, if_false,
    Nat.add_sub_cancel_left, State.setBelfry, modAt_const]

theorem written_belfry (h : BelfryReg s n v ok after) : Written s n v ok after := by
  cases h with
  | bctl v => exact written_of (mgmtWrite_belfry (by omega) rfl) (by simp) fun _ => rfl
  | bcurve i v hi => exact written_of (mgmtWrite_belfry (by omega) (writeBelfry_curve hi)) (by simp) fun _ => rfl
  | bshedl v => exact written_of (mgmtWrite_belfry (by omega) rfl) (by simp [bits_one]) fun _ => rfl
  | brest v => exact written_of (mgmtWrite_belfry (by omega) rfl) (by simp) fun _ => rfl
  | bcap v => exact written_of (mgmtWrite_belfry (by omega) rfl) (by simp) fun _ => rfl
  | part i v hi => exact written_of (mgmtWrite_belfry (by omega) (writeBelfry_part hi)) (by simp [bits_one]) fun _ => rfl
  | ckwin v => exact written_of (mgmtWrite_belfry (by omega) rfl) (by simp) fun _ => rfl
  | bckgo v => exact written_of (mgmtWrite_belfry (by omega) rfl) (by simp) fun _ => writeBckgo_bits s v

end Sys2Proof.Machine
end

section
/-! SUPPORT. The registers of the I/O die, and registers that nothing writes (R372, R388, R398, R401; O59). -/

namespace Sys2Proof.Machine

variable {s : State} {n : Nat} {v : BitVec 512} {ok : Prop} {after : State → Prop}

/-! ### Arrival matching entries (R398) -/

theorem find?_insertKey_other {α : Type} {key : α → Nat} {p : α → Bool} {x : α} (hx : p x = false) (ys : List α) :
    (insertKey key x ys).find? p = ys.find? p := by
  induction ys with
  | nil => simp [insertKey, hx]
  | cons y ys ih =>
    rw [insertKey]
    split
    · rw [List.find?_cons_of_neg (by simp [hx])]
    · rw [List.find?_cons, List.find?_cons, ih]

/-- The entry that `writeArrival` puts at number `i`: `COUNT` stays. -/
def State.newEntry (s : State) (i : Nat) (v : BitVec 512) : BitVec 512 :=
    setBits v 160 32 ((s.entryOf i).extractLsb' 160 32).toNat

theorem newEntry_getLsbD (s : State) (i : Nat) (v : BitVec 512) {b : Nat} (hb : b < 512) :
    (s.newEntry i v).getLsbD b = if 160 ≤ b ∧ b < 192 then (s.entryOf i).getLsbD b else v.getLsbD b := by
  rw [State.newEntry, getLsbD_setBits _ _ _ _ _ hb]
  refine if_ctx_congr Iff.rfl (fun h => ?_) fun _ => rfl
  rw [BitVec.testBit_toNat, BitVec.getLsbD_extractLsb', Nat.add_sub_cancel' h.1, decide_eq_true (by omega), Bool.true_and]

/-- The I/O die with an entry replaced. -/
def State.putEntry (s : State) (i : Nat) (w : BitVec 512) : State :=
  s.modIo fun x => { x with
    arrivals := insertKey Prod.fst (i, w) (x.arrivals.filter fun e => e.1 != i)
    appends := x.appends.filter fun k => k != i }

theorem entryOf_putEntry_same (s : State) (i : Nat) (w : BitVec 512) : (s.putEntry i w).entryOf i = w := by
  have hfind : (s.putEntry i w).io.arrivals.find? (fun e => e.1 == i) = some (i, w) :=
    find?_insertKey (by simp) fun y hy => by simpa using (List.mem_filter.1 hy).2
  rw [State.entryOf, hfind]
  rfl

theorem entryOf_putEntry_other (s : State) {i j : Nat} (w : BitVec 512)
    (h : j ≠ i) :
    (s.putEntry i w).entryOf j = s.entryOf j := by
  have hfind : (s.putEntry i w).io.arrivals.find? (fun e => e.1 == j) = s.io.arrivals.find? fun e => e.1 == j := by
    refine (find?_insertKey_other (by simpa using Ne.symm h) _).trans ?_
    rw [List.find?_filter]
    congr 1
    funext e
    by_cases he : e.1 = j
    · simp [he, h]
    · simp [he]
  rw [State.entryOf, hfind, State.entryOf]

/-! ### The I/O die -/

theorem writeIo_xroot {i : Nat} (hi : i < 256) : s.writeIo (0x200 + i) v
    = some (mgmtIf (bits v 0 13 == 0 && bits v 52 11 == 0) { s with xroot := s.xroot.set i (v.setWidth 64) }) := by
  simp (disch := omega) only [State.writeIo, among_of_mem, if_true, Nat.add_sub_cancel_left]

theorem writeIo_ageus {i : Nat} (hi : i < 8) : s.writeIo (0x600 + i) v
    = some (mgmtIf (bits v 16 16 == 0) (s.modIo fun x => { x with ageus := x.ageus.set i (v.setWidth 32) })) := by
  simp (disch := omega) only [State.writeIo, among_of_mem, among_of_not_mem, if_true, Bool.false_eq_true, if_false,
    Nat.add_sub_cancel_left, modAt_const]

theorem writeIo_spwin {i : Nat} (hi : i < 8) : s.writeIo (0x800 + i) v
    = some (mgmtIf (bits v 3 13 == 0 && bits v 28 4 == 0 && bits v 96 32 == 0)
      (s.modIo fun x => { x with spwin := x.spwin.set i (v.setWidth 128) })) := by
  simp (disch := omega) only [State.writeIo, among_of_mem, among_of_not_mem, if_true, Bool.false_eq_true, if_false, if_neg,
    Nat.add_sub_cancel_left, modAt_const]

theorem writeIo_obw {i : Nat} (hi : i < 8) : s.writeIo (0x908 + i) v = some (s.writeObw i v) := by
  simp (disch := omega) only [State.writeIo, among_of_mem, among_of_not_mem, if_true, Bool.false_eq_true, if_false, if_neg,
    Nat.add_sub_cancel_left]

theorem writeIo_arrival {i : Nat} (hi : i < 1024) : s.writeIo (0x1000 + i) v
    = some (mgmtIf (bits v 6 2 == 0 && bits v 48 16 == 0 && bits v 64 6 == 0 && bits v 152 8 == 0 && bits v 384 128 == 0
      && bits v 128 24 != 0) (s.putEntry i (s.newEntry i v))) := by
  simp (disch := omega) only [State.writeIo, among_of_mem, among_of_not_mem, if_true, Bool.false_eq_true, if_false, if_neg,
    Nat.add_sub_cancel_left]
  rfl

/-- The registers of the I/O die but for the outbound windows. -/
theorem written_io (h : IoReg s n v ok after) (hn : n < 0x908 ∨ 0x910 ≤ n) : Written s n v ok after := by
  cases h with
  | xroot i v hi => exact written_of (mgmtWrite_io (by omega) (by omega) (writeIo_xroot hi)) (by simp) fun _ => rfl
  | ageus i v hi => exact written_of (mgmtWrite_io (by omega) (by omega) (writeIo_ageus hi)) (by simp) fun _ => rfl
  | dumpctl v => exact written_of (mgmtWrite_io (by omega) (by omega) rfl) (by simp [at_eq_bits]) fun _ => rfl
  | spwin i v hi => exact written_of (mgmtWrite_io (by omega) (by omega) (writeIo_spwin hi)) (by simp [and_assoc]) fun _ => rfl
  | sretry v => exact written_of (mgmtWrite_io (by omega) (by omega) rfl) (by simp) fun _ => rfl
  | badrec v => exact ⟨fun _ => ⟨_, mgmtWrite_io (by omega) (by omega) rfl, rfl⟩, fun h => absurd trivial h⟩
  | obw i v hi => exact absurd hn (by omega)
  | arrival i v hi =>
    exact written_of (mgmtWrite_io (by omega) (by omega) (writeIo_arrival hi)) (by simp [and_assoc, at_eq_bits]) fun _ =>
      ⟨rfl, fun j hj => entryOf_putEntry_other s _ hj, fun b hb => by rw [entryOf_putEntry_same, newEntry_getLsbD _ _ _ hb]⟩

theorem written_row (h : MgmtRow s n v ok after) (hn : n < 0x908 ∨ 0x910 ≤ n) : Written s n v ok after := by
  cases h with
  | cluster h => exact written_cluster h
  | die h => exact written_die h
  | belfry h => exact written_belfry h
  | io h => exact written_io h hn

/-! ### Firmware's writes (R388, R401) -/

theorem p2Write_of_written (h : Written s n v ok after) :
    (ok → after (s.p2Write n v)) ∧ (¬ok → s.p2Write n v = s.mgmtLog (.refused n)) := by
  refine ⟨fun hok => ?_, fun hno => ?_⟩
  · obtain ⟨u, hu, ha⟩ := h.1 hok
    rw [State.p2Write, hu]
    exact ha
  · rw [State.p2Write, h.2 hno]

theorem p2Write_obw {i : Nat} (hi : i < 8) : s.p2Write (0x908 + i) v = match s.writeObw i v with
    | .refused => s.mgmtLog (.refused (0x908 + i))
    | .forbidden clamp => if clamp then s.mgmtLog (.clamp (0x908 + i)) else s
    | .done t => t := by
  rw [State.p2Write, mgmtWrite_io (by omega) (by omega) (writeIo_obw hi)]
  cases s.writeObw i v <;> rfl

/-- An outbound window: after the lock it can only be closed. -/
theorem writeObw_clear (h : Clear v [(2, 19), (96, 32)]) (i : Nat) :
    s.writeObw i v = if s.io.locked = true ∧ v.getLsbD 0 = true ∧ (v.setWidth 128 : BitVec 128) ≠ s.io.obw.getD i 0 then
        .forbidden true
      else .done (s.modIo fun x => { x with obw := x.obw.set i (v.setWidth 128) }) := by
  obtain ⟨h2, h96, -⟩ : bits v 2 19 = 0 ∧ bits v 96 32 = 0 ∧ Clear v [] := by simpa using h
  have h0 : (v.setWidth 128).getLsbD 0 = v.getLsbD 0 := by simp
  simp only [State.writeObw, h2, h96, h0, modAt_const, bne_self_eq_false, Bool.or_self, Bool.false_eq_true, if_false,
    Bool.and_eq_true, bne_iff_ne, and_assoc]

theorem writeObw_refused (h : ¬Clear v [(2, 19), (96, 32)]) (i : Nat) : s.writeObw i v = .refused := by
  refine if_pos ?_
  simpa [or_iff_not_imp_left] using h

theorem p2Write_row (h : MgmtRow s n v ok after) :
    (ok → after (s.p2Write n v)) ∧ (¬ok → s.p2Write n v = s.mgmtLog (.refused n)) := by
  cases h with
  | cluster h => exact p2Write_of_written (written_cluster h)
  | die h => exact p2Write_of_written (written_die h)
  | belfry h => exact p2Write_of_written (written_belfry h)
  | io h =>
    by_cases hn : n < 0x908 ∨ 0x910 ≤ n
    · exact p2Write_of_written (written_io h hn)
    · cases h with
      | obw i v hi =>
        refine ⟨fun hok => ?_, fun hno => ?_⟩
        · refine (p2Write_obw hi).trans ?_
          rw [writeObw_clear hok]
          by_cases hlock : s.io.locked = true ∧ v.getLsbD 0 = true ∧ (v.setWidth 128 : BitVec 128) ≠ s.io.obw.getD i 0
          · rw [if_pos hlock]
            exact (if_pos hlock).symm
          · rw [if_neg hlock]
            exact (if_neg hlock).symm
        · rw [p2Write_obw hi, writeObw_refused hno]
      | xroot | ageus | dumpctl | spwin | sretry | badrec | arrival => omega

/-! ### Registers that nothing writes (R388) -/

theorem p2Write_of_readOnly (h : ReadOnly n) : s.p2Write n v = s := by
  have hw : s.mgmtWrite n v = some (.forbidden false) := by
    rcases h with h | h | rfl | rfl | rfl
    · refine mgmtWrite_cluster ?_
      simp (disch := omega) only [State.writeCluster, among_of_mem, among_of_not_mem, if_true, Bool.false_eq_true, if_false]
    · refine mgmtWrite_die (by omega) ?_
      simp (disch := omega) only [State.writeDie, among_of_mem, among_of_not_mem, if_true, Bool.false_eq_true, if_false]
    · exact mgmtWrite_belfry (by omega) rfl
    · exact mgmtWrite_belfry (by omega) rfl
    · exact mgmtWrite_io (by omega) (by omega) rfl
  rw [State.p2Write, hw]
  rfl

theorem writeCluster_of_unread (h : s.readCluster n = none) : s.writeCluster n v = none := by
  unfold State.readCluster at h
  split_ifs at h with h1 h2 h3 h4
  rw [State.writeCluster, if_neg h1, if_neg h2, if_neg h3, if_neg h4]

theorem writeDie_of_unread (h : s.readDie n = none) : s.writeDie n v = none := by
  unfold State.readDie at h
  split_ifs at h with h1 h2 h3 h4 h5 h6 h7
  have h8 : ¬among n 0x404 8 = true := by
    rw [among_iff] at h6 h7 ⊢
    omega
  simp only [State.writeDie, if_neg h1, if_neg h2, if_neg h3, if_neg h4, if_neg h5, if_neg h8]

theorem writeBelfry_of_unread (h : s.readBelfry n = none) : s.writeBelfry n v = none := by
  unfold State.readBelfry at h
  split_ifs at h with h1 h2 h3 h4 h5 h6 h7 h8 h9 h10
  simp only [State.writeBelfry, if_neg h1, if_neg h2, if_neg h3, if_neg h4, if_neg h5, if_neg h6, if_neg h7, if_neg h8, if_neg h9,
    if_neg h10]

theorem unread_cons {c : Prop} [Decidable c] {a : Nat} {r : Option Nat}
    (h : (if c then some a else r) = none) :
    ¬c ∧ r = none := by
  split at h
  · exact nomatch h
  · next hc => exact ⟨hc, h⟩

theorem writeIo_of_unread (h : s.readIo n = none) : s.writeIo n v = none := by
  dsimp only [State.readIo] at h
  obtain ⟨h1, h⟩ := unread_cons h
  obtain ⟨h2, h⟩ := unread_cons h
  obtain ⟨h3, h⟩ := unread_cons h
  obtain ⟨h4, h⟩ := unread_cons h
  obtain ⟨h5, h⟩ := unread_cons h
  obtain ⟨h6, h⟩ := unread_cons h
  obtain ⟨h7, h⟩ := unread_cons h
  obtain ⟨h8, h⟩ := unread_cons h
  obtain ⟨h9, h⟩ := unread_cons h
  obtain ⟨h10, h⟩ := unread_cons h
  obtain ⟨h11, -⟩ := unread_cons h
  simp only [State.writeIo, if_neg h1, if_neg h2, if_neg h3, if_neg h4, if_neg h5, if_neg h6, if_neg h7, if_neg h8, if_neg h9,
    if_neg h10, if_neg h11]

/-- A number that names no register cannot be written. -/
theorem mgmtWrite_of_unread (h : s.mgmtRead n = none) (v : BitVec 512) : s.mgmtWrite n v = none := by
  obtain ⟨hcluster, h⟩ := (Option.orElse_eq_none _ _).1 h
  obtain ⟨hdie, h⟩ := (Option.orElse_eq_none _ _).1 h
  obtain ⟨hbelfry, hio⟩ := (Option.orElse_eq_none _ _).1 h
  rw [State.mgmtWrite, writeCluster_of_unread hcluster, writeDie_of_unread hdie, writeBelfry_of_unread hbelfry,
    writeIo_of_unread hio]
  rfl

theorem p2Write_of_unread (h : s.mgmtRead n = none) : s.p2Write n v = s := by
  rw [State.p2Write, mgmtWrite_of_unread h]

/-! ### The clamp block and `DUMPGO` (R372, R373, R401) -/

theorem p2Write_clamp (w : BitVec 512) : s.p2Write 0x900 w = match s.writeClamp w with
    | .refused => s.mgmtLog (.refused 0x900)
    | .forbidden clamp => if clamp then s.mgmtLog (.clamp 0x900) else s
    | .done t => t := by
  rw [State.p2Write, mgmtWrite_io (by omega) (by omega) (show s.writeIo 0x900 w = some (s.writeClamp w) from rfl)]
  cases s.writeClamp w <;> rfl

theorem p2Write_dumpgo (w : BitVec 512) (h : bits w 10 6 = 0) (h' : bits w 22 9 = 0) (hcore : bits w 0 10 ≤ 543) :
    s.p2Write 0x701 w = s.dumpGo (w.setWidth 32) := by
  have hw : s.mgmtWrite 0x701 w = some (.done (s.dumpGo (w.setWidth 32))) := by
    refine mgmtWrite_io (by omega) (by omega) ?_
    refine congrArg some (if_pos ?_)
    simp [h, h', hcore]
  rw [State.p2Write, hw]

end Sys2Proof.Machine
end

section
/-! SUPPORT. The mailbox and the control launch (R386 to R391; O59). -/

namespace Sys2Proof.Machine

variable {s : State}

/-! ### The response record (R387) -/

theorem extract_setBits_same {w : Nat} (v : BitVec w) {lo n : Nat} (x : Nat) (h : lo + n ≤ w) :
    (setBits v lo n x).extractLsb' lo n = BitVec.ofNat n x :=
  BitVec.eq_of_toNat_eq ((toNat_extract_setBits_same v x h).trans (BitVec.toNat_ofNat x n).symm)

/-- Results change nothing below the first of them. -/
theorem putResults_below (r : BitVec 1024) (k : Nat) (vs : List DWord) {lo n : Nat} (h : lo + n ≤ 64 * (k + 1))
    (hw : lo + n ≤ 1024) :
    (putResults r k vs).extractLsb' lo n = r.extractLsb' lo n := by
  induction vs generalizing r k with
  | nil => rfl
  | cons v vs ih => exact (ih _ _ (by omega)).trans (extract_setBits_other _ _ hw (.inl h))

theorem respond_resp (s : State) (rstat : Nat) (res : List DWord) : (s.respond rstat res).io.resp
    = setBits (setBits (putResults s.io.resp 0 res) 0 16 rstat) 32 32 (s.io.cmd.extractLsb' 32 32).toNat := rfl

theorem resp_respond (s : State) (rstat : Nat) (res : List DWord) :
    (s.respond rstat res).io.resp.extractLsb' 0 16 = BitVec.ofNat 16 rstat
      ∧ (s.respond rstat res).io.resp.extractLsb' 32 32 = s.io.cmd.extractLsb' 32 32
      ∧ (s.respond rstat res).io.resp.extractLsb' 16 16 = s.io.resp.extractLsb' 16 16 := by
  rw [respond_resp]
  refine ⟨?_, ?_, ?_⟩
  · rw [extract_setBits_other _ _ (by omega) (by omega), extract_setBits_same _ _ (by omega)]
  · rw [extract_setBits_same _ _ (by omega), BitVec.ofNat_toNat, BitVec.setWidth_eq]
  · rw [extract_setBits_other _ _ (by omega) (by omega), extract_setBits_other _ _ (by omega) (by omega),
      putResults_below _ _ _ (by omega) (by omega)]

theorem result_respond (s : State) (rstat : Nat) (v : DWord) (vs : List DWord) :
    (s.respond rstat (v :: vs)).io.resp.extractLsb' 64 64 = v := by
  rw [respond_resp, extract_setBits_other _ _ (by omega) (by omega), extract_setBits_other _ _ (by omega) (by omega), putResults,
    putResults_below _ _ _ (by omega) (by omega), extract_setBits_same _ _ (by omega), BitVec.ofNat_toNat, BitVec.setWidth_eq]

/-- A command is answered: nothing beside the I/O die changes, and of it only the response, the transfer area and the signals. -/
def Answered (s : State) (rstat : Nat) (t : State) : Prop :=
  { t with io := s.io } = s
    ∧ { t.io with resp := s.io.resp, xfer := s.io.xfer } = { s.io with msix := s.io.msix ++ [0] }
    ∧ t.io.resp.extractLsb' 0 16 = BitVec.ofNat 16 rstat ∧ t.io.resp.extractLsb' 32 32 = s.io.cmd.extractLsb' 32 32
    ∧ t.io.resp.extractLsb' 16 16 = s.io.resp.extractLsb' 16 16

theorem answered_respond (s : State) (rstat : Nat) (res : List DWord) : Answered s rstat (s.respond rstat res) :=
  ⟨rfl, rfl, resp_respond s rstat res⟩

/-- A command that stands in the record, is asked for, and may be served. -/
theorem command_asked {code : Nat} {boot : Bool} {k : State} (ha : s.io.asked = true) (ho : s.io.opc = code) :
    command code boot s k = .next (if s.io.fw || boot then k else s.respond 3 []) := by
  rw [command, if_pos ⟨ha, ho⟩]

theorem command_idle {code : Nat} {boot : Bool} {k : State} (h : s.io.asked = false) : command code boot s k = .next s := by
  rw [command, if_neg fun e => by rw [h] at e; exact Bool.false_ne_true e.1]

/-- No command is performed twice (R387). -/
theorem mailbox_idle {i : Instr}
    (hi : i = .mread ∨ i = .mwrite ∨ i = .jlset ∨ i = .jlstop ∨ i = .attest ∨ i = .mailboxUnknownCommand)
    (h : s.io.asked = false) : exec i s = .next s := by
  rcases hi with rfl | rfl | rfl | rfl | rfl | rfl
  · exact command_idle h
  · exact command_idle h
  · exact command_idle h
  · exact command_idle h
  · exact command_idle h
  · exact congrArg Host.Outcome.next (if_neg fun e => by rw [h] at e; exact Bool.false_ne_true e.1)

/-! ### MWRITE (R388) -/

section
variable (ha : s.io.asked = true) (ho : s.io.opc = 2) (hfw : s.io.fw = true)
include ha ho hfw

theorem mwrite_none (hn : (s.io.arg 0).toNat ≠ 0x200)
    (h : s.mgmtWrite (s.io.arg 0).toNat (s.io.value (s.io.arg 0).toNat) = none) : exec .mwrite s = .next (s.respond 2 []) := by
  refine (command_asked ha ho).trans ?_
  rw [hfw, Bool.true_or, if_pos rfl, if_neg hn, h]

theorem mwrite_refused (hn : (s.io.arg 0).toNat ≠ 0x200)
    (h : s.mgmtWrite (s.io.arg 0).toNat (s.io.value (s.io.arg 0).toNat) = some .refused) :
    exec .mwrite s = .next ((s.mgmtLog (.refused (s.io.arg 0).toNat)).respond 2 []) := by
  refine (command_asked ha ho).trans ?_
  rw [hfw, Bool.true_or, if_pos rfl, if_neg hn, h]

theorem mwrite_done (hn : (s.io.arg 0).toNat ≠ 0x200) {u : State}
    (h : s.mgmtWrite (s.io.arg 0).toNat (s.io.value (s.io.arg 0).toNat) = some (.done u)) :
    exec .mwrite s = .next (u.respond 0 []) := by
  refine (command_asked ha ho).trans ?_
  rw [hfw, Bool.true_or, if_pos rfl, if_neg hn, h]

theorem mwrite_row (hn : (s.io.arg 0).toNat ≠ 0x200) (hout : (s.io.arg 0).toNat < 0x908 ∨ 0x910 ≤ (s.io.arg 0).toNat) {ok : Prop}
    {after : State → Prop} (hrow : MgmtRow s (s.io.arg 0).toNat (s.io.value (s.io.arg 0).toNat) ok after) :
    (ok → ∃ u t, after u ∧ exec .mwrite s = .next t ∧ { t with io := u.io } = u
        ∧ { t.io with resp := u.io.resp } = { u.io with msix := u.io.msix ++ [0] } ∧ t.io.resp.extractLsb' 0 16 = 0)
      ∧ (¬ok → ∃ t, exec .mwrite s = .next t ∧ t.io.resp.extractLsb' 0 16 = 2
        ∧ t.io.mlog = s.io.mlog ++ [.refused (s.io.arg 0).toNat]) := by
  obtain ⟨hdone, hrefused⟩ := written_row hrow hout
  refine ⟨fun hok => ?_, fun hno => ?_⟩
  · obtain ⟨u, hu, hafter⟩ := hdone hok
    exact ⟨u, u.respond 0 [], hafter, mwrite_done ha ho hfw hn hu, rfl, rfl, (resp_respond u 0 []).1⟩
  · exact ⟨_, mwrite_refused ha ho hfw hn (hrefused hno), (resp_respond _ 2 []).1, rfl⟩

end

/-! ### Numbers in device memory -/

theorem leNat_append (xs ys : List Byte) : leNat (xs ++ ys) = leNat xs + 2 ^ (8 * xs.length) * leNat ys := by
  induction xs with
  | nil => simp [leNat]
  | cons x xs ih =>
    have hpow : 2 ^ (8 * (xs.length + 1)) = 256 * 2 ^ (8 * xs.length) := by rw [Nat.mul_succ, Nat.pow_add, Nat.mul_comm]
    rw [List.cons_append, leNat, ih, leNat, List.length_cons, hpow, Nat.mul_add, ← Nat.add_assoc, Nat.mul_assoc]

theorem leNat_lt (xs : List Byte) : leNat xs < 2 ^ (8 * xs.length) := by
  induction xs with
  | nil => simp [leNat]
  | cons x xs ih =>
    have hpow : 2 ^ (8 * (xs.length + 1)) = 256 * 2 ^ (8 * xs.length) := by rw [Nat.mul_succ, Nat.pow_add, Nat.mul_comm]
    have hx := x.isLt
    rw [leNat, List.length_cons, hpow]
    omega

theorem devBytesAt_length (s : State) (a n : Nat) : (s.devBytesAt a n).length = n := by simp [State.devBytesAt]

theorem devBytesAt_add (s : State) (a n m : Nat) : s.devBytesAt a (n + m) = s.devBytesAt a n ++ s.devBytesAt (a + n) m := by
  simp only [State.devBytesAt, List.range_add, List.map_append, List.map_map]
  refine congrArg _ (List.map_congr_left fun i _ => ?_)
  simp only [Function.comp_apply, Nat.add_assoc]

/-- A field of whole bytes of a number in device memory is the number that stands there. -/
theorem devNat_field (s : State) (a lo n m : Nat) :
    s.devNat a (lo + n + m) / 2 ^ (8 * lo) % 2 ^ (8 * n) = s.devNat (a + lo) n := by
  have hlow : leNat (s.devBytesAt a lo) < 2 ^ (8 * lo) := by
    have := leNat_lt (s.devBytesAt a lo)
    rwa [devBytesAt_length] at this
  have hmid : leNat (s.devBytesAt (a + lo) n) < 2 ^ (8 * n) := by
    have := leNat_lt (s.devBytesAt (a + lo) n)
    rwa [devBytesAt_length] at this
  rw [State.devNat, Nat.add_assoc, devBytesAt_add, devBytesAt_add, leNat_append, leNat_append, devBytesAt_length,
    devBytesAt_length, Nat.add_mul_div_left _ _ (Nat.two_pow_pos _), Nat.div_eq_of_lt hlow, Nat.zero_add, Nat.add_mul_mod_self_left,
    Nat.mod_eq_of_lt hmid]
  rfl

theorem bits_ofNat (x : Nat) {lo n : Nat} (h : lo + n ≤ 512) : bits (BitVec.ofNat 512 x) lo n = x / 2 ^ lo % 2 ^ n := by
  rw [bits, BitVec.extractLsb'_toNat, BitVec.toNat_ofNat, Nat.shiftRight_eq_div_pow]
  refine Nat.eq_of_testBit_eq fun i => ?_
  simp only [Nat.testBit_mod_two_pow, Nat.testBit_div_two_pow]
  by_cases hi : i < n
  · simp [hi, show lo + i < 512 by omega, Nat.add_comm]
  · simp [hi]

theorem jobList_head (s : State) (a : Nat) : (s.jobList a).1.head = s.devNat (a + 8) 8 :=
  (bits_ofNat _ (by omega)).trans (devNat_field s a 8 8 48)

/-- A number written to device memory reads back. -/
theorem devNat_devWriteNat {a v : Nat} (h : a + 8 ≤ devBytes) (s : State) : (s.devWriteNat a 8 v).devNat a 8 = v % 2 ^ 64 := by
  have hbytes : (s.devWriteNat a 8 v).devBytesAt a 8 = leBytes 8 v := by
    refine List.ext_getElem (by simp [State.devBytesAt]) fun i h1 h2 => ?_
    have hi : i < 8 := by simpa using h2
    have hlt : a + i < devBytes := by omega
    have hsub : min (devBytes - a) 8 = 8 := by omega
    simp [State.devBytesAt, State.devWriteNat, State.devWrite, Memory.read_writeBytes, hlt, hsub, hi]
  rw [State.devNat, hbytes, leNat_leBytes, show 256 ^ 8 = 2 ^ 64 by norm_num]

/-! ### Jobs (R390) -/

theorem byteAt_nextJob (k : Control) (u : State) (q : Phys) : (u.nextJob k).byteAt q
    = (lastByte [(⟨.dev, u.io.jlBase + 8⟩, leBytes 8 (k.seen + 1).toNat)] q).getD (u.byteAt q) := by
  rw [← byteAt_physWrites]
  unfold State.nextJob
  split <;> rfl

theorem nextJob_eq (k : Control) (u : State) : u.nextJob k = { u with
    mem := (u.devWriteNat (u.io.jlBase + 8) 8 (k.seen + 1).toNat).mem
    io := { u.io with
      jlhead := k.seen + 1
      control := if k.stopping = true then none else some ⟨k.seen + 1, k.tail, false, none⟩
      jladdr := if k.stopping = true then u.io.jladdr &&& ~~~(BitVec.twoPow 64 63) else u.io.jladdr } } := by
  unfold State.nextJob
  by_cases hs : k.stopping = true
  · simp only [if_pos hs]
    rfl
  · rw [Bool.eq_false_iff.2 hs]
    rfl

theorem jobDone_nextJob (k : Control) (u : State) : JobDone k u (u.nextJob k) := by
  have hmem := byteAt_nextJob k u
  rw [nextJob_eq] at hmem ⊢
  exact ⟨rfl, rfl, rfl, hmem, rfl, rfl⟩

/-- The record that the control launch is on is performed by the event of its operation. -/
theorem jobEvent_on {k : Control} {j : Job} (hj : s.job = some (k, j, false)) (hk : k.fault = none) (hok : j.ok = true) {op : Nat}
    (hop : j.op = op) (f : Control → Job → State) : jobEvent op s f = .next (f k j) := by
  simp [jobEvent, hj, hk, hok, hop]

theorem exec_jobLaunch {k : Control} {j : Job} (hj : s.job = some (k, j, false)) (hk : k.fault = none) (hok : j.ok = true)
    (hop : j.op = 1) (ha : j.arg.toNat % 256 = 0) {u : State} (hu : s.launchRecord jobReader 0 0 j.arg j.b 0 0 = .done u) :
    exec .jobLaunch s = .next (u.nextJob k) := by
  refine (jobEvent_on hj hk hok hop _).trans (congrArg Host.Outcome.next ?_)
  simp only [ha, hu, ne_eq, not_true_eq_false, if_false]

theorem jobCancel_eq {k : Control} {j : Job} (hj : s.job = some (k, j, false)) (hk : k.fault = none)
    (hok : j.ok = true) {op : Nat}
    (hop : j.op = op) (ha : j.arg.toNat % 32 = 0) {trap : Bool} {u : State}
    (hu : s.cancelCounter jobReader 0 j.arg trap 0 0 = .ok u) : jobCancel op trap s = .next (u.nextJob k) := by
  refine (jobEvent_on hj hk hok hop _).trans (congrArg Host.Outcome.next ?_)
  simp only [ha, hu, ne_eq, not_true_eq_false, if_false]

/-- A bad record (R390). -/
theorem exec_jobRecordSkip {k : Control} {j : Job} (hj : s.job = some (k, j, false)) (hok : j.ok = false) :
    exec .jobRecordSkip s = .next (s.skipJob k) := by
  refine congrArg Host.Outcome.next ?_
  rw [hj]
  exact if_pos (by simp [hok])

theorem skipJob_eq {k : Control} (hs : k.stopping = false) : s.skipJob k
    = (s.devWriteNat (s.io.jlBase + 8) 8 (k.seen + 1).toNat).modIo fun x => { x with
        badrec := if x.badrec = 0xFFFFFFFF then x.badrec else x.badrec + 1
        jlhead := k.seen + 1, control := some ⟨k.seen + 1, k.tail, k.stopping, none⟩ } := by
  rw [State.skipJob, State.nextJob, hs]
  rfl

/-- `BADREC` never falls. -/
theorem badrec_rises (b : Word) : b.toNat ≤ (if b = 0xFFFFFFFF then b else b + 1).toNat := by
  split
  · exact le_refl _
  · next h =>
    have hne : b.toNat ≠ 0xFFFFFFFF := fun e => h (BitVec.eq_of_toNat_eq e)
    bv_omega

/-- A job record by its bits (R390). -/
theorem jobOf_ok (v : BitVec 512) : (jobOf v).ok = true
    ↔ v.extractLsb' 8 56 = 0 ∧ v.extractLsb' 128 384 = 0 ∧ 1 ≤ (jobOf v).op ∧ (jobOf v).op ≤ 3 := by
  have hzero : ∀ lo n, bits v lo n = 0 ↔ v.extractLsb' lo n = 0 := fun lo n =>
    ⟨fun e => BitVec.eq_of_toNat_eq e, fun e => congrArg BitVec.toNat e⟩
  have hop : ∀ x : Nat, ((x = 1 ∨ x = 2) ∨ x = 3) ↔ 1 ≤ x ∧ x ≤ 3 := fun x => by omega
  simp only [jobOf, Bool.and_eq_true, Bool.or_eq_true, beq_iff_eq, hzero, hop, and_assoc]

theorem jobOf_b (v : BitVec 512) : (jobOf v).b.toNat = (v.extractLsb' 4 3).toNat + 8 * (v.getLsbD 7).toNat := by
  have h7 : bits v 7 1 = (v.getLsbD 7).toNat := bits_bit v 7
  have h4 : bits v 4 3 < 2 ^ 3 := (v.extractLsb' 4 3).isLt
  have hbit : (v.getLsbD 7).toNat ≤ 1 := Bool.toNat_le _
  have hb : (jobOf v).b.toNat = (8 * bits v 7 1 + bits v 4 3) % 2 ^ 32 := BitVec.toNat_ofNat _ _
  rw [hb, h7, Nat.mod_eq_of_lt (by omega), Nat.add_comm]
  rfl

theorem job_of_ring {k : Control} (hk : s.io.control = some k) (hh : s.belfry.halted = false) (hlt : k.seen.toNat < k.tail.toNat)
    {list : JobList} (hlist : list = (s.jobList s.io.jlBase).1) :
    ∃ i, (k.tail.toNat ≤ k.seen.toNat + 2 ^ list.jlog → i = k.seen.toNat % 2 ^ list.jlog) ∧ i < 2 ^ list.jlog
      ∧ s.job = some (k, jobOf (BitVec.ofNat 512 (s.devNat (list.jbase + 64 * i) 64)), s.physBad ⟨.dev, list.jbase + 64 * i⟩ 64) := by
  have htail : s.jobTail k = k.tail.toNat := if_pos hlt
  have hself : ({ k with tail := BitVec.ofNat 64 k.tail.toNat } : Control) = k := by rw [BitVec.ofNat_toNat, BitVec.setWidth_eq]
  refine ⟨(if k.seen.toNat + 2 ^ list.jlog < k.tail.toNat then Config.overrunSlot k.seen.toNat k.tail.toNat else k.seen.toNat)
    % 2 ^ list.jlog, fun hfit => by rw [if_neg (by omega)], Nat.mod_lt _ (Nat.two_pow_pos _), ?_⟩
  rw [State.job, hk]
  simp only [hh, htail, decide_eq_false (Nat.not_le.2 hlt), Bool.or_self, Bool.false_eq_true, if_false, hself, ← hlist]

end Sys2Proof.Machine
end

section
/-! The mailbox, firmware's registers and the control launch (O59). -/

namespace Sys2Proof.Machine

variable {s : State}

/-! ### Commands (R387 to R389, R403) -/

section
variable (ha : s.io.asked = true)
include ha

theorem mread_some {v : Nat} (ho : s.io.opc = 1) (h : s.mgmtRead (s.io.arg 0).toNat = some v) :
    ∃ t, exec .mread s = .next t ∧ Answered s 0 t ∧ t.io.resp.extractLsb' 64 64 = BitVec.ofNat 64 v := by
  obtain ⟨k, hk⟩ : ∃ k, mgmtWords (s.io.arg 0).toNat = k + 1 := by
    unfold mgmtWords
    split
    · exact ⟨_, rfl⟩
    · split <;> exact ⟨_, rfl⟩
  have hexec : exec .mread s = .next (s.respond 0 (wordsOf v (k + 1))) := by
    refine (command_asked ha ho).trans ?_
    rw [Bool.or_true, if_pos rfl, h, hk]
  exact ⟨_, hexec, answered_respond _ _ _, result_respond _ _ _ _⟩

theorem mread_none (ho : s.io.opc = 1) (h : s.mgmtRead (s.io.arg 0).toNat = none) : exec .mread s = .next (s.respond 2 []) := by
  refine (command_asked ha ho).trans ?_
  rw [Bool.or_true, if_pos rfl, h]

/-- Before firmware starts, the boot ROM takes the clamp block and the outbound windows only (R386). -/
theorem mwrite_boot (ho : s.io.opc = 2) (hfw : s.io.fw = false) (h9 : (s.io.arg 0).toNat ≠ 0x900)
    (hout : (s.io.arg 0).toNat < 0x908 ∨ 0x910 ≤ (s.io.arg 0).toNat) : exec .mwrite s = .next (s.respond 3 []) := by
  have hboot : bootWritable (s.io.arg 0).toNat = false := by
    rw [bootWritable, among_of_not_mem hout, beq_eq_false_iff_ne.2 h9, Bool.or_self]
  refine (command_asked ha ho).trans ?_
  rw [hfw, hboot]
  rfl

theorem mwrite_root (ho : s.io.opc = 2) (hfw : s.io.fw = true) (hn : (s.io.arg 0).toNat = 0x200) :
    exec .mwrite s = .next (s.respond 3 []) := by
  refine (command_asked ha ho).trans ?_
  rw [hfw, Bool.true_or, if_pos rfl, if_pos hn]

theorem command_served {code : Nat} {boot : Bool} {k : State} (ho : s.io.opc = code) (hfw : s.io.fw = true) :
    command code boot s k = .next k := by
  rw [command_asked ha ho, hfw, Bool.true_or, if_pos rfl]

theorem jlset_busy (ho : s.io.opc = 3) (hfw : s.io.fw = true)
    (h : s.io.control ≠ none) :
    exec .jlset s = .next (s.respond 4 []) := by
  refine (command_served ha ho hfw).trans (congrArg Host.Outcome.next (if_pos ?_))
  rw [Option.isSome_iff_ne_none.2 h, Bool.true_or]

theorem jlset_taken (ho : s.io.opc = 3) (hfw : s.io.fw = true) (h : s.io.control = none)
    (hck : s.belfry.ckpt ≠ 1 ∨ s.belfry.restoring2 = false) (hn : (s.io.arg 0).toNat % 64 = 0)
    (hdev : (s.io.arg 0).toNat < devBytes)
    (hbad : s.physBad ⟨.dev, (s.io.arg 0).toNat⟩ 64 = false) (hlist : (s.jobList (s.io.arg 0).toNat).2 = true) :
    exec .jlset s = .next ((s.modIo fun x => { x with
      jladdr := BitVec.ofNat 64 (2 ^ 63 + (s.io.arg 0).toNat)
      jlhead := BitVec.ofNat 64 (s.devNat ((s.io.arg 0).toNat + 8) 8)
      control := some ⟨BitVec.ofNat 64 (s.devNat ((s.io.arg 0).toNat + 8) 8),
        BitVec.ofNat 64 (s.devNat ((s.io.arg 0).toNat + 8) 8), false, none⟩ }).respond 0 []) := by
  have hfree : ¬(s.io.control.isSome || (s.belfry.ckpt == 1 && s.belfry.restoring2)) = true := by
    rcases hck with hck | hck <;> simp [h, hck]
  have hgood : ¬((s.io.arg 0).toNat % 64 ≠ 0 ∨ devBytes ≤ (s.io.arg 0).toNat ∨ s.physBad ⟨.dev, (s.io.arg 0).toNat⟩ 64 = true
      ∨ (s.jobList (s.io.arg 0).toNat).2 = false) := by
    simp [hn, hbad, hlist, hdev]
  refine (command_served ha ho hfw).trans (congrArg Host.Outcome.next ?_)
  rw [if_neg hfree, if_neg hgood, jobList_head]

theorem jlstop_between (ho : s.io.opc = 4) (hfw : s.io.fw = true) (h : ∀ k, s.io.control = some k → k.fault = none) :
    ∃ t, exec .jlstop s = .next t ∧ { t with io := s.io } = s ∧ t.io.control = none
      ∧ t.io.resp.extractLsb' 0 16 = 0 ∧ t.io.resp.extractLsb' 64 64 = s.io.jlhead := by
  cases hk : s.io.control with
  | none =>
    refine ⟨s.respond 0 [s.io.jlhead], (command_served ha ho hfw).trans ?_, rfl, hk, (resp_respond _ _ _).1,
      result_respond _ _ _ _⟩
    rw [hk]
  | some k =>
    refine ⟨s.jobsOver.respond 0 [s.io.jlhead], (command_served ha ho hfw).trans ?_, rfl, rfl, (resp_respond _ _ _).1,
      result_respond _ _ _ _⟩
    simp [hk, h k hk]

theorem jlstop_busy {k : Control} (ho : s.io.opc = 4) (hfw : s.io.fw = true) (hk : s.io.control = some k) (h : k.fault ≠ none) :
    exec .jlstop s = .next { s with io := { s.io with control := some { k with stopping := true } } } := by
  refine (command_served ha ho hfw).trans (congrArg Host.Outcome.next ?_)
  rw [hk]
  exact if_pos (Option.isSome_iff_ne_none.2 h)

theorem exec_attest (ho : s.io.opc = 5) (hfw : s.io.fw = true) :
    ∃ t, exec .attest s = .next t ∧ Answered s 0 t ∧ t.io.resp.extractLsb' 64 64 = BitVec.ofNat 64 s.report.length
      ∧ t.io.xfer = s.io.xfer.writeBytes xferBase (s.report.take xferBytes) := by
  obtain ⟨m, hm⟩ : ∃ m, m = s.io.xfer.writeBytes xferBase (s.report.take xferBytes) := ⟨_, rfl⟩
  have hexec : exec .attest s = .next ((s.modIo fun x => { x with xfer := m }).respond 0 [BitVec.ofNat 64 s.report.length]) := by
    rw [show exec .attest s = execAttest s from rfl, execAttest, command_served ha ho hfw]
    simp only [State.modIo, ← hm]
  exact ⟨_, hexec, ⟨rfl, rfl, resp_respond _ _ _⟩, result_respond _ _ _ _, hm⟩

theorem unknownCommand (ho : s.io.opc = 0 ∨ 6 ≤ s.io.opc) :
    exec .mailboxUnknownCommand s = .next (s.respond (if s.io.fw then 1 else 3) []) := by
  refine congrArg Host.Outcome.next (if_pos ⟨ha, ?_⟩)
  rw [among_of_not_mem (by omega)]
  rfl

end

theorem report_read {i : Nat} (h : i < s.report.length) (hx : i < xferBytes) (m : Memory) :
    (m.writeBytes xferBase (s.report.take xferBytes)).read (xferBase + i) = s.report.getD i 0 := by
  have hin : xferBase ≤ xferBase + i ∧ xferBase + i < xferBase + (s.report.take xferBytes).length := by
    rw [List.length_take]
    omega
  rw [Memory.read_writeBytes, if_pos hin]
  simp [h, hx]

/-! ### The clamp block and `DUMPGO` (R372, R373, R401) -/

theorem bits_setWidth {w : Nat} (v : BitVec w) {lo n : Nat} (h : lo + n ≤ 512) :
    bits (v.setWidth 512) lo n = (v.extractLsb' lo n).toNat := by
  refine congrArg BitVec.toNat (BitVec.eq_of_getLsbD_eq fun i hi => ?_)
  simp only [BitVec.getLsbD_extractLsb', BitVec.getLsbD_setWidth, hi, show lo + i < 512 by omega, decide_true, Bool.true_and]

theorem exec_clampBlockWrite {v : DWord} (h23 : v.getLsbD 23 = false) (h31 : v.getLsbD 31 = false) (h44 : v.extractLsb' 44 20 = 0)
    (htrip : 100 ≤ (v.extractLsb' 24 7).toNat) :
    exec (.clampBlockWrite v) s = .next (if s.io.pkglim < (v.extractLsb' 0 16).toNat ∨
        s.io.slewlim < max 1 (v.extractLsb' 16 7).toNat
        ∨ s.io.ttrip < (v.extractLsb' 24 7).toNat ∨ v.extractLsb' 32 12 &&& ~~~s.io.spmask ≠ 0 then s.mgmtLog (.clamp 0x900)
      else { s with
        io := { s.io with
          pkglim := (v.extractLsb' 0 16).toNat, slewlim := max 1 (v.extractLsb' 16 7).toNat
          ttrip := (v.extractLsb' 24 7).toNat, spmask := v.extractLsb' 32 12 }
        clusters := s.clusters.map fun k => { k with
          up := min k.up (max 1 (v.extractLsb' 16 7).toNat), down := min k.down (max 1 (v.extractLsb' 16 7).toNat) } }) := by
  have hbit : ∀ b < 64, (v.setWidth 512).getLsbD b = v.getLsbD b := fun b hb => by
    rw [BitVec.getLsbD_setWidth, decide_eq_true (by omega), Bool.true_and]
  have hmask : BitVec.ofNat 12 (v.extractLsb' 32 12).toNat = v.extractLsb' 32 12 := by rw [BitVec.ofNat_toNat, BitVec.setWidth_eq]
  have hok : ¬(v.getLsbD 23 || v.getLsbD 31 || (v.extractLsb' 44 20).toNat != 0
      || decide ((v.extractLsb' 24 7).toNat < 100)) = true := by
    rw [h23, h31, h44, decide_eq_false (Nat.not_lt.2 htrip)]
    simp
  refine congrArg Host.Outcome.next ((p2Write_clamp (v.setWidth 512)).trans ?_)
  simp only [State.writeClamp, atLeast1, hbit 23 (by omega), hbit 31 (by omega), bits_setWidth v (show 0 + 16 ≤ 512 by omega),
    bits_setWidth v (show 16 + 7 ≤ 512 by omega), bits_setWidth v (show 24 + 7 ≤ 512 by omega),
    bits_setWidth v (show 32 + 12 ≤ 512 by omega), bits_setWidth v (show 44 + 20 ≤ 512 by omega), hmask, if_neg hok]
  split_ifs <;> rfl

theorem exec_dumpgoWrite {v : Word} (h10 : v.extractLsb' 10 6 = 0) (h22 : v.extractLsb' 22 9 = 0)
    (hcore : (v.extractLsb' 0 10).toNat ≤ 543) : exec (.dumpgoWrite v) s = .next (s.dumpGo v) := by
  have hself : ((v.setWidth 512).setWidth 32 : Word) = v := by simp
  refine congrArg Host.Outcome.next ((p2Write_dumpgo _ ?_ ?_ ?_).trans (congrArg s.dumpGo hself))
  · rw [bits_setWidth v (by omega), h10]
    rfl
  · rw [bits_setWidth v (by omega), h22]
    rfl
  · rwa [bits_setWidth v (by omega)]

theorem dumpGo_none {v : Word} (h31 : v.getLsbD 31 = true)
    (h : s.groups.find? (fun x => x.core == (v.extractLsb' 0 10).toNat
      && x.waves.any fun w => w.wslot == (v.extractLsb' 16 6).toNat) = none) :
    s.dumpGo v = { s with io := { s.io with
      mlog := s.io.mlog ++ [.noWave (v.extractLsb' 0 10).toNat (v.extractLsb' 16 6).toNat] } } := by
  simp only [State.dumpGo, h31, h, Bool.not_true, Bool.false_eq_true, if_false]
  rfl

theorem dumpGo_some {v : Word} {g : Group} (h31 : v.getLsbD 31 = true)
    (h : s.groups.find? (fun x => x.core == (v.extractLsb' 0 10).toNat
      && x.waves.any fun w => w.wslot == (v.extractLsb' 16 6).toNat) = some g)
    (hfits : s.dumpFits = true) (hroom : (s.die g.die).dumps.length < 17) (hnew : ∀ d ∈ (s.die g.die).dumps, d.group ≠ g.id) :
    s.dumpGo v = s.modDie g.die fun d => { d with dumps := d.dumps ++ [⟨g.id, 0, none, false, 0, []⟩] } := by
  have hfree : s.dumpRoom g.die g.id = true := by simp [State.dumpRoom, hroom]
  have hno : ¬((s.die g.die).dumps.any fun d => d.group == g.id) = true := by simpa using hnew
  simp only [State.dumpGo, h31, h, hfits, hfree, Bool.not_true, Bool.false_eq_true, if_false, Bool.and_self, if_true,
    State.requestDump, if_neg hno]

/-! ### The statement -/

/-- A job's event answers nothing while no control launch runs (R389). -/
theorem job_idle {i : Instr} (hi : i = .jobLaunch ∨ i = .jobCancelDrain ∨ i = .jobCancelTrap ∨ i = .jobRecordSkip)
    (h : s.io.control = none) : exec i s = .next s := by
  have hjob : s.job = none := by rw [State.job, h]
  rcases hi with rfl | rfl | rfl | rfl
  · exact congrArg Host.Outcome.next (by rw [hjob])
  · exact congrArg Host.Outcome.next (by rw [hjob])
  · exact congrArg Host.Outcome.next (by rw [hjob])
  · exact congrArg Host.Outcome.next (by rw [hjob])

/-- Settles O59: a command is answered by `respond`, a register's write is the one of its row, and a job runs the launch or the
`cancel` that `launchDoes_of` and `cancelDoes_of` are about. -/
theorem mailboxEvents : Obligations.MailboxEvents := by
  unfold Obligations.MailboxEvents
  refine ⟨fun s i hi h => mailbox_idle hi (bne_eq_false_iff_eq.2 h), fun s h => ?_,
    fun s n v hfw => congrArg Host.Outcome.next (if_neg (by rw [hfw]; exact Bool.false_ne_true)),
    fun s n v ok after hfw hrow => ?_,
    fun s n v hfw h => ?_, fun s v h23 h31 h44 => ?_, fun s v g h31 h10 h22 => ?_, fun s i hi h => job_idle hi h,
    fun s k hk hh hlt => ?_, fun s k j hj hk => ⟨fun hok hop ha => ?_, fun hok ha => ⟨fun hop => ?_, fun hop => ?_⟩,
    fun hok hbase hs => ?_⟩⟩
  · have ha : s.io.asked = true := bne_iff_ne.2 h
    intro opc n answers result
    refine ⟨fun ho v hv _ => ?_, fun ho hv => ⟨_, mread_none ha ho hv, answered_respond ..⟩,
      fun ho hfw h9 hout => ⟨_, mwrite_boot ha ho hfw h9 hout, answered_respond ..⟩,
      fun ho hfw hn => ⟨_, mwrite_root ha ho hfw hn, answered_respond ..⟩,
      fun ho hfw hn hnone => ⟨_, mwrite_none ha ho hfw hn hnone, answered_respond ..⟩,
      fun ho hfw hn u hu hio => ?_, fun ho hfw hn hout ok after hrow => mwrite_row ha ho hfw hn hout hrow,
      fun ho hfw hcontrol => ⟨_, jlset_busy ha ho hfw hcontrol, answered_respond ..⟩,
      fun ho hfw hcontrol hck h64 hdev hbad hlist => ⟨_, jlset_taken ha ho hfw hcontrol hck h64 hdev hbad hlist, rfl, rfl, rfl,
        rfl, (resp_respond _ _ _).1⟩, fun ho hfw hfault => jlstop_between ha ho hfw hfault,
      fun ho hfw k hk hfault => jlstop_busy ha ho hfw hk hfault, fun ho hfw => ?_,
      fun ho => ⟨_, unknownCommand ha ho, answered_respond ..⟩⟩
    · obtain ⟨t, hexec, hanswer, hresult⟩ := mread_some ha ho hv
      exact ⟨⟨t, hexec, hanswer⟩, t, hexec, hresult⟩
    · refine ⟨u.respond 0 [], mwrite_done ha ho hfw hn hu, ?_, (resp_respond u 0 []).1, ?_⟩
      · rw [← hio]
        rfl
      · rw [(resp_respond u 0 []).2.1, hio]
    · obtain ⟨t, hexec, hanswer, hresult, hxfer⟩ := exec_attest ha ho hfw
      exact ⟨⟨t, hexec, hanswer⟩, ⟨t, hexec, hresult⟩, t, hexec, fun i hi hx => hxfer ▸ report_read hi hx _⟩
  · obtain ⟨hdone, hrefused⟩ := p2Write_row hrow
    refine ⟨fun hok => ⟨_, congrArg Host.Outcome.next (if_pos hfw), hdone hok⟩, fun hno => ?_⟩
    exact congrArg Host.Outcome.next ((if_pos hfw).trans (hrefused hno))
  · refine congrArg Host.Outcome.next ((if_pos hfw).trans ?_)
    exact h.elim p2Write_of_readOnly p2Write_of_unread
  · intro pkg slew trip mask htrip
    rw [exec_clampBlockWrite h23 h31 h44 htrip]
    refine ⟨fun ⟨hpkg, hslew, htr, hmask⟩ => congrArg Host.Outcome.next (if_neg ?_),
      fun hbad => congrArg Host.Outcome.next (if_pos hbad)⟩
    rintro (h | h | h | h)
    · exact absurd hpkg (Nat.not_le.2 h)
    · exact absurd hslew (Nat.not_le.2 h)
    · exact absurd htr (Nat.not_le.2 h)
    · exact h hmask
  · intro core wslot hcore
    rw [exec_dumpgoWrite h10 h22 hcore]
    refine ⟨fun hnone => congrArg Host.Outcome.next (dumpGo_none h31 hnone), fun hsome hfits hroom hnew hlt => ?_⟩
    refine ⟨_, congrArg Host.Outcome.next (dumpGo_some h31 hsome hfits hroom hnew), rfl, ?_⟩
    rw [State.die, State.modDie_own, modAt_getD, if_pos ⟨rfl, hlt⟩]
    rfl
  · obtain ⟨i, hi, hlt, hjob⟩ := job_of_ring hk hh hlt rfl
    exact ⟨i, _, hi, hlt, hjob, rfl, rfl, jobOf_b _, jobOf_ok _⟩
  · exact launchDoes_of (core := 0) (wslot := 0) fun u hu => ⟨_, exec_jobLaunch hj hk hok hop ha hu, jobDone_nextJob k u⟩
  · exact cancelDoes_of (core := 0) (wslot := 0) fun u hu => ⟨_, jobCancel_eq hj hk hok hop ha hu, jobDone_nextJob k u⟩
  · exact cancelDoes_of (core := 0) (wslot := 0) fun u hu => ⟨_, jobCancel_eq hj hk hok hop ha hu, jobDone_nextJob k u⟩
  · refine ⟨_, exec_jobRecordSkip hj hok, ?_⟩
    rw [skipJob_eq hs]
    refine ⟨badrec_rises _, fun h => if_neg h, rfl, ?_, rfl⟩
    exact (devNat_devWriteNat (by omega) s).trans (Nat.mod_eq_of_lt (k.seen + 1).isLt)

end Sys2Proof.Machine
end
